-- ==== Sys2Proof/Word.lean ====
section
/-! DEFINITION. The word types of the Hexvar (R3, R4, R65, R66) and the one sparse-table shape that State uses. -/
namespace Sys2Proof

/-- A general register or an address while it is computed (R65). -/
abbrev Word := BitVec 64

/-- A byte of memory (R4). -/
abbrev Byte := BitVec 8

/-- A ticket register or its 64-byte image (R299). -/
abbrev Ticket := BitVec 512

/-- A table by number: strictly rising keys, and no entry equal to the default of the field it stands for. -/
abbrev Sparse (α : Type) := List (Nat × α)

end Sys2Proof
end

