-- ==== Sys2Proof/Syntax.lean ====
section
/-! DEFINITION. The instruction set as syntax (R39 to R54): one constructor per row of the opcode table, with the
register files, widths, spaces and codes of R46 to R52 as types. A row without an encoding is an indivisible step of
the machine that no word names; its constructor carries what the step acts on. -/
namespace Sys2Proof

/-- A general register g0 to g31 (R65). -/
abbrev GReg := Fin 32
/-- A predicate p0 to p7 (R65). -/
abbrev PReg := Fin 8
/-- A vector register v0 to v31 (R66). -/
abbrev VecReg := Fin 32
/-- A mask m0 to m7 (R66). -/
abbrev MReg := Fin 8
/-- A validity register q0 to q3 (R66). -/
abbrev QReg := Fin 4
/-- A stream register st0 to st7 (R67). -/
abbrev StReg := Fin 8
/-- A ticket register tk0 to tk15 (R65). -/
abbrev TkReg := Fin 16
/-- A completion counter cn0 to cn15 (R48). -/
abbrev CnReg := Fin 16
/-- A soundboard tile sb0 to sb15 (R48). -/
abbrev Tile := Fin 16

/-- The guard fields of the R and B formats (R47): the word takes effect when p[pr] xor pn is 1. -/
structure Guard where
  pr : PReg
  pn : Bool
  deriving DecidableEq, Repr

/-- Operand widths of the R format, in the order of their codes (R52). -/
inductive Width | w64 | w32 | w16 | w8
  deriving DecidableEq, Repr

/-- Integer element widths of the V format, in the order of their codes (R52). -/
inductive EW | e8 | e16 | e32 | e64
  deriving DecidableEq, Repr

/-- Floating element types of the V format, in the order of their codes (R52). -/
inductive FEW | bf16 | fp16 | fp32
  deriving DecidableEq, Repr

/-- Address spaces (R46). -/
inductive Space | loc | clu | vir
  deriving DecidableEq, Repr

/-- Load sizes (R51); the natural ones extend with zeros. -/
inductive LdSize | b | h | w | d | bn | hn | wn
  deriving DecidableEq, Repr

/-- Store sizes (R51). -/
inductive StSize | b | h | w | d
  deriving DecidableEq, Repr

/-- Sizes of the AMO words (R51). -/
inductive AmoSize | w | d
  deriving DecidableEq, Repr

/-- FENCE scopes (R51). -/
inductive Scope | strand | core | cluster | partition | ensemble
  deriving DecidableEq, Repr

/-- Roundings of VCVT, VDQNT and VRNDI (R51). -/
inductive Rnd | dyn | rne | rtz | rdn | rup | rst
  deriving DecidableEq, Repr

/-- Vector-group sizes (R51). -/
inductive Grp | n1 | n2 | n4 | n8
  deriving DecidableEq, Repr

/-- The kind of a reduction or scan (R151) with its element type. -/
inductive RedT | sint (e : EW) | uint (e : EW) | flt (e : FEW)
  deriving DecidableEq, Repr

/-- The operation of VSCAN (R151). -/
inductive ScanOp | sum | max | min
  deriving DecidableEq, Repr

/-- The four directions of the site mesh (R302). -/
inductive Dir | n | e | s | w
  deriving DecidableEq, Repr

/-- An inbound network message as the RoCEv2 transport delivers it to a queue pair (R277). -/
structure NetMsg where
  /-- 0 SEND, 1 WRITE, 2 READ, 3 a congestion notification. -/
  op : Nat
  rkey : Nat
  offset : Nat
  len : Nat
  data : List Byte
  /-- A switch's ECN mark (R277). -/
  ecn : Bool := false
  /-- The binding that a packet already past the ticket check was found to have (R276). -/
  pass : Option Ticket := none
  deriving DecidableEq, Repr

/-- What the time fabric loads at a time lock (R336): the ensemble's ENCY, the measured link latencies, ENDLAT and the
ensemble's key state (R310). -/
structure LockData where
  ency : Word
  linklat : List Nat
  endlat : Nat
  kg : Nat
  routeKeyOdd : BitVec 128
  routeKeyEven : BitVec 128
  deriving DecidableEq, Repr

/-- A field of a partition record (R370) with the value written to it. -/
inductive PartField
  | crews (v : BitVec 120) | drays (v : BitVec 48) | spare (v : BitVec 960) | rsvmask (v : BitVec 16) | nearq (v : Nat)
  | slots (addr count : Nat) | share (v : Nat) | bufq (v : Nat) | waymin (die v : Nat) | vdlist (x vd : Nat)
  | ctlpage (v : Nat) | savearea (v : Nat) | fqbase (v : Nat) | ltol (v : BitVec 32) | pdsave (v : Bool)
  | own (crew tile : Nat) (v : BitVec 8)
  deriving DecidableEq, Repr

/-- A write to a device register (R182): bytes at an address, or a register that the spec names without an address. -/
inductive DevWrite
  | bytes (addr : Nat) (data : List Byte)
  | part (p : Nat) (f : PartField)
  /-- A launch-queue head (R251), and its QERR cleared. -/
  | queue (p q rbase log2n tailaddr : Nat)
  | clearQerr (p q : Nat)
  /-- SPAREBASE and SPARELEN (R347), RESTBAR (R293), CNVD of a Coachman (R386). -/
  | spares (base len : Nat)
  | restbar (bar : Option Nat)
  | cnvd (coach vd : Nat)
  /-- INTHOLD of a key slot cleared (R222), and the error counters of the package or a partition (R344). -/
  | clearHold (kid : Nat)
  | clearErrs (part : Option Nat)
  /-- The heartbeat of the primary Coachman (R381). -/
  | heartbeat
  /-- OVF of an interrupt ring, cleared by the host driver (R249); STATE of a VD that is not assigned again (R375). -/
  | clearOvf (vd : Nat)
  | vdAbsent (vd : Nat)
  deriving DecidableEq, Repr

/-- A thermal sample (R390): the hottest junction temperature in °C, the core rail current and its 100 µs average in
amperes, and whether the current has stood above 3600 A for longer than 50 µs. -/
structure ThermalData where
  junction : Nat
  current : Nat
  average : Nat
  sustained : Bool
  deriving DecidableEq, Repr

/-- What stage 0 brings from flash, the entropy source and the host link (R383, R385): the drawn keys, the package
number and the firmware image with its entry. -/
structure Stage0Data where
  flashOk : Bool
  linkOk : Bool
  routeKey : BitVec 128
  kTree : BitVec 256
  ctxKey : BitVec 128
  pkgnum : Nat
  entry : Word
  tvec : Word
  image : List (Nat × Byte)
  deriving DecidableEq, Repr

/-- What stage 3 measures and collects (R383, R385, R336). -/
structure Stage3Data where
  lockOk : Bool
  torus : Bool
  /-- Pairs of ensemble port and the PEERPORT value read over its link (R310). -/
  peerport : List (Nat × Nat)
  lock : LockData
  deriving DecidableEq, Repr

/-- A host transaction to a VD (R236): whether it came on the VD's own selective stream, and the access it makes. -/
structure HostTx where
  vd : Nat
  ownStream : Bool
  write : Bool
  addr : Nat
  data : List Byte
  deriving DecidableEq, Repr

/-- A management message of R387: an LTOL write, a status or telemetry read, attestation, or an update request. -/
inductive MgmtMsg
  | setLtol (part : Nat) (ltol : BitVec 32)
  | readStatus
  | readTelemetry
  | spdm
  deriving DecidableEq, Repr

/-- The creation of a network queue pair (R250): its VD, the logarithms and addresses of its rings, the remote end, and
an explicit mode where the creator chooses one. -/
structure QpConfig where
  vd : Nat
  sendBase : Nat
  sendLog : Nat
  recvBase : Nat
  recvLog : Nat
  compBase : Nat
  compLog : Nat
  peer : Nat
  mode : Option Bool
  deriving DecidableEq, Repr

/-- The creation or reassignment of a VD (R375): its partition, the root of its tables and its host range (R323). -/
structure VdConfig where
  part : Nat
  troot : Nat
  hostBase : Nat
  hostLen : Nat
  deriving DecidableEq, Repr

/-- One constructor per row of the opcode table. -/
inductive Instr
  /-- NOP (R125). SYS word with no effect. -/
  | nop
  /-- HALT (R126). Puts the issuing strand into the halted state; its unit completes once its outstanding operations have completed. -/
  | halt
  /-- TRAP (R357). Raises the software trap, cause 14, with the trap code in EVAL. -/
  | trap (code : Fin 512)
  /-- ERET (R358). Returns from a handler to EPC at the privilege level saved in ESTAT and clears INH. -/
  | eret
  /-- CSRR (R128). Reads a CSR into g[d]; the result lands in 2 turns. -/
  | csrr (d : GReg) (csr : Fin 512)
  /-- CSRW (R128). Writes g[a] to a CSR at the land turn, subject to privilege. -/
  | csrw (csr : Fin 512) (a : GReg)
  /-- CSRX (R128). Reads the old CSR value and writes the new one as one access. -/
  | csrx (d : GReg) (csr : Fin 512) (a : GReg)
  /-- YIELD (R127). On a free core at program level, offers the strand's slot to a waiting launch of the partition; otherwise acts as NOP. -/
  | yield
  /-- CTXSAVE (R367). Pre-empts a target free strand of the core and saves its context block to near memory. -/
  | ctxsave (d a : GReg)
  /-- CTXLOAD (R368). Loads a tagged context block into a slot of the core and makes the slot runnable or parked. -/
  | ctxload (d a : GReg)
  /-- BR (R122). Branches to a pair offset when the guard predicate holds. -/
  | br (gd : Guard) (off : Fin 2097152)
  /-- JMP (R123). Jumps to a pair offset. -/
  | jmp (off : Fin 1048576)
  /-- CALL (R123). Jumps to a pair offset and writes the return address to g31. -/
  | call (off : Fin 1048576)
  /-- RET (R123). Transfers control to the address in g[a]. -/
  | ret (a : GReg)
  /-- CALLR (R123). Transfers control to g[a] and writes the return address to g31. -/
  | callr (a : GReg)
  /-- AT (R292). Parks the strand until an issue cycle whose LCY reaches g[a] plus the immediate. -/
  | atLcy (a : GReg) (imm : Fin 4096)
  /-- CUE (R291). On a scored core, checks the issue LCY against a cue-table entry and raises a deviation trap on mismatch. -/
  | cue (n : Fin 4096)
  /-- TUNE (R338). Sets SLIP for the next bar gap from DRIFT or a forced code; coach level only. -/
  | tune (a : GReg)
  /-- LD (R205). Loads a byte, half, word or double from local, cluster or virtual space into g[d]. -/
  | ld (d a : GReg) (sp : Space) (sz : LdSize) (off : Fin 1024)
  /-- ST (R205). Stores a byte, half, word or double from g[d] to local, cluster or virtual space. -/
  | st (d a : GReg) (sp : Space) (sz : StSize) (off : Fin 1024)
  /-- AMO_ADD (R207). Indivisibly adds g[b] to memory and returns the old value. -/
  | amoAdd (d a b : GReg) (sz : AmoSize) (sp : Space)
  /-- AMO_MIN (R207). Indivisibly stores the signed minimum of memory and g[b] and returns the old value. -/
  | amoMin (d a b : GReg) (sz : AmoSize) (sp : Space)
  /-- AMO_MAX (R207). Indivisibly stores the signed maximum of memory and g[b] and returns the old value. -/
  | amoMax (d a b : GReg) (sz : AmoSize) (sp : Space)
  /-- AMO_MINN (R207). Indivisibly stores the unsigned minimum of memory and g[b] and returns the old value. -/
  | amoMinn (d a b : GReg) (sz : AmoSize) (sp : Space)
  /-- AMO_MAXN (R207). Indivisibly stores the unsigned maximum of memory and g[b] and returns the old value. -/
  | amoMaxn (d a b : GReg) (sz : AmoSize) (sp : Space)
  /-- AMO_AND (R207). Indivisibly ANDs g[b] into memory and returns the old value. -/
  | amoAnd (d a b : GReg) (sz : AmoSize) (sp : Space)
  /-- AMO_OR (R207). Indivisibly ORs g[b] into memory and returns the old value. -/
  | amoOr (d a b : GReg) (sz : AmoSize) (sp : Space)
  /-- AMO_XOR (R207). Indivisibly XORs g[b] into memory and returns the old value. -/
  | amoXor (d a b : GReg) (sz : AmoSize) (sp : Space)
  /-- AMO_SWAP (R207). Indivisibly swaps g[b] with memory and returns the old value. -/
  | amoSwap (d a b : GReg) (sz : AmoSize) (sp : Space)
  /-- AMO_CAS (R207). Indivisibly writes g[b] if memory equals the expected value in g[d] and returns the old value. -/
  | amoCas (d a b : GReg) (sz : AmoSize) (sp : Space)
  /-- FENCE (R210). Orders and waits for the strand's accesses on the named paths within a scope and returns the peer error bitmap. -/
  | fence (d : GReg) (scope : Scope) (mask : Fin 64)
  /-- PREF (R208). Prefetches a line into the memory-side cache and the L1. -/
  | pref (a : GReg) (imm : Fin 4096)
  /-- FLUSH (R208). Writes a dirty line back from its home slice and leaves it valid and clean. -/
  | flush (a : GReg) (imm : Fin 4096)
  /-- INVAL (R208). Writes a line back and invalidates it in the home slice and the issuing core's L1. -/
  | inval (a : GReg) (imm : Fin 4096)
  /-- RPUB (R211). Publishes the state of a relay window to its peer by advancing PUBGEN. -/
  | rpub (a : GReg)
  /-- VLD (R215). Loads contiguous vector elements from local or cluster scratchpad. -/
  | vld (d : VecReg) (a : GReg) (m : MReg) (e : EW) (clu : Bool)
  /-- VST (R215). Stores contiguous vector elements to local or cluster scratchpad. -/
  | vst (d : VecReg) (a : GReg) (m : MReg) (e : EW) (clu : Bool)
  /-- VLDS (R215). Loads vector elements at a register stride. -/
  | vlds (d : VecReg) (a b : GReg) (m : MReg) (e : EW) (clu : Bool)
  /-- VSTS (R215). Stores vector elements at a register stride. -/
  | vsts (d : VecReg) (a b : GReg) (m : MReg) (e : EW) (clu : Bool)
  /-- VLDX (R215). Gathers vector elements at offsets from an index vector. -/
  | vldx (d : VecReg) (a : GReg) (b : VecReg) (m : MReg) (e : EW) (clu : Bool)
  /-- VSTX (R215). Scatters vector elements at offsets from an index vector. -/
  | vstx (d : VecReg) (a : GReg) (b : VecReg) (m : MReg) (e : EW) (clu : Bool)
  /-- VSEG (R216). Stores MX data in the 64-byte segment layout, one indivisible access cycle per segment. -/
  | vseg (d : VecReg) (a : GReg) (fmt : Fin 32) (clu : Bool)
  /-- SSET (R217). Sets a stream register's base, stride and count and discards its look-ahead. -/
  | sset (d : StReg) (a b : GReg)
  /-- SLD (R218). Loads stream elements from virtual space with fault-only-first trimming of VL. -/
  | sld (d : VecReg) (a : StReg) (m : MReg) (e : EW)
  /-- SST (R218). Stores vector elements to a stream in virtual space and advances the stream. -/
  | sst (d : VecReg) (a : StReg) (m : MReg) (e : EW)
  /-- VAMO_ADD (R220). Atomically adds each active element into scratchpad at indexed locations. -/
  | vamoAdd (d : VecReg) (a : GReg) (b : VecReg) (m : MReg) (e : EW) (clu : Bool)
  /-- VAMO_MIN (R220). Atomic signed minimum per element at indexed locations. -/
  | vamoMin (d : VecReg) (a : GReg) (b : VecReg) (m : MReg) (e : EW) (clu : Bool)
  /-- VAMO_MAX (R220). Atomic signed maximum per element at indexed locations. -/
  | vamoMax (d : VecReg) (a : GReg) (b : VecReg) (m : MReg) (e : EW) (clu : Bool)
  /-- VAMO_MINN (R220). Atomic unsigned minimum per element at indexed locations. -/
  | vamoMinn (d : VecReg) (a : GReg) (b : VecReg) (m : MReg) (e : EW) (clu : Bool)
  /-- VAMO_MAXN (R220). Atomic unsigned maximum per element at indexed locations. -/
  | vamoMaxn (d : VecReg) (a : GReg) (b : VecReg) (m : MReg) (e : EW) (clu : Bool)
  /-- VAMO_AND (R220). Atomic AND per element at indexed locations. -/
  | vamoAnd (d : VecReg) (a : GReg) (b : VecReg) (m : MReg) (e : EW) (clu : Bool)
  /-- VAMO_OR (R220). Atomic OR per element at indexed locations. -/
  | vamoOr (d : VecReg) (a : GReg) (b : VecReg) (m : MReg) (e : EW) (clu : Bool)
  /-- VAMO_XOR (R220). Atomic XOR per element at indexed locations. -/
  | vamoXor (d : VecReg) (a : GReg) (b : VecReg) (m : MReg) (e : EW) (clu : Bool)
  /-- VAMO_FADD (R220). Atomic floating add per element, each addition rounded separately in increasing element index. -/
  | vamoFadd (d : VecReg) (a : GReg) (b : VecReg) (m : MReg) (e : FEW) (clu : Bool)
  /-- SETVL (R136). Grants a vector length of at most EMAX for the element width and writes it to VL and g[d]. -/
  | setvl (d a : GReg) (e : EW)
  /-- VLOOP (R138). Makes the sequencer replay the next n vector words N times. -/
  | vloop (d a : GReg) (n : Fin 16)
  /-- VSYNC (R137). Holds the strand's next issue until every earlier vector word has landed. -/
  | vsync
  /-- HPLANE (R173). Writes strings (transposed bit planes) into scratchpad from a vector group, in block-fixed form for floating formats. -/
  | hplane (vb : VecReg) (ga : GReg) (fmt : Fin 32) (n : Grp)
  /-- HZERO (R174). Harp command that clears a soundboard tile row by row, keeping its anchor. -/
  | hzero (t : Tile) (ga : GReg)
  /-- HREAD (R178). Converts tile rows to a vector group, rounded once or raw, after checking their residues. -/
  | hread (t : Tile) (vb : VecReg) (ga : GReg) (fmt : Fin 32) (n : Grp)
  /-- HWRITE (R180). Writes or adds 64-bit elements of a vector group into tile rows. -/
  | hwrite (t : Tile) (vb : VecReg) (ga : GReg) (n : Grp)
  /-- HCHK (R174). Harp command that checks every valid row's residue against its accumulators. -/
  | hchk (t : Tile) (ga : GReg)
  /-- HANCH (R174). Harp command that sets a tile's anchor exponent and clears the tile. -/
  | hanch (t : Tile) (ga : GReg)
  /-- HMMA_ACC (R175, R176). Multiplies strings by a B vector group and adds the product into a tile. -/
  | hmmaAcc (t : Tile) (vb : VecReg) (ga : GReg) (fmt : Fin 32) (n : Grp)
  /-- HMMA_SET (R175, R176). Clears a tile and adds the product of strings and a B group into it. -/
  | hmmaSet (t : Tile) (vb : VecReg) (ga : GReg) (fmt : Fin 32) (n : Grp)
  /-- HMMS_ACC (R175, R176). Multi-tile matrix product added into MR by MC tiles, possibly across a crew pair. -/
  | hmmsAcc (t : Tile) (vb : VecReg) (ga : GReg) (fmt : Fin 32) (n : Grp)
  /-- HMMS_SET (R175, R176). Multi-tile matrix product that clears its tiles before adding. -/
  | hmmsSet (t : Tile) (vb : VecReg) (ga : GReg) (fmt : Fin 32) (n : Grp)
  /-- SEND (R260). Timed send from scratchpad into a remote receive slot and spill area at fixed cycles. -/
  | send (tk : TkReg) (a b : GReg)
  /-- RECV (R261). Reads a full receive slot into scratchpad, clears FULL and lands LEN. -/
  | recv (d a b : GReg)
  /-- ESEND (R262). Sends up to 64 bytes to a remote elastic receive queue. -/
  | esend (tk : TkReg) (a b : GReg)
  /-- ERECV (R263). Removes the oldest entry of an elastic queue, parking up to a limit if it is empty. -/
  | erecv (d a b : GReg)
  /-- STRIPE (R264). Sends a message in 64-byte chunks spread over n tickets. -/
  | stripe (tk : TkReg) (d a b : GReg) (n : Fin 4)
  /-- RLD (R265). Remote load through a window ticket. -/
  | rld (tk : TkReg) (d a : GReg) (sz : LdSize)
  /-- RST (R265). Remote store through a window ticket. -/
  | rst (tk : TkReg) (d a : GReg) (sz : StSize)
  /-- RAMO_ADD (R265). Remote 64-bit atomic add at the target, returning the old value. -/
  | ramoAdd (tk : TkReg) (d a b : GReg)
  /-- RAMO_MIN (R265). Remote 64-bit atomic signed minimum. -/
  | ramoMin (tk : TkReg) (d a b : GReg)
  /-- RAMO_MAX (R265). Remote 64-bit atomic signed maximum. -/
  | ramoMax (tk : TkReg) (d a b : GReg)
  /-- RAMO_MINN (R265). Remote 64-bit atomic unsigned minimum. -/
  | ramoMinn (tk : TkReg) (d a b : GReg)
  /-- RAMO_MAXN (R265). Remote 64-bit atomic unsigned maximum. -/
  | ramoMaxn (tk : TkReg) (d a b : GReg)
  /-- RAMO_OR (R265). Remote 64-bit atomic OR. -/
  | ramoOr (tk : TkReg) (d a b : GReg)
  /-- RAMO_SWAP (R265). Remote 64-bit atomic swap. -/
  | ramoSwap (tk : TkReg) (d a b : GReg)
  /-- RAMO_CAS (R265). Remote 64-bit atomic compare and swap. -/
  | ramoCas (tk : TkReg) (d a b : GReg)
  /-- VPUSH (R267). Pushes a vector register group to registers of a remote vector strand. -/
  | vpush (tk : TkReg) (a : GReg) (vb : VecReg) (n : Grp)
  /-- VPULL (R268). Parks until every register of a group has been pushed, then clears their full-empty bits. -/
  | vpull (d a : GReg) (vb : VecReg) (n : Grp)
  /-- TKNAR (R258). Appends a caveat to a ticket register, extending its tag chain. -/
  | tknar (tk : TkReg) (d a : GReg)
  /-- TKLD (R259). Loads a 64-byte ticket image into a ticket register. -/
  | tkld (tk : TkReg) (a : GReg) (sp : Space)
  /-- TKST (R259). Writes a ticket register's image to memory, requiring Delegable unless empty. -/
  | tkst (tk : TkReg) (a : GReg) (sp : Space)
  /-- TKMOV (R259). Copies one ticket register to another. -/
  | tkmov (tk m : TkReg)
  /-- TKCHK (R259). Writes a summary of a ticket register's kind, rights and expiry to g[d]. -/
  | tkchk (tk : TkReg) (d : GReg)
  /-- DRAY_COPY (R270, R271). Enqueues a Dray copy command. -/
  | drayCopy (tk : TkReg) (d a b : GReg)
  /-- DRAY_GATH (R270, R271). Enqueues a Dray gather command. -/
  | drayGath (tk : TkReg) (d a b : GReg)
  /-- DRAY_SCAT (R270, R271). Enqueues a Dray scatter command. -/
  | drayScat (tk : TkReg) (d a b : GReg)
  /-- DRAY_SEAL (R270, R271). Enqueues a Dray AES-GCM sealing of a buffer under TXKEY. -/
  | draySeal (tk : TkReg) (d a b : GReg)
  /-- DRAY_UNSEAL (R270, R271). Enqueues a Dray unsealing of a sealed host buffer with tag and replay checks. -/
  | drayUnseal (tk : TkReg) (d a b : GReg)
  /-- DRAY_FILL (R270, R271). Enqueues a Dray fill with an 8-byte pattern. -/
  | drayFill (tk : TkReg) (d a b : GReg)
  /-- DWAIT (R275). Waits until a Dray command ends or a limit expires, then lands its status. -/
  | dwait (d a b : GReg)
  /-- DSTAT (R275). Lands the status word of a Dray command. -/
  | dstat (d a : GReg)
  /-- DCANCEL (R275). Removes a queued Dray command or stops a running one at its next unit boundary. -/
  | dcancel (d a : GReg)
  /-- NPOST (R276). Places a network work request on a queue pair's ring, or binds or removes an RKEY. -/
  | npost (tk : TkReg) (d a b : GReg)
  /-- NPOLL (R278). Takes the oldest completion of a queue pair's completion ring. -/
  | npoll (d a : GReg)
  /-- CARR (R342). After the strand's earlier writes complete, adds g[a] to a completion counter's DONE. -/
  | carr (d a : GReg) (b : CnReg) (gd : Guard)
  /-- CWAIT (R342). Parks until a completion counter reaches a target or an LCY limit expires. -/
  | cwait (d a : GReg) (b : CnReg) (gd : Guard)
  /-- CANCEL (R343). Cancels a named unit, launch, graph, phase or job. -/
  | cancel (d a : GReg) (gd : Guard)
  /-- CKPT (R348). Arms a checkpoint round for a VD of the partition. -/
  | ckpt (d a : GReg) (b : CnReg) (gd : Guard)
  /-- CSET (R342). Sets a completion counter's LEVEL and clears DONE and CANC. -/
  | cset (d a : GReg) (b : CnReg) (gd : Guard)
  /-- XLAT_READ (R330). Walks the translation of an address for read access and returns the physical address or failure. -/
  | xlatRead (d a b : GReg)
  /-- XLAT_WRITE (R330). Walks the translation of an address for write access without trapping. -/
  | xlatWrite (d a b : GReg)
  /-- XLAT_FETCH (R330). Walks the translation of an address for instruction fetch without trapping. -/
  | xlatFetch (d a b : GReg)
  /-- XLAT_PROBE (R330). Walks the translation of an address without permission checks. -/
  | xlatProbe (d a b : GReg)
  /-- TLBINV_PAGE (R329). Advances SDGEN and invalidates a VD's translations of one page, optionally across the ensemble. -/
  | tlbinvPage (d a b : GReg)
  /-- TLBINV_VD (R329). Advances SDGEN and invalidates all of a VD's translations. -/
  | tlbinvVd (d b : GReg)
  /-- MIGSET (R332). Starts or resumes migration of a page to a new frame through a Dray. -/
  | migset (d a b : GReg)
  /-- MINT (R315). Creates a ticket from a template with the current key generation and tag; coach level. -/
  | mint (tk : TkReg) (d a b : GReg)
  /-- REVOKE_PORT (R317). Advances a destination port's generation at a fixed cycle. -/
  | revokePort (d a : GReg)
  /-- REVOKE_KEY (R318). Schedules an ensemble-wide route key advance at a bar line. -/
  | revokeKey (d a b : GReg)
  /-- KEYSET_SET (R235). Loads a VD key slot from a key record and clears its transfer state. -/
  | keysetSet (d a b : GReg)
  /-- KEYSET_WIN (R235). Sets up a relay window's key slot and marks its frames fresh. -/
  | keysetWin (d a b : GReg)
  /-- KEYSET_ERASE (R235). Erases a key slot after invalidating every cached line of its KID. -/
  | keysetErase (d a b : GReg)
  /-- ADMIT (R286). Checks a Tablature, pins and copies what it names, and admits a scored launch. -/
  | admitTab (d a b : GReg)
  /-- ADD (R113). Adds two registers modulo 2^w. -/
  | add (d a b : GReg) (gd : Guard) (w : Width)
  /-- SUB (R113). Subtracts two registers modulo 2^w. -/
  | sub (d a b : GReg) (gd : Guard) (w : Width)
  /-- AND (R113). Bitwise AND. -/
  | and (d a b : GReg) (gd : Guard) (w : Width)
  /-- OR (R113). Bitwise OR. -/
  | or (d a b : GReg) (gd : Guard) (w : Width)
  /-- XOR (R113). Bitwise XOR. -/
  | xor (d a b : GReg) (gd : Guard) (w : Width)
  /-- SHL (R113). Shift left by g[b]. -/
  | shl (d a b : GReg) (gd : Guard) (w : Width)
  /-- SHR (R113). Logical shift right by g[b]. -/
  | shr (d a b : GReg) (gd : Guard) (w : Width)
  /-- SAR (R113). Arithmetic shift right by g[b]. -/
  | sar (d a b : GReg) (gd : Guard) (w : Width)
  /-- MIN (R113). Signed minimum. -/
  | min (d a b : GReg) (gd : Guard) (w : Width)
  /-- MAX (R113). Signed maximum. -/
  | max (d a b : GReg) (gd : Guard) (w : Width)
  /-- MINN (R113). Unsigned minimum. -/
  | minn (d a b : GReg) (gd : Guard) (w : Width)
  /-- MAXN (R113). Unsigned maximum. -/
  | maxn (d a b : GReg) (gd : Guard) (w : Width)
  /-- SEL (R113). Selects g[a] or g[b] by a predicate. -/
  | sel (d a b : GReg) (pr : PReg) (pn : Bool)
  /-- CLZ (R113). Counts leading zero bits. -/
  | clz (d a : GReg) (gd : Guard) (w : Width)
  /-- POPC (R113). Counts one bits. -/
  | popc (d a : GReg) (gd : Guard) (w : Width)
  /-- ADDI (R115). Adds a sign-extended 12-bit immediate. -/
  | addi (d a : GReg) (imm : Fin 4096)
  /-- ANDI (R115). ANDs a sign-extended immediate. -/
  | andi (d a : GReg) (imm : Fin 4096)
  /-- ORI (R115). ORs a sign-extended immediate. -/
  | ori (d a : GReg) (imm : Fin 4096)
  /-- XORI (R115). XORs a sign-extended immediate. -/
  | xori (d a : GReg) (imm : Fin 4096)
  /-- SHLI (R115). Shift left by an immediate count. -/
  | shli (d a : GReg) (cnt : Fin 64)
  /-- SHRI (R115). Logical shift right by an immediate count. -/
  | shri (d a : GReg) (cnt : Fin 64)
  /-- SARI (R115). Arithmetic shift right by an immediate count. -/
  | sari (d a : GReg) (cnt : Fin 64)
  /-- LI (R116). Loads a sign-extended 20-bit immediate. -/
  | li (d : GReg) (imm : Fin 1048576)
  /-- LIH (R116). Shifts g[d] left by 20 and ORs in a 20-bit immediate. -/
  | lih (d : GReg) (imm : Fin 1048576)
  /-- MUL (R117). Low half of a product. -/
  | mul (d a b : GReg) (gd : Guard) (w : Width)
  /-- MULH (R117). High half of a signed product. -/
  | mulh (d a b : GReg) (gd : Guard) (w : Width)
  /-- MULHN (R117). High half of an unsigned product. -/
  | mulhn (d a b : GReg) (gd : Guard) (w : Width)
  /-- DIV (R117). Signed division truncated towards zero, with fixed edge outcomes. -/
  | div (d a b : GReg) (gd : Guard) (w : Width)
  /-- DIVN (R117). Unsigned division. -/
  | divn (d a b : GReg) (gd : Guard) (w : Width)
  /-- REM (R117). Signed remainder. -/
  | rem (d a b : GReg) (gd : Guard) (w : Width)
  /-- REMN (R117). Unsigned remainder. -/
  | remn (d a b : GReg) (gd : Guard) (w : Width)
  /-- CMP_EQ (R119). Sets a predicate if equal. -/
  | cmpEq (d : PReg) (a b : GReg) (gd : Guard) (w : Width)
  /-- CMP_NE (R119). Sets a predicate if not equal. -/
  | cmpNe (d : PReg) (a b : GReg) (gd : Guard) (w : Width)
  /-- CMP_LT (R119). Sets a predicate if signed less. -/
  | cmpLt (d : PReg) (a b : GReg) (gd : Guard) (w : Width)
  /-- CMP_GE (R119). Sets a predicate if signed greater or equal. -/
  | cmpGe (d : PReg) (a b : GReg) (gd : Guard) (w : Width)
  /-- CMP_LTN (R119). Sets a predicate if unsigned less. -/
  | cmpLtn (d : PReg) (a b : GReg) (gd : Guard) (w : Width)
  /-- CMP_GEN (R119). Sets a predicate if unsigned greater or equal. -/
  | cmpGen (d : PReg) (a b : GReg) (gd : Guard) (w : Width)
  /-- PLOG_AND (R120). Predicate AND. -/
  | plogAnd (d a b : PReg) (gd : Guard)
  /-- PLOG_OR (R120). Predicate OR. -/
  | plogOr (d a b : PReg) (gd : Guard)
  /-- PLOG_XOR (R120). Predicate XOR. -/
  | plogXor (d a b : PReg) (gd : Guard)
  /-- PLOG_ANDN (R120). Predicate AND NOT. -/
  | plogAndn (d a b : PReg) (gd : Guard)
  /-- BFX (R121). Extracts a bit field zero-extended. -/
  | bfx (d a : GReg) (len1 pos : Fin 64)
  /-- BFXS (R121). Extracts a bit field sign-extended. -/
  | bfxs (d a : GReg) (len1 pos : Fin 64)
  /-- BFI (R121). Inserts low bits of g[a] into a field of g[d]. -/
  | bfi (d a : GReg) (len1 pos : Fin 64)
  /-- VADD (R141). Vector integer add. -/
  | vadd (d a b : VecReg) (m : MReg) (e : EW)
  /-- VSUB (R141). Vector integer subtract. -/
  | vsub (d a b : VecReg) (m : MReg) (e : EW)
  /-- VMUL (R141). Vector integer multiply, low half, residue checked. -/
  | vmul (d a b : VecReg) (m : MReg) (e : EW)
  /-- VMULH (R141). Vector signed multiply, high half. -/
  | vmulh (d a b : VecReg) (m : MReg) (e : EW)
  /-- VMIN (R141). Vector signed minimum. -/
  | vmin (d a b : VecReg) (m : MReg) (e : EW)
  /-- VMAX (R141). Vector signed maximum. -/
  | vmax (d a b : VecReg) (m : MReg) (e : EW)
  /-- VMINN (R141). Vector unsigned minimum. -/
  | vminn (d a b : VecReg) (m : MReg) (e : EW)
  /-- VMAXN (R141). Vector unsigned maximum. -/
  | vmaxn (d a b : VecReg) (m : MReg) (e : EW)
  /-- VAND (R141). Vector bitwise AND. -/
  | vand (d a b : VecReg) (m : MReg) (e : EW)
  /-- VOR (R141). Vector bitwise OR. -/
  | vor (d a b : VecReg) (m : MReg) (e : EW)
  /-- VXOR (R141). Vector bitwise XOR. -/
  | vxor (d a b : VecReg) (m : MReg) (e : EW)
  /-- VSHL (R141). Vector shift left. -/
  | vshl (d a b : VecReg) (m : MReg) (e : EW)
  /-- VSHR (R141). Vector logical shift right. -/
  | vshr (d a b : VecReg) (m : MReg) (e : EW)
  /-- VSAR (R141). Vector arithmetic shift right. -/
  | vsar (d a b : VecReg) (m : MReg) (e : EW)
  /-- VABS (R141). Vector integer absolute value. -/
  | vabs (d a : VecReg) (m : MReg) (e : EW)
  /-- VNEG (R141). Vector integer negation. -/
  | vneg (d a : VecReg) (m : MReg) (e : EW)
  /-- VSEL (R141). Vector select by mask for every element below vl. -/
  | vsel (d a b : VecReg) (m : MReg) (e : EW)
  /-- VFADD (R142). Vector floating add. -/
  | vfadd (d a b : VecReg) (m : MReg) (e : FEW)
  /-- VFSUB (R142). Vector floating subtract. -/
  | vfsub (d a b : VecReg) (m : MReg) (e : FEW)
  /-- VFMUL (R142). Vector floating multiply, residue checked. -/
  | vfmul (d a b : VecReg) (m : MReg) (e : FEW)
  /-- VFMA (R142). Vector fused multiply-add into the destination. -/
  | vfma (d a b : VecReg) (m : MReg) (e : FEW)
  /-- VFMS (R142). Vector fused multiply minus the destination. -/
  | vfms (d a b : VecReg) (m : MReg) (e : FEW)
  /-- VFMIN (R142). Vector floating minimum. -/
  | vfmin (d a b : VecReg) (m : MReg) (e : FEW)
  /-- VFMAX (R142). Vector floating maximum. -/
  | vfmax (d a b : VecReg) (m : MReg) (e : FEW)
  /-- VFABS (R142). Clears the sign bit of each element. -/
  | vfabs (d a : VecReg) (m : MReg) (e : FEW)
  /-- VFNEG (R142). Inverts the sign bit of each element. -/
  | vfneg (d a : VecReg) (m : MReg) (e : FEW)
  /-- VCMP_EQ (R143). Vector integer compare equal into a mask. -/
  | vcmpEq (d : MReg) (a b : VecReg) (m : MReg) (e : EW)
  /-- VCMP_NE (R143). Vector integer compare not equal into a mask. -/
  | vcmpNe (d : MReg) (a b : VecReg) (m : MReg) (e : EW)
  /-- VCMP_LT (R143). Vector signed compare less into a mask. -/
  | vcmpLt (d : MReg) (a b : VecReg) (m : MReg) (e : EW)
  /-- VCMP_GE (R143). Vector signed compare greater or equal into a mask. -/
  | vcmpGe (d : MReg) (a b : VecReg) (m : MReg) (e : EW)
  /-- VCMP_LTN (R143). Vector unsigned compare less into a mask. -/
  | vcmpLtn (d : MReg) (a b : VecReg) (m : MReg) (e : EW)
  /-- VCMP_GEN (R143). Vector unsigned compare greater or equal into a mask. -/
  | vcmpGen (d : MReg) (a b : VecReg) (m : MReg) (e : EW)
  /-- VCMP_FEQ (R143). Vector floating compare equal into a mask. -/
  | vcmpFeq (d : MReg) (a b : VecReg) (m : MReg) (e : FEW)
  /-- VCMP_FNE (R143). Vector floating compare not equal into a mask. -/
  | vcmpFne (d : MReg) (a b : VecReg) (m : MReg) (e : FEW)
  /-- VCMP_FLT (R143). Vector floating compare less into a mask. -/
  | vcmpFlt (d : MReg) (a b : VecReg) (m : MReg) (e : FEW)
  /-- VCMP_FGE (R143). Vector floating compare greater or equal into a mask. -/
  | vcmpFge (d : MReg) (a b : VecReg) (m : MReg) (e : FEW)
  /-- VCMP_FUN (R143). Vector floating unordered test into a mask. -/
  | vcmpFun (d : MReg) (a b : VecReg) (m : MReg) (e : FEW)
  /-- VCVT (R145). Converts wide floating elements to a Harp operand format. -/
  | vcvt (d a : VecReg) (fmt : Fin 32) (m : MReg) (e : FEW) (rnd : Rnd)
  /-- VQNT (R146). Converts blocks of 32 elements to block-fixed words and block codes. -/
  | vqnt (d a : VecReg) (fmt : Fin 32) (m : MReg) (e : FEW)
  /-- VDQNT (R147). Converts elements of a format back to a wide floating type. -/
  | vdqnt (d a : VecReg) (fmt : Fin 32) (m : MReg) (e : FEW) (rnd : Rnd)
  /-- VRNDI (R148). Rounds each element to an integral value. -/
  | vrndi (d a : VecReg) (m : MReg) (e : FEW) (rnd : Rnd)
  /-- VRCPA (R149). Approximate reciprocal to 14 significant bits. -/
  | vrcpa (d a : VecReg) (m : MReg) (e : FEW)
  /-- VRSQA (R149). Approximate reciprocal square root. -/
  | vrsqa (d a : VecReg) (m : MReg) (e : FEW)
  /-- VEXP2A (R149). Approximate base-2 exponential. -/
  | vexp2a (d a : VecReg) (m : MReg) (e : FEW)
  /-- VLOG2A (R149). Approximate base-2 logarithm. -/
  | vlog2a (d a : VecReg) (m : MReg) (e : FEW)
  /-- VREDSUM (R152). Sums active elements by a fixed pairwise tree into element 0. -/
  | vredsum (d a : VecReg) (k : RedT) (m : MReg)
  /-- VREDMAX (R152). Maximum of active elements by a fixed tree. -/
  | vredmax (d a : VecReg) (k : RedT) (m : MReg)
  /-- VREDMIN (R152). Minimum of active elements by a fixed tree. -/
  | vredmin (d a : VecReg) (k : RedT) (m : MReg)
  /-- VSCAN (R152). Inclusive prefix sum, maximum or minimum. -/
  | vscan (d a : VecReg) (op : ScanOp) (k : RedT) (m : MReg)
  /-- VDOT4 (R153). Adds four 8-bit products into each 32-bit element. -/
  | vdot4 (d a b : VecReg) (m : MReg)
  /-- VPERM (R154). Permutes elements by an index vector. -/
  | vperm (d a b : VecReg) (m : MReg) (e : EW)
  /-- VSLUP (R154). Slides elements up by a scalar amount. -/
  | vslup (d a : VecReg) (b : GReg) (m : MReg) (e : EW)
  /-- VSLDN (R154). Slides elements down by a scalar amount. -/
  | vsldn (d a : VecReg) (b : GReg) (m : MReg) (e : EW)
  /-- VCOMP (R154). Compresses the selected elements to the front. -/
  | vcomp (d a : VecReg) (m : MReg) (e : EW)
  /-- VEXPD (R154). Expands consecutive elements into the selected positions. -/
  | vexpd (d a : VecReg) (m : MReg) (e : EW)
  /-- VIOTA (R154). Writes the count of set mask bits below each element. -/
  | viota (d : VecReg) (m : MReg) (e : EW)
  /-- VBCAST (R154). Broadcasts a scalar to every active element. -/
  | vbcast (d : VecReg) (a : GReg) (m : MReg) (e : EW)
  /-- VEXTR (R154). Extracts one element into a general register through the return queue. -/
  | vextr (d : GReg) (a : VecReg) (b : GReg) (e : EW)
  /-- VINS (R154). Inserts a scalar into one element. -/
  | vins (d : VecReg) (a b : GReg) (e : EW)
  /-- MAND (R155). Mask AND. -/
  | mand (d a b : MReg) (e : EW)
  /-- MOR (R155). Mask OR. -/
  | mor (d a b : MReg) (e : EW)
  /-- MXOR (R155). Mask XOR. -/
  | mxor (d a b : MReg) (e : EW)
  /-- MNOT (R155). Mask NOT. -/
  | mnot (d a : MReg) (e : EW)
  /-- MCNT (R155). Counts set mask bits below vl into a general register. -/
  | mcnt (d : GReg) (a : MReg) (e : EW)
  /-- MFIRST (R155). Returns the lowest set mask bit below vl, or -1. -/
  | mfirst (d : GReg) (a : MReg) (e : EW)
  /-- QAND (R155). ANDs two validity registers. -/
  | qand (d a b : QReg) (e : EW)
  /-- QCLR (R155). Marks blocks invalid where a mask has a set bit. -/
  | qclr (d : QReg) (a : MReg) (e : EW)
  /-- VRNG (R156). Fills each active element with a Philox4x32-10 random word. -/
  | vrng (d : VecReg) (a b : GReg) (m : MReg) (e : EW)
  /-- C_HINT (R53). A C-class hint-space word executes as NOP. -/
  | cHint (h : Fin 4) (x : Fin 33554432)
  /-- A_HINT (R53). An A-class hint-space word executes as NOP; sparak-as writes NOP in the A position as 0x7800_0000. -/
  | aHint (h : Fin 4) (x : Fin 33554432)
  /-- LAND (R72). A pending register result replaces the old value whole at its land turn. -/
  | land (sid : Nat)
  /-- LANE_START (R76). A queued vector word, or a VLOOP replay word, starts in the lanes and releases its queue entry. -/
  | laneStart (sid : Nat)
  /-- FAULT_OVERFLOW_MOVE (R248). On-chip overflow fault entries move to the ring as the supervisor frees space or FQBASE is set. -/
  | faultOverflowMove (part : Nat)
  /-- AT_WAKE (R292). A strand parked on AT resumes issue when LCY reaches its target. -/
  | atWake (sid : Nat)
  /-- CWAIT_WAKE (R342). A parked CWAIT ends when its counter is reached or its LCY limit expires. -/
  | cwaitWake (sid : Nat)
  /-- ERECV_WAKE (R263). A parked ERECV takes an arriving entry or expires at its limit. -/
  | erecvWake (sid : Nat)
  /-- VPULL_WAKE (R268). A parked VPULL succeeds when its group is full or expires at its limit. -/
  | vpullWake (sid : Nat)
  /-- DWAIT_WAKE (R275). A waiting DWAIT lands the status when its command ends or its limit expires. -/
  | dwaitWake (sid : Nat)
  /-- HARP_COMMAND_START (R166). A Harp command starts at its offset on a scored core, or when granted by the free arbiter. -/
  | harpCommandStart (core : Nat)
  /-- HARP_ROW_TOUCH (R170). A tile operation touches one row in its cycle: clear, check, add, write or read, and CHN updates. -/
  | harpRowTouch (op : Nat)
  /-- HMMS_PAIRING_TIMEOUT (R177). A free HMMS half whose partner has not arrived within 2^20 cycles raises the Harp pairing fault. -/
  | hmmsPairingTimeout (op : Nat)
  /-- FREE_ACCESS_COMPLETE (R193). A free memory access reaches its home and completes, landing data where it is a load. -/
  | freeAccessComplete (id : Nat)
  /-- FREE_ACCESS_TIMEOUT (R193). A free access with no outcome by its bound completes with a timeout status. -/
  | freeAccessTimeout (id : Nat)
  /-- TRANSLATION_WALK (R325). A TLB miss walks the five-level table, restarting if SDGEN advances, and fills or faults. -/
  | translationWalk (core vd va : Nat)
  /-- L1_LINE_EXPIRY (R189). An L1 line with RO = 0 is invalidated 4096 cycles after its fill. -/
  | l1LineExpiry (core line : Nat)
  /-- MEMORY_LINE_WRITE (R226). A line write at a memory port increments its minor counter and the tree counters and is sealed. -/
  | memoryLineWrite (la : Nat) (data : BitVec 512)
  /-- MEMORY_LINE_READ (R227). A line read is checked by ECC, MAC and freshness before delivery. -/
  | memoryLineRead (la vd : Nat)
  /-- MINOR_WRAP_RESEAL (R226). After a minor wrap, the block's other lines are re-sealed under the new major in open memory cycles. -/
  | minorWrapReseal (blk : Nat)
  /-- TIMED_READ_CHECK (R227). The checks of a timed read complete within 3072 cycles after delivery and may raise the integrity fault. -/
  | timedReadCheck (launch la : Nat)
  /-- RELAY_OWNER_WRITE (R233). An owner write of a relay window line writes the unpublished slot. -/
  | relayOwnerWrite (id : Nat)
  /-- RELAY_OWNER_READ (R233). An owner read of a relay window line returns the newest copy. -/
  | relayOwnerRead (id : Nat)
  /-- RELAY_PEER_READ (R233). A peer read of a relay window line returns the last published copy. -/
  | relayPeerRead (id : Nat)
  /-- SWITCH_CHECK (R309). A switch decodes a packet's hop nibble, forwards it and runs the tag-chain check pipeline, marking failures. -/
  | switchCheck (pkt : Nat)
  /-- PACKET_DELIVERY (R312). The delivering site checks a packet against port, generations, kind, class and window and performs or discards it. -/
  | packetDelivery (pkt : Nat)
  /-- TIMED_DELIVERY (R260). A timed send's flit 0 fills a receive slot and later flits land in the spill area. -/
  | timedDelivery (pkt flit : Nat)
  /-- ELASTIC_ARRIVAL (R244). An elastic message enters the receive queue, or is held in the quota if the queue is full. -/
  | elasticArrival (pkt : Nat)
  /-- HELD_ARRIVAL_EXPIRY (R245). An arrival held 4096 cycles at a full queue or push target is discarded and counted. -/
  | heldArrivalExpiry (pkt : Nat)
  /-- VPUSH_ARRIVAL (R267). A pushed register arrives and is written if its full-empty bit is clear, otherwise held. -/
  | vpushArrival (pkt : Nat)
  /-- REMOTE_REPLY (R265). A reply to an RLD or RAMO arrives and lands in g[d]. -/
  | remoteReply (op : Nat) (value : Word)
  /-- DISCARD_NOTICE (R256). A discard notice reaches the sender and sets the PEERERR bit of the ticket register used. -/
  | discardNotice (op : Nat)
  /-- FABRIC_TIMEOUT (R256). A fabric operation with no outcome within its bound completes as a discard. -/
  | fabricTimeout (op : Nat)
  /-- RATE_UPDATE (R257). At every 1024-cycle window the open-slot rate of each partition and destination is adjusted from echoed marks. -/
  | rateUpdate
  /-- DRAY_COMMAND_START (R272). A free Dray command starts in queue order and performs its units. -/
  | drayCommandStart (dray : Nat)
  /-- DRAY_COMMAND_COMPLETION (R272). A Dray command ends after its last unit or a failing unit and records its status. -/
  | drayCommandCompletion (dray seq : Nat)
  /-- DRAY_TIMEOUT (R272). A free Dray command with no outcome within its bound ends with TIMEOUT. -/
  | drayTimeout (dray seq : Nat)
  /-- TIMED_DRAY_START (R273). A timed Dray command starts at its bar and offset and delivers units at fixed bank cycles. -/
  | timedDrayStart (launch idx : Nat)
  /-- MIGRATION_LINE_COPY (R332). The migration copy writes one line to the new frame and advances PTR. -/
  | migrationLineCopy (slot : Nat)
  /-- PORT_GENERATION_ADVANCE (R317). A REVOKE PORT advances the port's GEN at cycle E. -/
  | portGenerationAdvance (x y port : Nat)
  /-- KEY_DIGEST_COMPARE (R318). The time fabric compares the digest of a pending key advance across the ensemble at bar B - 1. -/
  | keyDigestCompare (equal : Bool)
  /-- ROUTE_KEY_ADVANCE (R318). At bar line B every switch advances KG and rotates the route keys. -/
  | routeKeyAdvance
  /-- NETWORK_WORK_REQUEST (R277). The network engine carries a posted SEND, WRITE or READ as RoCEv2 and writes its completion. -/
  | networkWorkRequest (qp status : Nat) (reply : List Byte)
  /-- NETWORK_INBOUND (R277). An inbound message is checked against the queue pair's RKEY bindings and handled in strict or report mode. -/
  | networkInbound (qp : Nat) (msg : NetMsg)
  /-- NETWORK_TIMEOUT (R277). A work request with no outcome within 2^28 cycles completes with TIMEOUT. -/
  | networkTimeout (qp : Nat)
  /-- LAUNCH_QUEUE_POLL (R251). The launch engine reads a queue's TAIL at least every 1024 cycles and sets QERR on overfill. -/
  | launchQueuePoll (part q : Nat)
  /-- LAUNCH_ENGINE_TAKE (R253). The engine reads the head descriptor of each queue and refuses, skips or places it. -/
  | launchEngineTake (part : Nat)
  /-- SLOT_FREED (R297). When a strand slot becomes free the engine resumes pre-empted strands or takes from the queues. -/
  | slotFreed (sid : Nat)
  /-- UNIT_COMPLETION (R22). A halted unit completes when its operations have completed, completing its launch, graph, phase or job in turn. -/
  | unitCompletion (sid : Nat)
  /-- COMPLETION_NOTICE (R340). A multi-package scored launch's completion is counted on each package at C + ENDLAT. -/
  | completionNotice (launch : Nat)
  /-- CANCEL_DRAIN_END (R25). A cancelled instance's drain ends and its counter records it as cancelled. -/
  | cancelDrainEnd (launch : Nat)
  /-- SCORED_LAUNCH_START (R290). At the start bar line every SMASK slot of the admitted launch becomes runnable with LCY 0. -/
  | scoredLaunchStart (launch : Nat) (allReported : Bool)
  /-- ENDING_NOTICE (R294). An ending notice travels over the time fabric after a timing, deviation or integrity event. -/
  | endingNotice (launch lcy detail : Nat)
  /-- OVERRUN (R294). At LCY 4096 x NB every strand of a scored launch stops and unhalted units are charged a timing fault. -/
  | overrun (launch : Nat)
  /-- SCORED_LAUNCH_END (R360). At its ending bar line a scored launch's strands become idle, resources are released and a fault entry is posted. -/
  | scoredLaunchEnd (launch : Nat)
  /-- SCORED_LAUNCH_RELEASE (R289). At a scored launch's final bar line its pins, reservations, wheel intervals and OWN settings are released. -/
  | scoredLaunchRelease (launch : Nat)
  /-- PREQ (R361). A write of PREQ to the control page requests pre-emption of a scored launch. -/
  | preq (part : Nat)
  /-- SCORED_PREEMPT (R362). At the pre-emption bar line a scored launch's in-flight items are captured and its images saved. -/
  | scoredPreempt (launch : Nat)
  /-- RREQ (R364). A write of RREQ to the control page requests resumption of a pre-empted scored launch. -/
  | rreq (part : Nat)
  /-- SCORED_RESUME (R364). At the resumption bar line the images are reloaded and the launch resumes on every package. -/
  | scoredResume (launch : Nat)
  /-- FREE_PREEMPT (R365). A free strand is squashed and its context saved at the scheduler's request. -/
  | freePreempt (sid : Nat)
  /-- INTERRUPT_DELIVERY (R249). Ring entries are delivered to the host by MSI-X, stale generations discarded. -/
  | interruptDelivery (vd : Nat)
  /-- BAR_LINE (R336). At every bar line DRIFT is measured, wheels are loaded and the standby mirrors the primary. -/
  | barLine (measured : BitVec 32)
  /-- BAR_GAP (R335). Between bars the package pauses for 1, 2 or 3 periods set by SLIP. -/
  | barGap
  /-- REST (R295). A commanded rest bar freezes scored launches while free cores run. -/
  | rest
  /-- TIME_LOCK (R336). The time fabric measures links, names the reference and loads one ENCY and the route keys into every package. -/
  | timeLock (p : LockData)
  /-- TIME_LOCK_REPEAT (R337). A package's time lock is repeated in service at a commanded rest. -/
  | timeLockRepeat (p : LockData)
  /-- WAY_QUOTA_RECOMPUTE (R191). Every 2^20 cycles each die recomputes partition way quotas from the utility monitors. -/
  | wayQuotaRecompute (die : Nat)
  /-- ERROR_COUNTER_COPY (R344). Every 2^20 cycles the error counters are copied into each partition's control page. -/
  | errorCounterCopy
  /-- CHECKPOINT_ROUND_START (R348). An armed round freezes the VD's dirty units at a bar line and starts copying. -/
  | checkpointRoundStart
  /-- CHECKPOINT_RETIRE (R348). After the copy the diverted lines move back from spare units to their units. -/
  | checkpointRetire
  /-- CHECKPOINT_ROUND_END (R348). A round ends done or with error and adds 1 to the named counter. -/
  | checkpointRoundEnd
  /-- VD_SCHEDULE_OUT (R373). Clearing a VDSCHED bit pre-empts the VD's free strands. -/
  | vdScheduleOut (part x : Nat)
  /-- VD_SCHEDULE_IN (R373). Setting a VDSCHED bit resumes the VD's strands and signals its interrupt ring. -/
  | vdScheduleIn (part x : Nat)
  /-- VD_RESET (R375). A write of RESET with RETAIN set starts a reset of a VD. -/
  | vdReset (vd : Nat)
  /-- VD_TEARDOWN (R376). A write of RESET with RETAIN clear starts a teardown of a VD. -/
  | vdTeardown (vd : Nat)
  /-- VD_RESET_EFFECT (R376). At E the tenant generation advances, work is cancelled, ports advanced and closed and translations invalidated. -/
  | vdResetEffect (vd : Nat)
  /-- VD_QUIET (R376). At Q the VD is quiet, its counters reset and, on teardown, its keys erased and frames returned. -/
  | vdQuiet (vd : Nat)
  /-- PORT_OPEN (R311). The Coachman opens a destination port for a VD at GEN 0. -/
  | portOpen (x y port vd : Nat)
  /-- PORT_CLOSE (R311). The Coachman closes a destination port. -/
  | portClose (x y port : Nat)
  /-- DEVICE_REGISTER_WRITE (R182). A write to a device register that has no behaviour of its own. -/
  | deviceRegisterWrite (w : DevWrite)
  /-- CORE_RETIRE (R378). The Coachman retires a failing core at a bar line and maps its number to a spare. -/
  | coreRetire (core : Nat)
  /-- PARTITION_MOVE (R380). Crews, Drays and spares move between partitions at an ENCY bar line. -/
  | partitionMove (src dst : Nat) (crews drays spares : Nat)
  /-- COACHMAN_TAKEOVER (R381). The standby Coachman takes over after 16 bars without heartbeat, a stop or an update. -/
  | coachmanTakeover
  /-- POWER_STATE_ENTRY (R382). A partition idle for 2^16 cycles enters the deepest power state its LTOL allows. -/
  | powerStateEntry (part : Nat)
  /-- POWER_WAKE (R382). A TAIL write, packet, interrupt or host access wakes a partition after its exit latency. -/
  | powerWake (part : Nat)
  /-- THERMAL_SAMPLE (R390). Every 4096 cycles the Coachman samples temperature and current and sets THERM with its action. -/
  | thermalSample (m : ThermalData)
  /-- THERMAL_LEVEL_EXIT (R391). A level whose condition has been false for 2^20 cycles is left for the next lower one. -/
  | thermalLevelExit
  /-- BRINGUP_STAGE_0 (R383). At power good the ROM starts the Coachmen, the entropy source draws keys and the host link trains. -/
  | bringupStage0 (p : Stage0Data)
  /-- BRINGUP_STAGE_1 (R392). The primary Coachman starts the discovery flood. -/
  | bringupStage1
  /-- DISCOVERY_PACKET (R392). A router takes its first discovery packet, sets its coordinates and floods onward. -/
  | discoveryPacket (x y : Nat) (dir : Dir)
  /-- DISCOVERY_ANSWER (R393). An enabled core's answer reaches the Coachman and sets ANSWERED. -/
  | discoveryAnswer (core : Nat)
  /-- MAP_BUILD (R393). At F + 1024 the Coachman builds the logical core map from the answered cores. -/
  | mapBuild
  /-- BRINGUP_STAGE_2 (R383, R394). Memory stacks and channels train, Strongbox trees are set up and the frame table cleared. -/
  | bringupStage2 (trained : Bool) (far : Bool) (checksum : BitVec 32)
  /-- BOOT_WAIT_RELEASE (R394). A core's slot 0 becomes runnable once its go word becomes non-zero. -/
  | bootWaitRelease (core : Nat)
  /-- BOOT_EXPIRY (R395). If the acknowledgement wait expires, unacknowledged cores leave the map. -/
  | bootExpiry
  /-- BRINGUP_STAGE_3 (R383). Links are measured, LINKLAT, TORUS, PEERPORT and ENDLAT loaded and time lock made. -/
  | bringupStage3 (p : Stage3Data)
  /-- LOCK_INTERFACE (R236). TDISP message that locks a VD's interface configuration. -/
  | lockInterface (vd : Nat)
  /-- START_INTERFACE (R236). TDISP message that moves a locked interface to RUN. -/
  | startInterface (vd : Nat)
  /-- STOP_INTERFACE (R236). TDISP message that stops a VD's interface. -/
  | stopInterface (vd : Nat)
  /-- HOST_TRANSACTION (R236). A host transaction to a VD in RUN is served on its selective stream or moves the interface to ERROR. -/
  | hostTransaction (t : HostTx)
  /-- MCTP_MESSAGE (R387). A management message over MCTP, SPDM or PLDM through the physical function. -/
  | mctpMessage (m : MgmtMsg)
  /-- FIRMWARE_UPDATE (R381, R387). A PLDM firmware update is applied by the standby Coachman, which then takes over. -/
  | firmwareUpdate (bar : Nat)
  /-- SCORED_BANK_ACCESS (R194). A scored scalar or vector scratchpad access, local or cluster, is performed at its bank cycle, with its bank conflicts resolved or raised as timing faults. -/
  | scoredBankAccess (id : Nat)
  /-- FABRIC_ACKNOWLEDGEMENT (R256, R257). The target's acknowledgement of an RST, ESEND, STRIPE chunk or VPUSH reaches the sender, completing the operation and echoing any rate mark. -/
  | fabricAcknowledgement (op : Nat) (mark : Bool)
  /-- DRAY_QUEUE_FULL_EXPIRY (R240). A DRAY word held 2^16 cycles by a full Dray command queue lands the QFULL status and enqueues nothing. -/
  | drayQueueFullExpiry (sid : Nat)
  /-- CHECKPOINT_UNIT_COPY (R348). The checkpoint engine completes the copy of one frozen unit into the area, after which writes to lines with LM = 0 go to the unit. -/
  | checkpointUnitCopy
  /-- FRAME_ASSIGNMENT (R231). The Coachman assigns a frame to a new VD or window, and the frame-table write completes only after every cached copy of its lines is invalidated. -/
  | frameAssignment (frame owner : Nat) (assigned fresh : Bool)
  /-- QUEUE_PAIR_CREATION (R250). A network queue pair is created with its rings, and its strict or report mode is fixed from the VD's peer count. -/
  | queuePairCreation (qp : Nat) (c : QpConfig)
  /-- VD_CREATION (R375). The Coachman creates or reassigns a VD, setting its STATE to active and its TROOT. -/
  | vdCreation (vd : Nat) (c : VdConfig)
  /-- RESERVED_STRAND_RELEASE (R353). The Coachman releases a reserved supervisor strand halted by a posted supervisor-level trap, so that the fault queue may restart it. -/
  | reservedStrandRelease (sid : Nat)
  /-- OPEN_SLOT_PURGE (R376). A switch purges a reset VD's buffered open-slot packets, counting each as a discard, within 4096 cycles of E. -/
  | openSlotPurge (vd : Nat)
  /-- EMPTY_MASK_WRITEBACK (R377). When a partition's way mask on a die becomes empty, its lines there are written back if dirty and invalidated within 2^16 cycles. -/
  | emptyMaskWriteback (part die : Nat)
  deriving DecidableEq, Repr

end Sys2Proof
end

