-- ==== Sys2Proof/WellFormed.lean ====
section
/-! DEFINITION. The codes of the operand types (R46, R51, R52, R80) and the constraints between fields that the types do
not express (R47, R48, R51, R53, R145, R147, R148, R254). -/
namespace Sys2Proof

/-- R52, R-format fn[5:4]. -/
def Width.code : Width → Nat
  | .w64 => 0 | .w32 => 1 | .w16 => 2 | .w8 => 3

/-- R52, R-format fn[5:4]. -/
def Width.ofCode : Nat → Option Width
  | 0 => some .w64 | 1 => some .w32 | 2 => some .w16 | 3 => some .w8 | _ => none

/-- The number of bits of a width. -/
def Width.bits : Width → Nat
  | .w64 => 64 | .w32 => 32 | .w16 => 16 | .w8 => 8

/-- R52, V-format ew of the integer majors. -/
def EW.code : EW → Nat
  | .e8 => 0 | .e16 => 1 | .e32 => 2 | .e64 => 3

/-- R52, V-format ew of the integer majors. -/
def EW.ofCode : Nat → Option EW
  | 0 => some .e8 | 1 => some .e16 | 2 => some .e32 | 3 => some .e64 | _ => none

/-- The number of bits of an element width. -/
def EW.bits : EW → Nat
  | .e8 => 8 | .e16 => 16 | .e32 => 32 | .e64 => 64

/-- R52, V-format ew of the floating majors. -/
def FEW.code : FEW → Nat
  | .bf16 => 0 | .fp16 => 1 | .fp32 => 2

/-- R52, V-format ew of the floating majors; 0b11 is illegal. -/
def FEW.ofCode : Nat → Option FEW
  | 0 => some .bf16 | 1 => some .fp16 | 2 => some .fp32 | _ => none

/-- The number of bits of a floating element. -/
def FEW.bits : FEW → Nat
  | .bf16 => 16 | .fp16 => 16 | .fp32 => 32

/-- R46; 0b11 is illegal. -/
def Space.code : Space → Nat
  | .loc => 0 | .clu => 1 | .vir => 2

/-- R46; 0b11 is illegal. -/
def Space.ofCode : Nat → Option Space
  | 0 => some .loc | 1 => some .clu | 2 => some .vir | _ => none

/-- R51, LD sizes; 0b111 is illegal. -/
def LdSize.code : LdSize → Nat
  | .b => 0 | .h => 1 | .w => 2 | .d => 3 | .bn => 4 | .hn => 5 | .wn => 6

/-- R51, LD sizes; 0b111 is illegal. -/
def LdSize.ofCode : Nat → Option LdSize
  | 0 => some .b | 1 => some .h | 2 => some .w | 3 => some .d | 4 => some .bn | 5 => some .hn | 6 => some .wn | _ => none

/-- The bytes of a load. -/
def LdSize.bytes : LdSize → Nat
  | .b | .bn => 1 | .h | .hn => 2 | .w | .wn => 4 | .d => 8

/-- R51, ST sizes; 0b100 to 0b111 are illegal. -/
def StSize.code : StSize → Nat
  | .b => 0 | .h => 1 | .w => 2 | .d => 3

/-- R51, ST sizes; 0b100 to 0b111 are illegal. -/
def StSize.ofCode : Nat → Option StSize
  | 0 => some .b | 1 => some .h | 2 => some .w | 3 => some .d | _ => none

/-- The bytes of a store. -/
def StSize.bytes : StSize → Nat
  | .b => 1 | .h => 2 | .w => 4 | .d => 8

/-- R51, AMO sizes: W and D only. -/
def AmoSize.code : AmoSize → Nat
  | .w => 2 | .d => 3

/-- R51, AMO sizes: W and D only. -/
def AmoSize.ofCode : Nat → Option AmoSize
  | 2 => some .w | 3 => some .d | _ => none

/-- The bytes of an AMO. -/
def AmoSize.bytes : AmoSize → Nat
  | .w => 4 | .d => 8

/-- R51, FENCE scopes; 5 to 7 are illegal. -/
def Scope.code : Scope → Nat
  | .strand => 0 | .core => 1 | .cluster => 2 | .partition => 3 | .ensemble => 4

/-- R51, FENCE scopes; 5 to 7 are illegal. -/
def Scope.ofCode : Nat → Option Scope
  | 0 => some .strand | 1 => some .core | 2 => some .cluster | 3 => some .partition | 4 => some .ensemble | _ => none

/-- R51, VCVT roundings; 6 and 7 are illegal. -/
def Rnd.code : Rnd → Nat
  | .dyn => 0 | .rne => 1 | .rtz => 2 | .rdn => 3 | .rup => 4 | .rst => 5

/-- R51, VCVT roundings; 6 and 7 are illegal. -/
def Rnd.ofCode : Nat → Option Rnd
  | 0 => some .dyn | 1 => some .rne | 2 => some .rtz | 3 => some .rdn | 4 => some .rup | 5 => some .rst | _ => none

/-- R51, group sizes; 0b100 to 0b111 are illegal. -/
def Grp.code : Grp → Nat
  | .n1 => 0 | .n2 => 1 | .n4 => 2 | .n8 => 3

/-- R51, group sizes; 0b100 to 0b111 are illegal. -/
def Grp.ofCode : Nat → Option Grp
  | 0 => some .n1 | 1 => some .n2 | 2 => some .n4 | 3 => some .n8 | _ => none

/-- The number of registers of a group. -/
def Grp.size : Grp → Nat
  | .n1 => 1 | .n2 => 2 | .n4 => 4 | .n8 => 8

/-- R151, b[1:0]. -/
def RedT.kindCode : RedT → Nat
  | .sint _ => 0 | .uint _ => 1 | .flt _ => 2

/-- R151, the ew code in the coding that the kind selects. -/
def RedT.ewCode : RedT → Nat
  | .sint e => e.code | .uint e => e.code | .flt e => e.code

/-- R151: kind 0b11 is illegal, and the floating kind takes the floating coding. -/
def RedT.ofBits (kind ew : Nat) : Option RedT :=
  match kind with
  | 0 => (EW.ofCode ew).map .sint
  | 1 => (EW.ofCode ew).map .uint
  | 2 => (FEW.ofCode ew).map .flt
  | _ => none

/-- R151, b[3:2] of VSCAN. -/
def ScanOp.code : ScanOp → Nat
  | .sum => 0 | .max => 1 | .min => 2

/-- R151, b[3:2] of VSCAN; 0b11 is illegal. -/
def ScanOp.ofCode : Nat → Option ScanOp
  | 0 => some .sum | 1 => some .max | 2 => some .min | _ => none

/-- R47: pr = 0 with pn = 1 is an illegal encoding of the guard fields. -/
def Guard.ok (gd : Guard) : Bool := !(gd.pr == 0 && gd.pn)

/-- The unguarded form (R47). -/
def Guard.always : Guard := ⟨0, false⟩

/-- R47: the guard fields as read from a word. -/
def Guard.ofBits (pr pn : Nat) : Option Guard :=
  let gd : Guard := ⟨Fin.ofNat 8 pr, pn == 1⟩
  if gd.ok then some gd else none

/-- What an instruction must meet beyond its types: the guard fields (R47), even g pairs and aligned groups (R48), bit
fields inside the register (R51), assigned format codes (R53), the rounding limits of R145, R147 and R148, the stripe's
tickets (R254), and for the steps of the machine, agents that exist. -/
def Instr.wellFormed : Instr → Bool
  | .br gd _ => gd.ok
  | .hplane vb ga fmt n => decide (ga.val % 2 = 0) && decide (vb.val % n.size = 0) && decide (fmt.val < 30)
  | .hzero _ ga => decide (ga.val % 2 = 0)
  | .hread _ vb ga fmt n => decide (ga.val % 2 = 0) && decide (vb.val % n.size = 0) && decide (fmt.val < 30)
  | .hwrite _ vb ga n => decide (ga.val % 2 = 0) && decide (vb.val % n.size = 0)
  | .hchk _ ga => decide (ga.val % 2 = 0)
  | .hanch _ ga => decide (ga.val % 2 = 0)
  | .hmmaAcc _ vb ga fmt n => decide (ga.val % 2 = 0) && decide (vb.val % n.size = 0) && decide (fmt.val < 30)
  | .hmmaSet _ vb ga fmt n => decide (ga.val % 2 = 0) && decide (vb.val % n.size = 0) && decide (fmt.val < 30)
  | .hmmsAcc _ vb ga fmt n => decide (ga.val % 2 = 0) && decide (vb.val % n.size = 0) && decide (fmt.val < 30)
  | .hmmsSet _ vb ga fmt n => decide (ga.val % 2 = 0) && decide (vb.val % n.size = 0) && decide (fmt.val < 30)
  | .stripe tk _ _ _ n => decide (tk.val + n.val ≤ 15)
  | .vpush _ _ vb n => decide (vb.val % n.size = 0)
  | .vpull _ _ vb n => decide (vb.val % n.size = 0)
  | .carr _ _ _ gd => gd.ok
  | .cwait _ _ _ gd => gd.ok
  | .cancel _ _ gd => gd.ok
  | .ckpt _ _ _ gd => gd.ok
  | .cset _ _ _ gd => gd.ok
  | .add _ _ _ gd _ => gd.ok
  | .sub _ _ _ gd _ => gd.ok
  | .and _ _ _ gd _ => gd.ok
  | .or _ _ _ gd _ => gd.ok
  | .xor _ _ _ gd _ => gd.ok
  | .shl _ _ _ gd _ => gd.ok
  | .shr _ _ _ gd _ => gd.ok
  | .sar _ _ _ gd _ => gd.ok
  | .min _ _ _ gd _ => gd.ok
  | .max _ _ _ gd _ => gd.ok
  | .minn _ _ _ gd _ => gd.ok
  | .maxn _ _ _ gd _ => gd.ok
  | .clz _ _ gd _ => gd.ok
  | .popc _ _ gd _ => gd.ok
  | .mul _ _ _ gd _ => gd.ok
  | .mulh _ _ _ gd _ => gd.ok
  | .mulhn _ _ _ gd _ => gd.ok
  | .div _ _ _ gd _ => gd.ok
  | .divn _ _ _ gd _ => gd.ok
  | .rem _ _ _ gd _ => gd.ok
  | .remn _ _ _ gd _ => gd.ok
  | .cmpEq _ _ _ gd _ => gd.ok
  | .cmpNe _ _ _ gd _ => gd.ok
  | .cmpLt _ _ _ gd _ => gd.ok
  | .cmpGe _ _ _ gd _ => gd.ok
  | .cmpLtn _ _ _ gd _ => gd.ok
  | .cmpGen _ _ _ gd _ => gd.ok
  | .plogAnd _ _ _ gd => gd.ok
  | .plogOr _ _ _ gd => gd.ok
  | .plogXor _ _ _ gd => gd.ok
  | .plogAndn _ _ _ gd => gd.ok
  | .bfx _ _ len1 pos => decide (pos.val + len1.val + 1 ≤ 64)
  | .bfxs _ _ len1 pos => decide (pos.val + len1.val + 1 ≤ 64)
  | .bfi _ _ len1 pos => decide (pos.val + len1.val + 1 ≤ 64)
  | .vcvt d _ fmt _ _ rnd => decide (fmt.val < 30) && decide (¬ (rnd = .rst ∧ d.val = 31))
  | .vqnt _ _ fmt _ _ => decide (fmt.val < 30)
  | .vdqnt _ _ fmt _ _ rnd => decide (fmt.val < 30) && decide (rnd ≠ .rst)
  | .vrndi d _ _ _ rnd => decide (¬ (rnd = .rst ∧ d.val = 31))
  | .land sid => decide (sid < 15392)
  | .laneStart sid => decide (sid < 15392)
  | .faultOverflowMove part => decide (part < 48)
  | .atWake sid => decide (sid < 15392)
  | .cwaitWake sid => decide (sid < 15392)
  | .erecvWake sid => decide (sid < 15392)
  | .vpullWake sid => decide (sid < 15392)
  | .dwaitWake sid => decide (sid < 15392)
  | .harpCommandStart core => decide (core < 962)
  | .translationWalk core vd _ => decide (core < 962) && decide (vd < 192)
  | .l1LineExpiry core _ => decide (core < 962)
  | .memoryLineRead _ vd => decide (vd < 192)
  | .drayCommandStart dray => decide (dray < 48)
  | .drayCommandCompletion dray _ => decide (dray < 48)
  | .drayTimeout dray _ => decide (dray < 48)
  | .migrationLineCopy slot => decide (slot < 16)
  | .portGenerationAdvance x y port => decide (x < 32) && decide (y < 32) && decide (port < 64)
  | .networkWorkRequest qp _ _ => decide (qp < 4096)
  | .networkInbound qp msg => decide (qp < 4096) && msg.pass.isNone
  | .networkTimeout qp => decide (qp < 4096)
  | .launchQueuePoll part q => decide (part < 48) && decide (q < 4)
  | .launchEngineTake part => decide (part < 48)
  | .slotFreed sid => decide (sid < 15392)
  | .unitCompletion sid => decide (sid < 15392)
  | .preq part => decide (part < 48)
  | .rreq part => decide (part < 48)
  | .freePreempt sid => decide (sid < 15392)
  | .interruptDelivery vd => decide (vd < 192)
  | .wayQuotaRecompute die => decide (die < 4)
  | .vdScheduleOut part x => decide (part < 48) && decide (x < 8)
  | .vdScheduleIn part x => decide (part < 48) && decide (x < 8)
  | .vdReset vd => decide (vd < 192)
  | .vdTeardown vd => decide (vd < 192)
  | .vdResetEffect vd => decide (vd < 192)
  | .vdQuiet vd => decide (vd < 192)
  | .portOpen x y port vd => decide (x < 32) && decide (y < 32) && decide (port < 64) && decide (vd < 192)
  | .portClose x y port => decide (x < 32) && decide (y < 32) && decide (port < 64)
  | .coreRetire core => decide (core < 962)
  | .partitionMove src dst _ _ _ => decide (src < 48) && decide (dst < 48)
  | .powerStateEntry part => decide (part < 48)
  | .powerWake part => decide (part < 48)
  | .discoveryPacket x y _ => decide (x < 32) && decide (y < 32)
  | .discoveryAnswer core => decide (core < 962)
  | .bootWaitRelease core => decide (core < 962)
  | .lockInterface vd => decide (vd < 192)
  | .startInterface vd => decide (vd < 192)
  | .stopInterface vd => decide (vd < 192)
  | .drayQueueFullExpiry sid => decide (sid < 15392)
  | .queuePairCreation qp _ => decide (qp < 4096)
  | .vdCreation vd _ => decide (vd < 192)
  | .reservedStrandRelease sid => decide (sid < 15392)
  | .openSlotPurge vd => decide (vd < 192)
  | .emptyMaskWriteback part die => decide (part < 48) && decide (die < 4)
  | _ => true

end Sys2Proof
end

