-- ==== Sys2Proof/Decode.lean ====
section
/-! DEFINITION. Decoding (R39, R45 to R54), total on every word and rejecting by name, and the encoder written from the
same tables. Words are natural numbers below 2^32. -/
namespace Sys2Proof

/-- The refusals of R40 and R54, in the order in which a word meets them. -/
inductive DecodeError
  | illegalPair | reservedMajor | unassignedMinor | fixedField | formatCode (code : Nat)
  deriving DecidableEq, Repr

/-- Bits [lo + n − 1 : lo] of a word. -/
def fld (w lo n : Nat) : Nat := w / 2 ^ lo % 2 ^ n

/-- A register or immediate field of k values at bit lo. -/
def reg (k : Nat) [NeZero k] (w lo : Nat) : Fin k := Fin.ofNat k (w / 2 ^ lo)

/-- R51: a field that must be zero. -/
def zeroF (w lo n : Nat) (k : Except DecodeError Instr) : Except DecodeError Instr :=
  if fld w lo n = 0 then k else .error .fixedField

/-- R51: a field that must hold a fixed value. -/
def fixF (w lo n v : Nat) (k : Except DecodeError Instr) : Except DecodeError Instr :=
  if fld w lo n = v then k else .error .fixedField

/-- R48, R51: a constraint between fields. -/
def needF (p : Prop) [Decidable p] (k : Except DecodeError Instr) : Except DecodeError Instr :=
  if p then k else .error .fixedField

/-- R51, R52: a coded field, illegal where the code names nothing. -/
def codeF {α : Type} (c : Option α) (k : α → Except DecodeError Instr) : Except DecodeError Instr :=
  match c with
  | some x => k x
  | none => .error .fixedField

/-- R53: format codes 30 and 31 are reserved. -/
def fmtF (w lo : Nat) (k : Except DecodeError Instr) : Except DecodeError Instr :=
  if fld w lo 5 < 30 then k else .error (.formatCode (fld w lo 5))

/-- Major 0x00 (R49, R50), family SYS, with the field uses of R51. -/
def decSys (w : Nat) : Except DecodeError Instr :=
  match fld w 0 6 with
  | 0 => zeroF w 6 19 <| .ok (.nop)
  | 1 => zeroF w 6 19 <| .ok (.halt)
  | 2 => zeroF w 15 10 <| .ok (.trap (reg 512 w 6))
  | 3 => zeroF w 6 19 <| .ok (.eret)
  | 4 => zeroF w 15 5 <| .ok (.csrr (reg 32 w 20) (reg 512 w 6))
  | 5 => zeroF w 20 5 <| .ok (.csrw (reg 512 w 6) (reg 32 w 15))
  | 6 => .ok (.csrx (reg 32 w 20) (reg 512 w 6) (reg 32 w 15))
  | 7 => zeroF w 6 19 <| .ok (.yield)
  | 8 => zeroF w 6 9 <| .ok (.ctxsave (reg 32 w 20) (reg 32 w 15))
  | 9 => zeroF w 6 9 <| .ok (.ctxload (reg 32 w 20) (reg 32 w 15))
  | _ => .error .unassignedMinor

/-- Major 0x01 (R49, R50), family BR, with the field uses of R51. -/
def decBr (w : Nat) : Except DecodeError Instr :=
  codeF (Guard.ofBits (fld w 22 3) (fld w 21 1)) fun gd => .ok (.br gd (reg 2097152 w 0))

/-- Major 0x02 (R49, R50), family JMP, with the field uses of R51. -/
def decJmp (w : Nat) : Except DecodeError Instr :=
  match fld w 20 5 with
  | 0 => .ok (.jmp (reg 1048576 w 0))
  | 1 => .ok (.call (reg 1048576 w 0))
  | 2 => zeroF w 0 15 <| .ok (.ret (reg 32 w 15))
  | 3 => zeroF w 0 15 <| .ok (.callr (reg 32 w 15))
  | _ => .error .unassignedMinor

/-- Major 0x03 (R49, R50), family TIME, with the field uses of R51. -/
def decTime (w : Nat) : Except DecodeError Instr :=
  match fld w 12 3 with
  | 0 => zeroF w 20 5 <| .ok (.atLcy (reg 32 w 15) (reg 4096 w 0))
  | 1 => zeroF w 15 10 <| .ok (.cue (reg 4096 w 0))
  | 2 => zeroF w 0 12 <| zeroF w 20 5 <| .ok (.tune (reg 32 w 15))
  | _ => .error .unassignedMinor

/-- Major 0x04 (R49, R50), family LD, with the field uses of R51. -/
def decLd (w : Nat) : Except DecodeError Instr :=
  codeF (Space.ofCode (fld w 13 2)) fun sp => codeF (LdSize.ofCode (fld w 10 3)) fun sz => .ok (.ld (reg 32 w 20) (reg 32 w 15) sp sz (reg 1024 w 0))

/-- Major 0x05 (R49, R50), family ST, with the field uses of R51. -/
def decSt (w : Nat) : Except DecodeError Instr :=
  codeF (Space.ofCode (fld w 13 2)) fun sp => codeF (StSize.ofCode (fld w 10 3)) fun sz => .ok (.st (reg 32 w 20) (reg 32 w 15) sp sz (reg 1024 w 0))

/-- Major 0x06 (R49, R50), family AMO, with the field uses of R51. -/
def decAmo (w : Nat) : Except DecodeError Instr :=
  match fld w 0 4 with
  | 0 => zeroF w 6 1 <| codeF (AmoSize.ofCode (fld w 7 3)) fun sz => codeF (Space.ofCode (fld w 4 2)) fun sp => .ok (.amoAdd (reg 32 w 20) (reg 32 w 15) (reg 32 w 10) sz sp)
  | 1 => zeroF w 6 1 <| codeF (AmoSize.ofCode (fld w 7 3)) fun sz => codeF (Space.ofCode (fld w 4 2)) fun sp => .ok (.amoMin (reg 32 w 20) (reg 32 w 15) (reg 32 w 10) sz sp)
  | 2 => zeroF w 6 1 <| codeF (AmoSize.ofCode (fld w 7 3)) fun sz => codeF (Space.ofCode (fld w 4 2)) fun sp => .ok (.amoMax (reg 32 w 20) (reg 32 w 15) (reg 32 w 10) sz sp)
  | 3 => zeroF w 6 1 <| codeF (AmoSize.ofCode (fld w 7 3)) fun sz => codeF (Space.ofCode (fld w 4 2)) fun sp => .ok (.amoMinn (reg 32 w 20) (reg 32 w 15) (reg 32 w 10) sz sp)
  | 4 => zeroF w 6 1 <| codeF (AmoSize.ofCode (fld w 7 3)) fun sz => codeF (Space.ofCode (fld w 4 2)) fun sp => .ok (.amoMaxn (reg 32 w 20) (reg 32 w 15) (reg 32 w 10) sz sp)
  | 5 => zeroF w 6 1 <| codeF (AmoSize.ofCode (fld w 7 3)) fun sz => codeF (Space.ofCode (fld w 4 2)) fun sp => .ok (.amoAnd (reg 32 w 20) (reg 32 w 15) (reg 32 w 10) sz sp)
  | 6 => zeroF w 6 1 <| codeF (AmoSize.ofCode (fld w 7 3)) fun sz => codeF (Space.ofCode (fld w 4 2)) fun sp => .ok (.amoOr (reg 32 w 20) (reg 32 w 15) (reg 32 w 10) sz sp)
  | 7 => zeroF w 6 1 <| codeF (AmoSize.ofCode (fld w 7 3)) fun sz => codeF (Space.ofCode (fld w 4 2)) fun sp => .ok (.amoXor (reg 32 w 20) (reg 32 w 15) (reg 32 w 10) sz sp)
  | 8 => zeroF w 6 1 <| codeF (AmoSize.ofCode (fld w 7 3)) fun sz => codeF (Space.ofCode (fld w 4 2)) fun sp => .ok (.amoSwap (reg 32 w 20) (reg 32 w 15) (reg 32 w 10) sz sp)
  | 9 => zeroF w 6 1 <| codeF (AmoSize.ofCode (fld w 7 3)) fun sz => codeF (Space.ofCode (fld w 4 2)) fun sp => .ok (.amoCas (reg 32 w 20) (reg 32 w 15) (reg 32 w 10) sz sp)
  | _ => .error .unassignedMinor

/-- Major 0x07 (R49, R50), family FENCE, with the field uses of R51. -/
def decFence (w : Nat) : Except DecodeError Instr :=
  match fld w 12 3 with
  | 0 => zeroF w 6 3 <| zeroF w 15 5 <| codeF (Scope.ofCode (fld w 9 3)) fun scope => .ok (.fence (reg 32 w 20) scope (reg 64 w 0))
  | 1 => zeroF w 20 5 <| .ok (.pref (reg 32 w 15) (reg 4096 w 0))
  | 2 => zeroF w 20 5 <| .ok (.flush (reg 32 w 15) (reg 4096 w 0))
  | 3 => zeroF w 20 5 <| .ok (.inval (reg 32 w 15) (reg 4096 w 0))
  | 4 => zeroF w 0 12 <| zeroF w 20 5 <| .ok (.rpub (reg 32 w 15))
  | _ => .error .unassignedMinor

/-- Major 0x08 (R49, R50), family VMEM, with the field uses of R51. -/
def decVmem (w : Nat) : Except DecodeError Instr :=
  match fld w 0 4 with
  | 0 => zeroF w 10 5 <| codeF (EW.ofCode (fld w 5 2)) fun e => .ok (.vld (reg 32 w 20) (reg 32 w 15) (reg 8 w 7) e (fld w 4 1 == 1))
  | 1 => zeroF w 10 5 <| codeF (EW.ofCode (fld w 5 2)) fun e => .ok (.vst (reg 32 w 20) (reg 32 w 15) (reg 8 w 7) e (fld w 4 1 == 1))
  | 2 => codeF (EW.ofCode (fld w 5 2)) fun e => .ok (.vlds (reg 32 w 20) (reg 32 w 15) (reg 32 w 10) (reg 8 w 7) e (fld w 4 1 == 1))
  | 3 => codeF (EW.ofCode (fld w 5 2)) fun e => .ok (.vsts (reg 32 w 20) (reg 32 w 15) (reg 32 w 10) (reg 8 w 7) e (fld w 4 1 == 1))
  | 4 => codeF (EW.ofCode (fld w 5 2)) fun e => .ok (.vldx (reg 32 w 20) (reg 32 w 15) (reg 32 w 10) (reg 8 w 7) e (fld w 4 1 == 1))
  | 5 => codeF (EW.ofCode (fld w 5 2)) fun e => .ok (.vstx (reg 32 w 20) (reg 32 w 15) (reg 32 w 10) (reg 8 w 7) e (fld w 4 1 == 1))
  | 6 => zeroF w 5 5 <| .ok (.vseg (reg 32 w 20) (reg 32 w 15) (reg 32 w 10) (fld w 4 1 == 1))
  | _ => .error .unassignedMinor

/-- Major 0x09 (R49, R50), family STREAM, with the field uses of R51. -/
def decStream (w : Nat) : Except DecodeError Instr :=
  match fld w 0 4 with
  | 0 => zeroF w 4 6 <| zeroF w 23 2 <| .ok (.sset (reg 8 w 20) (reg 32 w 15) (reg 32 w 10))
  | 1 => zeroF w 4 1 <| zeroF w 10 5 <| zeroF w 18 2 <| codeF (EW.ofCode (fld w 5 2)) fun e => .ok (.sld (reg 32 w 20) (reg 8 w 15) (reg 8 w 7) e)
  | 2 => zeroF w 4 1 <| zeroF w 10 5 <| zeroF w 18 2 <| codeF (EW.ofCode (fld w 5 2)) fun e => .ok (.sst (reg 32 w 20) (reg 8 w 15) (reg 8 w 7) e)
  | _ => .error .unassignedMinor

/-- Major 0x0a (R49, R50), family VAMO, with the field uses of R51. -/
def decVamo (w : Nat) : Except DecodeError Instr :=
  match fld w 0 4 with
  | 0 => codeF (EW.ofCode (fld w 5 2)) fun e => .ok (.vamoAdd (reg 32 w 20) (reg 32 w 15) (reg 32 w 10) (reg 8 w 7) e (fld w 4 1 == 1))
  | 1 => codeF (EW.ofCode (fld w 5 2)) fun e => .ok (.vamoMin (reg 32 w 20) (reg 32 w 15) (reg 32 w 10) (reg 8 w 7) e (fld w 4 1 == 1))
  | 2 => codeF (EW.ofCode (fld w 5 2)) fun e => .ok (.vamoMax (reg 32 w 20) (reg 32 w 15) (reg 32 w 10) (reg 8 w 7) e (fld w 4 1 == 1))
  | 3 => codeF (EW.ofCode (fld w 5 2)) fun e => .ok (.vamoMinn (reg 32 w 20) (reg 32 w 15) (reg 32 w 10) (reg 8 w 7) e (fld w 4 1 == 1))
  | 4 => codeF (EW.ofCode (fld w 5 2)) fun e => .ok (.vamoMaxn (reg 32 w 20) (reg 32 w 15) (reg 32 w 10) (reg 8 w 7) e (fld w 4 1 == 1))
  | 5 => codeF (EW.ofCode (fld w 5 2)) fun e => .ok (.vamoAnd (reg 32 w 20) (reg 32 w 15) (reg 32 w 10) (reg 8 w 7) e (fld w 4 1 == 1))
  | 6 => codeF (EW.ofCode (fld w 5 2)) fun e => .ok (.vamoOr (reg 32 w 20) (reg 32 w 15) (reg 32 w 10) (reg 8 w 7) e (fld w 4 1 == 1))
  | 7 => codeF (EW.ofCode (fld w 5 2)) fun e => .ok (.vamoXor (reg 32 w 20) (reg 32 w 15) (reg 32 w 10) (reg 8 w 7) e (fld w 4 1 == 1))
  | 8 => codeF (FEW.ofCode (fld w 5 2)) fun e => .ok (.vamoFadd (reg 32 w 20) (reg 32 w 15) (reg 32 w 10) (reg 8 w 7) e (fld w 4 1 == 1))
  | _ => .error .unassignedMinor

/-- Major 0x0b (R49, R50), family VCTL, with the field uses of R51. -/
def decVctl (w : Nat) : Except DecodeError Instr :=
  match fld w 12 3 with
  | 0 => zeroF w 2 10 <| codeF (EW.ofCode (fld w 0 2)) fun e => .ok (.setvl (reg 32 w 20) (reg 32 w 15) e)
  | 1 => zeroF w 4 8 <| .ok (.vloop (reg 32 w 20) (reg 32 w 15) (reg 16 w 0))
  | 2 => zeroF w 0 12 <| zeroF w 15 10 <| .ok (.vsync)
  | _ => .error .unassignedMinor

/-- Major 0x0c (R49, R50), family HARPC, with the field uses of R51. -/
def decHarpc (w : Nat) : Except DecodeError Instr :=
  match fld w 0 3 with
  | 0 => zeroF w 21 4 <| codeF (Grp.ofCode (fld w 3 3)) fun n => needF (fld w 11 1 = 0) <| needF (fld w 16 5 % n.size = 0) <| fmtF w 6 <| .ok (.hplane (reg 32 w 16) (reg 32 w 11) (reg 32 w 6) n)
  | 1 => zeroF w 3 8 <| zeroF w 16 5 <| needF (fld w 11 1 = 0) <| .ok (.hzero (reg 16 w 21) (reg 32 w 11))
  | 2 => codeF (Grp.ofCode (fld w 3 3)) fun n => needF (fld w 11 1 = 0) <| needF (fld w 16 5 % n.size = 0) <| fmtF w 6 <| .ok (.hread (reg 16 w 21) (reg 32 w 16) (reg 32 w 11) (reg 32 w 6) n)
  | 3 => zeroF w 6 5 <| codeF (Grp.ofCode (fld w 3 3)) fun n => needF (fld w 11 1 = 0) <| needF (fld w 16 5 % n.size = 0) <| .ok (.hwrite (reg 16 w 21) (reg 32 w 16) (reg 32 w 11) n)
  | 4 => zeroF w 3 8 <| zeroF w 16 5 <| needF (fld w 11 1 = 0) <| .ok (.hchk (reg 16 w 21) (reg 32 w 11))
  | 5 => zeroF w 3 8 <| zeroF w 16 5 <| needF (fld w 11 1 = 0) <| .ok (.hanch (reg 16 w 21) (reg 32 w 11))
  | _ => .error .unassignedMinor

/-- Major 0x0d (R49, R50), family HMMA, with the field uses of R51. -/
def decHmma (w : Nat) : Except DecodeError Instr :=
  match fld w 0 3 with
  | 0 => codeF (Grp.ofCode (fld w 3 3)) fun n => needF (fld w 11 1 = 0) <| needF (fld w 16 5 % n.size = 0) <| fmtF w 6 <| .ok (.hmmaAcc (reg 16 w 21) (reg 32 w 16) (reg 32 w 11) (reg 32 w 6) n)
  | 1 => codeF (Grp.ofCode (fld w 3 3)) fun n => needF (fld w 11 1 = 0) <| needF (fld w 16 5 % n.size = 0) <| fmtF w 6 <| .ok (.hmmaSet (reg 16 w 21) (reg 32 w 16) (reg 32 w 11) (reg 32 w 6) n)
  | _ => .error .fixedField

/-- Major 0x0e (R49, R50), family HMMS, with the field uses of R51. -/
def decHmms (w : Nat) : Except DecodeError Instr :=
  match fld w 0 3 with
  | 0 => codeF (Grp.ofCode (fld w 3 3)) fun n => needF (fld w 11 1 = 0) <| needF (fld w 16 5 % n.size = 0) <| fmtF w 6 <| .ok (.hmmsAcc (reg 16 w 21) (reg 32 w 16) (reg 32 w 11) (reg 32 w 6) n)
  | 1 => codeF (Grp.ofCode (fld w 3 3)) fun n => needF (fld w 11 1 = 0) <| needF (fld w 16 5 % n.size = 0) <| fmtF w 6 <| .ok (.hmmsSet (reg 16 w 21) (reg 32 w 16) (reg 32 w 11) (reg 32 w 6) n)
  | _ => .error .fixedField

/-- Major 0x0f (R49, R50), family SEND, with the field uses of R51. -/
def decSend (w : Nat) : Except DecodeError Instr :=
  match fld w 0 3 with
  | 0 => zeroF w 3 3 <| zeroF w 16 5 <| .ok (.send (reg 16 w 21) (reg 32 w 11) (reg 32 w 6))
  | 1 => zeroF w 3 3 <| zeroF w 21 4 <| .ok (.recv (reg 32 w 16) (reg 32 w 11) (reg 32 w 6))
  | 2 => zeroF w 3 3 <| zeroF w 16 5 <| .ok (.esend (reg 16 w 21) (reg 32 w 11) (reg 32 w 6))
  | 3 => zeroF w 3 3 <| zeroF w 21 4 <| .ok (.erecv (reg 32 w 16) (reg 32 w 11) (reg 32 w 6))
  | 4 => zeroF w 5 1 <| needF (fld w 21 4 + fld w 3 2 ≤ 15) <| .ok (.stripe (reg 16 w 21) (reg 32 w 16) (reg 32 w 11) (reg 32 w 6) (reg 4 w 3))
  | _ => .error .unassignedMinor

/-- Major 0x10 (R49, R50), family REMOTE, with the field uses of R51. -/
def decRemote (w : Nat) : Except DecodeError Instr :=
  match fld w 0 3 with
  | 0 => zeroF w 6 5 <| codeF (LdSize.ofCode (fld w 3 3)) fun sz => .ok (.rld (reg 16 w 21) (reg 32 w 16) (reg 32 w 11) sz)
  | 1 => zeroF w 6 5 <| codeF (StSize.ofCode (fld w 3 3)) fun sz => .ok (.rst (reg 16 w 21) (reg 32 w 16) (reg 32 w 11) sz)
  | 2 =>
    match fld w 3 3 with
    | 0 => .ok (.ramoAdd (reg 16 w 21) (reg 32 w 16) (reg 32 w 11) (reg 32 w 6))
    | 1 => .ok (.ramoMin (reg 16 w 21) (reg 32 w 16) (reg 32 w 11) (reg 32 w 6))
    | 2 => .ok (.ramoMax (reg 16 w 21) (reg 32 w 16) (reg 32 w 11) (reg 32 w 6))
    | 3 => .ok (.ramoMinn (reg 16 w 21) (reg 32 w 16) (reg 32 w 11) (reg 32 w 6))
    | 4 => .ok (.ramoMaxn (reg 16 w 21) (reg 32 w 16) (reg 32 w 11) (reg 32 w 6))
    | 5 => .ok (.ramoOr (reg 16 w 21) (reg 32 w 16) (reg 32 w 11) (reg 32 w 6))
    | 6 => .ok (.ramoSwap (reg 16 w 21) (reg 32 w 16) (reg 32 w 11) (reg 32 w 6))
    | _ => .ok (.ramoCas (reg 16 w 21) (reg 32 w 16) (reg 32 w 11) (reg 32 w 6))
  | 3 => zeroF w 16 5 <| codeF (Grp.ofCode (fld w 3 3)) fun n => needF (fld w 6 5 % n.size = 0) <| .ok (.vpush (reg 16 w 21) (reg 32 w 11) (reg 32 w 6) n)
  | 4 => zeroF w 21 4 <| codeF (Grp.ofCode (fld w 3 3)) fun n => needF (fld w 6 5 % n.size = 0) <| .ok (.vpull (reg 32 w 16) (reg 32 w 11) (reg 32 w 6) n)
  | _ => .error .unassignedMinor

/-- Major 0x11 (R49, R50), family TICKET, with the field uses of R51. -/
def decTicket (w : Nat) : Except DecodeError Instr :=
  match fld w 0 3 with
  | 0 => zeroF w 3 8 <| .ok (.tknar (reg 16 w 21) (reg 32 w 16) (reg 32 w 11))
  | 1 => zeroF w 6 5 <| zeroF w 16 5 <| codeF (Space.ofCode (fld w 3 3)) fun sp => .ok (.tkld (reg 16 w 21) (reg 32 w 11) sp)
  | 2 => zeroF w 6 5 <| zeroF w 16 5 <| codeF (Space.ofCode (fld w 3 3)) fun sp => .ok (.tkst (reg 16 w 21) (reg 32 w 11) sp)
  | 3 => zeroF w 3 8 <| zeroF w 15 6 <| .ok (.tkmov (reg 16 w 21) (reg 16 w 11))
  | 4 => zeroF w 3 13 <| .ok (.tkchk (reg 16 w 21) (reg 32 w 16))
  | _ => .error .unassignedMinor

/-- Major 0x12 (R49, R50), family DRAY, with the field uses of R51. -/
def decDray (w : Nat) : Except DecodeError Instr :=
  match fld w 0 3 with
  | 0 => zeroF w 3 3 <| .ok (.drayCopy (reg 16 w 21) (reg 32 w 16) (reg 32 w 11) (reg 32 w 6))
  | 1 => zeroF w 3 3 <| .ok (.drayGath (reg 16 w 21) (reg 32 w 16) (reg 32 w 11) (reg 32 w 6))
  | 2 => zeroF w 3 3 <| .ok (.drayScat (reg 16 w 21) (reg 32 w 16) (reg 32 w 11) (reg 32 w 6))
  | 3 => zeroF w 3 3 <| .ok (.draySeal (reg 16 w 21) (reg 32 w 16) (reg 32 w 11) (reg 32 w 6))
  | 4 => zeroF w 3 3 <| .ok (.drayUnseal (reg 16 w 21) (reg 32 w 16) (reg 32 w 11) (reg 32 w 6))
  | 5 => zeroF w 3 3 <| .ok (.drayFill (reg 16 w 21) (reg 32 w 16) (reg 32 w 11) (reg 32 w 6))
  | _ => .error .unassignedMinor

/-- Major 0x13 (R49, R50), family DRAYQ, with the field uses of R51. -/
def decDrayq (w : Nat) : Except DecodeError Instr :=
  match fld w 0 3 with
  | 0 => zeroF w 3 3 <| zeroF w 21 4 <| .ok (.dwait (reg 32 w 16) (reg 32 w 11) (reg 32 w 6))
  | 1 => zeroF w 3 8 <| zeroF w 21 4 <| .ok (.dstat (reg 32 w 16) (reg 32 w 11))
  | 2 => zeroF w 3 8 <| zeroF w 21 4 <| .ok (.dcancel (reg 32 w 16) (reg 32 w 11))
  | _ => .error .unassignedMinor

/-- Major 0x14 (R49, R50), family NET, with the field uses of R51. -/
def decNet (w : Nat) : Except DecodeError Instr :=
  match fld w 0 3 with
  | 0 => zeroF w 3 3 <| .ok (.npost (reg 16 w 21) (reg 32 w 16) (reg 32 w 11) (reg 32 w 6))
  | 1 => zeroF w 3 8 <| zeroF w 21 4 <| .ok (.npoll (reg 32 w 16) (reg 32 w 11))
  | _ => .error .unassignedMinor

/-- Major 0x15 (R49, R50), family COUNT, with the field uses of R51. -/
def decCount (w : Nat) : Except DecodeError Instr :=
  match fld w 0 6 with
  | 0 => zeroF w 14 1 <| codeF (Guard.ofBits (fld w 7 3) (fld w 6 1)) fun gd => .ok (.carr (reg 32 w 20) (reg 32 w 15) (reg 16 w 10) gd)
  | 1 => zeroF w 14 1 <| codeF (Guard.ofBits (fld w 7 3) (fld w 6 1)) fun gd => .ok (.cwait (reg 32 w 20) (reg 32 w 15) (reg 16 w 10) gd)
  | 2 => zeroF w 10 5 <| codeF (Guard.ofBits (fld w 7 3) (fld w 6 1)) fun gd => .ok (.cancel (reg 32 w 20) (reg 32 w 15) gd)
  | 3 => zeroF w 14 1 <| codeF (Guard.ofBits (fld w 7 3) (fld w 6 1)) fun gd => .ok (.ckpt (reg 32 w 20) (reg 32 w 15) (reg 16 w 10) gd)
  | 4 => zeroF w 14 1 <| codeF (Guard.ofBits (fld w 7 3) (fld w 6 1)) fun gd => .ok (.cset (reg 32 w 20) (reg 32 w 15) (reg 16 w 10) gd)
  | _ => .error .unassignedMinor

/-- Major 0x16 (R49, R50), family PRIV, with the field uses of R51. -/
def decPriv (w : Nat) : Except DecodeError Instr :=
  match fld w 0 3 with
  | 0 =>
    match fld w 3 3 with
    | 0 => zeroF w 21 4 <| .ok (.xlatRead (reg 32 w 16) (reg 32 w 11) (reg 32 w 6))
    | 1 => zeroF w 21 4 <| .ok (.xlatWrite (reg 32 w 16) (reg 32 w 11) (reg 32 w 6))
    | 2 => zeroF w 21 4 <| .ok (.xlatFetch (reg 32 w 16) (reg 32 w 11) (reg 32 w 6))
    | 3 => zeroF w 21 4 <| .ok (.xlatProbe (reg 32 w 16) (reg 32 w 11) (reg 32 w 6))
    | _ => .error .fixedField
  | 1 =>
    match fld w 3 3 with
    | 0 => zeroF w 21 4 <| .ok (.tlbinvPage (reg 32 w 16) (reg 32 w 11) (reg 32 w 6))
    | 1 => zeroF w 11 5 <| zeroF w 21 4 <| .ok (.tlbinvVd (reg 32 w 16) (reg 32 w 6))
    | _ => .error .fixedField
  | 2 => zeroF w 3 3 <| zeroF w 21 4 <| .ok (.migset (reg 32 w 16) (reg 32 w 11) (reg 32 w 6))
  | 3 => zeroF w 3 3 <| .ok (.mint (reg 16 w 21) (reg 32 w 16) (reg 32 w 11) (reg 32 w 6))
  | 4 =>
    match fld w 3 3 with
    | 0 => zeroF w 6 5 <| zeroF w 21 4 <| .ok (.revokePort (reg 32 w 16) (reg 32 w 11))
    | 1 => zeroF w 21 4 <| .ok (.revokeKey (reg 32 w 16) (reg 32 w 11) (reg 32 w 6))
    | _ => .error .fixedField
  | 5 =>
    match fld w 3 3 with
    | 0 => zeroF w 21 4 <| .ok (.keysetSet (reg 32 w 16) (reg 32 w 11) (reg 32 w 6))
    | 1 => zeroF w 21 4 <| .ok (.keysetWin (reg 32 w 16) (reg 32 w 11) (reg 32 w 6))
    | 2 => zeroF w 21 4 <| .ok (.keysetErase (reg 32 w 16) (reg 32 w 11) (reg 32 w 6))
    | _ => .error .fixedField
  | 6 => zeroF w 3 3 <| zeroF w 21 4 <| .ok (.admitTab (reg 32 w 16) (reg 32 w 11) (reg 32 w 6))
  | _ => .error .unassignedMinor

/-- Major 0x20 (R49, R50), family ALU, with the field uses of R51. -/
def decAlu (w : Nat) : Except DecodeError Instr :=
  match fld w 0 4 with
  | 0 => codeF (Guard.ofBits (fld w 7 3) (fld w 6 1)) fun gd => codeF (Width.ofCode (fld w 4 2)) fun wd => .ok (.add (reg 32 w 20) (reg 32 w 15) (reg 32 w 10) gd wd)
  | 1 => codeF (Guard.ofBits (fld w 7 3) (fld w 6 1)) fun gd => codeF (Width.ofCode (fld w 4 2)) fun wd => .ok (.sub (reg 32 w 20) (reg 32 w 15) (reg 32 w 10) gd wd)
  | 2 => codeF (Guard.ofBits (fld w 7 3) (fld w 6 1)) fun gd => codeF (Width.ofCode (fld w 4 2)) fun wd => .ok (.and (reg 32 w 20) (reg 32 w 15) (reg 32 w 10) gd wd)
  | 3 => codeF (Guard.ofBits (fld w 7 3) (fld w 6 1)) fun gd => codeF (Width.ofCode (fld w 4 2)) fun wd => .ok (.or (reg 32 w 20) (reg 32 w 15) (reg 32 w 10) gd wd)
  | 4 => codeF (Guard.ofBits (fld w 7 3) (fld w 6 1)) fun gd => codeF (Width.ofCode (fld w 4 2)) fun wd => .ok (.xor (reg 32 w 20) (reg 32 w 15) (reg 32 w 10) gd wd)
  | 5 => codeF (Guard.ofBits (fld w 7 3) (fld w 6 1)) fun gd => codeF (Width.ofCode (fld w 4 2)) fun wd => .ok (.shl (reg 32 w 20) (reg 32 w 15) (reg 32 w 10) gd wd)
  | 6 => codeF (Guard.ofBits (fld w 7 3) (fld w 6 1)) fun gd => codeF (Width.ofCode (fld w 4 2)) fun wd => .ok (.shr (reg 32 w 20) (reg 32 w 15) (reg 32 w 10) gd wd)
  | 7 => codeF (Guard.ofBits (fld w 7 3) (fld w 6 1)) fun gd => codeF (Width.ofCode (fld w 4 2)) fun wd => .ok (.sar (reg 32 w 20) (reg 32 w 15) (reg 32 w 10) gd wd)
  | 8 => codeF (Guard.ofBits (fld w 7 3) (fld w 6 1)) fun gd => codeF (Width.ofCode (fld w 4 2)) fun wd => .ok (.min (reg 32 w 20) (reg 32 w 15) (reg 32 w 10) gd wd)
  | 9 => codeF (Guard.ofBits (fld w 7 3) (fld w 6 1)) fun gd => codeF (Width.ofCode (fld w 4 2)) fun wd => .ok (.max (reg 32 w 20) (reg 32 w 15) (reg 32 w 10) gd wd)
  | 10 => codeF (Guard.ofBits (fld w 7 3) (fld w 6 1)) fun gd => codeF (Width.ofCode (fld w 4 2)) fun wd => .ok (.minn (reg 32 w 20) (reg 32 w 15) (reg 32 w 10) gd wd)
  | 11 => codeF (Guard.ofBits (fld w 7 3) (fld w 6 1)) fun gd => codeF (Width.ofCode (fld w 4 2)) fun wd => .ok (.maxn (reg 32 w 20) (reg 32 w 15) (reg 32 w 10) gd wd)
  | 12 => zeroF w 4 2 <| .ok (.sel (reg 32 w 20) (reg 32 w 15) (reg 32 w 10) (reg 8 w 7) (fld w 6 1 == 1))
  | 13 => zeroF w 10 5 <| codeF (Guard.ofBits (fld w 7 3) (fld w 6 1)) fun gd => codeF (Width.ofCode (fld w 4 2)) fun wd => .ok (.clz (reg 32 w 20) (reg 32 w 15) gd wd)
  | 14 => zeroF w 10 5 <| codeF (Guard.ofBits (fld w 7 3) (fld w 6 1)) fun gd => codeF (Width.ofCode (fld w 4 2)) fun wd => .ok (.popc (reg 32 w 20) (reg 32 w 15) gd wd)
  | _ => .error .unassignedMinor

/-- Major 0x21 (R49, R50), family ALUI, with the field uses of R51. -/
def decAlui (w : Nat) : Except DecodeError Instr :=
  match fld w 12 3 with
  | 0 => .ok (.addi (reg 32 w 20) (reg 32 w 15) (reg 4096 w 0))
  | 1 => .ok (.andi (reg 32 w 20) (reg 32 w 15) (reg 4096 w 0))
  | 2 => .ok (.ori (reg 32 w 20) (reg 32 w 15) (reg 4096 w 0))
  | 3 => .ok (.xori (reg 32 w 20) (reg 32 w 15) (reg 4096 w 0))
  | 4 => zeroF w 6 6 <| .ok (.shli (reg 32 w 20) (reg 32 w 15) (reg 64 w 0))
  | 5 => zeroF w 6 6 <| .ok (.shri (reg 32 w 20) (reg 32 w 15) (reg 64 w 0))
  | 6 => zeroF w 6 6 <| .ok (.sari (reg 32 w 20) (reg 32 w 15) (reg 64 w 0))
  | _ => .error .unassignedMinor

/-- Major 0x22 (R49, R50), family LI, with the field uses of R51. -/
def decLi (w : Nat) : Except DecodeError Instr :=
  .ok (.li (reg 32 w 20) (reg 1048576 w 0))

/-- Major 0x23 (R49, R50), family LIH, with the field uses of R51. -/
def decLih (w : Nat) : Except DecodeError Instr :=
  .ok (.lih (reg 32 w 20) (reg 1048576 w 0))

/-- Major 0x24 (R49, R50), family MUL, with the field uses of R51. -/
def decMul (w : Nat) : Except DecodeError Instr :=
  match fld w 0 4 with
  | 0 => codeF (Guard.ofBits (fld w 7 3) (fld w 6 1)) fun gd => codeF (Width.ofCode (fld w 4 2)) fun wd => .ok (.mul (reg 32 w 20) (reg 32 w 15) (reg 32 w 10) gd wd)
  | 1 => codeF (Guard.ofBits (fld w 7 3) (fld w 6 1)) fun gd => codeF (Width.ofCode (fld w 4 2)) fun wd => .ok (.mulh (reg 32 w 20) (reg 32 w 15) (reg 32 w 10) gd wd)
  | 2 => codeF (Guard.ofBits (fld w 7 3) (fld w 6 1)) fun gd => codeF (Width.ofCode (fld w 4 2)) fun wd => .ok (.mulhn (reg 32 w 20) (reg 32 w 15) (reg 32 w 10) gd wd)
  | 3 => codeF (Guard.ofBits (fld w 7 3) (fld w 6 1)) fun gd => codeF (Width.ofCode (fld w 4 2)) fun wd => .ok (.div (reg 32 w 20) (reg 32 w 15) (reg 32 w 10) gd wd)
  | 4 => codeF (Guard.ofBits (fld w 7 3) (fld w 6 1)) fun gd => codeF (Width.ofCode (fld w 4 2)) fun wd => .ok (.divn (reg 32 w 20) (reg 32 w 15) (reg 32 w 10) gd wd)
  | 5 => codeF (Guard.ofBits (fld w 7 3) (fld w 6 1)) fun gd => codeF (Width.ofCode (fld w 4 2)) fun wd => .ok (.rem (reg 32 w 20) (reg 32 w 15) (reg 32 w 10) gd wd)
  | 6 => codeF (Guard.ofBits (fld w 7 3) (fld w 6 1)) fun gd => codeF (Width.ofCode (fld w 4 2)) fun wd => .ok (.remn (reg 32 w 20) (reg 32 w 15) (reg 32 w 10) gd wd)
  | _ => .error .unassignedMinor

/-- Major 0x25 (R49, R50), family CMP, with the field uses of R51. -/
def decCmp (w : Nat) : Except DecodeError Instr :=
  match fld w 0 4 with
  | 0 => zeroF w 23 2 <| codeF (Guard.ofBits (fld w 7 3) (fld w 6 1)) fun gd => codeF (Width.ofCode (fld w 4 2)) fun wd => .ok (.cmpEq (reg 8 w 20) (reg 32 w 15) (reg 32 w 10) gd wd)
  | 1 => zeroF w 23 2 <| codeF (Guard.ofBits (fld w 7 3) (fld w 6 1)) fun gd => codeF (Width.ofCode (fld w 4 2)) fun wd => .ok (.cmpNe (reg 8 w 20) (reg 32 w 15) (reg 32 w 10) gd wd)
  | 2 => zeroF w 23 2 <| codeF (Guard.ofBits (fld w 7 3) (fld w 6 1)) fun gd => codeF (Width.ofCode (fld w 4 2)) fun wd => .ok (.cmpLt (reg 8 w 20) (reg 32 w 15) (reg 32 w 10) gd wd)
  | 3 => zeroF w 23 2 <| codeF (Guard.ofBits (fld w 7 3) (fld w 6 1)) fun gd => codeF (Width.ofCode (fld w 4 2)) fun wd => .ok (.cmpGe (reg 8 w 20) (reg 32 w 15) (reg 32 w 10) gd wd)
  | 4 => zeroF w 23 2 <| codeF (Guard.ofBits (fld w 7 3) (fld w 6 1)) fun gd => codeF (Width.ofCode (fld w 4 2)) fun wd => .ok (.cmpLtn (reg 8 w 20) (reg 32 w 15) (reg 32 w 10) gd wd)
  | 5 => zeroF w 23 2 <| codeF (Guard.ofBits (fld w 7 3) (fld w 6 1)) fun gd => codeF (Width.ofCode (fld w 4 2)) fun wd => .ok (.cmpGen (reg 8 w 20) (reg 32 w 15) (reg 32 w 10) gd wd)
  | _ => .error .unassignedMinor

/-- Major 0x26 (R49, R50), family PLOG, with the field uses of R51. -/
def decPlog (w : Nat) : Except DecodeError Instr :=
  match fld w 0 6 with
  | 0 => zeroF w 13 2 <| zeroF w 18 2 <| zeroF w 23 2 <| codeF (Guard.ofBits (fld w 7 3) (fld w 6 1)) fun gd => .ok (.plogAnd (reg 8 w 20) (reg 8 w 15) (reg 8 w 10) gd)
  | 1 => zeroF w 13 2 <| zeroF w 18 2 <| zeroF w 23 2 <| codeF (Guard.ofBits (fld w 7 3) (fld w 6 1)) fun gd => .ok (.plogOr (reg 8 w 20) (reg 8 w 15) (reg 8 w 10) gd)
  | 2 => zeroF w 13 2 <| zeroF w 18 2 <| zeroF w 23 2 <| codeF (Guard.ofBits (fld w 7 3) (fld w 6 1)) fun gd => .ok (.plogXor (reg 8 w 20) (reg 8 w 15) (reg 8 w 10) gd)
  | 3 => zeroF w 13 2 <| zeroF w 18 2 <| zeroF w 23 2 <| codeF (Guard.ofBits (fld w 7 3) (fld w 6 1)) fun gd => .ok (.plogAndn (reg 8 w 20) (reg 8 w 15) (reg 8 w 10) gd)
  | _ => .error .unassignedMinor

/-- Major 0x27 (R49, R50), family BIT, with the field uses of R51. -/
def decBit (w : Nat) : Except DecodeError Instr :=
  match fld w 12 3 with
  | 0 => needF (fld w 0 6 + fld w 6 6 + 1 ≤ 64) <| .ok (.bfx (reg 32 w 20) (reg 32 w 15) (reg 64 w 6) (reg 64 w 0))
  | 1 => needF (fld w 0 6 + fld w 6 6 + 1 ≤ 64) <| .ok (.bfxs (reg 32 w 20) (reg 32 w 15) (reg 64 w 6) (reg 64 w 0))
  | 2 => needF (fld w 0 6 + fld w 6 6 + 1 ≤ 64) <| .ok (.bfi (reg 32 w 20) (reg 32 w 15) (reg 64 w 6) (reg 64 w 0))
  | _ => .error .unassignedMinor

/-- Major 0x28 (R49, R50), family VALU, with the field uses of R51. -/
def decValu (w : Nat) : Except DecodeError Instr :=
  match fld w 0 5 with
  | 0 => codeF (EW.ofCode (fld w 5 2)) fun e => .ok (.vadd (reg 32 w 20) (reg 32 w 15) (reg 32 w 10) (reg 8 w 7) e)
  | 1 => codeF (EW.ofCode (fld w 5 2)) fun e => .ok (.vsub (reg 32 w 20) (reg 32 w 15) (reg 32 w 10) (reg 8 w 7) e)
  | 2 => codeF (EW.ofCode (fld w 5 2)) fun e => .ok (.vmul (reg 32 w 20) (reg 32 w 15) (reg 32 w 10) (reg 8 w 7) e)
  | 3 => codeF (EW.ofCode (fld w 5 2)) fun e => .ok (.vmulh (reg 32 w 20) (reg 32 w 15) (reg 32 w 10) (reg 8 w 7) e)
  | 4 => codeF (EW.ofCode (fld w 5 2)) fun e => .ok (.vmin (reg 32 w 20) (reg 32 w 15) (reg 32 w 10) (reg 8 w 7) e)
  | 5 => codeF (EW.ofCode (fld w 5 2)) fun e => .ok (.vmax (reg 32 w 20) (reg 32 w 15) (reg 32 w 10) (reg 8 w 7) e)
  | 6 => codeF (EW.ofCode (fld w 5 2)) fun e => .ok (.vminn (reg 32 w 20) (reg 32 w 15) (reg 32 w 10) (reg 8 w 7) e)
  | 7 => codeF (EW.ofCode (fld w 5 2)) fun e => .ok (.vmaxn (reg 32 w 20) (reg 32 w 15) (reg 32 w 10) (reg 8 w 7) e)
  | 8 => codeF (EW.ofCode (fld w 5 2)) fun e => .ok (.vand (reg 32 w 20) (reg 32 w 15) (reg 32 w 10) (reg 8 w 7) e)
  | 9 => codeF (EW.ofCode (fld w 5 2)) fun e => .ok (.vor (reg 32 w 20) (reg 32 w 15) (reg 32 w 10) (reg 8 w 7) e)
  | 10 => codeF (EW.ofCode (fld w 5 2)) fun e => .ok (.vxor (reg 32 w 20) (reg 32 w 15) (reg 32 w 10) (reg 8 w 7) e)
  | 11 => codeF (EW.ofCode (fld w 5 2)) fun e => .ok (.vshl (reg 32 w 20) (reg 32 w 15) (reg 32 w 10) (reg 8 w 7) e)
  | 12 => codeF (EW.ofCode (fld w 5 2)) fun e => .ok (.vshr (reg 32 w 20) (reg 32 w 15) (reg 32 w 10) (reg 8 w 7) e)
  | 13 => codeF (EW.ofCode (fld w 5 2)) fun e => .ok (.vsar (reg 32 w 20) (reg 32 w 15) (reg 32 w 10) (reg 8 w 7) e)
  | 14 => zeroF w 10 5 <| codeF (EW.ofCode (fld w 5 2)) fun e => .ok (.vabs (reg 32 w 20) (reg 32 w 15) (reg 8 w 7) e)
  | 15 => zeroF w 10 5 <| codeF (EW.ofCode (fld w 5 2)) fun e => .ok (.vneg (reg 32 w 20) (reg 32 w 15) (reg 8 w 7) e)
  | 16 => codeF (EW.ofCode (fld w 5 2)) fun e => .ok (.vsel (reg 32 w 20) (reg 32 w 15) (reg 32 w 10) (reg 8 w 7) e)
  | _ => .error .unassignedMinor

/-- Major 0x29 (R49, R50), family VFP, with the field uses of R51. -/
def decVfp (w : Nat) : Except DecodeError Instr :=
  match fld w 0 5 with
  | 0 => codeF (FEW.ofCode (fld w 5 2)) fun e => .ok (.vfadd (reg 32 w 20) (reg 32 w 15) (reg 32 w 10) (reg 8 w 7) e)
  | 1 => codeF (FEW.ofCode (fld w 5 2)) fun e => .ok (.vfsub (reg 32 w 20) (reg 32 w 15) (reg 32 w 10) (reg 8 w 7) e)
  | 2 => codeF (FEW.ofCode (fld w 5 2)) fun e => .ok (.vfmul (reg 32 w 20) (reg 32 w 15) (reg 32 w 10) (reg 8 w 7) e)
  | 3 => codeF (FEW.ofCode (fld w 5 2)) fun e => .ok (.vfma (reg 32 w 20) (reg 32 w 15) (reg 32 w 10) (reg 8 w 7) e)
  | 4 => codeF (FEW.ofCode (fld w 5 2)) fun e => .ok (.vfms (reg 32 w 20) (reg 32 w 15) (reg 32 w 10) (reg 8 w 7) e)
  | 5 => codeF (FEW.ofCode (fld w 5 2)) fun e => .ok (.vfmin (reg 32 w 20) (reg 32 w 15) (reg 32 w 10) (reg 8 w 7) e)
  | 6 => codeF (FEW.ofCode (fld w 5 2)) fun e => .ok (.vfmax (reg 32 w 20) (reg 32 w 15) (reg 32 w 10) (reg 8 w 7) e)
  | 7 => zeroF w 10 5 <| codeF (FEW.ofCode (fld w 5 2)) fun e => .ok (.vfabs (reg 32 w 20) (reg 32 w 15) (reg 8 w 7) e)
  | 8 => zeroF w 10 5 <| codeF (FEW.ofCode (fld w 5 2)) fun e => .ok (.vfneg (reg 32 w 20) (reg 32 w 15) (reg 8 w 7) e)
  | _ => .error .unassignedMinor

/-- Major 0x2a (R49, R50), family VCMP, with the field uses of R51. -/
def decVcmp (w : Nat) : Except DecodeError Instr :=
  match fld w 0 5 with
  | 0 => zeroF w 23 2 <| codeF (EW.ofCode (fld w 5 2)) fun e => .ok (.vcmpEq (reg 8 w 20) (reg 32 w 15) (reg 32 w 10) (reg 8 w 7) e)
  | 1 => zeroF w 23 2 <| codeF (EW.ofCode (fld w 5 2)) fun e => .ok (.vcmpNe (reg 8 w 20) (reg 32 w 15) (reg 32 w 10) (reg 8 w 7) e)
  | 2 => zeroF w 23 2 <| codeF (EW.ofCode (fld w 5 2)) fun e => .ok (.vcmpLt (reg 8 w 20) (reg 32 w 15) (reg 32 w 10) (reg 8 w 7) e)
  | 3 => zeroF w 23 2 <| codeF (EW.ofCode (fld w 5 2)) fun e => .ok (.vcmpGe (reg 8 w 20) (reg 32 w 15) (reg 32 w 10) (reg 8 w 7) e)
  | 4 => zeroF w 23 2 <| codeF (EW.ofCode (fld w 5 2)) fun e => .ok (.vcmpLtn (reg 8 w 20) (reg 32 w 15) (reg 32 w 10) (reg 8 w 7) e)
  | 5 => zeroF w 23 2 <| codeF (EW.ofCode (fld w 5 2)) fun e => .ok (.vcmpGen (reg 8 w 20) (reg 32 w 15) (reg 32 w 10) (reg 8 w 7) e)
  | 8 => zeroF w 23 2 <| codeF (FEW.ofCode (fld w 5 2)) fun e => .ok (.vcmpFeq (reg 8 w 20) (reg 32 w 15) (reg 32 w 10) (reg 8 w 7) e)
  | 9 => zeroF w 23 2 <| codeF (FEW.ofCode (fld w 5 2)) fun e => .ok (.vcmpFne (reg 8 w 20) (reg 32 w 15) (reg 32 w 10) (reg 8 w 7) e)
  | 10 => zeroF w 23 2 <| codeF (FEW.ofCode (fld w 5 2)) fun e => .ok (.vcmpFlt (reg 8 w 20) (reg 32 w 15) (reg 32 w 10) (reg 8 w 7) e)
  | 11 => zeroF w 23 2 <| codeF (FEW.ofCode (fld w 5 2)) fun e => .ok (.vcmpFge (reg 8 w 20) (reg 32 w 15) (reg 32 w 10) (reg 8 w 7) e)
  | 12 => zeroF w 23 2 <| codeF (FEW.ofCode (fld w 5 2)) fun e => .ok (.vcmpFun (reg 8 w 20) (reg 32 w 15) (reg 32 w 10) (reg 8 w 7) e)
  | _ => .error .unassignedMinor

/-- Major 0x2b (R49, R50), family VCVT, with the field uses of R51. -/
def decVcvt (w : Nat) : Except DecodeError Instr :=
  match fld w 0 2 with
  | 0 => codeF (FEW.ofCode (fld w 5 2)) fun e => codeF (Rnd.ofCode (fld w 2 3)) fun rnd => needF (¬ (rnd = .rst ∧ fld w 20 5 = 31)) <| fmtF w 10 <| .ok (.vcvt (reg 32 w 20) (reg 32 w 15) (reg 32 w 10) (reg 8 w 7) e rnd)
  | 1 => zeroF w 2 3 <| codeF (FEW.ofCode (fld w 5 2)) fun e => fmtF w 10 <| .ok (.vqnt (reg 32 w 20) (reg 32 w 15) (reg 32 w 10) (reg 8 w 7) e)
  | 2 => codeF (FEW.ofCode (fld w 5 2)) fun e => codeF (Rnd.ofCode (fld w 2 3)) fun rnd => needF (rnd ≠ .rst) <| fmtF w 10 <| .ok (.vdqnt (reg 32 w 20) (reg 32 w 15) (reg 32 w 10) (reg 8 w 7) e rnd)
  | _ => zeroF w 10 5 <| codeF (FEW.ofCode (fld w 5 2)) fun e => codeF (Rnd.ofCode (fld w 2 3)) fun rnd => needF (¬ (rnd = .rst ∧ fld w 20 5 = 31)) <| .ok (.vrndi (reg 32 w 20) (reg 32 w 15) (reg 8 w 7) e rnd)

/-- Major 0x2c (R49, R50), family VSPEC, with the field uses of R51. -/
def decVspec (w : Nat) : Except DecodeError Instr :=
  match fld w 0 5 with
  | 0 => zeroF w 10 5 <| codeF (FEW.ofCode (fld w 5 2)) fun e => .ok (.vrcpa (reg 32 w 20) (reg 32 w 15) (reg 8 w 7) e)
  | 1 => zeroF w 10 5 <| codeF (FEW.ofCode (fld w 5 2)) fun e => .ok (.vrsqa (reg 32 w 20) (reg 32 w 15) (reg 8 w 7) e)
  | 2 => zeroF w 10 5 <| codeF (FEW.ofCode (fld w 5 2)) fun e => .ok (.vexp2a (reg 32 w 20) (reg 32 w 15) (reg 8 w 7) e)
  | 3 => zeroF w 10 5 <| codeF (FEW.ofCode (fld w 5 2)) fun e => .ok (.vlog2a (reg 32 w 20) (reg 32 w 15) (reg 8 w 7) e)
  | _ => .error .unassignedMinor

/-- Major 0x2d (R49, R50), family VRED, with the field uses of R51. -/
def decVred (w : Nat) : Except DecodeError Instr :=
  match fld w 0 5 with
  | 0 => zeroF w 12 3 <| codeF (RedT.ofBits (fld w 10 2) (fld w 5 2)) fun k => .ok (.vredsum (reg 32 w 20) (reg 32 w 15) k (reg 8 w 7))
  | 1 => zeroF w 12 3 <| codeF (RedT.ofBits (fld w 10 2) (fld w 5 2)) fun k => .ok (.vredmax (reg 32 w 20) (reg 32 w 15) k (reg 8 w 7))
  | 2 => zeroF w 12 3 <| codeF (RedT.ofBits (fld w 10 2) (fld w 5 2)) fun k => .ok (.vredmin (reg 32 w 20) (reg 32 w 15) k (reg 8 w 7))
  | 3 => zeroF w 14 1 <| codeF (ScanOp.ofCode (fld w 12 2)) fun op => codeF (RedT.ofBits (fld w 10 2) (fld w 5 2)) fun k => .ok (.vscan (reg 32 w 20) (reg 32 w 15) op k (reg 8 w 7))
  | 4 => fixF w 5 2 2 <| .ok (.vdot4 (reg 32 w 20) (reg 32 w 15) (reg 32 w 10) (reg 8 w 7))
  | _ => .error .unassignedMinor

/-- Major 0x2e (R49, R50), family VPERM, with the field uses of R51. -/
def decVperm (w : Nat) : Except DecodeError Instr :=
  match fld w 0 5 with
  | 0 => codeF (EW.ofCode (fld w 5 2)) fun e => .ok (.vperm (reg 32 w 20) (reg 32 w 15) (reg 32 w 10) (reg 8 w 7) e)
  | 1 => codeF (EW.ofCode (fld w 5 2)) fun e => .ok (.vslup (reg 32 w 20) (reg 32 w 15) (reg 32 w 10) (reg 8 w 7) e)
  | 2 => codeF (EW.ofCode (fld w 5 2)) fun e => .ok (.vsldn (reg 32 w 20) (reg 32 w 15) (reg 32 w 10) (reg 8 w 7) e)
  | 3 => zeroF w 10 5 <| codeF (EW.ofCode (fld w 5 2)) fun e => .ok (.vcomp (reg 32 w 20) (reg 32 w 15) (reg 8 w 7) e)
  | 4 => zeroF w 10 5 <| codeF (EW.ofCode (fld w 5 2)) fun e => .ok (.vexpd (reg 32 w 20) (reg 32 w 15) (reg 8 w 7) e)
  | 5 => zeroF w 10 10 <| codeF (EW.ofCode (fld w 5 2)) fun e => .ok (.viota (reg 32 w 20) (reg 8 w 7) e)
  | 6 => zeroF w 10 5 <| codeF (EW.ofCode (fld w 5 2)) fun e => .ok (.vbcast (reg 32 w 20) (reg 32 w 15) (reg 8 w 7) e)
  | 7 => zeroF w 7 3 <| codeF (EW.ofCode (fld w 5 2)) fun e => .ok (.vextr (reg 32 w 20) (reg 32 w 15) (reg 32 w 10) e)
  | 8 => zeroF w 7 3 <| codeF (EW.ofCode (fld w 5 2)) fun e => .ok (.vins (reg 32 w 20) (reg 32 w 15) (reg 32 w 10) e)
  | _ => .error .unassignedMinor

/-- Major 0x2f (R49, R50), family VMASK, with the field uses of R51. -/
def decVmask (w : Nat) : Except DecodeError Instr :=
  match fld w 0 5 with
  | 0 => zeroF w 7 3 <| zeroF w 13 2 <| zeroF w 18 2 <| zeroF w 23 2 <| codeF (EW.ofCode (fld w 5 2)) fun e => .ok (.mand (reg 8 w 20) (reg 8 w 15) (reg 8 w 10) e)
  | 1 => zeroF w 7 3 <| zeroF w 13 2 <| zeroF w 18 2 <| zeroF w 23 2 <| codeF (EW.ofCode (fld w 5 2)) fun e => .ok (.mor (reg 8 w 20) (reg 8 w 15) (reg 8 w 10) e)
  | 2 => zeroF w 7 3 <| zeroF w 13 2 <| zeroF w 18 2 <| zeroF w 23 2 <| codeF (EW.ofCode (fld w 5 2)) fun e => .ok (.mxor (reg 8 w 20) (reg 8 w 15) (reg 8 w 10) e)
  | 3 => zeroF w 7 8 <| zeroF w 18 2 <| zeroF w 23 2 <| codeF (EW.ofCode (fld w 5 2)) fun e => .ok (.mnot (reg 8 w 20) (reg 8 w 15) e)
  | 4 => zeroF w 7 8 <| zeroF w 18 2 <| codeF (EW.ofCode (fld w 5 2)) fun e => .ok (.mcnt (reg 32 w 20) (reg 8 w 15) e)
  | 5 => zeroF w 7 8 <| zeroF w 18 2 <| codeF (EW.ofCode (fld w 5 2)) fun e => .ok (.mfirst (reg 32 w 20) (reg 8 w 15) e)
  | 6 => zeroF w 7 3 <| zeroF w 12 3 <| zeroF w 17 3 <| zeroF w 22 3 <| codeF (EW.ofCode (fld w 5 2)) fun e => .ok (.qand (reg 4 w 20) (reg 4 w 15) (reg 4 w 10) e)
  | 7 => zeroF w 7 8 <| zeroF w 18 2 <| zeroF w 22 3 <| codeF (EW.ofCode (fld w 5 2)) fun e => .ok (.qclr (reg 4 w 20) (reg 8 w 15) e)
  | _ => .error .unassignedMinor

/-- Major 0x30 (R49, R50), family VRNG, with the field uses of R51. -/
def decVrng (w : Nat) : Except DecodeError Instr :=
  zeroF w 0 5 <| codeF (EW.ofCode (fld w 5 2)) fun e => .ok (.vrng (reg 32 w 20) (reg 32 w 15) (reg 32 w 10) (reg 8 w 7) e)

/-- Decoding one word (R39, R49, R50, R53) in the order of R54; bit 31 is the L bit and no field. -/
def decodeWord (w : Nat) : Except DecodeError Instr :=
  match fld w 25 6 with
  | 0 => decSys w
  | 1 => decBr w
  | 2 => decJmp w
  | 3 => decTime w
  | 4 => decLd w
  | 5 => decSt w
  | 6 => decAmo w
  | 7 => decFence w
  | 8 => decVmem w
  | 9 => decStream w
  | 10 => decVamo w
  | 11 => decVctl w
  | 12 => decHarpc w
  | 13 => decHmma w
  | 14 => decHmms w
  | 15 => decSend w
  | 16 => decRemote w
  | 17 => decTicket w
  | 18 => decDray w
  | 19 => decDrayq w
  | 20 => decNet w
  | 21 => decCount w
  | 22 => decPriv w
  | 32 => decAlu w
  | 33 => decAlui w
  | 34 => decLi w
  | 35 => decLih w
  | 36 => decMul w
  | 37 => decCmp w
  | 38 => decPlog w
  | 39 => decBit w
  | 40 => decValu w
  | 41 => decVfp w
  | 42 => decVcmp w
  | 43 => decVcvt w
  | 44 => decVspec w
  | 45 => decVred w
  | 46 => decVperm w
  | 47 => decVmask w
  | 48 => decVrng w
  | 28 => .ok (.cHint 0 (reg 33554432 w 0))
  | 29 => .ok (.cHint 1 (reg 33554432 w 0))
  | 30 => .ok (.cHint 2 (reg 33554432 w 0))
  | 31 => .ok (.cHint 3 (reg 33554432 w 0))
  | 60 => .ok (.aHint 0 (reg 33554432 w 0))
  | 61 => .ok (.aHint 1 (reg 33554432 w 0))
  | 62 => .ok (.aHint 2 (reg 33554432 w 0))
  | 63 => .ok (.aHint 3 (reg 33554432 w 0))
  | _ => .error .reservedMajor

/-- Encoding (R45 to R52), with L = 0; none for a step that no word names. -/
def encode : Instr → Option Nat
  | .nop => some (0)
  | .halt => some (1)
  | .trap code => some (2 + code.val * 64)
  | .eret => some (3)
  | .csrr d csr => some (4 + d.val * 1048576 + csr.val * 64)
  | .csrw csr a => some (5 + csr.val * 64 + a.val * 32768)
  | .csrx d csr a => some (6 + d.val * 1048576 + csr.val * 64 + a.val * 32768)
  | .yield => some (7)
  | .ctxsave d a => some (8 + d.val * 1048576 + a.val * 32768)
  | .ctxload d a => some (9 + d.val * 1048576 + a.val * 32768)
  | .br gd off => some (33554432 + gd.pr.val * 4194304 + gd.pn.toNat * 2097152 + off.val)
  | .jmp off => some (67108864 + off.val)
  | .call off => some (68157440 + off.val)
  | .ret a => some (69206016 + a.val * 32768)
  | .callr a => some (70254592 + a.val * 32768)
  | .atLcy a imm => some (100663296 + a.val * 32768 + imm.val)
  | .cue n => some (100667392 + n.val)
  | .tune a => some (100671488 + a.val * 32768)
  | .ld d a sp sz off => some (134217728 + d.val * 1048576 + a.val * 32768 + sp.code * 8192 + sz.code * 1024 + off.val)
  | .st d a sp sz off => some (167772160 + d.val * 1048576 + a.val * 32768 + sp.code * 8192 + sz.code * 1024 + off.val)
  | .amoAdd d a b sz sp => some (201326592 + d.val * 1048576 + a.val * 32768 + b.val * 1024 + sz.code * 128 + sp.code * 16)
  | .amoMin d a b sz sp => some (201326593 + d.val * 1048576 + a.val * 32768 + b.val * 1024 + sz.code * 128 + sp.code * 16)
  | .amoMax d a b sz sp => some (201326594 + d.val * 1048576 + a.val * 32768 + b.val * 1024 + sz.code * 128 + sp.code * 16)
  | .amoMinn d a b sz sp => some (201326595 + d.val * 1048576 + a.val * 32768 + b.val * 1024 + sz.code * 128 + sp.code * 16)
  | .amoMaxn d a b sz sp => some (201326596 + d.val * 1048576 + a.val * 32768 + b.val * 1024 + sz.code * 128 + sp.code * 16)
  | .amoAnd d a b sz sp => some (201326597 + d.val * 1048576 + a.val * 32768 + b.val * 1024 + sz.code * 128 + sp.code * 16)
  | .amoOr d a b sz sp => some (201326598 + d.val * 1048576 + a.val * 32768 + b.val * 1024 + sz.code * 128 + sp.code * 16)
  | .amoXor d a b sz sp => some (201326599 + d.val * 1048576 + a.val * 32768 + b.val * 1024 + sz.code * 128 + sp.code * 16)
  | .amoSwap d a b sz sp => some (201326600 + d.val * 1048576 + a.val * 32768 + b.val * 1024 + sz.code * 128 + sp.code * 16)
  | .amoCas d a b sz sp => some (201326601 + d.val * 1048576 + a.val * 32768 + b.val * 1024 + sz.code * 128 + sp.code * 16)
  | .fence d scope mask => some (234881024 + d.val * 1048576 + scope.code * 512 + mask.val)
  | .pref a imm => some (234885120 + a.val * 32768 + imm.val)
  | .flush a imm => some (234889216 + a.val * 32768 + imm.val)
  | .inval a imm => some (234893312 + a.val * 32768 + imm.val)
  | .rpub a => some (234897408 + a.val * 32768)
  | .vld d a m e clu => some (268435456 + d.val * 1048576 + a.val * 32768 + m.val * 128 + e.code * 32 + clu.toNat * 16)
  | .vst d a m e clu => some (268435457 + d.val * 1048576 + a.val * 32768 + m.val * 128 + e.code * 32 + clu.toNat * 16)
  | .vlds d a b m e clu => some (268435458 + d.val * 1048576 + a.val * 32768 + b.val * 1024 + m.val * 128 + e.code * 32 + clu.toNat * 16)
  | .vsts d a b m e clu => some (268435459 + d.val * 1048576 + a.val * 32768 + b.val * 1024 + m.val * 128 + e.code * 32 + clu.toNat * 16)
  | .vldx d a b m e clu => some (268435460 + d.val * 1048576 + a.val * 32768 + b.val * 1024 + m.val * 128 + e.code * 32 + clu.toNat * 16)
  | .vstx d a b m e clu => some (268435461 + d.val * 1048576 + a.val * 32768 + b.val * 1024 + m.val * 128 + e.code * 32 + clu.toNat * 16)
  | .vseg d a fmt clu => some (268435462 + d.val * 1048576 + a.val * 32768 + fmt.val * 1024 + clu.toNat * 16)
  | .sset d a b => some (301989888 + d.val * 1048576 + a.val * 32768 + b.val * 1024)
  | .sld d a m e => some (301989889 + d.val * 1048576 + a.val * 32768 + m.val * 128 + e.code * 32)
  | .sst d a m e => some (301989890 + d.val * 1048576 + a.val * 32768 + m.val * 128 + e.code * 32)
  | .vamoAdd d a b m e clu => some (335544320 + d.val * 1048576 + a.val * 32768 + b.val * 1024 + m.val * 128 + e.code * 32 + clu.toNat * 16)
  | .vamoMin d a b m e clu => some (335544321 + d.val * 1048576 + a.val * 32768 + b.val * 1024 + m.val * 128 + e.code * 32 + clu.toNat * 16)
  | .vamoMax d a b m e clu => some (335544322 + d.val * 1048576 + a.val * 32768 + b.val * 1024 + m.val * 128 + e.code * 32 + clu.toNat * 16)
  | .vamoMinn d a b m e clu => some (335544323 + d.val * 1048576 + a.val * 32768 + b.val * 1024 + m.val * 128 + e.code * 32 + clu.toNat * 16)
  | .vamoMaxn d a b m e clu => some (335544324 + d.val * 1048576 + a.val * 32768 + b.val * 1024 + m.val * 128 + e.code * 32 + clu.toNat * 16)
  | .vamoAnd d a b m e clu => some (335544325 + d.val * 1048576 + a.val * 32768 + b.val * 1024 + m.val * 128 + e.code * 32 + clu.toNat * 16)
  | .vamoOr d a b m e clu => some (335544326 + d.val * 1048576 + a.val * 32768 + b.val * 1024 + m.val * 128 + e.code * 32 + clu.toNat * 16)
  | .vamoXor d a b m e clu => some (335544327 + d.val * 1048576 + a.val * 32768 + b.val * 1024 + m.val * 128 + e.code * 32 + clu.toNat * 16)
  | .vamoFadd d a b m e clu => some (335544328 + d.val * 1048576 + a.val * 32768 + b.val * 1024 + m.val * 128 + e.code * 32 + clu.toNat * 16)
  | .setvl d a e => some (369098752 + d.val * 1048576 + a.val * 32768 + e.code * 1)
  | .vloop d a n => some (369102848 + d.val * 1048576 + a.val * 32768 + n.val)
  | .vsync => some (369106944)
  | .hplane vb ga fmt n => some (402653184 + vb.val * 65536 + ga.val * 2048 + fmt.val * 64 + n.code * 8)
  | .hzero t ga => some (402653185 + t.val * 2097152 + ga.val * 2048)
  | .hread t vb ga fmt n => some (402653186 + t.val * 2097152 + vb.val * 65536 + ga.val * 2048 + fmt.val * 64 + n.code * 8)
  | .hwrite t vb ga n => some (402653187 + t.val * 2097152 + vb.val * 65536 + ga.val * 2048 + n.code * 8)
  | .hchk t ga => some (402653188 + t.val * 2097152 + ga.val * 2048)
  | .hanch t ga => some (402653189 + t.val * 2097152 + ga.val * 2048)
  | .hmmaAcc t vb ga fmt n => some (436207616 + t.val * 2097152 + vb.val * 65536 + ga.val * 2048 + fmt.val * 64 + n.code * 8)
  | .hmmaSet t vb ga fmt n => some (436207617 + t.val * 2097152 + vb.val * 65536 + ga.val * 2048 + fmt.val * 64 + n.code * 8)
  | .hmmsAcc t vb ga fmt n => some (469762048 + t.val * 2097152 + vb.val * 65536 + ga.val * 2048 + fmt.val * 64 + n.code * 8)
  | .hmmsSet t vb ga fmt n => some (469762049 + t.val * 2097152 + vb.val * 65536 + ga.val * 2048 + fmt.val * 64 + n.code * 8)
  | .send tk a b => some (503316480 + tk.val * 2097152 + a.val * 2048 + b.val * 64)
  | .recv d a b => some (503316481 + d.val * 65536 + a.val * 2048 + b.val * 64)
  | .esend tk a b => some (503316482 + tk.val * 2097152 + a.val * 2048 + b.val * 64)
  | .erecv d a b => some (503316483 + d.val * 65536 + a.val * 2048 + b.val * 64)
  | .stripe tk d a b n => some (503316484 + tk.val * 2097152 + d.val * 65536 + a.val * 2048 + b.val * 64 + n.val * 8)
  | .rld tk d a sz => some (536870912 + tk.val * 2097152 + d.val * 65536 + a.val * 2048 + sz.code * 8)
  | .rst tk d a sz => some (536870913 + tk.val * 2097152 + d.val * 65536 + a.val * 2048 + sz.code * 8)
  | .ramoAdd tk d a b => some (536870914 + tk.val * 2097152 + d.val * 65536 + a.val * 2048 + b.val * 64)
  | .ramoMin tk d a b => some (536870922 + tk.val * 2097152 + d.val * 65536 + a.val * 2048 + b.val * 64)
  | .ramoMax tk d a b => some (536870930 + tk.val * 2097152 + d.val * 65536 + a.val * 2048 + b.val * 64)
  | .ramoMinn tk d a b => some (536870938 + tk.val * 2097152 + d.val * 65536 + a.val * 2048 + b.val * 64)
  | .ramoMaxn tk d a b => some (536870946 + tk.val * 2097152 + d.val * 65536 + a.val * 2048 + b.val * 64)
  | .ramoOr tk d a b => some (536870954 + tk.val * 2097152 + d.val * 65536 + a.val * 2048 + b.val * 64)
  | .ramoSwap tk d a b => some (536870962 + tk.val * 2097152 + d.val * 65536 + a.val * 2048 + b.val * 64)
  | .ramoCas tk d a b => some (536870970 + tk.val * 2097152 + d.val * 65536 + a.val * 2048 + b.val * 64)
  | .vpush tk a vb n => some (536870915 + tk.val * 2097152 + a.val * 2048 + vb.val * 64 + n.code * 8)
  | .vpull d a vb n => some (536870916 + d.val * 65536 + a.val * 2048 + vb.val * 64 + n.code * 8)
  | .tknar tk d a => some (570425344 + tk.val * 2097152 + d.val * 65536 + a.val * 2048)
  | .tkld tk a sp => some (570425345 + tk.val * 2097152 + a.val * 2048 + sp.code * 8)
  | .tkst tk a sp => some (570425346 + tk.val * 2097152 + a.val * 2048 + sp.code * 8)
  | .tkmov tk m => some (570425347 + tk.val * 2097152 + m.val * 2048)
  | .tkchk tk d => some (570425348 + tk.val * 2097152 + d.val * 65536)
  | .drayCopy tk d a b => some (603979776 + tk.val * 2097152 + d.val * 65536 + a.val * 2048 + b.val * 64)
  | .drayGath tk d a b => some (603979777 + tk.val * 2097152 + d.val * 65536 + a.val * 2048 + b.val * 64)
  | .drayScat tk d a b => some (603979778 + tk.val * 2097152 + d.val * 65536 + a.val * 2048 + b.val * 64)
  | .draySeal tk d a b => some (603979779 + tk.val * 2097152 + d.val * 65536 + a.val * 2048 + b.val * 64)
  | .drayUnseal tk d a b => some (603979780 + tk.val * 2097152 + d.val * 65536 + a.val * 2048 + b.val * 64)
  | .drayFill tk d a b => some (603979781 + tk.val * 2097152 + d.val * 65536 + a.val * 2048 + b.val * 64)
  | .dwait d a b => some (637534208 + d.val * 65536 + a.val * 2048 + b.val * 64)
  | .dstat d a => some (637534209 + d.val * 65536 + a.val * 2048)
  | .dcancel d a => some (637534210 + d.val * 65536 + a.val * 2048)
  | .npost tk d a b => some (671088640 + tk.val * 2097152 + d.val * 65536 + a.val * 2048 + b.val * 64)
  | .npoll d a => some (671088641 + d.val * 65536 + a.val * 2048)
  | .carr d a b gd => some (704643072 + d.val * 1048576 + a.val * 32768 + b.val * 1024 + gd.pr.val * 128 + gd.pn.toNat * 64)
  | .cwait d a b gd => some (704643073 + d.val * 1048576 + a.val * 32768 + b.val * 1024 + gd.pr.val * 128 + gd.pn.toNat * 64)
  | .cancel d a gd => some (704643074 + d.val * 1048576 + a.val * 32768 + gd.pr.val * 128 + gd.pn.toNat * 64)
  | .ckpt d a b gd => some (704643075 + d.val * 1048576 + a.val * 32768 + b.val * 1024 + gd.pr.val * 128 + gd.pn.toNat * 64)
  | .cset d a b gd => some (704643076 + d.val * 1048576 + a.val * 32768 + b.val * 1024 + gd.pr.val * 128 + gd.pn.toNat * 64)
  | .xlatRead d a b => some (738197504 + d.val * 65536 + a.val * 2048 + b.val * 64)
  | .xlatWrite d a b => some (738197512 + d.val * 65536 + a.val * 2048 + b.val * 64)
  | .xlatFetch d a b => some (738197520 + d.val * 65536 + a.val * 2048 + b.val * 64)
  | .xlatProbe d a b => some (738197528 + d.val * 65536 + a.val * 2048 + b.val * 64)
  | .tlbinvPage d a b => some (738197505 + d.val * 65536 + a.val * 2048 + b.val * 64)
  | .tlbinvVd d b => some (738197513 + d.val * 65536 + b.val * 64)
  | .migset d a b => some (738197506 + d.val * 65536 + a.val * 2048 + b.val * 64)
  | .mint tk d a b => some (738197507 + tk.val * 2097152 + d.val * 65536 + a.val * 2048 + b.val * 64)
  | .revokePort d a => some (738197508 + d.val * 65536 + a.val * 2048)
  | .revokeKey d a b => some (738197516 + d.val * 65536 + a.val * 2048 + b.val * 64)
  | .keysetSet d a b => some (738197509 + d.val * 65536 + a.val * 2048 + b.val * 64)
  | .keysetWin d a b => some (738197517 + d.val * 65536 + a.val * 2048 + b.val * 64)
  | .keysetErase d a b => some (738197525 + d.val * 65536 + a.val * 2048 + b.val * 64)
  | .admitTab d a b => some (738197510 + d.val * 65536 + a.val * 2048 + b.val * 64)
  | .add d a b gd w => some (1073741824 + d.val * 1048576 + a.val * 32768 + b.val * 1024 + gd.pr.val * 128 + gd.pn.toNat * 64 + w.code * 16)
  | .sub d a b gd w => some (1073741825 + d.val * 1048576 + a.val * 32768 + b.val * 1024 + gd.pr.val * 128 + gd.pn.toNat * 64 + w.code * 16)
  | .and d a b gd w => some (1073741826 + d.val * 1048576 + a.val * 32768 + b.val * 1024 + gd.pr.val * 128 + gd.pn.toNat * 64 + w.code * 16)
  | .or d a b gd w => some (1073741827 + d.val * 1048576 + a.val * 32768 + b.val * 1024 + gd.pr.val * 128 + gd.pn.toNat * 64 + w.code * 16)
  | .xor d a b gd w => some (1073741828 + d.val * 1048576 + a.val * 32768 + b.val * 1024 + gd.pr.val * 128 + gd.pn.toNat * 64 + w.code * 16)
  | .shl d a b gd w => some (1073741829 + d.val * 1048576 + a.val * 32768 + b.val * 1024 + gd.pr.val * 128 + gd.pn.toNat * 64 + w.code * 16)
  | .shr d a b gd w => some (1073741830 + d.val * 1048576 + a.val * 32768 + b.val * 1024 + gd.pr.val * 128 + gd.pn.toNat * 64 + w.code * 16)
  | .sar d a b gd w => some (1073741831 + d.val * 1048576 + a.val * 32768 + b.val * 1024 + gd.pr.val * 128 + gd.pn.toNat * 64 + w.code * 16)
  | .min d a b gd w => some (1073741832 + d.val * 1048576 + a.val * 32768 + b.val * 1024 + gd.pr.val * 128 + gd.pn.toNat * 64 + w.code * 16)
  | .max d a b gd w => some (1073741833 + d.val * 1048576 + a.val * 32768 + b.val * 1024 + gd.pr.val * 128 + gd.pn.toNat * 64 + w.code * 16)
  | .minn d a b gd w => some (1073741834 + d.val * 1048576 + a.val * 32768 + b.val * 1024 + gd.pr.val * 128 + gd.pn.toNat * 64 + w.code * 16)
  | .maxn d a b gd w => some (1073741835 + d.val * 1048576 + a.val * 32768 + b.val * 1024 + gd.pr.val * 128 + gd.pn.toNat * 64 + w.code * 16)
  | .sel d a b pr pn => some (1073741836 + d.val * 1048576 + a.val * 32768 + b.val * 1024 + pr.val * 128 + pn.toNat * 64)
  | .clz d a gd w => some (1073741837 + d.val * 1048576 + a.val * 32768 + gd.pr.val * 128 + gd.pn.toNat * 64 + w.code * 16)
  | .popc d a gd w => some (1073741838 + d.val * 1048576 + a.val * 32768 + gd.pr.val * 128 + gd.pn.toNat * 64 + w.code * 16)
  | .addi d a imm => some (1107296256 + d.val * 1048576 + a.val * 32768 + imm.val)
  | .andi d a imm => some (1107300352 + d.val * 1048576 + a.val * 32768 + imm.val)
  | .ori d a imm => some (1107304448 + d.val * 1048576 + a.val * 32768 + imm.val)
  | .xori d a imm => some (1107308544 + d.val * 1048576 + a.val * 32768 + imm.val)
  | .shli d a cnt => some (1107312640 + d.val * 1048576 + a.val * 32768 + cnt.val)
  | .shri d a cnt => some (1107316736 + d.val * 1048576 + a.val * 32768 + cnt.val)
  | .sari d a cnt => some (1107320832 + d.val * 1048576 + a.val * 32768 + cnt.val)
  | .li d imm => some (1140850688 + d.val * 1048576 + imm.val)
  | .lih d imm => some (1174405120 + d.val * 1048576 + imm.val)
  | .mul d a b gd w => some (1207959552 + d.val * 1048576 + a.val * 32768 + b.val * 1024 + gd.pr.val * 128 + gd.pn.toNat * 64 + w.code * 16)
  | .mulh d a b gd w => some (1207959553 + d.val * 1048576 + a.val * 32768 + b.val * 1024 + gd.pr.val * 128 + gd.pn.toNat * 64 + w.code * 16)
  | .mulhn d a b gd w => some (1207959554 + d.val * 1048576 + a.val * 32768 + b.val * 1024 + gd.pr.val * 128 + gd.pn.toNat * 64 + w.code * 16)
  | .div d a b gd w => some (1207959555 + d.val * 1048576 + a.val * 32768 + b.val * 1024 + gd.pr.val * 128 + gd.pn.toNat * 64 + w.code * 16)
  | .divn d a b gd w => some (1207959556 + d.val * 1048576 + a.val * 32768 + b.val * 1024 + gd.pr.val * 128 + gd.pn.toNat * 64 + w.code * 16)
  | .rem d a b gd w => some (1207959557 + d.val * 1048576 + a.val * 32768 + b.val * 1024 + gd.pr.val * 128 + gd.pn.toNat * 64 + w.code * 16)
  | .remn d a b gd w => some (1207959558 + d.val * 1048576 + a.val * 32768 + b.val * 1024 + gd.pr.val * 128 + gd.pn.toNat * 64 + w.code * 16)
  | .cmpEq d a b gd w => some (1241513984 + d.val * 1048576 + a.val * 32768 + b.val * 1024 + gd.pr.val * 128 + gd.pn.toNat * 64 + w.code * 16)
  | .cmpNe d a b gd w => some (1241513985 + d.val * 1048576 + a.val * 32768 + b.val * 1024 + gd.pr.val * 128 + gd.pn.toNat * 64 + w.code * 16)
  | .cmpLt d a b gd w => some (1241513986 + d.val * 1048576 + a.val * 32768 + b.val * 1024 + gd.pr.val * 128 + gd.pn.toNat * 64 + w.code * 16)
  | .cmpGe d a b gd w => some (1241513987 + d.val * 1048576 + a.val * 32768 + b.val * 1024 + gd.pr.val * 128 + gd.pn.toNat * 64 + w.code * 16)
  | .cmpLtn d a b gd w => some (1241513988 + d.val * 1048576 + a.val * 32768 + b.val * 1024 + gd.pr.val * 128 + gd.pn.toNat * 64 + w.code * 16)
  | .cmpGen d a b gd w => some (1241513989 + d.val * 1048576 + a.val * 32768 + b.val * 1024 + gd.pr.val * 128 + gd.pn.toNat * 64 + w.code * 16)
  | .plogAnd d a b gd => some (1275068416 + d.val * 1048576 + a.val * 32768 + b.val * 1024 + gd.pr.val * 128 + gd.pn.toNat * 64)
  | .plogOr d a b gd => some (1275068417 + d.val * 1048576 + a.val * 32768 + b.val * 1024 + gd.pr.val * 128 + gd.pn.toNat * 64)
  | .plogXor d a b gd => some (1275068418 + d.val * 1048576 + a.val * 32768 + b.val * 1024 + gd.pr.val * 128 + gd.pn.toNat * 64)
  | .plogAndn d a b gd => some (1275068419 + d.val * 1048576 + a.val * 32768 + b.val * 1024 + gd.pr.val * 128 + gd.pn.toNat * 64)
  | .bfx d a len1 pos => some (1308622848 + d.val * 1048576 + a.val * 32768 + len1.val * 64 + pos.val)
  | .bfxs d a len1 pos => some (1308626944 + d.val * 1048576 + a.val * 32768 + len1.val * 64 + pos.val)
  | .bfi d a len1 pos => some (1308631040 + d.val * 1048576 + a.val * 32768 + len1.val * 64 + pos.val)
  | .vadd d a b m e => some (1342177280 + d.val * 1048576 + a.val * 32768 + b.val * 1024 + m.val * 128 + e.code * 32)
  | .vsub d a b m e => some (1342177281 + d.val * 1048576 + a.val * 32768 + b.val * 1024 + m.val * 128 + e.code * 32)
  | .vmul d a b m e => some (1342177282 + d.val * 1048576 + a.val * 32768 + b.val * 1024 + m.val * 128 + e.code * 32)
  | .vmulh d a b m e => some (1342177283 + d.val * 1048576 + a.val * 32768 + b.val * 1024 + m.val * 128 + e.code * 32)
  | .vmin d a b m e => some (1342177284 + d.val * 1048576 + a.val * 32768 + b.val * 1024 + m.val * 128 + e.code * 32)
  | .vmax d a b m e => some (1342177285 + d.val * 1048576 + a.val * 32768 + b.val * 1024 + m.val * 128 + e.code * 32)
  | .vminn d a b m e => some (1342177286 + d.val * 1048576 + a.val * 32768 + b.val * 1024 + m.val * 128 + e.code * 32)
  | .vmaxn d a b m e => some (1342177287 + d.val * 1048576 + a.val * 32768 + b.val * 1024 + m.val * 128 + e.code * 32)
  | .vand d a b m e => some (1342177288 + d.val * 1048576 + a.val * 32768 + b.val * 1024 + m.val * 128 + e.code * 32)
  | .vor d a b m e => some (1342177289 + d.val * 1048576 + a.val * 32768 + b.val * 1024 + m.val * 128 + e.code * 32)
  | .vxor d a b m e => some (1342177290 + d.val * 1048576 + a.val * 32768 + b.val * 1024 + m.val * 128 + e.code * 32)
  | .vshl d a b m e => some (1342177291 + d.val * 1048576 + a.val * 32768 + b.val * 1024 + m.val * 128 + e.code * 32)
  | .vshr d a b m e => some (1342177292 + d.val * 1048576 + a.val * 32768 + b.val * 1024 + m.val * 128 + e.code * 32)
  | .vsar d a b m e => some (1342177293 + d.val * 1048576 + a.val * 32768 + b.val * 1024 + m.val * 128 + e.code * 32)
  | .vabs d a m e => some (1342177294 + d.val * 1048576 + a.val * 32768 + m.val * 128 + e.code * 32)
  | .vneg d a m e => some (1342177295 + d.val * 1048576 + a.val * 32768 + m.val * 128 + e.code * 32)
  | .vsel d a b m e => some (1342177296 + d.val * 1048576 + a.val * 32768 + b.val * 1024 + m.val * 128 + e.code * 32)
  | .vfadd d a b m e => some (1375731712 + d.val * 1048576 + a.val * 32768 + b.val * 1024 + m.val * 128 + e.code * 32)
  | .vfsub d a b m e => some (1375731713 + d.val * 1048576 + a.val * 32768 + b.val * 1024 + m.val * 128 + e.code * 32)
  | .vfmul d a b m e => some (1375731714 + d.val * 1048576 + a.val * 32768 + b.val * 1024 + m.val * 128 + e.code * 32)
  | .vfma d a b m e => some (1375731715 + d.val * 1048576 + a.val * 32768 + b.val * 1024 + m.val * 128 + e.code * 32)
  | .vfms d a b m e => some (1375731716 + d.val * 1048576 + a.val * 32768 + b.val * 1024 + m.val * 128 + e.code * 32)
  | .vfmin d a b m e => some (1375731717 + d.val * 1048576 + a.val * 32768 + b.val * 1024 + m.val * 128 + e.code * 32)
  | .vfmax d a b m e => some (1375731718 + d.val * 1048576 + a.val * 32768 + b.val * 1024 + m.val * 128 + e.code * 32)
  | .vfabs d a m e => some (1375731719 + d.val * 1048576 + a.val * 32768 + m.val * 128 + e.code * 32)
  | .vfneg d a m e => some (1375731720 + d.val * 1048576 + a.val * 32768 + m.val * 128 + e.code * 32)
  | .vcmpEq d a b m e => some (1409286144 + d.val * 1048576 + a.val * 32768 + b.val * 1024 + m.val * 128 + e.code * 32)
  | .vcmpNe d a b m e => some (1409286145 + d.val * 1048576 + a.val * 32768 + b.val * 1024 + m.val * 128 + e.code * 32)
  | .vcmpLt d a b m e => some (1409286146 + d.val * 1048576 + a.val * 32768 + b.val * 1024 + m.val * 128 + e.code * 32)
  | .vcmpGe d a b m e => some (1409286147 + d.val * 1048576 + a.val * 32768 + b.val * 1024 + m.val * 128 + e.code * 32)
  | .vcmpLtn d a b m e => some (1409286148 + d.val * 1048576 + a.val * 32768 + b.val * 1024 + m.val * 128 + e.code * 32)
  | .vcmpGen d a b m e => some (1409286149 + d.val * 1048576 + a.val * 32768 + b.val * 1024 + m.val * 128 + e.code * 32)
  | .vcmpFeq d a b m e => some (1409286152 + d.val * 1048576 + a.val * 32768 + b.val * 1024 + m.val * 128 + e.code * 32)
  | .vcmpFne d a b m e => some (1409286153 + d.val * 1048576 + a.val * 32768 + b.val * 1024 + m.val * 128 + e.code * 32)
  | .vcmpFlt d a b m e => some (1409286154 + d.val * 1048576 + a.val * 32768 + b.val * 1024 + m.val * 128 + e.code * 32)
  | .vcmpFge d a b m e => some (1409286155 + d.val * 1048576 + a.val * 32768 + b.val * 1024 + m.val * 128 + e.code * 32)
  | .vcmpFun d a b m e => some (1409286156 + d.val * 1048576 + a.val * 32768 + b.val * 1024 + m.val * 128 + e.code * 32)
  | .vcvt d a fmt m e rnd => some (1442840576 + d.val * 1048576 + a.val * 32768 + fmt.val * 1024 + m.val * 128 + e.code * 32 + rnd.code * 4)
  | .vqnt d a fmt m e => some (1442840577 + d.val * 1048576 + a.val * 32768 + fmt.val * 1024 + m.val * 128 + e.code * 32)
  | .vdqnt d a fmt m e rnd => some (1442840578 + d.val * 1048576 + a.val * 32768 + fmt.val * 1024 + m.val * 128 + e.code * 32 + rnd.code * 4)
  | .vrndi d a m e rnd => some (1442840579 + d.val * 1048576 + a.val * 32768 + m.val * 128 + e.code * 32 + rnd.code * 4)
  | .vrcpa d a m e => some (1476395008 + d.val * 1048576 + a.val * 32768 + m.val * 128 + e.code * 32)
  | .vrsqa d a m e => some (1476395009 + d.val * 1048576 + a.val * 32768 + m.val * 128 + e.code * 32)
  | .vexp2a d a m e => some (1476395010 + d.val * 1048576 + a.val * 32768 + m.val * 128 + e.code * 32)
  | .vlog2a d a m e => some (1476395011 + d.val * 1048576 + a.val * 32768 + m.val * 128 + e.code * 32)
  | .vredsum d a k m => some (1509949440 + d.val * 1048576 + a.val * 32768 + k.kindCode * 1024 + k.ewCode * 32 + m.val * 128)
  | .vredmax d a k m => some (1509949441 + d.val * 1048576 + a.val * 32768 + k.kindCode * 1024 + k.ewCode * 32 + m.val * 128)
  | .vredmin d a k m => some (1509949442 + d.val * 1048576 + a.val * 32768 + k.kindCode * 1024 + k.ewCode * 32 + m.val * 128)
  | .vscan d a op k m => some (1509949443 + d.val * 1048576 + a.val * 32768 + op.code * 4096 + k.kindCode * 1024 + k.ewCode * 32 + m.val * 128)
  | .vdot4 d a b m => some (1509949508 + d.val * 1048576 + a.val * 32768 + b.val * 1024 + m.val * 128)
  | .vperm d a b m e => some (1543503872 + d.val * 1048576 + a.val * 32768 + b.val * 1024 + m.val * 128 + e.code * 32)
  | .vslup d a b m e => some (1543503873 + d.val * 1048576 + a.val * 32768 + b.val * 1024 + m.val * 128 + e.code * 32)
  | .vsldn d a b m e => some (1543503874 + d.val * 1048576 + a.val * 32768 + b.val * 1024 + m.val * 128 + e.code * 32)
  | .vcomp d a m e => some (1543503875 + d.val * 1048576 + a.val * 32768 + m.val * 128 + e.code * 32)
  | .vexpd d a m e => some (1543503876 + d.val * 1048576 + a.val * 32768 + m.val * 128 + e.code * 32)
  | .viota d m e => some (1543503877 + d.val * 1048576 + m.val * 128 + e.code * 32)
  | .vbcast d a m e => some (1543503878 + d.val * 1048576 + a.val * 32768 + m.val * 128 + e.code * 32)
  | .vextr d a b e => some (1543503879 + d.val * 1048576 + a.val * 32768 + b.val * 1024 + e.code * 32)
  | .vins d a b e => some (1543503880 + d.val * 1048576 + a.val * 32768 + b.val * 1024 + e.code * 32)
  | .mand d a b e => some (1577058304 + d.val * 1048576 + a.val * 32768 + b.val * 1024 + e.code * 32)
  | .mor d a b e => some (1577058305 + d.val * 1048576 + a.val * 32768 + b.val * 1024 + e.code * 32)
  | .mxor d a b e => some (1577058306 + d.val * 1048576 + a.val * 32768 + b.val * 1024 + e.code * 32)
  | .mnot d a e => some (1577058307 + d.val * 1048576 + a.val * 32768 + e.code * 32)
  | .mcnt d a e => some (1577058308 + d.val * 1048576 + a.val * 32768 + e.code * 32)
  | .mfirst d a e => some (1577058309 + d.val * 1048576 + a.val * 32768 + e.code * 32)
  | .qand d a b e => some (1577058310 + d.val * 1048576 + a.val * 32768 + b.val * 1024 + e.code * 32)
  | .qclr d a e => some (1577058311 + d.val * 1048576 + a.val * 32768 + e.code * 32)
  | .vrng d a b m e => some (1610612736 + d.val * 1048576 + a.val * 32768 + b.val * 1024 + m.val * 128 + e.code * 32)
  | .cHint h x => some (939524096 + h.val * 33554432 + x.val)
  | .aHint h x => some (2013265920 + h.val * 33554432 + x.val)
  | .land _ => none
  | .laneStart _ => none
  | .faultOverflowMove _ => none
  | .atWake _ => none
  | .cwaitWake _ => none
  | .erecvWake _ => none
  | .vpullWake _ => none
  | .dwaitWake _ => none
  | .harpCommandStart _ => none
  | .harpRowTouch _ => none
  | .hmmsPairingTimeout _ => none
  | .freeAccessComplete _ => none
  | .freeAccessTimeout _ => none
  | .translationWalk _ _ _ => none
  | .l1LineExpiry _ _ => none
  | .memoryLineWrite _ _ => none
  | .memoryLineRead _ _ => none
  | .minorWrapReseal _ => none
  | .timedReadCheck _ _ => none
  | .relayOwnerWrite _ => none
  | .relayOwnerRead _ => none
  | .relayPeerRead _ => none
  | .switchCheck _ => none
  | .packetDelivery _ => none
  | .timedDelivery _ _ => none
  | .elasticArrival _ => none
  | .heldArrivalExpiry _ => none
  | .vpushArrival _ => none
  | .remoteReply _ _ => none
  | .discardNotice _ => none
  | .fabricTimeout _ => none
  | .rateUpdate => none
  | .drayCommandStart _ => none
  | .drayCommandCompletion _ _ => none
  | .drayTimeout _ _ => none
  | .timedDrayStart _ _ => none
  | .migrationLineCopy _ => none
  | .portGenerationAdvance _ _ _ => none
  | .keyDigestCompare _ => none
  | .routeKeyAdvance => none
  | .networkWorkRequest _ _ _ => none
  | .networkInbound _ _ => none
  | .networkTimeout _ => none
  | .launchQueuePoll _ _ => none
  | .launchEngineTake _ => none
  | .slotFreed _ => none
  | .unitCompletion _ => none
  | .completionNotice _ => none
  | .cancelDrainEnd _ => none
  | .scoredLaunchStart _ _ => none
  | .endingNotice _ _ _ => none
  | .overrun _ => none
  | .scoredLaunchEnd _ => none
  | .scoredLaunchRelease _ => none
  | .preq _ => none
  | .scoredPreempt _ => none
  | .rreq _ => none
  | .scoredResume _ => none
  | .freePreempt _ => none
  | .interruptDelivery _ => none
  | .barLine _ => none
  | .barGap => none
  | .rest => none
  | .timeLock _ => none
  | .timeLockRepeat _ => none
  | .wayQuotaRecompute _ => none
  | .errorCounterCopy => none
  | .checkpointRoundStart => none
  | .checkpointRetire => none
  | .checkpointRoundEnd => none
  | .vdScheduleOut _ _ => none
  | .vdScheduleIn _ _ => none
  | .vdReset _ => none
  | .vdTeardown _ => none
  | .vdResetEffect _ => none
  | .vdQuiet _ => none
  | .portOpen _ _ _ _ => none
  | .portClose _ _ _ => none
  | .deviceRegisterWrite _ => none
  | .coreRetire _ => none
  | .partitionMove _ _ _ _ _ => none
  | .coachmanTakeover => none
  | .powerStateEntry _ => none
  | .powerWake _ => none
  | .thermalSample _ => none
  | .thermalLevelExit => none
  | .bringupStage0 _ => none
  | .bringupStage1 => none
  | .discoveryPacket _ _ _ => none
  | .discoveryAnswer _ => none
  | .mapBuild => none
  | .bringupStage2 _ _ _ => none
  | .bootWaitRelease _ => none
  | .bootExpiry => none
  | .bringupStage3 _ => none
  | .lockInterface _ => none
  | .startInterface _ => none
  | .stopInterface _ => none
  | .hostTransaction _ => none
  | .mctpMessage _ => none
  | .firmwareUpdate _ => none
  | .scoredBankAccess _ => none
  | .fabricAcknowledgement _ _ => none
  | .drayQueueFullExpiry _ => none
  | .checkpointUnitCopy => none
  | .frameAssignment _ _ _ _ => none
  | .queuePairCreation _ _ => none
  | .vdCreation _ _ => none
  | .reservedStrandRelease _ => none
  | .openSlotPurge _ => none
  | .emptyMaskWriteback _ _ => none

/-- The word with its L bit set (R39). -/
def loneWord (w : Nat) : Nat := w + 2147483648

/-- R39: a major below 0x20 is C-class. -/
def isCClass (w : Nat) : Bool := fld w 30 1 == 0

/-- R42, R49 to R51: the general register that a word of an assigned major and minor writes, whatever its other fields hold: the
check of R42 comes before the checks of fixed fields and format codes (R54). -/
def wordDest (w : Nat) : Option Nat :=
  let field (lo n : Nat) (minors : List Nat) (d : Nat) : Option Nat := if minors.contains (fld w lo n) then some d else none
  let d := fld w 20 5
  let x := fld w 16 5
  match fld w 25 6 with
  | 0 => field 0 6 [4, 6, 8, 9] d
  | 2 => field 20 5 [1, 3] 31
  | 4 => some d
  | 6 => field 0 4 [0, 1, 2, 3, 4, 5, 6, 7, 8, 9] d
  | 7 => field 12 3 [0] d
  | 11 => field 12 3 [0, 1] d
  | 15 => field 0 3 [1, 3] x
  | 16 => field 0 3 [0, 2, 4] x
  | 17 => field 0 3 [0, 4] x
  | 18 => field 0 3 [0, 1, 2, 3, 4, 5] x
  | 19 => field 0 3 [0, 1, 2] x
  | 20 => field 0 3 [0, 1] x
  | 21 => field 0 6 [0, 1, 2, 3, 4] d
  | 22 => field 0 3 [0, 1, 2, 3, 4, 5, 6] x
  | 32 => field 0 4 [0, 1, 2, 3, 4, 5, 6, 7, 8, 9, 10, 11, 12, 13, 14] d
  | 33 => field 12 3 [0, 1, 2, 3, 4, 5, 6] d
  | 34 => some d
  | 35 => some d
  | 36 => field 0 4 [0, 1, 2, 3, 4, 5, 6] d
  | 39 => field 12 3 [0, 1, 2] d
  | 46 => field 0 5 [7] d
  | 47 => field 0 5 [4, 5] d
  | _ => none

/-- R42: two words that write one general register other than g0. No C-class word writes a predicate. -/
def joinedDup (c a : Nat) : Bool :=
  match wordDest c, wordDest a with
  | some x, some y => x == y && x != 0
  | _, _ => false

/-- The kinds of a pair that issue (R40). -/
inductive Pair
  | joined (c a : Nat)
  | lone (w0 w1 : Nat)
  deriving DecidableEq, Repr

/-- R40, R42: the kind of a pair by its L bits and classes, and the destinations of a joined pair. -/
def decodePair (w0 w1 : Nat) : Except DecodeError Pair :=
  match fld w0 31 1, fld w1 31 1 with
  | 0, 0 =>
    if isCClass w0 && !isCClass w1 && !joinedDup w0 w1 then .ok (.joined w0 w1) else .error .illegalPair
  | 1, 1 => .ok (.lone w0 w1)
  | _, _ => .error .illegalPair

/-- The instruction the decoder reads from the bits of a table row: one 32-bit word, whose L bit is no field of it. -/
def decodeTableWord (nbits w : Nat) : Option Instr :=
  if nbits = 32 then (decodeWord (w % 4294967296)).toOption else none

end Sys2Proof
end

