-- ==== Sys2Proof/Config.lean ====
section
/-! DEFINITION. The values that the spec leaves open, as constants without a body (notes/assumptions/7.md, 9.md, 93.md and 94.md): no
proof can see what they are. -/
namespace Sys2Proof.Config

/-- A value the spec does not state, by the number of the draw. -/
opaque freeValue : Nat → Word

/-- What the Dray and the ends of its path add to the mesh latency of a timed command (R192, R286): source and destination space. -/
opaque drayLatency : Nat → Nat → Nat

/-- The four Reed–Solomon check symbols of the 76 bytes of a line and its metadata (R223): the code's field and generator are not given. -/
opaque lineEcc : Nat → BitVec 32

/-- The line address of a counter block (level 0) or tree node of a level, outside the physical map (R225): it is not given. -/
opaque treeLine : Nat → Nat → Nat

end Sys2Proof.Config
end

