-- ==== Sys2Proof/Machine/Bits.lean ====
section
/-! DEFINITION. Bit fields, sign extension, byte order (R2 to R4) and the tables by number. -/
namespace Sys2Proof.Machine

/-! ## Tables by number -/

/-- The entry of k, or the default where none is listed. -/
def tget {α : Type} (d : α) (k : Nat) : Sparse α → α
  | [] => d
  | (j, v) :: t => if k = j then v else if k < j then d else tget d k t

/-- The table with entry k set to v; an entry equal to the default is not listed. -/
def tput {α : Type} [DecidableEq α] (d : α) (k : Nat) (v : α) : Sparse α → Sparse α
  | [] => if v = d then [] else [(k, v)]
  | (j, w) :: t =>
    if k = j then (if v = d then t else (k, v) :: t)
    else if k < j then (if v = d then (j, w) :: t else (k, v) :: (j, w) :: t)
    else (j, w) :: tput d k v t

/-- The canonical form of a table: keys strictly rising, no entry equal to the default. -/
def twf {α : Type} [DecidableEq α] (d : α) : Sparse α → Bool
  | [] => true
  | [(_, v)] => decide (v ≠ d)
  | (j, v) :: (k, w) :: t => decide (v ≠ d) && decide (j < k) && twf d ((k, w) :: t)

/-- The first entry of a list by key. -/
def look {κ α : Type} [DecidableEq κ] (k : κ) : List (κ × α) → Option α
  | [] => none
  | (j, v) :: t => if j = k then some v else look k t

/-- The list with its first entry of key k replaced, or with a new entry at the end. -/
def bind {κ α : Type} [DecidableEq κ] (k : κ) (v : α) : List (κ × α) → List (κ × α)
  | [] => [(k, v)]
  | (j, w) :: t => if j = k then (k, v) :: t else (j, w) :: bind k v t

/-- The list without the entries of key k. -/
def unbind {κ α : Type} [DecidableEq κ] (k : κ) (l : List (κ × α)) : List (κ × α) :=
  l.filter fun e => decide (e.1 ≠ k)

/-! ## Fields of words -/

/-- Bits [lo + n − 1 : lo] of a number. -/
def field (x lo n : Nat) : Nat := x / 2 ^ lo % 2 ^ n

/-- Bits [lo + n − 1 : lo] of a bit vector. -/
def bits {w : Nat} (x : BitVec w) (lo n : Nat) : Nat := field x.toNat lo n

/-- The two's-complement reading of the low n bits of x (R3). -/
def signed (n x : Nat) : Int := if x % 2 ^ n < 2 ^ (n - 1) then (x % 2 ^ n : Nat) else (x % 2 ^ n : Nat) - (2 ^ n : Nat)

/-- x modulo 2^n as a natural number. -/
def wrap (n : Nat) (x : Int) : Nat := (x % (2 ^ n : Nat)).toNat

/-- SignExtend(x, n) to a word. -/
def sext (n x : Nat) : Word := BitVec.ofInt 64 (signed n x)

/-- ZeroExtend(x, n) to a word. -/
def zext (n x : Nat) : Word := BitVec.ofNat 64 (x % 2 ^ n)

/-- ⌈x / y⌉. -/
def ceilDiv (x y : Nat) : Nat := (x + y - 1) / y

/-! ## Bytes, least significant first (R4) -/

/-- The n bytes of x. -/
def toBytes : Nat → Nat → List Byte
  | 0, _ => []
  | n + 1, x => BitVec.ofNat 8 x :: toBytes n (x / 256)

/-- The number that a list of bytes holds. -/
def ofBytes : List Byte → Nat
  | [] => 0
  | b :: t => b.toNat + 256 * ofBytes t

/-- Exactly n bytes of a list, padded with zeros. -/
def takeBytes (n : Nat) (l : List Byte) : List Byte := (l ++ List.replicate n 0).take n

/-- The number in n bytes of a list from byte i. -/
def blockField (b : List Byte) (i n : Nat) : Nat := ofBytes ((b.drop i).take n)

/-! ## Counting -/

/-- Floor(log2 x), 0 for 0. -/
def log2 (x : Nat) : Nat := Nat.log2 x

/-- The number of one bits among the low n. -/
def popcount : Nat → Nat → Nat
  | 0, _ => 0
  | n + 1, x => x % 2 + popcount n (x / 2)

/-- The numbers i < n with bit i of x set, rising. -/
def onesBelow (n x : Nat) : List Nat := (List.range n).filter fun i => x.testBit i

/-- x ↦ x + 1, saturating at 2^32 − 1 (R344). -/
def sat32 (x : Nat) : Nat := if x ≥ 4294967295 then 4294967295 else x + 1

/-! ## Order -/

/-- An element put into a list behind those whose key is not greater. -/
def insertOn {α : Type} (f : α → Nat) (a : α) : List α → List α
  | [] => [a]
  | b :: t => if f a < f b then a :: b :: t else b :: insertOn f a t

/-- A list in rising order of a key; elements of equal keys keep their order. -/
def sortOn {α : Type} (f : α → Nat) (l : List α) : List α := l.foldl (fun acc a => insertOn f a acc) []

end Sys2Proof.Machine
end

