-- ==== Sys2Proof/Machine/State.lean ====
section
/-! DEFINITION. The state of one Hexvar package: strands, cores, Harps, memories, queues, engines and registers, each
with the rule that names it, the model's own bookkeeping of time, and the machine right after reset. Everything is plain
data. A table by number is a `Sparse` list whose missing entries stand for the default value of its kind. -/
namespace Sys2Proof.Machine

/-! ## Events -/

/-- A destination of a register result (R72). `fp` ORs flags into FPCTL (R70). -/
inductive Dst
  | g (r : GReg) | p (r : PReg) | tk (r : TkReg) | v (r : VecReg) | be (r : VecReg) | m (r : MReg) | q (r : QReg)
  | st (r : StReg) | vl | csr (n : Nat) | fp
  deriving DecidableEq, Repr

/-- An error that happens in the hardware, which its checks are there for. -/
inductive Upset
  /-- A word of a register of a strand: one symbol, which is corrected on read, or more (R77, R78). -/
  | register (sid : Nat) (d : Dst) (word : Nat) (fatal : Bool)
  /-- The next product of a strand's lanes comes out wrong by an amount that is no multiple of 3 (R107). -/
  | multiplier (sid err : Nat)
  /-- A bit of an accumulator of a crew's soundboard flips (R108). -/
  | accumulator (crew tile row col bit : Nat)
  /-- Symbols of a line of near or far memory or of its metadata flip (R223): the byte of the 80 and the bits that change. -/
  | line (la : Nat) (symbols : List (Nat × Byte))
  /-- The same of a counter block or a tree node (R225), by level and number. -/
  | node (level n : Nat) (symbols : List (Nat × Byte))
  deriving DecidableEq, Repr

/-- What one package of a scored launch tells the others over the time fabric: its admission (R287), with its ENDLAT, an ending event at an LCY
(R294), that its units have completed (R340), and the LCY at which it took a request to pre-empt (R361) or the bar of a resumption (R364). -/
inductive TimeNote
  | admitted (endlat : Nat)
  | ending (lcy detail : Nat)
  | completed
  | preempt (lcy : Nat)
  | resume (bar : Nat)
  deriving DecidableEq, Repr

/-- Where a result of a word that takes effect after its issue lands: strand, sequence number, register and LCY. -/
structure Ret where
  sid : Nat
  seq : Nat
  d : GReg
  due : Nat
  deriving DecidableEq, Repr

/-- The effect of a COUNT word in its effect cycle (R341): the VD, the counter and the operand read at issue. -/
inductive Effect
  | carr (v : Nat) (n : CnReg) (x : Word)
  | cset (v : Nat) (n : CnReg) (x : Word)
  | cancel (v : Nat) (x : Word)
  | ckpt (v : Nat) (part : Option Nat) (n : CnReg) (x : Word)
  deriving DecidableEq, Repr

/-- A row of the opcode table without an encoding, as the machine itself owes it or the outside world gives it; it carries
what the row's constructor of Instr carries. -/
inductive Event
  /-- LAND (R72). -/
  | land (sid : Nat)
  /-- LANE_START (R76). -/
  | laneStart (sid : Nat)
  /-- FAULT_OVERFLOW_MOVE (R248). -/
  | faultOverflowMove (part : Nat)
  /-- AT_WAKE (R292). -/
  | atWake (sid : Nat)
  /-- CWAIT_WAKE (R342). -/
  | cwaitWake (sid : Nat)
  /-- ERECV_WAKE (R263). -/
  | erecvWake (sid : Nat)
  /-- VPULL_WAKE (R268). -/
  | vpullWake (sid : Nat)
  /-- DWAIT_WAKE (R275). -/
  | dwaitWake (sid : Nat)
  /-- HARP_COMMAND_START (R166). -/
  | harpCommandStart (core : Nat)
  /-- HARP_ROW_TOUCH (R170). -/
  | harpRowTouch (op : Nat)
  /-- HMMS_PAIRING_TIMEOUT (R177). -/
  | hmmsPairingTimeout (op : Nat)
  /-- FREE_ACCESS_COMPLETE (R193). -/
  | freeAccessComplete (id : Nat)
  /-- FREE_ACCESS_TIMEOUT (R193). -/
  | freeAccessTimeout (id : Nat)
  /-- TRANSLATION_WALK (R325). -/
  | translationWalk (core vd va : Nat)
  /-- L1_LINE_EXPIRY (R189). -/
  | l1LineExpiry (core line : Nat)
  /-- MEMORY_LINE_WRITE (R226). -/
  | memoryLineWrite (la : Nat) (data : BitVec 512)
  /-- MEMORY_LINE_READ (R227). -/
  | memoryLineRead (la vd : Nat)
  /-- MINOR_WRAP_RESEAL (R226). -/
  | minorWrapReseal (blk : Nat)
  /-- TIMED_READ_CHECK (R227). -/
  | timedReadCheck (launch la : Nat)
  /-- RELAY_OWNER_WRITE (R233). -/
  | relayOwnerWrite (id : Nat)
  /-- RELAY_OWNER_READ (R233). -/
  | relayOwnerRead (id : Nat)
  /-- RELAY_PEER_READ (R233). -/
  | relayPeerRead (id : Nat)
  /-- SWITCH_CHECK (R309). -/
  | switchCheck (pkt : Nat)
  /-- PACKET_DELIVERY (R312). -/
  | packetDelivery (pkt : Nat)
  /-- TIMED_DELIVERY (R260). -/
  | timedDelivery (pkt flit : Nat)
  /-- ELASTIC_ARRIVAL (R244). -/
  | elasticArrival (pkt : Nat)
  /-- HELD_ARRIVAL_EXPIRY (R245). -/
  | heldArrivalExpiry (pkt : Nat)
  /-- VPUSH_ARRIVAL (R267). -/
  | vpushArrival (pkt : Nat)
  /-- REMOTE_REPLY (R265), with the mark that it echoes (R257). -/
  | remoteReply (op : Nat) (value : Word) (mark : Bool)
  /-- DISCARD_NOTICE (R256). -/
  | discardNotice (op : Nat)
  /-- FABRIC_TIMEOUT (R256). -/
  | fabricTimeout (op : Nat)
  /-- RATE_UPDATE (R257). -/
  | rateUpdate
  /-- DRAY_COMMAND_START (R272). -/
  | drayCommandStart (dray : Nat)
  /-- DRAY_COMMAND_COMPLETION (R272). -/
  | drayCommandCompletion (dray seq : Nat)
  /-- DRAY_TIMEOUT (R272). -/
  | drayTimeout (dray seq : Nat)
  /-- TIMED_DRAY_START (R273). -/
  | timedDrayStart (launch idx : Nat)
  /-- MIGRATION_LINE_COPY (R332). -/
  | migrationLineCopy (slot : Nat)
  /-- PORT_GENERATION_ADVANCE (R317). -/
  | portGenerationAdvance (x y port : Nat)
  /-- KEY_DIGEST_COMPARE (R318). -/
  | keyDigestCompare (equal : Bool)
  /-- ROUTE_KEY_ADVANCE (R318). -/
  | routeKeyAdvance
  /-- NETWORK_WORK_REQUEST (R277). -/
  | networkWorkRequest (qp status : Nat) (reply : List Byte)
  /-- NETWORK_INBOUND (R277). -/
  | networkInbound (qp : Nat) (msg : NetMsg)
  /-- NETWORK_TIMEOUT (R277). -/
  | networkTimeout (qp : Nat)
  /-- LAUNCH_QUEUE_POLL (R251). -/
  | launchQueuePoll (part q : Nat)
  /-- LAUNCH_ENGINE_TAKE (R253). -/
  | launchEngineTake (part : Nat)
  /-- SLOT_FREED (R297). -/
  | slotFreed (sid : Nat)
  /-- UNIT_COMPLETION (R22). -/
  | unitCompletion (sid : Nat)
  /-- COMPLETION_NOTICE (R340). -/
  | completionNotice (launch : Nat)
  /-- CANCEL_DRAIN_END (R25). -/
  | cancelDrainEnd (launch : Nat)
  /-- SCORED_LAUNCH_START (R290). -/
  | scoredLaunchStart (launch : Nat) (allReported : Bool)
  /-- ENDING_NOTICE (R294). -/
  | endingNotice (launch lcy detail : Nat)
  /-- OVERRUN (R294). -/
  | overrun (launch : Nat)
  /-- SCORED_LAUNCH_END (R360). -/
  | scoredLaunchEnd (launch : Nat)
  /-- SCORED_LAUNCH_RELEASE (R289). -/
  | scoredLaunchRelease (launch : Nat)
  /-- PREQ (R361). -/
  | preq (part : Nat)
  /-- SCORED_PREEMPT (R362). -/
  | scoredPreempt (launch : Nat)
  /-- RREQ (R364). -/
  | rreq (part : Nat)
  /-- SCORED_RESUME (R364). -/
  | scoredResume (launch : Nat)
  /-- FREE_PREEMPT (R365). -/
  | freePreempt (sid : Nat)
  /-- INTERRUPT_DELIVERY (R249). -/
  | interruptDelivery (vd : Nat)
  /-- BAR_LINE (R336). -/
  | barLine (measured : BitVec 32)
  /-- BAR_GAP (R335). -/
  | barGap
  /-- REST (R295). -/
  | rest
  /-- TIME_LOCK (R336). -/
  | timeLock (p : LockData)
  /-- TIME_LOCK_REPEAT (R337). -/
  | timeLockRepeat (p : LockData)
  /-- WAY_QUOTA_RECOMPUTE (R191). -/
  | wayQuotaRecompute (die : Nat)
  /-- ERROR_COUNTER_COPY (R344). -/
  | errorCounterCopy
  /-- CHECKPOINT_ROUND_START (R348). -/
  | checkpointRoundStart
  /-- CHECKPOINT_RETIRE (R348). -/
  | checkpointRetire
  /-- CHECKPOINT_ROUND_END (R348). -/
  | checkpointRoundEnd
  /-- VD_SCHEDULE_OUT (R373). -/
  | vdScheduleOut (part x : Nat)
  /-- VD_SCHEDULE_IN (R373). -/
  | vdScheduleIn (part x : Nat)
  /-- VD_RESET (R375). -/
  | vdReset (vd : Nat)
  /-- VD_TEARDOWN (R376). -/
  | vdTeardown (vd : Nat)
  /-- VD_RESET_EFFECT (R376). -/
  | vdResetEffect (vd : Nat)
  /-- VD_QUIET (R376). -/
  | vdQuiet (vd : Nat)
  /-- PORT_OPEN (R311). -/
  | portOpen (x y port vd : Nat)
  /-- PORT_CLOSE (R311). -/
  | portClose (x y port : Nat)
  /-- DEVICE_REGISTER_WRITE (R182). -/
  | deviceRegisterWrite (w : DevWrite)
  /-- CORE_RETIRE (R378). -/
  | coreRetire (core : Nat)
  /-- PARTITION_MOVE (R380). -/
  | partitionMove (src dst : Nat) (crews drays spares : Nat)
  /-- COACHMAN_TAKEOVER (R381). -/
  | coachmanTakeover
  /-- POWER_STATE_ENTRY (R382). -/
  | powerStateEntry (part : Nat)
  /-- POWER_WAKE (R382). -/
  | powerWake (part : Nat)
  /-- THERMAL_SAMPLE (R390). -/
  | thermalSample (m : ThermalData)
  /-- THERMAL_LEVEL_EXIT (R391). -/
  | thermalLevelExit
  /-- BRINGUP_STAGE_0 (R383). -/
  | bringupStage0 (p : Stage0Data)
  /-- BRINGUP_STAGE_1 (R392). -/
  | bringupStage1
  /-- DISCOVERY_PACKET (R392). -/
  | discoveryPacket (x y : Nat) (dir : Dir)
  /-- DISCOVERY_ANSWER (R393). -/
  | discoveryAnswer (core : Nat)
  /-- MAP_BUILD (R393). -/
  | mapBuild
  /-- BRINGUP_STAGE_2 (R383, R394). -/
  | bringupStage2 (trained : Bool) (far : Bool) (checksum : BitVec 32)
  /-- BOOT_WAIT_RELEASE (R394). -/
  | bootWaitRelease (core : Nat)
  /-- BOOT_EXPIRY (R395). -/
  | bootExpiry
  /-- BRINGUP_STAGE_3 (R383). -/
  | bringupStage3 (p : Stage3Data)
  /-- LOCK_INTERFACE (R236). -/
  | lockInterface (vd : Nat)
  /-- START_INTERFACE (R236). -/
  | startInterface (vd : Nat)
  /-- STOP_INTERFACE (R236). -/
  | stopInterface (vd : Nat)
  /-- HOST_TRANSACTION (R236). -/
  | hostTransaction (t : HostTx)
  /-- MCTP_MESSAGE (R387). -/
  | mctpMessage (m : MgmtMsg)
  /-- FIRMWARE_UPDATE (R381, R387). -/
  | firmwareUpdate (bar : Nat)
  /-- SCORED_BANK_ACCESS (R194). -/
  | scoredBankAccess (id : Nat)
  /-- FABRIC_ACKNOWLEDGEMENT (R256, R257). -/
  | fabricAcknowledgement (op : Nat) (mark : Bool)
  /-- DRAY_QUEUE_FULL_EXPIRY (R240). -/
  | drayQueueFullExpiry (sid : Nat)
  /-- CHECKPOINT_UNIT_COPY (R348). -/
  | checkpointUnitCopy
  /-- FRAME_ASSIGNMENT (R231). -/
  | frameAssignment (frame owner : Nat) (assigned fresh : Bool)
  /-- QUEUE_PAIR_CREATION (R250). -/
  | queuePairCreation (qp : Nat) (c : QpConfig)
  /-- VD_CREATION (R375). -/
  | vdCreation (vd : Nat) (c : VdConfig)
  /-- RESERVED_STRAND_RELEASE (R353). -/
  | reservedStrandRelease (sid : Nat)
  /-- OPEN_SLOT_PURGE (R376). -/
  | openSlotPurge (vd : Nat)
  /-- EMPTY_MASK_WRITEBACK (R377). -/
  | emptyMaskWriteback (part die : Nat)
  /-- The effect cycle of a COUNT word (R341); no row of its own. -/
  | effect (e : Effect) (r : Ret)
  /-- A message of another package of a scored launch over the time fabric; no row of its own. -/
  | timeArrival (launch : Nat) (m : TimeNote)
  /-- A row of a scratchpad is cleared (R188); no row of its own. -/
  | scratchClear (core : Nat)
  /-- An error in the hardware; no row of its own. -/
  | upset (u : Upset)
  /-- The first packet of `linkIn` reaches its ensemble port; no row of its own. -/
  | linkArrival
  deriving DecidableEq, Repr

/-! ## Time and pending work -/

/-- When something owed by the machine falls due: an ENCY cycle, or an LCY cycle of a launch. `prio` orders the items of
one cycle (R186, R340). -/
structure Stamp where
  clock : Option Nat
  time : Nat
  prio : Nat
  deriving DecidableEq, Repr

/-! ## Strands -/

/-- The bits of the widest register (R66). -/
abbrev Wide := BitVec 65536

/-- A register result that has not landed (R72): its value once known, the bits it writes, and the LCY at which it lands
once known. -/
structure Pend where
  seq : Nat
  /-- LCY of the issue, to tell writes of the same turn (R41). -/
  turn : Nat
  dst : Dst
  val : Option Wide
  mask : Wide
  due : Option Nat
  vec : Bool
  deriving DecidableEq, Repr

/-- A trap's cause, detail, level and value (R350, R351). -/
structure TrapInfo where
  cause : Nat
  detail : Nat := 0
  level : Nat := 0
  eval : Word := 0
  /-- ESTAT.VECT: the charged word is a vector word (R354). -/
  vect : Bool := false
  deriving DecidableEq, Repr

/-- What a parked strand waits for (R20): a target LCY, a counter, an elastic queue or a register group, with the expiry
LCY where there is one and the register that receives the outcome. -/
inductive Park
  | atLcy (target : Nat)
  | cwait (vd : Nat) (cn : CnReg) (target : Nat) (expiry : Option Nat) (d : GReg) (since : Nat)
  | erecv (queue : Nat) (expiry : Nat) (off : Nat) (d : GReg) (since : Nat)
  | vpull (base n : Nat) (expiry : Nat) (d : GReg) (since : Nat)
  /-- The boot wait of R394. -/
  | boot
  deriving DecidableEq, Repr

/-- The states of a strand slot (R20). -/
inductive SlotState
  | idle | runnable | parked (p : Park) | halted | preempted
  deriving DecidableEq, Repr

/-- What a runnable strand's waiting word waits for (R34): `until` a cycle, or the outcome of the named operation. -/
inductive Wait
  /-- VSYNC (R137): the vector words issued before the sequence number. -/
  | vsync (seq : Nat)
  /-- FENCE (R210). -/
  | fence (d : GReg) (scope : Scope) (mask : Nat) (seq : Nat) (turn : Nat)
  /-- Until an LCY, when a result lands as given (HCHK, XLAT, KEYSET, REVOKE, CTXSAVE). -/
  | until (lcy : Nat)
  /-- HCHK (R174): the Harp operation. -/
  | harp (op : Nat)
  /-- DWAIT (R275). -/
  | dwait (ident : Nat) (expiry : Nat) (d : GReg) (seq : Nat) (turn : Nat)
  /-- TLBINV step 2, and step 6 with the first access number after the advance (R329). -/
  | tlbinv (vd : Nat) (page : Option Nat) (drain : Option Nat) (d : GReg) (seq : Nat) (turn : Nat)
  /-- REVOKE PORT (R317): the port, the cycle in which its state is judged, and the LCY after which the result lands. -/
  | port (key : Nat) (at_ : Nat) (d : GReg) (seq : Nat) (after_ : Nat)
  /-- STRIPE: chunks that have not left (R257). -/
  | chunks
  /-- CTXSAVE (R367): the strand that is being saved, and the block's address. -/
  | ctxsave (target addr : Nat) (d : GReg) (seq : Nat) (turn : Nat)
  /-- The first handler word waits until every pending write has landed (R74, R356). -/
  | drain
  /-- A word whose outcome is a dated event of the agenda; the event clears the wait. Also a scored strand that has raised
  an ending event and issues nothing further (R359). -/
  | event
  deriving DecidableEq, Repr

/-- Vector integer operations of VALU (R141). -/
inductive VAluOp
  | add | sub | mul | mulh | min | max | minn | maxn | and | or | xor | shl | shr | sar | abs | neg
  deriving DecidableEq, Repr

/-- Vector floating operations of VFP (R142). -/
inductive VFpOp
  | add | sub | mul | fma | fms | min | max | abs | neg
  deriving DecidableEq, Repr

/-- Comparisons of CMP and VCMP 0 to 5 (R119). -/
inductive CmpOp
  | eq | ne | lt | ge | ltn | gen
  deriving DecidableEq, Repr

/-- Floating comparisons of VCMP 8 to 12 (R143). -/
inductive FCmpOp
  | feq | fne | flt | fge | unord
  deriving DecidableEq, Repr

/-- The approximations of VSPEC (R149). -/
inductive SpecOp
  | rcp | rsq | exp2 | log2
  deriving DecidableEq, Repr

/-- Reductions of VRED (R152). -/
inductive RedOp
  | sum | max | min
  deriving DecidableEq, Repr

/-- Permutations of VPERM (R154); VSLUP, VSLDN, VBCAST, VEXTR and VINS carry their captured scalars. -/
inductive PermOp
  | perm (b : VecReg) | slup (s : Word) | sldn (s : Word) | comp | expd
  deriving DecidableEq, Repr

/-- Mask operations of VMASK (R155). -/
inductive MaskOp
  | and | or | xor
  deriving DecidableEq, Repr

/-- Operations of AMO, VAMO and RAMO (R207, R220, R265). -/
inductive AmoOp
  | add | min | max | minn | maxn | and | or | xor | swap | cas
  deriving DecidableEq, Repr

/-- The address forms of VMEM (R212), with the captured base and stride. -/
inductive VAddr
  | unit (base : Word) | stride (base step : Word) | index (base : Word) (b : VecReg)
  deriving DecidableEq, Repr

/-- What a vector word does in the lanes, with its captured scalar operands (R132). -/
inductive VOp
  | alu (op : VAluOp) (d a b : VecReg) (m : MReg) (e : EW)
  | sel (d a b : VecReg) (m : MReg) (e : EW)
  | fp (op : VFpOp) (d a b : VecReg) (m : MReg) (e : FEW)
  | cmp (op : CmpOp) (d : MReg) (a b : VecReg) (m : MReg) (e : EW)
  | fcmp (op : FCmpOp) (d : MReg) (a b : VecReg) (m : MReg) (e : FEW)
  | cvt (d a : VecReg) (fmt : Nat) (m : MReg) (e : FEW) (rnd : Rnd)
  | qnt (d a : VecReg) (fmt : Nat) (m : MReg) (e : FEW)
  | dqnt (d a : VecReg) (fmt : Nat) (m : MReg) (e : FEW) (rnd : Rnd)
  | rndi (d a : VecReg) (m : MReg) (e : FEW) (rnd : Rnd)
  | spec (op : SpecOp) (d a : VecReg) (m : MReg) (e : FEW)
  | red (op : RedOp) (d a : VecReg) (k : RedT) (m : MReg)
  | scan (op : ScanOp) (d a : VecReg) (k : RedT) (m : MReg)
  | dot4 (d a b : VecReg) (m : MReg)
  | perm (op : PermOp) (d a : VecReg) (m : MReg) (e : EW)
  | iota (d : VecReg) (m : MReg) (e : EW)
  | bcast (d : VecReg) (x : Word) (m : MReg) (e : EW)
  | extr (d : GReg) (a : VecReg) (s : Word) (e : EW)
  | ins (d : VecReg) (x s : Word) (e : EW)
  | mask (op : MaskOp) (d a b : MReg) (e : EW)
  | mnot (d a : MReg) (e : EW)
  | mcnt (d : GReg) (a : MReg) (e : EW)
  | mfirst (d : GReg) (a : MReg) (e : EW)
  | qand (d a b : QReg) (e : EW)
  | qclr (d : QReg) (a : MReg) (e : EW)
  | rng (d : VecReg) (key base : Word) (m : MReg) (e : EW)
  | load (d : VecReg) (ad : VAddr) (m : MReg) (e : EW) (clu : Bool)
  | store (d : VecReg) (ad : VAddr) (m : MReg) (e : EW) (clu : Bool)
  | seg (d : VecReg) (base : Word) (fmt : Nat) (clu : Bool)
  | amo (op : AmoOp) (d : VecReg) (base : Word) (b : VecReg) (m : MReg) (e : EW) (clu : Bool)
  | famo (d : VecReg) (base : Word) (b : VecReg) (m : MReg) (e : FEW) (clu : Bool)
  | sld (d : VecReg) (st : StReg) (m : MReg) (e : EW)
  | sst (d : VecReg) (st : StReg) (m : MReg) (e : EW)
  | hplane (vb : VecReg) (desc place : Word) (fmt n : Nat)
  | hread (t : Tile) (vb : VecReg) (ctl : Word) (fmt n op : Nat)
  | hwrite (t : Tile) (vb : VecReg) (ctl : Word) (n : Nat) (op : Nat)
  | push (tk : Ticket) (tkr : TkReg) (vb : VecReg) (base n : Nat)
  deriving DecidableEq, Repr

/-- A vector-queue entry (R133): the word, its sequence number, charged address, issue LCY and captured VL, and the core's WINSCALE
registers at its issue (R129). -/
structure VEntry where
  seq : Nat
  pc : Word
  turn : Nat
  vl : Nat
  op : VOp
  winscale : Vector (BitVec 32) 8 := Vector.replicate 8 0
  deriving DecidableEq, Repr

/-- A VLOOP block (R138, R139): how many words it takes, how many replays, the words collected so far, and where the
replays stand. -/
structure VLoop where
  seq : Nat
  pc : Word
  d : GReg
  len : Nat
  reps : Nat
  words : List VEntry
  rep : Nat
  pos : Nat
  /-- Address of the word after the block, and whether the block stands inside a handler. -/
  next : Word := 0
  inh : Bool := false
  /-- The sequence number of the VLOOP, whose result the block delivers. -/
  own : Nat := 0
  /-- A replay in which an SLD trimmed VL: the length for the rest of it, and the place of the SLD (R140). -/
  trim : Option (Nat × Nat)
  deriving DecidableEq, Repr

/-- An item of the vector queue. -/
inductive VItem
  | one (e : VEntry)
  | block (l : VLoop)
  deriving DecidableEq, Repr

/-- A vector word that has started in the lanes and not landed (R137, R355), with its landing LCY once known. -/
structure Started where
  seq : Nat
  pc : Word
  due : Option Nat
  /-- Return-queue entries it holds (R133). -/
  ret : Nat := 0
  /-- The result of the VLOOP that lands with it (R139). -/
  loop : Option (GReg × Nat × Nat) := none
  deriving DecidableEq, Repr

/-- A rollback-log record (R355): what a register held before the landing of a word's result, and the poison of its
words. -/
structure LogEntry where
  seq : Nat
  dst : Dst
  old : Wide
  poison : List Nat
  deriving DecidableEq, Repr

/-- Why a strand is being pre-empted (R365): by the scheduler, by YIELD, or by another strand's CTXSAVE with its block's
address. -/
inductive Leave
  | scheduler | yield
  | ctxsave (addr by_ : Nat)
  deriving DecidableEq, Repr

/-- Where a strand fetches from: translated (R326), its own scratchpad (R394), the instruction buffer (R288), physical
addresses (R386). -/
inductive Fetch
  | virt | spad | buffer | phys
  deriving DecidableEq, Repr

/-- The attributes of a leaf (R320). -/
structure Attr where
  r : Bool
  w : Bool
  x : Bool
  p : Bool
  ro : Bool
  nc : Bool
  deriving DecidableEq, Repr

/-- A TLB entry (R327): VD, virtual base in 4 KiB pages, pages, frame base, attributes, split. -/
structure TlbEntry where
  vd : Nat
  vpn : Nat
  pages : Nat
  pfn : Nat
  attr : Attr
  split : Bool
  deriving DecidableEq, Repr

/-- One strand slot of one core (R17, R65 to R68, R202, R266). -/
structure Strand where
  slot : SlotState := .idle
  pc : Word := 0
  /-- Address of the word that last issued, which a scored fetch fault is charged to (R288). -/
  prev : Word := 0
  g : Vector Word 32 := Vector.replicate 32 0
  p : BitVec 8 := 0
  tk : Vector Ticket 16 := Vector.replicate 16 0
  fpctl : BitVec 32 := 0
  priv : Nat := 0
  tvec : Word := 0
  epc : Word := 0
  ecause : BitVec 16 := 0
  eval : Word := 0
  estat : BitVec 8 := 0
  sscratch : Word := 0
  peererr : BitVec 16 := 0
  /-- Vector-strand state. -/
  v : Vector Wide 32 := Vector.replicate 32 0
  be : Vector (BitVec 512) 32 := Vector.replicate 32 0
  m : Vector (BitVec 8192) 8 := Vector.replicate 8 0
  q : Vector (BitVec 256) 4 := Vector.replicate 4 (BitVec.allOnes 256)
  st : Vector (BitVec 128) 8 := Vector.replicate 8 0
  vl : BitVec 16 := 0
  vstart : Nat := 0
  fe : BitVec 32 := 0
  /-- Poisoned words of the registers (R78): register and word index. -/
  poison : List (Dst × Nat) := []
  /-- Words with an error that the next read corrects (R77). -/
  soft : List (Dst × Nat) := []
  /-- The amount by which the next checked product comes out wrong (R107). -/
  mulErr : Option Nat := none
  /-- Results not landed (R72), oldest issue first. -/
  pend : List Pend := []
  /-- Words issued so far. -/
  seq : Nat := 0
  vq : List VItem := []
  collect : Option VLoop := none
  /-- A block interrupted by a trap charged to one of its replays; it goes on when that word issues again (R139). -/
  heldLoop : Option VLoop := none
  /-- Blocks whose last word has started and whose words have not all landed. -/
  ended : List VLoop := []
  started : List Started := []
  /-- S′ + occ′ of the last vector word (R76), in LCY. -/
  laneNext : Nat := 0
  log : List LogEntry := []
  wait : Option Wait := none
  fetch : Fetch := .virt
  launch : Option Nat := none
  unit : Nat := 0
  /-- Stream look-ahead (R67): translations held, by stream register. -/
  ahead : List (Nat × TlbEntry) := []
  /-- Halted by a posted supervisor-level trap and waiting for the Coachman (R353). -/
  stopped : Bool := false
  /-- A trap recorded in the saved block, taken at the first issue after resumption (R365). -/
  pendingTrap : Option (TrapInfo × Word) := none
  /-- A DRAY word's wait for a queue entry began before this ENCY; 0 once it has expired (R240). -/
  dqSince : Option Nat := none
  /-- It issues nothing more and is saved as soon as its results have landed (R365). -/
  leaving : Option Leave := none
  deriving DecidableEq, Repr

/-! ## Memory accesses in flight -/

/-- Where an access is performed. -/
inductive Place
  /-- The scratchpad of a physical core. -/
  | spad (core : Nat)
  /-- Near or far memory, host space or device registers. -/
  | phys
  deriving DecidableEq, Repr

/-- One element of an access: its index, address or window offset, the data or operand, the alias window that it is read through with
the WINSCALE in force (R91, R129; 0 for raw bytes), and whether it is served by the caches, or through a relay window (R232): window
number and whether by the owner. -/
structure Elem where
  idx : Nat
  addr : Nat
  data : Word
  exp : Word
  win : Nat := 0
  scale : Nat := 0
  cached : Bool := false
  relay : Option (Nat × Bool) := none
  deriving DecidableEq, Repr

/-- What an access does at its home. -/
inductive AccKind
  | load | store | amo (op : AmoOp) | famo (e : FEW) (rm : Nat)
  /-- A whole block written at once: a VSEG segment, a receive slot, a ticket image. -/
  | block (data : List Byte)
  /-- A ticket image loaded into tk (R259). -/
  | image (tk : TkReg)
  /-- FLUSH and INVAL (R208). -/
  | flush | inval | pref
  /-- The flits of a timed send, read into its operation (R260). -/
  | flit (op : Nat)
  /-- RPUB (R211), of a window. -/
  | rpub (w : Nat)
  /-- HPLANE (R173): plane words and codes by offset, and inexact bits by bit offset. -/
  | plane (words : List (Nat × Nat)) (codes : List (Nat × Nat)) (inx : List (Nat × Bool))
  deriving DecidableEq, Repr

/-- The paths of R195. -/
inductive Path
  | core | stream | harp | dray | fabric | relay
  deriving DecidableEq, Repr

/-- A memory access in flight: by which word of which strand, what it does, where, element by element in access cycles,
and what lands (R193 to R197, R204, R213). -/
structure Access where
  sid : Nat
  seq : Nat
  pc : Word
  turn : Nat
  kind : AccKind
  path : Path
  place : Place
  /-- The VD whose tag the access carries (R197). -/
  vd : Nat
  /-- Bytes per element. -/
  bytes : Nat
  /-- Sign extension of a loaded scalar. -/
  sext : Bool
  dst : Option Dst
  /-- Remaining access cycles. -/
  cycles : List (List Elem)
  /-- Access cycles performed, and the planned count (R185, R213). -/
  done : Nat
  plan : Nat
  /-- Loaded so far: value and written bits, and blocks made invalid (R87). -/
  acc : Wide
  msk : Wide
  bad : BitVec 256
  flags : Nat
  /-- Earliest landing LCY. -/
  earliest : Nat
  /-- Priority at the banks (R186). -/
  rank : Nat
  /-- SDGEN at the translation (R199), the leaf's RO and NC bits, and whether the line goes into the L1 (R189). -/
  gen : Nat := 0
  ro : Bool := false
  cached : Bool := false
  /-- The vector word the access belongs to, for its reach (R206). -/
  word : Option VEntry := none
  /-- The physical address of a scalar access, for its L1 line, and the address its faults name. -/
  home : Nat := 0
  ea : Word := 0
  /-- When a free access left its issuer, its bound from then (R193), and the cycles that it has waited at the banks (R213). -/
  left : Nat := 0
  bound : Nat := 0
  stall : Nat := 0
  vec : Bool
  scored : Bool
  deriving DecidableEq, Repr

/-! ## Cores -/

/-- An L1 line (R189): physical line, key identifier, RO, fill time, recency, data, and the virtual page it was filled by. -/
structure L1Line where
  line : Nat
  kid : Nat
  ro : Bool
  fill : Nat
  used : Nat
  data : BitVec 1024
  vpn : Nat
  deriving DecidableEq, Repr

/-- A walk-cache entry (R327): VD, level read, VA bits above the level's index, next table. -/
structure WalkEntry where
  vd : Nat
  level : Nat
  tag : Nat
  table : Nat
  deriving DecidableEq, Repr

/-- A receive slot (R242). -/
structure RecvSlot where
  data : BitVec 512 := 0
  len : Nat := 0
  full : Bool := false
  deriving DecidableEq, Repr

/-- An entry of an elastic receive queue (R244). -/
structure ElasticEntry where
  payload : List Byte
  pkg : Nat
  core : Nat
  slot : Nat
  deriving DecidableEq, Repr

/-- A Harp command's work (R165). -/
inductive HarpOp
  | zero | chk | anch (a : BitVec 12)
  | mma (set : Bool) (multi : Bool) (vb : VecReg) (desc : Word) (fmt n kt vl : Nat)
  deriving DecidableEq, Repr

/-- A Harp command in a core's queue or running on the crew's Harp (R165 to R170). -/
structure HarpCmd where
  id : Nat
  core : Nat
  sid : Nat
  seq : Nat
  pc : Word
  /-- Issue LCY. -/
  turn : Nat
  /-- On a scored core the LCY at which it starts, on a free core the ENCY before which it does not start (R166). -/
  start : Nat
  launch : Option Nat
  t : Tile
  op : HarpOp
  scored : Bool
  deriving DecidableEq, Repr

/-- One core (R15, R68, R386): its CSRs, queues and caches. The scratchpad bytes are in `State.spad`. -/
structure Core where
  winscale : Vector (BitVec 32) 8 := Vector.replicate 8 0
  /-- CORECFG: K code and scored. -/
  k : Nat := 0
  scored : Bool := false
  harpw : Nat := 1
  rfstat : Word := 0
  perfsel : Vector (BitVec 16) 8 := Vector.replicate 8 0
  perfcnt : Vector Word 8 := Vector.replicate 8 0
  /-- Core-scope CSR writes not landed (R69): number, value, LCY clock of the writer, time, slot. -/
  csrPend : List (Nat × Word × Nat × Nat) := []
  /-- The last VD placed (R188). -/
  lastVd : Option Nat := none
  /-- The next row to be cleared, while the scratchpad is (R188). -/
  clearing : Option Nat := none
  l1 : List L1Line := []
  tlb : List TlbEntry := []
  walk : List WalkEntry := []
  recv : Sparse RecvSlot := []
  elastic : Vector (List ElasticEntry) 4 := Vector.replicate 4 []
  /-- Cue store (R280), by scored launch: entry number to its 32 bits. -/
  cues : List (Nat × Sparse (BitVec 32)) := []
  /-- Instruction buffer (R288), by scored launch: virtual base and bytes of the code region. -/
  ibuf : List (Nat × Nat × List Byte) := []
  harpq : List HarpCmd := []
  /-- Map entry (R393). -/
  logical : Nat := 0
  enabled : Bool := false
  answered : Bool := false
  /-- Counter events of the current cycle (R129): ENCY, and amounts by CSR number. -/
  counted : Nat × List (Nat × Nat) := (0, [])
  /-- Banks used in the current cycle (R186): ENCY and mask. -/
  bankUse : Nat × BitVec 32 := (0, 0)
  deriving DecidableEq, Repr

/-! ## Harps -/

/-- A soundboard tile (R157): a row of accumulators is a word of 128 × 64 bits. The chaining bits CHN are held by the
operations still to touch a row (`State.chn`). -/
structure TileState where
  acc : Sparse (BitVec 8192) := []
  anch : BitVec 12 := 0
  val : BitVec 128 := BitVec.allOnes 128
  rho : Sparse (BitVec 8) := []
  inx : Bool := false
  own : BitVec 8 := 255
  deriving DecidableEq, Repr

/-- What the touches of an operation do to the rows of a tile (R170). -/
inductive Touch
  | clear | check
  /-- The products of row block `rb` and column slice `cs` of the operands taken at the start. -/
  | add (set : Bool) (snap : Nat) (rb cs : Nat)
  /-- HWRITE: from the first row on, the rows' elements and validity, replacing or adding. -/
  | write (row0 : Nat) (data : List (BitVec 8192)) (valid : List Bool) (add : Bool)
  /-- HREAD's reading of rows into a group: first row, rows, cycles for 8 rows, raw, format, width and length, and what
  has been read: elements, validity and flags row by row. -/
  | read (e : VEntry) (row0 rows pace : Nat) (raw : Bool) (fmt w vl rm : Nat) (got : List (List Nat × Bool × Nat))
  deriving DecidableEq, Repr

/-- An operation on one tile whose rows are still to touch (R170, R171): the next row and the row after the last, the LCY of
its start, and the lowest row whose check failed. -/
structure HarpRun where
  sid : Nat
  seq : Nat
  pc : Word
  core : Nat
  tile : Tile
  touch : Touch
  row : Nat
  stop : Nat
  cs : Option Nat
  failed : Option Nat
  due : Nat := 0
  deriving DecidableEq, Repr

/-- The operands of an HMMA or HMMS, taken at its start (R160 to R163): slabs of the strings and the ASYM table as numbers, the
registers of the B groups with their exponents and validity. -/
structure Snapshot where
  kt : Nat
  planes : Nat
  fmt : Nat
  bk : Nat
  grp : Nat
  len : Nat
  n : Nat
  slabs : List Nat
  table : Nat
  regs : List Nat
  codes : List Nat
  valid : List Nat
  deriving DecidableEq, Repr

/-- A reserved array interval (R158): offset in the launch, length, crew position. -/
structure WheelSlot where
  launch : Nat
  bar : Nat
  off : Nat
  len : Nat
  pos : Nat
  tiles : Nat
  deriving DecidableEq, Repr

/-- The Harp of one crew (R157, R158). -/
structure Harp where
  tiles : Sparse TileState := []
  wheel : List WheelSlot := []
  rrptr : Nat := 7
  /-- PAIRLOCK is held until this ENCY. -/
  pairEnd : Nat := 0
  /-- Array busy until this ENCY. -/
  busy : Nat := 0
  /-- The B registers of the phase in progress (R168, R169): strand, registers, and the ENCY at which the phase ends. -/
  group : Option (Nat × List Nat × Nat) := none
  /-- The command of the phase in progress: its address and sequence number. -/
  charged : Word × Nat := (0, 0)
  /-- Scratchpad bytes that the array reads in its phase (R168, R186): core, first byte, byte after the last, and end. -/
  strings : List (Nat × Nat × Nat × Nat) := []
  /-- Tiles the core at RRPTR may still take in its grant (R169). -/
  credit : Nat := 0
  /-- OWN values saved by ADMIT (R287): launch, tile, value. -/
  saved : List (Nat × Nat × BitVec 8) := []
  deriving DecidableEq, Repr

/-! ## Launches -/

/-- The states of a launch. -/
inductive LState
  | placed | admitted | running | preempting | preempted | ending | cancelling | done
  deriving DecidableEq, Repr

/-- A unit's state within its launch. -/
inductive UState
  | active | complete
  /-- Stopped in a slot, its operations not yet drained (R25). -/
  | stopping (sid : Nat)
  | cancelled
  deriving DecidableEq, Repr

/-- A timed region (R285, R287). -/
structure Region where
  vbase : Nat
  len : Nat
  code : Bool
  frames : List Nat
  deriving DecidableEq, Repr

/-- A slot reservation (R281). -/
structure SlotRes where
  path : Nat
  bar : Nat
  off : Nat
  count : Nat
  deriving DecidableEq, Repr

/-- A timed Dray entry (R283), with the units it has read and not yet delivered. -/
structure TimedDray where
  block : List Byte
  bar : Nat
  dray : Nat
  fn : Nat
  core : Nat
  held : List (Nat × List Byte) := []
  deriving DecidableEq, Repr

/-- A launch, free or scored (R21 to R25, R252, R279). -/
structure Launch where
  st : LState := .done
  scored : Bool := false
  lid : Nat := 0
  gid : Nat := 0xFFFF
  part : Option Nat := none
  vd : Nat := 0
  k : Nat := 0
  entry : Word := 0
  arg : Word := 0
  cn : Nat := 0
  flags : Nat := 0
  /-- LCY (R334): none before the first issue cycle. -/
  lcy : Option Nat := none
  frozen : Bool := false
  /-- Cores, as physical numbers, with their slot masks. -/
  cores : List (Nat × Nat) := []
  units : List (Nat × UState) := []
  /-- Scored launches. -/
  nb : Nat := 0
  npkg : Nat := 1
  ekey : Word := 0
  startbar : Nat := 0
  tab : Nat := 0
  regions : List Region := []
  slots : List SlotRes := []
  wheels : List (Nat × WheelSlot) := []
  drays : List TimedDray := []
  recvs : List (Nat × Nat × Nat × Nat) := []
  /-- Reads whose checks are pending (R227). -/
  checks : Nat := 0
  /-- Bar line (LCY) at which it ends, is cancelled or pre-empted. -/
  endAt : Option Nat := none
  cancelAt : Option Nat := none
  preAt : Option Nat := none
  /-- The first ending event (R359): LCY, logical core, slot, trap, EPC. -/
  first : Option (Nat × Nat × Nat × TrapInfo × Word) := none
  /-- ENCY of its detection. -/
  firstAt : Nat := 0
  /-- Pre-empted by thermal level 2 (R391). -/
  thermal : Bool := false
  /-- Queue priority of a free launch (R251), and the ENCY before which its strands do not issue (R188, R296). -/
  prio : Nat := 0
  start : Nat := 0
  /-- Every package of the launch has reported it admitted (R289), and the largest ENDLAT of those packages (R294). -/
  reported : Bool := false
  endlat : Nat := 0
  /-- Bar line at which it resumes (R364). -/
  resumeAt : Option Nat := none
  deriving DecidableEq, Repr

/-- A saved context (R366): the header fields of its block, kept under the address of the block or by the hardware. The strand
itself stands in the table of strands under a number of its own above the slots', which its outstanding operations carry too; its
slot state there is `preempted` (R20). -/
structure Saved where
  /-- The state that it left: runnable, parked or halted. -/
  state : SlotState := .idle
  launch : Nat := 0
  part : Option Nat := none
  vd : Nat := 0
  slot : Nat := 0
  k : Nat := 0
  unit : Nat := 0
  core : Nat := 0
  /-- It left its slot by YIELD (R127). -/
  yielded : Bool := false
  /-- Its number in the table of strands meanwhile: 16384 · n + 16 · core + slot. -/
  ghost : Nat := 0
  /-- Its Harp commands that had not started: they leave the queue with it and issue again when it resumes (R241). -/
  cmds : List HarpCmd := []
  /-- The block as CTXSAVE wrote it. -/
  image : List Byte := []
  deriving DecidableEq, Repr

/-! ## Virtual devices and partitions -/

/-- A completion counter (R339). -/
structure Counter where
  done : BitVec 32 := 0
  canc : BitVec 16 := 0
  level : Nat := 1
  deriving DecidableEq, Repr

/-- TDISP interface states (R236). -/
inductive Tdisp
  | configUnlocked | configLocked | run | error
  deriving DecidableEq, Repr

/-- A graph of a VD (R22): its phase, its launches taken so far (LID, completed, cancelled), the counters of the launches that
end it and its phase, and whether these ends have been counted. -/
structure Graph where
  gid : Nat
  phase : Nat
  launches : List (Nat × Bool × Bool) := []
  closer : Option Nat := none
  phaser : Option Nat := none
  counted : Bool := false
  phaseCounted : Bool := false
  deriving DecidableEq, Repr

/-- An interrupt-ring entry (R249). -/
structure IrqEntry where
  source : Nat
  tgen : Nat
  ency : Nat
  deriving DecidableEq, Repr

/-- One virtual device (R222, R236, R249, R323, R339, R375). -/
structure Vd where
  troot : Nat := 0
  sdgen : Nat := 0
  hostBase : Nat := 0
  hostLen : Nat := 0
  tgen : Nat := 0
  /-- VD control register (R375). -/
  reset : Bool := false
  retain : Bool := false
  state : Nat := 0
  part : Nat := 0
  cn : Vector Counter 16 := Vector.replicate 16 {}
  ring : List IrqEntry := []
  ovf : Bool := false
  tdisp : Tdisp := .configUnlocked
  phase : Nat := 0
  graphs : List Graph := []
  /-- A job-level cancellation whose drain has not ended (R340). -/
  jobCanc : Bool := false
  deriving DecidableEq, Repr

/-- The error counters of R344. -/
structure ErrCounters where
  residue : Nat := 0
  rfile : Nat := 0
  discard : Nat := 0
  integrity : Nat := 0
  faultovf : Nat := 0
  ckmixed : Nat := 0
  ckerr : Nat := 0
  deriving DecidableEq, Repr

/-- A launch-queue head (R251). -/
structure LaunchQueue where
  rbase : Nat := 0
  log2n : Nat := 0
  tailaddr : Nat := 0
  head : Nat := 0
  qerr : Bool := false
  tail : Nat := 0
  /-- ENCY at which the present head began to wait (R297). -/
  since : Option Nat := none
  /-- Descriptor numbers marked by a CANCEL (R253). -/
  marked : List Nat := []
  /-- ENCY at which its last placed launch starts: a later one starts after it (R35). -/
  lastStart : Nat := 0
  deriving DecidableEq, Repr

/-- A fault-queue entry on chip (R247, R248). -/
structure FaultEntry where
  ecause : BitVec 16
  launch : Nat
  strandid : Word
  epc : Word
  eval : Word
  ency : Nat
  tgen : Nat
  deriving DecidableEq, Repr

/-- One partition record (R370), with its queues. -/
structure Partition where
  crews : BitVec 120 := 0
  drays : BitVec 48 := 0
  spare : BitVec 960 := 0
  rsvmask : BitVec 16 := 0
  nearq : Nat := 0
  slottab : Nat := 0
  slotcnt : Nat := 0
  share : Nat := 0
  bufq : Nat := 0
  waymin : Vector Nat 4 := Vector.replicate 4 0
  ways : Vector (BitVec 16) 4 := Vector.replicate 4 0
  vdlist : Vector Nat 8 := Vector.replicate 8 255
  ctlpage : Nat := 0
  savearea : Nat := 0
  fqbase : Nat := 0
  ltol : BitVec 32 := 0
  pstate : Nat := 0
  pdsave : Bool := false
  queues : Vector LaunchQueue 4 := Vector.replicate 4 {}
  overflow : List FaultEntry := []
  errs : ErrCounters := {}
  /-- VDSCHED as the engine last acted on it (R373). -/
  vdsched : BitVec 8 := 0
  /-- Fault entries posted while no reserved strand was halted: each waits for one (R247). -/
  unrouted : Nat := 0
  /-- Idle since this ENCY (R382). -/
  idleSince : Option Nat := none
  deriving DecidableEq, Repr

/-! ## Strongbox, caches and memory metadata -/

/-- A key slot (R222). -/
structure KeySlot where
  key : BitVec 256 := 0
  txkey : BitVec 256 := 0
  valid : Bool := false
  txsalt : BitVec 32 := 0
  txctr : Nat := 0
  txwin : Word := 0
  inthold : Bool := false
  owner : Nat := 0
  peer : Nat := 0
  base : Nat := 0
  pages : Nat := 0
  mapbase : Nat := 0
  pubgen : Nat := 1
  deriving DecidableEq, Repr

/-- A 64-byte line at a memory port (R223, R237): ciphertext, check symbols, counter, MAC, and the poison mark with its
Dray command identifier. -/
structure Line where
  cipher : BitVec 512 := 0
  minor : BitVec 32 := 0
  mac : Word := 0
  ecc : BitVec 32 := 0
  /-- Symbols of the line and its metadata that have flipped since it was written, with the bits that differ (R223, R227). -/
  flips : Sparse Byte := []
  poison : Option Nat := none
  /-- Whether the line was ever written by the port. -/
  written : Bool := false
  deriving DecidableEq, Repr

/-- The metadata of a counter block or a tree node, as a line of its own (R225): its MAC under K_tree, symbols that have flipped, and whether
it was ever written. -/
structure Node where
  mac : Word := 0
  flips : Sparse Byte := []
  written : Bool := false
  deriving DecidableEq, Repr

/-- A counter block (R225): major counter, the 64 shadows, and the re-sealing in progress (R226). -/
structure CtrBlock where
  major : Nat := 0
  shadow : Sparse Nat := []
  reseal : Option Nat := none
  /-- Lines at or above the progress index already under the new major. -/
  newer : List Nat := []
  deriving DecidableEq, Repr

/-- A line of the memory-side cache (R190): line number, key identifier, partition, way, dirty, recency. -/
structure McLine where
  line : Nat
  kid : Nat
  part : Option Nat
  way : Nat
  dirty : Bool
  used : Nat
  deriving DecidableEq, Repr

/-- A frame-table entry (R324). -/
structure Frame where
  owner : Nat := 0
  assigned : Bool := false
  fresh : Bool := false
  migdst : Bool := false
  pins : Nat := 0
  deriving DecidableEq, Repr

/-- A migration slot (R331), with the Dray that copies and its command. -/
structure MigSlot where
  state : Nat := 0
  vd : Nat := 0
  vpn : Nat := 0
  old : Nat := 0
  new : Nat := 0
  ptr : Nat := 0
  dray : Nat := 0
  seq : Nat := 0
  deriving DecidableEq, Repr

/-- A remap-table entry (R346): unit, spare unit, LM. -/
structure Remap where
  unit : Nat
  spare : Nat
  lm : BitVec 1024
  deriving DecidableEq, Repr

/-- The checkpoint engine (R347, R348). -/
structure Ckpt where
  round : BitVec 32 := 0
  state : Nat := 0
  err : Nat := 0
  vd : Nat := 0
  frozen : Nat := 0
  copied : Nat := 0
  diverted : Nat := 0
  sparebase : Nat := 0
  sparelen : Nat := 0
  remap : List Remap := []
  /-- Of the armed or running round: area frame, to host space, counter, earliest start, frozen units. -/
  area : Nat := 0
  toHost : Bool := false
  cn : Nat := 0
  /-- The VD whose counter it is. -/
  cnVd : Nat := 0
  units : List Nat := []
  deriving DecidableEq, Repr

/-! ## Fabric, Drays and network -/

/-- What a packet asks of its destination (R260 to R268). -/
inductive Req
  | timed (slot : Nat) (spill : Nat) (len : Nat)
  | elastic (payload : List Byte) (seqno : Nat)
  | write (off : Nat) (data : List Byte)
  | read (off bytes : Nat)
  | amo (op : AmoOp) (off : Nat) (y e : Word)
  | push (reg words : Nat) (data : Wide) (valid : BitVec 256)
  deriving DecidableEq, Repr

/-- A packet in flight (R304): its ticket, hop index and class, its source, where it stands and what it carries. -/
structure Packet where
  ticket : Ticket := 0
  hop : Nat := 0
  timed : Bool := false
  x : Nat := 0
  y : Nat := 0
  core : Nat := 0
  slot : Nat := 0
  tkr : Nat := 0
  op : Nat := 0
  req : Req := .read 0 0
  launch : Option Nat := none
  vd : Nat := 0
  part : Option Nat := none
  /-- Mark of R257. -/
  ecn : Bool := false
  lastDir : Option Nat := none
  /-- Cycles of the route travelled (R307). -/
  lat : Nat := 0
  /-- Flits that have still to enter under the rate control (R257). -/
  need : Nat := 0
  /-- The path (R281) that it waits to enter, checked already at this switch; and the port it leaves by. -/
  out : Option Nat := none
  port : Option Nat := none
  /-- A later flit of a timed send follows the packet of its first. -/
  lead : Option Nat := none
  /-- It has passed the delivering site's checks (R312). -/
  passed : Bool := false
  /-- Held at its destination since this ENCY (R245, R267). -/
  held : Option Nat := none
  /-- The package that it comes from, when it is another; `core` is then the sender's logical number. -/
  src : Option Nat := none
  /-- The ensemble port that it came in by, and whether it still stands in the concourse there. -/
  inPort : Nat := 0
  transit : Bool := false
  /-- Its place among the flits of a timed send; the payload flits of one of another package. -/
  flit : Nat := 0
  flits : List (Nat × List Byte) := []
  deriving DecidableEq, Repr

/-- The FABRIC operation of a word, or of one chunk or register of it, that has not completed (R197, R256, R257). -/
structure FabOp where
  sid : Nat := 0
  seq : Nat := 0
  pc : Word := 0
  tkr : Nat := 0
  /-- Result register of RLD and RAMO, the bits of the value and whether it is sign-extended. -/
  dst : Option (GReg × Nat × Bool) := none
  vd : Nat := 0
  tgen : Nat := 0
  /-- Packets and copies without an outcome; 0 for a chunk that has not left yet. -/
  left : Nat := 0
  launch : Option Nat := none
  /-- Destination package when it is another, and destination cores on this one; none of them for memory. -/
  away : Option Nat := none
  cores : List Nat := []
  /-- Earliest landing LCY. -/
  earliest : Nat := 0
  /-- Payload flits of a timed send, by flit number (R260). -/
  flits : List (Nat × List Byte) := []
  /-- The packet of a chunk that waits for one of the strand's 32 places (R257). -/
  chunk : Option Packet := none
  /-- Path latency; and whether a timed send to another package is delivered there, if it has not been discarded. -/
  lat : Nat := 0
  late : Bool := false
  /-- The Dray and command that a request of a space-3 operand belongs to. -/
  dray : Option (Nat × Nat) := none
  deriving DecidableEq, Repr

/-- A saved image of a pre-empted scored launch (R362, R363): strands, scratchpads, cores, tiles and captured items. -/
structure Image where
  strands : List (Nat × Strand) := []
  cores : List (Nat × Core) := []
  spads : List (Nat × Byte) := []
  harps : List (Nat × Harp) := []
  accesses : List (Nat × Access) := []
  runs : List (Nat × HarpRun) := []
  ops : List (Nat × FabOp) := []
  packets : List (Nat × Packet) := []
  snaps : List (Nat × Snapshot) := []
  /-- Where in memory the images stand, and their bytes. -/
  addr : Nat := 0
  size : Nat := 0
  deriving DecidableEq, Repr

/-- The use of one path by open traffic (R371): the ENCY until which it is taken, and whose turn it is with the flits already
granted. -/
structure PathUse where
  until_ : Nat := 0
  turn : Nat := 0
  granted : Nat := 0
  deriving DecidableEq, Repr

/-- The rate control of one partition and destination (R257). -/
structure Rate where
  rate : Nat := 0
  marked : Bool := false
  window : Nat := 0
  used : Nat := 0
  deriving DecidableEq, Repr

/-- A port entry (R311), and the tenant generations of the VDs when it was last closed. -/
structure PortEntry where
  gen : Nat := 0
  ovd : Nat := 0
  isOpen : Bool := false
  closed : Option (List (Nat × Nat)) := none
  deriving DecidableEq, Repr

/-- A Dray command (R269 to R274): its block's fields, who issued it, and how far it has come. -/
structure DrayCmd where
  seq : Nat := 0
  fn : Nat := 0
  src : Nat := 0
  dst : Nat := 0
  len : Nat := 0
  spaces : Nat := 0
  esz : Nat := 0
  aux : Nat := 0
  count : Nat := 0
  start : Nat := 0
  dlat : Nat := 0
  ticket : Ticket := 0
  core : Nat := 0
  sid : Nat := 0
  wseq : Nat := 0
  vd : Nat := 0
  /-- Privilege level of the issuing strand (R326). -/
  priv : Nat := 0
  part : Option Nat := none
  /-- The places that its units read and write, for a FENCE (R197): cores whose scratchpads they are, and whether there is memory of the
  package or host space among them. -/
  cores : List Nat := []
  shared : Bool := true
  /-- A migration copy's slot (R332). -/
  mig : Option Nat := none
  running : Bool := false
  /-- The outcome that its completion will record: the error code, 0 for success. -/
  result : Option Nat := none
  /-- Units performed, and bytes or elements of them. -/
  pos : Nat := 0
  bytes : Nat := 0
  /-- What SEAL has written and UNSEAL has read or still has to write. -/
  buf : List Byte := []
  /-- The counter of an UNSEAL has been accepted (R402). -/
  accepted : Bool := false
  /-- Groups of scratchpad words of the present unit whose bank cycle has passed (R186). -/
  claimed : Nat := 0
  /-- What the present unit asks of another package: by address and direction, the operation, and its outcome once known: lost, or a
  value. -/
  asked : List (Nat × Nat × Option (Option Word)) := []
  deriving DecidableEq, Repr

/-- One Dray (R246, R274). -/
structure Dray where
  nextSeq : Nat := 0
  cmds : List DrayCmd := []
  /-- Statuses of ended commands, oldest first: sequence number, VD, status word. -/
  ended : List (Nat × Nat × Word) := []
  deriving DecidableEq, Repr

/-- A work request (R276). -/
structure WorkReq where
  op : Nat
  len : Nat
  laddr : Nat
  raddr : Nat
  rkey : Nat
  wrid : Word
  sid : Nat
  wseq : Nat
  vd : Nat := 0
  priv : Nat := 0
  /-- The core that posted it, ENCY of its posting, bytes held back by the rate, whether it is on the wire, and its status. -/
  core : Nat := 0
  posted : Nat := 0
  need : Nat := 0
  sent : Bool := false
  result : Option Nat := none
  deriving DecidableEq, Repr

/-- What the package puts on the Ethernet for a queue pair (R277): a SEND, a WRITE, a READ request, the reply to a READ, or the
notice of a violation (codes 0 to 4). -/
structure NetFrame where
  qp : Nat
  op : Nat
  len : Nat
  rkey : Nat := 0
  raddr : Nat := 0
  data : List Byte := []
  deriving DecidableEq, Repr

/-- A queue pair (R250, R276 to R278). -/
structure Qp where
  exists_ : Bool := false
  vd : Nat := 0
  strict : Bool := true
  errored : Bool := false
  peer : Nat := 0
  sendBase : Nat := 0
  sendLog : Nat := 0
  recvBase : Nat := 0
  recvLog : Nat := 0
  compBase : Nat := 0
  compLog : Nat := 0
  send : List WorkReq := []
  recv : List WorkReq := []
  comp : List (Nat × Word) := []
  /-- Completions that wait for room on their ring, and the entries ever placed on the send, receive and completion rings. -/
  late : List (Nat × Word) := []
  sends : Nat := 0
  recvs : Nat := 0
  comps : Nat := 0
  /-- READ replies that wait for the rate: the bytes still to be granted, and the frame (R277). -/
  replies : List (Nat × NetFrame) := []
  /-- RKEY bindings (REG): key and ticket. -/
  keys : List (Nat × Ticket) := []
  rate : Rate := {}
  deriving DecidableEq, Repr

/-! ## Package registers -/

/-- A pending REVOKE KEY (R318). -/
structure KeyAdvance where
  bar : Nat
  key : BitVec 128
  sid : Nat
  d : GReg
  seq : Nat
  turn : Nat
  digestOk : Option Bool
  deriving DecidableEq, Repr

/-- Route and time registers of the package (R293, R310, R334), its fuses, status and Coachman registers (R381, R385, R386,
R388, R390). The fuse values are those of each part: the model's part has no core fused off, so that FUSED is 0, ENCOUNT 960 and GRADE A
(DESIGN CHOICE, notes/assumptions/10.md). -/
structure Pkg where
  ency : Nat := 0
  drift : BitVec 32 := 0
  slip : Nat := 2
  /-- SLIP written by a TUNE issued less than 64 cycles before a gap, for the gap after it (R338). -/
  slipNext : Option Nat := none
  locked : Bool := false
  lockAsked : Bool := false
  /-- Gap lengths passed, in clock periods (R335). -/
  gapPeriods : Nat := 0
  endlat : Nat := 0
  restbar : Option Nat := none
  nadm : Nat := 0
  kg : Nat := 0
  keyCur : BitVec 128 := 0
  keyPrev : BitVec 128 := 0
  advance : Option KeyAdvance := none
  torus : Bool := false
  linklat : Sparse Nat := []
  /-- PEERPORT by port, with a listed entry once loaded (R305, R310). -/
  peerport : List (Nat × Nat) := []
  pkgnum : Nat := 0
  fused : BitVec 960 := 0
  encount : Nat := 960
  grade : Nat := 0
  stage : Nat := 7
  fail : Nat := 0
  degraded : Bool := false
  therm : Nat := 0
  /-- ENCY at which the conditions of levels 1 to 3 last held (R390). -/
  thermLast : Vector Nat 3 := Vector.replicate 3 0
  /-- VDs that existed when level 3 was entered, and have not been created again (R391). -/
  lostVds : List Nat := []
  /-- The boot launch has been acknowledged, and the reset of VD 0 that ends stage 2 is under way (R395). -/
  booted : Bool := false
  cnvd : Vector Nat 2 := Vector.replicate 2 0
  /-- The Coachman that is primary: 0 at (0,0), 1 at (31,31). -/
  primary : Nat := 0
  heartbeat : Nat := 0
  coachStopped : Bool := false
  updateBar : Option Nat := none
  ctxkey : BitVec 128 := 0
  ktree : BitVec 256 := 0
  /-- Stage 1 (R392, R393): cycle F, and the site discovery registers of the routers with SET, by site: X, Y, FLOODERR. -/
  floodStart : Option Nat := none
  sites : List (Nat × Nat × Nat × Bool) := []
  /-- The image checksum C, while the boot launch is waited for (R395). -/
  bootSum : Option (BitVec 32) := none
  errs : ErrCounters := {}
  /-- Virtual functions enabled (R387, R395). -/
  hostVfs : Bool := false
  deriving DecidableEq, Repr

/-! ## The machine -/

/-- The strand whose word is being executed: its number 16·core + slot, the address of its pair, whether the word is word 1
and whether the pair is joined, and the word's bits. -/
structure Cursor where
  sid : Nat := 15360
  pair : Word := 0
  second : Bool := false
  joined : Bool := false
  raw : BitVec 32 := 0
  deriving DecidableEq, Repr

/-- What the last word did: it took effect, it kept its issue cycle empty (R34), or it trapped. -/
inductive Last
  | done | held | trapped (t : TrapInfo)
  deriving DecidableEq, Repr

/-- One Hexvar package. -/
structure State where
  cur : Cursor
  last : Last
  /-- Strands whose issue cycle of the present cycle is still to come. -/
  toIssue : List Nat
  /-- What the machine owes, dated. -/
  agenda : List (Stamp × Event)
  /-- What the outside world does, each at an ENCY cycle. -/
  inbox : List (Nat × Event)
  /-- What the time fabric measures at the coming bar lines (R336). -/
  drifts : List (BitVec 32)
  /-- What leaves the package: packets on links (port and packet), Ethernet sends, interrupts, host replies. -/
  linkOut : List (Nat × Packet)
  /-- Copies that the Coachman is given of fault entries of a partition's reserved strands (R353). -/
  coachIn : List (Nat × FaultEntry)
  /-- What this package sends over the time fabric, under an ensemble launch key. -/
  timeOut : List (Word × TimeNote)
  /-- What other packages put on the links, in order of arrival: ensemble port and packet. -/
  linkIn : List (Nat × Packet)
  /-- Outcomes of packets of other packages that go back: the ENCY at which each reaches its port, the port, and the outcome. -/
  backOut : List (Nat × Nat × Event)
  irqOut : List (Nat × IrqEntry)
  netOut : List NetFrame
  hostOut : List (Nat × List Byte)
  /-- Lengths chosen for durations that the spec bounds and does not fix. -/
  picks : List Nat
  freeCtr : Nat
  nextId : Nat
  strands : Sparse Strand
  cores : Sparse Core
  harps : Sparse Harp
  /-- Scratchpad bytes by core · 2^19 + offset (R183). -/
  spad : Sparse Byte
  /-- Bytes of the physical space at their homes (R182). -/
  mem : Sparse Byte
  accesses : List (Nat × Access)
  runs : List (Nat × HarpRun)
  snaps : List (Nat × Snapshot)
  launches : Sparse Launch
  saved : List (Nat × Saved)
  hwSaved : List Saved
  images : List (Nat × Image)
  vds : Sparse Vd
  parts : Sparse Partition
  keys : Sparse KeySlot
  lines : Sparse Line
  blocks : Sparse CtrBlock
  /-- The counters in tree nodes (R225), by level and child. -/
  tree : Sparse Nat
  /-- Counter blocks (level 0) and tree nodes as lines, by level and number; and each memory port's cache of verified ones, latest first. -/
  nodes : Sparse Node
  ctrCache : Sparse (List Nat)
  mc : List McLine
  /-- Utility monitors (R191): hit counters by die, partition and depth, and shadow tags. -/
  monHits : Sparse Nat
  monTags : List (Nat × List Nat)
  frames : Sparse Frame
  mig : Sparse MigSlot
  dirty : List Nat
  ckpt : Ckpt
  packets : List (Nat × Packet)
  ops : List (Nat × FabOp)
  /-- Paths by their code (R281). -/
  paths : Sparse PathUse
  rates : List ((Nat × Nat) × Rate)
  ports : Sparse PortEntry
  drays : Sparse Dray
  qps : Sparse Qp
  pkg : Pkg
  deriving DecidableEq, Repr

/-- Why a run stops. -/
inductive Fault
  /-- Raised by `step` for an outside event that is not well formed: it names an agent that does not exist. Safe: the
  hardware has no such agent, so the model stops where the hardware is never asked. -/
  | noSuchAgent
  deriving DecidableEq, Repr

/-- Why an instruction is refused. -/
inductive Refusal
  /-- Raised by an arm of exec whose instruction has no meaning in the model; safe, since the run stops. -/
  | notModelled (mnemonic : String)
  deriving DecidableEq, Repr

/-- The machine right after device reset: every strand idle, every register and memory at its reset value, STAGE 7 (R388).
Values that the spec does not give are named in notes/assumptions/1.md to 11.md. -/
def State.reset : State where
  cur := {}
  last := .done
  toIssue := []
  agenda := []
  inbox := []
  drifts := []
  linkOut := []
  coachIn := []
  timeOut := []
  linkIn := []
  backOut := []
  irqOut := []
  netOut := []
  hostOut := []
  picks := []
  freeCtr := 0
  nextId := 0
  strands := []
  cores := []
  harps := []
  spad := []
  mem := []
  accesses := []
  runs := []
  snaps := []
  launches := []
  saved := []
  hwSaved := []
  images := []
  vds := []
  parts := []
  keys := []
  lines := []
  blocks := []
  tree := []
  nodes := []
  ctrCache := []
  mc := []
  monHits := []
  monTags := []
  frames := []
  mig := []
  dirty := []
  ckpt := {}
  packets := []
  ops := []
  paths := []
  rates := []
  ports := []
  drays := []
  qps := []
  pkg := {}

end Sys2Proof.Machine
end

