-- ==== Sys2Proof/Machine/Base.lean ====
section
/-! DEFINITION. Access to the parts of the state, the map of sites and cores (R9 to R13), time (R26, R334), dated events,
chosen durations, and the bytes of the physical space at their homes (R182, R346, R349, R372). -/
namespace Sys2Proof.Machine

/-! ## Parts of the state -/

def State.strand (s : State) (sid : Nat) : Strand := tget {} sid s.strands
def State.setStrand (s : State) (sid : Nat) (x : Strand) : State := { s with strands := tput {} sid x s.strands }
def State.modStrand (s : State) (sid : Nat) (f : Strand → Strand) : State := s.setStrand sid (f (s.strand sid))
def State.core (s : State) (c : Nat) : Core := tget {} c s.cores
def State.setCore (s : State) (c : Nat) (x : Core) : State := { s with cores := tput {} c x s.cores }
def State.modCore (s : State) (c : Nat) (f : Core → Core) : State := s.setCore c (f (s.core c))
def State.launch (s : State) (l : Nat) : Launch := tget {} l s.launches
def State.setLaunch (s : State) (l : Nat) (x : Launch) : State := { s with launches := tput {} l x s.launches }
def State.modLaunch (s : State) (l : Nat) (f : Launch → Launch) : State := s.setLaunch l (f (s.launch l))
def State.vd (s : State) (v : Nat) : Vd := tget {} v s.vds
def State.setVd (s : State) (v : Nat) (x : Vd) : State := { s with vds := tput {} v x s.vds }
def State.modVd (s : State) (v : Nat) (f : Vd → Vd) : State := s.setVd v (f (s.vd v))
def State.part (s : State) (p : Nat) : Partition := tget {} p s.parts
def State.setPart (s : State) (p : Nat) (x : Partition) : State := { s with parts := tput {} p x s.parts }
def State.modPart (s : State) (p : Nat) (f : Partition → Partition) : State := s.setPart p (f (s.part p))
def State.harp (s : State) (c : Nat) : Harp := tget {} c s.harps
def State.setHarp (s : State) (c : Nat) (x : Harp) : State := { s with harps := tput {} c x s.harps }
def State.modHarp (s : State) (c : Nat) (f : Harp → Harp) : State := s.setHarp c (f (s.harp c))
def State.key (s : State) (k : Nat) : KeySlot := tget {} k s.keys
def State.setKey (s : State) (k : Nat) (x : KeySlot) : State := { s with keys := tput {} k x s.keys }
def State.frame (s : State) (f : Nat) : Frame := tget {} f s.frames
def State.setFrame (s : State) (f : Nat) (x : Frame) : State := { s with frames := tput {} f x s.frames }
def State.dray (s : State) (d : Nat) : Dray := tget {} d s.drays
def State.setDray (s : State) (d : Nat) (x : Dray) : State := { s with drays := tput {} d x s.drays }
def State.qp (s : State) (q : Nat) : Qp := tget {} q s.qps
def State.setQp (s : State) (q : Nat) (x : Qp) : State := { s with qps := tput {} q x s.qps }
/-- The key of a port entry (R311). -/
def portKey (x y port : Nat) : Nat := (32 * y + x) * 64 + port
def State.portEntry (s : State) (p : Nat) : PortEntry := tget {} p s.ports
def State.setPort (s : State) (p : Nat) (x : PortEntry) : State := { s with ports := tput {} p x s.ports }
def State.migSlot (s : State) (i : Nat) : MigSlot := tget {} i s.mig
def State.setMig (s : State) (i : Nat) (x : MigSlot) : State := { s with mig := tput {} i x s.mig }
def State.modPkg (s : State) (f : Pkg → Pkg) : State := { s with pkg := f s.pkg }

/-- A number never given before. -/
def State.fresh (s : State) : Nat × State := (s.nextId, { s with nextId := s.nextId + 1 })

/-- A fresh free value (notes/assumptions/7.md). -/
def State.freeWord (s : State) : Word × State := (Config.freeValue s.freeCtr, { s with freeCtr := s.freeCtr + 1 })

/-! ## Sites and cores -/

/-- The number of a strand slot. -/
def sidOf (core slot : Nat) : Nat := 16 * core + slot
/-- The core and slot of a strand's number; a pre-empted strand's number keeps those that it left. -/
def coreOf (sid : Nat) : Nat := sid % 16384 / 16
def slotOf (sid : Nat) : Nat := sid % 16
/-- The numbers of strand slots; greater ones are pre-empted strands'. -/
def inSlot (sid : Nat) : Bool := decide (sid < 16384)
/-- A number for the pre-empted strand of a slot, from a fresh identifier. -/
def ghostOf (n sid : Nat) : Nat := 16384 * (n + 1) + sid % 16384

/-- R11: the site of a physical core; the Coachmen stand at (0,0) and (31,31) (R10). -/
def siteX (c : Nat) : Nat :=
  if c = 960 then 0 else if c = 961 then 31 else
  let k := 3 * (c % 240 / 48) + c % 48 / 8 / 2
  if c / 240 % 2 = 0 then k + 1 else 16 + k

def siteY (c : Nat) : Nat :=
  if c = 960 then 0 else if c = 961 then 31 else
  16 * (c / 480) + 8 * (c % 48 / 8 % 2) + c % 8

/-- R11: the physical core of a site of columns 1 to 30. -/
def coreAt (x y : Nat) : Nat :=
  let d := 2 * (y / 16) + x / 16
  let c := if d % 2 = 0 then x % 16 - 1 else x % 16
  240 * d + 48 * (c / 3) + 8 * (2 * (c % 3) + y % 16 / 8) + y % 8

def crewOf (c : Nat) : Nat := c / 8
def clusterOf (c : Nat) : Nat := c / 48

/-- R9: the die of a site. -/
def dieAt (x y : Nat) : Nat := 2 * (y / 16) + x / 16

/-- R13: cycles from coordinate a to b along one axis: 2 a hop, and 8 for the hop across the die edge. -/
def axisCost (a b : Nat) : Nat :=
  2 * (Nat.max a b - Nat.min a b) + if (a / 16 = b / 16) then 0 else 6

/-- R13: the path latency between two sites, 6 cycles of delivery included. -/
def siteLatency (x y x' y' : Nat) : Nat := axisCost x x' + axisCost y y' + 6

/-- R13, R75: the one-way path latency P between two cores; 0 to the core itself (R181). -/
def pathLatency (c c' : Nat) : Nat := if c = c' then 0 else siteLatency (siteX c) (siteY c) (siteX c') (siteY c')

def isCoach (c : Nat) : Bool := c == 960 || c == 961

/-- R12, R393: the physical core of a logical number, where one is enabled. -/
def State.physOf (s : State) (n : Nat) : Option Nat :=
  (s.cores.find? fun e => decide (e.1 < 960) && e.2.enabled && e.2.logical == n).map (·.1)

/-- R370: the partition that holds a core's crew. -/
def State.partOf (s : State) (c : Nat) : Option Nat :=
  if c < 960 then (s.parts.find? fun e => e.2.crews.getLsbD (crewOf c)).map (·.1) else none

/-! ## Time -/

/-- The key of the clock of a strand: its launch, or for a strand outside every launch its own number (log 2). -/
def State.clockOf (s : State) (sid : Nat) : Nat := (s.strand sid).launch.getD sid

/-- LCY of a launch (R334). -/
def State.lcyL (s : State) (l : Nat) : Nat := (s.launch l).lcy.getD 0

/-- LCY as a strand sees it. -/
def State.lcy (s : State) (sid : Nat) : Nat := s.lcyL (s.clockOf sid)

/-- The number of a real launch with a fresh identifier; numbers below 2^20 are clocks of strands outside launches. -/
def launchKey (i : Nat) : Nat := 1048576 + i

/-- Something owed at a cycle of a clock, after items of lower priority number in that cycle. -/
def State.owe (s : State) (clock : Option Nat) (time prio : Nat) (i : Event) : State :=
  { s with agenda := s.agenda ++ [(⟨clock, time, prio⟩, i)] }

/-- Owed n ENCY cycles from now. -/
def State.after (s : State) (n prio : Nat) (i : Event) : State := s.owe none (s.pkg.ency + n) prio i

/-- Owed in this cycle. -/
def State.now (s : State) (prio : Nat) (i : Event) : State := s.after 0 prio i

/-- The next bar line of ENCY at or after a cycle. -/
def barLineAt (n : Nat) : Nat := 4096 * ceilDiv n 4096

/-- A chosen duration between two bounds (log 6). -/
def State.duration (s : State) (lo hi : Nat) : Nat × State :=
  match s.picks with
  | [] => (lo, s)
  | p :: t => (Nat.max lo (Nat.min p hi), { s with picks := t })

/-- A chosen duration that may exceed its bound: none is no outcome within the bound (R38, R193). -/
def State.outcome (s : State) (lo hi : Nat) : Option Nat × State :=
  match s.picks with
  | [] => (some lo, s)
  | p :: t => (if p ≤ hi then some (Nat.max lo p) else none, { s with picks := t })

/-- Priorities within a cycle: what a bar line does, register landings, arrivals and wakes, lane starts, bank and memory
accesses, Harp rows, completions and cancellations (R25, R340). -/
def prioBar : Nat := 0
/-- Endings and pre-emptions, releases, and starts and resumptions at a bar line. -/
def prioEnd : Nat := 1
def prioRelease : Nat := 2
def prioStart : Nat := 3
def prioLand : Nat := 10
def prioLane : Nat := 20
/-- The order of R186 at a bank: string reads, timed Drays, cluster accesses by source idx, vector cycles by lane start,
scalar accesses, free deliveries. -/
def rankHarp : Nat := 1000
def rankDray : Nat := 1001
def rankCluster (idx : Nat) : Nat := 1002 + idx
def rankVector (start : Nat) : Nat := 1100 + start
def rankScalar : Nat := 1100 + 2 ^ 62
def rankFree : Nat := rankScalar + 1
def prioLate (n : Nat) : Nat := 2 ^ 80 + n
/-- HPLANE's writes (R173) and then the starts of Harp commands, before the landings of their cycle (R168); touches in issue
order (R170). -/
def prioPlane : Nat := 4
def prioHarp : Nat := 5
def prioTouch (id : Nat) : Nat := 2 ^ 63 + 1 + id
def prioArrive : Nat := prioLate 2
def prioWake : Nat := prioLate 3
def prioCset : Nat := prioLate 4
/-- CARR in increasing logical core and slot (R340). -/
def prioCarr (unit : Nat) : Nat := prioLate (5 + unit)
def prioCount : Nat := prioLate 100000
def prioCancel : Nat := prioLate 100001
/-- A wait on a counter is judged after the counter events of its cycle (R342). -/
def prioCwait : Nat := prioLate 100002

/-! ## Physical space (R182) -/

def isNear (a : Nat) : Bool := decide (a < 0xC000000000)
def isFar (a : Nat) : Bool := decide (0x10000000000 ≤ a) && decide (a < 0x30000000000)
def isHost (a : Nat) : Bool := decide (0x8000000000000 ≤ a) && decide (a < 0xC000000000000)
def isDevice (a : Nat) : Bool := decide (0xF000000000000 ≤ a) && decide (a < 0x10000000000000)
def isMapped (a : Nat) : Bool := isNear a || isFar a || isHost a || isDevice a

/-- What a byte of the physical space that nothing has written reads as (log 4, log 5). -/
def memDefault : Byte := 0

/-- The canonical form of a memory of bytes: addresses strictly rising, and no entry equal to what an unlisted one reads as. -/
def Memory.wf (m : Sparse Byte) : Bool := twf memDefault m

def readBytes (m : Sparse Byte) (a : Nat) : Nat → List Byte
  | 0 => []
  | n + 1 => tget memDefault a m :: readBytes m (a + 1) n

def writeBytes (m : Sparse Byte) (a : Nat) : List Byte → Sparse Byte
  | [] => m
  | b :: t => writeBytes (tput memDefault a b m) (a + 1) t

/-- R346, R349: where the byte at a stands: in the spare unit when its line is diverted. -/
def State.home (s : State) (a : Nat) : Nat :=
  match s.ckpt.remap.find? fun r => r.unit == a / 65536 with
  | some r => if r.lm.getLsbD (a % 65536 / 64) then 65536 * r.spare + a % 65536 else a
  | none => a

/-- The n bytes at a, each at its home. -/
def State.memRead (s : State) (a : Nat) : Nat → List Byte
  | 0 => []
  | n + 1 => tget memDefault (s.home a) s.mem :: s.memRead (a + 1) n

def State.memNat (s : State) (a n : Nat) : Nat := ofBytes (s.memRead a n)

/-- R349: the first spare unit that no entry uses. -/
def Ckpt.freeSpare (k : Ckpt) : Option Nat :=
  ((List.range k.sparelen).map fun i => k.sparebase / 16 + i).find? fun u => !(k.remap.any fun r => r.spare == u)

/-- R349: whether a unit is frozen and its copy is not yet complete. -/
def Ckpt.diverts (k : Ckpt) (unit : Nat) : Bool := k.state == 2 && (k.units.drop k.copied).contains unit

/-- R349: before a write to a line of a frozen unit, the unit takes an entry and the line is merged into the spare. -/
def State.divert (s : State) (a : Nat) : State :=
  let u := a / 65536
  let line := a % 65536 / 64
  if s.ckpt.diverts u then
    let s : State := match s.ckpt.remap.find? fun r => r.unit == u with
      | some _ => s
      | none => match s.ckpt.freeSpare with
        | some sp => { s with ckpt := { s.ckpt with remap := s.ckpt.remap ++ [⟨u, sp, 0⟩], diverted := s.ckpt.diverted + 1 } }
        | none => s
    match s.ckpt.remap.find? fun r => r.unit == u with
    | some r =>
      if r.lm.getLsbD line then s else
      { s with
        mem := writeBytes s.mem (65536 * r.spare + 64 * line) (readBytes s.mem (65536 * u + 64 * line) 64)
        ckpt := { s.ckpt with remap := s.ckpt.remap.map fun r =>
          if r.unit = u then { r with lm := r.lm ||| BitVec.ofNat 1024 (2 ^ line) } else r } }
    | none => s
  else s

def insertNat (n : Nat) : List Nat → List Nat
  | [] => [n]
  | k :: t => if n = k then k :: t else if n < k then n :: k :: t else k :: insertNat n t

/-- R372: a byte of a control page that reads as zero and ignores writes. -/
def ctlIgnored (off : Nat) : Bool :=
  !(decide (off < 0x11) || (decide (0x18 ≤ off) && decide (off < 0x1C)) || off == 0x20 ||
    (decide (0x28 ≤ off) && decide (off < 0x30)) || (decide (0x100 ≤ off) && decide (off < 0x11C)) ||
    (decide (0x120 ≤ off) && decide (off < 0x150)))

/-- R372: the partition whose control page holds an address. -/
def State.ctlAt (s : State) (a : Nat) : Option Nat :=
  (s.parts.find? fun e => e.2.ctlpage != 0 && e.2.ctlpage / 4096 == a / 4096).map (·.1)

/-- One byte at its home, with the DIRTY bit of its unit (R346). -/
def State.memPut (s : State) (a : Nat) (b : Byte) : State :=
  if (s.ctlAt a).isSome && ctlIgnored (a % 4096) then s else
  let s := if isNear a || isFar a then { s.divert a with dirty := insertNat (a / 65536) s.dirty } else s
  { s with mem := tput memDefault (s.home a) b s.mem }

def State.memPuts (s : State) (a : Nat) : List Byte → State
  | [] => s
  | b :: t => (s.memPut a b).memPuts (a + 1) t

/-- R382: the bounds of the exit latency of a power state, in cycles of an ensemble clock of 1.6 to 2.0 GHz. -/
def exitBounds (pstate : Nat) : Nat × Nat :=
  if pstate = 1 then (800, 1000) else if pstate = 2 then (32000, 40000) else if pstate = 3 then (3200000, 4000000) else (0, 0)

/-- R382: a wake event of a partition: it runs again after the exit latency. -/
def State.wakePart (s : State) (p : Nat) : State :=
  let g := (s.part p).pstate
  if g = 0 ∨ (s.agenda.any fun e => e.2 == .powerWake p) = true then s
  else
    let (w, s) := s.duration (exitBounds g).1 (exitBounds g).2
    s.after w prioBar (.powerWake p)

/-- VDSCHED has been written: the bits that changed act. -/
def State.vdschedHook (s : State) (p : Nat) : State :=
  let new := s.memNat ((s.part p).ctlpage + 0x10) 1
  let old := (s.part p).vdsched.toNat
  (List.range 8).foldl (fun s x =>
    if new.testBit x && !old.testBit x then s.now prioCancel (.vdScheduleIn p x)
    else if old.testBit x && !new.testBit x then s.now prioCancel (.vdScheduleOut p x) else s) s

/-- What a write of n bytes to control-page words sets going (R248, R361, R364, R373). -/
def State.ctlHook (s : State) (a n : Nat) : State :=
  match s.ctlAt a with
  | none => s
  | some p =>
    let off := a % 4096
    let hits (lo len : Nat) : Bool := decide (off < lo + len) && decide (lo < off + n)
    let s := if hits 0 8 then s.now prioCancel (.faultOverflowMove p) else s
    let s := if hits 0x10 1 then s.vdschedHook p else s
    let s := if hits 0x140 8 then s.now prioCancel (.preq p) else s
    if hits 0x148 8 then s.now prioCancel (.rreq p) else s

/-- R375: a write of the Coachman to a VD control register. -/
def State.vdctlHook (s : State) (a n : Nat) : State :=
  if isDevice a && decide (0xF000000100000 ≤ a) && decide (a < 0xF000000103000) && a % 64 == 0 then
    let v := (a - 0xF000000100000) / 64
    let w := s.memNat a (Nat.min n 8)
    let d := s.vd v
    if w.testBit 0 then
      if d.state = 2 then s
      else
        let s := s.setVd v { d with retain := w.testBit 1 }
        if w.testBit 1 then s.now prioCancel (.vdReset v) else s.now prioCancel (.vdTeardown v)
    else if d.state = 0 ∨ d.state = 3 then
      s.setVd v { d with retain := w.testBit 1, part := if n ≥ 2 then field w 8 8 else d.part }
    else s
  else s

/-- A performed write of bytes at a. -/
def State.memWrite (s : State) (a : Nat) (bs : List Byte) : State :=
  ((s.memPuts a bs).ctlHook a bs.length).vdctlHook a bs.length

/-- The 64-byte line at line number la. -/
def State.lineData (s : State) (la : Nat) : BitVec 512 := BitVec.ofNat 512 (s.memNat (64 * la) 64)

/-! ## Scratchpads (R181) -/

def spadKey (c off : Nat) : Nat := 524288 * c + off % 524288

def State.spadRead (s : State) (c off : Nat) : Nat → List Byte
  | 0 => []
  | n + 1 => tget 0 (spadKey c off) s.spad :: s.spadRead c (off + 1) n

def spadPuts (m : Sparse Byte) (c off : Nat) : List Byte → Sparse Byte
  | [] => m
  | b :: t => spadPuts (tput 0 (spadKey c off) b m) c (off + 1) t

/-- R394: a core in the boot wait whose go word a write has made non-zero leaves it in the cycle after. -/
def State.watchGo (s : State) (c off n : Nat) : State :=
  if decide (off < 0x7FFF8) && decide (0x7FFF0 < off + n) && decide ((s.strand (sidOf c 0)).slot = .parked .boot) &&
      decide (ofBytes (s.spadRead c 0x7FFF0 8) ≠ 0) then
    s.after 1 prioBar (.bootWaitRelease c) else s

/-- A write of scratchpad bytes. -/
def State.spadWrite (s : State) (c off : Nat) (bs : List Byte) : State :=
  State.watchGo { s with spad := spadPuts s.spad c off bs } c off bs.length

/-- R188: a scratchpad cleared. -/
def State.spadClear (s : State) (c : Nat) : State :=
  { s with spad := s.spad.filter fun e => decide (e.1 / 524288 ≠ c) }

/-- R188: clearing of a scratchpad begins in this cycle, from its first row on. -/
def State.startClear (s : State) (c : Nat) : State :=
  let s := s.modCore c fun k => { k with clearing := some 0 }
  if s.agenda.any fun e => e.2 == .scratchClear c then s else s.now prioBar (.scratchClear c)

/-- A row of every bank, 128 bytes, is cleared in each of 4096 cycles. -/
def execScratchClear (c : Nat) (s : State) : Host.Outcome State Fault Refusal :=
  .next (match (s.core c).clearing with
  | some r =>
    let s := { s with spad := s.spad.filter fun e => decide (e.1 / 128 ≠ 4096 * c + r) }
    if r + 1 < 4096 then (s.modCore c fun k => { k with clearing := some (r + 1) }).after 1 prioBar (.scratchClear c)
    else s.modCore c fun k => { k with clearing := none }
  | none => s)

/-- R188: the core's last placed VD becomes v; a change of VD clears scratchpad and elastic queues (R245). -/
def State.placeVd (s : State) (c v : Nat) : State :=
  if (s.core c).lastVd = some v then s
  else (s.startClear c).modCore c fun k => { k with lastVd := some v, elastic := Vector.replicate 4 [] }

/-! ## Error counters (R344) -/

/-- Counts an event for the package and for a partition. -/
def State.countErr (s : State) (p : Option Nat) (f : ErrCounters → ErrCounters) : State :=
  let s := s.modPkg fun k => { k with errs := f k.errs }
  match p with
  | some p => s.modPart p fun r => { r with errs := f r.errs }
  | none => s

def State.countDiscard (s : State) (p : Option Nat) : State := s.countErr p fun e => { e with discard := sat32 e.discard }
def State.countIntegrity (s : State) (p : Option Nat) : State := s.countErr p fun e => { e with integrity := sat32 e.integrity }

/-- R129: events of a counter CSR are remembered for their cycle, for a write that lands in it. -/
def Core.note (k : Core) (ency csr n : Nat) : Core :=
  { k with counted := (ency, (if k.counted.1 = ency then k.counted.2 else []) ++ [(csr, n)]) }

/-- R345: whether a selector counts an event of a code and slot. -/
def selects (sel code slot : Nat) : Bool := field sel 0 8 == code && (field sel 12 1 == 0 || field sel 8 4 == slot)

/-- R345: n events of a code for a core and slot. -/
def State.perf (s : State) (sid code n : Nat) : State :=
  s.modCore (coreOf sid) fun k =>
    let hit (i : Fin 8) : Bool := selects k.perfsel[i].toNat code (slotOf sid)
    let k' := (List.finRange 8).foldl (fun k' i => if hit i then k'.note s.pkg.ency (0x188 + i.val) n else k') k
    { k' with perfcnt := Vector.ofFn fun i => if hit i then k.perfcnt[i] + BitVec.ofNat 64 n else k.perfcnt[i] }

/-- R68, R77, R78: RFSTAT counts corrected errors below and uncorrectable ones above. -/
def State.countRf (s : State) (core : Nat) (fatal : Bool) (n : Nat) : State :=
  s.modCore core fun k =>
    let v := if fatal then BitVec.ofNat 64 (4294967296 * n) + k.rfstat
      else BitVec.ofNat 64 (k.rfstat.toNat / 4294967296 * 4294967296 + (k.rfstat.toNat + n) % 4294967296)
    { k.note s.pkg.ency 0x4A (if fatal then 4294967296 * n else n) with rfstat := v }

end Sys2Proof.Machine
end

