-- ==== Sys2Proof/Machine/Crypto.lean ====
section
/-! DEFINITION. The ciphers that the spec names by their standards: AES-256 (FIPS 197), the 64-bit polynomial MAC of R224
and AES-GCM (SP 800-38D). Integers are little-endian byte strings (R4). -/
namespace Sys2Proof.Machine

/-! ## AES-256 -/

/-- Multiplication by x in the field of AES. -/
def xtime (a : Nat) : Nat := if a ≥ 128 then (2 * a) ^^^ 0x11B else 2 * a

/-- Multiplication in the field of AES, on n bits of the second factor. -/
def gfMul : Nat → Nat → Nat → Nat
  | 0, _, _ => 0
  | n + 1, a, b => (if b % 2 = 1 then a else 0) ^^^ gfMul n (xtime a) (b / 2)

def gfSq (a : Nat) : Nat := gfMul 8 a a

/-- The inverse, as the 254th power. -/
def gfInv (a : Nat) : Nat :=
  let a2 := gfSq a
  let a3 := gfMul 8 a2 a
  let a12 := gfSq (gfSq a3)
  let a15 := gfMul 8 a12 a3
  let a240 := gfSq (gfSq (gfSq (gfSq a15)))
  gfMul 8 (gfMul 8 a240 a12) a2

def rotl8 (a n : Nat) : Nat := (a * 2 ^ n % 256) ||| (a / 2 ^ (8 - n))

def sbox (a : Nat) : Nat :=
  let i := gfInv a
  i ^^^ rotl8 i 1 ^^^ rotl8 i 2 ^^^ rotl8 i 3 ^^^ rotl8 i 4 ^^^ 0x63

def xorL : List Nat → List Nat → List Nat
  | a :: s, b :: t => (a ^^^ b) :: xorL s t
  | _, _ => []

def natBytes : Nat → Nat → List Nat
  | 0, _ => []
  | n + 1, x => x % 256 :: natBytes n (x / 256)

def ofNatBytes : List Nat → Nat
  | [] => 0
  | a :: t => a + 256 * ofNatBytes t

/-- The key schedule: each word from the last eight, newest first. -/
def aesExpand : Nat → Nat → List (List Nat) → List (List Nat)
  | 0, _, w => w
  | n + 1, i, w =>
    let prev := (w[0]?).getD []
    let back := (w[7]?).getD []
    let t :=
      if i % 8 = 0 then
        let r := (prev.drop 1 ++ prev.take 1).map sbox
        let rc := (List.range (i / 8 - 1)).foldl (fun a _ => xtime a) 1
        xorL r [rc, 0, 0, 0]
      else if i % 8 = 4 then prev.map sbox
      else prev
    aesExpand n (i + 1) (xorL back t :: w)

/-- The fifteen round keys of 16 bytes. -/
def aesKeys (key : Nat) : List (List Nat) :=
  let k := natBytes 32 key
  let w0 := ((List.range 8).map fun i => (k.drop (4 * i)).take 4).reverse
  let w := (aesExpand 52 8 w0).reverse
  (List.range 15).map fun i => ((w.drop (4 * i)).take 4).flatten

def shiftRows (b : List Nat) : List Nat := (List.range 16).map fun i => (b[(i + 4 * (i % 4)) % 16]?).getD 0

def mixColumn (c : List Nat) : List Nat :=
  (List.range 4).map fun i =>
    let x (j : Nat) : Nat := c.getD ((i + j) % 4) 0
    xtime (x 0) ^^^ (xtime (x 1) ^^^ x 1) ^^^ x 2 ^^^ x 3

def mixColumns (b : List Nat) : List Nat := (List.range 4).flatMap fun i => mixColumn ((b.drop (4 * i)).take 4)

def aesRounds : List (List Nat) → List Nat → List Nat
  | [], b => b
  | [k], b => xorL (shiftRows (b.map sbox)) k
  | k :: t, b => aesRounds t (xorL (mixColumns (shiftRows (b.map sbox))) k)

/-- AES-256 of a block of bytes under expanded keys. -/
def aesBytes (keys : List (List Nat)) (b : List Nat) : List Nat :=
  match keys with
  | k :: t => aesRounds t (xorL b k)
  | [] => b

/-- AES-256 of a 128-bit integer. -/
def aes256 (keys : List (List Nat)) (x : Nat) : Nat := ofNatBytes (aesBytes keys (natBytes 16 x))

/-! ## The MAC of R224 -/

/-- Multiplication by x modulo x^64 + x^4 + x^3 + x + 1. -/
def xtime64 (a : Nat) : Nat := if a ≥ 2 ^ 63 then (2 * a) % 2 ^ 64 ^^^ 0x1B else 2 * a

def gf64Mul : Nat → Nat → Nat → Nat
  | 0, _, _ => 0
  | n + 1, a, b => (if b % 2 = 1 then a else 0) ^^^ gf64Mul n (xtime64 a) (b / 2)

/-- The sum of m[i] · h^(n + 1 − i) for i from 1 to n. -/
def polyMac (h : Nat) (m : List Nat) : Nat := m.foldl (fun acc x => gf64Mul 64 (acc ^^^ x) h) 0

/-! ## AES-GCM -/

/-- Multiplication in the field of GCM, on 128-bit integers whose most significant bit is the first. -/
def ghashMul : Nat → Nat → Nat → Nat
  | 0, _, _ => 0
  | n + 1, x, v => (if x.testBit n then v else 0) ^^^ ghashMul n x (v / 2 ^^^ if v % 2 = 1 then 0xE1 * 2 ^ 120 else 0)

def beNat (b : List Nat) : Nat := b.foldl (fun a x => 256 * a + x) 0

def beBytes (n x : Nat) : List Nat := (natBytes n x).reverse

/-- GHASH over whole blocks of 16 bytes. -/
def ghash (h : Nat) : Nat → List Nat → Nat → Nat
  | 0, _, y => y
  | n + 1, b, y => ghash h n (b.drop 16) (ghashMul 128 (y ^^^ beNat (b.take 16)) h)

/-- The counter-mode stream over n blocks from counter i. -/
def gcmStream (keys : List (List Nat)) (iv : List Nat) : Nat → Nat → List Nat
  | 0, _ => []
  | n + 1, i => aesBytes keys (iv ++ beBytes 4 i) ++ gcmStream keys iv n (i + 1)

/-- The tag of a ciphertext of whole blocks under 8 bytes of additional data. -/
def gcmTag (keys : List (List Nat)) (iv aad c : List Nat) : List Nat :=
  let h := beNat (aesBytes keys (List.replicate 16 0))
  let n := c.length / 16
  let y := ghash h (n + 2) (aad ++ List.replicate (16 - aad.length) 0 ++ c ++ beBytes 8 (8 * aad.length) ++ beBytes 8 (8 * c.length)) 0
  xorL (beBytes 16 y) (aesBytes keys (iv ++ [0, 0, 0, 1]))

/-- Sealing of R237: the ciphertext and the tag. -/
def gcmSeal (key : Nat) (iv aad p : List Nat) : List Nat × List Nat :=
  let keys := aesKeys key
  let c := xorL p (gcmStream keys iv (p.length / 16) 2)
  (c, gcmTag keys iv aad c)

/-- Unsealing of R237: the plaintext where the tag holds. -/
def gcmOpen (key : Nat) (iv aad c tag : List Nat) : Option (List Nat) :=
  let keys := aesKeys key
  if gcmTag keys iv aad c = tag then some (xorL c (gcmStream keys iv (c.length / 16) 2)) else none

end Sys2Proof.Machine
end

