-- ==== Sys2Proof/Machine/Seal.lean ====
section
/-! DEFINITION. The sealing of lines (R224), counter blocks and the tree (R225, R226), fresh frames (R230), and the writes of
the package's own engines. -/
namespace Sys2Proof.Machine

/-! ## Sealing (R224) -/

/-- The key identifier under which a 64-byte line is sealed: that of the relay window whose line or line map it is, else the OWNER of its
frame (R222, R232, R324). -/
def State.kidOf (s : State) (la : Nat) : Nat :=
  match s.keys.find? fun e => decide (192 ≤ e.1) && e.2.valid &&
      ((decide (e.2.base ≤ la / 64) && decide (la / 64 < e.2.base + 2 * e.2.pages)) ||
        (decide (e.2.mapbase ≤ la) && decide (la < e.2.mapbase + 4 * e.2.pages))) with
  | some e => e.1
  | none => (s.frame (la / 64)).owner

def ctrBase (la n m : Nat) : Nat := la * 2 ^ 82 + n * 2 ^ 48 + m % 2 ^ 48

/-- The stream of a line. -/
def lineStream (keys : List (List Nat)) (la n m : Nat) : Nat :=
  ofNatBytes ((List.range 4).flatMap fun j => natBytes 16 (aes256 keys (ctrBase la n m + j * 2 ^ 80)))

/-- The MAC of a line's ciphertext. -/
def lineMac (key cipher la n m : Nat) : Word :=
  let keys := aesKeys key
  let kmac := aes256 keys 1 + 2 ^ 128 * aes256 keys 2
  let h0 := aes256 keys 3 % 2 ^ 64
  let h := if h0 = 0 then 1 else h0
  let pad := aes256 (aesKeys kmac) (ctrBase la n m) % 2 ^ 64
  let words := (List.range 8).map fun i => cipher / 2 ^ (64 * i) % 2 ^ 64
  BitVec.ofNat 64 (polyMac h (words ++ [la, n, m % 2 ^ 48]) ^^^ pad)

/-! ## Counter blocks and the tree (R225, R226) -/

def State.block (s : State) (blk : Nat) : CtrBlock := tget {} blk s.blocks
def State.setBlock (s : State) (blk : Nat) (b : CtrBlock) : State := { s with blocks := tput {} blk b s.blocks }
def State.line (s : State) (la : Nat) : Line := tget {} la s.lines
def State.setLine (s : State) (la : Nat) (l : Line) : State := { s with lines := tput {} la l s.lines }

/-- R226: the major counter a line stands under while its block is re-sealed. -/
def CtrBlock.majorOf (b : CtrBlock) (i : Nat) : Nat :=
  match b.reseal with
  | some idx => if i < idx ∨ b.newer.contains i then b.major else b.major - 1
  | none => b.major

/-- The key of a counter of the tree, or of a counter block or node: level 0 holds the blocks and their counters in their parents, 1 and 2
the nodes above and theirs. -/
def treeKey (level child : Nat) : Nat := 2 ^ 52 * level + child

/-- The 512 bits of a counter block, or of a tree node of level 1 or 2 (R225). -/
def State.nodeBits (s : State) (level n : Nat) : Nat :=
  if level = 0 then
    let b := s.block n
    b.major % 2 ^ 48 + (b.shadow.map fun e => e.2 % 128 * 2 ^ (64 + 7 * e.1)).sum
  else ((List.range 64).map fun i => tget 0 (treeKey (level - 1) (64 * n + i)) s.tree % 256 * 2 ^ (8 * i)).sum

/-- R225: the MAC of a counter block or node: R224 under K_tree, the counter in its parent for n, and M = 0. -/
def State.nodeMac (s : State) (level n : Nat) : Word :=
  lineMac s.pkg.ktree.toNat (s.nodeBits level n) (Config.treeLine level n) (tget 0 (treeKey level n) s.tree) 0

/-- A counter block or node is written as a line, with its MAC. -/
def State.writeNode (s : State) (level n : Nat) : State :=
  { s with nodes := tput {} (treeKey level n) { mac := s.nodeMac level n, flips := [], written := true } s.nodes }

/-- R226: one counter of the tree advances. When it wraps, every counter of its node is set to 0 and the node's children that were ever
written get their MACs again; the node's own counter advances with the write in any case. -/
def State.treeBump (s : State) (level child : Nat) : State :=
  let c := tget 0 (treeKey level child) s.tree
  if c = 255 then
    let kids := (List.range 64).map fun i => child / 64 * 64 + i
    let s := { s with tree := kids.foldl (fun t i => tput 0 (treeKey level i) 0 t) s.tree }
    kids.foldl (fun (s : State) i => if (tget {} (treeKey level i) s.nodes).written then s.writeNode level i else s) s
  else { s with tree := tput 0 (treeKey level child) (c + 1) s.tree }

/-- The memory port that serves a frame (R190, R225): 0 to 7 near, 8 to 11 far. -/
def portOf (f : Nat) : Nat :=
  if isNear (4096 * f) then field f 0 3 ^^^ field f 3 3 else 8 + (field f 0 4 ^^^ field f 4 4) / 4

/-- The counter block of a frame and the nodes above it up to the first level in the Strongbox. -/
def pathKeys (blk : Nat) : List (Nat × Nat) := [(0, blk), (1, blk / 64), (2, blk / 4096)]

/-- R225: the port's counter cache of 8192 lines holds a block's path, verified; the least recent leave (log 76). -/
def State.cachePath (s : State) (blk : Nat) : State :=
  let keys := (pathKeys blk).map fun k => treeKey k.1 k.2
  let old := tget [] (portOf blk) s.ctrCache
  { s with ctrCache := tput [] (portOf blk) ((keys ++ old.filter fun k => !keys.contains k).take 8192) s.ctrCache }

/-- R226: a write advances the counters above its block, up to the first level in the Strongbox; the block and the nodes are written. -/
def State.treeWrite (s : State) (blk : Nat) : State :=
  let s := (pathKeys blk).foldl (fun (s : State) k => s.treeBump k.1 k.2) s
  ((pathKeys blk).foldl (fun (s : State) k => s.writeNode k.1 k.2) s).cachePath blk

/-- R225, R227: whether the counter block of a frame or a node above it fails: more than two symbols, or its MAC, which the counter in its
parent enters. What the port's cache holds has been verified. -/
def State.pathBroken (s : State) (blk : Nat) : Bool :=
  (pathKeys blk).any fun k =>
    let n := tget {} (treeKey k.1 k.2) s.nodes
    n.written && !(tget [] (portOf blk) s.ctrCache).contains (treeKey k.1 k.2) &&
      (decide (n.flips.length > 2) || n.mac != s.nodeMac k.1 k.2)

/-- R226: a write that would advance M past 2^48 − 1, by a minor wrap or as the first of a fresh frame (R230). -/
def State.majorFull (s : State) (la : Nat) : Bool :=
  let b := s.block (la / 64)
  ((s.frame (la / 64)).fresh || tget 0 (la % 64) b.shadow == 127) && decide (b.major + 1 ≥ 2 ^ 48)

/-- A line sealed under a major counter. -/
def State.sealLine (s : State) (la minor major : Nat) (data : Nat) : Line :=
  let key := (s.key (s.kidOf la)).key.toNat
  let cipher := data ^^^ lineStream (aesKeys key) la minor major
  let mac := lineMac key cipher la minor major
  { cipher := BitVec.ofNat 512 cipher, minor := BitVec.ofNat 32 minor, mac := mac
    ecc := Config.lineEcc (minor % 2 ^ 32 + 2 ^ 32 * mac.toNat + 2 ^ 96 * cipher), flips := [], poison := none, written := true }

/-- R224: what a line decrypts to under the key it is read under, whatever it was sealed under, with uncorrected symbols as they stand. -/
def State.openLine (s : State) (la : Nat) : Nat :=
  let l := s.line la
  let bad := if l.flips.length > 2 then (l.flips.map fun e => if e.1 < 64 then e.2.toNat * 2 ^ (8 * e.1) else 0).sum else 0
  (l.cipher.toNat ^^^ bad) ^^^
    lineStream (aesKeys (s.key (s.kidOf la)).key.toNat) la l.minor.toNat ((s.block (la / 64)).majorOf (la % 64))

/-! ## Fresh frames (R230) -/

/-- R230: a frame becomes fresh: it reads as zero on every line. -/
def State.makeFresh (s : State) (f : Nat) : State :=
  ({ s with mem := s.mem.filter fun e => decide (e.1 / 4096 ≠ f) }).setFrame f { s.frame f with fresh := true }

/-- R230: the first write of a fresh frame: the major counter advances, every line is sealed as zero with MINOR 0 and the write merged, and
the fresh bit is cleared. -/
def State.initFrame (s : State) (f : Nat) (write : State → State) : State :=
  let s := s.setFrame f { s.frame f with fresh := false }
  let major := (s.block f).major + 1
  let s := write (s.setBlock f { major := major })
  let s := s.treeWrite f
  (List.range 64).foldl (fun (s : State) i => s.setLine (64 * f + i) (s.sealLine (64 * f + i) 0 major (s.lineData (64 * f + i)).toNat)) s

def State.freshen (s : State) (f : Nat) : State := if (s.frame f).fresh then s.initFrame f id else s

/-! ## Writes of engines -/

/-- An uncached write by an engine, which lies in one frame: performed, into a fresh frame as its first write, else its lines are
written at their ports in this cycle. -/
def State.engineWrite (s : State) (a : Nat) (bs : List Byte) : State :=
  if isNear a || isFar a then
    if (s.frame (a / 4096)).fresh then s.initFrame (a / 4096) fun s => s.memWrite a bs
    else
      let s := s.memWrite a bs
      (List.range ((a + bs.length - 1) / 64 - a / 64 + 1)).foldl (fun (s : State) i =>
        s.now prioArrive (.memoryLineWrite (a / 64 + i) (s.lineData (a / 64 + i)))) s
  else s.memWrite a bs

end Sys2Proof.Machine
end

