-- ==== Sys2Proof/Machine/Work.lean ====
section
/-! DEFINITION. The levels of work (R20 to R25), completion counters (R339, R340), fault posting (R247, R248), interrupt
rings (R249, R369), and the ending event of a scored launch (R294, R359). -/
namespace Sys2Proof.Machine

/-! ## Strands and slots -/

/-- R20: a strand of a core of a scored launch is scored (R24); a pre-empted free strand is none of them. -/
def State.scored (s : State) (sid : Nat) : Bool := inSlot sid && (s.core (coreOf sid)).scored

/-- The partition of a strand: its launch's, or its core's (R370). -/
def State.strandPart (s : State) (sid : Nat) : Option Nat :=
  match (s.strand sid).launch with
  | some l => (s.launch l).part
  | none => s.partOf (coreOf sid)

/-- The VD of a strand: its launch's, and for a strand of no launch the first VD of its partition's list (log 15). -/
def State.strandVd (s : State) (sid : Nat) : Nat :=
  match (s.strand sid).launch with
  | some l => (s.launch l).vd
  | none =>
    match s.partOf (coreOf sid) with
    | some p => (((s.part p).vdlist.toList.filter fun v => decide (v ≠ 255)).head?).getD 0
    | none => 0

/-- R252, R18: the strand slots of a mask. -/
def slotsOf (mask : Nat) : List Nat := onesBelow 16 mask

/-- The strands of a launch. -/
def Launch.sids (l : Launch) : List Nat := l.cores.flatMap fun e => (slotsOf e.2).map (sidOf e.1)

/-- R18: the vector-strand slots of a K code. -/
def vectorSlots (k : Nat) : List Nat := if k = 0 then [0] else if k = 1 then [0, 8] else [0, 4, 8, 12]

/-- R18: whether a strand is a vector strand of its core's configuration. -/
def State.isVector (s : State) (sid : Nat) : Bool := (vectorSlots (s.core (coreOf sid)).k).contains (slotOf sid)

/-- R18, R66: VLMAX for 32-bit elements. -/
def State.vlmax32 (s : State) (sid : Nat) : Nat := 2048 / 2 ^ (s.core (coreOf sid)).k

/-- R12, R370: the enabled, non-spare cores of a partition, in increasing logical number. -/
def State.coresOfPart (s : State) (p : Nat) : List Nat :=
  let r := s.part p
  (sortOn (fun e : Nat × Core => e.2.logical) (s.cores.filter fun e =>
    decide (e.1 < 960) && e.2.enabled && r.crews.getLsbD (crewOf e.1) && !r.spare.getLsbD e.1)).map (·.1)

/-- R370: the strands reserved for the supervisor, lowest first. -/
def State.reservedSids (s : State) (p : Nat) : List Nat :=
  match s.coresOfPart p with
  | c :: _ => (slotsOf (s.part p).rsvmask.toNat).map (sidOf c)
  | [] => []

def State.isReserved (s : State) (sid : Nat) : Bool :=
  match s.partOf (coreOf sid) with
  | some p => (s.reservedSids p).contains sid
  | none => false

/-- R373: whether a VD of a partition is scheduled in. -/
def State.scheduledIn (s : State) (v : Nat) : Bool :=
  let r := s.part (s.vd v).part
  r.ctlpage != 0 && (List.range 8).any fun x => (r.vdlist.toList[x]?).getD 255 == v && r.vdsched.getLsbD x

/-- R68: the STRANDID of a strand. -/
def State.strandId (s : State) (sid : Nat) : Word :=
  let sc := if s.scored sid then 1 else 0
  BitVec.ofNat 64 ((s.core (coreOf sid)).logical + 2 ^ 12 * slotOf sid + 2 ^ 16 * ((s.strandPart sid).getD 0) +
    2 ^ 24 * s.strandVd sid + 2 ^ 32 * sc)

/-- Clears what a slot held: it is idle (R20). -/
def State.idle (s : State) (sid : Nat) : State :=
  { s.setStrand sid {} with
    toIssue := s.toIssue.filter fun k => decide (k ≠ sid)
    agenda := s.agenda.filter fun e => e.2 != .freePreempt sid }

/-- R22, R126: whether everything a strand issued has completed or been discarded. -/
def State.drained (s : State) (sid : Nat) : Bool :=
  !(s.accesses.any fun a => a.2.sid == sid) && !(s.ops.any fun o => o.2.sid == sid && !o.2.late) &&
  !(s.runs.any fun r => r.2.sid == sid) && !(s.cores.any fun c => c.2.harpq.any fun q => q.sid == sid) &&
  !(s.drays.any fun d => d.2.cmds.any fun c => c.sid == sid && c.mig.isNone) &&
  !(s.qps.any fun q => q.2.send.any fun w => w.sid == sid) &&
  (s.strand sid).pend.isEmpty && (s.strand sid).vq.isEmpty && (s.strand sid).started.isEmpty

/-! ## Interrupts (R249, R369) -/

def State.postIrq (s : State) (v source : Nat) : State :=
  let d := s.vd v
  let s := s.wakePart d.part
  if d.ring.length ≥ 64 then (s.setVd v { d with ovf := true }).countDiscard (some d.part)
  else (s.setVd v { d with ring := d.ring ++ [⟨source, d.tgen, s.pkg.ency⟩] }).now prioCancel (.interruptDelivery v)

/-! ## Completion counters (R339, R340) -/

/-- The counter word of R339. -/
def Counter.word (c : Counter) : Word := BitVec.ofNat 64 (c.done.toNat + 2 ^ 32 * c.canc.toNat + 2 ^ 48 * c.level)

/-- R339: LEVEL codes 6 and 7 act as 5. -/
def Counter.at' (c : Counter) : Nat := Nat.min c.level 5

def Vd.counter (d : Vd) (n : Nat) : Counter := (d.cn.toList[n]?).getD {}

def State.setCounter (s : State) (v n : Nat) (c : Counter) : State :=
  if h : n < 16 then s.modVd v fun d => { d with cn := d.cn.set n c h } else s

/-- R342: a counter reached: ((DONE + CANC − T) mod 2^32) < 2^31. -/
def Counter.reached (c : Counter) (t : Nat) : Bool :=
  decide ((c.done.toNat + c.canc.toNat + (4294967296 - t % 4294967296)) % 4294967296 < 2147483648)

/-- Strands parked on a counter look at it again (R342). -/
def State.wakeCounter (s : State) (v n : Nat) : State :=
  s.strands.foldl (fun s e => match e.2.slot with
    | .parked (.cwait w m _ _ _ _) => if w = v ∧ m.val = n then s.now prioCwait (.cwaitWake e.1) else s
    | _ => s) s

/-- R340: an event of a level completes k instances. -/
def State.countDone (s : State) (v n level k : Nat) : State :=
  let c := (s.vd v).counter n
  if c.at' = level then (s.setCounter v n { c with done := c.done + BitVec.ofNat 32 k }).wakeCounter v n else s

def State.countCanc (s : State) (v n level k : Nat) : State :=
  let c := (s.vd v).counter n
  if c.at' = level then (s.setCounter v n { c with canc := c.canc + BitVec.ofNat 16 k }).wakeCounter v n else s

/-! ## Graphs, phases and jobs (R22, R340, R343) -/

def State.setGraph (s : State) (v : Nat) (g : Graph) : State :=
  s.modVd v fun d => { d with graphs := (d.graphs.filter fun h => decide (h.gid ≠ g.gid)) ++ [g] }

/-- The graph of a VD with an identifier; a graph that is new belongs to the current phase (R343). -/
def Vd.graph (d : Vd) (gid : Nat) : Graph := (d.graphs.find? fun g => g.gid == gid).getD { gid := gid, phase := d.phase }

/-- Records what became of a launch of a graph: completed or cancelled. -/
def Graph.record (g : Graph) (lid : Nat) (done canc : Bool) : Graph :=
  { g with launches := (g.launches.filter fun e => decide (e.1 ≠ lid)) ++ [(lid, done, canc)] }

/-- The descriptors of a queue between HEAD and the TAIL last read (R251, R340). -/
def LaunchQueue.pending (k : LaunchQueue) : List Nat :=
  if k.log2n = 0 then [] else
  (List.range (Nat.min ((k.tail + 4294967296 - k.head) % 4294967296) (2 ^ k.log2n))).map fun i => (k.head + i) % 4294967296

def LaunchQueue.addr (k : LaunchQueue) (i : Nat) : Nat := k.rbase + 64 * (i % 2 ^ k.log2n)

/-- A descriptor that a CANCEL may name. -/
structure Queued where
  part : Nat
  q : Nat
  idx : Nat
  gid : Nat
  lid : Nat

/-- The queued descriptors of a VD (R340). -/
def State.queued (s : State) (v : Nat) : List Queued :=
  s.parts.flatMap fun e => e.2.queues.toList.zipIdx.flatMap fun k => k.1.pending.filterMap fun i =>
    let a := k.1.addr i
    if (e.2.vdlist.toList[s.memNat (a + 35) 1]?).getD 255 = v then
      some ⟨e.1, k.2, i, s.memNat (a + 18) 2, s.memNat (a + 16) 2⟩ else none

/-- R340: launches of a VD queued, admitted or running. -/
def State.vdBusy (s : State) (v : Nat) : Bool :=
  (s.launches.any fun e => decide (launchKey 0 ≤ e.1) && e.2.vd == v && e.2.st != .done) || !(s.queued v).isEmpty

/-- R22: whether nothing of a graph is running or queued. -/
def State.graphOver (s : State) (v : Nat) (g : Graph) : Bool :=
  (g.launches.all fun e => e.2.1 || e.2.2) && !((s.queued v).any fun q => q.gid == g.gid)

/-- Whether all its launches completed. -/
def Graph.done (g : Graph) : Bool := g.launches.all fun e => e.2.1

/-- R22, R340: graphs, phases and jobs that have ended are counted, as completed or as cancelled. -/
def State.settleGraphs (s : State) (v : Nat) : State :=
  let s := (s.vd v).graphs.foldl (fun s g => match g.closer with
    | some n =>
      if g.counted || !s.graphOver v g then s
      else
        let s := s.setGraph v { g with counted := true }
        if g.done then s.countDone v n 2 1 else s.countCanc v n 2 1
    | none => s) s
  let s := (s.vd v).graphs.foldl (fun s g => match g.phaser with
    | some n =>
      let all := (s.vd v).graphs.filter fun h => h.phase == g.phase
      if g.phaseCounted || !(all.all (s.graphOver v)) then s
      else
        let s := s.setGraph v { g with phaseCounted := true }
        if all.all Graph.done then
          let s := s.countDone v n 3 1
          if s.vdBusy v then s else s.countDone v n 4 1
        else s.countCanc v n 3 1
    | none => s) s
  if (s.vd v).jobCanc && !s.vdBusy v then
    (List.range 16).foldl (fun s n => s.countCanc v n 4 1) (s.modVd v fun d => { d with jobCanc := false })
  else s

/-- The launch engines look at their queues again. -/
def State.kickEngine (s : State) (p : Nat) : State :=
  if s.agenda.any fun e => e.2 == .launchEngineTake p then s else s.now prioCancel (.launchEngineTake p)

/-- What has become of a free launch of a graph; its flags say what it ends (R252). -/
def State.recordLaunch (s : State) (v gid lid cn flags : Nat) (done : Bool) : State :=
  let g := ((s.vd v).graph gid).record lid done (!done)
  let g := if flags.testBit 1 then { g with closer := some cn } else g
  let g := if flags.testBit 2 then { g with phaser := some cn } else g
  let s := s.setGraph v g
  let s := if flags.testBit 2 && done then s.modVd v fun d => { d with phase := Nat.max d.phase (g.phase + 1) } else s
  s.settleGraphs v

/-- R22, R23: a launch has completed: it is counted, and its graph may be complete. -/
def State.countLaunch (s : State) (l : Nat) : State :=
  let L := s.launch l
  let s := s.countDone L.vd L.cn 1 1
  if L.scored ∨ L.part = none then s.settleGraphs L.vd else s.recordLaunch L.vd L.gid L.lid L.cn L.flags true

/-- Frees the slots of a launch and takes it from the table of launches (R20, R297). -/
def State.retire (s : State) (l : Nat) : State :=
  let ids := (s.strands.filter fun e => e.2.launch == some l).map (·.1)
  let s := ids.foldl State.idle s
  let s := { s with
    launches := tput {} l {} s.launches
    agenda := s.agenda.filter fun e => decide (e.1.clock ≠ some l)
    hwSaved := s.hwSaved.filter fun e => decide (e.launch ≠ l)
    images := s.images.filter fun e => decide (e.1 ≠ l) }
  ids.foldl (fun s sid => s.now prioCancel (.slotFreed (sid % 16384))) s

/-- Whether a unit has neither completed nor been stopped. -/
def UState.live : UState → Bool
  | .active | .stopping _ => true
  | _ => false

/-- A message to the other packages of a launch. -/
def State.tellTime (s : State) (l : Nat) (m : TimeNote) : State :=
  let L := s.launch l
  if L.npkg > 1 then { s with timeOut := s.timeOut ++ [(L.ekey, m)] } else s

/-- R242: the receive slots of a launch's cores are zeroed, with FULL clear. -/
def State.zeroSlots (s : State) (l : Nat) : State :=
  (s.launch l).cores.foldl (fun s c => s.modCore c.1 fun k => { k with recv := [] }) s

/-- R22: the launch whose units have all completed or been stopped completes, a scored one not before the checks of its reads
(R227); it keeps its reservations until its release at a bar line (R289). One of several packages completes with the notice of
its last unit on any of them (R340). -/
def State.launchComplete (s : State) (l : Nat) : State :=
  let L := s.launch l
  if (L.units.any fun u => u.2.live) || L.st == .done || L.st == .admitted || L.checks != 0 then s
  else if L.npkg > 1 then
    let (w, s) := s.duration s.pkg.endlat (s.pkg.endlat + 4096 * L.nb)
    (s.tellTime l .completed).after w prioCount (.completionNotice l)
  else
    let s := (s.setLaunch l { L with st := .done }).countLaunch l
    if L.scored then (s.zeroSlots l).owe none (barLineAt s.pkg.ency) prioRelease (.scoredLaunchRelease l)
    else s.retire l

def setUnit (u : Nat) (x : UState) (l : List (Nat × UState)) : List (Nat × UState) :=
  l.map fun e => if e.1 = u then (e.1, x) else e

/-- R25, R340: a strand is squashed, its operations left to drain or be discarded. -/
def State.squashStrand (s : State) (sid : Nat) : State :=
  let s := s.idle sid
  { s with
    accesses := s.accesses.map fun e => if e.2.sid = sid then (e.1, { e.2 with dst := none }) else e
    ops := s.ops.map fun o => if o.2.sid = sid then (o.1, { o.2 with dst := none }) else o
    runs := s.runs.filter fun r => !(r.2.sid == sid && r.2.cs.isNone)
    cores := s.cores.map fun c => (c.1, { c.2 with harpq := c.2.harpq.filter fun q => decide (q.sid ≠ sid) }) }

/-- The strand of a unit of a launch, in its slot or pre-empted. -/
def State.strandOf (s : State) (l u : Nat) : Option Nat :=
  (s.strands.find? fun e => e.2.launch == some l && e.2.unit == u && e.2.slot != .idle).map (·.1)

/-- A unit is stopped (R25): its strand, in its slot or pre-empted, is squashed and drains. -/
def State.stopUnit (s : State) (l u : Nat) : State :=
  let s := { s with hwSaved := s.hwSaved.filter fun e => !(e.launch == l && e.unit == u) }
  match s.strandOf l u with
  | some sid => (s.squashStrand sid).modLaunch l fun L => { L with units := setUnit u (.stopping sid) L.units }
  | none => s.modLaunch l fun L => { L with units := setUnit u (.stopping 15392) L.units }

/-- R25: a free launch is cancelled: every strand below it stops, and the drain begins. -/
def State.cancelFree (s : State) (l : Nat) : State :=
  let L := s.launch l
  if L.st = .running ∨ L.st = .preempted then
    let s := L.units.foldl (fun s u => if u.2 = .active then s.stopUnit l u.1 else s) s
    (s.modLaunch l fun L => { L with st := .cancelling }).now prioCancel (.cancelDrainEnd l)
  else s

/-- R340: a cancelled launch is recorded, at launch level and in its graph. -/
def State.recordCancelled (s : State) (l : Nat) : State :=
  let L := s.launch l
  let s := s.countCanc L.vd L.cn 1 1
  if L.scored ∨ L.part = none then s.settleGraphs L.vd else s.recordLaunch L.vd L.gid L.lid L.cn L.flags false

/-- R294, R360, R361: the bar line of a launch, at or after an LCY and the largest ENDLAT of its packages. -/
def State.endLine (s : State) (l f : Nat) : Nat := barLineAt (f + Nat.max s.pkg.endlat (s.launch l).endlat)

/-- Whether one event comes before another (R359). -/
def before (a b : Nat × Nat × Nat) : Bool :=
  decide (a.1 < b.1) || (a.1 == b.1 && (decide (a.2.1 < b.2.1) || (a.2.1 == b.2.1 && decide (a.2.2 < b.2.2))))

/-- R29, R294, R359: an ending event at LCY f on a core and slot: the first event is kept and the ending bar line set. -/
def State.endingAt (s : State) (l f core slot : Nat) (t : TrapInfo) (epc : Word) : State :=
  let L := s.launch l
  if L.st = .running ∨ L.st = .ending ∨ L.st = .preempting then
    let e := s.endLine l f
    let line := match L.endAt with | some x => Nat.min x e | none => e
    let first := match L.first with
      | some x => if before (f, core, slot) (x.1, x.2.1, x.2.2.1) then (f, core, slot, t, epc) else x
      | none => (f, core, slot, t, epc)
    let at_ := if L.first = some first then L.firstAt else s.pkg.ency
    let s := s.setLaunch l { L with st := .ending, endAt := some line, first := some first, firstAt := at_ }
    if L.endAt = some line then s else s.owe (some l) line prioEnd (.scoredLaunchEnd l)
  else s

/-- An ending event of this package; the notice of it goes to the launch's other packages (R294). -/
def State.endingEvent (s : State) (l f core slot : Nat) (t : TrapInfo) (epc : Word) : State :=
  (s.tellTime l (.ending f t.detail)).endingAt l f core slot t epc

/-! ## Fault queue (R247, R248) -/

/-- The 64 bytes of an entry (R247). -/
def FaultEntry.bytes (e : FaultEntry) : List Byte :=
  toBytes 2 e.ecause.toNat ++ toBytes 2 e.launch ++ toBytes 8 e.strandid.toNat ++ toBytes 8 e.epc.toNat ++
  toBytes 8 e.eval.toNat ++ toBytes 8 e.ency ++ toBytes 2 e.tgen ++ List.replicate 26 0

/-- R372: the fault ring's head and tail in the control page. -/
def State.fqHead (s : State) (p : Nat) : Nat := s.memNat (s.part p).ctlpage 8
def State.fqTail (s : State) (p : Nat) : Nat := s.memNat ((s.part p).ctlpage + 8) 8

/-- Whether the partition has a ring with a free entry (R247, R372). -/
def State.ringFree (s : State) (p : Nat) : Bool :=
  (s.part p).fqbase != 0 && (s.part p).ctlpage != 0 && decide ((s.fqTail p + 2 ^ 64 - s.fqHead p) % 2 ^ 64 < 256)

/-- Writes an entry whole, then moves the tail (R247). -/
def State.ringWrite (s : State) (p : Nat) (e : FaultEntry) : State :=
  let t := s.fqTail p
  let s := s.engineWrite ((s.part p).fqbase + 64 * (t % 256)) e.bytes
  s.engineWrite ((s.part p).ctlpage + 8) (toBytes 8 (t + 1))

/-- R126, R247: an entry starts the lowest halted reserved strand at TVEC, at supervisor level, or waits for one. A strand
stopped by its own posted trap waits for the Coachman (R353). -/
def State.startReserved (s : State) (p : Nat) : State :=
  match (s.reservedSids p).find? fun sid => decide ((s.strand sid).slot = .halted) && !(s.strand sid).stopped with
  | some sid =>
    let tv : Word := BitVec.ofNat 64 (s.memNat ((s.part p).ctlpage + 0x28) 8 / 8 * 8)
    let s := s.modStrand sid fun x =>
      let tvec := if x.tvec = 0 ∧ (s.part p).ctlpage ≠ 0 then tv else x.tvec
      { x with slot := .runnable, pc := tvec, tvec := tvec, priv := 1, wait := none }
    s.setLaunch sid { s.launch sid with st := .running }
  | none => s.modPart p fun r => { r with unrouted := r.unrouted + 1 }

/-- Fault entries that the supervisor has not taken yet: in the ring, where there is one, and on chip (R247, R248). -/
def State.faultsLeft (s : State) (p : Nat) : Nat :=
  (s.part p).overflow.length + if (s.part p).ctlpage = 0 then 0 else (s.fqTail p + 2 ^ 64 - s.fqHead p) % 2 ^ 64

/-- R126, R247: a reserved strand has become free for an entry that waits for one; an entry taken meanwhile waits no longer. -/
def State.routeWaiting (s : State) (p : Nat) : State :=
  let n := Nat.min (s.part p).unrouted (s.faultsLeft p)
  let s := s.modPart p fun r => { r with unrouted := n - 1 }
  if n = 0 then s else s.startReserved p

/-- R247, R248: posts an entry for a VD of a partition; answers whether anything was posted. -/
def State.postFault (s : State) (p : Nat) (vd : Option Nat) (e : FaultEntry) : State × Bool :=
  let done (s : State) : State × Bool :=
    let s := match vd with | some v => s.postIrq v 1 | none => s
    (s.startReserved p, true)
  let r := s.part p
  if r.overflow.isEmpty && s.ringFree p then done (s.ringWrite p e)
  else if r.overflow.length < 4 then
    done ((s.setPart p { r with overflow := r.overflow ++ [e] }).now prioCancel (.faultOverflowMove p))
  else (s.countErr (some p) fun k => { k with faultovf := sat32 k.faultovf }, false)

/-- R350: ECAUSE of a cause. -/
def TrapInfo.ecause (t : TrapInfo) : BitVec 16 := BitVec.ofNat 16 (t.cause + 256 * t.detail + 8192 * t.level)

end Sys2Proof.Machine
end

