-- ==== Sys2Proof/Machine/Ops.lean ====
section
/-! DEFINITION. Registers and their land turns (R65 to R76), the rollback log (R355), taking a trap (R353, R354, R356) and
returning from one (R358), and the one frame in which every instruction word runs: its slot, privilege and guard checks,
its holds (R27, R34, R355) and the poison check (R78). -/
namespace Sys2Proof.Machine

/-! ## The issuing strand -/

/-- The strand whose word is being executed. -/
def State.me (s : State) : Strand := s.strand s.cur.sid

def State.modMe (s : State) (f : Strand → Strand) : State := s.modStrand s.cur.sid f

/-- R354, R356: the address a word is charged at: a joined pair's address, or the word's own. -/
def Cursor.addr (c : Cursor) : Word := if c.second && !c.joined then c.pair + 4 else c.pair

/-- The address of the next word to issue after this one (R44). -/
def Cursor.next (c : Cursor) : Word := if !c.second && !c.joined then c.pair + 4 else c.pair + 8

/-- LCY of the issue (R342). -/
def State.turn (s : State) : Nat := s.lcy s.cur.sid

/-- The logical issue number of the word. -/
def State.seqNo (s : State) : Nat := s.me.seq

/-! ## Reading registers (R65, R66, R72) -/

def Strand.rg (x : Strand) (r : GReg) : Word := if r = 0 then 0 else x.g[r]
def Strand.rp (x : Strand) (r : PReg) : Bool := r = 0 || x.p.getLsbD r
def Strand.rtk (x : Strand) (r : TkReg) : Ticket := x.tk[r]
def Strand.rv (x : Strand) (r : VecReg) : Wide := x.v[r]
def Strand.rbe (x : Strand) (r : VecReg) : BitVec 512 := x.be[r]
def Strand.rm (x : Strand) (r : MReg) : BitVec 8192 := if r = 0 then BitVec.allOnes 8192 else x.m[r]
def Strand.rq (x : Strand) (r : QReg) : BitVec 256 := x.q[r]
def Strand.rst (x : Strand) (r : StReg) : BitVec 128 := x.st[r]
/-- R66: VL[13:0]. -/
def Strand.vlen (x : Strand) : Nat := bits x.vl 0 14

def State.rg (s : State) (r : GReg) : Word := s.me.rg r

/-- R47: whether a guard holds. -/
def Strand.guard (x : Strand) (gd : Guard) : Bool := x.rp gd.pr != gd.pn

/-! ## Control and status registers (R68) -/

/-- R68: the lowest level that may read and write a CSR; none where it has no Set by level; none as a whole where the
number is unassigned. -/
def csrLevels (n : Nat) : Option (Nat × Option Nat) :=
  if n = 0 then some (0, some 0)
  else if 1 ≤ n ∧ n ≤ 4 then some (0, none)
  else if 0x10 ≤ n ∧ n ≤ 0x13 then some (0, none)
  else if n = 0x14 then some (1, none)
  else if 0x20 ≤ n ∧ n ≤ 0x25 then some (1, some 1)
  else if 0x40 ≤ n ∧ n ≤ 0x47 then some (0, some 1)
  else if n = 0x48 then some (0, none)
  else if n = 0x49 ∨ n = 0x4A then some (1, some 1)
  else if 0x180 ≤ n ∧ n ≤ 0x18F then some (0, some 1)
  else none

/-- R68: core-scope CSRs. -/
def csrIsCore (n : Nat) : Bool := decide (0x40 ≤ n)

/-- R68, R129: the value of a CSR as it stands. -/
def State.csr (s : State) (sid n : Nat) : Word :=
  let x := s.strand sid
  let k := s.core (coreOf sid)
  let lcy := s.lcy sid
  let vec := s.isVector sid
  if n = 0 then x.fpctl.setWidth 64
  else if n = 1 then s.strandId sid
  else if n = 2 then BitVec.ofNat 64 x.priv
  else if n = 3 then (if vec then x.vl.setWidth 64 else 0)
  else if n = 4 then (if vec then BitVec.ofNat 64 x.vstart else 0)
  else if n = 0x10 then BitVec.ofNat 64 lcy
  else if n = 0x11 then BitVec.ofNat 64 (lcy / 4096 % 2 ^ 52)
  else if n = 0x12 then BitVec.ofNat 64 (lcy % 16)
  else if n = 0x13 then BitVec.ofNat 64 s.pkg.ency
  else if n = 0x14 then s.pkg.drift.setWidth 64
  else if n = 0x20 then x.tvec
  else if n = 0x21 then x.epc
  else if n = 0x22 then x.ecause.setWidth 64
  else if n = 0x23 then x.eval
  else if n = 0x24 then x.estat.setWidth 64
  else if n = 0x25 then x.sscratch
  else if n < 0x48 then ((k.winscale.toList[n - 0x40]?).getD 0).setWidth 64
  else if n = 0x48 then BitVec.ofNat 64 (k.k + if k.scored then 4 else 0)
  else if n = 0x49 then BitVec.ofNat 64 k.harpw
  else if n = 0x4A then k.rfstat
  else if n < 0x188 then ((k.perfsel.toList[n - 0x180]?).getD 0).setWidth 64
  else (k.perfcnt.toList[n - 0x188]?).getD 0

/-- R68 to R71: a value written to a strand-scope CSR, reserved fields ignored. -/
def Strand.setCsr (x : Strand) (n : Nat) (v : Word) : Strand :=
  if n = 0 then { x with fpctl := v.setWidth 32 &&& 0x1F3#32 }
  else if n = 0x20 then { x with tvec := v &&& ~~~7#64 }
  else if n = 0x21 then { x with epc := v }
  else if n = 0x22 then { x with ecause := v.setWidth 16 }
  else if n = 0x23 then { x with eval := v }
  else if n = 0x24 then { x with estat := (v.setWidth 8 &&& 7#8) ||| (x.estat &&& 8#8) }
  else if n = 0x25 then { x with sscratch := v }
  else x

/-- R68, R71: a value written to a core-scope CSR. -/
def Core.setCsr (k : Core) (n : Nat) (v : Word) : Core :=
  if 0x40 ≤ n ∧ n < 0x48 then
    { k with winscale := Vector.ofFn fun i => if i.val = n - 0x40 then v.setWidth 32 &&& 0x8037FFC0#32 else k.winscale[i] }
  else if n = 0x49 then { k with harpw := if bits v 0 4 = 0 then 1 else bits v 0 4 }
  else if n = 0x4A then { k with rfstat := v }
  else if 0x180 ≤ n ∧ n < 0x188 then
    { k with perfsel := Vector.ofFn fun i => if i.val = n - 0x180 then v.setWidth 16 &&& 0x1FFF#16 else k.perfsel[i] }
  else if 0x188 ≤ n ∧ n < 0x190 then
    { k with perfcnt := Vector.ofFn fun i => if i.val = n - 0x188 then v else k.perfcnt[i] }
  else k

/-! ## Landing (R72 to R74) -/

/-- The value of a register as a result would replace it, for the rollback log (R355). -/
def Strand.get (x : Strand) : Dst → Wide
  | .g r => (x.rg r).setWidth 65536
  | .p r => if x.rp r then 1 else 0
  | .tk r => x.tk[r].setWidth 65536
  | .v r => x.v[r]
  | .be r => x.be[r].setWidth 65536
  | .m r => (x.rm r).setWidth 65536
  | .q r => x.q[r].setWidth 65536
  | .st r => x.st[r].setWidth 65536
  | .vl => x.vl.setWidth 65536
  | .csr n =>
    if n = 0 then x.fpctl.setWidth 65536 else if n = 2 then BitVec.ofNat _ x.priv else if n = 4 then BitVec.ofNat _ x.vstart else if n = 0x20 then x.tvec.setWidth 65536
    else if n = 0x21 then x.epc.setWidth 65536 else if n = 0x22 then x.ecause.setWidth 65536
    else if n = 0x23 then x.eval.setWidth 65536 else if n = 0x24 then x.estat.setWidth 65536 else x.sscratch.setWidth 65536
  | .fp => x.fpctl.setWidth 65536

/-- A whole value put into a register; g0, p0 and m0 discard it (R65, R66). -/
def Strand.put (x : Strand) (d : Dst) (v : Wide) : Strand :=
  match d with
  | .g r => if r = 0 then x else { x with g := x.g.set r (v.setWidth 64) }
  | .p r =>
    if r = 0 then x
    else { x with p := (x.p &&& ~~~(1#8 <<< r.val)) ||| (if v.getLsbD 0 then 1#8 <<< r.val else 0) }
  | .tk r => { x with tk := x.tk.set r (v.setWidth 512) }
  | .v r => { x with v := x.v.set r v }
  | .be r => { x with be := x.be.set r (v.setWidth 512) }
  | .m r => if r = 0 then x else { x with m := x.m.set r (v.setWidth 8192) }
  | .q r => { x with q := x.q.set r (v.setWidth 256) }
  | .st r => { x with st := x.st.set r (v.setWidth 128) }
  | .vl => { x with vl := v.setWidth 16 }
  | .csr n =>
    if n = 4 then { x with vstart := (v.setWidth 14).toNat }
    else if n = 2 then { x with priv := (v.setWidth 2).toNat }
    else if n = 0x24 then { x with estat := v.setWidth 8 }
    else x.setCsr n (v.setWidth 64)
  | .fp => { x with fpctl := v.setWidth 32 }

/-- Bits of a word of a register by which poison is kept (R77): 32 for v and be, else 64. -/
def Dst.wordBits : Dst → Nat
  | .v _ => 32
  | .be _ => 32
  | _ => 64

/-- The checked words of a register (R77); a core-scope CSR has none here (notes/assumptions/63.md). -/
def Dst.words : Dst → Nat
  | .g _ => 1
  | .p _ => 1
  | .tk _ => 8
  | .v _ => 2048
  | .be _ => 16
  | .m _ => 128
  | .q _ => 4
  | .st _ => 2
  | .vl => 1
  | .csr n => if n = 0 ∨ n = 4 ∨ (0x20 ≤ n ∧ n < 0x26) then 1 else 0
  | .fp => 0

/-- R79: whether a mask covers the whole checked word i. -/
def covers (d : Dst) (mask : Wide) (i : Nat) : Bool :=
  let n := d.wordBits
  mask.extractLsb' (n * i) n == BitVec.allOnes n

/-- R72: a result replaces the masked bits of a register; flags are ORed into FPCTL (R70); a write that covers a checked
word clears its poison (R79). -/
def Strand.landOne (x : Strand) (p : Pend) : Strand :=
  match p.val with
  | none => x
  | some v =>
    if p.dst = .fp then { x with fpctl := x.fpctl ||| v.setWidth 32 }
    else
      let w := (x.get p.dst &&& ~~~p.mask) ||| (v &&& p.mask)
      let y := match p.dst with | .csr n => x.setCsr n (w.setWidth 64) | d => x.put d w
      { y with
        poison := y.poison.filter fun e => !(e.1 == p.dst && covers p.dst p.mask e.2)
        soft := y.soft.filter fun e => !(e.1 == p.dst && covers p.dst p.mask e.2) }

/-- The sequence number of an item of the vector queue. -/
def VItem.seq : VItem → Nat
  | .one e => e.seq
  | .block l => l.seq

/-- The sequence numbers of the replays' words follow that of the block (R139). -/
def VLoop.holds (l : VLoop) (seq : Nat) : Bool := decide (l.seq < seq) && decide (seq ≤ l.seq + l.len * l.reps)
/-- The block as it stood when the word of a sequence number was to start. -/
def VLoop.back (l : VLoop) (seq : Nat) : VLoop :=
  let j := seq - l.seq - 1
  { l with rep := j / l.len, pos := j % l.len
           trim := match l.trim with
             | some (n, p) => if l.rep = j / l.len ∧ p < j % l.len then some (n, p) else none
             | none => none }
/-- Promises of a block's words, which the block's end takes back. -/
def VLoop.promised (l : VLoop) (p : Pend) : Bool :=
  p.vec && p.val.isNone && p.due.isNone && (l.words.any fun e => e.seq == p.seq) && !(p.seq == l.own && p.dst == .g l.d)

/-- Sequence numbers count issues in steps that leave room for the words of a block's replays (R139); the A word of a joined
pair stands half a step behind its C word. -/
def wordStep : Nat := 2 ^ 40
def halfStep : Nat := 2 ^ 39

/-- R43: the sequence number at which the unit of a word begins: for the A word of a joined pair that of the pair. -/
def unitSeq (seq : Nat) : Nat := if seq % wordStep = halfStep then seq - halfStep else seq

/-- R355: the oldest vector word that has been issued and has not landed, by the issue of its unit. -/
def Strand.oldestVec (x : Strand) : Option Nat :=
  let l := x.vq.map VItem.seq ++ x.started.map (·.seq)
  match l with
  | [] => none
  | a :: t => some (unitSeq (t.foldl Nat.min a))

/-- R355, R210: the oldest word that a squash may take the strand back to: a vector word, or a FENCE that waits. -/
def Strand.oldestOpen (x : Strand) : Option Nat :=
  match x.wait, x.oldestVec with
  | some (.fence _ _ _ seq _), some o => some (Nat.min (unitSeq seq) o)
  | some (.fence _ _ _ seq _), none => some (unitSeq seq)
  | _, o => o

/-- R355: the record of a landing made while an older vector word is outstanding. -/
def Strand.logOf (x : Strand) (p : Pend) : List LogEntry :=
  match x.oldestOpen with
  | some o =>
    if o ≤ p.seq then [⟨p.seq, p.dst, x.get p.dst, (x.poison.filter fun e => e.1 == p.dst).map (·.2)⟩] else []
  | none => []

/-- R355: the record of a register that a word changes at once. -/
def State.logNow (s : State) (d : Dst) : State :=
  s.modMe fun x => match x.oldestVec with
    | some o => if !s.scored s.cur.sid && decide (o ≤ x.seq) then
        { x with log := x.log ++ [⟨x.seq, d, x.get d, (x.poison.filter fun e => e.1 == d).map (·.2)⟩] } else x
    | none => x

def Pend.isDue (p : Pend) (now : Nat) : Bool := match p.due with | some d => decide (d ≤ now) | none => false

/-- R70, R72, R73: everything due lands in issue order, flags after writes of FPCTL. -/
def Strand.landAll (x : Strand) (now : Nat) (free : Bool) : Strand :=
  let due := x.pend.filter fun p => p.isDue now
  let due := (due.filter fun p => p.dst != .fp) ++ due.filter fun p => p.dst == .fp
  let x := { x with pend := x.pend.filter fun p => !p.isDue now }
  due.foldl (fun x p =>
    let x := if free then { x with log := x.log ++ x.logOf p } else x
    x.landOne p) x

/-- R137, R355: started words whose landing has come are outstanding no longer, and the log drops what only they needed. -/
def Strand.retireVec (x : Strand) (now : Nat) : Strand :=
  let x := { x with started := x.started.filter fun e => match e.due with | some d => decide (now < d) | none => true }
  { x with
    log := match x.oldestOpen with
      | none => []
      | some o => x.log.filter fun e => decide (o ≤ e.seq)
    ended := x.ended.filter fun l => x.started.any fun e => l.holds e.seq }

/-- A result of the issuing word: it lands `turns` turns after issue, LAND being owed then (R72). -/
def State.landMask (s : State) (d : Dst) (v mask : Wide) (turns : Nat) : State :=
  let due := s.turn + 16 * turns
  (s.modMe fun x => { x with pend := x.pend ++ [⟨x.seq, s.turn, d, some v, mask, some due, false⟩] }).owe
    (some (s.clockOf s.cur.sid)) due prioLand (.land s.cur.sid)

def State.landWide (s : State) (d : Dst) (v : Wide) (turns : Nat) : State := s.landMask d v (BitVec.allOnes 65536) turns

/-- A result for g[d]; discarded when d = 0. -/
def State.landG (s : State) (d : GReg) (v : Word) (turns : Nat) : State :=
  if d = 0 then s else s.landWide (.g d) (v.setWidth 65536) turns

/-- A result for p[d]; discarded when d = 0. -/
def State.landP (s : State) (d : PReg) (v : Bool) (turns : Nat) : State :=
  if d = 0 then s else s.landWide (.p d) (if v then 1 else 0) turns

/-- A result of the issuing word whose value is not yet known (an access, a vector word, a wait). -/
def State.promise (s : State) (d : Dst) (vec : Bool) : State :=
  s.modMe fun x => { x with pend := x.pend ++ [⟨x.seq, s.turn, d, none, BitVec.allOnes 65536, none, vec⟩] }

/-- The promised result of word `seq` becomes known: it lands at an LCY. -/
def State.deliver (s : State) (sid seq : Nat) (d : Dst) (v mask : Wide) (due : Nat) : State :=
  (s.modStrand sid fun x => { x with pend := x.pend.map fun p =>
    if p.seq = seq ∧ p.dst = d ∧ p.due = none then { p with val := some v, mask := mask, due := some due } else p }).owe
    (some (s.clockOf sid)) due prioLand (.land sid)

/-- The LCY of the strand's first issue cycle at or after the present cycle (R16). -/
def State.nextTurn (s : State) (sid : Nat) : Nat :=
  s.lcy sid + (slotOf sid + 16 - s.pkg.ency % 16) % 16

/-- The LCY of the first issue cycle of the strand at or after an LCY x, from the turn t of an issue. -/
def turnAtOrAfter (t x : Nat) : Nat := if x ≤ t then t else t + 16 * ceilDiv (x - t) 16

/-! ## Taking a trap (R353, R354, R356) and returning (R358) -/

/-- R354: trap entry on the strand itself; the CSRs that it writes whole lose their poison (R79). -/
def Strand.enter (x : Strand) (t : TrapInfo) (epc : Word) : Strand :=
  { x with
    epc := epc
    ecause := t.ecause
    eval := t.eval
    estat := BitVec.ofNat 8 (x.priv + 4 + if t.vect then 8 else 0)
    poison := x.poison.filter fun e => !([.csr 0x21, .csr 0x22, .csr 0x23, .csr 0x24].contains e.1)
    priv := Nat.max x.priv 1
    pc := x.tvec
    slot := .runnable
    wait := some .drain }

/-- R358, R354: ESTAT.INH. -/
def Strand.inh (x : Strand) : Bool := x.estat.getLsbD 2

/-- R247: the fault-queue entry of a trap. -/
def State.faultOf (s : State) (sid : Nat) (t : TrapInfo) (epc : Word) : FaultEntry :=
  { ecause := t.ecause
    launch := match (s.strand sid).launch with | some l => (s.launch l).lid | none => 0
    strandid := s.strandId sid
    epc := epc
    eval := t.eval
    ency := s.pkg.ency
    tgen := (s.vd (s.strandVd sid)).tgen }

/-- R353: the trap is posted, and the strand's launch cancelled; a reserved strand at supervisor level becomes halted and
waits for the Coachman, who is given a copy of the entry. -/
def State.postTrap (s : State) (sid : Nat) (t : TrapInfo) (epc : Word) : State :=
  let x := s.strand sid
  let e := s.faultOf sid t epc
  let vd := x.launch.map fun l => (s.launch l).vd
  let p := s.strandPart sid
  let stop (s : State) : State :=
    match x.launch with
    | some l => (s.cancelFree l)
    | none => if x.priv = 1 then State.modStrand { s with coachIn := s.coachIn ++ [(p.getD 0, e)] } sid fun y => { y with slot := .halted, stopped := true, pend := [], vq := [], started := [], wait := none }
      else s.idle sid
  match p with
  | some p => ((stop s).postFault p vd e).1
  | none => stop s

/-- R227, R238, R344: a failed or poisoned read is counted; a failure sets INTHOLD of the VD that read. -/
def State.chargeLine (s : State) (vd detail : Nat) : State :=
  let s := s.countIntegrity (some (s.vd vd).part)
  if detail = 17 ∨ detail = 8 then s.setKey vd { s.key vd with inthold := true } else s

/-- R351, R344: the error counter that a trap moves, and what an integrity fault sets. -/
def State.countTrap (s : State) (sid : Nat) (t : TrapInfo) : State :=
  let p := s.strandPart sid
  if t.cause = 10 then s.chargeLine (s.strandVd sid) t.detail else
  if t.cause = 11 then s.countErr p fun e => { e with rfile := sat32 e.rfile } else
  if t.cause = 12 then s.countErr p fun e => { e with residue := sat32 e.residue } else s

/-- R353, R359: a trap charged to a word of a strand. On a scored core it is an ending event; on a free core it is handled on
the strand or posted; at coach level it enters the Coachman's TVEC, or stops the Coachman inside a handler. A strand that is
being pre-empted, or has been, keeps it pending (R365). -/
def State.takeTrap (s : State) (sid : Nat) (t : TrapInfo) (epc : Word) : State :=
  if (s.strand sid).slot = .preempted then s.modStrand sid fun x => { x with pendingTrap := some (t, epc), wait := none }
  else if !s.scored sid && (s.strand sid).leaving.isSome then
    s.modStrand sid fun x => { x with pendingTrap := some (t, epc), slot := .runnable, wait := none }
  else
  let s := s.countTrap sid t
  let x := s.strand sid
  if s.scored sid then
    match x.launch with
    | some l =>
      (s.modStrand sid fun y => { y with wait := some .event }).endingEvent l (s.lcyL l) (s.core (coreOf sid)).logical
        (slotOf sid) t epc
    | none => s.idle sid
  else if x.priv ≥ 2 then
    if x.inh then
      (s.modStrand sid fun y => { y with slot := .halted, stopped := true }).modPkg fun k =>
        { k with coachStopped := true }
    else s.setStrand sid (x.enter t epc)
  else if x.tvec ≠ 0 ∧ x.inh = false then s.setStrand sid (x.enter t epc)
  else s.postTrap sid t epc

/-- R358: the return from a handler. -/
def Strand.eret (x : Strand) : Strand :=
  { x with pc := x.epc, priv := bits x.estat 0 2, estat := x.estat &&& ~~~4#8 }

/-- R356: the rollback of a vector strand to a word: later words squashed, later results dropped, the log applied. A block that
the word belongs to is held where the word stands in it. -/
def Strand.rollback (x : Strand) (seq : Nat) : Strand :=
  let undo := (x.log.filter fun e => decide (seq ≤ e.seq)).reverse
  let blocks := x.vq.filterMap (fun i => match i with | .block l => some l | .one _ => none) ++ x.ended
  let cut := blocks.find? fun l => l.holds seq
  let y := { x with
    pend := x.pend.filter fun p => decide (p.seq < seq) && match cut with
      | some l => !(l.promised p) && !(p.seq == l.own && p.dst == .g l.d && p.due.isNone)
      | none => true
    vq := x.vq.filter fun e => decide (e.seq < seq) && match cut with | some l => e.seq != l.seq | none => true
    heldLoop := match cut with | some l => some (l.back seq) | none => x.heldLoop
    ended := x.ended.filter fun l => decide (l.seq < seq) && !l.holds seq
    started := x.started.filter fun e => decide (e.seq < seq)
    collect := match x.collect with | some c => if c.seq < seq then some c else none | none => none
    log := x.log.filter fun e => decide (e.seq < seq) }
  undo.foldl (fun y e =>
    let y := if e.dst = .fp then { y with fpctl := e.old.setWidth 32 } else y.put e.dst e.old
    { y with poison := (y.poison.filter fun k => k.1 != e.dst) ++ e.poison.map fun i => (e.dst, i) }) y

/-- R43, R356: what the squashed words of a strand have still to do is not done: vector accesses from a word on, and with the A
word of a joined pair whatever its C word has not done yet. -/
def State.dropLater (s : State) (sid seq : Nat) : State :=
  let pair (k w : Nat) : Bool := decide (unitSeq seq < seq) && k == sid && w == unitSeq seq
  { s with
    accesses := s.accesses.filter fun a => !((a.2.sid == sid && a.2.vec && decide (seq ≤ a.2.seq)) || pair a.2.sid a.2.seq)
    ops := s.ops.filter fun o => !(pair o.2.sid o.2.seq)
    packets := s.packets.filter fun k => !(s.ops.any fun o => o.1 == k.2.op && pair o.2.sid o.2.seq)
    cores := s.cores.map fun c : Nat × Core => (c.1, { c.2 with harpq := c.2.harpq.filter fun q => !(pair q.sid q.seq) })
    drays := s.drays.map fun d : Nat × Dray => (d.1, { d.2 with cmds := d.2.cmds.filter fun c => !(pair c.sid c.wseq && !c.running) })
    qps := s.qps.map fun q : Nat × Qp => (q.1, { q.2 with send := q.2.send.filter fun w => !(pair w.sid w.wseq && !w.sent) }) }

/-- R356: a trap charged to a vector word at lane start or in the lanes; with the A word of a joined pair its C word has no effect
either (R43). -/
def State.vectorTrap (s : State) (sid seq : Nat) (pc : Word) (t : TrapInfo) : State :=
  let s := if s.scored sid then s else
    let s := (s.dropLater sid seq).modStrand sid fun x => x.rollback (unitSeq seq)
    { s with
      runs := s.runs.filter fun r => !(r.2.sid == sid && r.2.cs.isNone && decide (seq ≤ r.2.seq))
      toIssue := s.toIssue.filter fun k => decide (k ≠ sid) }
  s.takeTrap sid { t with vect := true } pc

/-! ## Outcomes of a word -/

/-- What a word does: it takes effect, it keeps its issue cycle empty (R34), or it traps. -/
inductive Res
  | ok (s : State)
  | held (s : State)
  | trap (t : TrapInfo)
  /-- A trap that also changes something of the machine. -/
  | trapIn (s : State) (t : TrapInfo)

/-- The address a trap is charged at: for the software trap the next word to issue (R354). -/
def State.epcOf (s : State) (t : TrapInfo) : Word := if t.cause = 14 then s.cur.next else s.cur.addr

/-- R355: a vector word of an earlier issue has not landed. -/
def State.vecBefore (s : State) : Bool := match s.me.oldestVec with | some o => decide (o < unitSeq s.seqNo) | none => false

/-- A trap of the issuing word. On a free vector strand it waits for earlier vector words (R356). -/
def raise (s u : State) (t : TrapInfo) : State :=
  if !s.scored s.cur.sid && s.vecBefore then
    { s with last := .held }
  else { u.takeTrap s.cur.sid t (s.epcOf t) with last := .trapped t }

/-- The outcome of a word on the machine. -/
def finish (s : State) (r : Res) : Host.Outcome State Fault Refusal :=
  match r with
  | .ok s' => .next { s' with last := .done }
  | .held s' => .next { s' with last := .held }
  | .trap t => .next (raise s s t)
  | .trapIn u t => .next (raise s u t)

/-- Traps by name (R350). -/
def illegalInstr (s : State) : Res := .trap { cause := 2, eval := s.cur.raw.setWidth 64 }
def illegalFormat (v : Word) : Res := .trap { cause := 3, eval := v }
def privilege (s : State) : Res := .trap { cause := 4, eval := s.cur.raw.setWidth 64 }
def misalignedTarget (v : Word) : Res := .trap { cause := 5, eval := v }
def misaligned (v : Word) : Res := .trap { cause := 6, eval := v }
def accessFault (v : Word) : Res := .trap { cause := 8, eval := v }
def timingFault (s : State) (detail : Nat) : Res := .trap { cause := 15, detail := detail, eval := BitVec.ofNat 64 s.turn }

/-- What a word asks of the frame it runs in. -/
structure Use where
  /-- Only a vector strand may issue it (R18). -/
  vec : Bool := false
  /-- The lowest level that may issue it. -/
  level : Nat := 0
  gd : Guard := ⟨0, false⟩
  src : List Dst := []
  dst : List Dst := []
  /-- Its effect reaches beyond the strand (R355). -/
  outward : Bool := false

/-- R65, R66: a register of fixed value; writes of it are discarded, so that no word waits for one. -/
def Dst.fixed : Dst → Bool
  | .g r => r == 0
  | .p r => r == 0
  | .m r => r == 0
  | _ => false

/-- R27, R41: whether a register has a write pending from an earlier turn. -/
def Strand.pending (x : Strand) (now : Nat) (d : Dst) : Bool :=
  !d.fixed && x.pend.any fun p => p.dst == d && decide (p.turn < now)

/-- R27, R73, R355: whether a free strand's word must keep its issue cycle empty. -/
def State.mustWait (s : State) (u : Use) : Bool :=
  !s.scored s.cur.sid &&
    (((.p u.gd.pr : Dst) :: (if s.me.guard u.gd then u.src ++ u.dst else [])).any (s.me.pending s.turn) ||
      (u.outward && s.me.guard u.gd && s.vecBefore))

/-- R350: EVAL of a register-file error: register number and file. -/
def Dst.poisonVal : Dst → Nat
  | .g r => r
  | .v r | .be r => r + 32
  | .m r => r + 64
  | .q r => r + 64
  | .p r => r + 96
  | .tk r => r + 96
  | .st r => r + 96
  | .vl => 96
  | .csr _ => 96
  | .fp => 96

/-- R78: the first source read at issue that is poisoned. -/
def State.poisoned (s : State) (u : Use) : Option TrapInfo :=
  match (u.src.flatMap fun d => s.me.poison.filter fun e => e.1 == d).head? with
  | some e => some { cause := 11, eval := BitVec.ofNat 64 (e.1.poisonVal + 65536 * e.2) }
  | none => none

/-- R77: the errors in words that are read are corrected, written back and counted. -/
def State.correct (s : State) (sid : Nat) (reads : Dst × Nat → Bool) : State :=
  let hit := (s.strand sid).soft.filter reads
  if hit.isEmpty then s
  else (s.modStrand sid fun x => { x with soft := x.soft.filter fun e => !reads e }).countRf (coreOf sid) false hit.length

/-- R77, R78: an error in a word of a register of a strand's slot. A second one in a word that has not been read is uncorrectable, but
for a predicate, of which three copies vote. -/
def State.registerError (s : State) (sid : Nat) (d : Dst) (i : Nat) (fatal : Bool) : State :=
  let x := s.strand sid
  if x.slot = .idle ∨ x.poison.contains (d, i) then s
  else
    let vote := match d with | .p _ => true | _ => false
    if !vote && (fatal || x.soft.contains (d, i)) then
      (s.setStrand sid { x with poison := x.poison ++ [(d, i)], soft := x.soft.filter (· != (d, i)) }).countRf (coreOf sid) true 1
    else s.setStrand sid { x with soft := x.soft.filter (· != (d, i)) ++ [(d, i)] }

/-- The frame of every instruction word: the slot check (R18), the privilege check, the guard (R47), the holds and the poison
check come before its effect. -/
def word (s : State) (u : Use) (effect : State → Res) : Res :=
  if u.vec && !s.isVector s.cur.sid then illegalInstr s
  else if s.me.priv < u.level then privilege s
  else if s.mustWait u then .held s
  else if !s.me.guard u.gd then .ok s
  else match s.poisoned u with
    | some t => .trap t
    | none => effect (s.correct s.cur.sid fun e => u.src.contains e.1)

/-- A word that meets nothing but its own effect: none of its holds or traps, and no register error to correct. -/
def State.Ready (s : State) (u : Use) : Prop :=
  (u.vec = true → s.isVector s.cur.sid = true) ∧ u.level ≤ s.me.priv ∧ s.mustWait u = false ∧ s.me.guard u.gd = true ∧
  s.poisoned u = none ∧ s.me.soft = []

end Sys2Proof.Machine
end

