-- ==== Sys2Proof/Machine/Strongbox.lean ====
section
/-! DEFINITION. The Strongbox: writes and checks of lines (R226, R227), poison (R237, R238), and the caches of a package seen
by line (R189, R190, R231). -/
namespace Sys2Proof.Machine

/-! ## Ports (R226) -/

/-- R226: a line write at a memory port. -/
def State.portWrite (s : State) (la : Nat) (data : BitVec 512) : State :=
  let b := s.block (la / 64)
  let i := la % 64
  let minor := ((s.line la).minor + 1).toNat
  let old := tget 0 i b.shadow
  let b := { b with shadow := tput 0 i (minor % 128) b.shadow }
  if minor % 128 = 0 ∧ old = 127 then
    let b := { b with major := b.major + 1, reseal := some 0, newer := [i] }
    let s := (s.setBlock (la / 64) b).treeWrite (la / 64)
    (s.setLine la (s.sealLine la minor b.major data.toNat)).now prioArrive (.minorWrapReseal (la / 64))
  else
    let b := if b.reseal = some i then { b with newer := i :: b.newer } else b
    let s := (s.setBlock (la / 64) b).treeWrite (la / 64)
    s.setLine la (s.sealLine la minor (b.majorOf i) data.toNat)

/-- R226: one line of a block is re-sealed under the new major. -/
def State.resealLine (s : State) (blk : Nat) : State :=
  let b := s.block blk
  match b.reseal with
  | none => s
  | some idx =>
    if idx ≥ 64 then s.setBlock blk { b with reseal := none, newer := [] }
    else
      let la := 64 * blk + idx
      let l := s.line la
      let s := if b.newer.contains idx || !l.written then s
        else s.setLine la { s.sealLine la l.minor.toNat b.major (s.lineData la).toNat with poison := l.poison, flips := l.flips }
      let next := idx + 1
      if next = 64 then s.setBlock blk { b with reseal := none, newer := [] }
      else (s.setBlock blk { b with reseal := some next }).after 1 prioArrive (.minorWrapReseal blk)

/-! ## Checks on reading (R227, R238) -/

/-- What a line's checks find: nothing, poison (detail 16), or a failure (detail 17). A line never written by its port has
no metadata to fail. -/
def State.lineFault (s : State) (la : Nat) : Option Nat :=
  let l := s.line la
  if (s.frame (la / 64)).fresh then none
  else if l.poison.isSome then some 16
  else if !l.written then none
  else
    let b := s.block (la / 64)
    let major := b.majorOf (la % 64)
    let bad := decide (l.flips.length > 2) || s.pathBroken (la / 64) || tget 0 (la % 64) b.shadow != l.minor.toNat % 128 ||
      l.mac != lineMac (s.key (s.kidOf la)).key.toNat l.cipher.toNat la l.minor.toNat major
    if bad then some 17 else none

/-- The first fault among the lines of n bytes at a. -/
def State.linesFault (s : State) (a n : Nat) : Option Nat :=
  if isNear a || isFar a then
    (List.range ((a + Nat.max n 1 - 1) / 64 - a / 64 + 1)).findSome? fun i => s.lineFault (a / 64 + i)
  else none

/-- R227, R344: a read of n bytes for a VD that fails its checks is counted. -/
def State.countRead (s : State) (v a n : Nat) : State :=
  match s.linesFault a n with
  | some d => s.chargeLine v d
  | none => s

/-- A checked read: the bytes, or the detail of the failure (R227). -/
def State.checkedRead (s : State) (a n : Nat) : Except Nat (List Byte) :=
  match s.linesFault a n with
  | some d => .error d
  | none => .ok (s.memRead a n)

/-- What flips symbols of a line, or of a counter block or node. -/
def flipAll (old : Sparse Byte) (symbols : List (Nat × Byte)) : Sparse Byte :=
  symbols.foldl (fun t e => tput 0 e.1 (tget 0 e.1 t ^^^ e.2) t) old

/-! ## Device registers read as their state -/

/-- R375: the VD control register as it reads. -/
def State.vdctl (s : State) (v : Nat) : Nat :=
  let d := s.vd v
  (if d.state = 2 then 1 else 0) + (if d.retain then 2 else 0) + 4 * d.state + 256 * d.part + 65536 * d.tgen

/-- What a read of the physical space sees: a fresh frame reads as zero (R230), a VD control register reads its fields. -/
def State.physRead (s : State) (a n : Nat) : List Byte :=
  if isDevice a && decide (0xF000000100000 ≤ a) && decide (a < 0xF000000103000) then
    ((toBytes 64 (s.vdctl ((a - 0xF000000100000) / 64))).drop (a % 64)).take n
  else if (isNear a || isFar a) && (s.frame (a / 4096)).fresh then List.replicate n 0
  else s.memRead a n

/-! ## The memory-side cache (R190, R191) -/

/-- R190: the home die, slice and set of a 128-byte line. -/
def homeDie (la : Nat) : Nat :=
  let pa := 128 * la
  if isNear pa then (field pa 12 3 ^^^ field pa 15 3) / 2 else (field pa 12 4 ^^^ field pa 16 4) / 4
def homeSlice (la : Nat) : Nat := la % 31
def homeSet (la : Nat) : Nat := la / 31 % 1024

def sameSet (a b : Nat) : Bool := homeDie a == homeDie b && homeSlice a == homeSlice b && homeSet a == homeSet b

/-- The writes of a dirty line at its port. -/
def State.writeBack (s : State) (la : Nat) : State :=
  (s.now prioArrive (.memoryLineWrite (2 * la) (s.lineData (2 * la)))).now prioArrive
    (.memoryLineWrite (2 * la + 1) (s.lineData (2 * la + 1)))

/-- A key for the monitor of a die and partition. -/
def monKey (die part depth : Nat) : Nat := (die * 64 + part) * 32 + depth

/-- R191: an access of a partition in a monitored set counts its stack depth and moves to the front of the shadow tags. -/
def State.monitor (s : State) (la part : Nat) : State :=
  if homeSet la % 32 = 0 then
    let k := ((homeDie la * 64 + part) * 31 + homeSlice la) * 1024 + homeSet la
    let tags := (look k s.monTags).getD []
    let s := match tags.findIdx? (· == la) with
      | some d =>
        let key := monKey (homeDie la) part (d + 1)
        { s with monHits := tput 0 key (tget 0 key s.monHits + 1) s.monHits }
      | none => s
    { s with monTags := bind k ((la :: tags.filter fun t => decide (t ≠ la)).take 16) s.monTags }
  else s

/-- R190: an access to a cacheable line by a partition: a hit is touched, a miss fills a way of the partition's mask, and a
dirty victim is written back. Answers whether it hit. -/
def State.mcTouch (s : State) (pa kid : Nat) (part : Option Nat) (write : Bool) : State × Bool :=
  let la := pa / 128
  let s := match part with | some p => s.monitor la p | none => s
  let now := s.pkg.ency
  match s.mc.find? fun l => l.line == la with
  | some _ =>
    ({ s with mc := s.mc.map fun l => if l.line = la then { l with dirty := l.dirty || write, used := now } else l }, true)
  | none =>
    let s := if isNear pa || isFar pa then s.cachePath (pa / 4096) else s
    let die := homeDie la
    let ways := match part with
      | some p => onesBelow 16 ((((s.part p).ways.toList[die]?).getD 0).toNat)
      | none => onesBelow 16 65535
    let set := s.mc.filter fun l => sameSet l.line la && ways.contains l.way
    match ways.find? fun w => !(set.any fun l => l.way == w) with
    | some w => ({ s with mc := s.mc ++ [⟨la, kid, part, w, write, now⟩] }, false)
    | none =>
      match set with
      | [] => (if write then s.writeBack la else s, false)
      | v :: t =>
        let v := t.foldl (fun b l => if l.used < b.used then l else b) v
        let s := if v.dirty then s.writeBack v.line else s
        ({ s with mc := (s.mc.filter fun l => decide (l.line ≠ v.line)) ++ [⟨la, kid, part, v.way, write, now⟩] }, false)

/-- FLUSH and INVAL of a line at its home slice (R208). -/
def State.mcFlush (s : State) (la : Nat) (inval : Bool) : State :=
  match s.mc.find? fun l => l.line == la with
  | some l =>
    let s := if l.dirty then s.writeBack la else s
    { s with mc := if inval then s.mc.filter fun k => decide (k.line ≠ la)
        else s.mc.map fun k => if k.line = la then { k with dirty := false } else k }
  | none => s

/-! ## The L1 (R189) -/

def State.l1Drop (s : State) (core : Nat) (f : L1Line → Bool) : State :=
  s.modCore core fun k => { k with l1 := k.l1.filter fun l => !f l }

def State.l1DropAll (s : State) (f : L1Line → Bool) : State :=
  { s with cores := s.cores.map fun e : Nat × Core => (e.1, { e.2 with l1 := e.2.l1.filter fun l => !f l }) }

/-- R231: every copy of the lines of n frames leaves every cache, under any KID, dirty copies discarded. -/
def State.dropFrames (s : State) (f n : Nat) : State :=
  let mine (line : Nat) : Bool := decide (f ≤ line / 32) && decide (line / 32 < f + n)
  let s := s.l1DropAll fun l => mine l.line
  { s with mc := s.mc.filter fun l => !mine l.line }

/-- R235: every cached line of a key identifier leaves every cache, dirty lines discarded. -/
def State.dropKid (s : State) (kid : Nat) : State :=
  let s := s.l1DropAll fun l => l.kid == kid
  { s with mc := s.mc.filter fun l => decide (l.kid ≠ kid) }

/-- R189: a line filled into the L1 with the data of the line `src`, least recently used first within its set of 12 ways; a line with RO = 0 expires after
4096 cycles. -/
def State.l1Fill (s : State) (core la src kid : Nat) (ro : Bool) (vpn : Nat) : State :=
  let now := s.pkg.ency
  let data := BitVec.ofNat 1024 (ofBytes (s.physRead (128 * src) 128))
  let k := s.core core
  let rest := k.l1.filter fun l => decide (l.line ≠ la)
  let set := rest.filter fun l => l.line % 256 == la % 256
  let rest := match set with
    | v :: t =>
      if set.length ≥ 12 then
        let v := t.foldl (fun b l => if l.used < b.used then l else b) v
        rest.filter fun l => decide (l.line ≠ v.line)
      else rest
    | [] => rest
  let s := s.setCore core { k with l1 := rest ++ [⟨la, kid, ro, now, now, data, vpn⟩] }
  if ro then s else s.after 4096 prioArrive (.l1LineExpiry core la)

/-! ## Meanings of the port's steps -/

/-- MEMORY_LINE_WRITE: the line is sealed with its counters advanced; a refused write of R226 is counted. -/
def execMemoryLineWrite (la : Nat) (data : BitVec 512) (s : State) : Host.Outcome State Fault Refusal :=
  .next (if s.majorFull la then s.countIntegrity none else s.portWrite la data)

/-- MEMORY_LINE_READ: the checks of a line read for a VD. -/
def execMemoryLineRead (la vd : Nat) (s : State) : Host.Outcome State Fault Refusal :=
  .next (match s.lineFault la with | some d => s.chargeLine vd d | none => s)

def execMinorWrapReseal (blk : Nat) (s : State) : Host.Outcome State Fault Refusal := .next (s.resealLine blk)

/-- L1_LINE_EXPIRY: a line with RO = 0 leaves the L1 4096 cycles after its fill. -/
def execL1LineExpiry (core line : Nat) (s : State) : Host.Outcome State Fault Refusal :=
  .next (s.l1Drop core fun l => l.line == line && !l.ro && decide (l.fill + 4096 ≤ s.pkg.ency))

/-- R191: the ways of a die by partition. -/
def quotas (s : State) (die : Nat) : List (Nat × Nat) :=
  let ps := s.parts.filter fun e => e.2.crews != 0
  let start := ps.map fun e => (e.1, (e.2.waymin.toList[die]?).getD 0)
  let free := 16 - (start.map (·.2)).sum
  (List.range free).foldl (fun q _ =>
    let hits (e : Nat × Nat) : Nat := tget 0 (monKey die e.1 (e.2 + 1)) s.monHits
    match q with
    | [] => q
    | e :: t =>
      let best := t.foldl (fun b x => if hits b < hits x then x else b) e
      if hits best = 0 then q else q.map fun x => if x.1 = best.1 then (x.1, x.2 + 1) else x) start

/-- R191: a shrinking partition keeps its lowest ways; freed ways go in increasing number to growing partitions in
increasing number; a way no partition gains stays with its holder. -/
def State.recompute (s : State) (die : Nat) : State :=
  let q := quotas s die
  let mask (p : Nat) : Nat := (((s.part p).ways.toList[die]?).getD 0).toNat
  let kept := q.map fun e => (e.1, (onesBelow 16 (mask e.1)).take e.2)
  let taken := kept.flatMap (·.2)
  let freed := (List.range 16).filter fun w => !taken.contains w
  let given := q.foldl (fun (acc : List (Nat × List Nat) × List Nat) e =>
    let have_ := ((look e.1 kept).getD [])
    let need := e.2 - have_.length
    (acc.1 ++ [(e.1, have_ ++ acc.2.take need)], acc.2.drop need)) ([], freed)
  let final := given.1.map fun e =>
    (e.1, e.2 ++ (given.2.filter fun w => (mask e.1).testBit w))
  let s := final.foldl (fun s e => s.modPart e.1 fun r =>
    { r with ways := Vector.ofFn fun i => if i.val = die then BitVec.ofNat 16 ((e.2.map fun w => 2 ^ w).sum) else r.ways[i] }) s
  let s := q.foldl (fun (s : State) (e : Nat × Nat) => if e.2 = 0 ∧ mask e.1 ≠ 0 ∧ ((look e.1 final).getD []).isEmpty then
    s.now prioArrive (.emptyMaskWriteback e.1 die) else s) s
  { s with monHits := s.monHits.filter fun e => decide (e.1 / 32 / 64 ≠ die) }

/-- R372: a WAYREQ is applied where the sum of every partition's minimum on each die stays at most 16. -/
def State.applyWayreq (s : State) : State :=
  s.parts.foldl (fun s e =>
    if e.2.ctlpage = 0 then s else
    let w := s.memNat (e.2.ctlpage + 0x18) 4
    let req := Vector.ofFn fun i : Fin 4 => w / 2 ^ (4 * i.val) % 16
    let ok := (List.range 4).all fun d =>
      decide ((s.parts.map fun f => if f.1 = e.1 then (req.toList[d]?).getD 0 else (f.2.waymin.toList[d]?).getD 0).sum ≤ 16)
    if w ≠ 0 ∧ ok then s.modPart e.1 fun r => { r with waymin := req } else s) s

/-- WAY_QUOTA_RECOMPUTE of a die; the requests of R372 are applied with the first die's. -/
def execWayQuotaRecompute (die : Nat) (s : State) : Host.Outcome State Fault Refusal :=
  .next ((if die = 0 then s.applyWayreq else s).recompute die)

/-- EMPTY_MASK_WRITEBACK (R377): the partition's lines on the die are written back if dirty and invalidated. -/
def execEmptyMaskWriteback (part die : Nat) (s : State) : Host.Outcome State Fault Refusal :=
  if (((s.part part).ways.toList[die]?).getD 0) = 0 then
    let mine := s.mc.filter fun l => l.part == some part && homeDie l.line == die
    let s := mine.foldl (fun s l => if l.dirty then s.writeBack l.line else s) s
    .next { s with mc := s.mc.filter fun l => !(l.part == some part && homeDie l.line == die) }
  else .next s

end Sys2Proof.Machine
end

