-- ==== Sys2Proof/Machine/Translate.lean ====
section
/-! DEFINITION. Translation (R319 to R327): tables, the frame table, the walk, the TLB and walk cache, and the checks of an
access against its leaf. -/
namespace Sys2Proof.Machine

/-! ## Entries (R319 to R322) -/

/-- The index of an address at a level. -/
def vaIndex (va level : Nat) : Nat := va / 2 ^ (12 + 9 * (level - 1)) % 512

/-- R321: an entry with V = 1 that counts as having a reserved bit set. -/
def reservedSet (e level : Nat) : Bool :=
  field e 9 3 != 0 || field e 52 7 != 0 || e.testBit 63 ||
  (!e.testBit 1 && decide (level ≥ 3)) || (e.testBit 1 && level == 1) ||
  (e.testBit 1 && field e 2 7 != 0) ||
  (!e.testBit 1 && level == 2 && (e.testBit 8 || field e 12 9 != 0))

def pfnOf (e : Nat) : Nat := field e 12 40

def attrOf (e : Nat) : Attr :=
  { r := e.testBit 2, w := e.testBit 3, x := e.testBit 4, p := e.testBit 5, ro := e.testBit 6, nc := e.testBit 7 }

/-! ## Frames (R324) -/

/-- R324: whether a frame is reached on the RELAY path by its owner's or peer's mapping. -/
def State.relayOf (s : State) (pfn : Nat) : Option Nat :=
  let fr := s.frame pfn
  if (isNear (4096 * pfn) || isFar (4096 * pfn)) && decide (192 ≤ fr.owner) then some (fr.owner - 192) else none

/-- R324: a frame usable by a VD. -/
def State.usable (s : State) (pfn v : Nat) : Bool :=
  let a := 4096 * pfn
  if isNear a || isFar a then
    let fr := s.frame pfn
    (fr.assigned && fr.owner == v && !fr.migdst) ||
    (decide (192 ≤ fr.owner) && ((s.key fr.owner).owner == v || (s.key fr.owner).peer == v))
  else if isHost a then
    let d := s.vd v
    let f := pfn - 0x8000000000
    decide (d.hostBase ≤ f) && decide (f < d.hostBase + d.hostLen)
  else false

/-! ## The walk (R325) -/

def walkTrap (cause detail level va : Nat) : TrapInfo :=
  { cause := cause, detail := detail, level := level, eval := BitVec.ofNat 64 va }

/-- R331, R333: the active migration slot of a page. -/
def State.migOf (s : State) (v vpn : Nat) : Option (Nat × MigSlot) :=
  s.mig.find? fun e => e.2.state != 0 && e.2.vd == v && e.2.vpn == vpn

/-- R325: the levels from n down, reading each entry at its home under the Strongbox's checks. -/
def walkFrom (v va core : Nat) : Nat → Nat → State → State × Except TrapInfo TlbEntry
  | 0, _, s => (s, .error (walkTrap 9 1 1 va))
  | n + 1, tbl, s =>
    let level := n + 1
    let a := 4096 * tbl + 8 * vaIndex va level
    match s.linesFault a 8 with
    | some d => (s, .error (walkTrap 10 (if d = 16 then 16 else 8) level va))
    | none =>
      let e := ofBytes (s.physRead a 8)
      if !e.testBit 0 then (s, .error (walkTrap 9 1 level va))
      else if reservedSet e level then (s, .error (walkTrap 9 2 level va))
      else if e.testBit 1 then
        if !s.usable (pfnOf e) v then (s, .error (walkTrap 8 4 level va))
        else
          let tag := va / 2 ^ (12 + 9 * n)
          let keep (k : Core) : List WalkEntry :=
            (k.walk.filter fun w => !(w.vd == v && w.level == level && w.tag == tag)).drop (k.walk.length - 191)
          let s := if level ≤ 4 then s.modCore core fun k => { k with walk := keep k ++ [⟨v, level, tag, pfnOf e⟩] } else s
          walkFrom v va core n (pfnOf e) s
      else
        let pages := if level = 2 then 512 else if e.testBit 8 then 16 else 1
        let vpn := va / 4096 / pages * pages
        let base := pfnOf e / pages * pages
        if level = 1 ∧ e.testBit 8 ∧ pfnOf e % 16 ≠ va / 4096 % 16 then (s, .error (walkTrap 9 3 1 va))
        else if !((List.range pages).all fun i => s.usable (base + i) v) then (s, .error (walkTrap 8 4 level va))
        else (s, .ok ⟨v, vpn, pages, base, attrOf e, (s.migOf v (va / 4096)).isSome⟩)

/-- R327: the deepest walk-cache entry for an address: the level to read next and its table. -/
def State.walkStart (s : State) (core v va : Nat) : Nat × Nat :=
  let hit (n : Nat) : Option WalkEntry :=
    (s.core core).walk.find? fun w => w.vd == v && w.level == n && w.tag == va / 2 ^ (12 + 9 * (n - 1))
  match hit 2 with
  | some w => (1, w.table)
  | none => match hit 3 with
    | some w => (2, w.table)
    | none => match hit 4 with
      | some w => (3, w.table)
      | none => (5, (s.vd v).troot)

/-- A walk of an address for a VD from a core (R325). It is made in one cycle, so that no SDGEN advance overtakes it
(notes/assumptions/92.md); one that has no outcome within 2^17 cycles times out at the level it has reached. -/
def State.walk (s : State) (core v va : Nat) : State × Except TrapInfo TlbEntry :=
  let (n, tbl) := s.walkStart core v va
  match s.outcome 0 131072 with
  | (some _, s) => walkFrom v va core n tbl s
  | (none, s) => (s, .error (walkTrap 8 9 n va))

/-- R327: the TLB entry that covers an address. -/
def State.tlbHit (s : State) (core v va : Nat) : Option TlbEntry :=
  (s.core core).tlb.find? fun e => e.vd == v && decide (e.vpn ≤ va / 4096) && decide (va / 4096 < e.vpn + e.pages)

/-- R327: a leaf installed among 1024 entries; the oldest leaves when they are full (log 20). -/
def State.tlbFill (s : State) (core : Nat) (e : TlbEntry) : State :=
  s.modCore core fun k => { k with tlb := k.tlb.drop (k.tlb.length - 1023) ++ [e] }

/-- Translation of an address: the leaf from the TLB, or from a walk that fills it. -/
def State.leaf (s : State) (core v va : Nat) : State × Except TrapInfo TlbEntry :=
  if va ≥ 2 ^ 57 then (s, .error (walkTrap 8 0 0 va)) else
  match s.tlbHit core v va with
  | some e => (s, .ok e)
  | none =>
    match s.walk core v va with
    | (s, .ok e) => (s.tlbFill core e, .ok e)
    | r => r

def TlbEntry.pa (e : TlbEntry) (va : Nat) : Nat := 4096 * (e.pfn + (va / 4096 - e.vpn)) + va % 4096

/-- What an access does, for its permission. -/
inductive Right
  | read | write | exec
  deriving DecidableEq, Repr

/-- R326: the checks of an access against its leaf. -/
def checkLeaf (a : Attr) (program : Bool) (r : Right) (va : Nat) : Option TrapInfo :=
  if program && !a.p then some (walkTrap 8 5 0 va)
  else if r = .write ∧ a.ro then some (walkTrap 8 6 0 va)
  else
    let ok := match r with | .read => a.r | .write => a.w | .exec => a.x
    if ok then none else some (walkTrap 8 7 0 va)

/-- R326: a fetch takes the instruction access fault where the table gives the access fault. -/
def fetchTrap (t : TrapInfo) : TrapInfo := if t.cause = 8 then { t with cause := 7 } else t

/-- The physical address of a virtual access of a strand, its rights checked; a TLB miss is event 13 of R345. A stream's access takes the
translation that its engine holds (R218). -/
def State.translate (s : State) (held : Option TlbEntry) (sid : Nat) (va : Nat) (r : Right) : State × Except TrapInfo (Nat × TlbEntry) :=
  let miss := decide (va < 2 ^ 57) && (s.tlbHit (coreOf sid) (s.strandVd sid) va).isNone
  match (match held with
    | some e => (s, Except.ok e)
    | none => (if miss then s.perf sid 13 1 else s).leaf (coreOf sid) (s.strandVd sid) va) with
  | (s, .error t) => (s, .error t)
  | (s, .ok e) =>
    match checkLeaf e.attr ((s.strand sid).priv == 0) r va with
    | some t => (s, .error t)
    | none => (s, .ok (e.pa va, e))

/-! ## Invalidation (R329 step 4) -/

def dropStreams (x : Strand) : Strand := { x with ahead := [] }

/-- R217: the stream engine walks the page of an address ahead, and holds its translation for the stream. A walk that fails holds none. -/
def State.walkAhead (s : State) (sid st va : Nat) : State :=
  match s.leaf (coreOf sid) (s.strandVd sid) va with
  | (t, .ok e) => t.modStrand sid fun x => { x with ahead := x.ahead ++ [(st, e)] }
  | (_, .error _) => s

/-- R218: the translation of an address that the stream engine holds. -/
def Strand.aheadOf (x : Strand) (st va : Nat) : Option TlbEntry :=
  (x.ahead.find? fun p => p.1 == st && decide (p.2.vpn ≤ va / 4096) && decide (va / 4096 < p.2.vpn + p.2.pages)).map (·.2)

/-- R329 step 3 and 4: SDGEN advances; the TLB entries that cover the page or all of the VD's, its walk-cache entries and
stream look-ahead leave, and L1 lines with RO = 1 of the page or VD. -/
def State.shootDown (s : State) (v : Nat) (vpn : Option Nat) : State :=
  let s := s.modVd v fun d => { d with sdgen := (d.sdgen + 1) % 65536 }
  let covers (e : TlbEntry) : Bool := e.vd == v && match vpn with
    | some p => decide (e.vpn ≤ p) && decide (p < e.vpn + e.pages)
    | none => true
  let dropL1 (l : L1Line) : Bool := l.ro && l.kid == v && match vpn with
    | some p => l.vpn == p
    | none => true
  { s with
    cores := s.cores.map fun c : Nat × Core => (c.1, { c.2 with
      tlb := c.2.tlb.filter fun e => !covers e
      walk := c.2.walk.filter fun w => decide (w.vd ≠ v)
      l1 := c.2.l1.filter fun l => !dropL1 l })
    strands := s.strands.map fun e : Nat × Strand => if s.strandVd e.1 = v then (e.1, dropStreams e.2) else e }

/-- TRANSLATION_WALK: a walk for a VD from a core, filling its TLB. -/
def execTranslationWalk (core vd va : Nat) (s : State) : Host.Outcome State Fault Refusal :=
  .next (match s.walk core vd va with
    | (s, .ok e) => if (s.tlbHit core vd va).isSome then s else s.tlbFill core e
    | (s, .error t) => if t.cause = 10 then s.chargeLine vd t.detail else s)

end Sys2Proof.Machine
end

