-- ==== Sys2Proof/Machine/Flags.lean ====
section
/-! DEFINITION. The sticky flags of FPCTL (R70) as masks, and their landing. -/
namespace Sys2Proof.Machine

def flagNV : Nat := 16
def flagDZ : Nat := 32
def flagOF : Nat := 64
def flagUF : Nat := 128
def flagNX : Nat := 256

/-- Flags raised together. -/
def orFlags (a b : Nat) : Nat := a ||| b

/-- Flags that the issuing word ORs into FPCTL `turns` turns after its issue (R70). -/
def State.landFlags (s : State) (f : Nat) (turns : Nat) : State :=
  if f = 0 then s else s.landWide .fp (BitVec.ofNat _ f) turns

end Sys2Proof.Machine
end

