-- ==== Sys2Proof/Machine/Float.lean ====
section
/-! DEFINITION. Floating values and their arithmetic: formats of R83 and R84, one rounding of an exact dyadic value (R93 to
R95), flags (R96) and NaNs (R97). -/
namespace Sys2Proof.Machine

/-- A floating format: exponent bits, fraction bits, and whether every code is finite (R83) or as IEEE 754 (R84). -/
structure FType where
  e : Nat
  m : Nat
  finite : Bool
  deriving DecidableEq, Repr

def FType.width (t : FType) : Nat := 1 + t.e + t.m
def FType.bias (t : FType) : Int := (2 ^ (t.e - 1) : Nat) - 1
/-- The exponent of the smallest normal. -/
def FType.emin (t : FType) : Int := 1 - t.bias
/-- The code of the largest finite magnitude. -/
def FType.maxCode (t : FType) : Nat := if t.finite then 2 ^ (t.e + t.m) - 1 else (2 ^ t.e - 1) * 2 ^ t.m - 1
/-- The code of infinity. -/
def FType.infCode (t : FType) : Nat := (2 ^ t.e - 1) * 2 ^ t.m

def tFp32 : FType := ⟨8, 23, false⟩
def tFp16 : FType := ⟨5, 10, false⟩
def tBf16 : FType := ⟨8, 7, false⟩

def ftypeOf : FEW → FType
  | .bf16 => tBf16
  | .fp16 => tFp16
  | .fp32 => tFp32

/-- A value: signed zero, ± m·2^x with m ≠ 0, infinity, or a NaN with its fraction at 23 bits and whether it signals. -/
inductive Val
  | zero (s : Bool)
  | fin (s : Bool) (m : Nat) (x : Int)
  | inf (s : Bool)
  | nan (s : Bool) (frac : Nat) (sig : Bool)
  deriving DecidableEq, Repr

def Val.sign : Val → Bool
  | .zero s => s
  | .fin s _ _ => s
  | .inf s => s
  | .nan s _ _ => s

def Val.isNan : Val → Bool
  | .nan _ _ _ => true
  | _ => false

def Val.isSig : Val → Bool
  | .nan _ _ g => g
  | _ => false

def Val.isZero : Val → Bool
  | .zero _ => true
  | _ => false

def Val.withSign (s : Bool) : Val → Val
  | .zero _ => .zero s
  | .fin _ m x => .fin s m x
  | .inf _ => .inf s
  | .nan _ f g => .nan s f g

def Val.neg (v : Val) : Val := v.withSign (!v.sign)

/-- The value of a code (R83, R84). -/
def FType.decode (t : FType) (c : Nat) : Val :=
  let s := c.testBit (t.e + t.m)
  let e := field c t.m t.e
  let f := c % 2 ^ t.m
  if !t.finite && e = 2 ^ t.e - 1 then
    if f = 0 then .inf s else .nan s (f * 2 ^ (23 - t.m)) (!f.testBit (t.m - 1))
  else if e = 0 then (if f = 0 then .zero s else .fin s f (t.emin - t.m))
  else .fin s (2 ^ t.m + f) (t.emin - t.m + (e - 1 : Nat))

/-- The rounding modes of R93 and R94; stochastic rounding carries its random word. -/
inductive RMode
  | rne | rtz | rdn | rup | rst (r : Nat)
  deriving DecidableEq, Repr

/-- FPCTL.RM (R70). -/
def rmOf (n : Nat) : RMode := match n % 4 with | 0 => .rne | 1 => .rtz | 2 => .rdn | _ => .rup

/-- Whether the magnitude hi + rem/2^k (rem ≠ 0) moves away from zero. -/
def RMode.up (md : RMode) (s : Bool) (hi rem k : Nat) : Bool :=
  match md with
  | .rne => decide (2 * rem > 2 ^ k) || (decide (2 * rem = 2 ^ k) && hi % 2 == 1)
  | .rtz => false
  | .rdn => s
  | .rup => !s
  | .rst r => decide (2 ^ 32 * rem / 2 ^ k + r ≥ 2 ^ 32)

/-- m·2^x in whole units of 2^q, rounded: the units and whether the result differs. -/
def roundUnits (md : RMode) (s : Bool) (m : Nat) (x q : Int) : Nat × Bool :=
  if q ≤ x then (m * 2 ^ (x - q).toNat, false)
  else
    let k := (q - x).toNat
    let hi := m / 2 ^ k
    let rem := m % 2 ^ k
    if rem = 0 then (hi, false) else (if md.up s hi rem k then hi + 1 else hi, true)

def signBit (t : FType) (s : Bool) : Nat := if s then 2 ^ (t.e + t.m) else 0

/-- R95: the result beyond the largest finite magnitude. -/
def FType.overflow (t : FType) (md : RMode) (s : Bool) : Nat :=
  if t.finite then t.maxCode
  else match md with
  | .rne => t.infCode
  | .rtz => t.maxCode
  | .rdn => if s then t.infCode else t.maxCode
  | .rup => if s then t.maxCode else t.infCode
  | .rst _ => t.infCode

/-- One rounding of ± m·2^x, m ≠ 0, to a format: the code and the flags (R93 to R96). -/
def FType.round (t : FType) (md : RMode) (s : Bool) (m : Nat) (x : Int) : Nat × Nat :=
  let ev := x + (log2 m : Nat)
  let low := t.emin - t.m
  let q := if t.emin ≤ ev then ev - t.m else low
  let (u, inex) := roundUnits md s m x q
  let code := (q - low).toNat * 2 ^ t.m + u
  if code > t.maxCode then (signBit t s + t.overflow md s, flagOF ||| flagNX)
  else
    let tiny := decide (ev < t.emin) &&
      !(ev = t.emin - 1 && (roundUnits md s m x (ev - t.m)).1 == 2 ^ (t.m + 1))
    (signBit t s + code, (if inex then flagNX else 0) ||| (if inex && tiny then flagUF else 0))

/-- The code of a NaN made quiet (R97). -/
def FType.quiet (t : FType) (s : Bool) (frac : Nat) : Nat :=
  signBit t s + t.infCode + (frac / 2 ^ (23 - t.m) ||| 2 ^ (t.m - 1))

/-- The default NaN (R97). -/
def FType.defaultNan (t : FType) : Nat := t.infCode + 2 ^ (t.m - 1)

/-- A value delivered in a format with one rounding (R95, R97). -/
def FType.encode (t : FType) (md : RMode) (v : Val) : Nat × Nat :=
  match v with
  | .zero s => (signBit t s, 0)
  | .fin s m x => if m = 0 then (signBit t s, 0) else t.round md s m x
  | .inf s => if t.finite then (signBit t s + t.maxCode, flagOF) else (signBit t s + t.infCode, 0)
  | .nan s f g => if t.finite then (0, flagNV) else (t.quiet s f, if g then flagNV else 0)

/-! ## Arithmetic (R96, R97) -/

/-- The first NaN among the sources, made quiet, with NV where one signals. -/
def nanOf (t : FType) (vs : List Val) : Option (Nat × Nat) :=
  match vs.find? Val.isNan with
  | some (.nan s f _) => some (t.quiet s f, if vs.any Val.isSig then flagNV else 0)
  | _ => none

/-- A finite value as an integer of units 2^q, for q no greater than its exponent. -/
def Val.units (q : Int) : Val → Int
  | .fin s m x => if s then -((m * 2 ^ (x - q).toNat : Nat) : Int) else (m * 2 ^ (x - q).toNat : Nat)
  | _ => 0

def Val.exp : Val → Option Int
  | .fin _ _ x => some x
  | _ => none

/-- The exact sum of two finite values; a zero sum of opposite signs is −0 only under RDN. -/
def addExact (md : RMode) (a b : Val) : Val :=
  match a, b with
  | .zero s, .zero r => .zero (if s = r then s else md = .rdn)
  | .zero _, _ => b
  | _, .zero _ => a
  | _, _ =>
    let q := match a.exp, b.exp with
      | some x, some y => if x ≤ y then x else y
      | _, _ => 0
    let u := a.units q + b.units q
    if u = 0 then .zero (md = .rdn) else .fin (u < 0) u.natAbs q

/-- The exact product of two values that are not NaN; none for 0 × ∞. -/
def mulExact (a b : Val) : Option Val :=
  let s := a.sign != b.sign
  match a, b with
  | .inf _, .zero _ => none
  | .zero _, .inf _ => none
  | .inf _, _ => some (.inf s)
  | _, .inf _ => some (.inf s)
  | .zero _, _ => some (.zero s)
  | _, .zero _ => some (.zero s)
  | .fin _ m x, .fin _ n y => some (.fin s (m * n) (x + y))
  | _, _ => none

/-- The sum of two values that are not NaN; none for ∞ − ∞. -/
def addVal (md : RMode) (a b : Val) : Option Val :=
  match a, b with
  | .inf s, .inf r => if s = r then some (.inf s) else none
  | .inf s, _ => some (.inf s)
  | _, .inf s => some (.inf s)
  | _, _ => some (addExact md a b)

/-- Delivers a value, or the default NaN with NV for an invalid operation. -/
def FType.deliver (t : FType) (md : RMode) (v : Option Val) : Nat × Nat :=
  match v with
  | some v => t.encode md v
  | none => (t.defaultNan, flagNV)

def fpAdd (t : FType) (md : RMode) (a b : Val) : Nat × Nat :=
  match nanOf t [a, b] with
  | some r => r
  | none => t.deliver md (addVal md a b)

def fpSub (t : FType) (md : RMode) (a b : Val) : Nat × Nat :=
  match nanOf t [a, b] with
  | some r => r
  | none => t.deliver md (addVal md a b.neg)

def fpMul (t : FType) (md : RMode) (a b : Val) : Nat × Nat :=
  match nanOf t [a, b] with
  | some r => r
  | none => t.deliver md (mulExact a b)

/-- a × b + c with one rounding. 0 × ∞ is invalid whatever c holds; a NaN is the first in operand order. -/
def fpFma (t : FType) (md : RMode) (a b c : Val) : Nat × Nat :=
  match nanOf t [a, b, c] with
  | some r => if (mulExact a b).isNone && !a.isNan && !b.isNan then (r.1, r.2 ||| flagNV) else r
  | none =>
    match mulExact a b with
    | none => (t.defaultNan, flagNV)
    | some p => t.deliver md (addVal md p c)

/-- Whether a < b for values that are not NaN. -/
def Val.lt (a b : Val) : Bool :=
  match a, b with
  | .inf true, .inf true => false
  | .inf true, _ => true
  | _, .inf true => false
  | .inf false, _ => false
  | _, .inf false => true
  | _, _ =>
    let q := match a.exp, b.exp with
      | some x, some y => if x ≤ y then x else y
      | some x, none => x
      | none, some y => y
      | none, none => 0
    decide (a.units q < b.units q)

/-- Whether a = b as numbers; zeros of either sign are equal. -/
def Val.eqv (a b : Val) : Bool := !a.isNan && !b.isNan && !a.lt b && !b.lt a

/-- Floor(log2 |v|) of a finite non-zero value. -/
def Val.log (v : Val) : Option Int :=
  match v with
  | .fin _ m x => some (x + (log2 m : Nat))
  | _ => none

/-- v × 2^k. -/
def Val.scale (v : Val) (k : Int) : Val :=
  match v with
  | .fin s m x => .fin s m (x + k)
  | v => v

/-- An integer as a value. -/
def ofInt (i : Int) : Val := if i = 0 then .zero false else .fin (i < 0) i.natAbs 0

/-- VAMO.FADD's addition at a location (R220). -/
def famoAdd (e : FEW) (rm old y : Nat) : Nat × Nat :=
  let t := ftypeOf e
  fpAdd t (rmOf rm) (t.decode (old % 2 ^ t.width)) (t.decode (y % 2 ^ t.width))

end Sys2Proof.Machine
end

