-- ==== Sys2Proof/Machine/Formats.lean ====
section
/-! DEFINITION. The operand formats of R80 to R90, block-fixed conversion (R99), MX conversion (R89) and the decodes of the
alias windows (R91). -/
namespace Sys2Proof.Machine

/-! ## Formats by code (R80) -/

/-- The element width of a format. -/
def fmtBits (c : Nat) : Nat :=
  ([1, 2, 2, 3, 4, 4, 5, 6, 7, 8, 8, 12, 16, 4, 6, 6, 8, 8, 8, 16, 16, 32, 4, 6, 6, 8, 8, 8, 4, 8][c]?).getD 0

/-- Integer formats (codes 0 to 12), MX formats (22 to 27), asymmetric ones (28, 29). -/
def fmtIsInt (c : Nat) : Bool := decide (c ≤ 12)
def fmtIsMx (c : Nat) : Bool := decide (22 ≤ c) && decide (c ≤ 27)
def fmtIsAsym (c : Nat) : Bool := c == 28 || c == 29
def fmtIsUnsigned (c : Nat) : Bool := c == 5 || c == 10 || fmtIsAsym c

/-- The floating element type of a format, MX elements included. -/
def fmtFloat (c : Nat) : Option FType :=
  if c = 13 ∨ c = 22 then some ⟨2, 1, true⟩
  else if c = 14 ∨ c = 23 then some ⟨2, 3, true⟩
  else if c = 15 ∨ c = 24 then some ⟨3, 2, true⟩
  else if c = 16 ∨ c = 25 then some ⟨4, 3, true⟩
  else if c = 17 ∨ c = 26 then some ⟨5, 2, true⟩
  else if c = 18 then some ⟨3, 4, true⟩
  else if c = 19 then some tFp16
  else if c = 20 then some tBf16
  else if c = 21 then some tFp32
  else none

/-- R82: the integer of an element. -/
def fmtInt (c x : Nat) : Int :=
  if c = 0 then (if x % 2 = 0 then 1 else -1)
  else if c = 1 then (if x % 4 = 1 then 1 else if x % 4 = 3 then -1 else 0)
  else if fmtIsUnsigned c then (x % 2 ^ fmtBits c : Nat)
  else signed (fmtBits c) x

/-- The value of an element; of an MX format without its scale (R86). -/
def fmtVal (c x : Nat) : Val :=
  match fmtFloat c with
  | some t => t.decode (x % 2 ^ t.width)
  | none => if c = 27 then (ofInt (signed 8 x)).scale (-6) else ofInt (fmtInt c x)

/-- The smallest and largest integer of an integer format. -/
def fmtMin (c : Nat) : Int :=
  if c ≤ 1 then -1 else if fmtIsUnsigned c then 0 else -((2 ^ (fmtBits c - 1) : Nat) : Int)
def fmtMax (c : Nat) : Int :=
  if c ≤ 1 then 1 else if fmtIsUnsigned c then (2 ^ fmtBits c : Nat) - 1 else (2 ^ (fmtBits c - 1) : Nat) - 1

/-- The code of an integer in an integer format (R82). -/
def fmtCode (c : Nat) (i : Int) : Nat :=
  if c = 0 then (if i < 0 then 1 else 0) else wrap (fmtBits c) i

/-! ## Integers of values -/

/-- A finite value rounded to an integer: the integer and whether it differs. -/
def Val.toInt (md : RMode) (v : Val) : Int × Bool :=
  match v with
  | .fin s m x =>
    let (u, d) := roundUnits md s m x 0
    (if s then -(u : Int) else u, d)
  | _ => (0, false)

/-- Floor(v / 2^q) of a finite value, and whether it is inexact. -/
def Val.floorAt (q : Int) (v : Val) : Int × Bool :=
  match v with
  | .fin s m x =>
    let (u, d) := roundUnits .rdn s m x q
    (if s then -(u : Int) else u, d)
  | _ => (0, false)

/-! ## Block-fixed form (R99) -/

/-- A converted block: its code, its words, whether it is inexact, whether it is invalid, and whether it held a NaN. -/
structure Block where
  code : Nat
  words : List Int
  inexact : Bool
  invalid : Bool
  nan : Bool
  deriving DecidableEq, Repr

def invalidBlock (n : Nat) (nan : Bool) : Block := ⟨255, List.replicate n 0, false, true, nan⟩

/-- The largest exponent among the non-zero values. -/
def maxLog (xs : List Val) : Option Int :=
  xs.foldl (fun a v => match v.log, a with
    | some l, some b => some (if b < l then l else b)
    | some l, none => some l
    | none, a => a) none

def anyNanInf (xs : List Val) : Bool := xs.any fun v => match v with | .nan _ _ _ => true | .inf _ => true | _ => false

def blockFix (w : Nat) (xs : List Val) : Block :=
  let nan := xs.any Val.isNan
  if anyNanInf xs then invalidBlock xs.length nan
  else
    let eb := match maxLog xs with | some l => l | none => -127
    if eb > 127 then invalidBlock xs.length false
    else
      let eb := if eb < -127 then -127 else eb
      let r := xs.map fun v => v.floorAt (eb - w + 2)
      ⟨(eb + 127).toNat, r.map (·.1), r.any (·.2), false, false⟩

/-! ## MX conversion (R89) -/

def mxEmax (c : Nat) : Int := if c = 22 ∨ c = 23 then 2 else if c = 24 then 4 else if c = 25 then 8 else if c = 26 then 16 else 0

/-- An element of an MX format from a value already divided by the scale: saturating at the largest finite magnitude of R80, with its
flags; MXINT8's −128 is beyond it (log 64). -/
def mxElem (c : Nat) (md : RMode) (v : Val) : Nat × Nat :=
  match fmtFloat c with
  | some t => t.encode md v
  | none =>
    let (i, d) := (v.scale 6).toInt md
    if i > 127 then (127, flagOF ||| flagNX)
    else if i < -127 then (129, flagOF ||| flagNX)
    else (wrap 8 i, if d then flagNX else 0)

/-- The scale, the element codes, the flags and the validity of a block. `md` gives each element's rounding. -/
def mxBlock (c : Nat) (md : Nat → RMode) (xs : List Val) : Nat × List Nat × Nat × Bool :=
  if anyNanInf xs then (255, xs.map fun _ => 0, if xs.any Val.isNan then flagNV else 0, false)
  else
    match maxLog xs with
    | none => (0, xs.map fun v => (mxElem c (md 0) v).1, 0, true)
    | some l =>
      let s := l - mxEmax c + 127
      let sc : Int := if s < 0 then 0 else if s > 254 then 254 else s
      let r := xs.zipIdx.map fun e => mxElem c (md e.2) (e.1.scale (127 - sc))
      (sc.toNat, r.map (·.1), r.foldl (fun f e => f ||| e.2) 0, true)

/-! ## Alias windows (R91) -/

/-- R90: s × (q − z) as an FP32 code. -/
def asymValue (s z q : Nat) : Nat :=
  let d : Int := (q : Int) - z
  match tFp16.decode s with
  | .nan sg f _ => tFp32.quiet sg f
  | .inf sg => if d = 0 then tFp32.defaultNan else signBit tFp32 (sg != decide (d < 0)) + tFp32.infCode
  | v => (tFp32.encode .rne ((mulExact v (ofInt d)).getD (.zero false))).1

/-- WINSCALEn as a number. -/
def Core.winscaleOf (k : Core) (win : Nat) : Nat := ((k.winscale.toList[win]?).getD 0).toNat

/-- R71: a read through W4 or W5 needs EN = 1 and GRP other than 0b11. -/
def windowEnabled (scale : Nat) : Bool := scale.testBit 31 && field scale 20 2 != 3

/-- R88: MX blocks in a segment, by the width of the format. -/
def segBlocks (fmt : Nat) : Nat := if fmtBits fmt = 8 then 1 else if fmtBits fmt = 6 then 2 else 3

/-- The FP32 code that a window delivers for the element at offset o under its WINSCALE value, and whether the scale was
0xFF (R87). -/
def windowRead (s : State) (c win scale o : Nat) : Nat × Bool :=
  let byte (a : Nat) : Nat := ofBytes (s.spadRead c (a % 524288) 1)
  let nibble : Nat := byte (o / 2) / (if o % 2 = 0 then 1 else 16) % 16
  let off := field scale 6 13 * 64
  let g := 32 * 2 ^ field scale 20 2
  let entry (i : Nat) : Nat := ofBytes (s.spadRead c ((off + 4 * i) % 524288) 4)
  if win = 1 then ((tFp32.encode .rne (fmtVal 16 (byte o))).1, false)
  else if win = 2 then ((tFp32.encode .rne (fmtVal 17 (byte o))).1, false)
  else if win = 3 then
    let sc := byte (off + o / 32)
    if sc = 255 then (0x7FC00000, true)
    else ((tFp32.encode .rne ((fmtVal 13 nibble).scale ((sc : Int) - 127))).1, false)
  else if win = 4 then
    let e := entry (o / g)
    (asymValue (e % 65536) (field e 16 4) nibble, false)
  else if win = 5 then
    let e := entry (o / g)
    (asymValue (e % 65536) (field e 16 8) (byte o), false)
  else if win = 6 then (65536 * ofBytes (s.spadRead c o 2), false)
  else (ofBytes (s.spadRead c o 4), false)

end Sys2Proof.Machine
end

