-- ==== Sys2Proof/Machine/Operands.lean ====
section
/-! DEFINITION. Operand forms: the low w bits of a register read as signed or unsigned and results extended (R112), the
immediates (R46), branch targets (R44, R122), and the integer operations of R113 to R121. -/
namespace Sys2Proof.Machine

/-- The low w bits of a word. -/
def lowU (w : Nat) (x : Word) : Nat := x.toNat % 2 ^ w

/-- The low w bits of a word, read as signed. -/
def lowS (w : Nat) (x : Word) : Int := signed w x.toNat

/-- A w-bit result extended by sign. -/
def extS (w : Nat) (r : Int) : Word := BitVec.ofInt 64 (signed w (wrap w r))

/-- A w-bit result extended by zeros. -/
def extU (w : Nat) (r : Nat) : Word := BitVec.ofNat 64 (r % 2 ^ w)

/-- SignExtend of an immediate of n bits (R46). -/
def immS (n : Nat) (imm : Nat) : Int := signed n imm

/-- R122, R44: the address n pairs from a pair. -/
def pairTarget (pair : Word) (n : Int) : Word := pair + BitVec.ofInt 64 (8 * n)

/-- The number of leading zero bits among w. -/
def clzOf (w x : Nat) : Nat := if x % 2 ^ w = 0 then w else w - 1 - log2 (x % 2 ^ w)

/-- The operations of R113 at width w, on the whole operands. -/
def aluAdd (w : Nat) (x y : Word) : Word := extS w (lowU w x + lowU w y : Nat)
def aluSub (w : Nat) (x y : Word) : Word := extS w ((lowU w x : Int) - lowU w y)
def aluAnd (w : Nat) (x y : Word) : Word := extS w (lowU w x &&& lowU w y : Nat)
def aluOr (w : Nat) (x y : Word) : Word := extS w (lowU w x ||| lowU w y : Nat)
def aluXor (w : Nat) (x y : Word) : Word := extS w (lowU w x ^^^ lowU w y : Nat)
def aluShl (w : Nat) (x y : Word) : Word := if y.toNat < w then extS w (lowU w x * 2 ^ y.toNat : Nat) else 0
def aluShr (w : Nat) (x y : Word) : Word := if y.toNat < w then extU w (lowU w x / 2 ^ y.toNat) else 0
def aluSar (w : Nat) (x y : Word) : Word := extS w (lowS w x / (2 ^ Nat.min y.toNat (w - 1) : Nat))
def aluMin (w : Nat) (x y : Word) : Word := extS w (if lowS w x ≤ lowS w y then lowS w x else lowS w y)
def aluMax (w : Nat) (x y : Word) : Word := extS w (if lowS w x ≥ lowS w y then lowS w x else lowS w y)
def aluMinn (w : Nat) (x y : Word) : Word := extU w (Nat.min (lowU w x) (lowU w y))
def aluMaxn (w : Nat) (x y : Word) : Word := extU w (Nat.max (lowU w x) (lowU w y))
def aluClz (w : Nat) (x : Word) : Word := extU w (clzOf w x.toNat)
def aluPopc (w : Nat) (x : Word) : Word := extU w (popcount w x.toNat)

/-- R117: products and quotients; R118: their edges. -/
def aluMul (w : Nat) (x y : Word) : Word := extS w (lowS w x * lowS w y)
def aluMulh (w : Nat) (x y : Word) : Word := extS w (lowS w x * lowS w y / (2 ^ w : Nat))
def aluMulhn (w : Nat) (x y : Word) : Word := extU w (lowU w x * lowU w y / 2 ^ w)
def aluDiv (w : Nat) (x y : Word) : Word := if lowU w y = 0 then extS w (-1) else extS w (Int.tdiv (lowS w x) (lowS w y))
def aluDivn (w : Nat) (x y : Word) : Word := if lowU w y = 0 then extU w (2 ^ w - 1) else extU w (lowU w x / lowU w y)
def aluRem (w : Nat) (x y : Word) : Word :=
  if lowU w y = 0 then extS w (lowS w x) else extS w (lowS w x - lowS w y * Int.tdiv (lowS w x) (lowS w y))
def aluRemn (w : Nat) (x y : Word) : Word := if lowU w y = 0 then extU w (lowU w x) else extU w (lowU w x % lowU w y)

/-- R119: the comparisons. -/
def CmpOp.holds (op : CmpOp) (w : Nat) (x y : Word) : Bool :=
  match op with
  | .eq => lowU w x == lowU w y
  | .ne => lowU w x != lowU w y
  | .lt => decide (lowS w x < lowS w y)
  | .ge => decide (lowS w x ≥ lowS w y)
  | .ltn => decide (lowU w x < lowU w y)
  | .gen => decide (lowU w x ≥ lowU w y)

/-- R121: the field of a word, and its insertion. -/
def bfxU (x : Word) (pos len : Nat) : Word := zext len (field x.toNat pos len)
def bfxS (x : Word) (pos len : Nat) : Word := sext len (field x.toNat pos len)
def bfiOf (old x : Word) (pos len : Nat) : Word :=
  BitVec.ofNat 64 (old.toNat % 2 ^ pos + 2 ^ pos * (x.toNat % 2 ^ len) + 2 ^ (pos + len) * (old.toNat / 2 ^ (pos + len)))

end Sys2Proof.Machine
end

