-- ==== Sys2Proof/Machine/Lanes.lean ====
section
/-! DEFINITION. What a vector word computes in the lanes from its operands as they stand at lane start (R130 to R156, R104,
R105): element operations, conversions, approximations, reductions, permutations, masks and random numbers. -/
namespace Sys2Proof.Machine

/-! ## Elements -/

/-- What a vector word writes: result parts with their bits, flags, its length for the lane occupancy, and its depth. -/
structure LaneOut where
  outs : List (Dst × Nat × Nat) := []
  flags : Nat := 0
  vl : Nat := 0
  width : Nat := 32
  depth : Nat := 2
  deriving DecidableEq, Repr

/-- Element i of width w of a register. -/
def elemAt (v : Nat) (w i : Nat) : Nat := v / 2 ^ (w * i) % 2 ^ w

/-- The elements below vl whose mask bit is 1 (R131). -/
def activeList (m : BitVec 8192) (vl : Nat) : List Nat := (List.range vl).filter fun i => m.getLsbD i

/-- Elements at their places: the value and the written bits. -/
def packAt (w : Nat) (l : List (Nat × Nat)) : Nat × Nat :=
  l.foldl (fun a e => (a.1 + e.2 % 2 ^ w * 2 ^ (w * e.1), a.2 ||| (2 ^ w - 1) * 2 ^ (w * e.1))) (0, 0)

/-- Bits at their places. -/
def packBits (l : List (Nat × Bool)) : Nat × Nat :=
  l.foldl (fun a e => (a.1 + (if e.2 then 2 ^ e.1 else 0), a.2 ||| 2 ^ e.1)) (0, 0)

/-- The validity register of a vector register (R134). -/
def qOf (r : VecReg) : QReg := Fin.ofNat 4 (r.val / 8)

/-- The validity bit of block j of a vector register. -/
def Strand.valid (x : Strand) (r : VecReg) (j : Nat) : Bool := (x.rq (qOf r)).getLsbD j

/-- The blocks of a list of element indices. -/
def blockList (l : List Nat) : List Nat := (l.map (· / 32)).eraseDups

/-- R134: the validity bits that a word with vector sources writes: for each destination block, whether every source block
its elements took data from is valid. -/
def validOut (x : Strand) (d : VecReg) (srcs : List (Nat × List (VecReg × Nat))) : Dst × Nat × Nat :=
  let bits := (blockList (srcs.map (·.1))).map fun j =>
    (j, (srcs.filter fun e => e.1 / 32 == j).all fun e => e.2.all fun r => x.valid r.1 (r.2 / 32))
  let b := packBits bits
  (.q (qOf d), b.1, b.2)

/-- R134: the validity of sources that stand element for element beside the destination, block by block. -/
def validSame (x : Strand) (d : VecReg) (act : List Nat) (rs : List VecReg) : Dst × Nat × Nat :=
  let b := packBits ((blockList act).map fun j => (j, rs.all fun r => x.valid r j))
  (.q (qOf d), b.1, b.2)

/-- The element length limit of words that take 32-bit random words beside their elements, and the block of v[d + 1] that element i
takes its word from (R145). -/
def rstBlock (vmax i : Nat) : Nat := i % vmax / 32

/-- R134, R145: the validity of a conversion's sources: va's blocks and, under .RST, those of v[d + 1] that gave random words. -/
def validCvt (x : Strand) (d a : VecReg) (rnd : Rnd) (vmax : Nat) (act : List Nat) : Dst × Nat × Nat :=
  validOut x d (act.map fun i => (i, (a, i) :: if rnd = .rst then [(d + 1, 32 * rstBlock vmax i)] else []))

/-- R134: validity 1 for the blocks of words without vector sources. -/
def validOne (d : VecReg) (act : List Nat) : Dst × Nat × Nat :=
  let b := packBits ((blockList act).map fun j => (j, true))
  (.q (qOf d), b.1, b.2)

/-- An element-wise result of elements i ↦ (value, flags). -/
def mapOut (x : Strand) (d : VecReg) (w depth vl : Nat) (act : List Nat) (rs : List VecReg) (f : Nat → Nat × Nat) : LaneOut :=
  let r := act.map fun i => (i, f i)
  let p := packAt w (r.map fun e => (e.1, e.2.1))
  { outs := [(.v d, p.1, p.2), validSame x d act rs]
    flags := r.foldl (fun a e => a ||| e.2.2) 0, vl := vl, width := w, depth := depth }

/-- A mask result. -/
def maskOut (d : MReg) (w vl : Nat) (r : List (Nat × Bool × Nat)) : LaneOut :=
  let p := packBits (r.map fun e => (e.1, e.2.1))
  { outs := [(.m d, p.1, p.2)], flags := r.foldl (fun a e => a ||| e.2.2) 0, vl := vl, width := w, depth := 2 }

/-! ## Integer operations (R141) -/

/-- An operation of words used on w bits. -/
def onBits (w : Nat) (f : Word → Word → Word) (a b : Nat) : Nat := (f (BitVec.ofNat 64 a) (BitVec.ofNat 64 b)).toNat % 2 ^ w

def VAluOp.run (op : VAluOp) (w a b : Nat) : Nat :=
  match op with
  | .add => onBits w (aluAdd w) a b
  | .sub => onBits w (aluSub w) a b
  | .mul => onBits w (aluMul w) a b
  | .mulh => onBits w (aluMulh w) a b
  | .min => onBits w (aluMin w) a b
  | .max => onBits w (aluMax w) a b
  | .minn => onBits w (aluMinn w) a b
  | .maxn => onBits w (aluMaxn w) a b
  | .and => a &&& b
  | .or => a ||| b
  | .xor => a ^^^ b
  | .shl => onBits w (aluShl w) a b
  | .shr => onBits w (aluShr w) a b
  | .sar => onBits w (aluSar w) a b
  | .abs => wrap w (signed w a).natAbs
  | .neg => wrap w (-(signed w a))

/-- Whether the operation reads b. -/
def VAluOp.binary : VAluOp → Bool
  | .abs | .neg => false
  | _ => true

/-! ## Floating operations (R142, R143) -/

/-- Whether a < b with −0 below +0. -/
def Val.below (a b : Val) : Bool := a.lt b || (a.isZero && b.isZero && a.sign && !b.sign)

/-- VFMIN (`less` true) and VFMAX. -/
def fpPick (t : FType) (less : Bool) (ca cb : Nat) : Nat × Nat :=
  let a := t.decode ca
  let b := t.decode cb
  let nv := if a.isSig || b.isSig then flagNV else 0
  if a.isNan && b.isNan then (match nanOf t [a, b] with | some r => (r.1, nv) | none => (ca, nv))
  else if a.isNan then (cb, nv)
  else if b.isNan then (ca, nv)
  else (if less then (if b.below a then cb else ca) else (if a.below b then cb else ca), nv)

def VFpOp.run (op : VFpOp) (t : FType) (md : RMode) (a b d : Nat) : Nat × Nat :=
  let va := t.decode a
  let vb := t.decode b
  let vd := t.decode d
  match op with
  | .add => fpAdd t md va vb
  | .sub => fpSub t md va vb
  | .mul => fpMul t md va vb
  | .fma => fpFma t md va vb vd
  | .fms => fpFma t md va vb (if vd.isNan then vd else vd.neg)
  | .min => fpPick t true a b
  | .max => fpPick t false a b
  | .abs => (a % 2 ^ (t.e + t.m), 0)
  | .neg => (a ^^^ 2 ^ (t.e + t.m), 0)

/-- The vector sources of a floating word. -/
def VFpOp.srcs (op : VFpOp) (d a b : VecReg) : List VecReg :=
  match op with
  | .fma | .fms => [a, b, d]
  | .abs | .neg => [a]
  | _ => [a, b]

def FCmpOp.run (op : FCmpOp) (t : FType) (ca cb : Nat) : Bool × Nat :=
  let a := t.decode ca
  let b := t.decode cb
  let un := a.isNan || b.isNan
  let sg := if a.isSig || b.isSig then flagNV else 0
  match op with
  | .feq => (a.eqv b, sg)
  | .fne => (!a.eqv b, sg)
  | .flt => (!un && a.lt b, if un then flagNV else 0)
  | .fge => (!un && !a.lt b, if un then flagNV else 0)
  | .unord => (un, sg)

/-! ## Conversions (R144 to R148) -/

/-- The rounding of an element: FPCTL's under .DYN, and the element's random word under .RST. -/
def rndMode (r : Rnd) (dyn : RMode) (word : Nat) : RMode :=
  match r with
  | .dyn => dyn
  | .rne => .rne
  | .rtz => .rtz
  | .rdn => .rdn
  | .rup => .rup
  | .rst => .rst word

/-- R95, R145: a value delivered in an integer format. -/
def intOf (c : Nat) (md : RMode) (v : Val) : Nat × Nat :=
  match v with
  | .nan _ _ _ => (0, flagNV)
  | .inf s => if c = 0 then (if s then 1 else 0, flagNX) else (fmtCode c (if s then fmtMin c else fmtMax c), flagNV)
  | _ =>
    if c = 0 then
      (if v.sign then 1 else 0, if v.eqv (ofInt 1) || v.eqv (ofInt (-1)) then 0 else flagNX)
    else
      let (i, d) := v.toInt md
      if i > fmtMax c then (fmtCode c (fmtMax c), flagNV)
      else if i < fmtMin c then (fmtCode c (fmtMin c), flagNV)
      else (fmtCode c i, if d then flagNX else 0)

/-- The element length of a conversion between widths wt and wf (R144). -/
def cvtLen (vl e1 e2 : Nat) (block : Bool) (vlmax : Nat) : Nat :=
  let n := Nat.min vl (Nat.min e1 e2)
  if block then Nat.min n vlmax else n

/-- The byte j of an exponent companion. -/
def Strand.code (x : Strand) (r : VecReg) (j : Nat) : Nat := bits (x.rbe r) (8 * j) 8

/-- VCVT to an MX format: block by block over the active elements; elements at or above vl keep their values (R66, R89, R145).
`srcs` answers whether an element's sources are valid. -/
def cvtMx (x : Strand) (d a : VecReg) (c : Nat) (t : FType) (md : Nat → RMode) (vl : Nat) (act : List Nat) (srcs : Nat → Bool) :
    LaneOut :=
  let w := fmtBits c
  let src := (x.rv a).toNat
  let r := (blockList act).map fun j =>
    let es := act.filter fun i => i / 32 == j
    let b := mxBlock c (fun k => md ((es[k]?).getD 0)) (es.map fun i => t.decode (elemAt src t.width i))
    (j, es, b)
  let elems := (r.flatMap fun e => (List.range 32).map fun k =>
    (32 * e.1 + k, match e.2.1.idxOf? (32 * e.1 + k) with | some p => (e.2.2.2.1[p]?).getD 0 | none => 0)).filter fun p => decide (p.1 < vl)
  let p := packAt w elems
  let be := packAt 8 (r.map fun e => (e.1, e.2.2.1))
  let q := packBits (r.map fun e => (e.1, e.2.2.2.2.2 && e.2.1.all srcs))
  { outs := [(.v d, p.1, p.2), (.be d, be.1, be.2), (.q (qOf d), q.1, q.2)]
    flags := r.foldl (fun f e => f ||| e.2.2.2.2.1) 0, vl := vl, width := t.width, depth := 3 }

/-- VQNT (R146). -/
def quant (x : Strand) (d a : VecReg) (c : Nat) (t : FType) (vl : Nat) (act : List Nat) : LaneOut :=
  let w := fmtBits c
  let src := (x.rv a).toNat
  let r := (blockList act).map fun j =>
    (j, blockFix w ((List.range 32).map fun k =>
      if act.contains (32 * j + k) then t.decode (elemAt src t.width (32 * j + k)) else .zero false))
  let elems := r.flatMap fun e => (e.2.words.zipIdx.map fun p => (32 * e.1 + p.2, wrap w p.1)).filter fun p => decide (p.1 < vl)
  let p := packAt w elems
  let be := packAt 8 (r.map fun e => (e.1, e.2.code))
  let q := packBits (r.map fun e => (e.1, !e.2.invalid && x.valid a e.1))
  let fl (b : Block) : Nat := (if b.inexact then flagNX else 0) ||| (if b.nan then flagNV else 0)
  { outs := [(.v d, p.1, p.2), (.be d, be.1, be.2), (.q (qOf d), q.1, q.2)]
    flags := r.foldl (fun f e => f ||| fl e.2) 0, vl := vl, width := t.width, depth := 3 }

/-- Whether a format carries a block code in VDQNT and VCVT: INT16, INT8, INT4, INT2 and the MX formats. -/
def isBlockFmt (c : Nat) : Bool := c == 12 || c == 9 || c == 4 || c == 2 || fmtIsMx c

/-- VDQNT (R147). -/
def dequant (x : Strand) (d a : VecReg) (c : Nat) (t : FType) (md : RMode) (vl : Nat) (act : List Nat) : LaneOut :=
  let w := fmtBits c
  let src := (x.rv a).toNat
  let blk := isBlockFmt c
  let bad (j : Nat) : Bool := blk && (x.code a j == 255 || !x.valid a j)
  let r := act.map fun i =>
    let e := elemAt src w i
    let code : Int := x.code a (i / 32)
    let v := if fmtIsMx c then (fmtVal c e).scale (code - 127)
      else if blk then (ofInt (signed w e)).scale (code - w - 125)
      else fmtVal c e
    (i, if bad (i / 32) then (t.defaultNan, 0) else t.encode md v)
  let p := packAt t.width (r.map fun e => (e.1, e.2.1))
  let q := packBits ((blockList act).map fun j => (j, x.valid a j && !bad j))
  { outs := [(.v d, p.1, p.2), (.q (qOf d), q.1, q.2)]
    flags := r.foldl (fun f e => f ||| e.2.2) 0, vl := vl, width := t.width, depth := 3 }

/-- VRNDI of one element (R148). -/
def roundInt (t : FType) (md : RMode) (c : Nat) : Nat × Nat :=
  match t.decode c with
  | .nan s f g => (t.quiet s f, if g then flagNV else 0)
  | .fin s m x =>
    let (u, d) := roundUnits md s m x 0
    ((t.encode .rne (if u = 0 then .zero s else .fin s u 0)).1, if d then flagNX else 0)
  | _ => (c, 0)

/-! ## Approximations (R149, R150) -/

/-- p / q · 2^x, p and q positive, rounded to 14 significant bits, ties to even: a value m · 2^y. -/
def rne14 (p q : Nat) (x : Int) : Nat × Int :=
  let k : Int := 14 + (log2 q : Int) - (log2 p : Int)
  let n := p * 2 ^ k.toNat
  let d := q * 2 ^ (-k).toNat
  let u := n / d
  let (d, u, k) := if u ≥ 2 ^ 14 then (2 * d, n / (2 * d), k - 1) else (d, u, k)
  let r := n % d
  let u := if 2 * r > d ∨ (2 * r = d ∧ u % 2 = 1) then u + 1 else u
  (u, x - k)

/-- Floor(√(2^(2k) / a)) below 2^14. -/
def rootBits (a k : Nat) : Nat :=
  (List.range 14).foldl (fun n i => let m := n + 2 ^ (13 - i); if m * m * a ≤ 2 ^ (2 * k) then m else n) 0

/-- 1 / √(a · 2^e) rounded to 14 significant bits, for 2^13 < a < 2^15. -/
def rsq14 (a : Nat) (e : Int) : Nat × Int :=
  let (a, e) := if e % 2 = 0 then (a, e) else (2 * a, e - 1)
  let k := if a ≤ 2 ^ 14 then 20 else if a ≤ 2 ^ 16 then 21 else 22
  let n := rootBits a k
  let n := if (2 * n + 1) * (2 * n + 1) * a < 2 ^ (2 * k + 2) then n + 1 else n
  (n, -(e / 2) - (k : Int))

/-- ln 2 in units of 2^−192. -/
def ln2Fix : Nat := 4350955369971217654477563090224794165364344896676135745069

/-- The sum of z^n / n! in units of 2^−192, n from i. -/
def expSeries (z : Nat) : Nat → Nat → Nat → Nat
  | 0, _, _ => 0
  | n + 1, i, term => term + expSeries z n (i + 1) (term * z / 2 ^ 192 / (i + 1))

/-- 2^f in units of 2^−192, f in units of 2^−192 below 1. -/
def exp2Fix (f : Nat) : Nat := expSeries (f * ln2Fix / 2 ^ 192) 60 0 (2 ^ 192)

/-- The sum of y^(2n+1) / (2n+1) in units of 2^−192. -/
def atanhSeries (y2 : Nat) : Nat → Nat → Nat → Nat
  | 0, _, _ => 0
  | n + 1, i, p => p / (2 * i + 1) + atanhSeries y2 n (i + 1) (p * y2 / 2 ^ 192)

/-- log2 of m / 2^23 in units of 2^−192, for 2^23 ≤ m < 2^24. -/
def log2Fix (m : Nat) : Nat :=
  let y := (m - 2 ^ 23) * 2 ^ 192 / (m + 2 ^ 23)
  2 * atanhSeries (y * y / 2 ^ 192) 64 0 y * 2 ^ 192 / ln2Fix

/-- A non-zero FP32 magnitude m · 2^x as a significand of 24 bits and the exponent of its leading bit. -/
def normal24 (m : Nat) (x : Int) : Nat × Int :=
  let l := log2 m
  (if l ≤ 23 then m * 2 ^ (23 - l) else m / 2 ^ (l - 23), x + (l : Int))

/-- The significand of a finite value as an integer, with the hidden bit for normals (R107). -/
def Val.significand : Val → Option Nat
  | .zero _ => some 0
  | .fin _ m _ => some m
  | _ => none

/-- The truncated significand of VRCPA and VRSQA: x̂ = a · 2^(e − 13). -/
def truncated (m : Nat) (x : Int) : Nat × Int :=
  let (n, e) := normal24 m x
  (2 * (n / 2 ^ 11) + 1, e)

/-- A result of 14 bits in FP32's range, overflow and underflow as R150 says. -/
def fp32Range (s : Bool) (r : Nat × Int) : Val × Nat :=
  let l := r.2 + (log2 r.1 : Int)
  if l > 127 then (.inf s, flagOF ||| flagNX)
  else if l < -126 then (.zero s, flagUF ||| flagNX)
  else (.fin s r.1 r.2, 0)

/-- 2^x of a finite non-zero x (R149, R150). -/
def exp2Val (s : Bool) (m : Nat) (x : Int) : Val × Nat :=
  let v : Val := .fin s m x
  if !v.lt (ofInt 128) then (.inf false, flagOF ||| flagNX)
  else if v.lt (ofInt (-128)) then (.zero false, flagUF ||| flagNX)
  else
    let fl := v.floorAt 0
    let (num, sc) : Nat × Nat := if x ≥ 0 then (m * 2 ^ x.toNat, 0) else (m, (-x).toNat)
    let fracUp := if sc = 0 then 0 else num % 2 ^ sc
    let frac := if s && fracUp ≠ 0 then 2 ^ sc - fracUp else fracUp
    if frac = 0 then fp32Range false (1, fl.1)
    else fp32Range false (rne14 (exp2Fix (frac * 2 ^ 192 / 2 ^ sc)) (2 ^ 192) fl.1)

/-- log2 x of a positive finite x. -/
def log2Val (m : Nat) (x : Int) : Val × Nat :=
  let (n, e) := normal24 m x
  let f : Int := log2Fix n
  let v : Int := e * (2 ^ 192 : Nat) + (if n = 2 ^ 23 then 0 else f)
  if v = 0 then (.zero false, 0)
  else fp32Range (v < 0) (rne14 v.natAbs (2 ^ 192) 0)

/-- An approximation of one FP32 value that is not a NaN. -/
def SpecOp.run32 (op : SpecOp) (v : Val) : Val × Nat :=
  match op, v with
  | .rcp, .zero s => (.inf s, flagDZ)
  | .rcp, .inf s => (.zero s, 0)
  | .rcp, .fin s m x => let (a, e) := truncated m x; fp32Range s (rne14 1 a (13 - e))
  | .rsq, .zero s => (.inf s, flagDZ)
  | .rsq, .inf false => (.zero false, 0)
  | .rsq, .fin false m x => let (a, e) := truncated m x; fp32Range false (rsq14 a (e - 13))
  | .exp2, .zero _ => (ofInt 1, 0)
  | .exp2, .inf s => (if s then .zero false else .inf false, 0)
  | .exp2, .fin s m x => exp2Val s m x
  | .log2, .zero _ => (.inf true, flagDZ)
  | .log2, .inf false => (.inf false, 0)
  | .log2, .fin false m x => log2Val m x
  | _, _ => (.nan false (2 ^ 22) false, flagNV)

def SpecOp.run (op : SpecOp) (t : FType) (c : Nat) : Nat × Nat :=
  match t.decode c with
  | .nan s f g => (t.quiet s f, if g then flagNV else 0)
  | v =>
    let (r, fl) := op.run32 v
    let (c, fl2) := t.encode .rne r
    (c, fl ||| fl2)

/-! ## Reductions and scans (R104, R105, R151 to R153) -/

def redWidth : RedT → Nat
  | .sint e => e.bits
  | .uint e => e.bits
  | .flt e => e.bits

/-- Op at a node. -/
def redStep (op : RedOp) (k : RedT) (md : RMode) (a b : Nat) : Nat × Nat :=
  match k, op with
  | .flt e, .sum => fpAdd (ftypeOf e) md ((ftypeOf e).decode a) ((ftypeOf e).decode b)
  | .flt e, .max => fpPick (ftypeOf e) false a b
  | .flt e, .min => fpPick (ftypeOf e) true a b
  | k, .sum => ((a + b) % 2 ^ redWidth k, 0)
  | .uint _, .max => (Nat.max a b, 0)
  | .uint _, .min => (Nat.min a b, 0)
  | k, .max => (VAluOp.run .max (redWidth k) a b, 0)
  | k, .min => (VAluOp.run .min (redWidth k) a b, 0)

/-- The value of an absent result. -/
def absentOf (op : RedOp) (k : RedT) : Nat :=
  match k, op with
  | .flt _, .sum => 0
  | .flt e, .max => signBit (ftypeOf e) true + (ftypeOf e).infCode
  | .flt e, .min => (ftypeOf e).infCode
  | _, .sum => 0
  | .uint _, .max => 0
  | .uint e, .min => 2 ^ e.bits - 1
  | .sint e, .max => 2 ^ (e.bits - 1)
  | .sint e, .min => 2 ^ (e.bits - 1) - 1

/-- One level of the tree. -/
def treeLevel (f : Nat → Nat → Nat × Nat) : List (Option Nat) → List (Option Nat) × Nat
  | some a :: some b :: t => let (c, fl) := f a b; let (r, g) := treeLevel f t; (some c :: r, fl ||| g)
  | none :: b :: t => let (r, g) := treeLevel f t; (b :: r, g)
  | a :: none :: t => let (r, g) := treeLevel f t; (a :: r, g)
  | l => (l, 0)

/-- The tree of R104, level by level; absent elements above the length change nothing. -/
def treeReduce (f : Nat → Nat → Nat × Nat) : Nat → List (Option Nat) → Option Nat × Nat
  | 0, l => ((l.head?).getD none, 0)
  | n + 1, l =>
    match l with
    | [] => (none, 0)
    | [a] => (a, 0)
    | _ => let (r, fl) := treeLevel f l; let (v, g) := treeReduce f n r; (v, fl ||| g)

/-- One step of the prefix of R105. -/
def scanStep (f : Nat → Nat → Nat × Nat) (d : Nat) (y : List Nat) : List Nat × Nat :=
  let r := (y.take d).map (fun a => (a, 0)) ++ (y.zip (y.drop d)).map fun e => f e.1 e.2
  (r.map (·.1), r.foldl (fun a e => a ||| e.2) 0)

def scanAll (f : Nat → Nat → Nat × Nat) : Nat → Nat → List Nat → List Nat × Nat
  | 0, _, y => (y, 0)
  | n + 1, d, y =>
    if d < y.length then
      let (r, fl) := scanStep f d y
      let (v, g) := scanAll f n (2 * d) r
      (v, fl ||| g)
    else (y, 0)

/-- The identity under which inactive elements enter a scan (R105). -/
def scanIdentity (op : RedOp) (k : RedT) : Nat :=
  match k, op with
  | .flt e, .sum => signBit (ftypeOf e) true
  | k, op => absentOf op k

def scanRed : ScanOp → RedOp
  | .sum => .sum
  | .max => .max
  | .min => .min

/-- VDOT4 of one element (R153). -/
def dot4Elem (a b d : Nat) : Nat :=
  wrap 32 ((List.range 4).foldl (fun (t : Int) k => t + signed 8 (elemAt a 8 k) * signed 8 (elemAt b 8 k)) (signed 32 d))

/-! ## Random numbers (R156) -/

def philoxRound (c : Nat × Nat × Nat × Nat) (k : Nat × Nat) : Nat × Nat × Nat × Nat :=
  let p0 := 0xD2511F53 * c.1
  let p1 := 0xCD9E8D57 * c.2.2.1
  (p1 / 2 ^ 32 ^^^ c.2.1 ^^^ k.1, p1 % 2 ^ 32, p0 / 2 ^ 32 ^^^ c.2.2.2 ^^^ k.2, p0 % 2 ^ 32)

def philox : Nat → Nat × Nat × Nat × Nat → Nat × Nat → Nat × Nat × Nat × Nat
  | 0, c, _ => c
  | n + 1, c, k => philox n (philoxRound c k) ((k.1 + 0x9E3779B9) % 2 ^ 32, (k.2 + 0xBB67AE85) % 2 ^ 32)

def vrngElem (w key base i : Nat) : Nat :=
  let c := (base + i) % 2 ^ 64
  let r := philox 10 (c % 2 ^ 32, c / 2 ^ 32, 0, 0) (key % 2 ^ 32, key / 2 ^ 32)
  if w = 64 then r.2.1 * 2 ^ 32 + r.1 else r.1 % 2 ^ w

end Sys2Proof.Machine
end

