-- ==== Sys2Proof/Machine/VecRun.lean ====
section
/-! DEFINITION. The vector words of 06_vector_instr.md at lane start: which registers each reads and writes (R132, R134), its
poison and residue checks (R78, R107), and its result. -/
namespace Sys2Proof.Machine

/-! ## Registers of a vector word -/

/-- The mask that makes elements active; a selector mask is no activity mask (R131). -/
def VOp.actMask : VOp → Option MReg
  | .alu _ _ _ _ m _ | .fp _ _ _ _ m _ | .cmp _ _ _ _ m _ | .fcmp _ _ _ _ m _ => some m
  | .cvt _ _ _ m _ _ | .qnt _ _ _ m _ | .dqnt _ _ _ m _ _ | .rndi _ _ m _ _ | .spec _ _ _ m _ => some m
  | .red _ _ _ _ m | .scan _ _ _ _ m | .dot4 _ _ _ m => some m
  | .perm op _ _ m _ => match op with | .comp | .expd => none | _ => some m
  | .bcast _ _ m _ | .rng _ _ _ m _ => some m
  | .load _ _ m _ _ | .store _ _ m _ _ | .amo _ _ _ _ m _ _ | .famo _ _ _ m _ _ | .sld _ _ m _ | .sst _ _ m _ => some m
  | _ => none

/-- The width of the elements a word reads. -/
def VOp.width : VOp → Nat
  | .alu _ _ _ _ _ e | .sel _ _ _ _ e | .cmp _ _ _ _ _ e | .perm _ _ _ _ e | .iota _ _ e | .bcast _ _ _ e | .extr _ _ _ e
  | .ins _ _ _ e | .mask _ _ _ _ e | .mnot _ _ e | .mcnt _ _ e | .mfirst _ _ e | .qand _ _ _ e | .qclr _ _ e | .rng _ _ _ _ e
  | .load _ _ _ e _ | .store _ _ _ e _ | .amo _ _ _ _ _ e _ | .sld _ _ _ e | .sst _ _ _ e => e.bits
  | .fp _ _ _ _ _ e | .fcmp _ _ _ _ _ e | .cvt _ _ _ _ e _ | .qnt _ _ _ _ e | .rndi _ _ _ e _ | .spec _ _ _ _ e
  | .famo _ _ _ _ e _ => e.bits
  | .dqnt _ _ f _ _ _ => fmtBits f
  | .red _ _ _ k _ | .scan _ _ _ k _ => redWidth k
  | .seg _ _ f _ => fmtBits f
  | .hplane _ _ _ f _ => fmtBits f
  | .hwrite .. => 64
  | _ => 32

/-- The rows that a group of n registers of vl elements holds, from row0 (R178, R179). -/
def groupRows (row0 n vl : Nat) : Nat := Nat.min (128 - row0) (n * vl / 128)

/-- Vector registers of a group. -/
def groupRegs (vb : VecReg) (n : Nat) : List VecReg := (List.range n).map fun i => Fin.ofNat 32 (vb.val + i)

/-- The vector registers whose elements a word reads. -/
def VOp.vecs : VOp → List VecReg
  | .alu op _ a b _ _ => if op.binary then [a, b] else [a]
  | .sel _ a b _ _ => [a, b]
  | .fp op d a b _ _ => op.srcs d a b
  | .cmp _ _ a b _ _ => [a, b]
  | .fcmp _ _ a b _ _ => [a, b]
  | .cvt d a _ _ _ rnd => if rnd = .rst then [a, d + 1] else [a]
  | .qnt _ a _ _ _ => [a]
  | .dqnt _ a _ _ _ _ => [a]
  | .rndi d a _ _ rnd => if rnd = .rst then [a, d + 1] else [a]
  | .spec _ _ a _ _ => [a]
  | .red _ d a _ _ => [a, d]
  | .scan _ _ a _ _ => [a]
  | .dot4 d a b _ => [a, b, d]
  | .perm op _ a _ _ => match op with | .perm b => [a, b] | _ => [a]
  | .extr _ a _ _ => [a]
  | .store d ad _ _ _ => match ad with | .index _ b => [d, b] | _ => [d]
  | .load _ ad _ _ _ => match ad with | .index _ b => [b] | _ => []
  | .seg d _ _ _ => [d]
  | .amo _ d _ b _ _ _ => [d, b]
  | .famo d _ b _ _ _ => [d, b]
  | .sst d _ _ _ => [d]
  | .hplane vb _ _ _ n => groupRegs vb n
  | .hwrite _ vb _ n _ => groupRegs vb n
  | .push _ _ vb _ n => groupRegs vb n
  | _ => []

/-- The mask, validity and exponent registers that a word reads besides. -/
def VOp.others : VOp → List Dst
  | .sel _ _ _ m _ => [.m m]
  | .perm op _ _ m _ => match op with | .comp | .expd => [.m m] | _ => []
  | .iota _ m _ => [.m m]
  | .mask _ _ a b _ => [.m a, .m b]
  | .mnot _ a _ => [.m a]
  | .mcnt _ a _ => [.m a]
  | .mfirst _ a _ => [.m a]
  | .qand _ a b _ => [.q a, .q b]
  | .qclr _ a _ => [.m a]
  | .dqnt _ a f _ _ _ => if isBlockFmt f then [.be a] else []
  | .seg d _ _ _ => [.be d]
  | .hplane vb _ _ f n => if fmtIsMx f then (groupRegs vb n).map .be else []
  | .sld _ st _ _ => [.st st]
  | .sst _ st _ _ => [.st st]
  | _ => []

/-- Whether the word rounds in FPCTL's mode (R132). -/
def VOp.rounds : VOp → Bool
  | .fp op .. => match op with | .add | .sub | .mul | .fma | .fms => true | _ => false
  | .cvt _ _ _ _ _ rnd | .dqnt _ _ _ _ _ rnd | .rndi _ _ _ _ rnd => rnd == .dyn
  | .red _ _ _ k _ | .scan _ _ _ k _ => match k with | .flt _ => true | _ => false
  | .famo .. => true
  | .hread .. => true
  | _ => false

/-- Whether validity of the vector sources is read. -/
def VOp.readsValid : VOp → Bool
  | .cmp .. | .fcmp .. | .extr .. | .amo .. | .famo .. | .load .. | .sld .. => false
  | _ => true

/-- The vector, exponent, mask, validity and stream registers that a word reads at lane start, for which a free word waits (R132). -/
def VOp.srcs (op : VOp) : List Dst :=
  op.vecs.map .v ++ (match op.actMask with | some m => if m = 0 then [] else [.m m] | none => []) ++ op.others ++
  (if op.readsValid then (op.vecs.map fun r => .q (qOf r)).eraseDups else [])

/-- The registers that a word writes. -/
def VOp.results : VOp → List Dst
  | .alu _ d _ _ _ _ | .sel d _ _ _ _ | .fp _ d _ _ _ _ | .dqnt d _ _ _ _ _ | .rndi d _ _ _ _ | .spec _ d _ _ _
  | .red _ d _ _ _ | .scan _ d _ _ _ | .dot4 d _ _ _ | .perm _ d _ _ _ | .iota d _ _ | .bcast d _ _ _ | .ins d _ _ _
  | .rng d _ _ _ _ | .load d _ _ _ _ | .sld d _ _ _ => [.v d]
  | .cvt d _ f _ _ _ => if fmtIsMx f then [.v d, .be d] else [.v d]
  | .qnt d _ _ _ _ => [.v d, .be d]
  | .cmp _ d _ _ _ _ | .fcmp _ d _ _ _ _ => [.m d]
  | .mask _ d _ _ _ => [.m d]
  | .mnot d _ _ => [.m d]
  | .qand d _ _ _ => [.q d]
  | .qclr d _ _ => [.q d]
  | .hread _ vb _ _ n _ => (groupRegs vb n).map .v
  | _ => []

/-- The registers that a word writes, with the validity of its vector results (R73, R132, R134). -/
def VOp.dsts (op : VOp) : List Dst :=
  op.results ++ (op.results.filterMap fun d => match d with | .v r => some (.q (qOf r)) | _ => none).eraseDups

/-- The element length of a word (R130, R144, R212), VLMAX32 and VL given. -/
def VOp.len (op : VOp) (vmax vl : Nat) : Nat :=
  let emax (w : Nat) : Nat := vmax * 32 / w
  match op with
  | .cvt _ _ f _ e _ => cvtLen vl (emax e.bits) (emax (fmtBits f)) (fmtIsMx f) vmax
  | .qnt _ _ f _ e => cvtLen vl (emax e.bits) (emax (fmtBits f)) true vmax
  | .dqnt _ _ f _ e _ => cvtLen vl (emax e.bits) (emax (fmtBits f)) (isBlockFmt f) vmax
  | .load _ (.index _ _) _ e _ | .store _ (.index _ _) _ e _ => Nat.min vl (Nat.min (emax e.bits) vmax)
  | .amo _ _ _ _ _ e _ => Nat.min vl (Nat.min (emax e.bits) vmax)
  | .famo _ _ _ _ e _ => Nat.min vl (Nat.min (emax e.bits) vmax)
  | .seg .. => Nat.min vl vmax
  | .hplane _ _ _ f _ => if fmtIsMx f then Nat.min vl (Nat.min (emax (fmtBits f)) vmax) else Nat.min vl (emax (fmtBits f))
  | op => Nat.min vl (emax op.width)

/-- The elements of a word that count as used. -/
def VOp.active (op : VOp) (x : Strand) (vl : Nat) : List Nat :=
  match op.actMask with
  | some m => activeList (x.rm m) vl
  | none => List.range vl

/-- The elements of vector registers that a word uses (R78): register, width and indices. -/
def VOp.elems (op : VOp) (x : Strand) (vmax vl0 : Nat) : List (VecReg × Nat × List Nat) :=
  let vl := op.len vmax vl0
  let w := op.width
  let act := op.active x vl
  let all (rs : List VecReg) : List (VecReg × Nat × List Nat) := rs.map fun r => (r, w, act)
  let random (r : VecReg) : VecReg × Nat × List Nat := (r, 32, (act.map (· % vmax)).eraseDups)
  let index (ad : VAddr) : List (VecReg × Nat × List Nat) := match ad with | .index _ b => [(b, 32, act)] | _ => []
  match op with
  | .sel _ a b m _ => [(a, w, act.filter (x.rm m).getLsbD), (b, w, act.filter fun i => !(x.rm m).getLsbD i)]
  | .cvt d a _ _ _ rnd | .rndi d a _ _ rnd => (a, w, act) :: if rnd = .rst then [random (d + 1)] else []
  | .red _ d a _ _ => [(a, w, act), (d, w, if vl = 0 then [] else [0])]
  | .perm o _ a m _ =>
    match o with
    | .perm b => [(b, w, act), (a, w, (act.map fun i => elemAt (x.rv b).toNat w i).filter fun k => decide (k < vl))]
    | .slup c => [(a, w, (act.filter fun i => decide (c.toNat ≤ i)).map (· - c.toNat))]
    | .sldn c => [(a, w, (act.map (· + c.toNat)).filter fun k => decide (k < vl))]
    | .comp => [(a, w, activeList (x.rm m) vl)]
    | .expd => [(a, w, List.range (activeList (x.rm m) vl).length)]
  | .extr _ a c _ => [(a, w, if c.toNat < vl then [c.toNat] else [])]
  | .load _ ad _ _ _ => index ad
  | .store d ad _ _ _ => (d, w, act) :: index ad
  | .amo _ d _ b _ _ _ | .famo d _ b _ _ _ => [(d, w, act), (b, 32, act)]
  | .sst d st _ _ => [(d, w, act.filter fun i => decide (i < bits (x.rst st) 96 32))]
  | .hwrite _ vb ctl n _ =>
    (groupRegs vb n).zipIdx.map fun p => (p.1, w, act.filter fun i => decide (vl * p.2 + i < 128 * groupRows (bits ctl 0 7) n vl))
  | op => all op.vecs

/-- R78: whether a word of a register is in active use. -/
def VOp.uses (op : VOp) (x : Strand) (vmax vl0 : Nat) (e : Dst × Nat) : Bool :=
  match e.1 with
  | .v r => (op.elems x vmax vl0).any fun u => u.1 == r &&
      u.2.2.any fun i => decide (u.2.1 * i / 32 ≤ e.2) && decide (e.2 ≤ (u.2.1 * i + u.2.1 - 1) / 32)
  | .be _ => op.others.contains e.1 && (blockList (op.active x (op.len vmax vl0))).any fun j => j / 4 == e.2
  | .m r => op.others.contains e.1 || op.actMask == some r
  | .q r => op.others.contains e.1 || (op.readsValid && op.vecs.any fun v => qOf v == r)
  | .st _ => op.others.contains e.1
  | .csr n => n == 0 && op.rounds
  | _ => false

/-- R78: the first poisoned register word in active use; EVAL holds the first element of it that is used, or its number where the
register has no elements (log 65). -/
def VOp.poisonAt (op : VOp) (x : Strand) (vmax vl0 : Nat) : Option TrapInfo :=
  (x.poison.find? (op.uses x vmax vl0)).map fun e =>
    let i := match e.1 with
      | .v r => ((op.elems x vmax vl0).findSome? fun u => if u.1 = r then
          u.2.2.find? fun i => decide (u.2.1 * i / 32 ≤ e.2) && decide (e.2 ≤ (u.2.1 * i + u.2.1 - 1) / 32) else none).getD 0
      | _ => e.2
    { cause := 11, eval := BitVec.ofNat 64 (e.1.poisonVal + 65536 * i) }

/-! ## Residues (R107, R109) -/

/-- R107: the residue check of a full product. -/
def residueBad (a b p : Int) : Bool := p % 3 != a % 3 * (b % 3) % 3

/-- R107: the factors of the products that element i of a word forms; VRCPA's and VRSQA's are taken as their truncated significand with
itself (log 66). -/
def VOp.factors (op : VOp) (x : Strand) (i : Nat) : List (Int × Int) :=
  let el (r : VecReg) : Nat := elemAt (x.rv r).toNat op.width i
  let sig (t : FType) (a b : VecReg) : List (Int × Int) :=
    match (t.decode (el a)).significand, (t.decode (el b)).significand with
    | some m, some n => [((m : Int), (n : Int))]
    | _, _ => []
  match op with
  | .alu o _ a b _ e => match o with | .mul | .mulh => [(signed e.bits (el a), signed e.bits (el b))] | _ => []
  | .fp o _ a b _ e => match o with | .mul | .fma | .fms => sig (ftypeOf e) a b | _ => []
  | .spec o _ a _ e =>
    match o, (ftypeOf e).decode (el a) with
    | .rcp, .fin _ m k | .rsq, .fin false m k => let h : Int := ((truncated m k).1 : Int); [(h, h)]
    | _, _ => []
  | .dot4 _ a b _ => (List.range 4).map fun k => (signed 8 (elemAt (el a) 8 k), signed 8 (elemAt (el b) 8 k))
  | _ => []

/-- R109: the first active element whose product, off by the error of the multiplier, fails its check. -/
def VOp.residueAt (op : VOp) (x : Strand) (vmax vl0 : Nat) : Option TrapInfo :=
  match x.mulErr with
  | none => none
  | some err =>
    ((op.active x (op.len vmax vl0)).find? fun i => (op.factors x i).any fun f => residueBad f.1 f.2 (f.1 * f.2 + err)).map
      fun i => { cause := 12, detail := 1, eval := BitVec.ofNat 64 i }

/-! ## Results -/

/-- A permuted result: destination elements with the element of a that each takes, or a constant, and the further sources. -/
def permOut (x : Strand) (d a : VecReg) (w vl : Nat) (r : List (Nat × Option Nat × List (VecReg × Nat))) : LaneOut :=
  let src := (x.rv a).toNat
  let p := packAt w (r.map fun e => (e.1, match e.2.1 with | some k => elemAt src w k | none => 0))
  { outs := [(.v d, p.1, p.2), validOut x d (r.map fun e =>
      (e.1, (match e.2.1 with | some k => [(a, k)] | none => []) ++ e.2.2))]
    vl := vl, width := w, depth := 5 }

/-- VPERM to VEXPD (R154). -/
def PermOp.run (op : PermOp) (x : Strand) (d a : VecReg) (m : MReg) (w vl : Nat) : LaneOut :=
  let act := activeList (x.rm m) vl
  match op with
  | .perm b => permOut x d a w vl (act.map fun i =>
      let k := elemAt (x.rv b).toNat w i
      (i, if k < vl then some k else none, [(b, i)]))
  | .slup c => permOut x d a w vl ((act.filter fun i => decide (c.toNat ≤ i)).map fun i => (i, some (i - c.toNat), []))
  | .sldn c => permOut x d a w vl (act.map fun i => (i, if i + c.toNat < vl then some (i + c.toNat) else none, []))
  | .comp => permOut x d a w vl (act.zipIdx.map fun e => (e.2, some e.1, []))
  | .expd => permOut x d a w vl (act.zipIdx.map fun e => (e.1, some e.2, []))

/-- VREDSUM, VREDMAX and VREDMIN (R104, R152). -/
def redRun (x : Strand) (op : RedOp) (d a : VecReg) (k : RedT) (md : RMode) (vl : Nat) (act : List Nat) : LaneOut :=
  let w := redWidth k
  let src := (x.rv a).toNat
  let f := redStep op k md
  let (r, fl) := treeReduce f 20 ((List.range vl).map fun i => if act.contains i then some (elemAt src w i) else none)
  let (v, fl2) := f (elemAt (x.rv d).toNat w 0) (r.getD (absentOf op k))
  let p := packAt w [(0, v)]
  { outs := if vl = 0 then [] else
      [(.v d, p.1, p.2), validOut x d [(0, (d, 0) :: (blockList act).map fun j => (a, 32 * j))]]
    flags := if vl = 0 then 0 else fl ||| fl2, vl := vl, width := w, depth := 5 }

/-- VSCAN (R105, R152). -/
def scanRun (x : Strand) (op : RedOp) (d a : VecReg) (k : RedT) (md : RMode) (vl : Nat) (act : List Nat) : LaneOut :=
  let w := redWidth k
  let src := (x.rv a).toNat
  let (y, fl) := scanAll (redStep op k md) 14 1
    ((List.range vl).map fun i => if act.contains i then elemAt src w i else scanIdentity op k)
  let p := packAt w (act.map fun i => (i, (y[i]?).getD 0))
  let blocks := blockList act
  { outs := [(.v d, p.1, p.2), validOut x d (blocks.map fun j =>
      (32 * j, (blocks.filter fun i => decide (i ≤ j)).map fun i => (a, 32 * i)))]
    flags := fl, vl := vl, width := w, depth := 5 }

/-- The result of a vector word of 06_vector_instr.md; none for the words that reach memory, a Harp or the fabric. Where vl = 0,
VEXTR, MCNT and MFIRST still deliver their g results 0, 0 and −1, which R154 and R155 give and R136 leaves open (log 67). -/
def VOp.arith (op : VOp) (x : Strand) (vmax vl0 : Nat) : Option LaneOut :=
  let vl := op.len vmax vl0
  let w := op.width
  let act := op.active x vl
  let dyn := rmOf (bits x.fpctl 0 2)
  let el (r : VecReg) (i : Nat) : Nat := elemAt (x.rv r).toNat w i
  let word (r : VecReg) (i : Nat) : Nat := elemAt (x.rv r).toNat 32 (i % vmax)
  match op with
  | .alu o d a b _ _ => some (mapOut x d w 2 vl act (if o.binary then [a, b] else [a]) fun i => (o.run w (el a i) (el b i), 0))
  | .sel d a b m _ =>
    let l := List.range vl
    let src (i : Nat) : VecReg := if (x.rm m).getLsbD i then a else b
    let p := packAt w (l.map fun i => (i, el (src i) i))
    some { outs := [(.v d, p.1, p.2), validOut x d (l.map fun i => (i, [(src i, i)]))], vl := vl, width := w, depth := 2 }
  | .fp o d a b _ e => some (mapOut x d w 3 vl act (o.srcs d a b) fun i => o.run (ftypeOf e) dyn (el a i) (el b i) (el d i))
  | .cmp o d a b _ _ => some (maskOut d w vl (act.map fun i =>
      (i, o.holds w (BitVec.ofNat 64 (el a i)) (BitVec.ofNat 64 (el b i)), 0)))
  | .fcmp o d a b _ e => some (maskOut d w vl (act.map fun i => (i, o.run (ftypeOf e) (el a i) (el b i))))
  | .cvt d a f _ e rnd =>
    let md (i : Nat) : RMode := rndMode rnd dyn (word (d + 1) i)
    let t := ftypeOf e
    if fmtIsMx f then some (cvtMx x d a f t md vl act fun i =>
        x.valid a (i / 32) && (rnd != .rst || x.valid (d + 1) (rstBlock vmax i)))
    else
      let r := act.map fun i =>
        let v := t.decode (el a i)
        (i, match fmtFloat f with | some u => u.encode (md i) v | none => intOf f (md i) v)
      let p := packAt (fmtBits f) (r.map fun k => (k.1, k.2.1))
      some { outs := [(.v d, p.1, p.2), validCvt x d a rnd vmax act]
             flags := r.foldl (fun g k => g ||| k.2.2) 0, vl := vl, width := w, depth := 3 }
  | .qnt d a f _ e => some (quant x d a f (ftypeOf e) vl act)
  | .dqnt d a f _ e rnd => some (dequant x d a f (ftypeOf e) (rndMode rnd dyn 0) vl act)
  | .rndi d a _ e rnd =>
    let o := mapOut x d w 3 vl act [a] fun i => roundInt (ftypeOf e) (rndMode rnd dyn (word (d + 1) i)) (el a i)
    some { o with outs := o.outs.take 1 ++ [validCvt x d a rnd vmax act] }
  | .spec o d a _ e => some (mapOut x d w 4 vl act [a] fun i => o.run (ftypeOf e) (el a i))
  | .red o d a k _ => some (redRun x o d a k dyn vl act)
  | .scan o d a k _ => some (scanRun x (scanRed o) d a k dyn vl act)
  | .dot4 d a b _ => some (mapOut x d 32 5 vl act [a, b, d] fun i => (dot4Elem (el a i) (el b i) (el d i), 0))
  | .perm o d a m _ => some (o.run x d a m w vl)
  | .iota d m _ =>
    let p := packAt w ((List.range vl).map fun i => (i, (activeList (x.rm m) i).length))
    some { outs := [(.v d, p.1, p.2), validOne d (List.range vl)], vl := vl, width := w, depth := 5 }
  | .bcast d c _ _ =>
    let p := packAt w (act.map fun i => (i, c.toNat))
    some { outs := [(.v d, p.1, p.2), validOne d act], vl := vl, width := w, depth := 5 }
  | .extr d a c _ =>
    let v := if c.toNat < vl then (sext w (el a c.toNat)).toNat else 0
    some { outs := [(.g d, v, 2 ^ 64 - 1)], vl := vl, width := w, depth := 5 }
  | .ins d c i _ =>
    if i.toNat < vl then
      let p := packAt w [(i.toNat, c.toNat)]
      some { outs := [(.v d, p.1, p.2), validOne d [i.toNat]], vl := vl, width := w, depth := 5 }
    else some { vl := vl, width := w, depth := 5 }
  | .mask o d a b _ =>
    let f (i : Nat) : Bool :=
      let p := (x.rm a).getLsbD i
      let r := (x.rm b).getLsbD i
      match o with | .and => p && r | .or => p || r | .xor => p != r
    some (maskOut d w vl ((List.range vl).map fun i => (i, f i, 0)))
  | .mnot d a _ => some (maskOut d w vl ((List.range vl).map fun i => (i, !(x.rm a).getLsbD i, 0)))
  | .mcnt d a _ => some { outs := [(.g d, (activeList (x.rm a) vl).length, 2 ^ 64 - 1)], vl := vl, width := w, depth := 2 }
  | .mfirst d a _ =>
    some { outs := [(.g d, match (activeList (x.rm a) vl).head? with | some i => i | none => 2 ^ 64 - 1, 2 ^ 64 - 1)]
           vl := vl, width := w, depth := 2 }
  | .qand d a b _ =>
    let p := packBits ((List.range (ceilDiv vl 32)).map fun j => (j, (x.rq a).getLsbD j && (x.rq b).getLsbD j))
    some { outs := [(.q d, p.1, p.2)], vl := vl, width := w, depth := 2 }
  | .qclr d a _ =>
    let hit := blockList (activeList (x.rm a) vl)
    let p := packBits ((List.range (ceilDiv vl 32)).map fun j => (j, !hit.contains j))
    some { outs := [(.q d, p.1, p.2)], vl := vl, width := w, depth := 2 }
  | .rng d key base _ _ =>
    let p := packAt w (act.map fun i => (i, vrngElem w key.toNat base.toNat i))
    some { outs := [(.v d, p.1, p.2), validOne d act], vl := vl, width := w, depth := 4 }
  | _ => none

end Sys2Proof.Machine
end

