-- ==== Sys2Proof/Machine/Memory.lean ====
section
/-! DEFINITION. Memory accesses: the checks of R203, what an access does at its home (R204 to R207, R232, R233), bank cycles
and conflicts (R184 to R186, R194), free paths and their bounds (R193, R196), and what lands. -/
namespace Sys2Proof.Machine

/-! ## Banks (R184) -/

/-- The bank of the word at a scratchpad offset. -/
def bankOf (off : Nat) : Nat :=
  let a := off % 524288 / 4
  field a 0 5 ^^^ field a 5 5 ^^^ field a 10 5 ^^^ field a 15 2

/-- The banks that n bytes at an offset touch. -/
def banksOf (off n : Nat) : BitVec 32 :=
  (List.range ((off + n - 1) / 4 - off / 4 + 1)).foldl (fun m i => m ||| BitVec.ofNat 32 (2 ^ bankOf (off / 4 * 4 + 4 * i))) 0

/-- The banks of a core already used in this cycle. -/
def Core.used (k : Core) (now : Nat) : BitVec 32 := if k.bankUse.1 = now then k.bankUse.2 else 0

/-- R186: banks taken in this cycle, where none of them is taken yet. -/
def State.takeBanks (s : State) (c : Nat) (m : BitVec 32) : Option State :=
  let u := (s.core c).used s.pkg.ency
  if u &&& m = 0 then some (s.modCore c fun k => { k with bankUse := (s.pkg.ency, u ||| m) }) else none

/-! ## Addresses (R181, R203) -/

/-- R181, R31: the core that a cluster index reaches for a strand, where it may be reached. -/
def State.reach (s : State) (sid idx : Nat) : Option Nat :=
  let me := coreOf sid
  let c := 48 * clusterOf me + idx
  if idx ≥ 48 then none
  else if c = me then some c
  else if isCoach me then none
  else if (s.core c).enabled && s.partOf c == s.partOf me && !((s.core c).scored && !(s.core me).scored) then some c
  else none

/-- An access of a strand with nothing in it yet. -/
def blankAccess (s : State) (sid : Nat) : Access where
  sid := sid
  seq := (s.strand sid).seq
  pc := s.cur.addr
  turn := s.lcy sid
  kind := .load
  path := .core
  place := .phys
  vd := s.strandVd sid
  bytes := 8
  sext := false
  dst := none
  cycles := []
  done := 0
  plan := 1
  acc := 0
  msk := BitVec.allOnes 65536
  bad := 0
  flags := 0
  earliest := 0
  rank := 0
  vec := false
  scored := s.scored sid

def faultAt (cause : Nat) (ea : Nat) : TrapInfo := { cause := cause, eval := BitVec.ofNat 64 ea }

/-- R92: the restrictions of the alias windows, for an access of n bytes by a scalar or vector word. -/
def windowCheck (scale win ea n : Nat) (load : Bool) : Option TrapInfo :=
  if win = 0 ∨ win = 7 then none
  else if !load then some (faultAt 8 ea)
  else if n ≠ 4 then some (faultAt 3 ea)
  else if win = 6 ∧ ea % 2 = 1 then some (faultAt 6 ea)
  else if (win = 4 ∨ win = 5) ∧ !windowEnabled scale then some (faultAt 3 ea)
  else none

/-- R203 steps 3 and 4 for local and cluster space: the core, offset and window reached. `scales` gives the WINSCALE in force. -/
def State.spadTarget (s : State) (scales : Nat → Nat → Nat) (sid : Nat) (clu : Bool) (ea n : Nat) (load : Bool) :
    Except TrapInfo (Nat × Nat × Nat) :=
  let c : Option Nat := if clu then s.reach sid (ea / 4194304) else if ea < 4194304 then some (coreOf sid) else none
  match c with
  | none => .error (faultAt 8 ea)
  | some c =>
    let win := ea / 524288 % 8
    match windowCheck (scales c win) win ea n load with
    | some t => .error t
    | none => .ok (c, ea % 524288, if win = 7 then 0 else win)

/-- WINSCALE registers as they stand. -/
def State.scales (s : State) (c win : Nat) : Nat := (s.core c).winscaleOf win

/-- R129, R203: WINSCALE for a vector word: of its own core as captured at its issue, of another as it stands (log 68). -/
def State.wordScales (s : State) (sid : Nat) (e : VEntry) (c win : Nat) : Nat :=
  if c = coreOf sid then ((e.winscale.toList[win]?).getD 0).toNat else s.scales c win

/-- R228: whether a VD has reads whose checks are not complete. -/
def State.checksPending (s : State) (v : Nat) : Bool := s.launches.any fun e => e.2.vd == v && e.2.checks != 0

/-- What the checks of an access are made for: a plain access, an atomic one, an operation on a line that reads none of it, or a write of
whole lines. -/
inductive MemUse
  | plain | atomic | touch
  deriving DecidableEq, Repr

/-- R227, R238: the trap of a read of bytes whose lines fail their checks; a write meets poison alone. -/
def lineTrap (read : Bool) (ea : Nat) (d : Option Nat) : Option TrapInfo :=
  match d with
  | some d => if read || d == 16 then some { cause := 10, detail := d, eval := BitVec.ofNat 64 ea } else none
  | none => none

/-- R200, R207, R226 to R228, R238: what refuses an access of a VD to n bytes of physical space. A cached read checks both halves of its
128-byte line (R192). -/
def State.placeFault (s : State) (v pa n ea : Nat) (r : Right) (u : MemUse) (cached : Bool) : Option TrapInfo :=
  let mem := isNear pa || isFar pa
  let read := r == .read || u == .atomic
  if r = .write ∧ (s.frame (pa / 4096)).pins ≠ 0 then some (faultAt 8 ea)
  else if !mem && u == .atomic then some (faultAt 8 ea)
  else if isHost pa && r == .write && (s.key v).inthold then some (faultAt 8 ea)
  else if r = .write ∧ mem ∧ s.majorFull (pa / 64) then some (faultAt 10 ea)
  else if u = .touch then none
  else lineTrap read ea (if cached && read then s.linesFault (pa / 128 * 128) 128 else s.linesFault pa n)

/-- R232: the line of a relay window that a physical address names, with its map entry's address. -/
def KeySlot.relayLine (k : KeySlot) (pa : Nat) : Nat := (pa / 4096 - k.base) * 64 + pa % 4096 / 64

def KeySlot.slotAddr (k : KeySlot) (l slot : Nat) : Nat :=
  4096 * (k.base + slot * k.pages + l / 64) + l % 64 * 64

def State.relayEntry (s : State) (k : KeySlot) (l : Nat) : Nat := ofBytes (s.physRead (k.mapbase * 64 + 4 * l) 4)

/-- R233: the slot that a read by the owner or the peer takes a line from. -/
def KeySlot.readSlot (k : KeySlot) (e : Nat) (owner : Bool) : Nat := if owner || decide (e / 2 < k.pubgen) then e % 2 else 1 - e % 2

/-- R227, R232, R238: what refuses an access of a VD through a relay window. The map entry's line and the line of the slot are checked; an
owner's write merges with the line. -/
def State.relayFault (s : State) (v w pa ea : Nat) (r : Right) (u : MemUse) : Option TrapInfo :=
  let k := s.key (192 + w)
  let owner := k.owner == v
  if !k.valid || (!owner && (r == .write || k.peer != v)) then some (faultAt 8 ea)
  else if u = .touch then none
  else
    let l := k.relayLine pa
    let next := k.slotAddr l (if s.relayEntry k l / 2 < k.pubgen then 1 - s.relayEntry k l % 2 else s.relayEntry k l % 2)
    if r = .write ∧ (s.majorFull (next / 64) || s.majorFull ((k.mapbase * 64 + 4 * l) / 64)) then some (faultAt 10 ea)
    else lineTrap true ea ((s.linesFault (k.mapbase * 64 + 4 * l) 4).orElse fun _ =>
      s.linesFault (k.slotAddr l (k.readSlot (s.relayEntry k l) owner)) 64)

/-- R203 step 5: a virtual address's physical place, by a translation that is held (R218) or the core's, with its rights, write protection, timed regions and relay windows. The
Coachman reaches physical space directly (R182), uncached. -/
def State.virtTarget (s : State) (held : Option TlbEntry) (sid ea n : Nat) (r : Right) (a : Access) (u : MemUse) :
    State × Except TrapInfo Access :=
  if isCoach (coreOf sid) then
    if ea < 2 ^ 52 ∧ isMapped ea then
      match s.placeFault a.vd ea n ea r u false with
      | some t => (s, .error t)
      | none => (s, .ok { a with place := .phys, cycles := [[⟨0, ea, 0, 0, 0, 0, false, none⟩]] })
    else (s, .error (faultAt 8 ea))
  else
    match s.translate held sid ea r with
    | (s, .error t) => (s, .error t)
    | (s, .ok (pa, e)) =>
      let relay := s.relayOf (pa / 4096)
      let cached := relay.isNone && (isNear pa || isFar pa) && !e.attr.nc && (s.frame (pa / 4096)).pins == 0
      match (match relay with | some w => s.relayFault a.vd w pa ea r u | none => s.placeFault a.vd pa n ea r u cached) with
      | some t => (s, .error t)
      | none => (s, .ok { a with
          place := .phys, gen := (s.vd a.vd).sdgen, ro := e.attr.ro, cached := cached
          cycles := [[⟨0, pa, 0, 0, 0, 0, cached, relay.map fun w => (w, (s.key (192 + w)).owner == a.vd)⟩]] })

/-- The checks of R203 in their order, for an access of n bytes. Alignment is checked before the window (R203 step 2), so that a load
through W1 to W6 needs an address that is a multiple of 4, the size of R92, whatever its source elements (log 69). -/
def State.checkAccess (s : State) (sid : Nat) (sp : Space) (ea n : Nat) (r : Right) (u : MemUse) : State × Except TrapInfo Access :=
  let a := { blankAccess s sid with bytes := n, ea := BitVec.ofNat 64 ea }
  match sp with
  | .vir =>
    if s.scored sid then (s, .error { cause := 8 })
    else if ea % n ≠ 0 then (s, .error (faultAt 6 ea))
    else s.virtTarget none sid ea n r a u
  | _ =>
    if ea % n ≠ 0 then (s, .error (faultAt 6 ea))
    else
      match s.spadTarget s.scales sid (sp == .clu) ea n (r == .read) with
      | .error t => (s, .error t)
      | .ok (c, off, win) => (s, .ok { a with place := .spad c, cycles := [[⟨0, spadKey c off, 0, 0, win, s.scales c win, false, none⟩]] })

/-! ## At the home -/

/-- R333: where an access to a physical address is served while its page migrates; none while its line is being copied. -/
def State.migrate (s : State) (v pa : Nat) : Option Nat :=
  match s.mig.find? fun e => e.2.state != 0 && e.2.vd == v && e.2.old == pa / 4096 with
  | some (_, m) =>
    let o := pa % 4096 / 128 * 128
    if o < m.ptr then some (4096 * m.new + pa % 4096)
    else if o = m.ptr ∧ m.state = 1 then none
    else some pa
  | none => some pa

/-- R233: the bytes that a read of a relay line sees. -/
def State.relayRead (s : State) (w : Nat) (owner : Bool) (pa n : Nat) : List Byte :=
  let k := s.key (192 + w)
  let l := k.relayLine pa
  s.physRead (k.slotAddr l (k.readSlot (s.relayEntry k l) owner) + pa % 64) n

/-- A performed write to the physical space: the first of a fresh frame initialises it with the write merged (R230), host and device bytes
are written, and a cacheable line becomes dirty in its home slice or is written at its port (R190). -/
def State.physWrite (s : State) (pa : Nat) (bs : List Byte) (part : Option Nat) (cached : Bool) : State :=
  let cached := cached && (s.frame (pa / 4096)).pins == 0
  if isNear pa || isFar pa then
    if (s.frame (pa / 4096)).fresh then
      let s := s.initFrame (pa / 4096) fun s => s.memWrite pa bs
      if cached then (s.mcTouch pa (s.kidOf (pa / 64)) part false).1 else s
    else
      let s := s.memWrite pa bs
      if cached then (s.mcTouch pa (s.kidOf (pa / 64)) part true).1
      else s.now prioArrive (.memoryLineWrite (pa / 64) (s.lineData (pa / 64)))
  else s.memWrite pa bs

/-- An uncached write of bytes that may cross lines, in at most n lines. -/
def State.linesWrite (s : State) (a : Nat) (bs : List Byte) : Nat → State
  | 0 => s
  | n + 1 =>
    if bs.isEmpty then s
    else
      let k := 64 - a % 64
      (s.physWrite a (bs.take k) none false).linesWrite (a + k) (bs.drop k) n

/-- R233: an owner's write of a relay line. -/
def State.relayWrite (s : State) (w : Nat) (pa : Nat) (bs : List Byte) : State :=
  let k := s.key (192 + w)
  let l := k.relayLine pa
  let e := s.relayEntry k l
  let old := s.physRead (k.slotAddr l (e % 2)) 64
  let line := old.take (pa % 64) ++ bs ++ old.drop (pa % 64 + bs.length)
  if e / 2 < k.pubgen then
    let slot := 1 - e % 2
    let s := s.physWrite (k.slotAddr l slot) line none false
    s.physWrite (k.mapbase * 64 + 4 * l) (toBytes 4 (slot + 2 * k.pubgen)) none false
  else s.physWrite (k.slotAddr l (e % 2)) line none false

/-- R207: what an atomic operation stores. -/
def AmoOp.new (op : AmoOp) (n : Nat) (old y e : Nat) : Nat :=
  match op with
  | .add => (old + y) % 2 ^ (8 * n)
  | .min => if signed (8 * n) old ≤ signed (8 * n) y then old else y
  | .max => if signed (8 * n) old ≥ signed (8 * n) y then old else y
  | .minn => Nat.min old y
  | .maxn => Nat.max old y
  | .and => old &&& y
  | .or => old ||| y
  | .xor => old ^^^ y
  | .swap => y
  | .cas => if old = e then y else old

/-- The raw bytes of an element of an access. -/
def Access.unit (a : Access) : Nat := match a.kind with | .block _ | .image _ | .flit _ => 64 | _ => a.bytes

/-- Reads an element of an access at its place: the value, and whether a window decode found an invalid scale (R87). -/
def State.accRead (s : State) (a : Access) (e : Elem) (addr : Nat) : Nat × Bool :=
  match a.place with
  | .spad _ =>
    let c := addr / 524288
    let o := addr % 524288
    if e.win = 0 then (ofBytes (s.spadRead c o a.bytes), false) else windowRead s c e.win e.scale o
  | .phys =>
    match e.relay with
    | some (w, owner) => (ofBytes (s.relayRead w owner addr a.bytes), false)
    | none => (ofBytes (s.physRead addr a.bytes), false)

/-- Writes the bytes of an element at its place; the issuing core's L1 loses the line (R189), under the frame that the access was
translated to and, while its page migrates, under the one it is served from. -/
def State.accWrite (s : State) (a : Access) (e : Elem) (addr : Nat) (bs : List Byte) : State :=
  match a.place with
  | .spad _ => s.spadWrite (addr / 524288) (addr % 524288) bs
  | .phys =>
    match e.relay with
    | some (w, _) => s.relayWrite w addr bs
    | none =>
      let s := s.physWrite addr bs (s.strandPart a.sid) e.cached
      if a.path = .stream then s else s.l1Drop (coreOf a.sid) fun l => l.line == addr / 128 || l.line == e.addr / 128

/-- The bits of a register that element i of n bytes fills. -/
def elemMask (n i : Nat) : Wide := BitVec.ofNat 65536 ((2 ^ (8 * n) - 1) * 2 ^ (8 * n * i))

/-- A loaded value extended to a register. -/
def extendTo (sg : Bool) (n v : Nat) : Wide := if sg then (sext n v).setWidth 65536 else (zext n v).setWidth 65536

def Access.gather (a : Access) (i v : Nat) : Access :=
  if a.vec then
    { a with acc := a.acc ||| BitVec.ofNat 65536 (v % 2 ^ (8 * a.bytes) * 2 ^ (8 * a.bytes * i)), msk := a.msk ||| elemMask a.bytes i }
  else { a with acc := extendTo a.sext (8 * a.bytes) v }

/-- R345: events 7 and 8, a hit or miss in the memory-side cache of a cacheable access of the core, and 15, a write of the
core to a frozen unit that is diverted (R349). -/
def State.cacheEvents (s : State) (a : Access) (e : Elem) (addr : Nat) : State :=
  let wr := match a.kind with | .store | .amo _ | .famo .. | .block _ => true | _ => false
  let rd := match a.kind with | .load | .image _ | .pref => true | _ => false
  if a.place ≠ .phys ∨ e.relay.isSome ∨ (isNear addr || isFar addr) = false then s
  else
    let s := if wr && s.ckpt.diverts (addr / 65536) then s.perf a.sid 15 1 else s
    if e.cached && (wr || rd) then s.perf a.sid (if s.mc.any fun l => l.line == addr / 128 then 7 else 8) 1 else s

/-- A cacheable read at its home: the line is in the memory-side cache, unless its frame has been pinned meanwhile (R200). -/
def State.homeTouch (s : State) (a : Access) (e : Elem) (addr : Nat) : State :=
  if e.cached && (s.frame (addr / 4096)).pins == 0 then (s.mcTouch addr (s.kidOf (addr / 64)) (s.strandPart a.sid) false).1 else s

/-- R189, R199, R200: the L1 takes the line of a load or PREF, tagged as the access was translated and filled from where it is served; not
where the frame has been pinned, and no line with RO = 1 whose generation has advanced since. -/
def State.l1Take (s : State) (a : Access) (src : Nat) : State :=
  if a.cached && (s.frame (src / 4096)).pins == 0 && (!a.ro || a.gen == (s.vd a.vd).sdgen) then
    s.l1Fill (coreOf a.sid) (a.home / 128) (src / 128) (s.kidOf (src / 64)) a.ro (a.ea.toNat / 4096) else s

/-- One element of an access at its home (R204, R207, R221). -/
def State.doElem (s : State) (a : Access) (e : Elem) : State × Access :=
  match (match a.place with | .phys => s.migrate a.vd e.addr | _ => some e.addr) with
  | none => (s, a)
  | some addr =>
    let s := s.cacheEvents a e addr
    match a.kind with
    | .load =>
      let (v, bad) := s.accRead a e addr
      (s.homeTouch a e addr, (if bad then { a with bad := a.bad ||| BitVec.ofNat 256 (2 ^ (e.idx / 32)) } else a).gather e.idx v)
    | .store => (s.accWrite a e addr (toBytes a.bytes e.data.toNat), a)
    | .amo op =>
      let old := (s.accRead a e addr).1
      let y := e.data.toNat % 2 ^ (8 * a.bytes)
      let x := e.exp.toNat % 2 ^ (8 * a.bytes)
      (s.accWrite a e addr (toBytes a.bytes (op.new a.bytes old y x)), if a.dst.isSome then a.gather e.idx old else a)
    | .famo fe rm =>
      let old := (s.accRead a e addr).1
      let (v, fl) := famoAdd fe rm old e.data.toNat
      (s.accWrite a e addr (toBytes a.bytes v), { a with flags := orFlags a.flags fl })
    | .plane words codes inx =>
      let c := e.addr / 524288
      let s := words.foldl (fun s w => s.spadWrite c w.1 (toBytes 4 w.2)) s
      let s := codes.foldl (fun s w => s.spadWrite c w.1 (toBytes 1 w.2)) s
      (inx.foldl (fun s w =>
        let old := ofBytes (s.spadRead c (w.1 / 8) 1)
        let bit := 2 ^ (w.1 % 8)
        s.spadWrite c (w.1 / 8) (toBytes 1 (if w.2 then old ||| bit else if old.testBit (w.1 % 8) then old - bit else old))) s, a)
    | .block data => (s.accWrite a e addr ((data.drop (64 * e.idx)).take 64), a)
    | .image _ => (s.homeTouch a e addr, { a with acc := BitVec.ofNat 65536 (s.accRead a e addr).1 })
    | .flit op =>
      let bs := s.spadRead (addr / 524288) (addr % 524288) 64
      ({ s with ops := s.ops.map fun o : Nat × FabOp =>
          if o.1 = op then (o.1, { o.2 with flits := o.2.flits ++ [(e.idx, bs)] }) else o }, a)
    | .flush => ((s.mcFlush (addr / 128) false).l1Drop (coreOf a.sid) fun l => l.line == addr / 128 || l.line == e.addr / 128, a)
    | .inval => ((s.mcFlush (addr / 128) true).l1Drop (coreOf a.sid) fun l => l.line == addr / 128 || l.line == e.addr / 128, a)
    | .pref => ((s.homeTouch a e addr).l1Take a addr, a)
    | .rpub w =>
      let k := s.key (192 + w)
      (if k.pubgen = 2 ^ 31 - 1 then s.takeTrap a.sid { cause := 8, eval := a.ea } a.pc
        else s.setKey (192 + w) { k with pubgen := k.pubgen + 1 }, a)

/-- The elements of one access cycle, in element order. -/
def State.doElems (s : State) (a : Access) : List Elem → State × Access
  | [] => (s, a)
  | e :: t => let (s, a) := s.doElem a e; s.doElems a t

def State.access (s : State) (id : Nat) : Option Access := look id s.accesses
def State.setAccess (s : State) (id : Nat) (a : Access) : State := { s with accesses := bind id a s.accesses }
def State.dropAccess (s : State) (id : Nat) : State := { s with accesses := unbind id s.accesses }

/-! ## What lands -/

/-- Blocks of a vector result that received an element. -/
def blocksOf (bytes : Nat) (msk : Wide) : BitVec 256 :=
  (List.range 256).foldl (fun m j =>
    if msk.extractLsb' (256 * bytes * j) (256 * bytes) = 0 then m else m ||| BitVec.ofNat 256 (2 ^ j)) 0

/-- R137, R139, R355: a started vector word's landing turn becomes known, and with it that of the VLOOP it ends. -/
def State.setDue (s : State) (sid seq due : Nat) : State :=
  let now (e : Started) : Bool := e.seq == seq && e.due.isNone
  let s := ((s.strand sid).started.filter now).foldl (fun (s : State) (e : Started) => match e.loop with
    | some (d, n, q) => s.deliver sid q (.g d) (BitVec.ofNat 65536 n) (BitVec.allOnes 65536) due
    | none => s) s
  (s.modStrand sid fun x => { x with started := x.started.map fun e => if now e then { e with due := some due } else e }).owe
    (some (s.clockOf sid)) due prioLand (.land sid)

/-- A further result of a vector word, known when it lands (R72). -/
def State.addPend (s : State) (sid : Nat) (p : Pend) : State := s.modStrand sid fun x => { x with pend := x.pend ++ [p] }

/-- The access has performed everything: what it loaded lands (R213, R215), at the first turn not before `earliest`, and for a free vector
word as many turns later as its access cycles waited at the banks. -/
def State.finishAccess (s : State) (id : Nat) (a : Access) : State :=
  let s := s.dropAccess id
  if (s.strand a.sid).slot = .idle then s else
  let at_ := if a.scored then a.earliest
    else Nat.max (a.earliest + if a.vec then 16 * ceilDiv a.stall 16 else 0) (s.nextTurn a.sid)
  let s := match a.dst with
    | some d =>
      let s := s.deliver a.sid a.seq d a.acc a.msk at_
      match d with
      | .v r =>
        let blocks := blocksOf a.bytes a.msk
        let q : QReg := Fin.ofNat 4 (r.val / 8)
        s.deliver a.sid a.seq (.q q) ((blocks &&& ~~~a.bad).setWidth 65536) (blocks.setWidth 65536) at_
      | _ => s
    | none => s
  let s := if a.flags = 0 then s else s.addPend a.sid ⟨a.seq, a.turn, .fp, some (BitVec.ofNat _ a.flags), BitVec.allOnes 65536, some at_, true⟩
  let s := if a.kind == .load && a.place == .phys && a.path == .core && !a.vec then s.l1Take a ((s.migrate a.vd a.home).getD a.home) else s
  if a.vec then s.setDue a.sid a.seq at_ else s

/-- The scratchpad bytes that a read or write through a window touches at an offset, source element and scale entry (R91): offset and
length. -/
def windowSpans (win scale o n : Nat) : List (Nat × Nat) :=
  let g := 32 * 2 ^ field scale 20 2
  let at_ (k : Nat) : Nat := (field scale 6 13 * 64 + k) % 524288
  if win = 1 ∨ win = 2 then [(o, 1)]
  else if win = 3 then [(o / 2, 1), (at_ (o / 32), 1)]
  else if win = 4 then [(o / 2, 1), (at_ (4 * (o / g)), 4)]
  else if win = 5 then [(o, 1), (at_ (4 * (o / g)), 4)]
  else if win = 6 then [(o, 2)]
  else [(o, n)]

/-- The bytes that an element touches: address and length; a cache operation concerns its whole line (R208). -/
def Access.spans (a : Access) (e : Elem) : List (Nat × Nat) :=
  match a.place with
  | .phys => match a.kind with | .flush | .inval => [(e.addr / 128 * 128, 128)] | _ => [(e.addr, a.unit)]
  | .spad _ =>
    let c := e.addr / 524288 * 524288
    match a.kind with
    | .plane words codes inx => words.map (fun w => (c + w.1, 4)) ++ codes.map (fun w => (c + w.1, 1)) ++ inx.map fun w => (c + w.1 / 8, 1)
    | _ => (windowSpans e.win e.scale (e.addr % 524288) a.unit).map fun p => (c + p.1, p.2)

/-- The bytes of an element in the banks: a scale entry takes none (log 70). -/
def Access.bankSpans (a : Access) (e : Elem) : List (Nat × Nat) :=
  match a.kind with | .plane .. => a.spans e | _ => (a.spans e).take 1

/-- R186: the banks of an access cycle's elements on one core. -/
def Access.bankMask (a : Access) (es : List Elem) (c : Nat) : BitVec 32 :=
  ((es.flatMap a.bankSpans).filter fun p => p.1 / 524288 == c).foldl (fun m p => m ||| banksOf (p.1 % 524288) p.2) 0

/-- R168, R186: whether a Harp reads one of n scratchpad bytes in this cycle. The spec gives the cycles of an array phase and the bytes that
the phase reads, not which of them fall in which cycle: every byte counts as read in all of its cycles (log 71). -/
def State.stringBusy (s : State) (c off n : Nat) : Bool :=
  s.harps.any fun h => h.2.strings.any fun r =>
    r.1 == c && decide (r.2.1 < off + n) && decide (off < r.2.2.1) && decide (s.pkg.ency < r.2.2.2)

/-- R186, R194: one access cycle; none where one of its banks was already taken. The words of an HPLANE are written in one cycle and do not
stand in one another's way (log 22). -/
def State.accessCycle (s : State) (a : Access) : Option (State × Access) :=
  match a.cycles with
  | [] => some (s, a)
  | es :: rest =>
    let s? : Option State := match a.place with
      | .spad _ => if (es.flatMap a.bankSpans).any fun p => s.stringBusy (p.1 / 524288) (p.1 % 524288) p.2 then none
        else ((es.map fun e => e.addr / 524288).eraseDups).foldl
          (fun (t : Option State) c => match t with | some t => t.takeBanks c (a.bankMask es c) | none => none) (some s)
      | .phys => some s
    match s? with
    | none => none
    | some s =>
      let (s, a) := s.doElems a es
      some (s, { a with cycles := rest, done := a.done + 1 })

/-- A timing fault of an access on a scored core (R186). -/
def State.accessFault (s : State) (id : Nat) (a : Access) (detail : Nat) : State :=
  let s := s.dropAccess id
  s.takeTrap a.sid { cause := 15, detail := detail, eval := BitVec.ofNat 64 (s.lcy a.sid), vect := a.vec } a.pc

/-- SCORED_BANK_ACCESS: the next access cycle at its bank cycle; a bank already taken, or a cycle beyond the plan, is a
timing fault. -/
def execScoredBankAccess (id : Nat) (s : State) : Host.Outcome State Fault Refusal :=
  .next (match s.access id with
  | none => s
  | some a =>
    if a.done ≥ a.plan ∧ a.cycles ≠ [] then s.accessFault id a 2
    else match s.accessCycle a with
    | none => s.accessFault id a 2
    | some (s, a) =>
      if a.cycles.isEmpty then s.finishAccess id a
      else (s.setAccess id a).owe (some (s.clockOf a.sid)) (s.lcy a.sid + 1) a.rank (.scoredBankAccess id))

/-! ## Free accesses -/

/-- R195: the path of an element. -/
def Access.pathOf (a : Access) (e : Elem) : Path := if e.relay.isSome then .relay else a.path

/-- R196: an access and a later one have elements on one path at one location, or in host space (R192). -/
def Access.blocks (a b : Access) : Bool :=
  a.place == b.place && a.cycles.flatten.any fun x => b.cycles.flatten.any fun y => a.pathOf x == b.pathOf y &&
    (((a.spans x).any fun p => (b.spans y).any fun q => decide (p.1 < q.1 + q.2) && decide (q.1 < p.1 + p.2)) ||
    (a.place == .phys && isHost x.addr && isHost y.addr))

/-- The relay window of an access's first element. -/
def Access.window (a : Access) : Option (Nat × Bool) := (a.cycles.flatten.head?).bind (·.relay)

def Access.writes (a : Access) : Bool := match a.kind with | .load | .image _ | .pref | .flit _ => false | _ => true

/-- R211: an RPUB and an owner's write of its window, by one strand, keep their order. -/
def Access.publishes (a b : Access) : Bool :=
  let hits (w : Nat) (c : Access) : Bool := c.writes && c.cycles.flatten.any fun e => match e.relay with | some (k, _) => k == w | none => false
  match a.kind, b.kind with
  | .rpub w, _ => hits w b
  | _, .rpub w => hits w a
  | _, _ => false

/-- R196, R211, R219: an access waits for earlier ones of its strand, and for a line that is being copied. -/
def State.accessWaits (s : State) (id : Nat) (a : Access) : Bool :=
  (s.accesses.any fun e => decide (e.1 < id) && e.2.sid == a.sid && (e.2.blocks a || e.2.publishes a)) ||
  (match a.place, a.cycles with
    | .phys, es :: _ => es.any fun e => (s.migrate a.vd e.addr).isNone
    | _, _ => false)

/-- R43: a write by the C word of a joined pair leaves only once the pair's vector A word has landed, so that neither has an effect where
the A word traps in the lanes (log 72). -/
def State.pairWaits (s : State) (a : Access) : Bool :=
  let x := s.strand a.sid
  let other (q : Nat) : Bool := q == a.seq + halfStep
  !a.vec && a.writes && ((x.vq.any fun i => match i with | .one e => other e.seq | .block _ => false) || x.started.any fun e => other e.seq)

/-- R31: a free access that reaches a scratchpad whose scored launch has begun meanwhile. -/
def State.refusesAccess (s : State) (a : Access) : Bool :=
  match a.place, a.cycles with
  | .spad _, es :: _ => es.any fun e => let c := e.addr / 524288; c != coreOf a.sid && (s.core c).scored
  | _, _ => false

/-- The event that performs an access: relay windows have their own (R233). -/
def Access.event (a : Access) (id : Nat) : Event :=
  match a.window, a.kind with
  | some (_, true), .load | some (_, true), .image _ => .relayOwnerRead id
  | some (_, false), .load | some (_, false), .image _ => .relayPeerRead id
  | some (_, true), .store | some (_, true), .block _ => .relayOwnerWrite id
  | _, _ => .freeAccessComplete id

/-- R233: owner writes, then RPUB, then reads. -/
def Access.prio (a : Access) : Nat :=
  match a.window, a.kind with
  | some _, .store | some _, .block _ => rankFree + 10
  | _, .rpub _ => rankFree + 11
  | some _, .load | some _, .image _ => rankFree + 12
  | _, _ => if a.rank = 0 then rankFree else a.rank

/-- R31, R38, R193: a free access ends with the access fault; a prefetch just ends. -/
def State.failAccess (s : State) (id : Nat) (a : Access) (detail : Nat) : State :=
  let s := s.dropAccess id
  let t : TrapInfo := { cause := 8, detail := detail, eval := a.ea }
  if (s.strand a.sid).slot = .idle then s
  else if a.vec then s.vectorTrap a.sid a.seq a.pc t
  else if a.kind = .pref then s
  else (s.modStrand a.sid fun x => { x with pend := x.pend.filter fun p => !(p.seq == a.seq && p.due == none) }).takeTrap a.sid t a.pc

/-- A free access performs its next access cycle, or waits a cycle. -/
def State.freeAccess (s : State) (id : Nat) : State :=
  match s.access id with
  | none => s
  | some a =>
    let again (s : State) (a : Access) : State := (s.setAccess id a).after 1 a.prio (a.event id)
    if s.pairWaits a then again s { a with left := s.pkg.ency + 1 }
    else if s.refusesAccess a then s.failAccess id a 0
    else if s.accessWaits id a then again s a
    else match s.accessCycle a with
    | none => again (s.perf a.sid 10 1) { a with stall := a.stall + 1 }
    | some (s, a) => if a.cycles.isEmpty then s.finishAccess id a else again s a

def execFreeAccessComplete (id : Nat) (s : State) : Host.Outcome State Fault Refusal := .next (s.freeAccess id)
def execRelayOwnerWrite (id : Nat) (s : State) : Host.Outcome State Fault Refusal := .next (s.freeAccess id)
def execRelayOwnerRead (id : Nat) (s : State) : Host.Outcome State Fault Refusal := .next (s.freeAccess id)
def execRelayPeerRead (id : Nat) (s : State) : Host.Outcome State Fault Refusal := .next (s.freeAccess id)

/-- FREE_ACCESS_TIMEOUT (R193): an access that has reached no other outcome within its bound, counted from when it left its issuer, takes
the access fault with the timeout detail; a store too, for which the spec names no status (log 73). -/
def execFreeAccessTimeout (id : Nat) (s : State) : Host.Outcome State Fault Refusal :=
  .next (match s.access id with
  | none => s
  | some a => if s.pkg.ency < a.left + a.bound then s.after (a.left + a.bound - s.pkg.ency) prioArrive (.freeAccessTimeout id)
    else s.failAccess id a 9)

/-- R193: the bound of a free access by where it goes. -/
def State.boundOf (s : State) (a : Access) (p : Nat) : Nat :=
  match a.place with
  | .spad _ => 16 * (2 + ceilDiv (2 * p) 16) + 256
  | .phys => a.cycles.flatten.foldl (fun n e => Nat.max n
      (if e.cached && s.mc.any fun l => l.line == e.addr / 128 then 1024
      else if isNear e.addr then 4096 else if isFar e.addr then 8192 else 4194304)) 1024

/-- Sets an access going: at its bank cycle on a scored core, within its bound on a free one. `p` is the path latency of its first cycle,
`pmax` the greatest. -/
def State.startAccess (s : State) (a : Access) (p pmax : Nat) : State :=
  let (id, s) := s.fresh
  if a.scored then (s.setAccess id a).owe (some (s.clockOf a.sid)) (s.lcy a.sid + 8 + p) a.rank (.scoredBankAccess id)
  else
    let bound := s.boundOf a pmax
    let s := (s.setAccess id { a with left := s.pkg.ency, bound := bound }).after bound prioArrive (.freeAccessTimeout id)
    match s.outcome (match a.place with | .spad _ => 8 + p | .phys => 48) bound with
    | (some n, s) => s.after n a.prio (a.event id)
    | (none, s) => s

/-- The path latency of an access from its core. -/
def Access.latency (a : Access) : Nat :=
  match a.place with | .spad c => pathLatency (coreOf a.sid) c | .phys => 0

/-- R186: the rank of an access at the banks of another core or its own. -/
def Access.rankOf (a : Access) : Nat :=
  match a.place with
  | .spad c => if c = coreOf a.sid then rankScalar else rankCluster (coreOf a.sid % 48)
  | .phys => rankScalar

/-! ## Reach of vector words (R206) -/

/-- R92: the window offset of the element k places after the first, by the window of its own address (log 68). -/
def windowPos (win base k off : Nat) : Nat :=
  if win = 0 then off else if win = 6 then (base + 2 * k) % 524288 else (base + k) % 524288

/-- R206: the reach of a vector memory word, fixed at its issue: core, first byte and length. -/
def VOp.reach (op : VOp) (s : State) (sid : Nat) (v : VEntry) : List (Nat × Nat × Nat) :=
  let vl := op.len (s.vlmax32 sid) v.vl
  let core (clu : Bool) (ea : Nat) : Nat := if clu then 48 * clusterOf (coreOf sid) + ea / 4194304 else coreOf sid
  let elems (n : Nat) (base step : Word) (clu : Bool) : List (Nat × Nat × Nat) :=
    (List.range vl).flatMap fun i =>
      let ea := (base + BitVec.ofNat 64 i * step).toNat
      let c := core clu ea
      let win := if ea / 524288 % 8 = 7 then 0 else ea / 524288 % 8
      (windowSpans win (s.wordScales sid v c win) (windowPos win (base.toNat % 524288) i (ea % 524288)) n).map fun p => (c, p)
  match op with
  | .load _ (.unit b) _ e clu | .store _ (.unit b) _ e clu => elems (e.bits / 8) b (BitVec.ofNat 64 (e.bits / 8)) clu
  | .load _ (.stride b st) _ e clu | .store _ (.stride b st) _ e clu => elems (e.bits / 8) b st clu
  | .load _ (.index b _) _ _ clu | .store _ (.index b _) _ _ clu => [(core clu b.toNat, 0, 524288)]
  | .amo _ _ b _ _ _ clu | .famo _ b _ _ _ clu => [(core clu b.toNat, 0, 524288)]
  | .seg _ b f clu => (List.range (ceilDiv (vl / 32) (segBlocks f))).map fun i =>
      let ea := (b + BitVec.ofNat 64 (64 * i)).toNat
      (core clu ea, ea % 524288, 64)
  | _ => []

/-- Whether the word's reach holds a scratchpad word among n bytes of a core. -/
def VOp.touches (op : VOp) (s : State) (sid : Nat) (v : VEntry) (c off n : Nat) : Bool :=
  (op.reach s sid v).any fun r => r.1 == c && decide (r.2.1 / 4 ≤ (off + n - 1) / 4) && decide (off / 4 ≤ (r.2.1 + r.2.2 - 1) / 4)

/-- R206: a free scalar access waits for earlier vector words that may touch its words and have not finished. -/
def State.vectorHolds (s : State) (a : Access) : Bool :=
  match a.place with
  | .spad _ =>
    let x := s.strand a.sid
    let waits (v : VEntry) : Bool := decide (v.seq < a.seq) && (a.cycles.flatten.flatMap a.spans).any fun p =>
      v.op.touches s a.sid v (p.1 / 524288) (p.1 % 524288) p.2
    (x.vq.any fun i => match i with | .one v => waits v | .block l => l.words.any waits) ||
    s.accesses.any fun k => k.2.sid == a.sid && (match k.2.word with | some v => waits v | none => false)
  | .phys => false

/-! ## Scalar accesses -/

/-- R75: the turns of a load: local, windowed, cluster or virtual. -/
def Access.turns (a : Access) : Nat :=
  match a.place with
  | .spad c =>
    if c = coreOf a.sid then (if a.cycles.flatten.all fun e => e.win == 0 then 2 else 3) else 2 + ceilDiv (2 * pathLatency (coreOf a.sid) c) 16
  | .phys => 4

/-- Issues a checked scalar access. A load that hits the L1 takes its value there (R189). -/
def State.issueAccess (s : State) (a : Access) (extra : Nat) : Res :=
  if !a.scored && s.vectorHolds a then .held s
  else
    let addr := match a.cycles with | (e :: _) :: _ => e.addr | _ => 0
    if isHost addr && a.place == .phys && (match a.kind with | .store | .block _ => s.checksPending a.vd | _ => false) then .held s
    else
      let a := { a with home := addr, rank := a.rankOf, earliest := s.turn + 16 * (a.turns + extra) }
      let hit := if a.kind = .load ∧ a.cached then (s.core (coreOf a.sid)).l1.find? fun l => l.line == addr / 128 else none
      let own := s.accesses.any fun e => e.2.sid == a.sid && e.2.blocks a
      match hit, a.dst with
      | some l, some d =>
        if own then .ok ((s.promise d false).startAccess a a.latency a.latency)
        else
          let v := ofBytes ((toBytes 128 l.data.toNat).drop (addr % 128) |>.take a.bytes)
          let a := a.gather 0 v
          let s := s.modCore (coreOf a.sid) fun k => { k with l1 := k.l1.map fun m =>
            if m.line = l.line then { m with used := s.pkg.ency } else m }
          .ok ((s.landWide d a.acc 4).perf a.sid 5 1)
      | _, some d => .ok (((s.promise d false).startAccess a a.latency a.latency).perf a.sid 6 (if a.cached then 1 else 0))
      | _, none => .ok (s.startAccess a a.latency a.latency)

/-- Replaces the element of a one-element access. -/
def Access.withData (a : Access) (data exp : Word) : Access :=
  { a with cycles := a.cycles.map fun es => es.map fun e => { e with data := data, exp := exp } }

/-- R46: the address of an M-format word. -/
def memAddr (base : Word) (off n : Nat) : Nat := (base + BitVec.ofInt 64 (immS 10 off * n)).toNat

def ldSigned : LdSize → Bool
  | .b | .h | .w | .d => true
  | .bn | .hn | .wn => false

/-- An access after its checks: a trap, or what follows with the state the checks left. -/
def checked (r : State × Except TrapInfo Access) (k : State → Access → Res) : Res :=
  match r with
  | (s, .error t) => .trapIn s t
  | (s, .ok a) => k s a

def execLd (d a : GReg) (sp : Space) (sz : LdSize) (off : Fin 1024) (s : State) : Host.Outcome State Fault Refusal :=
  finish s (word s { src := [.g a], dst := [.g d] } fun s =>
    checked (s.checkAccess s.cur.sid sp (memAddr (s.rg a) off sz.bytes) sz.bytes .read .plain) fun s x =>
      s.issueAccess { x with sext := ldSigned sz, dst := some (.g d) } 0)

def execSt (d a : GReg) (sp : Space) (sz : StSize) (off : Fin 1024) (s : State) : Host.Outcome State Fault Refusal :=
  finish s (word s { src := [.g d, .g a], outward := true } fun s =>
    checked (s.checkAccess s.cur.sid sp (memAddr (s.rg a) off sz.bytes) sz.bytes .write .plain) fun s x =>
      s.issueAccess ({ x with kind := .store }.withData (s.rg d) 0) 0)

/-- AMO (R207). -/
def atomic (op : AmoOp) (d a b : GReg) (sz : AmoSize) (sp : Space) (s : State) : Host.Outcome State Fault Refusal :=
  finish s (word s { src := [.g a, .g b, .g d], dst := [.g d], outward := true } fun s =>
    checked (s.checkAccess s.cur.sid sp (s.rg a).toNat sz.bytes .write .atomic) fun s x =>
      s.issueAccess ({ x with kind := .amo op, dst := some (.g d), sext := !(op == AmoOp.minn || op == AmoOp.maxn) }.withData (s.rg b) (s.rg d))
        (if x.place = .phys then 0 else 1))

def execAmoAdd (d a b : GReg) (sz : AmoSize) (sp : Space) := atomic .add d a b sz sp
def execAmoMin (d a b : GReg) (sz : AmoSize) (sp : Space) := atomic .min d a b sz sp
def execAmoMax (d a b : GReg) (sz : AmoSize) (sp : Space) := atomic .max d a b sz sp
def execAmoMinn (d a b : GReg) (sz : AmoSize) (sp : Space) := atomic .minn d a b sz sp
def execAmoMaxn (d a b : GReg) (sz : AmoSize) (sp : Space) := atomic .maxn d a b sz sp
def execAmoAnd (d a b : GReg) (sz : AmoSize) (sp : Space) := atomic .and d a b sz sp
def execAmoOr (d a b : GReg) (sz : AmoSize) (sp : Space) := atomic .or d a b sz sp
def execAmoXor (d a b : GReg) (sz : AmoSize) (sp : Space) := atomic .xor d a b sz sp
def execAmoSwap (d a b : GReg) (sz : AmoSize) (sp : Space) := atomic .swap d a b sz sp
def execAmoCas (d a b : GReg) (sz : AmoSize) (sp : Space) := atomic .cas d a b sz sp

/-! ## Cache operations and RPUB (R208, R211) -/

def lineAddr (base : Word) (imm : Nat) : Nat := (base + BitVec.ofInt 64 (immS 12 imm)).toNat

/-- PREF: a failing check makes it a NOP; a line that failed is counted (R227). -/
def execPref (a : GReg) (imm : Fin 4096) (s : State) : Host.Outcome State Fault Refusal :=
  finish s (word s { src := [.g a] } fun s =>
    if s.scored s.cur.sid then .ok s
    else match s.checkAccess s.cur.sid .vir (lineAddr (s.rg a) imm) 1 .read .plain with
    | (s, .error t) => .ok (if t.cause = 10 then s.countTrap s.cur.sid t else s)
    | (s, .ok x) => if x.cached then s.issueAccess { x with kind := .pref } 0 else .ok s)

/-- FLUSH and INVAL: complete at once for a line that is absent or clean, or is never cached; while the line is being copied, or an earlier
access of the strand to it is not performed, they wait (R196, R219). -/
def cacheOp (kind : AccKind) (a : GReg) (imm : Fin 4096) (s : State) : Host.Outcome State Fault Refusal :=
  finish s (word s { src := [.g a], outward := true } fun s =>
    checked (s.checkAccess s.cur.sid .vir (lineAddr (s.rg a) imm) 1 .read .touch) fun s x =>
      if x.window.isSome then .ok s
      else
        let addr := match x.cycles with | (e :: _) :: _ => e.addr | _ => 0
        let absent : Bool := match s.migrate x.vd addr with
          | some h => !(s.mc.any fun l => l.line == h / 128 && l.dirty)
          | none => false
        if !(isNear addr || isFar addr) then .ok s
        else if absent && !(s.accesses.any fun e => e.2.sid == s.cur.sid && e.2.blocks { x with kind := kind }) then
          .ok (s.doElems { x with kind := kind } x.cycles.flatten).1
        else s.issueAccess { x with kind := kind } 0)

def execFlush (a : GReg) (imm : Fin 4096) := cacheOp .flush a imm
def execInval (a : GReg) (imm : Fin 4096) := cacheOp .inval a imm

def execRpub (a : GReg) (s : State) : Host.Outcome State Fault Refusal :=
  finish s (word s { src := [.g a], outward := true } fun s =>
    checked (s.checkAccess s.cur.sid .vir (s.rg a).toNat 1 .read .touch) fun s x =>
      match x.window with
      | some (w, true) =>
        let k := s.key (192 + w)
        if (s.key x.vd).inthold ∨ k.pubgen = 2 ^ 31 - 1 then accessFault (s.rg a)
        else if s.checksPending x.vd then .held s
        else .ok (s.startAccess { x with kind := .rpub w } 0 0)
      | _ => accessFault (s.rg a))

/-! ## FENCE (R197, R210) -/

def Scope.code : Scope → Nat
  | .strand => 0
  | .core => 1
  | .cluster => 2
  | .partition => 3
  | .ensemble => 4

def pathBit : Path → Nat
  | .core => 0
  | .stream => 1
  | .harp => 2
  | .dray => 3
  | .fabric => 4
  | .relay => 5

/-- R197: whether a core of the package belongs to a scope of a strand. -/
def State.scopeHas (s : State) (sid : Nat) (sc : Scope) (c : Nat) : Bool :=
  match sc with
  | .strand | .core => c == coreOf sid
  | .cluster => clusterOf c == clusterOf (coreOf sid)
  | .partition => s.partOf c == s.partOf (coreOf sid)
  | .ensemble => true

/-- R197: whether every operation that a FENCE of word `seq` waits for is complete: those whose target lies within its scope. A network
request reads or writes memory of the package at every scope. -/
def State.fenceDone (s : State) (sid seq : Nat) (sc : Scope) (mask : Nat) : Bool :=
  let on (p : Path) : Bool := mask.testBit (pathBit p)
  (s.accesses.all fun a => !(a.2.sid == sid && decide (a.2.seq < seq) && a.2.cycles.flatten.any fun e => on (a.2.pathOf e) &&
    match a.2.place with | .spad _ => s.scopeHas sid sc (e.addr / 524288) | .phys => true)) &&
  (!on .harp || s.cores.all fun c => c.2.harpq.all fun q => !(q.sid == sid && decide (q.seq < seq) &&
    match q.op with | .mma .. => true | _ => false)) &&
  (!on .dray || s.drays.all fun d => d.2.cmds.all fun c => !(c.sid == sid && decide (c.wseq < seq) && c.mig.isNone &&
    (sc == .ensemble || c.shared || c.cores.any (s.scopeHas sid sc)))) &&
  (!on .dray || s.qps.all fun q => q.2.send.all fun w => !(w.sid == sid && decide (w.wseq < seq))) &&
  (!on .fabric || s.ops.all fun o => !(o.2.sid == sid && decide (o.2.seq < seq) &&
    (sc == .ensemble || (o.2.away.isNone && (o.2.cores.isEmpty || o.2.cores.any (s.scopeHas sid sc))))))

/-- R197: the L1 rule of a FENCE. -/
def State.fenceL1 (s : State) (sid : Nat) (sc : Scope) (mask : Nat) : State :=
  if mask.testBit 0 ∧ Scope.code sc ≥ 2 then s.l1Drop (coreOf sid) fun l => !l.ro else s

/-- The peer error bitmap, read and cleared (R210). -/
def State.takePeerErr (s : State) (sid : Nat) (mask : Nat) : Word × State :=
  if mask.testBit 4 then ((s.strand sid).peererr.setWidth 64, s.modStrand sid fun x => { x with peererr := 0 }) else (0, s)

/-- A promised scalar result becomes known and lands no earlier than now. -/
def State.resolve (s : State) (sid seq : Nat) (d : Dst) (v : Word) (due : Nat) : State :=
  let s := s.deliver sid seq d (v.setWidth 65536) (BitVec.allOnes 65536) due
  s.modStrand sid fun x => x.landAll (s.lcy sid) (!s.scored sid)

/-- A FENCE completes: its result lands two turns after issue, or at the first turn after completion. -/
def State.fenceEnd (s : State) (sid : Nat) (d : GReg) (sc : Scope) (mask seq turn : Nat) : State :=
  let s := s.fenceL1 sid sc mask
  let (v, s) := s.takePeerErr sid mask
  if d = 0 then s else s.resolve sid seq (.g d) v (Nat.max (turn + 32) (s.lcy sid))

def execFence (d : GReg) (scope : Scope) (mask : Fin 64) (s : State) : Host.Outcome State Fault Refusal :=
  finish s (word s { dst := [.g d], outward := true } fun s =>
    let sid := s.cur.sid
    if s.scored sid then
      let (v, s) := s.takePeerErr sid mask
      .ok (s.landG d v 2)
    else if s.fenceDone sid s.seqNo scope mask then
      let (v, s) := (s.fenceL1 sid scope mask).takePeerErr sid mask
      .ok (s.landG d v 2)
    else
      let s := if d = 0 then s else s.promise (.g d) false
      .ok (s.modMe fun x => { x with wait := some (.fence d scope mask s.seqNo s.turn) }))

end Sys2Proof.Machine
end

