-- ==== Sys2Proof/Machine/Vector.lean ====
section
/-! DEFINITION. The vector queue (R132, R133, R76): issue of vector words, SETVL, VSYNC and VLOOP (R136 to R140), the start of
the next word in the lanes and the landing of its results. -/
namespace Sys2Proof.Machine

/-! ## The queues (R133) -/

/-- Return-queue entries of a word. -/
def VOp.returns : VOp → Nat
  | .extr .. | .mcnt .. | .mfirst .. => 1
  | _ => 0

/-- The g register that a word delivers to. -/
def VOp.gDst : VOp → Option GReg
  | .extr d _ _ _ => some d
  | .mcnt d _ _ => some d
  | .mfirst d _ _ => some d
  | _ => none

/-- Vector-queue entries in use. -/
def Strand.queued (x : Strand) : Nat :=
  (x.vq.map fun i => match i with | .one _ => 1 | .block l => l.words.length).sum +
  match x.collect with | some l => if l.reps = 0 then 0 else l.words.length | none => 0

/-- Whether the replay is the last (R139, R140). -/
def VLoop.lastReplay (l : VLoop) : Bool := l.trim.isSome || l.rep + 1 == l.reps

/-- Return entries that a block holds itself: its own and those of the words whose last replay has not started; a block of no replays
has its own alone (R133, R138). -/
def VLoop.returns (l : VLoop) : Nat :=
  1 + if l.reps = 0 then 0 else ((if l.lastReplay then l.words.drop l.pos else l.words).map fun e => e.op.returns).sum

/-- Return-queue entries in use. -/
def Strand.returning (x : Strand) : Nat :=
  (x.vq.map fun i => match i with | .one e => e.op.returns | .block l => l.returns).sum +
  (match x.collect with | some l => l.returns | none => 0) + (x.started.map (·.ret)).sum

/-- R76: elements of width w per turn, ⌈n / E⌉ turns and at least one. -/
def State.occOf (s : State) (sid w n : Nat) : Nat :=
  let e := 512 / 2 ^ (s.core (coreOf sid)).k * 32 / w
  Nat.max 1 (ceilDiv n e)

/-- R76, R132: the lane start of a word issued at turn t, by what started before it. -/
def Strand.startAt (x : Strand) (t : Nat) : Nat := Nat.max (t + 16) x.laneNext

/-- The issue turn of the item that starts next. -/
def VItem.turn : VItem → Nat
  | .one e => e.turn
  | .block l => ((l.words.getLast?).map (·.turn)).getD 0

/-- The next item of the queue starts in the lanes at its turn. -/
def State.oweLane (s : State) (sid : Nat) : State :=
  let x := s.strand sid
  match x.vq with
  | i :: _ => s.owe (some (s.clockOf sid)) (x.startAt i.turn) prioLane (.laneStart sid)
  | [] => s

/-- An item enters the vector queue; alone in it, its lane start is set. -/
def State.pushItem (s : State) (i : VItem) : State :=
  let first := s.me.vq.isEmpty
  let s := s.modMe fun x => { x with vq := x.vq ++ [i] }
  if first then s.oweLane s.cur.sid else s

/-! ## VLOOP blocks (R138, R139) -/

/-- The block that vector words are being collected for. -/
def Strand.collecting (x : Strand) : Option VLoop :=
  match x.collect with
  | some l => if l.inh = x.inh then some l else none
  | none => none

/-- R138: an illegal word in a block discards the VLOOP and its words. -/
def illegalInBlock (s : State) : Res :=
  let drop (x : Strand) : Strand := match x.collect with
    | some l => { x with
        collect := none
        pend := x.pend.filter fun p => !((p.seq == l.own || l.words.any fun e => e.seq == p.seq) && p.val.isNone && p.vec) }
    | none => x
  .trapIn (s.modMe drop) { cause := 2, eval := s.cur.raw.setWidth 64 }

/-- A word outside every block. -/
def notInBlock (s : State) (effect : State → Res) : Res :=
  if s.me.collecting.isSome then illegalInBlock s else effect s

/-- The last word of a block has issued: the replays may start; with N = 0 the result lands in the next turn. -/
def State.closeBlock (s : State) (l : VLoop) : State :=
  let s := s.modMe fun x => { x with collect := none }
  if l.reps = 0 then
    if l.d = 0 then s else s.deliver s.cur.sid l.own (.g l.d) 0 (BitVec.allOnes 65536) (s.turn + 16)
  else s.pushItem (.block { l with seq := s.seqNo, next := s.cur.next })

/-! ## Issue of a vector word -/

/-- R133, R239, R240: a full vector or return queue holds the word on a free core and is a timing fault on a scored one. -/
def queueRoom (s : State) (rets entries : Nat) (k : State → Res) : Res :=
  if (s.me.queued + entries > 16) ∨ (rets ≠ 0 ∧ s.me.returning + rets > 8) then
    if s.scored s.cur.sid then timingFault s 3 else .held s
  else k s

/-- The registers that a word promises at issue: its g result, and VL and the stream that SLD and SST advance (R218). -/
def VOp.promises : VOp → List Dst
  | .sld _ st _ _ => [.vl, .st st]
  | .sst _ st _ _ => [.st st]
  | op => match op.gDst with | some d => if d = 0 then [] else [.g d] | none => []

def State.promiseAll (s : State) (l : List Dst) : State := l.foldl (fun s d => s.promise d true) s

/-- The entry of a word with what it captures at issue. -/
def State.entryOf (s : State) (op : VOp) : VEntry :=
  ⟨s.seqNo, s.cur.addr, s.turn, s.me.vlen, op, (s.core (coreOf s.cur.sid)).winscale⟩

/-- A vector word issues: into its block, as the word at which an interrupted block goes on, or into the queue. -/
def enqueue (blockOk : Bool) (op : VOp) (s : State) : Res :=
  let e := s.entryOf op
  match s.me.collecting with
  | some l =>
    if !blockOk then illegalInBlock s
    else queueRoom s (if l.reps = 0 then 0 else op.returns) (if l.reps = 0 then 0 else 1) fun s =>
      let s := if l.reps = 0 then s else s.promiseAll op.promises
      let l := { l with words := l.words ++ [e] }
      .ok (if l.words.length = l.len then s.closeBlock l else s.modMe fun x => { x with collect := some l })
  | none =>
    match s.me.heldLoop with
    | some l =>
      if ((l.words[l.pos]?).map (·.pc)) = some s.cur.addr ∧ l.inh = s.me.inh then
        queueRoom s l.returns l.words.length fun s =>
        let turn := s.turn
        let seq := s.seqNo
        let words := l.words.map fun w => { w with turn := turn, seq := seq }
        let s := s.modMe fun x => { x with heldLoop := none, pc := l.next }
        let s := if l.d = 0 then s else s.promise (.g l.d) true
        let s := (if l.rep + 1 < l.reps then words else words.drop l.pos).foldl (fun s w => s.promiseAll w.op.promises) s
        .ok (s.pushItem (.block { l with seq := seq, own := seq, words := words }))
      else queueRoom s op.returns 1 fun s => .ok ((s.promiseAll op.promises).pushItem (.one e))
    | none => queueRoom s op.returns 1 fun s => .ok ((s.promiseAll op.promises).pushItem (.one e))

/-- A vector word with its scalar sources; it captures VL and its scalars at issue (R132). -/
def vectorWord (src : List Dst) (blockOk : Bool) (op : State → VOp) (s : State) : Res :=
  word s { vec := true, src := .vl :: src, dst := match (op s).gDst with | some d => [.g d] | none => [] } fun s =>
    enqueue blockOk (op s) s

/-- A vector word without scalar sources, an A-class word. -/
def plainVec (op : VOp) (s : State) : Host.Outcome State Fault Refusal := finish s (vectorWord [] true (fun _ => op) s)

/-! ## SETVL, VSYNC and VLOOP -/

/-- R66: the capacity of a register for elements of width w. -/
def State.emax (s : State) (sid w : Nat) : Nat := s.vlmax32 sid * 32 / w

def execSetvl (d a : GReg) (e : EW) (s : State) : Host.Outcome State Fault Refusal :=
  finish s (word s { vec := true, src := [.g a], dst := [.g d, .vl] } fun s => notInBlock s fun s =>
    let grant := Nat.min (s.rg a).toNat (s.emax s.cur.sid e.bits)
    .ok ((s.landG d (BitVec.ofNat 64 grant) 2).landWide .vl (BitVec.ofNat _ (e.code * 16384 + grant)) 2))

def execVsync (s : State) : Host.Outcome State Fault Refusal :=
  finish s (word s { vec := true } fun s => notInBlock s fun s =>
    match s.me.oldestVec with
    | some o => if o < s.seqNo then .ok (s.modMe fun x => { x with wait := some (.vsync s.seqNo) }) else .ok s
    | none => .ok s)

def execVloop (d a : GReg) (n : Fin 16) (s : State) : Host.Outcome State Fault Refusal :=
  finish s (word s { vec := true, src := [.g a], dst := [.g d] } fun s => notInBlock s fun s =>
    queueRoom s 1 0 fun s =>
      let l : VLoop := {
        seq := s.seqNo, own := s.seqNo, pc := s.cur.addr, d := d, len := n.val + 1
        reps := bits (s.rg a) 0 32, words := [], rep := 0, pos := 0, inh := s.me.inh, trim := none }
      let s := if d = 0 then s else s.promise (.g d) true
      .ok (s.modMe fun x => { x with collect := some l }))

/-! ## VALU (R141) -/

def execVadd (d a b : VecReg) (m : MReg) (e : EW) := plainVec (.alu .add d a b m e)
def execVsub (d a b : VecReg) (m : MReg) (e : EW) := plainVec (.alu .sub d a b m e)
def execVmul (d a b : VecReg) (m : MReg) (e : EW) := plainVec (.alu .mul d a b m e)
def execVmulh (d a b : VecReg) (m : MReg) (e : EW) := plainVec (.alu .mulh d a b m e)
def execVmin (d a b : VecReg) (m : MReg) (e : EW) := plainVec (.alu .min d a b m e)
def execVmax (d a b : VecReg) (m : MReg) (e : EW) := plainVec (.alu .max d a b m e)
def execVminn (d a b : VecReg) (m : MReg) (e : EW) := plainVec (.alu .minn d a b m e)
def execVmaxn (d a b : VecReg) (m : MReg) (e : EW) := plainVec (.alu .maxn d a b m e)
def execVand (d a b : VecReg) (m : MReg) (e : EW) := plainVec (.alu .and d a b m e)
def execVor (d a b : VecReg) (m : MReg) (e : EW) := plainVec (.alu .or d a b m e)
def execVxor (d a b : VecReg) (m : MReg) (e : EW) := plainVec (.alu .xor d a b m e)
def execVshl (d a b : VecReg) (m : MReg) (e : EW) := plainVec (.alu .shl d a b m e)
def execVshr (d a b : VecReg) (m : MReg) (e : EW) := plainVec (.alu .shr d a b m e)
def execVsar (d a b : VecReg) (m : MReg) (e : EW) := plainVec (.alu .sar d a b m e)
def execVabs (d a : VecReg) (m : MReg) (e : EW) := plainVec (.alu .abs d a 0 m e)
def execVneg (d a : VecReg) (m : MReg) (e : EW) := plainVec (.alu .neg d a 0 m e)
def execVsel (d a b : VecReg) (m : MReg) (e : EW) := plainVec (.sel d a b m e)

/-! ## VFP and VCMP (R142, R143) -/

def execVfadd (d a b : VecReg) (m : MReg) (e : FEW) := plainVec (.fp .add d a b m e)
def execVfsub (d a b : VecReg) (m : MReg) (e : FEW) := plainVec (.fp .sub d a b m e)
def execVfmul (d a b : VecReg) (m : MReg) (e : FEW) := plainVec (.fp .mul d a b m e)
def execVfma (d a b : VecReg) (m : MReg) (e : FEW) := plainVec (.fp .fma d a b m e)
def execVfms (d a b : VecReg) (m : MReg) (e : FEW) := plainVec (.fp .fms d a b m e)
def execVfmin (d a b : VecReg) (m : MReg) (e : FEW) := plainVec (.fp .min d a b m e)
def execVfmax (d a b : VecReg) (m : MReg) (e : FEW) := plainVec (.fp .max d a b m e)
def execVfabs (d a : VecReg) (m : MReg) (e : FEW) := plainVec (.fp .abs d a 0 m e)
def execVfneg (d a : VecReg) (m : MReg) (e : FEW) := plainVec (.fp .neg d a 0 m e)
def execVcmpEq (d : MReg) (a b : VecReg) (m : MReg) (e : EW) := plainVec (.cmp .eq d a b m e)
def execVcmpNe (d : MReg) (a b : VecReg) (m : MReg) (e : EW) := plainVec (.cmp .ne d a b m e)
def execVcmpLt (d : MReg) (a b : VecReg) (m : MReg) (e : EW) := plainVec (.cmp .lt d a b m e)
def execVcmpGe (d : MReg) (a b : VecReg) (m : MReg) (e : EW) := plainVec (.cmp .ge d a b m e)
def execVcmpLtn (d : MReg) (a b : VecReg) (m : MReg) (e : EW) := plainVec (.cmp .ltn d a b m e)
def execVcmpGen (d : MReg) (a b : VecReg) (m : MReg) (e : EW) := plainVec (.cmp .gen d a b m e)
def execVcmpFeq (d : MReg) (a b : VecReg) (m : MReg) (e : FEW) := plainVec (.fcmp .feq d a b m e)
def execVcmpFne (d : MReg) (a b : VecReg) (m : MReg) (e : FEW) := plainVec (.fcmp .fne d a b m e)
def execVcmpFlt (d : MReg) (a b : VecReg) (m : MReg) (e : FEW) := plainVec (.fcmp .flt d a b m e)
def execVcmpFge (d : MReg) (a b : VecReg) (m : MReg) (e : FEW) := plainVec (.fcmp .fge d a b m e)
def execVcmpFun (d : MReg) (a b : VecReg) (m : MReg) (e : FEW) := plainVec (.fcmp .unord d a b m e)

/-! ## VCVT and VSPEC (R144 to R149) -/

/-- A word with a format code that it may refuse (R144). -/
def formatVec (ok : Bool) (fmt : Nat) (op : VOp) (s : State) : Host.Outcome State Fault Refusal :=
  finish s (if !s.isVector s.cur.sid then illegalInstr s
    else if ok then vectorWord [] true (fun _ => op) s else illegalFormat (BitVec.ofNat 64 fmt))

def execVcvt (d a : VecReg) (fmt : Fin 32) (m : MReg) (e : FEW) (rnd : Rnd) :=
  formatVec (decide (fmt.val ≤ 27)) fmt (.cvt d a fmt m e rnd)
def execVqnt (d a : VecReg) (fmt : Fin 32) (m : MReg) (e : FEW) :=
  formatVec (fmt.val == 12 || fmt.val == 9 || fmt.val == 4 || fmt.val == 2) fmt (.qnt d a fmt m e)
def execVdqnt (d a : VecReg) (fmt : Fin 32) (m : MReg) (e : FEW) (rnd : Rnd) :=
  formatVec (decide (fmt.val ≤ 27)) fmt (.dqnt d a fmt m e rnd)
def execVrndi (d a : VecReg) (m : MReg) (e : FEW) (rnd : Rnd) := plainVec (.rndi d a m e rnd)
def execVrcpa (d a : VecReg) (m : MReg) (e : FEW) := plainVec (.spec .rcp d a m e)
def execVrsqa (d a : VecReg) (m : MReg) (e : FEW) := plainVec (.spec .rsq d a m e)
def execVexp2a (d a : VecReg) (m : MReg) (e : FEW) := plainVec (.spec .exp2 d a m e)
def execVlog2a (d a : VecReg) (m : MReg) (e : FEW) := plainVec (.spec .log2 d a m e)

/-! ## VRED and VPERM (R151 to R154) -/

def execVredsum (d a : VecReg) (k : RedT) (m : MReg) := plainVec (.red .sum d a k m)
def execVredmax (d a : VecReg) (k : RedT) (m : MReg) := plainVec (.red .max d a k m)
def execVredmin (d a : VecReg) (k : RedT) (m : MReg) := plainVec (.red .min d a k m)
def execVscan (d a : VecReg) (op : ScanOp) (k : RedT) (m : MReg) := plainVec (.scan op d a k m)
def execVdot4 (d a b : VecReg) (m : MReg) := plainVec (.dot4 d a b m)
def execVperm (d a b : VecReg) (m : MReg) (e : EW) := plainVec (.perm (.perm b) d a m e)
def execVcomp (d a : VecReg) (m : MReg) (e : EW) := plainVec (.perm .comp d a m e)
def execVexpd (d a : VecReg) (m : MReg) (e : EW) := plainVec (.perm .expd d a m e)
def execViota (d : VecReg) (m : MReg) (e : EW) := plainVec (.iota d m e)

def execVslup (d a : VecReg) (b : GReg) (m : MReg) (e : EW) (s : State) : Host.Outcome State Fault Refusal :=
  finish s (vectorWord [.g b] true (fun s => .perm (.slup (s.rg b)) d a m e) s)
def execVsldn (d a : VecReg) (b : GReg) (m : MReg) (e : EW) (s : State) : Host.Outcome State Fault Refusal :=
  finish s (vectorWord [.g b] true (fun s => .perm (.sldn (s.rg b)) d a m e) s)
def execVbcast (d : VecReg) (a : GReg) (m : MReg) (e : EW) (s : State) : Host.Outcome State Fault Refusal :=
  finish s (vectorWord [.g a] true (fun s => .bcast d (s.rg a) m e) s)
def execVextr (d : GReg) (a : VecReg) (b : GReg) (e : EW) (s : State) : Host.Outcome State Fault Refusal :=
  finish s (vectorWord [.g b] true (fun s => .extr d a (s.rg b) e) s)
def execVins (d : VecReg) (a b : GReg) (e : EW) (s : State) : Host.Outcome State Fault Refusal :=
  finish s (vectorWord [.g a, .g b] true (fun s => .ins d (s.rg a) (s.rg b) e) s)

/-! ## VMASK and VRNG (R155, R156) -/

def execMand (d a b : MReg) (e : EW) := plainVec (.mask .and d a b e)
def execMor (d a b : MReg) (e : EW) := plainVec (.mask .or d a b e)
def execMxor (d a b : MReg) (e : EW) := plainVec (.mask .xor d a b e)
def execMnot (d a : MReg) (e : EW) := plainVec (.mnot d a e)
def execMcnt (d : GReg) (a : MReg) (e : EW) := plainVec (.mcnt d a e)
def execMfirst (d : GReg) (a : MReg) (e : EW) := plainVec (.mfirst d a e)
def execQand (d a b : QReg) (e : EW) := plainVec (.qand d a b e)
def execQclr (d : QReg) (a : MReg) (e : EW) := plainVec (.qclr d a e)

def execVrng (d : VecReg) (a b : GReg) (m : MReg) (e : EW) (s : State) : Host.Outcome State Fault Refusal :=
  finish s (vectorWord [.g a, .g b] true (fun s => .rng d (s.rg a) (s.rg b) m e) s)

/-! ## B groups (R159, R162, R176) -/

/-- The fields of a descriptor, with P, MR, MC and the ASYM group size G as counts. -/
structure Desc where
  soff : Nat
  planes : Nat
  bk : Nat
  mr : Nat
  mc : Nat
  grp : Nat
  toff : Nat

def descOf (w : Word) : Desc :=
  ⟨bits w 0 19, bits w 19 5 + 1, bits w 24 3, bits w 27 2 + 1, bits w 29 3 + 1, 32 * 2 ^ bits w 32 2, bits w 34 19⟩

/-- R176: the columns that a crew forms of an HMMS of MC column slices. -/
def crewCols (crew mc : Nat) : Nat := if mc ≤ 4 then mc else if crew % 2 = 0 then 4 else mc - 4

/-- The v and be registers of a command's B group. -/
def HarpCmd.group (q : HarpCmd) : List Nat :=
  match q.op with
  | .mma _ multi vb d _ n _ _ =>
    let k := if multi then crewCols (crewOf q.core) (descOf d).mc else if (descOf d).bk = 6 then 2 else 1
    (List.range (k * n)).map (vb.val + ·)
  | _ => []

/-! ## The lanes -/

/-- A result of a vector word becomes known: it fulfils the word's promise, or is a result of its own. -/
def State.landVec (s : State) (sid seq turn : Nat) (d : Dst) (v mask : Nat) (due : Nat) : State :=
  let x := s.strand sid
  if x.pend.any fun p => p.seq == seq && p.dst == d && p.due.isNone then
    s.deliver sid seq d (BitVec.ofNat 65536 v) (BitVec.ofNat 65536 mask) due
  else
    (s.addPend sid ⟨seq, turn, d, some (BitVec.ofNat 65536 v), BitVec.ofNat 65536 mask, some due, true⟩).owe
      (some (s.clockOf sid)) due prioLand (.land sid)

/-- What is starting in the lanes: the entry, with the sequence number it counts under, the sequence numbers under which its
results were promised at issue, its return entries, and the VLOOP result that lands with it. -/
structure Lane where
  sid : Nat
  e : VEntry
  promised : List Nat
  ret : Nat
  loop : Option (GReg × Nat × Nat)

/-- R169: whether a vector or exponent register belongs to the B group of an earlier HMMA or HMMS of the strand whose array
phase has not ended. -/
def State.groupHeld (s : State) (sid seq : Nat) (d : Dst) : Bool :=
  let h := s.harp (crewOf (coreOf sid))
  match d with
  | .v r | .be r =>
    (match h.group with
      | some (o, regs, stop) => o == sid && decide (s.pkg.ency < stop) && decide (h.charged.2 < seq) && regs.contains r.val
      | none => false) ||
    (s.core (coreOf sid)).harpq.any fun q => q.sid == sid && decide (q.seq < seq) && q.group.contains r.val
  | _ => false

/-- R132, R169: whether a free word may start: its sources have landed, its destinations have no pending write, and no array
command still reads them. The A word of a joined pair does not see what the pair's C word writes (R41). -/
def State.laneReady (s : State) (l : Lane) : Bool :=
  let waits (before : Nat) (d : Dst) : Bool := !d.fixed && (s.strand l.sid).pend.any fun p =>
    p.dst == d && decide (p.seq < before) && !(p.vec && p.val.isNone && p.due.isNone && l.promised.contains p.seq)
  s.scored l.sid || !(l.e.op.srcs.any (waits (unitSeq l.e.seq)) || l.e.op.dsts.any (waits l.e.seq) ||
    l.e.op.dsts.any (s.groupHeld l.sid l.e.seq))

/-- The word has started: it counts as outstanding until it lands, and the lanes are taken for occ turns. -/
def State.laneTake (s : State) (l : Lane) (occ : Nat) : State :=
  let now := s.lcy l.sid
  (s.modStrand l.sid fun x => { x with
    started := x.started ++ [⟨l.e.seq, l.e.pc, none, l.ret, l.loop⟩], laneNext := now + 16 * occ }).perf l.sid 4 occ

/-- R132, R139: a word that computes in the lanes lands at S + occ + depth. -/
def State.laneArith (s : State) (l : Lane) (o : LaneOut) : State :=
  let occ := s.occOf l.sid o.width o.vl
  let due := s.lcy l.sid + 16 * (occ + o.depth)
  let s := s.laneTake l occ
  let s := o.outs.foldl (fun s r => s.landVec l.sid l.e.seq l.e.turn r.1 r.2.1 r.2.2 due) s
  let s := if o.flags = 0 then s else s.landVec l.sid l.e.seq l.e.turn .fp o.flags (2 ^ 65536 - 1) due
  s.setDue l.sid l.e.seq due

end Sys2Proof.Machine
end

