-- ==== Sys2Proof/Machine/VecMem.lean ====
section
/-! DEFINITION. Vector memory words, segment stores, streams and VAMO (R185, R212 to R221). -/
namespace Sys2Proof.Machine

/-! ## Access cycles (R185) -/

/-- A unit: its words, and the elements that it serves. -/
structure BankUnit where
  words : List Nat
  elems : List Elem
  deriving DecidableEq, Repr

/-- How the units of a word are shared and ordered. -/
inductive UnitKind
  | load | store | amo | index
  deriving DecidableEq, Repr

/-- The words of an element: its first word address counted over all scratchpads, and the next for a pair. -/
def wordsOf (a : Access) (e : Elem) : List Nat :=
  let w := (((a.spans e).map (·.1)).headD e.addr) / 4
  if a.bytes = 8 then [w, w + 1] else [w]

/-- Whether an element shares the unit before it: in one word, and never twice the same bytes of a store. -/
def UnitKind.shares (k : UnitKind) (load : Bool) (e : Elem) (u : BankUnit) : Bool :=
  match k with
  | .amo => false
  | _ => load || u.elems.all fun f => decide (f.addr ≠ e.addr)

/-- The units of elements in their order. -/
def unitsOf (k : UnitKind) (load : Bool) (a : Access) (es : List Elem) : List BankUnit :=
  (es.foldl (fun (us : List BankUnit) e =>
    let w := wordsOf a e
    match us with
    | u :: t => if u.words = w ∧ k.shares load e u = true then { u with elems := u.elems ++ [e] } :: t else ⟨w, [e]⟩ :: us
    | [] => [⟨w, [e]⟩]) []).reverse

/-- The constant stride of consecutive units in units, where it is 2^e with e in range. -/
def strideOf (pair : Bool) (us : List BankUnit) : Option Nat :=
  let ws := us.map fun u => (u.words.head?).getD 0
  let step := if pair then 2 else 1
  match ws with
  | a :: b :: _ =>
    let d := b - a
    let e := log2 (d / step)
    if a < b ∧ d = step * 2 ^ e ∧ e ≤ (if pair then 11 else 12) ∧
      (ws.zip (ws.drop 1)).all (fun p => decide (p.1 + d = p.2)) then some e else none
  | _ => some 0

/-- R185: units gathered into groups. -/
def groupCycles (pair : Bool) (e : Nat) (us : List BankUnit) : List (List Elem) :=
  let g (u : BankUnit) : Nat := (u.words.head?).getD 0 / 2 ^ (e + 5 + if pair then 1 else 0)
  let keys := (us.map g).eraseDups
  keys.map fun k => (us.filter fun u => g u == k).flatMap (·.elems)

/-- The bank of a word over all scratchpads. -/
def bankId (w : Nat) : Nat := w / 131072 * 32 + bankOf (4 * w)

/-- R185: the greedy order; the current cycle's words and elements stand first. -/
def greedyCycles (load : Bool) : List BankUnit → List Nat → List Elem → List (List Elem)
  | [], _, es => if es.isEmpty then [] else [es]
  | u :: t, ws, es =>
    if load && u.words.all ws.contains then greedyCycles load t ws (es ++ u.elems)
    else if u.words.any (fun w => (ws.map bankId).contains (bankId w)) || decide (ws.length + u.words.length > 32) then
      es :: greedyCycles load t u.words u.elems
    else greedyCycles load t (ws ++ u.words) (es ++ u.elems)

/-- R185, R213: the access cycles and the planned count of a vector access. -/
def cyclesOf (k : UnitKind) (load : Bool) (a : Access) (es : List Elem) : List (List Elem) × Nat :=
  let us := unitsOf k load a es
  let pair := a.bytes == 8
  match (match k with | .load | .store => strideOf pair us | _ => none) with
  | some e => let c := groupCycles pair e us; (c, c.length)
  | none => (greedyCycles load us [] [], ceilDiv ((us.map fun u => u.words.length).sum) 32)

/-! ## VMEM and VAMO in the lanes (R213 to R215, R220) -/

/-- The address of element i (R212). -/
def VAddr.at (ad : VAddr) (x : Strand) (bytes i : Nat) : Nat :=
  match ad with
  | .unit b => (b + BitVec.ofNat 64 (i * bytes)).toNat
  | .stride b st => (b + BitVec.ofNat 64 i * st).toNat
  | .index b v => (b + BitVec.ofNat 64 (elemAt (x.rv v).toNat 32 i)).toNat

/-- R214: an element's place under R203, with its window. `whole` allows windows W1 to W6. -/
def State.elemPlace (s : State) (l : VEntry) (sid : Nat) (clu load whole : Bool) (bytes ea : Nat) : Except TrapInfo (Nat × Nat × Nat) :=
  if ea % bytes ≠ 0 then .error (faultAt 6 ea)
  else match s.spadTarget (s.wordScales sid l) sid clu ea bytes load with
    | .error t => .error t
    | .ok (c, off, win) => if win ≠ 0 ∧ whole = false then .error (faultAt 3 ea) else .ok (c, off, win)

/-- The places of the active elements, or the fault of the lowest that fails. -/
def placesOf (place : Nat → Except TrapInfo (Nat × Nat × Nat)) : List Nat → Except TrapInfo (List (Nat × Nat × Nat × Nat))
  | [] => .ok []
  | i :: t =>
    match place i with
    | .error f => .error f
    | .ok p => match placesOf place t with
      | .error f => .error f
      | .ok r => .ok ((i, p) :: r)

/-- An access by a vector word, not yet placed. -/
def laneAccess (s : State) (l : Lane) : Access :=
  { blankAccess s l.sid with seq := l.e.seq, pc := l.e.pc, turn := l.e.turn, vec := true, msk := 0, word := some l.e }

/-- The elements with their data: what a store of an invalid block writes is zero (R87, R215). -/
def storeData (x : Strand) (r : VecReg) (w i : Nat) (checked : Bool) : Word :=
  if checked && !x.valid r (i / 32) then 0 else BitVec.ofNat 64 (elemAt (x.rv r).toNat w i)

/-- R13, R194: access cycles by the cycle in which they fall, counted from the earliest: cycle j of a core at path latency P falls in
cycle P + j. With them the slot of the first access cycle beyond the plan, or their number. -/
def timedCycles (lat : Nat → Nat) (plan : Nat) (cycles : List (List Elem)) : List (List Elem) × Nat :=
  let at_ := cycles.zipIdx.flatMap fun c => c.1.map fun e => (lat (e.addr / 524288) + c.2, c.2, e)
  match at_ with
  | [] => ([], 0)
  | h :: t =>
    let first := t.foldl (fun n p => Nat.min n p.1) h.1
    let slots := t.foldl (fun n p => Nat.max n p.1) h.1 + 1 - first
    let stop := ((at_.filter fun p => decide (plan ≤ p.2.1)).map fun p => p.1 - first).foldl Nat.min slots
    ((List.range slots).map fun i => (at_.filter fun p => p.1 == first + i).map (·.2.2), stop)

/-- A placed vector access starts: its lane time, its earliest landing and its bank cycles (R194, R213). -/
def State.laneStartAccess (s : State) (l : Lane) (a : Access) (w vl nc depth : Nat) : State :=
  let lat (c : Nat) : Nat := pathLatency (coreOf l.sid) c
  let lats := (a.cycles.flatten.map fun e => lat (e.addr / 524288)).eraseDups
  let p := match lats with | [] => 0 | h :: t => t.foldl Nat.min h
  let occ := Nat.max (s.occOf l.sid w vl) (ceilDiv nc 16)
  let s := s.laneTake l occ
  let (cycles, plan) := timedCycles lat nc a.cycles
  let a := { a with
    cycles := cycles, plan := plan, stall := a.cycles.length - nc, earliest := s.lcy l.sid + 16 * (occ + depth)
    rank := if lats.all (· == 0) then rankVector (s.lcy l.sid) else rankCluster (coreOf l.sid % 48) }
  let s := match a.dst with
    | some d => (s.addPend l.sid ⟨l.e.seq, l.e.turn, d, none, 0, none, true⟩).addPend l.sid
        ⟨l.e.seq, l.e.turn, match d with | .v r => .q (qOf r) | d => d, none, 0, none, true⟩
    | none => s
  if a.cycles.isEmpty then
    let (id, s) := s.fresh
    s.finishAccess id a
  else s.startAccess a p (lats.foldl Nat.max 0)

/-- VMEM fn 0 to 5 and VAMO at lane start: every active element is checked, and each is read or written through the window of its own
address. -/
def State.laneVmem (s : State) (l : Lane) (ad : VAddr) (w : Nat) (clu : Bool) (load whole : Bool) (uk : UnitKind)
    (mk : Access → Access) (data : Strand → Nat → Word) : Except TrapInfo State :=
  let x := s.strand l.sid
  let bytes := w / 8
  let vl := l.e.op.len (s.vlmax32 l.sid) l.e.vl
  let act := (l.e.op.active x vl).filter fun i => decide (x.vstart ≤ i)
  match placesOf (fun i => s.elemPlace l.e l.sid clu load whole bytes (ad.at x bytes i)) act with
  | .error t => .error t
  | .ok ps =>
    let base := ad.at x bytes 0 % 524288
    let es := ps.map fun p => (⟨p.1, spadKey p.2.1 (windowPos p.2.2.2 base p.1 p.2.2.1), data x p.1, 0,
      p.2.2.2, s.wordScales l.sid l.e p.2.1 p.2.2.2, false, none⟩ : Elem)
    let c := ((ps.head?).map (·.2.1)).getD (coreOf l.sid)
    let depth := ps.foldl (fun n p => Nat.max n
      (Nat.max (2 + ceilDiv (2 * pathLatency (coreOf l.sid) p.2.1) 16) (if p.2.2.2 = 0 then 2 else 3))) 2
    let a := mk { laneAccess s l with
      place := .spad c, bytes := bytes, ea := BitVec.ofNat 64 ((act.head?.map (ad.at x bytes)).getD 0) }
    let (cycles, nc) := cyclesOf uk load a es
    let s := s.modStrand l.sid fun x => { x with vstart := 0 }
    .ok (s.laneStartAccess l { a with cycles := cycles } w vl nc (if load then depth else 0))

/-! ## VSEG (R216) -/

/-- The 64 bytes of a segment: its blocks' elements and scales. -/
def segmentBytes (x : Strand) (d : VecReg) (fmt nb seg : Nat) : List Byte :=
  let w := fmtBits fmt
  let n := segBlocks fmt
  let v := (List.range n).foldl (fun v b =>
    let j := n * seg + b
    let ok := decide (j < nb) && x.valid d j
    let elems := if ok then elemAt (x.rv d).toNat (32 * w) j else 0
    let scale := if ok then x.code d j else 255
    v + elems * 2 ^ (32 * w * b) + scale * 2 ^ (8 * (56 + b))) 0
  toBytes 64 v

def State.laneVseg (s : State) (l : Lane) (d : VecReg) (base : Word) (fmt : Nat) (clu : Bool) : Except TrapInfo State :=
  let x := s.strand l.sid
  let vl := l.e.op.len (s.vlmax32 l.sid) l.e.vl
  if vl % 32 ≠ 0 then .error { cause := 3, eval := BitVec.ofNat 64 vl }
  else
    let nb := vl / 32
    let segs := ceilDiv nb (segBlocks fmt)
    let ea (i : Nat) : Nat := (base + BitVec.ofNat 64 (64 * i)).toNat
    let idx := (List.range segs).filter fun i => decide (x.vstart ≤ 32 * i)
    match placesOf (fun i => s.elemPlace l.e l.sid clu false true 64 (ea i)) idx with
    | .error t => .error t
    | .ok ps =>
      let es := ps.map fun p => (⟨p.1, spadKey p.2.1 p.2.2.1, 0, 0, 0, 0, false, none⟩ : Elem)
      let data := (List.range segs).flatMap (segmentBytes x d fmt nb)
      let c := ((ps.head?).map (·.2.1)).getD (coreOf l.sid)
      let us := es.map fun e => (⟨(List.range 16).map fun k => e.addr / 4 + k, [e]⟩ : BankUnit)
      let a := { laneAccess s l with
        place := .spad c, bytes := 64, kind := .block data, ea := base, cycles := greedyCycles false us [] [] }
      let s := s.modStrand l.sid fun x => { x with vstart := 0 }
      .ok (s.laneStartAccess l a (fmtBits fmt) vl (ceilDiv segs 2) 0)

/-! ## Streams (R217 to R219) -/

def streamBase (v : BitVec 128) : Nat := bits v 0 57
def streamStride (v : BitVec 128) : Word := sext 32 (bits v 64 32)
def streamCount (v : BitVec 128) : Nat := bits v 96 32
def streamAt (v : BitVec 128) (i : Nat) : Nat := (BitVec.ofNat 64 (streamBase v) + BitVec.ofNat 64 i * streamStride v).toNat

/-- The stream register after n elements. -/
def streamAfter (v : BitVec 128) (n : Nat) : BitVec 128 :=
  BitVec.ofNat 128 (streamAt v n % 2 ^ 57 + 2 ^ 64 * bits v 64 32 + 2 ^ 96 * (streamCount v - n))

/-- Checks elements in order up to the first that fails: the accesses of those before it, and the failing one. A translation that the stream
engine holds is used as it stands. -/
def streamChecks (sid bytes : Nat) (st : StReg) (r : Right) (v : BitVec 128) :
    List Nat → State → State × List (Nat × Access) × Option (Nat × TrapInfo)
  | [], s => (s, [], none)
  | i :: t, s =>
    let ea := streamAt v i
    let a := { blankAccess s sid with bytes := bytes, ea := BitVec.ofNat 64 ea }
    if ea % bytes ≠ 0 then (s, [], some (i, faultAt 6 ea))
    else match s.virtTarget ((s.strand sid).aheadOf st ea) sid ea bytes r a .plain with
    | (_, .error f) => (s, [], some (i, f))
    | (s, .ok a) => let (s, as, f) := streamChecks sid bytes st r v t s; (s, (i, a) :: as, f)

/-- The stream register and VL advance at S + occ (R218); the engine walks the page of the next element (R217). -/
def State.streamAdvance (s : State) (l : Lane) (st : StReg) (n vl occ : Nat) (load : Bool) : State :=
  let due := s.lcy l.sid + 16 * occ
  let next := streamAfter ((s.strand l.sid).rst st) n
  let s := s.modStrand l.sid fun x => { x with ahead := x.ahead.filter fun p => !(p.1 == st.val &&
    !(decide (p.2.vpn ≤ streamBase next / 4096) && decide (streamBase next / 4096 < p.2.vpn + p.2.pages))) }
  let s := if streamCount next = 0 ∨ ((s.strand l.sid).aheadOf st (streamBase next)).isSome then s
    else s.walkAhead l.sid st (streamBase next)
  let s := s.landVec l.sid l.e.seq l.e.turn (.st st) next.toNat (2 ^ 128 - 1) due
  if load then s.landVec l.sid l.e.seq l.e.turn .vl n (if n < vl then 0x3FFF else 0) due else s

/-- A checked stream access starts; each element keeps what its own page gives it. -/
def State.streamAccess (s : State) (l : Lane) (as : List (Nat × Access)) (w n depth : Nat) (mk : Access → Access)
    (data : Nat → Word) : State :=
  let occ := s.occOf l.sid w n
  let es := as.flatMap fun p => p.2.cycles.flatten.map fun e => { e with idx := p.1, data := data p.1 }
  let a := mk { laneAccess s l with
    place := .phys, path := .stream, bytes := w / 8, ea := ((as.head?).map (·.2.ea)).getD 0
    cycles := if es.isEmpty then [] else [es] }
  let s := s.laneTake l occ
  let a := { a with plan := 1, earliest := s.lcy l.sid + 16 * (occ + depth), rank := rankVector (s.lcy l.sid) }
  let s := match a.dst with
    | some (.v r) => (s.addPend l.sid ⟨l.e.seq, l.e.turn, .v r, none, 0, none, true⟩).addPend l.sid
        ⟨l.e.seq, l.e.turn, .q (qOf r), none, 0, none, true⟩
    | _ => s
  if a.cycles.isEmpty then
    let (id, s) := s.fresh
    s.finishAccess id a
  else s.startAccess a 0 0

/-- What starting a word comes to: it waits a turn, it traps, or it has started, with the length an SLD trimmed VL to. -/
inductive Begin
  | wait
  | trap (t : TrapInfo)
  | done (s : State) (trim : Option Nat)

/-- SLD: VL shortened by a failing element, or by a COUNT below it, trims the loop that the word stands in (R140): the rule names the
fault-only-first trim, and a word shortened by COUNT alone leaves the same VL (log 74). -/
def State.laneSld (s : State) (l : Lane) (d : VecReg) (st : StReg) (w : Nat) : Begin :=
  let x := s.strand l.sid
  let v := x.rst st
  let vl := l.e.op.len (s.vlmax32 l.sid) l.e.vl
  let n := Nat.min vl (streamCount v)
  let act := (l.e.op.active x vl).filter fun i => decide (i < n)
  let (s, as, f) := streamChecks l.sid (w / 8) st .read v act s
  match f with
  | some (i, t) =>
    if act.head? = some i then .trap t
    else
      let s := s.streamAdvance l st i vl (s.occOf l.sid w i) true
      .done (s.streamAccess l as w i 4 (fun a => { a with kind := .load, dst := some (.v d) }) fun _ => 0) (some i)
  | none =>
    let s := s.streamAdvance l st n vl (s.occOf l.sid w n) true
    .done (s.streamAccess l as w n 4 (fun a => { a with kind := .load, dst := some (.v d) }) fun _ => 0)
      (if n < vl then some n else none)

/-- SST; a store to host space waits until the checks of timed reads of its VD are complete (R228). -/
def State.laneSst (s : State) (l : Lane) (d : VecReg) (st : StReg) (w : Nat) : Begin :=
  let x := s.strand l.sid
  let v := x.rst st
  let vl := l.e.op.len (s.vlmax32 l.sid) l.e.vl
  let n := Nat.min vl (streamCount v)
  let act := (l.e.op.active x vl).filter fun i => decide (i < n)
  let (s', as, f) := streamChecks l.sid (w / 8) st .write v act s
  match f with
  | some (_, t) => .trap t
  | none =>
    if (as.any fun p => p.2.cycles.flatten.any fun e => isHost e.addr) && s.checksPending (s.strandVd l.sid) then .wait
    else
      let s := s'.streamAdvance l st n vl (s.occOf l.sid w n) false
      .done (s.streamAccess l as w n 0 (fun a => { a with kind := .store }) fun i => storeData x d w i true) none

/-- A memory word at lane start; none for the words of other chapters. The number is the length that an SLD trimmed to. -/
def State.laneMem (s : State) (l : Lane) : Option Begin :=
  let plain (r : Except TrapInfo State) : Option Begin := some (match r with | .error t => .trap t | .ok s => .done s none)
  let kindOf (ad : VAddr) (k : UnitKind) : UnitKind := match ad with | .index _ _ => .index | _ => k
  match l.e.op with
  | .load d ad _ e clu =>
    let whole := match ad with | .unit _ => true | _ => false
    plain (s.laneVmem l ad e.bits clu true whole (kindOf ad .load) (fun a => { a with kind := .load, dst := some (.v d) }) fun _ _ => 0)
  | .store d ad _ e clu =>
    plain (s.laneVmem l ad e.bits clu false true (kindOf ad .store) (fun a => { a with kind := .store }) fun x i => storeData x d e.bits i true)
  | .amo op d base b _ e clu =>
    plain (s.laneVmem l (.index base b) e.bits clu false true .amo (fun a => { a with kind := .amo op }) fun x i => storeData x d e.bits i false)
  | .famo d base b _ e clu =>
    plain (s.laneVmem l (.index base b) e.bits clu false true .amo
      (fun a => { a with kind := .famo e (bits (s.strand l.sid).fpctl 0 2) }) fun x i => storeData x d e.bits i false)
  | .seg d base fmt clu => plain (s.laneVseg l d base fmt clu)
  | .sld d st _ e => some (s.laneSld l d st e.bits)
  | .sst d st _ e => some (s.laneSst l d st e.bits)
  | _ => none

/-! ## Words -/

def execVld (d : VecReg) (a : GReg) (m : MReg) (e : EW) (clu : Bool) (s : State) : Host.Outcome State Fault Refusal :=
  finish s (vectorWord [.g a] false (fun s => .load d (.unit (s.rg a)) m e clu) s)
def execVst (d : VecReg) (a : GReg) (m : MReg) (e : EW) (clu : Bool) (s : State) : Host.Outcome State Fault Refusal :=
  finish s (vectorWord [.g a] false (fun s => .store d (.unit (s.rg a)) m e clu) s)
def execVlds (d : VecReg) (a b : GReg) (m : MReg) (e : EW) (clu : Bool) (s : State) : Host.Outcome State Fault Refusal :=
  finish s (vectorWord [.g a, .g b] false (fun s => .load d (.stride (s.rg a) (s.rg b)) m e clu) s)
def execVsts (d : VecReg) (a b : GReg) (m : MReg) (e : EW) (clu : Bool) (s : State) : Host.Outcome State Fault Refusal :=
  finish s (vectorWord [.g a, .g b] false (fun s => .store d (.stride (s.rg a) (s.rg b)) m e clu) s)
def execVldx (d : VecReg) (a : GReg) (b : VecReg) (m : MReg) (e : EW) (clu : Bool) (s : State) : Host.Outcome State Fault Refusal :=
  finish s (vectorWord [.g a] false (fun s => .load d (.index (s.rg a) b) m e clu) s)
def execVstx (d : VecReg) (a : GReg) (b : VecReg) (m : MReg) (e : EW) (clu : Bool) (s : State) : Host.Outcome State Fault Refusal :=
  finish s (vectorWord [.g a] false (fun s => .store d (.index (s.rg a) b) m e clu) s)

/-- VSEG takes an MX format. -/
def execVseg (d : VecReg) (a : GReg) (fmt : Fin 32) (clu : Bool) (s : State) : Host.Outcome State Fault Refusal :=
  finish s (if !s.isVector s.cur.sid then illegalInstr s
    else if fmtIsMx fmt then vectorWord [.g a] false (fun s => .seg d (s.rg a) fmt clu) s
    else illegalFormat (BitVec.ofNat 64 fmt))

/-- The mode check of the stream words (R203, R351). -/
def freeOnly (s : State) (k : State → Res) : Res := if s.scored s.cur.sid then accessFault 0 else k s

def execSset (d : StReg) (a b : GReg) (s : State) : Host.Outcome State Fault Refusal :=
  finish s (word s { vec := true, src := [.g a, .g b], dst := [.st d] } fun s => notInBlock s fun s => freeOnly s fun s =>
    if bits (s.rg a) 57 7 ≠ 0 then accessFault (s.rg a)
    else
      let v := bits (s.rg a) 0 57 + 2 ^ 64 * bits (s.rg b) 0 32 + 2 ^ 96 * bits (s.rg b) 32 32
      let s := (s.modMe fun x => { x with ahead := x.ahead.filter fun p => decide (p.1 ≠ d.val) }).walkAhead s.cur.sid d (s.rg a).toNat
      .ok (s.landWide (.st d) (BitVec.ofNat _ v) 1))

/-- SLD and SST are free only. -/
def streamWord (op : VOp) (s : State) : Host.Outcome State Fault Refusal :=
  finish s (if !s.isVector s.cur.sid then illegalInstr s else freeOnly s (vectorWord [] true fun _ => op))

def execSld (d : VecReg) (a : StReg) (m : MReg) (e : EW) := streamWord (.sld d a m e)
def execSst (d : VecReg) (a : StReg) (m : MReg) (e : EW) := streamWord (.sst d a m e)

/-- VAMO (R220). -/
def vamo (op : AmoOp) (d : VecReg) (a : GReg) (b : VecReg) (m : MReg) (e : EW) (clu : Bool) (s : State) :
    Host.Outcome State Fault Refusal :=
  finish s (vectorWord [.g a] false (fun s => .amo op d (s.rg a) b m e clu) s)

def execVamoAdd (d : VecReg) (a : GReg) (b : VecReg) (m : MReg) (e : EW) (clu : Bool) := vamo .add d a b m e clu
def execVamoMin (d : VecReg) (a : GReg) (b : VecReg) (m : MReg) (e : EW) (clu : Bool) := vamo .min d a b m e clu
def execVamoMax (d : VecReg) (a : GReg) (b : VecReg) (m : MReg) (e : EW) (clu : Bool) := vamo .max d a b m e clu
def execVamoMinn (d : VecReg) (a : GReg) (b : VecReg) (m : MReg) (e : EW) (clu : Bool) := vamo .minn d a b m e clu
def execVamoMaxn (d : VecReg) (a : GReg) (b : VecReg) (m : MReg) (e : EW) (clu : Bool) := vamo .maxn d a b m e clu
def execVamoAnd (d : VecReg) (a : GReg) (b : VecReg) (m : MReg) (e : EW) (clu : Bool) := vamo .and d a b m e clu
def execVamoOr (d : VecReg) (a : GReg) (b : VecReg) (m : MReg) (e : EW) (clu : Bool) := vamo .or d a b m e clu
def execVamoXor (d : VecReg) (a : GReg) (b : VecReg) (m : MReg) (e : EW) (clu : Bool) := vamo .xor d a b m e clu
def execVamoFadd (d : VecReg) (a : GReg) (b : VecReg) (m : MReg) (e : FEW) (clu : Bool) (s : State) :
    Host.Outcome State Fault Refusal :=
  finish s (vectorWord [.g a] false (fun s => .famo d (s.rg a) b m e clu) s)

end Sys2Proof.Machine
end

