-- ==== Sys2Proof/Machine/Harp.lean ====
section
/-! DEFINITION. The Harp (07_harp.md): string descriptors, the words of strings and B groups, products and accumulation
(R159 to R164), commands, the array and the wheel (R165 to R169), row touches and chaining (R170, R171), and the words of the
HARPC, HMMA and HMMS majors (R172 to R180). -/
namespace Sys2Proof.Machine

/-! ## String descriptor (R159) -/

/-- Floating and MX formats. -/
def fmtIsFloat (c : Nat) : Bool := decide (13 ≤ c) && decide (c ≤ 27)

/-- Whether a descriptor breaks a constraint, for a format and for an HMMA or an HMMS. -/
def descBad (w : Word) (fmt : Nat) (mma mms : Bool) : Bool :=
  let d := descOf w
  decide (bits w 0 9 ≠ 0) || ((fmtIsInt fmt || fmtIsAsym fmt) && decide (d.planes < fmtBits fmt)) || d.bk == 7 ||
  (d.bk == 6 && !(mma && fmtIsFloat fmt)) || (!mms && decide (bits w 27 5 ≠ 0)) ||
  (fmtIsAsym fmt && (decide (bits w 32 2 = 3) || decide (bits w 34 2 ≠ 0))) || decide (bits w 53 11 ≠ 0)

/-- R160: the bytes of a slab. -/
def Desc.slab (d : Desc) : Nat := 512 * d.planes + 256

/-- R160: the first byte at or beyond 2^19 of slabs `first` to `first + n − 1`. -/
def Desc.beyond (d : Desc) (first n : Nat) : Option Nat :=
  if n = 0 ∨ d.soff + (first + n) * d.slab ≤ 524288 then none
  else some (Nat.max 524288 (d.soff + d.slab * Nat.max first ((524288 - d.soff) / d.slab)))

/-- R163: the width of a B word. -/
def bkWidth (bk : Nat) : Nat := ([16, 8, 4, 2, 1, 2, 16][bk]?).getD 16

/-- R167: the array phase of one tile. -/
def Desc.phase (d : Desc) (fmt kt : Nat) : Nat :=
  (if d.bk = 6 then 2 else 1) * (d.planes + if fmtIsAsym fmt then 1 else 0) * ceilDiv kt (4 * (16 / bkWidth d.bk))

/-! ## Words of A and B (R161 to R163) -/

/-- A block of 32 words: the words, the exponent of bit 0, whether it makes its row invalid, and its inexact bit. -/
structure WordBlock where
  words : List Int
  low : Int
  bad : Bool
  inexact : Bool

/-- The entry of a row and block in the ASYM scale table (R90): σ, e and z, or none for a NaN or infinite scale. The table has the 128
rows of one tile; R176 does not say which of them the further row blocks of an HMMS use: each of them uses the same 128 (log 77). -/
def Snapshot.scaleAt (p : Snapshot) (m b : Nat) : Option (Int × Int × Int) :=
  let e := p.table / 2 ^ (32 * (m * (p.kt / p.grp) + 32 * b / p.grp)) % 2 ^ 32
  let z : Nat := if p.fmt = 28 then field e 16 4 else field e 16 8
  match tFp16.decode (e % 65536) with
  | .nan _ _ _ => none
  | .inf _ => none
  | .fin s m x => some (if s then -(m : Int) else m, x, z)
  | .zero _ => some (0, 0, z)

/-- R161: the A words of row m of row block rb, K-block b. A TRI2 string code 0b10 reads as 0 (R82): of two planes, where the word is its
code; of more planes a word is the number that its planes hold. -/
def Snapshot.aBlock (p : Snapshot) (rb m b : Nat) : WordBlock :=
  let slab := (p.slabs[rb * (p.kt / 32) + b]?).getD 0
  let rows := (List.range p.planes).map fun q => slab / 2 ^ (8 * (512 * q + 4 * m)) % 2 ^ 32
  let code := slab / 2 ^ (8 * (512 * p.planes + m)) % 256
  let inx := slab.testBit (8 * (512 * p.planes + 128) + m)
  let raw (i : Nat) : Nat := (rows.zipIdx.map fun r => if r.1.testBit i then 2 ^ r.2 else 0).sum
  let scale := if fmtIsAsym p.fmt then p.scaleAt m b else none
  let word (i : Nat) : Int :=
    if p.fmt = 0 then (if raw i % 2 = 0 then 1 else -1)
    else if fmtIsAsym p.fmt then (match scale with | some (sg, _, z) => ((raw i : Int) - z) * sg | none => 0)
    else if fmtIsUnsigned p.fmt then raw i
    else if p.fmt = 1 ∧ p.planes = 2 then fmtInt 1 (raw i)
    else signed p.planes (raw i)
  { words := (List.range 32).map word
    low := if fmtIsFloat p.fmt then (code : Int) - p.planes - 125 else match scale with | some (_, e, _) => e | none => 0
    bad := code == 255 || (fmtIsAsym p.fmt && scale.isNone)
    inexact := inx }

/-- R162, R163: the B words of column j of slice cs, K-block b, in one pass. -/
def Snapshot.bBlock (p : Snapshot) (cs j b pass : Nat) : WordBlock :=
  let w := bkWidth p.bk
  let e := j * p.kt + 32 * b
  let r := (cs + pass) * p.n + e / p.len
  let i := e % p.len
  let chunk := (p.regs[r]?).getD 0 / 2 ^ (w * i) % 2 ^ (32 * w)
  let code := (p.codes[r]?).getD 0 / 2 ^ (8 * (i / 32)) % 256
  let word (k : Nat) : Int :=
    let x := elemAt chunk w k
    if p.bk = 4 then (if x = 0 then 1 else -1)
    else if p.bk = 5 then fmtInt 1 x
    else signed w x
  let read := fmtIsFloat p.fmt && p.bk != 4 && p.bk != 5
  { words := (List.range 32).map word
    low := if read then (code : Int) - w - 125 else 0
    bad := !((p.valid[r]?).getD 0).testBit (i / 32) || (read && code == 255)
    inexact := false }

/-! ## Products and accumulation (R164) -/

/-- Floor(x · 2^k), and whether it is inexact. -/
def floorShift (x k : Int) : Int × Bool :=
  if 0 ≤ k then (x * 2 ^ k.toNat, false) else (x / 2 ^ (-k).toNat, x % 2 ^ (-k).toNat != 0)

/-- The sum of the products of two blocks in units of 2^anch. -/
def dotBlocks (a b : WordBlock) (anch : Int) : Int × Bool :=
  (a.words.zip b.words).foldl (fun s p =>
    let q := floorShift (p.1 * p.2) (a.low + b.low - anch)
    (s.1 + q.1, s.2 || q.2)) (0, false)

/-- R102: adds column by column; a sum that leaves the range saturates its accumulator and the rest of the row is held. -/
def addCols : List Int → List Int → Bool → List Int × Bool
  | a :: as, q :: qs, true =>
    let x := a + q
    if x > 2 ^ 63 - 1 then ((2 ^ 63 - 1) :: as, false)
    else if x < -(2 ^ 63) then (-(2 ^ 63) :: as, false)
    else let (r, ok) := addCols as qs true; (x :: r, ok)
  | as, _, ok => (as, ok)

/-- The accumulators of a row as signed integers, and a row of them. -/
def rowInts (r : BitVec 8192) : List Int := (List.range 128).map fun j => signed 64 (elemAt r.toNat 64 j)
def rowWord (l : List Int) : BitVec 8192 := BitVec.ofNat 8192 (packAt 64 (l.zipIdx.map fun e => (e.2, wrap 64 e.1))).1

/-- R108: a sum of accumulators modulo 255. -/
def residue (l : List Int) : Nat := (l.sum % 255).toNat

/-- What one row of a tile holds. -/
structure RowState where
  acc : List Int
  val : Bool
  rho : Nat
  inx : Bool

/-- R164 for one row: the products of row m of row block rb with column slice cs. -/
def Snapshot.rowAdd (p : Snapshot) (rb cs m : Nat) (anch : Int) (r : RowState) : RowState × Bool :=
  let passes := List.range (if p.bk = 6 then 2 else 1)
  (List.range (p.kt / 32)).foldl (fun (st : RowState × Bool) b =>
    let (r, ok) := st
    let a := p.aBlock rb m b
    let cols := (List.range 128).map fun j => passes.map fun ps => p.bBlock cs j b ps
    let qs := cols.map fun bs => bs.foldl (fun (s : Int × Bool) k => let d := dotBlocks a k anch; (s.1 + d.1, s.2 || d.2)) (0, false)
    let sums := qs.map (·.1)
    let (acc, val) := addCols r.acc sums r.val
    (⟨acc, val, (r.rho + residue sums) % 255, r.inx || qs.any (·.2) || a.inexact⟩,
      ok && !a.bad && cols.all fun bs => bs.all fun k => !k.bad)) (r, true)

/-! ## Tiles (R157) -/

def State.tile (s : State) (crew t : Nat) : TileState := tget {} t (s.harp crew).tiles
def State.modTile (s : State) (crew t : Nat) (f : TileState → TileState) : State :=
  s.modHarp crew fun h => { h with tiles := tput {} t (f (tget {} t h.tiles)) h.tiles }

def TileState.anchor (x : TileState) : Int := signed 12 x.anch.toNat
def TileState.row (x : TileState) (m : Nat) : RowState :=
  ⟨rowInts (tget 0 m x.acc), x.val.getLsbD m, (tget 0 m x.rho).toNat, x.inx⟩
def setBit128 (v : BitVec 128) (m : Nat) (b : Bool) : BitVec 128 :=
  let k := BitVec.ofNat 128 (2 ^ m)
  if b then v ||| k else v &&& ~~~k
def TileState.setRow (x : TileState) (m : Nat) (r : RowState) : TileState :=
  { x with acc := tput 0 m (rowWord r.acc) x.acc, val := setBit128 x.val m r.val
           rho := tput 0 m (BitVec.ofNat 8 r.rho) x.rho, inx := r.inx }
def TileState.clearRow (x : TileState) (m : Nat) : TileState :=
  { x with acc := tput 0 m 0 x.acc, val := setBit128 x.val m true, rho := tput 0 m 0 x.rho }
/-- R174: whether the residue of a row agrees with its accumulators. -/
def TileState.residueOk (x : TileState) (m : Nat) : Bool := residue (x.row m).acc == (tget 0 m x.rho).toNat

/-! ## Commands (R165) -/

/-- The tiles of its crew that a command works on. -/
def HarpCmd.tiles (q : HarpCmd) : List Nat :=
  match q.op with
  | .mma _ true _ d _ _ _ _ => (List.range ((descOf d).mr * crewCols (crewOf q.core) (descOf d).mc)).map (q.t.val + ·)
  | _ => [q.t.val]

def HarpCmd.isArray (q : HarpCmd) : Bool := match q.op with | .mma .. => true | _ => false
def HarpCmd.isWriter (q : HarpCmd) : Bool := match q.op with | .chk => false | _ => true

/-- Whether an HMMS spans a crew pair. -/
def HarpCmd.paired (q : HarpCmd) : Bool := match q.op with | .mma _ true _ d _ _ _ _ => decide ((descOf d).mc > 4) | _ => false

/-- Cycles of the array that a command takes. -/
def HarpCmd.span (q : HarpCmd) : Nat :=
  match q.op with | .mma _ _ _ d f _ kt _ => q.tiles.length * (descOf d).phase f kt | _ => 0

def Touch.isWriter : Touch → Bool
  | .check => false
  | .read .. => false
  | _ => true

/-- R171: whether an operation on a tile issued before another is still to touch a row. -/
def State.outstanding (s : State) (crew t m before : Nat) : Bool :=
  (s.cores.any fun c => c.2.harpq.any fun q =>
    crewOf q.core == crew && decide (q.id < before) && q.isWriter && q.tiles.contains t) ||
  s.runs.any fun r => crewOf r.2.core == crew && r.2.tile.val == t && decide (r.1 < before) && r.2.touch.isWriter &&
    decide (r.2.row ≤ m) && decide (m < r.2.stop)

/-- R171: the chaining bits of a tile. -/
def State.chn (s : State) (crew t : Nat) : BitVec 128 :=
  BitVec.ofNat 128 (((List.range 128).map fun m => if s.outstanding crew t m s.nextId then 0 else 2 ^ m).sum)

/-! ## Runs (R170) -/

/-- The next touch of an operation, d cycles from now: on the clock of its launch on a scored core. -/
def State.oweTouch (s : State) (sid id d : Nat) : State :=
  if s.scored sid then s.owe (some (s.clockOf sid)) (s.lcy sid + d) (prioTouch id) (.harpRowTouch id)
  else s.after d (prioTouch id) (.harpRowTouch id)

def State.setRun (s : State) (id : Nat) (r : HarpRun) : State := { s with runs := bind id r s.runs }

/-- An operation begins whose first touch comes d cycles from now. -/
def State.startRun (s : State) (id : Nat) (r : HarpRun) (d : Nat) : State := (s.setRun id r).oweTouch r.sid id d

/-- The end of an operation; operands that no run needs are dropped. -/
def State.endRun (s : State) (id : Nat) : State :=
  let s := { s with runs := unbind id s.runs }
  { s with snaps := s.snaps.filter fun p => s.runs.any fun r => match r.2.touch with | .add _ n _ _ => n == p.1 | _ => false }

/-! ## The start of a command (R166 to R169) -/

/-- The operands of an HMMA or HMMS as they stand: strings of a core, B group of the issuing strand. -/
def State.snapshot (s : State) (q : HarpCmd) (strings : Nat) (d : Desc) (fmt n kt vl : Nat) : Snapshot :=
  let x := s.strand q.sid
  let regs := q.group.map fun r => (Fin.ofNat 32 r : VecReg)
  { kt := kt, planes := d.planes, fmt := fmt, bk := d.bk, grp := d.grp, len := vl, n := n
    slabs := (List.range (d.mr * (kt / 32))).map fun b => ofBytes (s.spadRead strings (d.soff + b * d.slab) d.slab)
    table := if fmtIsAsym fmt then ofBytes (s.spadRead strings d.toff (512 * (kt / d.grp))) else 0
    regs := regs.map fun r => (x.rv r).toNat
    codes := regs.map fun r => (x.rbe r).toNat
    valid := regs.map fun r => (x.rq (qOf r)).toNat }

/-- The scratchpad bytes that the array reads in a phase. -/
def Desc.reads (d : Desc) (fmt kt strings stop : Nat) : List (Nat × Nat × Nat × Nat) :=
  (strings, d.soff, d.soff + d.mr * (kt / 32) * d.slab, stop) ::
  if fmtIsAsym fmt then [(strings, d.toff, d.toff + 512 * (kt / d.grp), stop)] else []

def State.unqueue (s : State) (q : HarpCmd) : State :=
  s.modCore q.core fun k => { k with harpq := k.harpq.filter fun r => decide (r.id ≠ q.id) }

/-- A command starts; `strings` is the core whose scratchpad holds the strings. -/
def State.startCmd (s : State) (q : HarpCmd) (strings : Nat) : State :=
  let s := s.unqueue q
  let crew := crewOf q.core
  let run (t : Nat) (x : Touch) : HarpRun :=
    { sid := q.sid, seq := q.seq, pc := q.pc, core := q.core, tile := Fin.ofNat 16 t, touch := x, row := 0, stop := 128
      cs := some (s.lcy q.sid), failed := none }
  match q.op with
  | .zero => (s.modTile crew q.t fun x => { x with inx := false }).startRun q.id (run q.t .clear) 0
  | .anch a => (s.modTile crew q.t fun x => { x with inx := false, anch := a }).startRun q.id (run q.t .clear) 0
  | .chk => s.startRun q.id (run q.t .check) 0
  | .mma set _ _ w fmt n kt vl =>
    let d := descOf w
    let phase := d.phase fmt kt
    let cols := crewCols crew d.mc
    let stop := s.pkg.ency + q.span
    let s := { s with snaps := bind q.id (s.snapshot q strings d fmt n kt vl) s.snaps }
    let s := if set then q.tiles.foldl (fun s t => s.modTile crew t fun x => { x with inx := false }) s else s
    let s := s.modHarp crew fun h => { h with
      busy := stop, group := some (q.sid, q.group, stop), charged := (q.pc, q.seq), strings := d.reads fmt kt strings stop }
    let s := q.tiles.zipIdx.foldl (fun s e =>
      s.startRun (q.id + e.2) (run e.1 (.add set q.id (e.2 / cols) (e.2 % cols))) ((e.2 + 1) * phase + 16)) s
    s.perf q.sid 9 q.span

/-- The core whose scratchpad holds the strings of a command, its partner given (R176). -/
def stringsCore (q : HarpCmd) (partner : Option HarpCmd) : Nat :=
  match partner with
  | some p => if crewOf q.core % 2 = 0 then q.core else p.core
  | none => q.core

/-- The ENCY cycles of a wheel interval that is not yet over. -/
def State.wheelSpan (s : State) (w : WheelSlot) : Option (Nat × Nat) :=
  let L := s.launch w.launch
  let a := 4096 * w.bar + w.off
  match L.lcy with
  | some c =>
    if L.st = .preempted ∨ L.st = .done ∨ a + w.len ≤ c then none
    else
      let now := if L.frozen then barLineAt (s.pkg.ency + 1) else s.pkg.ency
      some (now + a - c, now + a + w.len - c)
  | none => some (4096 * L.startbar + a, 4096 * L.startbar + a + w.len)

/-- R169: whether the next n cycles are open. -/
def State.openFor (s : State) (crew n : Nat) : Bool :=
  (s.harp crew).wheel.all fun w => match s.wheelSpan w with
    | some (lo, hi) => decide (s.pkg.ency + n ≤ lo) || decide (hi ≤ s.pkg.ency)
    | none => true

/-- R168: whether the phase of a command that starts now lies within one interval that names its core's crew position. -/
def State.inWheel (s : State) (q : HarpCmd) : Bool :=
  let c := s.lcy q.sid
  (s.harp (crewOf q.core)).wheel.any fun w => some w.launch == (s.strand q.sid).launch && w.pos == q.core % 8 &&
    decide (4096 * w.bar + w.off ≤ c) && decide (c + q.span ≤ 4096 * w.bar + w.off + w.len)

/-- R168: a timed Dray delivery into a command's strings is pending: of a command that has started, units still to be
delivered to local space. -/
def State.deliveryPending (s : State) (q : HarpCmd) (strings : Nat) : Bool :=
  match q.op with
  | .mma _ _ _ w fmt _ kt _ =>
    s.launches.any fun e => e.2.drays.any fun d =>
      let f (i n : Nat) : Nat := blockField d.block i n
      let size := if d.fn = 1 then 2 ^ f 21 1 else 64
      let units := if d.fn = 1 then f 32 4 else ceilDiv (f 16 4) 64
      let begin_ := 4096 * d.bar + f 40 4
      let done := (e.2.lcy.getD 0) - (begin_ + f 44 4)
      let lo := f 8 8 % 524288 + size * done
      let hi := f 8 8 % 524288 + size * units
      e.2.lcy.isSome && decide (begin_ ≤ e.2.lcy.getD 0) && decide (done < units) && d.core == strings && field (f 20 1) 2 2 == 0 &&
        ((descOf w).reads fmt kt strings 0).any fun r => decide (lo < r.2.2.1) && decide (r.2.1 < hi)
  | _ => false

/-- R177: what two halves must have in common. -/
def HarpCmd.matches (p q : HarpCmd) : Bool :=
  match p.op, q.op with
  | .mma a _ _ d f n kt _, .mma a' _ _ d' f' n' kt' _ => p.t == q.t && a == a' && d == d' && f == f' && n == n' && kt == kt'
  | _, _ => false

/-- A command is dropped and its word charged with a trap. -/
def State.chargeCmd (s : State) (q : HarpCmd) (t : TrapInfo) : State :=
  let s := s.unqueue q
  let s := { s with toIssue := if s.scored q.sid then s.toIssue else s.toIssue.filter fun k => decide (k ≠ q.sid) }
  s.takeTrap q.sid t q.pc

def State.harpTiming (s : State) (q : HarpCmd) : State :=
  s.chargeCmd q { cause := 15, detail := 6, eval := BitVec.ofNat 64 (s.lcy q.sid) }

/-- The two halves of a paired HMMS start, in the same cycle, and hold PAIRLOCK until both phases end. -/
def State.startPair (s : State) (p q : HarpCmd) : State :=
  let stop := s.pkg.ency + Nat.max p.span q.span
  let s := (s.startCmd p (stringsCore p (some q))).startCmd q (stringsCore q (some p))
  (s.modHarp (crewOf p.core) fun h => { h with pairEnd := stop }).modHarp (crewOf q.core) fun h => { h with pairEnd := stop }

/-- The cores of a crew. -/
def crewCores (crew : Nat) : List Nat := (List.range 8).map (8 * crew + ·)

/-- The partner crew of a crew pair (R176). -/
def partnerCrew (crew : Nat) : Nat := if crew % 2 = 0 then crew + 1 else crew - 1

/-- A scored command at its start cycle (R166, R168, R177). -/
def State.startScored (s : State) (q : HarpCmd) : State :=
  let ready (q : HarpCmd) (strings : Nat) : Bool :=
    decide ((s.harp (crewOf q.core)).busy ≤ s.pkg.ency) && s.inWheel q && !s.deliveryPending q strings
  if !q.isArray then s.startCmd q q.core
  else if !q.paired then (if ready q q.core then s.startCmd q q.core else s.harpTiming q)
  else
    let other := (crewCores (partnerCrew (crewOf q.core))).findSome? fun c =>
      ((s.core c).harpq.takeWhile fun p => decide (p.start ≤ q.start)).find? fun p => p.paired && p.start == q.start && p.launch == q.launch
    match other with
    | none => s.harpTiming q
    | some p =>
      if !q.matches p then (s.chargeCmd q { cause := 13 }).chargeCmd p { cause := 13 }
      else
        let okQ := ready q (stringsCore q (some p)) && decide ((s.harp (crewOf q.core)).pairEnd ≤ s.pkg.ency)
        let okP := ready p (stringsCore p (some q)) && decide ((s.harp (crewOf p.core)).pairEnd ≤ s.pkg.ency)
        if okQ && okP then s.startPair q p
        else
          let s := if okQ then s.unqueue q else s.harpTiming q
          if okP then s.unqueue p else s.harpTiming p

/-- The head of a core's queue once it may start (R166). -/
def State.harpHead (s : State) (c : Nat) : Option HarpCmd :=
  match (s.core c).harpq with
  | q :: _ => if q.start ≤ s.pkg.ency ∧ !(s.core c).scored then some q else none
  | [] => none

/-- R169: whether the array, the wheel and the B group let a free array command start. -/
def State.mayStart (s : State) (q : HarpCmd) : Bool :=
  let h := s.harp (crewOf q.core)
  decide (h.busy ≤ s.pkg.ency) && s.openFor (crewOf q.core) q.span && (!q.paired || decide (h.pairEnd ≤ s.pkg.ency)) &&
  !((s.strand q.sid).pend.any fun p => decide (p.seq ≤ q.seq) && match p.dst with
    | .v r => q.group.contains r.val
    | .be r => q.group.contains r.val
    | _ => false)

/-- Whether a free array command can start, its partner being ready too for a paired HMMS (R177). -/
def State.canStart (s : State) (q : HarpCmd) : Bool :=
  q.isArray && s.mayStart q && (!q.paired || (crewCores (partnerCrew (crewOf q.core))).any fun c =>
    match s.harpHead c with | some p => p.paired && s.mayStart p | none => false)

/-- R169: the core that the free arbiter of a crew grants, and whether it keeps its grant: it does for consecutive array commands, so for
one that could start when the array became free. -/
def State.arbiter (s : State) (crew : Nat) : Option (Nat × Bool) :=
  let h := s.harp crew
  let can (limit : Option Nat) (c : Nat) : Bool := match s.harpHead c with
    | some q => s.canStart q && (match limit with | some n => decide (q.tiles.length ≤ n) | none => true)
    | none => false
  let cur := 8 * crew + h.rrptr
  if h.credit ≠ 0 ∧ ((s.harpHead cur).any fun q => decide (q.start ≤ h.busy)) ∧ can (some h.credit) cur then some (cur, true)
  else (((List.range 8).map fun i => 8 * crew + (h.rrptr + 1 + i) % 8).find? (can none)).map fun c => (c, false)

/-- A grant is taken. -/
def State.grant (s : State) (q : HarpCmd) (keep : Bool) : State :=
  let w := (s.core q.core).harpw
  s.modHarp (crewOf q.core) fun h =>
    if keep then { h with credit := h.credit - q.tiles.length }
    else { h with rrptr := q.core % 8, credit := w - q.tiles.length }

/-- The head command of a free core starts, or none if it must wait a cycle. -/
def State.startFree (s : State) (q : HarpCmd) : Option State :=
  if !q.isArray then
    some ((s.startCmd q q.core).modHarp (crewOf q.core) fun h => if h.rrptr = q.core % 8 then { h with credit := 0 } else h)
  else match s.arbiter (crewOf q.core) with
    | some (c, keep) =>
      if c ≠ q.core then none
      else if !q.paired then some ((s.grant q keep).startCmd q q.core)
      else match s.arbiter (partnerCrew (crewOf q.core)) with
        | some (c', keep') =>
          match s.harpHead c' with
          | some p =>
            if !p.paired then none
            else if q.matches p then some (((s.grant q keep).grant p keep').startPair q p)
            else some ((s.chargeCmd q { cause := 13 }).chargeCmd p { cause := 13 })
          | none => none
        | none => none
    | none => none

/-- HARP_COMMAND_START: a scored command at its start cycle, or the head command of a free core when it may. A core's commands start in
issue order (R165): on a scored core, which never waits, one whose start cycle comes while an earlier one has not started takes the timing
fault of a start that cannot be kept (log 80). -/
def execHarpCommandStart (core : Nat) (s : State) : Host.Outcome State Fault Refusal :=
  .next (
    if (s.core core).scored then
      match (s.core core).harpq with
      | h :: t =>
        let due (q : HarpCmd) : Bool := decide (q.start ≤ s.lcy q.sid)
        if due h then s.startScored h else match t.find? due with
          | some q => s.harpTiming q
          | none => s
      | [] => s
    else match (s.core core).harpq with
      | q :: _ =>
        if s.pkg.ency < q.start then s.owe none q.start prioHarp (.harpCommandStart core)
        else match s.startFree q with
          | some t => t
          | none => s.after 1 prioHarp (.harpCommandStart core)
      | [] => s)

/-- R177: whether the partner of a half has been issued: a half of the partner crew that waits too. -/
def State.partnerArrived (s : State) (q : HarpCmd) : Bool :=
  (crewCores (partnerCrew (crewOf q.core))).any fun c => (s.core c).harpq.any (·.paired)

/-- HMMS_PAIRING_TIMEOUT (R177): a half whose partner has not arrived raises the pairing fault. -/
def execHmmsPairingTimeout (op : Nat) (s : State) : Host.Outcome State Fault Refusal :=
  .next (match s.cores.findSome? fun c => c.2.harpq.find? fun q => q.id == op with
    | some q => if q.paired && !s.scored q.sid && !s.partnerArrived q then s.chargeCmd q { cause := 13 } else s
    | none => s)

/-! ## Row touches -/

/-- HREAD's element from an accumulator (R178): the code and its flags. -/
def hreadElem (raw : Bool) (fmt rm : Nat) (anch : Int) (val : Bool) (a : Int) : Nat × Nat :=
  if raw then (if val then wrap 64 a else 2 ^ 63, 0)
  else match fmtFloat fmt with
    | some t => if val then t.encode (rmOf rm) ((ofInt a).scale anch) else (t.defaultNan, 0)
    | none => if val then intOf fmt (rmOf rm) ((ofInt a).scale anch) else (0, 0)

/-- The rows of an HREAD have been read: the group lands whole (R179). Where rows share a validity bit, the last row's stands (R178). -/
def State.hreadLand (s : State) (e : VEntry) (sid : Nat) (w vl : Nat) (rows : List (List Nat × Bool × Nat)) (due : Nat) : State :=
  match e.op with
  | .hread _ vb _ _ n _ =>
    let elems := (rows.flatMap (·.1)).zipIdx
    let valids := rows.zipIdx.flatMap fun r => (List.range 128).map fun j => (128 * r.2 + j, r.1.2.1)
    let s := (groupRegs vb n).zipIdx.foldl (fun s r =>
      let p := packAt w ((elems.filter fun x => x.2 / vl == r.2).map fun x => (x.2 % vl, x.1))
      s.deliver sid e.seq (.v r.1) (BitVec.ofNat _ p.1) (BitVec.ofNat _ p.2) due) s
    let s := ((groupRegs vb n).map qOf).eraseDups.foldl (fun s q =>
      let mine := (valids.filter fun x => qOf (Fin.ofNat 32 (vb.val + x.1 / vl)) == q).map fun x => (x.1 % vl / 32, x.2)
      let p := packBits (((mine.map (·.1)).eraseDups).map fun j => (j, (mine.reverse.find? fun x => x.1 == j).any (·.2)))
      s.deliver sid e.seq (.q q) (BitVec.ofNat _ p.1) (BitVec.ofNat _ p.2) due) s
    let fl := rows.foldl (fun f r => f ||| r.2.2) 0
    let s := if fl = 0 then s else s.landVec sid e.seq e.turn .fp fl (2 ^ 65536 - 1) due
    s.setDue sid e.seq due
  | _ => s

/-- One row of an operation. An HREAD that comes to a row before an earlier operation has touched it waits for it (R171); its group lands as
much later. -/
def State.touchRow (s : State) (id : Nat) (r : HarpRun) : State :=
  let crew := crewOf r.core
  let x := s.tile crew r.tile
  let m := r.row
  let next (s : State) (r : HarpRun) (pace : Nat) : State :=
    if m + 1 < r.stop then (s.setRun id { r with row := m + 1 }).oweTouch r.sid id pace else s.endRun id
  match r.touch with
  | .clear => next (s.modTile crew r.tile fun x => x.clearRow m) r 1
  | .check =>
    let r := if x.val.getLsbD m && !x.residueOk m && r.failed.isNone then { r with failed := some m } else r
    if m + 1 < 128 then next s r 1
    else if (s.strand r.sid).wait = some (.harp id) then s.setRun id { r with row := 128 }
    else s.endRun id
  | .add set n rb cs =>
    match look n s.snaps with
    | none => s.endRun id
    | some p =>
      let y := if set then x.clearRow m else x
      let (st, ok) := p.rowAdd rb cs m x.anchor (y.row m)
      next (s.modTile crew r.tile fun _ => y.setRow m { st with val := st.val && ok }) r 1
  | .write row0 data valid add =>
    let i := m - row0
    let l := rowInts ((data[i]?).getD 0)
    let ok := (valid[i]?).getD true
    let st := x.row m
    let st : RowState :=
      if !add then { st with acc := l, val := ok, rho := residue l }
      else if !st.val then st
      else
        let (acc, val) := addCols st.acc l true
        { st with acc := acc, val := val && ok, rho := (st.rho + residue l) % 255 }
    next (s.modTile crew r.tile fun x => x.setRow m st) r 1
  | .read e _ _ pace raw fmt w vl rm got =>
    let val := x.val.getLsbD m
    if s.outstanding crew r.tile m id then (s.setRun id { r with due := r.due + 1 }).oweTouch r.sid id 1
    else if val && !x.residueOk m then
      (s.endRun id).vectorTrap r.sid r.seq r.pc { cause := 12, detail := 2, eval := BitVec.ofNat 64 m }
    else
      let els := (rowInts (tget 0 m x.acc)).map (hreadElem raw fmt rm x.anchor val)
      let fl := els.foldl (fun f k => f ||| k.2) (if !raw && x.inx then flagNX else 0)
      let got := got ++ [(els.map (·.1), val, fl)]
      if m + 1 < r.stop then next s { r with touch := .read e 0 0 pace raw fmt w vl rm got } pace
      else (s.endRun id).hreadLand e r.sid w vl got (turnAtOrAfter e.turn r.due)

/-- HARP_ROW_TOUCH: the next row of an operation. -/
def execHarpRowTouch (op : Nat) (s : State) : Host.Outcome State Fault Refusal :=
  .next (match look op s.runs with
    | some r => s.touchRow op r
    | none => s)

/-- HCHK's outcome (R174): at the first turn later than cs + 143 the strand goes on, or takes the residue fault. -/
def State.harpWait (s : State) (sid op : Nat) : Option State :=
  let free (s : State) : State := s.modStrand sid fun x => { x with wait := none }
  if s.cores.any fun c => c.2.harpq.any fun q => q.id == op then none
  else match look op s.runs with
    | some r =>
      match r.touch, r.cs with
      | .check, some cs =>
        if s.lcy sid ≤ cs + 143 ∨ r.row < 128 then none
        else
          let s := free (s.endRun op)
          match r.failed with
          | some m => some (s.takeTrap sid { cause := 12, detail := 2, eval := BitVec.ofNat 64 m } r.pc)
          | none => some s
      | _, _ => some (free s)
    | none => some (free s)

/-! ## Issue (R165, R166, R172) -/

/-- R172: the OWN bit of a tile for a core; a Coachman's core is of no crew and owns none. -/
def State.ownsTile (s : State) (c t : Nat) : Bool := decide (c < 960) && (s.tile (crewOf c) t).own.getLsbD (c % 8)

/-- The first tile that the core may not command raises the access fault. -/
def ownTiles (s : State) (ts : List Nat) (k : State → Res) : Res :=
  match ts.find? fun t => !s.ownsTile (coreOf s.cur.sid) t with
  | some t => accessFault (BitVec.ofNat 64 t)
  | none => k s

/-- A Harp command enters the queue of its core (R165, R166). -/
def harpCommand (t : Tile) (op : HarpOp) (off : Word) (wait : Bool) (s : State) : Res :=
  let sid := s.cur.sid
  let c := coreOf sid
  let sc := s.scored sid
  let n := bits off 0 16
  let q : HarpCmd := {
    id := s.nextId, core := c, sid := sid, seq := s.seqNo, pc := s.cur.addr, turn := s.turn
    start := if sc then s.turn + n else s.pkg.ency + 32
    launch := s.me.launch, t := t, op := op, scored := sc }
  ownTiles s q.tiles fun s =>
    if (s.core c).harpq.length ≥ 8 then (if sc then timingFault s 3 else .held s)
    else if sc ∧ n < 32 then timingFault s 6
    else
      let s := { s with nextId := s.nextId + q.tiles.length }
      let s := s.modCore c fun k => { k with harpq := k.harpq ++ [q] }
      let s := s.owe (if sc then some (s.clockOf sid) else none) q.start prioHarp (.harpCommandStart c)
      let s := if q.paired ∧ !sc then s.after 1048576 prioWake (.hmmsPairingTimeout q.id) else s
      .ok (if wait ∨ (q.paired ∧ !sc) then s.modMe fun x => { x with wait := some (.harp q.id) } else s)

def execHzero (t : Tile) (ga : GReg) (s : State) : Host.Outcome State Fault Refusal :=
  finish s (word s { src := [.g (ga + 1)], outward := true } fun s => harpCommand t .zero (s.rg (ga + 1)) false s)

def execHchk (t : Tile) (ga : GReg) (s : State) : Host.Outcome State Fault Refusal :=
  finish s (word s { src := [.g (ga + 1)], outward := true } fun s => harpCommand t .chk (s.rg (ga + 1)) true s)

/-- HANCH: g[ga] must be the sign extension of its low 12 bits. -/
def execHanch (t : Tile) (ga : GReg) (s : State) : Host.Outcome State Fault Refusal :=
  finish s (word s { src := [.g ga, .g (ga + 1)], outward := true } fun s =>
    if s.rg ga ≠ sext 12 (s.rg ga).toNat then illegalFormat (s.rg ga)
    else harpCommand t (.anch ((s.rg ga).setWidth 12)) (s.rg (ga + 1)) false s)

/-- R78: the first poisoned word among the B words of a group, their codes and their validity. -/
def Strand.groupPoison (x : Strand) (regs : List Nat) (w len : Nat) : Option TrapInfo :=
  (x.poison.find? fun e => match e.1 with
    | .v r => regs.contains r.val && decide (32 * e.2 < w * len)
    | .be r => regs.contains r.val && decide (4 * e.2 < len / 32)
    | .q r => (regs.any fun k => k / 8 == r.val) && decide (64 * e.2 < len / 32)
    | _ => false).map fun e => { cause := 11, eval := BitVec.ofNat 64 (e.1.poisonVal + 65536 * e.2) }

/-- HMMA and HMMS (R159, R162, R175, R176). An HMMS whose last B group lies beyond v31 raises the illegal-format fault, as BK 6 does (R163):
R176 names no fault for it (log 78). An ASYM scale table that reaches 2^19 raises the access fault at issue, as slab bytes do (R160): R161
names no outcome (log 79). -/
def harpProduct (set multi : Bool) (t : Tile) (vb : VecReg) (ga : GReg) (fmt : Nat) (n : Nat) (s : State) :
    Host.Outcome State Fault Refusal :=
  finish s (word s { vec := true, src := [.vl, .g ga, .g (ga + 1)], outward := true } fun s => notInBlock s fun s =>
    let w := s.rg ga
    let d := descOf w
    let crew := crewOf (coreOf s.cur.sid)
    let len := Nat.min s.me.vlen (s.vlmax32 s.cur.sid)
    let kt := n * len / 128
    let op := HarpOp.mma set multi vb w fmt n kt len
    let cols := if multi then crewCols crew d.mc else if d.bk = 6 then 2 else 1
    if descBad w fmt (!multi) multi || decide (n * len % 4096 ≠ 0) || decide (kt = 0) ||
        (fmtIsAsym fmt && decide (kt % d.grp ≠ 0)) || decide (vb.val + cols * n > 32) ||
        (multi && decide (t.val + d.mr * cols > 16)) then illegalFormat w
    else if multi && decide (d.mc > 4) && s.partOf (8 * partnerCrew crew) != s.partOf (coreOf s.cur.sid) then accessFault 0
    else match s.me.groupPoison ((List.range (cols * n)).map (vb.val + ·)) (bkWidth d.bk) len with
      | some f => .trap f
      | none =>
        match d.beyond 0 (d.mr * (kt / 32)) with
        | some a => accessFault (BitVec.ofNat 64 a)
        | none =>
          if fmtIsAsym fmt ∧ d.toff + 512 * (kt / d.grp) > 524288 then accessFault (BitVec.ofNat 64 (Nat.max 524288 d.toff))
          else harpCommand t op (s.rg (ga + 1)) false s)

def execHmmaAcc (t : Tile) (vb : VecReg) (ga : GReg) (fmt : Fin 32) (n : Grp) := harpProduct false false t vb ga fmt n.size
def execHmmaSet (t : Tile) (vb : VecReg) (ga : GReg) (fmt : Fin 32) (n : Grp) := harpProduct true false t vb ga fmt n.size
def execHmmsAcc (t : Tile) (vb : VecReg) (ga : GReg) (fmt : Fin 32) (n : Grp) := harpProduct false true t vb ga fmt n.size
def execHmmsSet (t : Tile) (vb : VecReg) (ga : GReg) (fmt : Fin 32) (n : Grp) := harpProduct true true t vb ga fmt n.size

/-- HPLANE's placement word (R173). -/
def execHplane (vb : VecReg) (ga : GReg) (fmt : Fin 32) (n : Grp) (s : State) : Host.Outcome State Fault Refusal :=
  finish s (word s { vec := true, src := [.vl, .g ga, .g (ga + 1)] } fun s => notInBlock s fun s =>
    let w := s.rg ga
    let place := s.rg (ga + 1)
    let op := VOp.hplane vb w place fmt n.size
    let vl := op.len (s.vlmax32 s.cur.sid) s.me.vlen
    let m0 := bits place 0 7
    let nb := bits place 16 7 + 1
    let rows := Nat.min (128 - m0) (n.size * vl / (32 * nb))
    if descBad w fmt false false then illegalFormat w
    else if place &&& 0x7F7F7F#64 ≠ place then illegalFormat place
    else if vl % 32 ≠ 0 then illegalFormat (BitVec.ofNat 64 vl)
    else match (if rows = 0 then none else (descOf w).beyond (bits place 8 7) nb) with
      | some a => accessFault (BitVec.ofNat 64 a)
      | none => enqueue false op s)

/-- R178, R180: the control word of HREAD and HWRITE. -/
def ctlBad (w : Word) : Bool := w &&& 0x17F#64 != w

/-- The width of HREAD's elements. -/
def hreadWidth (raw : Bool) (fmt : Nat) : Nat := if raw then 64 else fmtBits fmt

def execHread (t : Tile) (vb : VecReg) (ga : GReg) (fmt : Fin 32) (n : Grp) (s : State) : Host.Outcome State Fault Refusal :=
  finish s (if !s.isVector s.cur.sid then illegalInstr s
    else if !([9, 12, 19, 20, 21].contains fmt.val) then illegalFormat (BitVec.ofNat 64 fmt)
    else word s { vec := true, src := [.vl, .g ga] } fun s => notInBlock s fun s =>
      if ctlBad (s.rg ga) then illegalFormat (s.rg ga)
      else ownTiles s [t.val] fun s =>
        match enqueue false (.hread t vb (s.rg ga) fmt n.size s.nextId) s with
        | .ok u => .ok { u with nextId := u.nextId + 1 }
        | r => r)

def execHwrite (t : Tile) (vb : VecReg) (ga : GReg) (n : Grp) (s : State) : Host.Outcome State Fault Refusal :=
  finish s (word s { vec := true, src := [.vl, .g ga] } fun s => notInBlock s fun s =>
    let ctl := s.rg ga
    if ctlBad ctl then illegalFormat ctl
    else ownTiles s [t.val] fun s =>
      let id := s.nextId
      let row0 := bits ctl 0 7
      let rows := groupRows row0 n.size (Nat.min s.me.vlen (s.emax s.cur.sid 64))
      let r : HarpRun := {
        sid := s.cur.sid, seq := s.seqNo, pc := s.cur.addr, core := coreOf s.cur.sid, tile := t
        touch := .write row0 [] [] (ctl.getLsbD 8), row := row0, stop := row0 + rows, cs := none, failed := none }
      match enqueue false (.hwrite t vb ctl n.size id) s with
      | .ok u => .ok ({ u with nextId := id + 1 }.setRun id r)
      | k => k)

/-! ## Harp words at lane start -/

/-- Vector strands of a core (R18). -/
def State.vecStrands (s : State) (sid : Nat) : Nat := 2 ^ (s.core (coreOf sid)).k

/-- HPLANE's block of group elements e to e + 31: words, code and inexact bit, and its flags. -/
def planeBlock (x : Strand) (vb : VecReg) (fmt planes vl e : Nat) : List Nat × Nat × Bool × Nat :=
  let r : VecReg := Fin.ofNat 32 (vb.val + e / vl)
  let i := e % vl
  let w := fmtBits fmt
  let es := (List.range 32).map fun k => elemAt (x.rv r).toNat w (i + k)
  let zero := List.replicate 32 0
  if !x.valid r (i / 32) then (zero, 255, false, 0)
  else if fmtIsFloat fmt then
    let sc : Int := x.code r (i / 32)
    let vals := es.map fun c => if fmtIsMx fmt then (fmtVal fmt c).scale (sc - 127) else fmtVal fmt c
    let b := if fmtIsMx fmt ∧ sc = 255 then invalidBlock 32 true else blockFix planes vals
    if b.invalid then (zero, 255, false, if b.nan then flagNV else 0)
    else (b.words.map (wrap planes), b.code, b.inexact, if b.inexact then flagNX else 0)
  else if fmt = 0 then (es, 0, false, 0)
  else (es.map fun c => wrap planes (fmtInt fmt c), 0, false, 0)

/-- HPLANE at lane start (R173). Its words are written in the issue cycle of its land turn and take their banks there (R186, R194), before the
Harp commands that start in that cycle and read them. -/
def State.laneHplane (s : State) (l : Lane) (vb : VecReg) (desc place : Word) (fmt n : Nat) : State :=
  let x := s.strand l.sid
  let d := descOf desc
  let vl := l.e.op.len (s.vlmax32 l.sid) l.e.vl
  let m0 := bits place 0 7
  let b0 := bits place 8 7
  let nb := bits place 16 7 + 1
  let rows := Nat.min (128 - m0) (n * vl / (32 * nb))
  let blocks := (List.range rows).flatMap fun r => (List.range nb).map fun b =>
    (m0 + r, d.soff + (b0 + b) * d.slab, planeBlock x vb fmt d.planes vl (32 * (r * nb + b)))
  let word (ws : List Nat) (q : Nat) : Nat := (ws.zipIdx.map fun k => if k.1.testBit q then 2 ^ k.2 else 0).sum
  let words := blocks.flatMap fun k => (List.range d.planes).map fun q => (k.2.1 + 512 * q + 4 * k.1, word k.2.2.1 q)
  let codes := blocks.map fun k => (k.2.1 + 512 * d.planes + k.1, k.2.2.2.1)
  let inx := blocks.map fun k => (8 * (k.2.1 + 512 * d.planes + 128) + k.1, k.2.2.2.2.1)
  let flags := blocks.foldl (fun f k => f ||| k.2.2.2.2.2) 0
  let occ := Nat.max 1 (ceilDiv (n * vl * fmtBits fmt * s.vecStrands l.sid) 16384)
  let due := s.lcy l.sid + 16 * (occ + 3)
  let s := s.laneTake l occ
  let c := coreOf l.sid
  let a := { laneAccess s l with
    kind := .plane words codes inx, path := .harp, place := .spad c, flags := flags, rank := prioPlane, earliest := due
    cycles := [[⟨0, spadKey c 0, 0, 0, 0, 0, false, none⟩]], plan := 1, left := s.pkg.ency + 16 * (occ + 3), bound := 288 }
  let (id, s) := s.fresh
  let s := s.setAccess id a
  if a.scored then s.owe (some (s.clockOf l.sid)) due prioPlane (.scoredBankAccess id)
  else (s.after (16 * (occ + 3)) prioPlane (.freeAccessComplete id)).after (16 * (occ + 3) + a.bound) prioArrive (.freeAccessTimeout id)

/-- HREAD at lane start (R178, R179): the first row's earlier operations are waited for turn by turn. -/
def State.laneHread (s : State) (l : Lane) (t : Tile) (vb : VecReg) (ctl : Word) (fmt n op : Nat) : Option State :=
  let raw := ctl.getLsbD 8
  let w := hreadWidth raw fmt
  let row0 := bits ctl 0 7
  let vl := Nat.min l.e.vl (s.emax l.sid w)
  let rows := groupRows row0 n vl
  let occ := Nat.max 1 (ceilDiv (128 * rows * w * s.vecStrands l.sid) 16384)
  let now := s.lcy l.sid
  if rows ≠ 0 ∧ s.outstanding (crewOf (coreOf l.sid)) t row0 op then none
  else
    let s := s.laneTake l occ
    if rows = 0 then some (s.setDue l.sid l.e.seq (now + 16 * (occ + 3)))
    else
      let hold (d : Dst) (s : State) : State := s.addPend l.sid ⟨l.e.seq, l.e.turn, d, none, 0, none, true⟩
      let s := (groupRegs vb n).foldl (fun s r => hold (.v r) s) s
      let s := ((groupRegs vb n).map qOf).eraseDups.foldl (fun s q => hold (.q q) s) s
      let pace := Nat.max 1 (w * s.vecStrands l.sid / 8)
      let r : HarpRun := {
        sid := l.sid, seq := l.e.seq, pc := l.e.pc, core := coreOf l.sid, tile := t
        touch := .read l.e row0 rows pace raw fmt w vl (bits (s.strand l.sid).fpctl 0 2) []
        row := row0, stop := row0 + rows, cs := none, failed := none, due := now + 16 * (occ + 3) }
      some (s.startRun op r 0)

/-- HWRITE at lane start (R180). -/
def State.laneHwrite (s : State) (l : Lane) (vb : VecReg) (ctl : Word) (n op : Nat) : State :=
  let x := s.strand l.sid
  let row0 := bits ctl 0 7
  let vl := Nat.min l.e.vl (s.emax l.sid 64)
  let rows := groupRows row0 n vl
  let at_ (e : Nat) : VecReg := Fin.ofNat 32 (vb.val + e / vl)
  let occ := Nat.max 1 (ceilDiv (128 * rows * s.vecStrands l.sid) 256)
  let data := (List.range rows).map fun i => BitVec.ofNat 8192
    (packAt 64 ((List.range 128).map fun j => (j, elemAt (x.rv (at_ (128 * i + j))).toNat 64 ((128 * i + j) % vl)))).1
  let valid := (List.range rows).map fun i => (List.range 128).all fun j => x.valid (at_ (128 * i + j)) ((128 * i + j) % vl / 32)
  let s := s.laneTake l occ
  let now := s.lcy l.sid
  let s := match look op s.runs with
    | some r =>
      if rows = 0 then s.endRun op
      else s.startRun op { r with touch := .write row0 data valid (ctl.getLsbD 8), cs := some now } (16 * (occ + 2) + row0)
    | none => s
  s.setDue l.sid l.e.seq (now + 16 * (occ + 2))

end Sys2Proof.Machine
end

