-- ==== Sys2Proof/Machine/Tickets.lean ====
section
/-! DEFINITION. Tickets (R299 to R303, R308): the fields of a ticket, its effective object, its tag chain under QARMA-64, the
checks at issue (R255), and the ticket words (R258, R259, R398). -/
namespace Sys2Proof.Machine

/-! ## QARMA-64 (R308), 7 rounds in each half, the S-box σ1; a state is 16 cells, the most significant first -/

def qCells (x : Nat) : List Nat := (List.range 16).map fun i => x / 16 ^ (15 - i) % 16
def qNum (c : List Nat) : Nat := c.foldl (fun a v => 16 * a + v) 0
def qPick (p c : List Nat) : List Nat := p.map fun i => c.getD i 0
def qSub (t c : List Nat) : List Nat := c.map fun v => (t[v]?).getD 0

/-- σ1 is its own inverse. -/
def qSigma : List Nat := [10, 13, 14, 6, 15, 7, 3, 5, 9, 8, 0, 12, 11, 1, 2, 4]
def qTau : List Nat := [0, 11, 6, 13, 10, 1, 12, 7, 5, 14, 3, 8, 15, 4, 9, 2]
def qTauInv : List Nat := [0, 5, 15, 10, 13, 8, 2, 7, 11, 14, 4, 1, 6, 3, 9, 12]
def qTweakPerm : List Nat := [6, 5, 14, 15, 0, 1, 2, 3, 7, 12, 13, 4, 8, 9, 10, 11]
def qTweakLfsr : List Nat := [0, 1, 3, 4, 8, 11, 13]
def qConst : List Nat := [0, 0x13198A2E03707344, 0xA4093822299F31D0, 0x082EFA98EC4E6C89, 0x452821E638D01377,
  0xBE5466CF34E90C6C, 0x3F84D5B5B5470917, 0x9216D5D98979FB1B]
def qAlpha : Nat := 0xC0AC29B7C97C50DD

def rot4 (a n : Nat) : Nat := a * 2 ^ n % 16 ||| a / 2 ^ (4 - n)

/-- The matrix circ(0, ρ, ρ², ρ) on the columns. -/
def qMix (c : List Nat) : List Nat :=
  (List.range 16).map fun i =>
    ([1, 2, 3] : List Nat).foldl (fun a d => a ^^^ rot4 (c.getD ((i / 4 + d) % 4 * 4 + i % 4) 0) (if d = 2 then 2 else 1)) 0

/-- The next tweak. -/
def qTweak (t : Nat) : Nat :=
  let lfsr (v : Nat) : Nat := v / 2 ||| (v % 2 ^^^ v / 2 % 2) * 8
  qNum (((qPick qTweakPerm (qCells t)).zipIdx).map fun e => if qTweakLfsr.contains e.2 then lfsr e.1 else e.1)

/-- The rounds of the first half; answers the block, the tweak after it and the tweaks used, the last first. -/
def qForward (k0 : Nat) : List Nat → Bool → Nat → Nat → List (Nat × Nat) → Nat × Nat × List (Nat × Nat)
  | [], _, s, t, used => (s, t, used)
  | c :: cs, first, s, t, used =>
    let x := qCells (s ^^^ k0 ^^^ t ^^^ c)
    let x := if first then x else qMix (qPick qTau x)
    qForward k0 cs false (qNum (qSub qSigma x)) (qTweak t) ((t, c) :: used)

def qBackward (k0 : Nat) : List (Nat × Nat) → Nat → Nat
  | [], s => s
  | (t, c) :: used, s =>
    let x := qSub qSigma (qCells s)
    let x := if used.isEmpty then x else qPick qTauInv (qMix x)
    qBackward k0 used (qNum x ^^^ k0 ^^^ t ^^^ c ^^^ qAlpha)

/-- Q(k, w, x) of R308, with the whitening key and the core key of k (PRESUMED: the cipher as its designers published it,
notes/assumptions/30.md). -/
def qarma (w0 k0 tweak x : Nat) : Nat :=
  let w1 := (w0 / 2 ||| w0 % 2 * 2 ^ 63) ^^^ w0 / 2 ^ 63
  let (s, t, used) := qForward k0 (qConst.take 7) true (x ^^^ w0) tweak []
  let s := qNum (qSub qSigma (qMix (qPick qTau (qCells (s ^^^ w1 ^^^ t)))))
  let s := qNum (qPick qTauInv (qCells (qNum (qMix (qPick qTau (qCells s))) ^^^ k0)))
  let s := qNum (qPick qTauInv (qMix (qSub qSigma (qCells s)))) ^^^ w0 ^^^ t
  qBackward k0 used s ^^^ w1

/-! ## Fields (R299 to R302) -/

def tkWord (t : Ticket) (i : Nat) : Nat := bits t (128 * i) 128
def tkKind (t : Ticket) : Nat := bits t 128 3
def tkRights (t : Ticket) : Nat := bits t 131 8
def tkKgen (t : Ticket) : Nat := bits t 139 4
def tkPgen (t : Ticket) : Nat := bits t 143 12
def tkTgen (t : Ticket) : Nat := bits t 155 16
def tkPort (t : Ticket) : Nat := bits t 171 6
def tkOvd (t : Ticket) : Nat := bits t 177 8
def tkBase (t : Ticket) : Nat := bits t 185 40
def tkLen (t : Ticket) : Nat := bits t 225 24
def tkCaveat (t : Ticket) (i : Nat) : Nat := bits t (256 + 64 * i) 64
def tkTag (t : Ticket) : Nat := bits t 384 64

/-- Rights, by their place in RIGHTS. -/
def rightRead : Nat := 0
def rightWrite : Nat := 1
def rightAtomic : Nat := 2
def rightSend : Nat := 3
def rightQueue : Nat := 4
def rightDelegable : Nat := 5
def rightNarrowable : Nat := 6
def rightMulticast : Nat := 7

/-- Kind 2: first slot and slot count. -/
def tkSlotFirst (t : Ticket) : Nat := field (tkBase t) 13 6
def tkSlotCount (t : Ticket) : Nat := field (tkBase t) 19 7
/-- Kind 5: vector strand, first register, register count. -/
def tkStrand (t : Ticket) : Nat := field (tkBase t) 0 2
def tkRegFirst (t : Ticket) : Nat := field (tkBase t) 2 5
def tkRegCount (t : Ticket) : Nat := field (tkBase t) 7 6

/-! ## The effective object (R303) -/

/-- The window, rights and expiry that word 1 and the caveats before the first malformed one leave. -/
structure Eff where
  lo : Nat
  hi : Nat
  rights : Nat
  expiry : Option Nat
  bad : Bool

/-- One caveat; one that is absent changes nothing. -/
def Eff.narrow (e : Eff) (kind c : Nat) : Eff :=
  if c = 0 ∨ e.bad then e
  else if c % 4 = 1 then
    let off := field c 2 30
    let slen := field c 32 30
    if kind = 3 ∨ kind = 5 ∨ slen = 0 ∨ off + slen > e.hi - e.lo ∨ c / 2 ^ 62 ≠ 0 then { e with bad := true }
    else { e with lo := e.lo + off, hi := e.lo + off + slen }
  else if c % 4 = 2 then
    if c / 2 ^ 10 ≠ 0 then { e with bad := true } else { e with rights := e.rights &&& field c 2 8 }
  else if c % 4 = 3 then
    if c / 2 ^ 54 ≠ 0 then { e with bad := true }
    else { e with expiry := some (match e.expiry with | some x => Nat.min x (field c 2 52) | none => field c 2 52) }
  else { e with bad := true }

def tkEff (t : Ticket) : Eff :=
  let kind := tkKind t
  let base := if kind = 2 then tkBase t % 8192 else tkBase t
  let e : Eff := if kind = 3 ∨ kind = 5 then ⟨0, 0, tkRights t, none, false⟩ else ⟨64 * base, 64 * (base + tkLen t), tkRights t, none, false⟩
  let c1 := tkCaveat t 0
  let c2 := tkCaveat t 1
  if c1 = 0 ∧ c2 ≠ 0 then { e with bad := true } else (e.narrow kind c1).narrow kind c2

/-- R255 check 2 and R309 step 2: a kind that exists, reserved bits zero and caveats in order. -/
def tkWellFormed (t : Ticket) : Bool :=
  decide (1 ≤ tkKind t) && decide (tkKind t ≤ 5) && bits t 249 7 == 0 && bits t 448 64 == 0 && !(tkEff t).bad

def Eff.has (e : Eff) (right : Nat) : Bool := e.rights.testBit right

/-! ## The tag (R308) -/

/-- T(i) from T(i − 1): keyed by the tag itself. -/
def tagStep (x i caveat : Nat) : Nat := qarma x (2 ^ 64 - 1 - x) i caveat

/-- T(0) under a route key. -/
def tagZero (key : BitVec 128) (w0 w1 : Nat) : Nat :=
  let q (j x : Nat) : Nat := qarma (bits key 64 64) (bits key 0 64) j x
  q 3 (q 2 (q 1 (q 0 (w0 % 2 ^ 64) ^^^ w0 / 2 ^ 64) ^^^ w1 % 2 ^ 64) ^^^ w1 / 2 ^ 64)

/-- The tag that a genuine ticket carries. -/
def tagOf (key : BitVec 128) (t : Ticket) : Nat :=
  let x := tagZero key (tkWord t 0) (tkWord t 1)
  let x := if tkCaveat t 0 = 0 then x else tagStep x 1 (tkCaveat t 0)
  if tkCaveat t 1 = 0 then x else tagStep x 2 (tkCaveat t 1)

/-- R309, R310: a switch's check of a ticket, with the key set that stands. -/
def State.genuine (s : State) (t : Ticket) : Bool :=
  tkWellFormed t &&
  (if tkKgen t = s.pkg.kg then tkTag t == tagOf s.pkg.keyCur t
   else if tkKgen t = (s.pkg.kg + 15) % 16 then tkTag t == tagOf s.pkg.keyPrev t
   else false)

/-! ## Checks at issue (R255) -/

/-- R255: what an operation asks of its ticket; `at_` is the window offset that EVAL holds, and `slot` SEND's slot. -/
structure TkAsk where
  kinds : List Nat
  right : Nat
  lo : Nat := 0
  hi : Nat := 0
  at_ : Nat := 0
  slot : Option Nat := none

/-- The bar in which a strand's launch stands (R255, R334). -/
def State.bar (s : State) (sid : Nat) : Nat := s.lcy sid / 4096

/-- R255: the EVAL of the first failing check. -/
def State.tkFails (s : State) (t : Ticket) (q : TkAsk) : Option Nat :=
  let e := tkEff t
  if t = 0 then some q.at_
  else if !tkWellFormed t || !q.kinds.contains (tkKind t) then some q.at_
  else if !e.has q.right then some q.at_
  else if q.lo < q.hi ∧ (q.lo < e.lo ∨ e.hi < q.hi) then some q.at_
  else match q.slot with
    | some n =>
      if n ≥ tkSlotCount t then some n
      else if (match e.expiry with | some x => decide (x < s.bar s.cur.sid) | none => false) then some q.at_
      else if tkOvd t ≠ s.strandVd s.cur.sid then some q.at_
      else none
    | none => if (match e.expiry with | some x => decide (x < s.bar s.cur.sid) | none => false) then some q.at_ else none

/-- An operation through a ticket, past its checks. -/
def ticketed (s : State) (r : TkReg) (q : TkAsk) (k : Ticket → Res) : Res :=
  match s.tkFails (s.me.rtk r) q with
  | some v => accessFault (BitVec.ofNat 64 v)
  | none => k (s.me.rtk r)

/-- R255: the window check of a kind 5 object is that of its registers. -/
def tkRegsOk (t : Ticket) (r n : Nat) : Bool := decide (tkRegFirst t ≤ r) && decide (r + n ≤ tkRegFirst t + tkRegCount t)

/-! ## The ticket words (R258, R259) -/

/-- R258: the status and the narrowed ticket. -/
def tknar (t : Ticket) (c : Nat) : Nat × Ticket :=
  let n := if tkCaveat t 0 = 0 then 0 else if tkCaveat t 1 = 0 then 1 else 2
  if t = 0 then (1, t)
  else if !(tkEff t).has rightNarrowable then (2, t)
  else if n = 2 then (3, t)
  else
    let e := (tkEff t).narrow (tkKind t) c
    if c % 4 = 0 ∨ e.bad then (4, t)
    else
      let tag := tagStep (tkTag t) (n + 1) c
      (0, BitVec.ofNat 512 (tkWord t 0 + 2 ^ 128 * tkWord t 1 + 2 ^ 256 * (tkWord t 2 + c * 2 ^ (64 * n)) +
        2 ^ 384 * tag + 2 ^ 448 * bits t 448 64))

def execTknar (tk : TkReg) (d a : GReg) (s : State) : Host.Outcome State Fault Refusal :=
  finish s (word s { src := [.tk tk, .g a], dst := [.tk tk, .g d] } fun s =>
    let r := tknar (s.me.rtk tk) (s.rg a).toNat
    let s := s.landG d (BitVec.ofNat 64 r.1) 2
    .ok (if r.1 = 0 then s.landWide (.tk tk) (r.2.setWidth 65536) 2 else s))

def execTkmov (tk m : TkReg) (s : State) : Host.Outcome State Fault Refusal :=
  finish s (word s { src := [.tk m], dst := [.tk tk] } fun s => .ok (s.landWide (.tk tk) ((s.me.rtk m).setWidth 65536) 1))

/-- TKCHK's summary. -/
def State.tkSummary (s : State) (t : Ticket) : Nat :=
  if t = 0 then 0
  else
    let e := tkEff t
    1 + 2 * tkKind t + 256 * e.rights +
      (match e.expiry with | some x => if x < s.bar s.cur.sid then 65536 else 0 | none => 0)

def execTkchk (tk : TkReg) (d : GReg) (s : State) : Host.Outcome State Fault Refusal :=
  finish s (word s { src := [.tk tk], dst := [.g d] } fun s => .ok (s.landG d (BitVec.ofNat 64 (s.tkSummary (s.me.rtk tk))) 2))

def execTkld (tk : TkReg) (a : GReg) (sp : Space) (s : State) : Host.Outcome State Fault Refusal :=
  finish s (word s { src := [.g a], dst := [.tk tk], outward := true } fun s =>
    checked (s.checkAccess s.cur.sid sp (s.rg a).toNat 64 .read .plain) fun s x =>
      s.issueAccess { x with kind := .image tk, dst := some (.tk tk) } 0)

/-- TKST: a ticket that is not empty needs Delegable. -/
def execTkst (tk : TkReg) (a : GReg) (sp : Space) (s : State) : Host.Outcome State Fault Refusal :=
  finish s (word s { src := [.tk tk, .g a], outward := true } fun s =>
    let t := s.me.rtk tk
    if t ≠ 0 ∧ !(tkEff t).has rightDelegable then accessFault (s.rg a)
    else checked (s.checkAccess s.cur.sid sp (s.rg a).toNat 64 .write .plain) fun s x =>
      s.issueAccess { x with kind := .block (toBytes 64 t.toNat) } 0)

end Sys2Proof.Machine
end

