-- ==== Sys2Proof/Machine/Fabric.lean ====
section
/-! DEFINITION. The fabric: hops and routes (R304 to R307, R399), the switch check (R309), rate control and open slots (R257,
R371), delivery (R312, R313), elastic queues and receive slots (R242 to R245), and SEND to VPULL (R254 to R268). -/
namespace Sys2Proof.Machine

/-! ## Accesses of a VD at their homes, as engines and tickets make them -/

/-- n bytes at an address in parts that each lie in one block of `size` bytes. -/
def piecesOf (size : Nat) : Nat → Nat → Nat → List (Nat × Nat)
  | 0, _, _ => []
  | f + 1, a, n =>
    if n = 0 then []
    else
      let k := Nat.min n (size - a % size)
      (a, k) :: piecesOf size f (a + k) (n - k)

/-- The parts of n bytes in lines; an address wraps at 2^64. -/
def linePieces (a n : Nat) : List (Nat × Nat) := piecesOf 64 (n / 64 + 2) (a % 2 ^ 64) n

/-- R326, R203: the physical address of a virtual address of a VD, for n bytes within one line, after the checks of its leaf, its
relay window, its pins and its lines. `whole` is a write of whole lines, which reads none of them. -/
def State.vdTarget (s : State) (v ea n : Nat) (r : Right) (program atomic whole : Bool) : Except TrapInfo (Nat × Attr) :=
  if ea ≥ 2 ^ 57 then .error (walkTrap 8 4 0 ea) else
  match (walkFrom v ea 962 5 (s.vd v).troot s).2 with
  | .error t => .error t
  | .ok e =>
    let pa := e.pa ea
    match checkLeaf e.attr program r ea with
    | some t => .error t
    | none =>
      match (match s.relayOf (pa / 4096) with
        | some w => s.relayFault v w pa ea r (if atomic then .atomic else .plain)
        | none => s.placeFault v pa n ea r (if atomic then .atomic else if whole then .touch else .plain) false) with
      | some t => .error t
      | none => .ok (pa, e.attr)

/-- What a VD reads at a physical address: through a relay window as its owner or peer. -/
def State.homeRead (s : State) (v pa n : Nat) : List Byte :=
  match s.relayOf (pa / 4096) with
  | some w => s.relayRead w ((s.key (192 + w)).owner == v) pa n
  | none => s.physRead ((s.migrate v pa).getD pa) n

/-- Whether a line that a leaf maps is held in the memory-side cache. -/
def State.homeCached (s : State) (pa : Nat) (at_ : Attr) : Bool :=
  (isNear pa || isFar pa) && !at_.nc && (s.frame (pa / 4096)).pins == 0 && (s.relayOf (pa / 4096)).isNone

/-- R183, R190, R191: the slice and the monitor of the line that an engine or a ticket reads. -/
def State.homeFill (s : State) (v pa : Nat) (part : Option Nat) (at_ : Attr) : State :=
  if s.homeCached pa at_ then
    let a := (s.migrate v pa).getD pa
    (s.mcTouch a (s.kidOf (a / 64)) part false).1
  else s

/-- A VD's write at a physical address; one of a whole line ends its poison (R238). -/
def State.homeWrite (s : State) (v pa : Nat) (bs : List Byte) (part : Option Nat) (at_ : Attr) : State :=
  match s.relayOf (pa / 4096) with
  | some w => s.relayWrite w pa bs
  | none => s.physWrite ((s.migrate v pa).getD pa) bs part (s.homeCached pa at_)

/-- Whole-line writes leave no copy of the line in a cache, and no poison (R238, R403). -/
def State.cleanLine (s : State) (la : Nat) : State :=
  let s := s.l1DropAll fun l => l.line == la / 2
  { s with mc := s.mc.filter fun l => decide (l.line ≠ la / 2), lines := tput {} la { s.line la with poison := none } s.lines }

/-- What an access of an engine or a ticket comes to: it waits a cycle, a check refuses it, or it is performed. -/
inductive Homed
  | wait
  | fail (t : TrapInfo)
  | ok (s : State) (bs : List Byte)

/-- The targets of the parts of an access, all of them checked. -/
def State.vdTargets (s : State) (v : Nat) (r : Right) (program atomic : Bool) (whole : Nat → Bool) :
    List (Nat × Nat) → Except TrapInfo (List (Nat × Attr))
  | [] => .ok []
  | (a, n) :: t =>
    match s.vdTarget v a n r program atomic (whole a) with
    | .error f => .error f
    | .ok x => match s.vdTargets v r program atomic whole t with
      | .error f => .error f
      | .ok l => .ok (x :: l)

/-- A VD's read of n bytes at a virtual address, line by line; it waits while one of its lines is being copied (R219). -/
def State.vdRead (s : State) (v : Nat) (program : Bool) (part : Option Nat) (a n : Nat) : Homed :=
  let ps := linePieces a n
  match s.vdTargets v .read program false (fun _ => false) ps with
  | .error t => .fail t
  | .ok ts =>
    if ts.any fun x => (s.migrate v x.1).isNone then .wait
    else .ok (ts.foldl (fun s x => s.homeFill v x.1 part x.2) s) ((ts.zip ps).flatMap fun x => s.homeRead v x.1.1 x.2.2)

/-- The writes of parts, in their order. -/
def State.vdPuts (s : State) (v : Nat) (part : Option Nat) (whole : Nat → Bool) : List ((Nat × Attr) × (Nat × Nat)) → List Byte → State
  | [], _ => s
  | ((pa, at_), (a, n)) :: t, bs =>
    let clean := whole a && (isNear pa || isFar pa) && (s.line (pa / 64)).poison.isSome
    let s := if clean then s.cleanLine (pa / 64) else s
    (s.homeWrite v pa (bs.take n) part at_).vdPuts v part whole t (bs.drop n)

/-- A VD's write at a virtual address; every part is checked before the first is written. `whole` says of a part's address that the write
covers its line. -/
def State.vdWrite (s : State) (v : Nat) (program : Bool) (part : Option Nat) (whole : Nat → Bool) (a : Nat) (bs : List Byte) : Homed :=
  let ps := linePieces a bs.length
  match s.vdTargets v .write program false whole ps with
  | .error t => .fail t
  | .ok ts =>
    if ts.any fun x => (s.migrate v x.1).isNone then .wait else .ok (s.vdPuts v part whole (ts.zip ps) bs) []

/-! ## Hops (R304 to R306) -/

def nibble (w0 h : Nat) : Nat := if h < 32 then w0 / 16 ^ h % 16 else 15

inductive Hop
  | dir (d : Nat) | copy | deliver
  /-- Out of a port, and to a port's attach site. -/
  | egress (port : Nat) | attach (port : Nat)
  | bad
  deriving DecidableEq, Repr

def isService (x : Nat) : Bool := x == 0 || x == 31

/-- R10: the column of a die's service sites, and the row of service distance k. -/
def serviceSite (die k : Nat) : Nat × Nat := (if die % 2 = 0 then 0 else 31, if die < 2 then k else 31 - k)

/-- The hop that the nibbles at h name at a site of column x, and how many nibbles it takes. -/
def State.hopAt (s : State) (w0 h x : Nat) : Hop × Nat :=
  let n := nibble w0
  if h > 31 then (.bad, 1)
  else if n h ≤ 3 then (.dir (n h), 1)
  else if n h = 4 then (.deliver, 1)
  else if n h = 5 then (.copy, 1)
  else if n h = 6 then
    if !isService x || decide (h + 2 > 31) || decide (n (h + 2) ≥ 4) then (.bad, 1)
    else
      let port := n (h + 1) + 16 * (n (h + 2) % 2)
      (if n (h + 2) ≥ 2 then .attach port else .egress port, 3)
  else if n h = 7 then
    if !isService x || !s.pkg.torus || decide (h + 1 > 31) || decide (n (h + 1) ≥ 8) || decide (n (h + 1) % 4 = 3) then (.bad, 1)
    else (.egress (5 * (2 * (n (h + 1) % 4) + n (h + 1) / 4)), 2)
  else (.bad, 1)

/-- The site one hop away in direction d (N, E, S, W), where there is one. -/
def neighbour (x y d : Nat) : Option (Nat × Nat) :=
  if d = 0 then (if y = 0 then none else some (x, y - 1))
  else if d = 1 then (if x = 31 then none else some (x + 1, y))
  else if d = 2 then (if y = 31 then none else some (x, y + 1))
  else (if x = 0 then none else some (x - 1, y))

/-- R305, R10: the attach site of a port. -/
def attachSite (port : Nat) : Nat × Nat := serviceSite (port / 8) ((([1, 2, 3, 5, 6, 7, 9, 10] : List Nat)[port % 8]?).getD 1)

/-- R10, R190: the site of the near-memory port of a stack, two to a die, and of the far-memory port of a channel, one to a die. -/
def nearSite (stack : Nat) : Nat × Nat := serviceSite (stack / 2) (if stack % 2 = 0 then 4 else 11)
def farSite (channel : Nat) : Nat × Nat := serviceSite (channel / 4) 8

/-- R10: the site of a Dray, twelve to a die in increasing service distance. -/
def draySite (dray : Nat) : Nat × Nat :=
  serviceSite (dray / 12) ((([1, 2, 3, 5, 6, 7, 9, 10, 12, 13, 14, 15] : List Nat)[dray % 12]?).getD 1)

/-- R10, R14: where the host link and the Ethernet ports leave the package, and the checkpoint engine's site. -/
def hostSite : Nat × Nat := serviceSite 1 0
def ckptSite : Nat × Nat := serviceSite 2 0

/-- R10: what stands at a site: a core, a Coachman, the host and network port, the checkpoint engine, a near-memory port, a far-memory port
by die, or a Dray hub. -/
inductive SiteUse
  | core (n : Nat) | coachman (n : Nat) | host | checkpoint | near (stack : Nat) | far (die : Nat) | dray (n : Nat)
  deriving DecidableEq, Repr

def siteUse (x y : Nat) : SiteUse :=
  if !isService x then .core (coreAt x y)
  else
    let die := x / 16 + 2 * (y / 16)
    let k := if die < 2 then y else 31 - y
    if k = 0 then (if die = 0 then .coachman 960 else if die = 1 then .host else if die = 2 then .checkpoint else .coachman 961)
    else if k = 4 then .near (2 * die)
    else if k = 11 then .near (2 * die + 1)
    else if k = 8 then .far die
    else .dray (12 * die + (k - 1 - if k < 4 then 0 else if k < 8 then 1 else if k < 11 then 2 else 3))

/-- R13: the cost of the hop between two neighbours. -/
def hopCost (x y x' y' : Nat) : Nat := axisCost x x' + axisCost y y'

/-- R305: the package at the far end of a port, where the port has a link. -/
def State.peerOf (s : State) (port : Nat) : Option Nat := (look port s.pkg.peerport).map fun v => field v 5 8

/-- Where a route leads: cores that it delivers at, sites of the final delivery, the package it leaves for, and its path
latency as far as it is on this package. -/
structure RouteInfo where
  cores : List Nat := []
  away : Option Nat := none
  lat : Nat := 6
  /-- Copies that it leaves in the package beyond a link. -/
  copies : Nat := 0
  /-- Whether the latency is that of the whole route: a route through a third package passes links whose LINKLAT this one does not hold. -/
  known : Bool := true

/-- A site that the route delivers at. -/
def RouteInfo.deliver (r : RouteInfo) (c : Option Nat) : RouteInfo := if r.away.isSome then r else { r with cores := r.cores ++ c.toList }

/-- The core of a site: of columns 1 to 30, or a Coachman's (R386). -/
def siteCore (x y : Nat) : Option Nat :=
  if !isService x then some (coreAt x y) else if x = 0 ∧ y = 0 then some 960 else if x = 31 ∧ y = 31 then some 961 else none

/-- R307: follows a route from a site, over one link: PEERPORT names the far port, and every package has the same sites. -/
def State.follow (s : State) (w0 : Nat) : Nat → Nat → Nat → Nat → Option Nat → RouteInfo → RouteInfo
  | 0, _, _, _, _, r => r
  | n + 1, h, x, y, last, r =>
    match s.hopAt w0 h x with
    | (.bad, _) => r
    | (.deliver, _) => r.deliver (siteCore x y)
    | (.dir d, k) =>
      match neighbour x y d with
      | some (x', y') => s.follow w0 n (h + k) x' y' (some d) { r with lat := r.lat + hopCost x y x' y' }
      | none => r
    | (.copy, k) =>
      match last with
      | some d => match neighbour x y d with
        | some (x', y') => s.follow w0 n (h + k) x' y' last { r.deliver (siteCore x y) with
            lat := r.lat + hopCost x y x' y', copies := r.copies + if r.away.isSome then 1 else 0 }
        | none => r
      | none => r
    | (.attach port, k) =>
      s.follow w0 n (h + k) (attachSite port).1 (attachSite port).2 last { r with lat := r.lat + 16 }
    | (.egress port, k) => match look port s.pkg.peerport with
      | some v =>
        if r.away.isSome then { r with known := false }
        else
          let r := { r with away := some (field v 5 8), lat := r.lat + 16 + tget 0 port s.pkg.linklat }
          if nibble w0 (h + k) = 6 ∨ nibble w0 (h + k) = 7 then { r with known := false }
          else
            let (x', y') := attachSite (field v 0 5)
            s.follow w0 n (h + k) x' y' last { r with lat := r.lat + 16 }
      | none => r

def State.routeOf (s : State) (core : Nat) (t : Ticket) : RouteInfo :=
  s.follow (tkWord t 0) 33 0 (siteX core) (siteY core) none {}

/-! ## Operations and packets -/

def State.packet (s : State) (id : Nat) : Option Packet := look id s.packets
def State.setPacket (s : State) (id : Nat) (p : Packet) : State := { s with packets := bind id p s.packets }
/-- A packet leaves the fabric, with the later flits that follow it. -/
def State.dropPacket (s : State) (id : Nat) : State :=
  { s with packets := s.packets.filter fun e => decide (e.1 ≠ id) && e.2.lead != some id }
def State.op (s : State) (id : Nat) : Option FabOp := look id s.ops

/-- The operation of a packet of this package. -/
def State.opOf (s : State) (p : Packet) : Option FabOp := if p.src.isSome then none else s.op p.op

/-- R256: the outcome of a packet returns on the reverse of its path: to its operation, or out of the port that it came in by. -/
def State.answer (s : State) (p : Packet) (e : Event) : State :=
  if p.src.isSome then { s with backOut := s.backOut ++ [(s.pkg.ency + p.lat, p.inPort, e)] } else s.after p.lat prioArrive e

/-- Flits of a packet. -/
def Req.flits : Req → Nat
  | .write _ data => Nat.max 1 (ceilDiv data.length 64)
  | .push _ words _ _ => Nat.max 1 (ceilDiv words 16)
  | _ => 1

/-- R256, R257: whether the strand of an operation is still the one that issued it. -/
def State.opAlive (s : State) (o : FabOp) : Bool := (s.strand o.sid).slot != .idle && (s.strand o.sid).launch == o.launch

/-- A FABRIC operation of the issuing word. -/
def State.newOp (s : State) (sid seq : Nat) (pc : Word) (tkr : Nat) (t : Ticket) (dst : Option (GReg × Nat × Bool)) : FabOp :=
  let r := s.routeOf (coreOf sid) t
  let v := s.strandVd sid
  { sid := sid, seq := seq, pc := pc, tkr := tkr, dst := dst, vd := v, tgen := (s.vd v).tgen, left := 1
    launch := (s.strand sid).launch, away := r.away, cores := if tkKind t = 4 then [] else r.cores, lat := r.lat
    earliest := s.lcy sid + 16 * (2 + ceilDiv (2 * r.lat + 16) 16) }

/-- A packet of the strand, at its source router. -/
def State.newPacket (s : State) (sid tkr : Nat) (t : Ticket) (req : Req) : Packet :=
  { ticket := t, x := siteX (coreOf sid), y := siteY (coreOf sid), core := coreOf sid, slot := slotOf sid, tkr := tkr, req := req
    launch := (s.strand sid).launch, vd := s.strandVd sid, part := s.strandPart sid, need := req.flits }

/-- Priorities of the fabric within a cycle: switch checks and then grants of paths, and elastic arrivals in increasing package, logical
core and slot (R244). -/
def prioSwitch : Nat := prioLate 0
def prioGrant : Nat := prioLate 1
def prioElastic (pkg logical slot : Nat) : Nat := 2 ^ 70 + 16384 * pkg + 16 * logical + slot

/-- R256: the bound of a FABRIC operation. -/
def fabricBound (o : FabOp) : Nat := if o.away.isSome then 65536 else 16384

/-- An open packet leaves its core after n cycles, under the bound of its operation. -/
def State.sendOpen (s : State) (op : Nat) (o : FabOp) (p : Packet) (n : Nat) : State :=
  let (id, s) := s.fresh
  let s := s.setPacket id { p with op := op }
  ((s.perf o.sid 11 1).after n prioSwitch (.switchCheck id)).after (fabricBound o) prioArrive (.fabricTimeout op)

def State.openOp (s : State) (o : FabOp) : Nat × State :=
  let (id, s) := s.fresh
  (id, { s with ops := s.ops ++ [(id, o)] })

/-- R257: outstanding operations of a strand. -/
def State.inFlight (s : State) (sid : Nat) : Nat := (s.ops.filter fun o => o.2.sid == sid && o.2.left != 0).length

/-- R257: whether a strand has chunks that wait for a place. -/
def State.chunksLeft (s : State) (sid : Nat) : Bool := s.ops.any fun o => o.2.sid == sid && o.2.chunk.isSome

/-- R264: chunks of a STRIPE that wait for a place leave in their order. -/
def State.nextChunk (s : State) (sid : Nat) : State :=
  match s.ops.find? fun o => o.2.sid == sid && o.2.chunk.isSome with
  | some (id, o) =>
    match o.chunk with
    | some p => if s.inFlight sid < 32 then
        let o := { o with chunk := none, left := 1 }
        ({ s with ops := bind id o s.ops }).sendOpen id o p 1 else s
    | none => s
  | none => s

/-- A value of the operation's width, as its result register takes it. -/
def FabOp.extend (n : Nat) (sg : Bool) (v : Word) : Word := if sg then sext n v.toNat else zext n v.toNat

/-- The outcome of a Dray's request stands with its command (R272). -/
def State.drayAnswer (s : State) (id : Nat) (v : Option Word) (q : Nat × Nat) : State :=
  let d := s.dray q.1
  s.setDray q.1 { d with cmds := d.cmds.map fun c => if c.seq = q.2 then
    { c with asked := c.asked.map fun a => if a.2.1 = id then (a.1, id, some v) else a } else c }

/-- R256, R313: one packet or copy of an operation has an outcome, a value or none; with the last the operation is complete, and RLD and
RAMO land, with 0 where the packet was discarded. -/
def State.opResult (s : State) (id : Nat) (r : Option Word) : State :=
  match s.op id with
  | none => s
  | some o =>
    if o.left > 1 then { s with ops := bind id { o with left := o.left - 1 } s.ops }
    else
      let s := { s with ops := unbind id s.ops }
      let v := r.getD 0
      let s := match o.dray with | some q => s.drayAnswer id r q | none => s
      let s := match o.dst with
        | some (d, n, sg) =>
          if d ≠ 0 ∧ s.opAlive o = true then
            s.resolve o.sid o.seq (.g d) (FabOp.extend n sg v) (Nat.max o.earliest (s.nextTurn o.sid))
          else s
        | none => s
      s.nextChunk o.sid

/-- R256: a failure sets the PEERERR bit of the register used; a Dray's request has its status instead. -/
def State.peerErr (s : State) (o : FabOp) : State :=
  if o.dray.isNone && s.opAlive o then s.modStrand o.sid fun x => { x with peererr := x.peererr ||| BitVec.ofNat 16 (2 ^ o.tkr) } else s

/-- R256: the packet is discarded where it stands and counted; the notice returns on its path. -/
def State.discard (s : State) (id : Nat) (p : Packet) : State :=
  if p.lead.isSome then s.dropPacket id
  else ((s.countDiscard (if p.src.isNone && isCoach p.core then none else some (s.vd p.vd).part)).dropPacket id).answer p
    (.discardNotice p.op)

/-- R374: a reply, acknowledgement or notice whose generation is older than its agent's is discarded and counted. -/
def State.stale (s : State) (o : FabOp) : Bool := o.tgen != (s.vd o.vd).tgen

/-- DISCARD_NOTICE. -/
def execDiscardNotice (op : Nat) (s : State) : Host.Outcome State Fault Refusal :=
  .next (match s.op op with
  | none => s
  | some o =>
    if s.stale o then (s.countDiscard (some (s.vd o.vd).part)).opResult op none
    else (if o.dray.isSome then s else (s.peerErr o).perf o.sid 12 1).opResult op none)

/-- FABRIC_TIMEOUT: an operation without an outcome within its bound completes as a discard, and nothing of it is performed
later. -/
def execFabricTimeout (op : Nat) (s : State) : Host.Outcome State Fault Refusal :=
  .next (match s.op op with
  | none => s
  | some o =>
    let s := { s with
      packets := s.packets.filter fun p => p.2.src.isSome || decide (p.2.op ≠ op)
      ops := bind op { o with left := 1 } s.ops }
    ((s.countDiscard (if isCoach (coreOf o.sid) then none else some (s.vd o.vd).part)).peerErr o).opResult op none)

/-- The rate control of a partition towards a package (R257). -/
def State.rate (s : State) (p dest : Nat) : Rate := (look (p, dest) s.rates).getD { rate := (s.part p).share }

def State.opDest (s : State) (op : Nat) : Nat := match s.op op with | some o => o.away.getD s.pkg.pkgnum | none => s.pkg.pkgnum

/-- R257: a mark that an acknowledgement or a reply echoes reaches the rate control of its operation. -/
def State.echo (s : State) (op : Nat) (o : FabOp) (mark : Bool) : State :=
  match (if o.dray.isSome then some (s.vd o.vd).part else s.strandPart o.sid), mark with
  | some p, true => { s with rates := bind (p, s.opDest op) { s.rate p (s.opDest op) with marked := true } s.rates }
  | _, _ => s

/-- FABRIC_ACKNOWLEDGEMENT: a packet was performed. A timed send to another package is delivered in the cycle of its last flit; its
operation stays until a discard notice of it could have come back (log 83). -/
def execFabricAcknowledgement (op : Nat) (mark : Bool) (s : State) : Host.Outcome State Fault Refusal :=
  .next (match s.op op with
  | none => s
  | some o =>
    let s := s.echo op o mark
    if s.stale o then (s.countDiscard (some (s.vd o.vd).part)).opResult op none
    else if o.dray.isNone && s.scored o.sid && o.away.isSome && !o.late then
      ({ s with ops := bind op { o with late := true } s.ops }).owe (some (s.clockOf o.sid)) (s.lcy o.sid + o.lat) prioArrive
        (.fabricAcknowledgement op false)
    else s.opResult op (some 0))

/-- R257: a reply that bears a mark echoes it. -/
def State.replyMark (s : State) (op : Nat) (mark : Bool) : State :=
  match s.op op with
  | some o => s.echo op o mark
  | none => s

/-- REMOTE_REPLY: RLD and RAMO land; a stale reply lands 0. -/
def execRemoteReply (op : Nat) (value : Word) (s : State) : Host.Outcome State Fault Refusal :=
  .next (match s.op op with
  | none => s
  | some o =>
    if s.stale o then (s.countDiscard (some (s.vd o.vd).part)).opResult op none else s.opResult op (some value))

/-- R257, R277: the rates of the queue pairs, in bytes. -/
def State.netRates (s : State) : State :=
  { s with qps := s.qps.map fun e =>
    let share := 64 * (s.part (s.vd e.2.vd).part).share
    let r := e.2.rate
    let rate := if share = 0 then 0 else if r.marked then Nat.max 1 (r.rate - ceilDiv r.rate 8)
      else Nat.min share (r.rate + Nat.max 1 (share / 64))
    (e.1, { e.2 with rate := { r with rate := rate, marked := false } }) }

/-- RATE_UPDATE (R257): partitions without a share have no update. -/
def execRateUpdate (s : State) : Host.Outcome State Fault Refusal :=
  .next { s.netRates with rates := s.rates.map fun e =>
    let share := (s.part e.1.1).share
    if share = 0 then (e.1, { e.2 with rate := 0, marked := false })
    else (e.1, { e.2 with
      rate := if e.2.marked then Nat.max 1 (e.2.rate - ceilDiv e.2.rate 8) else Nat.min share (e.2.rate + Nat.max 1 (share / 64))
      marked := false }) }

/-! ## The switch (R309, R371, R406) -/

/-- R281: whether a launch has reserved a path in a cycle of its own. -/
def Launch.reserved (l : Launch) (code lcy : Nat) : Bool :=
  l.slots.any fun r => r.path == code && decide (4096 * r.bar + r.off ≤ lcy) && decide (lcy < 4096 * r.bar + r.off + r.count)

/-- R371: whether a path's present cycle is reserved by an admitted launch. -/
def State.pathReserved (s : State) (code : Nat) : Bool :=
  s.launches.any fun e => match e.2.lcy with
    | some c => e.2.scored && !e.2.frozen && (e.2.st == .running || e.2.st == .ending || e.2.st == .preempting) && e.2.reserved code c
    | none => false

/-- Flits of a partition that are held at a site (R245, R257, R267). -/
def State.heldAt (s : State) (part : Option Nat) (x y : Nat) : Nat :=
  ((s.packets.filter fun p => p.2.held.isSome && p.2.x == x && p.2.y == y && (match siteCore x y with
    | some c => s.partOf c == part
    | none => false)).map fun p => p.2.req.flits).sum

/-- R281: the code of the mesh link leaving a site, of a port's egress, and of the concourse between two ports. -/
def linkCode (x y d : Nat) : Nat := x + 32 * y + 1024 * d
def portCode (n : Nat) : Nat := 2 ^ 28 + n
def concCode (a b : Nat) : Nat := 2 ^ 29 + a + 32 * b

/-- R190: the stack of a near address and the channel of a far one. -/
def stackOf (pa : Nat) : Nat := field pa 12 3 ^^^ field pa 15 3
def channelOf (pa : Nat) : Nat := field pa 12 4 ^^^ field pa 16 4

/-- R281: the code of the timed cycles of the memory port or channel that serves an address. -/
def memCode (pa : Nat) : Nat := if isNear pa then 3 * 2 ^ 28 + stackOf pa else 2 ^ 30 + channelOf pa

/-- R281: a timed access to near or far memory takes its port or channel for this cycle. -/
def State.takeMemPath (s : State) (pa : Nat) : State :=
  if isNear pa || isFar pa then
    { s with paths := tput {} (memCode pa) { tget {} (memCode pa) s.paths with until_ := s.pkg.ency + 1 } s.paths }
  else s

/-- The path of the router output that a packet waits at, or that it is on its way to. -/
def State.outputOf (s : State) (p : Packet) : Option Nat :=
  match p.out with
  | some c => some c
  | none =>
    match s.hopAt (tkWord p.ticket 0) p.hop p.x with
    | (.dir d, _) => some (linkCode p.x p.y d)
    | (.copy, _) => p.lastDir.map (linkCode p.x p.y)
    | (.egress port, _) => some (portCode port)
    | _ => none

/-- R371: open flits of a partition in its buffer at a router output, those on their way into it included; a packet at its source
router is not in it before it takes its place. -/
def State.occupied (s : State) (part : Option Nat) (code : Nat) : Nat :=
  ((s.packets.filter fun e => !e.2.timed && e.2.part == part && (e.2.out.isSome || decide (0 < e.2.hop)) &&
    s.outputOf e.2 == some code).map fun e => e.2.req.flits).sum

/-- R371: whether a packet finds room in its partition's BUFQ at an output: all of it, or, where it is longer than the buffer, an empty one
(log 84). Traffic of no partition has buffers of its own (R257). -/
def State.roomAt (s : State) (p : Packet) (code : Nat) : Bool :=
  match p.part with
  | none => true
  | some q =>
    let n := s.occupied p.part code
    decide (n + p.req.flits ≤ (s.part q).bufq) || (n == 0 && (s.part q).bufq != 0)

/-- The packet after its hop over the mesh link that it waits for. -/
def Packet.moved (p : Packet) : Option Packet :=
  match p.port, p.lastDir with
  | none, some d => (neighbour p.x p.y d).map fun z => { p with x := z.1, y := z.2, hop := p.hop + 1, out := none }
  | _, _ => none

/-- R371: flits move on only into room at the next router. -/
def State.roomAhead (s : State) (p : Packet) : Bool :=
  match p.moved with
  | some q => match s.outputOf q with | some code => s.roomAt q code | none => true
  | none => true

/-- R371: the weight of a partition's flits; 48 stands for traffic of no partition. -/
def State.weight (s : State) (k : Nat) : Nat := if k = 48 then 1 else (s.part k).share

/-- R371: weighted round robin. An open packet is granted its path in this cycle, or not. -/
def State.grantPath (s : State) (id : Nat) (p : Packet) (code : Nat) : Option State :=
  let u := tget {} code s.paths
  if s.pkg.ency < u.until_ ∨ s.pathReserved code = true then none
  else
    let waiting := s.packets.filter fun e => e.2.out == some code && !e.2.timed && s.roomAhead e.2
    let keys := (waiting.map fun e => e.2.part.getD 48).eraseDups
    let least (l : List Nat) : Option Nat := match l with | [] => none | a :: t => some (t.foldl Nat.min a)
    let stay := keys.contains u.turn && decide (u.granted < s.weight u.turn)
    let turn := if stay then u.turn else
      match least (keys.filter fun k => decide (u.turn < k)) with
      | some k => k
      | none => (least keys).getD 48
    if turn ≠ p.part.getD 48 then none
    else match waiting.find? fun e => e.2.part.getD 48 == turn with
      | some (first, _) =>
        if first = id then
          let n := p.req.flits
          some { s with paths := tput {} code { until_ := s.pkg.ency + n, turn := turn
                                                granted := (if stay then u.granted else 0) + n } s.paths }
        else none
      | none => none

/-- R260: a timed flit in a cycle of a path that its launch has not reserved. One from another package, whose SEND cannot be charged here,
is discarded (log 85). -/
def State.linkFault (s : State) (id : Nat) (p : Packet) : State :=
  match s.opOf p with
  | some o =>
    let s := (s.dropPacket id).opResult p.op none
    s.takeTrap o.sid { cause := 15, detail := 5, eval := BitVec.ofNat 64 (s.lcy o.sid) } o.pc
  | none => s.discard id p

/-- The clock of a packet: its launch's for timed traffic, else the package's. -/
def State.packetAfter (s : State) (p : Packet) (n prio : Nat) (e : Event) : State :=
  match p.timed, p.launch with
  | true, some l => s.owe (some l) (s.lcyL l + n) prio e
  | _, _ => s.after n prio e

/-- The packet as it leaves the package: with the flits that it carries, and its source (R304). -/
def State.outward (s : State) (p : Packet) : Packet :=
  if p.src.isSome then { p with port := none } else { p with
    port := none, src := some s.pkg.pkgnum, core := (s.core p.core).logical
    flits := match s.op p.op with | some o => o.flits.filter fun f => f.1 == p.flit | none => [] }

/-- A packet enters the path before it: over a link of the mesh to the next site, through the concourse to a port, or out of the package. One
that passes a router output whose buffer holds more than half its partition's quota is marked (R257). -/
def State.advance (s : State) (id : Nat) (p : Packet) : State :=
  let full := match p.part, p.out with
    | some q, some code => !p.timed && decide (2 * s.occupied p.part code > (s.part q).bufq)
    | _, _ => false
  let p := { p with out := none, ecn := p.ecn || full }
  match p.port with
  | some port =>
    if p.transit then
      let p := { p with transit := false, lat := p.lat + 16, out := some (portCode port) }
      (s.setPacket id p).packetAfter p 16 (if p.timed then prioSwitch else prioGrant) (.switchCheck id)
    else { s with packets := unbind id s.packets, linkOut := s.linkOut ++ [(port, s.outward p)] }
  | none =>
    match p.lastDir with
    | none => s.discard id p
    | some d => match neighbour p.x p.y d with
      | some (x, y) =>
        let c := hopCost p.x p.y x y
        let p := { p with x := x, y := y, hop := p.hop + 1, lat := p.lat + c }
        (s.setPacket id p).packetAfter p c prioSwitch (.switchCheck id)
      | none => s.discard id p

/-- A packet wants a path: timed flits enter it in this very cycle, open ones wait in their buffer at the router output once there is room
in it. -/
def State.want (s : State) (id : Nat) (p : Packet) (code : Nat) : State :=
  if p.timed then
    match p.launch with
    | some l => if (s.launch l).reserved code (s.lcyL l) then s.advance id p else s.linkFault id p
    | none => s.discard id p
  else if p.hop = 0 ∧ s.roomAt p code = false then (s.setPacket id p).after 1 prioSwitch (.switchCheck id)
  else (s.setPacket id { p with out := some code }).now prioGrant (.switchCheck id)

/-- R313: operations that may be multicast. -/
def Req.multicast : Req → Bool
  | .read .. | .amo .. => false
  | _ => true

/-- The hop that a checked packet takes. -/
def State.takeHop (s : State) (id : Nat) (p : Packet) : State :=
  let go (s : State) (p : Packet) (d : Nat) : State :=
    match neighbour p.x p.y d with
    | some _ => s.want id { p with lastDir := some d } (linkCode p.x p.y d)
    | none => s.discard id p
  match s.hopAt (tkWord p.ticket 0) p.hop p.x with
  | (.bad, _) => s.discard id p
  | (.dir d, _) => go s p d
  | (.deliver, _) =>
    if p.lead.isSome then s.dropPacket id
    else
      let p := { p with lat := p.lat + 6, hop := 32 }
      (s.setPacket id p).packetAfter p 6 rankFree (.packetDelivery id)
  | (.copy, _) =>
    match p.lastDir with
    | none => s.discard id p
    | some d =>
      if p.lead.isSome then go s p d
      else if !(tkEff p.ticket).has rightMulticast || !p.req.multicast then s.discard id p
      else
        let (k, s) := s.fresh
        let q := { p with lat := p.lat + 6, hop := 32 }
        let s := (s.setPacket k q).packetAfter q 6 rankFree (.packetDelivery k)
        let s := match s.opOf p with
          | some o => { s with ops := bind p.op { o with left := o.left + 1 } s.ops }
          | none => s
        go s p d
  | (.attach port, k) =>
    let p := { p with x := (attachSite port).1, y := (attachSite port).2, hop := p.hop + k, lat := p.lat + 16, transit := false }
    (s.setPacket id p).packetAfter p 16 prioSwitch (.switchCheck id)
  | (.egress port, k) =>
    match s.peerOf port with
    | none => s.discard id p
    | some _ =>
      let n := (s.follow (tkWord p.ticket 0) 33 p.hop p.x p.y p.lastDir {}).copies
      let s := match s.opOf p with
        | some o => if p.timed then s else { s with ops := bind p.op { o with left := o.left + n } s.ops }
        | none => s
      let p := { p with hop := p.hop + k, port := some port }
      if p.transit then s.want id p (concCode p.inPort port)
      else
        let p := { p with lat := p.lat + 16, out := some (portCode port) }
        (s.setPacket id p).packetAfter p 16 (if p.timed then prioSwitch else prioGrant) (.switchCheck id)

/-- R257: a packet enters the fabric under the rate of its partition; none of a share of 0 does. -/
def State.enter (s : State) (id : Nat) (p : Packet) : State × Option Packet :=
  match p.part, p.timed, p.need with
  | some q, false, n + 1 =>
    let dest := s.opDest p.op
    let r := s.rate q dest
    let w := s.pkg.ency / 1024
    let used := if r.window = w then r.used else 0
    let take := Nat.min (n + 1) (r.rate - used)
    if (s.part q).share = 0 then (s, none)
    else
      let s := { s with rates := bind (q, dest) { r with window := w, used := used + take } s.rates }
      if take = n + 1 then (s, some { p with need := 0 })
      else ((s.setPacket id { p with need := n + 1 - take }).after (1024 - s.pkg.ency % 1024) prioSwitch (.switchCheck id), none)
  | _, _, _ => (s, some p)

/-- The launch whose paths a timed flit of another package takes here: that of the core which it is for. -/
def State.timedLaunch (s : State) (p : Packet) : Option Nat :=
  match (s.follow (tkWord p.ticket 0) 33 p.hop p.x p.y none {}).cores with
  | c :: _ => s.strands.findSome? fun e => if coreOf e.1 == c && (s.core c).scored then e.2.launch else none
  | [] => s.launches.findSome? fun e => if e.2.scored && e.2.lcy.isSome && !e.2.frozen && e.2.vd == tkOvd p.ticket then some e.1 else none

/-- A packet of another package stands in the concourse at the port that it came in by (R305); the later flits of a timed send follow it in
the cycles after. Its flits are held here among those of the VD that its ticket names. -/
def State.arrive (s : State) (port : Nat) (p : Packet) : State :=
  let (id, s) := s.fresh
  let p := { p with x := (attachSite port).1, y := (attachSite port).2, inPort := port, transit := true, src := some (p.src.getD 0)
                    vd := tkOvd p.ticket, part := some (s.vd (tkOvd p.ticket)).part, need := 0, out := none, port := none, lastDir := none
                    lead := none, passed := false, held := none, lat := 0, flit := 0 }
  let p := { p with launch := if p.timed then s.timedLaunch p else none }
  let s := (s.setPacket id p).packetAfter p 0 prioSwitch (.switchCheck id)
  if p.timed then
    (List.range (p.flits.length - 1)).foldl (fun (s : State) i =>
      let (k, s) := s.fresh
      (s.setPacket k { p with lead := some id, flit := i + 1 }).packetAfter p (i + 1) prioSwitch (.switchCheck k)) s
  else s

/-- LINK_ARRIVAL: the first packet that another package has put on a link reaches its port. -/
def execLinkArrival (s : State) : Host.Outcome State Fault Refusal :=
  .next (match s.linkIn with
  | (port, p) :: t => ({ s with linkIn := t }).arrive (port % 32) p
  | [] => s)

/-- A packet at the port that it came in by goes straight out again, to another port's attach site, or to its own port's. -/
def State.enterMesh (s : State) (id : Nat) (p : Packet) : State :=
  match s.hopAt (tkWord p.ticket 0) p.hop p.x with
  | (.egress _, _) => s.takeHop id p
  | (.attach _, _) => s.takeHop id p
  | _ =>
    let p := { p with transit := false, lat := p.lat + 16 }
    (s.setPacket id p).packetAfter p 16 prioSwitch (.switchCheck id)

/-- SWITCH_CHECK: the check pipeline of a router on a packet, and the packet's entry into its next path. -/
def execSwitchCheck (pkt : Nat) (s : State) : Host.Outcome State Fault Refusal :=
  .next (match s.packet pkt with
  | none => s
  | some p =>
    match p.out with
    | some code =>
      if p.timed then s.want pkt p code
      else match s.grantPath pkt p code with
        | some s => s.advance pkt p
        | none => s.after 1 prioGrant (.switchCheck pkt)
    | none =>
      match s.enter pkt p with
      | (s, none) => s
      | (s, some p) =>
        if p.lead.isNone && !s.genuine p.ticket then s.discard pkt p
        else if p.transit then s.enterMesh pkt p
        else s.takeHop pkt p)

/-! ## Delivery (R312) -/

/-- R312 check 5: whether a launch of a VD is a core's current one. A Coachman, which has no VD, is reached through what it has minted (R386):
the port that it opened says for whom (log 91). -/
def State.holdsVd (s : State) (c v : Nat) : Bool :=
  isCoach c || s.strands.any fun e => inSlot e.1 && coreOf e.1 == c && e.2.slot != .idle && (match e.2.launch with
    | some l => (s.launch l).vd == v
    | none => false)

/-- R312 check 7: the bytes, right and kinds of a packet against its ticket. -/
def Packet.allowed (p : Packet) : Bool :=
  let t := p.ticket
  let e := tkEff t
  let win (lo n right : Nat) : Bool :=
    e.has right && (n == 0 || (decide (e.lo ≤ lo) && decide (lo + n ≤ e.hi))) && (tkKind t == 1 || tkKind t == 4)
  match p.req with
  | .timed slot spill len =>
    tkKind t == 2 && e.has rightSend && decide (slot < tkSlotCount t) &&
      (decide (len ≤ 64) || (decide (e.lo ≤ 64 * spill) && decide (64 * spill + (len - 64) ≤ e.hi)))
  | .elastic _ _ => tkKind t == 3 && e.has rightQueue
  | .write off data => win off data.length rightWrite
  | .read off n => win off n rightRead
  | .amo _ off _ _ => win off 8 rightAtomic
  | .push r _ _ _ => tkKind t == 5 && e.has rightSend && tkRegsOk t r 1

/-- The delivering site's checks; the core that takes the packet, or none for a memory window. -/
def State.siteCheck (s : State) (p : Packet) : Option (Option Nat) :=
  let t := p.ticket
  let port := s.portEntry (portKey p.x p.y (tkPort t))
  let ovd := tkOvd t
  if !(port.isOpen && port.ovd == ovd) || port.gen != tkPgen t || (s.vd ovd).tgen != tkTgen t || !p.allowed then none
  else if tkKind t = 4 then (if p.timed then none else some none)
  else match siteCore p.x p.y with
    | none => none
    | some c =>
      let scored := (s.core c).scored
      if !s.holdsVd c ovd then none
      else if p.timed && !scored then none
      else if !p.timed && scored && tkKind t != 3 then none
      else some (some c)

/-- An open packet was performed: its acknowledgement, or its reply, returns on its path, with its mark (R257). -/
def State.ack (s : State) (id : Nat) (p : Packet) : State := (s.dropPacket id).answer p (.fabricAcknowledgement p.op p.ecn)
def State.reply (s : State) (id : Nat) (p : Packet) (v : Nat) : State :=
  (s.dropPacket id).answer p (.remoteReply p.op (BitVec.ofNat 64 v) p.ecn)

/-- R265: what RAMO stores. -/
def ramoNew (op : AmoOp) (old : Nat) (y e : Word) : Nat := op.new 8 old y.toNat e.toNat

/-- R264, R265: an open access at a core's scratchpad, in one bank cycle; none where a bank is taken. -/
def State.atSpad (s : State) (id : Nat) (p : Packet) (c : Nat) : Option State :=
  let go (off n : Nat) (k : State → State) : Option State :=
    if s.stringBusy c off n then none else (s.takeBanks c (banksOf off n)).map k
  match p.req with
  | .write off data => go off data.length fun s => (s.spadWrite c off data).ack id p
  | .read off n => go off n fun s => s.reply id p (ofBytes (s.spadRead c off n))
  | .amo op off y e => go off 8 fun s =>
    let old := ofBytes (s.spadRead c off 8)
    (s.spadWrite c off (toBytes 8 (ramoNew op old y e))).reply id p old
  | _ => some s

/-- R265, R312: an open access through a memory window, at its home under the Strongbox's checks. -/
def State.atHome (s : State) (id : Nat) (p : Packet) : Option State :=
  let v := tkOvd p.ticket
  let lost (t : TrapInfo) : Option State :=
    let s := if t.cause = 10 then s.chargeLine v t.detail else s
    some (s.discard id p)
  match p.req with
  | .write off data =>
    (match s.vdWrite v false p.part (fun a => a % 64 == 0 && decide (off ≤ a) && decide (a + 64 ≤ off + data.length)) off data with
    | .wait => none
    | .fail t => lost t
    | .ok s _ => some (s.ack id p))
  | .read off n =>
    (match s.vdRead v false p.part off n with
    | .wait => none
    | .fail t => lost t
    | .ok s bs => some (s.reply id p (ofBytes bs)))
  | .amo op off y e =>
    (match s.vdTarget v off 8 .write false true false with
    | .error t => lost t
    | .ok (pa, at_) =>
      if (s.migrate v pa).isNone then none
      else
        let old := ofBytes (s.homeRead v pa 8)
        some ((s.homeWrite v pa (toBytes 8 (ramoNew op old y e)) p.part at_).reply id p old))
  | _ => some (s.discard id p)

/-- R244, R304: the package and logical core that a packet comes from. -/
def State.sender (s : State) (p : Packet) : Nat × Nat :=
  match p.src with | some k => (k, p.core) | none => (s.pkg.pkgnum, (s.core p.core).logical)

/-- R244: arrivals of one cycle. -/
def State.arrivalPrio (s : State) (p : Packet) : Nat := prioElastic (s.sender p).1 (s.sender p).2 p.slot

/-- PACKET_DELIVERY: in its delivery cycle the site passes the packet, and it is performed, or discards it. -/
def execPacketDelivery (pkt : Nat) (s : State) : Host.Outcome State Fault Refusal :=
  .next (match s.packet pkt with
  | none => s
  | some p =>
    let verdict := if p.passed then some (if tkKind p.ticket = 4 then none else siteCore p.x p.y) else s.siteCheck p
    let gated := match siteCore p.x p.y with
      | some c => (match s.partOf c with | some q => if (s.part q).pstate = 0 then none else some q | none => none)
      | none => none
    match verdict, gated with
    | none, _ => s.discard pkt p
    | some _, some q => (s.setPacket pkt { p with passed := true }).wakePart q
    | some c, none =>
      let full := match siteCore p.x p.y with
        | some k => !p.timed && p.part == s.partOf k && (match p.part with
          | some q => decide (2 * s.heldAt (some q) p.x p.y > (s.part q).bufq)
          | none => false)
        | none => false
      let p := { p with passed := true, ecn := p.ecn || full }
      let s := s.setPacket pkt p
      let retry (r : Option State) : State := match r with
        | some t => t
        | none => s.after 1 rankFree (.packetDelivery pkt)
      match p.req, c with
      | .timed _ _ len, _ =>
        (List.range (ceilDiv len 64)).foldl (fun s f => s.packetAfter p f rankDray (.timedDelivery pkt f)) s
      | .elastic _ _, _ => s.now (s.arrivalPrio p) (.elasticArrival pkt)
      | .push _ _ _ _, _ => s.now prioArrive (.vpushArrival pkt)
      | _, some c => retry (s.atSpad pkt p c)
      | _, none => retry (s.atHome pkt p))

/-! ## Timed deliveries (R242, R243, R260) -/

/-- A timing fault of a delivery, charged to the launch of the receiving core. -/
def State.receiveFault (s : State) (c : Nat) : State :=
  match (s.strands.find? fun e => inSlot e.1 && coreOf e.1 == c && e.2.slot != .idle && e.2.launch.isSome) with
  | some (sid, x) =>
    match x.launch with
    | some l => s.endingEvent l (s.lcyL l) (s.core c).logical (slotOf sid) { cause := 15, detail := 4, eval := BitVec.ofNat 64 (s.lcyL l) } x.prev
    | none => s
  | none => s

/-- R186: a spill write that is not served in its cycle is charged to the SEND; none of another package can be charged here (log 85). -/
def State.bankFault (s : State) (p : Packet) : State :=
  match s.opOf p with
  | some o => s.takeTrap o.sid { cause := 15, detail := 2, eval := BitVec.ofNat 64 (s.lcy o.sid) } o.pc
  | none => s

/-- The payload bytes of a flit. -/
def FabOp.flit (o : FabOp) (f len : Nat) : List Byte := ((look f o.flits).getD []).take (len - 64 * f)

/-- TIMED_DELIVERY: flit 0 fills its slot and later flits land in the spill area, each in its cycle. -/
def execTimedDelivery (pkt flit : Nat) (s : State) : Host.Outcome State Fault Refusal :=
  .next (match s.packet pkt with
  | none => s
  | some p =>
    match p.req, siteCore p.x p.y with
    | .timed slot spill len, some c =>
      let data := match s.opOf p with | some o => o.flit flit len | none => ((look flit p.flits).getD []).take (len - 64 * flit)
      let s :=
        if flit = 0 then
          let n := tkSlotFirst p.ticket + slot
          let k := s.core c
          if (tget {} n k.recv).full then s.receiveFault c
          else s.setCore c { k with recv := tput {} n ⟨BitVec.ofNat 512 (ofBytes data), Nat.min len 64, true⟩ k.recv }
        else
          let off := 64 * spill + 64 * (flit - 1)
          if s.stringBusy c off data.length then s.bankFault p
          else match s.takeBanks c (banksOf off data.length) with
            | some s => s.spadWrite c off data
            | none => s.bankFault p
      if flit + 1 = ceilDiv len 64 then
        let t := s.dropPacket pkt
        if p.src.isSome then t else t.opResult p.op (some 0)
      else s
    | _, _ => s.dropPacket pkt)

end Sys2Proof.Machine
end

