-- ==== Sys2Proof/Machine/FabricWords.lean ====
section
/-! DEFINITION. The fabric words (R254, R255, R260 to R268), the elastic receive queues (R244, R245) and the register pushes as
they arrive (R266, R267). -/
namespace Sys2Proof.Machine

/-! ## Held arrivals (R245, R267) -/

/-- Inserts by a key, after equal ones. -/
def insertBy (k x : Nat) : List (Nat × Nat) → List (Nat × Nat)
  | [] => [(k, x)]
  | (a, b) :: t => if k < a then (k, x) :: (a, b) :: t else (a, b) :: insertBy k x t

/-- The held arrivals of a core in the order in which they came, those of one cycle by R244. -/
def State.heldOf (s : State) (c : Nat) : List Nat :=
  (s.packets.foldl (fun l e => match e.2.held, siteCore e.2.x e.2.y == some c with
    | some t, true => insertBy (2 ^ 71 * t + s.arrivalPrio e.2) e.1 l
    | _, _ => l) []).map (·.2)

/-- Held arrivals of a core look again at their queue or register, before what arrives in this cycle (R245). -/
def State.kickHeld (s : State) (c : Nat) : State :=
  (s.heldOf c).zipIdx.foldl (fun s e =>
    match s.packet e.1 with
    | some p => match p.req with
      | .elastic _ _ => s.now (2 ^ 69 + e.2) (.elasticArrival e.1)
      | _ => s.now (2 ^ 69 + e.2) (.vpushArrival e.1)
    | none => s) s

/-- An arrival that cannot be taken is held in the quota of the core's partition, or discarded when the quota is full. -/
def State.hold (s : State) (id : Nat) (p : Packet) (c : Nat) : State :=
  if p.held.isSome then s
  else
    let full := match s.partOf c with
      | some q => decide (s.heldAt (some q) p.x p.y + p.req.flits > (s.part q).bufq)
      | none => false
    if full then s.discard id p
    else (s.setPacket id { p with held := some s.pkg.ency }).after 4096 prioArrive (.heldArrivalExpiry id)

/-- HELD_ARRIVAL_EXPIRY. -/
def execHeldArrivalExpiry (pkt : Nat) (s : State) : Host.Outcome State Fault Refusal :=
  .next (match s.packet pkt with
  | some p => match p.held, siteCore p.x p.y with
    | some t, some c => if t + 4096 ≤ s.pkg.ency then (s.discard pkt p).kickHeld c else s
    | _, _ => s
  | none => s)

/-- R245, R241: the held arrivals of a core are discarded and counted. -/
def State.dropHeld (s : State) (c : Nat) : State :=
  s.packets.foldl (fun s e => if e.2.held.isSome ∧ siteCore e.2.x e.2.y = some c then s.discard e.1 e.2 else s) s

/-- R188, R241, R245: a core's last placed VD becomes v; on a change of VD its held arrivals are discarded and counted, with what its
scratchpad and elastic queues held. -/
def State.takeVd (s : State) (c v : Nat) : State := (if (s.core c).lastVd = some v then s else s.dropHeld c).placeVd c v

/-! ## Elastic queues (R244) -/

def Core.queue (k : Core) (q : Nat) : List ElasticEntry := (k.elastic.toList[q]?).getD []
def Core.setQueue (k : Core) (q : Nat) (l : List ElasticEntry) : Core :=
  { k with elastic := Vector.ofFn fun i => if i.val = q then l else k.elastic[i] }

/-- Whether a packet is still on its way to a core, or stands there. -/
def State.reaches (s : State) (p : Packet) (c : Nat) : Bool :=
  if p.hop = 32 then siteCore p.x p.y == some c
  else (s.follow (tkWord p.ticket 0) 33 p.hop p.x p.y p.lastDir {}).cores.contains c

/-- ELASTIC_ARRIVAL: in the order it was sent, a message enters its queue, or is held. -/
def execElasticArrival (pkt : Nat) (s : State) : Host.Outcome State Fault Refusal :=
  .next (match s.packet pkt with
  | none => s
  | some p =>
    match p.req, siteCore p.x p.y with
    | .elastic payload n, some c =>
      let q := tkBase p.ticket % 4
      let earlier := s.packets.any fun e => e.2.src == p.src && e.2.core == p.core && e.2.slot == p.slot &&
        tkBase e.2.ticket % 4 == q && (match e.2.req with | .elastic _ m => decide (m < n) | _ => false) && s.reaches e.2 c
      let k := s.core c
      if earlier ∨ (k.queue q).length ≥ 16 then s.hold pkt p c
      else
        let s := s.setCore c (k.setQueue q (k.queue q ++ [⟨payload, (s.sender p).1, (s.sender p).2, p.slot⟩]))
        let s := (s.ack pkt p).kickHeld c
        s.strands.foldl (fun s e => match e.2.slot with
          | .parked (.erecv r _ _ _ _) => if r = q ∧ coreOf e.1 = c then s.now prioWake (.erecvWake e.1) else s
          | _ => s) s
    | _, _ => s.dropPacket pkt)

/-- R263: what ERECV lands of an entry. -/
def ElasticEntry.result (e : ElasticEntry) : Word :=
  BitVec.ofNat 64 (e.payload.length + 2 ^ 8 * e.pkg + 2 ^ 16 * e.core + 2 ^ 26 * e.slot)

/-- The oldest entry leaves its queue for the scratchpad. -/
def State.takeElastic (s : State) (sid q off : Nat) : Option (Word × State) :=
  let c := coreOf sid
  match (s.core c).queue q with
  | [] => none
  | e :: t => some (e.result, ((s.modCore c fun k => k.setQueue q t).spadWrite c off e.payload).kickHeld c)

/-- A parked strand runs again, and its result lands in the first turn, no earlier than 2 turns after issue. -/
def State.unpark (s : State) (sid : Nat) (d : GReg) (v : Word) (seq since : Nat) : State :=
  let s := s.modStrand sid fun x => { x with slot := .runnable }
  if d = 0 then s else s.resolve sid seq (.g d) v (Nat.max (since + 32) (s.nextTurn sid))

/-- A word of a parked strand is the last it issued. -/
def State.parkSeq (s : State) (sid : Nat) : Nat := (s.strand sid).seq

/-- ERECV_WAKE: the parked strand takes an entry, or its limit has passed. -/
def execErecvWake (sid : Nat) (s : State) : Host.Outcome State Fault Refusal :=
  .next (match (s.strand sid).slot with
  | .parked (.erecv q expiry off d since) =>
    match s.takeElastic sid q off with
    | some (v, s) => s.unpark sid d v (s.parkSeq sid) since
    | none => if expiry ≤ s.lcy sid then s.unpark sid d (BitVec.ofNat 64 (2 ^ 63)) (s.parkSeq sid) since else s
  | _ => s)

/-! ## Register pushes (R266 to R268) -/

/-- VPUSH_ARRIVAL: the register is written whole and its full-empty bit set, or the message is held. -/
def execVpushArrival (pkt : Nat) (s : State) : Host.Outcome State Fault Refusal :=
  .next (match s.packet pkt with
  | none => s
  | some p =>
    match p.req, siteCore p.x p.y with
    | .push r words data valid, some c =>
      let sid := sidOf c (4 * tkStrand p.ticket)
      if !s.isVector sid ∨ words > s.vlmax32 sid then s.discard pkt p
      else if (s.strand sid).fe.getLsbD r then s.hold pkt p c
      else
        let reg : VecReg := Fin.ofNat 32 r
        let mask : Wide := BitVec.ofNat 65536 (2 ^ (32 * words) - 1)
        let blocks : BitVec 256 := BitVec.ofNat 256 (2 ^ ceilDiv words 32 - 1)
        let s := s.modStrand sid fun x =>
          let x := x.put (.v reg) ((x.rv reg &&& ~~~mask) ||| (data &&& mask))
          let x := x.put (.q (qOf reg)) (((x.rq (qOf reg) &&& ~~~blocks) ||| (valid &&& blocks)).setWidth 65536)
          { x with
            fe := x.fe ||| BitVec.ofNat 32 (2 ^ r)
            poison := x.poison.filter fun e => !((e.1 == .v reg && decide (e.2 < words)) ||
              (e.1 == .q (qOf reg) && decide (64 * (e.2 + 1) ≤ ceilDiv words 32))) }
        let s := s.ack pkt p
        match (s.strand sid).slot with
        | .parked (.vpull _ _ _ _ _) => s.now prioWake (.vpullWake sid)
        | _ => s
    | _, _ => s.dropPacket pkt)

/-- R268: whether every register of a group is full. -/
def Strand.full (x : Strand) (base n : Nat) : Bool := (List.range n).all fun i => x.fe.getLsbD (base + i)

/-- The full-empty bits of a group are cleared; held messages for them may now be written. -/
def State.pull (s : State) (sid base n : Nat) : State :=
  (s.modStrand sid fun x => { x with fe := x.fe &&& ~~~BitVec.ofNat 32 ((2 ^ n - 1) * 2 ^ base) }).kickHeld (coreOf sid)

/-- VPULL's group is a pending write until its result lands (R268). -/
def State.pullPend (s : State) (sid seq base n due : Nat) : State :=
  (List.range n).foldl (fun s i => s.deliver sid seq (.v (Fin.ofNat 32 (base + i))) 0 0 due) s

/-- VPULL_WAKE. -/
def execVpullWake (sid : Nat) (s : State) : Host.Outcome State Fault Refusal :=
  .next (match (s.strand sid).slot with
  | .parked (.vpull base n expiry d since) =>
    let due := Nat.max (since + 32) (s.nextTurn sid)
    let seq := s.parkSeq sid
    if (s.strand sid).full base n then ((s.pull sid base n).pullPend sid seq base n due).unpark sid d 0 seq since
    else if expiry ≤ s.lcy sid then (s.pullPend sid seq base n due).unpark sid d 1 seq since
    else s
  | _ => s)

/-- VPULL (R268). It takes no vector-queue entry: in a VLOOP block it runs as a scalar word of the block does, once at its issue (log 86). -/
def execVpull (d a : GReg) (vb : VecReg) (n : Grp) (s : State) : Host.Outcome State Fault Refusal :=
  finish s (word s { vec := true, src := [.g a], dst := [.g d], outward := true } fun s => freeOnly s fun s =>
    let sid := s.cur.sid
    let expiry := s.turn + bits (s.rg a) 0 32
    let s := (groupRegs vb n.size).foldl (fun s r => s.promise (.v r) false) s
    if s.me.full vb n.size then .ok (((s.pull sid vb n.size).pullPend sid s.seqNo vb n.size (s.turn + 32)).landG d 0 2)
    else
      let s := if d = 0 then s else s.promise (.g d) false
      .ok ((s.modMe fun x => { x with slot := .parked (.vpull vb n.size expiry d s.turn) }).owe (some (s.clockOf sid)) expiry prioWake
        (.vpullWake sid)))

/-- Registers that queued pushes will send (R257). -/
def Strand.pushes (x : Strand) : Nat :=
  (x.vq.map fun i => match i with
    | .one e => (match e.op with | .push _ _ _ _ n => n | _ => 0)
    | .block _ => 0).sum

/-- R228: whether an operation of a strand through a ticket is an egress. -/
def State.foreign (s : State) (sid : Nat) (t : Ticket) : Bool := !isCoach (coreOf sid) && tkOvd t != s.strandVd sid

/-- VPUSH (R267): checks at issue, and an entry of the vector queue. -/
def execVpush (tk : TkReg) (a : GReg) (vb : VecReg) (n : Grp) (s : State) : Host.Outcome State Fault Refusal :=
  finish s (word s { vec := true, src := [.tk tk, .g a, .vl], outward := true } fun s => notInBlock s fun s => freeOnly s fun s =>
    let base := (s.rg a).toNat
    if base ≥ 32 ∨ base % n.size ≠ 0 then illegalInstr s
    else ticketed s tk { kinds := [5], right := rightSend } fun t =>
      if !tkRegsOk t base n.size then accessFault 0
      else if s.inFlight s.cur.sid + s.me.pushes + n.size > 32 then .held s
      else enqueue false (.push t tk vb base n.size) s)

/-- VPUSH at its lane start; none where its registers wait for the checks of R228. -/
def State.lanePush (s : State) (l : Lane) (t : Ticket) (tkr : TkReg) (vb : VecReg) (base n : Nat) : Option State :=
  let x := s.strand l.sid
  let w := Nat.min l.e.vl (s.vlmax32 l.sid)
  let occ := Nat.max 1 (ceilDiv (n * w * s.vecStrands l.sid) 16384)
  let foreign := s.foreign l.sid t
  if foreign && s.checksPending (s.strandVd l.sid) then none
  else
    let s := (s.laneTake l occ).setDue l.sid l.e.seq (s.lcy l.sid + 16 * occ)
    if foreign && (s.key (s.strandVd l.sid)).inthold then
      some (s.modStrand l.sid fun x => { x with peererr := x.peererr ||| BitVec.ofNat 16 (2 ^ tkr.val) })
    else
      some ((List.range n).foldl (fun s i =>
        let r : VecReg := Fin.ofNat 32 (vb.val + i)
        let o := s.newOp l.sid l.e.seq l.e.pc tkr t none
        let (id, s) := s.openOp o
        s.sendOpen id o (s.newPacket l.sid tkr t (.push (base + i) w (x.rv r) (x.rq (qOf r)))) (16 * occ)) s)

/-! ## SEND and RECV (R260, R261) -/

/-- The mode check of SEND and RECV (R254). -/
def scoredOnly (s : State) (k : State → Res) : Res := if s.scored s.cur.sid then k s else accessFault 0

/-- A local offset of n bytes (R181). -/
def localBytes (s : State) (off : Word) (n : Nat) (k : State → Res) : Res :=
  if off.toNat + n > 524288 then accessFault off else k s

def execSend (tk : TkReg) (a b : GReg) (s : State) : Host.Outcome State Fault Refusal :=
  finish s (word s { src := [.tk tk, .g a, .g b], outward := true } fun s => scoredOnly s fun s =>
    let off := s.rg a
    let c := s.rg b
    let slot := bits c 0 6
    let len := bits c 6 12 + 1
    let spill := bits c 18 13
    let f := ceilDiv len 64
    if off.toNat % 64 ≠ 0 then misaligned off
    else ticketed s tk { kinds := [2], right := rightSend, lo := 64 * spill, hi := 64 * spill + (len - 64), at_ := 64 * spill
                         slot := some slot } fun t =>
      localBytes s off (64 * f) fun s =>
        let sid := s.cur.sid
        let (op, s) := s.openOp (s.newOp sid s.seqNo s.cur.addr tk t none)
        let (id, s) := s.fresh
        let p := { s.newPacket sid tk t (.timed slot spill len) with timed := true, op := op }
        let clock := some (s.clockOf sid)
        let s := ((s.setPacket id p).perf sid 11 1).owe clock (s.turn + 16) prioSwitch (.switchCheck id)
        let s := (List.range (f - 1)).foldl (fun s i =>
          let (k, s) := s.fresh
          (s.setPacket k { p with lead := some id }).owe clock (s.turn + 17 + i) prioSwitch (.switchCheck k)) s
        let acc := { blankAccess s sid with
          kind := .flit op, path := .fabric, place := .spad (coreOf sid), plan := f, rank := rankScalar
          cycles := (List.range f).map fun i => [⟨i, spadKey (coreOf sid) (off.toNat + 64 * i), 0, 0, 0, 0, false, none⟩] }
        let r := s.routeOf (coreOf sid) t
        let s := if r.away.isNone then s
          else if r.known then s.owe clock (s.turn + 16 + r.lat + f - 1) prioArrive (.fabricAcknowledgement op false)
          else s
        .ok ((s.owe clock (s.turn + fabricBound (s.newOp sid 0 0 tk t none)) prioArrive (.fabricTimeout op)).startAccess acc 0 0))

def execRecv (d a b : GReg) (s : State) : Host.Outcome State Fault Refusal :=
  finish s (word s { src := [.g a, .g b], dst := [.g d], outward := true } fun s => scoredOnly s fun s =>
    let off := s.rg a
    let n := bits (s.rg b) 0 6
    if off.toNat % 64 ≠ 0 then misaligned off
    else localBytes s off 64 fun s =>
      let c := coreOf s.cur.sid
      let r := tget {} n (s.core c).recv
      if !r.full then timingFault s 4
      else
        let s := s.modCore c fun k => { k with recv := tput {} n { r with full := false } k.recv }
        let acc := { blankAccess s s.cur.sid with
          kind := .block (toBytes 64 r.data.toNat), path := .fabric, place := .spad c, rank := rankScalar
          cycles := [[⟨0, spadKey c off.toNat, 0, 0, 0, 0, false, none⟩]] }
        .ok ((s.startAccess acc 0 0).landG d (BitVec.ofNat 64 r.len) 2))

/-! ## ESEND, ERECV and STRIPE (R262 to R264) -/

/-- R228, R257: an open operation of one packet leaves, waits, or is refused. -/
def openWord (s : State) (tk : TkReg) (t : Ticket) (dst : Option (GReg × Nat × Bool)) (req : Req) : Res :=
  let sid := s.cur.sid
  let d := match dst with | some (d, _, _) => d | none => 0
  if s.inFlight sid ≥ 32 then .held s
  else if s.foreign sid t && s.checksPending (s.strandVd sid) then .held s
  else if s.foreign sid t && (s.key (s.strandVd sid)).inthold then
    .ok ((s.modMe fun x => { x with peererr := x.peererr ||| BitVec.ofNat 16 (2 ^ tk.val) }).landG d 0 2)
  else
    let s := if d = 0 then s else s.promise (.g d) false
    let o := s.newOp sid s.seqNo s.cur.addr tk t dst
    let (id, s) := s.openOp o
    .ok (s.sendOpen id o (s.newPacket sid tk t req) 16)

def execEsend (tk : TkReg) (a b : GReg) (s : State) : Host.Outcome State Fault Refusal :=
  finish s (word s { src := [.tk tk, .g a, .g b], outward := true } fun s => freeOnly s fun s =>
    let off := s.rg a
    let len := bits (s.rg b) 0 7
    if len = 0 ∨ 64 < len then illegalFormat (BitVec.ofNat 64 len)
    else ticketed s tk { kinds := [3], right := rightQueue } fun t => localBytes s off len fun s =>
      openWord s tk t none (.elastic (s.spadRead (coreOf s.cur.sid) off.toNat len) s.seqNo))

def execErecv (d a b : GReg) (s : State) : Host.Outcome State Fault Refusal :=
  finish s (word s { src := [.g a, .g b], dst := [.g d], outward := true } fun s => freeOnly s fun s =>
    let off := s.rg a
    let q := bits (s.rg b) 0 2
    let sid := s.cur.sid
    if off.toNat % 64 ≠ 0 then misaligned off
    else localBytes s off 64 fun s =>
      match s.takeElastic sid q off.toNat with
      | some (v, s) => .ok (s.landG d v 2)
      | none =>
        let s := if d = 0 then s else s.promise (.g d) false
        let expiry := s.turn + bits (s.rg b) 16 32
        .ok ((s.modMe fun x => { x with slot := .parked (.erecv q expiry off.toNat d s.turn) }).owe (some (s.clockOf sid)) expiry
          prioWake (.erecvWake sid)))

/-- R255 for the tickets of a STRIPE, in increasing register. -/
def stripeFails (s : State) (tk n : Nat) (q : TkAsk) : Option Nat :=
  (List.range n).findSome? fun i => s.tkFails (s.me.rtk (Fin.ofNat 16 (tk + i))) q

/-- STRIPE (R264). It takes its places among the strand's 32 at its issue (R257). One of more than 32 chunks can never have them all: it
issues once all 32 are free, its further chunks leave as places come free, and the strand issues nothing until the last has left (log 81). -/
def execStripe (tk : TkReg) (d a b : GReg) (n : Fin 4) (s : State) : Host.Outcome State Fault Refusal :=
  let k := n.val + 1
  let tks := (List.range k).map fun i => (Fin.ofNat 16 (tk.val + i) : TkReg)
  finish s (word s { src := tks.map .tk ++ [.g d, .g a, .g b], outward := true } fun s => freeOnly s fun s =>
    let dst := (s.rg d).toNat
    let off := s.rg a
    let len := bits (s.rg b) 0 32
    if len % 64 ≠ 0 ∨ len < 64 ∨ 524288 < len then illegalFormat (BitVec.ofNat 64 len)
    else match stripeFails s tk k { kinds := [1, 4], right := rightWrite, lo := dst, hi := dst + len, at_ := dst } with
      | some v => accessFault (BitVec.ofNat 64 v)
      | none => localBytes s off len fun s =>
        let sid := s.cur.sid
        let v := s.strandVd sid
        let tkt (i : Nat) : Ticket := s.me.rtk (Fin.ofNat 16 (tk.val + i))
        let foreign (i : Nat) : Bool := s.foreign sid (tkt i)
        if s.inFlight sid + Nat.min 32 (len / 64) > 32 then .held s
        else if (List.range k).any foreign && s.checksPending v then .held s
        else
          let stop (i : Nat) : Bool := foreign i && (s.key v).inthold
          let s0 := s
          let s := (List.range (len / 64)).foldl (fun s j =>
            let i := j % k
            let r := tk.val + i
            if stop i then s.modMe fun x => { x with peererr := x.peererr ||| BitVec.ofNat 16 (2 ^ r) }
            else
              let p := s0.newPacket sid r (tkt i) (.write (dst + 64 * j) (s0.spadRead (coreOf sid) (off.toNat + 64 * j) 64))
              let o := s0.newOp sid s0.seqNo s0.cur.addr r (tkt i) none
              if s.inFlight sid < 32 then
                let (id, s) := s.openOp o
                s.sendOpen id o p (16 + j)
              else (s.openOp { o with left := 0, chunk := some p }).2) s
          .ok (if s.chunksLeft sid then s.modMe fun x => { x with wait := some .chunks } else s))

/-! ## RLD, RST and RAMO (R265) -/

/-- The common checks of a remote access at a window offset. -/
def remoteWord (tk : TkReg) (a : GReg) (n right : Nat) (u : Use) (dst : Option (GReg × Nat × Bool)) (req : State → Nat → Req)
    (s : State) : Host.Outcome State Fault Refusal :=
  finish s (word s { u with src := .tk tk :: .g a :: u.src, outward := true } fun s => freeOnly s fun s =>
    let off := (s.rg a).toNat
    if off % n ≠ 0 then misaligned (s.rg a)
    else ticketed s tk { kinds := [1, 4], right := right, lo := off, hi := off + n, at_ := off } fun t =>
      openWord s tk t dst (req s off))

def execRld (tk : TkReg) (d a : GReg) (sz : LdSize) :=
  remoteWord tk a sz.bytes rightRead { dst := [.g d] } (some (d, 8 * sz.bytes, ldSigned sz)) fun _ off => .read off sz.bytes

def execRst (tk : TkReg) (d a : GReg) (sz : StSize) :=
  remoteWord tk a sz.bytes rightWrite { src := [.g d] } none fun s off => .write off (toBytes sz.bytes (s.rg d).toNat)

def ramo (op : AmoOp) (tk : TkReg) (d a b : GReg) :=
  remoteWord tk a 8 rightAtomic { src := [.g b, .g d], dst := [.g d] } (some (d, 64, false)) fun s off =>
    .amo op off (s.rg b) (s.rg d)

def execRamoAdd (tk : TkReg) (d a b : GReg) := ramo .add tk d a b
def execRamoMin (tk : TkReg) (d a b : GReg) := ramo .min tk d a b
def execRamoMax (tk : TkReg) (d a b : GReg) := ramo .max tk d a b
def execRamoMinn (tk : TkReg) (d a b : GReg) := ramo .minn tk d a b
def execRamoMaxn (tk : TkReg) (d a b : GReg) := ramo .maxn tk d a b
def execRamoOr (tk : TkReg) (d a b : GReg) := ramo .or tk d a b
def execRamoSwap (tk : TkReg) (d a b : GReg) := ramo .swap tk d a b
def execRamoCas (tk : TkReg) (d a b : GReg) := ramo .cas tk d a b

end Sys2Proof.Machine
end

