-- ==== Sys2Proof/Machine/Count.lean ====
section
/-! DEFINITION. The COUNT words (R341 to R343, R348): CARR, CWAIT, CANCEL, CKPT and CSET, their effects in their effect cycle,
and the wake of a strand parked on a counter. -/
namespace Sys2Proof.Machine

/-- R341, R386: the VD whose counters a strand's COUNT words name. -/
def State.countVdOf (s : State) (sid : Nat) : Nat :=
  if coreOf sid = 960 then s.pkg.cnvd[0] else if coreOf sid = 961 then s.pkg.cnvd[1] else s.strandVd sid

/-- The frame of a COUNT word that lands g[d] 2 turns after issue: its effect is owed in the cycle 16 after it. -/
def countWord (level : Nat) (d a : GReg) (gd : Guard) (s : State) (k : State → Res) : Host.Outcome State Fault Refusal :=
  finish s (word s { level := level, gd := gd, src := [.g a], dst := [.g d], outward := true } fun s => freeOnly s k)

/-- The effect of the issuing word, owed in its effect cycle; its result lands 2 turns after issue. -/
def State.oweEffect (s : State) (d : GReg) (prio : Nat) (e : Effect) : State :=
  let s := if d = 0 then s else s.promise (.g d) false
  s.after 16 prio (.effect e ⟨s.cur.sid, s.seqNo, d, s.turn + 32⟩)

/-- CARR: it waits for the strand's earlier operations at partition scope. -/
def execCarr (d a : GReg) (b : CnReg) (gd : Guard) (s : State) : Host.Outcome State Fault Refusal :=
  countWord 0 d a gd s fun s =>
    let sid := s.cur.sid
    if !s.fenceDone sid s.seqNo .partition 63 then .held s
    else .ok (s.oweEffect d (prioCarr (16 * (s.core (coreOf sid)).logical + slotOf sid)) (.carr (s.countVdOf sid) b (s.rg a)))

/-- CSET: an operand with other bits set changes nothing. -/
def execCset (d a : GReg) (b : CnReg) (gd : Guard) (s : State) : Host.Outcome State Fault Refusal :=
  countWord 0 d a gd s fun s =>
    if bits (s.rg a) 3 61 ≠ 0 then .ok (s.landG d (BitVec.ofNat 64 (2 ^ 63)) 2)
    else .ok (s.oweEffect d prioCset (.cset (s.countVdOf s.cur.sid) b (s.rg a)))

/-! ## CWAIT -/

/-- The counter word with the mark of an expired wait. -/
def expiredWord (w : Word) : Word := w ||| BitVec.ofNat 64 (2 ^ 63)

def execCwait (d a : GReg) (b : CnReg) (gd : Guard) (s : State) : Host.Outcome State Fault Refusal :=
  countWord 0 d a gd s fun s =>
    let sid := s.cur.sid
    let v := s.countVdOf sid
    let c := (s.vd v).counter b
    let t := bits (s.rg a) 0 32
    let lm := bits (s.rg a) 32 32
    if c.reached t then .ok (s.landG d c.word 2)
    else
      let x := s.turn + lm
      let expiry := if lm = 4294967295 then none else some x
      let s := if d = 0 then s else s.promise (.g d) false
      let s := s.modMe fun y => { y with slot := .parked (.cwait v b t expiry d s.turn) }
      .ok (match expiry with
        | some x => s.owe (some (s.clockOf sid)) x prioCwait (.cwaitWake sid)
        | none => s)

/-- CWAIT_WAKE: the counter is reached, or the limit has passed. -/
def execCwaitWake (sid : Nat) (s : State) : Host.Outcome State Fault Refusal :=
  .next (match (s.strand sid).slot with
  | .parked (.cwait v n t expiry d since) =>
    let c := (s.vd v).counter n
    if c.reached t then s.unpark sid d c.word (s.parkSeq sid) since
    else match expiry with
      | some x =>
        if x ≤ s.lcy sid then
          let s := s.unpark sid d (expiredWord c.word) (s.parkSeq sid) since
          if coreOf sid = 960 + s.pkg.primary ∧ v = 0 ∧ n.val = 1 ∧ s.pkg.bootSum.isSome then s.now prioCwait .bootExpiry else s
        else s
      | none => s
  | _ => s)

/-! ## CANCEL (R25, R343) -/

/-- Fields of the operand. -/
def cancelLevel (w : Word) : Nat := bits w 0 3
def cancelGid (w : Word) : Nat := bits w 8 16
def cancelLid (w : Word) : Nat := bits w 24 16
def cancelUnit (w : Word) : Nat := bits w 40 14

/-- A bad operand, before the VD is found. -/
def cancelBad (priv : Nat) (w : Word) : Bool :=
  let l := cancelLevel w
  decide (l > 4) || bits w 3 5 != 0 || bits w 58 6 != 0 ||
  (bits w 57 1 == 0 && bits w 54 3 != 0) || (bits w 57 1 == 1 && priv == 0) ||
  (l != 0 && cancelUnit w != 0) || (decide (l ≥ 2) && cancelLid w != 0) || (l == 4 && cancelGid w != 0) ||
  (l == 0 && cancelGid w == 65535)

/-- R289, R343: a scored launch is cancelled: at once before its start, else at its bar line; one that is pre-empted, whose LCY
stands still, at the next bar line of ENCY. -/
def State.cancelScored (s : State) (l : Nat) : State × Bool :=
  let L := s.launch l
  match L.st with
  | .admitted =>
    let s := (s.setLaunch l { L with st := .done }).recordCancelled l
    (s.now prioCancel (.scoredLaunchRelease l), true)
  | .running | .ending | .preempting =>
    if L.cancelAt.isSome then (s, false)
    else
      let line := s.endLine l (s.lcyL l)
      ((s.setLaunch l { L with cancelAt := some line }).owe (some l) line prioEnd (.scoredLaunchEnd l), true)
  | .preempted =>
    if L.cancelAt.isSome then (s, false)
    else ((s.setLaunch l { L with cancelAt := some 0 }).owe none (barLineAt (s.pkg.ency + 1)) prioEnd (.scoredLaunchEnd l), true)
  | _ => (s, false)

/-- A launch is cancelled; whether there was anything to stop. -/
def State.cancelLaunch (s : State) (l : Nat) : State × Bool :=
  if (s.launch l).scored then s.cancelScored l
  else (s.cancelFree l, (s.launch l).st == .running || (s.launch l).st == .preempted)

/-- R253: a queued descriptor is marked. -/
def State.markQueued (s : State) (q : Queued) : State × Bool :=
  let k := ((s.part q.part).queues.toList[q.q]?).getD {}
  if k.marked.contains q.idx then (s, false)
  else
    (s.modPart q.part fun r => { r with queues := Vector.ofFn fun i =>
      if i.val = q.q then { r.queues[i] with marked := q.idx :: r.queues[i].marked } else r.queues[i] }, true)

/-- Cancels the launches and marks the descriptors that satisfy their tests. -/
def State.cancelAll (s : State) (v : Nat) (run : Launch → Bool) (que : Queued → Bool) : State × Bool :=
  let ids := (s.launches.filter fun e => decide (launchKey 0 ≤ e.1) && e.2.vd == v && run e.2).map (·.1)
  let (s, a) := ids.foldl (fun (r : State × Bool) l =>
    let (s, b) := r.1.cancelLaunch l
    (s, r.2 || b)) (s, false)
  let (s, b) := ((s.queued v).filter que).foldl (fun (r : State × Bool) q =>
    let (s, b) := r.1.markQueued q
    (s, r.2 || b)) (s, false)
  let s := if b then s.parts.foldl (fun s e => s.kickEngine e.1) s else s
  (s, a || b)

/-- R343: the identifiers of the graphs of the phase that holds a graph. -/
def State.phaseGids (s : State) (v gid : Nat) : List Nat :=
  match (s.vd v).graphs.find? fun g => g.gid == gid with
  | some g => ((s.vd v).graphs.filter fun h => h.phase == g.phase).map (·.gid)
  | none => [gid]

/-- CANCEL in its effect cycle, after the completions of the cycle: the status. -/
def State.cancelNow (s : State) (v : Nat) (w : Word) : State × Nat :=
  let gid := cancelGid w
  let lid := cancelLid w
  let st (r : State × Bool) : State × Nat := (r.1, if r.2 then 0 else 1)
  match cancelLevel w with
  | 0 =>
    match s.launches.find? fun e => decide (launchKey 0 ≤ e.1) && e.2.vd == v && !e.2.scored && e.2.gid == gid && e.2.lid == lid &&
      (e.2.st == .running || e.2.st == .preempted) with
    | some (l, L) =>
      if L.units.any fun u => u.1 == cancelUnit w && u.2 == .active then
        (((s.stopUnit l (cancelUnit w)).now prioCancel (.cancelDrainEnd l)), 0)
      else (s, 1)
    | none => (s, 1)
  | 1 =>
    if gid = 65535 then st (s.cancelAll v (fun L => L.scored && L.lid == lid) fun _ => false)
    else st (s.cancelAll v (fun L => !L.scored && L.gid == gid && L.lid == lid) fun q => q.gid == gid && q.lid == lid)
  | 2 => st (s.cancelAll v (fun L => !L.scored && L.gid == gid) fun q => q.gid == gid)
  | 3 =>
    let gs := s.phaseGids v gid
    st (s.cancelAll v (fun L => !L.scored && gs.contains L.gid) fun q => gs.contains q.gid)
  | _ =>
    let (s, b) := s.cancelAll v (fun _ => true) fun _ => true
    if b then ((s.modVd v fun d => { d with jobCanc := true }), 0) else (s, 1)

/-- The VD that a CANCEL names: the issuing VD, or one of the issuing partition's. -/
def State.cancelVd (s : State) (sid : Nat) (w : Word) : Option Nat :=
  if bits w 57 1 = 0 then some (s.countVdOf sid)
  else match s.strandPart sid with
    | some p =>
      let v := ((s.part p).vdlist.toList[bits w 54 3]?).getD 255
      if v = 255 then none else some v
    | none => none

def execCancel (d a : GReg) (gd : Guard) (s : State) : Host.Outcome State Fault Refusal :=
  countWord 0 d a gd s fun s =>
    match (if cancelBad s.me.priv (s.rg a) then none else s.cancelVd s.cur.sid (s.rg a)) with
    | none => .ok (s.landG d 2 2)
    | some v => .ok (s.oweEffect d prioCancel (.cancel v (s.rg a)))

/-- CANCEL_DRAIN_END (R25, R340): units whose operations have drained are recorded as cancelled, and with the last of them the
launch. -/
def execCancelDrainEnd (launch : Nat) (s : State) : Host.Outcome State Fault Refusal :=
  let L := s.launch launch
  let gone (u : Nat × UState) : Bool := match u.2 with | .stopping sid => s.drained sid | _ => false
  let n := (L.units.filter gone).length
  let units := L.units.map fun u => if gone u then (u.1, .cancelled) else u
  let s := (s.setLaunch launch { L with units := units }).countCanc L.vd L.cn 0 n
  .next (if units.any fun u => match u.2 with | .stopping _ => true | _ => false then
      s.after 1 prioCancel (.cancelDrainEnd launch)
    else if L.st = .cancelling then (s.recordCancelled launch).retire launch
    else if L.st = .running ∨ L.st = .preempted then s.launchComplete launch
    else s)

/-! ## CKPT (R348) -/

/-- The area of a round: usable by the VD, in far memory or in its host window, for its header and manifest. -/
def State.areaOk (s : State) (v f : Nat) (host : Bool) : Bool :=
  (List.range 48).all fun i =>
    let g := f + i
    (if host then isHost (4096 * g) else isFar (4096 * g)) && s.usable g v && (s.relayOf g).isNone

/-- Whether a VD belongs to a partition; a Coachman may name every one (R386). -/
def State.holdsVdOf (s : State) (part : Option Nat) (v : Nat) : Bool :=
  match part with
  | some p => v != 255 && (s.part p).vdlist.toList.contains v
  | none => decide (v < 192)

/-- CKPT in its effect cycle. -/
def State.ckptNow (s : State) (cv : Nat) (part : Option Nat) (n : CnReg) (w : Word) : State × Word :=
  let v := bits w 48 8
  let f := bits w 0 40
  let host := bits w 40 1 == 1
  if bits w 41 7 ≠ 0 ∨ bits w 56 8 ≠ 0 ∨ s.holdsVdOf part v = false then (s, 1)
  else if 1 ≤ s.ckpt.state ∧ s.ckpt.state ≤ 3 then (s, 2)
  else if !s.areaOk v f host then (s, 3)
  else
    let s := { s with ckpt := { s.ckpt with
      state := 1
      err := 0
      vd := v
      area := f
      toHost := host
      cn := n
      cnVd := cv } }
    (s.owe none (barLineAt (s.pkg.ency - 16 + 4096)) prioBar .checkpointRoundStart,
      BitVec.ofNat 64 (256 * ((s.ckpt.round + 1).toNat)))

def execCkpt (d a : GReg) (b : CnReg) (gd : Guard) (s : State) : Host.Outcome State Fault Refusal :=
  countWord 1 d a gd s fun s =>
    let sid := s.cur.sid
    .ok (s.oweEffect d prioCancel (.ckpt (s.countVdOf sid) (s.strandPart sid) b (s.rg a)))

/-! ## Effects -/

/-- The result of an effect lands; a strand that is gone takes none. -/
def State.giveRet (s : State) (r : Ret) (v : Word) : State :=
  if r.d = 0 ∨ (s.strand r.sid).slot = .idle then s
  else s.deliver r.sid r.seq (.g r.d) (v.setWidth 65536) (BitVec.allOnes 65536) r.due

def State.runEffect (s : State) (e : Effect) (r : Ret) : State :=
  match e with
  | .carr v n x =>
    let c := (s.vd v).counter n
    (((s.setCounter v n { c with done := c.done + x.setWidth 32 }).wakeCounter v n).giveRet r c.word)
  | .cset v n x =>
    let c := (s.vd v).counter n
    (((s.setCounter v n { level := bits x 0 3 }).wakeCounter v n).giveRet r c.word)
  | .cancel v x =>
    let (s, st) := s.cancelNow v x
    s.giveRet r (BitVec.ofNat 64 st)
  | .ckpt v p n x =>
    let (s, w) := s.ckptNow v p n x
    s.giveRet r w

end Sys2Proof.Machine
end

