-- ==== Sys2Proof/Machine/Dray.lean ====
section
/-! DEFINITION. The Drays (R246, R269 to R275): command blocks, queues and statuses, the units of every operation (R270, R237,
R401 to R404), timed commands (R273), and the words DRAY, DWAIT, DSTAT and DCANCEL. -/
namespace Sys2Proof.Machine

/-! ## Command blocks (R269) -/

/-- The command of a block. -/
def cmdOf (fn : Nat) (b : List Byte) : DrayCmd :=
  { fn := fn, src := blockField b 0 8, dst := blockField b 8 8, len := blockField b 16 4, spaces := blockField b 20 1
    esz := blockField b 21 1, aux := blockField b 24 8, count := blockField b 32 4, start := blockField b 40 4
    dlat := blockField b 44 4 }

def DrayCmd.srcSpace (c : DrayCmd) : Nat := c.spaces % 4
def DrayCmd.dstSpace (c : DrayCmd) : Nat := c.spaces / 4 % 4
def DrayCmd.indexed (c : DrayCmd) : Bool := c.fn == 1 || c.fn == 2
def DrayCmd.sealing (c : DrayCmd) : Bool := c.fn == 3 || c.fn == 4

/-- R269, R270: a block that breaks its field rules. -/
def blockBad (timed : Bool) (fn : Nat) (b : List Byte) : Bool :=
  let c := cmdOf fn b
  blockField b 22 2 != 0 || blockField b 36 4 != 0 || blockField b 48 16 != 0 || decide (c.spaces ≥ 16) ||
  (if timed then decide (c.start ≥ 4096) else c.start != 0 || c.dlat != 0) ||
  (if c.indexed then c.len != 0 || decide (c.esz > 12) || c.count == 0 || decide (c.count > 16777216)
    else c.len == 0 || decide (c.len > 1073741824) || c.esz != 0 || c.count != 0) ||
  (c.sealing && (c.len % 64 != 0 || decide (c.len > 65536) || c.src % 64 != 0 || c.dst % 64 != 0 || c.srcSpace != 2 || c.dstSpace != 2)) ||
  (fn == 3 && c.aux / 2 ^ 62 != 2) || (fn == 4 && c.aux / 2 ^ 63 != 0)

/-- Units of a command; a SEAL's last unit is its tag. -/
def DrayCmd.units (c : DrayCmd) : Nat :=
  if c.indexed then c.count else if c.fn = 3 then c.len / 64 + 1 else ceilDiv c.len 64

/-! ## Units: reads and writes of a command's spaces (R270) -/

/-- What a part of a unit comes to: it waits a cycle, it fails with an error code, or it is done. -/
inductive Part
  | wait (s : State)
  | fail (err : Nat) (s : State)
  | ok (s : State) (bs : List Byte)

def State.setCmd (s : State) (dray : Nat) (c : DrayCmd) : State :=
  let d := s.dray dray
  s.setDray dray { d with cmds := d.cmds.map fun k => if k.seq = c.seq then c else k }

/-- Where a route ends: at a site of this package, out of a port, or nowhere. -/
inductive RouteEnd
  | site (x y : Nat) | port (n : Nat) | nowhere
  deriving DecidableEq, Repr

def State.routeEnd (s : State) (w0 : Nat) : Nat → Nat → Nat → Nat → RouteEnd
  | 0, _, _, _ => .nowhere
  | n + 1, h, x, y =>
    match s.hopAt w0 h x with
    | (.deliver, _) => .site x y
    | (.dir d, k) => match neighbour x y d with
      | some (x', y') => s.routeEnd w0 n (h + k) x' y'
      | none => .nowhere
    | (.attach port, k) => s.routeEnd w0 n (h + k) (attachSite port).1 (attachSite port).2
    | (.egress port, _) => if (s.peerOf port).isSome then .port port else .nowhere
    | _ => .nowhere

/-- Where the route of a command's ticket ends: it starts at the issuing core's site (R399). -/
def State.cmdEnd (s : State) (c : DrayCmd) : RouteEnd := s.routeEnd (tkWord c.ticket 0) 33 0 (siteX c.core) (siteY c.core)

/-- R271, R181: the core and offset of n bytes of local or cluster space, through W0 or W7. -/
def State.drayLocal (s : State) (c : DrayCmd) (clu : Bool) (a n : Nat) : Option (Nat × Nat) :=
  let k := if clu then s.reach c.sid (a / 4194304) else if a < 4194304 then some c.core else none
  let win := a / 524288 % 8
  match k with
  | some k => if (win = 0 ∨ win = 7) ∧ a % 524288 + n ≤ 524288 ∧ (s.core k).scored = false then some (k, a % 524288) else none
  | none => none

/-- R401: whether a VD may read host space. -/
def State.hostReads (s : State) (v : Nat) : Bool := (s.vd v).tdisp == .run || (s.vd v).tdisp == .configUnlocked

/-- The error code of a virtual access that failed: INTEGRITY for a line, else ACCESS; a failed line is counted. -/
def State.partFail (s : State) (v : Nat) (t : TrapInfo) : Part :=
  if t.cause = 10 then .fail 5 (s.chargeLine v t.detail) else .fail 4 s

/-- R256, R272: a part of a space-3 unit that is discarded. -/
def State.partLost (s : State) (c : DrayCmd) : Part := .fail 9 (s.countDiscard c.part)

/-- A part of a command asks another package: a packet leaves from the issuing core's site, as one of its words' would. -/
def State.drayAsk (s : State) (dray : Nat) (c : DrayCmd) (key : Nat) (req : Req) : State × DrayCmd :=
  let (op, s) := s.openOp { sid := 2 ^ 40, vd := c.vd, tgen := (s.vd c.vd).tgen, left := 1, dray := some (dray, c.seq)
                            away := (s.routeOf c.core c.ticket).away }
  let (id, s) := s.fresh
  let p : Packet := { ticket := c.ticket, x := siteX c.core, y := siteY c.core, core := c.core, slot := slotOf c.sid, req := req
                      vd := c.vd, part := c.part, need := req.flits, op := op }
  let c := { c with asked := c.asked ++ [(key, op, none)] }
  ((((s.setPacket id p).after 1 prioSwitch (.switchCheck id)).after 65536 prioArrive (.fabricTimeout op)).setCmd dray c, c)

/-- What the requests of a part have come to: still awaited, one of them lost, or all their values. -/
def DrayCmd.answers (c : DrayCmd) : List Nat → Option (Option (List Word))
  | [] => some (some [])
  | k :: t =>
    match (c.asked.find? fun a => a.1 == k).bind (·.2.2), c.answers t with
    | some (some v), some (some l) => some (some (v :: l))
    | some _, some _ => some none
    | _, _ => none

/-- A part in another package: its requests are sent once, eight bytes at a time for a read and whole for a write, and it waits for all of
their outcomes (R272). -/
def State.drayAway (s : State) (dray : Nat) (c : DrayCmd) (reqs : List (Nat × Req)) : Part :=
  match reqs with
  | [] => .ok s []
  | r :: _ =>
    if (c.asked.find? fun a => a.1 == r.1).isNone then
      .wait (reqs.foldl (fun (x : State × DrayCmd) r => x.1.drayAsk dray x.2 r.1 r.2) (s, c)).1
    else match c.answers (reqs.map (·.1)) with
      | none => .wait s
      | some none => .fail 9 s
      | some (some vs) => .ok s ((vs.zip reqs).flatMap fun x => match x.2.2 with
        | .read _ n => toBytes n x.1.toNat
        | _ => [])

/-- What an access at home comes to for a command: at its own VD, or at its ticket's. -/
def Homed.part (h : Homed) (s : State) (fail : TrapInfo → Part) : Part :=
  match h with
  | .wait => .wait s
  | .fail t => fail t
  | .ok s bs => .ok s bs

/-- A read or write of a unit through a ticket: checked by the switches and the destination as a packet is, and performed there. -/
def State.drayRemote (s : State) (dray : Nat) (c : DrayCmd) (req : Req) (whole : Nat → Bool) : Part :=
  let chunks (off n : Nat) : List (Nat × Req) := (piecesOf 8 (n / 8 + 2) off n).map fun p => (2 * p.1, Req.read p.1 p.2)
  match s.cmdEnd c with
  | .port _ =>
    (match req with
    | .read off n => s.drayAway dray c (chunks off n)
    | .write off _ => s.drayAway dray c [(2 * off + 1, req)]
    | _ => s.partLost c)
  | .nowhere => s.partLost c
  | .site x y =>
    let p : Packet := { ticket := c.ticket, x := x, y := y, core := c.core, req := req, vd := c.vd, part := c.part }
    match (if s.genuine c.ticket then s.siteCheck p else none), req with
    | some (some k), .write off data => .ok (s.spadWrite k off data) []
    | some (some k), .read off n => .ok s (s.spadRead k off n)
    | some none, .write off data => (s.vdWrite (tkOvd c.ticket) false c.part whole off data).part s fun t =>
      (if t.cause = 10 then s.chargeLine (tkOvd c.ticket) t.detail else s).partLost c
    | some none, .read off n => (s.vdRead (tkOvd c.ticket) false c.part off n).part s fun t =>
      (if t.cause = 10 then s.chargeLine (tkOvd c.ticket) t.detail else s).partLost c
    | _, _ => s.partLost c

/-- R255: the window of a space-3 part. -/
def DrayCmd.inWindow (c : DrayCmd) (a n : Nat) : Bool :=
  decide ((tkEff c.ticket).lo ≤ a) && decide (a + n ≤ (tkEff c.ticket).hi)

/-- Whether one of n bytes at a virtual address of a VD is host space. -/
def State.inHost (s : State) (v a n : Nat) (r : Right) (program : Bool) : Bool :=
  (linePieces a n).any fun p => match s.vdTarget v p.1 p.2 r program false true with
    | .ok (pa, _) => isHost pa
    | .error _ => false

/-- R228: whether one of n bytes at a virtual address is a host byte that the VD may write, whatever INTHOLD says. -/
def State.egress (s : State) (v a n : Nat) (program : Bool) : Bool :=
  (linePieces a n).any fun p => decide (p.1 < 2 ^ 57) && match (walkFrom v p.1 962 5 (s.vd v).troot s).2 with
    | .ok e => (checkLeaf e.attr program .write p.1).isNone && isHost (e.pa p.1)
    | .error _ => false

/-- Reads n bytes of a unit. -/
def State.drayReads (s : State) (dray : Nat) (c : DrayCmd) (space a n : Nat) : Part :=
  if space ≤ 1 then
    match s.drayLocal c (space == 1) a n with
    | some (k, off) => .ok s (s.spadRead k off n)
    | none => .fail 4 s
  else if space = 2 then
    if s.hostReads c.vd = false ∧ s.inHost c.vd a n .read (c.priv == 0) = true then .fail 4 s
    else (s.vdRead c.vd (c.priv == 0) c.part a n).part s fun t => s.partFail c.vd t
  else if c.inWindow a n then s.drayRemote dray c (.read a n) (fun _ => false) else .fail 4 s

/-- Writes the bytes of a unit: every part is checked before the first is written (R272). `lo` and `hi` bound what the command covers, for
whole lines (R238). -/
def State.drayWrites (s : State) (dray : Nat) (c : DrayCmd) (space lo hi a : Nat) (bs : List Byte) : Part :=
  let whole (a : Nat) : Bool := decide (lo ≤ a / 64 * 64) && decide (a / 64 * 64 + 64 ≤ hi)
  if space ≤ 1 then
    match s.drayLocal c (space == 1) a bs.length with
    | some (k, off) => .ok (s.spadWrite k off bs) []
    | none => .fail 4 s
  else if space = 2 then
    if s.egress c.vd a bs.length (c.priv == 0) then
      if s.checksPending c.vd then .wait s
      else if (s.key c.vd).inthold then .fail 5 s
      else (s.vdWrite c.vd (c.priv == 0) c.part whole a bs).part s fun t => s.partFail c.vd t
    else (s.vdWrite c.vd (c.priv == 0) c.part whole a bs).part s fun t => s.partFail c.vd t
  else if !c.inWindow a bs.length then .fail 4 s
  else if tkOvd c.ticket ≠ c.vd ∧ isCoach c.core = false then
    if s.checksPending c.vd then .wait s
    else if (s.key c.vd).inthold then .fail 5 s
    else s.drayRemote dray c (.write a bs) whole
  else s.drayRemote dray c (.write a bs) whole

/-- A unit that moves n bytes; its destination's lines count as covered where the whole command covers them. -/
def State.drayMove (s : State) (dray : Nat) (c : DrayCmd) (src dst n : Nat) : Part :=
  match s.drayReads dray c c.srcSpace src n with
  | .ok s bs => s.drayWrites dray c c.dstSpace c.dst (c.dst + c.len) dst bs
  | r => r

/-! ## Banks (R184, R186) -/

/-- The groups of scratchpad words, at most 32 words in distinct banks, that n bytes of a space lie in: core, offset and length. -/
def State.drayGroups (s : State) (c : DrayCmd) (space a n : Nat) : List (Nat × Nat × Nat) :=
  let at_ : Option (Nat × Nat) :=
    if space ≤ 1 then s.drayLocal c (space == 1) a n
    else if space = 3 ∧ tkKind c.ticket = 1 then
      match s.cmdEnd c with | .site x y => (siteCore x y).map fun k => (k, a % 524288) | _ => none
    else none
  match at_ with
  | some (k, off) => (piecesOf 128 (n / 128 + 2) off n).map fun p => (k, p)
  | none => []

/-- R186: the bank cycles of a unit: as many of its groups as find their banks free in this cycle, in their order. -/
def State.drayBanks (s : State) : List (Nat × Nat × Nat) → State × Nat
  | [] => (s, 0)
  | (k, off, n) :: t =>
    if s.stringBusy k off n then (s, 0)
    else match s.takeBanks k (banksOf off n) with
      | some s => let (s, m) := s.drayBanks t; (s, m + 1)
      | none => (s, 0)

/-! ## SEAL and UNSEAL (R237, R270, R402, R403) -/

/-- The IV and the additional data of a sealed buffer. -/
def sealIv (k : KeySlot) (c : Nat) : List Nat := natBytes 4 k.txsalt.toNat ++ natBytes 8 c
def sealAad (n : Nat) : List Nat := natBytes 8 n

def natsOf (l : List Byte) : List Nat := l.map BitVec.toNat
def bytesOf (l : List Nat) : List Byte := l.map (BitVec.ofNat 8)

/-- A unit of SEAL: a line of ciphertext, or the tag. Its writes are no whole-line writes of R238: they end no line's poison. -/
def State.sealUnit (s : State) (dray : Nat) (c : DrayCmd) : Part :=
  let k := s.key c.vd
  let keys := aesKeys k.txkey.toNat
  let iv := sealIv k c.aux
  if 64 * c.pos < c.len then
    match s.drayReads dray c 2 (c.src + 64 * c.pos) 64 with
    | .ok s bs =>
      let ct := bytesOf (xorL (natsOf bs) (gcmStream keys iv 4 (2 + 4 * c.pos)))
      (match s.drayWrites dray c 2 0 0 (c.dst + 64 * c.pos) ct with
      | .ok s _ => .ok s ct
      | r => r)
    | r => r
  else s.drayWrites dray c 2 0 0 (c.dst + c.len) (bytesOf (gcmTag keys iv (sealAad c.len) (natsOf c.buf)))

/-- R402: the replay check of a counter, and the key slot once it is accepted. -/
def KeySlot.accept (k : KeySlot) (c : Nat) : Option KeySlot :=
  if c + 64 ≤ k.txctr then none
  else if c ≤ k.txctr then
    if k.txwin.getLsbD (k.txctr - c) then none
    else some { k with txwin := k.txwin ||| BitVec.ofNat 64 (2 ^ (k.txctr - c)) }
  else some { k with txwin := if c - k.txctr < 64 then k.txwin <<< (c - k.txctr) ||| 1 else 1, txctr := c }

/-- The command identifier (R271). -/
def commandId (dray seq : Nat) : Nat := dray + 256 * (seq % 4294967296)

/-- R237: every destination line is written poisoned. -/
def State.poisonLines (s : State) (dray : Nat) (c : DrayCmd) : State :=
  (List.range (c.len / 64)).foldl (fun s i =>
    match s.vdTarget c.vd (c.dst + 64 * i) 64 .write (c.priv == 0) false true with
    | .ok (pa, _) =>
      if isNear pa || isFar pa then
        let pa := (s.migrate c.vd pa).getD pa
        let s := (s.freshen (pa / 4096)).cleanLine (pa / 64)
        let id := commandId dray c.seq
        s.setLine (pa / 64) { s.line (pa / 64) with poison := some id, mac := BitVec.ofNat 64 id, written := true }
      else s
    | .error _ => s) s

/-! ## Statuses (R274) -/

def statusWord (state err bytes : Nat) : Word := BitVec.ofNat 64 (state + 16 * err + 2 ^ 32 * bytes)

/-- Strands that wait in DWAIT look at their command again. -/
def State.wakeDwait (s : State) (dray seq : Nat) : State :=
  s.strands.foldl (fun s e => match e.2.wait with
    | some (.dwait id _ _ _ _) => if id = commandId dray seq then s.now prioWake (.dwaitWake e.1) else s
    | _ => s) s

/-- Drays act in increasing number within a cycle (R402). -/
def prioDray (d : Nat) : Nat := 2 ^ 79 + d

/-- The Dray looks at its commands n cycles from now; it does so once a cycle. -/
def State.kickDray (s : State) (dray n : Nat) : State :=
  if s.agenda.any fun e => e.2 == .drayCommandStart dray then s else s.after n (prioDray dray) (.drayCommandStart dray)

/-- The command ends: its status is kept among the last 256, its queue entry is released,
and an error posts an interrupt (R369). -/
def State.drayEnd (s : State) (dray : Nat) (c : DrayCmd) (state err : Nat) : State :=
  let d := s.dray dray
  let ended := d.ended ++ [(c.seq, c.vd, statusWord state err c.bytes)]
  let d := { d with cmds := d.cmds.filter fun k => decide (k.seq ≠ c.seq), ended := ended.drop (ended.length - 256) }
  let s := ((s.setDray dray d).wakeDwait dray c.seq).kickDray dray 0
  if state = 4 then s.postIrq c.vd 4 else s

/-- R274: the status of an identifier as a VD sees it. -/
def State.drayStatus (s : State) (v : Nat) (id : Word) : Word :=
  let dray := bits id 0 8
  let seq := bits id 8 32
  if bits id 40 24 ≠ 0 ∨ dray ≥ 48 then statusWord 5 0 0
  else
    let d := s.dray dray
    match d.cmds.find? fun c => c.seq == seq with
    | some c => if c.vd = v then statusWord (if c.running then 1 else 0) 0 c.bytes else statusWord 5 0 0
    | none => match d.ended.reverse.find? fun e => e.1 == seq with
      | some e => if e.2.1 = v then e.2.2 else statusWord 5 0 0
      | none => statusWord 5 0 0

/-! ## Free commands (R246, R272) -/

/-- The scratchpad words of the next unit of a command (R186): what it reads, an index first, and what it writes. -/
def State.unitGroups (s : State) (c : DrayCmd) : List (Nat × Nat × Nat) :=
  if c.sealing then []
  else if c.indexed then
    let e := 2 ^ c.esz
    let at_ := c.aux + 4 * c.pos
    match s.drayLocal c false at_ 4 with
    | none => []
    | some (k, off) =>
      let i := ofBytes (s.spadRead k off 4)
      let (a, b) := if c.fn = 1 then (c.src + i * e, c.dst + c.pos * e) else (c.src + c.pos * e, c.dst + i * e)
      (k, off, 4) :: (s.drayGroups c c.srcSpace a e ++ s.drayGroups c c.dstSpace b e)
  else
    let n := Nat.min 64 (c.len - 64 * c.pos)
    (if c.fn = 5 then [] else s.drayGroups c c.srcSpace (c.src + 64 * c.pos) n) ++ s.drayGroups c c.dstSpace (c.dst + 64 * c.pos) n

/-- One unit of a running command, its bank cycles over. -/
def State.drayUnit (s : State) (dray : Nat) (c : DrayCmd) : State :=
  let stop (s : State) (c : DrayCmd) (err : Nat) : State :=
    (s.setCmd dray { c with result := some err }).now (prioDray dray) (.drayCommandCompletion dray c.seq)
  let settle_ (r : Part) (k : State → List Byte → State × DrayCmd) : State :=
    match r with
    | .wait s => s
    | .fail err s => stop s c err
    | .ok s bs =>
      let (s, c) := k s bs
      let c := { c with claimed := 0, asked := [] }
      if c.pos ≥ c.units then stop s c 0 else s.setCmd dray c
  if c.fn = 4 then
    if c.accepted then
      let i := c.pos
      settle_ (s.drayWrites dray c 2 c.dst (c.dst + c.len) (c.dst + 64 * i) ((c.buf.drop (64 * i)).take 64)) fun s _ =>
        (s, { c with pos := i + 1, bytes := c.bytes + 64 })
    else if c.buf.length < c.len + 16 then
      match s.drayReads dray c 2 (c.src + c.buf.length) (Nat.min 64 (c.len + 16 - c.buf.length)) with
      | .wait s => s
      | .fail err s => stop s c err
      | .ok s bs => s.setCmd dray { c with buf := c.buf ++ bs }
    else
      let k := s.key c.vd
      let tag := natsOf (c.buf.drop c.len)
      match gcmOpen k.txkey.toNat (sealIv k c.aux) (sealAad c.len) (natsOf (c.buf.take c.len)) tag with
      | none => stop (s.poisonLines dray c) c 6
      | some plain => match k.accept c.aux with
        | none => stop (s.poisonLines dray c) c 7
        | some k => (s.setKey c.vd k).setCmd dray { c with buf := bytesOf plain, accepted := true }
  else if c.fn = 3 then
    settle_ (s.sealUnit dray c) fun s ct =>
      (s, { c with pos := c.pos + 1, bytes := Nat.min c.len (c.bytes + 64), buf := c.buf ++ ct })
  else if c.indexed then
    let at_ := c.aux + 4 * c.pos
    match s.drayLocal c false at_ 4 with
    | none => stop s c 4
    | some (k, off) =>
      let e := 2 ^ c.esz
      let i := ofBytes (s.spadRead k off 4)
      settle_ (if c.fn = 1 then s.drayMove dray c (c.src + i * e) (c.dst + c.pos * e) e
        else s.drayMove dray c (c.src + c.pos * e) (c.dst + i * e) e) fun s _ => (s, { c with pos := c.pos + 1, bytes := c.bytes + 1 })
  else
    let n := Nat.min 64 (c.len - 64 * c.pos)
    settle_ (if c.fn = 5 then
        s.drayWrites dray c c.dstSpace c.dst (c.dst + c.len) (c.dst + 64 * c.pos)
          ((List.range n).map fun j => BitVec.ofNat 8 (c.aux / 256 ^ (j % 8)))
      else s.drayMove dray c (c.src + 64 * c.pos) (c.dst + 64 * c.pos) n) fun s _ =>
        (s, { c with pos := c.pos + 1, bytes := c.bytes + n })

/-- R186: a running command takes the banks of its next unit, as they come free, and then performs it. -/
def State.drayStep (s : State) (dray : Nat) (c : DrayCmd) : State :=
  let groups := s.unitGroups c
  let (s, n) := s.drayBanks (groups.drop c.claimed)
  let c := { c with claimed := c.claimed + n }
  if c.claimed < groups.length then s.setCmd dray c else (s.setCmd dray c).drayUnit dray c

/-- DRAY_COMMAND_START: queued commands start in order while fewer than 4 run, and every running command performs its next
unit. -/
def execDrayCommandStart (dray : Nat) (s : State) : Host.Outcome State Fault Refusal :=
  let start (s : State) : State :=
    ((s.dray dray).cmds.foldl (fun (r : State × Nat) c =>
      if c.running then (r.1, r.2 + 1)
      else if r.2 < 4 then
        ((r.1.setCmd dray { c with running := true }).after (4194304 + c.len / 16) prioWake (.drayTimeout dray c.seq), r.2 + 1)
      else r) (s, 0)).1
  let s := start s
  let s := (s.dray dray).cmds.foldl (fun s c =>
    if c.running ∧ c.result = none then
      match c.mig with
      | some i => s.now (prioDray dray) (.migrationLineCopy i)
      | none => s.drayStep dray c
    else s) s
  .next (if (s.dray dray).cmds.any fun c => c.result.isNone then s.kickDray dray 1 else s)

/-- DRAY_COMMAND_COMPLETION: the command's outcome is recorded. -/
def execDrayCommandCompletion (dray seq : Nat) (s : State) : Host.Outcome State Fault Refusal :=
  .next (match (s.dray dray).cmds.find? fun c => c.seq == seq with
  | some c => match c.result with
    | some err => s.drayEnd dray c (if err = 0 then 2 else 4) err
    | none => s
  | none => s)

/-- DRAY_TIMEOUT. -/
def execDrayTimeout (dray seq : Nat) (s : State) : Host.Outcome State Fault Refusal :=
  .next (match (s.dray dray).cmds.find? fun c => c.seq == seq && c.running && c.result.isNone && c.mig.isNone with
  | some c => s.drayEnd dray c 4 8
  | none => s)

/-! ## The words DRAY, DWAIT, DSTAT and DCANCEL (R271, R275) -/

/-- R246, R271: whether a strand's partition holds a Dray; strands of no partition may command every one. -/
def State.holdsDray (s : State) (sid dray : Nat) : Bool :=
  match s.strandPart sid with
  | some p => decide (dray < 48) && (s.part p).drays.getLsbD dray
  | none => true

/-- A refused command. -/
def drayRefused (err : Nat) : Word := BitVec.ofNat 64 (2 ^ 63 + 16 * err)

/-- A command enters a queue; the identifier lands 2 turns later. -/
def State.drayEnqueue (s : State) (dray : Nat) (c : DrayCmd) (d : GReg) : State :=
  let q := s.dray dray
  let s := s.setDray dray { q with nextSeq := (q.nextSeq + 1) % 4294967296, cmds := q.cmds ++ [{ c with seq := q.nextSeq }] }
  ((s.kickDray dray 0).modMe fun x => { x with dqSince := none }).landG d (BitVec.ofNat 64 (commandId dray q.nextSeq)) 2

/-- The least and the greatest index of a GATH's or SCAT's list, as far as it lies in the scratchpad. -/
def State.indexSpan (s : State) (c : DrayCmd) : Option (Nat × Nat) :=
  (List.range (Nat.min c.count ((524288 - c.aux % 4194304 % 524288) / 4))).foldl (fun r i =>
    match s.drayLocal c false (c.aux + 4 * i) 4 with
    | some (k, off) =>
      let x := ofBytes (s.spadRead k off 4)
      (match r with | some (a, b) => some (Nat.min a x, Nat.max b x) | none => some (x, x))
    | none => r) none

/-- R255: what the operands of space 3 ask of the ticket: every byte that they touch, on an indexed side by the list of the indices as it
stands at issue. -/
def State.drayAsks (s : State) (c : DrayCmd) : List TkAsk :=
  let e := 2 ^ c.esz
  let n := if c.indexed then c.count * e else c.len
  let ask (a right : Nat) (byIndex : Bool) : TkAsk :=
    let (lo, hi) := if byIndex then (match s.indexSpan c with | some (x, y) => (a + x * e, a + y * e + e) | none => (a, a)) else (a, a + n)
    { kinds := [1, 4], right := right, lo := lo, hi := hi, at_ := a }
  (if c.srcSpace = 3 ∧ c.fn ≠ 5 then [ask c.src rightRead (c.fn == 1)] else []) ++
  (if c.dstSpace = 3 then [ask c.dst rightWrite (c.fn == 2)] else [])

/-- R197: the scratchpads that a command reads and writes, and whether it also reads or writes memory or host space; for a FENCE. -/
def State.drayScope (s : State) (c : DrayCmd) : List Nat × Bool :=
  let side (space : Nat) : List Nat × Bool :=
    if space = 0 then ([c.core], false)
    else if space = 1 then ((List.range 48).map (48 * clusterOf c.core + ·), false)
    else if space = 2 then ([], true)
    else match s.cmdEnd c with
      | .site x y => if tkKind c.ticket = 1 then ((siteCore x y).toList, false) else ([], true)
      | _ => ([], false)
  let a := if c.fn = 5 then ([], false) else side c.srcSpace
  let b := side c.dstSpace
  ((if c.indexed then [c.core] else []) ++ a.1 ++ b.1, a.2 || b.2)

/-- R196: an earlier access of the strand to n bytes of its own scratchpad that is not performed yet. -/
def State.ownWrites (s : State) (sid off n : Nat) : Bool :=
  let lo := spadKey (coreOf sid) off
  s.accesses.any fun e => e.2.sid == sid && (match e.2.place with | .spad _ => true | .phys => false) &&
    e.2.cycles.any fun es => es.any fun x => (e.2.spans x).any fun p => decide (p.1 < lo + n) && decide (lo < p.1 + p.2)

/-- A DRAY word (R271): the block is read and checked, and the command enqueued. Dray numbers 48 to 63 name none: a strand of a partition,
which holds none of them, gets NOTHELD, and one of no partition MALFORMED (log 82). -/
def drayWord (fn : Nat) (tk : TkReg) (d a b : GReg) (s : State) : Host.Outcome State Fault Refusal :=
  finish s (word s { src := [.tk tk, .g a, .g b], dst := [.g d], outward := true } fun s => freeOnly s fun s =>
    let off := s.rg a
    let sid := s.cur.sid
    if off.toNat % 64 ≠ 0 then misaligned off
    else localBytes s off 64 fun s =>
      if s.ownWrites sid off.toNat 64 then .held s
      else
        let blk := s.spadRead (coreOf sid) off.toNat 64
        let c := { cmdOf fn blk with
          ticket := s.me.rtk tk, core := coreOf sid, sid := sid, wseq := s.seqNo, vd := s.strandVd sid, priv := s.me.priv
          part := s.strandPart sid }
        let dray := bits (s.rg b) 0 6
        let c := { c with cores := (s.drayScope c).1, shared := (s.drayScope c).2 }
        if blockBad false fn blk || (c.part.isNone && decide (dray ≥ 48)) then .ok (s.landG d (drayRefused 1) 2)
        else match (s.drayAsks c).findSome? (s.tkFails (s.me.rtk tk)) with
          | some v => accessFault (BitVec.ofNat 64 v)
          | none =>
            if !s.holdsDray sid dray then .ok (s.landG d (drayRefused 2) 2)
            else if c.sealing && !(s.key c.vd).valid then
              let q := s.dray dray
              let id := q.nextSeq
              let s := s.setDray dray { q with nextSeq := (id + 1) % 4294967296 }
              .ok ((s.drayEnd dray { c with seq := id } 4 4).landG d (BitVec.ofNat 64 (commandId dray id)) 2)
            else if (s.dray dray).cmds.length ≥ 64 then
              (match s.me.dqSince with
              | some 0 => .ok ((s.modMe fun x => { x with dqSince := none }).landG d (drayRefused 3) 2)
              | some _ => .held s
              | none => .held ((s.modMe fun x => { x with dqSince := some (s.pkg.ency + 1) }).after 65536 prioWake
                  (.drayQueueFullExpiry sid)))
            else .ok (s.drayEnqueue dray c d))

def execDrayCopy (tk : TkReg) (d a b : GReg) := drayWord 0 tk d a b
def execDrayGath (tk : TkReg) (d a b : GReg) := drayWord 1 tk d a b
def execDrayScat (tk : TkReg) (d a b : GReg) := drayWord 2 tk d a b
def execDraySeal (tk : TkReg) (d a b : GReg) := drayWord 3 tk d a b
def execDrayUnseal (tk : TkReg) (d a b : GReg) := drayWord 4 tk d a b
def execDrayFill (tk : TkReg) (d a b : GReg) := drayWord 5 tk d a b

/-- DRAY_QUEUE_FULL_EXPIRY: the held word gives up at its next issue cycle, and lands QFULL. -/
def execDrayQueueFullExpiry (sid : Nat) (s : State) : Host.Outcome State Fault Refusal :=
  .next (match (s.strand sid).dqSince with
  | some (t + 1) => if t + 65536 ≤ s.pkg.ency then s.modStrand sid fun x => { x with dqSince := some 0 } else s
  | _ => s)

def execDstat (d a : GReg) (s : State) : Host.Outcome State Fault Refusal :=
  finish s (word s { src := [.g a], dst := [.g d], outward := true } fun s => freeOnly s fun s =>
    .ok (s.landG d (s.drayStatus (s.strandVd s.cur.sid) (s.rg a)) 2))

/-- Whether DWAIT's command has ended, for its VD. -/
def drayOver (w : Word) : Bool := decide (bits w 0 4 ≥ 2)

def execDwait (d a b : GReg) (s : State) : Host.Outcome State Fault Refusal :=
  finish s (word s { src := [.g a, .g b], dst := [.g d], outward := true } fun s => freeOnly s fun s =>
    let sid := s.cur.sid
    let st := s.drayStatus (s.strandVd sid) (s.rg a)
    if drayOver st then .ok (s.landG d st 2)
    else
      let expiry := s.turn + bits (s.rg b) 0 32
      let s := if d = 0 then s else s.promise (.g d) false
      .ok ((s.modMe fun x => { x with wait := some (.dwait (s.rg a).toNat expiry d s.seqNo s.turn) }).owe (some (s.clockOf sid))
        expiry prioWake (.dwaitWake sid)))

/-- DWAIT_WAKE: the command has ended or the limit has passed. -/
def execDwaitWake (sid : Nat) (s : State) : Host.Outcome State Fault Refusal :=
  .next (match (s.strand sid).wait with
  | some (.dwait id expiry d seq turn) =>
    let st := s.drayStatus (s.strandVd sid) (BitVec.ofNat 64 id)
    if drayOver st ∨ expiry ≤ s.lcy sid then
      let s := s.modStrand sid fun x => { x with wait := none }
      if d = 0 then s else s.resolve sid seq (.g d) st (Nat.max (turn + 32) (s.nextTurn sid))
    else s
  | _ => s)

/-- DCANCEL: a command that runs stops between two units; a migration is left alone (R332). -/
def execDcancel (d a : GReg) (s : State) : Host.Outcome State Fault Refusal :=
  finish s (word s { src := [.g a], dst := [.g d], outward := true } fun s => freeOnly s fun s =>
    let id := s.rg a
    let v := s.strandVd s.cur.sid
    let dray := bits id 0 8
    let s := match (if bits id 40 24 = 0 then (s.dray dray).cmds.find? fun c => c.seq == bits id 8 32 else none) with
      | some c => if c.vd = v ∧ c.mig = none ∧ c.result = none then s.drayEnd dray c 3 0 else s
      | none => s
    .ok (s.landG d (s.drayStatus v id) 2))

/-! ## Timed commands (R273) -/

/-- An ending event that a timed command raises for its launch (R29). -/
def State.timedFault (s : State) (l core : Nat) (t : TrapInfo) : State :=
  s.endingEvent l (s.lcyL l) (s.core core).logical 0 t 0

/-- R287: the physical address of a virtual address in a timed region of a launch. -/
def Launch.timedAddr (L : Launch) (va : Nat) : Option Nat :=
  match L.regions.find? fun r => decide (r.vbase ≤ va) && decide (va < r.vbase + r.len) with
  | some r => (r.frames[(va - r.vbase) / 4096]?).map fun f => 4096 * f + va % 4096
  | none => none

/-- The bytes of a unit of a timed command: its source address and length, and its destination address. -/
def State.timedUnit (s : State) (core : Nat) (c : DrayCmd) (i : Nat) : Nat × Nat × Nat :=
  if c.fn = 1 then
    let idx := ofBytes (s.spadRead core (c.aux + 4 * i) 4)
    (c.src + idx * 2 ^ c.esz, 2 ^ c.esz, c.dst + i * 2 ^ c.esz)
  else (c.src + 64 * i, Nat.min 64 (c.len - 64 * i), c.dst + 64 * i)

/-- A timed read of near or far memory: its lines' checks complete within 3072 cycles (R227). -/
def State.timedChecks (s : State) (l pa n : Nat) : State :=
  (List.range ((pa + n - 1) / 64 - pa / 64 + 1)).foldl (fun (s : State) i =>
    let (w, s) := s.duration 0 3072
    (s.modLaunch l fun L => { L with checks := L.checks + 1 }).after w prioLand (.timedReadCheck l (pa / 64 + i))) s

/-- The parts of n bytes of a timed region at their physical addresses. -/
def Launch.timedPieces (L : Launch) (a n : Nat) : List (Nat × Nat) :=
  (linePieces a n).filterMap fun p => (L.timedAddr p.1).map fun pa => (pa, p.2)

/-- R224, R227: what a timed read delivers before its checks are complete: a line that fails its MAC as it decrypts. -/
def State.timedBytes (s : State) (pa n : Nat) : List Byte :=
  if s.lineFault (pa / 64) = some 17 then ((toBytes 64 (s.openLine (pa / 64))).drop (pa % 64)).take n else s.physRead pa n

/-- Reads unit i of a timed command in its cycle. -/
def State.timedRead (s : State) (l idx : Nat) (e : TimedDray) (c : DrayCmd) (i : Nat) : State :=
  let (a, n, _) := s.timedUnit e.core c i
  let keep (s : State) (bs : List Byte) : State := s.modLaunch l fun L =>
    { L with drays := L.drays.zipIdx.map fun k => if k.2 = idx then { k.1 with held := k.1.held ++ [(i, bs)] } else k.1 }
  if c.fn = 5 then keep s ((List.range n).map fun j => BitVec.ofNat 8 (c.aux / 256 ^ (j % 8)))
  else if c.srcSpace ≤ 1 then
    let k := if c.srcSpace = 1 then 48 * clusterOf e.core + a / 4194304 else e.core
    let off := a % 524288
    if s.stringBusy k off n then s.timedFault l e.core { cause := 15, detail := 2, eval := BitVec.ofNat 64 (s.lcyL l) }
    else match s.takeBanks k (banksOf off n) with
      | some s => keep s (s.spadRead k off n)
      | none => s.timedFault l e.core { cause := 15, detail := 2, eval := BitVec.ofNat 64 (s.lcyL l) }
  else
    let ps := (s.launch l).timedPieces a n
    keep (ps.foldl (fun s p => (s.takeMemPath p.1).timedChecks l p.1 p.2) s) (ps.flatMap fun p => s.timedBytes p.1 p.2)

/-- Delivers unit i of a timed command in its cycle; data not at hand is a timing fault. -/
def State.timedWrite (s : State) (l : Nat) (e : TimedDray) (c : DrayCmd) (i : Nat) : State :=
  let (_, n, a) := s.timedUnit e.core c i
  let fault (d : Nat) : State := s.timedFault l e.core { cause := 15, detail := d, eval := BitVec.ofNat 64 (s.lcyL l) }
  match look i e.held with
  | none => fault 1
  | some bs =>
    if c.dstSpace ≤ 1 then
      let k := if c.dstSpace = 1 then 48 * clusterOf e.core + a / 4194304 else e.core
      let off := a % 524288
      if s.stringBusy k off n then fault 2
      else match s.takeBanks k (banksOf off n) with
        | some s => s.spadWrite k off bs
        | none => fault 2
    else
      (((s.launch l).timedPieces a n).foldl (fun (r : State × List Byte) p =>
        ((r.1.takeMemPath p.1).physWrite p.1 (r.2.take p.2) (s.launch l).part false, r.2.drop p.2)) (s, bs)).1

/-- TIMED_DRAY_START: at its cycle, and in every cycle after it, a timed command reads its next unit and delivers the unit whose
latency has passed. -/
def execTimedDrayStart (launch idx : Nat) (s : State) : Host.Outcome State Fault Refusal :=
  let L := s.launch launch
  .next (match L.drays[idx]? with
  | none => s
  | some e =>
    if L.st ≠ .running ∧ L.st ≠ .ending ∧ L.st ≠ .preempting then s
    else
      let c := cmdOf e.fn e.block
      let j := s.lcyL launch - (4096 * e.bar + c.start)
      let s := if j < c.units then s.timedRead launch idx e c j else s
      let s := match (s.launch launch).drays[idx]? with
        | some e => if c.dlat ≤ j ∧ j - c.dlat < c.units then s.timedWrite launch e c (j - c.dlat) else s
        | none => s
      if j + 1 < c.units + c.dlat then s.owe (some launch) (s.lcyL launch + 1) rankDray (.timedDrayStart launch idx) else s)

/-- TIMED_READ_CHECK: the check of a timed read completes; a failure ends the launch and charges no word; the save of a pre-emption
waits for it, and the launch then ends at that bar line (R362). -/
def execTimedReadCheck (launch la : Nat) (s : State) : Host.Outcome State Fault Refusal :=
  let s := s.modLaunch launch fun L => { L with checks := L.checks - 1 }
  let L := s.launch launch
  .next (match s.lineFault la with
  | some d =>
    let s := (s.chargeLine L.vd d).endingEvent launch (s.lcyL launch) 0 0
      { cause := 10, detail := d, eval := BitVec.ofNat 64 (64 * la) } 0
    if L.frozen ∧ L.preAt = some (s.lcyL launch) then s.modLaunch launch fun L => { L with endAt := L.preAt } else s
  | none => s.launchComplete launch)

end Sys2Proof.Machine
end

