-- ==== Sys2Proof/Machine/Priv.lean ====
section
/-! DEFINITION. The privileged words of translation, migration, tickets and keys: XLAT (R330), TLBINV (R328, R329), MIGSET and the
migration copy (R331 to R333), MINT (R315), REVOKE (R316 to R318), the ports (R311), KEYSET (R234, R235), and the assignment of
frames (R231). -/
namespace Sys2Proof.Machine

/-! ## Frame of these words -/

/-- A word of a free strand at a level, whose effect reaches beyond the strand. -/
def privWord (level : Nat) (src : List Dst) (dst : List Dst) (s : State) (k : State → Res) : Host.Outcome State Fault Refusal :=
  finish s (word s { level := level, src := src, dst := dst, outward := true } fun s => freeOnly s k)

/-- R328: the VDs that the issuing strand may name. -/
def State.mayName (s : State) (v : Nat) : Bool := decide (s.me.priv ≥ 2) || s.holdsVdOf (s.strandPart s.cur.sid) v

/-- An error code with bit 63 (R316, R329). -/
def errorWord (code : Nat) : Word := BitVec.ofNat 64 (2 ^ 63 + code)

/-- A result that lands some turns after issue, the strand issuing nothing until then. -/
def State.landWait (s : State) (d : GReg) (v : Word) (turns : Nat) : State :=
  (s.landG d v turns).modMe fun x => { x with wait := some (.until (s.turn + 16 * turns)) }

/-- A result that lands in the first turn after a chosen duration, no longer than a bound; the strand issues nothing until then. -/
def State.landWithin (s : State) (d : GReg) (v : Word) (bound : Nat) : State :=
  let (w, s) := s.duration 1 bound
  s.landWait d v (ceilDiv w 16)

/-! ## XLAT (R330) -/

/-- The failure form of XLAT. -/
def xlatFail (detail level : Nat) : Word := BitVec.ofNat 64 (2 ^ 63 + 2 ^ 8 * detail + 2 ^ 13 * level)

/-- The success form of XLAT. -/
def xlatWord (e : TlbEntry) (va : Nat) : Word :=
  let b (x : Bool) (i : Nat) : Nat := if x then 2 ^ i else 0
  let size := if e.pages = 1 then 0 else if e.pages = 16 then 1 else 2
  BitVec.ofNat 64 (e.pa va + 2 ^ 52 * size + b e.attr.ro 54 + b e.attr.nc 55 + b e.attr.r 56 + b e.attr.w 57 + b e.attr.x 58 +
    b e.attr.p 59 + b e.split 60)

/-- The answer of XLAT for an address of a VD; `program` checks as at program level, and a kind of none only walks. -/
def State.xlat (s : State) (v va : Nat) (program : Bool) (kind : Option Right) : State × Word :=
  if va ≥ 2 ^ 57 then (s, xlatFail 4 0) else
  match s.walk (coreOf s.cur.sid) v va with
  | (s, .error t) => (if t.cause = 10 then s.chargeLine v t.detail else s, xlatFail t.detail t.level)
  | (s, .ok e) => match kind.bind fun r => checkLeaf e.attr program r va with
    | some t => (s, xlatFail t.detail t.level)
    | none => (s, xlatWord e va)

def xlatOp (kind : Option Right) (d a b : GReg) (s : State) : Host.Outcome State Fault Refusal :=
  privWord 1 [.g a, .g b] [.g d] s fun s =>
    let w := s.rg b
    let v := bits w 0 8
    if !s.mayName v then privilege s
    else if bits w 9 55 ≠ 0 ∨ v ≥ 192 then .ok (s.landWait d (xlatFail 0 0) 4)
    else
      let (s, r) := s.xlat v (s.rg a).toNat (bits w 8 1 == 1) kind
      .ok (s.landWait d r 4)

def execXlatRead (d a b : GReg) := xlatOp (some .read) d a b
def execXlatWrite (d a b : GReg) := xlatOp (some .write) d a b
def execXlatFetch (d a b : GReg) := xlatOp (some .exec) d a b
def execXlatProbe (d a b : GReg) := xlatOp none d a b

/-! ## TLBINV (R328, R329) -/

/-- Whether a launch that is admitted pins the page of an address of a VD. -/
def State.pinned (s : State) (v va : Nat) : Bool :=
  s.launches.any fun e => e.2.vd == v && e.2.scored && e.2.regions.any fun r =>
    decide (r.vbase ≤ va) && decide (va < r.vbase + r.len)

/-- TLBINV of a page, or of a whole VD: its errors land at once, its work begins with the strand's wait. -/
def tlbinv (d b : GReg) (page : Option GReg) (s : State) : Host.Outcome State Fault Refusal :=
  privWord 1 ((match page with | some a => [.g a] | none => []) ++ [.g b]) [.g d] s fun s =>
    let w := s.rg b
    let v := bits w 0 8
    let va := page.map fun a => (s.rg a).toNat
    if !s.mayName v then privilege s
    else if bits w 9 55 ≠ 0 ∨ v ≥ 192 ∨ va.any (fun x => decide (x ≥ 2 ^ 57)) = true then .ok (s.landWait d (errorWord 1) 2)
    else if va.any (s.pinned v) then .ok (s.landWait d (errorWord 2) 2)
    else
      let s := if d = 0 then s else s.promise (.g d) false
      .ok (s.modMe fun x => { x with wait := some (.tlbinv v (va.map (· / 4096)) none d s.seqNo s.turn) })

def execTlbinvPage (d a b : GReg) := tlbinv d b (some a)
def execTlbinvVd (d b : GReg) := tlbinv d b none

/-! ## Migration (R331 to R333) -/

/-- The address of the level-1 entry of an address, where tables lead to one. -/
def State.leafAddr (s : State) (v va : Nat) : Option Nat :=
  ([5, 4, 3, 2] : List Nat).foldl (fun t level => t.bind fun tbl =>
    let e := ofBytes (s.physRead (4096 * tbl + 8 * vaIndex va level) 8)
    if e.testBit 0 ∧ e.testBit 1 then some (pfnOf e) else none) (some (s.vd v).troot)
  |>.map fun tbl => 4096 * tbl + 8 * vaIndex va 1

/-- The migration command of a slot on a Dray. -/
def State.migCommand (s : State) (slot v dray : Nat) : DrayCmd :=
  { len := 4096, spaces := 10, core := coreOf s.cur.sid, sid := s.cur.sid, wseq := s.seqNo, vd := v, priv := s.me.priv
    part := s.strandPart s.cur.sid, mig := some slot, seq := (s.dray dray).nextSeq }

/-- The stalled slot that a MIGSET resumes. -/
def State.stalledSlot (s : State) (v vpn new : Nat) : Option (Nat × MigSlot) :=
  s.mig.find? fun e => e.2.state == 2 && e.2.vd == v && e.2.vpn == vpn && e.2.new == new

def State.freeSlot (s : State) : Option Nat := (List.range 16).find? fun i => (s.migSlot i).state == 0

def execMigset (d a b : GReg) (s : State) : Host.Outcome State Fault Refusal :=
  privWord 1 [.g a, .g b] [.g d] s fun s =>
    let va := (s.rg a).toNat
    let w := s.rg b
    let new := bits w 0 40
    let v := bits w 40 8
    let dray := bits w 48 6
    let vpn := va / 4096
    let refuse (s : State) (err : Nat) : Res := .ok (s.landG d (drayRefused err) 2)
    let enqueue (s : State) (slot : Nat) (m : MigSlot) : Res :=
      let c := s.migCommand slot v dray
      .ok ((s.setMig slot { m with state := 1, dray := dray, seq := c.seq }).drayEnqueue dray c d)
    if !s.mayName v then privilege s
    else if va % 4096 ≠ 0 ∨ va ≥ 2 ^ 57 ∨ bits w 54 10 ≠ 0 ∨ v ≥ 192 then refuse s 1
    else if !s.holdsDray s.cur.sid dray then refuse s 2
    else if (s.dray dray).cmds.length ≥ 64 ∨ ((s.stalledSlot v vpn new).isNone ∧ s.freeSlot.isNone) then refuse s 3
    else match s.walk (coreOf s.cur.sid) v va with
      | (s, .error t) => refuse (if t.cause = 10 then s.chargeLine v t.detail else s) 4
      | (s, .ok e) =>
        if e.pages ≠ 1 ∨ (s.frame e.pfn).pins ≠ 0 ∨ (s.ckpt.remap.any fun r => r.unit == e.pfn / 16) = true then refuse s 4
        else match s.stalledSlot v vpn new with
          | some (i, m) => enqueue s i m
          | none =>
            let f := s.frame new
            if !f.assigned ∨ f.owner ≠ v ∨ !f.fresh ∨ (s.migOf v vpn).isSome then refuse s 4
            else match s.freeSlot with
              | some i =>
                let s := (s.setFrame new { f with migdst := true }).shootDown v (some vpn)
                enqueue s i { vd := v, vpn := vpn, old := e.pfn, new := new }
              | none => refuse s 3

/-- R219: an access of a VD that was translated to a frame, and is not performed, is redirected to another frame. -/
def Access.redirect (v old new : Nat) (a : Access) : Access :=
  let move (x : Nat) : Nat := if x / 4096 = old then 4096 * new + x % 4096 else x
  match a.place with
  | .spad _ => a
  | .phys => if a.vd ≠ v then a else { a with
      home := move a.home
      cycles := a.cycles.map fun es => es.map fun e => if e.relay.isSome then e else { e with addr := move e.addr } }

def State.redirect (s : State) (v old new : Nat) : State :=
  { s with accesses := s.accesses.map fun e : Nat × Access => (e.1, e.2.redirect v old new) }

/-- The copy has reached the end of its page: the leaf names the new frame, and accesses on their way follow it. -/
def State.migrationEnd (s : State) (slot : Nat) (m : MigSlot) (c : DrayCmd) : State :=
  let s := s.redirect m.vd m.old m.new
  let s := match s.leafAddr m.vd (4096 * m.vpn) with
    | some a =>
      let e := ofBytes (s.physRead a 8)
      s.engineWrite a (toBytes 8 (e - 2 ^ 12 * pfnOf e + 2 ^ 12 * m.new))
    | none => s
  let s := s.setFrame m.new { s.frame m.new with migdst := false }
  ((s.shootDown m.vd (some m.vpn)).setMig slot {}).drayEnd m.dray c 2 0

/-- MIGRATION_LINE_COPY: one line moves; a failing read stalls the slot and ends the command. -/
def execMigrationLineCopy (slot : Nat) (s : State) : Host.Outcome State Fault Refusal :=
  let m := s.migSlot slot
  .next (match (s.dray m.dray).cmds.find? fun c => c.seq == m.seq && c.mig == some slot && c.running && c.result.isNone with
  | some c =>
    if m.state ≠ 1 then s
    else
      let src := 4096 * m.old + m.ptr
      (match s.linesFault src 128 with
      | some d => ((s.chargeLine m.vd d).setMig slot { m with state := 2 }).drayEnd m.dray c 4 5
      | none =>
        let m' := { m with ptr := m.ptr + 128 }
        let c' := { c with bytes := c.bytes + 128 }
        let s := s.engineWrite (4096 * m.new + m.ptr) (s.physRead src 128)
        let s := (s.setMig slot m').setCmd m.dray c'
        if m'.ptr ≥ 4096 then s.migrationEnd slot m' c' else s)
  | none => s)

/-! ## MINT (R315) -/

/-- R300: a KIND that no object has, reserved bits, or no rights. -/
def templateBad (w1 : Nat) : Bool :=
  let k := field w1 0 3
  k == 0 || decide (k ≥ 6) || field w1 121 7 != 0 || field w1 3 8 == 0

/-- R301: the limits of an object. -/
def withinLimits (w1 : Nat) : Bool :=
  let base := field w1 57 40
  let len := field w1 97 24
  match field w1 0 3 with
  | 1 => decide (base + len ≤ 8192) && decide (len ≥ 1)
  | 2 => field base 26 14 == 0 && decide (field base 0 13 + len ≤ 8192) && decide (field base 13 6 + field base 19 7 ≤ 64) &&
      decide (field base 19 7 ≥ 1)
  | 3 => decide (base < 4) && len == 0
  | 4 => decide (len ≥ 1) && decide (base + len ≤ 2 ^ 40)
  | _ => field base 13 27 == 0 && len == 0 && decide (field base 2 5 + field base 7 6 ≤ 32) && decide (field base 7 6 ≥ 1)

/-- R315, R304: a delivery comes before any pad, with no reserved nibble before it; operand nibbles are passed over. -/
def routeWellFormed (w0 : Nat) : Nat → Nat → Bool
  | 0, _ => false
  | n + 1, h =>
    if h ≥ 32 then false else
    let x := field w0 (4 * h) 4
    if x = 4 then true
    else if x ≤ 3 ∨ x = 5 then routeWellFormed w0 n (h + 1)
    else if x = 6 then routeWellFormed w0 n (h + 3)
    else if x = 7 then routeWellFormed w0 n (h + 2)
    else false

/-- The status of a MINT of a template to an image address. -/
def mintStatus (w0 w1 img : Nat) : Nat :=
  if templateBad w1 then 2
  else if !withinLimits w1 then 3
  else if !routeWellFormed w0 33 0 then 4
  else if img ≠ 0 ∧ (img % 64 ≠ 0 ∨ isNear img = false) then 5
  else 0

/-- The ticket of a template under the current key. -/
def State.mintTicket (s : State) (w0 w1 : Nat) : Ticket :=
  let w1 := w1 - 2 ^ 11 * field w1 11 4 + 2 ^ 11 * s.pkg.kg
  BitVec.ofNat 512 (w0 + 2 ^ 128 * w1 + 2 ^ 384 * tagZero s.pkg.keyCur w0 w1)

def execMint (tk : TkReg) (d a b : GReg) (s : State) : Host.Outcome State Fault Refusal :=
  privWord 2 [.g a, .g b] [.g d, .tk tk] s fun s =>
    let at_ := (s.rg a).toNat
    let img := (s.rg b).toNat
    let fail (n : Nat) : Res := .ok (s.landG d (BitVec.ofNat 64 n) 4)
    if at_ % 32 ≠ 0 ∨ isNear at_ = false then fail 1
    else match s.linesFault at_ 32 with
      | some k => .trap { cause := 10, detail := k, eval := BitVec.ofNat 64 at_ }
      | none =>
        let t := ofBytes (s.physRead at_ 32)
        let w0 := field t 0 128
        let w1 := field t 128 128
        let st := mintStatus w0 w1 img
        if st ≠ 0 then fail st
        else
          let x := s.mintTicket w0 w1
          let s := if img = 0 then s else s.engineWrite img (toBytes 64 x.toNat)
          .ok ((s.landWide (.tk tk) (x.setWidth 65536) 4).landG d 0 4)

/-! ## Ports and REVOKE PORT (R311, R317) -/

def execPortOpen (x y port vd : Nat) (s : State) : Host.Outcome State Fault Refusal :=
  let k := portKey x y port
  let e := s.portEntry k
  let advanced := match e.closed with
    | none => true
    | some l => (look vd l).getD 0 != (s.vd vd).tgen
  .next (if !e.isOpen && advanced then s.setPort k { e with gen := 0, ovd := vd, isOpen := true } else s)

def execPortClose (x y port : Nat) (s : State) : Host.Outcome State Fault Refusal :=
  let k := portKey x y port
  let e := s.portEntry k
  .next (if e.isOpen then s.setPort k { e with isOpen := false, closed := some (s.vds.map fun v => (v.1, v.2.tgen)) } else s)

/-- The LCY of the strand's first turn after an LCY, from the turn of its issue. -/
def turnAfter (t x : Nat) : Nat := turnAtOrAfter t (x + 1)

def execRevokePort (d a : GReg) (s : State) : Host.Outcome State Fault Refusal :=
  privWord 2 [.g a] [.g d] s fun s =>
    let w := s.rg a
    let x := bits w 0 5
    let y := bits w 5 5
    let port := bits w 10 6
    if bits w 16 48 ≠ 0 then .ok (s.landWait d (errorWord 1) 2)
    else
      let c := coreOf s.cur.sid
      let p := siteLatency (siteX c) (siteY c) x y
      let s := if d = 0 then s else s.promise (.g d) false
      let e := s.pkg.ency + 16 + p
      .ok ((s.modMe fun z => { z with wait := some (.port (portKey x y port) e d s.seqNo (turnAfter s.turn (s.turn + 16 + 2 * p))) }).owe
        none e prioBar (.portGenerationAdvance x y port))

/-- PORT_GENERATION_ADVANCE: the port is judged and advances; the strand that revokes it learns the outcome. -/
def execPortGenerationAdvance (x y port : Nat) (s : State) : Host.Outcome State Fault Refusal :=
  let k := portKey x y port
  .next (s.strands.foldl (fun s r => match r.2.wait with
    | some (.port key at_ d seq after_) =>
      if key ≠ k ∨ at_ ≠ s.pkg.ency then s
      else
        let e := s.portEntry k
        let (s, v) : State × Word :=
          if !e.isOpen then (s, errorWord 2)
          else if e.gen = 4095 then (s, errorWord 3)
          else (s.setPort k { e with gen := e.gen + 1 }, BitVec.ofNat 64 (e.gen + 1))
        let s := s.modStrand r.1 fun z => { z with wait := some (.until after_) }
        if d = 0 then s else s.deliver r.1 seq (.g d) (v.setWidth 65536) (BitVec.allOnes 65536) after_
    | _ => s) s)

/-! ## REVOKE KEY (R318) -/

/-- A word that reads a record of n bytes in near memory: a record whose lines fail their checks takes the integrity fault (R227). -/
def readRecord (s : State) (rec_ n : Nat) (k : State → Res) : Res :=
  match lineTrap true rec_ (s.linesFault rec_ n) with
  | some t => .trap t
  | none => k s

def execRevokeKey (d a b : GReg) (s : State) : Host.Outcome State Fault Refusal :=
  privWord 2 [.g a, .g b] [.g d] s fun s =>
    let bar := (s.rg a).toNat
    let rec_ := (s.rg b).toNat
    if bar < s.pkg.ency / 4096 + 2 ∨ rec_ % 16 ≠ 0 ∨ isNear rec_ = false then .ok (s.landWait d (errorWord 1) 2)
    else if s.pkg.advance.isSome then .ok (s.landWait d (errorWord 5) 2)
    else readRecord s rec_ 16 fun s =>
      let key := BitVec.ofNat 128 (ofBytes (s.physRead rec_ 16))
      let s := s.engineWrite rec_ (List.replicate 16 0)
      let s := if d = 0 then s else s.promise (.g d) false
      let s := s.modPkg fun k => { k with advance := some ⟨bar, key, s.cur.sid, d, s.seqNo, s.turn, none⟩ }
      let s := s.modMe fun x => { x with wait := some .event }
      .ok ((s.owe none (4096 * (bar - 1)) prioBar (.keyDigestCompare true)).owe none (4096 * bar) prioBar .routeKeyAdvance)

/-- KEY_DIGEST_COMPARE: at bar B − 1 the digests are compared; one that differs anywhere stands. -/
def execKeyDigestCompare (equal : Bool) (s : State) : Host.Outcome State Fault Refusal :=
  .next (match s.pkg.advance with
  | some a => if s.pkg.ency / 4096 + 1 = a.bar then
      s.modPkg fun k => { k with advance := some { a with digestOk := some (a.digestOk.getD true && equal) } } else s
  | none => s)

/-- ROUTE_KEY_ADVANCE: at bar line B the new key becomes current, unless the digests differed. -/
def execRouteKeyAdvance (s : State) : Host.Outcome State Fault Refusal :=
  .next (match s.pkg.advance with
  | some a =>
    if s.pkg.ency ≠ 4096 * a.bar then s
    else
      let ok := a.digestOk == some true
      let s := s.modPkg fun k =>
        if ok then { k with advance := none, kg := (k.kg + 1) % 16, keyPrev := k.keyCur, keyCur := a.key }
        else { k with advance := none }
      let due := s.nextTurn a.sid
      let due := if due = s.lcy a.sid then due + 16 else due
      if (s.strand a.sid).wait ≠ some .event then s
      else
        let s := s.modStrand a.sid fun z => { z with wait := some (.until due) }
        if a.d = 0 then s else
        s.deliver a.sid a.seq (.g a.d) ((if ok then 0 else errorWord 4).setWidth 65536) (BitVec.allOnes 65536) due
  | none => s)

/-! ## KEYSET (R234, R235) -/

/-- A VD holds frames or work. -/
def State.vdHolds (s : State) (v : Nat) : Bool := (s.frames.any fun e => e.2.assigned && e.2.owner == v) || s.vdBusy v

/-- Operands and the record's address are in order: status 0, 1 or 2. -/
def keysetCheck (badField : Bool) (rec_ : Nat) : Nat :=
  if badField then 1 else if rec_ % 64 ≠ 0 ∨ isNear rec_ = false then 2 else 0

/-- The record is cleared, so that the key is not left in memory. -/
def State.clearRecord (s : State) (rec_ : Nat) : State := s.engineWrite rec_ (List.replicate 64 0)

/-- The slot after KEYSET SET. -/
def KeySlot.set (k : KeySlot) (r : Nat) (salt : Nat) : KeySlot :=
  { k with
    key := BitVec.ofNat 256 (field r 0 256), txkey := BitVec.ofNat 256 (field r 256 256), valid := true
    txsalt := BitVec.ofNat 32 salt, txctr := 0, txwin := 0, inthold := false }

def execKeysetSet (d a b : GReg) (s : State) : Host.Outcome State Fault Refusal :=
  privWord 2 [.g a, .g b] [.g d] s fun s =>
    let w := s.rg a
    let kid := bits w 0 8
    let rec_ := (s.rg b).toNat
    let st := keysetCheck (bits w 8 24 != 0 || decide (kid ≥ 192)) rec_
    let st := if st = 0 ∧ s.vdHolds kid then 3 else st
    if st ≠ 0 then .ok (s.landWithin d (BitVec.ofNat 64 st) 65536)
    else readRecord s rec_ 64 fun s =>
      let r := ofBytes (s.physRead rec_ 64)
      let s := s.dropKid kid
      let s := (s.setKey kid ((s.key kid).set r (bits w 32 32))).clearRecord rec_
      .ok (s.landWithin d 0 65536)

/-- The frames of a relay window. -/
def windowHas (base pages f : Nat) : Bool := decide (base ≤ f) && decide (f < base + 2 * pages)

/-- The slot after KEYSET WIN. -/
def KeySlot.window (k : KeySlot) (r owner peer : Nat) : KeySlot :=
  { k with
    key := BitVec.ofNat 256 (field r 0 256), valid := true, txctr := 0, txwin := 0, inthold := false, owner := owner, peer := peer
    base := field r 256 40, pages := field r 296 24, mapbase := field r 320 40, pubgen := 1 }

/-- Zero lines written from a line number on. -/
def State.zeroLines (s : State) (la : Nat) : Nat → State
  | 0 => s
  | n + 1 => (s.engineWrite (64 * la) (List.replicate 64 0)).zeroLines (la + 1) n

def execKeysetWin (d a b : GReg) (s : State) : Host.Outcome State Fault Refusal :=
  privWord 2 [.g a, .g b] [.g d] s fun s =>
    let w := s.rg a
    let kid := bits w 0 8
    let owner := bits w 8 8
    let peer := bits w 16 8
    let rec_ := (s.rg b).toNat
    let st := keysetCheck (bits w 24 40 != 0 || decide (kid < 192) || decide (owner ≥ 192) || decide (peer ≥ 192)) rec_
    if st ≠ 0 then .ok (s.landWithin d (BitVec.ofNat 64 st) 65536)
    else readRecord s rec_ 64 fun s =>
    let r := ofBytes (s.physRead rec_ 64)
    let k := (s.key kid).window r owner peer
    let st := if field r 360 152 ≠ 0 then 1 else 0
    let inUse := (s.key kid).valid || (s.frames.any fun e => windowHas k.base k.pages e.1 &&
      (e.2.pins != 0 || e.2.migdst || (e.2.assigned && e.2.owner != kid))) ||
      s.keys.any fun e => decide (192 ≤ e.1) && e.1 != kid && e.2.valid && decide (k.base < e.2.base + 2 * e.2.pages) &&
        decide (e.2.base < k.base + 2 * k.pages)
    let st := if st = 0 ∧ inUse then 3 else st
    let badRange := k.pages == 0 || decide (k.pages > 262143) || !isNear (4096 * (k.base + 2 * k.pages) - 1) ||
      !isNear (64 * k.mapbase + 256 * k.pages - 1)
    let st := if st = 0 ∧ badRange then 4 else st
    if st ≠ 0 then .ok (s.landWithin d (BitVec.ofNat 64 st) 65536)
    else
      let s := ((s.dropKid kid).dropFrames k.base (2 * k.pages)).setKey kid k
      let s := (List.range (2 * k.pages)).foldl (fun (s : State) i => s.makeFresh (k.base + i)) s
      let s := s.zeroLines k.mapbase (4 * k.pages)
      .ok ((s.clearRecord rec_).landWithin d 0 65536)

def execKeysetErase (d a b : GReg) (s : State) : Host.Outcome State Fault Refusal :=
  privWord 2 [.g a, .g b] [.g d] s fun s =>
    let w := s.rg a
    let kid := bits w 0 8
    let rec_ := (s.rg b).toNat
    let st := keysetCheck (bits w 8 56 != 0) rec_
    let st := if st = 0 ∧ kid < 192 ∧ s.vdHolds kid then 3 else st
    if st ≠ 0 then .ok (s.landWithin d (BitVec.ofNat 64 st) 65536)
    else
      let s := s.dropKid kid
      let s := s.setKey kid { s.key kid with key := 0, txkey := 0, valid := false }
      .ok ((s.clearRecord rec_).landWithin d 0 65536)

/-! ## Frames (R231, R324) -/

/-- FRAME_ASSIGNMENT: every cached copy of the frame's lines leaves, and the frame-table entry is written. -/
def execFrameAssignment (frame owner : Nat) (assigned fresh : Bool) (s : State) : Host.Outcome State Fault Refusal :=
  let s := s.dropFrames frame 1
  .next (if isNear (4096 * frame) ∨ isFar (4096 * frame) then
    let s := if fresh then s.makeFresh frame else s
    s.setFrame frame { s.frame frame with owner := owner % 256, assigned := assigned, fresh := fresh } else s)

end Sys2Proof.Machine
end

