-- ==== Sys2Proof/Machine/Queue.lean ====
section
/-! DEFINITION. The launch queues (R251 to R253, R297, R298): descriptors, what holds a head back, and the reading of TAIL. -/
namespace Sys2Proof.Machine

/-! ## Descriptors (R252) -/

/-- A launch descriptor. -/
structure LaunchDesc where
  entry : Nat
  arg : Nat
  lid : Nat
  gid : Nat
  deps : List Nat
  k : Nat
  flags : Nat
  smask : Nat
  ncores : Nat
  cn : Nat
  vdx : Nat
  rest : Nat

def launchDesc (b : List Byte) : LaunchDesc :=
  { entry := blockField b 0 8, arg := blockField b 8 8, lid := blockField b 16 2, gid := blockField b 18 2
    deps := ((List.range 4).map fun i => blockField b (20 + 2 * i) 2).filter fun d => decide (d ≠ 65535)
    k := blockField b 28 1, flags := blockField b 29 1, smask := blockField b 30 2, ncores := blockField b 32 2
    cn := blockField b 34 1, vdx := blockField b 35 1, rest := blockField b 36 28 }

/-- The VD of a partition's list; 255 is none. -/
def State.vdOfX (s : State) (p x : Nat) : Nat := ((s.part p).vdlist.toList[x]?).getD 255

/-- R18: the strand slots of a mask hold the vector slots of K. -/
def maskHasK (k smask : Nat) : Bool := (vectorSlots k).all fun i => smask.testBit i

/-- R252, R297: a descriptor that breaks its field rules. -/
def State.descBad (s : State) (p : Nat) (d : LaunchDesc) : Bool :=
  d.entry % 8 != 0 || decide (d.k > 2) || d.flags % 2 == 1 || decide (d.flags ≥ 8) || !maskHasK d.k d.smask || d.ncores == 0 ||
  decide (d.ncores > (s.coresOfPart p).length) || decide (d.cn > 15) || decide (d.vdx > 7) || d.rest != 0

/-! ## Graphs and dependences (R22, R298, R343) -/

/-- What became of the launch that a dependence names. -/
inductive DepState
  | met | unmet | cancelled
  deriving DecidableEq

def Graph.dep (g : Graph) (lid : Nat) : DepState :=
  match g.launches.find? fun e => e.1 == lid with
  | some (_, true, _) => .met
  | some (_, _, true) => .cancelled
  | _ => .unmet

/-- The graph that a descriptor joins: the one of its identifier, or a new one once that graph's end has been counted. -/
def State.graphFor (s : State) (v gid : Nat) : Graph :=
  let g := (s.vd v).graph gid
  if g.counted then { gid := gid, phase := (s.vd v).phase } else g

/-- R22: no graph of an earlier phase is left. -/
def State.phaseOpen (s : State) (v : Nat) (g : Graph) : Bool :=
  (s.vd v).graphs.all fun h => decide (g.phase ≤ h.phase) || s.graphOver v h

/-! ## Queue heads -/

def State.launchQueue (s : State) (p q : Nat) : LaunchQueue := ((s.part p).queues.toList[q]?).getD {}

def State.modQueue (s : State) (p q : Nat) (f : LaunchQueue → LaunchQueue) : State :=
  s.modPart p fun r => { r with queues := Vector.ofFn fun i => if i.val = q then f r.queues[i] else r.queues[i] }

/-- The descriptor at the head of a queue, checked as a free read (R227), and whether its lines fail. -/
def State.headDesc (s : State) (p q : Nat) : Option (Nat × LaunchDesc × Option Nat) :=
  let k := s.launchQueue p q
  if k.qerr then none else
  match k.pending with
  | i :: _ => some (i, launchDesc (s.physRead (k.addr i) 64), s.linesFault (k.addr i) 64)
  | [] => none

/-- What is to be done with a head (R253). -/
inductive HeadFate
  | refuse | skip | place | wait
  deriving DecidableEq

/-- R253, R298: the fate of a head, placement apart. What stood in the queue when its VD was reset is marked, and skipped even when the VD
has left VDLIST (R241, R376); a later descriptor of such a VD is refused. -/
def State.headFate (s : State) (p q i : Nat) (d : LaunchDesc) (fault : Option Nat) : HeadFate :=
  let v := s.vdOfX p d.vdx
  if fault.isSome || s.descBad p d then .refuse
  else if (s.launchQueue p q).marked.contains i then .skip
  else if v = 255 ∨ (s.vd v).state = 2 then .refuse
  else
    let g := s.graphFor v d.gid
    let deps := d.deps.map g.dep
    if (s.vd v).state != 1 || deps.contains .cancelled then .skip
    else if deps.all (· == .met) && s.phaseOpen v g then .place
    else .wait

/-- R253: the head is done with; the copy of HEAD is written. -/
def State.advanceQueue (s : State) (p q : Nat) : State :=
  let k := s.launchQueue p q
  let head := (k.head + 1) % 4294967296
  let s := s.modQueue p q fun k => { k with head := head, since := none, marked := k.marked.filter fun m => decide (m ≠ k.head) }
  s.engineWrite (k.tailaddr + 4) (toBytes 4 head)

/-- A fault-queue entry of an engine. -/
def State.engineFault (s : State) (p cause eval lid : Nat) : State :=
  (s.postFault p none ⟨BitVec.ofNat 16 cause, lid, BitVec.ofNat 64 (2 ^ 16 * p), 0, BitVec.ofNat 64 eval, s.pkg.ency, 0⟩).1

/-- LAUNCH_QUEUE_POLL: the engine reads TAIL when HEAD has reached its last reading; a TAIL too far ahead stops the queue. -/
def execLaunchQueuePoll (part q : Nat) (s : State) : Host.Outcome State Fault Refusal :=
  let k := s.launchQueue part q
  .next (if k.log2n = 0 ∨ k.qerr then s
  else
    let s := if k.head ≠ k.tail then s
      else if (s.linesFault k.tailaddr 4).isSome then s.countIntegrity (some part)
      else
        let tail := ofBytes (s.physRead k.tailaddr 4)
        let s := if tail = k.tail then s else s.wakePart part
        let s := s.modQueue part q fun k => { k with tail := tail }
        if (tail + 4294967296 - k.head) % 4294967296 > 2 ^ k.log2n then
          (s.modQueue part q fun k => { k with qerr := true, tail := k.head }).engineFault part 19 q 0
        else s
    s.kickEngine part)

/-! ## Which core a launch fits (R296) -/

/-- R287, R364: whether a scored launch holds its cores: from its admission to its release, except while it is pre-empted and no
resumption is under way. -/
def Launch.holdsCores (L : Launch) : Bool := L.scored && (L.st != .preempted || L.resumeAt.isSome)

/-- R296.1: a core reserved by an admitted scored launch. -/
def State.reservedCore (s : State) (c : Nat) : Bool := s.launches.any fun e => e.2.holdsCores && e.2.cores.any fun k => k.1 == c

/-- R296.3: a core's configuration suits K, or none of its slots but one that is about to be given up is held. -/
def State.kFitsBut (s : State) (c k but : Nat) : Bool :=
  ((s.core c).k == k && !(s.core c).scored) || (List.range 16).all fun i => i == but || (s.strand (sidOf c i)).slot == .idle

def State.kFits (s : State) (c k : Nat) : Bool := s.kFitsBut c k 16

/-- R127: whether a head of a partition, of a queue whose priority is not lower, waits for a slot of a core that it could then take. -/
def State.slotWanted (s : State) (p prio core slot : Nat) : Bool :=
  (List.range 4).any fun q => decide (q ≤ prio) && match s.headDesc p q with
    | some (i, d, fault) => s.headFate p q i d fault == .place && s.scheduledIn (s.vdOfX p d.vdx) && d.smask.testBit slot &&
      !isCoach core && (s.core core).enabled && !s.reservedCore core && s.kFitsBut core d.k slot && decide (s.pkg.therm < 2) &&
      (s.part p).pstate == 0
    | none => false

end Sys2Proof.Machine
end

