-- ==== Sys2Proof/Machine/Context.lean ====
section
/-! DEFINITION. Pre-empting and resuming free strands (R33, R297, R365): YIELD (R127), the context block (R366), CTXSAVE (R367)
and CTXLOAD (R368). -/
namespace Sys2Proof.Machine

/-! ## The squash (R365) -/

/-- The oldest vector word of a strand that has not started: its sequence number and address. -/
def Strand.oldestUnstarted (x : Strand) : Option (Nat × Word) :=
  match x.vq with
  | .one e :: _ => some (e.seq, e.pc)
  | .block l :: _ => (l.words[l.pos]?).map fun e => (l.seq + l.rep * l.len + l.pos + 1, e.pc)
  | [] => none

/-- A vector load or store that is the only word in the lanes and has access cycles left: it may stop between two of them. -/
def State.stoppable (s : State) (sid : Nat) : Option (Nat × Access) :=
  match (s.strand sid).started with
  | [e] =>
    match s.accesses.filter fun a => a.2.sid == sid && a.2.vec && a.2.seq == e.seq with
    | [(id, a)] => if (a.kind == .load || a.kind == .store) && !a.cycles.isEmpty && e.loop.isNone then some (id, a) else none
    | _ => none
  | _ => none

/-- The strand goes back to a word that it will issue again. -/
def Strand.backTo (x : Strand) (seq : Nat) (pc : Word) : Strand :=
  { x.rollback seq with pc := pc, slot := .runnable, wait := none }

/-- A stopped vector memory word: what it has loaded lands, and VSTART names its first element not yet accessed. -/
def State.stopAccess (s : State) (sid id : Nat) (a : Access) : State :=
  let n := (a.cycles.flatten.map (·.idx)).foldl Nat.min 16383
  let x := (s.strand sid).backTo a.seq a.pc
  let x := match a.dst with
    | some (.v r) =>
      let b := blocksOf a.bytes a.msk
      let x := x.landOne ⟨a.seq, a.turn, .v r, some a.acc, a.msk, none, true⟩
      x.landOne ⟨a.seq, a.turn, .q (Fin.ofNat 4 (r.val / 8)), some ((b &&& ~~~a.bad).setWidth 65536), b.setWidth 65536, none, true⟩
    | _ => x
  (s.dropAccess id).setStrand sid { x with vstart := n }

/-- R210: a FENCE that waits is squashed, and issues again on resumption. -/
def Strand.squashFence (x : Strand) : Strand :=
  match x.wait with
  | some (.fence _ _ _ seq _) => x.backTo (unitSeq seq) x.prev
  | _ => x

/-- Steps 1 to 3 of R365 as far as they change the strand at once; what was translated ahead of its streams is discarded (R67). -/
def State.squash (s : State) (sid : Nat) : State :=
  let s := s.modStrand sid fun x => { x.squashFence with ahead := [] }
  match s.stoppable sid with
  | some (id, a) => s.stopAccess sid id a
  | none => match (s.strand sid).oldestUnstarted with
    | some (seq, pc) => s.modStrand sid fun x => x.backTo (unitSeq seq) pc
    | none => s

/-- A strand that may be pre-empted: a runnable, parked or halted one of a free launch that runs. Each of them holds its slot
(R296), and a slot that a scored launch or another VD takes must be free (R287, R373), so that the halted strand of a launch whose
other units go on gives it up too, and takes it again as halted (DEDUCED, notes/assumptions/61.md). -/
def State.preemptable (s : State) (sid : Nat) : Bool :=
  let x := s.strand sid
  !s.scored sid && inSlot sid && x.leaving.isNone && match x.slot, x.launch with
    | .runnable, some l => (s.launch l).st == .running
    | .halted, some l => (s.launch l).st == .running
    | .parked .boot, _ => false
    | .parked _, some l => (s.launch l).st == .running
    | _, _ => false

/-- A pre-emption begins: the strand issues nothing more. A strand that yields has no vector word outstanding but one of the
YIELD's own pair, which it carries through. -/
def State.requestPreempt (s : State) (sid : Nat) (w : Leave) : State :=
  let s := if w = .yield then s else s.squash sid
  (s.modStrand sid fun x => { x with leaving := some w }).now prioCount (.freePreempt sid)

/-! ## Saving (R366) -/

/-- R365: the vector words that the strand has started have landed, and nothing of it is on the way to its own scratchpad, which the
next strand of the core may find cleared (R188). Whatever else it has under way goes on while it is pre-empted (R33). -/
def State.settled (s : State) (sid : Nat) : Bool :=
  let x := s.strand sid
  x.vq.isEmpty && x.started.isEmpty &&
  !(s.accesses.any fun a => a.2.sid == sid && (a.2.vec || a.2.place == .spad (coreOf sid)))

/-- An item of the agenda that concerns a strand concerns it under its other number. -/
def Event.relabel (old new : Nat) : Event → Event
  | .land sid => .land (if sid = old then new else sid)
  | .atWake sid => .atWake (if sid = old then new else sid)
  | .cwaitWake sid => .cwaitWake (if sid = old then new else sid)
  | .erecvWake sid => .erecvWake (if sid = old then new else sid)
  | .vpullWake sid => .vpullWake (if sid = old then new else sid)
  | .dwaitWake sid => .dwaitWake (if sid = old then new else sid)
  | .drayQueueFullExpiry sid => .drayQueueFullExpiry (if sid = old then new else sid)
  | .unitCompletion sid => .unitCompletion (if sid = old then new else sid)
  | .effect e r => .effect e (if r.sid = old then { r with sid := new } else r)
  | e => e

/-- What a strand has under way stands under its other number: accesses, fabric operations, Harp rows, Dray and network commands,
a key advance, and what is owed to it. -/
def State.relabel (s : State) (old new : Nat) : State :=
  { s with
    agenda := s.agenda.map fun e => (e.1, e.2.relabel old new)
    accesses := s.accesses.map fun a => if a.2.sid = old then (a.1, { a.2 with sid := new }) else a
    ops := s.ops.map fun o => if o.2.sid = old then (o.1, { o.2 with sid := new }) else o
    runs := s.runs.map fun r => if r.2.sid = old then (r.1, { r.2 with sid := new }) else r
    harps := s.harps.map fun h : Nat × Harp => (h.1, { h.2 with group := h.2.group.map fun g =>
      if g.1 = old then (new, g.2) else g })
    pkg := { s.pkg with advance := s.pkg.advance.map fun k => if k.sid = old then { k with sid := new } else k }
    drays := s.drays.map fun d : Nat × Dray => (d.1, { d.2 with cmds := d.2.cmds.map fun c =>
      if c.sid = old then { c with sid := new } else c })
    qps := s.qps.map fun q : Nat × Qp => (q.1, { q.2 with send := q.2.send.map fun w =>
      if w.sid = old then { w with sid := new } else w }) }

/-- R66: bytes of a strand's context block. -/
def State.blockSize (s : State) (sid : Nat) : Nat := 4096 + if s.isVector sid then 128 * s.vlmax32 sid else 0

/-- Bytes that the spec leaves opaque: free values. -/
def State.freeBytes (s : State) : Nat → List Byte × State
  | 0 => ([], s)
  | n + 1 =>
    let (w, s) := s.freeWord
    let (l, s) := s.freeBytes n
    (toBytes 8 w.toNat ++ l, s)

/-- The block of a saved strand: the header of R366, its tag and the opaque rest. -/
def State.contextBlock (s : State) (e : Saved) (size : Nat) : List Byte × State :=
  let lid := (s.launch e.launch).lid
  let (tag, s) := s.freeWord
  let (rest, s) := s.freeBytes ((size - 64) / 8)
  (toBytes 2 lid ++ toBytes 2 e.unit ++ toBytes 1 e.vd ++ toBytes 1 (e.k + 16 * e.slot) ++ toBytes 2 (size / 1024) ++
    toBytes 8 tag.toNat ++ List.replicate 48 0 ++ rest, s)

/-- A launch whose strands have all left their slots stands still: its LCY is frozen. -/
def State.freezeIfGone (s : State) (l : Nat) : State :=
  let L := s.launch l
  if L.st = .running ∧ L.scored = false ∧
      (s.strands.any fun e => e.2.launch == some l && inSlot e.1 && e.2.slot != .idle && e.2.slot != .halted) = false ∧
      (s.strands.any fun e => e.2.launch == some l && !inSlot e.1) = true then
    s.setLaunch l { L with st := .preempted } else s

/-- The strand is saved and its slot free (R20). After a YIELD the launch queues, which made it leave, are served in this cycle, and
the pre-empted strands, which R297 puts first for a slot that has become free, one cycle later: the spec does not say how the
yielding strand is kept from taking its slot straight back (DESIGN CHOICE, notes/assumptions/62.md). -/
def State.saveStrand (s : State) (sid : Nat) (w : Leave) : State :=
  let x := s.strand sid
  let l := x.launch.getD 0
  let (n, s) := s.fresh
  let ghost := ghostOf n sid
  let e : Saved := { state := x.slot, launch := l, part := (s.launch l).part, vd := (s.launch l).vd, slot := slotOf sid
                     k := (s.core (coreOf sid)).k, unit := x.unit, core := coreOf sid, yielded := decide (w = .yield), ghost := ghost
                     cmds := (s.core (coreOf sid)).harpq.filter fun q => q.sid == sid }
  let size := s.blockSize sid
  let s := s.modCore (coreOf sid) fun k => { k with harpq := k.harpq.filter fun q => decide (q.sid ≠ sid) }
  let s := ((s.relabel sid ghost).idle sid).setStrand ghost { x with slot := .preempted, leaving := none }
  let s := match w with
    | .ctxsave addr _ =>
      let (bs, s) := s.contextBlock e size
      let s := s.linesWrite addr bs (size / 64)
      { s with saved := bind addr { e with image := bs } s.saved }
    | _ => { s with hwSaved := s.hwSaved ++ [e] }
  let s := s.freezeIfGone l
  match w, (s.launch l).part with
  | .yield, some p => (s.kickEngine p).after 1 prioCancel (.slotFreed sid)
  | _, _ => s.now prioCancel (.slotFreed sid)

/-- FREE_PREEMPT: the scheduler's request (R33), and then the end of the squash, when the strand is saved. -/
def execFreePreempt (sid : Nat) (s : State) : Host.Outcome State Fault Refusal :=
  .next (match (s.strand sid).leaving with
  | none => if s.preemptable sid then s.requestPreempt sid .scheduler else s
  | some w => if s.settled sid then s.saveStrand sid w else s.after 1 prioCount (.freePreempt sid))

/-! ## Resuming (R297, R365) -/

/-- The wakes of a restored strand, which may have come while it was pre-empted, and the completion of a unit that had halted. -/
def State.reowe (s : State) (sid : Nat) : State :=
  let x := s.strand sid
  let k := some (s.clockOf sid)
  let s := match x.slot with
    | .halted => s.now prioCount (.unitCompletion sid)
    | .parked (.atLcy t) => s.owe k t prioWake (.atWake sid)
    | .parked (.cwait _ _ _ x _ _) =>
      let s := s.now prioCwait (.cwaitWake sid)
      (match x with | some t => s.owe k t prioCwait (.cwaitWake sid) | none => s)
    | .parked (.erecv _ t _ _ _) => (s.now prioWake (.erecvWake sid)).owe k t prioWake (.erecvWake sid)
    | .parked (.vpull _ _ t _ _) => (s.now prioWake (.vpullWake sid)).owe k t prioWake (.vpullWake sid)
    | _ => s
  match x.wait with
  | some (.dwait _ t _ _ _) => (s.now prioWake (.dwaitWake sid)).owe k t prioWake (.dwaitWake sid)
  | _ => s

/-- A saved strand takes a slot again, in the state that it left, or runnable for a trap that it has pending (R365); a core without
work takes the strand's configuration. Its squashed Harp commands issue again. -/
def State.restoreStrand (s : State) (sid : Nat) (e : Saved) : State :=
  let c := coreOf sid
  let s := (s.takeVd c e.vd).modCore c fun k => { k with
    k := e.k, scored := false
    harpq := k.harpq ++ e.cmds.map fun q => { q with sid := sid, core := c, start := s.pkg.ency + 32 } }
  let s := if e.cmds.isEmpty then s else s.after 32 prioHarp (.harpCommandStart c)
  let s := e.cmds.foldl (fun s q => if q.paired then s.after 1048576 prioWake (.hmmsPairingTimeout q.id) else s) s
  let x := s.strand e.ghost
  let s := s.setStrand sid { x with slot := if x.pendingTrap.isSome then .runnable else e.state }
  let s := State.relabel { s with strands := tput {} e.ghost {} s.strands } e.ghost sid
  let s := s.modLaunch e.launch fun L => if L.st = .preempted then { L with st := .running } else L
  s.reowe sid

/-- R297: a strand pre-empted by the hardware whose slot is free again. -/
def State.canResume (s : State) (e : Saved) : Bool :=
  let sid := sidOf e.core e.slot
  (s.strand sid).slot == .idle && s.drained sid && !s.reservedCore e.core && s.kFits e.core e.k &&
  !(s.core e.core).scored && s.scheduledIn e.vd && ((s.launch e.launch).st == .running || (s.launch e.launch).st == .preempted) &&
  decide (s.pkg.therm < 2) && (s.core e.core).enabled && (match s.partOf e.core with | some p => (s.part p).pstate == 0 | none => false)

/-- The strands that can resume do so, in the order in which they were pre-empted. -/
def State.resumeSaved (s : State) : State :=
  s.hwSaved.foldl (fun s e => if s.canResume e then
    (State.restoreStrand { s with hwSaved := s.hwSaved.filter fun k => decide (k.ghost ≠ e.ghost) } (sidOf e.core e.slot) e)
    else s) s

/-! ## YIELD (R127) -/

def execYield (s : State) : Host.Outcome State Fault Refusal :=
  finish s (word s { outward := true } fun s =>
    let sid := s.cur.sid
    if s.scored sid ∨ s.me.priv ≥ 1 then .ok s
    else match s.me.launch.bind fun l => (s.launch l).part.map fun p => (p, (s.launch l).prio) with
      | some (p, prio) => if s.slotWanted p prio (coreOf sid) (slotOf sid) then .ok (s.requestPreempt sid .yield) else .ok s
      | none => .ok s)

/-! ## CTXSAVE and CTXLOAD (R367, R368) -/

/-- The operand's block address and target slot. -/
def ctxAddr (w : Word) : Nat := w.toNat / 4096 * 4096
def ctxSlot (w : Word) : Nat := bits w 0 4

/-- A bad operand, or a block outside the memory of the issuing strand's partition. -/
def State.ctxBad (s : State) (w : Word) (size : Nat) : Bool :=
  bits w 4 8 != 0 || !(List.range (ceilDiv size 4096)).all fun i =>
    let a := ctxAddr w + 4096 * i
    isNear a && (s.frame (a / 4096)).assigned && s.holdsVdOf (s.strandPart s.cur.sid) (s.frame (a / 4096)).owner

def execCtxsave (d a : GReg) (s : State) : Host.Outcome State Fault Refusal :=
  privWord 1 [.g a] [.g d] s fun s =>
    let w := s.rg a
    let sid := s.cur.sid
    let target := sidOf (coreOf sid) (ctxSlot w)
    let x := s.strand target
    if s.ctxBad w (s.blockSize target) then .ok (s.landWait d 1 2)
    else if target = sid ∨ s.preemptable target = false ∨ x.slot = .halted ∨ x.inh = true ∨ s.strandPart target ≠ s.strandPart sid then
      .ok (s.landWait d 2 2)
    else
      let addr := ctxAddr w
      let s := if d = 0 then s else s.promise (.g d) false
      let s := { s with saved := unbind addr s.saved }
      let s := s.modMe fun y => { y with wait := some (.ctxsave target addr d s.seqNo s.turn) }
      .ok (s.requestPreempt target (.ctxsave addr sid))

/-- Whether memory at an address holds a block as CTXSAVE wrote it. -/
def State.blockAt (s : State) (addr : Nat) (e : Saved) : Bool :=
  !e.image.isEmpty && s.physRead addr e.image.length == e.image

/-- The status of a CTXLOAD, and the saved strand that it loads. -/
def State.ctxloadCheck (s : State) (w : Word) : Nat × Option (Nat × Saved) :=
  let sid := s.cur.sid
  let target := sidOf (coreOf sid) (ctxSlot w)
  let addr := ctxAddr w
  if s.ctxBad w 4096 || (s.linesFault addr 4096).isSome then (1, none)
  else
    let b5 := (s.physRead (addr + 5) 1).headD 0
    if (s.strand target).slot ≠ .idle ∨ s.drained target = false ∨ bits b5 4 4 ≠ ctxSlot w ∨
        s.kFits (coreOf sid) (bits b5 0 2) = false ∨ s.reservedCore (coreOf sid) = true then (2, none)
    else match s.saved.find? fun e => s.blockAt addr e.2 with
      | none => (3, none)
      | some e =>
        let L := s.launch e.2.launch
        if (L.st ≠ .running ∧ L.st ≠ .preempted) ∨ (L.units.any fun u => u.1 == e.2.unit && u.2 == .active) = false then (4, none)
        else if e.2.part ≠ s.strandPart sid then (5, none)
        else (0, some e)

def execCtxload (d a : GReg) (s : State) : Host.Outcome State Fault Refusal :=
  privWord 1 [.g a] [.g d] s fun s =>
    let w := s.rg a
    match s.ctxloadCheck w with
    | (_, some (key, e)) =>
      let s := { s with saved := unbind key s.saved }
      let s := s.engineWrite (ctxAddr w + 8) (List.replicate 8 0)
      .ok ((s.restoreStrand (sidOf (coreOf s.cur.sid) (ctxSlot w)) e).landWithin d 0 16384)
    | (st, none) =>
      let s := if st = 1 ∧ s.ctxBad w 4096 = false then s.countRead (s.strandVd s.cur.sid) (ctxAddr w) 4096 else s
      .ok (s.landWait d (BitVec.ofNat 64 st) 2)

end Sys2Proof.Machine
end

