-- ==== Sys2Proof/Machine/Sched.lean ====
section
/-! DEFINITION. The launch engine: placement of free launches (R63, R65, R188, R296, R297), the taking of launches from the queues
(R253), and the completion of units and launches (R22, R340). -/
namespace Sys2Proof.Machine

/-! ## New strands (R65) -/

/-- TVECDEF of a partition (R372). -/
def State.tvecDef (s : State) (p : Nat) : Word :=
  if (s.part p).ctlpage = 0 then 0 else BitVec.ofNat 64 (s.memNat ((s.part p).ctlpage + 0x28) 8 / 8 * 8)

/-- The unit number of a slot (R65). -/
def State.unitOf (s : State) (sid : Nat) : Nat := 16 * (s.core (coreOf sid)).logical + slotOf sid

/-- The strand of a slot at the start of its launch. -/
def State.newStrand (s : State) (sid l : Nat) (entry arg : Word) (f : Fetch) (tvec : Word) : Strand :=
  let u := s.unitOf sid
  { slot := .runnable, pc := entry + BitVec.ofNat 64 (8 * slotOf sid)
    g := ((Vector.replicate 32 (0 : Word)).set 1 (BitVec.ofNat 64 u)).set 2 arg
    tvec := tvec, fetch := f, launch := some l, unit := u }

/-! ## Placement (R296, R297) -/

/-- R296.2: a strand slot is held: in use, still draining, kept for a strand that the scheduler pre-empted, or reserved for the
supervisor. -/
def State.slotHeld (s : State) (sid : Nat) : Bool :=
  (s.strand sid).slot != .idle || !s.drained sid || s.isReserved sid ||
  s.hwSaved.any fun e => !e.yielded && sidOf e.core e.slot == sid

/-- R296: a core that fits a descriptor. -/
def State.fits (s : State) (d : LaunchDesc) (c : Nat) : Bool :=
  !s.reservedCore c && ((slotsOf d.smask).all fun i => !s.slotHeld (sidOf c i)) && s.kFits c d.k

/-- The cores on which a descriptor can be placed now: those of lowest logical number, if enough of them fit. -/
def State.coresFor (s : State) (p : Nat) (d : LaunchDesc) : Option (List Nat) :=
  let cs := (s.coresOfPart p).filter (s.fits d)
  if !s.scheduledIn (s.vdOfX p d.vdx) || decide (s.pkg.therm ≥ 2) || (s.part p).pstate != 0 || decide (cs.length < d.ncores) then none else some (cs.take d.ncores)

/-- A free launch takes its cores. Its strands issue once the placement has taken effect, and scratchpads are clear; launches of one
queue start in queue order (R35), each in a later turn than the one before. -/
def State.place (s : State) (p q : Nat) (d : LaunchDesc) (cs : List Nat) : State :=
  let v := s.vdOfX p d.vdx
  let (w, s) := s.duration 0 4096
  let clear := cs.any fun c => (s.core c).lastVd != some v || (s.core c).clearing.isSome
  let (id, s) := s.fresh
  let l := launchKey id
  let sids := cs.flatMap fun c => (slotsOf d.smask).map (sidOf c)
  let s := cs.foldl (fun s c => (s.takeVd c v).modCore c fun k => { k with k := d.k, scored := false }) s
  let tvec := s.tvecDef p
  let s := sids.foldl (fun s sid =>
    s.setStrand sid (s.newStrand sid l (BitVec.ofNat 64 d.entry) (BitVec.ofNat 64 d.arg) .virt tvec)) s
  let s := s.setGraph v ((s.graphFor v d.gid).record d.lid false false)
  let start := 16 * ceilDiv (Nat.max (s.pkg.ency + w + if clear then 4096 else 0) ((s.launchQueue p q).lastStart + 1)) 16
  let s := s.modQueue p q fun k => { k with lastStart := start }
  s.setLaunch l {
    st := .running, lid := d.lid, gid := d.gid, part := some p, vd := v, k := d.k, entry := BitVec.ofNat 64 d.entry
    arg := BitVec.ofNat 64 d.arg, cn := d.cn, flags := d.flags, cores := cs.map fun c => (c, d.smask)
    units := sids.map fun sid => (s.unitOf sid, .active), prio := q
    start := start }

/-- A descriptor that is never placed is recorded as cancelled. -/
def State.recordSkipped (s : State) (p : Nat) (d : LaunchDesc) : State :=
  let v := s.vdOfX p d.vdx
  if v = 255 then s
  else ((s.setGraph v (s.graphFor v d.gid)).countCanc v d.cn 1 1).recordLaunch v d.gid d.lid d.cn d.flags false

/-- What the engine does with the head of a queue. -/
inductive Served
  /-- The head is done with. -/
  | moved (s : State)
  /-- It stays, or there is none. -/
  | stays (s : State)
  /-- It stays, and has waited so long for cores that queues of lower priority stop (R297). -/
  | starves

/-- The engine looks at the head of one queue (R253). A descriptor that fails its checks is counted (R227). -/
def State.serveHead (s : State) (p q : Nat) : Served :=
  match s.headDesc p q with
  | none => .stays s
  | some (i, d, fault) =>
    match s.headFate p q i d fault with
    | .refuse =>
      let s := if fault.isSome then s.countIntegrity (some p) else s
      .moved (((s.advanceQueue p q).engineFault p 18 i d.lid).recordSkipped p d)
    | .skip => .moved ((s.advanceQueue p q).recordSkipped p d)
    | .wait => .stays s
    | .place =>
      match s.coresFor p d with
      | some cs => .moved ((s.advanceQueue p q).place p q d cs)
      | none =>
        match (s.launchQueue p q).since with
        | some t => if t + 1048576 ≤ s.pkg.ency then .starves else .stays s
        | none => .stays (s.modQueue p q fun k => { k with since := some s.pkg.ency })

/-- One pass over some queues in priority order, one head of each (R253); answers whether any head was done with. -/
def State.servePass (p : Nat) : List Nat → State → State × Bool
  | [], s => (s, false)
  | q :: rest, s =>
    match s.serveHead p q with
    | .moved s => ((State.servePass p rest s).1, true)
    | .stays s => State.servePass p rest s
    | .starves => (s, false)

/-- Passes, as long as they take something. -/
def State.servePasses (p : Nat) : Nat → State → State
  | 0, s => s
  | n + 1, s =>
    match State.servePass p [0, 1, 2, 3] s with
    | (s, true) => State.servePasses p n s
    | (s, false) => s

/-- LAUNCH_ENGINE_TAKE: the queues in priority order. -/
def execLaunchEngineTake (part : Nat) (s : State) : Host.Outcome State Fault Refusal :=
  .next (State.servePasses part (((List.range 4).map fun q => (s.launchQueue part q).pending.length).sum + 1) s)

/-- SLOT_FREED: strands that were pre-empted resume first, then the queues are served (R297). -/
def execSlotFreed (sid : Nat) (s : State) : Host.Outcome State Fault Refusal :=
  let s := s.resumeSaved
  .next (match s.partOf (coreOf sid) with
  | some p => s.kickEngine p
  | none => s)

/-! ## Completion (R22, R340) -/

/-- Whether a strand has halted: in its slot, or when it was pre-empted. -/
def State.hasHalted (s : State) (sid : Nat) : Bool :=
  (s.strand sid).slot == .halted || s.hwSaved.any fun e => e.ghost == sid && e.state == .halted

/-- UNIT_COMPLETION: a halted strand's unit completes once everything it issued has completed or been discarded. -/
def execUnitCompletion (sid : Nat) (s : State) : Host.Outcome State Fault Refusal :=
  let x := s.strand sid
  .next (match s.hasHalted sid, x.launch with
  | true, some l =>
    let L := s.launch l
    if L.units.any fun u => u.1 == x.unit && u.2 == .active then
      if s.drained sid then
        let s := s.setLaunch l { L with units := setUnit x.unit .complete L.units }
        (s.countDone L.vd L.cn 0 1).launchComplete l
      else s.after 1 prioCount (.unitCompletion sid)
    else s
  | _, _ => s)

/-- COMPLETION_NOTICE: a launch of several packages is counted on this one. -/
def execCompletionNotice (launch : Nat) (s : State) : Host.Outcome State Fault Refusal :=
  let L := s.launch launch
  .next (if !L.scored ∨ L.npkg ≤ 1 ∨ L.st = .done ∨ L.st = .admitted ∨ L.checks ≠ 0 ∨ (L.units.any fun u => u.2.live) = true then s
  else (((s.setLaunch launch { L with st := .done }).countLaunch launch).zeroSlots launch).owe none (barLineAt s.pkg.ency) prioRelease
    (.scoredLaunchRelease launch))

end Sys2Proof.Machine
end

