-- ==== Sys2Proof/Machine/Tablature.lean ====
section
/-! DEFINITION. The Tablature (R279 to R285) and ADMIT (R286, R287). -/
namespace Sys2Proof.Machine

/-! ## Layout (R279 to R285) -/

/-- The header of a Tablature; a section is its offset and count. -/
structure TabHeader where
  version : Nat
  tlen : Nat
  ekey : Word
  startbar : Nat
  nb : Nat
  npkg : Nat
  k : Nat
  part : Nat
  vdx : Nat
  cn : Nat
  entry : Nat
  arg : Word
  cores : Nat × Nat
  slots : Nat × Nat
  wheels : Nat × Nat
  drays : Nat × Nat
  recvs : Nat × Nat
  regions : Nat × Nat
  /-- The bits that must be zero are. -/
  zeros : Bool

def tabHeader (b : List Byte) : TabHeader :=
  let sec (i : Nat) : Nat × Nat := (blockField b i 4, blockField b (i + 4) 2)
  { version := blockField b 0 4, tlen := blockField b 4 4, ekey := BitVec.ofNat 64 (blockField b 8 8)
    startbar := blockField b 16 8, nb := blockField b 24 2
    npkg := if blockField b 26 1 = 0 then 256 else blockField b 26 1
    k := blockField b 27 1, part := blockField b 28 1, vdx := blockField b 29 1, cn := blockField b 30 1
    entry := blockField b 32 8, arg := BitVec.ofNat 64 (blockField b 40 8)
    cores := sec 48, slots := sec 56, wheels := sec 64, drays := sec 72, recvs := sec 80, regions := sec 88
    zeros := blockField b 31 1 == 0 && blockField b 96 32 == 0 &&
      ([48, 56, 64, 72, 80, 88] : List Nat).all fun i => blockField b (i + 6) 2 == 0 }

/-- A core entry: logical core, slot mask, cue offset and cue count. -/
structure TabCore where
  logical : Nat
  smask : Nat
  cueOff : Nat
  cueCount : Nat
  cues : List (BitVec 32)
  zeros : Bool

/-- The entries of a section, n bytes each. -/
def State.tabBlocks (s : State) (tab : Nat) (sec : Nat × Nat) (n : Nat) : List (List Byte) :=
  (List.range sec.2).map fun i => s.physRead (tab + sec.1 + n * i) n

/-- A section lies in the Tablature, at a multiple of 64. -/
def TabHeader.holds (h : TabHeader) (sec : Nat × Nat) (n : Nat) : Bool := sec.1 % 64 == 0 && decide (sec.1 + n * sec.2 ≤ h.tlen)

def State.tabCores (s : State) (tab : Nat) (h : TabHeader) : List TabCore :=
  (s.tabBlocks tab h.cores 16).map fun b =>
    let off := blockField b 4 4
    let n := Nat.min (blockField b 8 2) 4096
    { logical := blockField b 0 2, smask := blockField b 2 2, cueOff := off, cueCount := blockField b 8 2
      cues := (List.range n).map fun i => BitVec.ofNat 32 (ofBytes (s.physRead (tab + off + 4 * i) 4))
      zeros := blockField b 10 6 == 0 }

/-- A cue entry within its field rules (R280). -/
def cueOk (nb : Nat) (c : BitVec 32) : Bool := bits c 28 3 == 0 && decide (bits c 12 16 < nb)

/-- R281: a path code of the five kinds, with no other bit set. -/
def pathOk (c : Nat) : Bool :=
  match c / 2 ^ 28 with
  | 0 => decide (c < 2 ^ 12)
  | 1 => decide (c % 2 ^ 28 < 32)
  | 2 => decide (c % 2 ^ 28 < 1024)
  | 3 => decide (c % 2 ^ 28 < 8)
  | 4 => decide (c % 2 ^ 28 < 16)
  | _ => false

def slotRes (b : List Byte) : SlotRes := ⟨blockField b 0 4, blockField b 4 2, blockField b 6 2, blockField b 8 4⟩
def slotResOk (b : List Byte) : Bool :=
  let r := slotRes b
  pathOk r.path && decide (r.off ≤ 4095) && decide (1 ≤ r.count) && decide (r.off + r.count ≤ 4096) && blockField b 12 4 == 0

/-- R282: a wheel entry: its crew and interval; TILES of 0 gives every tile. -/
def wheelEntry (l : Nat) (b : List Byte) : Nat × WheelSlot :=
  let t := blockField b 10 2
  (blockField b 0 2, ⟨l, blockField b 2 2, blockField b 4 2, blockField b 6 2, blockField b 8 1, if t = 0 then 65535 else t⟩)
def wheelEntryOk (b : List Byte) : Bool :=
  let (crew, w) := wheelEntry 0 b
  decide (crew < 120) && decide (w.off ≤ 4095) && decide (1 ≤ w.len) && decide (w.off + w.len ≤ 4096) && decide (w.pos ≤ 7) &&
  blockField b 9 1 == 0 && blockField b 12 4 == 0

/-- R283: a timed Dray entry; its core stands as a logical number until it is admitted. -/
def drayEntry (b : List Byte) : TimedDray :=
  { block := b.take 64, bar := blockField b 64 2, dray := blockField b 66 1, fn := blockField b 67 1, core := blockField b 68 2 }
def drayEntryOk (b : List Byte) : Bool := decide (blockField b 66 1 < 48) && (b.drop 70).all (· == 0)

/-- R284: a receive entry: logical core, slot, delivery LCY and RECV's LCY. -/
def recvEntry (b : List Byte) : Nat × Nat × Nat × Nat := (blockField b 0 2, blockField b 2 1, blockField b 8 4, blockField b 12 4)
def recvEntryOk (b : List Byte) : Bool := decide (blockField b 2 1 < 64) && blockField b 3 5 == 0

/-- R285: a region entry, its frames not yet known. -/
def regionEntry (b : List Byte) : Region := ⟨blockField b 0 8, blockField b 8 8, blockField b 16 1 == 1, []⟩
def regionEntryOk (b : List Byte) : Bool :=
  blockField b 0 8 % 4096 == 0 && blockField b 8 8 % 4096 == 0 && decide (blockField b 16 1 ≤ 1) && (b.drop 17).all (· == 0)

/-- What ADMIT reads of a Tablature. -/
structure Tablature where
  h : TabHeader
  cores : List TabCore
  slots : List SlotRes
  wheels : List (Nat × WheelSlot)
  drays : List TimedDray
  recvs : List (Nat × Nat × Nat × Nat)
  regions : List Region

/-! ## Status 1: MALFORMED -/

/-- R227: what the lines of a Tablature fail with: its header's, then those of its length. -/
def State.tabFault (s : State) (tab : Nat) : Option Nat :=
  (s.linesFault tab 128).orElse fun _ => s.linesFault tab (Nat.min (tabHeader (s.physRead tab 128)).tlen 16777216)

/-- The Tablature as far as its layout is in order. -/
def State.readTab (s : State) (tab : Nat) : Option Tablature :=
  if tab % 4096 ≠ 0 ∨ isNear (tab + 127) = false ∨ (s.tabFault tab).isSome then none
  else
    let h := tabHeader (s.physRead tab 128)
    if h.version ≠ 1 ∨ !h.zeros ∨ h.tlen < 128 ∨ h.tlen > 16777216 ∨ isNear (tab + h.tlen - 1) = false ∨ h.nb = 0 ∨ h.k > 2 ∨ h.vdx > 7 ∨ h.cn > 15 ∨ h.entry % 8 ≠ 0 ∨
        h.cores.2 = 0 ∨ h.cores.2 > 960 ∨ h.drays.2 > 4096 ∨ h.regions.2 > 64 ∨
        (h.holds h.cores 16 && h.holds h.slots 16 && h.holds h.wheels 16 && h.holds h.drays 128 && h.holds h.recvs 16 &&
          h.holds h.regions 32) = false then none
    else
      let slots := s.tabBlocks tab h.slots 16
      let wheels := s.tabBlocks tab h.wheels 16
      let drays := s.tabBlocks tab h.drays 128
      let recvs := s.tabBlocks tab h.recvs 16
      let regions := s.tabBlocks tab h.regions 32
      let cores := s.tabCores tab h
      let coreOk (c : TabCore) : Bool :=
        c.zeros && maskHasK h.k c.smask && decide (c.cueCount ≤ 4096) && decide (c.cueOff + 4 * c.cueCount ≤ h.tlen) &&
        c.cues.all (cueOk h.nb)
      let code := (regions.map regionEntry).filter (·.code)
      if cores.all coreOk && decide ((cores.map (·.logical)).eraseDups.length = cores.length) && slots.all slotResOk &&
          wheels.all wheelEntryOk && drays.all drayEntryOk && recvs.all recvEntryOk && regions.all regionEntryOk &&
          decide (code.length ≤ 1) && code.any fun r => decide (r.vbase ≤ h.entry) && decide (h.entry < r.vbase + r.len) then
        some ⟨h, cores, slots.map slotRes, wheels.map (wheelEntry 0), drays.map drayEntry, recvs.map recvEntry,
          regions.map regionEntry⟩
      else none

/-- R286, R376: the partition is the strand's own, and the VD one of it that is active. -/
def State.tabOwner (s : State) (t : Tablature) : Bool :=
  decide (t.h.part < 48) && (decide (s.me.priv ≥ 2) || s.strandPart s.cur.sid == some t.h.part) &&
  (s.vd (s.vdOfX t.h.part t.h.vdx)).state == 1

/-! ## Statuses 2 to 9 -/

/-- The scored launches that are admitted on the package and not yet released. -/
def State.admitted (s : State) : List Launch := (s.launches.filter fun e => e.2.scored).map (·.2)

/-- The cores of a Tablature, as physical cores with their slot masks. -/
def State.tabPhys (s : State) (t : Tablature) : List (Nat × Nat) :=
  t.cores.filterMap fun c => (s.physOf c.logical).map fun p => (p, c.smask)

/-- Whether free strands of a launch with another K are in slots of a mask of a core. -/
def State.otherK (s : State) (k c smask : Nat) : Bool :=
  (slotsOf smask).any fun i =>
    let x := s.strand (sidOf c i)
    x.slot != .idle && !s.scored (sidOf c i) && match x.launch with | some l => (s.launch l).k != k | none => false

/-- R286: another scored launch holds one of the slots of a mask of a core. -/
def State.scoredSlots (s : State) (c smask : Nat) : Bool :=
  s.launches.any fun e => e.2.holdsCores && e.2.cores.any fun k => k.1 == c && k.2 &&& smask != 0

def State.coresBad (s : State) (t : Tablature) : Bool :=
  decide (s.pkg.therm ≥ 2) || decide ((s.tabPhys t).length < t.cores.length) || (s.tabPhys t).any fun e =>
    s.partOf e.1 != some t.h.part || (s.part t.h.part).spare.getLsbD e.1 || s.scoredSlots e.1 e.2 || s.otherK t.h.k e.1 e.2 ||
    (s.reservedSids t.h.part).any fun r => coreOf r == e.1

/-- Whether [a, a + n) and [b, b + m) meet. -/
def meets (a n b m : Nat) : Bool := decide (a < b + m) && decide (b < a + n)

/-- R371: an offset of a path within the partition's slot share. -/
def State.inShare (s : State) (p path off : Nat) : Bool :=
  (List.range (s.part p).slotcnt).any fun i =>
    let b := s.physRead ((s.part p).slottab + 16 * i) 16
    blockField b 0 4 == path && decide (blockField b 4 2 ≤ off) && decide (off < blockField b 4 2 + blockField b 6 2)

/-- No two entries of a list are in conflict. -/
def pairwise {α : Type} (f : α → α → Bool) : List α → Bool
  | [] => true
  | a :: l => l.all (fun b => !f a b) && pairwise f l

def State.slotsBad (s : State) (t : Tablature) : Bool :=
  (t.slots.any fun r => (List.range r.count).any fun i => !s.inShare t.h.part r.path (r.off + i)) ||
  !pairwise (fun a b => a.path == b.path && a.bar == b.bar && meets a.off a.count b.off b.count) t.slots ||
  s.admitted.any fun l => l.slots.any fun a => t.slots.any fun b => a.path == b.path && meets a.off a.count b.off b.count

def State.wheelsBad (s : State) (t : Tablature) : Bool :=
  (t.wheels.any fun e => !(s.part t.h.part).crews.getLsbD e.1 || !((s.tabPhys t).any fun c => c.1 == 8 * e.1 + e.2.pos)) ||
  !pairwise (fun a b => a.1 == b.1 && a.2.bar == b.2.bar && meets a.2.off a.2.len b.2.off b.2.len) t.wheels ||
  s.admitted.any fun l => l.wheels.any fun a => t.wheels.any fun b => a.1 == b.1 && meets a.2.off a.2.len b.2.off b.2.len

/-- The frames of a region, every page mapped to memory of the VD. -/
def State.regionFrames (s : State) (v : Nat) (r : Region) : Option (List Nat) :=
  if r.vbase + r.len > 2 ^ 57 then none
  else (List.range (r.len / 4096)).foldl (fun (l : Option (List Nat)) i => l.bind fun l =>
    let va := r.vbase + 4096 * i
    match (walkFrom v va 962 5 (s.vd v).troot s).2 with
    | .ok e =>
      let f := e.pa va / 4096
      if (isNear (4096 * f) || isFar (4096 * f)) && (s.frame f).assigned && (s.frame f).owner == v && !(s.frame f).migdst && !e.split
        then some (l ++ [f]) else none
    | .error _ => none) (some [])

/-- The regions with their frames, where every page is mapped. -/
def State.regionsAt (s : State) (v : Nat) (t : Tablature) : Option (List Region) :=
  t.regions.foldl (fun (l : Option (List Region)) r => l.bind fun l =>
    (s.regionFrames v r).map fun fs => l ++ [{ r with frames := fs }]) (some [])

/-- R227: what the lines of a code region fail with. -/
def State.codeFault (s : State) (rs : List Region) : Option Nat :=
  (rs.flatMap fun r => if r.code then r.frames else []).findSome? fun f => s.linesFault (4096 * f) 4096

/-- The regions with their frames, where status 5 finds nothing; a code region's lines pass their checks. -/
def State.regionsOf (s : State) (v : Nat) (t : Tablature) : Option (List Region) :=
  (s.regionsAt v t).bind fun rs =>
    let fs := (rs.flatMap (·.frames)).eraseDups
    if (rs.any fun r => r.code && decide (r.len > 65536)) || (s.codeFault rs).isSome ||
        (List.range 12).any fun p => decide ((fs.filter fun f => portOf f == p).length > 4096) then none
    else some rs

/-- R273: n bytes of a space of a timed command lie in a scratchpad of the launch, or in its regions. -/
def timedPlace (cores : List (Nat × Nat)) (rs : List Region) (core space a n : Nat) : Bool :=
  if space = 2 then (List.range ((a + n - 1) / 4096 - a / 4096 + 1)).all fun i =>
    rs.any fun r => decide (r.vbase ≤ 4096 * (a / 4096 + i)) && decide (4096 * (a / 4096 + i) < r.vbase + r.len)
  else if space = 3 then false
  else
    let c := if space = 1 then 48 * clusterOf core + a / 4194304 else core
    let win := a / 524288 % 8
    (if space = 1 then decide (a / 4194304 < 48) else decide (a < 4194304)) && cores.any (fun e => e.1 == c) &&
    (win == 0 || win == 7) && decide (a % 524288 + n ≤ 524288)

/-- The bytes of a timed command's source and destination; a gather's source is its first element. -/
def drayPlaced (cores : List (Nat × Nat)) (rs : List Region) (core : Nat) (c : DrayCmd) : Bool :=
  let n := if c.fn = 1 then c.count * 2 ^ c.esz else c.len
  (c.fn == 5 || timedPlace cores rs core c.srcSpace c.src (if c.fn = 1 then 2 ^ c.esz else n)) &&
  timedPlace cores rs core c.dstSpace c.dst n && (c.fn != 1 || decide (c.aux + 4 * c.count ≤ 524288))

/-- Two runs of cycles that meet modulo a bar. -/
def meetsMod (a n b m : Nat) : Bool :=
  n != 0 && m != 0 && (decide (n ≥ 4096) || decide (m ≥ 4096) || decide ((b % 4096 + 4096 - a % 4096) % 4096 < n) ||
    decide ((a % 4096 + 4096 - b % 4096) % 4096 < m))

/-- R10, R190: the site of the memory port that serves a frame. -/
def frameSite (f : Nat) : Nat × Nat := if portOf f < 8 then nearSite (portOf f) else farSite (4 * (portOf f - 8))

/-- The sites at which a timed command reads or writes n bytes of a space. -/
def timedSites (rs : List Region) (core space a n : Nat) : List (Nat × Nat) :=
  if space = 2 then
    (List.range ((a + n - 1) / 4096 - a / 4096 + 1)).filterMap fun i =>
      let va := 4096 * (a / 4096 + i)
      (rs.find? fun r => decide (r.vbase ≤ va) && decide (va < r.vbase + r.len)).bind fun r =>
        (r.frames[(va - r.vbase) / 4096]?).map frameSite
  else
    let c := if space = 1 then 48 * clusterOf core + a / 4194304 else core
    [(siteX c, siteY c)]

/-- R13, R273, R286: the fixed latency of a timed command's path: its longest way to the Dray and on, and what the Dray and the ends add. -/
def fixedLatency (rs : List Region) (core dray : Nat) (c : DrayCmd) : Nat :=
  let d := draySite dray
  let n := if c.fn = 1 then c.count * 2 ^ c.esz else c.len
  let far (l : List (Nat × Nat)) : Nat := (l.map fun e => siteLatency e.1 e.2 d.1 d.2).foldl Nat.max 0
  Config.drayLatency c.srcSpace c.dstSpace + far (timedSites rs core c.dstSpace c.dst n) +
    if c.fn = 5 then 0 else far (timedSites rs core c.srcSpace c.src (if c.fn = 1 then 2 ^ c.esz else n))

def TimedDray.first (e : TimedDray) : Nat := 4096 * e.bar + (cmdOf e.fn e.block).start
def TimedDray.units (e : TimedDray) : Nat := (cmdOf e.fn e.block).units

def State.draysBad (s : State) (t : Tablature) (rs : List Region) : Bool :=
  let cores := s.tabPhys t
  (t.drays.any fun e =>
    let c := cmdOf e.fn e.block
    !(e.fn == 0 || e.fn == 1 || e.fn == 5) || blockBad true e.fn e.block || !(s.part t.h.part).drays.getLsbD e.dray ||
    match s.physOf e.core with
    | none => true
    | some k => !(cores.any fun x => x.1 == k) || !drayPlaced cores rs k c ||
        decide (c.dlat < fixedLatency rs k e.dray c)) ||
  !pairwise (fun a b => a.dray == b.dray && meets a.first a.units b.first b.units) t.drays ||
  s.admitted.any fun l => l.drays.any fun a => t.drays.any fun b => a.dray == b.dray && meetsMod a.first a.units b.first b.units

def recvsBad (t : Tablature) : Bool :=
  (t.recvs.any fun r => decide (r.2.2.2 < r.2.2.1)) ||
  !pairwise (fun a b => a.1 == b.1 && a.2.1 == b.2.1 && decide (a.2.2.1 ≤ b.2.2.2) && decide (b.2.2.1 ≤ a.2.2.2)) t.recvs

/-- ADMIT's checks in their order: the status of the first that fails, or what is admitted, with its regions. -/
def State.admitCheck (s : State) (tab startbar : Nat) : Nat × Option (Tablature × List Region) :=
  match s.readTab tab with
  | none => (1, none)
  | some t =>
    let t := if startbar = 0 then t else { t with h := { t.h with startbar := startbar } }
    if !s.tabOwner t then (1, none)
    else if s.coresBad t then (2, none)
    else if s.slotsBad t then (3, none)
    else if s.wheelsBad t then (4, none)
    else match s.regionsOf (s.vdOfX t.h.part t.h.vdx) t with
      | none => (5, none)
      | some rs =>
        if s.draysBad t rs then (6, none)
        else if recvsBad t then (7, none)
        else if t.h.startbar ≤ s.pkg.ency / 4096 + 1 ∨ !s.pkg.locked then (9, none)
        else (0, some (t, rs))

/-! ## What an ADMIT does (R287) -/

/-- A frame is pinned: a fresh one initialised, and no copy of its lines left in a cache. -/
def State.pinFrame (s : State) (f : Nat) : State :=
  let s := s.freshen f
  let s := (List.range 32).foldl (fun s i => s.mcFlush (32 * f + i) true) s
  let s := s.l1DropAll fun l => l.line / 32 == f
  s.setFrame f { s.frame f with pins := (s.frame f).pins + 1 }

/-- The bytes of a region. -/
def State.regionBytes (s : State) (r : Region) : List Byte := r.frames.flatMap fun f => s.physRead (4096 * f) 4096

/-- R287 step 4: OWN of a tile that the launch's wheel entries of the crew give. -/
def ownGiven (ws : List (Nat × WheelSlot)) (crew t : Nat) : Option (BitVec 8) :=
  let ps := ((ws.filter fun e => e.1 == crew && e.2.tiles.testBit t).map fun e => e.2.pos).eraseDups
  if ps.isEmpty then none else some (BitVec.ofNat 8 (ps.map fun p => 2 ^ p).sum)

def State.giveTiles (s : State) (l : Nat) (ws : List (Nat × WheelSlot)) : State :=
  ((ws.map (·.1)).eraseDups).foldl (fun s crew => (List.range 16).foldl (fun s t =>
    match ownGiven ws crew t with
    | some own =>
      let old := (s.tile crew t).own
      (s.modTile crew t fun x => { x with own := own }).modHarp crew fun h => { h with saved := h.saved ++ [(l, t, old)] }
    | none => s) s) s

/-- R282: at a bar line the WHEEL of every crew holds the intervals of its launches' current bar and of the next. -/
def Launch.wheelNow (L : Launch) (crew : Nat) : List WheelSlot :=
  let b := L.lcy.getD 0 / 4096
  (L.wheels.filter fun e => e.1 == crew && (e.2.bar == b || e.2.bar == b + 1)).map (·.2)

def State.loadWheels (s : State) : State :=
  let held := s.launches.filter fun e => e.2.scored
  let crews := (held.flatMap fun e => e.2.wheels.map (·.1)).eraseDups
  crews.foldl (fun s c => s.modHarp c fun h => { h with wheel := held.flatMap fun e => e.2.wheelNow c }) s

/-- The free strands in the slots of a mask of a core are pre-empted (R33). -/
def State.clearSlots (s : State) (c smask : Nat) : State :=
  (slotsOf smask).foldl (fun s i => if s.preemptable (sidOf c i) then s.requestPreempt (sidOf c i) .scheduler else s) s

/-- The free strands of a core are pre-empted. -/
def State.clearCore (s : State) (c : Nat) : State := s.clearSlots c 65535

/-- The lowest launch identifier that no scored launch has. -/
def State.freeLid (s : State) : Nat := ((List.range 65536).find? fun n => !(s.admitted.any fun l => l.lid == n)).getD 0

/-- The launch is admitted: its number, its identifier and the machine. -/
def State.admitLaunch (s : State) (tab : Nat) (t : Tablature) (rs : List Region) : Nat × State :=
  let lid := s.freeLid
  let v := s.vdOfX t.h.part t.h.vdx
  let cores := s.tabPhys t
  let (id, s) := s.fresh
  let l := launchKey id
  let ws := t.wheels.map fun e => (e.1, { e.2 with launch := l })
  let s := (rs.flatMap (·.frames)).foldl State.pinFrame s
  let buf := match rs.find? (·.code) with | some r => (r.vbase, s.regionBytes r) | none => (0, [])
  let s := t.cores.foldl (fun s e => match s.physOf e.logical with
    | some c => s.modCore c fun k => { k with
        ibuf := k.ibuf ++ [(l, buf)], cues := k.cues ++ [(l, e.cues.zipIdx.foldl (fun m x => tput 0 x.2 x.1 m) [])] }
    | none => s) s
  let drays := t.drays.map fun e => { e with core := (s.physOf e.core).getD e.core }
  let s := s.setLaunch l {
    st := .admitted, scored := true, lid := lid, gid := 65535, part := some t.h.part, vd := v, k := t.h.k
    entry := BitVec.ofNat 64 t.h.entry, arg := t.h.arg, cn := t.h.cn, cores := cores, nb := t.h.nb, npkg := t.h.npkg
    ekey := t.h.ekey, startbar := t.h.startbar, tab := tab, regions := rs, slots := t.slots, wheels := ws, drays := drays
    recvs := t.recvs, reported := t.h.npkg == 1 }
  let s := (s.giveTiles l ws).loadWheels
  let s := drays.zipIdx.foldl (fun s e => s.owe (some l) e.1.first rankDray (.timedDrayStart l e.2)) s
  let s := cores.foldl (fun s c => s.clearSlots c.1 c.2) s
  let s := (s.tellTime l (.admitted s.pkg.endlat)).owe none (4096 * (t.h.startbar - 1)) prioStart (.scoredLaunchStart l false)
  (lid, (s.modPkg fun k => { k with nadm := k.nadm + 1 }).owe none (4096 * t.h.startbar) prioStart (.scoredLaunchStart l false))

/-- R227: the integrity failure that a refused ADMIT met in reading is counted. -/
def State.countAdmit (s : State) (tab st : Nat) : State :=
  let v := s.strandVd s.cur.sid
  let fault := if tab % 4096 ≠ 0 ∨ isNear (tab + 127) = false then none
    else if st = 1 then s.tabFault tab
    else if st = 5 then (s.readTab tab).bind fun t => (s.regionsAt (s.vdOfX t.h.part t.h.vdx) t).bind s.codeFault
    else none
  match fault with
  | some d => s.chargeLine v d
  | none => s

/-- ADMIT. -/
def execAdmitTab (d a b : GReg) (s : State) : Host.Outcome State Fault Refusal :=
  privWord 1 [.g a, .g b] [.g d] s fun s =>
    let tab := (s.rg a).toNat
    match s.admitCheck tab (s.rg b).toNat with
    | (_, some (t, rs)) =>
      let (lid, s) := s.admitLaunch tab t rs
      .ok (s.landWithin d (BitVec.ofNat 64 (65536 * lid)) 4194304)
    | (st, none) => .ok ((s.countAdmit tab st).landWithin d (BitVec.ofNat 64 st) 4194304)

end Sys2Proof.Machine
end

