-- ==== Sys2Proof/Machine/Scored.lean ====
section
/-! DEFINITION. Scored launches after their admission: start and lapse (R289, R290), endings (R294, R359, R360), release (R289),
pre-emption and resumption (R361 to R364, R407). -/
namespace Sys2Proof.Machine

/-! ## Release and lapse (R289) -/

/-- Another scored launch runs on a core. -/
def State.scoredElse (s : State) (l c : Nat) : Bool :=
  s.launches.any fun e => decide (e.1 ≠ l) && e.2.scored && e.2.lcy.isSome && e.2.st != .preempted && e.2.st != .done &&
    e.2.cores.any fun k => k.1 == c

/-- A core without what it holds for a scored launch: its receive slots (R242), cue table, code region and Harp commands. -/
def Core.without (k : Core) (l : Nat) (scored : Bool) : Core :=
  { k with
    scored := scored, recv := [], cues := unbind l k.cues, ibuf := unbind l k.ibuf
    harpq := k.harpq.filter fun q => decide (q.launch ≠ some l) }

/-- The pins, wheel intervals, OWN settings, cores and slots of a launch are released, and it leaves the table of launches. -/
def State.release (s : State) (l : Nat) : State :=
  let L := s.launch l
  let s := (L.regions.flatMap (·.frames)).foldl (fun s f => s.setFrame f { s.frame f with pins := (s.frame f).pins - 1 }) s
  let s := s.harps.foldl (fun s h =>
    let s := (h.2.saved.filter fun e => e.1 == l).foldl (fun s e => s.modTile h.1 e.2.1 fun x => { x with own := e.2.2 }) s
    s.modHarp h.1 fun h => { h with
      saved := h.saved.filter fun e => decide (e.1 ≠ l), wheel := h.wheel.filter fun w => decide (w.launch ≠ l) }) s
  let s := if L.st = .preempted then s else L.cores.foldl (fun s c => s.modCore c.1 fun k =>
    k.without l (s.scoredElse l c.1)) s
  (s.modPkg fun k => { k with nadm := k.nadm - 1 }).retire l

/-- SCORED_LAUNCH_RELEASE: at its final bar line a launch that is over gives up what it held. -/
def execScoredLaunchRelease (launch : Nat) (s : State) : Host.Outcome State Fault Refusal :=
  .next (if (s.launch launch).scored ∧ (s.launch launch).st = .done then s.release launch else s)

/-- An entry of the fault queue for a scored launch (R247, R360): STRANDID names it as scored. -/
def State.postScored (s : State) (L : Launch) (ecause : BitVec 16) (core slot : Nat) (epc eval : Word) (ency : Nat) : State :=
  let p := L.part.getD 0
  (s.postFault p (some L.vd) {
    ecause := ecause, launch := L.lid
    strandid := BitVec.ofNat 64 (core + 2 ^ 12 * slot + 2 ^ 16 * p + 2 ^ 24 * L.vd + 2 ^ 32)
    epc := epc, eval := eval, ency := ency, tgen := (s.vd L.vd).tgen }).1

/-- A launch lapses: recorded as cancelled, posted, and released. -/
def State.lapse (s : State) (l : Nat) : State :=
  let L := s.launch l
  let s := if L.st = .preempted then s else s.setLaunch l { L with st := .done }
  ((s.recordCancelled l).postScored L 20 0 0 0 (BitVec.ofNat 64 L.lid) s.pkg.ency).release l

/-! ## Start (R290) -/

/-- R378, R380: the cores of a launch are still enabled and its partition's. -/
def State.coresReady (s : State) (L : Launch) : Bool := L.cores.all fun c => (s.core c.1).enabled && s.partOf c.1 == L.part

/-- A free strand that has not left its slot is saved at once; what it has under way goes on (R33). -/
def State.forceOut (s : State) (sid : Nat) : State :=
  let s := if s.preemptable sid then s.requestPreempt sid .scheduler else s
  match (s.strand sid).leaving with
  | some w => s.saveStrand sid w
  | none => s

/-- R24, R33, R188: a core is made ready for a scored launch of a VD: no free strand stays on it, and its scratchpad is cleared where another
VD was placed last. -/
def State.readyCore (s : State) (v c : Nat) : State := (((List.range 16).map (sidOf c)).foldl State.forceOut s).takeVd c v

/-- Strands whose issue cycle is the present cycle issue in it. -/
def State.issueNow (s : State) (sids : List Nat) : State :=
  { s with toIssue := s.toIssue ++ sids.filter fun k => k % 16 == s.pkg.ency % 16 && !s.toIssue.contains k }

/-- Every strand slot of the launch becomes runnable, at LCY 0. -/
def State.startScoredLaunch (s : State) (l : Nat) : State :=
  let L := s.launch l
  let s := L.cores.foldl (fun s c => (s.readyCore L.vd c.1).modCore c.1 fun k => { k with k := L.k, scored := true, recv := [] }) s
  let s := s.modPart (L.part.getD 0) fun r => { r with pstate := 0, idleSince := none }
  let tvec := s.tvecDef (L.part.getD 0)
  let s := L.sids.foldl (fun s sid => s.setStrand sid (s.newStrand sid l L.entry L.arg .buffer tvec)) s
  let s := s.setLaunch l { L with st := .running, lcy := some 0, units := L.sids.map fun sid => (s.unitOf sid, .active) }
  ((s.owe (some l) (4096 * L.nb) prioEnd (.overrun l)).issueNow L.sids).loadWheels

/-- A pre-emption is asked for, at an LCY: it takes effect at the first bar line after ENDLAT. -/
def State.askPreemptAt (s : State) (l lcy : Nat) : State :=
  let L := s.launch l
  if (L.st = .running ∨ L.st = .ending) ∧ L.preAt = none then
    let line := s.endLine l lcy
    (s.setLaunch l { L with preAt := some line }).owe (some l) line prioEnd (.scoredPreempt l)
  else s

/-- A pre-emption that this package asks for; the launch's other packages are told (R361). -/
def State.askPreempt (s : State) (l : Nat) : State := (s.tellTime l (.preempt (s.lcyL l))).askPreemptAt l (s.lcyL l)

/-- SCORED_LAUNCH_START: at its start bar line a launch admitted everywhere in time starts, and is pre-empted where the package is at
thermal level 2 (R390); one whose core has been retired lapses (log 90). The reports of the other packages come by the bar line before it,
where a launch without them lapses (log 48), and where its cores are made ready. -/
def execScoredLaunchStart (launch : Nat) (allReported : Bool) (s : State) : Host.Outcome State Fault Refusal :=
  let L := s.launch launch
  .next (if L.scored = false ∨ L.st ≠ .admitted then s
  else if s.pkg.ency < 4096 * L.startbar then
    (if s.pkg.ency > 4096 * (L.startbar - 1) then s
    else if allReported then s.setLaunch launch { L with reported := true }
    else if s.pkg.ency ≠ 4096 * (L.startbar - 1) then s
    else if L.reported then L.cores.foldl (fun s c => s.readyCore L.vd c.1) s
    else s.lapse launch)
  else if s.pkg.restbar = some (s.pkg.ency / 4096) then
    s.owe none (barLineAt (s.pkg.ency + 1)) prioStart (.scoredLaunchStart launch allReported)
  else if (L.reported ∨ allReported) ∧ s.coresReady L ∧ s.pkg.locked then
    let s := s.startScoredLaunch launch
    (if s.pkg.therm ≥ 2 then (s.modLaunch launch fun L => { L with thermal := true }).askPreempt launch else s)
  else s.lapse launch)

/-! ## What is completed when a launch stops (R360) -/

/-- The reads of a timed send's flits that are still to come. -/
def State.readFlits (s : State) (l : Nat) : State :=
  s.accesses.foldl (fun s e => match e.2.kind with
    | .flit _ => if (s.strand e.2.sid).launch = some l then (s.doElems e.2 e.2.cycles.flatten).1 else s
    | _ => s) s

/-- A started timed send completes: its later flits reach the spill area, or it leaves the package. Its slot is lost. -/
def State.finishSend (s : State) (id : Nat) (p : Packet) : State :=
  match p.req with
  | .timed _ spill len =>
    let data (f : Nat) : List Byte := match s.op p.op with | some o => o.flit f len | none => []
    let spillAt (s : State) (c f : Nat) : State := if f = 0 then s else s.spadWrite c (64 * spill + 64 * (f - 1)) (data f)
    if p.passed then
      match siteCore p.x p.y with
      | some c => s.agenda.foldl (fun s e => match e.2 with
        | .timedDelivery k f => if k = id then spillAt s c f else s
        | _ => s) s
      | none => s
    else match s.routeEnd (tkWord p.ticket 0) 33 p.hop p.x p.y with
      | .site x y => (match s.siteCheck { p with x := x, y := y } with
        | some (some c) => (List.range (ceilDiv len 64)).foldl (fun s f => spillAt s c f) s
        | _ => s)
      | .port n => { s with linkOut := s.linkOut ++ [(n, p)] }
      | .nowhere => s
  | _ => s

/-- Started timed Dray units complete. -/
def State.finishDrays (s : State) (l : Nat) : State :=
  (s.launch l).drays.foldl (fun s e =>
    let c := cmdOf e.fn e.block
    let done := s.lcyL l - (e.first + c.dlat)
    (e.held.filter fun u => decide (done ≤ u.1)).foldl (fun s u =>
      let (_, _, a) := s.timedUnit e.core c u.1
      if c.dstSpace ≤ 1 then
        s.spadWrite (if c.dstSpace = 1 then 48 * clusterOf e.core + a / 4194304 else e.core) (a % 524288) u.2
      else match (s.launch l).timedAddr a with
        | some pa => s.physWrite pa u.2 (s.launch l).part false
        | none => s) s) s

/-- All rows that an operation has still to touch. -/
def State.finishRun (id : Nat) : Nat → State → State
  | 0, s => s
  | n + 1, s => match look id s.runs with
    | some r => State.finishRun id n (s.touchRow id r)
    | none => s

/-- Started Harp touches complete, operation by operation in issue order. -/
def State.finishHarp (s : State) (l : Nat) : State :=
  let mine (r : HarpRun) : Bool := (s.strand r.sid).launch == some l && r.cs.isSome && r.touch.isWriter
  let ids := ((s.runs.filter fun r => mine r.2).map (·.1)).foldl (fun acc n => insertNat n acc) []
  ids.foldl (fun s id => State.finishRun id 128 s) s

/-- What a launch has in flight leaves the machine. -/
def State.dropWork (s : State) (l : Nat) : State :=
  let mine (sid : Nat) : Bool := (s.strand sid).launch == some l
  let s := { s with
    accesses := s.accesses.filter fun e => !mine e.2.sid
    ops := s.ops.filter fun o => !mine o.2.sid
    runs := s.runs.filter fun r => !mine r.2.sid
    packets := s.packets.filter fun p => decide (p.2.launch ≠ some l) }
  { s with snaps := s.snaps.filter fun p => s.runs.any fun r => match r.2.touch with | .add _ n _ _ => n == p.1 | _ => false }

/-- Every strand stops, started sends, units and touches complete, and the rest of what is in flight is dropped. -/
def State.stopAll (s : State) (l : Nat) : State :=
  let s := s.readFlits l
  let s := s.packets.foldl (fun s p => if p.2.launch = some l ∧ p.2.timed ∧ p.2.lead = none then s.finishSend p.1 p.2 else s) s
  let s := ((s.finishDrays l).finishHarp l).dropWork l
  let sids := (s.strands.filter fun e => e.2.launch == some l).map (·.1)
  sids.foldl State.idle s

/-! ## Endings (R294, R359, R360) -/

/-- The units that have not completed are recorded as stopped. -/
def State.stopUnits (s : State) (l : Nat) : State :=
  let L := s.launch l
  let n := (L.units.filter fun u => u.2.live).length
  let s := s.setLaunch l { L with st := .done, units := L.units.map fun u => if u.2.live then (u.1, .cancelled) else u }
  if n = 0 then s else s.countCanc L.vd L.cn 0 n

/-- A launch ends at its bar line, or is cancelled at it. -/
def State.endScored (s : State) (l : Nat) (cancelled : Bool) : State :=
  let L := s.launch l
  let gone := L.st == .preempted
  let s := if gone then { s with images := s.images.filter fun e => decide (e.1 ≠ l) } else s.stopAll l
  let s := (s.stopUnits l).recordCancelled l
  let s := if gone then s.modLaunch l fun L => { L with st := .preempted } else s
  let s := match cancelled, L.first with
    | false, some (_, core, slot, t, epc) =>
      let s := (s.postScored L t.ecause core slot epc t.eval L.firstAt).postIrq L.vd 2
      if t.cause = 15 ∧ t.detail = 8 then s.postIrq L.vd 6 else s
    | _, _ => s
  s.release l

/-- SCORED_LAUNCH_END: at its ending bar line, or the bar line of its cancellation. -/
def execScoredLaunchEnd (launch : Nat) (s : State) : Host.Outcome State Fault Refusal :=
  let L := s.launch launch
  let come (t : Option Nat) : Bool := match t with | some x => decide (x ≤ s.lcyL launch) | none => false
  .next (match L.st with
  | .running | .ending | .preempting =>
    if come L.endAt then s.endScored launch false else if come L.cancelAt then s.endScored launch true else s
  | .preempted => if L.cancelAt.isSome then s.endScored launch true else s
  | _ => s)

/-- OVERRUN: at LCY 4096 × NB a unit that has not halted is charged, and the launch ends at that bar line. -/
def execOverrun (launch : Nat) (s : State) : Host.Outcome State Fault Refusal :=
  let L := s.launch launch
  let f := 4096 * L.nb
  if L.scored = false ∨ s.lcyL launch < f then .next s
  else
    let late := L.sids.filter fun sid =>
      (s.strand sid).launch == some launch && (s.strand sid).slot != .halted && (s.strand sid).slot != .idle
    let s := late.foldl (fun s sid => s.endingEvent launch f (s.core (coreOf sid)).logical (slotOf sid)
      { cause := 15, detail := 7, eval := BitVec.ofNat 64 f } (s.strand sid).prev) s
    .next (if late.isEmpty then s
    else (s.modLaunch launch fun L => { L with endAt := some (match L.endAt with | some x => Nat.min x f | none => f) }).owe
      (some launch) f prioEnd (.scoredLaunchEnd launch))

/-- ENDING_NOTICE: another package's ending event. A notice names no strand of this package. -/
def execEndingNotice (launch lcy detail : Nat) (s : State) : Host.Outcome State Fault Refusal :=
  .next (if (s.launch launch).scored then
    s.endingAt launch (Nat.max lcy (s.lcyL launch - Nat.max s.pkg.endlat (s.launch launch).endlat)) 0 0
      { cause := 15, detail := detail, eval := BitVec.ofNat 64 lcy } 0
  else s)

/-! ## Pre-emption (R361 to R363) -/

/-- The scored launch of a partition with an identifier. -/
def State.scoredNamed (s : State) (p lid : Nat) : Option Nat :=
  (s.launches.find? fun e => e.2.scored && e.2.part == some p && e.2.lid == lid && e.2.st != .done).map (·.1)

/-- PREQ: the hardware takes the request and clears VALID. -/
def execPreq (part : Nat) (s : State) : Host.Outcome State Fault Refusal :=
  let a := (s.part part).ctlpage + 0x140
  let w := if (s.part part).ctlpage = 0 then 0 else s.memNat a 8
  .next (if w.testBit 16 then
    let s := s.engineWrite (a + 2) (toBytes 1 (field w 16 8 - 1))
    (match s.scoredNamed part (w % 65536) with
    | some l => s.askPreempt l
    | none => s)
  else s)

/-- The crews of a launch, and its tiles of a crew: those that one of its cores may command. -/
def Launch.crews (L : Launch) : List Nat := (L.cores.map fun c => crewOf c.1).eraseDups
def State.launchTiles (s : State) (L : Launch) (crew : Nat) : List Nat :=
  (List.range 16).filter fun t => L.cores.any fun c => crewOf c.1 == crew && s.ownsTile c.1 t

/-- Bytes of a core image and of a crew image (R363). -/
def coreImage : Nat := 1048576
def crewImage : Nat := 2112 * 1024

/-- The images of a launch as it stands, to be kept from an address on. -/
def State.takeImage (s : State) (l addr : Nat) : Image :=
  let L := s.launch l
  let mine (sid : Nat) : Bool := (s.strand sid).launch == some l
  { strands := s.strands.filter fun e => e.2.launch == some l
    cores := L.cores.map fun c => (c.1, s.core c.1)
    spads := s.spad.filter fun e => L.cores.any fun c => c.1 == e.1 / 524288
    harps := L.crews.map fun w => (w, { s.harp w with tiles := (s.harp w).tiles.filter fun t => (s.launchTiles L w).contains t.1 })
    accesses := s.accesses.filter fun e => mine e.2.sid
    runs := s.runs.filter fun r => mine r.2.sid
    ops := s.ops.filter fun o => mine o.2.sid
    packets := s.packets.filter fun p => p.2.launch == some l
    snaps := s.snaps, addr := addr, size := coreImage * L.cores.length + crewImage * L.crews.length }

/-- R363: where the next images of a partition stand in its save area. -/
def State.saveAt (s : State) (p : Nat) : Nat :=
  let mine := s.images.filter fun e => (s.launch e.1).part == some p
  mine.foldl (fun a e => Nat.max a (e.2.addr + e.2.size)) (s.part p).savearea

/-- The save: the images are written, the launch leaves its cores and its LCY stands still. -/
def State.saveLaunch (s : State) (l : Nat) : State :=
  let L := s.launch l
  let addr := s.saveAt (L.part.getD 0)
  let img := s.takeImage l addr
  let (bs, s) := s.freeBytes (img.size / 8)
  let s := (s.linesWrite addr bs (img.size / 64 + 1)).dropWork l
  let sids := img.strands.map (·.1)
  let s := sids.foldl State.idle s
  let s := L.cores.foldl (fun s c => s.modCore c.1 fun k => { k.without l (s.scoredElse l c.1) with csrPend := [] }) s
  let s := { s.setLaunch l { L with st := .preempted, frozen := false, preAt := none } with images := s.images ++ [(l, img)] }
  let s := if L.thermal then s.postIrq L.vd 6 else s
  sids.foldl (fun s sid => s.now prioCancel (.slotFreed sid)) s

/-- SCORED_PREEMPT: at the bar line the launch is saved, once the checks of its reads are complete. A launch that completes or ends
at or before it is not. -/
def execScoredPreempt (launch : Nat) (s : State) : Host.Outcome State Fault Refusal :=
  let L := s.launch launch
  let come (t : Option Nat) : Bool := match t with | some x => decide (x ≤ s.lcyL launch) | none => false
  .next (if (L.st ≠ .running ∧ L.st ≠ .ending) ∨ come L.preAt = false then s
  else if come L.endAt then
    State.endScored (s.setLaunch launch { L with frozen := false }) launch false
  else if come L.cancelAt then
    State.endScored (s.setLaunch launch { L with frozen := false }) launch true
  else if L.checks ≠ 0 then (s.setLaunch launch { L with frozen := true }).after 1 prioEnd (.scoredPreempt launch)
  else s.saveLaunch launch)

/-! ## Resumption (R364) -/

/-- A resumption at a bar: the cores are reserved again, and the free strands in the launch's slots are pre-empted. -/
def State.askResume (s : State) (l bar : Nat) : State :=
  let L := s.launch l
  if L.st = .preempted ∧ L.resumeAt = none ∧ L.cancelAt = none then
    let s := s.setLaunch l { L with resumeAt := some bar }
    let s := L.cores.foldl (fun s c => s.clearSlots c.1 c.2) s
    s.owe none (4096 * bar) prioStart (.scoredResume l)
  else s

/-- RREQ: the launch resumes at the bar line named, on every package alike. -/
def execRreq (part : Nat) (s : State) : Host.Outcome State Fault Refusal :=
  let w := if (s.part part).ctlpage = 0 then 0 else s.memNat ((s.part part).ctlpage + 0x148) 8
  let now := s.pkg.ency / 4096
  let bar := if field w 16 48 ≤ now + 1 then now + 2 else field w 16 48
  .next (match s.scoredNamed part (w % 65536) with
  | some l => (s.tellTime l (.resume bar)).askResume l bar
  | none => s)

/-- The images are reloaded, and everything captured goes on at its LCY. -/
def State.restoreLaunch (s : State) (l : Nat) (img : Image) : State :=
  let L := s.launch l
  let s := s.modPart (L.part.getD 0) fun r => { r with pstate := 0, idleSince := none }
  let mine {α : Type} (m : List (Nat × α)) : List (Nat × α) := m.filter fun e => e.1 == l
  let s := img.cores.foldl (fun s c => (s.readyCore L.vd c.1).modCore c.1 fun k => { k with
    clearing := none, winscale := c.2.winscale, k := L.k, scored := true, harpw := c.2.harpw, csrPend := c.2.csrPend, recv := c.2.recv
    cues := k.cues ++ mine c.2.cues, ibuf := k.ibuf ++ mine c.2.ibuf
    harpq := k.harpq ++ c.2.harpq.filter fun q => q.launch == some l }) s
  let s := L.cores.foldl (fun s c => s.spadClear c.1) s
  let s : State := { s with spad := img.spads.foldl (fun (m : Sparse Byte) (e : Nat × Byte) => tput 0 e.1 e.2 m) s.spad }
  let s := img.harps.foldl (fun s h => (s.launchTiles L h.1).foldl (fun s t =>
    s.modTile h.1 t fun x => { (tget ({} : TileState) t h.2.tiles) with own := x.own }) s) s
  let s := img.strands.foldl (fun s e => s.setStrand e.1 e.2) s
  let s : State := { s with
    accesses := s.accesses ++ img.accesses, runs := s.runs ++ img.runs, ops := s.ops ++ img.ops, packets := s.packets ++ img.packets
    snaps := img.snaps.foldl (fun (m : List (Nat × Snapshot)) (e : Nat × Snapshot) => bind e.1 e.2 m) s.snaps
    images := s.images.filter fun (e : Nat × Image) => decide (e.1 ≠ l) }
  let s := s.setLaunch l { L with st := if L.endAt.isSome then .ending else .running, resumeAt := none, thermal := false }
  let s := img.strands.foldl (fun s e => if e.2.slot = .halted then s.now prioCount (.unitCompletion e.1) else s) s
  (s.issueNow (img.strands.map (·.1))).loadWheels

/-- A message of another package of a launch: a pre-emption or a resumption that it took, or the ENDLAT that came with its admission (R294);
what else it tells has a row of its own. -/
def execTimeArrival (launch : Nat) (m : TimeNote) (s : State) : Host.Outcome State Fault Refusal :=
  .next (if (s.launch launch).scored = false then s
  else match m with
  | .preempt lcy => s.askPreemptAt launch (Nat.max lcy (s.lcyL launch - Nat.max s.pkg.endlat (s.launch launch).endlat))
  | .resume bar => s.askResume launch bar
  | .admitted e => s.modLaunch launch fun L => { L with endlat := Nat.max L.endlat (Nat.min e 2048) }
  | _ => s)

/-- SCORED_RESUME: at the bar line, or after a rest at it, the launch resumes on its cores, or lapses. -/
def execScoredResume (launch : Nat) (s : State) : Host.Outcome State Fault Refusal :=
  let L := s.launch launch
  .next (match L.st, L.resumeAt with
  | .preempted, some bar =>
    if s.pkg.ency < 4096 * bar then s
    else if s.pkg.restbar = some (s.pkg.ency / 4096) then
      s.owe none (barLineAt (s.pkg.ency + 1)) prioStart (.scoredResume launch)
    else match look launch s.images with
      | some img =>
        let same := img.cores.all fun c => (s.core c.1).logical == c.2.logical
        if s.coresReady L ∧ same ∧ s.pkg.therm < 2 ∧ s.pkg.locked then
          (match s.linesFault img.addr img.size with
          | none => s.restoreLaunch launch img
          | some d => (s.chargeLine L.vd d).lapse launch)
        else s.lapse launch
      | none => s.lapse launch
  | _, _ => s)

end Sys2Proof.Machine
end

