-- ==== Sys2Proof/Machine/Bars.lean ====
section
/-! DEFINITION. Bar lines and gaps (R335, R336, R338), rests (R295), time lock (R336, R337) and the copy of the error counters
(R344). -/
namespace Sys2Proof.Machine

/-! ## Loading ENCY -/

/-- Everything dated in ENCY keeps its distance when ENCY is loaded. -/
def State.loadEncy (s : State) (n : Nat) : State :=
  let old := s.pkg.ency
  let mv (t : Nat) : Nat := t + n - old
  { s with
    agenda := s.agenda.map fun e => match e.1.clock with
      | none => ({ e.1 with time := mv e.1.time }, e.2)
      | some _ => e
    launches := s.launches.map fun e : Nat × Launch => (e.1, { e.2 with start := mv e.2.start })
    strands := s.strands.map fun e : Nat × Strand => (e.1, { e.2 with dqSince := e.2.dqSince.map fun t => if t = 0 then 0 else mv t })
    cores := s.cores.map fun e : Nat × Core => (e.1, { e.2 with
      l1 := e.2.l1.map fun l => { l with fill := mv l.fill, used := mv l.used }
      harpq := e.2.harpq.map fun q => if q.scored then q else { q with start := mv q.start }
      bankUse := (mv e.2.bankUse.1, e.2.bankUse.2) })
    harps := s.harps.map fun e : Nat × Harp => (e.1, { e.2 with
      pairEnd := mv e.2.pairEnd, busy := mv e.2.busy, group := e.2.group.map fun g => (g.1, g.2.1, mv g.2.2)
      strings := e.2.strings.map fun r => (r.1, r.2.1, r.2.2.1, mv r.2.2.2) })
    paths := s.paths.map fun e : Nat × PathUse => (e.1, { e.2 with until_ := mv e.2.until_ })
    packets := s.packets.map fun e : Nat × Packet => (e.1, { e.2 with held := e.2.held.map mv })
    accesses := s.accesses.map fun e : Nat × Access => (e.1, { e.2 with left := mv e.2.left })
    qps := s.qps.map fun e : Nat × Qp => (e.1, { e.2 with
      send := e.2.send.map fun w => { w with posted := mv w.posted }, recv := e.2.recv.map fun w => { w with posted := mv w.posted } })
    parts := s.parts.map fun e : Nat × Partition => (e.1, { e.2 with
      queues := e.2.queues.map fun q => { q with since := q.since.map mv, lastStart := mv q.lastStart }, idleSince := e.2.idleSince.map mv })
    mc := s.mc.map fun l => { l with used := mv l.used }
    pkg := { s.pkg with ency := n, thermLast := s.pkg.thermLast.map mv } }

/-! ## Bar lines (R336, R337, R381) -/

/-- DRIFT saturates at ±(2^31 − 1). -/
def driftOf (d : BitVec 32) : BitVec 32 := if d = BitVec.ofNat 32 2147483648 then BitVec.ofNat 32 2147483649 else d

/-- |DRIFT| above 2^16. -/
def driftLost (d : BitVec 32) : Bool := decide (d.toInt > 65536) || decide (d.toInt < -65536)

/-- The strand that runs the firmware of the primary Coachman. -/
def State.coachSid (s : State) : Nat := sidOf (960 + s.pkg.primary) 0

/-- R337: the package has lost lock: its Coachman takes the time fault, its running scored launches end, and those not yet started
lapse. -/
def State.loseLock (s : State) : State :=
  let s := s.modPkg fun k => { k with locked := false }
  let c := s.coachSid
  let s := if (s.strand c).slot = .idle then s
    else s.takeTrap c { cause := 17, eval := s.pkg.drift.setWidth 64 } (s.strand c).pc
  (s.launches.filter fun e => e.2.scored).foldl (fun s e => match e.2.st with
    | .admitted => s.lapse e.1
    | _ => s.endingEvent e.1 (s.lcyL e.1) 0 0 { cause := 15, detail := 9, eval := BitVec.ofNat 64 (s.lcyL e.1) } 0) s

/-- BAR_LINE: DRIFT receives what the time fabric measured, the wheels take the next intervals, a commanded rest begins, and the
standby takes over from a Coachman that has stopped, has given no heartbeat for 16 bars, or has named this bar line. -/
def execBarLine (measured : BitVec 32) (s : State) : Host.Outcome State Fault Refusal :=
  let s := if s.pkg.stage = 3 then s.modPkg fun k => { k with drift := driftOf measured } else s
  let s := if s.pkg.locked ∧ driftLost s.pkg.drift then s.loseLock else s
  let s := s.loadWheels
  let bar := s.pkg.ency / 4096
  let s := if s.pkg.restbar = some bar then s.now prioBar .rest else s
  .next (if s.pkg.stage ≤ 3 ∧ (s.pkg.coachStopped ∨ s.pkg.heartbeat + 16 < bar ∨ s.pkg.updateBar = some bar) then
    s.now prioBar .coachmanTakeover else s)

/-- BAR_GAP: a gap of SLIP periods, in which nothing moves; SLIP returns to its default unless a TUNE has set the gap after. -/
def execBarGap (s : State) : Host.Outcome State Fault Refusal :=
  .next (s.modPkg fun k => { k with gapPeriods := k.gapPeriods + k.slip, slip := k.slipNext.getD 2, slipNext := none })

/-! ## Rests (R295) -/

/-- Every scored launch's LCY stands still, or goes on. -/
def State.freezeScored (s : State) (b : Bool) : State :=
  { s with launches := s.launches.map fun e : Nat × Launch => if e.2.scored then (e.1, { e.2 with frozen := b }) else e }

/-- REST: the bar of RESTBAR begins, and ends at the bar line after it. -/
def execRest (s : State) : Host.Outcome State Fault Refusal :=
  let bar := s.pkg.ency / 4096
  .next (match s.pkg.restbar with
  | some b =>
    if bar = b then (s.freezeScored true).owe none (4096 * (b + 1)) prioBar .rest
    else if b < bar then (s.freezeScored false).modPkg fun k => { k with restbar := none }
    else s
  | none => s)

/-! ## Time lock (R310, R336, R337) -/

/-- The links as measured: LINKLAT by port, and ENDLAT. -/
def State.loadLinks (s : State) (p : LockData) : State :=
  s.modPkg fun k => { k with
    linklat := (p.linklat.take 32).zipIdx.foldl (fun m e => tput 0 e.2 (e.1 % 4096) m) [], endlat := Nat.min p.endlat 2048 }

/-- ENCY and the ensemble's route keys are loaded; the previous key is zeroed. -/
def State.lock (s : State) (p : LockData) : State :=
  (s.loadEncy (4096 * (p.ency.toNat / 4096))).modPkg fun k => { k with
    locked := true, lockAsked := false, kg := p.kg % 16
    keyCur := if p.kg % 2 = 1 then p.routeKeyOdd else p.routeKeyEven, keyPrev := 0 }

/-- TIME_LOCK: at a bar line of stage 3. -/
def execTimeLock (p : LockData) (s : State) : Host.Outcome State Fault Refusal :=
  .next (if s.pkg.stage = 2 ∧ s.pkg.ency % 4096 = 0 then
    ((s.loadLinks p).lock p).modPkg fun k => { k with stage := 3, fail := 0, heartbeat := k.ency / 4096 }
  else s)

/-- TIME_LOCK_REPEAT: the links are measured again in a rest, and ENCY is loaded at its end. -/
def execTimeLockRepeat (p : LockData) (s : State) : Host.Outcome State Fault Refusal :=
  .next (if s.pkg.restbar = some (s.pkg.ency / 4096) then
    ((s.loadLinks p).modPkg fun k => { k with lockAsked := true }).owe none (barLineAt (s.pkg.ency + 1)) prioBar (.timeLockRepeat p)
  else if s.pkg.lockAsked ∧ s.pkg.ency % 4096 = 0 then
    (s.lock p).modPkg fun k => { k with heartbeat := k.ency / 4096 }
  else s)

/-! ## Error counters (R344) -/

/-- The counters in the order of the table, as the control page holds them. -/
def ErrCounters.bytes (e : ErrCounters) : List Byte :=
  [e.residue, e.rfile, e.discard, e.integrity, e.faultovf, e.ckmixed, e.ckerr].flatMap (toBytes 4)

/-- ERROR_COUNTER_COPY: every partition's values into its control page. -/
def execErrorCounterCopy (s : State) : Host.Outcome State Fault Refusal :=
  .next (s.parts.foldl (fun s e => if e.2.ctlpage = 0 then s else s.engineWrite (e.2.ctlpage + 0x100) e.2.errs.bytes) s)

end Sys2Proof.Machine
end

