-- ==== Sys2Proof/Machine/Net.lean ====
section
/-! DEFINITION. The network: queue pairs (R250), NPOST and NPOLL (R276, R278), and what the network engine does (R277). A ring's
entries are held by the queue pair, with an image of each in the VD's memory (R250, notes/assumptions/33.md). -/
namespace Sys2Proof.Machine

/-! ## Work requests -/

/-- The request in 64 bytes. -/
def workOf (b : List Byte) : WorkReq :=
  { op := blockField b 0 1, len := blockField b 4 4, laddr := blockField b 8 8, raddr := blockField b 16 8
    rkey := blockField b 24 4, wrid := BitVec.ofNat 64 (blockField b 32 8), sid := 0, wseq := 0 }

/-- A request that breaks its field rules. -/
def workBad (b : List Byte) : Bool :=
  decide (blockField b 0 1 > 5) || blockField b 1 3 != 0 || decide (blockField b 4 4 > 2147483648) || blockField b 28 4 != 0 ||
  blockField b 40 24 != 0

/-- The Dray-path accesses of a request (R276): those of a VD from the core that posted it. -/
def WorkReq.asCmd (w : WorkReq) (v : Nat) (part : Option Nat) : DrayCmd :=
  { core := w.core, sid := w.sid, vd := v, priv := w.priv, part := part }

/-- Reads n bytes of a VD for the engine. -/
def State.netRead (s : State) (c : DrayCmd) (a n : Nat) : Part := s.drayReads 0 c 2 a n

/-- Writes bytes of a VD for the engine. -/
def State.netWrite (s : State) (c : DrayCmd) (a : Nat) (bs : List Byte) : Part := s.drayWrites 0 c 2 a (a + bs.length) a bs

/-- The status of a request whose local access failed: an integrity failure sets the hold, any other is a local access failure. -/
def localStatus (err : Nat) : Nat := if err = 5 then 4 else 5

/-- R250: the image of an entry in a ring of the owning VD's memory, one entry after another (log 33); none while the engine must wait. The
engine keeps the entries itself, so an image that cannot be written changes nothing else. -/
def State.ringImage (s : State) (q base log idx : Nat) (entry : List Byte) : Option State :=
  let v := (s.qp q).vd
  match s.netWrite { core := 962, vd := v, priv := 1, part := some (s.vd v).part } (base + entry.length * (idx % 2 ^ log)) entry with
  | .wait _ => none
  | .fail _ s => some s
  | .ok s _ => some s

/-! ## The engine's turn -/

/-- The status code by which NETWORK_WORK_REQUEST stands for the engine's own turn at the send ring. -/
def engineTurn : Nat := 255

def prioNet : Nat := 2 ^ 79 + 1000

/-- The engine looks at a queue pair n cycles from now. -/
def State.kickNet (s : State) (q n : Nat) : State :=
  if s.agenda.any fun e => e.2 == .networkWorkRequest q engineTurn [] then s
  else s.after n prioNet (.networkWorkRequest q engineTurn [])

/-! ## Completions -/

/-- The layout of R278. -/
def completionWord (e : Nat × Word) : Word := BitVec.ofNat 64 (2 ^ 63 + 2 ^ 32 * e.1 + e.2.toNat % 2 ^ 32)

/-- The image of a completion in its ring: the whole WRID and the status (log 33). -/
def completionEntry (e : Nat × Word) : List Byte := toBytes 8 e.2.toNat ++ toBytes 8 e.1

/-- Completions enter their ring in order while it has room, and the owner is interrupted (R250, R369); the others wait (log 87). -/
def State.compEnter (q : Nat) : Nat → State → State
  | 0, s => s
  | n + 1, s =>
    let k := s.qp q
    match k.late with
    | [] => s
    | e :: rest =>
      if k.comp.length ≥ 2 ^ k.compLog then s
      else match s.ringImage q k.compBase k.compLog k.comps (completionEntry e) with
        | none => s.kickNet q 1
        | some (s : State) => State.compEnter q n ((s.setQp q { s.qp q with late := rest, comp := k.comp ++ [e], comps := k.comps + 1 }).postIrq k.vd 5)

/-- A completion is written. -/
def State.netComplete (s : State) (q status : Nat) (wrid : Word) : State :=
  let k := s.qp q
  State.compEnter q (k.late.length + 1) (s.setQp q { k with late := k.late ++ [(status, wrid)] })

/-- Requests of the send ring that have their status complete in posting order (R250). -/
def State.netFlush (q : Nat) : Nat → State → State
  | 0, s => s
  | n + 1, s =>
    match (s.qp q).send with
    | w :: rest =>
      match w.result with
      | some r => State.netFlush q n ((s.setQp q { s.qp q with send := rest }).netComplete q r w.wrid)
      | none => s
    | [] => s

/-- The status of the first request that satisfies a test. -/
def setResult (f : WorkReq → Bool) (r : Nat) : List WorkReq → List WorkReq
  | [] => []
  | w :: t => if f w then { w with result := some r } :: t else w :: setResult f r t

def State.netResult (s : State) (q : Nat) (f : WorkReq → Bool) (r : Nat) : State :=
  let k := s.qp q
  State.netFlush q k.send.length (s.setQp q { k with send := setResult f r k.send })

/-- R250: the error state: every outstanding entry completes with the flush status. -/
def State.netError (s : State) (q : Nat) : State :=
  let k := s.qp q
  let s := s.setQp q { k with errored := true, send := [], recv := [], replies := [] }
  (k.send ++ k.recv).foldl (fun s w => s.netComplete q (w.result.getD 1) w.wrid) s

/-- R250: a message without a posted receive, or that breaks the ticket check. The completion of the report mode belongs to no
request: its WRID is a free value (notes/assumptions/7.md). -/
def State.netViolation (s : State) (q : Nat) : State :=
  if (s.qp q).strict then s.netError q
  else
    let (w, s) := s.freeWord
    { s.netComplete q 2 w with netOut := s.netOut ++ [{ qp := q, op := 4, len := 0 }] }

/-! ## Traffic (R277) -/

/-- A request that is not on the wire yet and has no status. -/
def WorkReq.waits (w : WorkReq) : Bool := !w.sent && w.result.isNone

/-- R257, R277: what the rate grants of the bytes asked for, in the interval of 1024 cycles that a cycle lies in. -/
def Qp.grant (k : Qp) (now need : Nat) : Qp × Nat :=
  let win := now / 1024
  let used := if k.rate.window = win then k.rate.used else 0
  let take := Nat.min need (k.rate.rate - used)
  ({ k with rate := { k.rate with window := win, used := used + take } }, take)

/-- The engine returns in the next interval of the rate. -/
def State.nextRate (s : State) (q : Nat) : State := s.kickNet q (1024 - s.pkg.ency % 1024)

/-- A reply to a READ leaves once the rate grants its bytes. -/
def State.netReply (s : State) (q need : Nat) (f : NetFrame) (rest : List (Nat × NetFrame)) : State :=
  let (k, take) := (s.qp q).grant s.pkg.ency need
  if take < need then (s.setQp q { k with replies := (need - take, f) :: rest }).nextRate q
  else State.kickNet { s.setQp q { k with replies := rest } with netOut := s.netOut ++ [f] } q 1

/-- The engine takes the oldest request that is not on the wire: it waits for the VD's checks and for the rate, and then its
data leave. -/
def State.netSend (s : State) (q : Nat) (w : WorkReq) : State :=
  let k := s.qp q
  let mine (x : WorkReq) : Bool := x.waits
  if s.checksPending k.vd then s.kickNet q 1
  else if (s.key k.vd).inthold then (s.netResult q mine 4).kickNet q 1
  else
    let (k, take) := k.grant s.pkg.ency w.need
    let first (f : WorkReq → WorkReq) (l : List WorkReq) : List WorkReq :=
      match l.findIdx? mine with
      | some i => l.zipIdx.map fun e => if e.2 = i then f e.1 else e.1
      | none => l
    if take < w.need then
      (s.setQp q { k with send := first (fun x => { x with need := x.need - take }) k.send }).nextRate q
    else
      let sent (s : State) (data : List Byte) : State :=
        let s := s.setQp q { k with send := first (fun x => { x with need := 0, sent := true }) k.send }
        let f : NetFrame := { qp := q, op := w.op, len := w.len, rkey := w.rkey, raddr := w.raddr, data := data }
        State.kickNet { s with netOut := s.netOut ++ [f] } q 1
      if w.op = 2 then sent s []
      else match s.netRead (w.asCmd k.vd (some (s.vd k.vd).part)) w.laddr w.len with
        | .ok s bs => sent s bs
        | .wait s => s.kickNet q 1
        | .fail e s => ((s.setQp q k).netResult q mine (localStatus e)).kickNet q 1

/-- The engine's turn at a queue pair: completions that wait, then replies, then the send ring (log 87). -/
def State.netTurn (s : State) (q : Nat) : State :=
  let s := State.compEnter q (s.qp q).late.length s
  match (s.qp q).replies with
  | e :: rest => s.netReply q e.1 e.2 rest
  | [] => match (s.qp q).send.find? WorkReq.waits with
    | some w => s.netSend q w
    | none => s

/-- NETWORK_WORK_REQUEST: the engine's turn at the queue pair; or what the remote end answers to the oldest request on the wire,
whose status it brings, and for a READ its data. -/
def execNetworkWorkRequest (qp status : Nat) (reply : List Byte) (s : State) : Host.Outcome State Fault Refusal :=
  .next (if status = engineTurn then s.netTurn qp
  else
    let open_ (w : WorkReq) : Bool := w.sent && w.result.isNone
    match (s.qp qp).send.find? open_ with
    | none => s
    | some w =>
      if status = 0 ∧ w.op = 2 then
        let bs := takeBytes w.len reply
        match s.netWrite (w.asCmd (s.qp qp).vd (some (s.vd (s.qp qp).vd).part)) w.laddr bs with
        | .ok s _ => s.netResult qp open_ 0
        | .wait s => s.after 1 prioNet (.networkWorkRequest qp status reply)
        | .fail e s => s.netResult qp open_ (localStatus e)
      else s.netResult qp open_ (if status ≤ 5 then status else 2))

/-- NETWORK_TIMEOUT: requests, of either ring, without an outcome within 2^28 cycles of their posting. -/
def execNetworkTimeout (qp : Nat) (s : State) : Host.Outcome State Fault Refusal :=
  let k := s.qp qp
  let old (w : WorkReq) : Bool := decide (w.posted + 268435456 ≤ s.pkg.ency)
  let s := s.setQp qp { k with
    send := k.send.map fun w => if old w ∧ w.result = none then { w with result := some 3 } else w
    recv := k.recv.filter fun w => !old w }
  .next ((k.recv.filter old).foldl (fun (s : State) w => s.netComplete qp 3 w.wrid) (State.netFlush qp k.send.length s))

/-- R277: the ticket check of an RKEY: the binding whose effective window holds the bytes, with the right. -/
def Qp.bound (k : Qp) (m : NetMsg) (right : Nat) : Option Ticket :=
  match look m.rkey k.keys with
  | some t =>
    let e := tkEff t
    if e.has right && decide (e.lo ≤ m.offset) && decide (m.offset + m.len ≤ e.hi) then some t else none
  | none => none

/-- An inbound SEND takes the oldest posted receive. -/
def State.netReceive (s : State) (qp : Nat) (msg : NetMsg) : State :=
  let k := s.qp qp
  match k.recv with
  | [] => s.netViolation qp
  | w :: rest =>
    let take (s : State) (status : Nat) : State := (s.setQp qp { s.qp qp with recv := rest }).netComplete qp status w.wrid
    if msg.len > w.len then take s 5
    else match s.netWrite (w.asCmd k.vd (some (s.vd k.vd).part)) w.laddr (takeBytes msg.len msg.data) with
      | .ok s _ => take s 0
      | .wait s => s.after 1 prioNet (.networkInbound qp msg)
      | .fail e s => take s (localStatus e)

/-- An inbound WRITE or READ that has passed the ticket check of a binding. A packet that waits keeps the binding it passed (R276). The bytes
of a reply follow R228, and leave at the queue pair's rate. -/
def State.netAccess (s : State) (qp : Nat) (msg : NetMsg) (t : Ticket) : State :=
  let part := some (s.vd (s.qp qp).vd).part
  let v := tkOvd t
  let c : DrayCmd := { core := 962, vd := v, priv := 1, part := part }
  let again (s : State) : State := s.after 1 prioNet (.networkInbound qp { msg with pass := some t })
  if msg.op = 1 then
    match s.netWrite c msg.offset (takeBytes msg.len msg.data) with
    | .ok s _ => s
    | .wait s => again s
    | .fail _ s => s.countDiscard part
  else if s.checksPending v then again s
  else if (s.key v).inthold then s.countDiscard part
  else match s.netRead c msg.offset msg.len with
    | .ok s bs =>
      let f : NetFrame := { qp := qp, op := 3, len := msg.len, rkey := msg.rkey, raddr := msg.offset, data := bs }
      (s.setQp qp { s.qp qp with replies := (s.qp qp).replies ++ [(msg.len, f)] }).kickNet qp 1
    | .wait s => again s
    | .fail _ s => s.countDiscard part

/-- NETWORK_INBOUND: a SEND takes the oldest posted receive; a WRITE or READ goes through its binding; a congestion notification
(code 3) echoes a mark, and a mark that arrives is answered by one (code 5). -/
def execNetworkInbound (qp : Nat) (msg : NetMsg) (s : State) : Host.Outcome State Fault Refusal :=
  let k := s.qp qp
  .next (if !k.exists_ || k.errored then s
  else if msg.op = 3 then s.setQp qp { k with rate := { k.rate with marked := true } }
  else
    let s := if msg.ecn then { s with netOut := s.netOut ++ [{ qp := qp, op := 5, len := 0 }] } else s
    let msg := { msg with ecn := false }
    if msg.op = 0 then s.netReceive qp msg
    else match msg.pass.orElse fun _ => k.bound msg (if msg.op = 1 then rightWrite else rightRead) with
      | none => s.netViolation qp
      | some t => s.netAccess qp msg t)

/-! ## Queue pairs (R250) -/

def ringLogOk (n : Nat) : Bool := decide (4 ≤ n) && decide (n ≤ 15)

/-- QUEUE_PAIR_CREATION: the mode is the creator's, or goes by the VD's peer count, the new queue pair included. -/
def execQueuePairCreation (qp : Nat) (c : QpConfig) (s : State) : Host.Outcome State Fault Refusal :=
  .next (if !(ringLogOk c.sendLog && ringLogOk c.recvLog && ringLogOk c.compLog) || (s.qp qp).exists_ then s
  else
    let peers := 1 + (s.qps.filter fun e => e.2.exists_ && !e.2.errored && e.2.vd == c.vd).length
    s.setQp qp {
      exists_ := true
      vd := c.vd
      strict := c.mode.getD (decide (peers < 64))
      peer := c.peer
      sendBase := c.sendBase
      sendLog := c.sendLog
      recvBase := c.recvBase
      recvLog := c.recvLog
      compBase := c.compBase
      compLog := c.compLog
      rate := { rate := 64 * (s.part (s.vd c.vd).part).share } })

/-! ## NPOST and NPOLL -/

/-- R276, R255: what REG asks of its ticket: a memory window with the rights that it registers. -/
def regAsk (t : Ticket) : TkAsk :=
  { kinds := [4], right := if (tkEff t).has rightRead then rightRead else rightWrite, at_ := (tkEff t).lo }

/-- The value that NPOST lands for a request; an error is the access fault's EVAL. -/
def npostStatus (q : Nat) (w : WorkReq) (bad : Bool) (t : Ticket) (s : State) : Except Nat Nat :=
  let k := s.qp q
  if !k.exists_ || k.vd != s.strandVd w.sid then .ok 4
  else if bad then .ok 3
  else if 3 ≤ w.op ∧ w.op ≤ 4 ∧ w.priv = 0 then .ok 5
  else if k.errored then .ok 2
  else if w.op = 3 then match s.tkFails t (regAsk t) with | some v => .error v | none => .ok 0
  else if w.op = 5 then .ok (if k.recv.length ≥ 2 ^ k.recvLog then 1 else 0)
  else if w.op ≠ 4 ∧ k.send.length ≥ 2 ^ k.sendLog then .ok 1
  else .ok 0

/-- A request that is taken: REG and DEREG at once, RECV on the receive ring, the others on the send ring. -/
def State.netPost (s : State) (q : Nat) (w : WorkReq) (t : Ticket) : State :=
  let k := s.qp q
  if w.op = 3 then s.setQp q { k with keys := bind w.rkey t k.keys }
  else if w.op = 4 then s.setQp q { k with keys := unbind w.rkey k.keys }
  else
    let s := if w.op = 5 then s.setQp q { k with recv := k.recv ++ [w], recvs := k.recvs + 1 }
      else (s.setQp q { k with send := k.send ++ [w], sends := k.sends + 1 }).kickNet q 1
    s.after 268435456 prioNet (.networkTimeout q)

/-- The image of a request in its ring, where it takes an entry. -/
def State.postImage (s : State) (q : Nat) (w : WorkReq) (blk : List Byte) : Option State :=
  let k := s.qp q
  if w.op = 5 then s.ringImage q k.recvBase k.recvLog k.recvs blk
  else if w.op ≤ 2 then s.ringImage q k.sendBase k.sendLog k.sends blk
  else some s

def execNpost (tk : TkReg) (d a b : GReg) (s : State) : Host.Outcome State Fault Refusal :=
  finish s (word s { src := [.tk tk, .g a, .g b], dst := [.g d], outward := true } fun s => freeOnly s fun s =>
    let sid := s.cur.sid
    checked (s.checkAccess sid .vir (s.rg b).toNat 64 .read .plain) fun s x =>
      if s.accesses.any (fun e => e.2.sid == sid && e.2.blocks x) then .held s
      else
        let e : Elem := x.cycles.flatten.headD ⟨0, 0, 0, 0, 0, 0, false, none⟩
        match s.migrate x.vd e.addr with
        | none => .held s
        | some addr =>
          let blk := toBytes 64 (s.accRead x e addr).1
          let w := { workOf blk with
            sid := sid, wseq := s.seqNo, vd := s.strandVd sid, priv := s.me.priv, core := coreOf sid, posted := s.pkg.ency
            need := if blockField blk 0 1 = 2 then 0 else blockField blk 4 4 }
          let q := bits (s.rg a) 0 12
          match npostStatus q w (workBad blk) (s.me.rtk tk) s with
          | .error v => accessFault (BitVec.ofNat 64 v)
          | .ok v =>
            if v ≠ 0 then .ok (s.landG d (BitVec.ofNat 64 v) 2)
            else match s.postImage q w blk with
              | none => .held s
              | some s => .ok ((s.netPost q w (s.me.rtk tk)).landG d 0 2))

def execNpoll (d a : GReg) (s : State) : Host.Outcome State Fault Refusal :=
  finish s (word s { src := [.g a], dst := [.g d], outward := true } fun s => freeOnly s fun s =>
    let q := bits (s.rg a) 0 12
    let k := s.qp q
    if !k.exists_ || k.vd != s.strandVd s.cur.sid then accessFault (s.rg a)
    else match k.comp with
      | [] => .ok (s.landG d 0 2)
      | e :: rest =>
        let s := s.setQp q { k with comp := rest }
        .ok ((if k.late.isEmpty then s else s.kickNet q 1).landG d (completionWord e) 2))

end Sys2Proof.Machine
end

