-- ==== Sys2Proof/Machine/Power.lean ====
section
/-! DEFINITION. Power states of a partition (R382): when it is idle, entry and wake. -/
namespace Sys2Proof.Machine

/-- A strand that keeps its partition awake: runnable, or parked with a limit. -/
def SlotState.awake : SlotState → Bool
  | .runnable => true
  | .parked .boot => false
  | .parked (.cwait _ _ _ expiry _ _) => expiry.isSome
  | .parked _ => true
  | _ => false

/-- Whether a strand of a partition's crews is runnable or parked with a limit. -/
def State.partBusy (s : State) (p : Nat) : Bool := s.strands.any fun e => e.2.slot.awake && s.partOf (coreOf e.1) == some p

/-- R382: a partition is idle; an admitted launch that has not started is an admission pending. -/
def State.partIdle (s : State) (p : Nat) : Bool :=
  !s.partBusy p && ((s.part p).queues.toList.all fun q => q.pending.isEmpty) &&
  !(s.drays.any fun d => d.2.cmds.any fun c => c.part == some p) &&
  !(s.launches.any fun l => l.2.st == .admitted && l.2.part == some p) &&
  !((s.ckpt.state == 1 || s.ckpt.state == 2 || s.ckpt.state == 3) && (s.vd s.ckpt.vd).part == p)

/-- Whether the package stands in a commanded rest (R295). -/
def State.resting (s : State) : Bool := s.pkg.restbar == some (s.pkg.ency / 4096)

/-- A partition with a scored launch on its cores changes state only in a rest. -/
def State.mayChange (s : State) (p : Nat) : Bool :=
  s.resting || !(s.launches.any fun l => l.2.holdsCores && l.2.part == some p)

/-- The deepest state whose exit latency is at most a tolerance, both in 0.1 µs. -/
def deepest (ltol : Nat) : Nat := if ltol ≥ 20000 then 3 else if ltol ≥ 200 then 2 else if ltol ≥ 5 then 1 else 0

/-- The partition's copy of PSTATE (R372). -/
def State.setPstate (s : State) (p g : Nat) : State :=
  let s := s.modPart p fun r => { r with pstate := g }
  if (s.part p).ctlpage = 0 then s else s.engineWrite ((s.part p).ctlpage + 0x20) (toBytes 1 g)

/-- The cores of a partition's crews. -/
def State.crewCores (s : State) (p : Nat) : List Nat := (List.range 960).filter fun c => (s.part p).crews.getLsbD (crewOf c)

/-- A partition enters a state. In partition deep its scratchpads are saved, or lost. -/
def State.enterPower (s : State) (p g : Nat) : State :=
  let s := s.setPstate p g
  if g ≠ 3 then s
  else if (s.part p).pdsave then
    let n := 524288 * (s.crewCores p).length
    let (bs, s) := s.freeBytes (n / 8)
    s.linesWrite (s.part p).savearea bs (n / 64 + 1)
  else (s.crewCores p).foldl State.spadClear s

/-- POWER_STATE_ENTRY: after 2^16 idle cycles. -/
def execPowerStateEntry (part : Nat) (s : State) : Host.Outcome State Fault Refusal :=
  let r := s.part part
  let g := deepest r.ltol.toNat
  .next (match r.idleSince with
  | some t =>
    if t + 65536 ≤ s.pkg.ency ∧ s.partIdle part ∧ r.pstate < g then
      if s.mayChange part then s.enterPower part g
      else s.owe none (barLineAt (s.pkg.ency + 1)) prioStart (.powerStateEntry part)
    else s
  | none => s)

/-- Packets that waited for a core to wake are performed. -/
def State.kickGated (s : State) (p : Nat) : State :=
  s.packets.foldl (fun s e =>
    let here := match siteCore e.2.x e.2.y with | some c => s.partOf c == some p | none => false
    if e.2.passed && e.2.held.isNone && here && !(s.agenda.any fun a => a.2 == .packetDelivery e.1) then
      s.now rankFree (.packetDelivery e.1) else s) s

/-- POWER_WAKE: the partition runs again. At thermal level 2 it stays gated until the level is left. -/
def execPowerWake (part : Nat) (s : State) : Host.Outcome State Fault Refusal :=
  .next (if (s.part part).pstate = 0 then s
  else if s.pkg.therm ≥ 2 then s.after 4096 prioBar (.powerWake part)
  else if s.mayChange part then
    let s := (s.setPstate part 0).modPart part fun r => { r with idleSince := none }
    ((s.kickGated part).resumeSaved).kickEngine part
  else s.owe none (barLineAt (s.pkg.ency + 1)) prioStart (.powerWake part))

/-- What power control sees of a partition in every cycle. -/
def State.watchPart (s : State) (p : Nat) : State :=
  let s := if s.pkg.therm ≥ 2 ∧ (s.part p).pstate < 2 ∧ s.partBusy p = false ∧ s.mayChange p then s.enterPower p 2 else s
  match s.partIdle p, (s.part p).idleSince with
  | true, none => (s.modPart p fun r => { r with idleSince := some s.pkg.ency }).after 65536 prioStart (.powerStateEntry p)
  | false, some _ => s.modPart p fun r => { r with idleSince := none }
  | _, _ => s

def State.watchPower (s : State) : State :=
  s.parts.foldl (fun s e => if e.2.crews = 0 then s else s.watchPart e.1) s

end Sys2Proof.Machine
end

