-- ==== Sys2Proof/Machine/Service.lean ====
section
/-! DEFINITION. Partitions, virtual devices and service: scheduling of VDs (R373), interrupt delivery (R249), the fault overflow
(R248), device registers (R182, R370), creation, reset and teardown of VDs (R374 to R376), repair and moves (R378 to R380), the
takeover of the Coachman (R381), and the thermal levels (R390, R391). -/
namespace Sys2Proof.Machine

/-! ## Interrupt rings and fault queues (R248, R249, R353) -/

/-- INTERRUPT_DELIVERY: the entries of a VD that is scheduled in are signalled in order; stale ones are discarded. -/
def execInterruptDelivery (vd : Nat) (s : State) : Host.Outcome State Fault Refusal :=
  let d := s.vd vd
  .next (if s.scheduledIn vd then
    d.ring.foldl (fun s e =>
      if e.tgen = d.tgen then { s with irqOut := s.irqOut ++ [(vd, e)] } else s.countDiscard (some d.part))
      (s.setVd vd { d with ring := [] })
  else s)

/-- Overflow entries that the ring takes, oldest first. -/
def State.moveOverflow (p : Nat) : Nat → State → State
  | 0, s => s
  | n + 1, s =>
    match (s.part p).overflow with
    | e :: rest =>
      if s.ringFree p then State.moveOverflow p n ((s.ringWrite p e).modPart p fun r => { r with overflow := rest }) else s
    | [] => s

/-- FAULT_OVERFLOW_MOVE. -/
def execFaultOverflowMove (part : Nat) (s : State) : Host.Outcome State Fault Refusal :=
  .next (State.moveOverflow part 4 s)

/-- RESERVED_STRAND_RELEASE: the fault queue may start the strand again. -/
def execReservedStrandRelease (sid : Nat) (s : State) : Host.Outcome State Fault Refusal :=
  .next (if (s.strand sid).slot = .halted ∧ (s.strand sid).stopped = true ∧ isCoach (coreOf sid) = false then
    let s := s.modStrand sid fun x => { x with stopped := false }
    (match s.partOf (coreOf sid) with
    | some p => s.routeWaiting p
    | none => s)
  else s)

/-! ## Scheduling of VDs (R373) -/

/-- VDSCHED as the control page holds it. -/
def State.vdschedBit (s : State) (p x : Nat) : Bool :=
  (s.part p).ctlpage != 0 && (s.memNat ((s.part p).ctlpage + 0x10) 1).testBit x

def State.setSched (s : State) (p x : Nat) (b : Bool) : State :=
  s.modPart p fun r => { r with vdsched := if b then r.vdsched ||| BitVec.ofNat 8 (2 ^ x) else r.vdsched &&& ~~~(BitVec.ofNat 8 (2 ^ x)) }

/-- VD_SCHEDULE_OUT: every free strand of the VD is pre-empted. -/
def execVdScheduleOut (part x : Nat) (s : State) : Host.Outcome State Fault Refusal :=
  let v := s.vdOfX part x
  .next (if s.vdschedBit part x then s
  else
    let s := s.setSched part x false
    s.strands.foldl (fun s e => if s.strandVd e.1 = v ∧ s.strandPart e.1 = some part ∧ s.preemptable e.1 then
      s.requestPreempt e.1 .scheduler else s) s)

/-- VD_SCHEDULE_IN: its saved strands resume, its ring is signalled, and its descriptors are taken. -/
def execVdScheduleIn (part x : Nat) (s : State) : Host.Outcome State Fault Refusal :=
  let v := s.vdOfX part x
  .next (if s.vdschedBit part x then
    let s := ((s.setSched part x true).resumeSaved).kickEngine part
    if v < 192 then s.now prioCancel (.interruptDelivery v) else s
  else s)

/-! ## Partition records (R182, R370) -/

/-- Slots reserved for the supervisor stand halted until a posting starts them; a slot that is no longer reserved is idle. -/
def State.refreshReserved (s : State) (p : Nat) : State :=
  let rs := s.reservedSids p
  let s := rs.foldl (fun s sid => if (s.strand sid).slot = .idle then
    (s.setStrand sid { slot := .halted, priv := 1 }) else s) s
  (s.strands.filter fun e => e.2.slot == .halted && e.2.launch.isNone && s.partOf (coreOf e.1) == some p && !rs.contains e.1).foldl
    (fun s e => s.idle e.1) s

/-- A core that a partition takes is cleared (R188). -/
def State.takeCore (s : State) (c : Nat) : State :=
  ((s.dropHeld c).startClear c).modCore c fun k => { k with lastVd := none, elastic := Vector.replicate 4 [] }

/-- After a change of a partition's cores. -/
def State.coresChanged (s : State) (p : Nat) : State := (s.refreshReserved p).kickEngine p

/-- Some other partition has a member of a set. -/
def State.elsewhere {w : Nat} (s : State) (p : Nat) (get : Partition → BitVec w) (v : BitVec w) : Bool :=
  s.parts.any fun e => decide (e.1 ≠ p) && get e.2 &&& v != 0

/-- R191, R370: the WAYMIN values of a die with one of them changed. -/
def State.waymins (s : State) (p die v : Nat) : Nat :=
  ((List.range 48).map fun i => if i = p then v else ((s.part i).waymin.toList[die]?).getD 0).sum

/-- R370, R382: a new latency tolerance; an idle partition goes to the state that it allows. -/
def State.setLtol (s : State) (p : Nat) (v : BitVec 32) : State :=
  let s := s.modPart p fun r => { r with ltol := v }
  if deepest v.toNat < (s.part p).pstate then s.wakePart p
  else if (s.part p).idleSince.isSome then s.now prioStart (.powerStateEntry p) else s

/-- A write of a field of a record; a configuration that R370 forbids is refused. OWN of a tile is set with it (R157): while a scored launch has
the tile, the value is the one that its release restores (R287). -/
def State.writePart (s : State) (p : Nat) : PartField → State
  | .crews v =>
    if s.elsewhere p (·.crews) v then s
    else
      let gained := (List.range 960).filter fun c => v.getLsbD (crewOf c) && !(s.part p).crews.getLsbD (crewOf c)
      (gained.foldl State.takeCore (s.modPart p fun r => { r with crews := v })).coresChanged p
  | .drays v => if s.elsewhere p (·.drays) v then s else s.modPart p fun r => { r with drays := v }
  | .spare v => if s.elsewhere p (·.spare) v then s else (s.modPart p fun r => { r with spare := v }).coresChanged p
  | .rsvmask v => (s.modPart p fun r => { r with rsvmask := v }).coresChanged p
  | .nearq v => s.modPart p fun r => { r with nearq := v % 4294967296 }
  | .slots a n => s.modPart p fun r => { r with slottab := a % 2 ^ 52, slotcnt := n % 65536 }
  | .share v => s.modPart p fun r => { r with share := v % 65536 }
  | .bufq v => s.modPart p fun r => { r with bufq := v % 256 }
  | .waymin die v =>
    if die ≥ 4 ∨ v ≥ 16 ∨ s.waymins p die v > 16 then s
    else s.modPart p fun r => { r with waymin := Vector.ofFn fun i => if i.val = die then v else r.waymin[i] }
  | .vdlist x v =>
    if x ≥ 8 then s
    else (s.modPart p fun r => { r with vdlist := Vector.ofFn fun i => if i.val = x then v % 256 else r.vdlist[i] }).kickEngine p
  | .ctlpage v =>
    let s := s.modPart p fun r => { r with ctlpage := v % 2 ^ 52 / 4096 * 4096 }
    let s := if (s.part p).ctlpage = 0 then
        (onesBelow 8 (s.part p).vdsched.toNat).foldl (fun s x => s.now prioCancel (.vdScheduleOut p x)) s
      else s.vdschedHook p
    s.now prioCancel (.faultOverflowMove p)
  | .savearea v => s.modPart p fun r => { r with savearea := v % 2 ^ 52 }
  | .fqbase v => (s.modPart p fun r => { r with fqbase := v % 2 ^ 52 }).now prioCancel (.faultOverflowMove p)
  | .ltol v => s.setLtol p v
  | .pdsave v => s.modPart p fun r => { r with pdsave := v }
  | .own crew tile v =>
    if crew ≥ 120 ∨ tile ≥ 16 ∨ (s.part p).crews.getLsbD crew = false then s
    else if (s.harp crew).saved.any fun e => e.2.1 == tile then
      s.modHarp crew fun h => { h with saved := h.saved.map fun e => if e.2.1 = tile then (e.1, tile, v) else e }
    else s.modTile crew tile fun t => { t with own := v }

/-- DEVICE_REGISTER_WRITE. -/
def execDeviceRegisterWrite (w : DevWrite) (s : State) : Host.Outcome State Fault Refusal :=
  .next (match w with
  | .bytes addr data => if isDevice addr then s.memWrite addr data else s
  | .part p f => s.writePart p f
  | .queue p q rbase log2n tailaddr =>
    (s.modQueue p q fun k => { k with
      rbase := rbase % 2 ^ 52 / 64 * 64, log2n := if 4 ≤ log2n ∧ log2n ≤ 16 then log2n else 0, tailaddr := tailaddr % 2 ^ 52 }).now
      prioArrive (.launchQueuePoll p q)
  | .clearQerr p q => (s.modQueue p q fun k => { k with qerr := false }).now prioArrive (.launchQueuePoll p q)
  | .spares base len => { s with ckpt := { s.ckpt with sparebase := base, sparelen := len } }
  | .restbar bar => s.modPkg fun k => { k with restbar := bar }
  | .cnvd coach vd => s.modPkg fun k => { k with cnvd := Vector.ofFn fun i => if i.val = coach then vd % 256 else k.cnvd[i] }
  | .clearHold kid => s.setKey kid { s.key kid with inthold := false }
  | .clearErrs (some p) => s.modPart p fun r => { r with errs := {} }
  | .clearErrs none => s.modPkg fun k => { k with errs := {} }
  | .heartbeat => s.modPkg fun k => { k with heartbeat := k.ency / 4096 }
  | .clearOvf vd => s.modVd vd fun d => { d with ovf := false }
  | .vdAbsent vd => if (s.vd vd).state = 3 then s.modVd vd fun d => { d with state := 0 } else s)

/-! ## Creation, reset and teardown of VDs (R374 to R376) -/

/-- VD_CREATION: a VD that is absent or torn down becomes active; one that was lost at level 3 is told so (R391). -/
def execVdCreation (vd : Nat) (c : VdConfig) (s : State) : Host.Outcome State Fault Refusal :=
  let d := s.vd vd
  .next (if d.state = 0 ∨ d.state = 3 then
    let s := s.setVd vd { d with state := 1, part := c.part % 256, troot := c.troot % 2 ^ 40, hostBase := c.hostBase, hostLen := c.hostLen }
    let s := if s.pkg.lostVds.contains vd then
        (s.modPkg fun k => { k with lostVds := k.lostVds.filter fun v => decide (v ≠ vd) }).postIrq vd 6
      else s
    s.kickEngine (c.part % 256)
  else s)

/-- R374, R375: a reset begins at the write's cycle c; it takes effect at c + 256. -/
def State.startReset (s : State) (v : Nat) (retain : Bool) : State :=
  if (s.vd v).state = 2 then s
  else (s.modVd v fun d => { d with state := 2, retain := retain }).after 256 prioBar (.vdResetEffect v)

/-- VD_RESET: with RETAIN set. -/
def execVdReset (vd : Nat) (s : State) : Host.Outcome State Fault Refusal := .next (s.startReset vd true)

/-- VD_TEARDOWN: with RETAIN clear. -/
def execVdTeardown (vd : Nat) (s : State) : Host.Outcome State Fault Refusal := .next (s.startReset vd false)

/-- The ports of this package that a ticket names from a core: where its route delivers. -/
def State.ticketPorts (s : State) (core : Nat) (t : Ticket) : List Nat :=
  if t = 0 then [] else
  let last := match s.routeEnd (tkWord t 0) 33 0 (siteX core) (siteY core) with
    | .site x y => [portKey x y (tkPort t)]
    | _ => []
  ((s.routeOf core t).cores.map fun c => portKey (siteX c) (siteY c) (tkPort t)) ++ last

/-- R376 step 2: the ports for which a VD holds tickets: in ticket registers of strands, pre-empted ones among them, in saved images,
and in RKEY bindings. -/
def State.heldPorts (s : State) (v : Nat) : List Nat :=
  let regs (core : Nat) (x : Strand) : List Nat := x.tk.toList.flatMap (s.ticketPorts core)
  let live := s.strands.flatMap fun e => if e.2.slot ≠ .idle ∧ s.strandVd e.1 = v then regs (coreOf e.1) e.2 else []
  let images := s.images.flatMap fun i => if (s.launch i.1).vd = v then i.2.strands.flatMap fun e => regs (coreOf e.1) e.2 else []
  let keys := s.qps.flatMap fun q => if q.2.exists_ ∧ q.2.vd = v then q.2.keys.flatMap fun k => s.ticketPorts 0 k.2 else []
  (live ++ images ++ keys).eraseDups

/-- The generation of an open port advances; one at 4095 is left there. -/
def State.bumpPort (s : State) (k : Nat) : State :=
  let e := s.portEntry k
  if e.isOpen ∧ e.gen < 4095 then s.setPort k { e with gen := e.gen + 1 } else s

/-- R376 step 2: the VD's ports advance and close, and so advance the ports of its tickets. They close before the tenant generation
advances. -/
def State.closePorts (s : State) (v : Nat) : State :=
  let own := (s.ports.filter fun e => e.2.isOpen && e.2.ovd == v).map (·.1)
  let s := (own ++ (s.heldPorts v).filter fun k => !own.contains k).foldl State.bumpPort s
  own.foldl (fun s k => s.setPort k { s.portEntry k with
    isOpen := false, closed := some (s.vds.map fun d => (d.1, d.2.tgen)) }) s

/-- R241: the elastic queues of the cores whose last launch was the VD's are emptied, their held arrivals discarded. -/
def State.emptyElastic (s : State) (v : Nat) : State :=
  (s.cores.filter fun c => c.2.lastVd == some v).foldl (fun s c =>
    (s.dropHeld c.1).modCore c.1 fun k => { k with elastic := Vector.replicate 4 [] }) s

/-- R241: the VD's Dray commands leave their queues, cancelled; a migration copy goes on. -/
def State.cancelDrays (s : State) (v : Nat) : State :=
  s.drays.foldl (fun s d => (d.2.cmds.filter fun c => c.vd == v && c.mig.isNone && c.result.isNone).foldl (fun s c =>
    s.drayEnd d.1 c 3 0) s) s

/-- R241: the VD's queue pairs enter the error state. -/
def State.errorQps (s : State) (v : Nat) : State :=
  (s.qps.filter fun q => q.2.exists_ && q.2.vd == v && !q.2.errored).foldl (fun s q => s.netError q.1) s

/-- VD_RESET_EFFECT: at E. -/
def execVdResetEffect (vd : Nat) (s : State) : Host.Outcome State Fault Refusal :=
  .next (if (s.vd vd).state ≠ 2 then s
  else
    let s := s.closePorts vd
    let (s, _) := s.cancelAll vd (fun _ => true) fun _ => true
    let s := (((s.modVd vd fun d => { d with jobCanc := true }).emptyElastic vd).cancelDrays vd).errorQps vd
    let s := (s.modVd vd fun d => { d with tgen := (d.tgen + 1) % 65536 }).shootDown vd none
    let (w, s) := s.duration 0 4096
    (s.after w prioSwitch (.openSlotPurge vd)).after 131072 prioBar (.vdQuiet vd))

/-- OPEN_SLOT_PURGE: the VD's open packets leave the routers, counted, with no notice. -/
def execOpenSlotPurge (vd : Nat) (s : State) : Host.Outcome State Fault Refusal :=
  .next (if (s.vd vd).state ≠ 2 then s
  else s.packets.foldl (fun s e => if e.2.vd = vd ∧ e.2.timed = false then
    ((s.countDiscard (some (s.vd vd).part)).dropPacket e.1).opResult e.2.op none else s) s)

/-- R376 step 6, R235, R231: the keys of a VD are erased and its frames return to the pool; it leaves VDLIST. Its interrupt ring goes with
its memory: the entries, all of an older generation, are discarded and counted (R241, log 89). -/
def State.tearDown (s : State) (v : Nat) : State :=
  let s := ((s.vd v).ring).foldl (fun (s : State) _ => s.countDiscard (some (s.vd v).part)) s
  let s := s.dropKid v
  let s := s.setKey v { s.key v with key := 0, txkey := 0, valid := false }
  let s := (s.frames.filter fun f => f.2.assigned && f.2.owner == v).foldl (fun s f =>
    (s.dropFrames f.1 1).setFrame f.1 { f.2 with assigned := false, migdst := false }) s
  let s := (s.mig.filter fun m => m.2.state != 0 && m.2.vd == v).foldl (fun s m =>
    let d := s.dray m.2.dray
    (s.setDray m.2.dray { d with cmds := d.cmds.filter fun c => decide (c.mig ≠ some m.1) }).setMig m.1 {}) s
  let s := { s with
    parts := s.parts.map fun e : Nat × Partition => (e.1, { e.2 with vdlist := e.2.vdlist.map fun x => if x = v then 255 else x })
    saved := s.saved.filter fun e => decide (e.2.vd ≠ v) }
  s.modVd v fun d => { d with ring := [], ovf := false, state := 3 }

/-- VD_QUIET: at Q. With the teardown of VD 0 that follows the boot launch, stage 2 is complete and the virtual functions are
enabled (R387, R395). -/
def execVdQuiet (vd : Nat) (s : State) : Host.Outcome State Fault Refusal :=
  .next (if (s.vd vd).state ≠ 2 then s
  else
    let s := s.modVd vd fun d => { d with cn := Vector.replicate 16 {}, graphs := [], phase := 0, jobCanc := false }
    let s := if (s.vd vd).retain then s.modVd vd fun d => { d with state := 1 } else s.tearDown vd
    if vd = 0 ∧ s.pkg.booted then s.modPkg fun k => { k with booted := false, stage := 2, fail := 0, hostVfs := true } else s)

/-! ## Repair and moves (R378 to R380) -/

/-- Whether nothing of a launch stands on a core any more: no strand that runs, parks or halts in a launch, and nothing in flight. -/
def State.vacated (s : State) (c : Nat) : Bool :=
  !(s.core c).scored && (List.range 16).all fun i =>
    let x := s.strand (sidOf c i)
    (x.slot == .idle || (x.slot == .halted && x.launch.isNone)) && s.drained (sidOf c i)

/-- The work on a core is pre-empted (R33, R362). -/
def State.evict (s : State) (c : Nat) : State :=
  let s := s.launches.foldl (fun s e => if e.2.scored ∧ (e.2.cores.any fun k => k.1 == c) = true then s.askPreempt e.1 else s) s
  s.clearCore c

/-- R379: the spare of a core's crew: the lowest one enabled. -/
def State.spareOf (s : State) (p c : Nat) : Option Nat :=
  (List.range 8).map (8 * crewOf c + ·) |>.find? fun k => k != c && (s.part p).spare.getLsbD k && (s.core k).enabled

/-- A pre-empted strand will resume on another core. -/
def State.moveSaved (s : State) (e : Saved) (k : Nat) : State :=
  let ghost := e.ghost / 16384 * 16384 + sidOf k e.slot
  let x := s.strand e.ghost
  let s := State.setStrand { s with strands := tput {} e.ghost {} s.strands } ghost x
  let s := s.relabel e.ghost ghost
  { s with hwSaved := s.hwSaved.map fun f => if f.ghost = e.ghost then { f with core := k, ghost := ghost } else f }

/-- The logical numbers of two cores change places; what names the first by its number reaches the second. -/
def State.swapCores (s : State) (p c k : Nat) : State :=
  let n := (s.core c).logical
  let m := (s.core k).logical
  let s := s.modCore c fun x => { x with logical := m, enabled := false }
  let s := s.modCore k fun x => { x with logical := n }
  let s := s.modPart p fun r => { r with spare := r.spare &&& ~~~(BitVec.ofNat 960 (2 ^ k)) }
  let s := (s.hwSaved.filter fun e => e.core == c).foldl (fun s e => s.moveSaved e k) s
  { s with
    launches := s.launches.map fun e : Nat × Launch =>
      if e.2.scored then e else (e.1, { e.2 with cores := e.2.cores.map fun x => if x.1 = c then (k, x.2) else x }) }

/-- R2: a package whose map holds fewer than 944 cores runs with DEGRADED set. -/
def State.noteDegraded (s : State) : State :=
  let n := ((List.range 960).filter fun c => (s.core c).enabled).length
  if n < 944 then s.modPkg fun k => { k with degraded := true } else s

/-- CORE_RETIRE: from a bar line on the core is emptied; once it is, its number goes to a spare of its crew, and without one the
crew works with what it has. -/
def execCoreRetire (core : Nat) (s : State) : Host.Outcome State Fault Refusal :=
  .next (if core ≥ 960 ∨ (s.core core).enabled = false then s
  else if s.pkg.ency % 4096 ≠ 0 then s.owe none (barLineAt s.pkg.ency) prioRelease (.coreRetire core)
  else if s.vacated core then
    let p := (s.partOf core).getD 0
    let reserved := (List.range 16).map (sidOf core ·) |>.filter fun sid => (s.strand sid).slot == .halted
    let s := reserved.foldl State.idle s
    let s := match s.spareOf p core with
      | some k => s.swapCores p core k
      | none => State.noteDegraded (s.modCore core fun x => { x with enabled := false })
    (s.resumeSaved).coresChanged p
  else (s.evict core).owe none (barLineAt (s.pkg.ency + 1)) prioRelease (.coreRetire core))

/-- R380: no launch, pre-empted block, Dray command or admission of the source stands on what is to be moved. -/
def State.movable (s : State) (src : Nat) (crews : BitVec 120) (drays : BitVec 48) (spares : BitVec 960) : Bool :=
  let mine (c : Nat) : Bool := decide (c < 960) && (crews.getLsbD (crewOf c) || spares.getLsbD c)
  !(s.launches.any fun l => decide (launchKey 0 ≤ l.1) && l.2.st != .done && l.2.part == some src && l.2.cores.any fun c => mine c.1) &&
  !(s.hwSaved.any fun e => mine e.core) && !(s.saved.any fun e => mine e.2.core) &&
  !(s.strands.any fun e => mine (coreOf e.1) && (e.2.slot == .runnable || e.2.launch.isSome)) &&
  !(s.drays.any fun d => drays.getLsbD d.1 && !d.2.cmds.isEmpty) &&
  !(s.launches.any fun l => l.2.holdsCores && l.2.part == some src && l.2.drays.any fun d => drays.getLsbD d.dray)

/-- PARTITION_MOVE: at an ENCY bar line, once the source holds nothing on what is moved. -/
def execPartitionMove (src dst : Nat) (crews drays spares : Nat) (s : State) : Host.Outcome State Fault Refusal :=
  let cr := BitVec.ofNat 120 crews &&& (s.part src).crews
  let dr := BitVec.ofNat 48 drays &&& (s.part src).drays
  let sp := BitVec.ofNat 960 spares &&& (s.part src).spare
  .next (if src = dst then s
  else if s.pkg.ency % 4096 ≠ 0 ∨ s.movable src cr dr sp = false then
    s.owe none (barLineAt (s.pkg.ency + 1)) prioRelease (.partitionMove src dst crews drays spares)
  else
    let s := s.modPart src fun r => { r with crews := r.crews &&& ~~~cr, drays := r.drays &&& ~~~dr, spare := r.spare &&& ~~~sp }
    let s := s.modPart dst fun r => { r with crews := r.crews ||| cr, drays := r.drays ||| dr, spare := r.spare ||| sp }
    let cs := (List.range 960).filter fun c => cr.getLsbD (crewOf c)
    let s := cs.foldl (fun s c => (List.range 16).foldl (fun s i => if (s.strand (sidOf c i)).slot = .halted then
      s.idle (sidOf c i) else s) (s.takeCore c)) s
    ((s.coresChanged src).coresChanged dst))

/-! ## The Coachmen (R381) -/

/-- COACHMAN_TAKEOVER: the standby is the primary from now on. -/
def execCoachmanTakeover (s : State) : Host.Outcome State Fault Refusal :=
  .next (s.modPkg fun k => { k with
    primary := 1 - k.primary, coachStopped := false, heartbeat := k.ency / 4096, updateBar := none })

/-- FIRMWARE_UPDATE: the standby loads the image and takes over at the bar line named. -/
def execFirmwareUpdate (bar : Nat) (s : State) : Host.Outcome State Fault Refusal :=
  .next (s.modPkg fun k => { k with updateBar := some bar })

/-! ## Thermal levels (R390, R391) -/

/-- Whether the condition of a level holds. -/
def thermHolds (m : ThermalData) (level : Nat) : Bool :=
  if level = 3 then decide (m.junction ≥ 120) || decide (m.current > 5000) || m.sustained
  else if level = 2 then decide (m.junction ≥ 110)
  else decide (m.junction ≥ 100) || decide (m.average > 3600)

/-- The highest level whose condition holds. -/
def thermLevel (m : ThermalData) : Nat := if thermHolds m 3 then 3 else if thermHolds m 2 then 2 else if thermHolds m 1 then 1 else 0

/-- Level 2: scored launches are pre-empted as by PREQ, and free strands; their VDs are told. -/
def State.enterTwo (s : State) : State :=
  let s := s.launches.foldl (fun s e =>
    if e.2.scored && (e.2.st == .running || e.2.st == .ending) then (s.modLaunch e.1 fun L => { L with thermal := true }).askPreempt e.1
    else s) s
  let free := (s.strands.filter fun e => s.preemptable e.1).map fun e => (e.1, s.strandVd e.1)
  let s := free.foldl (fun s e => s.requestPreempt e.1 .scheduler) s
  ((free.map (·.2)).eraseDups).foldl (fun s v => s.postIrq v 6) s

/-- Level 3: the core, SRAM and memory rails are removed, and all their contents are lost. What stage 0 gave remains: the Coachmen
and the management they carry. The scored launches' other packages are told first (R391). -/
def State.enterThree (s : State) : State :=
  let s := s.launches.foldl (fun s e => if e.2.scored then s.tellTime e.1 (.ending (s.lcyL e.1) 8) else s) s
  let k := s.pkg
  { State.reset with
    strands := s.strands.filter fun e => isCoach (coreOf e.1)
    cores := s.cores.filter fun e => isCoach e.1
    spad := s.spad.filter fun e => isCoach (e.1 / 524288)
    mem := s.mem.filter fun e => !isNear e.1 && !isFar e.1
    launches := s.launches.filter fun e => decide (15360 ≤ e.1) && decide (e.1 < launchKey 0)
    inbox := s.inbox, drifts := s.drifts, picks := s.picks, freeCtr := s.freeCtr, nextId := s.nextId
    linkOut := s.linkOut, coachIn := s.coachIn, linkIn := s.linkIn, backOut := s.backOut, timeOut := s.timeOut, irqOut := s.irqOut, netOut := s.netOut, hostOut := s.hostOut
    pkg := {
      ency := k.ency, kg := k.kg, keyCur := k.keyCur, keyPrev := k.keyPrev, pkgnum := k.pkgnum, fused := k.fused, encount := k.encount
      grade := k.grade, stage := 0, therm := 3, thermLast := k.thermLast, ctxkey := k.ctxkey, ktree := k.ktree, primary := k.primary
      lostVds := ((s.vds.filter fun v => v.2.state == 1 || v.2.state == 2).map (·.1) ++ k.lostVds).eraseDups } }

/-- A level is left no earlier than 2^20 cycles after its condition last held. -/
def State.thermDue (s : State) : Nat := (s.pkg.thermLast.toList[s.pkg.therm - 1]?).getD 0 + 1048576

/-- THERMAL_SAMPLE: the highest level whose condition holds is entered. -/
def execThermalSample (m : ThermalData) (s : State) : Host.Outcome State Fault Refusal :=
  let old := s.pkg.therm
  let s := s.modPkg fun k => { k with
    therm := Nat.max old (thermLevel m)
    thermLast := Vector.ofFn fun i => if thermHolds m (i.val + 1) then k.ency else k.thermLast[i] }
  let s := if s.pkg.therm = 2 ∧ old < 2 then s.enterTwo else if s.pkg.therm = 3 ∧ old < 3 then s.enterThree else s
  .next (if s.pkg.therm = 0 ∨ (s.agenda.any fun e => e.2 == .thermalLevelExit) = true then s
  else s.owe none s.thermDue prioBar .thermalLevelExit)

/-- The level below: leaving 3 restarts bring-up from stage 1; leaving 2 tells the VDs whose launches may be resumed. -/
def State.leaveLevel (s : State) : State :=
  let old := s.pkg.therm
  let s := s.modPkg fun k => { k with therm := old - 1 }
  if old = 3 then s.now prioStart .bringupStage1
  else if old = 2 then
    let vs := (s.launches.filter fun e => e.2.scored && e.2.thermal && e.2.st == .preempted).map fun e => e.2.vd
    let s := (vs.eraseDups).foldl (fun s v => s.postIrq v 6) s
    s.parts.foldl (fun s e => s.kickEngine e.1) s.resumeSaved
  else s

/-- THERMAL_LEVEL_EXIT. -/
def execThermalLevelExit (s : State) : Host.Outcome State Fault Refusal :=
  .next (if s.pkg.therm = 0 then s
  else
    let s := if s.thermDue ≤ s.pkg.ency then s.leaveLevel else s
    if s.pkg.therm = 0 then s else s.owe none (Nat.max s.thermDue (s.pkg.ency + 1)) prioBar .thermalLevelExit)

end Sys2Proof.Machine
end

