-- ==== Sys2Proof/Machine/Boot.lean ====
section
/-! DEFINITION. The staged start (R383 to R385): stage 0, the discovery flood and the core map (R392, R393), the boot launch (R394,
R395), stage 3; and the host link: TDISP and transactions (R236), and management messages (R387, R388). -/
namespace Sys2Proof.Machine

/-! ## Stage 0 (R383, R386) -/

/-- The strand that runs a Coachman's firmware, at the start. -/
def State.startCoach (s : State) (core : Nat) (entry tvec : Word) : State :=
  let sid := sidOf core 0
  let s := s.setStrand sid { slot := .runnable, pc := entry &&& ~~~7#64, priv := 2, tvec := tvec &&& ~~~7#64, fetch := .phys }
  s.setLaunch sid { s.launch sid with st := .running }

/-- BRINGUP_STAGE_0: the ROM starts the Coachmen, and the keys are drawn. -/
def execBringupStage0 (p : Stage0Data) (s : State) : Host.Outcome State Fault Refusal :=
  .next (if s.pkg.stage ≠ 7 then s
  else if !p.flashOk then s.modPkg fun k => { k with fail := 1 }
  else if !p.linkOk then s.modPkg fun k => { k with fail := 2 }
  else
    let s := { s with mem := p.image.foldl (fun (m : Sparse Byte) (e : Nat × Byte) => tput memDefault e.1 e.2 m) s.mem }
    let s := s.modPkg fun k => { k with
      stage := 0, fail := 0, keyCur := p.routeKey, keyPrev := 0, kg := 0, ktree := p.kTree, ctxkey := p.ctxKey
      pkgnum := p.pkgnum % 256, primary := 0, heartbeat := k.ency / 4096 }
    (s.startCoach 960 p.entry p.tvec).startCoach 961 p.entry p.tvec)

/-! ## Stage 1 (R392, R393) -/

def siteNum (x y : Nat) : Nat := 32 * y + x
def dirNum : Dir → Nat
  | .n => 0
  | .e => 1
  | .s => 2
  | .w => 3
def numDir (d : Nat) : Dir := if d = 0 then .n else if d = 1 then .e else if d = 2 then .s else .w
/-- The opposite direction. -/
def opposite (d : Nat) : Nat := (d + 2) % 4

/-- The packets of one cycle at a site are taken in the order of the directions they come from. -/
def prioFlood (d : Nat) : Nat := 2 ^ 70 + d

/-- Discovery packets from a site to its neighbours but one; a packet arrives from the direction of its sender. -/
def State.flood (s : State) (x y : Nat) (but : Option Nat) : State :=
  (List.range 4).foldl (fun s d => match neighbour x y d with
    | some (x', y') => if but = some d then s
      else s.after (hopCost x y x' y') (prioFlood (opposite d)) (.discoveryPacket x' y' (numDir (opposite d)))
    | none => s) s

/-- BRINGUP_STAGE_1: in cycle F the primary Coachman floods, and the map is built at F + 1024. -/
def execBringupStage1 (s : State) : Host.Outcome State Fault Refusal :=
  .next (if s.pkg.stage ≠ 0 then s
  else
    let c := 960 + s.pkg.primary
    let s := { s with cores := s.cores.map fun e : Nat × Core => (e.1, { e.2 with answered := false, enabled := false }) }
    let s := s.modPkg fun k => { k with
      floodStart := some k.ency, sites := [(siteNum (siteX c) (siteY c), siteX c, siteY c, false)] }
    (s.flood (siteX c) (siteY c) none).after 1024 prioStart .mapBuild)

/-- R392: the coordinates that a packet from a direction implies: those of its sender, one hop on. -/
def State.implied (s : State) (x y d : Nat) : Option (Nat × Nat) :=
  match neighbour x y d with
  | none => none
  | some (x', y') =>
    match look (siteNum x' y') s.pkg.sites with
    | some (a, b, _) => neighbour a b (opposite d)
    | none => neighbour 0 0 (opposite d)

/-- A core that answers: not fused off. -/
def State.answers (s : State) (c : Nat) : Bool := decide (c < 960) && !s.pkg.fused.getLsbD c

/-- DISCOVERY_PACKET: the first sets the coordinates of a router and is passed on; a later one that implies others is an error. -/
def execDiscoveryPacket (x y : Nat) (dir : Dir) (s : State) : Host.Outcome State Fault Refusal :=
  let d := dirNum dir
  let n := siteNum x y
  .next (match s.pkg.floodStart, s.implied x y d with
  | some _, some (a, b) =>
    (match look n s.pkg.sites with
    | some (a', b', _) => if a = a' ∧ b = b' then s
      else s.modPkg fun k => { k with sites := bind n (a', b', true) k.sites }
    | none =>
      let s := s.modPkg fun k => { k with sites := bind n (a, b, false) k.sites }
      let s := s.flood x y (some d)
      match siteCore x y with
      | some c =>
        if s.answers c then
          let q := 960 + s.pkg.primary
          s.after (16 + siteLatency x y (siteX q) (siteY q)) prioArrive (.discoveryAnswer c)
        else s
      | none => s)
  | _, _ => s)

/-- DISCOVERY_ANSWER: recorded until F + 1024. -/
def execDiscoveryAnswer (core : Nat) (s : State) : Host.Outcome State Fault Refusal :=
  .next (match s.pkg.floodStart with
  | some f => if s.answers core ∧ s.pkg.ency < f + 1024 then s.modCore core fun k => { k with answered := true } else s
  | none => s)

/-- R12: logical numbers in increasing physical number over a list of cores, which are the enabled ones. -/
def State.numberCores (s : State) (cs : List Nat) : State :=
  let s := { s with cores := s.cores.map fun e : Nat × Core => if e.1 < 960 then (e.1, { e.2 with enabled := false, logical := 0 }) else e }
  let s := cs.zipIdx.foldl (fun s e => s.modCore e.1 fun k => { k with logical := e.2, enabled := true }) s
  s.modPkg fun k => { k with degraded := decide (cs.length < 944) }

/-- The cores below 960 that satisfy a test, in increasing physical number. -/
def State.coresWhere (s : State) (f : Core → Bool) : List Nat := (List.range 960).filter fun c => f (s.core c)

/-- MAP_BUILD: at F + 1024. -/
def execMapBuild (s : State) : Host.Outcome State Fault Refusal :=
  .next (match s.pkg.floodStart with
  | none => s
  | some _ =>
    let bad := s.pkg.sites.any fun e => e.2.2.2
    let s := s.modPkg fun k => { k with floodStart := none }
    if bad then s.modPkg fun k => { k with fail := 3 }
    else (s.numberCores (s.coresWhere (·.answered))).modPkg fun k => { k with stage := 1, fail := 0 })

/-! ## Stage 2 and the boot launch (R394, R395) -/

/-- The boot launch, while there is one: the launch of VD 0 that belongs to no partition. -/
def State.bootLaunch (s : State) : Option (Nat × Launch) :=
  s.launches.find? fun e => decide (launchKey 0 ≤ e.1) && e.2.part.isNone && e.2.vd == 0 && !e.2.scored && e.2.st != .done

/-- R394: the boot launch is placed: every enabled core's slot 0 parks in the boot wait. -/
def State.placeBoot (s : State) : State :=
  let cs := s.coresWhere (·.enabled)
  let (id, s) := s.fresh
  let l := launchKey id
  let s := cs.foldl (fun s c => (s.spadClear c).modCore c fun k => { k with
    lastVd := some 0, elastic := Vector.replicate 4 [], k := 0, scored := false }) s
  let s := cs.foldl (fun s c => s.setPort (portKey (siteX c) (siteY c) 0) { gen := 0, ovd := 0, isOpen := true, closed := none }) s
  let s := cs.foldl (fun s c => s.setStrand (sidOf c 0) { s.newStrand (sidOf c 0) l 0 0 .spad 0 with slot := .parked .boot }) s
  let s := s.modVd 0 fun d => { d with state := 1 }
  let s := s.modPkg fun k => { k with cnvd := Vector.replicate 2 0 }
  s.setLaunch l {
    st := .running, vd := 0, cores := cs.map fun c => (c, 1), units := cs.map fun c => (s.unitOf (sidOf c 0), .active)
    start := s.pkg.ency + 4096 }

/-- R395: the boot launch ends once cn1 has counted the enabled cores: with the right checksum VD 0 is torn down, otherwise stage 2
has failed. -/
def State.endBoot (s : State) (sum : BitVec 32) : State :=
  let n := (s.coresWhere (·.enabled)).length
  let s := s.modPkg fun k => { k with bootSum := none }
  if ((s.vd 0).counter 2).done = BitVec.ofNat 32 n * sum then
    (s.modPkg fun k => { k with booted := true }).startReset 0 false
  else s.modPkg fun k => { k with fail := 3 }

/-- BRINGUP_STAGE_2: memory trains, the trees are set up and the frame table is cleared; then the boot launch. -/
def execBringupStage2 (trained : Bool) (far : Bool) (checksum : BitVec 32) (s : State) : Host.Outcome State Fault Refusal :=
  let again (s : State) : State := s.owe none (barLineAt (s.pkg.ency + 1)) prioStart (.bringupStage2 trained far checksum)
  .next (if s.pkg.stage ≠ 1 then s
  else match s.pkg.bootSum with
  | some sum =>
    let n := (s.coresWhere (·.enabled)).length
    if ((s.vd 0).counter 1).reached n then s.endBoot sum else again s
  | none =>
    if s.pkg.booted then s
    else if !trained then s.modPkg fun k => { k with fail := 4 }
    else if !far then s.modPkg fun k => { k with fail := 5 }
    else
      let s := match s.bootLaunch with | some (l, _) => s.retire l | none => s
      let s := { s with frames := [], lines := [], blocks := [], tree := [], nodes := [], ctrCache := [], mc := [] }
      again (s.placeBoot.modPkg fun k => { k with fail := 0, bootSum := some checksum }))

/-- The go word of a core. -/
def State.goWord (s : State) (c : Nat) : Nat := ofBytes (s.spadRead c 0x7FFF0 8)

/-- BOOT_WAIT_RELEASE: slot 0 starts at the address that the go word holds. -/
def execBootWaitRelease (core : Nat) (s : State) : Host.Outcome State Fault Refusal :=
  let sid := sidOf core 0
  .next (if (s.strand sid).slot = .parked .boot ∧ s.goWord core ≠ 0 then
    s.modStrand sid fun x => { x with slot := .runnable, pc := BitVec.ofNat 64 (s.goWord core % 524288 / 8 * 8) }
  else s)

/-- BOOT_EXPIRY: cores that have not halted leave the map. -/
def execBootExpiry (s : State) : Host.Outcome State Fault Refusal :=
  .next (match s.pkg.bootSum, s.bootLaunch with
  | some _, some (l, _) =>
    let late (c : Nat) : Bool :=
      let x := s.strand (sidOf c 0)
      x.launch == some l && x.slot != .halted && x.slot != .idle
    s.numberCores ((s.coresWhere (·.enabled)).filter fun c => !late c)
  | _, _ => s)

/-! ## Stage 3 (R383, R385) -/

/-- BRINGUP_STAGE_3: links are measured, and time lock follows at the next bar line. -/
def execBringupStage3 (p : Stage3Data) (s : State) : Host.Outcome State Fault Refusal :=
  .next (if s.pkg.stage ≠ 2 then s
  else if !p.lockOk then s.modPkg fun k => { k with fail := 6 }
  else
    (s.modPkg fun k => { k with torus := p.torus, peerport := p.peerport.map fun e => (e.1, e.2 % 8192) }).owe none
      (barLineAt (s.pkg.ency + 1)) prioBar (.timeLock p.lock))

/-! ## The host link (R236, R387) -/

/-- R236: 64 selective streams. -/
def State.lockedVds (s : State) : Nat := (s.vds.filter fun e => e.2.tdisp == .configLocked || e.2.tdisp == .run).length

/-- LOCK_INTERFACE. -/
def execLockInterface (vd : Nat) (s : State) : Host.Outcome State Fault Refusal :=
  .next (if (s.vd vd).tdisp = .configUnlocked ∧ s.lockedVds < 64 then s.modVd vd fun d => { d with tdisp := .configLocked } else s)

/-- START_INTERFACE. -/
def execStartInterface (vd : Nat) (s : State) : Host.Outcome State Fault Refusal :=
  .next (if (s.vd vd).tdisp = .configLocked then s.modVd vd fun d => { d with tdisp := .run } else s)

/-- STOP_INTERFACE. -/
def execStopInterface (vd : Nat) (s : State) : Host.Outcome State Fault Refusal :=
  .next (s.modVd vd fun d => { d with tdisp := .configUnlocked })

/-- What the host is answered: by the number of the VD, or 192 for the physical function. -/
def State.hostReply (s : State) (v : Nat) (bs : List Byte) : State := { s with hostOut := s.hostOut ++ [(v, bs)] }

/-- Whether n bytes at a physical address lie in frames of a VD. -/
def State.vdOwns (s : State) (v a n : Nat) : Bool :=
  (isNear a || isFar a) && ((List.range ((a + Nat.max n 1 - 1) / 4096 - a / 4096 + 1)).all fun i =>
    (s.frame (a / 4096 + i)).assigned && (s.frame (a / 4096 + i)).owner == v)

/-- HOST_TRANSACTION: in RUN only on the VD's own stream; one outside it moves the interface to ERROR and is refused. -/
def execHostTransaction (t : HostTx) (s : State) : Host.Outcome State Fault Refusal :=
  let d := s.vd t.vd
  .next (if d.tdisp = .run ∧ t.ownStream = false then (s.setVd t.vd { d with tdisp := .error }).hostReply t.vd []
  else if d.tdisp = .error ∨ d.tdisp = .configLocked ∨ s.pkg.hostVfs = false ∨ d.state ≠ 1 ∨
      s.vdOwns t.vd t.addr t.data.length = false then s.hostReply t.vd []
  else
    let s := s.wakePart d.part
    match s.linesFault t.addr t.data.length with
    | some k => (s.chargeLine t.vd k).hostReply t.vd []
    | none =>
      if t.write then s.linesWrite t.addr t.data (t.data.length / 64 + 2)
      else s.hostReply t.vd (s.physRead t.addr t.data.length))

/-- R388: the fuse map and status, field by field. -/
def Pkg.statusBytes (k : Pkg) : List Byte :=
  toBytes 120 k.fused.toNat ++ toBytes 2 k.encount ++ toBytes 1 k.grade ++ toBytes 1 k.stage ++ toBytes 1 k.fail ++
  toBytes 1 (if k.degraded then 1 else 0) ++ toBytes 1 k.therm

/-- MCTP_MESSAGE: from stage 0 on. Measurements and evidence are free values. -/
def execMctpMessage (m : MgmtMsg) (s : State) : Host.Outcome State Fault Refusal :=
  .next (if s.pkg.stage = 7 then s
  else match m with
  | .setLtol p v => s.setLtol p v
  | .readStatus => s.hostReply 192 s.pkg.statusBytes
  | .readTelemetry =>
    let (bs, s) := s.freeBytes 4
    s.hostReply 192 bs
  | .spdm =>
    let (bs, s) := s.freeBytes 8
    s.hostReply 192 bs)

end Sys2Proof.Machine
end

