-- ==== Sys2Proof/Machine/Checkpoint.lean ====
section
/-! DEFINITION. The checkpoint engine (R347 to R349): the start of a round, the copy of its units, the moves back and its end. -/
namespace Sys2Proof.Machine

/-- Frames of a 64 KiB unit. -/
def unitFrames (u : Nat) : List Nat := (List.range 16).map (16 * u + ·)

/-- R347: the registers are copied into the control page of the round's partition; the places of the fields within the 32 bytes
are not given, so they are free values (notes/assumptions/7.md). -/
def State.ckptCopy (s : State) : State :=
  match (s.vd s.ckpt.vd).part with
  | p =>
    let page := (s.part p).ctlpage
    if page = 0 then s
    else
      let (a, s) := s.freeWord
      let (b, s) := s.freeWord
      let (c, s) := s.freeWord
      let (d, s) := s.freeWord
      s.engineWrite (page + 0x120) ([a, b, c, d].flatMap fun w => toBytes 8 w.toNat)

/-- The engine's own copies set no DIRTY bit (R346). -/
def State.clean (s : State) (f : State → State) : State := { f s with dirty := s.dirty }

/-- A write of the engine into the area. -/
def State.areaWrite (s : State) (a : Nat) (bs : List Byte) : State :=
  s.clean fun s => s.linesWrite a bs (bs.length / 64 + 2)

/-- R348: a round that ends with an error is counted, and the interrupt of its end posted (R369). -/
def State.ckptEnd (s : State) (err : Nat) : State :=
  let s := { s with ckpt := { s.ckpt with state := if err = 0 then 4 else 5, err := err } }
  let s := if err = 0 then s else s.countErr (some (s.vd s.ckpt.vd).part) fun e => { e with ckerr := sat32 e.ckerr }
  (s.postIrq s.ckpt.vd 3).ckptCopy

/-- CHECKPOINT_ROUND_START: the dirty units that are wholly the VD's are frozen; without spares for them the round ends before it
has begun. -/
def execCheckpointRoundStart (s : State) : Host.Outcome State Fault Refusal :=
  let k := s.ckpt
  let own (f : Nat) : Bool := (s.frame f).owner == k.vd
  let frozen := s.dirty.filter fun u => (unitFrames u).all own
  let mixed := s.dirty.filter fun u => (unitFrames u).any own && !(unitFrames u).all own
  .next (if k.state ≠ 1 then s
  else
    let s := s.countErr (some (s.vd k.vd).part) fun e => { e with ckmixed := Nat.min 4294967295 (e.ckmixed + mixed.length) }
    if frozen.length > Nat.min (16384 - k.remap.length) k.sparelen then s.ckptEnd 1
    else
      let s := { s with
        dirty := s.dirty.filter fun u => !frozen.contains u
        ckpt := { k with round := k.round + 1, state := 2, units := frozen, frozen := frozen.length, copied := 0, diverted := 0 } }
      let (w, s) := s.duration 1 1048576
      s.ckptCopy.after w prioArrive .checkpointUnitCopy)

/-- The copy stops; the units not yet copied are dirty again, and the lines move back. -/
def State.ckptStop (s : State) (err : Nat) : State :=
  let rest := s.ckpt.units.drop s.ckpt.copied
  ({ s with
    dirty := rest.foldl (fun d u => insertNat u d) s.dirty
    ckpt := { s.ckpt with state := 3, err := err } }).ckptCopy.after 1 prioArrive .checkpointRetire

/-- The bytes of a unit as of the start: its own lines, never its spare's (R349). -/
def State.unitBytes (s : State) (u : Nat) : List Byte :=
  (unitFrames u).flatMap fun f => if (s.frame f).fresh then List.replicate 4096 0 else readBytes s.mem (4096 * f) 4096

/-- R348: the counter under which a unit is sealed for host space. -/
def ckptCounter (round i : Nat) : Nat := 2 ^ 63 + 2 ^ 62 + round * 2 ^ 24 + i

/-- The image of a unit as the area takes it. -/
def State.unitImage (s : State) (u i : Nat) : List Byte :=
  let bs := s.unitBytes u
  if s.ckpt.toHost then
    let k := s.key s.ckpt.vd
    let keys := aesKeys k.txkey.toNat
    let iv := sealIv k (ckptCounter s.ckpt.round.toNat i)
    let ct := xorL (natsOf bs) (gcmStream keys iv 4096 2)
    bytesOf (ct ++ gcmTag keys iv (sealAad 65536) ct) ++ List.replicate 48 0
  else bs

/-- Whether the frames of n bytes of the area may be written for the VD. -/
def State.areaFits (s : State) (a n : Nat) : Bool :=
  (List.range ((a + n - 1) / 4096 - a / 4096 + 1)).all fun i =>
    let g := a / 4096 + i
    (if s.ckpt.toHost then isHost (4096 * g) else isFar (4096 * g)) && s.usable g s.ckpt.vd && (s.relayOf g).isNone &&
      (s.frame g).pins == 0

/-- CHECKPOINT_UNIT_COPY: the next frozen unit is copied; a copy through the host waits as an egress does (R228). -/
def execCheckpointUnitCopy (s : State) : Host.Outcome State Fault Refusal :=
  let k := s.ckpt
  let base := 4096 * k.area
  .next (if k.state ≠ 2 then s
  else match k.units[k.copied]? with
    | none =>
      -- the places of ROUND and the count in bytes 0 to 63 are not given: free values
      let (ws, s) := (List.range 8).foldl (fun (r : List Word × State) _ => let (w, s) := r.2.freeWord; (r.1 ++ [w], s)) ([], s)
      let s := s.areaWrite base (ws.flatMap fun w => toBytes 8 w.toNat)
      ({ s with ckpt := { s.ckpt with state := 3 } }).ckptCopy.after 1 prioArrive .checkpointRetire
    | some u =>
      let i := k.copied
      let stride := if k.toHost then 0x10040 else 0x10000
      let at_ := base + 0x30000 + i * stride
      if k.toHost ∧ (s.key k.vd).inthold = true then s.ckptStop 3
      else if k.toHost ∧ s.checksPending k.vd = true then s.after 1 prioArrive .checkpointUnitCopy
      else match s.linesFault (65536 * u) 65536 with
        | some d => (s.chargeLine k.vd d).ckptStop 2
        | none =>
          if !s.areaFits at_ stride then s.ckptStop 4
          else
            let s := (s.areaWrite at_ (s.unitImage u i)).areaWrite (base + 64 + 8 * i) (toBytes 8 (65536 * u))
            let s := { s with ckpt := { s.ckpt with copied := i + 1 } }
            let (w, s) := s.duration 1 1048576
            s.ckptCopy.after w prioArrive .checkpointUnitCopy)

/-- The first line that has still to move back. -/
def Ckpt.nextMove (k : Ckpt) : Option (Remap × Nat) :=
  k.remap.findSome? fun r => ((List.range 1024).find? fun l => r.lm.getLsbD l).map fun l => (r, l)

/-- CHECKPOINT_RETIRE: one line moves from its spare unit to its unit; after the last the entries are free. -/
def execCheckpointRetire (s : State) : Host.Outcome State Fault Refusal :=
  .next (if s.ckpt.state ≠ 3 then s
  else match s.ckpt.nextMove with
    | some (r, l) =>
      let bs := readBytes s.mem (65536 * r.spare + 64 * l) 64
      let s := { s with
        mem := writeBytes s.mem (65536 * r.unit + 64 * l) bs
        ckpt := { s.ckpt with remap := s.ckpt.remap.map fun (e : Remap) =>
          if e.unit = r.unit then { e with lm := e.lm &&& ~~~(BitVec.ofNat 1024 (2 ^ l)) } else e } }
      s.after 1 prioArrive .checkpointRetire
    | none => ({ s with ckpt := { s.ckpt with remap := [] } }).after 1 prioCount .checkpointRoundEnd)

/-- CHECKPOINT_ROUND_END: the round ends, and the counter that CKPT named counts it. -/
def execCheckpointRoundEnd (s : State) : Host.Outcome State Fault Refusal :=
  .next (if s.ckpt.state ≠ 3 then s
  else
    let s := s.ckptEnd s.ckpt.err
    let c := (s.vd s.ckpt.cnVd).counter s.ckpt.cn
    (s.setCounter s.ckpt.cnVd s.ckpt.cn { c with done := c.done + 1 }).wakeCounter s.ckpt.cnVd s.ckpt.cn)

end Sys2Proof.Machine
end

