-- ==== Sys2Proof/Machine/Control.lean ====
section
/-! DEFINITION. Branches and jumps (R122 to R124), NOP, HALT (R125, R126), TRAP and ERET (R357, R358) and the CSR accesses
(R128, R129). -/
namespace Sys2Proof.Machine

/-! ## Shared operations -/

/-- A transfer of control (R124). -/
def State.jump (s : State) (target : Word) : State := s.modMe fun x => { x with pc := target }

/-- A transfer to a register target (R44). -/
def registerTarget (s : State) (target : Word) (k : State → Res) : Res :=
  if bits target 0 2 ≠ 0 then misalignedTarget target else k (s.jump target)

/-- The strand halts (R126); a reserved strand starts again when fault entries wait (R247). -/
def State.halt (s : State) : State :=
  let sid := s.cur.sid
  let s := s.modMe fun x => { x with slot := .halted }
  match s.me.launch, s.partOf (coreOf sid) with
  | some _, _ => s.now prioCount (.unitCompletion sid)
  | none, some p =>
    if s.isReserved sid then s.routeWaiting p else s
  | none, none => s

/-! ## Branches and jumps -/

def execBr (gd : Guard) (off : Fin 2097152) (s : State) : Host.Outcome State Fault Refusal :=
  finish s (word s { gd := gd } fun s => .ok (s.jump (pairTarget s.cur.pair (immS 21 off))))

def execJmp (off : Fin 1048576) (s : State) : Host.Outcome State Fault Refusal :=
  finish s (word s {} fun s => .ok (s.jump (pairTarget s.cur.pair (immS 20 off))))

def execCall (off : Fin 1048576) (s : State) : Host.Outcome State Fault Refusal :=
  finish s (word s { dst := [.g 31] } fun s =>
    .ok ((s.landG 31 s.cur.next 1).jump (pairTarget s.cur.pair (immS 20 off))))

def execRet (a : GReg) (s : State) : Host.Outcome State Fault Refusal :=
  finish s (word s { src := [.g a] } fun s => registerTarget s (s.rg a) .ok)

def execCallr (a : GReg) (s : State) : Host.Outcome State Fault Refusal :=
  finish s (word s { src := [.g a], dst := [.g 31] } fun s =>
    registerTarget s (s.rg a) fun s' => .ok (s'.landG 31 s.cur.next 1))

/-! ## System words -/

def execNop (s : State) : Host.Outcome State Fault Refusal := finish s (word s {} fun s => .ok s)

def execHalt (s : State) : Host.Outcome State Fault Refusal := finish s (word s { outward := true } fun s => .ok s.halt)

def execTrap (code : Fin 512) (s : State) : Host.Outcome State Fault Refusal :=
  finish s (word s {} fun _ => .trap { cause := 14, eval := BitVec.ofNat 64 code })

/-- R358: the checks of ERET come before its effect. -/
def execEret (s : State) : Host.Outcome State Fault Refusal :=
  finish s (word s { level := 1, src := [.csr 0x21, .csr 0x24] } fun s =>
    let p := bits s.me.estat 0 2
    if p = 3 ∨ s.me.priv < p then privilege s
    else if bits s.me.epc 0 2 ≠ 0 then misalignedTarget s.me.epc
    else .ok (((s.logNow (.csr 0x24)).logNow (.csr 2)).modMe Strand.eret))

/-! ## CSR accesses -/

/-- The registers an access reads. Flag updates that have not landed hold no access of FPCTL (R70, R129). -/
def csrSrc (n : Nat) : List Dst := if n = 3 then [.vl] else [.csr n]

/-- R69, R129: a write lands in 2 turns; a core-scope CSR changes for every strand at the start of its land turn. -/
def State.csrWrite (s : State) (n : Nat) (v : Word) : State :=
  let s := s.landWide (.csr n) (v.setWidth 65536) 2
  if csrIsCore n then
    let due := s.pkg.ency - s.pkg.ency % 16 + 32
    (s.modCore (coreOf s.cur.sid) fun k => { k with csrPend := k.csrPend ++ [(n, v, due, slotOf s.cur.sid)] }).owe none due
      prioLand (.land s.cur.sid)
  else s

/-- R69: a number that is unassigned is illegal, and a write needs a Set by level that the strand has. -/
def csrAccess (s : State) (n : Nat) (write : Bool) (u : Use) (effect : State → Res) : Res :=
  match csrLevels n with
  | none => illegalInstr s
  | some (r, w) =>
    match write, w with
    | true, none => privilege s
    | true, some l => word s { u with level := Nat.max u.level l, outward := csrIsCore n } effect
    | false, _ => word s { u with level := r } effect

def execCsrr (d : GReg) (csr : Fin 512) (s : State) : Host.Outcome State Fault Refusal :=
  finish s (csrAccess s csr false { src := csrSrc csr, dst := [.g d] } fun s => .ok (s.landG d (s.csr s.cur.sid csr) 2))

def execCsrw (csr : Fin 512) (a : GReg) (s : State) : Host.Outcome State Fault Refusal :=
  finish s (csrAccess s csr true { src := [.g a], dst := [.csr csr] } fun s => .ok (s.csrWrite csr (s.rg a)))

def execCsrx (d : GReg) (csr : Fin 512) (a : GReg) (s : State) : Host.Outcome State Fault Refusal :=
  finish s (csrAccess s csr true { src := .g a :: csrSrc csr, dst := [.g d, .csr csr] } fun s =>
    .ok ((s.landG d (s.csr s.cur.sid csr) 2).csrWrite csr (s.rg a)))

/-! ## LAND (R72) -/

/-- R129: a value written to a counter, with the events of its landing cycle added. -/
def Core.landCsr (k : Core) (ency n : Nat) (v : Word) : Core :=
  let events := if k.counted.1 = ency then ((k.counted.2.filter fun e => e.1 == n).map (·.2)).sum else 0
  k.setCsr n (v + BitVec.ofNat 64 events)

/-- R69: writes of core-scope CSRs whose turn has begun, in increasing slot. -/
def Core.landCsrs (k : Core) (ency : Nat) : Core :=
  let due := k.csrPend.filter fun e => decide (e.2.2.1 ≤ ency)
  let k := { k with csrPend := k.csrPend.filter fun e => decide (ency < e.2.2.1) }
  (List.range 16).foldl (fun k slot => (due.filter fun e => e.2.2.2 == slot).foldl (fun k e => k.landCsr ency e.1 e.2.1) k) k

/-- R168: the HMMA or HMMS whose B group a scored write would change during its array phase: its address. -/
def State.groupWritten (s : State) (sid : Nat) (ds : List Dst) : Option Word :=
  let h := s.harp (crewOf (coreOf sid))
  match h.group with
  | some (o, regs, stop) =>
    if o = sid ∧ s.pkg.ency < stop ∧ (ds.any fun d => match d with
        | .v r => regs.contains r.val
        | .be r => regs.contains r.val
        | _ => false) then some h.charged.1 else none
  | none => none

/-- LAND: every result of the strand that is due lands, and the core's CSR writes that are due. -/
def execLand (sid : Nat) (s : State) : Host.Outcome State Fault Refusal :=
  let now := s.lcy sid
  let due := ((s.strand sid).pend.filter fun p => p.isDue now).map (·.dst)
  let hit := if s.scored sid then s.groupWritten sid due else none
  let s := (s.modStrand sid fun x => (x.landAll now (!s.scored sid)).retireVec now).modCore (coreOf sid) fun k =>
    if k.csrPend.isEmpty then k else k.landCsrs s.pkg.ency
  .next (match hit with
    | some pc => s.takeTrap sid { cause := 15, detail := 6, eval := BitVec.ofNat 64 now } pc
    | none => s)

end Sys2Proof.Machine
end

