-- ==== Sys2Proof/Machine/LaneStart.lean ====
section
/-! DEFINITION. LANE_START (R76, R132): the word at the head of the vector queue starts in the lanes, or waits there. -/
namespace Sys2Proof.Machine

/-- The word of a lane in its own chapter, its operands checked (R78, R107) and corrected (R77). -/
def State.beginWord (s : State) (l : Lane) : Begin :=
  let x := s.strand l.sid
  let vmax := s.vlmax32 l.sid
  if !s.laneReady l then .wait
  else match (l.e.op.poisonAt x vmax l.e.vl).orElse fun _ => l.e.op.residueAt x vmax l.e.vl with
    | some t => .trap t
    | none =>
      let s := s.correct l.sid (l.e.op.uses x vmax l.e.vl)
      match l.e.op.arith x (s.vlmax32 l.sid) l.e.vl with
      | some o => .done (s.laneArith l o) none
      | none =>
        match s.laneMem l with
        | some b => b
        | none =>
          match l.e.op with
          | .hplane vb desc place fmt n => .done (s.laneHplane l vb desc place fmt n) none
          | .hread t vb ctl fmt n op => match s.laneHread l t vb ctl fmt n op with
            | some u => .done u none
            | none => .wait
          | .hwrite _ vb ctl n op => .done (s.laneHwrite l vb ctl n op) none
          | .push tk tkr vb base n => match s.lanePush l tk tkr vb base n with
            | some u => .done u none
            | none => .wait
          | _ => .done s none

/-- The head of the queue leaves it. -/
def State.popItem (s : State) (sid : Nat) : State := s.modStrand sid fun x => { x with vq := x.vq.drop 1 }

/-- The word of a block whose turn it is: with the length an SLD of its replay left, and its own sequence number (R139). -/
def VLoop.now (l : VLoop) : Option VEntry :=
  (l.words[l.pos]?).map fun e => { e with
    seq := l.seq + 1 + l.rep * l.len + l.pos
    vl := match l.trim with | some (n, _) => n | none => e.vl }

/-- Whether the word is the last of the last replay (R139, R140). -/
def VLoop.isLast (l : VLoop) : Bool := l.pos + 1 == l.len && l.lastReplay

/-- The place after the word. -/
def VLoop.advance (l : VLoop) : VLoop :=
  if l.pos + 1 < l.len then { l with pos := l.pos + 1 } else { l with pos := 0, rep := l.rep + 1 }

/-- A started word turns out to be the last of its block: the VLOOP's result lands with it, and its return entry stands with it. -/
def State.attachLoop (s : State) (sid seq : Nat) (r : GReg × Nat × Nat) : State :=
  match (s.strand sid).started.find? fun e => e.seq == seq with
  | some e =>
    let s := s.modStrand sid fun x => { x with started := x.started.map fun k =>
      if k.seq = seq then { k with ret := k.ret + 1, loop := if r.1 = 0 ∨ e.due.isSome then k.loop else some r } else k }
    match e.due with
    | some d => if r.1 = 0 then s else s.deliver sid r.2.2 (.g r.1) (BitVec.ofNat _ r.2.1) (BitVec.allOnes 65536) d
    | none => s
  | none => s

/-- R133, R140: a trim makes a replay the last: its earlier words that have not landed hold their return entries until they do. -/
def State.trimReturns (s : State) (sid : Nat) (l : VLoop) : State :=
  let first := l.seq + 1 + l.rep * l.len
  s.modStrand sid fun x => { x with started := x.started.map fun e =>
    if first ≤ e.seq ∧ e.seq < first + l.pos then { e with ret := (((l.words[e.seq - first]?).map fun w => w.op.returns).getD 0) } else e }

/-- The replay's word has started: the block goes on, or ends. -/
def State.blockNext (s : State) (sid : Nat) (l : VLoop) (seq : Nat) (trim : Option Nat) : State :=
  let k := { l with trim := match trim with | some n => some (n, l.pos) | none => l.trim }
  let s := if k.lastReplay && !l.lastReplay then s.trimReturns sid l else s
  if k.isLast then
    let s := if l.isLast then s else s.attachLoop sid seq (l.d, l.rep + 1, l.own)
    s.modStrand sid fun x => { x with
      vq := x.vq.drop 1, pend := x.pend.filter fun p => !l.promised p, ended := x.ended ++ [k] }
  else s.modStrand sid fun x => { x with vq := .block k.advance :: x.vq.drop 1 }

/-- R109: the trap of a word in the lanes; a residue fault uses up the error of the multiplier. -/
def State.laneTrap (s : State) (sid : Nat) (e : VEntry) (t : TrapInfo) : State :=
  let s := if t.cause = 12 then s.modStrand sid fun x => { x with mulErr := none } else s
  s.vectorTrap sid e.seq e.pc t

/-- The next item of the queue, at its turn. -/
def State.laneStart (s : State) (sid : Nat) : State :=
  let x := s.strand sid
  let again (s : State) : State := s.owe (some (s.clockOf sid)) (s.lcy sid + 16) prioLane (.laneStart sid)
  match x.vq with
  | [] => s
  | i :: _ =>
    if s.lcy sid < x.startAt i.turn then s
    else match i with
    | .one e =>
      match s.beginWord ⟨sid, e, [e.seq], e.op.returns, none⟩ with
      | .wait => again s
      | .trap t => s.laneTrap sid e t
      | .done t _ => (t.popItem sid).oweLane sid
    | .block l =>
      match l.now with
      | none => s.popItem sid
      | some e =>
        let last := l.isLast
        let lane : Lane := ⟨sid, e, l.words.map (·.seq), (if l.lastReplay then e.op.returns else 0) + (if last then 1 else 0),
          if last && l.d != 0 then some (l.d, l.rep + 1, l.own) else none⟩
        match s.beginWord lane with
        | .wait => again s
        | .trap t => s.laneTrap sid e t
        | .done t trim => (t.blockNext sid l e.seq trim).oweLane sid

def execLaneStart (sid : Nat) (s : State) : Host.Outcome State Fault Refusal := .next (s.laneStart sid)

end Sys2Proof.Machine
end

