-- ==== Sys2Proof/Machine/Scalar.lean ====
section
/-! DEFINITION. The scalar arithmetic of ALU, ALUI, LI, LIH, MUL, CMP, PLOG and BIT (05, R110 to R121) and the hint words. -/
namespace Sys2Proof.Machine

/-! ## Shared operations -/

/-- R114: a guarded register word: its result lands in g[d]. -/
def binary (d a b : GReg) (gd : Guard) (turns : Nat) (f : Word → Word → Word) (s : State) : Host.Outcome State Fault Refusal :=
  finish s (word s { gd := gd, src := [.g a, .g b], dst := [.g d] } fun s => .ok (s.landG d (f (s.rg a) (s.rg b)) turns))

def unary (d a : GReg) (gd : Guard) (f : Word → Word) (s : State) : Host.Outcome State Fault Refusal :=
  finish s (word s { gd := gd, src := [.g a], dst := [.g d] } fun s => .ok (s.landG d (f (s.rg a)) 1))

def compare (op : CmpOp) (d : PReg) (a b : GReg) (gd : Guard) (w : Width) (s : State) : Host.Outcome State Fault Refusal :=
  finish s (word s { gd := gd, src := [.g a, .g b], dst := [.p d] } fun s =>
    .ok (s.landP d (op.holds w.bits (s.rg a) (s.rg b)) 1))

def logic (d a b : PReg) (gd : Guard) (f : Bool → Bool → Bool) (s : State) : Host.Outcome State Fault Refusal :=
  finish s (word s { gd := gd, src := [.p a, .p b], dst := [.p d] } fun s => .ok (s.landP d (f (s.me.rp a) (s.me.rp b)) 1))

/-! ## ALU (R113) -/

def execAdd (d a b : GReg) (gd : Guard) (w : Width) := binary d a b gd 1 (aluAdd w.bits)
def execSub (d a b : GReg) (gd : Guard) (w : Width) := binary d a b gd 1 (aluSub w.bits)
def execAnd (d a b : GReg) (gd : Guard) (w : Width) := binary d a b gd 1 (aluAnd w.bits)
def execOr (d a b : GReg) (gd : Guard) (w : Width) := binary d a b gd 1 (aluOr w.bits)
def execXor (d a b : GReg) (gd : Guard) (w : Width) := binary d a b gd 1 (aluXor w.bits)
def execShl (d a b : GReg) (gd : Guard) (w : Width) := binary d a b gd 1 (aluShl w.bits)
def execShr (d a b : GReg) (gd : Guard) (w : Width) := binary d a b gd 1 (aluShr w.bits)
def execSar (d a b : GReg) (gd : Guard) (w : Width) := binary d a b gd 1 (aluSar w.bits)
def execMin (d a b : GReg) (gd : Guard) (w : Width) := binary d a b gd 1 (aluMin w.bits)
def execMax (d a b : GReg) (gd : Guard) (w : Width) := binary d a b gd 1 (aluMax w.bits)
def execMinn (d a b : GReg) (gd : Guard) (w : Width) := binary d a b gd 1 (aluMinn w.bits)
def execMaxn (d a b : GReg) (gd : Guard) (w : Width) := binary d a b gd 1 (aluMaxn w.bits)
def execClz (d a : GReg) (gd : Guard) (w : Width) := unary d a gd (aluClz w.bits)
def execPopc (d a : GReg) (gd : Guard) (w : Width) := unary d a gd (aluPopc w.bits)

/-- SEL: its predicate selects and does not guard. -/
def execSel (d a b : GReg) (pr : PReg) (pn : Bool) (s : State) : Host.Outcome State Fault Refusal :=
  finish s (word s { src := [.g a, .g b, .p pr], dst := [.g d] } fun s =>
    .ok (s.landG d (if s.me.rp pr != pn then s.rg a else s.rg b) 1))

/-! ## ALUI, LI and LIH (R115, R116) -/

def execAddi (d a : GReg) (imm : Fin 4096) := unary d a Guard.always fun x => x + BitVec.ofInt 64 (immS 12 imm)
def execAndi (d a : GReg) (imm : Fin 4096) := unary d a Guard.always fun x => x &&& BitVec.ofInt 64 (immS 12 imm)
def execOri (d a : GReg) (imm : Fin 4096) := unary d a Guard.always fun x => x ||| BitVec.ofInt 64 (immS 12 imm)
def execXori (d a : GReg) (imm : Fin 4096) := unary d a Guard.always fun x => x ^^^ BitVec.ofInt 64 (immS 12 imm)
def execShli (d a : GReg) (cnt : Fin 64) := unary d a Guard.always fun x => x <<< cnt.val
def execShri (d a : GReg) (cnt : Fin 64) := unary d a Guard.always fun x => x >>> cnt.val
def execSari (d a : GReg) (cnt : Fin 64) := unary d a Guard.always fun x => x.sshiftRight cnt.val

def execLi (d : GReg) (imm : Fin 1048576) (s : State) : Host.Outcome State Fault Refusal :=
  finish s (word s { dst := [.g d] } fun s => .ok (s.landG d (sext 20 imm) 1))

def execLih (d : GReg) (imm : Fin 1048576) (s : State) : Host.Outcome State Fault Refusal :=
  finish s (word s { src := [.g d], dst := [.g d] } fun s => .ok (s.landG d ((s.rg d <<< 20) ||| BitVec.ofNat 64 imm) 1))

/-! ## MUL (R117, R118) -/

def execMul (d a b : GReg) (gd : Guard) (w : Width) := binary d a b gd 2 (aluMul w.bits)
def execMulh (d a b : GReg) (gd : Guard) (w : Width) := binary d a b gd 2 (aluMulh w.bits)
def execMulhn (d a b : GReg) (gd : Guard) (w : Width) := binary d a b gd 2 (aluMulhn w.bits)
def execDiv (d a b : GReg) (gd : Guard) (w : Width) := binary d a b gd 8 (aluDiv w.bits)
def execDivn (d a b : GReg) (gd : Guard) (w : Width) := binary d a b gd 8 (aluDivn w.bits)
def execRem (d a b : GReg) (gd : Guard) (w : Width) := binary d a b gd 8 (aluRem w.bits)
def execRemn (d a b : GReg) (gd : Guard) (w : Width) := binary d a b gd 8 (aluRemn w.bits)

/-! ## CMP and PLOG (R119, R120) -/

def execCmpEq (d : PReg) (a b : GReg) (gd : Guard) (w : Width) := compare .eq d a b gd w
def execCmpNe (d : PReg) (a b : GReg) (gd : Guard) (w : Width) := compare .ne d a b gd w
def execCmpLt (d : PReg) (a b : GReg) (gd : Guard) (w : Width) := compare .lt d a b gd w
def execCmpGe (d : PReg) (a b : GReg) (gd : Guard) (w : Width) := compare .ge d a b gd w
def execCmpLtn (d : PReg) (a b : GReg) (gd : Guard) (w : Width) := compare .ltn d a b gd w
def execCmpGen (d : PReg) (a b : GReg) (gd : Guard) (w : Width) := compare .gen d a b gd w
def execPlogAnd (d a b : PReg) (gd : Guard) := logic d a b gd fun x y => x && y
def execPlogOr (d a b : PReg) (gd : Guard) := logic d a b gd fun x y => x || y
def execPlogXor (d a b : PReg) (gd : Guard) := logic d a b gd fun x y => x != y
def execPlogAndn (d a b : PReg) (gd : Guard) := logic d a b gd fun x y => x && !y

/-! ## BIT (R121) -/

def execBfx (d a : GReg) (len1 pos : Fin 64) := unary d a Guard.always fun x => bfxU x pos (len1.val + 1)
def execBfxs (d a : GReg) (len1 pos : Fin 64) := unary d a Guard.always fun x => bfxS x pos (len1.val + 1)
def execBfi (d a : GReg) (len1 pos : Fin 64) (s : State) : Host.Outcome State Fault Refusal :=
  finish s (word s { src := [.g d, .g a], dst := [.g d] } fun s =>
    .ok (s.landG d (bfiOf (s.rg d) (s.rg a) pos (len1.val + 1)) 1))

/-! ## Hint words (R53) -/

/-- A word with no effect. -/
def noEffect (s : State) : Host.Outcome State Fault Refusal := finish s (word s {} fun s => .ok s)

def execCHint (_ : Fin 4) (_ : Fin 33554432) (s : State) := noEffect s
def execAHint (_ : Fin 4) (_ : Fin 33554432) (s : State) := noEffect s

end Sys2Proof.Machine
end

