-- ==== Sys2Proof/Machine/Time.lean ====
section
/-! DEFINITION. The TIME words AT, CUE and TUNE (R291, R292, R338) and the wake of a strand parked on AT. -/
namespace Sys2Proof.Machine

/-- R292: the target LCY of an AT. -/
def atTarget (base : Word) (imm : Nat) : Nat := (base + BitVec.ofInt 64 (immS 12 imm)).toNat

/-- AT: a target that the next turn already reaches leaves the strand runnable. -/
def execAtLcy (a : GReg) (imm : Fin 4096) (s : State) : Host.Outcome State Fault Refusal :=
  finish s (word s { src := [.g a] } fun s =>
    let t := atTarget (s.rg a) imm
    if t ≤ s.turn + 16 then .ok s
    else .ok ((s.modMe fun x => { x with slot := .parked (.atLcy t) }).owe (some (s.clockOf s.cur.sid)) t prioWake
      (.atWake s.cur.sid)))

/-- AT_WAKE: at the first cycle of the target the parked strand is runnable again. -/
def execAtWake (sid : Nat) (s : State) : Host.Outcome State Fault Refusal :=
  .next (match (s.strand sid).slot with
    | .parked (.atLcy t) => if s.lcy sid < t then s else s.modStrand sid fun x => { x with slot := .runnable }
    | _ => s)

/-- R280: the LCY of a cue-table entry, where it is valid. -/
def cueLcy (e : BitVec 32) : Option Nat :=
  if e.getLsbD 31 then some (4096 * bits e 12 16 + bits e 0 12) else none

/-- CUE: on a scored core an issue at another LCY than the entry's is a deviation. -/
def execCue (n : Fin 4096) (s : State) : Host.Outcome State Fault Refusal :=
  finish s (word s {} fun s =>
    let cues := (look (s.me.launch.getD 0) (s.core (coreOf s.cur.sid)).cues).getD []
    if s.scored s.cur.sid && cueLcy (tget 0 n.val cues) != some s.turn then
      .trap { cause := 16, eval := BitVec.ofNat 64 s.turn }
    else .ok s)

/-- R338: the correction of SLIP. -/
def slipFor (code : Nat) (drift : BitVec 32) : Nat :=
  if code = 0 then (if drift.toInt ≥ 128 then 1 else if drift.toInt ≤ -128 then 3 else 2)
  else if code = 1 then 1
  else if code = 2 then 2
  else 3

/-- TUNE: the code governs the first bar gap at least 64 cycles after its issue. -/
def execTune (a : GReg) (s : State) : Host.Outcome State Fault Refusal :=
  finish s (word s { level := 2, src := [.g a] } fun s =>
    let v := slipFor (bits (s.rg a) 0 2) s.pkg.drift
    .ok (s.modPkg fun k =>
      if barLineAt (k.ency + 1) - k.ency ≥ 64 then { k with slip := v } else { k with slipNext := some v }))

end Sys2Proof.Machine
end

