-- ==== Sys2Proof/Machine/Upsets.lean ====
section
/-! DEFINITION. Errors of the hardware that a check of the spec looks for (R77, R78, R107, R108, R223, R225): what each changes. -/
namespace Sys2Proof.Machine

/-- A line, counter block or node with symbols flipped. -/
def Line.flip (l : Line) (symbols : List (Nat × Byte)) : Line := { l with flips := flipAll l.flips symbols }
def Node.flip (n : Node) (symbols : List (Nat × Byte)) : Node := { n with flips := flipAll n.flips symbols }

/-- A tile with one bit of an accumulator flipped. -/
def TileState.flip (t : TileState) (row i : Nat) : TileState :=
  { t with acc := tput 0 row (tget 0 row t.acc ^^^ BitVec.ofNat 8192 (2 ^ i)) t.acc }

/-- An error in the hardware. -/
def execUpset (u : Upset) (s : State) : Host.Outcome State Fault Refusal :=
  .next (match u with
  | .register sid d i fatal => s.registerError sid d i fatal
  | .multiplier sid err => if (s.strand sid).slot = .idle then s else s.modStrand sid fun x => { x with mulErr := some err }
  | .accumulator crew tile row col bit => s.modTile crew tile fun t => t.flip row (64 * col + bit)
  | .line la symbols => s.setLine la ((s.line la).flip symbols)
  | .node level n symbols =>
    { s with nodes := tput {} (treeKey level n) ((tget {} (treeKey level n) s.nodes).flip symbols) s.nodes })

end Sys2Proof.Machine
end

