-- ==== Sys2Proof/Machine/Dispatch.lean ====
section
/-! DEFINITION. The meaning of every instruction, one arm a constructor. -/
namespace Sys2Proof.Machine

def exec (i : Instr) (s : State) : Host.Outcome State Fault Refusal :=
  match i with
  | .nop => Sys2Proof.Machine.execNop s
  | .halt => Sys2Proof.Machine.execHalt s
  | .trap code => Sys2Proof.Machine.execTrap code s
  | .eret => Sys2Proof.Machine.execEret s
  | .csrr d csr => Sys2Proof.Machine.execCsrr d csr s
  | .csrw csr a => Sys2Proof.Machine.execCsrw csr a s
  | .csrx d csr a => Sys2Proof.Machine.execCsrx d csr a s
  | .yield => Sys2Proof.Machine.execYield s
  | .ctxsave d a => Sys2Proof.Machine.execCtxsave d a s
  | .ctxload d a => Sys2Proof.Machine.execCtxload d a s
  | .br gd off => Sys2Proof.Machine.execBr gd off s
  | .jmp off => Sys2Proof.Machine.execJmp off s
  | .call off => Sys2Proof.Machine.execCall off s
  | .ret a => Sys2Proof.Machine.execRet a s
  | .callr a => Sys2Proof.Machine.execCallr a s
  | .atLcy a imm => Sys2Proof.Machine.execAtLcy a imm s
  | .cue n => Sys2Proof.Machine.execCue n s
  | .tune a => Sys2Proof.Machine.execTune a s
  | .ld d a sp sz off => Sys2Proof.Machine.execLd d a sp sz off s
  | .st d a sp sz off => Sys2Proof.Machine.execSt d a sp sz off s
  | .amoAdd d a b sz sp => Sys2Proof.Machine.execAmoAdd d a b sz sp s
  | .amoMin d a b sz sp => Sys2Proof.Machine.execAmoMin d a b sz sp s
  | .amoMax d a b sz sp => Sys2Proof.Machine.execAmoMax d a b sz sp s
  | .amoMinn d a b sz sp => Sys2Proof.Machine.execAmoMinn d a b sz sp s
  | .amoMaxn d a b sz sp => Sys2Proof.Machine.execAmoMaxn d a b sz sp s
  | .amoAnd d a b sz sp => Sys2Proof.Machine.execAmoAnd d a b sz sp s
  | .amoOr d a b sz sp => Sys2Proof.Machine.execAmoOr d a b sz sp s
  | .amoXor d a b sz sp => Sys2Proof.Machine.execAmoXor d a b sz sp s
  | .amoSwap d a b sz sp => Sys2Proof.Machine.execAmoSwap d a b sz sp s
  | .amoCas d a b sz sp => Sys2Proof.Machine.execAmoCas d a b sz sp s
  | .fence d scope mask => Sys2Proof.Machine.execFence d scope mask s
  | .pref a imm => Sys2Proof.Machine.execPref a imm s
  | .flush a imm => Sys2Proof.Machine.execFlush a imm s
  | .inval a imm => Sys2Proof.Machine.execInval a imm s
  | .rpub a => Sys2Proof.Machine.execRpub a s
  | .vld d a m e clu => Sys2Proof.Machine.execVld d a m e clu s
  | .vst d a m e clu => Sys2Proof.Machine.execVst d a m e clu s
  | .vlds d a b m e clu => Sys2Proof.Machine.execVlds d a b m e clu s
  | .vsts d a b m e clu => Sys2Proof.Machine.execVsts d a b m e clu s
  | .vldx d a b m e clu => Sys2Proof.Machine.execVldx d a b m e clu s
  | .vstx d a b m e clu => Sys2Proof.Machine.execVstx d a b m e clu s
  | .vseg d a fmt clu => Sys2Proof.Machine.execVseg d a fmt clu s
  | .sset d a b => Sys2Proof.Machine.execSset d a b s
  | .sld d a m e => Sys2Proof.Machine.execSld d a m e s
  | .sst d a m e => Sys2Proof.Machine.execSst d a m e s
  | .vamoAdd d a b m e clu => Sys2Proof.Machine.execVamoAdd d a b m e clu s
  | .vamoMin d a b m e clu => Sys2Proof.Machine.execVamoMin d a b m e clu s
  | .vamoMax d a b m e clu => Sys2Proof.Machine.execVamoMax d a b m e clu s
  | .vamoMinn d a b m e clu => Sys2Proof.Machine.execVamoMinn d a b m e clu s
  | .vamoMaxn d a b m e clu => Sys2Proof.Machine.execVamoMaxn d a b m e clu s
  | .vamoAnd d a b m e clu => Sys2Proof.Machine.execVamoAnd d a b m e clu s
  | .vamoOr d a b m e clu => Sys2Proof.Machine.execVamoOr d a b m e clu s
  | .vamoXor d a b m e clu => Sys2Proof.Machine.execVamoXor d a b m e clu s
  | .vamoFadd d a b m e clu => Sys2Proof.Machine.execVamoFadd d a b m e clu s
  | .setvl d a e => Sys2Proof.Machine.execSetvl d a e s
  | .vloop d a n => Sys2Proof.Machine.execVloop d a n s
  | .vsync => Sys2Proof.Machine.execVsync s
  | .hplane vb ga fmt n => Sys2Proof.Machine.execHplane vb ga fmt n s
  | .hzero t ga => Sys2Proof.Machine.execHzero t ga s
  | .hread t vb ga fmt n => Sys2Proof.Machine.execHread t vb ga fmt n s
  | .hwrite t vb ga n => Sys2Proof.Machine.execHwrite t vb ga n s
  | .hchk t ga => Sys2Proof.Machine.execHchk t ga s
  | .hanch t ga => Sys2Proof.Machine.execHanch t ga s
  | .hmmaAcc t vb ga fmt n => Sys2Proof.Machine.execHmmaAcc t vb ga fmt n s
  | .hmmaSet t vb ga fmt n => Sys2Proof.Machine.execHmmaSet t vb ga fmt n s
  | .hmmsAcc t vb ga fmt n => Sys2Proof.Machine.execHmmsAcc t vb ga fmt n s
  | .hmmsSet t vb ga fmt n => Sys2Proof.Machine.execHmmsSet t vb ga fmt n s
  | .send tk a b => Sys2Proof.Machine.execSend tk a b s
  | .recv d a b => Sys2Proof.Machine.execRecv d a b s
  | .esend tk a b => Sys2Proof.Machine.execEsend tk a b s
  | .erecv d a b => Sys2Proof.Machine.execErecv d a b s
  | .stripe tk d a b n => Sys2Proof.Machine.execStripe tk d a b n s
  | .rld tk d a sz => Sys2Proof.Machine.execRld tk d a sz s
  | .rst tk d a sz => Sys2Proof.Machine.execRst tk d a sz s
  | .ramoAdd tk d a b => Sys2Proof.Machine.execRamoAdd tk d a b s
  | .ramoMin tk d a b => Sys2Proof.Machine.execRamoMin tk d a b s
  | .ramoMax tk d a b => Sys2Proof.Machine.execRamoMax tk d a b s
  | .ramoMinn tk d a b => Sys2Proof.Machine.execRamoMinn tk d a b s
  | .ramoMaxn tk d a b => Sys2Proof.Machine.execRamoMaxn tk d a b s
  | .ramoOr tk d a b => Sys2Proof.Machine.execRamoOr tk d a b s
  | .ramoSwap tk d a b => Sys2Proof.Machine.execRamoSwap tk d a b s
  | .ramoCas tk d a b => Sys2Proof.Machine.execRamoCas tk d a b s
  | .vpush tk a vb n => Sys2Proof.Machine.execVpush tk a vb n s
  | .vpull d a vb n => Sys2Proof.Machine.execVpull d a vb n s
  | .tknar tk d a => Sys2Proof.Machine.execTknar tk d a s
  | .tkld tk a sp => Sys2Proof.Machine.execTkld tk a sp s
  | .tkst tk a sp => Sys2Proof.Machine.execTkst tk a sp s
  | .tkmov tk m => Sys2Proof.Machine.execTkmov tk m s
  | .tkchk tk d => Sys2Proof.Machine.execTkchk tk d s
  | .drayCopy tk d a b => Sys2Proof.Machine.execDrayCopy tk d a b s
  | .drayGath tk d a b => Sys2Proof.Machine.execDrayGath tk d a b s
  | .drayScat tk d a b => Sys2Proof.Machine.execDrayScat tk d a b s
  | .draySeal tk d a b => Sys2Proof.Machine.execDraySeal tk d a b s
  | .drayUnseal tk d a b => Sys2Proof.Machine.execDrayUnseal tk d a b s
  | .drayFill tk d a b => Sys2Proof.Machine.execDrayFill tk d a b s
  | .dwait d a b => Sys2Proof.Machine.execDwait d a b s
  | .dstat d a => Sys2Proof.Machine.execDstat d a s
  | .dcancel d a => Sys2Proof.Machine.execDcancel d a s
  | .npost tk d a b => Sys2Proof.Machine.execNpost tk d a b s
  | .npoll d a => Sys2Proof.Machine.execNpoll d a s
  | .carr d a b gd => Sys2Proof.Machine.execCarr d a b gd s
  | .cwait d a b gd => Sys2Proof.Machine.execCwait d a b gd s
  | .cancel d a gd => Sys2Proof.Machine.execCancel d a gd s
  | .ckpt d a b gd => Sys2Proof.Machine.execCkpt d a b gd s
  | .cset d a b gd => Sys2Proof.Machine.execCset d a b gd s
  | .xlatRead d a b => Sys2Proof.Machine.execXlatRead d a b s
  | .xlatWrite d a b => Sys2Proof.Machine.execXlatWrite d a b s
  | .xlatFetch d a b => Sys2Proof.Machine.execXlatFetch d a b s
  | .xlatProbe d a b => Sys2Proof.Machine.execXlatProbe d a b s
  | .tlbinvPage d a b => Sys2Proof.Machine.execTlbinvPage d a b s
  | .tlbinvVd d b => Sys2Proof.Machine.execTlbinvVd d b s
  | .migset d a b => Sys2Proof.Machine.execMigset d a b s
  | .mint tk d a b => Sys2Proof.Machine.execMint tk d a b s
  | .revokePort d a => Sys2Proof.Machine.execRevokePort d a s
  | .revokeKey d a b => Sys2Proof.Machine.execRevokeKey d a b s
  | .keysetSet d a b => Sys2Proof.Machine.execKeysetSet d a b s
  | .keysetWin d a b => Sys2Proof.Machine.execKeysetWin d a b s
  | .keysetErase d a b => Sys2Proof.Machine.execKeysetErase d a b s
  | .admitTab d a b => Sys2Proof.Machine.execAdmitTab d a b s
  | .add d a b gd w => Sys2Proof.Machine.execAdd d a b gd w s
  | .sub d a b gd w => Sys2Proof.Machine.execSub d a b gd w s
  | .and d a b gd w => Sys2Proof.Machine.execAnd d a b gd w s
  | .or d a b gd w => Sys2Proof.Machine.execOr d a b gd w s
  | .xor d a b gd w => Sys2Proof.Machine.execXor d a b gd w s
  | .shl d a b gd w => Sys2Proof.Machine.execShl d a b gd w s
  | .shr d a b gd w => Sys2Proof.Machine.execShr d a b gd w s
  | .sar d a b gd w => Sys2Proof.Machine.execSar d a b gd w s
  | .min d a b gd w => Sys2Proof.Machine.execMin d a b gd w s
  | .max d a b gd w => Sys2Proof.Machine.execMax d a b gd w s
  | .minn d a b gd w => Sys2Proof.Machine.execMinn d a b gd w s
  | .maxn d a b gd w => Sys2Proof.Machine.execMaxn d a b gd w s
  | .sel d a b pr pn => Sys2Proof.Machine.execSel d a b pr pn s
  | .clz d a gd w => Sys2Proof.Machine.execClz d a gd w s
  | .popc d a gd w => Sys2Proof.Machine.execPopc d a gd w s
  | .addi d a imm => Sys2Proof.Machine.execAddi d a imm s
  | .andi d a imm => Sys2Proof.Machine.execAndi d a imm s
  | .ori d a imm => Sys2Proof.Machine.execOri d a imm s
  | .xori d a imm => Sys2Proof.Machine.execXori d a imm s
  | .shli d a cnt => Sys2Proof.Machine.execShli d a cnt s
  | .shri d a cnt => Sys2Proof.Machine.execShri d a cnt s
  | .sari d a cnt => Sys2Proof.Machine.execSari d a cnt s
  | .li d imm => Sys2Proof.Machine.execLi d imm s
  | .lih d imm => Sys2Proof.Machine.execLih d imm s
  | .mul d a b gd w => Sys2Proof.Machine.execMul d a b gd w s
  | .mulh d a b gd w => Sys2Proof.Machine.execMulh d a b gd w s
  | .mulhn d a b gd w => Sys2Proof.Machine.execMulhn d a b gd w s
  | .div d a b gd w => Sys2Proof.Machine.execDiv d a b gd w s
  | .divn d a b gd w => Sys2Proof.Machine.execDivn d a b gd w s
  | .rem d a b gd w => Sys2Proof.Machine.execRem d a b gd w s
  | .remn d a b gd w => Sys2Proof.Machine.execRemn d a b gd w s
  | .cmpEq d a b gd w => Sys2Proof.Machine.execCmpEq d a b gd w s
  | .cmpNe d a b gd w => Sys2Proof.Machine.execCmpNe d a b gd w s
  | .cmpLt d a b gd w => Sys2Proof.Machine.execCmpLt d a b gd w s
  | .cmpGe d a b gd w => Sys2Proof.Machine.execCmpGe d a b gd w s
  | .cmpLtn d a b gd w => Sys2Proof.Machine.execCmpLtn d a b gd w s
  | .cmpGen d a b gd w => Sys2Proof.Machine.execCmpGen d a b gd w s
  | .plogAnd d a b gd => Sys2Proof.Machine.execPlogAnd d a b gd s
  | .plogOr d a b gd => Sys2Proof.Machine.execPlogOr d a b gd s
  | .plogXor d a b gd => Sys2Proof.Machine.execPlogXor d a b gd s
  | .plogAndn d a b gd => Sys2Proof.Machine.execPlogAndn d a b gd s
  | .bfx d a len1 pos => Sys2Proof.Machine.execBfx d a len1 pos s
  | .bfxs d a len1 pos => Sys2Proof.Machine.execBfxs d a len1 pos s
  | .bfi d a len1 pos => Sys2Proof.Machine.execBfi d a len1 pos s
  | .vadd d a b m e => Sys2Proof.Machine.execVadd d a b m e s
  | .vsub d a b m e => Sys2Proof.Machine.execVsub d a b m e s
  | .vmul d a b m e => Sys2Proof.Machine.execVmul d a b m e s
  | .vmulh d a b m e => Sys2Proof.Machine.execVmulh d a b m e s
  | .vmin d a b m e => Sys2Proof.Machine.execVmin d a b m e s
  | .vmax d a b m e => Sys2Proof.Machine.execVmax d a b m e s
  | .vminn d a b m e => Sys2Proof.Machine.execVminn d a b m e s
  | .vmaxn d a b m e => Sys2Proof.Machine.execVmaxn d a b m e s
  | .vand d a b m e => Sys2Proof.Machine.execVand d a b m e s
  | .vor d a b m e => Sys2Proof.Machine.execVor d a b m e s
  | .vxor d a b m e => Sys2Proof.Machine.execVxor d a b m e s
  | .vshl d a b m e => Sys2Proof.Machine.execVshl d a b m e s
  | .vshr d a b m e => Sys2Proof.Machine.execVshr d a b m e s
  | .vsar d a b m e => Sys2Proof.Machine.execVsar d a b m e s
  | .vabs d a m e => Sys2Proof.Machine.execVabs d a m e s
  | .vneg d a m e => Sys2Proof.Machine.execVneg d a m e s
  | .vsel d a b m e => Sys2Proof.Machine.execVsel d a b m e s
  | .vfadd d a b m e => Sys2Proof.Machine.execVfadd d a b m e s
  | .vfsub d a b m e => Sys2Proof.Machine.execVfsub d a b m e s
  | .vfmul d a b m e => Sys2Proof.Machine.execVfmul d a b m e s
  | .vfma d a b m e => Sys2Proof.Machine.execVfma d a b m e s
  | .vfms d a b m e => Sys2Proof.Machine.execVfms d a b m e s
  | .vfmin d a b m e => Sys2Proof.Machine.execVfmin d a b m e s
  | .vfmax d a b m e => Sys2Proof.Machine.execVfmax d a b m e s
  | .vfabs d a m e => Sys2Proof.Machine.execVfabs d a m e s
  | .vfneg d a m e => Sys2Proof.Machine.execVfneg d a m e s
  | .vcmpEq d a b m e => Sys2Proof.Machine.execVcmpEq d a b m e s
  | .vcmpNe d a b m e => Sys2Proof.Machine.execVcmpNe d a b m e s
  | .vcmpLt d a b m e => Sys2Proof.Machine.execVcmpLt d a b m e s
  | .vcmpGe d a b m e => Sys2Proof.Machine.execVcmpGe d a b m e s
  | .vcmpLtn d a b m e => Sys2Proof.Machine.execVcmpLtn d a b m e s
  | .vcmpGen d a b m e => Sys2Proof.Machine.execVcmpGen d a b m e s
  | .vcmpFeq d a b m e => Sys2Proof.Machine.execVcmpFeq d a b m e s
  | .vcmpFne d a b m e => Sys2Proof.Machine.execVcmpFne d a b m e s
  | .vcmpFlt d a b m e => Sys2Proof.Machine.execVcmpFlt d a b m e s
  | .vcmpFge d a b m e => Sys2Proof.Machine.execVcmpFge d a b m e s
  | .vcmpFun d a b m e => Sys2Proof.Machine.execVcmpFun d a b m e s
  | .vcvt d a fmt m e rnd => Sys2Proof.Machine.execVcvt d a fmt m e rnd s
  | .vqnt d a fmt m e => Sys2Proof.Machine.execVqnt d a fmt m e s
  | .vdqnt d a fmt m e rnd => Sys2Proof.Machine.execVdqnt d a fmt m e rnd s
  | .vrndi d a m e rnd => Sys2Proof.Machine.execVrndi d a m e rnd s
  | .vrcpa d a m e => Sys2Proof.Machine.execVrcpa d a m e s
  | .vrsqa d a m e => Sys2Proof.Machine.execVrsqa d a m e s
  | .vexp2a d a m e => Sys2Proof.Machine.execVexp2a d a m e s
  | .vlog2a d a m e => Sys2Proof.Machine.execVlog2a d a m e s
  | .vredsum d a k m => Sys2Proof.Machine.execVredsum d a k m s
  | .vredmax d a k m => Sys2Proof.Machine.execVredmax d a k m s
  | .vredmin d a k m => Sys2Proof.Machine.execVredmin d a k m s
  | .vscan d a op k m => Sys2Proof.Machine.execVscan d a op k m s
  | .vdot4 d a b m => Sys2Proof.Machine.execVdot4 d a b m s
  | .vperm d a b m e => Sys2Proof.Machine.execVperm d a b m e s
  | .vslup d a b m e => Sys2Proof.Machine.execVslup d a b m e s
  | .vsldn d a b m e => Sys2Proof.Machine.execVsldn d a b m e s
  | .vcomp d a m e => Sys2Proof.Machine.execVcomp d a m e s
  | .vexpd d a m e => Sys2Proof.Machine.execVexpd d a m e s
  | .viota d m e => Sys2Proof.Machine.execViota d m e s
  | .vbcast d a m e => Sys2Proof.Machine.execVbcast d a m e s
  | .vextr d a b e => Sys2Proof.Machine.execVextr d a b e s
  | .vins d a b e => Sys2Proof.Machine.execVins d a b e s
  | .mand d a b e => Sys2Proof.Machine.execMand d a b e s
  | .mor d a b e => Sys2Proof.Machine.execMor d a b e s
  | .mxor d a b e => Sys2Proof.Machine.execMxor d a b e s
  | .mnot d a e => Sys2Proof.Machine.execMnot d a e s
  | .mcnt d a e => Sys2Proof.Machine.execMcnt d a e s
  | .mfirst d a e => Sys2Proof.Machine.execMfirst d a e s
  | .qand d a b e => Sys2Proof.Machine.execQand d a b e s
  | .qclr d a e => Sys2Proof.Machine.execQclr d a e s
  | .vrng d a b m e => Sys2Proof.Machine.execVrng d a b m e s
  | .cHint h x => Sys2Proof.Machine.execCHint h x s
  | .aHint h x => Sys2Proof.Machine.execAHint h x s
  | .land sid => Sys2Proof.Machine.execLand sid s
  | .laneStart sid => Sys2Proof.Machine.execLaneStart sid s
  | .faultOverflowMove part => Sys2Proof.Machine.execFaultOverflowMove part s
  | .atWake sid => Sys2Proof.Machine.execAtWake sid s
  | .cwaitWake sid => Sys2Proof.Machine.execCwaitWake sid s
  | .erecvWake sid => Sys2Proof.Machine.execErecvWake sid s
  | .vpullWake sid => Sys2Proof.Machine.execVpullWake sid s
  | .dwaitWake sid => Sys2Proof.Machine.execDwaitWake sid s
  | .harpCommandStart core => Sys2Proof.Machine.execHarpCommandStart core s
  | .harpRowTouch op => Sys2Proof.Machine.execHarpRowTouch op s
  | .hmmsPairingTimeout op => Sys2Proof.Machine.execHmmsPairingTimeout op s
  | .freeAccessComplete id => Sys2Proof.Machine.execFreeAccessComplete id s
  | .freeAccessTimeout id => Sys2Proof.Machine.execFreeAccessTimeout id s
  | .translationWalk core vd va => Sys2Proof.Machine.execTranslationWalk core vd va s
  | .l1LineExpiry core line => Sys2Proof.Machine.execL1LineExpiry core line s
  | .memoryLineWrite la data => Sys2Proof.Machine.execMemoryLineWrite la data s
  | .memoryLineRead la vd => Sys2Proof.Machine.execMemoryLineRead la vd s
  | .minorWrapReseal blk => Sys2Proof.Machine.execMinorWrapReseal blk s
  | .timedReadCheck launch la => Sys2Proof.Machine.execTimedReadCheck launch la s
  | .relayOwnerWrite id => Sys2Proof.Machine.execRelayOwnerWrite id s
  | .relayOwnerRead id => Sys2Proof.Machine.execRelayOwnerRead id s
  | .relayPeerRead id => Sys2Proof.Machine.execRelayPeerRead id s
  | .switchCheck pkt => Sys2Proof.Machine.execSwitchCheck pkt s
  | .packetDelivery pkt => Sys2Proof.Machine.execPacketDelivery pkt s
  | .timedDelivery pkt flit => Sys2Proof.Machine.execTimedDelivery pkt flit s
  | .elasticArrival pkt => Sys2Proof.Machine.execElasticArrival pkt s
  | .heldArrivalExpiry pkt => Sys2Proof.Machine.execHeldArrivalExpiry pkt s
  | .vpushArrival pkt => Sys2Proof.Machine.execVpushArrival pkt s
  | .remoteReply op value => Sys2Proof.Machine.execRemoteReply op value s
  | .discardNotice op => Sys2Proof.Machine.execDiscardNotice op s
  | .fabricTimeout op => Sys2Proof.Machine.execFabricTimeout op s
  | .rateUpdate => Sys2Proof.Machine.execRateUpdate s
  | .drayCommandStart dray => Sys2Proof.Machine.execDrayCommandStart dray s
  | .drayCommandCompletion dray seq => Sys2Proof.Machine.execDrayCommandCompletion dray seq s
  | .drayTimeout dray seq => Sys2Proof.Machine.execDrayTimeout dray seq s
  | .timedDrayStart launch idx => Sys2Proof.Machine.execTimedDrayStart launch idx s
  | .migrationLineCopy slot => Sys2Proof.Machine.execMigrationLineCopy slot s
  | .portGenerationAdvance x y port => Sys2Proof.Machine.execPortGenerationAdvance x y port s
  | .keyDigestCompare equal => Sys2Proof.Machine.execKeyDigestCompare equal s
  | .routeKeyAdvance => Sys2Proof.Machine.execRouteKeyAdvance s
  | .networkWorkRequest qp status reply => Sys2Proof.Machine.execNetworkWorkRequest qp status reply s
  | .networkInbound qp msg => Sys2Proof.Machine.execNetworkInbound qp msg s
  | .networkTimeout qp => Sys2Proof.Machine.execNetworkTimeout qp s
  | .launchQueuePoll part q => Sys2Proof.Machine.execLaunchQueuePoll part q s
  | .launchEngineTake part => Sys2Proof.Machine.execLaunchEngineTake part s
  | .slotFreed sid => Sys2Proof.Machine.execSlotFreed sid s
  | .unitCompletion sid => Sys2Proof.Machine.execUnitCompletion sid s
  | .completionNotice launch => Sys2Proof.Machine.execCompletionNotice launch s
  | .cancelDrainEnd launch => Sys2Proof.Machine.execCancelDrainEnd launch s
  | .scoredLaunchStart launch allReported => Sys2Proof.Machine.execScoredLaunchStart launch allReported s
  | .endingNotice launch lcy detail => Sys2Proof.Machine.execEndingNotice launch lcy detail s
  | .overrun launch => Sys2Proof.Machine.execOverrun launch s
  | .scoredLaunchEnd launch => Sys2Proof.Machine.execScoredLaunchEnd launch s
  | .scoredLaunchRelease launch => Sys2Proof.Machine.execScoredLaunchRelease launch s
  | .preq part => Sys2Proof.Machine.execPreq part s
  | .scoredPreempt launch => Sys2Proof.Machine.execScoredPreempt launch s
  | .rreq part => Sys2Proof.Machine.execRreq part s
  | .scoredResume launch => Sys2Proof.Machine.execScoredResume launch s
  | .freePreempt sid => Sys2Proof.Machine.execFreePreempt sid s
  | .interruptDelivery vd => Sys2Proof.Machine.execInterruptDelivery vd s
  | .barLine measured => Sys2Proof.Machine.execBarLine measured s
  | .barGap => Sys2Proof.Machine.execBarGap s
  | .rest => Sys2Proof.Machine.execRest s
  | .timeLock p => Sys2Proof.Machine.execTimeLock p s
  | .timeLockRepeat p => Sys2Proof.Machine.execTimeLockRepeat p s
  | .wayQuotaRecompute die => Sys2Proof.Machine.execWayQuotaRecompute die s
  | .errorCounterCopy => Sys2Proof.Machine.execErrorCounterCopy s
  | .checkpointRoundStart => Sys2Proof.Machine.execCheckpointRoundStart s
  | .checkpointRetire => Sys2Proof.Machine.execCheckpointRetire s
  | .checkpointRoundEnd => Sys2Proof.Machine.execCheckpointRoundEnd s
  | .vdScheduleOut part x => Sys2Proof.Machine.execVdScheduleOut part x s
  | .vdScheduleIn part x => Sys2Proof.Machine.execVdScheduleIn part x s
  | .vdReset vd => Sys2Proof.Machine.execVdReset vd s
  | .vdTeardown vd => Sys2Proof.Machine.execVdTeardown vd s
  | .vdResetEffect vd => Sys2Proof.Machine.execVdResetEffect vd s
  | .vdQuiet vd => Sys2Proof.Machine.execVdQuiet vd s
  | .portOpen x y port vd => Sys2Proof.Machine.execPortOpen x y port vd s
  | .portClose x y port => Sys2Proof.Machine.execPortClose x y port s
  | .deviceRegisterWrite w => Sys2Proof.Machine.execDeviceRegisterWrite w s
  | .coreRetire core => Sys2Proof.Machine.execCoreRetire core s
  | .partitionMove src dst crews drays spares => Sys2Proof.Machine.execPartitionMove src dst crews drays spares s
  | .coachmanTakeover => Sys2Proof.Machine.execCoachmanTakeover s
  | .powerStateEntry part => Sys2Proof.Machine.execPowerStateEntry part s
  | .powerWake part => Sys2Proof.Machine.execPowerWake part s
  | .thermalSample m => Sys2Proof.Machine.execThermalSample m s
  | .thermalLevelExit => Sys2Proof.Machine.execThermalLevelExit s
  | .bringupStage0 p => Sys2Proof.Machine.execBringupStage0 p s
  | .bringupStage1 => Sys2Proof.Machine.execBringupStage1 s
  | .discoveryPacket x y dir => Sys2Proof.Machine.execDiscoveryPacket x y dir s
  | .discoveryAnswer core => Sys2Proof.Machine.execDiscoveryAnswer core s
  | .mapBuild => Sys2Proof.Machine.execMapBuild s
  | .bringupStage2 trained far checksum => Sys2Proof.Machine.execBringupStage2 trained far checksum s
  | .bootWaitRelease core => Sys2Proof.Machine.execBootWaitRelease core s
  | .bootExpiry => Sys2Proof.Machine.execBootExpiry s
  | .bringupStage3 p => Sys2Proof.Machine.execBringupStage3 p s
  | .lockInterface vd => Sys2Proof.Machine.execLockInterface vd s
  | .startInterface vd => Sys2Proof.Machine.execStartInterface vd s
  | .stopInterface vd => Sys2Proof.Machine.execStopInterface vd s
  | .hostTransaction t => Sys2Proof.Machine.execHostTransaction t s
  | .mctpMessage m => Sys2Proof.Machine.execMctpMessage m s
  | .firmwareUpdate bar => Sys2Proof.Machine.execFirmwareUpdate bar s
  | .scoredBankAccess id => Sys2Proof.Machine.execScoredBankAccess id s
  | .fabricAcknowledgement op mark => Sys2Proof.Machine.execFabricAcknowledgement op mark s
  | .drayQueueFullExpiry sid => Sys2Proof.Machine.execDrayQueueFullExpiry sid s
  | .checkpointUnitCopy => Sys2Proof.Machine.execCheckpointUnitCopy s
  | .frameAssignment frame owner assigned fresh => Sys2Proof.Machine.execFrameAssignment frame owner assigned fresh s
  | .queuePairCreation qp c => Sys2Proof.Machine.execQueuePairCreation qp c s
  | .vdCreation vd c => Sys2Proof.Machine.execVdCreation vd c s
  | .reservedStrandRelease sid => Sys2Proof.Machine.execReservedStrandRelease sid s
  | .openSlotPurge vd => Sys2Proof.Machine.execOpenSlotPurge vd s
  | .emptyMaskWriteback part die => Sys2Proof.Machine.execEmptyMaskWriteback part die s

end Sys2Proof.Machine
end

