-- ==== Sys2Proof/Machine/Events.lean ====
section
/-! DEFINITION. The same meanings for the events that the machine owes or the outside world gives: an event does what the
instruction of its row does; a remote reply echoes its mark first (R257). -/
namespace Sys2Proof.Machine

/-- What an event does. -/
def runEvent (e : Event) (s : State) : Host.Outcome State Fault Refusal :=
  match e with
  | .land sid => Sys2Proof.Machine.execLand sid s
  | .laneStart sid => Sys2Proof.Machine.execLaneStart sid s
  | .faultOverflowMove part => Sys2Proof.Machine.execFaultOverflowMove part s
  | .atWake sid => Sys2Proof.Machine.execAtWake sid s
  | .cwaitWake sid => Sys2Proof.Machine.execCwaitWake sid s
  | .erecvWake sid => Sys2Proof.Machine.execErecvWake sid s
  | .vpullWake sid => Sys2Proof.Machine.execVpullWake sid s
  | .dwaitWake sid => Sys2Proof.Machine.execDwaitWake sid s
  | .harpCommandStart core => Sys2Proof.Machine.execHarpCommandStart core s
  | .harpRowTouch op => Sys2Proof.Machine.execHarpRowTouch op s
  | .hmmsPairingTimeout op => Sys2Proof.Machine.execHmmsPairingTimeout op s
  | .freeAccessComplete id => Sys2Proof.Machine.execFreeAccessComplete id s
  | .freeAccessTimeout id => Sys2Proof.Machine.execFreeAccessTimeout id s
  | .translationWalk core vd va => Sys2Proof.Machine.execTranslationWalk core vd va s
  | .l1LineExpiry core line => Sys2Proof.Machine.execL1LineExpiry core line s
  | .memoryLineWrite la data => Sys2Proof.Machine.execMemoryLineWrite la data s
  | .memoryLineRead la vd => Sys2Proof.Machine.execMemoryLineRead la vd s
  | .minorWrapReseal blk => Sys2Proof.Machine.execMinorWrapReseal blk s
  | .timedReadCheck launch la => Sys2Proof.Machine.execTimedReadCheck launch la s
  | .relayOwnerWrite id => Sys2Proof.Machine.execRelayOwnerWrite id s
  | .relayOwnerRead id => Sys2Proof.Machine.execRelayOwnerRead id s
  | .relayPeerRead id => Sys2Proof.Machine.execRelayPeerRead id s
  | .switchCheck pkt => Sys2Proof.Machine.execSwitchCheck pkt s
  | .packetDelivery pkt => Sys2Proof.Machine.execPacketDelivery pkt s
  | .timedDelivery pkt flit => Sys2Proof.Machine.execTimedDelivery pkt flit s
  | .elasticArrival pkt => Sys2Proof.Machine.execElasticArrival pkt s
  | .heldArrivalExpiry pkt => Sys2Proof.Machine.execHeldArrivalExpiry pkt s
  | .vpushArrival pkt => Sys2Proof.Machine.execVpushArrival pkt s
  | .remoteReply op value mark => Sys2Proof.Machine.execRemoteReply op value (s.replyMark op mark)
  | .discardNotice op => Sys2Proof.Machine.execDiscardNotice op s
  | .fabricTimeout op => Sys2Proof.Machine.execFabricTimeout op s
  | .rateUpdate => Sys2Proof.Machine.execRateUpdate s
  | .drayCommandStart dray => Sys2Proof.Machine.execDrayCommandStart dray s
  | .drayCommandCompletion dray seq => Sys2Proof.Machine.execDrayCommandCompletion dray seq s
  | .drayTimeout dray seq => Sys2Proof.Machine.execDrayTimeout dray seq s
  | .timedDrayStart launch idx => Sys2Proof.Machine.execTimedDrayStart launch idx s
  | .migrationLineCopy slot => Sys2Proof.Machine.execMigrationLineCopy slot s
  | .portGenerationAdvance x y port => Sys2Proof.Machine.execPortGenerationAdvance x y port s
  | .keyDigestCompare equal => Sys2Proof.Machine.execKeyDigestCompare equal s
  | .routeKeyAdvance => Sys2Proof.Machine.execRouteKeyAdvance s
  | .networkWorkRequest qp status reply => Sys2Proof.Machine.execNetworkWorkRequest qp status reply s
  | .networkInbound qp msg => Sys2Proof.Machine.execNetworkInbound qp msg s
  | .networkTimeout qp => Sys2Proof.Machine.execNetworkTimeout qp s
  | .launchQueuePoll part q => Sys2Proof.Machine.execLaunchQueuePoll part q s
  | .launchEngineTake part => Sys2Proof.Machine.execLaunchEngineTake part s
  | .slotFreed sid => Sys2Proof.Machine.execSlotFreed sid s
  | .unitCompletion sid => Sys2Proof.Machine.execUnitCompletion sid s
  | .completionNotice launch => Sys2Proof.Machine.execCompletionNotice launch s
  | .cancelDrainEnd launch => Sys2Proof.Machine.execCancelDrainEnd launch s
  | .scoredLaunchStart launch allReported => Sys2Proof.Machine.execScoredLaunchStart launch allReported s
  | .endingNotice launch lcy detail => Sys2Proof.Machine.execEndingNotice launch lcy detail s
  | .overrun launch => Sys2Proof.Machine.execOverrun launch s
  | .scoredLaunchEnd launch => Sys2Proof.Machine.execScoredLaunchEnd launch s
  | .scoredLaunchRelease launch => Sys2Proof.Machine.execScoredLaunchRelease launch s
  | .preq part => Sys2Proof.Machine.execPreq part s
  | .scoredPreempt launch => Sys2Proof.Machine.execScoredPreempt launch s
  | .rreq part => Sys2Proof.Machine.execRreq part s
  | .scoredResume launch => Sys2Proof.Machine.execScoredResume launch s
  | .freePreempt sid => Sys2Proof.Machine.execFreePreempt sid s
  | .interruptDelivery vd => Sys2Proof.Machine.execInterruptDelivery vd s
  | .barLine measured => Sys2Proof.Machine.execBarLine measured s
  | .barGap => Sys2Proof.Machine.execBarGap s
  | .rest => Sys2Proof.Machine.execRest s
  | .timeLock p => Sys2Proof.Machine.execTimeLock p s
  | .timeLockRepeat p => Sys2Proof.Machine.execTimeLockRepeat p s
  | .wayQuotaRecompute die => Sys2Proof.Machine.execWayQuotaRecompute die s
  | .errorCounterCopy => Sys2Proof.Machine.execErrorCounterCopy s
  | .checkpointRoundStart => Sys2Proof.Machine.execCheckpointRoundStart s
  | .checkpointRetire => Sys2Proof.Machine.execCheckpointRetire s
  | .checkpointRoundEnd => Sys2Proof.Machine.execCheckpointRoundEnd s
  | .vdScheduleOut part x => Sys2Proof.Machine.execVdScheduleOut part x s
  | .vdScheduleIn part x => Sys2Proof.Machine.execVdScheduleIn part x s
  | .vdReset vd => Sys2Proof.Machine.execVdReset vd s
  | .vdTeardown vd => Sys2Proof.Machine.execVdTeardown vd s
  | .vdResetEffect vd => Sys2Proof.Machine.execVdResetEffect vd s
  | .vdQuiet vd => Sys2Proof.Machine.execVdQuiet vd s
  | .portOpen x y port vd => Sys2Proof.Machine.execPortOpen x y port vd s
  | .portClose x y port => Sys2Proof.Machine.execPortClose x y port s
  | .deviceRegisterWrite w => Sys2Proof.Machine.execDeviceRegisterWrite w s
  | .coreRetire core => Sys2Proof.Machine.execCoreRetire core s
  | .partitionMove src dst crews drays spares => Sys2Proof.Machine.execPartitionMove src dst crews drays spares s
  | .coachmanTakeover => Sys2Proof.Machine.execCoachmanTakeover s
  | .powerStateEntry part => Sys2Proof.Machine.execPowerStateEntry part s
  | .powerWake part => Sys2Proof.Machine.execPowerWake part s
  | .thermalSample m => Sys2Proof.Machine.execThermalSample m s
  | .thermalLevelExit => Sys2Proof.Machine.execThermalLevelExit s
  | .bringupStage0 p => Sys2Proof.Machine.execBringupStage0 p s
  | .bringupStage1 => Sys2Proof.Machine.execBringupStage1 s
  | .discoveryPacket x y dir => Sys2Proof.Machine.execDiscoveryPacket x y dir s
  | .discoveryAnswer core => Sys2Proof.Machine.execDiscoveryAnswer core s
  | .mapBuild => Sys2Proof.Machine.execMapBuild s
  | .bringupStage2 trained far checksum => Sys2Proof.Machine.execBringupStage2 trained far checksum s
  | .bootWaitRelease core => Sys2Proof.Machine.execBootWaitRelease core s
  | .bootExpiry => Sys2Proof.Machine.execBootExpiry s
  | .bringupStage3 p => Sys2Proof.Machine.execBringupStage3 p s
  | .lockInterface vd => Sys2Proof.Machine.execLockInterface vd s
  | .startInterface vd => Sys2Proof.Machine.execStartInterface vd s
  | .stopInterface vd => Sys2Proof.Machine.execStopInterface vd s
  | .hostTransaction t => Sys2Proof.Machine.execHostTransaction t s
  | .mctpMessage m => Sys2Proof.Machine.execMctpMessage m s
  | .firmwareUpdate bar => Sys2Proof.Machine.execFirmwareUpdate bar s
  | .scoredBankAccess id => Sys2Proof.Machine.execScoredBankAccess id s
  | .fabricAcknowledgement op mark => Sys2Proof.Machine.execFabricAcknowledgement op mark s
  | .drayQueueFullExpiry sid => Sys2Proof.Machine.execDrayQueueFullExpiry sid s
  | .checkpointUnitCopy => Sys2Proof.Machine.execCheckpointUnitCopy s
  | .frameAssignment frame owner assigned fresh => Sys2Proof.Machine.execFrameAssignment frame owner assigned fresh s
  | .queuePairCreation qp c => Sys2Proof.Machine.execQueuePairCreation qp c s
  | .vdCreation vd c => Sys2Proof.Machine.execVdCreation vd c s
  | .reservedStrandRelease sid => Sys2Proof.Machine.execReservedStrandRelease sid s
  | .openSlotPurge vd => Sys2Proof.Machine.execOpenSlotPurge vd s
  | .emptyMaskWriteback part die => Sys2Proof.Machine.execEmptyMaskWriteback part die s
  | .effect e r => .next (s.runEffect e r)
  | .timeArrival launch m => Sys2Proof.Machine.execTimeArrival launch m s
  | .scratchClear core => Sys2Proof.Machine.execScratchClear core s
  | .upset u => Sys2Proof.Machine.execUpset u s
  | .linkArrival => Sys2Proof.Machine.execLinkArrival s

end Sys2Proof.Machine
end

