-- ==== Sys2Proof/Machine/Fetch.lean ====
section
/-! DEFINITION. Fetching the pair at a program counter (R40, R288, R326, R386, R394). -/
namespace Sys2Proof.Machine

/-- The eight bytes at an offset of a code region, where it holds them. -/
def bufferRead (buf : Nat × List Byte) (a : Nat) : Option (List Byte) :=
  if buf.1 ≤ a ∧ a + 8 ≤ buf.1 + buf.2.length then some ((buf.2.drop (a - buf.1)).take 8) else none

/-- The two words of the pair at an address, or the trap of the fetch, with what the walk changed. A scored fetch fault is
charged to the word before (R288). -/
def State.fetchPair (s : State) (sid : Nat) (a : Nat) : State × Except TrapInfo (Nat × Nat) :=
  let x := s.strand sid
  let words (bs : List Byte) : Nat × Nat := (ofBytes (bs.take 4), ofBytes ((bs.drop 4).take 4))
  let fault : TrapInfo := { cause := 7, eval := BitVec.ofNat 64 a }
  match x.fetch with
  | .phys => (s, if isMapped a then .ok (words (s.physRead a 8)) else .error fault)
  | .spad => (s, if a < 524288 then .ok (words (s.spadRead (coreOf sid) a 8)) else .error fault)
  | .buffer =>
    (s, match (look (x.launch.getD 0) (s.core (coreOf sid)).ibuf).bind fun b => bufferRead b a with
      | some bs => .ok (words bs)
      | none => .error { fault with detail := 7 })
  | .virt =>
    match s.translate none sid a .exec with
    | (s, .error t) => (s, .error (fetchTrap t))
    | (s, .ok (pa, _)) =>
      match s.linesFault pa 8 with
      | some d => (s, .error { cause := 10, detail := d, eval := BitVec.ofNat 64 a })
      | none => (s, .ok (words (s.physRead pa 8)))

end Sys2Proof.Machine
end

