-- ==== Sys2Proof/Machine/Waits.lean ====
section
/-! DEFINITION. The waiting words (R34): when the outcome of a strand's waiting word has come. -/
namespace Sys2Proof.Machine

/-- R329: a TLBINV waits for the strand's earlier operations and for another TLBINV of the VD, invalidates, waits for the accesses
of the VD that were in flight, and answers the new SDGEN. -/
def State.tlbinvWait (s : State) (sid v : Nat) (page drain : Option Nat) (d : GReg) (seq turn : Nat) : Option State :=
  match drain with
  | none =>
    let busy := s.strands.any fun e => inSlot e.1 && match e.2.wait with | some (.tlbinv w _ (some _) _ _ _) => w == v | _ => false
    if busy || !s.fenceDone sid seq .ensemble 63 then none
    else
      let n := s.nextId
      some ((s.shootDown v page).modStrand sid fun x => { x with wait := some (.tlbinv v page (some n) d seq turn) })
  | some n =>
    if (s.accesses.any fun e => decide (e.1 < n) && e.2.vd == v && e.2.place == .phys) || decide (s.lcy sid < turn + 32) then none
    else
      let w := BitVec.ofNat 64 (s.vd v).sdgen
      let s := s.modStrand sid fun x => { x with wait := none }
      some (if d = 0 then s else s.resolve sid seq (.g d) w (s.lcy sid))

/-- Whether a strand's wait is over at its issue cycle, and the state after it. -/
def State.waitOver (s : State) (sid : Nat) (w : Wait) : Option State :=
  let x := s.strand sid
  let free (s : State) : Option State := some (s.modStrand sid fun x => { x with wait := none })
  match w with
  | .vsync seq => match x.oldestVec with
    | some o => if o < seq then none else free s
    | none => free s
  | .until lcy => if s.lcy sid < lcy then none else free s
  | .drain => if x.pend.isEmpty && x.started.isEmpty then free s else none
  | .fence d sc mask seq turn =>
    if s.fenceDone sid seq sc mask then
      some ((s.modStrand sid fun x => { x with wait := none }).fenceEnd sid d sc mask seq turn)
    else none
  | .harp op => s.harpWait sid op
  | .ctxsave target addr d seq turn =>
    let leaving := match (s.strand target).leaving with | some (.ctxsave _ by_) => by_ == sid | _ => false
    if leaving || decide (s.lcy sid < turn + 32) then none
    else
      let w : Word := if (s.saved.any fun e => e.1 == addr) then 0 else 2
      let s := s.modStrand sid fun x => { x with wait := none }
      some (if d = 0 then s else s.resolve sid seq (.g d) w (s.lcy sid))
  | .tlbinv v page drain d seq turn => s.tlbinvWait sid v page drain d seq turn
  | .chunks => if s.chunksLeft sid then none else free s
  | _ => none

end Sys2Proof.Machine
end

