-- ==== Sys2Proof/Machine/Issue.lean ====
section
/-! DEFINITION. The parts of a step: well-formed events, what is due, the issue cycle of a strand up to its decoded words,
and the next cycle (R16, R34, R40 to R44, R54, R334, R335). -/
namespace Sys2Proof.Machine

/-! ## Events -/

/-- What a hardware error names exists, and its check sees it. -/
def Upset.ok : Upset → Bool
  | .register sid d i _ => decide (sid < 15392) && decide (i < d.words)
  | .multiplier sid err => decide (sid < 15392) && decide (err % 3 ≠ 0)
  | .accumulator crew tile row col bit => decide (crew < 120) && decide (tile < 16) && decide (row < 128) && decide (col < 128) && decide (bit < 64)
  | .line la symbols => (isNear (64 * la) || isFar (64 * la)) && symbols.all fun e => decide (e.1 < 80)
  | .node level n symbols => decide (level ≤ 2) && decide (n < 2 ^ 40) && symbols.all fun e => decide (e.1 < 80)

/-- The agents an event of the outside world names exist; the same checks as of the row's instruction. The effect of a word is no
such event. -/
def Event.ok : Event → Bool
  | .land sid => decide (sid < 15392)
  | .laneStart sid => decide (sid < 15392)
  | .faultOverflowMove part => decide (part < 48)
  | .atWake sid => decide (sid < 15392)
  | .cwaitWake sid => decide (sid < 15392)
  | .erecvWake sid => decide (sid < 15392)
  | .vpullWake sid => decide (sid < 15392)
  | .dwaitWake sid => decide (sid < 15392)
  | .harpCommandStart core => decide (core < 962)
  | .translationWalk core vd _ => decide (core < 962) && decide (vd < 192)
  | .l1LineExpiry core _ => decide (core < 962)
  | .memoryLineRead _ vd => decide (vd < 192)
  | .drayCommandStart dray => decide (dray < 48)
  | .drayCommandCompletion dray _ => decide (dray < 48)
  | .drayTimeout dray _ => decide (dray < 48)
  | .migrationLineCopy slot => decide (slot < 16)
  | .portGenerationAdvance x y port => decide (x < 32) && decide (y < 32) && decide (port < 64)
  | .networkWorkRequest qp _ _ => decide (qp < 4096)
  | .networkInbound qp msg => decide (qp < 4096) && msg.pass.isNone
  | .networkTimeout qp => decide (qp < 4096)
  | .launchQueuePoll part q => decide (part < 48) && decide (q < 4)
  | .launchEngineTake part => decide (part < 48)
  | .slotFreed sid => decide (sid < 15392)
  | .unitCompletion sid => decide (sid < 15392)
  | .preq part => decide (part < 48)
  | .rreq part => decide (part < 48)
  | .freePreempt sid => decide (sid < 15392)
  | .interruptDelivery vd => decide (vd < 192)
  | .wayQuotaRecompute die => decide (die < 4)
  | .vdScheduleOut part x => decide (part < 48) && decide (x < 8)
  | .vdScheduleIn part x => decide (part < 48) && decide (x < 8)
  | .vdReset vd => decide (vd < 192)
  | .vdTeardown vd => decide (vd < 192)
  | .vdResetEffect vd => decide (vd < 192)
  | .vdQuiet vd => decide (vd < 192)
  | .portOpen x y port vd => decide (x < 32) && decide (y < 32) && decide (port < 64) && decide (vd < 192)
  | .portClose x y port => decide (x < 32) && decide (y < 32) && decide (port < 64)
  | .coreRetire core => decide (core < 962)
  | .partitionMove src dst _ _ _ => decide (src < 48) && decide (dst < 48)
  | .powerStateEntry part => decide (part < 48)
  | .powerWake part => decide (part < 48)
  | .discoveryPacket x y _ => decide (x < 32) && decide (y < 32)
  | .discoveryAnswer core => decide (core < 962)
  | .bootWaitRelease core => decide (core < 962)
  | .lockInterface vd => decide (vd < 192)
  | .startInterface vd => decide (vd < 192)
  | .stopInterface vd => decide (vd < 192)
  | .drayQueueFullExpiry sid => decide (sid < 15392)
  | .queuePairCreation qp _ => decide (qp < 4096)
  | .vdCreation vd _ => decide (vd < 192)
  | .reservedStrandRelease sid => decide (sid < 15392)
  | .openSlotPurge vd => decide (vd < 192)
  | .emptyMaskWriteback part die => decide (part < 48) && decide (die < 4)
  | .effect _ _ => false
  | .upset u => u.ok
  | .scratchClear _ => false
  | _ => true

/-- The next event of the outside world, when its cycle has come. -/
def State.takeInbox (s : State) : Option (Event × State) :=
  match s.inbox with
  | (t, e) :: rest => if t ≤ s.pkg.ency then some (e, { s with inbox := rest }) else none
  | [] => none

/-- Whether a stamp has come: a launch's clock does not run before its first issue, in a rest or while pre-empted. -/
def State.isDue (s : State) (st : Stamp) : Bool :=
  match st.clock with
  | none => decide (st.time ≤ s.pkg.ency)
  | some l =>
    let L := s.launch l
    match L.lcy with
    | some c => decide (st.time ≤ c) && !L.frozen && L.st != .preempted
    | none => false

/-- The lowest priority number among what is due. -/
def State.minPrio (s : State) : List (Stamp × Event) → Option Nat → Option Nat
  | [], m => m
  | (st, _) :: t, m =>
    if s.isDue st then s.minPrio t (match m with | some k => some (Nat.min k st.prio) | none => some st.prio)
    else s.minPrio t m

/-- Takes the first item that satisfies a test. -/
def takeFirst {α : Type} (f : α → Bool) : List α → Option (α × List α)
  | [] => none
  | a :: t => if f a then some (a, t) else match takeFirst f t with
    | some (b, r) => some (b, a :: r)
    | none => none

/-- What the machine owes first in this cycle. -/
def State.takeDue (s : State) : Option (Event × State) :=
  match s.minPrio s.agenda none with
  | none => none
  | some k =>
    match takeFirst (fun e : Stamp × Event => s.isDue e.1 && e.1.prio == k) s.agenda with
    | some (e, rest) => some (e.2, { s with agenda := rest })
    | none => none

/-! ## The issue cycle -/

/-- The word about to execute takes its place in the pair (R40). -/
def State.position (s : State) (second : Bool) (raw : Nat) : State :=
  { s with cur := { s.cur with second := second, raw := BitVec.ofNat 32 raw } }

/-- A joined pair keeps its issue cycle empty (R43). -/
def State.keepEmpty (s : State) : State := { s with last := .held }

/-- The trap of the second word of a joined pair: neither word has effect (R43). -/
def State.chargePair (s : State) (t : TrapInfo) : State :=
  { s.takeTrap s.cur.sid t (s.epcOf t) with last := .trapped t }

/-- The pair or word issues: the program counter advances (R44), and the issue has a number of its own. -/
def State.issued (s : State) (c : Cursor) : State :=
  ({ s with cur := c }).modStrand c.sid fun x => { x with pc := c.next, prev := c.addr, seq := (x.seq / wordStep + 1) * wordStep }

/-- The A word of a joined pair follows its C word (R41, R43). -/
def State.behind (s : State) : State := s.modMe fun x => { x with seq := unitSeq x.seq + halfStep }

/-- R34: a word that keeps its issue cycle empty has not issued. -/
def settle (o : Host.Outcome State Fault Refusal) (before : State) : Host.Outcome State Fault Refusal :=
  match o with
  | .next t =>
    if t.last = .held then
      let x := before.strand t.cur.sid
      .next ((t.modStrand t.cur.sid fun y => { y with pc := x.pc, prev := x.prev, seq := x.seq }).perf t.cur.sid 3 1)
    else .next (t.perf t.cur.sid 2 1)
  | r => r

/-- R34: whether the strand issues in this cycle, with LCY begun and its wait resolved; otherwise the state after an empty
issue cycle. -/
def State.toFetch (s : State) (sid : Nat) : Except State State :=
  let x := s.strand sid
  if x.slot ≠ .runnable ∨ x.leaving.isSome then .error s
  else
    let l := s.clockOf sid
    let L := s.launch l
    let gated := match s.partOf (coreOf sid) with | some p => (s.part p).pstate != 0 | none => false
    let blank := (s.core (coreOf sid)).clearing.isSome && (s.core (coreOf sid)).lastVd == some (s.strandVd sid)
    if L.frozen || decide (s.pkg.ency < L.start) || ((gated || blank) && !s.scored sid) then .error s
    else if !s.scored sid && s.pkg.therm == 1 && decide (s.pkg.ency / 16 % 2 = 1) && !isCoach (coreOf sid) then .error (s.perf sid 3 1)
    else
      let s := if L.lcy = none then s.setLaunch l { L with lcy := some 0, st := if launchKey 0 ≤ l then L.st else .running } else s
      match x.wait with
      | some w =>
        match s.waitOver sid w with
        | some t =>
          let y := t.strand sid
          if y.slot = .runnable ∧ y.wait = none then .ok t else .error (t.perf sid 3 1)
        | none => .error (s.perf sid 3 1)
      | none => .ok s

/-- What a fetch yields: one word, or a joined pair with its two raw words, each with what it decodes to or its decode trap. -/
inductive Fetched
  | one (s : State) (i : Instr)
  | two (s : State) (c a : Except TrapInfo Instr) (wc wa : Nat)

/-- The trap of a word that does not decode (R54). -/
def trapOf (e : DecodeError) (raw : Nat) (pair : Nat) : TrapInfo :=
  match e with
  | .illegalPair => { cause := 1, eval := BitVec.ofNat 64 pair }
  | .formatCode c => { cause := 3, eval := BitVec.ofNat 64 c }
  | _ => { cause := 2, eval := BitVec.ofNat 64 raw }

/-- Whether an interrupted block goes on at an address: of a joined pair there, only the block's word issues again (R138). -/
def Strand.resumes (x : Strand) (addr : Word) : Bool :=
  match x.heldLoop with
  | some l => ((l.words[l.pos]?).map (·.pc)) == some addr && l.inh == x.inh
  | none => false
/-- R40 to R44, R54: fetches and decodes what the strand issues next; the state is the one in which it issues. Word 1 of a lone
pair is fetched again, with its pair, at its own issue, so that it sees a store or a remapping made since the issue of word 0: the
spec does not say when word 1 is fetched (DESIGN CHOICE, notes/assumptions/60.md). -/
def State.fetchDecode (s : State) (sid : Nat) : Except (State × TrapInfo) Fetched :=
  let x := s.strand sid
  let pair := x.pc.toNat / 8 * 8
  let second := x.pc.getLsbD 2
  let cur (second joined : Bool) (raw : Nat) : Cursor := ⟨sid, BitVec.ofNat 64 pair, second, joined, BitVec.ofNat 32 raw⟩
  match x.pendingTrap with
  | some (t, pc) => .error ((s.issued ⟨sid, pc &&& ~~~7#64, pc.getLsbD 2, false, 0⟩).modStrand sid fun y => { y with pendingTrap := none }, t)
  | none =>
  match s.fetchPair sid pair with
  | (s, .error t) =>
    let c := if s.scored sid then { cur second false 0 with pair := x.prev, second := false } else cur second false 0
    .error (s.issued c, t)
  | (s, .ok (w0, w1)) =>
    let lone := s.issued (cur second false 0)
    match decodePair w0 w1 with
    | .error e => .error (lone, trapOf e 0 pair)
    | .ok (.lone _ _) =>
      let w := if second then w1 else w0
      let t := s.issued (cur second false w)
      match decodeWord w with
      | .ok i => .ok (.one t i)
      | .error e => .error (t, trapOf e w pair)
    | .ok (.joined _ _) =>
      if second then .error (lone, { cause := 1, eval := BitVec.ofNat 64 pair })
      else
        let t := s.issued (cur false true w0)
        let dec (w : Nat) : Except TrapInfo Instr := (decodeWord w).mapError fun e => trapOf e w pair
        match dec w1, x.resumes (BitVec.ofNat 64 pair) with
        | .ok a, true => .ok (.one (State.behind (s.issued ⟨sid, BitVec.ofNat 64 pair, true, true, BitVec.ofNat 32 w1⟩)) a)
        | a, _ => .ok (.two t (dec w0) a w0 w1)

/-! ## The next cycle -/

/-- Strands of the slot whose issue cycle a cycle is (R16), in increasing logical core (R246). -/
def State.slotSids (s : State) : List Nat :=
  sortOn (fun sid => (s.core (coreOf sid)).logical)
    ((s.strands.filter fun e => inSlot e.1 && e.1 % 16 == s.pkg.ency % 16 && e.2.slot != .idle).map (·.1))

/-- R334: LCY of every launch that runs advances. -/
def Launch.tick (l : Launch) : Launch :=
  match l.lcy with
  | some c => if l.frozen || l.st == .preempted || l.st == .done then l else { l with lcy := some (c + 1) }
  | none => l

/-- What every bar line, and every 1024th and 2^20th cycle, brings (R191, R251, R257, R335, R336, R344). -/
def State.periodic (s : State) : State :=
  let n := s.pkg.ency
  let s := if n % 4096 = 0 then
      match s.drifts with
      | d :: t => ((({ s with drifts := t }).now prioBar .barGap)).now prioBar (.barLine d)
      | [] => (s.now prioBar .barGap).now prioBar (.barLine 0)
    else s
  let s := if n % 1024 = 0 then
      s.parts.foldl (fun s e => (List.range 4).foldl (fun s q =>
        if ((e.2.queues.toList[q]?).getD {}).log2n = 0 then s else s.now prioArrive (.launchQueuePoll e.1 q)) s)
        (s.now prioBar .rateUpdate)
    else s
  if n % 1048576 = 0 then
    (List.range 4).foldl (fun s d => s.now prioBar (.wayQuotaRecompute d)) (s.now prioBar .errorCounterCopy)
  else s

/-- R345: event 1, the ensemble cycles; a cycle belongs to no slot, so bit 12 of the selector does not restrict it. -/
def Core.countsCycles (k : Core) : Bool := k.perfsel.toList.any fun w => w.toNat % 256 == 1
def Core.countCycle (k : Core) (ency : Nat) : Core :=
  let hit (i : Fin 8) : Bool := k.perfsel[i].toNat % 256 == 1
  let k' := (List.finRange 8).foldl (fun k' i => if hit i then k'.note ency (0x188 + i.val) 1 else k') k
  { k' with perfcnt := Vector.ofFn fun i => if hit i then k.perfcnt[i] + 1 else k.perfcnt[i] }
def State.countCycles (s : State) : State :=
  if s.cores.any fun e => e.2.countsCycles then
    { s with cores := s.cores.map fun e : Nat × Core => (e.1, if e.2.countsCycles then e.2.countCycle s.pkg.ency else e.2) }
  else s

/-- The next cycle of the package. -/
def State.tick (s : State) : State :=
  let s := (s.modPkg fun k => { k with ency := k.ency + 1 }).countCycles
  let s := { s with launches := s.launches.map fun e : Nat × Launch => (e.1, e.2.tick) }
  let s := s.periodic.watchPower
  { s with toIssue := s.slotSids }

end Sys2Proof.Machine
end

