-- ==== Sys2Proof/Machine/Step.lean ====
section
/-! DEFINITION. One step of the machine: an event of the outside world whose cycle has come, else what the machine owes in
this cycle, else the issue of the next strand of the cycle, else the next cycle (notes/assumptions/2.md). -/
namespace Sys2Proof.Machine

/-- A word of a joined pair: its instruction, or its decode trap (R54), which R356 may hold. -/
def runWord (s : State) : Except TrapInfo Instr → Host.Outcome State Fault Refusal
  | .ok i => exec i s
  | .error t => finish s (.trap t)

/-- R41, R43: both words of a joined pair take effect in one turn, or neither. If either is held, the pair keeps its issue cycle
empty; if either traps, neither has an effect, and the trap is the C word's if both trap. -/
def runJoined (s : State) (c a : Except TrapInfo Instr) (wc wa : Nat) : Host.Outcome State Fault Refusal :=
  match runWord (s.position false wc) c with
  | .next t =>
    match t.last with
    | .held => .next t
    | .done =>
      (match runWord (t.position true wa).behind a with
      | .next u =>
        (match u.last with
        | .done => .next u
        | .held => .next (s.position true wa).keepEmpty
        | .trapped info => .next ((s.position true wa).chargePair info))
      | r => r)
    | .trapped _ =>
      (match runWord (s.position true wa).behind a with
      | .next u => .next (if u.last = .held then (s.position true wa).keepEmpty else t)
      | r => r)
  | r => r

/-- R16, R34, R40 to R44: the issue cycle of a strand. -/
def issue (sid : Nat) (s : State) : Host.Outcome State Fault Refusal :=
  match s.toFetch sid with
  | .error t => .next t
  | .ok s =>
    match s.fetchDecode sid with
    | .error (t, info) => settle (finish t (.trap info)) s
    | .ok (.one t i) => settle (exec i t) s
    | .ok (.two t c a wc wa) => settle (runJoined t c a wc wa) s

def step (s : State) : Host.Outcome State Fault Refusal :=
  match s.takeInbox with
  | some (e, t) => if e.ok then runEvent e t else .fault .noSuchAgent
  | none =>
    match s.takeDue with
    | some (e, t) => runEvent e t
    | none =>
      match s.toIssue with
      | sid :: rest => issue sid { s with toIssue := rest }
      | [] => .next s.tick

/-- Stores a row's word where the next step fetches it: the primary Coachman, at coach level with one vector strand, is due
to issue; nothing is owed. A word with L = 1 stands as word 0 of a lone pair with NOP; with L = 0 it is joined with a hint
word of the other class (notes/assumptions/1.md). -/
def State.withFetchWord (s : State) (nbits w : Nat) : State :=
  let w := if nbits = 32 then w % 4294967296 else 0
  let bytes :=
    if fld w 31 1 = 1 then toBytes 4 w ++ toBytes 4 2147483648
    else if isCClass w then toBytes 4 w ++ toBytes 4 0x78000000
    else toBytes 4 0x00000000 ++ toBytes 4 w
  let sid := 15360
  let x : Strand := { s.strand sid with slot := .runnable, pc := 0, priv := 2, fetch := .phys, wait := none, launch := none }
  let s := { s.setStrand sid x with inbox := [], agenda := [], toIssue := [sid], mem := writeBytes s.mem 0 bytes }
  let s := s.modCore 960 fun k => { k with k := 0, scored := false }
  s.setLaunch sid { s.launch sid with st := .running }

end Sys2Proof.Machine
end

