-- ==== Sys2Proof/Laws/Table.lean ====
section
/-! SUPPORT. Laws of the tables that State is made of (Machine/Bits.lean): what a read answers after a write, and that every
operation on a table keeps its canonical form. The memories are such tables. -/
namespace Sys2Proof.Machine

section
variable {α : Type} [DecidableEq α] (d : α)

/-- The canonical form, entry by entry. -/
theorem twf_iff : (m : Sparse α) → (twf d m = true ↔ m.Pairwise (fun a b => a.1 < b.1) ∧ ∀ e ∈ m, e.2 ≠ d)
  | [] => by simp [twf]
  | [(j, v)] => by simp [twf]
  | (j, v) :: (k, w) :: t => by
    have ih := twf_iff ((k, w) :: t)
    simp only [twf, Bool.and_eq_true, decide_eq_true_eq, ih, List.pairwise_cons, List.mem_cons, forall_eq_or_imp]
    constructor
    · rintro ⟨⟨h1, h2⟩, ⟨h3, h4⟩, h5, h6⟩
      exact ⟨⟨⟨h2, fun e he => Nat.lt_trans h2 (h3 e he)⟩, h3, h4⟩, h1, h5, h6⟩
    · rintro ⟨⟨⟨h1, -⟩, h2, h3⟩, h4, h5, h6⟩
      exact ⟨⟨h4, h1⟩, ⟨h2, h3⟩, h5, h6⟩

theorem mem_tput (k : Nat) (v : α) (e : Nat × α) : (m : Sparse α) → e ∈ tput d k v m → e = (k, v) ∧ v ≠ d ∨ e ∈ m
  | [], h => by
    unfold tput at h
    split at h <;> simp_all
  | (j, w) :: t, h => by
    unfold tput at h
    split at h
    · split at h
      · exact .inr (List.mem_cons_of_mem _ h)
      · rcases List.mem_cons.1 h with h | h
        · exact .inl ⟨h, ‹_›⟩
        · exact .inr (List.mem_cons_of_mem _ h)
    · split at h
      · split at h
        · exact .inr h
        · rcases List.mem_cons.1 h with h | h
          · exact .inl ⟨h, ‹_›⟩
          · exact .inr h
      · rcases List.mem_cons.1 h with h | h
        · exact .inr (h ▸ List.mem_cons_self ..)
        · rcases mem_tput k v e t h with h | h
          · exact .inl h
          · exact .inr (List.mem_cons_of_mem _ h)

theorem tput_rising (k : Nat) (v : α) : (m : Sparse α) → m.Pairwise (fun a b => a.1 < b.1) →
    (tput d k v m).Pairwise (fun a b => a.1 < b.1)
  | [], _ => by unfold tput; split <;> simp
  | (j, w) :: t, h => by
    obtain ⟨h1, h2⟩ := List.pairwise_cons.1 h
    unfold tput
    split
    · split
      · exact h2
      · rename_i hk _
        subst hk
        exact List.pairwise_cons.2 ⟨h1, h2⟩
    · split
      · split
        · exact h
        · rename_i hk _
          refine List.pairwise_cons.2 ⟨fun e he => ?_, h⟩
          rcases List.mem_cons.1 he with rfl | he
          · exact hk
          · exact Nat.lt_trans hk (h1 e he)
      · rename_i h3 h4
        refine List.pairwise_cons.2 ⟨fun e he => ?_, tput_rising k v t h2⟩
        rcases mem_tput d k v e t he with ⟨rfl, -⟩ | he
        · show j < k; omega
        · exact h1 e he

/-- A write keeps the canonical form. -/
theorem tput_wf (k : Nat) (v : α) (m : Sparse α) (h : twf d m = true) : twf d (tput d k v m) = true := by
  rw [twf_iff] at h ⊢
  refine ⟨tput_rising d k v m h.1, fun e he => ?_⟩
  rcases mem_tput d k v e m he with ⟨rfl, h'⟩ | he
  · exact h'
  · exact h.2 e he

/-- What is left of a table keeps the canonical form. -/
theorem filter_wf (f : Nat × α → Bool) (m : Sparse α) (h : twf d m = true) : twf d (m.filter f) = true := by
  rw [twf_iff] at h ⊢
  exact ⟨h.1.filter f, fun e he => h.2 e (List.mem_filter.1 he).1⟩

theorem foldl_tput_wf {β : Type} (k : β → Nat) (v : β → α) : (l : List β) → (m : Sparse α) → twf d m = true →
    twf d (l.foldl (fun m e => tput d (k e) (v e) m) m) = true
  | [], _, h => h
  | _ :: l, m, h => foldl_tput_wf k v l _ (tput_wf d _ _ m h)

omit [DecidableEq α] in
/-- Reading a key below every listed one. -/
theorem tget_below (k : Nat) : (m : Sparse α) → (∀ e ∈ m, k < e.1) → tget d k m = d
  | [], _ => rfl
  | (j, w) :: t, h => by
    have := h (j, w) (List.mem_cons_self ..)
    unfold tget
    rw [if_neg (by omega), if_pos this]

/-- A read after a write: the value written at its key, and every other key as before. -/
theorem tget_tput_rising (k j : Nat) (v : α) : (m : Sparse α) → m.Pairwise (fun a b => a.1 < b.1) →
    tget d j (tput d k v m) = if j = k then v else tget d j m
  | [], _ => by
    unfold tput
    split <;> simp [tget, *]
  | (i, w) :: t, h => by
    obtain ⟨h1, h2⟩ := List.pairwise_cons.1 h
    have ih := tget_tput_rising k j v t h2
    unfold tput
    split
    · rename_i hk
      subst hk
      split
      · rename_i hv
        by_cases hj : j = k
        · subst hj; rw [if_pos rfl, tget_below d _ t h1, hv]
        · rw [if_neg hj]
          show tget d j t = tget d j ((k, w) :: t)
          by_cases hlt : j < k
          · rw [tget_below d j t fun e he => Nat.lt_trans hlt (h1 e he)]
            simp [tget, hj, hlt]
          · simp [tget, hj, hlt]
      · by_cases hj : j = k <;> simp [tget, hj]
    · split
      · rename_i hk hlt
        split
        · rename_i hv
          by_cases hj : j = k
          · subst hj; simp [tget, hk, hlt, hv]
          · simp [hj]
        · by_cases hj : j = k
          · subst hj; simp [tget]
          · by_cases hjk : j < k
            · have : j < i := by omega
              simp [tget, hj, hjk, this, show j ≠ i by omega]
            · simp [tget, hj, hjk]
      · rename_i hk hlt
        by_cases hji : j = i
        · subst hji; simp [tget, show j ≠ k by omega]
        · by_cases hl : j < i
          · simp [tget, hji, hl, show j ≠ k by omega]
          · simp only [tget, hji, hl, if_false]
            exact ih

/-- The same of a table in canonical form. -/
theorem tget_tput (k j : Nat) (v : α) (m : Sparse α) (h : twf d m = true) :
    tget d j (tput d k v m) = if j = k then v else tget d j m :=
  tget_tput_rising d k j v m ((twf_iff d m).1 h).1

end

/-! ## Bytes -/

theorem writeBytes_wf (a : Nat) : (bs : List Byte) → (m : Sparse Byte) → Memory.wf m = true → Memory.wf (writeBytes m a bs) = true
  | [], _, h => h
  | _ :: bs, _, h => writeBytes_wf (a + 1) bs _ (tput_wf _ _ _ _ h)

theorem spadPuts_wf (c off : Nat) : (bs : List Byte) → (m : Sparse Byte) → Memory.wf m = true → Memory.wf (spadPuts m c off bs) = true
  | [], _, h => h
  | _ :: bs, _, h => spadPuts_wf c (off + 1) bs _ (tput_wf _ _ _ _ h)

end Sys2Proof.Machine
end

