-- ==== Sys2Proof/Safety.lean ====
section
/-! DEFINITION. What counts as a safe run, and the form in which memories and tables stand. -/
namespace Sys2Proof

/-- The first k steps from a state all answer a next state. -/
def SafeRun (s : Machine.State) (k : Nat) : Prop := ∃ t, core.run k s = .next t

/-- The keys of a table strictly rise: each has one entry. -/
def Machine.Rising {α : Type} (m : Sparse α) : Prop := m.Pairwise fun a b => a.1 < b.1

/-- Memory and the scratchpads are in their one canonical form (addresses strictly rise and no entry equals what an unlisted
address reads as, so that equal memories are equal data), and no table by number has two entries for one number. -/
def Machine.Canonical (s : Machine.State) : Prop :=
  Machine.Memory.wf s.mem = true ∧ Machine.Memory.wf s.spad = true ∧ Rising s.strands ∧ Rising s.cores ∧ Rising s.harps ∧
  Rising s.launches ∧ Rising s.vds ∧ Rising s.parts ∧ Rising s.keys ∧ Rising s.frames ∧ Rising s.mig ∧ Rising s.ports ∧
  Rising s.drays ∧ Rising s.qps

end Sys2Proof
end

