-- ==== Sys2Proof/Laws/Canon.lean ====
section
/-! SUPPORT. The canonical form of memories and tables (notes/assumptions/2.md) carried through results, folds and record updates;
the files CanonBase to CanonIssue say of every operation that it keeps the form. -/
namespace Sys2Proof.Machine

def OptOk : Option State → Prop | some t => Canonical t | none => True
def OutOk : Host.Outcome State Fault Refusal → Prop | .next t => Canonical t | _ => True
def ResOk : Res → Prop | .ok t => Canonical t | .held t => Canonical t | .trap _ => True | .trapIn t _ => Canonical t
def OptFst {β : Type} : Option (State × β) → Prop | some t => Canonical t.1 | none => True
def OptSnd {β : Type} : Option (β × State) → Prop | some t => Canonical t.2 | none => True
def ExcOk {ε : Type} : Except ε State → Prop | .ok t => Canonical t | .error _ => True
def ExcFst {ε β : Type} : Except ε (State × β) → Prop | .ok t => Canonical t.1 | .error _ => True
def OptExcFst {ε β : Type} : Option (Except ε (State × β)) → Prop | some t => ExcFst t | none => True
def ExcBoth : Except State State → Prop | .ok t => Canonical t | .error t => Canonical t
def FetOk {ε : Type} : Except (State × ε) Fetched → Prop | .ok (.one t _) => Canonical t | .ok (.two t _ _ _ _) => Canonical t | .error t => Canonical t.1
def PartOk : Part → Prop | .ok t _ => Canonical t | .fail _ t => Canonical t | .wait t => Canonical t
def BeginOk : Begin → Prop | .done t _ => Canonical t | .trap _ => True | .wait => True
def HomedOk : Homed → Prop | .ok t _ => Canonical t | .fail _ => True | .wait => True
theorem homedok_wait : HomedOk .wait := trivial
theorem homedok_fail {e} : HomedOk (.fail e) := trivial
theorem homedok_ok {t b} (h : Canonical t) : HomedOk (.ok t b) := h
theorem homedok_inv {t b} (h : HomedOk (.ok t b)) : Canonical t := h
theorem partok_wait {t} (h : Canonical t) : PartOk (.wait t) := h
theorem partok_wait_inv {t} (h : PartOk (.wait t)) : Canonical t := h
theorem partok_fail {e t} (h : Canonical t) : PartOk (.fail e t) := h
theorem partok_ok {t b} (h : Canonical t) : PartOk (.ok t b) := h
theorem partok_ok_inv {t b} (h : PartOk (.ok t b)) : Canonical t := h
theorem partok_fail_inv {e t} (h : PartOk (.fail e t)) : Canonical t := h
def ServedOk : Served → Prop | .moved t => Canonical t | .stays t => Canonical t | .starves => True
theorem servedok_moved {t} (h : Canonical t) : ServedOk (.moved t) := h
theorem servedok_stays {t} (h : Canonical t) : ServedOk (.stays t) := h
theorem servedok_starves : ServedOk .starves := trivial
def OptBegin : Option Begin → Prop | some b => BeginOk b | none => True
theorem optbegin_none : OptBegin none := trivial
theorem optbegin_some {b} (h : BeginOk b) : OptBegin (some b) := h
theorem beginok_wait : BeginOk .wait := trivial
theorem beginok_trap {t} : BeginOk (.trap t) := trivial
theorem beginok_done {t n} (h : Canonical t) : BeginOk (.done t n) := h
theorem foldl_canonical {β : Type} (f : State → β → State) (hf : ∀ s b, Canonical s → Canonical (f s b)) :
    (l : List β) → (s : State) → Canonical s → Canonical (l.foldl f s)
  | [], _, h => h
  | b :: l, s, h => foldl_canonical f hf l _ (hf s b h)
theorem ite_canon {c : Prop} [Decidable c] {a b : State} (ha : c → Canonical a) (hb : ¬c → Canonical b) : Canonical (if c then a else b) := by
  split
  · exact ha ‹_›
  · exact hb ‹_›
theorem Canonical.wmem {s : State} (h : Canonical s) : Memory.wf s.mem = true := h.1
theorem Canonical.wspad {s : State} (h : Canonical s) : Memory.wf s.spad = true := h.2.1
theorem Canonical.rstrands {s : State} (h : Canonical s) : Rising s.strands := h.2.2.1
theorem Canonical.rcores {s : State} (h : Canonical s) : Rising s.cores := h.2.2.2.1
theorem Canonical.rharps {s : State} (h : Canonical s) : Rising s.harps := h.2.2.2.2.1
theorem Canonical.rlaunches {s : State} (h : Canonical s) : Rising s.launches := h.2.2.2.2.2.1
theorem Canonical.rvds {s : State} (h : Canonical s) : Rising s.vds := h.2.2.2.2.2.2.1
theorem Canonical.rparts {s : State} (h : Canonical s) : Rising s.parts := h.2.2.2.2.2.2.2.1
theorem Canonical.rkeys {s : State} (h : Canonical s) : Rising s.keys := h.2.2.2.2.2.2.2.2.1
theorem Canonical.rframes {s : State} (h : Canonical s) : Rising s.frames := h.2.2.2.2.2.2.2.2.2.1
theorem Canonical.rmig {s : State} (h : Canonical s) : Rising s.mig := h.2.2.2.2.2.2.2.2.2.2.1
theorem Canonical.rports {s : State} (h : Canonical s) : Rising s.ports := h.2.2.2.2.2.2.2.2.2.2.2.1
theorem Canonical.rdrays {s : State} (h : Canonical s) : Rising s.drays := h.2.2.2.2.2.2.2.2.2.2.2.2.1
theorem Canonical.rqps {s : State} (h : Canonical s) : Rising s.qps := h.2.2.2.2.2.2.2.2.2.2.2.2.2
theorem canonical_mk {cur last toIssue agenda inbox drifts linkOut coachIn timeOut linkIn backOut irqOut netOut hostOut picks freeCtr nextId strands cores harps spad mem accesses runs snaps launches saved hwSaved images vds parts keys lines blocks tree nodes ctrCache mc monHits monTags frames mig dirty ckpt packets ops paths rates ports drays qps pkg}
    : Canonical (State.mk cur last toIssue agenda inbox drifts linkOut coachIn timeOut linkIn backOut irqOut netOut hostOut picks freeCtr nextId strands cores harps spad mem accesses runs snaps launches saved hwSaved images vds parts keys lines blocks tree nodes ctrCache mc monHits monTags frames mig dirty ckpt packets ops paths rates ports drays qps pkg) = (Memory.wf mem = true ∧ Memory.wf spad = true ∧ Rising strands ∧ Rising cores ∧ Rising harps ∧ Rising launches ∧ Rising vds ∧ Rising parts ∧ Rising keys ∧ Rising frames ∧ Rising mig ∧ Rising ports ∧ Rising drays ∧ Rising qps) := rfl
theorem canon_same {cur last toIssue agenda inbox drifts linkOut coachIn timeOut linkIn backOut irqOut netOut hostOut picks freeCtr nextId strands cores harps spad mem accesses runs snaps launches saved hwSaved images vds parts keys lines blocks tree nodes ctrCache mc monHits monTags frames mig dirty ckpt packets ops paths rates ports drays qps pkg} {s : State} (hstrands : strands = s.strands) (hcores : cores = s.cores) (hharps : harps = s.harps) (hlaunches : launches = s.launches) (hvds : vds = s.vds) (hparts : parts = s.parts) (hkeys : keys = s.keys) (hframes : frames = s.frames) (hmig : mig = s.mig) (hports : ports = s.ports) (hdrays : drays = s.drays) (hqps : qps = s.qps) (hm : mem = s.mem) (hs : spad = s.spad) (h : Canonical s) :
    Canonical (State.mk cur last toIssue agenda inbox drifts linkOut coachIn timeOut linkIn backOut irqOut netOut hostOut picks freeCtr nextId strands cores harps spad mem accesses runs snaps launches saved hwSaved images vds parts keys lines blocks tree nodes ctrCache mc monHits monTags frames mig dirty ckpt packets ops paths rates ports drays qps pkg) := by
  subst hstrands hcores hharps hlaunches hvds hparts hkeys hframes hmig hports hdrays hqps hm hs; exact h
theorem canon_keep {cur last toIssue agenda inbox drifts linkOut coachIn timeOut linkIn backOut irqOut netOut hostOut picks freeCtr nextId strands cores harps spad mem accesses runs snaps launches saved hwSaved images vds parts keys lines blocks tree nodes ctrCache mc monHits monTags frames mig dirty ckpt packets ops paths rates ports drays qps pkg} {s : State} (hstrands : strands = s.strands) (hcores : cores = s.cores) (hharps : harps = s.harps) (hlaunches : launches = s.launches) (hvds : vds = s.vds) (hparts : parts = s.parts) (hkeys : keys = s.keys) (hframes : frames = s.frames) (hmig : mig = s.mig) (hports : ports = s.ports) (hdrays : drays = s.drays) (hqps : qps = s.qps) (hm : Memory.wf mem = true) (hs : Memory.wf spad = true) (h : Canonical s) :
    Canonical (State.mk cur last toIssue agenda inbox drifts linkOut coachIn timeOut linkIn backOut irqOut netOut hostOut picks freeCtr nextId strands cores harps spad mem accesses runs snaps launches saved hwSaved images vds parts keys lines blocks tree nodes ctrCache mc monHits monTags frames mig dirty ckpt packets ops paths rates ports drays qps pkg) := by
  subst hstrands hcores hharps hlaunches hvds hparts hkeys hframes hmig hports hdrays hqps; exact ⟨hm, hs, h.2.2⟩
theorem wf_tput {m : Sparse Byte} {k : Nat} {v : Byte} (h : Memory.wf m = true) : Memory.wf (tput memDefault k v m) = true := tput_wf _ _ _ _ h
theorem wf_tput0 {m : Sparse Byte} {k : Nat} {v : Byte} (h : Memory.wf m = true) : Memory.wf (tput 0 k v m) = true := tput_wf _ _ _ _ h
theorem wf_filter {m : Sparse Byte} {f : Nat × Byte → Bool} (h : Memory.wf m = true) : Memory.wf (m.filter f) = true := filter_wf _ _ _ h
theorem wf_writeBytes {m : Sparse Byte} {a : Nat} {bs : List Byte} (h : Memory.wf m = true) : Memory.wf (writeBytes m a bs) = true := writeBytes_wf _ _ _ h
theorem wf_spadPuts {m : Sparse Byte} {c a : Nat} {bs : List Byte} (h : Memory.wf m = true) : Memory.wf (spadPuts m c a bs) = true := spadPuts_wf _ _ _ _ h
theorem rising_tput {α : Type} [DecidableEq α] {d : α} {m : Sparse α} {k : Nat} {v : α} (h : Rising m) : Rising (tput d k v m) := tput_rising _ _ _ _ h
theorem rising_filter {α : Type} {m : Sparse α} {f : Nat × α → Bool} (h : Rising m) : Rising (m.filter f) := List.Pairwise.filter _ h
theorem rising_map {α : Type} {m : Sparse α} {f : Nat × α → Nat × α} (h : Rising m) (hf : ∀ e, (f e).1 = e.1) : Rising (m.map f) := by
  show (m.map f).Pairwise _
  rw [List.pairwise_map]
  exact h.imp fun {a b} hab => by rw [hf, hf]; exact hab
theorem rising_nil {α : Type} : Rising ([] : Sparse α) := List.Pairwise.nil
theorem wf_nil : Memory.wf [] = true := rfl
theorem optok_none : OptOk none := trivial
theorem optok_some {t} (h : Canonical t) : OptOk (some t) := h
theorem outok_next {t} (h : Canonical t) : OutOk (.next t) := h
theorem outok_fault {t} : OutOk (.fault t) := trivial
theorem outok_refused {t} : OutOk (.refused t) := trivial
theorem resok_ok {t} (h : Canonical t) : ResOk (.ok t) := h
theorem resok_held {t} (h : Canonical t) : ResOk (.held t) := h
theorem resok_trap {t} : ResOk (.trap t) := trivial
theorem resok_trapIn {t i} (h : Canonical t) : ResOk (.trapIn t i) := h
theorem optfst_none {β : Type} : OptFst (none : Option (State × β)) := trivial
theorem optfst_some {β : Type} {t : State × β} (h : Canonical t.1) : OptFst (some t) := h
theorem optsnd_none {β : Type} : OptSnd (none : Option (β × State)) := trivial
theorem optsnd_some {β : Type} {t : β × State} (h : Canonical t.2) : OptSnd (some t) := h
theorem excok_error {ε : Type} {e : ε} : ExcOk (.error e) := trivial
theorem excok_ok {ε : Type} {t} (h : Canonical t) : ExcOk (.ok t : Except ε State) := h
theorem excfst_error {ε β : Type} {e : ε} : ExcFst (.error e : Except ε (State × β)) := trivial
theorem excfst_ok {ε β : Type} {t : State × β} (h : Canonical t.1) : ExcFst (.ok t : Except ε (State × β)) := h
theorem optexcfst_none {ε β : Type} : OptExcFst (none : Option (Except ε (State × β))) := trivial
theorem optexcfst_some {ε β : Type} {t : Except ε (State × β)} (h : ExcFst t) : OptExcFst (some t) := h
theorem excboth_ok {t} (h : Canonical t) : ExcBoth (.ok t) := h
theorem excboth_error {t} (h : Canonical t) : ExcBoth (.error t) := h
theorem fetok_one {ε : Type} {t i} (h : Canonical t) : FetOk (.ok (.one t i) : Except (State × ε) Fetched) := h
theorem fetok_two {ε : Type} {t c a p q} (h : Canonical t) : FetOk (.ok (.two t c a p q) : Except (State × ε) Fetched) := h
theorem fetok_error {ε : Type} {t : State × ε} (h : Canonical t.1) : FetOk (.error t) := h
theorem resok_ok_inv {t} (h : ResOk (.ok t)) : Canonical t := h
theorem resok_held_inv {t} (h : ResOk (.held t)) : Canonical t := h
theorem resok_trapIn_inv {t i} (h : ResOk (.trapIn t i)) : Canonical t := h
theorem outok_inv {t} (h : OutOk (.next t)) : Canonical t := h
theorem foldl_fst {α β : Type} (f : State × α → β → State × α) (hf : ∀ r b, Canonical r.1 → Canonical (f r b).1) :
    (l : List β) → (r : State × α) → Canonical r.1 → Canonical (l.foldl f r).1
  | [], _, h => h
  | b :: l, r, h => foldl_fst f hf l _ (hf r b h)
theorem foldl_snd {α β : Type} (f : α × State → β → α × State) (hf : ∀ r b, Canonical r.2 → Canonical (f r b).2) :
    (l : List β) → (r : α × State) → Canonical r.2 → Canonical (l.foldl f r).2
  | [], _, h => h
  | b :: l, r, h => foldl_snd f hf l _ (hf r b h)
theorem foldl_opt {β : Type} (f : Option State → β → Option State) (hf : ∀ r b, OptOk r → OptOk (f r b)) :
    (l : List β) → (r : Option State) → OptOk r → OptOk (l.foldl f r)
  | [], _, h => h
  | b :: l, r, h => foldl_opt f hf l _ (hf r b h)
theorem foldl_wf {β : Type} (f : Sparse Byte → β → Sparse Byte) (hf : ∀ m b, Memory.wf m = true → Memory.wf (f m b) = true) :
    (l : List β) → (m : Sparse Byte) → Memory.wf m = true → Memory.wf (l.foldl f m) = true
  | [], _, h => h
  | b :: l, m, h => foldl_wf f hf l _ (hf m b h)
theorem map_opt {o : Option State} {k : State → State} (h : OptOk o) (hk : ∀ t, Canonical t → Canonical (k t)) : OptOk (o.map k) := by
  cases o with
  | none => trivial
  | some t => exact hk t h
theorem optok_inv {t : State} (h : OptOk (some t)) : Canonical t := h
theorem excok_inv {ε : Type} {t : State} (h : ExcOk (.ok t : Except ε State)) : Canonical t := h
theorem optfst_inv {β : Type} {t : State} {b : β} (h : OptFst (some (t, b))) : Canonical t := h
theorem fst_inv {β : Type} {t : State} {b : β} (h : Canonical (t, b).1) : Canonical t := h
theorem snd_inv {β : Type} {t : State} {b : β} (h : Canonical (b, t).2) : Canonical t := h
theorem excfst_inv {ε β : Type} {t : State} {b : β} (h : ExcFst (.ok (t, b) : Except ε (State × β))) : Canonical t := h
theorem cut {P Q : Prop} (h : P) (k : P → Q) : Q := k h
end Sys2Proof.Machine
end

