-- ==== Sys2Proof/Laws/CanonBase.lean ====
section
/-! SUPPORT. Memory, scratchpads and tables stay in their canonical form: the plain updates, the seal and the posting of work. -/
set_option linter.all false
namespace Sys2Proof.Machine

theorem State.setStrand_canon (s : State) (sid : Nat) (x : Strand) (hc : Canonical s) : Canonical ((State.setStrand s sid x)) := by
  unfold State.setStrand
  repeat' (first
    | with_reducible assumption
    | with_reducible apply Canonical.wmem
    | with_reducible apply Canonical.wspad
    | with_reducible apply rising_tput
    | with_reducible apply Canonical.rstrands
    | with_reducible apply Canonical.rcores
    | with_reducible apply Canonical.rharps
    | with_reducible apply Canonical.rlaunches
    | with_reducible apply Canonical.rvds
    | with_reducible apply Canonical.rparts
    | with_reducible apply Canonical.rkeys
    | with_reducible apply Canonical.rframes
    | with_reducible apply Canonical.rmig
    | with_reducible apply Canonical.rports
    | with_reducible apply Canonical.rdrays
    | with_reducible apply Canonical.rqps
    | (simp -zeta only [canonical_mk]; refine ⟨?_,?_,?_,?_,?_,?_,?_,?_,?_,?_,?_,?_,?_,?_⟩))

theorem State.modStrand_canon (s : State) (sid : Nat) (f : Strand → Strand) (hc : Canonical s) : Canonical ((State.modStrand s sid f)) := by
  unfold State.modStrand
  repeat' (first
    | with_reducible assumption
    | with_reducible apply State.setStrand_canon)

theorem State.setCore_canon (s : State) (c : Nat) (x : Core) (hc : Canonical s) : Canonical ((State.setCore s c x)) := by
  unfold State.setCore
  repeat' (first
    | with_reducible assumption
    | with_reducible apply Canonical.wmem
    | with_reducible apply Canonical.wspad
    | with_reducible apply rising_tput
    | with_reducible apply Canonical.rstrands
    | with_reducible apply Canonical.rcores
    | with_reducible apply Canonical.rharps
    | with_reducible apply Canonical.rlaunches
    | with_reducible apply Canonical.rvds
    | with_reducible apply Canonical.rparts
    | with_reducible apply Canonical.rkeys
    | with_reducible apply Canonical.rframes
    | with_reducible apply Canonical.rmig
    | with_reducible apply Canonical.rports
    | with_reducible apply Canonical.rdrays
    | with_reducible apply Canonical.rqps
    | (simp -zeta only [canonical_mk]; refine ⟨?_,?_,?_,?_,?_,?_,?_,?_,?_,?_,?_,?_,?_,?_⟩))

theorem State.modCore_canon (s : State) (c : Nat) (f : Core → Core) (hc : Canonical s) : Canonical ((State.modCore s c f)) := by
  unfold State.modCore
  repeat' (first
    | with_reducible assumption
    | with_reducible apply State.setCore_canon)

theorem State.setLaunch_canon (s : State) (l : Nat) (x : Launch) (hc : Canonical s) : Canonical ((State.setLaunch s l x)) := by
  unfold State.setLaunch
  repeat' (first
    | with_reducible assumption
    | with_reducible apply Canonical.wmem
    | with_reducible apply Canonical.wspad
    | with_reducible apply rising_tput
    | with_reducible apply Canonical.rstrands
    | with_reducible apply Canonical.rcores
    | with_reducible apply Canonical.rharps
    | with_reducible apply Canonical.rlaunches
    | with_reducible apply Canonical.rvds
    | with_reducible apply Canonical.rparts
    | with_reducible apply Canonical.rkeys
    | with_reducible apply Canonical.rframes
    | with_reducible apply Canonical.rmig
    | with_reducible apply Canonical.rports
    | with_reducible apply Canonical.rdrays
    | with_reducible apply Canonical.rqps
    | (simp -zeta only [canonical_mk]; refine ⟨?_,?_,?_,?_,?_,?_,?_,?_,?_,?_,?_,?_,?_,?_⟩))

theorem State.modLaunch_canon (s : State) (l : Nat) (f : Launch → Launch) (hc : Canonical s) : Canonical ((State.modLaunch s l f)) := by
  unfold State.modLaunch
  repeat' (first
    | with_reducible assumption
    | with_reducible apply State.setLaunch_canon)

theorem State.setVd_canon (s : State) (v : Nat) (x : Vd) (hc : Canonical s) : Canonical ((State.setVd s v x)) := by
  unfold State.setVd
  repeat' (first
    | with_reducible assumption
    | with_reducible apply Canonical.wmem
    | with_reducible apply Canonical.wspad
    | with_reducible apply rising_tput
    | with_reducible apply Canonical.rstrands
    | with_reducible apply Canonical.rcores
    | with_reducible apply Canonical.rharps
    | with_reducible apply Canonical.rlaunches
    | with_reducible apply Canonical.rvds
    | with_reducible apply Canonical.rparts
    | with_reducible apply Canonical.rkeys
    | with_reducible apply Canonical.rframes
    | with_reducible apply Canonical.rmig
    | with_reducible apply Canonical.rports
    | with_reducible apply Canonical.rdrays
    | with_reducible apply Canonical.rqps
    | (simp -zeta only [canonical_mk]; refine ⟨?_,?_,?_,?_,?_,?_,?_,?_,?_,?_,?_,?_,?_,?_⟩))

theorem State.modVd_canon (s : State) (v : Nat) (f : Vd → Vd) (hc : Canonical s) : Canonical ((State.modVd s v f)) := by
  unfold State.modVd
  repeat' (first
    | with_reducible assumption
    | with_reducible apply State.setVd_canon)

theorem State.setPart_canon (s : State) (p : Nat) (x : Partition) (hc : Canonical s) : Canonical ((State.setPart s p x)) := by
  unfold State.setPart
  repeat' (first
    | with_reducible assumption
    | with_reducible apply Canonical.wmem
    | with_reducible apply Canonical.wspad
    | with_reducible apply rising_tput
    | with_reducible apply Canonical.rstrands
    | with_reducible apply Canonical.rcores
    | with_reducible apply Canonical.rharps
    | with_reducible apply Canonical.rlaunches
    | with_reducible apply Canonical.rvds
    | with_reducible apply Canonical.rparts
    | with_reducible apply Canonical.rkeys
    | with_reducible apply Canonical.rframes
    | with_reducible apply Canonical.rmig
    | with_reducible apply Canonical.rports
    | with_reducible apply Canonical.rdrays
    | with_reducible apply Canonical.rqps
    | (simp -zeta only [canonical_mk]; refine ⟨?_,?_,?_,?_,?_,?_,?_,?_,?_,?_,?_,?_,?_,?_⟩))

theorem State.modPart_canon (s : State) (p : Nat) (f : Partition → Partition) (hc : Canonical s) : Canonical ((State.modPart s p f)) := by
  unfold State.modPart
  repeat' (first
    | with_reducible assumption
    | with_reducible apply State.setPart_canon)

theorem State.setHarp_canon (s : State) (c : Nat) (x : Harp) (hc : Canonical s) : Canonical ((State.setHarp s c x)) := by
  unfold State.setHarp
  repeat' (first
    | with_reducible assumption
    | with_reducible apply Canonical.wmem
    | with_reducible apply Canonical.wspad
    | with_reducible apply rising_tput
    | with_reducible apply Canonical.rstrands
    | with_reducible apply Canonical.rcores
    | with_reducible apply Canonical.rharps
    | with_reducible apply Canonical.rlaunches
    | with_reducible apply Canonical.rvds
    | with_reducible apply Canonical.rparts
    | with_reducible apply Canonical.rkeys
    | with_reducible apply Canonical.rframes
    | with_reducible apply Canonical.rmig
    | with_reducible apply Canonical.rports
    | with_reducible apply Canonical.rdrays
    | with_reducible apply Canonical.rqps
    | (simp -zeta only [canonical_mk]; refine ⟨?_,?_,?_,?_,?_,?_,?_,?_,?_,?_,?_,?_,?_,?_⟩))

theorem State.modHarp_canon (s : State) (c : Nat) (f : Harp → Harp) (hc : Canonical s) : Canonical ((State.modHarp s c f)) := by
  unfold State.modHarp
  repeat' (first
    | with_reducible assumption
    | with_reducible apply State.setHarp_canon)

theorem State.setKey_canon (s : State) (k : Nat) (x : KeySlot) (hc : Canonical s) : Canonical ((State.setKey s k x)) := by
  unfold State.setKey
  repeat' (first
    | with_reducible assumption
    | with_reducible apply Canonical.wmem
    | with_reducible apply Canonical.wspad
    | with_reducible apply rising_tput
    | with_reducible apply Canonical.rstrands
    | with_reducible apply Canonical.rcores
    | with_reducible apply Canonical.rharps
    | with_reducible apply Canonical.rlaunches
    | with_reducible apply Canonical.rvds
    | with_reducible apply Canonical.rparts
    | with_reducible apply Canonical.rkeys
    | with_reducible apply Canonical.rframes
    | with_reducible apply Canonical.rmig
    | with_reducible apply Canonical.rports
    | with_reducible apply Canonical.rdrays
    | with_reducible apply Canonical.rqps
    | (simp -zeta only [canonical_mk]; refine ⟨?_,?_,?_,?_,?_,?_,?_,?_,?_,?_,?_,?_,?_,?_⟩))

theorem State.setFrame_canon (s : State) (f : Nat) (x : Frame) (hc : Canonical s) : Canonical ((State.setFrame s f x)) := by
  unfold State.setFrame
  repeat' (first
    | with_reducible assumption
    | with_reducible apply Canonical.wmem
    | with_reducible apply Canonical.wspad
    | with_reducible apply rising_tput
    | with_reducible apply Canonical.rstrands
    | with_reducible apply Canonical.rcores
    | with_reducible apply Canonical.rharps
    | with_reducible apply Canonical.rlaunches
    | with_reducible apply Canonical.rvds
    | with_reducible apply Canonical.rparts
    | with_reducible apply Canonical.rkeys
    | with_reducible apply Canonical.rframes
    | with_reducible apply Canonical.rmig
    | with_reducible apply Canonical.rports
    | with_reducible apply Canonical.rdrays
    | with_reducible apply Canonical.rqps
    | (simp -zeta only [canonical_mk]; refine ⟨?_,?_,?_,?_,?_,?_,?_,?_,?_,?_,?_,?_,?_,?_⟩))

theorem State.setDray_canon (s : State) (d : Nat) (x : Dray) (hc : Canonical s) : Canonical ((State.setDray s d x)) := by
  unfold State.setDray
  repeat' (first
    | with_reducible assumption
    | with_reducible apply Canonical.wmem
    | with_reducible apply Canonical.wspad
    | with_reducible apply rising_tput
    | with_reducible apply Canonical.rstrands
    | with_reducible apply Canonical.rcores
    | with_reducible apply Canonical.rharps
    | with_reducible apply Canonical.rlaunches
    | with_reducible apply Canonical.rvds
    | with_reducible apply Canonical.rparts
    | with_reducible apply Canonical.rkeys
    | with_reducible apply Canonical.rframes
    | with_reducible apply Canonical.rmig
    | with_reducible apply Canonical.rports
    | with_reducible apply Canonical.rdrays
    | with_reducible apply Canonical.rqps
    | (simp -zeta only [canonical_mk]; refine ⟨?_,?_,?_,?_,?_,?_,?_,?_,?_,?_,?_,?_,?_,?_⟩))

theorem State.setQp_canon (s : State) (q : Nat) (x : Qp) (hc : Canonical s) : Canonical ((State.setQp s q x)) := by
  unfold State.setQp
  repeat' (first
    | with_reducible assumption
    | with_reducible apply Canonical.wmem
    | with_reducible apply Canonical.wspad
    | with_reducible apply rising_tput
    | with_reducible apply Canonical.rstrands
    | with_reducible apply Canonical.rcores
    | with_reducible apply Canonical.rharps
    | with_reducible apply Canonical.rlaunches
    | with_reducible apply Canonical.rvds
    | with_reducible apply Canonical.rparts
    | with_reducible apply Canonical.rkeys
    | with_reducible apply Canonical.rframes
    | with_reducible apply Canonical.rmig
    | with_reducible apply Canonical.rports
    | with_reducible apply Canonical.rdrays
    | with_reducible apply Canonical.rqps
    | (simp -zeta only [canonical_mk]; refine ⟨?_,?_,?_,?_,?_,?_,?_,?_,?_,?_,?_,?_,?_,?_⟩))

theorem State.setPort_canon (s : State) (p : Nat) (x : PortEntry) (hc : Canonical s) : Canonical ((State.setPort s p x)) := by
  unfold State.setPort
  repeat' (first
    | with_reducible assumption
    | with_reducible apply Canonical.wmem
    | with_reducible apply Canonical.wspad
    | with_reducible apply rising_tput
    | with_reducible apply Canonical.rstrands
    | with_reducible apply Canonical.rcores
    | with_reducible apply Canonical.rharps
    | with_reducible apply Canonical.rlaunches
    | with_reducible apply Canonical.rvds
    | with_reducible apply Canonical.rparts
    | with_reducible apply Canonical.rkeys
    | with_reducible apply Canonical.rframes
    | with_reducible apply Canonical.rmig
    | with_reducible apply Canonical.rports
    | with_reducible apply Canonical.rdrays
    | with_reducible apply Canonical.rqps
    | (simp -zeta only [canonical_mk]; refine ⟨?_,?_,?_,?_,?_,?_,?_,?_,?_,?_,?_,?_,?_,?_⟩))

theorem State.setMig_canon (s : State) (i : Nat) (x : MigSlot) (hc : Canonical s) : Canonical ((State.setMig s i x)) := by
  unfold State.setMig
  repeat' (first
    | with_reducible assumption
    | with_reducible apply Canonical.wmem
    | with_reducible apply Canonical.wspad
    | with_reducible apply rising_tput
    | with_reducible apply Canonical.rstrands
    | with_reducible apply Canonical.rcores
    | with_reducible apply Canonical.rharps
    | with_reducible apply Canonical.rlaunches
    | with_reducible apply Canonical.rvds
    | with_reducible apply Canonical.rparts
    | with_reducible apply Canonical.rkeys
    | with_reducible apply Canonical.rframes
    | with_reducible apply Canonical.rmig
    | with_reducible apply Canonical.rports
    | with_reducible apply Canonical.rdrays
    | with_reducible apply Canonical.rqps
    | (simp -zeta only [canonical_mk]; refine ⟨?_,?_,?_,?_,?_,?_,?_,?_,?_,?_,?_,?_,?_,?_⟩))

theorem State.modPkg_canon (s : State) (f : Pkg → Pkg) (hc : Canonical s) : Canonical ((State.modPkg s f)) := by
  unfold State.modPkg
  repeat' (first
    | with_reducible assumption
    | with_reducible apply Canonical.wmem
    | with_reducible apply Canonical.wspad
    | ((fail_if_success (fail_if_success (simp -zeta only [canonical_mk]))); with_reducible refine canon_keep rfl rfl rfl rfl rfl rfl rfl rfl rfl rfl rfl rfl ?_ ?_ ?_))

theorem State.fresh_canon (s : State) (hc : Canonical s) : Canonical ((State.fresh s)).2 := by
  unfold State.fresh
  repeat' (first
    | with_reducible assumption
    | with_reducible apply Canonical.wmem
    | with_reducible apply Canonical.wspad
    | ((fail_if_success (fail_if_success (simp -zeta only [canonical_mk]))); with_reducible refine canon_keep rfl rfl rfl rfl rfl rfl rfl rfl rfl rfl rfl rfl ?_ ?_ ?_))

theorem State.fresh_canon_fwd2 {s : State} {w_ : State} {z_ : _} (eq_ : (State.fresh s) = (z_, w_)) (hc : Canonical s) : Canonical w_ := by
  have := State.fresh_canon s hc; rw [eq_] at this; exact this

theorem State.freeWord_canon (s : State) (hc : Canonical s) : Canonical ((State.freeWord s)).2 := by
  unfold State.freeWord
  repeat' (first
    | with_reducible assumption
    | with_reducible apply Canonical.wmem
    | with_reducible apply Canonical.wspad
    | ((fail_if_success (fail_if_success (simp -zeta only [canonical_mk]))); with_reducible refine canon_keep rfl rfl rfl rfl rfl rfl rfl rfl rfl rfl rfl rfl ?_ ?_ ?_))

theorem State.freeWord_canon_fwd2 {s : State} {w_ : State} {z_ : _} (eq_ : (State.freeWord s) = (z_, w_)) (hc : Canonical s) : Canonical w_ := by
  have := State.freeWord_canon s hc; rw [eq_] at this; exact this

theorem State.owe_canon (s : State) (clock : Option Nat) (time : Nat) (prio : Nat) (i : Event) (hc : Canonical s) : Canonical ((State.owe s clock time prio i)) := by
  unfold State.owe
  repeat' (first
    | with_reducible assumption
    | with_reducible apply Canonical.wmem
    | with_reducible apply Canonical.wspad
    | ((fail_if_success (fail_if_success (simp -zeta only [canonical_mk]))); with_reducible refine canon_keep rfl rfl rfl rfl rfl rfl rfl rfl rfl rfl rfl rfl ?_ ?_ ?_))

theorem State.after_canon (s : State) (n : Nat) (prio : Nat) (i : Event) (hc : Canonical s) : Canonical ((State.after s n prio i)) := by
  unfold State.after
  repeat' (first
    | with_reducible assumption
    | with_reducible apply State.owe_canon)

theorem State.now_canon (s : State) (prio : Nat) (i : Event) (hc : Canonical s) : Canonical ((State.now s prio i)) := by
  unfold State.now
  repeat' (first
    | with_reducible assumption
    | with_reducible apply State.after_canon)

theorem State.duration_canon (s : State) (lo : Nat) (hi : Nat) (hc : Canonical s) : Canonical ((State.duration s lo hi)).2 := by
  unfold State.duration
  repeat' (first
    | with_reducible assumption
    | with_reducible apply Canonical.wmem
    | with_reducible apply Canonical.wspad
    | split
    | ((fail_if_success (fail_if_success (simp -zeta only [canonical_mk]))); with_reducible refine canon_keep rfl rfl rfl rfl rfl rfl rfl rfl rfl rfl rfl rfl ?_ ?_ ?_))

theorem State.outcome_canon (s : State) (lo : Nat) (hi : Nat) (hc : Canonical s) : Canonical ((State.outcome s lo hi)).2 := by
  unfold State.outcome
  repeat' (first
    | with_reducible assumption
    | with_reducible apply Canonical.wmem
    | with_reducible apply Canonical.wspad
    | split
    | ((fail_if_success (fail_if_success (simp -zeta only [canonical_mk]))); with_reducible refine canon_keep rfl rfl rfl rfl rfl rfl rfl rfl rfl rfl rfl rfl ?_ ?_ ?_))

theorem State.outcome_canon_fwd2 {s : State} {lo : Nat} {hi : Nat} {w_ : State} {z_ : _} (eq_ : (State.outcome s lo hi) = (z_, w_)) (hc : Canonical s) : Canonical w_ := by
  have := State.outcome_canon s lo hi hc; rw [eq_] at this; exact this

theorem State.divert_canon (s : State) (a : Nat) (hc : Canonical s) : Canonical ((State.divert s a)) := by
  unfold State.divert
  repeat' (first
    | with_reducible assumption
    | with_reducible apply wf_writeBytes
    | with_reducible apply Canonical.wmem
    | with_reducible apply Canonical.wspad
    | (extract_lets +onlyGivenNames x; refine cut (P := Canonical x) ?_ (fun _ => ?_); unfold x; try clear x; rotate_left; clear_value x; rotate_right)
    | (extract_lets +onlyGivenNames x; clear_value x)
    | split
    | ((fail_if_success (fail_if_success (simp -zeta only [canonical_mk]))); with_reducible refine canon_keep rfl rfl rfl rfl rfl rfl rfl rfl rfl rfl rfl rfl ?_ ?_ ?_))

theorem State.memPut_canon (s : State) (a : Nat) (b : Byte) (hc : Canonical s) : Canonical ((State.memPut s a b)) := by
  unfold State.memPut
  repeat' (first
    | with_reducible assumption
    | with_reducible apply State.divert_canon
    | with_reducible apply wf_tput
    | with_reducible apply Canonical.wmem
    | with_reducible apply Canonical.wspad
    | (extract_lets +onlyGivenNames x; refine cut (P := Canonical x) ?_ (fun _ => ?_); unfold x; try clear x; rotate_left; clear_value x; rotate_right)
    | split
    | ((fail_if_success (fail_if_success (simp -zeta only [canonical_mk]))); with_reducible refine canon_keep rfl rfl rfl rfl rfl rfl rfl rfl rfl rfl rfl rfl ?_ ?_ ?_))

theorem State.memPuts_canon (s : State) (a : Nat) (z2 : List Byte) (hc : Canonical s) : Canonical ((State.memPuts s a z2)) := by
  induction z2 generalizing s a
  all_goals
    unfold State.memPuts
    repeat' (first
    | with_reducible assumption
    | with_reducible apply State.memPut_canon
    | with_reducible apply_assumption -exfalso -symm)

theorem State.wakePart_canon (s : State) (p : Nat) (hc : Canonical s) : Canonical ((State.wakePart s p)) := by
  unfold State.wakePart
  repeat' (first
    | with_reducible assumption
    | with_reducible apply State.duration_canon
    | with_reducible apply State.after_canon
    | (extract_lets +onlyGivenNames x; clear_value x)
    | split)

theorem State.vdschedHook_canon (s : State) (p : Nat) (hc : Canonical s) : Canonical ((State.vdschedHook s p)) := by
  unfold State.vdschedHook
  repeat' (first
    | with_reducible assumption
    | with_reducible apply State.now_canon
    | with_reducible apply foldl_canonical
    | intro _
    | split)

theorem State.ctlHook_canon (s : State) (a : Nat) (n : Nat) (hc : Canonical s) : Canonical ((State.ctlHook s a n)) := by
  unfold State.ctlHook
  repeat' (first
    | with_reducible assumption
    | with_reducible apply State.now_canon
    | with_reducible apply State.vdschedHook_canon
    | (extract_lets +onlyGivenNames x; refine cut (P := Canonical x) ?_ (fun _ => ?_); unfold x; try clear x; rotate_left; clear_value x; rotate_right)
    | (extract_lets +onlyGivenNames x; clear_value x)
    | split)

theorem State.vdctlHook_canon (s : State) (a : Nat) (n : Nat) (hc : Canonical s) : Canonical ((State.vdctlHook s a n)) := by
  unfold State.vdctlHook
  repeat' (first
    | with_reducible assumption
    | with_reducible apply State.setVd_canon
    | with_reducible apply State.now_canon
    | (extract_lets +onlyGivenNames x; refine cut (P := Canonical x) ?_ (fun _ => ?_); unfold x; try clear x; rotate_left; clear_value x; rotate_right)
    | (extract_lets +onlyGivenNames x; clear_value x)
    | split)

theorem State.memWrite_canon (s : State) (a : Nat) (bs : List Byte) (hc : Canonical s) : Canonical ((State.memWrite s a bs)) := by
  unfold State.memWrite
  repeat' (first
    | with_reducible assumption
    | with_reducible apply State.vdctlHook_canon
    | with_reducible apply State.ctlHook_canon
    | with_reducible apply State.memPuts_canon)

theorem State.watchGo_canon (s : State) (c : Nat) (off : Nat) (n : Nat) (hc : Canonical s) : Canonical ((State.watchGo s c off n)) := by
  unfold State.watchGo
  repeat' (first
    | with_reducible assumption
    | with_reducible apply State.after_canon
    | split)

theorem State.spadWrite_canon (s : State) (c : Nat) (off : Nat) (bs : List Byte) (hc : Canonical s) : Canonical ((State.spadWrite s c off bs)) := by
  unfold State.spadWrite
  repeat' (first
    | with_reducible assumption
    | with_reducible apply State.watchGo_canon
    | with_reducible apply wf_spadPuts
    | with_reducible apply Canonical.wmem
    | with_reducible apply Canonical.wspad
    | ((fail_if_success (fail_if_success (simp -zeta only [canonical_mk]))); with_reducible refine canon_keep rfl rfl rfl rfl rfl rfl rfl rfl rfl rfl rfl rfl ?_ ?_ ?_))

theorem State.spadClear_canon (s : State) (c : Nat) (hc : Canonical s) : Canonical ((State.spadClear s c)) := by
  unfold State.spadClear
  repeat' (first
    | with_reducible assumption
    | with_reducible apply wf_filter
    | with_reducible apply Canonical.wmem
    | with_reducible apply Canonical.wspad
    | ((fail_if_success (fail_if_success (simp -zeta only [canonical_mk]))); with_reducible refine canon_keep rfl rfl rfl rfl rfl rfl rfl rfl rfl rfl rfl rfl ?_ ?_ ?_))

theorem State.startClear_canon (s : State) (c : Nat) (hc : Canonical s) : Canonical ((State.startClear s c)) := by
  unfold State.startClear
  repeat' (first
    | with_reducible assumption
    | with_reducible apply State.modCore_canon
    | with_reducible apply State.now_canon
    | (extract_lets +onlyGivenNames x; refine cut (P := Canonical x) ?_ (fun _ => ?_); unfold x; try clear x; rotate_left; clear_value x; rotate_right)
    | split)

theorem execScratchClear_canon (c : Nat) (s : State) (hc : Canonical s) : OutOk ((execScratchClear c s)) := by
  unfold execScratchClear
  repeat' (first
    | with_reducible assumption
    | with_reducible apply State.after_canon
    | with_reducible apply State.modCore_canon
    | with_reducible apply outok_next
    | with_reducible apply wf_filter
    | with_reducible apply Canonical.wmem
    | with_reducible apply Canonical.wspad
    | (extract_lets +onlyGivenNames x; refine cut (P := Canonical x) ?_ (fun _ => ?_); unfold x; try clear x; rotate_left; clear_value x; rotate_right)
    | split
    | ((fail_if_success (fail_if_success (simp -zeta only [canonical_mk]))); with_reducible refine canon_keep rfl rfl rfl rfl rfl rfl rfl rfl rfl rfl rfl rfl ?_ ?_ ?_))

theorem State.placeVd_canon (s : State) (c : Nat) (v : Nat) (hc : Canonical s) : Canonical ((State.placeVd s c v)) := by
  unfold State.placeVd
  repeat' (first
    | with_reducible assumption
    | with_reducible apply State.modCore_canon
    | with_reducible apply State.startClear_canon
    | split)

theorem State.countErr_canon (s : State) (p : Option Nat) (f : ErrCounters → ErrCounters) (hc : Canonical s) : Canonical ((State.countErr s p f)) := by
  unfold State.countErr
  repeat' (first
    | with_reducible assumption
    | with_reducible apply State.modPkg_canon
    | with_reducible apply State.modPart_canon
    | (extract_lets +onlyGivenNames x; refine cut (P := Canonical x) ?_ (fun _ => ?_); unfold x; try clear x; rotate_left; clear_value x; rotate_right)
    | split)

theorem State.countDiscard_canon (s : State) (p : Option Nat) (hc : Canonical s) : Canonical ((State.countDiscard s p)) := by
  unfold State.countDiscard
  repeat' (first
    | with_reducible assumption
    | with_reducible apply State.countErr_canon)

theorem State.countIntegrity_canon (s : State) (p : Option Nat) (hc : Canonical s) : Canonical ((State.countIntegrity s p)) := by
  unfold State.countIntegrity
  repeat' (first
    | with_reducible assumption
    | with_reducible apply State.countErr_canon)

theorem State.perf_canon (s : State) (sid : Nat) (code : Nat) (n : Nat) (hc : Canonical s) : Canonical ((State.perf s sid code n)) := by
  unfold State.perf
  repeat' (first
    | with_reducible assumption
    | with_reducible apply State.modCore_canon)

theorem State.countRf_canon (s : State) (core : Nat) (fatal : Bool) (n : Nat) (hc : Canonical s) : Canonical ((State.countRf s core fatal n)) := by
  unfold State.countRf
  repeat' (first
    | with_reducible assumption
    | with_reducible apply State.modCore_canon)

theorem State.setBlock_canon (s : State) (blk : Nat) (b : CtrBlock) (hc : Canonical s) : Canonical ((State.setBlock s blk b)) := by
  unfold State.setBlock
  repeat' (first
    | with_reducible assumption
    | with_reducible apply Canonical.wmem
    | with_reducible apply Canonical.wspad
    | ((fail_if_success (fail_if_success (simp -zeta only [canonical_mk]))); with_reducible refine canon_keep rfl rfl rfl rfl rfl rfl rfl rfl rfl rfl rfl rfl ?_ ?_ ?_))

theorem State.setLine_canon (s : State) (la : Nat) (l : Line) (hc : Canonical s) : Canonical ((State.setLine s la l)) := by
  unfold State.setLine
  repeat' (first
    | with_reducible assumption
    | with_reducible apply Canonical.wmem
    | with_reducible apply Canonical.wspad
    | ((fail_if_success (fail_if_success (simp -zeta only [canonical_mk]))); with_reducible refine canon_keep rfl rfl rfl rfl rfl rfl rfl rfl rfl rfl rfl rfl ?_ ?_ ?_))

theorem State.writeNode_canon (s : State) (level : Nat) (n : Nat) (hc : Canonical s) : Canonical ((State.writeNode s level n)) := by
  unfold State.writeNode
  repeat' (first
    | with_reducible assumption
    | with_reducible apply Canonical.wmem
    | with_reducible apply Canonical.wspad
    | ((fail_if_success (fail_if_success (simp -zeta only [canonical_mk]))); with_reducible refine canon_keep rfl rfl rfl rfl rfl rfl rfl rfl rfl rfl rfl rfl ?_ ?_ ?_))

theorem State.treeBump_canon (s : State) (level : Nat) (child : Nat) (hc : Canonical s) : Canonical ((State.treeBump s level child)) := by
  unfold State.treeBump
  repeat' (first
    | with_reducible assumption
    | with_reducible apply State.writeNode_canon
    | with_reducible apply foldl_canonical
    | with_reducible apply Canonical.wmem
    | with_reducible apply Canonical.wspad
    | intro _
    | (extract_lets +onlyGivenNames x; refine cut (P := Canonical x) ?_ (fun _ => ?_); unfold x; try clear x; rotate_left; clear_value x; rotate_right)
    | (extract_lets +onlyGivenNames x; clear_value x)
    | split
    | ((fail_if_success (fail_if_success (simp -zeta only [canonical_mk]))); with_reducible refine canon_keep rfl rfl rfl rfl rfl rfl rfl rfl rfl rfl rfl rfl ?_ ?_ ?_))

theorem State.cachePath_canon (s : State) (blk : Nat) (hc : Canonical s) : Canonical ((State.cachePath s blk)) := by
  unfold State.cachePath
  repeat' (first
    | with_reducible assumption
    | with_reducible apply Canonical.wmem
    | with_reducible apply Canonical.wspad
    | (extract_lets +onlyGivenNames x; clear_value x)
    | ((fail_if_success (fail_if_success (simp -zeta only [canonical_mk]))); with_reducible refine canon_keep rfl rfl rfl rfl rfl rfl rfl rfl rfl rfl rfl rfl ?_ ?_ ?_))

theorem State.treeWrite_canon (s : State) (blk : Nat) (hc : Canonical s) : Canonical ((State.treeWrite s blk)) := by
  unfold State.treeWrite
  repeat' (first
    | with_reducible assumption
    | with_reducible apply State.treeBump_canon
    | with_reducible apply State.cachePath_canon
    | with_reducible apply State.writeNode_canon
    | with_reducible apply foldl_canonical
    | intro _)

theorem State.makeFresh_canon (s : State) (f : Nat) (hc : Canonical s) : Canonical ((State.makeFresh s f)) := by
  unfold State.makeFresh
  repeat' (first
    | with_reducible assumption
    | with_reducible apply State.setFrame_canon
    | with_reducible apply wf_filter
    | with_reducible apply Canonical.wmem
    | with_reducible apply Canonical.wspad
    | ((fail_if_success (fail_if_success (simp -zeta only [canonical_mk]))); with_reducible refine canon_keep rfl rfl rfl rfl rfl rfl rfl rfl rfl rfl rfl rfl ?_ ?_ ?_))

theorem State.initFrame_canon (s : State) (f : Nat) (write : State → State) (hc : Canonical s) (hwrite_ : ∀ (x0_ : State), Canonical x0_ → Canonical (write x0_)) : Canonical ((State.initFrame s f write)) := by
  unfold State.initFrame
  repeat' (first
    | with_reducible assumption
    | with_reducible apply hwrite_
    | with_reducible apply State.setFrame_canon
    | with_reducible apply State.setBlock_canon
    | with_reducible apply State.treeWrite_canon
    | with_reducible apply State.setLine_canon
    | with_reducible apply foldl_canonical
    | intro _)

theorem State.freshen_canon (s : State) (f : Nat) (hc : Canonical s) : Canonical ((State.freshen s f)) := by
  unfold State.freshen
  repeat' (first
    | with_reducible assumption
    | with_reducible apply State.initFrame_canon
    | with_reducible apply_assumption -exfalso -symm
    | intro _
    | split)

theorem State.engineWrite_canon (s : State) (a : Nat) (bs : List Byte) (hc : Canonical s) : Canonical ((State.engineWrite s a bs)) := by
  unfold State.engineWrite
  repeat' (first
    | with_reducible assumption
    | with_reducible apply State.initFrame_canon
    | with_reducible apply State.memWrite_canon
    | with_reducible apply State.now_canon
    | with_reducible apply foldl_canonical
    | intro _
    | (extract_lets +onlyGivenNames x; refine cut (P := Canonical x) ?_ (fun _ => ?_); unfold x; try clear x; rotate_left; clear_value x; rotate_right)
    | split)

theorem State.idle_canon (s : State) (sid : Nat) (hc : Canonical s) : Canonical ((State.idle s sid)) := by
  unfold State.idle
  repeat' (first
    | with_reducible assumption
    | with_reducible apply State.setStrand_canon
    | with_reducible apply Canonical.wmem
    | with_reducible apply Canonical.wspad
    | (extract_lets +onlyGivenNames x; refine cut (P := Canonical x) ?_ (fun _ => ?_); unfold x; try clear x; rotate_left; clear_value x; rotate_right)
    | ((fail_if_success (fail_if_success (simp -zeta only [canonical_mk]))); with_reducible refine canon_keep rfl rfl rfl rfl rfl rfl rfl rfl rfl rfl rfl rfl ?_ ?_ ?_))

theorem State.postIrq_canon (s : State) (v : Nat) (source : Nat) (hc : Canonical s) : Canonical ((State.postIrq s v source)) := by
  unfold State.postIrq
  repeat' (first
    | with_reducible assumption
    | with_reducible apply State.wakePart_canon
    | with_reducible apply State.countDiscard_canon
    | with_reducible apply State.setVd_canon
    | with_reducible apply State.now_canon
    | (extract_lets +onlyGivenNames x; refine cut (P := Canonical x) ?_ (fun _ => ?_); unfold x; try clear x; rotate_left; clear_value x; rotate_right)
    | (extract_lets +onlyGivenNames x; clear_value x)
    | split)

theorem State.setCounter_canon (s : State) (v : Nat) (n : Nat) (c : Counter) (hc : Canonical s) : Canonical ((State.setCounter s v n c)) := by
  unfold State.setCounter
  repeat' (first
    | with_reducible assumption
    | with_reducible apply State.modVd_canon
    | split)

theorem State.wakeCounter_canon (s : State) (v : Nat) (n : Nat) (hc : Canonical s) : Canonical ((State.wakeCounter s v n)) := by
  unfold State.wakeCounter
  repeat' (first
    | with_reducible assumption
    | with_reducible apply State.now_canon
    | with_reducible apply foldl_canonical
    | intro _
    | split)

theorem State.countDone_canon (s : State) (v : Nat) (n : Nat) (level : Nat) (k : Nat) (hc : Canonical s) : Canonical ((State.countDone s v n level k)) := by
  unfold State.countDone
  repeat' (first
    | with_reducible assumption
    | with_reducible apply State.wakeCounter_canon
    | with_reducible apply State.setCounter_canon
    | (extract_lets +onlyGivenNames x; clear_value x)
    | split)

theorem State.countCanc_canon (s : State) (v : Nat) (n : Nat) (level : Nat) (k : Nat) (hc : Canonical s) : Canonical ((State.countCanc s v n level k)) := by
  unfold State.countCanc
  repeat' (first
    | with_reducible assumption
    | with_reducible apply State.wakeCounter_canon
    | with_reducible apply State.setCounter_canon
    | (extract_lets +onlyGivenNames x; clear_value x)
    | split)

theorem State.setGraph_canon (s : State) (v : Nat) (g : Graph) (hc : Canonical s) : Canonical ((State.setGraph s v g)) := by
  unfold State.setGraph
  repeat' (first
    | with_reducible assumption
    | with_reducible apply State.modVd_canon)

theorem State.settleGraphs_canon (s : State) (v : Nat) (hc : Canonical s) : Canonical ((State.settleGraphs s v)) := by
  unfold State.settleGraphs
  repeat' (first
    | with_reducible assumption
    | with_reducible apply State.setGraph_canon
    | with_reducible apply State.countDone_canon
    | with_reducible apply State.countCanc_canon
    | with_reducible apply State.modVd_canon
    | with_reducible apply foldl_canonical
    | intro _
    | (extract_lets +onlyGivenNames x; refine cut (P := Canonical x) ?_ (fun _ => ?_); unfold x; try clear x; rotate_left; clear_value x; rotate_right)
    | (extract_lets +onlyGivenNames x; clear_value x)
    | split)

theorem State.kickEngine_canon (s : State) (p : Nat) (hc : Canonical s) : Canonical ((State.kickEngine s p)) := by
  unfold State.kickEngine
  repeat' (first
    | with_reducible assumption
    | with_reducible apply State.now_canon
    | split)

theorem State.recordLaunch_canon (s : State) (v : Nat) (gid : Nat) (lid : Nat) (cn : Nat) (flags : Nat) (done : Bool) (hc : Canonical s) : Canonical ((State.recordLaunch s v gid lid cn flags done)) := by
  unfold State.recordLaunch
  repeat' (first
    | with_reducible assumption
    | with_reducible apply State.setGraph_canon
    | with_reducible apply State.modVd_canon
    | with_reducible apply State.settleGraphs_canon
    | split)

theorem State.countLaunch_canon (s : State) (l : Nat) (hc : Canonical s) : Canonical ((State.countLaunch s l)) := by
  unfold State.countLaunch
  repeat' (first
    | with_reducible assumption
    | with_reducible apply State.countDone_canon
    | with_reducible apply State.settleGraphs_canon
    | with_reducible apply State.recordLaunch_canon
    | (extract_lets +onlyGivenNames x; refine cut (P := Canonical x) ?_ (fun _ => ?_); unfold x; try clear x; rotate_left; clear_value x; rotate_right)
    | (extract_lets +onlyGivenNames x; clear_value x)
    | split)

theorem State.retire_canon (s : State) (l : Nat) (hc : Canonical s) : Canonical ((State.retire s l)) := by
  unfold State.retire
  repeat' (first
    | with_reducible assumption
    | with_reducible apply State.idle_canon
    | with_reducible apply State.now_canon
    | with_reducible apply foldl_canonical
    | with_reducible apply Canonical.wmem
    | with_reducible apply Canonical.wspad
    | with_reducible apply rising_tput
    | with_reducible apply Canonical.rstrands
    | with_reducible apply Canonical.rcores
    | with_reducible apply Canonical.rharps
    | with_reducible apply Canonical.rlaunches
    | with_reducible apply Canonical.rvds
    | with_reducible apply Canonical.rparts
    | with_reducible apply Canonical.rkeys
    | with_reducible apply Canonical.rframes
    | with_reducible apply Canonical.rmig
    | with_reducible apply Canonical.rports
    | with_reducible apply Canonical.rdrays
    | with_reducible apply Canonical.rqps
    | intro _
    | (simp -zeta only [canonical_mk]; refine ⟨?_,?_,?_,?_,?_,?_,?_,?_,?_,?_,?_,?_,?_,?_⟩))

theorem State.tellTime_canon (s : State) (l : Nat) (m : TimeNote) (hc : Canonical s) : Canonical ((State.tellTime s l m)) := by
  unfold State.tellTime
  repeat' (first
    | with_reducible assumption
    | with_reducible apply Canonical.wmem
    | with_reducible apply Canonical.wspad
    | (extract_lets +onlyGivenNames x; clear_value x)
    | split
    | ((fail_if_success (fail_if_success (simp -zeta only [canonical_mk]))); with_reducible refine canon_keep rfl rfl rfl rfl rfl rfl rfl rfl rfl rfl rfl rfl ?_ ?_ ?_))

theorem State.zeroSlots_canon (s : State) (l : Nat) (hc : Canonical s) : Canonical ((State.zeroSlots s l)) := by
  unfold State.zeroSlots
  repeat' (first
    | with_reducible assumption
    | with_reducible apply State.modCore_canon
    | with_reducible apply foldl_canonical
    | intro _)

theorem State.launchComplete_canon (s : State) (l : Nat) (hc : Canonical s) : Canonical ((State.launchComplete s l)) := by
  unfold State.launchComplete
  repeat' (first
    | with_reducible assumption
    | with_reducible apply State.duration_canon
    | with_reducible apply State.after_canon
    | with_reducible apply State.tellTime_canon
    | with_reducible apply State.countLaunch_canon
    | with_reducible apply State.setLaunch_canon
    | with_reducible apply State.owe_canon
    | with_reducible apply State.zeroSlots_canon
    | with_reducible apply State.retire_canon
    | (extract_lets +onlyGivenNames x; refine cut (P := Canonical x) ?_ (fun _ => ?_); unfold x; try clear x; rotate_left; clear_value x; rotate_right)
    | (extract_lets +onlyGivenNames x; clear_value x)
    | split)

theorem State.squashStrand_canon (s : State) (sid : Nat) (hc : Canonical s) : Canonical ((State.squashStrand s sid)) := by
  unfold State.squashStrand
  repeat' (first
    | with_reducible assumption
    | with_reducible apply State.idle_canon
    | with_reducible apply Canonical.wmem
    | with_reducible apply Canonical.wspad
    | with_reducible apply Canonical.rstrands
    | with_reducible apply Canonical.rcores
    | with_reducible apply Canonical.rharps
    | with_reducible apply Canonical.rlaunches
    | with_reducible apply Canonical.rvds
    | with_reducible apply Canonical.rparts
    | with_reducible apply Canonical.rkeys
    | with_reducible apply Canonical.rframes
    | with_reducible apply Canonical.rmig
    | with_reducible apply Canonical.rports
    | with_reducible apply Canonical.rdrays
    | with_reducible apply Canonical.rqps
    | (with_reducible refine rising_map ?_ ?_; rotate_left; (intro _; first | rfl | (split <;> rfl)))
    | (extract_lets +onlyGivenNames x; refine cut (P := Canonical x) ?_ (fun _ => ?_); unfold x; try clear x; rotate_left; clear_value x; rotate_right)
    | (simp -zeta only [canonical_mk]; refine ⟨?_,?_,?_,?_,?_,?_,?_,?_,?_,?_,?_,?_,?_,?_⟩))

theorem State.stopUnit_canon (s : State) (l : Nat) (u : Nat) (hc : Canonical s) : Canonical ((State.stopUnit s l u)) := by
  unfold State.stopUnit
  repeat' (first
    | with_reducible assumption
    | with_reducible apply State.modLaunch_canon
    | with_reducible apply State.squashStrand_canon
    | with_reducible apply Canonical.wmem
    | with_reducible apply Canonical.wspad
    | (extract_lets +onlyGivenNames x; refine cut (P := Canonical x) ?_ (fun _ => ?_); unfold x; try clear x; rotate_left; clear_value x; rotate_right)
    | split
    | ((fail_if_success (fail_if_success (simp -zeta only [canonical_mk]))); with_reducible refine canon_keep rfl rfl rfl rfl rfl rfl rfl rfl rfl rfl rfl rfl ?_ ?_ ?_))

theorem State.cancelFree_canon (s : State) (l : Nat) (hc : Canonical s) : Canonical ((State.cancelFree s l)) := by
  unfold State.cancelFree
  repeat' (first
    | with_reducible assumption
    | with_reducible apply State.stopUnit_canon
    | with_reducible apply State.now_canon
    | with_reducible apply State.modLaunch_canon
    | with_reducible apply foldl_canonical
    | intro _
    | (extract_lets +onlyGivenNames x; refine cut (P := Canonical x) ?_ (fun _ => ?_); unfold x; try clear x; rotate_left; clear_value x; rotate_right)
    | (extract_lets +onlyGivenNames x; clear_value x)
    | split)

theorem State.recordCancelled_canon (s : State) (l : Nat) (hc : Canonical s) : Canonical ((State.recordCancelled s l)) := by
  unfold State.recordCancelled
  repeat' (first
    | with_reducible assumption
    | with_reducible apply State.countCanc_canon
    | with_reducible apply State.settleGraphs_canon
    | with_reducible apply State.recordLaunch_canon
    | (extract_lets +onlyGivenNames x; refine cut (P := Canonical x) ?_ (fun _ => ?_); unfold x; try clear x; rotate_left; clear_value x; rotate_right)
    | (extract_lets +onlyGivenNames x; clear_value x)
    | split)

theorem State.endingAt_canon (s : State) (l : Nat) (f : Nat) (core : Nat) (slot : Nat) (t : TrapInfo) (epc : Word) (hc : Canonical s) : Canonical ((State.endingAt s l f core slot t epc)) := by
  unfold State.endingAt
  repeat' (first
    | with_reducible assumption
    | with_reducible apply State.setLaunch_canon
    | with_reducible apply State.owe_canon
    | (extract_lets +onlyGivenNames x; refine cut (P := Canonical x) ?_ (fun _ => ?_); unfold x; try clear x; rotate_left; clear_value x; rotate_right)
    | (extract_lets +onlyGivenNames x; clear_value x)
    | split)

theorem State.endingEvent_canon (s : State) (l : Nat) (f : Nat) (core : Nat) (slot : Nat) (t : TrapInfo) (epc : Word) (hc : Canonical s) : Canonical ((State.endingEvent s l f core slot t epc)) := by
  unfold State.endingEvent
  repeat' (first
    | with_reducible assumption
    | with_reducible apply State.endingAt_canon
    | with_reducible apply State.tellTime_canon)

theorem State.ringWrite_canon (s : State) (p : Nat) (e : FaultEntry) (hc : Canonical s) : Canonical ((State.ringWrite s p e)) := by
  unfold State.ringWrite
  repeat' (first
    | with_reducible assumption
    | with_reducible apply State.engineWrite_canon)

theorem State.startReserved_canon (s : State) (p : Nat) (hc : Canonical s) : Canonical ((State.startReserved s p)) := by
  unfold State.startReserved
  repeat' (first
    | with_reducible assumption
    | with_reducible apply State.modStrand_canon
    | with_reducible apply State.setLaunch_canon
    | with_reducible apply State.modPart_canon
    | (extract_lets +onlyGivenNames x; clear_value x)
    | split)

theorem State.routeWaiting_canon (s : State) (p : Nat) (hc : Canonical s) : Canonical ((State.routeWaiting s p)) := by
  unfold State.routeWaiting
  repeat' (first
    | with_reducible assumption
    | with_reducible apply State.modPart_canon
    | with_reducible apply State.startReserved_canon
    | (extract_lets +onlyGivenNames x; refine cut (P := Canonical x) ?_ (fun _ => ?_); unfold x; try clear x; rotate_left; clear_value x; rotate_right)
    | (extract_lets +onlyGivenNames x; clear_value x)
    | split)

theorem State.postFault_canon (s : State) (p : Nat) (vd : Option Nat) (e : FaultEntry) (hc : Canonical s) : Canonical ((State.postFault s p vd e)).1 := by
  unfold State.postFault
  repeat' (first
    | with_reducible assumption
    | with_reducible apply State.postIrq_canon
    | with_reducible apply State.startReserved_canon
    | with_reducible apply State.ringWrite_canon
    | with_reducible apply State.now_canon
    | with_reducible apply State.setPart_canon
    | with_reducible apply State.countErr_canon
    | with_reducible apply_assumption -exfalso -symm
    | intro _
    | (extract_lets +onlyGivenNames x; refine cut (P := ∀ t, Canonical t → Canonical (x t).1) ?_ (fun _ => ?_); unfold x; try clear x; rotate_left; clear_value x; rotate_right)
    | (extract_lets +onlyGivenNames x; clear_value x)
    | split)

theorem State.modMe_canon (s : State) (f : Strand → Strand) (hc : Canonical s) : Canonical ((State.modMe s f)) := by
  unfold State.modMe
  repeat' (first
    | with_reducible assumption
    | with_reducible apply State.modStrand_canon)

theorem State.logNow_canon (s : State) (d : Dst) (hc : Canonical s) : Canonical ((State.logNow s d)) := by
  unfold State.logNow
  repeat' (first
    | with_reducible assumption
    | with_reducible apply State.modMe_canon)

theorem State.landMask_canon (s : State) (d : Dst) (v : Wide) (mask : Wide) (turns : Nat) (hc : Canonical s) : Canonical ((State.landMask s d v mask turns)) := by
  unfold State.landMask
  repeat' (first
    | with_reducible assumption
    | with_reducible apply State.owe_canon
    | with_reducible apply State.modMe_canon)

theorem State.landWide_canon (s : State) (d : Dst) (v : Wide) (turns : Nat) (hc : Canonical s) : Canonical ((State.landWide s d v turns)) := by
  unfold State.landWide
  repeat' (first
    | with_reducible assumption
    | with_reducible apply State.landMask_canon)

theorem State.landG_canon (s : State) (d : GReg) (v : Word) (turns : Nat) (hc : Canonical s) : Canonical ((State.landG s d v turns)) := by
  unfold State.landG
  repeat' (first
    | with_reducible assumption
    | with_reducible apply State.landWide_canon
    | split)

theorem State.landP_canon (s : State) (d : PReg) (v : Bool) (turns : Nat) (hc : Canonical s) : Canonical ((State.landP s d v turns)) := by
  unfold State.landP
  repeat' (first
    | with_reducible assumption
    | with_reducible apply State.landWide_canon
    | split)

theorem State.promise_canon (s : State) (d : Dst) (vec : Bool) (hc : Canonical s) : Canonical ((State.promise s d vec)) := by
  unfold State.promise
  repeat' (first
    | with_reducible assumption
    | with_reducible apply State.modMe_canon)

theorem State.deliver_canon (s : State) (sid : Nat) (seq : Nat) (d : Dst) (v : Wide) (mask : Wide) (due : Nat) (hc : Canonical s) : Canonical ((State.deliver s sid seq d v mask due)) := by
  unfold State.deliver
  repeat' (first
    | with_reducible assumption
    | with_reducible apply State.owe_canon
    | with_reducible apply State.modStrand_canon)

theorem State.postTrap_canon (s : State) (sid : Nat) (t : TrapInfo) (epc : Word) (hc : Canonical s) : Canonical ((State.postTrap s sid t epc)) := by
  unfold State.postTrap
  repeat' (first
    | with_reducible assumption
    | with_reducible apply State.cancelFree_canon
    | with_reducible apply State.modStrand_canon
    | with_reducible apply State.idle_canon
    | with_reducible apply State.postFault_canon
    | with_reducible apply_assumption -exfalso -symm
    | intro _
    | (extract_lets +onlyGivenNames x; refine cut (P := ∀ t, Canonical t → Canonical (x t)) ?_ (fun _ => ?_); unfold x; try clear x; rotate_left; clear_value x; rotate_right)
    | (extract_lets +onlyGivenNames x; clear_value x)
    | split)

theorem State.chargeLine_canon (s : State) (vd : Nat) (detail : Nat) (hc : Canonical s) : Canonical ((State.chargeLine s vd detail)) := by
  unfold State.chargeLine
  repeat' (first
    | with_reducible assumption
    | with_reducible apply State.countIntegrity_canon
    | with_reducible apply State.setKey_canon
    | (extract_lets +onlyGivenNames x; refine cut (P := Canonical x) ?_ (fun _ => ?_); unfold x; try clear x; rotate_left; clear_value x; rotate_right)
    | (extract_lets +onlyGivenNames x; clear_value x)
    | split)

theorem State.countTrap_canon (s : State) (sid : Nat) (t : TrapInfo) (hc : Canonical s) : Canonical ((State.countTrap s sid t)) := by
  unfold State.countTrap
  repeat' (first
    | with_reducible assumption
    | with_reducible apply State.chargeLine_canon
    | with_reducible apply State.countErr_canon
    | (extract_lets +onlyGivenNames x; clear_value x)
    | split)

theorem State.takeTrap_canon (s : State) (sid : Nat) (t : TrapInfo) (epc : Word) (hc : Canonical s) : Canonical ((State.takeTrap s sid t epc)) := by
  unfold State.takeTrap
  repeat' (first
    | with_reducible assumption
    | with_reducible apply State.modStrand_canon
    | with_reducible apply State.countTrap_canon
    | with_reducible apply State.endingEvent_canon
    | with_reducible apply State.idle_canon
    | with_reducible apply State.modPkg_canon
    | with_reducible apply State.setStrand_canon
    | with_reducible apply State.postTrap_canon
    | (extract_lets +onlyGivenNames x; refine cut (P := Canonical x) ?_ (fun _ => ?_); unfold x; try clear x; rotate_left; clear_value x; rotate_right)
    | (extract_lets +onlyGivenNames x; clear_value x)
    | split)

theorem State.dropLater_canon (s : State) (sid : Nat) (seq : Nat) (hc : Canonical s) : Canonical ((State.dropLater s sid seq)) := by
  unfold State.dropLater
  repeat' (first
    | with_reducible assumption
    | with_reducible apply Canonical.wmem
    | with_reducible apply Canonical.wspad
    | with_reducible apply Canonical.rstrands
    | with_reducible apply Canonical.rcores
    | with_reducible apply Canonical.rharps
    | with_reducible apply Canonical.rlaunches
    | with_reducible apply Canonical.rvds
    | with_reducible apply Canonical.rparts
    | with_reducible apply Canonical.rkeys
    | with_reducible apply Canonical.rframes
    | with_reducible apply Canonical.rmig
    | with_reducible apply Canonical.rports
    | with_reducible apply Canonical.rdrays
    | with_reducible apply Canonical.rqps
    | (with_reducible refine rising_map ?_ ?_; rotate_left; (intro _; first | rfl | (split <;> rfl)))
    | (extract_lets +onlyGivenNames x; clear_value x)
    | (simp -zeta only [canonical_mk]; refine ⟨?_,?_,?_,?_,?_,?_,?_,?_,?_,?_,?_,?_,?_,?_⟩))

theorem State.vectorTrap_canon (s : State) (sid : Nat) (seq : Nat) (pc : Word) (t : TrapInfo) (hc : Canonical s) : Canonical ((State.vectorTrap s sid seq pc t)) := by
  unfold State.vectorTrap
  repeat' (first
    | with_reducible assumption
    | with_reducible apply State.modStrand_canon
    | with_reducible apply State.dropLater_canon
    | with_reducible apply State.takeTrap_canon
    | with_reducible apply Canonical.wmem
    | with_reducible apply Canonical.wspad
    | (extract_lets +onlyGivenNames x; refine cut (P := Canonical x) ?_ (fun _ => ?_); unfold x; try clear x; rotate_left; clear_value x; rotate_right)
    | split
    | ((fail_if_success (fail_if_success (simp -zeta only [canonical_mk]))); with_reducible refine canon_keep rfl rfl rfl rfl rfl rfl rfl rfl rfl rfl rfl rfl ?_ ?_ ?_))

theorem raise_canon (s : State) (u : State) (t : TrapInfo) (hc : Canonical s) (hc1_ : Canonical u) : Canonical ((raise s u t)) := by
  unfold raise
  repeat' (first
    | with_reducible assumption
    | with_reducible apply State.takeTrap_canon
    | with_reducible apply Canonical.wmem
    | with_reducible apply Canonical.wspad
    | (extract_lets +onlyGivenNames x; refine cut (P := Canonical x) ?_ (fun _ => ?_); unfold x; try clear x; rotate_left; clear_value x; rotate_right)
    | split
    | ((fail_if_success (fail_if_success (simp -zeta only [canonical_mk]))); with_reducible refine canon_keep rfl rfl rfl rfl rfl rfl rfl rfl rfl rfl rfl rfl ?_ ?_ ?_))

theorem finish_canon (s : State) (r : Res) (hc : Canonical s) (hr_ : ResOk r) : OutOk ((finish s r)) := by
  unfold finish
  repeat' (first
    | with_reducible assumption
    | with_reducible apply raise_canon
    | with_reducible apply outok_next
    | with_reducible apply Canonical.wmem
    | with_reducible apply Canonical.wspad
    | (with_reducible apply resok_ok_inv; with_reducible assumption)
    | (with_reducible apply resok_held_inv; with_reducible assumption)
    | (with_reducible apply resok_trapIn_inv; with_reducible assumption)
    | split
    | ((fail_if_success (fail_if_success (simp -zeta only [canonical_mk]))); with_reducible refine canon_keep rfl rfl rfl rfl rfl rfl rfl rfl rfl rfl rfl rfl ?_ ?_ ?_))

theorem illegalInstr_canon (s : State) (hc : Canonical s) : ResOk ((illegalInstr s)) := by
  unfold illegalInstr
  repeat' (first
    | with_reducible apply resok_trap)

theorem illegalFormat_canon (v : Word)  : ResOk ((illegalFormat v)) := by
  unfold illegalFormat
  repeat' (first
    | with_reducible apply resok_trap)

theorem privilege_canon (s : State) (hc : Canonical s) : ResOk ((privilege s)) := by
  unfold privilege
  repeat' (first
    | with_reducible apply resok_trap)

theorem misalignedTarget_canon (v : Word)  : ResOk ((misalignedTarget v)) := by
  unfold misalignedTarget
  repeat' (first
    | with_reducible apply resok_trap)

theorem misaligned_canon (v : Word)  : ResOk ((misaligned v)) := by
  unfold misaligned
  repeat' (first
    | with_reducible apply resok_trap)

theorem accessFault_canon (v : Word)  : ResOk ((accessFault v)) := by
  unfold accessFault
  repeat' (first
    | with_reducible apply resok_trap)

theorem timingFault_canon (s : State) (detail : Nat) (hc : Canonical s) : ResOk ((timingFault s detail)) := by
  unfold timingFault
  repeat' (first
    | with_reducible apply resok_trap)

theorem State.correct_canon (s : State) (sid : Nat) (reads : Dst × Nat → Bool) (hc : Canonical s) : Canonical ((State.correct s sid reads)) := by
  unfold State.correct
  repeat' (first
    | with_reducible assumption
    | with_reducible apply State.countRf_canon
    | with_reducible apply State.modStrand_canon
    | (extract_lets +onlyGivenNames x; clear_value x)
    | split)

theorem State.registerError_canon (s : State) (sid : Nat) (d : Dst) (i : Nat) (fatal : Bool) (hc : Canonical s) : Canonical ((State.registerError s sid d i fatal)) := by
  unfold State.registerError
  repeat' (first
    | with_reducible assumption
    | with_reducible apply State.countRf_canon
    | with_reducible apply State.setStrand_canon
    | (extract_lets +onlyGivenNames x; clear_value x)
    | split)

theorem word_canon (s : State) (u : Use) (effect : State → Res) (hc : Canonical s) (heffect_ : ∀ (x0_ : State), Canonical x0_ → ResOk (effect x0_)) : ResOk ((word s u effect)) := by
  unfold word
  repeat' (first
    | with_reducible assumption
    | with_reducible apply heffect_
    | with_reducible apply illegalInstr_canon
    | with_reducible apply privilege_canon
    | with_reducible apply State.correct_canon
    | with_reducible apply resok_ok
    | with_reducible apply resok_held
    | with_reducible apply resok_trap
    | split)

theorem State.landFlags_canon (s : State) (f : Nat) (turns : Nat) (hc : Canonical s) : Canonical ((State.landFlags s f turns)) := by
  unfold State.landFlags
  repeat' (first
    | with_reducible assumption
    | with_reducible apply State.landWide_canon
    | split)

end Sys2Proof.Machine
end

