-- ==== Sys2Proof/Laws/CanonMemory.lean ====
section
/-! SUPPORT. Memory, scratchpads and tables stay in their canonical form: memory words, caches and translation. -/
set_option linter.all false
namespace Sys2Proof.Machine

theorem State.portWrite_canon (s : State) (la : Nat) (data : BitVec 512) (hc : Canonical s) : Canonical ((State.portWrite s la data)) := by
  unfold State.portWrite
  repeat' (first
    | with_reducible assumption
    | with_reducible apply State.treeWrite_canon
    | with_reducible apply State.setBlock_canon
    | with_reducible apply State.now_canon
    | with_reducible apply State.setLine_canon
    | (extract_lets +onlyGivenNames x; refine cut (P := Canonical x) ?_ (fun _ => ?_); unfold x; try clear x; rotate_left; clear_value x; rotate_right)
    | (extract_lets +onlyGivenNames x; clear_value x)
    | split)

theorem State.resealLine_canon (s : State) (blk : Nat) (hc : Canonical s) : Canonical ((State.resealLine s blk)) := by
  unfold State.resealLine
  repeat' (first
    | with_reducible assumption
    | with_reducible apply State.setBlock_canon
    | with_reducible apply State.setLine_canon
    | with_reducible apply State.after_canon
    | (extract_lets +onlyGivenNames x; refine cut (P := Canonical x) ?_ (fun _ => ?_); unfold x; try clear x; rotate_left; clear_value x; rotate_right)
    | (extract_lets +onlyGivenNames x; clear_value x)
    | split)

theorem State.countRead_canon (s : State) (v : Nat) (a : Nat) (n : Nat) (hc : Canonical s) : Canonical ((State.countRead s v a n)) := by
  unfold State.countRead
  repeat' (first
    | with_reducible assumption
    | with_reducible apply State.chargeLine_canon
    | split)

theorem State.writeBack_canon (s : State) (la : Nat) (hc : Canonical s) : Canonical ((State.writeBack s la)) := by
  unfold State.writeBack
  repeat' (first
    | with_reducible assumption
    | with_reducible apply State.now_canon)

theorem State.monitor_canon (s : State) (la : Nat) (part : Nat) (hc : Canonical s) : Canonical ((State.monitor s la part)) := by
  unfold State.monitor
  repeat' (first
    | with_reducible assumption
    | with_reducible apply Canonical.wmem
    | with_reducible apply Canonical.wspad
    | (extract_lets +onlyGivenNames x; refine cut (P := Canonical x) ?_ (fun _ => ?_); unfold x; try clear x; rotate_left; clear_value x; rotate_right)
    | (extract_lets +onlyGivenNames x; clear_value x)
    | split
    | ((fail_if_success (fail_if_success (simp -zeta only [canonical_mk]))); with_reducible refine canon_keep rfl rfl rfl rfl rfl rfl rfl rfl rfl rfl rfl rfl ?_ ?_ ?_))

theorem State.mcTouch_canon (s : State) (pa : Nat) (kid : Nat) (part : Option Nat) (write : Bool) (hc : Canonical s) : Canonical ((State.mcTouch s pa kid part write)).1 := by
  unfold State.mcTouch
  repeat' (first
    | with_reducible assumption
    | with_reducible apply State.monitor_canon
    | with_reducible apply State.cachePath_canon
    | with_reducible apply State.writeBack_canon
    | with_reducible apply Canonical.wmem
    | with_reducible apply Canonical.wspad
    | (extract_lets +onlyGivenNames x; refine cut (P := Canonical x) ?_ (fun _ => ?_); unfold x; try clear x; rotate_left; clear_value x; rotate_right)
    | (extract_lets +onlyGivenNames x; clear_value x)
    | split
    | ((fail_if_success (fail_if_success (simp -zeta only [canonical_mk]))); with_reducible refine canon_keep rfl rfl rfl rfl rfl rfl rfl rfl rfl rfl rfl rfl ?_ ?_ ?_))

theorem State.mcFlush_canon (s : State) (la : Nat) (inval : Bool) (hc : Canonical s) : Canonical ((State.mcFlush s la inval)) := by
  unfold State.mcFlush
  repeat' (first
    | with_reducible assumption
    | with_reducible apply State.writeBack_canon
    | with_reducible apply Canonical.wmem
    | with_reducible apply Canonical.wspad
    | (extract_lets +onlyGivenNames x; refine cut (P := Canonical x) ?_ (fun _ => ?_); unfold x; try clear x; rotate_left; clear_value x; rotate_right)
    | split
    | ((fail_if_success (fail_if_success (simp -zeta only [canonical_mk]))); with_reducible refine canon_keep rfl rfl rfl rfl rfl rfl rfl rfl rfl rfl rfl rfl ?_ ?_ ?_))

theorem State.l1Drop_canon (s : State) (core : Nat) (f : L1Line → Bool) (hc : Canonical s) : Canonical ((State.l1Drop s core f)) := by
  unfold State.l1Drop
  repeat' (first
    | with_reducible assumption
    | with_reducible apply State.modCore_canon)

theorem State.l1DropAll_canon (s : State) (f : L1Line → Bool) (hc : Canonical s) : Canonical ((State.l1DropAll s f)) := by
  unfold State.l1DropAll
  repeat' (first
    | with_reducible assumption
    | with_reducible apply Canonical.wmem
    | with_reducible apply Canonical.wspad
    | with_reducible apply Canonical.rstrands
    | with_reducible apply Canonical.rcores
    | with_reducible apply Canonical.rharps
    | with_reducible apply Canonical.rlaunches
    | with_reducible apply Canonical.rvds
    | with_reducible apply Canonical.rparts
    | with_reducible apply Canonical.rkeys
    | with_reducible apply Canonical.rframes
    | with_reducible apply Canonical.rmig
    | with_reducible apply Canonical.rports
    | with_reducible apply Canonical.rdrays
    | with_reducible apply Canonical.rqps
    | (with_reducible refine rising_map ?_ ?_; rotate_left; (intro _; first | rfl | (split <;> rfl)))
    | (simp -zeta only [canonical_mk]; refine ⟨?_,?_,?_,?_,?_,?_,?_,?_,?_,?_,?_,?_,?_,?_⟩))

theorem State.dropFrames_canon (s : State) (f : Nat) (n : Nat) (hc : Canonical s) : Canonical ((State.dropFrames s f n)) := by
  unfold State.dropFrames
  repeat' (first
    | with_reducible assumption
    | with_reducible apply State.l1DropAll_canon
    | with_reducible apply Canonical.wmem
    | with_reducible apply Canonical.wspad
    | (extract_lets +onlyGivenNames x; refine cut (P := Canonical x) ?_ (fun _ => ?_); unfold x; try clear x; rotate_left; clear_value x; rotate_right)
    | (extract_lets +onlyGivenNames x; clear_value x)
    | ((fail_if_success (fail_if_success (simp -zeta only [canonical_mk]))); with_reducible refine canon_keep rfl rfl rfl rfl rfl rfl rfl rfl rfl rfl rfl rfl ?_ ?_ ?_))

theorem State.dropKid_canon (s : State) (kid : Nat) (hc : Canonical s) : Canonical ((State.dropKid s kid)) := by
  unfold State.dropKid
  repeat' (first
    | with_reducible assumption
    | with_reducible apply State.l1DropAll_canon
    | with_reducible apply Canonical.wmem
    | with_reducible apply Canonical.wspad
    | (extract_lets +onlyGivenNames x; refine cut (P := Canonical x) ?_ (fun _ => ?_); unfold x; try clear x; rotate_left; clear_value x; rotate_right)
    | ((fail_if_success (fail_if_success (simp -zeta only [canonical_mk]))); with_reducible refine canon_keep rfl rfl rfl rfl rfl rfl rfl rfl rfl rfl rfl rfl ?_ ?_ ?_))

theorem State.l1Fill_canon (s : State) (core : Nat) (la : Nat) (src : Nat) (kid : Nat) (ro : Bool) (vpn : Nat) (hc : Canonical s) : Canonical ((State.l1Fill s core la src kid ro vpn)) := by
  unfold State.l1Fill
  repeat' (first
    | with_reducible assumption
    | with_reducible apply State.setCore_canon
    | with_reducible apply State.after_canon
    | (extract_lets +onlyGivenNames x; refine cut (P := Canonical x) ?_ (fun _ => ?_); unfold x; try clear x; rotate_left; clear_value x; rotate_right)
    | (extract_lets +onlyGivenNames x; clear_value x)
    | split)

theorem execMemoryLineWrite_canon (la : Nat) (data : BitVec 512) (s : State) (hc : Canonical s) : OutOk ((execMemoryLineWrite la data s)) := by
  unfold execMemoryLineWrite
  repeat' (first
    | with_reducible assumption
    | with_reducible apply State.countIntegrity_canon
    | with_reducible apply State.portWrite_canon
    | with_reducible apply outok_next
    | split)

theorem execMemoryLineRead_canon (la : Nat) (vd : Nat) (s : State) (hc : Canonical s) : OutOk ((execMemoryLineRead la vd s)) := by
  unfold execMemoryLineRead
  repeat' (first
    | with_reducible assumption
    | with_reducible apply State.chargeLine_canon
    | with_reducible apply outok_next
    | split)

theorem execMinorWrapReseal_canon (blk : Nat) (s : State) (hc : Canonical s) : OutOk ((execMinorWrapReseal blk s)) := by
  unfold execMinorWrapReseal
  repeat' (first
    | with_reducible assumption
    | with_reducible apply State.resealLine_canon
    | with_reducible apply outok_next)

theorem execL1LineExpiry_canon (core : Nat) (line : Nat) (s : State) (hc : Canonical s) : OutOk ((execL1LineExpiry core line s)) := by
  unfold execL1LineExpiry
  repeat' (first
    | with_reducible assumption
    | with_reducible apply State.l1Drop_canon
    | with_reducible apply outok_next)

theorem State.recompute_canon (s : State) (die : Nat) (hc : Canonical s) : Canonical ((State.recompute s die)) := by
  unfold State.recompute
  repeat' (first
    | with_reducible assumption
    | with_reducible apply State.modPart_canon
    | with_reducible apply State.now_canon
    | with_reducible apply foldl_canonical
    | with_reducible apply Canonical.wmem
    | with_reducible apply Canonical.wspad
    | intro _
    | (extract_lets +onlyGivenNames x; refine cut (P := Canonical x) ?_ (fun _ => ?_); unfold x; try clear x; rotate_left; clear_value x; rotate_right)
    | (extract_lets +onlyGivenNames x; clear_value x)
    | split
    | ((fail_if_success (fail_if_success (simp -zeta only [canonical_mk]))); with_reducible refine canon_keep rfl rfl rfl rfl rfl rfl rfl rfl rfl rfl rfl rfl ?_ ?_ ?_))

theorem State.applyWayreq_canon (s : State) (hc : Canonical s) : Canonical ((State.applyWayreq s)) := by
  unfold State.applyWayreq
  refine foldl_canonical _ ?_ _ _ hc
  intro s e h
  dsimp only
  repeat' (first
    | with_reducible assumption
    | with_reducible apply State.modPart_canon
    | split)

theorem execWayQuotaRecompute_canon (die : Nat) (s : State) (hc : Canonical s) : OutOk ((execWayQuotaRecompute die s)) := by
  unfold execWayQuotaRecompute
  repeat' (first
    | with_reducible assumption
    | with_reducible apply State.recompute_canon
    | with_reducible apply State.applyWayreq_canon
    | with_reducible apply outok_next
    | split)

theorem execEmptyMaskWriteback_canon (part : Nat) (die : Nat) (s : State) (hc : Canonical s) : OutOk ((execEmptyMaskWriteback part die s)) := by
  unfold execEmptyMaskWriteback
  repeat' (first
    | with_reducible assumption
    | with_reducible apply State.writeBack_canon
    | with_reducible apply outok_next
    | with_reducible apply foldl_canonical
    | with_reducible apply Canonical.wmem
    | with_reducible apply Canonical.wspad
    | intro _
    | (extract_lets +onlyGivenNames x; refine cut (P := Canonical x) ?_ (fun _ => ?_); unfold x; try clear x; rotate_left; clear_value x; rotate_right)
    | (extract_lets +onlyGivenNames x; clear_value x)
    | split
    | ((fail_if_success (fail_if_success (simp -zeta only [canonical_mk]))); with_reducible refine canon_keep rfl rfl rfl rfl rfl rfl rfl rfl rfl rfl rfl rfl ?_ ?_ ?_))

theorem walkFrom_canon (v : Nat) (va : Nat) (core : Nat) (z3 : Nat) (z4 : Nat) (z5 : State) (hc : Canonical z5) : Canonical ((walkFrom v va core z3 z4 z5)).1 := by
  induction z3 generalizing z4 z5
  all_goals
    unfold walkFrom
    repeat' (first
    | with_reducible assumption
    | with_reducible apply State.modCore_canon
    | with_reducible apply_assumption -exfalso -symm
    | (extract_lets +onlyGivenNames x; refine cut (P := Canonical x) ?_ (fun _ => ?_); unfold x; try clear x; rotate_left; clear_value x; rotate_right)
    | (extract_lets +onlyGivenNames x; clear_value x)
    | split)

theorem State.walk_canon (s : State) (core : Nat) (v : Nat) (va : Nat) (hc : Canonical s) : Canonical ((State.walk s core v va)).1 := by
  unfold State.walk
  repeat' (first
    | with_reducible assumption
    | with_reducible apply walkFrom_canon
    | (with_reducible apply State.outcome_canon_fwd2; with_reducible assumption)
    | split)

theorem State.walk_canon_fwd2 {s : State} {core : Nat} {v : Nat} {va : Nat} {w_ : State} {z_ : _} (eq_ : (State.walk s core v va) = (w_, z_)) (hc : Canonical s) : Canonical w_ := by
  have := State.walk_canon s core v va hc; rw [eq_] at this; exact this

theorem State.tlbFill_canon (s : State) (core : Nat) (e : TlbEntry) (hc : Canonical s) : Canonical ((State.tlbFill s core e)) := by
  unfold State.tlbFill
  repeat' (first
    | with_reducible assumption
    | with_reducible apply State.modCore_canon)

theorem State.leaf_canon (s : State) (core : Nat) (v : Nat) (va : Nat) (hc : Canonical s) : Canonical ((State.leaf s core v va)).1 := by
  unfold State.leaf
  repeat' (first
    | with_reducible assumption
    | with_reducible apply State.walk_canon
    | with_reducible apply State.tlbFill_canon
    | (with_reducible apply State.walk_canon_fwd2; with_reducible assumption)
    | split)

theorem State.leaf_canon_fwd2 {s : State} {core : Nat} {v : Nat} {va : Nat} {w_ : State} {z_ : _} (eq_ : (State.leaf s core v va) = (w_, z_)) (hc : Canonical s) : Canonical w_ := by
  have := State.leaf_canon s core v va hc; rw [eq_] at this; exact this

theorem State.translate_canon (s : State) (held : Option TlbEntry) (sid : Nat) (va : Nat) (r : Right) (hc : Canonical s) : Canonical ((State.translate s held sid va r)).1 := by
  unfold State.translate
  extract_lets miss
  split
  · next s1 t1 e1 =>
    show Canonical s1
    cases held with
    | some e => cases e1
    | none =>
      have := State.leaf_canon (if miss = true then s.perf sid 13 1 else s) (coreOf sid) (s.strandVd sid) va (by split; exact State.perf_canon _ _ _ _ hc; exact hc)
      dsimp only at e1
      rw [e1] at this; exact this
  · next s1 t1 e1 =>
    have h1 : Canonical s1 := by
      cases held with
      | some e => cases e1; exact hc
      | none =>
        have := State.leaf_canon (if miss = true then s.perf sid 13 1 else s) (coreOf sid) (s.strandVd sid) va (by split; exact State.perf_canon _ _ _ _ hc; exact hc)
        dsimp only at e1
        rw [e1] at this; exact this
    split <;> exact h1

theorem State.translate_canon_fwd2 {s : State} {held : Option TlbEntry} {sid : Nat} {va : Nat} {r : Right} {w_ : State} {z_ : _} (eq_ : (State.translate s held sid va r) = (w_, z_)) (hc : Canonical s) : Canonical w_ := by
  have := State.translate_canon s held sid va r hc; rw [eq_] at this; exact this

theorem State.walkAhead_canon (s : State) (sid : Nat) (st : Nat) (va : Nat) (hc : Canonical s) : Canonical ((State.walkAhead s sid st va)) := by
  unfold State.walkAhead
  repeat' (first
    | with_reducible assumption
    | with_reducible apply State.modStrand_canon
    | (with_reducible apply State.leaf_canon_fwd2; with_reducible assumption)
    | split)

theorem State.shootDown_canon (s : State) (v : Nat) (vpn : Option Nat) (hc : Canonical s) : Canonical ((State.shootDown s v vpn)) := by
  unfold State.shootDown
  repeat' (first
    | with_reducible assumption
    | with_reducible apply State.modVd_canon
    | with_reducible apply Canonical.wmem
    | with_reducible apply Canonical.wspad
    | with_reducible apply Canonical.rstrands
    | with_reducible apply Canonical.rcores
    | with_reducible apply Canonical.rharps
    | with_reducible apply Canonical.rlaunches
    | with_reducible apply Canonical.rvds
    | with_reducible apply Canonical.rparts
    | with_reducible apply Canonical.rkeys
    | with_reducible apply Canonical.rframes
    | with_reducible apply Canonical.rmig
    | with_reducible apply Canonical.rports
    | with_reducible apply Canonical.rdrays
    | with_reducible apply Canonical.rqps
    | (with_reducible refine rising_map ?_ ?_; rotate_left; (intro _; first | rfl | (split <;> rfl)))
    | (extract_lets +onlyGivenNames x; refine cut (P := Canonical x) ?_ (fun _ => ?_); unfold x; try clear x; rotate_left; clear_value x; rotate_right)
    | (extract_lets +onlyGivenNames x; clear_value x)
    | (simp -zeta only [canonical_mk]; refine ⟨?_,?_,?_,?_,?_,?_,?_,?_,?_,?_,?_,?_,?_,?_⟩))

theorem execTranslationWalk_canon (core : Nat) (vd : Nat) (va : Nat) (s : State) (hc : Canonical s) : OutOk ((execTranslationWalk core vd va s)) := by
  unfold execTranslationWalk
  repeat' (first
    | with_reducible assumption
    | with_reducible apply State.tlbFill_canon
    | with_reducible apply State.chargeLine_canon
    | (with_reducible apply State.walk_canon_fwd2; with_reducible assumption)
    | with_reducible apply outok_next
    | split)

theorem State.takeBanks_canon (s : State) (c : Nat) (m : BitVec 32) (hc : Canonical s) : OptOk ((State.takeBanks s c m)) := by
  unfold State.takeBanks
  repeat' (first
    | with_reducible assumption
    | with_reducible apply State.modCore_canon
    | with_reducible apply optok_none
    | with_reducible apply optok_some
    | (extract_lets +onlyGivenNames x; clear_value x)
    | split)

theorem State.takeBanks_canon_fwd {s : State} {c : Nat} {m : BitVec 32} {w_ : State} (eq_ : (State.takeBanks s c m) = some w_) (hc : Canonical s) : Canonical w_ := by
  have := State.takeBanks_canon s c m hc; rw [eq_] at this; exact this

theorem State.virtTarget_canon (s : State) (held : Option TlbEntry) (sid : Nat) (ea : Nat) (n : Nat) (r : Right) (a : Access) (u : MemUse) (hc : Canonical s) : Canonical ((State.virtTarget s held sid ea n r a u)).1 := by
  unfold State.virtTarget
  repeat' (first
    | with_reducible assumption
    | (with_reducible apply State.translate_canon_fwd2; with_reducible assumption)
    | (extract_lets +onlyGivenNames x; clear_value x)
    | split)

theorem State.virtTarget_canon_fwd2 {s : State} {held : Option TlbEntry} {sid : Nat} {ea : Nat} {n : Nat} {r : Right} {a : Access} {u : MemUse} {w_ : State} {z_ : _} (eq_ : (State.virtTarget s held sid ea n r a u) = (w_, z_)) (hc : Canonical s) : Canonical w_ := by
  have := State.virtTarget_canon s held sid ea n r a u hc; rw [eq_] at this; exact this

theorem State.checkAccess_canon (s : State) (sid : Nat) (sp : Space) (ea : Nat) (n : Nat) (r : Right) (u : MemUse) (hc : Canonical s) : Canonical ((State.checkAccess s sid sp ea n r u)).1 := by
  unfold State.checkAccess
  repeat' (first
    | with_reducible assumption
    | with_reducible apply State.virtTarget_canon
    | (extract_lets +onlyGivenNames x; clear_value x)
    | split)

theorem State.checkAccess_canon_fwd2 {s : State} {sid : Nat} {sp : Space} {ea : Nat} {n : Nat} {r : Right} {u : MemUse} {w_ : State} {z_ : _} (eq_ : (State.checkAccess s sid sp ea n r u) = (w_, z_)) (hc : Canonical s) : Canonical w_ := by
  have := State.checkAccess_canon s sid sp ea n r u hc; rw [eq_] at this; exact this

theorem State.physWrite_canon (s : State) (pa : Nat) (bs : List Byte) (part : Option Nat) (cached : Bool) (hc : Canonical s) : Canonical ((State.physWrite s pa bs part cached)) := by
  unfold State.physWrite
  repeat' (first
    | with_reducible assumption
    | with_reducible apply State.initFrame_canon
    | with_reducible apply State.memWrite_canon
    | with_reducible apply State.mcTouch_canon
    | with_reducible apply State.now_canon
    | intro _
    | (extract_lets +onlyGivenNames x; refine cut (P := Canonical x) ?_ (fun _ => ?_); unfold x; try clear x; rotate_left; clear_value x; rotate_right)
    | (extract_lets +onlyGivenNames x; clear_value x)
    | split)

theorem State.linesWrite_canon (s : State) (a : Nat) (bs : List Byte) (z3 : Nat) (hc : Canonical s) : Canonical ((State.linesWrite s a bs z3)) := by
  fun_induction State.linesWrite s a bs z3
  all_goals repeat' (first
    | with_reducible assumption
    | with_reducible apply State.physWrite_canon
    | with_reducible apply_assumption -exfalso -symm)

theorem State.relayWrite_canon (s : State) (w : Nat) (pa : Nat) (bs : List Byte) (hc : Canonical s) : Canonical ((State.relayWrite s w pa bs)) := by
  unfold State.relayWrite
  repeat' (first
    | with_reducible assumption
    | with_reducible apply State.physWrite_canon
    | (extract_lets +onlyGivenNames x; refine cut (P := Canonical x) ?_ (fun _ => ?_); unfold x; try clear x; rotate_left; clear_value x; rotate_right)
    | (extract_lets +onlyGivenNames x; clear_value x)
    | split)

theorem State.accWrite_canon (s : State) (a : Access) (e : Elem) (addr : Nat) (bs : List Byte) (hc : Canonical s) : Canonical ((State.accWrite s a e addr bs)) := by
  unfold State.accWrite
  repeat' (first
    | with_reducible assumption
    | with_reducible apply State.spadWrite_canon
    | with_reducible apply State.relayWrite_canon
    | with_reducible apply State.physWrite_canon
    | with_reducible apply State.l1Drop_canon
    | (extract_lets +onlyGivenNames x; refine cut (P := Canonical x) ?_ (fun _ => ?_); unfold x; try clear x; rotate_left; clear_value x; rotate_right)
    | split)

theorem State.cacheEvents_canon (s : State) (a : Access) (e : Elem) (addr : Nat) (hc : Canonical s) : Canonical ((State.cacheEvents s a e addr)) := by
  unfold State.cacheEvents
  repeat' (first
    | with_reducible assumption
    | with_reducible apply State.perf_canon
    | (extract_lets +onlyGivenNames x; refine cut (P := Canonical x) ?_ (fun _ => ?_); unfold x; try clear x; rotate_left; clear_value x; rotate_right)
    | (extract_lets +onlyGivenNames x; clear_value x)
    | split)

theorem State.homeTouch_canon (s : State) (a : Access) (e : Elem) (addr : Nat) (hc : Canonical s) : Canonical ((State.homeTouch s a e addr)) := by
  unfold State.homeTouch
  repeat' (first
    | with_reducible assumption
    | with_reducible apply State.mcTouch_canon
    | split)

theorem State.l1Take_canon (s : State) (a : Access) (src : Nat) (hc : Canonical s) : Canonical ((State.l1Take s a src)) := by
  unfold State.l1Take
  repeat' (first
    | with_reducible assumption
    | with_reducible apply State.l1Fill_canon
    | split)

theorem State.doElem_canon (s : State) (a : Access) (e : Elem) (hc : Canonical s) : Canonical ((State.doElem s a e)).1 := by
  unfold State.doElem
  repeat' (first
    | with_reducible assumption
    | with_reducible apply State.cacheEvents_canon
    | with_reducible apply State.homeTouch_canon
    | with_reducible apply State.accWrite_canon
    | with_reducible apply State.spadWrite_canon
    | with_reducible apply State.l1Drop_canon
    | with_reducible apply State.mcFlush_canon
    | with_reducible apply State.l1Take_canon
    | with_reducible apply State.takeTrap_canon
    | with_reducible apply State.setKey_canon
    | with_reducible apply foldl_canonical
    | with_reducible apply Canonical.wmem
    | with_reducible apply Canonical.wspad
    | intro _
    | (extract_lets +onlyGivenNames x; refine cut (P := Canonical x) ?_ (fun _ => ?_); unfold x; try clear x; rotate_left; clear_value x; rotate_right)
    | (extract_lets +onlyGivenNames x; clear_value x)
    | split
    | ((fail_if_success (fail_if_success (simp -zeta only [canonical_mk]))); with_reducible refine canon_keep rfl rfl rfl rfl rfl rfl rfl rfl rfl rfl rfl rfl ?_ ?_ ?_))

theorem State.doElem_canon_fwd2 {s : State} {a : Access} {e : Elem} {w_ : State} {z_ : _} (eq_ : (State.doElem s a e) = (w_, z_)) (hc : Canonical s) : Canonical w_ := by
  have := State.doElem_canon s a e hc; rw [eq_] at this; exact this

theorem State.doElems_canon (s : State) (a : Access) (z2 : List Elem) (hc : Canonical s) : Canonical ((State.doElems s a z2)).1 := by
  fun_induction State.doElems s a z2
  all_goals repeat' (first
    | with_reducible assumption
    | (with_reducible apply State.doElem_canon_fwd2; with_reducible assumption)
    | with_reducible apply_assumption -exfalso -symm)

theorem State.setAccess_canon (s : State) (id : Nat) (a : Access) (hc : Canonical s) : Canonical ((State.setAccess s id a)) := by
  unfold State.setAccess
  repeat' (first
    | with_reducible assumption
    | with_reducible apply Canonical.wmem
    | with_reducible apply Canonical.wspad
    | ((fail_if_success (fail_if_success (simp -zeta only [canonical_mk]))); with_reducible refine canon_keep rfl rfl rfl rfl rfl rfl rfl rfl rfl rfl rfl rfl ?_ ?_ ?_))

theorem State.dropAccess_canon (s : State) (id : Nat) (hc : Canonical s) : Canonical ((State.dropAccess s id)) := by
  unfold State.dropAccess
  repeat' (first
    | with_reducible assumption
    | with_reducible apply Canonical.wmem
    | with_reducible apply Canonical.wspad
    | ((fail_if_success (fail_if_success (simp -zeta only [canonical_mk]))); with_reducible refine canon_keep rfl rfl rfl rfl rfl rfl rfl rfl rfl rfl rfl rfl ?_ ?_ ?_))

theorem State.setDue_canon (s : State) (sid : Nat) (seq : Nat) (due : Nat) (hc : Canonical s) : Canonical ((State.setDue s sid seq due)) := by
  unfold State.setDue
  repeat' (first
    | with_reducible assumption
    | with_reducible apply State.deliver_canon
    | with_reducible apply State.owe_canon
    | with_reducible apply State.modStrand_canon
    | with_reducible apply foldl_canonical
    | intro _
    | split)

theorem State.addPend_canon (s : State) (sid : Nat) (p : Pend) (hc : Canonical s) : Canonical ((State.addPend s sid p)) := by
  unfold State.addPend
  repeat' (first
    | with_reducible assumption
    | with_reducible apply State.modStrand_canon)

theorem State.finishAccess_canon (s : State) (id : Nat) (a : Access) (hc : Canonical s) : Canonical ((State.finishAccess s id a)) := by
  unfold State.finishAccess
  repeat' (first
    | with_reducible assumption
    | with_reducible apply State.dropAccess_canon
    | with_reducible apply State.deliver_canon
    | with_reducible apply State.addPend_canon
    | with_reducible apply State.l1Take_canon
    | with_reducible apply State.setDue_canon
    | (extract_lets +onlyGivenNames x; refine cut (P := Canonical x) ?_ (fun _ => ?_); unfold x; try clear x; rotate_left; clear_value x; rotate_right)
    | (extract_lets +onlyGivenNames x; clear_value x)
    | split)

theorem State.accessCycle_canon (s : State) (a : Access) (hc : Canonical s) : OptFst ((State.accessCycle s a)) := by
  unfold State.accessCycle
  repeat' (first
    | with_reducible assumption
    | with_reducible apply State.takeBanks_canon
    | with_reducible apply State.doElems_canon
    | with_reducible apply optok_none
    | with_reducible apply optok_some
    | with_reducible apply optfst_none
    | with_reducible apply optfst_some
    | with_reducible apply foldl_opt
    | (with_reducible apply optok_inv; with_reducible assumption)
    | intro _
    | (extract_lets +onlyGivenNames x; refine cut (P := OptOk x) ?_ (fun _ => ?_); unfold x; try clear x; rotate_left; clear_value x; rotate_right)
    | split)

theorem State.accessCycle_canon_fwd {s : State} {a : Access} {w_ : State} {z_ : _} (eq_ : (State.accessCycle s a) = some (w_, z_)) (hc : Canonical s) : Canonical w_ := by
  have := State.accessCycle_canon s a hc; rw [eq_] at this; exact this

theorem State.accessFault_canon (s : State) (id : Nat) (a : Access) (detail : Nat) (hc : Canonical s) : Canonical ((State.accessFault s id a detail)) := by
  unfold State.accessFault
  repeat' (first
    | with_reducible assumption
    | with_reducible apply State.dropAccess_canon
    | with_reducible apply State.takeTrap_canon)

theorem execScoredBankAccess_canon (id : Nat) (s : State) (hc : Canonical s) : OutOk ((execScoredBankAccess id s)) := by
  unfold execScoredBankAccess
  repeat' (first
    | with_reducible assumption
    | with_reducible apply State.accessFault_canon
    | with_reducible apply State.finishAccess_canon
    | with_reducible apply State.owe_canon
    | with_reducible apply State.setAccess_canon
    | (with_reducible apply State.accessCycle_canon_fwd; with_reducible assumption)
    | with_reducible apply outok_next
    | split)

theorem State.failAccess_canon (s : State) (id : Nat) (a : Access) (detail : Nat) (hc : Canonical s) : Canonical ((State.failAccess s id a detail)) := by
  unfold State.failAccess
  repeat' (first
    | with_reducible assumption
    | with_reducible apply State.dropAccess_canon
    | with_reducible apply State.vectorTrap_canon
    | with_reducible apply State.takeTrap_canon
    | with_reducible apply State.modStrand_canon
    | (extract_lets +onlyGivenNames x; refine cut (P := Canonical x) ?_ (fun _ => ?_); unfold x; try clear x; rotate_left; clear_value x; rotate_right)
    | (extract_lets +onlyGivenNames x; clear_value x)
    | split)

theorem State.freeAccess_canon (s : State) (id : Nat) (hc : Canonical s) : Canonical ((State.freeAccess s id)) := by
  unfold State.freeAccess
  repeat' (first
    | with_reducible assumption
    | with_reducible apply State.after_canon
    | with_reducible apply State.setAccess_canon
    | with_reducible apply State.failAccess_canon
    | with_reducible apply State.perf_canon
    | with_reducible apply State.finishAccess_canon
    | (with_reducible apply State.accessCycle_canon_fwd; with_reducible assumption)
    | with_reducible apply_assumption -exfalso -symm
    | intro _
    | (extract_lets +onlyGivenNames x; refine cut (P := ∀ t a, Canonical t → Canonical (x t a)) ?_ (fun _ => ?_); unfold x; try clear x; rotate_left; clear_value x; rotate_right)
    | split)

theorem execFreeAccessComplete_canon (id : Nat) (s : State) (hc : Canonical s) : OutOk ((execFreeAccessComplete id s)) := by
  unfold execFreeAccessComplete
  repeat' (first
    | with_reducible assumption
    | with_reducible apply State.freeAccess_canon
    | with_reducible apply outok_next)

theorem execRelayOwnerWrite_canon (id : Nat) (s : State) (hc : Canonical s) : OutOk ((execRelayOwnerWrite id s)) := by
  unfold execRelayOwnerWrite
  repeat' (first
    | with_reducible assumption
    | with_reducible apply State.freeAccess_canon
    | with_reducible apply outok_next)

theorem execRelayOwnerRead_canon (id : Nat) (s : State) (hc : Canonical s) : OutOk ((execRelayOwnerRead id s)) := by
  unfold execRelayOwnerRead
  repeat' (first
    | with_reducible assumption
    | with_reducible apply State.freeAccess_canon
    | with_reducible apply outok_next)

theorem execRelayPeerRead_canon (id : Nat) (s : State) (hc : Canonical s) : OutOk ((execRelayPeerRead id s)) := by
  unfold execRelayPeerRead
  repeat' (first
    | with_reducible assumption
    | with_reducible apply State.freeAccess_canon
    | with_reducible apply outok_next)

theorem execFreeAccessTimeout_canon (id : Nat) (s : State) (hc : Canonical s) : OutOk ((execFreeAccessTimeout id s)) := by
  unfold execFreeAccessTimeout
  repeat' (first
    | with_reducible assumption
    | with_reducible apply State.after_canon
    | with_reducible apply State.failAccess_canon
    | with_reducible apply outok_next
    | split)

theorem State.startAccess_canon (s : State) (a : Access) (p : Nat) (pmax : Nat) (hc : Canonical s) : Canonical ((State.startAccess s a p pmax)) := by
  unfold State.startAccess
  repeat' (first
    | with_reducible assumption
    | with_reducible apply State.owe_canon
    | with_reducible apply State.setAccess_canon
    | with_reducible apply State.after_canon
    | (with_reducible apply State.fresh_canon_fwd2; with_reducible assumption)
    | (with_reducible apply State.outcome_canon_fwd2; with_reducible assumption)
    | (extract_lets +onlyGivenNames x; refine cut (P := Canonical x) ?_ (fun _ => ?_); unfold x; try clear x; rotate_left; clear_value x; rotate_right)
    | (extract_lets +onlyGivenNames x; clear_value x)
    | split)

theorem State.issueAccess_canon (s : State) (a : Access) (extra : Nat) (hc : Canonical s) : ResOk ((State.issueAccess s a extra)) := by
  unfold State.issueAccess
  repeat' (first
    | with_reducible assumption
    | with_reducible apply State.startAccess_canon
    | with_reducible apply State.promise_canon
    | with_reducible apply State.modCore_canon
    | with_reducible apply State.perf_canon
    | with_reducible apply State.landWide_canon
    | with_reducible apply resok_ok
    | with_reducible apply resok_held
    | (extract_lets +onlyGivenNames x; refine cut (P := Canonical x) ?_ (fun _ => ?_); unfold x; try clear x; rotate_left; clear_value x; rotate_right)
    | (extract_lets +onlyGivenNames x; clear_value x)
    | split)

theorem checked_canon (r : State × Except TrapInfo Access) (k : State → Access → Res) (hr_ : Canonical r.1) (hk_ : ∀ (x0_ : State) (x1_ : Access), Canonical x0_ → ResOk (k x0_ x1_)) : ResOk ((checked r k)) := by
  unfold checked
  repeat' (first
    | with_reducible assumption
    | with_reducible apply hk_
    | with_reducible apply resok_trapIn
    | split)

theorem execLd_canon (d : GReg) (a : GReg) (sp : Space) (sz : LdSize) (off : Fin 1024) (s : State) (hc : Canonical s) : OutOk ((execLd d a sp sz off s)) := by
  unfold execLd
  repeat' (first
    | with_reducible assumption
    | with_reducible apply finish_canon
    | with_reducible apply word_canon
    | with_reducible apply checked_canon
    | with_reducible apply State.checkAccess_canon
    | with_reducible apply State.issueAccess_canon
    | intro _)

theorem execSt_canon (d : GReg) (a : GReg) (sp : Space) (sz : StSize) (off : Fin 1024) (s : State) (hc : Canonical s) : OutOk ((execSt d a sp sz off s)) := by
  unfold execSt
  repeat' (first
    | with_reducible assumption
    | with_reducible apply finish_canon
    | with_reducible apply word_canon
    | with_reducible apply checked_canon
    | with_reducible apply State.checkAccess_canon
    | with_reducible apply State.issueAccess_canon
    | intro _)

theorem atomic_canon (op : AmoOp) (d : GReg) (a : GReg) (b : GReg) (sz : AmoSize) (sp : Space) (s : State) (hc : Canonical s) : OutOk ((atomic op d a b sz sp s)) := by
  unfold atomic
  repeat' (first
    | with_reducible assumption
    | with_reducible apply finish_canon
    | with_reducible apply word_canon
    | with_reducible apply checked_canon
    | with_reducible apply State.checkAccess_canon
    | with_reducible apply State.issueAccess_canon
    | intro _)

theorem execAmoAdd_canon (d : GReg) (a : GReg) (b : GReg) (sz : AmoSize) (sp : Space) (s : State) (hc : Canonical s) : OutOk ((execAmoAdd d a b sz sp s)) := by
  unfold execAmoAdd
  repeat' (first
    | with_reducible assumption
    | with_reducible apply atomic_canon)

theorem execAmoMin_canon (d : GReg) (a : GReg) (b : GReg) (sz : AmoSize) (sp : Space) (s : State) (hc : Canonical s) : OutOk ((execAmoMin d a b sz sp s)) := by
  unfold execAmoMin
  repeat' (first
    | with_reducible assumption
    | with_reducible apply atomic_canon)

theorem execAmoMax_canon (d : GReg) (a : GReg) (b : GReg) (sz : AmoSize) (sp : Space) (s : State) (hc : Canonical s) : OutOk ((execAmoMax d a b sz sp s)) := by
  unfold execAmoMax
  repeat' (first
    | with_reducible assumption
    | with_reducible apply atomic_canon)

theorem execAmoMinn_canon (d : GReg) (a : GReg) (b : GReg) (sz : AmoSize) (sp : Space) (s : State) (hc : Canonical s) : OutOk ((execAmoMinn d a b sz sp s)) := by
  unfold execAmoMinn
  repeat' (first
    | with_reducible assumption
    | with_reducible apply atomic_canon)

theorem execAmoMaxn_canon (d : GReg) (a : GReg) (b : GReg) (sz : AmoSize) (sp : Space) (s : State) (hc : Canonical s) : OutOk ((execAmoMaxn d a b sz sp s)) := by
  unfold execAmoMaxn
  repeat' (first
    | with_reducible assumption
    | with_reducible apply atomic_canon)

theorem execAmoAnd_canon (d : GReg) (a : GReg) (b : GReg) (sz : AmoSize) (sp : Space) (s : State) (hc : Canonical s) : OutOk ((execAmoAnd d a b sz sp s)) := by
  unfold execAmoAnd
  repeat' (first
    | with_reducible assumption
    | with_reducible apply atomic_canon)

theorem execAmoOr_canon (d : GReg) (a : GReg) (b : GReg) (sz : AmoSize) (sp : Space) (s : State) (hc : Canonical s) : OutOk ((execAmoOr d a b sz sp s)) := by
  unfold execAmoOr
  repeat' (first
    | with_reducible assumption
    | with_reducible apply atomic_canon)

theorem execAmoXor_canon (d : GReg) (a : GReg) (b : GReg) (sz : AmoSize) (sp : Space) (s : State) (hc : Canonical s) : OutOk ((execAmoXor d a b sz sp s)) := by
  unfold execAmoXor
  repeat' (first
    | with_reducible assumption
    | with_reducible apply atomic_canon)

theorem execAmoSwap_canon (d : GReg) (a : GReg) (b : GReg) (sz : AmoSize) (sp : Space) (s : State) (hc : Canonical s) : OutOk ((execAmoSwap d a b sz sp s)) := by
  unfold execAmoSwap
  repeat' (first
    | with_reducible assumption
    | with_reducible apply atomic_canon)

theorem execAmoCas_canon (d : GReg) (a : GReg) (b : GReg) (sz : AmoSize) (sp : Space) (s : State) (hc : Canonical s) : OutOk ((execAmoCas d a b sz sp s)) := by
  unfold execAmoCas
  repeat' (first
    | with_reducible assumption
    | with_reducible apply atomic_canon)

theorem execPref_canon (a : GReg) (imm : Fin 4096) (s : State) (hc : Canonical s) : OutOk ((execPref a imm s)) := by
  unfold execPref
  repeat' (first
    | with_reducible assumption
    | with_reducible apply finish_canon
    | with_reducible apply word_canon
    | with_reducible apply State.countTrap_canon
    | with_reducible apply State.issueAccess_canon
    | (with_reducible apply State.checkAccess_canon_fwd2; with_reducible assumption)
    | with_reducible apply resok_ok
    | intro _
    | split)

theorem cacheOp_canon (kind : AccKind) (a : GReg) (imm : Fin 4096) (s : State) (hc : Canonical s) : OutOk ((cacheOp kind a imm s)) := by
  unfold cacheOp
  repeat' (first
    | with_reducible assumption
    | with_reducible apply finish_canon
    | with_reducible apply word_canon
    | with_reducible apply checked_canon
    | with_reducible apply State.checkAccess_canon
    | with_reducible apply State.doElems_canon
    | with_reducible apply State.issueAccess_canon
    | with_reducible apply resok_ok
    | intro _
    | (extract_lets +onlyGivenNames x; clear_value x)
    | split)

theorem execFlush_canon (a : GReg) (imm : Fin 4096) (s : State) (hc : Canonical s) : OutOk ((execFlush a imm s)) := by
  unfold execFlush
  repeat' (first
    | with_reducible assumption
    | with_reducible apply cacheOp_canon)

theorem execInval_canon (a : GReg) (imm : Fin 4096) (s : State) (hc : Canonical s) : OutOk ((execInval a imm s)) := by
  unfold execInval
  repeat' (first
    | with_reducible assumption
    | with_reducible apply cacheOp_canon)

theorem execRpub_canon (a : GReg) (s : State) (hc : Canonical s) : OutOk ((execRpub a s)) := by
  unfold execRpub
  repeat' (first
    | with_reducible assumption
    | with_reducible apply finish_canon
    | with_reducible apply word_canon
    | with_reducible apply checked_canon
    | with_reducible apply State.checkAccess_canon
    | with_reducible apply accessFault_canon
    | with_reducible apply State.startAccess_canon
    | with_reducible apply resok_ok
    | with_reducible apply resok_held
    | intro _
    | (extract_lets +onlyGivenNames x; clear_value x)
    | split)

theorem State.fenceL1_canon (s : State) (sid : Nat) (sc : Scope) (mask : Nat) (hc : Canonical s) : Canonical ((State.fenceL1 s sid sc mask)) := by
  unfold State.fenceL1
  repeat' (first
    | with_reducible assumption
    | with_reducible apply State.l1Drop_canon
    | split)

theorem State.takePeerErr_canon (s : State) (sid : Nat) (mask : Nat) (hc : Canonical s) : Canonical ((State.takePeerErr s sid mask)).2 := by
  unfold State.takePeerErr
  repeat' (first
    | with_reducible assumption
    | with_reducible apply State.modStrand_canon
    | split)

theorem State.takePeerErr_canon_fwd2 {s : State} {sid : Nat} {mask : Nat} {w_ : State} {z_ : _} (eq_ : (State.takePeerErr s sid mask) = (z_, w_)) (hc : Canonical s) : Canonical w_ := by
  have := State.takePeerErr_canon s sid mask hc; rw [eq_] at this; exact this

theorem State.resolve_canon (s : State) (sid : Nat) (seq : Nat) (d : Dst) (v : Word) (due : Nat) (hc : Canonical s) : Canonical ((State.resolve s sid seq d v due)) := by
  unfold State.resolve
  repeat' (first
    | with_reducible assumption
    | with_reducible apply State.deliver_canon
    | with_reducible apply State.modStrand_canon)

theorem State.fenceEnd_canon (s : State) (sid : Nat) (d : GReg) (sc : Scope) (mask : Nat) (seq : Nat) (turn : Nat) (hc : Canonical s) : Canonical ((State.fenceEnd s sid d sc mask seq turn)) := by
  unfold State.fenceEnd
  repeat' (first
    | with_reducible assumption
    | with_reducible apply State.fenceL1_canon
    | with_reducible apply State.resolve_canon
    | (with_reducible apply State.takePeerErr_canon_fwd2; with_reducible assumption)
    | (extract_lets +onlyGivenNames x; refine cut (P := Canonical x) ?_ (fun _ => ?_); unfold x; try clear x; rotate_left; clear_value x; rotate_right)
    | split)

theorem execFence_canon (d : GReg) (scope : Scope) (mask : Fin 64) (s : State) (hc : Canonical s) : OutOk ((execFence d scope mask s)) := by
  unfold execFence
  repeat' (first
    | with_reducible assumption
    | with_reducible apply finish_canon
    | with_reducible apply word_canon
    | with_reducible apply State.takePeerErr_canon
    | with_reducible apply State.landG_canon
    | with_reducible apply State.fenceL1_canon
    | with_reducible apply State.promise_canon
    | with_reducible apply State.modMe_canon
    | with_reducible apply resok_ok
    | intro _
    | (extract_lets +onlyGivenNames x; refine cut (P := Canonical x) ?_ (fun _ => ?_); unfold x; try clear x; rotate_left; clear_value x; rotate_right)
    | (extract_lets +onlyGivenNames x; clear_value x)
    | split)

end Sys2Proof.Machine
end

