-- ==== Sys2Proof/Laws/CanonVector.lean ====
section
/-! SUPPORT. Memory, scratchpads and tables stay in their canonical form: vector words. -/
set_option linter.all false
namespace Sys2Proof.Machine

theorem State.oweLane_canon (s : State) (sid : Nat) (hc : Canonical s) : Canonical ((State.oweLane s sid)) := by
  unfold State.oweLane
  repeat' (first
    | with_reducible assumption
    | with_reducible apply State.owe_canon
    | (extract_lets +onlyGivenNames x; clear_value x)
    | split)

theorem State.pushItem_canon (s : State) (i : VItem) (hc : Canonical s) : Canonical ((State.pushItem s i)) := by
  unfold State.pushItem
  repeat' (first
    | with_reducible assumption
    | with_reducible apply State.modMe_canon
    | with_reducible apply State.oweLane_canon
    | (extract_lets +onlyGivenNames x; refine cut (P := Canonical x) ?_ (fun _ => ?_); unfold x; try clear x; rotate_left; clear_value x; rotate_right)
    | (extract_lets +onlyGivenNames x; clear_value x)
    | split)

theorem illegalInBlock_canon (s : State) (hc : Canonical s) : ResOk ((illegalInBlock s)) := by
  unfold illegalInBlock
  repeat' (first
    | with_reducible assumption
    | with_reducible apply State.modMe_canon
    | with_reducible apply resok_trapIn)

theorem notInBlock_canon (s : State) (effect : State → Res) (hc : Canonical s) (heffect_ : ∀ (x0_ : State), Canonical x0_ → ResOk (effect x0_)) : ResOk ((notInBlock s effect)) := by
  unfold notInBlock
  repeat' (first
    | with_reducible assumption
    | with_reducible apply heffect_
    | with_reducible apply illegalInBlock_canon
    | split)

theorem State.closeBlock_canon (s : State) (l : VLoop) (hc : Canonical s) : Canonical ((State.closeBlock s l)) := by
  unfold State.closeBlock
  repeat' (first
    | with_reducible assumption
    | with_reducible apply State.modMe_canon
    | with_reducible apply State.deliver_canon
    | with_reducible apply State.pushItem_canon
    | (extract_lets +onlyGivenNames x; refine cut (P := Canonical x) ?_ (fun _ => ?_); unfold x; try clear x; rotate_left; clear_value x; rotate_right)
    | split)

theorem queueRoom_canon (s : State) (rets : Nat) (entries : Nat) (k : State → Res) (hc : Canonical s) (hk_ : ∀ (x0_ : State), Canonical x0_ → ResOk (k x0_)) : ResOk ((queueRoom s rets entries k)) := by
  unfold queueRoom
  repeat' (first
    | with_reducible assumption
    | with_reducible apply hk_
    | with_reducible apply timingFault_canon
    | with_reducible apply resok_held
    | split)

theorem State.promiseAll_canon (s : State) (l : List Dst) (hc : Canonical s) : Canonical ((State.promiseAll s l)) := by
  unfold State.promiseAll
  repeat' (first
    | with_reducible assumption
    | with_reducible apply State.promise_canon
    | with_reducible apply foldl_canonical
    | intro _)

theorem enqueue_canon (blockOk : Bool) (op : VOp) (s : State) (hc : Canonical s) : ResOk ((enqueue blockOk op s)) := by
  unfold enqueue
  repeat' (first
    | with_reducible assumption
    | with_reducible apply illegalInBlock_canon
    | with_reducible apply queueRoom_canon
    | with_reducible apply State.promiseAll_canon
    | with_reducible apply State.closeBlock_canon
    | with_reducible apply State.modMe_canon
    | with_reducible apply State.promise_canon
    | with_reducible apply State.pushItem_canon
    | with_reducible apply resok_ok
    | with_reducible apply foldl_canonical
    | intro _
    | (extract_lets +onlyGivenNames x; clear_value x)
    | split)

theorem enqueue_canon_fwd {blockOk : Bool} {op : VOp} {s : State} {w_ : State} (eq_ : (enqueue blockOk op s) = .ok w_) (hc : Canonical s) : Canonical w_ := by
  have := enqueue_canon blockOk op s hc; rw [eq_] at this; exact this

theorem vectorWord_canon (src : List Dst) (blockOk : Bool) (op : State → VOp) (s : State) (hc : Canonical s) : ResOk ((vectorWord src blockOk op s)) := by
  unfold vectorWord
  repeat' (first
    | with_reducible assumption
    | with_reducible apply word_canon
    | with_reducible apply enqueue_canon
    | intro _)

theorem plainVec_canon (op : VOp) (s : State) (hc : Canonical s) : OutOk ((plainVec op s)) := by
  unfold plainVec
  repeat' (first
    | with_reducible assumption
    | with_reducible apply finish_canon
    | with_reducible apply vectorWord_canon)

theorem execSetvl_canon (d : GReg) (a : GReg) (e : EW) (s : State) (hc : Canonical s) : OutOk ((execSetvl d a e s)) := by
  unfold execSetvl
  repeat' (first
    | with_reducible assumption
    | with_reducible apply finish_canon
    | with_reducible apply word_canon
    | with_reducible apply notInBlock_canon
    | with_reducible apply State.landWide_canon
    | with_reducible apply State.landG_canon
    | with_reducible apply resok_ok
    | intro _)

theorem execVsync_canon (s : State) (hc : Canonical s) : OutOk ((execVsync s)) := by
  unfold execVsync
  repeat' (first
    | with_reducible assumption
    | with_reducible apply finish_canon
    | with_reducible apply word_canon
    | with_reducible apply notInBlock_canon
    | with_reducible apply State.modMe_canon
    | with_reducible apply resok_ok
    | intro _
    | split)

theorem execVloop_canon (d : GReg) (a : GReg) (n : Fin 16) (s : State) (hc : Canonical s) : OutOk ((execVloop d a n s)) := by
  unfold execVloop
  repeat' (first
    | with_reducible assumption
    | with_reducible apply finish_canon
    | with_reducible apply word_canon
    | with_reducible apply notInBlock_canon
    | with_reducible apply queueRoom_canon
    | with_reducible apply State.promise_canon
    | with_reducible apply State.modMe_canon
    | with_reducible apply resok_ok
    | intro _
    | split)

theorem execVadd_canon (d : VecReg) (a : VecReg) (b : VecReg) (m : MReg) (e : EW) (s : State) (hc : Canonical s) : OutOk ((execVadd d a b m e s)) := by
  unfold execVadd
  repeat' (first
    | with_reducible assumption
    | with_reducible apply plainVec_canon)

theorem execVsub_canon (d : VecReg) (a : VecReg) (b : VecReg) (m : MReg) (e : EW) (s : State) (hc : Canonical s) : OutOk ((execVsub d a b m e s)) := by
  unfold execVsub
  repeat' (first
    | with_reducible assumption
    | with_reducible apply plainVec_canon)

theorem execVmul_canon (d : VecReg) (a : VecReg) (b : VecReg) (m : MReg) (e : EW) (s : State) (hc : Canonical s) : OutOk ((execVmul d a b m e s)) := by
  unfold execVmul
  repeat' (first
    | with_reducible assumption
    | with_reducible apply plainVec_canon)

theorem execVmulh_canon (d : VecReg) (a : VecReg) (b : VecReg) (m : MReg) (e : EW) (s : State) (hc : Canonical s) : OutOk ((execVmulh d a b m e s)) := by
  unfold execVmulh
  repeat' (first
    | with_reducible assumption
    | with_reducible apply plainVec_canon)

theorem execVmin_canon (d : VecReg) (a : VecReg) (b : VecReg) (m : MReg) (e : EW) (s : State) (hc : Canonical s) : OutOk ((execVmin d a b m e s)) := by
  unfold execVmin
  repeat' (first
    | with_reducible assumption
    | with_reducible apply plainVec_canon)

theorem execVmax_canon (d : VecReg) (a : VecReg) (b : VecReg) (m : MReg) (e : EW) (s : State) (hc : Canonical s) : OutOk ((execVmax d a b m e s)) := by
  unfold execVmax
  repeat' (first
    | with_reducible assumption
    | with_reducible apply plainVec_canon)

theorem execVminn_canon (d : VecReg) (a : VecReg) (b : VecReg) (m : MReg) (e : EW) (s : State) (hc : Canonical s) : OutOk ((execVminn d a b m e s)) := by
  unfold execVminn
  repeat' (first
    | with_reducible assumption
    | with_reducible apply plainVec_canon)

theorem execVmaxn_canon (d : VecReg) (a : VecReg) (b : VecReg) (m : MReg) (e : EW) (s : State) (hc : Canonical s) : OutOk ((execVmaxn d a b m e s)) := by
  unfold execVmaxn
  repeat' (first
    | with_reducible assumption
    | with_reducible apply plainVec_canon)

theorem execVand_canon (d : VecReg) (a : VecReg) (b : VecReg) (m : MReg) (e : EW) (s : State) (hc : Canonical s) : OutOk ((execVand d a b m e s)) := by
  unfold execVand
  repeat' (first
    | with_reducible assumption
    | with_reducible apply plainVec_canon)

theorem execVor_canon (d : VecReg) (a : VecReg) (b : VecReg) (m : MReg) (e : EW) (s : State) (hc : Canonical s) : OutOk ((execVor d a b m e s)) := by
  unfold execVor
  repeat' (first
    | with_reducible assumption
    | with_reducible apply plainVec_canon)

theorem execVxor_canon (d : VecReg) (a : VecReg) (b : VecReg) (m : MReg) (e : EW) (s : State) (hc : Canonical s) : OutOk ((execVxor d a b m e s)) := by
  unfold execVxor
  repeat' (first
    | with_reducible assumption
    | with_reducible apply plainVec_canon)

theorem execVshl_canon (d : VecReg) (a : VecReg) (b : VecReg) (m : MReg) (e : EW) (s : State) (hc : Canonical s) : OutOk ((execVshl d a b m e s)) := by
  unfold execVshl
  repeat' (first
    | with_reducible assumption
    | with_reducible apply plainVec_canon)

theorem execVshr_canon (d : VecReg) (a : VecReg) (b : VecReg) (m : MReg) (e : EW) (s : State) (hc : Canonical s) : OutOk ((execVshr d a b m e s)) := by
  unfold execVshr
  repeat' (first
    | with_reducible assumption
    | with_reducible apply plainVec_canon)

theorem execVsar_canon (d : VecReg) (a : VecReg) (b : VecReg) (m : MReg) (e : EW) (s : State) (hc : Canonical s) : OutOk ((execVsar d a b m e s)) := by
  unfold execVsar
  repeat' (first
    | with_reducible assumption
    | with_reducible apply plainVec_canon)

theorem execVabs_canon (d : VecReg) (a : VecReg) (m : MReg) (e : EW) (s : State) (hc : Canonical s) : OutOk ((execVabs d a m e s)) := by
  unfold execVabs
  repeat' (first
    | with_reducible assumption
    | with_reducible apply plainVec_canon)

theorem execVneg_canon (d : VecReg) (a : VecReg) (m : MReg) (e : EW) (s : State) (hc : Canonical s) : OutOk ((execVneg d a m e s)) := by
  unfold execVneg
  repeat' (first
    | with_reducible assumption
    | with_reducible apply plainVec_canon)

theorem execVsel_canon (d : VecReg) (a : VecReg) (b : VecReg) (m : MReg) (e : EW) (s : State) (hc : Canonical s) : OutOk ((execVsel d a b m e s)) := by
  unfold execVsel
  repeat' (first
    | with_reducible assumption
    | with_reducible apply plainVec_canon)

theorem execVfadd_canon (d : VecReg) (a : VecReg) (b : VecReg) (m : MReg) (e : FEW) (s : State) (hc : Canonical s) : OutOk ((execVfadd d a b m e s)) := by
  unfold execVfadd
  repeat' (first
    | with_reducible assumption
    | with_reducible apply plainVec_canon)

theorem execVfsub_canon (d : VecReg) (a : VecReg) (b : VecReg) (m : MReg) (e : FEW) (s : State) (hc : Canonical s) : OutOk ((execVfsub d a b m e s)) := by
  unfold execVfsub
  repeat' (first
    | with_reducible assumption
    | with_reducible apply plainVec_canon)

theorem execVfmul_canon (d : VecReg) (a : VecReg) (b : VecReg) (m : MReg) (e : FEW) (s : State) (hc : Canonical s) : OutOk ((execVfmul d a b m e s)) := by
  unfold execVfmul
  repeat' (first
    | with_reducible assumption
    | with_reducible apply plainVec_canon)

theorem execVfma_canon (d : VecReg) (a : VecReg) (b : VecReg) (m : MReg) (e : FEW) (s : State) (hc : Canonical s) : OutOk ((execVfma d a b m e s)) := by
  unfold execVfma
  repeat' (first
    | with_reducible assumption
    | with_reducible apply plainVec_canon)

theorem execVfms_canon (d : VecReg) (a : VecReg) (b : VecReg) (m : MReg) (e : FEW) (s : State) (hc : Canonical s) : OutOk ((execVfms d a b m e s)) := by
  unfold execVfms
  repeat' (first
    | with_reducible assumption
    | with_reducible apply plainVec_canon)

theorem execVfmin_canon (d : VecReg) (a : VecReg) (b : VecReg) (m : MReg) (e : FEW) (s : State) (hc : Canonical s) : OutOk ((execVfmin d a b m e s)) := by
  unfold execVfmin
  repeat' (first
    | with_reducible assumption
    | with_reducible apply plainVec_canon)

theorem execVfmax_canon (d : VecReg) (a : VecReg) (b : VecReg) (m : MReg) (e : FEW) (s : State) (hc : Canonical s) : OutOk ((execVfmax d a b m e s)) := by
  unfold execVfmax
  repeat' (first
    | with_reducible assumption
    | with_reducible apply plainVec_canon)

theorem execVfabs_canon (d : VecReg) (a : VecReg) (m : MReg) (e : FEW) (s : State) (hc : Canonical s) : OutOk ((execVfabs d a m e s)) := by
  unfold execVfabs
  repeat' (first
    | with_reducible assumption
    | with_reducible apply plainVec_canon)

theorem execVfneg_canon (d : VecReg) (a : VecReg) (m : MReg) (e : FEW) (s : State) (hc : Canonical s) : OutOk ((execVfneg d a m e s)) := by
  unfold execVfneg
  repeat' (first
    | with_reducible assumption
    | with_reducible apply plainVec_canon)

theorem execVcmpEq_canon (d : MReg) (a : VecReg) (b : VecReg) (m : MReg) (e : EW) (s : State) (hc : Canonical s) : OutOk ((execVcmpEq d a b m e s)) := by
  unfold execVcmpEq
  repeat' (first
    | with_reducible assumption
    | with_reducible apply plainVec_canon)

theorem execVcmpNe_canon (d : MReg) (a : VecReg) (b : VecReg) (m : MReg) (e : EW) (s : State) (hc : Canonical s) : OutOk ((execVcmpNe d a b m e s)) := by
  unfold execVcmpNe
  repeat' (first
    | with_reducible assumption
    | with_reducible apply plainVec_canon)

theorem execVcmpLt_canon (d : MReg) (a : VecReg) (b : VecReg) (m : MReg) (e : EW) (s : State) (hc : Canonical s) : OutOk ((execVcmpLt d a b m e s)) := by
  unfold execVcmpLt
  repeat' (first
    | with_reducible assumption
    | with_reducible apply plainVec_canon)

theorem execVcmpGe_canon (d : MReg) (a : VecReg) (b : VecReg) (m : MReg) (e : EW) (s : State) (hc : Canonical s) : OutOk ((execVcmpGe d a b m e s)) := by
  unfold execVcmpGe
  repeat' (first
    | with_reducible assumption
    | with_reducible apply plainVec_canon)

theorem execVcmpLtn_canon (d : MReg) (a : VecReg) (b : VecReg) (m : MReg) (e : EW) (s : State) (hc : Canonical s) : OutOk ((execVcmpLtn d a b m e s)) := by
  unfold execVcmpLtn
  repeat' (first
    | with_reducible assumption
    | with_reducible apply plainVec_canon)

theorem execVcmpGen_canon (d : MReg) (a : VecReg) (b : VecReg) (m : MReg) (e : EW) (s : State) (hc : Canonical s) : OutOk ((execVcmpGen d a b m e s)) := by
  unfold execVcmpGen
  repeat' (first
    | with_reducible assumption
    | with_reducible apply plainVec_canon)

theorem execVcmpFeq_canon (d : MReg) (a : VecReg) (b : VecReg) (m : MReg) (e : FEW) (s : State) (hc : Canonical s) : OutOk ((execVcmpFeq d a b m e s)) := by
  unfold execVcmpFeq
  repeat' (first
    | with_reducible assumption
    | with_reducible apply plainVec_canon)

theorem execVcmpFne_canon (d : MReg) (a : VecReg) (b : VecReg) (m : MReg) (e : FEW) (s : State) (hc : Canonical s) : OutOk ((execVcmpFne d a b m e s)) := by
  unfold execVcmpFne
  repeat' (first
    | with_reducible assumption
    | with_reducible apply plainVec_canon)

theorem execVcmpFlt_canon (d : MReg) (a : VecReg) (b : VecReg) (m : MReg) (e : FEW) (s : State) (hc : Canonical s) : OutOk ((execVcmpFlt d a b m e s)) := by
  unfold execVcmpFlt
  repeat' (first
    | with_reducible assumption
    | with_reducible apply plainVec_canon)

theorem execVcmpFge_canon (d : MReg) (a : VecReg) (b : VecReg) (m : MReg) (e : FEW) (s : State) (hc : Canonical s) : OutOk ((execVcmpFge d a b m e s)) := by
  unfold execVcmpFge
  repeat' (first
    | with_reducible assumption
    | with_reducible apply plainVec_canon)

theorem execVcmpFun_canon (d : MReg) (a : VecReg) (b : VecReg) (m : MReg) (e : FEW) (s : State) (hc : Canonical s) : OutOk ((execVcmpFun d a b m e s)) := by
  unfold execVcmpFun
  repeat' (first
    | with_reducible assumption
    | with_reducible apply plainVec_canon)

theorem formatVec_canon (ok : Bool) (fmt : Nat) (op : VOp) (s : State) (hc : Canonical s) : OutOk ((formatVec ok fmt op s)) := by
  unfold formatVec
  repeat' (first
    | with_reducible assumption
    | with_reducible apply finish_canon
    | with_reducible apply illegalInstr_canon
    | with_reducible apply vectorWord_canon
    | with_reducible apply illegalFormat_canon
    | split)

theorem execVcvt_canon (d : VecReg) (a : VecReg) (fmt : Fin 32) (m : MReg) (e : FEW) (rnd : Rnd) (s : State) (hc : Canonical s) : OutOk ((execVcvt d a fmt m e rnd s)) := by
  unfold execVcvt
  repeat' (first
    | with_reducible assumption
    | with_reducible apply formatVec_canon)

theorem execVqnt_canon (d : VecReg) (a : VecReg) (fmt : Fin 32) (m : MReg) (e : FEW) (s : State) (hc : Canonical s) : OutOk ((execVqnt d a fmt m e s)) := by
  unfold execVqnt
  repeat' (first
    | with_reducible assumption
    | with_reducible apply formatVec_canon)

theorem execVdqnt_canon (d : VecReg) (a : VecReg) (fmt : Fin 32) (m : MReg) (e : FEW) (rnd : Rnd) (s : State) (hc : Canonical s) : OutOk ((execVdqnt d a fmt m e rnd s)) := by
  unfold execVdqnt
  repeat' (first
    | with_reducible assumption
    | with_reducible apply formatVec_canon)

theorem execVrndi_canon (d : VecReg) (a : VecReg) (m : MReg) (e : FEW) (rnd : Rnd) (s : State) (hc : Canonical s) : OutOk ((execVrndi d a m e rnd s)) := by
  unfold execVrndi
  repeat' (first
    | with_reducible assumption
    | with_reducible apply plainVec_canon)

theorem execVrcpa_canon (d : VecReg) (a : VecReg) (m : MReg) (e : FEW) (s : State) (hc : Canonical s) : OutOk ((execVrcpa d a m e s)) := by
  unfold execVrcpa
  repeat' (first
    | with_reducible assumption
    | with_reducible apply plainVec_canon)

theorem execVrsqa_canon (d : VecReg) (a : VecReg) (m : MReg) (e : FEW) (s : State) (hc : Canonical s) : OutOk ((execVrsqa d a m e s)) := by
  unfold execVrsqa
  repeat' (first
    | with_reducible assumption
    | with_reducible apply plainVec_canon)

theorem execVexp2a_canon (d : VecReg) (a : VecReg) (m : MReg) (e : FEW) (s : State) (hc : Canonical s) : OutOk ((execVexp2a d a m e s)) := by
  unfold execVexp2a
  repeat' (first
    | with_reducible assumption
    | with_reducible apply plainVec_canon)

theorem execVlog2a_canon (d : VecReg) (a : VecReg) (m : MReg) (e : FEW) (s : State) (hc : Canonical s) : OutOk ((execVlog2a d a m e s)) := by
  unfold execVlog2a
  repeat' (first
    | with_reducible assumption
    | with_reducible apply plainVec_canon)

theorem execVredsum_canon (d : VecReg) (a : VecReg) (k : RedT) (m : MReg) (s : State) (hc : Canonical s) : OutOk ((execVredsum d a k m s)) := by
  unfold execVredsum
  repeat' (first
    | with_reducible assumption
    | with_reducible apply plainVec_canon)

theorem execVredmax_canon (d : VecReg) (a : VecReg) (k : RedT) (m : MReg) (s : State) (hc : Canonical s) : OutOk ((execVredmax d a k m s)) := by
  unfold execVredmax
  repeat' (first
    | with_reducible assumption
    | with_reducible apply plainVec_canon)

theorem execVredmin_canon (d : VecReg) (a : VecReg) (k : RedT) (m : MReg) (s : State) (hc : Canonical s) : OutOk ((execVredmin d a k m s)) := by
  unfold execVredmin
  repeat' (first
    | with_reducible assumption
    | with_reducible apply plainVec_canon)

theorem execVscan_canon (d : VecReg) (a : VecReg) (op : ScanOp) (k : RedT) (m : MReg) (s : State) (hc : Canonical s) : OutOk ((execVscan d a op k m s)) := by
  unfold execVscan
  repeat' (first
    | with_reducible assumption
    | with_reducible apply plainVec_canon)

theorem execVdot4_canon (d : VecReg) (a : VecReg) (b : VecReg) (m : MReg) (s : State) (hc : Canonical s) : OutOk ((execVdot4 d a b m s)) := by
  unfold execVdot4
  repeat' (first
    | with_reducible assumption
    | with_reducible apply plainVec_canon)

theorem execVperm_canon (d : VecReg) (a : VecReg) (b : VecReg) (m : MReg) (e : EW) (s : State) (hc : Canonical s) : OutOk ((execVperm d a b m e s)) := by
  unfold execVperm
  repeat' (first
    | with_reducible assumption
    | with_reducible apply plainVec_canon)

theorem execVcomp_canon (d : VecReg) (a : VecReg) (m : MReg) (e : EW) (s : State) (hc : Canonical s) : OutOk ((execVcomp d a m e s)) := by
  unfold execVcomp
  repeat' (first
    | with_reducible assumption
    | with_reducible apply plainVec_canon)

theorem execVexpd_canon (d : VecReg) (a : VecReg) (m : MReg) (e : EW) (s : State) (hc : Canonical s) : OutOk ((execVexpd d a m e s)) := by
  unfold execVexpd
  repeat' (first
    | with_reducible assumption
    | with_reducible apply plainVec_canon)

theorem execViota_canon (d : VecReg) (m : MReg) (e : EW) (s : State) (hc : Canonical s) : OutOk ((execViota d m e s)) := by
  unfold execViota
  repeat' (first
    | with_reducible assumption
    | with_reducible apply plainVec_canon)

theorem execVslup_canon (d : VecReg) (a : VecReg) (b : GReg) (m : MReg) (e : EW) (s : State) (hc : Canonical s) : OutOk ((execVslup d a b m e s)) := by
  unfold execVslup
  repeat' (first
    | with_reducible assumption
    | with_reducible apply finish_canon
    | with_reducible apply vectorWord_canon)

theorem execVsldn_canon (d : VecReg) (a : VecReg) (b : GReg) (m : MReg) (e : EW) (s : State) (hc : Canonical s) : OutOk ((execVsldn d a b m e s)) := by
  unfold execVsldn
  repeat' (first
    | with_reducible assumption
    | with_reducible apply finish_canon
    | with_reducible apply vectorWord_canon)

theorem execVbcast_canon (d : VecReg) (a : GReg) (m : MReg) (e : EW) (s : State) (hc : Canonical s) : OutOk ((execVbcast d a m e s)) := by
  unfold execVbcast
  repeat' (first
    | with_reducible assumption
    | with_reducible apply finish_canon
    | with_reducible apply vectorWord_canon)

theorem execVextr_canon (d : GReg) (a : VecReg) (b : GReg) (e : EW) (s : State) (hc : Canonical s) : OutOk ((execVextr d a b e s)) := by
  unfold execVextr
  repeat' (first
    | with_reducible assumption
    | with_reducible apply finish_canon
    | with_reducible apply vectorWord_canon)

theorem execVins_canon (d : VecReg) (a : GReg) (b : GReg) (e : EW) (s : State) (hc : Canonical s) : OutOk ((execVins d a b e s)) := by
  unfold execVins
  repeat' (first
    | with_reducible assumption
    | with_reducible apply finish_canon
    | with_reducible apply vectorWord_canon)

theorem execMand_canon (d : MReg) (a : MReg) (b : MReg) (e : EW) (s : State) (hc : Canonical s) : OutOk ((execMand d a b e s)) := by
  unfold execMand
  repeat' (first
    | with_reducible assumption
    | with_reducible apply plainVec_canon)

theorem execMor_canon (d : MReg) (a : MReg) (b : MReg) (e : EW) (s : State) (hc : Canonical s) : OutOk ((execMor d a b e s)) := by
  unfold execMor
  repeat' (first
    | with_reducible assumption
    | with_reducible apply plainVec_canon)

theorem execMxor_canon (d : MReg) (a : MReg) (b : MReg) (e : EW) (s : State) (hc : Canonical s) : OutOk ((execMxor d a b e s)) := by
  unfold execMxor
  repeat' (first
    | with_reducible assumption
    | with_reducible apply plainVec_canon)

theorem execMnot_canon (d : MReg) (a : MReg) (e : EW) (s : State) (hc : Canonical s) : OutOk ((execMnot d a e s)) := by
  unfold execMnot
  repeat' (first
    | with_reducible assumption
    | with_reducible apply plainVec_canon)

theorem execMcnt_canon (d : GReg) (a : MReg) (e : EW) (s : State) (hc : Canonical s) : OutOk ((execMcnt d a e s)) := by
  unfold execMcnt
  repeat' (first
    | with_reducible assumption
    | with_reducible apply plainVec_canon)

theorem execMfirst_canon (d : GReg) (a : MReg) (e : EW) (s : State) (hc : Canonical s) : OutOk ((execMfirst d a e s)) := by
  unfold execMfirst
  repeat' (first
    | with_reducible assumption
    | with_reducible apply plainVec_canon)

theorem execQand_canon (d : QReg) (a : QReg) (b : QReg) (e : EW) (s : State) (hc : Canonical s) : OutOk ((execQand d a b e s)) := by
  unfold execQand
  repeat' (first
    | with_reducible assumption
    | with_reducible apply plainVec_canon)

theorem execQclr_canon (d : QReg) (a : MReg) (e : EW) (s : State) (hc : Canonical s) : OutOk ((execQclr d a e s)) := by
  unfold execQclr
  repeat' (first
    | with_reducible assumption
    | with_reducible apply plainVec_canon)

theorem execVrng_canon (d : VecReg) (a : GReg) (b : GReg) (m : MReg) (e : EW) (s : State) (hc : Canonical s) : OutOk ((execVrng d a b m e s)) := by
  unfold execVrng
  repeat' (first
    | with_reducible assumption
    | with_reducible apply finish_canon
    | with_reducible apply vectorWord_canon)

theorem State.landVec_canon (s : State) (sid : Nat) (seq : Nat) (turn : Nat) (d : Dst) (v : Nat) (mask : Nat) (due : Nat) (hc : Canonical s) : Canonical ((State.landVec s sid seq turn d v mask due)) := by
  unfold State.landVec
  repeat' (first
    | with_reducible assumption
    | with_reducible apply State.deliver_canon
    | with_reducible apply State.owe_canon
    | with_reducible apply State.addPend_canon
    | (extract_lets +onlyGivenNames x; clear_value x)
    | split)

theorem State.laneTake_canon (s : State) (l : Lane) (occ : Nat) (hc : Canonical s) : Canonical ((State.laneTake s l occ)) := by
  unfold State.laneTake
  repeat' (first
    | with_reducible assumption
    | with_reducible apply State.perf_canon
    | with_reducible apply State.modStrand_canon)

theorem State.laneArith_canon (s : State) (l : Lane) (o : LaneOut) (hc : Canonical s) : Canonical ((State.laneArith s l o)) := by
  unfold State.laneArith
  repeat' (first
    | with_reducible assumption
    | with_reducible apply State.laneTake_canon
    | with_reducible apply State.landVec_canon
    | with_reducible apply State.setDue_canon
    | with_reducible apply foldl_canonical
    | intro _
    | split)

theorem State.laneStartAccess_canon (s : State) (l : Lane) (a : Access) (w : Nat) (vl : Nat) (nc : Nat) (depth : Nat) (hc : Canonical s) : Canonical ((State.laneStartAccess s l a w vl nc depth)) := by
  unfold State.laneStartAccess
  repeat' (first
    | with_reducible assumption
    | with_reducible apply State.laneTake_canon
    | with_reducible apply State.addPend_canon
    | with_reducible apply State.fresh_canon
    | with_reducible apply State.finishAccess_canon
    | with_reducible apply State.startAccess_canon
    | (extract_lets +onlyGivenNames x; refine cut (P := Canonical x) ?_ (fun _ => ?_); unfold x; try clear x; rotate_left; clear_value x; rotate_right)
    | (extract_lets +onlyGivenNames x; clear_value x)
    | split)

theorem State.laneVmem_canon (s : State) (l : Lane) (ad : VAddr) (w : Nat) (clu : Bool) (load : Bool) (whole : Bool) (uk : UnitKind) (mk : Access → Access) (data : Strand → Nat → Word) (hc : Canonical s) : ExcOk ((State.laneVmem s l ad w clu load whole uk mk data)) := by
  unfold State.laneVmem
  repeat' (first
    | with_reducible assumption
    | with_reducible apply State.modStrand_canon
    | with_reducible apply State.laneStartAccess_canon
    | with_reducible apply excok_error
    | with_reducible apply excok_ok
    | (extract_lets +onlyGivenNames x; refine cut (P := Canonical x) ?_ (fun _ => ?_); unfold x; try clear x; rotate_left; clear_value x; rotate_right)
    | (extract_lets +onlyGivenNames x; clear_value x)
    | split)

theorem State.laneVseg_canon (s : State) (l : Lane) (d : VecReg) (base : Word) (fmt : Nat) (clu : Bool) (hc : Canonical s) : ExcOk ((State.laneVseg s l d base fmt clu)) := by
  unfold State.laneVseg
  repeat' (first
    | with_reducible assumption
    | with_reducible apply State.modStrand_canon
    | with_reducible apply State.laneStartAccess_canon
    | with_reducible apply excok_error
    | with_reducible apply excok_ok
    | (extract_lets +onlyGivenNames x; refine cut (P := Canonical x) ?_ (fun _ => ?_); unfold x; try clear x; rotate_left; clear_value x; rotate_right)
    | (extract_lets +onlyGivenNames x; clear_value x)
    | split)

theorem streamChecks_canon (sid : Nat) (bytes : Nat) (st : StReg) (r : Right) (v : BitVec 128) (z5 : List Nat) (z6 : State) (hc : Canonical z6) : Canonical ((streamChecks sid bytes st r v z5 z6)).1 := by
  induction z5 generalizing z6 with
  | nil => exact hc
  | cons i t ih =>
    unfold streamChecks
    extract_lets ea a
    clear_value a ea
    split
    · exact hc
    · split
      · exact hc
      · next s1 a e =>
        have h1 : Canonical s1 := State.virtTarget_canon_fwd2 e hc
        have := ih s1 h1
        exact this

theorem streamChecks_canon_fwd2 {sid : Nat} {bytes : Nat} {st : StReg} {r : Right} {v : BitVec 128} {z5 : List Nat} {z6 : State} {w_ : State} {z_ : _} (eq_ : (streamChecks sid bytes st r v z5 z6) = (w_, z_)) (hc : Canonical z6) : Canonical w_ := by
  have := streamChecks_canon sid bytes st r v z5 z6 hc; rw [eq_] at this; exact this

theorem State.streamAdvance_canon (s : State) (l : Lane) (st : StReg) (n : Nat) (vl : Nat) (occ : Nat) (load : Bool) (hc : Canonical s) : Canonical ((State.streamAdvance s l st n vl occ load)) := by
  unfold State.streamAdvance
  repeat' (first
    | with_reducible assumption
    | with_reducible apply State.modStrand_canon
    | with_reducible apply State.walkAhead_canon
    | with_reducible apply State.landVec_canon
    | (extract_lets +onlyGivenNames x; refine cut (P := Canonical x) ?_ (fun _ => ?_); unfold x; try clear x; rotate_left; clear_value x; rotate_right)
    | (extract_lets +onlyGivenNames x; clear_value x)
    | split)

theorem State.streamAccess_canon (s : State) (l : Lane) (as : List (Nat × Access)) (w : Nat) (n : Nat) (depth : Nat) (mk : Access → Access) (data : Nat → Word) (hc : Canonical s) : Canonical ((State.streamAccess s l as w n depth mk data)) := by
  unfold State.streamAccess
  repeat' (first
    | with_reducible assumption
    | with_reducible apply State.laneTake_canon
    | with_reducible apply State.addPend_canon
    | with_reducible apply State.fresh_canon
    | with_reducible apply State.finishAccess_canon
    | with_reducible apply State.startAccess_canon
    | (extract_lets +onlyGivenNames x; refine cut (P := Canonical x) ?_ (fun _ => ?_); unfold x; try clear x; rotate_left; clear_value x; rotate_right)
    | (extract_lets +onlyGivenNames x; clear_value x)
    | split)

theorem State.laneSld_canon (s : State) (l : Lane) (d : VecReg) (st : StReg) (w : Nat) (hc : Canonical s) : BeginOk ((State.laneSld s l d st w)) := by
  unfold State.laneSld
  repeat' (first
    | with_reducible assumption
    | with_reducible apply State.streamAdvance_canon
    | with_reducible apply State.streamAccess_canon
    | (with_reducible apply streamChecks_canon_fwd2; with_reducible assumption)
    | with_reducible apply beginok_trap
    | with_reducible apply beginok_done
    | (extract_lets +onlyGivenNames x; refine cut (P := Canonical x) ?_ (fun _ => ?_); unfold x; try clear x; rotate_left; clear_value x; rotate_right)
    | (extract_lets +onlyGivenNames x; clear_value x)
    | split)

theorem State.laneSst_canon (s : State) (l : Lane) (d : VecReg) (st : StReg) (w : Nat) (hc : Canonical s) : BeginOk ((State.laneSst s l d st w)) := by
  unfold State.laneSst
  repeat' (first
    | with_reducible assumption
    | with_reducible apply State.streamAdvance_canon
    | with_reducible apply State.streamAccess_canon
    | (with_reducible apply streamChecks_canon_fwd2; with_reducible assumption)
    | with_reducible apply beginok_wait
    | with_reducible apply beginok_trap
    | with_reducible apply beginok_done
    | (extract_lets +onlyGivenNames x; refine cut (P := Canonical x) ?_ (fun _ => ?_); unfold x; try clear x; rotate_left; clear_value x; rotate_right)
    | (extract_lets +onlyGivenNames x; clear_value x)
    | split)

theorem State.laneMem_canon (s : State) (l : Lane) (hc : Canonical s) : OptBegin ((State.laneMem s l)) := by
  unfold State.laneMem
  repeat' (first
    | with_reducible assumption
    | with_reducible apply State.laneVmem_canon
    | with_reducible apply State.laneVseg_canon
    | with_reducible apply State.laneSld_canon
    | with_reducible apply State.laneSst_canon
    | with_reducible apply optbegin_none
    | with_reducible apply optbegin_some
    | with_reducible apply beginok_trap
    | with_reducible apply beginok_done
    | with_reducible apply_assumption -exfalso -symm
    | intro _
    | (extract_lets +onlyGivenNames x; refine cut (P := ∀ r, ExcOk r → OptBegin (x r)) ?_ (fun _ => ?_); unfold x; try clear x; rotate_left; clear_value x; rotate_right)
    | (extract_lets +onlyGivenNames x; clear_value x)
    | split)

theorem State.laneMem_canon_fwd {s : State} {l : Lane} {w_ : Begin} (eq_ : (State.laneMem s l) = some w_) (hc : Canonical s) : BeginOk w_ := by
  have := State.laneMem_canon s l hc; rw [eq_] at this; exact this

theorem execVld_canon (d : VecReg) (a : GReg) (m : MReg) (e : EW) (clu : Bool) (s : State) (hc : Canonical s) : OutOk ((execVld d a m e clu s)) := by
  unfold execVld
  repeat' (first
    | with_reducible assumption
    | with_reducible apply finish_canon
    | with_reducible apply vectorWord_canon)

theorem execVst_canon (d : VecReg) (a : GReg) (m : MReg) (e : EW) (clu : Bool) (s : State) (hc : Canonical s) : OutOk ((execVst d a m e clu s)) := by
  unfold execVst
  repeat' (first
    | with_reducible assumption
    | with_reducible apply finish_canon
    | with_reducible apply vectorWord_canon)

theorem execVlds_canon (d : VecReg) (a : GReg) (b : GReg) (m : MReg) (e : EW) (clu : Bool) (s : State) (hc : Canonical s) : OutOk ((execVlds d a b m e clu s)) := by
  unfold execVlds
  repeat' (first
    | with_reducible assumption
    | with_reducible apply finish_canon
    | with_reducible apply vectorWord_canon)

theorem execVsts_canon (d : VecReg) (a : GReg) (b : GReg) (m : MReg) (e : EW) (clu : Bool) (s : State) (hc : Canonical s) : OutOk ((execVsts d a b m e clu s)) := by
  unfold execVsts
  repeat' (first
    | with_reducible assumption
    | with_reducible apply finish_canon
    | with_reducible apply vectorWord_canon)

theorem execVldx_canon (d : VecReg) (a : GReg) (b : VecReg) (m : MReg) (e : EW) (clu : Bool) (s : State) (hc : Canonical s) : OutOk ((execVldx d a b m e clu s)) := by
  unfold execVldx
  repeat' (first
    | with_reducible assumption
    | with_reducible apply finish_canon
    | with_reducible apply vectorWord_canon)

theorem execVstx_canon (d : VecReg) (a : GReg) (b : VecReg) (m : MReg) (e : EW) (clu : Bool) (s : State) (hc : Canonical s) : OutOk ((execVstx d a b m e clu s)) := by
  unfold execVstx
  repeat' (first
    | with_reducible assumption
    | with_reducible apply finish_canon
    | with_reducible apply vectorWord_canon)

theorem execVseg_canon (d : VecReg) (a : GReg) (fmt : Fin 32) (clu : Bool) (s : State) (hc : Canonical s) : OutOk ((execVseg d a fmt clu s)) := by
  unfold execVseg
  repeat' (first
    | with_reducible assumption
    | with_reducible apply finish_canon
    | with_reducible apply illegalInstr_canon
    | with_reducible apply vectorWord_canon
    | with_reducible apply illegalFormat_canon
    | split)

theorem freeOnly_canon (s : State) (k : State → Res) (hc : Canonical s) (hk_ : ∀ (x0_ : State), Canonical x0_ → ResOk (k x0_)) : ResOk ((freeOnly s k)) := by
  unfold freeOnly
  repeat' (first
    | with_reducible assumption
    | with_reducible apply hk_
    | with_reducible apply accessFault_canon
    | split)

theorem execSset_canon (d : StReg) (a : GReg) (b : GReg) (s : State) (hc : Canonical s) : OutOk ((execSset d a b s)) := by
  unfold execSset
  repeat' (first
    | with_reducible assumption
    | with_reducible apply finish_canon
    | with_reducible apply word_canon
    | with_reducible apply notInBlock_canon
    | with_reducible apply freeOnly_canon
    | with_reducible apply accessFault_canon
    | with_reducible apply State.walkAhead_canon
    | with_reducible apply State.modMe_canon
    | with_reducible apply State.landWide_canon
    | with_reducible apply resok_ok
    | intro _
    | (extract_lets +onlyGivenNames x; refine cut (P := Canonical x) ?_ (fun _ => ?_); unfold x; try clear x; rotate_left; clear_value x; rotate_right)
    | (extract_lets +onlyGivenNames x; clear_value x)
    | split)

theorem streamWord_canon (op : VOp) (s : State) (hc : Canonical s) : OutOk ((streamWord op s)) := by
  unfold streamWord
  repeat' (first
    | with_reducible assumption
    | with_reducible apply finish_canon
    | with_reducible apply illegalInstr_canon
    | with_reducible apply freeOnly_canon
    | with_reducible apply vectorWord_canon
    | split)

theorem execSld_canon (d : VecReg) (a : StReg) (m : MReg) (e : EW) (s : State) (hc : Canonical s) : OutOk ((execSld d a m e s)) := by
  unfold execSld
  repeat' (first
    | with_reducible assumption
    | with_reducible apply streamWord_canon)

theorem execSst_canon (d : VecReg) (a : StReg) (m : MReg) (e : EW) (s : State) (hc : Canonical s) : OutOk ((execSst d a m e s)) := by
  unfold execSst
  repeat' (first
    | with_reducible assumption
    | with_reducible apply streamWord_canon)

theorem vamo_canon (op : AmoOp) (d : VecReg) (a : GReg) (b : VecReg) (m : MReg) (e : EW) (clu : Bool) (s : State) (hc : Canonical s) : OutOk ((vamo op d a b m e clu s)) := by
  unfold vamo
  repeat' (first
    | with_reducible assumption
    | with_reducible apply finish_canon
    | with_reducible apply vectorWord_canon)

theorem execVamoAdd_canon (d : VecReg) (a : GReg) (b : VecReg) (m : MReg) (e : EW) (clu : Bool) (s : State) (hc : Canonical s) : OutOk ((execVamoAdd d a b m e clu s)) := by
  unfold execVamoAdd
  repeat' (first
    | with_reducible assumption
    | with_reducible apply vamo_canon)

theorem execVamoMin_canon (d : VecReg) (a : GReg) (b : VecReg) (m : MReg) (e : EW) (clu : Bool) (s : State) (hc : Canonical s) : OutOk ((execVamoMin d a b m e clu s)) := by
  unfold execVamoMin
  repeat' (first
    | with_reducible assumption
    | with_reducible apply vamo_canon)

theorem execVamoMax_canon (d : VecReg) (a : GReg) (b : VecReg) (m : MReg) (e : EW) (clu : Bool) (s : State) (hc : Canonical s) : OutOk ((execVamoMax d a b m e clu s)) := by
  unfold execVamoMax
  repeat' (first
    | with_reducible assumption
    | with_reducible apply vamo_canon)

theorem execVamoMinn_canon (d : VecReg) (a : GReg) (b : VecReg) (m : MReg) (e : EW) (clu : Bool) (s : State) (hc : Canonical s) : OutOk ((execVamoMinn d a b m e clu s)) := by
  unfold execVamoMinn
  repeat' (first
    | with_reducible assumption
    | with_reducible apply vamo_canon)

theorem execVamoMaxn_canon (d : VecReg) (a : GReg) (b : VecReg) (m : MReg) (e : EW) (clu : Bool) (s : State) (hc : Canonical s) : OutOk ((execVamoMaxn d a b m e clu s)) := by
  unfold execVamoMaxn
  repeat' (first
    | with_reducible assumption
    | with_reducible apply vamo_canon)

theorem execVamoAnd_canon (d : VecReg) (a : GReg) (b : VecReg) (m : MReg) (e : EW) (clu : Bool) (s : State) (hc : Canonical s) : OutOk ((execVamoAnd d a b m e clu s)) := by
  unfold execVamoAnd
  repeat' (first
    | with_reducible assumption
    | with_reducible apply vamo_canon)

theorem execVamoOr_canon (d : VecReg) (a : GReg) (b : VecReg) (m : MReg) (e : EW) (clu : Bool) (s : State) (hc : Canonical s) : OutOk ((execVamoOr d a b m e clu s)) := by
  unfold execVamoOr
  repeat' (first
    | with_reducible assumption
    | with_reducible apply vamo_canon)

theorem execVamoXor_canon (d : VecReg) (a : GReg) (b : VecReg) (m : MReg) (e : EW) (clu : Bool) (s : State) (hc : Canonical s) : OutOk ((execVamoXor d a b m e clu s)) := by
  unfold execVamoXor
  repeat' (first
    | with_reducible assumption
    | with_reducible apply vamo_canon)

theorem execVamoFadd_canon (d : VecReg) (a : GReg) (b : VecReg) (m : MReg) (e : FEW) (clu : Bool) (s : State) (hc : Canonical s) : OutOk ((execVamoFadd d a b m e clu s)) := by
  unfold execVamoFadd
  repeat' (first
    | with_reducible assumption
    | with_reducible apply finish_canon
    | with_reducible apply vectorWord_canon)

end Sys2Proof.Machine
end

