-- ==== Sys2Proof/Laws/CanonHarp.lean ====
section
/-! SUPPORT. Memory, scratchpads and tables stay in their canonical form: the Harp and the errors of the hardware. -/
set_option linter.all false
namespace Sys2Proof.Machine

theorem State.modTile_canon (s : State) (crew : Nat) (t : Nat) (f : TileState → TileState) (hc : Canonical s) : Canonical ((State.modTile s crew t f)) := by
  unfold State.modTile
  repeat' (first
    | with_reducible assumption
    | with_reducible apply State.modHarp_canon)

theorem State.oweTouch_canon (s : State) (sid : Nat) (id : Nat) (d : Nat) (hc : Canonical s) : Canonical ((State.oweTouch s sid id d)) := by
  unfold State.oweTouch
  repeat' (first
    | with_reducible assumption
    | with_reducible apply State.owe_canon
    | with_reducible apply State.after_canon
    | split)

theorem State.setRun_canon (s : State) (id : Nat) (r : HarpRun) (hc : Canonical s) : Canonical ((State.setRun s id r)) := by
  unfold State.setRun
  repeat' (first
    | with_reducible assumption
    | with_reducible apply Canonical.wmem
    | with_reducible apply Canonical.wspad
    | ((fail_if_success (fail_if_success (simp -zeta only [canonical_mk]))); with_reducible refine canon_keep rfl rfl rfl rfl rfl rfl rfl rfl rfl rfl rfl rfl ?_ ?_ ?_))

theorem State.startRun_canon (s : State) (id : Nat) (r : HarpRun) (d : Nat) (hc : Canonical s) : Canonical ((State.startRun s id r d)) := by
  unfold State.startRun
  repeat' (first
    | with_reducible assumption
    | with_reducible apply State.oweTouch_canon
    | with_reducible apply State.setRun_canon)

theorem State.endRun_canon (s : State) (id : Nat) (hc : Canonical s) : Canonical ((State.endRun s id)) := by
  unfold State.endRun
  repeat' (first
    | with_reducible assumption
    | with_reducible apply Canonical.wmem
    | with_reducible apply Canonical.wspad
    | (extract_lets +onlyGivenNames x; refine cut (P := Canonical x) ?_ (fun _ => ?_); unfold x; try clear x; rotate_left; clear_value x; rotate_right)
    | ((fail_if_success (fail_if_success (simp -zeta only [canonical_mk]))); with_reducible refine canon_keep rfl rfl rfl rfl rfl rfl rfl rfl rfl rfl rfl rfl ?_ ?_ ?_))

theorem State.unqueue_canon (s : State) (q : HarpCmd) (hc : Canonical s) : Canonical ((State.unqueue s q)) := by
  unfold State.unqueue
  repeat' (first
    | with_reducible assumption
    | with_reducible apply State.modCore_canon)

theorem State.startCmd_canon (s : State) (q : HarpCmd) (strings : Nat) (hc : Canonical s) : Canonical ((State.startCmd s q strings)) := by
  unfold State.startCmd
  repeat' (first
    | with_reducible assumption
    | with_reducible apply State.unqueue_canon
    | with_reducible apply State.startRun_canon
    | with_reducible apply State.modTile_canon
    | with_reducible apply State.modHarp_canon
    | with_reducible apply State.perf_canon
    | with_reducible apply foldl_canonical
    | with_reducible apply Canonical.wmem
    | with_reducible apply Canonical.wspad
    | intro _
    | (extract_lets +onlyGivenNames x; refine cut (P := Canonical x) ?_ (fun _ => ?_); unfold x; try clear x; rotate_left; clear_value x; rotate_right)
    | (extract_lets +onlyGivenNames x; clear_value x)
    | split
    | ((fail_if_success (fail_if_success (simp -zeta only [canonical_mk]))); with_reducible refine canon_keep rfl rfl rfl rfl rfl rfl rfl rfl rfl rfl rfl rfl ?_ ?_ ?_))

theorem State.chargeCmd_canon (s : State) (q : HarpCmd) (t : TrapInfo) (hc : Canonical s) : Canonical ((State.chargeCmd s q t)) := by
  unfold State.chargeCmd
  repeat' (first
    | with_reducible assumption
    | with_reducible apply State.unqueue_canon
    | with_reducible apply State.takeTrap_canon
    | with_reducible apply Canonical.wmem
    | with_reducible apply Canonical.wspad
    | split
    | ((fail_if_success (fail_if_success (simp -zeta only [canonical_mk]))); with_reducible refine canon_keep rfl rfl rfl rfl rfl rfl rfl rfl rfl rfl rfl rfl ?_ ?_ ?_))

theorem State.harpTiming_canon (s : State) (q : HarpCmd) (hc : Canonical s) : Canonical ((State.harpTiming s q)) := by
  unfold State.harpTiming
  repeat' (first
    | with_reducible assumption
    | with_reducible apply State.chargeCmd_canon)

theorem State.startPair_canon (s : State) (p : HarpCmd) (q : HarpCmd) (hc : Canonical s) : Canonical ((State.startPair s p q)) := by
  unfold State.startPair
  repeat' (first
    | with_reducible assumption
    | with_reducible apply State.startCmd_canon
    | with_reducible apply State.modHarp_canon)

theorem State.startScored_canon (s : State) (q : HarpCmd) (hc : Canonical s) : Canonical ((State.startScored s q)) := by
  unfold State.startScored
  repeat' (first
    | with_reducible assumption
    | with_reducible apply State.startCmd_canon
    | with_reducible apply State.harpTiming_canon
    | with_reducible apply State.chargeCmd_canon
    | with_reducible apply State.startPair_canon
    | with_reducible apply State.unqueue_canon
    | (extract_lets +onlyGivenNames x; refine cut (P := Canonical x) ?_ (fun _ => ?_); unfold x; try clear x; rotate_left; clear_value x; rotate_right)
    | (extract_lets +onlyGivenNames x; clear_value x)
    | split)

theorem State.grant_canon (s : State) (q : HarpCmd) (keep : Bool) (hc : Canonical s) : Canonical ((State.grant s q keep)) := by
  unfold State.grant
  repeat' (first
    | with_reducible assumption
    | with_reducible apply State.modHarp_canon)

theorem State.startFree_canon (s : State) (q : HarpCmd) (hc : Canonical s) : OptOk ((State.startFree s q)) := by
  unfold State.startFree
  repeat' (first
    | with_reducible assumption
    | with_reducible apply State.modHarp_canon
    | with_reducible apply State.startCmd_canon
    | with_reducible apply State.grant_canon
    | with_reducible apply State.startPair_canon
    | with_reducible apply State.chargeCmd_canon
    | with_reducible apply optok_none
    | with_reducible apply optok_some
    | split)

theorem State.startFree_canon_fwd {s : State} {q : HarpCmd} {w_ : State} (eq_ : (State.startFree s q) = some w_) (hc : Canonical s) : Canonical w_ := by
  have := State.startFree_canon s q hc; rw [eq_] at this; exact this

theorem execHarpCommandStart_canon (core : Nat) (s : State) (hc : Canonical s) : OutOk ((execHarpCommandStart core s)) := by
  unfold execHarpCommandStart
  repeat' (first
    | with_reducible assumption
    | with_reducible apply State.startScored_canon
    | with_reducible apply State.harpTiming_canon
    | with_reducible apply State.owe_canon
    | with_reducible apply State.after_canon
    | (with_reducible apply State.startFree_canon_fwd; with_reducible assumption)
    | with_reducible apply outok_next
    | (extract_lets +onlyGivenNames x; clear_value x)
    | split)

theorem execHmmsPairingTimeout_canon (op : Nat) (s : State) (hc : Canonical s) : OutOk ((execHmmsPairingTimeout op s)) := by
  unfold execHmmsPairingTimeout
  repeat' (first
    | with_reducible assumption
    | with_reducible apply State.chargeCmd_canon
    | with_reducible apply outok_next
    | split)

theorem State.hreadLand_canon (s : State) (e : VEntry) (sid : Nat) (w : Nat) (vl : Nat) (rows : List (List Nat × Bool × Nat)) (due : Nat) (hc : Canonical s) : Canonical ((State.hreadLand s e sid w vl rows due)) := by
  unfold State.hreadLand
  repeat' (first
    | with_reducible assumption
    | with_reducible apply State.deliver_canon
    | with_reducible apply State.landVec_canon
    | with_reducible apply State.setDue_canon
    | with_reducible apply foldl_canonical
    | intro _
    | (extract_lets +onlyGivenNames x; clear_value x)
    | split)

theorem State.touchRow_canon (s : State) (id : Nat) (r : HarpRun) (hc : Canonical s) : Canonical ((State.touchRow s id r)) := by
  unfold State.touchRow
  repeat' (first
    | with_reducible assumption
    | with_reducible apply State.oweTouch_canon
    | with_reducible apply State.setRun_canon
    | with_reducible apply State.endRun_canon
    | with_reducible apply State.modTile_canon
    | with_reducible apply State.vectorTrap_canon
    | with_reducible apply State.hreadLand_canon
    | with_reducible apply_assumption -exfalso -symm
    | intro _
    | (extract_lets +onlyGivenNames x; refine cut (P := ∀ t a b, Canonical t → Canonical (x t a b)) ?_ (fun _ => ?_); unfold x; try clear x; rotate_left; clear_value x; rotate_right)
    | (extract_lets +onlyGivenNames x; clear_value x)
    | split)

theorem execHarpRowTouch_canon (op : Nat) (s : State) (hc : Canonical s) : OutOk ((execHarpRowTouch op s)) := by
  unfold execHarpRowTouch
  repeat' (first
    | with_reducible assumption
    | with_reducible apply State.touchRow_canon
    | with_reducible apply outok_next
    | split)

theorem State.harpWait_canon (s : State) (sid : Nat) (op : Nat) (hc : Canonical s) : OptOk ((State.harpWait s sid op)) := by
  unfold State.harpWait
  repeat' (first
    | with_reducible assumption
    | with_reducible apply State.modStrand_canon
    | with_reducible apply State.endRun_canon
    | with_reducible apply State.takeTrap_canon
    | with_reducible apply optok_none
    | with_reducible apply optok_some
    | with_reducible apply_assumption -exfalso -symm
    | intro _
    | (extract_lets +onlyGivenNames x; refine cut (P := Canonical x) ?_ (fun _ => ?_); unfold x; try clear x; rotate_left; clear_value x; rotate_right)
    | (extract_lets +onlyGivenNames x; refine cut (P := ∀ t, Canonical t → Canonical (x t)) ?_ (fun _ => ?_); unfold x; try clear x; rotate_left; clear_value x; rotate_right)
    | split)

theorem ownTiles_canon (s : State) (ts : List Nat) (k : State → Res) (hc : Canonical s) (hk_ : ∀ (x0_ : State), Canonical x0_ → ResOk (k x0_)) : ResOk ((ownTiles s ts k)) := by
  unfold ownTiles
  repeat' (first
    | with_reducible assumption
    | with_reducible apply hk_
    | with_reducible apply accessFault_canon
    | split)

theorem harpCommand_canon (t : Tile) (op : HarpOp) (off : Word) (wait : Bool) (s : State) (hc : Canonical s) : ResOk ((harpCommand t op off wait s)) := by
  unfold harpCommand
  repeat' (first
    | with_reducible assumption
    | with_reducible apply ownTiles_canon
    | with_reducible apply timingFault_canon
    | with_reducible apply State.modCore_canon
    | with_reducible apply State.owe_canon
    | with_reducible apply State.after_canon
    | with_reducible apply State.modMe_canon
    | with_reducible apply resok_ok
    | with_reducible apply resok_held
    | with_reducible apply Canonical.wmem
    | with_reducible apply Canonical.wspad
    | intro _
    | (extract_lets +onlyGivenNames x; refine cut (P := Canonical x) ?_ (fun _ => ?_); unfold x; try clear x; rotate_left; clear_value x; rotate_right)
    | split
    | ((fail_if_success (fail_if_success (simp -zeta only [canonical_mk]))); with_reducible refine canon_keep rfl rfl rfl rfl rfl rfl rfl rfl rfl rfl rfl rfl ?_ ?_ ?_))

theorem execHzero_canon (t : Tile) (ga : GReg) (s : State) (hc : Canonical s) : OutOk ((execHzero t ga s)) := by
  unfold execHzero
  repeat' (first
    | with_reducible assumption
    | with_reducible apply finish_canon
    | with_reducible apply word_canon
    | with_reducible apply harpCommand_canon
    | intro _)

theorem execHchk_canon (t : Tile) (ga : GReg) (s : State) (hc : Canonical s) : OutOk ((execHchk t ga s)) := by
  unfold execHchk
  repeat' (first
    | with_reducible assumption
    | with_reducible apply finish_canon
    | with_reducible apply word_canon
    | with_reducible apply harpCommand_canon
    | intro _)

theorem execHanch_canon (t : Tile) (ga : GReg) (s : State) (hc : Canonical s) : OutOk ((execHanch t ga s)) := by
  unfold execHanch
  repeat' (first
    | with_reducible assumption
    | with_reducible apply finish_canon
    | with_reducible apply word_canon
    | with_reducible apply illegalFormat_canon
    | with_reducible apply harpCommand_canon
    | intro _
    | split)

theorem harpProduct_canon (set : Bool) (multi : Bool) (t : Tile) (vb : VecReg) (ga : GReg) (fmt : Nat) (n : Nat) (s : State) (hc : Canonical s) : OutOk ((harpProduct set multi t vb ga fmt n s)) := by
  unfold harpProduct
  repeat' (first
    | with_reducible assumption
    | with_reducible apply finish_canon
    | with_reducible apply word_canon
    | with_reducible apply notInBlock_canon
    | with_reducible apply illegalFormat_canon
    | with_reducible apply accessFault_canon
    | with_reducible apply harpCommand_canon
    | with_reducible apply resok_trap
    | intro _
    | (extract_lets +onlyGivenNames x; clear_value x)
    | split)

theorem execHmmaAcc_canon (t : Tile) (vb : VecReg) (ga : GReg) (fmt : Fin 32) (n : Grp) (s : State) (hc : Canonical s) : OutOk ((execHmmaAcc t vb ga fmt n s)) := by
  unfold execHmmaAcc
  repeat' (first
    | with_reducible assumption
    | with_reducible apply harpProduct_canon)

theorem execHmmaSet_canon (t : Tile) (vb : VecReg) (ga : GReg) (fmt : Fin 32) (n : Grp) (s : State) (hc : Canonical s) : OutOk ((execHmmaSet t vb ga fmt n s)) := by
  unfold execHmmaSet
  repeat' (first
    | with_reducible assumption
    | with_reducible apply harpProduct_canon)

theorem execHmmsAcc_canon (t : Tile) (vb : VecReg) (ga : GReg) (fmt : Fin 32) (n : Grp) (s : State) (hc : Canonical s) : OutOk ((execHmmsAcc t vb ga fmt n s)) := by
  unfold execHmmsAcc
  repeat' (first
    | with_reducible assumption
    | with_reducible apply harpProduct_canon)

theorem execHmmsSet_canon (t : Tile) (vb : VecReg) (ga : GReg) (fmt : Fin 32) (n : Grp) (s : State) (hc : Canonical s) : OutOk ((execHmmsSet t vb ga fmt n s)) := by
  unfold execHmmsSet
  repeat' (first
    | with_reducible assumption
    | with_reducible apply harpProduct_canon)

theorem execHplane_canon (vb : VecReg) (ga : GReg) (fmt : Fin 32) (n : Grp) (s : State) (hc : Canonical s) : OutOk ((execHplane vb ga fmt n s)) := by
  unfold execHplane
  repeat' (first
    | with_reducible assumption
    | with_reducible apply finish_canon
    | with_reducible apply word_canon
    | with_reducible apply notInBlock_canon
    | with_reducible apply illegalFormat_canon
    | with_reducible apply accessFault_canon
    | with_reducible apply enqueue_canon
    | intro _
    | (extract_lets +onlyGivenNames x; clear_value x)
    | split)

theorem execHread_canon (t : Tile) (vb : VecReg) (ga : GReg) (fmt : Fin 32) (n : Grp) (s : State) (hc : Canonical s) : OutOk ((execHread t vb ga fmt n s)) := by
  unfold execHread
  repeat' (first
    | with_reducible assumption
    | with_reducible apply finish_canon
    | with_reducible apply illegalInstr_canon
    | with_reducible apply illegalFormat_canon
    | with_reducible apply word_canon
    | with_reducible apply notInBlock_canon
    | with_reducible apply ownTiles_canon
    | with_reducible apply enqueue_canon
    | (with_reducible apply enqueue_canon_fwd; with_reducible assumption)
    | with_reducible apply resok_ok
    | with_reducible apply Canonical.wmem
    | with_reducible apply Canonical.wspad
    | intro _
    | split
    | ((fail_if_success (fail_if_success (simp -zeta only [canonical_mk]))); with_reducible refine canon_keep rfl rfl rfl rfl rfl rfl rfl rfl rfl rfl rfl rfl ?_ ?_ ?_))

theorem execHwrite_canon (t : Tile) (vb : VecReg) (ga : GReg) (n : Grp) (s : State) (hc : Canonical s) : OutOk ((execHwrite t vb ga n s)) := by
  unfold execHwrite
  repeat' (first
    | with_reducible assumption
    | with_reducible apply finish_canon
    | with_reducible apply word_canon
    | with_reducible apply notInBlock_canon
    | with_reducible apply illegalFormat_canon
    | with_reducible apply ownTiles_canon
    | with_reducible apply enqueue_canon
    | with_reducible apply State.setRun_canon
    | (with_reducible apply enqueue_canon_fwd; with_reducible assumption)
    | with_reducible apply resok_ok
    | with_reducible apply Canonical.wmem
    | with_reducible apply Canonical.wspad
    | intro _
    | (extract_lets +onlyGivenNames x; clear_value x)
    | split
    | ((fail_if_success (fail_if_success (simp -zeta only [canonical_mk]))); with_reducible refine canon_keep rfl rfl rfl rfl rfl rfl rfl rfl rfl rfl rfl rfl ?_ ?_ ?_))

theorem State.laneHplane_canon (s : State) (l : Lane) (vb : VecReg) (desc : Word) (place : Word) (fmt : Nat) (n : Nat) (hc : Canonical s) : Canonical ((State.laneHplane s l vb desc place fmt n)) := by
  unfold State.laneHplane
  repeat' (first
    | with_reducible assumption
    | with_reducible apply State.laneTake_canon
    | with_reducible apply State.setAccess_canon
    | with_reducible apply State.owe_canon
    | with_reducible apply State.after_canon
    | (with_reducible apply State.fresh_canon_fwd2; with_reducible assumption)
    | (extract_lets +onlyGivenNames x; refine cut (P := Canonical x) ?_ (fun _ => ?_); unfold x; try clear x; rotate_left; clear_value x; rotate_right)
    | (extract_lets +onlyGivenNames x; clear_value x)
    | split)

theorem State.laneHread_canon (s : State) (l : Lane) (t : Tile) (vb : VecReg) (ctl : Word) (fmt : Nat) (n : Nat) (op : Nat) (hc : Canonical s) : OptOk ((State.laneHread s l t vb ctl fmt n op)) := by
  unfold State.laneHread
  repeat' (first
    | with_reducible assumption
    | with_reducible apply State.laneTake_canon
    | with_reducible apply State.setDue_canon
    | with_reducible apply State.addPend_canon
    | with_reducible apply State.startRun_canon
    | with_reducible apply optok_none
    | with_reducible apply optok_some
    | with_reducible apply foldl_canonical
    | with_reducible apply_assumption -exfalso -symm
    | intro _
    | (extract_lets +onlyGivenNames x; refine cut (P := Canonical x) ?_ (fun _ => ?_); unfold x; try clear x; rotate_left; clear_value x; rotate_right)
    | (extract_lets +onlyGivenNames x; refine cut (P := ∀ a t, Canonical t → Canonical (x a t)) ?_ (fun _ => ?_); unfold x; try clear x; rotate_left; clear_value x; rotate_right)
    | (extract_lets +onlyGivenNames x; clear_value x)
    | split)

theorem State.laneHread_canon_fwd {s : State} {l : Lane} {t : Tile} {vb : VecReg} {ctl : Word} {fmt : Nat} {n : Nat} {op : Nat} {w_ : State} (eq_ : (State.laneHread s l t vb ctl fmt n op) = some w_) (hc : Canonical s) : Canonical w_ := by
  have := State.laneHread_canon s l t vb ctl fmt n op hc; rw [eq_] at this; exact this

theorem State.laneHwrite_canon (s : State) (l : Lane) (vb : VecReg) (ctl : Word) (n : Nat) (op : Nat) (hc : Canonical s) : Canonical ((State.laneHwrite s l vb ctl n op)) := by
  unfold State.laneHwrite
  repeat' (first
    | with_reducible assumption
    | with_reducible apply State.laneTake_canon
    | with_reducible apply State.endRun_canon
    | with_reducible apply State.startRun_canon
    | with_reducible apply State.setDue_canon
    | split)

theorem execUpset_canon (u : Upset) (s : State) (hc : Canonical s) : OutOk ((execUpset u s)) := by
  unfold execUpset
  repeat' (first
    | with_reducible assumption
    | with_reducible apply State.registerError_canon
    | with_reducible apply State.modStrand_canon
    | with_reducible apply State.modTile_canon
    | with_reducible apply State.setLine_canon
    | with_reducible apply outok_next
    | with_reducible apply Canonical.wmem
    | with_reducible apply Canonical.wspad
    | split
    | ((fail_if_success (fail_if_success (simp -zeta only [canonical_mk]))); with_reducible refine canon_keep rfl rfl rfl rfl rfl rfl rfl rfl rfl rfl rfl rfl ?_ ?_ ?_))

end Sys2Proof.Machine
end

