-- ==== Sys2Proof/Laws/CanonFabric.lean ====
section
/-! SUPPORT. Memory, scratchpads and tables stay in their canonical form: tickets and the fabric. -/
set_option linter.all false
namespace Sys2Proof.Machine

theorem ticketed_canon (s : State) (r : TkReg) (q : TkAsk) (k : Ticket → Res) (hc : Canonical s) (hk_ : ∀ (x0_ : Ticket), ResOk (k x0_)) : ResOk ((ticketed s r q k)) := by
  unfold ticketed
  repeat' (first
    | with_reducible apply hk_
    | with_reducible apply accessFault_canon
    | split)

theorem execTknar_canon (tk : TkReg) (d : GReg) (a : GReg) (s : State) (hc : Canonical s) : OutOk ((execTknar tk d a s)) := by
  unfold execTknar
  repeat' (first
    | with_reducible assumption
    | with_reducible apply finish_canon
    | with_reducible apply word_canon
    | with_reducible apply State.landG_canon
    | with_reducible apply State.landWide_canon
    | with_reducible apply resok_ok
    | intro _
    | split)

theorem execTkmov_canon (tk : TkReg) (m : TkReg) (s : State) (hc : Canonical s) : OutOk ((execTkmov tk m s)) := by
  unfold execTkmov
  repeat' (first
    | with_reducible assumption
    | with_reducible apply finish_canon
    | with_reducible apply word_canon
    | with_reducible apply State.landWide_canon
    | with_reducible apply resok_ok
    | intro _)

theorem execTkchk_canon (tk : TkReg) (d : GReg) (s : State) (hc : Canonical s) : OutOk ((execTkchk tk d s)) := by
  unfold execTkchk
  repeat' (first
    | with_reducible assumption
    | with_reducible apply finish_canon
    | with_reducible apply word_canon
    | with_reducible apply State.landG_canon
    | with_reducible apply resok_ok
    | intro _)

theorem execTkld_canon (tk : TkReg) (a : GReg) (sp : Space) (s : State) (hc : Canonical s) : OutOk ((execTkld tk a sp s)) := by
  unfold execTkld
  repeat' (first
    | with_reducible assumption
    | with_reducible apply finish_canon
    | with_reducible apply word_canon
    | with_reducible apply checked_canon
    | with_reducible apply State.checkAccess_canon
    | with_reducible apply State.issueAccess_canon
    | intro _)

theorem execTkst_canon (tk : TkReg) (a : GReg) (sp : Space) (s : State) (hc : Canonical s) : OutOk ((execTkst tk a sp s)) := by
  unfold execTkst
  repeat' (first
    | with_reducible assumption
    | with_reducible apply finish_canon
    | with_reducible apply word_canon
    | with_reducible apply accessFault_canon
    | with_reducible apply checked_canon
    | with_reducible apply State.checkAccess_canon
    | with_reducible apply State.issueAccess_canon
    | intro _
    | (extract_lets +onlyGivenNames x; clear_value x)
    | split)

theorem State.homeFill_canon (s : State) (v : Nat) (pa : Nat) (part : Option Nat) (at_ : Attr) (hc : Canonical s) : Canonical ((State.homeFill s v pa part at_)) := by
  unfold State.homeFill
  repeat' (first
    | with_reducible assumption
    | with_reducible apply State.mcTouch_canon
    | (extract_lets +onlyGivenNames x; clear_value x)
    | split)

theorem State.homeWrite_canon (s : State) (v : Nat) (pa : Nat) (bs : List Byte) (part : Option Nat) (at_ : Attr) (hc : Canonical s) : Canonical ((State.homeWrite s v pa bs part at_)) := by
  unfold State.homeWrite
  repeat' (first
    | with_reducible assumption
    | with_reducible apply State.relayWrite_canon
    | with_reducible apply State.physWrite_canon
    | split)

theorem State.cleanLine_canon (s : State) (la : Nat) (hc : Canonical s) : Canonical ((State.cleanLine s la)) := by
  unfold State.cleanLine
  repeat' (first
    | with_reducible assumption
    | with_reducible apply State.l1DropAll_canon
    | with_reducible apply Canonical.wmem
    | with_reducible apply Canonical.wspad
    | (extract_lets +onlyGivenNames x; refine cut (P := Canonical x) ?_ (fun _ => ?_); unfold x; try clear x; rotate_left; clear_value x; rotate_right)
    | (extract_lets +onlyGivenNames x; clear_value x)
    | ((fail_if_success (fail_if_success (simp -zeta only [canonical_mk]))); with_reducible refine canon_keep rfl rfl rfl rfl rfl rfl rfl rfl rfl rfl rfl rfl ?_ ?_ ?_))

theorem State.vdRead_canon (s : State) (v : Nat) (program : Bool) (part : Option Nat) (a : Nat) (n : Nat) (hc : Canonical s) : HomedOk ((State.vdRead s v program part a n)) := by
  unfold State.vdRead
  repeat' (first
    | with_reducible assumption
    | with_reducible apply State.homeFill_canon
    | with_reducible apply homedok_wait
    | with_reducible apply homedok_fail
    | with_reducible apply homedok_ok
    | with_reducible apply foldl_canonical
    | intro _
    | (extract_lets +onlyGivenNames x; clear_value x)
    | split)

theorem State.vdRead_canon_fwd {s : State} {v : Nat} {program : Bool} {part : Option Nat} {a : Nat} {n : Nat} {w_ : State} {z_ : _} (eq_ : (State.vdRead s v program part a n) = .ok w_ z_) (hc : Canonical s) : Canonical w_ := by
  have := State.vdRead_canon s v program part a n hc; rw [eq_] at this; exact this

theorem State.vdPuts_canon (s : State) (v : Nat) (part : Option Nat) (whole : Nat → Bool) (z4 : List ((Nat × Attr) × Nat × Nat)) (z5 : List Byte) (hc : Canonical s) : Canonical ((State.vdPuts s v part whole z4 z5)) := by
  induction z4 generalizing s z5 with
  | nil => exact hc
  | cons p t ih =>
    unfold State.vdPuts
    dsimp only
    exact ih _ _ (State.homeWrite_canon _ _ _ _ _ _ (by split; exact State.cleanLine_canon _ _ hc; exact hc))

theorem State.vdWrite_canon (s : State) (v : Nat) (program : Bool) (part : Option Nat) (whole : Nat → Bool) (a : Nat) (bs : List Byte) (hc : Canonical s) : HomedOk ((State.vdWrite s v program part whole a bs)) := by
  unfold State.vdWrite
  repeat' (first
    | with_reducible assumption
    | with_reducible apply State.vdPuts_canon
    | with_reducible apply homedok_wait
    | with_reducible apply homedok_fail
    | with_reducible apply homedok_ok
    | (extract_lets +onlyGivenNames x; clear_value x)
    | split)

theorem State.vdWrite_canon_fwd {s : State} {v : Nat} {program : Bool} {part : Option Nat} {whole : Nat → Bool} {a : Nat} {bs : List Byte} {w_ : State} {z_ : _} (eq_ : (State.vdWrite s v program part whole a bs) = .ok w_ z_) (hc : Canonical s) : Canonical w_ := by
  have := State.vdWrite_canon s v program part whole a bs hc; rw [eq_] at this; exact this

theorem State.setPacket_canon (s : State) (id : Nat) (p : Packet) (hc : Canonical s) : Canonical ((State.setPacket s id p)) := by
  unfold State.setPacket
  repeat' (first
    | with_reducible assumption
    | with_reducible apply Canonical.wmem
    | with_reducible apply Canonical.wspad
    | ((fail_if_success (fail_if_success (simp -zeta only [canonical_mk]))); with_reducible refine canon_keep rfl rfl rfl rfl rfl rfl rfl rfl rfl rfl rfl rfl ?_ ?_ ?_))

theorem State.dropPacket_canon (s : State) (id : Nat) (hc : Canonical s) : Canonical ((State.dropPacket s id)) := by
  unfold State.dropPacket
  repeat' (first
    | with_reducible assumption
    | with_reducible apply Canonical.wmem
    | with_reducible apply Canonical.wspad
    | ((fail_if_success (fail_if_success (simp -zeta only [canonical_mk]))); with_reducible refine canon_keep rfl rfl rfl rfl rfl rfl rfl rfl rfl rfl rfl rfl ?_ ?_ ?_))

theorem State.answer_canon (s : State) (p : Packet) (e : Event) (hc : Canonical s) : Canonical ((State.answer s p e)) := by
  unfold State.answer
  repeat' (first
    | with_reducible assumption
    | with_reducible apply State.after_canon
    | with_reducible apply Canonical.wmem
    | with_reducible apply Canonical.wspad
    | split
    | ((fail_if_success (fail_if_success (simp -zeta only [canonical_mk]))); with_reducible refine canon_keep rfl rfl rfl rfl rfl rfl rfl rfl rfl rfl rfl rfl ?_ ?_ ?_))

theorem State.sendOpen_canon (s : State) (op : Nat) (o : FabOp) (p : Packet) (n : Nat) (hc : Canonical s) : Canonical ((State.sendOpen s op o p n)) := by
  unfold State.sendOpen
  repeat' (first
    | with_reducible assumption
    | with_reducible apply State.fresh_canon
    | with_reducible apply State.setPacket_canon
    | with_reducible apply State.after_canon
    | with_reducible apply State.perf_canon)

theorem State.openOp_canon (s : State) (o : FabOp) (hc : Canonical s) : Canonical ((State.openOp s o)).2 := by
  unfold State.openOp
  repeat' (first
    | with_reducible assumption
    | (with_reducible apply State.fresh_canon_fwd2; with_reducible assumption)
    | with_reducible apply Canonical.wmem
    | with_reducible apply Canonical.wspad
    | split
    | ((fail_if_success (fail_if_success (simp -zeta only [canonical_mk]))); with_reducible refine canon_keep rfl rfl rfl rfl rfl rfl rfl rfl rfl rfl rfl rfl ?_ ?_ ?_))

theorem State.nextChunk_canon (s : State) (sid : Nat) (hc : Canonical s) : Canonical ((State.nextChunk s sid)) := by
  unfold State.nextChunk
  repeat' (first
    | with_reducible assumption
    | with_reducible apply State.sendOpen_canon
    | with_reducible apply Canonical.wmem
    | with_reducible apply Canonical.wspad
    | (extract_lets +onlyGivenNames x; clear_value x)
    | split
    | ((fail_if_success (fail_if_success (simp -zeta only [canonical_mk]))); with_reducible refine canon_keep rfl rfl rfl rfl rfl rfl rfl rfl rfl rfl rfl rfl ?_ ?_ ?_))

theorem State.drayAnswer_canon (s : State) (id : Nat) (v : Option Word) (q : Nat × Nat) (hc : Canonical s) : Canonical ((State.drayAnswer s id v q)) := by
  unfold State.drayAnswer
  repeat' (first
    | with_reducible assumption
    | with_reducible apply State.setDray_canon)

theorem State.opResult_canon (s : State) (id : Nat) (r : Option Word) (hc : Canonical s) : Canonical ((State.opResult s id r)) := by
  unfold State.opResult
  repeat' (first
    | with_reducible assumption
    | with_reducible apply State.drayAnswer_canon
    | with_reducible apply State.resolve_canon
    | with_reducible apply State.nextChunk_canon
    | with_reducible apply Canonical.wmem
    | with_reducible apply Canonical.wspad
    | (extract_lets +onlyGivenNames x; refine cut (P := Canonical x) ?_ (fun _ => ?_); unfold x; try clear x; rotate_left; clear_value x; rotate_right)
    | (extract_lets +onlyGivenNames x; clear_value x)
    | split
    | ((fail_if_success (fail_if_success (simp -zeta only [canonical_mk]))); with_reducible refine canon_keep rfl rfl rfl rfl rfl rfl rfl rfl rfl rfl rfl rfl ?_ ?_ ?_))

theorem State.peerErr_canon (s : State) (o : FabOp) (hc : Canonical s) : Canonical ((State.peerErr s o)) := by
  unfold State.peerErr
  repeat' (first
    | with_reducible assumption
    | with_reducible apply State.modStrand_canon
    | split)

theorem State.discard_canon (s : State) (id : Nat) (p : Packet) (hc : Canonical s) : Canonical ((State.discard s id p)) := by
  unfold State.discard
  repeat' (first
    | with_reducible assumption
    | with_reducible apply State.dropPacket_canon
    | with_reducible apply State.answer_canon
    | with_reducible apply State.countDiscard_canon
    | split)

theorem execDiscardNotice_canon (op : Nat) (s : State) (hc : Canonical s) : OutOk ((execDiscardNotice op s)) := by
  unfold execDiscardNotice
  repeat' (first
    | with_reducible assumption
    | with_reducible apply State.opResult_canon
    | with_reducible apply State.countDiscard_canon
    | with_reducible apply State.perf_canon
    | with_reducible apply State.peerErr_canon
    | with_reducible apply outok_next
    | split)

theorem execFabricTimeout_canon (op : Nat) (s : State) (hc : Canonical s) : OutOk ((execFabricTimeout op s)) := by
  unfold execFabricTimeout
  repeat' (first
    | with_reducible assumption
    | with_reducible apply State.opResult_canon
    | with_reducible apply State.peerErr_canon
    | with_reducible apply State.countDiscard_canon
    | with_reducible apply outok_next
    | with_reducible apply Canonical.wmem
    | with_reducible apply Canonical.wspad
    | split
    | ((fail_if_success (fail_if_success (simp -zeta only [canonical_mk]))); with_reducible refine canon_keep rfl rfl rfl rfl rfl rfl rfl rfl rfl rfl rfl rfl ?_ ?_ ?_))

theorem State.echo_canon (s : State) (op : Nat) (o : FabOp) (mark : Bool) (hc : Canonical s) : Canonical ((State.echo s op o mark)) := by
  unfold State.echo
  repeat' (first
    | with_reducible assumption
    | with_reducible apply Canonical.wmem
    | with_reducible apply Canonical.wspad
    | (extract_lets +onlyGivenNames x; clear_value x)
    | split
    | ((fail_if_success (fail_if_success (simp -zeta only [canonical_mk]))); with_reducible refine canon_keep rfl rfl rfl rfl rfl rfl rfl rfl rfl rfl rfl rfl ?_ ?_ ?_))

theorem execFabricAcknowledgement_canon (op : Nat) (mark : Bool) (s : State) (hc : Canonical s) : OutOk ((execFabricAcknowledgement op mark s)) := by
  unfold execFabricAcknowledgement
  repeat' (first
    | with_reducible assumption
    | with_reducible apply State.echo_canon
    | with_reducible apply State.opResult_canon
    | with_reducible apply State.countDiscard_canon
    | with_reducible apply State.owe_canon
    | with_reducible apply outok_next
    | with_reducible apply Canonical.wmem
    | with_reducible apply Canonical.wspad
    | (extract_lets +onlyGivenNames x; refine cut (P := Canonical x) ?_ (fun _ => ?_); unfold x; try clear x; rotate_left; clear_value x; rotate_right)
    | split
    | ((fail_if_success (fail_if_success (simp -zeta only [canonical_mk]))); with_reducible refine canon_keep rfl rfl rfl rfl rfl rfl rfl rfl rfl rfl rfl rfl ?_ ?_ ?_))

theorem State.replyMark_canon (s : State) (op : Nat) (mark : Bool) (hc : Canonical s) : Canonical ((State.replyMark s op mark)) := by
  unfold State.replyMark
  repeat' (first
    | with_reducible assumption
    | with_reducible apply State.echo_canon
    | split)

theorem execRemoteReply_canon (op : Nat) (value : Word) (s : State) (hc : Canonical s) : OutOk ((execRemoteReply op value s)) := by
  unfold execRemoteReply
  repeat' (first
    | with_reducible assumption
    | with_reducible apply State.opResult_canon
    | with_reducible apply State.countDiscard_canon
    | with_reducible apply outok_next
    | (extract_lets +onlyGivenNames x; refine cut (P := Canonical x) ?_ (fun _ => ?_); unfold x; try clear x; rotate_left; clear_value x; rotate_right)
    | split)

theorem State.netRates_canon (s : State) (hc : Canonical s) : Canonical ((State.netRates s)) := by
  unfold State.netRates
  repeat' (first
    | with_reducible assumption
    | with_reducible apply Canonical.wmem
    | with_reducible apply Canonical.wspad
    | with_reducible apply Canonical.rstrands
    | with_reducible apply Canonical.rcores
    | with_reducible apply Canonical.rharps
    | with_reducible apply Canonical.rlaunches
    | with_reducible apply Canonical.rvds
    | with_reducible apply Canonical.rparts
    | with_reducible apply Canonical.rkeys
    | with_reducible apply Canonical.rframes
    | with_reducible apply Canonical.rmig
    | with_reducible apply Canonical.rports
    | with_reducible apply Canonical.rdrays
    | with_reducible apply Canonical.rqps
    | (with_reducible refine rising_map ?_ ?_; rotate_left; (intro _; first | rfl | (split <;> rfl)))
    | (simp -zeta only [canonical_mk]; refine ⟨?_,?_,?_,?_,?_,?_,?_,?_,?_,?_,?_,?_,?_,?_⟩))

theorem execRateUpdate_canon (s : State) (hc : Canonical s) : OutOk ((execRateUpdate s)) := by
  unfold execRateUpdate
  repeat' (first
    | with_reducible assumption
    | with_reducible apply State.netRates_canon
    | with_reducible apply outok_next
    | with_reducible apply Canonical.wmem
    | with_reducible apply Canonical.wspad
    | (extract_lets +onlyGivenNames x; refine cut (P := Canonical x) ?_ (fun _ => ?_); unfold x; try clear x; rotate_left; clear_value x; rotate_right)
    | ((fail_if_success (fail_if_success (simp -zeta only [canonical_mk]))); with_reducible refine canon_keep rfl rfl rfl rfl rfl rfl rfl rfl rfl rfl rfl rfl ?_ ?_ ?_))

theorem State.takeMemPath_canon (s : State) (pa : Nat) (hc : Canonical s) : Canonical ((State.takeMemPath s pa)) := by
  unfold State.takeMemPath
  repeat' (first
    | with_reducible assumption
    | with_reducible apply Canonical.wmem
    | with_reducible apply Canonical.wspad
    | (extract_lets +onlyGivenNames x; clear_value x)
    | split
    | ((fail_if_success (fail_if_success (simp -zeta only [canonical_mk]))); with_reducible refine canon_keep rfl rfl rfl rfl rfl rfl rfl rfl rfl rfl rfl rfl ?_ ?_ ?_))

theorem State.grantPath_canon (s : State) (id : Nat) (p : Packet) (code : Nat) (hc : Canonical s) : OptOk ((State.grantPath s id p code)) := by
  unfold State.grantPath
  repeat' (first
    | with_reducible assumption
    | with_reducible apply optok_none
    | with_reducible apply optok_some
    | with_reducible apply Canonical.wmem
    | with_reducible apply Canonical.wspad
    | (extract_lets +onlyGivenNames x; clear_value x)
    | split
    | ((fail_if_success (fail_if_success (simp -zeta only [canonical_mk]))); with_reducible refine canon_keep rfl rfl rfl rfl rfl rfl rfl rfl rfl rfl rfl rfl ?_ ?_ ?_))

theorem State.grantPath_canon_fwd {s : State} {id : Nat} {p : Packet} {code : Nat} {w_ : State} (eq_ : (State.grantPath s id p code) = some w_) (hc : Canonical s) : Canonical w_ := by
  have := State.grantPath_canon s id p code hc; rw [eq_] at this; exact this

theorem State.linkFault_canon (s : State) (id : Nat) (p : Packet) (hc : Canonical s) : Canonical ((State.linkFault s id p)) := by
  unfold State.linkFault
  repeat' (first
    | with_reducible assumption
    | with_reducible apply State.opResult_canon
    | with_reducible apply State.dropPacket_canon
    | with_reducible apply State.takeTrap_canon
    | with_reducible apply State.discard_canon
    | (extract_lets +onlyGivenNames x; refine cut (P := Canonical x) ?_ (fun _ => ?_); unfold x; try clear x; rotate_left; clear_value x; rotate_right)
    | split)

theorem State.packetAfter_canon (s : State) (p : Packet) (n : Nat) (prio : Nat) (e : Event) (hc : Canonical s) : Canonical ((State.packetAfter s p n prio e)) := by
  unfold State.packetAfter
  repeat' (first
    | with_reducible assumption
    | with_reducible apply State.owe_canon
    | with_reducible apply State.after_canon
    | split)

theorem State.advance_canon (s : State) (id : Nat) (p : Packet) (hc : Canonical s) : Canonical ((State.advance s id p)) := by
  unfold State.advance
  repeat' (first
    | with_reducible assumption
    | with_reducible apply State.packetAfter_canon
    | with_reducible apply State.setPacket_canon
    | with_reducible apply State.discard_canon
    | with_reducible apply Canonical.wmem
    | with_reducible apply Canonical.wspad
    | (extract_lets +onlyGivenNames x; clear_value x)
    | split
    | ((fail_if_success (fail_if_success (simp -zeta only [canonical_mk]))); with_reducible refine canon_keep rfl rfl rfl rfl rfl rfl rfl rfl rfl rfl rfl rfl ?_ ?_ ?_))

theorem State.want_canon (s : State) (id : Nat) (p : Packet) (code : Nat) (hc : Canonical s) : Canonical ((State.want s id p code)) := by
  unfold State.want
  repeat' (first
    | with_reducible assumption
    | with_reducible apply State.advance_canon
    | with_reducible apply State.linkFault_canon
    | with_reducible apply State.discard_canon
    | with_reducible apply State.after_canon
    | with_reducible apply State.setPacket_canon
    | with_reducible apply State.now_canon
    | split)

theorem State.takeHop_canon (s : State) (id : Nat) (p : Packet) (hc : Canonical s) : Canonical ((State.takeHop s id p)) := by
  unfold State.takeHop
  repeat' (first
    | with_reducible assumption
    | with_reducible apply State.want_canon
    | with_reducible apply State.discard_canon
    | with_reducible apply State.dropPacket_canon
    | with_reducible apply State.packetAfter_canon
    | with_reducible apply State.setPacket_canon
    | with_reducible apply Canonical.wmem
    | with_reducible apply Canonical.wspad
    | with_reducible apply_assumption -exfalso -symm
    | intro _
    | (extract_lets +onlyGivenNames x; refine cut (P := Canonical x) ?_ (fun _ => ?_); unfold x; try clear x; rotate_left; clear_value x; rotate_right)
    | (extract_lets +onlyGivenNames x; refine cut (P := ∀ t a b, Canonical t → Canonical (x t a b)) ?_ (fun _ => ?_); unfold x; try clear x; rotate_left; clear_value x; rotate_right)
    | (extract_lets +onlyGivenNames x; clear_value x)
    | split
    | ((fail_if_success (fail_if_success (simp -zeta only [canonical_mk]))); with_reducible refine canon_keep rfl rfl rfl rfl rfl rfl rfl rfl rfl rfl rfl rfl ?_ ?_ ?_))

theorem State.enter_canon (s : State) (id : Nat) (p : Packet) (hc : Canonical s) : Canonical ((State.enter s id p)).1 := by
  unfold State.enter
  repeat' (first
    | with_reducible assumption
    | with_reducible apply State.after_canon
    | with_reducible apply State.setPacket_canon
    | with_reducible apply Canonical.wmem
    | with_reducible apply Canonical.wspad
    | (extract_lets +onlyGivenNames x; refine cut (P := Canonical x) ?_ (fun _ => ?_); unfold x; try clear x; rotate_left; clear_value x; rotate_right)
    | (extract_lets +onlyGivenNames x; clear_value x)
    | split
    | ((fail_if_success (fail_if_success (simp -zeta only [canonical_mk]))); with_reducible refine canon_keep rfl rfl rfl rfl rfl rfl rfl rfl rfl rfl rfl rfl ?_ ?_ ?_))

theorem State.enter_canon_fwd2 {s : State} {id : Nat} {p : Packet} {w_ : State} {z_ : _} (eq_ : (State.enter s id p) = (w_, z_)) (hc : Canonical s) : Canonical w_ := by
  have := State.enter_canon s id p hc; rw [eq_] at this; exact this

theorem State.arrive_canon (s : State) (port : Nat) (p : Packet) (hc : Canonical s) : Canonical ((State.arrive s port p)) := by
  unfold State.arrive
  repeat' (first
    | with_reducible assumption
    | with_reducible apply State.fresh_canon
    | with_reducible apply State.packetAfter_canon
    | with_reducible apply State.setPacket_canon
    | (with_reducible apply State.fresh_canon_fwd2; with_reducible assumption)
    | with_reducible apply foldl_canonical
    | intro _
    | (extract_lets +onlyGivenNames x; refine cut (P := Canonical x) ?_ (fun _ => ?_); unfold x; try clear x; rotate_left; clear_value x; rotate_right)
    | (extract_lets +onlyGivenNames x; clear_value x)
    | split)

theorem execLinkArrival_canon (s : State) (hc : Canonical s) : OutOk ((execLinkArrival s)) := by
  unfold execLinkArrival
  repeat' (first
    | with_reducible assumption
    | with_reducible apply State.arrive_canon
    | with_reducible apply outok_next
    | with_reducible apply Canonical.wmem
    | with_reducible apply Canonical.wspad
    | split
    | ((fail_if_success (fail_if_success (simp -zeta only [canonical_mk]))); with_reducible refine canon_keep rfl rfl rfl rfl rfl rfl rfl rfl rfl rfl rfl rfl ?_ ?_ ?_))

theorem State.enterMesh_canon (s : State) (id : Nat) (p : Packet) (hc : Canonical s) : Canonical ((State.enterMesh s id p)) := by
  unfold State.enterMesh
  repeat' (first
    | with_reducible assumption
    | with_reducible apply State.takeHop_canon
    | with_reducible apply State.packetAfter_canon
    | with_reducible apply State.setPacket_canon
    | (extract_lets +onlyGivenNames x; clear_value x)
    | split)

theorem execSwitchCheck_canon (pkt : Nat) (s : State) (hc : Canonical s) : OutOk ((execSwitchCheck pkt s)) := by
  unfold execSwitchCheck
  repeat' (first
    | with_reducible assumption
    | with_reducible apply State.want_canon
    | with_reducible apply State.advance_canon
    | with_reducible apply State.after_canon
    | with_reducible apply State.discard_canon
    | with_reducible apply State.enterMesh_canon
    | with_reducible apply State.takeHop_canon
    | (with_reducible apply State.grantPath_canon_fwd; with_reducible assumption)
    | (with_reducible apply State.enter_canon_fwd2; with_reducible assumption)
    | with_reducible apply outok_next
    | split)

theorem State.ack_canon (s : State) (id : Nat) (p : Packet) (hc : Canonical s) : Canonical ((State.ack s id p)) := by
  unfold State.ack
  repeat' (first
    | with_reducible assumption
    | with_reducible apply State.answer_canon
    | with_reducible apply State.dropPacket_canon)

theorem State.reply_canon (s : State) (id : Nat) (p : Packet) (v : Nat) (hc : Canonical s) : Canonical ((State.reply s id p v)) := by
  unfold State.reply
  repeat' (first
    | with_reducible assumption
    | with_reducible apply State.answer_canon
    | with_reducible apply State.dropPacket_canon)

theorem State.atSpad_canon (s : State) (id : Nat) (p : Packet) (c : Nat) (hc : Canonical s) : OptOk ((State.atSpad s id p c)) := by
  unfold State.atSpad
  repeat' (first
    | with_reducible assumption
    | with_reducible apply State.takeBanks_canon
    | with_reducible apply State.ack_canon
    | with_reducible apply State.spadWrite_canon
    | with_reducible apply State.reply_canon
    | with_reducible apply optok_none
    | with_reducible apply optok_some
    | with_reducible apply map_opt
    | with_reducible apply_assumption -exfalso -symm
    | intro _
    | (extract_lets +onlyGivenNames x; refine cut (P := ∀ o n k, (∀ t, Canonical t → Canonical (k t)) → OptOk (x o n k)) ?_ (fun _ => ?_); unfold x; try clear x; rotate_left; clear_value x; rotate_right)
    | split)

theorem State.atHome_canon (s : State) (id : Nat) (p : Packet) (hc : Canonical s) : OptOk ((State.atHome s id p)) := by
  unfold State.atHome
  repeat' (first
    | with_reducible assumption
    | with_reducible apply State.chargeLine_canon
    | with_reducible apply State.discard_canon
    | with_reducible apply State.ack_canon
    | with_reducible apply State.reply_canon
    | with_reducible apply State.homeWrite_canon
    | (with_reducible apply State.vdWrite_canon_fwd; with_reducible assumption)
    | (with_reducible apply State.vdRead_canon_fwd; with_reducible assumption)
    | with_reducible apply optok_none
    | with_reducible apply optok_some
    | with_reducible apply_assumption -exfalso -symm
    | intro _
    | (extract_lets +onlyGivenNames x; refine cut (P := ∀ t, OptOk (x t)) ?_ (fun _ => ?_); unfold x; try clear x; rotate_left; clear_value x; rotate_right)
    | (extract_lets +onlyGivenNames x; clear_value x)
    | split)

theorem execPacketDelivery_canon (pkt : Nat) (s : State) (hc : Canonical s) : OutOk ((execPacketDelivery pkt s)) := by
  unfold execPacketDelivery
  repeat' (first
    | with_reducible assumption
    | with_reducible apply State.discard_canon
    | with_reducible apply State.wakePart_canon
    | with_reducible apply State.setPacket_canon
    | with_reducible apply State.after_canon
    | with_reducible apply State.packetAfter_canon
    | with_reducible apply State.now_canon
    | with_reducible apply State.atSpad_canon
    | with_reducible apply State.atHome_canon
    | with_reducible apply outok_next
    | with_reducible apply foldl_canonical
    | with_reducible apply_assumption -exfalso -symm
    | intro _
    | (extract_lets +onlyGivenNames x; refine cut (P := ∀ o, OptOk o → Canonical (x o)) ?_ (fun _ => ?_); unfold x; try clear x; rotate_left; clear_value x; rotate_right)
    | (extract_lets +onlyGivenNames x; refine cut (P := Canonical x) ?_ (fun _ => ?_); unfold x; try clear x; rotate_left; clear_value x; rotate_right)
    | (extract_lets +onlyGivenNames x; clear_value x)
    | split)

theorem State.receiveFault_canon (s : State) (c : Nat) (hc : Canonical s) : Canonical ((State.receiveFault s c)) := by
  unfold State.receiveFault
  repeat' (first
    | with_reducible assumption
    | with_reducible apply State.endingEvent_canon
    | split)

theorem State.bankFault_canon (s : State) (p : Packet) (hc : Canonical s) : Canonical ((State.bankFault s p)) := by
  unfold State.bankFault
  repeat' (first
    | with_reducible assumption
    | with_reducible apply State.takeTrap_canon
    | split)

theorem execTimedDelivery_canon (pkt : Nat) (flit : Nat) (s : State) (hc : Canonical s) : OutOk ((execTimedDelivery pkt flit s)) := by
  unfold execTimedDelivery
  repeat' (first
    | with_reducible assumption
    | with_reducible apply State.receiveFault_canon
    | with_reducible apply State.setCore_canon
    | with_reducible apply State.bankFault_canon
    | with_reducible apply State.spadWrite_canon
    | with_reducible apply State.dropPacket_canon
    | with_reducible apply State.opResult_canon
    | (with_reducible apply State.takeBanks_canon_fwd; with_reducible assumption)
    | with_reducible apply outok_next
    | (extract_lets +onlyGivenNames x; refine cut (P := Canonical x) ?_ (fun _ => ?_); unfold x; try clear x; rotate_left; clear_value x; rotate_right)
    | (extract_lets +onlyGivenNames x; clear_value x)
    | split)

theorem State.kickHeld_canon (s : State) (c : Nat) (hc : Canonical s) : Canonical ((State.kickHeld s c)) := by
  unfold State.kickHeld
  repeat' (first
    | with_reducible assumption
    | with_reducible apply State.now_canon
    | with_reducible apply foldl_canonical
    | intro _
    | split)

theorem State.hold_canon (s : State) (id : Nat) (p : Packet) (c : Nat) (hc : Canonical s) : Canonical ((State.hold s id p c)) := by
  unfold State.hold
  repeat' (first
    | with_reducible assumption
    | with_reducible apply State.discard_canon
    | with_reducible apply State.after_canon
    | with_reducible apply State.setPacket_canon
    | (extract_lets +onlyGivenNames x; clear_value x)
    | split)

theorem execHeldArrivalExpiry_canon (pkt : Nat) (s : State) (hc : Canonical s) : OutOk ((execHeldArrivalExpiry pkt s)) := by
  unfold execHeldArrivalExpiry
  repeat' (first
    | with_reducible assumption
    | with_reducible apply State.kickHeld_canon
    | with_reducible apply State.discard_canon
    | with_reducible apply outok_next
    | split)

theorem State.dropHeld_canon (s : State) (c : Nat) (hc : Canonical s) : Canonical ((State.dropHeld s c)) := by
  unfold State.dropHeld
  repeat' (first
    | with_reducible assumption
    | with_reducible apply State.discard_canon
    | with_reducible apply foldl_canonical
    | intro _
    | split)

theorem State.takeVd_canon (s : State) (c : Nat) (v : Nat) (hc : Canonical s) : Canonical ((State.takeVd s c v)) := by
  unfold State.takeVd
  repeat' (first
    | with_reducible assumption
    | with_reducible apply State.placeVd_canon
    | with_reducible apply State.dropHeld_canon
    | split)

theorem execElasticArrival_canon (pkt : Nat) (s : State) (hc : Canonical s) : OutOk ((execElasticArrival pkt s)) := by
  unfold execElasticArrival
  repeat' (first
    | with_reducible assumption
    | with_reducible apply State.hold_canon
    | with_reducible apply State.setCore_canon
    | with_reducible apply State.kickHeld_canon
    | with_reducible apply State.ack_canon
    | with_reducible apply State.now_canon
    | with_reducible apply State.dropPacket_canon
    | with_reducible apply outok_next
    | with_reducible apply foldl_canonical
    | intro _
    | (extract_lets +onlyGivenNames x; refine cut (P := Canonical x) ?_ (fun _ => ?_); unfold x; try clear x; rotate_left; clear_value x; rotate_right)
    | (extract_lets +onlyGivenNames x; clear_value x)
    | split)

theorem State.takeElastic_canon (s : State) (sid : Nat) (q : Nat) (off : Nat) (hc : Canonical s) : OptSnd ((State.takeElastic s sid q off)) := by
  unfold State.takeElastic
  repeat' (first
    | with_reducible assumption
    | with_reducible apply State.kickHeld_canon
    | with_reducible apply State.spadWrite_canon
    | with_reducible apply State.modCore_canon
    | with_reducible apply optsnd_none
    | with_reducible apply optsnd_some
    | (extract_lets +onlyGivenNames x; clear_value x)
    | split)

theorem State.takeElastic_canon_fwd {s : State} {sid : Nat} {q : Nat} {off : Nat} {w_ : State} {z_ : _} (eq_ : (State.takeElastic s sid q off) = some (z_, w_)) (hc : Canonical s) : Canonical w_ := by
  have := State.takeElastic_canon s sid q off hc; rw [eq_] at this; exact this

theorem State.unpark_canon (s : State) (sid : Nat) (d : GReg) (v : Word) (seq : Nat) (since : Nat) (hc : Canonical s) : Canonical ((State.unpark s sid d v seq since)) := by
  unfold State.unpark
  repeat' (first
    | with_reducible assumption
    | with_reducible apply State.modStrand_canon
    | with_reducible apply State.resolve_canon
    | (extract_lets +onlyGivenNames x; refine cut (P := Canonical x) ?_ (fun _ => ?_); unfold x; try clear x; rotate_left; clear_value x; rotate_right)
    | split)

theorem execErecvWake_canon (sid : Nat) (s : State) (hc : Canonical s) : OutOk ((execErecvWake sid s)) := by
  unfold execErecvWake
  repeat' (first
    | with_reducible assumption
    | with_reducible apply State.unpark_canon
    | (with_reducible apply State.takeElastic_canon_fwd; with_reducible assumption)
    | with_reducible apply outok_next
    | split)

theorem execVpushArrival_canon (pkt : Nat) (s : State) (hc : Canonical s) : OutOk ((execVpushArrival pkt s)) := by
  unfold execVpushArrival
  repeat' (first
    | with_reducible assumption
    | with_reducible apply State.discard_canon
    | with_reducible apply State.hold_canon
    | with_reducible apply State.modStrand_canon
    | with_reducible apply State.ack_canon
    | with_reducible apply State.now_canon
    | with_reducible apply State.dropPacket_canon
    | with_reducible apply outok_next
    | (extract_lets +onlyGivenNames x; refine cut (P := Canonical x) ?_ (fun _ => ?_); unfold x; try clear x; rotate_left; clear_value x; rotate_right)
    | (extract_lets +onlyGivenNames x; clear_value x)
    | split)

theorem State.pull_canon (s : State) (sid : Nat) (base : Nat) (n : Nat) (hc : Canonical s) : Canonical ((State.pull s sid base n)) := by
  unfold State.pull
  repeat' (first
    | with_reducible assumption
    | with_reducible apply State.kickHeld_canon
    | with_reducible apply State.modStrand_canon)

theorem State.pullPend_canon (s : State) (sid : Nat) (seq : Nat) (base : Nat) (n : Nat) (due : Nat) (hc : Canonical s) : Canonical ((State.pullPend s sid seq base n due)) := by
  unfold State.pullPend
  repeat' (first
    | with_reducible assumption
    | with_reducible apply State.deliver_canon
    | with_reducible apply foldl_canonical
    | intro _)

theorem execVpullWake_canon (sid : Nat) (s : State) (hc : Canonical s) : OutOk ((execVpullWake sid s)) := by
  unfold execVpullWake
  repeat' (first
    | with_reducible assumption
    | with_reducible apply State.unpark_canon
    | with_reducible apply State.pullPend_canon
    | with_reducible apply State.pull_canon
    | with_reducible apply outok_next
    | (extract_lets +onlyGivenNames x; clear_value x)
    | split)

theorem execVpull_canon (d : GReg) (a : GReg) (vb : VecReg) (n : Grp) (s : State) (hc : Canonical s) : OutOk ((execVpull d a vb n s)) := by
  unfold execVpull
  repeat' (first
    | with_reducible assumption
    | with_reducible apply finish_canon
    | with_reducible apply word_canon
    | with_reducible apply freeOnly_canon
    | with_reducible apply State.promise_canon
    | with_reducible apply State.landG_canon
    | with_reducible apply State.pullPend_canon
    | with_reducible apply State.pull_canon
    | with_reducible apply State.owe_canon
    | with_reducible apply State.modMe_canon
    | with_reducible apply resok_ok
    | with_reducible apply foldl_canonical
    | intro _
    | (extract_lets +onlyGivenNames x; refine cut (P := Canonical x) ?_ (fun _ => ?_); unfold x; try clear x; rotate_left; clear_value x; rotate_right)
    | (extract_lets +onlyGivenNames x; clear_value x)
    | split)

theorem execVpush_canon (tk : TkReg) (a : GReg) (vb : VecReg) (n : Grp) (s : State) (hc : Canonical s) : OutOk ((execVpush tk a vb n s)) := by
  unfold execVpush
  repeat' (first
    | with_reducible assumption
    | with_reducible apply finish_canon
    | with_reducible apply word_canon
    | with_reducible apply notInBlock_canon
    | with_reducible apply freeOnly_canon
    | with_reducible apply illegalInstr_canon
    | with_reducible apply ticketed_canon
    | with_reducible apply accessFault_canon
    | with_reducible apply enqueue_canon
    | with_reducible apply resok_held
    | intro _
    | (extract_lets +onlyGivenNames x; clear_value x)
    | split)

theorem State.lanePush_canon (s : State) (l : Lane) (t : Ticket) (tkr : TkReg) (vb : VecReg) (base : Nat) (n : Nat) (hc : Canonical s) : OptOk ((State.lanePush s l t tkr vb base n)) := by
  unfold State.lanePush
  repeat' (first
    | with_reducible assumption
    | with_reducible apply State.setDue_canon
    | with_reducible apply State.laneTake_canon
    | with_reducible apply State.modStrand_canon
    | with_reducible apply State.openOp_canon
    | with_reducible apply State.sendOpen_canon
    | with_reducible apply optok_none
    | with_reducible apply optok_some
    | with_reducible apply foldl_canonical
    | intro _
    | (extract_lets +onlyGivenNames x; refine cut (P := Canonical x) ?_ (fun _ => ?_); unfold x; try clear x; rotate_left; clear_value x; rotate_right)
    | (extract_lets +onlyGivenNames x; clear_value x)
    | split)

theorem State.lanePush_canon_fwd {s : State} {l : Lane} {t : Ticket} {tkr : TkReg} {vb : VecReg} {base : Nat} {n : Nat} {w_ : State} (eq_ : (State.lanePush s l t tkr vb base n) = some w_) (hc : Canonical s) : Canonical w_ := by
  have := State.lanePush_canon s l t tkr vb base n hc; rw [eq_] at this; exact this

theorem scoredOnly_canon (s : State) (k : State → Res) (hc : Canonical s) (hk_ : ∀ (x0_ : State), Canonical x0_ → ResOk (k x0_)) : ResOk ((scoredOnly s k)) := by
  unfold scoredOnly
  repeat' (first
    | with_reducible assumption
    | with_reducible apply hk_
    | with_reducible apply accessFault_canon
    | split)

theorem localBytes_canon (s : State) (off : Word) (n : Nat) (k : State → Res) (hc : Canonical s) (hk_ : ∀ (x0_ : State), Canonical x0_ → ResOk (k x0_)) : ResOk ((localBytes s off n k)) := by
  unfold localBytes
  repeat' (first
    | with_reducible assumption
    | with_reducible apply hk_
    | with_reducible apply accessFault_canon
    | split)

theorem execSend_canon (tk : TkReg) (a : GReg) (b : GReg) (s : State) (hc : Canonical s) : OutOk ((execSend tk a b s)) := by
  unfold execSend
  repeat' (first
    | with_reducible assumption
    | with_reducible apply finish_canon
    | with_reducible apply word_canon
    | with_reducible apply scoredOnly_canon
    | with_reducible apply misaligned_canon
    | with_reducible apply ticketed_canon
    | with_reducible apply localBytes_canon
    | with_reducible apply State.openOp_canon
    | with_reducible apply State.fresh_canon
    | with_reducible apply State.owe_canon
    | with_reducible apply State.perf_canon
    | with_reducible apply State.setPacket_canon
    | with_reducible apply State.startAccess_canon
    | with_reducible apply resok_ok
    | with_reducible apply foldl_canonical
    | intro _
    | (extract_lets +onlyGivenNames x; clear_value x)
    | split)

theorem execRecv_canon (d : GReg) (a : GReg) (b : GReg) (s : State) (hc : Canonical s) : OutOk ((execRecv d a b s)) := by
  unfold execRecv
  repeat' (first
    | with_reducible assumption
    | with_reducible apply finish_canon
    | with_reducible apply word_canon
    | with_reducible apply scoredOnly_canon
    | with_reducible apply misaligned_canon
    | with_reducible apply localBytes_canon
    | with_reducible apply timingFault_canon
    | with_reducible apply State.modCore_canon
    | with_reducible apply State.landG_canon
    | with_reducible apply State.startAccess_canon
    | with_reducible apply resok_ok
    | intro _
    | (extract_lets +onlyGivenNames x; refine cut (P := Canonical x) ?_ (fun _ => ?_); unfold x; try clear x; rotate_left; clear_value x; rotate_right)
    | (extract_lets +onlyGivenNames x; clear_value x)
    | split)

theorem openWord_canon (s : State) (tk : TkReg) (t : Ticket) (dst : Option (GReg × Nat × Bool)) (req : Req) (hc : Canonical s) : ResOk ((openWord s tk t dst req)) := by
  unfold openWord
  repeat' (first
    | with_reducible assumption
    | with_reducible apply State.landG_canon
    | with_reducible apply State.modMe_canon
    | with_reducible apply State.promise_canon
    | with_reducible apply State.openOp_canon
    | with_reducible apply State.sendOpen_canon
    | with_reducible apply resok_ok
    | with_reducible apply resok_held
    | (extract_lets +onlyGivenNames x; refine cut (P := Canonical x) ?_ (fun _ => ?_); unfold x; try clear x; rotate_left; clear_value x; rotate_right)
    | (extract_lets +onlyGivenNames x; clear_value x)
    | split)

theorem execEsend_canon (tk : TkReg) (a : GReg) (b : GReg) (s : State) (hc : Canonical s) : OutOk ((execEsend tk a b s)) := by
  unfold execEsend
  repeat' (first
    | with_reducible assumption
    | with_reducible apply finish_canon
    | with_reducible apply word_canon
    | with_reducible apply freeOnly_canon
    | with_reducible apply illegalFormat_canon
    | with_reducible apply ticketed_canon
    | with_reducible apply localBytes_canon
    | with_reducible apply openWord_canon
    | intro _
    | (extract_lets +onlyGivenNames x; clear_value x)
    | split)

theorem execErecv_canon (d : GReg) (a : GReg) (b : GReg) (s : State) (hc : Canonical s) : OutOk ((execErecv d a b s)) := by
  unfold execErecv
  repeat' (first
    | with_reducible assumption
    | with_reducible apply finish_canon
    | with_reducible apply word_canon
    | with_reducible apply freeOnly_canon
    | with_reducible apply misaligned_canon
    | with_reducible apply localBytes_canon
    | with_reducible apply State.landG_canon
    | with_reducible apply State.promise_canon
    | with_reducible apply State.owe_canon
    | with_reducible apply State.modMe_canon
    | (with_reducible apply State.takeElastic_canon_fwd; with_reducible assumption)
    | with_reducible apply resok_ok
    | intro _
    | (extract_lets +onlyGivenNames x; refine cut (P := Canonical x) ?_ (fun _ => ?_); unfold x; try clear x; rotate_left; clear_value x; rotate_right)
    | (extract_lets +onlyGivenNames x; clear_value x)
    | split)

theorem execStripe_canon (tk : TkReg) (d : GReg) (a : GReg) (b : GReg) (n : Fin 4) (s : State) (hc : Canonical s) : OutOk ((execStripe tk d a b n s)) := by
  unfold execStripe
  extract_lets k tks
  refine finish_canon _ _ hc (word_canon _ _ _ hc fun t ht => freeOnly_canon _ _ ht fun t ht => ?_)
  extract_lets dst off len
  split
  · trivial
  · split
    · trivial
    · refine localBytes_canon _ _ _ _ ht fun t ht => ?_
      extract_lets sid v tkt foreign
      split
      · exact ht
      · split
        · exact ht
        · next stop s0 u _ _ =>
          have hu : Canonical u := by
            refine foldl_canonical _ ?_ _ _ ht
            intro s j h
            extract_lets i r
            split
            · exact State.modMe_canon _ _ h
            · next p o _ =>
              split
              · exact State.sendOpen_canon _ _ _ _ _ (State.openOp_canon _ _ h)
              · exact State.openOp_canon _ _ h
          clear_value u
          show Canonical _
          split
          · exact State.modMe_canon _ _ hu
          · exact hu

theorem remoteWord_canon (tk : TkReg) (a : GReg) (n : Nat) (right : Nat) (u : Use) (dst : Option (GReg × Nat × Bool)) (req : State → Nat → Req) (s : State) (hc : Canonical s) : OutOk ((remoteWord tk a n right u dst req s)) := by
  unfold remoteWord
  repeat' (first
    | with_reducible assumption
    | with_reducible apply finish_canon
    | with_reducible apply word_canon
    | with_reducible apply freeOnly_canon
    | with_reducible apply misaligned_canon
    | with_reducible apply ticketed_canon
    | with_reducible apply openWord_canon
    | intro _
    | (extract_lets +onlyGivenNames x; clear_value x)
    | split)

theorem execRld_canon (tk : TkReg) (d : GReg) (a : GReg) (sz : LdSize) (s : State) (hc : Canonical s) : OutOk ((execRld tk d a sz s)) := by
  unfold execRld
  repeat' (first
    | with_reducible assumption
    | with_reducible apply remoteWord_canon)

theorem execRst_canon (tk : TkReg) (d : GReg) (a : GReg) (sz : StSize) (s : State) (hc : Canonical s) : OutOk ((execRst tk d a sz s)) := by
  unfold execRst
  repeat' (first
    | with_reducible assumption
    | with_reducible apply remoteWord_canon)

theorem ramo_canon (op : AmoOp) (tk : TkReg) (d : GReg) (a : GReg) (b : GReg) (s : State) (hc : Canonical s) : OutOk ((ramo op tk d a b s)) := by
  unfold ramo
  repeat' (first
    | with_reducible assumption
    | with_reducible apply remoteWord_canon)

theorem execRamoAdd_canon (tk : TkReg) (d : GReg) (a : GReg) (b : GReg) (s : State) (hc : Canonical s) : OutOk ((execRamoAdd tk d a b s)) := by
  unfold execRamoAdd
  repeat' (first
    | with_reducible assumption
    | with_reducible apply ramo_canon)

theorem execRamoMin_canon (tk : TkReg) (d : GReg) (a : GReg) (b : GReg) (s : State) (hc : Canonical s) : OutOk ((execRamoMin tk d a b s)) := by
  unfold execRamoMin
  repeat' (first
    | with_reducible assumption
    | with_reducible apply ramo_canon)

theorem execRamoMax_canon (tk : TkReg) (d : GReg) (a : GReg) (b : GReg) (s : State) (hc : Canonical s) : OutOk ((execRamoMax tk d a b s)) := by
  unfold execRamoMax
  repeat' (first
    | with_reducible assumption
    | with_reducible apply ramo_canon)

theorem execRamoMinn_canon (tk : TkReg) (d : GReg) (a : GReg) (b : GReg) (s : State) (hc : Canonical s) : OutOk ((execRamoMinn tk d a b s)) := by
  unfold execRamoMinn
  repeat' (first
    | with_reducible assumption
    | with_reducible apply ramo_canon)

theorem execRamoMaxn_canon (tk : TkReg) (d : GReg) (a : GReg) (b : GReg) (s : State) (hc : Canonical s) : OutOk ((execRamoMaxn tk d a b s)) := by
  unfold execRamoMaxn
  repeat' (first
    | with_reducible assumption
    | with_reducible apply ramo_canon)

theorem execRamoOr_canon (tk : TkReg) (d : GReg) (a : GReg) (b : GReg) (s : State) (hc : Canonical s) : OutOk ((execRamoOr tk d a b s)) := by
  unfold execRamoOr
  repeat' (first
    | with_reducible assumption
    | with_reducible apply ramo_canon)

theorem execRamoSwap_canon (tk : TkReg) (d : GReg) (a : GReg) (b : GReg) (s : State) (hc : Canonical s) : OutOk ((execRamoSwap tk d a b s)) := by
  unfold execRamoSwap
  repeat' (first
    | with_reducible assumption
    | with_reducible apply ramo_canon)

theorem execRamoCas_canon (tk : TkReg) (d : GReg) (a : GReg) (b : GReg) (s : State) (hc : Canonical s) : OutOk ((execRamoCas tk d a b s)) := by
  unfold execRamoCas
  repeat' (first
    | with_reducible assumption
    | with_reducible apply ramo_canon)

end Sys2Proof.Machine
end

