-- ==== Sys2Proof/Laws/CanonDray.lean ====
section
/-! SUPPORT. Memory, scratchpads and tables stay in their canonical form: counters, Drays and privileged words. -/
set_option linter.all false
namespace Sys2Proof.Machine

theorem countWord_canon (level : Nat) (d : GReg) (a : GReg) (gd : Guard) (s : State) (k : State → Res) (hc : Canonical s) (hk_ : ∀ (x0_ : State), Canonical x0_ → ResOk (k x0_)) : OutOk ((countWord level d a gd s k)) := by
  unfold countWord
  repeat' (first
    | with_reducible assumption
    | with_reducible apply finish_canon
    | with_reducible apply word_canon
    | with_reducible apply freeOnly_canon
    | intro _)

theorem State.oweEffect_canon (s : State) (d : GReg) (prio : Nat) (e : Effect) (hc : Canonical s) : Canonical ((State.oweEffect s d prio e)) := by
  unfold State.oweEffect
  repeat' (first
    | with_reducible assumption
    | with_reducible apply State.promise_canon
    | with_reducible apply State.after_canon
    | split)

theorem execCarr_canon (d : GReg) (a : GReg) (b : CnReg) (gd : Guard) (s : State) (hc : Canonical s) : OutOk ((execCarr d a b gd s)) := by
  unfold execCarr
  repeat' (first
    | with_reducible assumption
    | with_reducible apply countWord_canon
    | with_reducible apply State.oweEffect_canon
    | with_reducible apply resok_ok
    | with_reducible apply resok_held
    | intro _
    | (extract_lets +onlyGivenNames x; clear_value x)
    | split)

theorem execCset_canon (d : GReg) (a : GReg) (b : CnReg) (gd : Guard) (s : State) (hc : Canonical s) : OutOk ((execCset d a b gd s)) := by
  unfold execCset
  repeat' (first
    | with_reducible assumption
    | with_reducible apply countWord_canon
    | with_reducible apply State.landG_canon
    | with_reducible apply State.oweEffect_canon
    | with_reducible apply resok_ok
    | intro _
    | split)

theorem execCwait_canon (d : GReg) (a : GReg) (b : CnReg) (gd : Guard) (s : State) (hc : Canonical s) : OutOk ((execCwait d a b gd s)) := by
  unfold execCwait
  repeat' (first
    | with_reducible assumption
    | with_reducible apply countWord_canon
    | with_reducible apply State.landG_canon
    | with_reducible apply State.promise_canon
    | with_reducible apply State.modMe_canon
    | with_reducible apply State.owe_canon
    | with_reducible apply resok_ok
    | intro _
    | (extract_lets +onlyGivenNames x; refine cut (P := Canonical x) ?_ (fun _ => ?_); unfold x; try clear x; rotate_left; clear_value x; rotate_right)
    | (extract_lets +onlyGivenNames x; clear_value x)
    | split)

theorem execCwaitWake_canon (sid : Nat) (s : State) (hc : Canonical s) : OutOk ((execCwaitWake sid s)) := by
  unfold execCwaitWake
  repeat' (first
    | with_reducible assumption
    | with_reducible apply State.unpark_canon
    | with_reducible apply State.now_canon
    | with_reducible apply outok_next
    | (extract_lets +onlyGivenNames x; refine cut (P := Canonical x) ?_ (fun _ => ?_); unfold x; try clear x; rotate_left; clear_value x; rotate_right)
    | (extract_lets +onlyGivenNames x; clear_value x)
    | split)

theorem State.cancelScored_canon (s : State) (l : Nat) (hc : Canonical s) : Canonical ((State.cancelScored s l)).1 := by
  unfold State.cancelScored
  repeat' (first
    | with_reducible assumption
    | with_reducible apply State.recordCancelled_canon
    | with_reducible apply State.setLaunch_canon
    | with_reducible apply State.now_canon
    | with_reducible apply State.owe_canon
    | (extract_lets +onlyGivenNames x; refine cut (P := Canonical x) ?_ (fun _ => ?_); unfold x; try clear x; rotate_left; clear_value x; rotate_right)
    | (extract_lets +onlyGivenNames x; clear_value x)
    | split)

theorem State.cancelLaunch_canon (s : State) (l : Nat) (hc : Canonical s) : Canonical ((State.cancelLaunch s l)).1 := by
  unfold State.cancelLaunch
  repeat' (first
    | with_reducible assumption
    | with_reducible apply State.cancelScored_canon
    | with_reducible apply State.cancelFree_canon
    | split)

theorem State.markQueued_canon (s : State) (q : Queued) (hc : Canonical s) : Canonical ((State.markQueued s q)).1 := by
  unfold State.markQueued
  repeat' (first
    | with_reducible assumption
    | with_reducible apply State.modPart_canon
    | (extract_lets +onlyGivenNames x; clear_value x)
    | split)

theorem State.cancelAll_canon (s : State) (v : Nat) (run : Launch → Bool) (que : Queued → Bool) (hc : Canonical s) : Canonical ((State.cancelAll s v run que)).1 := by
  unfold State.cancelAll
  extract_lets ids
  split
  next s1 a1 e1 =>
  have h1 : Canonical (s1, a1).1 := by
    rw [← e1]
    refine foldl_fst _ ?_ _ _ hc
    intro r l h
    exact State.cancelLaunch_canon _ _ h
  split
  next s2 b2 e2 =>
  have h2 : Canonical (s2, b2).1 := by
    rw [← e2]
    refine foldl_fst _ ?_ _ _ h1
    intro r q h
    exact State.markQueued_canon _ _ h
  dsimp only
  split
  · exact foldl_canonical _ (fun t e h => State.kickEngine_canon _ _ h) _ _ h2
  · exact h2

theorem State.cancelAll_canon_fwd2 {s : State} {v : Nat} {run : Launch → Bool} {que : Queued → Bool} {w_ : State} {z_ : _} (eq_ : (State.cancelAll s v run que) = (w_, z_)) (hc : Canonical s) : Canonical w_ := by
  have := State.cancelAll_canon s v run que hc; rw [eq_] at this; exact this

theorem State.cancelNow_canon (s : State) (v : Nat) (w : Word) (hc : Canonical s) : Canonical ((State.cancelNow s v w)).1 := by
  unfold State.cancelNow
  repeat' (first
    | with_reducible assumption
    | with_reducible apply State.now_canon
    | with_reducible apply State.stopUnit_canon
    | with_reducible apply State.cancelAll_canon
    | with_reducible apply State.modVd_canon
    | (with_reducible apply State.cancelAll_canon_fwd2; with_reducible assumption)
    | with_reducible apply_assumption -exfalso -symm
    | intro _
    | (extract_lets +onlyGivenNames x; refine cut (P := ∀ r, Canonical r.1 → Canonical (x r).1) ?_ (fun _ => ?_); unfold x; try clear x; rotate_left; clear_value x; rotate_right)
    | (extract_lets +onlyGivenNames x; clear_value x)
    | split)

theorem execCancel_canon (d : GReg) (a : GReg) (gd : Guard) (s : State) (hc : Canonical s) : OutOk ((execCancel d a gd s)) := by
  unfold execCancel
  repeat' (first
    | with_reducible assumption
    | with_reducible apply countWord_canon
    | with_reducible apply State.landG_canon
    | with_reducible apply State.oweEffect_canon
    | with_reducible apply resok_ok
    | intro _
    | split)

theorem execCancelDrainEnd_canon (launch : Nat) (s : State) (hc : Canonical s) : OutOk ((execCancelDrainEnd launch s)) := by
  unfold execCancelDrainEnd
  repeat' (first
    | with_reducible assumption
    | with_reducible apply State.countCanc_canon
    | with_reducible apply State.setLaunch_canon
    | with_reducible apply State.after_canon
    | with_reducible apply State.retire_canon
    | with_reducible apply State.recordCancelled_canon
    | with_reducible apply State.launchComplete_canon
    | with_reducible apply outok_next
    | split)

theorem State.ckptNow_canon (s : State) (cv : Nat) (part : Option Nat) (n : CnReg) (w : Word) (hc : Canonical s) : Canonical ((State.ckptNow s cv part n w)).1 := by
  unfold State.ckptNow
  repeat' (first
    | with_reducible assumption
    | with_reducible apply State.owe_canon
    | with_reducible apply Canonical.wmem
    | with_reducible apply Canonical.wspad
    | (extract_lets +onlyGivenNames x; refine cut (P := Canonical x) ?_ (fun _ => ?_); unfold x; try clear x; rotate_left; clear_value x; rotate_right)
    | (extract_lets +onlyGivenNames x; clear_value x)
    | split
    | ((fail_if_success (fail_if_success (simp -zeta only [canonical_mk]))); with_reducible refine canon_keep rfl rfl rfl rfl rfl rfl rfl rfl rfl rfl rfl rfl ?_ ?_ ?_))

theorem execCkpt_canon (d : GReg) (a : GReg) (b : CnReg) (gd : Guard) (s : State) (hc : Canonical s) : OutOk ((execCkpt d a b gd s)) := by
  unfold execCkpt
  repeat' (first
    | with_reducible assumption
    | with_reducible apply countWord_canon
    | with_reducible apply State.oweEffect_canon
    | with_reducible apply resok_ok
    | intro _)

theorem State.giveRet_canon (s : State) (r : Ret) (v : Word) (hc : Canonical s) : Canonical ((State.giveRet s r v)) := by
  unfold State.giveRet
  repeat' (first
    | with_reducible assumption
    | with_reducible apply State.deliver_canon
    | split)

theorem State.runEffect_canon (s : State) (e : Effect) (r : Ret) (hc : Canonical s) : Canonical ((State.runEffect s e r)) := by
  unfold State.runEffect
  repeat' (first
    | with_reducible assumption
    | with_reducible apply State.giveRet_canon
    | with_reducible apply State.wakeCounter_canon
    | with_reducible apply State.setCounter_canon
    | with_reducible apply State.cancelNow_canon
    | with_reducible apply State.ckptNow_canon
    | split)

theorem State.setCmd_canon (s : State) (dray : Nat) (c : DrayCmd) (hc : Canonical s) : Canonical ((State.setCmd s dray c)) := by
  unfold State.setCmd
  repeat' (first
    | with_reducible assumption
    | with_reducible apply State.setDray_canon)

theorem State.partFail_canon (s : State) (v : Nat) (t : TrapInfo) (hc : Canonical s) : PartOk ((State.partFail s v t)) := by
  unfold State.partFail
  repeat' (first
    | with_reducible assumption
    | with_reducible apply State.chargeLine_canon
    | with_reducible apply partok_fail
    | split)

theorem State.partLost_canon (s : State) (c : DrayCmd) (hc : Canonical s) : PartOk ((State.partLost s c)) := by
  unfold State.partLost
  repeat' (first
    | with_reducible assumption
    | with_reducible apply State.countDiscard_canon
    | with_reducible apply partok_fail)

theorem State.drayAsk_canon (s : State) (dray : Nat) (c : DrayCmd) (key : Nat) (req : Req) (hc : Canonical s) : Canonical ((State.drayAsk s dray c key req)).1 := by
  unfold State.drayAsk
  repeat' (first
    | with_reducible assumption
    | with_reducible apply State.openOp_canon
    | with_reducible apply State.fresh_canon
    | with_reducible apply State.setCmd_canon
    | with_reducible apply State.after_canon
    | with_reducible apply State.setPacket_canon)

theorem State.drayAway_canon (s : State) (dray : Nat) (c : DrayCmd) (reqs : List (Nat × Req)) (hc : Canonical s) : PartOk ((State.drayAway s dray c reqs)) := by
  unfold State.drayAway
  repeat' (first
    | with_reducible assumption
    | with_reducible apply State.drayAsk_canon
    | with_reducible apply partok_wait
    | with_reducible apply partok_fail
    | with_reducible apply partok_ok
    | with_reducible apply foldl_fst
    | intro _
    | split)

theorem Homed.part_canon (h : Homed) (s : State) (fail : TrapInfo → Part) (hc : Canonical s) (hh_ : HomedOk h) (hfail_ : ∀ (x0_ : TrapInfo), PartOk (fail x0_)) : PartOk ((Homed.part h s fail)) := by
  unfold Homed.part
  repeat' (first
    | with_reducible assumption
    | with_reducible apply hfail_
    | with_reducible apply partok_wait
    | with_reducible apply partok_ok
    | (with_reducible apply homedok_inv; with_reducible assumption)
    | split)

theorem State.drayRemote_canon (s : State) (dray : Nat) (c : DrayCmd) (req : Req) (whole : Nat → Bool) (hc : Canonical s) : PartOk ((State.drayRemote s dray c req whole)) := by
  unfold State.drayRemote
  repeat' (first
    | with_reducible assumption
    | with_reducible apply State.drayAway_canon
    | with_reducible apply State.partLost_canon
    | with_reducible apply State.spadWrite_canon
    | with_reducible apply Homed.part_canon
    | with_reducible apply State.vdWrite_canon
    | with_reducible apply State.chargeLine_canon
    | with_reducible apply State.vdRead_canon
    | with_reducible apply partok_ok
    | intro _
    | (extract_lets +onlyGivenNames x; clear_value x)
    | split)

theorem State.drayReads_canon (s : State) (dray : Nat) (c : DrayCmd) (space : Nat) (a : Nat) (n : Nat) (hc : Canonical s) : PartOk ((State.drayReads s dray c space a n)) := by
  unfold State.drayReads
  repeat' (first
    | with_reducible assumption
    | with_reducible apply Homed.part_canon
    | with_reducible apply State.vdRead_canon
    | with_reducible apply State.partFail_canon
    | with_reducible apply State.drayRemote_canon
    | with_reducible apply partok_fail
    | with_reducible apply partok_ok
    | intro _
    | split)

theorem State.drayReads_canon_fwd {s : State} {dray : Nat} {c : DrayCmd} {space : Nat} {a : Nat} {n : Nat} {w_ : State} {z_ : _} (eq_ : (State.drayReads s dray c space a n) = .ok w_ z_) (hc : Canonical s) : Canonical w_ := by
  have := State.drayReads_canon s dray c space a n hc; rw [eq_] at this; exact this

theorem State.drayReads_canon_fwd2 {s : State} {dray : Nat} {c : DrayCmd} {space : Nat} {a : Nat} {n : Nat} {w_ : State} {z_ : _} (eq_ : (State.drayReads s dray c space a n) = .fail z_ w_) (hc : Canonical s) : Canonical w_ := by
  have := State.drayReads_canon s dray c space a n hc; rw [eq_] at this; exact this

theorem State.drayReads_canon_fwd3 {s : State} {dray : Nat} {c : DrayCmd} {space : Nat} {a : Nat} {n : Nat} {w_ : State} (eq_ : (State.drayReads s dray c space a n) = .wait w_) (hc : Canonical s) : Canonical w_ := by
  have := State.drayReads_canon s dray c space a n hc; rw [eq_] at this; exact this

theorem State.drayWrites_canon (s : State) (dray : Nat) (c : DrayCmd) (space : Nat) (lo : Nat) (hi : Nat) (a : Nat) (bs : List Byte) (hc : Canonical s) : PartOk ((State.drayWrites s dray c space lo hi a bs)) := by
  unfold State.drayWrites
  repeat' (first
    | with_reducible assumption
    | with_reducible apply State.spadWrite_canon
    | with_reducible apply Homed.part_canon
    | with_reducible apply State.vdWrite_canon
    | with_reducible apply State.partFail_canon
    | with_reducible apply State.drayRemote_canon
    | with_reducible apply partok_wait
    | with_reducible apply partok_fail
    | with_reducible apply partok_ok
    | intro _
    | (extract_lets +onlyGivenNames x; clear_value x)
    | split)

theorem State.drayWrites_canon_fwd {s : State} {dray : Nat} {c : DrayCmd} {space : Nat} {lo : Nat} {hi : Nat} {a : Nat} {bs : List Byte} {w_ : State} {z_ : _} (eq_ : (State.drayWrites s dray c space lo hi a bs) = .ok w_ z_) (hc : Canonical s) : Canonical w_ := by
  have := State.drayWrites_canon s dray c space lo hi a bs hc; rw [eq_] at this; exact this

theorem State.drayMove_canon (s : State) (dray : Nat) (c : DrayCmd) (src : Nat) (dst : Nat) (n : Nat) (hc : Canonical s) : PartOk ((State.drayMove s dray c src dst n)) := by
  unfold State.drayMove
  repeat' (first
    | with_reducible assumption
    | with_reducible apply State.drayReads_canon
    | with_reducible apply State.drayWrites_canon
    | (with_reducible apply State.drayReads_canon_fwd; with_reducible assumption)
    | split)

theorem State.drayBanks_canon (s : State) (z1 : List (Nat × Nat × Nat)) (hc : Canonical s) : Canonical ((State.drayBanks s z1)).1 := by
  induction z1 generalizing s with
  | nil => exact hc
  | cons p t ih =>
    unfold State.drayBanks
    dsimp only
    split
    · exact hc
    · split
      · next s1 e => exact ih s1 (State.takeBanks_canon_fwd e hc)
      · exact hc

theorem State.drayBanks_canon_fwd2 {s : State} {z1 : List (Nat × Nat × Nat)} {w_ : State} {z_ : _} (eq_ : (State.drayBanks s z1) = (w_, z_)) (hc : Canonical s) : Canonical w_ := by
  have := State.drayBanks_canon s z1 hc; rw [eq_] at this; exact this

theorem State.sealUnit_canon (s : State) (dray : Nat) (c : DrayCmd) (hc : Canonical s) : PartOk ((State.sealUnit s dray c)) := by
  unfold State.sealUnit
  repeat' (first
    | with_reducible assumption
    | with_reducible apply State.drayReads_canon
    | with_reducible apply State.drayWrites_canon
    | (with_reducible apply State.drayReads_canon_fwd; with_reducible assumption)
    | (with_reducible apply State.drayWrites_canon_fwd; with_reducible assumption)
    | with_reducible apply partok_ok
    | (extract_lets +onlyGivenNames x; clear_value x)
    | split)

theorem State.poisonLines_canon (s : State) (dray : Nat) (c : DrayCmd) (hc : Canonical s) : Canonical ((State.poisonLines s dray c)) := by
  unfold State.poisonLines
  repeat' (first
    | with_reducible assumption
    | with_reducible apply State.cleanLine_canon
    | with_reducible apply State.freshen_canon
    | with_reducible apply State.setLine_canon
    | with_reducible apply foldl_canonical
    | intro _
    | (extract_lets +onlyGivenNames x; refine cut (P := Canonical x) ?_ (fun _ => ?_); unfold x; try clear x; rotate_left; clear_value x; rotate_right)
    | (extract_lets +onlyGivenNames x; clear_value x)
    | split)

theorem State.wakeDwait_canon (s : State) (dray : Nat) (seq : Nat) (hc : Canonical s) : Canonical ((State.wakeDwait s dray seq)) := by
  unfold State.wakeDwait
  repeat' (first
    | with_reducible assumption
    | with_reducible apply State.now_canon
    | with_reducible apply foldl_canonical
    | intro _
    | split)

theorem State.kickDray_canon (s : State) (dray : Nat) (n : Nat) (hc : Canonical s) : Canonical ((State.kickDray s dray n)) := by
  unfold State.kickDray
  repeat' (first
    | with_reducible assumption
    | with_reducible apply State.after_canon
    | split)

theorem State.drayEnd_canon (s : State) (dray : Nat) (c : DrayCmd) (state : Nat) (err : Nat) (hc : Canonical s) : Canonical ((State.drayEnd s dray c state err)) := by
  unfold State.drayEnd
  repeat' (first
    | with_reducible assumption
    | with_reducible apply State.kickDray_canon
    | with_reducible apply State.wakeDwait_canon
    | with_reducible apply State.setDray_canon
    | with_reducible apply State.postIrq_canon
    | (extract_lets +onlyGivenNames x; refine cut (P := Canonical x) ?_ (fun _ => ?_); unfold x; try clear x; rotate_left; clear_value x; rotate_right)
    | (extract_lets +onlyGivenNames x; clear_value x)
    | split)

theorem State.drayUnit_canon (s : State) (dray : Nat) (c : DrayCmd) (hc : Canonical s) : Canonical ((State.drayUnit s dray c)) := by
  unfold State.drayUnit
  extract_lets stop settle
  have hstop : ∀ t c e, Canonical t → Canonical (stop t c e) := by
    intro t c e h
    exact State.now_canon _ _ _ (State.setCmd_canon _ _ _ h)
  have hsettle : ∀ r k, PartOk r → (∀ t b, Canonical t → Canonical (k t b).1) → Canonical (settle r k) := by
    intro r k h hk
    unfold settle
    cases r with
    | wait s => exact h
    | fail e t => exact hstop _ _ _ h
    | ok t b =>
      have := hk t b h
      dsimp only
      split
      · exact hstop _ _ _ this
      · exact State.setCmd_canon _ _ _ this
  clear_value settle stop
  repeat' (first
    | with_reducible assumption
    | with_reducible apply hstop
    | with_reducible apply hsettle
    | with_reducible apply State.setCmd_canon
    | with_reducible apply State.sealUnit_canon
    | with_reducible apply State.drayMove_canon
    | with_reducible apply State.drayWrites_canon
    | with_reducible apply State.poisonLines_canon
    | with_reducible apply State.setKey_canon
    | (with_reducible apply State.drayReads_canon_fwd; with_reducible assumption)
    | (with_reducible apply State.drayReads_canon_fwd2; with_reducible assumption)
    | (with_reducible apply State.drayReads_canon_fwd3; with_reducible assumption)
    | (extract_lets +onlyGivenNames x; clear_value x)
    | intro _
    | dsimp -zeta only
    | split)

theorem State.drayStep_canon (s : State) (dray : Nat) (c : DrayCmd) (hc : Canonical s) : Canonical ((State.drayStep s dray c)) := by
  unfold State.drayStep
  repeat' (first
    | with_reducible assumption
    | with_reducible apply State.setCmd_canon
    | with_reducible apply State.drayUnit_canon
    | (with_reducible apply State.drayBanks_canon_fwd2; with_reducible assumption)
    | (extract_lets +onlyGivenNames x; clear_value x)
    | split)

theorem execDrayCommandStart_canon (dray : Nat) (s : State) (hc : Canonical s) : OutOk ((execDrayCommandStart dray s)) := by
  unfold execDrayCommandStart
  repeat' (first
    | with_reducible assumption
    | with_reducible apply State.after_canon
    | with_reducible apply State.setCmd_canon
    | with_reducible apply State.now_canon
    | with_reducible apply State.drayStep_canon
    | with_reducible apply State.kickDray_canon
    | with_reducible apply outok_next
    | with_reducible apply foldl_canonical
    | with_reducible apply foldl_fst
    | intro _
    | split)

theorem execDrayCommandCompletion_canon (dray : Nat) (seq : Nat) (s : State) (hc : Canonical s) : OutOk ((execDrayCommandCompletion dray seq s)) := by
  unfold execDrayCommandCompletion
  repeat' (first
    | with_reducible assumption
    | with_reducible apply State.drayEnd_canon
    | with_reducible apply outok_next
    | split)

theorem execDrayTimeout_canon (dray : Nat) (seq : Nat) (s : State) (hc : Canonical s) : OutOk ((execDrayTimeout dray seq s)) := by
  unfold execDrayTimeout
  repeat' (first
    | with_reducible assumption
    | with_reducible apply State.drayEnd_canon
    | with_reducible apply outok_next
    | split)

theorem State.drayEnqueue_canon (s : State) (dray : Nat) (c : DrayCmd) (d : GReg) (hc : Canonical s) : Canonical ((State.drayEnqueue s dray c d)) := by
  unfold State.drayEnqueue
  repeat' (first
    | with_reducible assumption
    | with_reducible apply State.setDray_canon
    | with_reducible apply State.landG_canon
    | with_reducible apply State.modMe_canon
    | with_reducible apply State.kickDray_canon)

theorem drayWord_canon (fn : Nat) (tk : TkReg) (d : GReg) (a : GReg) (b : GReg) (s : State) (hc : Canonical s) : OutOk ((drayWord fn tk d a b s)) := by
  unfold drayWord
  repeat' (first
    | with_reducible assumption
    | with_reducible apply finish_canon
    | with_reducible apply word_canon
    | with_reducible apply freeOnly_canon
    | with_reducible apply misaligned_canon
    | with_reducible apply localBytes_canon
    | with_reducible apply State.landG_canon
    | with_reducible apply accessFault_canon
    | with_reducible apply State.setDray_canon
    | with_reducible apply State.drayEnd_canon
    | with_reducible apply State.modMe_canon
    | with_reducible apply State.after_canon
    | with_reducible apply State.drayEnqueue_canon
    | with_reducible apply resok_ok
    | with_reducible apply resok_held
    | intro _
    | (extract_lets +onlyGivenNames x; refine cut (P := Canonical x) ?_ (fun _ => ?_); unfold x; try clear x; rotate_left; clear_value x; rotate_right)
    | (extract_lets +onlyGivenNames x; clear_value x)
    | split)

theorem execDrayCopy_canon (tk : TkReg) (d : GReg) (a : GReg) (b : GReg) (s : State) (hc : Canonical s) : OutOk ((execDrayCopy tk d a b s)) := by
  unfold execDrayCopy
  repeat' (first
    | with_reducible assumption
    | with_reducible apply drayWord_canon)

theorem execDrayGath_canon (tk : TkReg) (d : GReg) (a : GReg) (b : GReg) (s : State) (hc : Canonical s) : OutOk ((execDrayGath tk d a b s)) := by
  unfold execDrayGath
  repeat' (first
    | with_reducible assumption
    | with_reducible apply drayWord_canon)

theorem execDrayScat_canon (tk : TkReg) (d : GReg) (a : GReg) (b : GReg) (s : State) (hc : Canonical s) : OutOk ((execDrayScat tk d a b s)) := by
  unfold execDrayScat
  repeat' (first
    | with_reducible assumption
    | with_reducible apply drayWord_canon)

theorem execDraySeal_canon (tk : TkReg) (d : GReg) (a : GReg) (b : GReg) (s : State) (hc : Canonical s) : OutOk ((execDraySeal tk d a b s)) := by
  unfold execDraySeal
  repeat' (first
    | with_reducible assumption
    | with_reducible apply drayWord_canon)

theorem execDrayUnseal_canon (tk : TkReg) (d : GReg) (a : GReg) (b : GReg) (s : State) (hc : Canonical s) : OutOk ((execDrayUnseal tk d a b s)) := by
  unfold execDrayUnseal
  repeat' (first
    | with_reducible assumption
    | with_reducible apply drayWord_canon)

theorem execDrayFill_canon (tk : TkReg) (d : GReg) (a : GReg) (b : GReg) (s : State) (hc : Canonical s) : OutOk ((execDrayFill tk d a b s)) := by
  unfold execDrayFill
  repeat' (first
    | with_reducible assumption
    | with_reducible apply drayWord_canon)

theorem execDrayQueueFullExpiry_canon (sid : Nat) (s : State) (hc : Canonical s) : OutOk ((execDrayQueueFullExpiry sid s)) := by
  unfold execDrayQueueFullExpiry
  repeat' (first
    | with_reducible assumption
    | with_reducible apply State.modStrand_canon
    | with_reducible apply outok_next
    | split)

theorem execDstat_canon (d : GReg) (a : GReg) (s : State) (hc : Canonical s) : OutOk ((execDstat d a s)) := by
  unfold execDstat
  repeat' (first
    | with_reducible assumption
    | with_reducible apply finish_canon
    | with_reducible apply word_canon
    | with_reducible apply freeOnly_canon
    | with_reducible apply State.landG_canon
    | with_reducible apply resok_ok
    | intro _)

theorem execDwait_canon (d : GReg) (a : GReg) (b : GReg) (s : State) (hc : Canonical s) : OutOk ((execDwait d a b s)) := by
  unfold execDwait
  repeat' (first
    | with_reducible assumption
    | with_reducible apply finish_canon
    | with_reducible apply word_canon
    | with_reducible apply freeOnly_canon
    | with_reducible apply State.landG_canon
    | with_reducible apply State.promise_canon
    | with_reducible apply State.owe_canon
    | with_reducible apply State.modMe_canon
    | with_reducible apply resok_ok
    | intro _
    | (extract_lets +onlyGivenNames x; refine cut (P := Canonical x) ?_ (fun _ => ?_); unfold x; try clear x; rotate_left; clear_value x; rotate_right)
    | (extract_lets +onlyGivenNames x; clear_value x)
    | split)

theorem execDwaitWake_canon (sid : Nat) (s : State) (hc : Canonical s) : OutOk ((execDwaitWake sid s)) := by
  unfold execDwaitWake
  repeat' (first
    | with_reducible assumption
    | with_reducible apply State.modStrand_canon
    | with_reducible apply State.resolve_canon
    | with_reducible apply outok_next
    | (extract_lets +onlyGivenNames x; refine cut (P := Canonical x) ?_ (fun _ => ?_); unfold x; try clear x; rotate_left; clear_value x; rotate_right)
    | (extract_lets +onlyGivenNames x; clear_value x)
    | split)

theorem execDcancel_canon (d : GReg) (a : GReg) (s : State) (hc : Canonical s) : OutOk ((execDcancel d a s)) := by
  unfold execDcancel
  repeat' (first
    | with_reducible assumption
    | with_reducible apply finish_canon
    | with_reducible apply word_canon
    | with_reducible apply freeOnly_canon
    | with_reducible apply State.drayEnd_canon
    | with_reducible apply State.landG_canon
    | with_reducible apply resok_ok
    | intro _
    | split)

theorem State.timedFault_canon (s : State) (l : Nat) (core : Nat) (t : TrapInfo) (hc : Canonical s) : Canonical ((State.timedFault s l core t)) := by
  unfold State.timedFault
  repeat' (first
    | with_reducible assumption
    | with_reducible apply State.endingEvent_canon)

theorem State.timedChecks_canon (s : State) (l : Nat) (pa : Nat) (n : Nat) (hc : Canonical s) : Canonical ((State.timedChecks s l pa n)) := by
  unfold State.timedChecks
  repeat' (first
    | with_reducible assumption
    | with_reducible apply State.duration_canon
    | with_reducible apply State.after_canon
    | with_reducible apply State.modLaunch_canon
    | with_reducible apply foldl_canonical
    | intro _)

theorem State.timedRead_canon (s : State) (l : Nat) (idx : Nat) (e : TimedDray) (c : DrayCmd) (i : Nat) (hc : Canonical s) : Canonical ((State.timedRead s l idx e c i)) := by
  unfold State.timedRead
  repeat' (first
    | with_reducible assumption
    | with_reducible apply State.modLaunch_canon
    | with_reducible apply State.timedFault_canon
    | with_reducible apply State.timedChecks_canon
    | with_reducible apply State.takeMemPath_canon
    | (with_reducible apply State.takeBanks_canon_fwd; with_reducible assumption)
    | with_reducible apply foldl_canonical
    | with_reducible apply_assumption -exfalso -symm
    | intro _
    | (extract_lets +onlyGivenNames x; refine cut (P := ∀ t a, Canonical t → Canonical (x t a)) ?_ (fun _ => ?_); unfold x; try clear x; rotate_left; clear_value x; rotate_right)
    | (extract_lets +onlyGivenNames x; clear_value x)
    | split)

theorem State.timedWrite_canon (s : State) (l : Nat) (e : TimedDray) (c : DrayCmd) (i : Nat) (hc : Canonical s) : Canonical ((State.timedWrite s l e c i)) := by
  unfold State.timedWrite
  repeat' (first
    | with_reducible assumption
    | with_reducible apply State.timedFault_canon
    | with_reducible apply State.spadWrite_canon
    | with_reducible apply State.physWrite_canon
    | with_reducible apply State.takeMemPath_canon
    | (with_reducible apply State.takeBanks_canon_fwd; with_reducible assumption)
    | with_reducible apply foldl_fst
    | with_reducible apply_assumption -exfalso -symm
    | intro _
    | (extract_lets +onlyGivenNames x; refine cut (P := ∀ a, Canonical (x a)) ?_ (fun _ => ?_); unfold x; try clear x; rotate_left; clear_value x; rotate_right)
    | (extract_lets +onlyGivenNames x; clear_value x)
    | split)

theorem execTimedDrayStart_canon (launch : Nat) (idx : Nat) (s : State) (hc : Canonical s) : OutOk ((execTimedDrayStart launch idx s)) := by
  unfold execTimedDrayStart
  repeat' (first
    | with_reducible assumption
    | with_reducible apply State.timedRead_canon
    | with_reducible apply State.timedWrite_canon
    | with_reducible apply State.owe_canon
    | with_reducible apply outok_next
    | (extract_lets +onlyGivenNames x; refine cut (P := Canonical x) ?_ (fun _ => ?_); unfold x; try clear x; rotate_left; clear_value x; rotate_right)
    | (extract_lets +onlyGivenNames x; clear_value x)
    | split)

theorem execTimedReadCheck_canon (launch : Nat) (la : Nat) (s : State) (hc : Canonical s) : OutOk ((execTimedReadCheck launch la s)) := by
  unfold execTimedReadCheck
  repeat' (first
    | with_reducible assumption
    | with_reducible apply State.modLaunch_canon
    | with_reducible apply State.endingEvent_canon
    | with_reducible apply State.chargeLine_canon
    | with_reducible apply State.launchComplete_canon
    | with_reducible apply outok_next
    | (extract_lets +onlyGivenNames x; refine cut (P := Canonical x) ?_ (fun _ => ?_); unfold x; try clear x; rotate_left; clear_value x; rotate_right)
    | split)

theorem privWord_canon (level : Nat) (src : List Dst) (dst : List Dst) (s : State) (k : State → Res) (hc : Canonical s) (hk_ : ∀ (x0_ : State), Canonical x0_ → ResOk (k x0_)) : OutOk ((privWord level src dst s k)) := by
  unfold privWord
  repeat' (first
    | with_reducible assumption
    | with_reducible apply finish_canon
    | with_reducible apply word_canon
    | with_reducible apply freeOnly_canon
    | intro _)

theorem State.landWait_canon (s : State) (d : GReg) (v : Word) (turns : Nat) (hc : Canonical s) : Canonical ((State.landWait s d v turns)) := by
  unfold State.landWait
  repeat' (first
    | with_reducible assumption
    | with_reducible apply State.modMe_canon
    | with_reducible apply State.landG_canon)

theorem State.landWithin_canon (s : State) (d : GReg) (v : Word) (bound : Nat) (hc : Canonical s) : Canonical ((State.landWithin s d v bound)) := by
  unfold State.landWithin
  repeat' (first
    | with_reducible assumption
    | with_reducible apply State.duration_canon
    | with_reducible apply State.landWait_canon)

theorem State.xlat_canon (s : State) (v : Nat) (va : Nat) (program : Bool) (kind : Option Right) (hc : Canonical s) : Canonical ((State.xlat s v va program kind)).1 := by
  unfold State.xlat
  repeat' (first
    | with_reducible assumption
    | with_reducible apply State.chargeLine_canon
    | (with_reducible apply State.walk_canon_fwd2; with_reducible assumption)
    | split)

theorem xlatOp_canon (kind : Option Right) (d : GReg) (a : GReg) (b : GReg) (s : State) (hc : Canonical s) : OutOk ((xlatOp kind d a b s)) := by
  unfold xlatOp
  repeat' (first
    | with_reducible assumption
    | with_reducible apply privWord_canon
    | with_reducible apply privilege_canon
    | with_reducible apply State.landWait_canon
    | with_reducible apply State.xlat_canon
    | with_reducible apply resok_ok
    | intro _
    | (extract_lets +onlyGivenNames x; clear_value x)
    | split)

theorem execXlatRead_canon (d : GReg) (a : GReg) (b : GReg) (s : State) (hc : Canonical s) : OutOk ((execXlatRead d a b s)) := by
  unfold execXlatRead
  repeat' (first
    | with_reducible assumption
    | with_reducible apply xlatOp_canon)

theorem execXlatWrite_canon (d : GReg) (a : GReg) (b : GReg) (s : State) (hc : Canonical s) : OutOk ((execXlatWrite d a b s)) := by
  unfold execXlatWrite
  repeat' (first
    | with_reducible assumption
    | with_reducible apply xlatOp_canon)

theorem execXlatFetch_canon (d : GReg) (a : GReg) (b : GReg) (s : State) (hc : Canonical s) : OutOk ((execXlatFetch d a b s)) := by
  unfold execXlatFetch
  repeat' (first
    | with_reducible assumption
    | with_reducible apply xlatOp_canon)

theorem execXlatProbe_canon (d : GReg) (a : GReg) (b : GReg) (s : State) (hc : Canonical s) : OutOk ((execXlatProbe d a b s)) := by
  unfold execXlatProbe
  repeat' (first
    | with_reducible assumption
    | with_reducible apply xlatOp_canon)

theorem tlbinv_canon (d : GReg) (b : GReg) (page : Option GReg) (s : State) (hc : Canonical s) : OutOk ((tlbinv d b page s)) := by
  unfold tlbinv
  repeat' (first
    | with_reducible assumption
    | with_reducible apply privWord_canon
    | with_reducible apply privilege_canon
    | with_reducible apply State.landWait_canon
    | with_reducible apply State.promise_canon
    | with_reducible apply State.modMe_canon
    | with_reducible apply resok_ok
    | intro _
    | (extract_lets +onlyGivenNames x; refine cut (P := Canonical x) ?_ (fun _ => ?_); unfold x; try clear x; rotate_left; clear_value x; rotate_right)
    | (extract_lets +onlyGivenNames x; clear_value x)
    | split)

theorem execTlbinvPage_canon (d : GReg) (a : GReg) (b : GReg) (s : State) (hc : Canonical s) : OutOk ((execTlbinvPage d a b s)) := by
  unfold execTlbinvPage
  repeat' (first
    | with_reducible assumption
    | with_reducible apply tlbinv_canon)

theorem execTlbinvVd_canon (d : GReg) (b : GReg) (s : State) (hc : Canonical s) : OutOk ((execTlbinvVd d b s)) := by
  unfold execTlbinvVd
  repeat' (first
    | with_reducible assumption
    | with_reducible apply tlbinv_canon)

theorem execMigset_canon (d : GReg) (a : GReg) (b : GReg) (s : State) (hc : Canonical s) : OutOk ((execMigset d a b s)) := by
  unfold execMigset
  repeat' (first
    | with_reducible assumption
    | with_reducible apply privWord_canon
    | with_reducible apply State.landG_canon
    | with_reducible apply State.drayEnqueue_canon
    | with_reducible apply State.setMig_canon
    | with_reducible apply privilege_canon
    | with_reducible apply State.chargeLine_canon
    | with_reducible apply State.shootDown_canon
    | with_reducible apply State.setFrame_canon
    | (with_reducible apply State.walk_canon_fwd2; with_reducible assumption)
    | with_reducible apply resok_ok
    | with_reducible apply_assumption -exfalso -symm
    | intro _
    | (extract_lets +onlyGivenNames x; refine cut (P := Canonical x) ?_ (fun _ => ?_); unfold x; try clear x; rotate_left; clear_value x; rotate_right)
    | (extract_lets +onlyGivenNames x; refine cut (P := ∀ t a, Canonical t → ResOk (x t a)) ?_ (fun _ => ?_); unfold x; try clear x; rotate_left; clear_value x; rotate_right)
    | (extract_lets +onlyGivenNames x; refine cut (P := ∀ t a b, Canonical t → ResOk (x t a b)) ?_ (fun _ => ?_); unfold x; try clear x; rotate_left; clear_value x; rotate_right)
    | (extract_lets +onlyGivenNames x; clear_value x)
    | split)

theorem State.redirect_canon (s : State) (v : Nat) (old : Nat) (new : Nat) (hc : Canonical s) : Canonical ((State.redirect s v old new)) := by
  unfold State.redirect
  repeat' (first
    | with_reducible assumption
    | with_reducible apply Canonical.wmem
    | with_reducible apply Canonical.wspad
    | ((fail_if_success (fail_if_success (simp -zeta only [canonical_mk]))); with_reducible refine canon_keep rfl rfl rfl rfl rfl rfl rfl rfl rfl rfl rfl rfl ?_ ?_ ?_))

theorem State.migrationEnd_canon (s : State) (slot : Nat) (m : MigSlot) (c : DrayCmd) (hc : Canonical s) : Canonical ((State.migrationEnd s slot m c)) := by
  unfold State.migrationEnd
  repeat' (first
    | with_reducible assumption
    | with_reducible apply State.redirect_canon
    | with_reducible apply State.engineWrite_canon
    | with_reducible apply State.setFrame_canon
    | with_reducible apply State.drayEnd_canon
    | with_reducible apply State.setMig_canon
    | with_reducible apply State.shootDown_canon
    | split)

theorem execMigrationLineCopy_canon (slot : Nat) (s : State) (hc : Canonical s) : OutOk ((execMigrationLineCopy slot s)) := by
  unfold execMigrationLineCopy
  repeat' (first
    | with_reducible assumption
    | with_reducible apply State.drayEnd_canon
    | with_reducible apply State.setMig_canon
    | with_reducible apply State.chargeLine_canon
    | with_reducible apply State.engineWrite_canon
    | with_reducible apply State.setCmd_canon
    | with_reducible apply State.migrationEnd_canon
    | with_reducible apply outok_next
    | (extract_lets +onlyGivenNames x; refine cut (P := Canonical x) ?_ (fun _ => ?_); unfold x; try clear x; rotate_left; clear_value x; rotate_right)
    | (extract_lets +onlyGivenNames x; clear_value x)
    | split)

theorem execMint_canon (tk : TkReg) (d : GReg) (a : GReg) (b : GReg) (s : State) (hc : Canonical s) : OutOk ((execMint tk d a b s)) := by
  unfold execMint
  repeat' (first
    | with_reducible assumption
    | with_reducible apply privWord_canon
    | with_reducible apply State.landG_canon
    | with_reducible apply State.engineWrite_canon
    | with_reducible apply State.landWide_canon
    | with_reducible apply resok_ok
    | with_reducible apply resok_trap
    | with_reducible apply_assumption -exfalso -symm
    | intro _
    | (extract_lets +onlyGivenNames x; refine cut (P := Canonical x) ?_ (fun _ => ?_); unfold x; try clear x; rotate_left; clear_value x; rotate_right)
    | (extract_lets +onlyGivenNames x; refine cut (P := ∀ a, ResOk (x a)) ?_ (fun _ => ?_); unfold x; try clear x; rotate_left; clear_value x; rotate_right)
    | (extract_lets +onlyGivenNames x; clear_value x)
    | split)

theorem execPortOpen_canon (x : Nat) (y : Nat) (port : Nat) (vd : Nat) (s : State) (hc : Canonical s) : OutOk ((execPortOpen x y port vd s)) := by
  unfold execPortOpen
  repeat' (first
    | with_reducible assumption
    | with_reducible apply State.setPort_canon
    | with_reducible apply outok_next
    | split)

theorem execPortClose_canon (x : Nat) (y : Nat) (port : Nat) (s : State) (hc : Canonical s) : OutOk ((execPortClose x y port s)) := by
  unfold execPortClose
  repeat' (first
    | with_reducible assumption
    | with_reducible apply State.setPort_canon
    | with_reducible apply outok_next
    | split)

theorem execRevokePort_canon (d : GReg) (a : GReg) (s : State) (hc : Canonical s) : OutOk ((execRevokePort d a s)) := by
  unfold execRevokePort
  repeat' (first
    | with_reducible assumption
    | with_reducible apply privWord_canon
    | with_reducible apply State.landWait_canon
    | with_reducible apply State.promise_canon
    | with_reducible apply State.owe_canon
    | with_reducible apply State.modMe_canon
    | with_reducible apply resok_ok
    | intro _
    | (extract_lets +onlyGivenNames x; refine cut (P := Canonical x) ?_ (fun _ => ?_); unfold x; try clear x; rotate_left; clear_value x; rotate_right)
    | (extract_lets +onlyGivenNames x; clear_value x)
    | split)

theorem execPortGenerationAdvance_canon (x : Nat) (y : Nat) (port : Nat) (s : State) (hc : Canonical s) : OutOk ((execPortGenerationAdvance x y port s)) := by
  unfold execPortGenerationAdvance
  extract_lets k
  refine foldl_canonical _ ?_ _ _ hc
  intro s r h
  split
  · split
    · exact h
    · extract_lets en
      have h' : ∀ c : Prop, ∀ [Decidable c], ∀ c' : Prop, ∀ [Decidable c'], ∀ x v v' v'', Canonical (if c then (s, v) else if c' then (s, v') else (s.setPort k x, v'') : State × Word).1 := by
        intro c _ c' _ x v v' v''
        split
        · exact h
        · split
          · exact h
          · exact State.setPort_canon _ _ _ h
      dsimp only
      split
      · exact State.modStrand_canon _ _ _ (h' _ _ _ _ _ _)
      · exact State.deliver_canon _ _ _ _ _ _ _ (State.modStrand_canon _ _ _ (h' _ _ _ _ _ _))
  · exact h

theorem readRecord_canon (s : State) (rec_ : Nat) (n : Nat) (k : State → Res) (hc : Canonical s) (hk_ : ∀ (x0_ : State), Canonical x0_ → ResOk (k x0_)) : ResOk ((readRecord s rec_ n k)) := by
  unfold readRecord
  repeat' (first
    | with_reducible assumption
    | with_reducible apply hk_
    | with_reducible apply resok_trap
    | split)

theorem execRevokeKey_canon (d : GReg) (a : GReg) (b : GReg) (s : State) (hc : Canonical s) : OutOk ((execRevokeKey d a b s)) := by
  unfold execRevokeKey
  repeat' (first
    | with_reducible assumption
    | with_reducible apply privWord_canon
    | with_reducible apply State.landWait_canon
    | with_reducible apply readRecord_canon
    | with_reducible apply State.engineWrite_canon
    | with_reducible apply State.promise_canon
    | with_reducible apply State.modPkg_canon
    | with_reducible apply State.modMe_canon
    | with_reducible apply State.owe_canon
    | with_reducible apply resok_ok
    | intro _
    | (extract_lets +onlyGivenNames x; clear_value x)
    | split)

theorem execKeyDigestCompare_canon (equal : Bool) (s : State) (hc : Canonical s) : OutOk ((execKeyDigestCompare equal s)) := by
  unfold execKeyDigestCompare
  repeat' (first
    | with_reducible assumption
    | with_reducible apply State.modPkg_canon
    | with_reducible apply outok_next
    | split)

theorem execRouteKeyAdvance_canon (s : State) (hc : Canonical s) : OutOk ((execRouteKeyAdvance s)) := by
  unfold execRouteKeyAdvance
  repeat' (first
    | with_reducible assumption
    | with_reducible apply State.modPkg_canon
    | with_reducible apply State.modStrand_canon
    | with_reducible apply State.deliver_canon
    | with_reducible apply outok_next
    | (extract_lets +onlyGivenNames x; refine cut (P := Canonical x) ?_ (fun _ => ?_); unfold x; try clear x; rotate_left; clear_value x; rotate_right)
    | (extract_lets +onlyGivenNames x; clear_value x)
    | split)

theorem State.clearRecord_canon (s : State) (rec_ : Nat) (hc : Canonical s) : Canonical ((State.clearRecord s rec_)) := by
  unfold State.clearRecord
  repeat' (first
    | with_reducible assumption
    | with_reducible apply State.engineWrite_canon)

theorem execKeysetSet_canon (d : GReg) (a : GReg) (b : GReg) (s : State) (hc : Canonical s) : OutOk ((execKeysetSet d a b s)) := by
  unfold execKeysetSet
  repeat' (first
    | with_reducible assumption
    | with_reducible apply privWord_canon
    | with_reducible apply State.landWithin_canon
    | with_reducible apply readRecord_canon
    | with_reducible apply State.dropKid_canon
    | with_reducible apply State.clearRecord_canon
    | with_reducible apply State.setKey_canon
    | with_reducible apply resok_ok
    | intro _
    | (extract_lets +onlyGivenNames x; clear_value x)
    | split)

theorem State.zeroLines_canon (s : State) (la : Nat) (z2 : Nat) (hc : Canonical s) : Canonical ((State.zeroLines s la z2)) := by
  fun_induction State.zeroLines s la z2
  all_goals repeat' (first
    | with_reducible assumption
    | with_reducible apply State.engineWrite_canon
    | with_reducible apply_assumption -exfalso -symm)

theorem execKeysetWin_canon (d : GReg) (a : GReg) (b : GReg) (s : State) (hc : Canonical s) : OutOk ((execKeysetWin d a b s)) := by
  unfold execKeysetWin
  refine privWord_canon _ _ _ _ _ hc (fun t h => ?_)
  extract_lets w kid owner peer rec_ st
  clear_value st rec_ peer owner kid w
  repeat' (first
    | with_reducible assumption
    | with_reducible apply State.landWithin_canon
    | with_reducible apply readRecord_canon
    | with_reducible apply State.setKey_canon
    | with_reducible apply State.dropFrames_canon
    | with_reducible apply State.dropKid_canon
    | with_reducible apply State.makeFresh_canon
    | with_reducible apply State.zeroLines_canon
    | with_reducible apply State.clearRecord_canon
    | with_reducible apply resok_ok
    | with_reducible apply foldl_canonical
    | intro _
    | (extract_lets +onlyGivenNames x; refine cut (P := Canonical x) ?_ (fun _ => ?_); unfold x; try clear x; rotate_left; clear_value x; rotate_right)
    | (extract_lets +onlyGivenNames x; clear_value x)
    | split)

theorem execKeysetErase_canon (d : GReg) (a : GReg) (b : GReg) (s : State) (hc : Canonical s) : OutOk ((execKeysetErase d a b s)) := by
  unfold execKeysetErase
  repeat' (first
    | with_reducible assumption
    | with_reducible apply privWord_canon
    | with_reducible apply State.landWithin_canon
    | with_reducible apply State.dropKid_canon
    | with_reducible apply State.setKey_canon
    | with_reducible apply State.clearRecord_canon
    | with_reducible apply resok_ok
    | intro _
    | (extract_lets +onlyGivenNames x; refine cut (P := Canonical x) ?_ (fun _ => ?_); unfold x; try clear x; rotate_left; clear_value x; rotate_right)
    | (extract_lets +onlyGivenNames x; clear_value x)
    | split)

theorem execFrameAssignment_canon (frame : Nat) (owner : Nat) (assigned : Bool) (fresh : Bool) (s : State) (hc : Canonical s) : OutOk ((execFrameAssignment frame owner assigned fresh s)) := by
  unfold execFrameAssignment
  repeat' (first
    | with_reducible assumption
    | with_reducible apply State.dropFrames_canon
    | with_reducible apply State.makeFresh_canon
    | with_reducible apply State.setFrame_canon
    | with_reducible apply outok_next
    | (extract_lets +onlyGivenNames x; refine cut (P := Canonical x) ?_ (fun _ => ?_); unfold x; try clear x; rotate_left; clear_value x; rotate_right)
    | (extract_lets +onlyGivenNames x; clear_value x)
    | split)

end Sys2Proof.Machine
end

