-- ==== Sys2Proof/Laws/CanonWork.lean ====
section
/-! SUPPORT. Memory, scratchpads and tables stay in their canonical form: the launch engine and scored launches. -/
set_option linter.all false
namespace Sys2Proof.Machine

theorem State.modQueue_canon (s : State) (p : Nat) (q : Nat) (f : LaunchQueue → LaunchQueue) (hc : Canonical s) : Canonical ((State.modQueue s p q f)) := by
  unfold State.modQueue
  repeat' (first
    | with_reducible assumption
    | with_reducible apply State.modPart_canon)

theorem State.advanceQueue_canon (s : State) (p : Nat) (q : Nat) (hc : Canonical s) : Canonical ((State.advanceQueue s p q)) := by
  unfold State.advanceQueue
  repeat' (first
    | with_reducible assumption
    | with_reducible apply State.modQueue_canon
    | with_reducible apply State.engineWrite_canon)

theorem State.engineFault_canon (s : State) (p : Nat) (cause : Nat) (eval : Nat) (lid : Nat) (hc : Canonical s) : Canonical ((State.engineFault s p cause eval lid)) := by
  unfold State.engineFault
  repeat' (first
    | with_reducible assumption
    | with_reducible apply State.postFault_canon)

theorem execLaunchQueuePoll_canon (part : Nat) (q : Nat) (s : State) (hc : Canonical s) : OutOk ((execLaunchQueuePoll part q s)) := by
  unfold execLaunchQueuePoll
  repeat' (first
    | with_reducible assumption
    | with_reducible apply State.countIntegrity_canon
    | with_reducible apply State.wakePart_canon
    | with_reducible apply State.modQueue_canon
    | with_reducible apply State.engineFault_canon
    | with_reducible apply State.kickEngine_canon
    | with_reducible apply outok_next
    | (extract_lets +onlyGivenNames x; refine cut (P := Canonical x) ?_ (fun _ => ?_); unfold x; try clear x; rotate_left; clear_value x; rotate_right)
    | (extract_lets +onlyGivenNames x; clear_value x)
    | split)

theorem State.stopAccess_canon (s : State) (sid : Nat) (id : Nat) (a : Access) (hc : Canonical s) : Canonical ((State.stopAccess s sid id a)) := by
  unfold State.stopAccess
  repeat' (first
    | with_reducible assumption
    | with_reducible apply State.setStrand_canon
    | with_reducible apply State.dropAccess_canon)

theorem State.squash_canon (s : State) (sid : Nat) (hc : Canonical s) : Canonical ((State.squash s sid)) := by
  unfold State.squash
  repeat' (first
    | with_reducible assumption
    | with_reducible apply State.modStrand_canon
    | with_reducible apply State.stopAccess_canon
    | (extract_lets +onlyGivenNames x; refine cut (P := Canonical x) ?_ (fun _ => ?_); unfold x; try clear x; rotate_left; clear_value x; rotate_right)
    | split)

theorem State.requestPreempt_canon (s : State) (sid : Nat) (w : Leave) (hc : Canonical s) : Canonical ((State.requestPreempt s sid w)) := by
  unfold State.requestPreempt
  repeat' (first
    | with_reducible assumption
    | with_reducible apply State.squash_canon
    | with_reducible apply State.now_canon
    | with_reducible apply State.modStrand_canon
    | split)

theorem State.relabel_canon (s : State) (old : Nat) (new : Nat) (hc : Canonical s) : Canonical ((State.relabel s old new)) := by
  unfold State.relabel
  repeat' (first
    | with_reducible assumption
    | with_reducible apply Canonical.wmem
    | with_reducible apply Canonical.wspad
    | with_reducible apply Canonical.rstrands
    | with_reducible apply Canonical.rcores
    | with_reducible apply Canonical.rharps
    | with_reducible apply Canonical.rlaunches
    | with_reducible apply Canonical.rvds
    | with_reducible apply Canonical.rparts
    | with_reducible apply Canonical.rkeys
    | with_reducible apply Canonical.rframes
    | with_reducible apply Canonical.rmig
    | with_reducible apply Canonical.rports
    | with_reducible apply Canonical.rdrays
    | with_reducible apply Canonical.rqps
    | (with_reducible refine rising_map ?_ ?_; rotate_left; (intro _; first | rfl | (split <;> rfl)))
    | (extract_lets +onlyGivenNames x; clear_value x)
    | (simp -zeta only [canonical_mk]; refine ⟨?_,?_,?_,?_,?_,?_,?_,?_,?_,?_,?_,?_,?_,?_⟩))

theorem State.freeBytes_canon (s : State) (z1 : Nat) (hc : Canonical s) : Canonical ((State.freeBytes s z1)).2 := by
  induction z1 generalizing s with
  | zero => exact hc
  | succ n ih => exact ih _ (State.freeWord_canon s hc)

theorem State.contextBlock_canon (s : State) (e : Saved) (size : Nat) (hc : Canonical s) : Canonical ((State.contextBlock s e size)).2 := by
  unfold State.contextBlock
  repeat' (first
    | with_reducible assumption
    | with_reducible apply State.freeWord_canon
    | with_reducible apply State.freeBytes_canon)

theorem State.contextBlock_canon_fwd2 {s : State} {e : Saved} {size : Nat} {w_ : State} {z_ : _} (eq_ : (State.contextBlock s e size) = (z_, w_)) (hc : Canonical s) : Canonical w_ := by
  have := State.contextBlock_canon s e size hc; rw [eq_] at this; exact this

theorem State.freezeIfGone_canon (s : State) (l : Nat) (hc : Canonical s) : Canonical ((State.freezeIfGone s l)) := by
  unfold State.freezeIfGone
  repeat' (first
    | with_reducible assumption
    | with_reducible apply State.setLaunch_canon
    | (extract_lets +onlyGivenNames x; clear_value x)
    | split)

theorem State.saveStrand_canon (s : State) (sid : Nat) (w : Leave) (hc : Canonical s) : Canonical ((State.saveStrand s sid w)) := by
  unfold State.saveStrand
  repeat' (first
    | with_reducible assumption
    | with_reducible apply State.modCore_canon
    | with_reducible apply State.setStrand_canon
    | with_reducible apply State.idle_canon
    | with_reducible apply State.relabel_canon
    | with_reducible apply State.linesWrite_canon
    | with_reducible apply State.freezeIfGone_canon
    | with_reducible apply State.after_canon
    | with_reducible apply State.kickEngine_canon
    | with_reducible apply State.now_canon
    | (with_reducible apply State.fresh_canon_fwd2; with_reducible assumption)
    | (with_reducible apply State.contextBlock_canon_fwd2; with_reducible assumption)
    | with_reducible apply Canonical.wmem
    | with_reducible apply Canonical.wspad
    | (extract_lets +onlyGivenNames x; refine cut (P := Canonical x) ?_ (fun _ => ?_); unfold x; try clear x; rotate_left; clear_value x; rotate_right)
    | (extract_lets +onlyGivenNames x; clear_value x)
    | split
    | ((fail_if_success (fail_if_success (simp -zeta only [canonical_mk]))); with_reducible refine canon_keep rfl rfl rfl rfl rfl rfl rfl rfl rfl rfl rfl rfl ?_ ?_ ?_))

theorem execFreePreempt_canon (sid : Nat) (s : State) (hc : Canonical s) : OutOk ((execFreePreempt sid s)) := by
  unfold execFreePreempt
  repeat' (first
    | with_reducible assumption
    | with_reducible apply State.requestPreempt_canon
    | with_reducible apply State.saveStrand_canon
    | with_reducible apply State.after_canon
    | with_reducible apply outok_next
    | split)

theorem State.reowe_canon (s : State) (sid : Nat) (hc : Canonical s) : Canonical ((State.reowe s sid)) := by
  unfold State.reowe
  repeat' (first
    | with_reducible assumption
    | with_reducible apply State.now_canon
    | with_reducible apply State.owe_canon
    | (extract_lets +onlyGivenNames x; refine cut (P := Canonical x) ?_ (fun _ => ?_); unfold x; try clear x; rotate_left; clear_value x; rotate_right)
    | (extract_lets +onlyGivenNames x; clear_value x)
    | split)

theorem State.restoreStrand_canon (s : State) (sid : Nat) (e : Saved) (hc : Canonical s) : Canonical ((State.restoreStrand s sid e)) := by
  unfold State.restoreStrand
  repeat' (first
    | with_reducible assumption
    | with_reducible apply State.modCore_canon
    | with_reducible apply State.takeVd_canon
    | with_reducible apply State.after_canon
    | with_reducible apply State.setStrand_canon
    | with_reducible apply State.relabel_canon
    | with_reducible apply State.modLaunch_canon
    | with_reducible apply State.reowe_canon
    | with_reducible apply foldl_canonical
    | with_reducible apply Canonical.wmem
    | with_reducible apply Canonical.wspad
    | with_reducible apply rising_tput
    | with_reducible apply Canonical.rstrands
    | with_reducible apply Canonical.rcores
    | with_reducible apply Canonical.rharps
    | with_reducible apply Canonical.rlaunches
    | with_reducible apply Canonical.rvds
    | with_reducible apply Canonical.rparts
    | with_reducible apply Canonical.rkeys
    | with_reducible apply Canonical.rframes
    | with_reducible apply Canonical.rmig
    | with_reducible apply Canonical.rports
    | with_reducible apply Canonical.rdrays
    | with_reducible apply Canonical.rqps
    | intro _
    | split
    | (simp -zeta only [canonical_mk]; refine ⟨?_,?_,?_,?_,?_,?_,?_,?_,?_,?_,?_,?_,?_,?_⟩))

theorem State.resumeSaved_canon (s : State) (hc : Canonical s) : Canonical ((State.resumeSaved s)) := by
  unfold State.resumeSaved
  repeat' (first
    | with_reducible assumption
    | with_reducible apply State.restoreStrand_canon
    | with_reducible apply foldl_canonical
    | with_reducible apply Canonical.wmem
    | with_reducible apply Canonical.wspad
    | intro _
    | split
    | ((fail_if_success (fail_if_success (simp -zeta only [canonical_mk]))); with_reducible refine canon_keep rfl rfl rfl rfl rfl rfl rfl rfl rfl rfl rfl rfl ?_ ?_ ?_))

theorem execYield_canon (s : State) (hc : Canonical s) : OutOk ((execYield s)) := by
  unfold execYield
  repeat' (first
    | with_reducible assumption
    | with_reducible apply finish_canon
    | with_reducible apply word_canon
    | with_reducible apply State.requestPreempt_canon
    | with_reducible apply resok_ok
    | intro _
    | (extract_lets +onlyGivenNames x; clear_value x)
    | split)

theorem execCtxsave_canon (d : GReg) (a : GReg) (s : State) (hc : Canonical s) : OutOk ((execCtxsave d a s)) := by
  unfold execCtxsave
  repeat' (first
    | with_reducible assumption
    | with_reducible apply privWord_canon
    | with_reducible apply State.landWait_canon
    | with_reducible apply State.promise_canon
    | with_reducible apply State.modMe_canon
    | with_reducible apply State.requestPreempt_canon
    | with_reducible apply resok_ok
    | with_reducible apply Canonical.wmem
    | with_reducible apply Canonical.wspad
    | intro _
    | (extract_lets +onlyGivenNames x; refine cut (P := Canonical x) ?_ (fun _ => ?_); unfold x; try clear x; rotate_left; clear_value x; rotate_right)
    | (extract_lets +onlyGivenNames x; clear_value x)
    | split
    | ((fail_if_success (fail_if_success (simp -zeta only [canonical_mk]))); with_reducible refine canon_keep rfl rfl rfl rfl rfl rfl rfl rfl rfl rfl rfl rfl ?_ ?_ ?_))

theorem execCtxload_canon (d : GReg) (a : GReg) (s : State) (hc : Canonical s) : OutOk ((execCtxload d a s)) := by
  unfold execCtxload
  repeat' (first
    | with_reducible assumption
    | with_reducible apply privWord_canon
    | with_reducible apply State.engineWrite_canon
    | with_reducible apply State.landWithin_canon
    | with_reducible apply State.restoreStrand_canon
    | with_reducible apply State.countRead_canon
    | with_reducible apply State.landWait_canon
    | with_reducible apply resok_ok
    | with_reducible apply Canonical.wmem
    | with_reducible apply Canonical.wspad
    | intro _
    | (extract_lets +onlyGivenNames x; clear_value x)
    | split
    | ((fail_if_success (fail_if_success (simp -zeta only [canonical_mk]))); with_reducible refine canon_keep rfl rfl rfl rfl rfl rfl rfl rfl rfl rfl rfl rfl ?_ ?_ ?_))

theorem State.place_canon (s : State) (p : Nat) (q : Nat) (d : LaunchDesc) (cs : List Nat) (hc : Canonical s) : Canonical ((State.place s p q d cs)) := by
  unfold State.place
  repeat' (first
    | with_reducible assumption
    | with_reducible apply State.duration_canon
    | with_reducible apply State.fresh_canon
    | with_reducible apply State.modCore_canon
    | with_reducible apply State.takeVd_canon
    | with_reducible apply State.setStrand_canon
    | with_reducible apply State.setGraph_canon
    | with_reducible apply State.modQueue_canon
    | with_reducible apply State.setLaunch_canon
    | with_reducible apply foldl_canonical
    | intro _)

theorem State.recordSkipped_canon (s : State) (p : Nat) (d : LaunchDesc) (hc : Canonical s) : Canonical ((State.recordSkipped s p d)) := by
  unfold State.recordSkipped
  repeat' (first
    | with_reducible assumption
    | with_reducible apply State.recordLaunch_canon
    | with_reducible apply State.countCanc_canon
    | with_reducible apply State.setGraph_canon
    | (extract_lets +onlyGivenNames x; clear_value x)
    | split)

theorem State.serveHead_canon (s : State) (p : Nat) (q : Nat) (hc : Canonical s) : ServedOk ((State.serveHead s p q)) := by
  unfold State.serveHead
  repeat' (first
    | with_reducible assumption
    | with_reducible apply State.countIntegrity_canon
    | with_reducible apply State.recordSkipped_canon
    | with_reducible apply State.engineFault_canon
    | with_reducible apply State.advanceQueue_canon
    | with_reducible apply State.place_canon
    | with_reducible apply State.modQueue_canon
    | with_reducible apply servedok_moved
    | with_reducible apply servedok_stays
    | with_reducible apply servedok_starves
    | (extract_lets +onlyGivenNames x; refine cut (P := Canonical x) ?_ (fun _ => ?_); unfold x; try clear x; rotate_left; clear_value x; rotate_right)
    | split)

theorem State.serveHead_canon_fwd {s : State} {p : Nat} {q : Nat} {w_ : State} (eq_ : (State.serveHead s p q) = .moved w_) (hc : Canonical s) : Canonical w_ := by
  have := State.serveHead_canon s p q hc; rw [eq_] at this; exact this

theorem State.serveHead_canon_fwd2 {s : State} {p : Nat} {q : Nat} {w_ : State} (eq_ : (State.serveHead s p q) = .stays w_) (hc : Canonical s) : Canonical w_ := by
  have := State.serveHead_canon s p q hc; rw [eq_] at this; exact this

theorem State.servePass_canon (p : Nat) (z1 : List Nat) (z2 : State) (hc : Canonical z2) : Canonical ((State.servePass p z1 z2)).1 := by
  fun_induction State.servePass p z1 z2
  all_goals repeat' (first
    | with_reducible assumption
    | (with_reducible apply State.serveHead_canon_fwd; with_reducible assumption)
    | (with_reducible apply State.serveHead_canon_fwd2; with_reducible assumption)
    | with_reducible apply_assumption -exfalso -symm)

theorem State.servePass_canon_fwd2 {p : Nat} {z1 : List Nat} {z2 : State} {w_ : State} {z_ : _} (eq_ : (State.servePass p z1 z2) = (w_, z_)) (hc : Canonical z2) : Canonical w_ := by
  have := State.servePass_canon p z1 z2 hc; rw [eq_] at this; exact this

theorem State.servePasses_canon (p : Nat) (z1 : Nat) (z2 : State) (hc : Canonical z2) : Canonical ((State.servePasses p z1 z2)) := by
  fun_induction State.servePasses p z1 z2
  all_goals repeat' (first
    | with_reducible assumption
    | (with_reducible apply State.servePass_canon_fwd2; with_reducible assumption)
    | with_reducible apply_assumption -exfalso -symm)

theorem execLaunchEngineTake_canon (part : Nat) (s : State) (hc : Canonical s) : OutOk ((execLaunchEngineTake part s)) := by
  unfold execLaunchEngineTake
  repeat' (first
    | with_reducible assumption
    | with_reducible apply State.servePasses_canon
    | with_reducible apply outok_next)

theorem execSlotFreed_canon (sid : Nat) (s : State) (hc : Canonical s) : OutOk ((execSlotFreed sid s)) := by
  unfold execSlotFreed
  repeat' (first
    | with_reducible assumption
    | with_reducible apply State.resumeSaved_canon
    | with_reducible apply State.kickEngine_canon
    | with_reducible apply outok_next
    | split)

theorem execUnitCompletion_canon (sid : Nat) (s : State) (hc : Canonical s) : OutOk ((execUnitCompletion sid s)) := by
  unfold execUnitCompletion
  repeat' (first
    | with_reducible assumption
    | with_reducible apply State.setLaunch_canon
    | with_reducible apply State.launchComplete_canon
    | with_reducible apply State.countDone_canon
    | with_reducible apply State.after_canon
    | with_reducible apply outok_next
    | (extract_lets +onlyGivenNames x; refine cut (P := Canonical x) ?_ (fun _ => ?_); unfold x; try clear x; rotate_left; clear_value x; rotate_right)
    | (extract_lets +onlyGivenNames x; clear_value x)
    | split)

theorem execCompletionNotice_canon (launch : Nat) (s : State) (hc : Canonical s) : OutOk ((execCompletionNotice launch s)) := by
  unfold execCompletionNotice
  repeat' (first
    | with_reducible assumption
    | with_reducible apply State.owe_canon
    | with_reducible apply State.zeroSlots_canon
    | with_reducible apply State.countLaunch_canon
    | with_reducible apply State.setLaunch_canon
    | with_reducible apply outok_next
    | split)

theorem State.pinFrame_canon (s : State) (f : Nat) (hc : Canonical s) : Canonical ((State.pinFrame s f)) := by
  unfold State.pinFrame
  repeat' (first
    | with_reducible assumption
    | with_reducible apply State.freshen_canon
    | with_reducible apply State.mcFlush_canon
    | with_reducible apply State.l1DropAll_canon
    | with_reducible apply State.setFrame_canon
    | with_reducible apply foldl_canonical
    | intro _)

theorem State.giveTiles_canon (s : State) (l : Nat) (ws : List (Nat × WheelSlot)) (hc : Canonical s) : Canonical ((State.giveTiles s l ws)) := by
  unfold State.giveTiles
  repeat' (first
    | with_reducible assumption
    | with_reducible apply State.modHarp_canon
    | with_reducible apply State.modTile_canon
    | with_reducible apply foldl_canonical
    | intro _
    | (extract_lets +onlyGivenNames x; clear_value x)
    | split)

theorem State.loadWheels_canon (s : State) (hc : Canonical s) : Canonical ((State.loadWheels s)) := by
  unfold State.loadWheels
  repeat' (first
    | with_reducible assumption
    | with_reducible apply State.modHarp_canon
    | with_reducible apply foldl_canonical
    | intro _)

theorem State.clearSlots_canon (s : State) (c : Nat) (smask : Nat) (hc : Canonical s) : Canonical ((State.clearSlots s c smask)) := by
  unfold State.clearSlots
  repeat' (first
    | with_reducible assumption
    | with_reducible apply State.requestPreempt_canon
    | with_reducible apply foldl_canonical
    | intro _
    | split)

theorem State.clearCore_canon (s : State) (c : Nat) (hc : Canonical s) : Canonical ((State.clearCore s c)) := by
  unfold State.clearCore
  repeat' (first
    | with_reducible assumption
    | with_reducible apply State.clearSlots_canon)

theorem State.admitLaunch_canon (s : State) (tab : Nat) (t : Tablature) (rs : List Region) (hc : Canonical s) : Canonical ((State.admitLaunch s tab t rs)).2 := by
  unfold State.admitLaunch
  repeat' (first
    | with_reducible assumption
    | with_reducible apply State.fresh_canon
    | with_reducible apply State.pinFrame_canon
    | with_reducible apply State.modCore_canon
    | with_reducible apply State.setLaunch_canon
    | with_reducible apply State.loadWheels_canon
    | with_reducible apply State.giveTiles_canon
    | with_reducible apply State.owe_canon
    | with_reducible apply State.clearSlots_canon
    | with_reducible apply State.tellTime_canon
    | with_reducible apply State.modPkg_canon
    | with_reducible apply foldl_canonical
    | intro _
    | split)

theorem State.countAdmit_canon (s : State) (tab : Nat) (st : Nat) (hc : Canonical s) : Canonical ((State.countAdmit s tab st)) := by
  unfold State.countAdmit
  repeat' (first
    | with_reducible assumption
    | with_reducible apply State.chargeLine_canon
    | (extract_lets +onlyGivenNames x; clear_value x)
    | split)

theorem execAdmitTab_canon (d : GReg) (a : GReg) (b : GReg) (s : State) (hc : Canonical s) : OutOk ((execAdmitTab d a b s)) := by
  unfold execAdmitTab
  repeat' (first
    | with_reducible assumption
    | with_reducible apply privWord_canon
    | with_reducible apply State.admitLaunch_canon
    | with_reducible apply State.landWithin_canon
    | with_reducible apply State.countAdmit_canon
    | with_reducible apply resok_ok
    | intro _
    | (extract_lets +onlyGivenNames x; clear_value x)
    | split)

theorem State.release_canon (s : State) (l : Nat) (hc : Canonical s) : Canonical ((State.release s l)) := by
  unfold State.release
  repeat' (first
    | with_reducible assumption
    | with_reducible apply State.setFrame_canon
    | with_reducible apply State.modTile_canon
    | with_reducible apply State.modHarp_canon
    | with_reducible apply State.modCore_canon
    | with_reducible apply State.retire_canon
    | with_reducible apply State.modPkg_canon
    | with_reducible apply foldl_canonical
    | intro _
    | split)

theorem execScoredLaunchRelease_canon (launch : Nat) (s : State) (hc : Canonical s) : OutOk ((execScoredLaunchRelease launch s)) := by
  unfold execScoredLaunchRelease
  repeat' (first
    | with_reducible assumption
    | with_reducible apply State.release_canon
    | with_reducible apply outok_next
    | split)

theorem State.postScored_canon (s : State) (L : Launch) (ecause : BitVec 16) (core : Nat) (slot : Nat) (epc : Word) (eval : Word) (ency : Nat) (hc : Canonical s) : Canonical ((State.postScored s L ecause core slot epc eval ency)) := by
  unfold State.postScored
  repeat' (first
    | with_reducible assumption
    | with_reducible apply State.postFault_canon)

theorem State.lapse_canon (s : State) (l : Nat) (hc : Canonical s) : Canonical ((State.lapse s l)) := by
  unfold State.lapse
  repeat' (first
    | with_reducible assumption
    | with_reducible apply State.setLaunch_canon
    | with_reducible apply State.release_canon
    | with_reducible apply State.postScored_canon
    | with_reducible apply State.recordCancelled_canon
    | split)

theorem State.forceOut_canon (s : State) (sid : Nat) (hc : Canonical s) : Canonical ((State.forceOut s sid)) := by
  unfold State.forceOut
  repeat' (first
    | with_reducible assumption
    | with_reducible apply State.requestPreempt_canon
    | with_reducible apply State.saveStrand_canon
    | (extract_lets +onlyGivenNames x; refine cut (P := Canonical x) ?_ (fun _ => ?_); unfold x; try clear x; rotate_left; clear_value x; rotate_right)
    | split)

theorem State.readyCore_canon (s : State) (v : Nat) (c : Nat) (hc : Canonical s) : Canonical ((State.readyCore s v c)) := by
  unfold State.readyCore
  repeat' (first
    | with_reducible assumption
    | with_reducible apply State.takeVd_canon
    | with_reducible apply State.forceOut_canon
    | with_reducible apply foldl_canonical)

theorem State.issueNow_canon (s : State) (sids : List Nat) (hc : Canonical s) : Canonical ((State.issueNow s sids)) := by
  unfold State.issueNow
  repeat' (first
    | with_reducible assumption
    | with_reducible apply Canonical.wmem
    | with_reducible apply Canonical.wspad
    | ((fail_if_success (fail_if_success (simp -zeta only [canonical_mk]))); with_reducible refine canon_keep rfl rfl rfl rfl rfl rfl rfl rfl rfl rfl rfl rfl ?_ ?_ ?_))

theorem State.startScoredLaunch_canon (s : State) (l : Nat) (hc : Canonical s) : Canonical ((State.startScoredLaunch s l)) := by
  unfold State.startScoredLaunch
  repeat' (first
    | with_reducible assumption
    | with_reducible apply State.modCore_canon
    | with_reducible apply State.readyCore_canon
    | with_reducible apply State.modPart_canon
    | with_reducible apply State.setStrand_canon
    | with_reducible apply State.setLaunch_canon
    | with_reducible apply State.loadWheels_canon
    | with_reducible apply State.issueNow_canon
    | with_reducible apply State.owe_canon
    | with_reducible apply foldl_canonical
    | intro _)

theorem State.askPreemptAt_canon (s : State) (l : Nat) (lcy : Nat) (hc : Canonical s) : Canonical ((State.askPreemptAt s l lcy)) := by
  unfold State.askPreemptAt
  repeat' (first
    | with_reducible assumption
    | with_reducible apply State.owe_canon
    | with_reducible apply State.setLaunch_canon
    | (extract_lets +onlyGivenNames x; clear_value x)
    | split)

theorem State.askPreempt_canon (s : State) (l : Nat) (hc : Canonical s) : Canonical ((State.askPreempt s l)) := by
  unfold State.askPreempt
  repeat' (first
    | with_reducible assumption
    | with_reducible apply State.askPreemptAt_canon
    | with_reducible apply State.tellTime_canon)

theorem execScoredLaunchStart_canon (launch : Nat) (allReported : Bool) (s : State) (hc : Canonical s) : OutOk ((execScoredLaunchStart launch allReported s)) := by
  unfold execScoredLaunchStart
  repeat' (first
    | with_reducible assumption
    | with_reducible apply State.setLaunch_canon
    | with_reducible apply State.readyCore_canon
    | with_reducible apply State.lapse_canon
    | with_reducible apply State.owe_canon
    | with_reducible apply State.startScoredLaunch_canon
    | with_reducible apply State.askPreempt_canon
    | with_reducible apply State.modLaunch_canon
    | with_reducible apply outok_next
    | with_reducible apply foldl_canonical
    | intro _
    | (extract_lets +onlyGivenNames x; refine cut (P := Canonical x) ?_ (fun _ => ?_); unfold x; try clear x; rotate_left; clear_value x; rotate_right)
    | split)

theorem State.readFlits_canon (s : State) (l : Nat) (hc : Canonical s) : Canonical ((State.readFlits s l)) := by
  unfold State.readFlits
  repeat' (first
    | with_reducible assumption
    | with_reducible apply State.doElems_canon
    | with_reducible apply foldl_canonical
    | intro _
    | split)

theorem State.finishSend_canon (s : State) (id : Nat) (p : Packet) (hc : Canonical s) : Canonical ((State.finishSend s id p)) := by
  unfold State.finishSend
  repeat' (first
    | with_reducible assumption
    | with_reducible apply State.spadWrite_canon
    | with_reducible apply foldl_canonical
    | with_reducible apply_assumption -exfalso -symm
    | intro _
    | (extract_lets +onlyGivenNames x; refine cut (P := ∀ t a b, Canonical t → Canonical (x t a b)) ?_ (fun _ => ?_); unfold x; try clear x; rotate_left; clear_value x; rotate_right)
    | (extract_lets +onlyGivenNames x; clear_value x)
    | split)

theorem State.finishDrays_canon (s : State) (l : Nat) (hc : Canonical s) : Canonical ((State.finishDrays s l)) := by
  unfold State.finishDrays
  repeat' (first
    | with_reducible assumption
    | with_reducible apply State.spadWrite_canon
    | with_reducible apply State.physWrite_canon
    | with_reducible apply foldl_canonical
    | intro _
    | split)

theorem State.finishRun_canon (id : Nat) (z1 : Nat) (z2 : State) (hc : Canonical z2) : Canonical ((State.finishRun id z1 z2)) := by
  fun_induction State.finishRun id z1 z2
  all_goals repeat' (first
    | with_reducible assumption
    | with_reducible apply State.touchRow_canon
    | with_reducible apply_assumption -exfalso -symm)

theorem State.finishHarp_canon (s : State) (l : Nat) (hc : Canonical s) : Canonical ((State.finishHarp s l)) := by
  unfold State.finishHarp
  repeat' (first
    | with_reducible assumption
    | with_reducible apply State.finishRun_canon
    | with_reducible apply foldl_canonical
    | intro _)

theorem State.dropWork_canon (s : State) (l : Nat) (hc : Canonical s) : Canonical ((State.dropWork s l)) := by
  unfold State.dropWork
  repeat' (first
    | with_reducible assumption
    | with_reducible apply Canonical.wmem
    | with_reducible apply Canonical.wspad
    | (extract_lets +onlyGivenNames x; refine cut (P := Canonical x) ?_ (fun _ => ?_); unfold x; try clear x; rotate_left; clear_value x; rotate_right)
    | (extract_lets +onlyGivenNames x; clear_value x)
    | ((fail_if_success (fail_if_success (simp -zeta only [canonical_mk]))); with_reducible refine canon_keep rfl rfl rfl rfl rfl rfl rfl rfl rfl rfl rfl rfl ?_ ?_ ?_))

theorem State.stopAll_canon (s : State) (l : Nat) (hc : Canonical s) : Canonical ((State.stopAll s l)) := by
  unfold State.stopAll
  repeat' (first
    | with_reducible assumption
    | with_reducible apply State.readFlits_canon
    | with_reducible apply State.finishSend_canon
    | with_reducible apply State.dropWork_canon
    | with_reducible apply State.finishHarp_canon
    | with_reducible apply State.finishDrays_canon
    | with_reducible apply State.idle_canon
    | with_reducible apply foldl_canonical
    | intro _
    | split)

theorem State.stopUnits_canon (s : State) (l : Nat) (hc : Canonical s) : Canonical ((State.stopUnits s l)) := by
  unfold State.stopUnits
  repeat' (first
    | with_reducible assumption
    | with_reducible apply State.setLaunch_canon
    | with_reducible apply State.countCanc_canon
    | (extract_lets +onlyGivenNames x; refine cut (P := Canonical x) ?_ (fun _ => ?_); unfold x; try clear x; rotate_left; clear_value x; rotate_right)
    | (extract_lets +onlyGivenNames x; clear_value x)
    | split)

theorem State.endScored_canon (s : State) (l : Nat) (cancelled : Bool) (hc : Canonical s) : Canonical ((State.endScored s l cancelled)) := by
  unfold State.endScored
  repeat' (first
    | with_reducible assumption
    | with_reducible apply State.stopAll_canon
    | with_reducible apply State.recordCancelled_canon
    | with_reducible apply State.stopUnits_canon
    | with_reducible apply State.modLaunch_canon
    | with_reducible apply State.postIrq_canon
    | with_reducible apply State.postScored_canon
    | with_reducible apply State.release_canon
    | with_reducible apply Canonical.wmem
    | with_reducible apply Canonical.wspad
    | (extract_lets +onlyGivenNames x; refine cut (P := Canonical x) ?_ (fun _ => ?_); unfold x; try clear x; rotate_left; clear_value x; rotate_right)
    | split
    | ((fail_if_success (fail_if_success (simp -zeta only [canonical_mk]))); with_reducible refine canon_keep rfl rfl rfl rfl rfl rfl rfl rfl rfl rfl rfl rfl ?_ ?_ ?_))

theorem execScoredLaunchEnd_canon (launch : Nat) (s : State) (hc : Canonical s) : OutOk ((execScoredLaunchEnd launch s)) := by
  unfold execScoredLaunchEnd
  repeat' (first
    | with_reducible assumption
    | with_reducible apply State.endScored_canon
    | with_reducible apply outok_next
    | split)

theorem execOverrun_canon (launch : Nat) (s : State) (hc : Canonical s) : OutOk ((execOverrun launch s)) := by
  unfold execOverrun
  repeat' (first
    | with_reducible assumption
    | with_reducible apply State.endingEvent_canon
    | with_reducible apply State.owe_canon
    | with_reducible apply State.modLaunch_canon
    | with_reducible apply outok_next
    | with_reducible apply foldl_canonical
    | intro _
    | (extract_lets +onlyGivenNames x; refine cut (P := Canonical x) ?_ (fun _ => ?_); unfold x; try clear x; rotate_left; clear_value x; rotate_right)
    | (extract_lets +onlyGivenNames x; clear_value x)
    | split)

theorem execEndingNotice_canon (launch : Nat) (lcy : Nat) (detail : Nat) (s : State) (hc : Canonical s) : OutOk ((execEndingNotice launch lcy detail s)) := by
  unfold execEndingNotice
  repeat' (first
    | with_reducible assumption
    | with_reducible apply State.endingAt_canon
    | with_reducible apply outok_next
    | split)

theorem execPreq_canon (part : Nat) (s : State) (hc : Canonical s) : OutOk ((execPreq part s)) := by
  unfold execPreq
  repeat' (first
    | with_reducible assumption
    | with_reducible apply State.engineWrite_canon
    | with_reducible apply State.askPreempt_canon
    | with_reducible apply outok_next
    | (extract_lets +onlyGivenNames x; refine cut (P := Canonical x) ?_ (fun _ => ?_); unfold x; try clear x; rotate_left; clear_value x; rotate_right)
    | split)

theorem State.saveLaunch_canon (s : State) (l : Nat) (hc : Canonical s) : Canonical ((State.saveLaunch s l)) := by
  unfold State.saveLaunch
  repeat' (first
    | with_reducible assumption
    | with_reducible apply State.freeBytes_canon
    | with_reducible apply State.dropWork_canon
    | with_reducible apply State.linesWrite_canon
    | with_reducible apply State.idle_canon
    | with_reducible apply State.modCore_canon
    | with_reducible apply State.setLaunch_canon
    | with_reducible apply State.postIrq_canon
    | with_reducible apply State.now_canon
    | with_reducible apply foldl_canonical
    | with_reducible apply Canonical.wmem
    | with_reducible apply Canonical.wspad
    | intro _
    | (extract_lets +onlyGivenNames x; refine cut (P := Canonical x) ?_ (fun _ => ?_); unfold x; try clear x; rotate_left; clear_value x; rotate_right)
    | split
    | ((fail_if_success (fail_if_success (simp -zeta only [canonical_mk]))); with_reducible refine canon_keep rfl rfl rfl rfl rfl rfl rfl rfl rfl rfl rfl rfl ?_ ?_ ?_))

theorem execScoredPreempt_canon (launch : Nat) (s : State) (hc : Canonical s) : OutOk ((execScoredPreempt launch s)) := by
  unfold execScoredPreempt
  repeat' (first
    | with_reducible assumption
    | with_reducible apply State.endScored_canon
    | with_reducible apply State.setLaunch_canon
    | with_reducible apply State.after_canon
    | with_reducible apply State.saveLaunch_canon
    | with_reducible apply outok_next
    | split)

theorem State.askResume_canon (s : State) (l : Nat) (bar : Nat) (hc : Canonical s) : Canonical ((State.askResume s l bar)) := by
  unfold State.askResume
  repeat' (first
    | with_reducible assumption
    | with_reducible apply State.setLaunch_canon
    | with_reducible apply State.clearSlots_canon
    | with_reducible apply State.owe_canon
    | with_reducible apply foldl_canonical
    | intro _
    | (extract_lets +onlyGivenNames x; refine cut (P := Canonical x) ?_ (fun _ => ?_); unfold x; try clear x; rotate_left; clear_value x; rotate_right)
    | (extract_lets +onlyGivenNames x; clear_value x)
    | split)

theorem execRreq_canon (part : Nat) (s : State) (hc : Canonical s) : OutOk ((execRreq part s)) := by
  unfold execRreq
  repeat' (first
    | with_reducible assumption
    | with_reducible apply State.askResume_canon
    | with_reducible apply State.tellTime_canon
    | with_reducible apply outok_next
    | split)

theorem State.restoreLaunch_canon (s : State) (l : Nat) (img : Image) (hc : Canonical s) : Canonical ((State.restoreLaunch s l img)) := by
  unfold State.restoreLaunch
  repeat' (first
    | with_reducible assumption
    | with_reducible apply State.modPart_canon
    | with_reducible apply State.modCore_canon
    | with_reducible apply State.readyCore_canon
    | with_reducible apply State.spadClear_canon
    | with_reducible apply State.modTile_canon
    | with_reducible apply State.setStrand_canon
    | with_reducible apply State.setLaunch_canon
    | with_reducible apply State.now_canon
    | with_reducible apply State.loadWheels_canon
    | with_reducible apply State.issueNow_canon
    | with_reducible apply foldl_canonical
    | with_reducible apply foldl_wf
    | with_reducible apply wf_tput0
    | with_reducible apply Canonical.wmem
    | with_reducible apply Canonical.wspad
    | intro _
    | split
    | ((fail_if_success (fail_if_success (simp -zeta only [canonical_mk]))); with_reducible refine canon_keep rfl rfl rfl rfl rfl rfl rfl rfl rfl rfl rfl rfl ?_ ?_ ?_))

theorem execTimeArrival_canon (launch : Nat) (m : TimeNote) (s : State) (hc : Canonical s) : OutOk ((execTimeArrival launch m s)) := by
  unfold execTimeArrival
  repeat' (first
    | with_reducible assumption
    | with_reducible apply State.modLaunch_canon
    | with_reducible apply State.askPreemptAt_canon
    | with_reducible apply State.askResume_canon
    | with_reducible apply outok_next
    | split)

theorem execScoredResume_canon (launch : Nat) (s : State) (hc : Canonical s) : OutOk ((execScoredResume launch s)) := by
  unfold execScoredResume
  repeat' (first
    | with_reducible assumption
    | with_reducible apply State.owe_canon
    | with_reducible apply State.restoreLaunch_canon
    | with_reducible apply State.lapse_canon
    | with_reducible apply State.chargeLine_canon
    | with_reducible apply outok_next
    | (extract_lets +onlyGivenNames x; clear_value x)
    | split)

theorem State.loadEncy_canon (s : State) (n : Nat) (hc : Canonical s) : Canonical ((State.loadEncy s n)) := by
  unfold State.loadEncy
  repeat' (first
    | with_reducible assumption
    | with_reducible apply Canonical.wmem
    | with_reducible apply Canonical.wspad
    | with_reducible apply Canonical.rstrands
    | with_reducible apply Canonical.rcores
    | with_reducible apply Canonical.rharps
    | with_reducible apply Canonical.rlaunches
    | with_reducible apply Canonical.rvds
    | with_reducible apply Canonical.rparts
    | with_reducible apply Canonical.rkeys
    | with_reducible apply Canonical.rframes
    | with_reducible apply Canonical.rmig
    | with_reducible apply Canonical.rports
    | with_reducible apply Canonical.rdrays
    | with_reducible apply Canonical.rqps
    | (with_reducible refine rising_map ?_ ?_; rotate_left; (intro _; first | rfl | (split <;> rfl)))
    | (extract_lets +onlyGivenNames x; clear_value x)
    | (simp -zeta only [canonical_mk]; refine ⟨?_,?_,?_,?_,?_,?_,?_,?_,?_,?_,?_,?_,?_,?_⟩))

theorem State.loseLock_canon (s : State) (hc : Canonical s) : Canonical ((State.loseLock s)) := by
  unfold State.loseLock
  repeat' (first
    | with_reducible assumption
    | with_reducible apply State.modPkg_canon
    | with_reducible apply State.takeTrap_canon
    | with_reducible apply State.lapse_canon
    | with_reducible apply State.endingEvent_canon
    | with_reducible apply foldl_canonical
    | intro _
    | split)

theorem execBarLine_canon (measured : BitVec 32) (s : State) (hc : Canonical s) : OutOk ((execBarLine measured s)) := by
  unfold execBarLine
  repeat' (first
    | with_reducible assumption
    | with_reducible apply State.modPkg_canon
    | with_reducible apply State.loseLock_canon
    | with_reducible apply State.loadWheels_canon
    | with_reducible apply State.now_canon
    | with_reducible apply outok_next
    | split)

theorem execBarGap_canon (s : State) (hc : Canonical s) : OutOk ((execBarGap s)) := by
  unfold execBarGap
  repeat' (first
    | with_reducible assumption
    | with_reducible apply State.modPkg_canon
    | with_reducible apply outok_next)

theorem State.freezeScored_canon (s : State) (b : Bool) (hc : Canonical s) : Canonical ((State.freezeScored s b)) := by
  unfold State.freezeScored
  repeat' (first
    | with_reducible assumption
    | with_reducible apply Canonical.wmem
    | with_reducible apply Canonical.wspad
    | with_reducible apply Canonical.rstrands
    | with_reducible apply Canonical.rcores
    | with_reducible apply Canonical.rharps
    | with_reducible apply Canonical.rlaunches
    | with_reducible apply Canonical.rvds
    | with_reducible apply Canonical.rparts
    | with_reducible apply Canonical.rkeys
    | with_reducible apply Canonical.rframes
    | with_reducible apply Canonical.rmig
    | with_reducible apply Canonical.rports
    | with_reducible apply Canonical.rdrays
    | with_reducible apply Canonical.rqps
    | (with_reducible refine rising_map ?_ ?_; rotate_left; (intro _; first | rfl | (split <;> rfl)))
    | (simp -zeta only [canonical_mk]; refine ⟨?_,?_,?_,?_,?_,?_,?_,?_,?_,?_,?_,?_,?_,?_⟩))

theorem execRest_canon (s : State) (hc : Canonical s) : OutOk ((execRest s)) := by
  unfold execRest
  repeat' (first
    | with_reducible assumption
    | with_reducible apply State.owe_canon
    | with_reducible apply State.freezeScored_canon
    | with_reducible apply State.modPkg_canon
    | with_reducible apply outok_next
    | split)

theorem State.loadLinks_canon (s : State) (p : LockData) (hc : Canonical s) : Canonical ((State.loadLinks s p)) := by
  unfold State.loadLinks
  repeat' (first
    | with_reducible assumption
    | with_reducible apply State.modPkg_canon)

theorem State.lock_canon (s : State) (p : LockData) (hc : Canonical s) : Canonical ((State.lock s p)) := by
  unfold State.lock
  repeat' (first
    | with_reducible assumption
    | with_reducible apply State.modPkg_canon
    | with_reducible apply State.loadEncy_canon)

theorem execTimeLock_canon (p : LockData) (s : State) (hc : Canonical s) : OutOk ((execTimeLock p s)) := by
  unfold execTimeLock
  repeat' (first
    | with_reducible assumption
    | with_reducible apply State.modPkg_canon
    | with_reducible apply State.lock_canon
    | with_reducible apply State.loadLinks_canon
    | with_reducible apply outok_next
    | split)

theorem execTimeLockRepeat_canon (p : LockData) (s : State) (hc : Canonical s) : OutOk ((execTimeLockRepeat p s)) := by
  unfold execTimeLockRepeat
  repeat' (first
    | with_reducible assumption
    | with_reducible apply State.owe_canon
    | with_reducible apply State.modPkg_canon
    | with_reducible apply State.loadLinks_canon
    | with_reducible apply State.lock_canon
    | with_reducible apply outok_next
    | split)

theorem execErrorCounterCopy_canon (s : State) (hc : Canonical s) : OutOk ((execErrorCounterCopy s)) := by
  unfold execErrorCounterCopy
  repeat' (first
    | with_reducible assumption
    | with_reducible apply State.engineWrite_canon
    | with_reducible apply outok_next
    | with_reducible apply foldl_canonical
    | intro _
    | split)

end Sys2Proof.Machine
end

