-- ==== Sys2Proof/Laws/CanonSystem.lean ====
section
/-! SUPPORT. Memory, scratchpads and tables stay in their canonical form: the network, power, service and bring-up. -/
set_option linter.all false
namespace Sys2Proof.Machine

theorem State.netRead_canon (s : State) (c : DrayCmd) (a : Nat) (n : Nat) (hc : Canonical s) : PartOk ((State.netRead s c a n)) := by
  unfold State.netRead
  repeat' (first
    | with_reducible assumption
    | with_reducible apply State.drayReads_canon)

theorem State.netRead_canon_fwd {s : State} {c : DrayCmd} {a : Nat} {n : Nat} {w_ : State} {z_ : _} (eq_ : (State.netRead s c a n) = .ok w_ z_) (hc : Canonical s) : Canonical w_ := by
  have := State.netRead_canon s c a n hc; rw [eq_] at this; exact this

theorem State.netRead_canon_fwd2 {s : State} {c : DrayCmd} {a : Nat} {n : Nat} {w_ : State} {z_ : _} (eq_ : (State.netRead s c a n) = .fail z_ w_) (hc : Canonical s) : Canonical w_ := by
  have := State.netRead_canon s c a n hc; rw [eq_] at this; exact this

theorem State.netRead_canon_fwd3 {s : State} {c : DrayCmd} {a : Nat} {n : Nat} {w_ : State} (eq_ : (State.netRead s c a n) = .wait w_) (hc : Canonical s) : Canonical w_ := by
  have := State.netRead_canon s c a n hc; rw [eq_] at this; exact this

theorem State.netWrite_canon (s : State) (c : DrayCmd) (a : Nat) (bs : List Byte) (hc : Canonical s) : PartOk ((State.netWrite s c a bs)) := by
  unfold State.netWrite
  repeat' (first
    | with_reducible assumption
    | with_reducible apply State.drayWrites_canon)

theorem State.netWrite_canon_fwd {s : State} {c : DrayCmd} {a : Nat} {bs : List Byte} {w_ : State} {z_ : _} (eq_ : (State.netWrite s c a bs) = .ok w_ z_) (hc : Canonical s) : Canonical w_ := by
  have := State.netWrite_canon s c a bs hc; rw [eq_] at this; exact this

theorem State.netWrite_canon_fwd2 {s : State} {c : DrayCmd} {a : Nat} {bs : List Byte} {w_ : State} {z_ : _} (eq_ : (State.netWrite s c a bs) = .fail z_ w_) (hc : Canonical s) : Canonical w_ := by
  have := State.netWrite_canon s c a bs hc; rw [eq_] at this; exact this

theorem State.netWrite_canon_fwd3 {s : State} {c : DrayCmd} {a : Nat} {bs : List Byte} {w_ : State} (eq_ : (State.netWrite s c a bs) = .wait w_) (hc : Canonical s) : Canonical w_ := by
  have := State.netWrite_canon s c a bs hc; rw [eq_] at this; exact this

theorem State.ringImage_canon (s : State) (q : Nat) (base : Nat) (log : Nat) (idx : Nat) (entry : List Byte) (hc : Canonical s) : OptOk ((State.ringImage s q base log idx entry)) := by
  unfold State.ringImage
  repeat' (first
    | with_reducible assumption
    | (with_reducible apply State.netWrite_canon_fwd; with_reducible assumption)
    | (with_reducible apply State.netWrite_canon_fwd2; with_reducible assumption)
    | with_reducible apply optok_none
    | with_reducible apply optok_some
    | (extract_lets +onlyGivenNames x; clear_value x)
    | split)

theorem State.ringImage_canon_fwd {s : State} {q : Nat} {base : Nat} {log : Nat} {idx : Nat} {entry : List Byte} {w_ : State} (eq_ : (State.ringImage s q base log idx entry) = some w_) (hc : Canonical s) : Canonical w_ := by
  have := State.ringImage_canon s q base log idx entry hc; rw [eq_] at this; exact this

theorem State.kickNet_canon (s : State) (q : Nat) (n : Nat) (hc : Canonical s) : Canonical ((State.kickNet s q n)) := by
  unfold State.kickNet
  repeat' (first
    | with_reducible assumption
    | with_reducible apply State.after_canon
    | split)

theorem State.compEnter_canon (q : Nat) (z1 : Nat) (z2 : State) (hc : Canonical z2) : Canonical ((State.compEnter q z1 z2)) := by
  fun_induction State.compEnter q z1 z2
  all_goals repeat' (first
    | with_reducible assumption
    | with_reducible apply State.kickNet_canon
    | with_reducible apply State.postIrq_canon
    | with_reducible apply State.setQp_canon
    | (with_reducible apply State.ringImage_canon_fwd; with_reducible assumption)
    | with_reducible apply_assumption -exfalso -symm)

theorem State.netComplete_canon (s : State) (q : Nat) (status : Nat) (wrid : Word) (hc : Canonical s) : Canonical ((State.netComplete s q status wrid)) := by
  unfold State.netComplete
  repeat' (first
    | with_reducible assumption
    | with_reducible apply State.compEnter_canon
    | with_reducible apply State.setQp_canon)

theorem State.netFlush_canon (q : Nat) (z1 : Nat) (z2 : State) (hc : Canonical z2) : Canonical ((State.netFlush q z1 z2)) := by
  fun_induction State.netFlush q z1 z2
  all_goals repeat' (first
    | with_reducible assumption
    | with_reducible apply State.netComplete_canon
    | with_reducible apply State.setQp_canon
    | with_reducible apply_assumption -exfalso -symm)

theorem State.netResult_canon (s : State) (q : Nat) (f : WorkReq → Bool) (r : Nat) (hc : Canonical s) : Canonical ((State.netResult s q f r)) := by
  unfold State.netResult
  repeat' (first
    | with_reducible assumption
    | with_reducible apply State.netFlush_canon
    | with_reducible apply State.setQp_canon)

theorem State.netError_canon (s : State) (q : Nat) (hc : Canonical s) : Canonical ((State.netError s q)) := by
  unfold State.netError
  repeat' (first
    | with_reducible assumption
    | with_reducible apply State.setQp_canon
    | with_reducible apply State.netComplete_canon
    | with_reducible apply foldl_canonical
    | intro _)

theorem State.netViolation_canon (s : State) (q : Nat) (hc : Canonical s) : Canonical ((State.netViolation s q)) := by
  unfold State.netViolation
  repeat' (first
    | with_reducible assumption
    | with_reducible apply State.netError_canon
    | with_reducible apply State.netComplete_canon
    | (with_reducible apply State.freeWord_canon_fwd2; with_reducible assumption)
    | with_reducible apply Canonical.wmem
    | with_reducible apply Canonical.wspad
    | (extract_lets +onlyGivenNames x; refine cut (P := Canonical x) ?_ (fun _ => ?_); unfold x; try clear x; rotate_left; clear_value x; rotate_right)
    | split
    | ((fail_if_success (fail_if_success (simp -zeta only [canonical_mk]))); with_reducible refine canon_keep rfl rfl rfl rfl rfl rfl rfl rfl rfl rfl rfl rfl ?_ ?_ ?_))

theorem State.nextRate_canon (s : State) (q : Nat) (hc : Canonical s) : Canonical ((State.nextRate s q)) := by
  unfold State.nextRate
  repeat' (first
    | with_reducible assumption
    | with_reducible apply State.kickNet_canon)

theorem State.netReply_canon (s : State) (q : Nat) (need : Nat) (f : NetFrame) (rest : List (Nat × NetFrame)) (hc : Canonical s) : Canonical ((State.netReply s q need f rest)) := by
  unfold State.netReply
  repeat' (first
    | with_reducible assumption
    | with_reducible apply State.nextRate_canon
    | with_reducible apply State.setQp_canon
    | with_reducible apply State.kickNet_canon
    | with_reducible apply Canonical.wmem
    | with_reducible apply Canonical.wspad
    | (extract_lets +onlyGivenNames x; refine cut (P := Canonical x) ?_ (fun _ => ?_); unfold x; try clear x; rotate_left; clear_value x; rotate_right)
    | split
    | ((fail_if_success (fail_if_success (simp -zeta only [canonical_mk]))); with_reducible refine canon_keep rfl rfl rfl rfl rfl rfl rfl rfl rfl rfl rfl rfl ?_ ?_ ?_))

theorem State.netSend_canon (s : State) (q : Nat) (w : WorkReq) (hc : Canonical s) : Canonical ((State.netSend s q w)) := by
  unfold State.netSend
  repeat' (first
    | with_reducible assumption
    | with_reducible apply State.kickNet_canon
    | with_reducible apply State.netResult_canon
    | with_reducible apply State.nextRate_canon
    | with_reducible apply State.setQp_canon
    | (with_reducible apply State.netRead_canon_fwd; with_reducible assumption)
    | (with_reducible apply State.netRead_canon_fwd2; with_reducible assumption)
    | (with_reducible apply State.netRead_canon_fwd3; with_reducible assumption)
    | with_reducible apply Canonical.wmem
    | with_reducible apply Canonical.wspad
    | with_reducible apply_assumption -exfalso -symm
    | intro _
    | (extract_lets +onlyGivenNames x; refine cut (P := ∀ t a, Canonical t → Canonical (x t a)) ?_ (fun _ => ?_); unfold x; try clear x; rotate_left; clear_value x; rotate_right)
    | (extract_lets +onlyGivenNames x; clear_value x)
    | split
    | ((fail_if_success (fail_if_success (simp -zeta only [canonical_mk]))); with_reducible refine canon_keep rfl rfl rfl rfl rfl rfl rfl rfl rfl rfl rfl rfl ?_ ?_ ?_))

theorem State.netTurn_canon (s : State) (q : Nat) (hc : Canonical s) : Canonical ((State.netTurn s q)) := by
  unfold State.netTurn
  repeat' (first
    | with_reducible assumption
    | with_reducible apply State.compEnter_canon
    | with_reducible apply State.netReply_canon
    | with_reducible apply State.netSend_canon
    | (extract_lets +onlyGivenNames x; refine cut (P := Canonical x) ?_ (fun _ => ?_); unfold x; try clear x; rotate_left; clear_value x; rotate_right)
    | split)

theorem execNetworkWorkRequest_canon (qp : Nat) (status : Nat) (reply : List Byte) (s : State) (hc : Canonical s) : OutOk ((execNetworkWorkRequest qp status reply s)) := by
  unfold execNetworkWorkRequest
  repeat' (first
    | with_reducible assumption
    | with_reducible apply State.netTurn_canon
    | with_reducible apply State.netResult_canon
    | with_reducible apply State.after_canon
    | (with_reducible apply State.netWrite_canon_fwd; with_reducible assumption)
    | (with_reducible apply State.netWrite_canon_fwd2; with_reducible assumption)
    | (with_reducible apply State.netWrite_canon_fwd3; with_reducible assumption)
    | with_reducible apply outok_next
    | (extract_lets +onlyGivenNames x; clear_value x)
    | split)

theorem execNetworkTimeout_canon (qp : Nat) (s : State) (hc : Canonical s) : OutOk ((execNetworkTimeout qp s)) := by
  unfold execNetworkTimeout
  repeat' (first
    | with_reducible assumption
    | with_reducible apply State.setQp_canon
    | with_reducible apply State.netComplete_canon
    | with_reducible apply State.netFlush_canon
    | with_reducible apply outok_next
    | with_reducible apply foldl_canonical
    | intro _)

theorem State.netReceive_canon (s : State) (qp : Nat) (msg : NetMsg) (hc : Canonical s) : Canonical ((State.netReceive s qp msg)) := by
  unfold State.netReceive
  repeat' (first
    | with_reducible assumption
    | with_reducible apply State.netViolation_canon
    | with_reducible apply State.netComplete_canon
    | with_reducible apply State.setQp_canon
    | with_reducible apply State.after_canon
    | (with_reducible apply State.netWrite_canon_fwd; with_reducible assumption)
    | (with_reducible apply State.netWrite_canon_fwd2; with_reducible assumption)
    | (with_reducible apply State.netWrite_canon_fwd3; with_reducible assumption)
    | with_reducible apply_assumption -exfalso -symm
    | intro _
    | (extract_lets +onlyGivenNames x; refine cut (P := ∀ t a, Canonical t → Canonical (x t a)) ?_ (fun _ => ?_); unfold x; try clear x; rotate_left; clear_value x; rotate_right)
    | (extract_lets +onlyGivenNames x; clear_value x)
    | split)

theorem State.netAccess_canon (s : State) (qp : Nat) (msg : NetMsg) (t : Ticket) (hc : Canonical s) : Canonical ((State.netAccess s qp msg t)) := by
  unfold State.netAccess
  repeat' (first
    | with_reducible assumption
    | with_reducible apply State.after_canon
    | with_reducible apply State.countDiscard_canon
    | with_reducible apply State.kickNet_canon
    | with_reducible apply State.setQp_canon
    | (with_reducible apply State.netWrite_canon_fwd; with_reducible assumption)
    | (with_reducible apply State.netWrite_canon_fwd2; with_reducible assumption)
    | (with_reducible apply State.netWrite_canon_fwd3; with_reducible assumption)
    | (with_reducible apply State.netRead_canon_fwd; with_reducible assumption)
    | (with_reducible apply State.netRead_canon_fwd2; with_reducible assumption)
    | (with_reducible apply State.netRead_canon_fwd3; with_reducible assumption)
    | with_reducible apply_assumption -exfalso -symm
    | intro _
    | (extract_lets +onlyGivenNames x; refine cut (P := ∀ t, Canonical t → Canonical (x t)) ?_ (fun _ => ?_); unfold x; try clear x; rotate_left; clear_value x; rotate_right)
    | (extract_lets +onlyGivenNames x; clear_value x)
    | split)

theorem execNetworkInbound_canon (qp : Nat) (msg : NetMsg) (s : State) (hc : Canonical s) : OutOk ((execNetworkInbound qp msg s)) := by
  unfold execNetworkInbound
  repeat' (first
    | with_reducible assumption
    | with_reducible apply State.setQp_canon
    | with_reducible apply State.netReceive_canon
    | with_reducible apply State.netViolation_canon
    | with_reducible apply State.netAccess_canon
    | with_reducible apply outok_next
    | with_reducible apply Canonical.wmem
    | with_reducible apply Canonical.wspad
    | (extract_lets +onlyGivenNames x; refine cut (P := Canonical x) ?_ (fun _ => ?_); unfold x; try clear x; rotate_left; clear_value x; rotate_right)
    | (extract_lets +onlyGivenNames x; clear_value x)
    | split
    | ((fail_if_success (fail_if_success (simp -zeta only [canonical_mk]))); with_reducible refine canon_keep rfl rfl rfl rfl rfl rfl rfl rfl rfl rfl rfl rfl ?_ ?_ ?_))

theorem execQueuePairCreation_canon (qp : Nat) (c : QpConfig) (s : State) (hc : Canonical s) : OutOk ((execQueuePairCreation qp c s)) := by
  unfold execQueuePairCreation
  repeat' (first
    | with_reducible assumption
    | with_reducible apply State.setQp_canon
    | with_reducible apply outok_next
    | (extract_lets +onlyGivenNames x; clear_value x)
    | split)

theorem State.netPost_canon (s : State) (q : Nat) (w : WorkReq) (t : Ticket) (hc : Canonical s) : Canonical ((State.netPost s q w t)) := by
  unfold State.netPost
  repeat' (first
    | with_reducible assumption
    | with_reducible apply State.setQp_canon
    | with_reducible apply State.kickNet_canon
    | with_reducible apply State.after_canon
    | (extract_lets +onlyGivenNames x; refine cut (P := Canonical x) ?_ (fun _ => ?_); unfold x; try clear x; rotate_left; clear_value x; rotate_right)
    | (extract_lets +onlyGivenNames x; clear_value x)
    | split)

theorem State.postImage_canon (s : State) (q : Nat) (w : WorkReq) (blk : List Byte) (hc : Canonical s) : OptOk ((State.postImage s q w blk)) := by
  unfold State.postImage
  repeat' (first
    | with_reducible assumption
    | with_reducible apply State.ringImage_canon
    | with_reducible apply optok_some
    | (extract_lets +onlyGivenNames x; clear_value x)
    | split)

theorem State.postImage_canon_fwd {s : State} {q : Nat} {w : WorkReq} {blk : List Byte} {w_ : State} (eq_ : (State.postImage s q w blk) = some w_) (hc : Canonical s) : Canonical w_ := by
  have := State.postImage_canon s q w blk hc; rw [eq_] at this; exact this

theorem execNpost_canon (tk : TkReg) (d : GReg) (a : GReg) (b : GReg) (s : State) (hc : Canonical s) : OutOk ((execNpost tk d a b s)) := by
  unfold execNpost
  repeat' (first
    | with_reducible assumption
    | with_reducible apply finish_canon
    | with_reducible apply word_canon
    | with_reducible apply freeOnly_canon
    | with_reducible apply checked_canon
    | with_reducible apply State.checkAccess_canon
    | with_reducible apply accessFault_canon
    | with_reducible apply State.landG_canon
    | with_reducible apply State.netPost_canon
    | (with_reducible apply State.postImage_canon_fwd; with_reducible assumption)
    | with_reducible apply resok_ok
    | with_reducible apply resok_held
    | intro _
    | (extract_lets +onlyGivenNames x; clear_value x)
    | split)

theorem execNpoll_canon (d : GReg) (a : GReg) (s : State) (hc : Canonical s) : OutOk ((execNpoll d a s)) := by
  unfold execNpoll
  repeat' (first
    | with_reducible assumption
    | with_reducible apply finish_canon
    | with_reducible apply word_canon
    | with_reducible apply freeOnly_canon
    | with_reducible apply accessFault_canon
    | with_reducible apply State.landG_canon
    | with_reducible apply State.setQp_canon
    | with_reducible apply State.kickNet_canon
    | with_reducible apply resok_ok
    | intro _
    | (extract_lets +onlyGivenNames x; clear_value x)
    | split)

theorem State.setPstate_canon (s : State) (p : Nat) (g : Nat) (hc : Canonical s) : Canonical ((State.setPstate s p g)) := by
  unfold State.setPstate
  repeat' (first
    | with_reducible assumption
    | with_reducible apply State.modPart_canon
    | with_reducible apply State.engineWrite_canon
    | (extract_lets +onlyGivenNames x; refine cut (P := Canonical x) ?_ (fun _ => ?_); unfold x; try clear x; rotate_left; clear_value x; rotate_right)
    | split)

theorem State.enterPower_canon (s : State) (p : Nat) (g : Nat) (hc : Canonical s) : Canonical ((State.enterPower s p g)) := by
  unfold State.enterPower
  repeat' (first
    | with_reducible assumption
    | with_reducible apply State.setPstate_canon
    | with_reducible apply State.freeBytes_canon
    | with_reducible apply State.linesWrite_canon
    | with_reducible apply State.spadClear_canon
    | with_reducible apply foldl_canonical
    | (extract_lets +onlyGivenNames x; refine cut (P := Canonical x) ?_ (fun _ => ?_); unfold x; try clear x; rotate_left; clear_value x; rotate_right)
    | (extract_lets +onlyGivenNames x; clear_value x)
    | split)

theorem execPowerStateEntry_canon (part : Nat) (s : State) (hc : Canonical s) : OutOk ((execPowerStateEntry part s)) := by
  unfold execPowerStateEntry
  repeat' (first
    | with_reducible assumption
    | with_reducible apply State.enterPower_canon
    | with_reducible apply State.owe_canon
    | with_reducible apply outok_next
    | split)

theorem State.kickGated_canon (s : State) (p : Nat) (hc : Canonical s) : Canonical ((State.kickGated s p)) := by
  unfold State.kickGated
  repeat' (first
    | with_reducible assumption
    | with_reducible apply State.now_canon
    | with_reducible apply foldl_canonical
    | intro _
    | (extract_lets +onlyGivenNames x; clear_value x)
    | split)

theorem execPowerWake_canon (part : Nat) (s : State) (hc : Canonical s) : OutOk ((execPowerWake part s)) := by
  unfold execPowerWake
  repeat' (first
    | with_reducible assumption
    | with_reducible apply State.after_canon
    | with_reducible apply State.modPart_canon
    | with_reducible apply State.setPstate_canon
    | with_reducible apply State.kickEngine_canon
    | with_reducible apply State.resumeSaved_canon
    | with_reducible apply State.kickGated_canon
    | with_reducible apply State.owe_canon
    | with_reducible apply outok_next
    | (extract_lets +onlyGivenNames x; refine cut (P := Canonical x) ?_ (fun _ => ?_); unfold x; try clear x; rotate_left; clear_value x; rotate_right)
    | split)

theorem State.watchPart_canon (s : State) (p : Nat) (hc : Canonical s) : Canonical ((State.watchPart s p)) := by
  unfold State.watchPart
  repeat' (first
    | with_reducible assumption
    | with_reducible apply State.enterPower_canon
    | with_reducible apply State.after_canon
    | with_reducible apply State.modPart_canon
    | (extract_lets +onlyGivenNames x; refine cut (P := Canonical x) ?_ (fun _ => ?_); unfold x; try clear x; rotate_left; clear_value x; rotate_right)
    | split)

theorem State.watchPower_canon (s : State) (hc : Canonical s) : Canonical ((State.watchPower s)) := by
  unfold State.watchPower
  repeat' (first
    | with_reducible assumption
    | with_reducible apply State.watchPart_canon
    | with_reducible apply foldl_canonical
    | intro _
    | split)

theorem execInterruptDelivery_canon (vd : Nat) (s : State) (hc : Canonical s) : OutOk ((execInterruptDelivery vd s)) := by
  unfold execInterruptDelivery
  repeat' (first
    | with_reducible assumption
    | with_reducible apply State.countDiscard_canon
    | with_reducible apply State.setVd_canon
    | with_reducible apply outok_next
    | with_reducible apply foldl_canonical
    | with_reducible apply Canonical.wmem
    | with_reducible apply Canonical.wspad
    | intro _
    | split
    | ((fail_if_success (fail_if_success (simp -zeta only [canonical_mk]))); with_reducible refine canon_keep rfl rfl rfl rfl rfl rfl rfl rfl rfl rfl rfl rfl ?_ ?_ ?_))

theorem State.moveOverflow_canon (p : Nat) (z1 : Nat) (z2 : State) (hc : Canonical z2) : Canonical ((State.moveOverflow p z1 z2)) := by
  fun_induction State.moveOverflow p z1 z2
  all_goals repeat' (first
    | with_reducible assumption
    | with_reducible apply State.modPart_canon
    | with_reducible apply State.ringWrite_canon
    | with_reducible apply_assumption -exfalso -symm)

theorem execFaultOverflowMove_canon (part : Nat) (s : State) (hc : Canonical s) : OutOk ((execFaultOverflowMove part s)) := by
  unfold execFaultOverflowMove
  repeat' (first
    | with_reducible assumption
    | with_reducible apply State.moveOverflow_canon
    | with_reducible apply outok_next)

theorem execReservedStrandRelease_canon (sid : Nat) (s : State) (hc : Canonical s) : OutOk ((execReservedStrandRelease sid s)) := by
  unfold execReservedStrandRelease
  repeat' (first
    | with_reducible assumption
    | with_reducible apply State.modStrand_canon
    | with_reducible apply State.routeWaiting_canon
    | with_reducible apply outok_next
    | (extract_lets +onlyGivenNames x; refine cut (P := Canonical x) ?_ (fun _ => ?_); unfold x; try clear x; rotate_left; clear_value x; rotate_right)
    | split)

theorem State.setSched_canon (s : State) (p : Nat) (x : Nat) (b : Bool) (hc : Canonical s) : Canonical ((State.setSched s p x b)) := by
  unfold State.setSched
  repeat' (first
    | with_reducible assumption
    | with_reducible apply State.modPart_canon)

theorem execVdScheduleOut_canon (part : Nat) (x : Nat) (s : State) (hc : Canonical s) : OutOk ((execVdScheduleOut part x s)) := by
  unfold execVdScheduleOut
  repeat' (first
    | with_reducible assumption
    | with_reducible apply State.setSched_canon
    | with_reducible apply State.requestPreempt_canon
    | with_reducible apply outok_next
    | with_reducible apply foldl_canonical
    | intro _
    | (extract_lets +onlyGivenNames x; refine cut (P := Canonical x) ?_ (fun _ => ?_); unfold x; try clear x; rotate_left; clear_value x; rotate_right)
    | split)

theorem execVdScheduleIn_canon (part : Nat) (x : Nat) (s : State) (hc : Canonical s) : OutOk ((execVdScheduleIn part x s)) := by
  unfold execVdScheduleIn
  repeat' (first
    | with_reducible assumption
    | with_reducible apply State.kickEngine_canon
    | with_reducible apply State.resumeSaved_canon
    | with_reducible apply State.setSched_canon
    | with_reducible apply State.now_canon
    | with_reducible apply outok_next
    | (extract_lets +onlyGivenNames x; refine cut (P := Canonical x) ?_ (fun _ => ?_); unfold x; try clear x; rotate_left; clear_value x; rotate_right)
    | split)

theorem State.refreshReserved_canon (s : State) (p : Nat) (hc : Canonical s) : Canonical ((State.refreshReserved s p)) := by
  unfold State.refreshReserved
  repeat' (first
    | with_reducible assumption
    | with_reducible apply State.setStrand_canon
    | with_reducible apply State.idle_canon
    | with_reducible apply foldl_canonical
    | intro _
    | split)

theorem State.takeCore_canon (s : State) (c : Nat) (hc : Canonical s) : Canonical ((State.takeCore s c)) := by
  unfold State.takeCore
  repeat' (first
    | with_reducible assumption
    | with_reducible apply State.modCore_canon
    | with_reducible apply State.startClear_canon
    | with_reducible apply State.dropHeld_canon)

theorem State.coresChanged_canon (s : State) (p : Nat) (hc : Canonical s) : Canonical ((State.coresChanged s p)) := by
  unfold State.coresChanged
  repeat' (first
    | with_reducible assumption
    | with_reducible apply State.kickEngine_canon
    | with_reducible apply State.refreshReserved_canon)

theorem State.setLtol_canon (s : State) (p : Nat) (v : BitVec 32) (hc : Canonical s) : Canonical ((State.setLtol s p v)) := by
  unfold State.setLtol
  repeat' (first
    | with_reducible assumption
    | with_reducible apply State.modPart_canon
    | with_reducible apply State.wakePart_canon
    | with_reducible apply State.now_canon
    | (extract_lets +onlyGivenNames x; refine cut (P := Canonical x) ?_ (fun _ => ?_); unfold x; try clear x; rotate_left; clear_value x; rotate_right)
    | split)

theorem State.writePart_canon (s : State) (p : Nat) (z2 : PartField) (hc : Canonical s) : Canonical ((State.writePart s p z2)) := by
  unfold State.writePart
  repeat' (first
    | with_reducible assumption
    | with_reducible apply State.coresChanged_canon
    | with_reducible apply State.takeCore_canon
    | with_reducible apply State.modPart_canon
    | with_reducible apply State.kickEngine_canon
    | with_reducible apply State.now_canon
    | with_reducible apply State.vdschedHook_canon
    | with_reducible apply State.setLtol_canon
    | with_reducible apply State.modHarp_canon
    | with_reducible apply State.modTile_canon
    | with_reducible apply foldl_canonical
    | intro _
    | (extract_lets +onlyGivenNames x; clear_value x)
    | split)

theorem execDeviceRegisterWrite_canon (w : DevWrite) (s : State) (hc : Canonical s) : OutOk ((execDeviceRegisterWrite w s)) := by
  unfold execDeviceRegisterWrite
  repeat' (first
    | with_reducible assumption
    | with_reducible apply State.memWrite_canon
    | with_reducible apply State.writePart_canon
    | with_reducible apply State.now_canon
    | with_reducible apply State.modQueue_canon
    | with_reducible apply State.modPkg_canon
    | with_reducible apply State.setKey_canon
    | with_reducible apply State.modPart_canon
    | with_reducible apply State.modVd_canon
    | with_reducible apply outok_next
    | with_reducible apply Canonical.wmem
    | with_reducible apply Canonical.wspad
    | (extract_lets +onlyGivenNames x; clear_value x)
    | split
    | ((fail_if_success (fail_if_success (simp -zeta only [canonical_mk]))); with_reducible refine canon_keep rfl rfl rfl rfl rfl rfl rfl rfl rfl rfl rfl rfl ?_ ?_ ?_))

theorem execVdCreation_canon (vd : Nat) (c : VdConfig) (s : State) (hc : Canonical s) : OutOk ((execVdCreation vd c s)) := by
  unfold execVdCreation
  repeat' (first
    | with_reducible assumption
    | with_reducible apply State.setVd_canon
    | with_reducible apply State.postIrq_canon
    | with_reducible apply State.modPkg_canon
    | with_reducible apply State.kickEngine_canon
    | with_reducible apply outok_next
    | (extract_lets +onlyGivenNames x; refine cut (P := Canonical x) ?_ (fun _ => ?_); unfold x; try clear x; rotate_left; clear_value x; rotate_right)
    | split)

theorem State.startReset_canon (s : State) (v : Nat) (retain : Bool) (hc : Canonical s) : Canonical ((State.startReset s v retain)) := by
  unfold State.startReset
  repeat' (first
    | with_reducible assumption
    | with_reducible apply State.after_canon
    | with_reducible apply State.modVd_canon
    | split)

theorem execVdReset_canon (vd : Nat) (s : State) (hc : Canonical s) : OutOk ((execVdReset vd s)) := by
  unfold execVdReset
  repeat' (first
    | with_reducible assumption
    | with_reducible apply State.startReset_canon
    | with_reducible apply outok_next)

theorem execVdTeardown_canon (vd : Nat) (s : State) (hc : Canonical s) : OutOk ((execVdTeardown vd s)) := by
  unfold execVdTeardown
  repeat' (first
    | with_reducible assumption
    | with_reducible apply State.startReset_canon
    | with_reducible apply outok_next)

theorem State.bumpPort_canon (s : State) (k : Nat) (hc : Canonical s) : Canonical ((State.bumpPort s k)) := by
  unfold State.bumpPort
  repeat' (first
    | with_reducible assumption
    | with_reducible apply State.setPort_canon
    | (extract_lets +onlyGivenNames x; clear_value x)
    | split)

theorem State.closePorts_canon (s : State) (v : Nat) (hc : Canonical s) : Canonical ((State.closePorts s v)) := by
  unfold State.closePorts
  repeat' (first
    | with_reducible assumption
    | with_reducible apply State.bumpPort_canon
    | with_reducible apply State.setPort_canon
    | with_reducible apply foldl_canonical
    | intro _)

theorem State.emptyElastic_canon (s : State) (v : Nat) (hc : Canonical s) : Canonical ((State.emptyElastic s v)) := by
  unfold State.emptyElastic
  repeat' (first
    | with_reducible assumption
    | with_reducible apply State.modCore_canon
    | with_reducible apply State.dropHeld_canon
    | with_reducible apply foldl_canonical
    | intro _)

theorem State.cancelDrays_canon (s : State) (v : Nat) (hc : Canonical s) : Canonical ((State.cancelDrays s v)) := by
  unfold State.cancelDrays
  repeat' (first
    | with_reducible assumption
    | with_reducible apply State.drayEnd_canon
    | with_reducible apply foldl_canonical
    | intro _)

theorem State.errorQps_canon (s : State) (v : Nat) (hc : Canonical s) : Canonical ((State.errorQps s v)) := by
  unfold State.errorQps
  repeat' (first
    | with_reducible assumption
    | with_reducible apply State.netError_canon
    | with_reducible apply foldl_canonical
    | intro _)

theorem execVdResetEffect_canon (vd : Nat) (s : State) (hc : Canonical s) : OutOk ((execVdResetEffect vd s)) := by
  unfold execVdResetEffect
  repeat' (first
    | with_reducible assumption
    | with_reducible apply State.closePorts_canon
    | with_reducible apply State.cancelAll_canon
    | with_reducible apply State.errorQps_canon
    | with_reducible apply State.cancelDrays_canon
    | with_reducible apply State.emptyElastic_canon
    | with_reducible apply State.modVd_canon
    | with_reducible apply State.shootDown_canon
    | with_reducible apply State.duration_canon
    | with_reducible apply State.after_canon
    | with_reducible apply outok_next
    | (extract_lets +onlyGivenNames x; refine cut (P := Canonical x) ?_ (fun _ => ?_); unfold x; try clear x; rotate_left; clear_value x; rotate_right)
    | split)

theorem execOpenSlotPurge_canon (vd : Nat) (s : State) (hc : Canonical s) : OutOk ((execOpenSlotPurge vd s)) := by
  unfold execOpenSlotPurge
  repeat' (first
    | with_reducible assumption
    | with_reducible apply State.opResult_canon
    | with_reducible apply State.dropPacket_canon
    | with_reducible apply State.countDiscard_canon
    | with_reducible apply outok_next
    | with_reducible apply foldl_canonical
    | intro _
    | split)

theorem State.tearDown_canon (s : State) (v : Nat) (hc : Canonical s) : Canonical ((State.tearDown s v)) := by
  unfold State.tearDown
  repeat' (first
    | with_reducible assumption
    | with_reducible apply State.countDiscard_canon
    | with_reducible apply State.dropKid_canon
    | with_reducible apply State.setKey_canon
    | with_reducible apply State.setFrame_canon
    | with_reducible apply State.dropFrames_canon
    | with_reducible apply State.setMig_canon
    | with_reducible apply State.setDray_canon
    | with_reducible apply State.modVd_canon
    | with_reducible apply foldl_canonical
    | with_reducible apply Canonical.wmem
    | with_reducible apply Canonical.wspad
    | with_reducible apply Canonical.rstrands
    | with_reducible apply Canonical.rcores
    | with_reducible apply Canonical.rharps
    | with_reducible apply Canonical.rlaunches
    | with_reducible apply Canonical.rvds
    | with_reducible apply Canonical.rparts
    | with_reducible apply Canonical.rkeys
    | with_reducible apply Canonical.rframes
    | with_reducible apply Canonical.rmig
    | with_reducible apply Canonical.rports
    | with_reducible apply Canonical.rdrays
    | with_reducible apply Canonical.rqps
    | (with_reducible refine rising_map ?_ ?_; rotate_left; (intro _; first | rfl | (split <;> rfl)))
    | intro _
    | (extract_lets +onlyGivenNames x; clear_value x)
    | (simp -zeta only [canonical_mk]; refine ⟨?_,?_,?_,?_,?_,?_,?_,?_,?_,?_,?_,?_,?_,?_⟩))

theorem execVdQuiet_canon (vd : Nat) (s : State) (hc : Canonical s) : OutOk ((execVdQuiet vd s)) := by
  unfold execVdQuiet
  repeat' (first
    | with_reducible assumption
    | with_reducible apply State.modVd_canon
    | with_reducible apply State.tearDown_canon
    | with_reducible apply State.modPkg_canon
    | with_reducible apply outok_next
    | (extract_lets +onlyGivenNames x; refine cut (P := Canonical x) ?_ (fun _ => ?_); unfold x; try clear x; rotate_left; clear_value x; rotate_right)
    | split)

theorem State.evict_canon (s : State) (c : Nat) (hc : Canonical s) : Canonical ((State.evict s c)) := by
  unfold State.evict
  repeat' (first
    | with_reducible assumption
    | with_reducible apply State.askPreempt_canon
    | with_reducible apply State.clearCore_canon
    | with_reducible apply foldl_canonical
    | intro _
    | split)

theorem State.moveSaved_canon (s : State) (e : Saved) (k : Nat) (hc : Canonical s) : Canonical ((State.moveSaved s e k)) := by
  unfold State.moveSaved
  repeat' (first
    | with_reducible assumption
    | with_reducible apply State.setStrand_canon
    | with_reducible apply State.relabel_canon
    | with_reducible apply Canonical.wmem
    | with_reducible apply Canonical.wspad
    | with_reducible apply rising_tput
    | with_reducible apply Canonical.rstrands
    | with_reducible apply Canonical.rcores
    | with_reducible apply Canonical.rharps
    | with_reducible apply Canonical.rlaunches
    | with_reducible apply Canonical.rvds
    | with_reducible apply Canonical.rparts
    | with_reducible apply Canonical.rkeys
    | with_reducible apply Canonical.rframes
    | with_reducible apply Canonical.rmig
    | with_reducible apply Canonical.rports
    | with_reducible apply Canonical.rdrays
    | with_reducible apply Canonical.rqps
    | (extract_lets +onlyGivenNames x; refine cut (P := Canonical x) ?_ (fun _ => ?_); unfold x; try clear x; rotate_left; clear_value x; rotate_right)
    | (extract_lets +onlyGivenNames x; clear_value x)
    | ((fail_if_success (fail_if_success (simp -zeta only [canonical_mk]))); with_reducible refine canon_keep rfl rfl rfl rfl rfl rfl rfl rfl rfl rfl rfl rfl ?_ ?_ ?_)
    | (simp -zeta only [canonical_mk]; refine ⟨?_,?_,?_,?_,?_,?_,?_,?_,?_,?_,?_,?_,?_,?_⟩))

theorem State.swapCores_canon (s : State) (p : Nat) (c : Nat) (k : Nat) (hc : Canonical s) : Canonical ((State.swapCores s p c k)) := by
  unfold State.swapCores
  repeat' (first
    | with_reducible assumption
    | with_reducible apply State.modCore_canon
    | with_reducible apply State.modPart_canon
    | with_reducible apply State.moveSaved_canon
    | with_reducible apply foldl_canonical
    | with_reducible apply Canonical.wmem
    | with_reducible apply Canonical.wspad
    | with_reducible apply Canonical.rstrands
    | with_reducible apply Canonical.rcores
    | with_reducible apply Canonical.rharps
    | with_reducible apply Canonical.rlaunches
    | with_reducible apply Canonical.rvds
    | with_reducible apply Canonical.rparts
    | with_reducible apply Canonical.rkeys
    | with_reducible apply Canonical.rframes
    | with_reducible apply Canonical.rmig
    | with_reducible apply Canonical.rports
    | with_reducible apply Canonical.rdrays
    | with_reducible apply Canonical.rqps
    | (with_reducible refine rising_map ?_ ?_; rotate_left; (intro _; first | rfl | (split <;> rfl)))
    | intro _
    | (extract_lets +onlyGivenNames x; refine cut (P := Canonical x) ?_ (fun _ => ?_); unfold x; try clear x; rotate_left; clear_value x; rotate_right)
    | (extract_lets +onlyGivenNames x; clear_value x)
    | (simp -zeta only [canonical_mk]; refine ⟨?_,?_,?_,?_,?_,?_,?_,?_,?_,?_,?_,?_,?_,?_⟩))

theorem State.noteDegraded_canon (s : State) (hc : Canonical s) : Canonical ((State.noteDegraded s)) := by
  unfold State.noteDegraded
  repeat' (first
    | with_reducible assumption
    | with_reducible apply State.modPkg_canon
    | (extract_lets +onlyGivenNames x; clear_value x)
    | split)

theorem execCoreRetire_canon (core : Nat) (s : State) (hc : Canonical s) : OutOk ((execCoreRetire core s)) := by
  unfold execCoreRetire
  repeat' (first
    | with_reducible assumption
    | with_reducible apply State.owe_canon
    | with_reducible apply State.idle_canon
    | with_reducible apply State.swapCores_canon
    | with_reducible apply State.noteDegraded_canon
    | with_reducible apply State.modCore_canon
    | with_reducible apply State.coresChanged_canon
    | with_reducible apply State.resumeSaved_canon
    | with_reducible apply State.evict_canon
    | with_reducible apply outok_next
    | with_reducible apply foldl_canonical
    | (extract_lets +onlyGivenNames x; refine cut (P := Canonical x) ?_ (fun _ => ?_); unfold x; try clear x; rotate_left; clear_value x; rotate_right)
    | (extract_lets +onlyGivenNames x; clear_value x)
    | split)

theorem execPartitionMove_canon (src : Nat) (dst : Nat) (crews : Nat) (drays : Nat) (spares : Nat) (s : State) (hc : Canonical s) : OutOk ((execPartitionMove src dst crews drays spares s)) := by
  unfold execPartitionMove
  repeat' (first
    | with_reducible assumption
    | with_reducible apply State.owe_canon
    | with_reducible apply State.modPart_canon
    | with_reducible apply State.idle_canon
    | with_reducible apply State.takeCore_canon
    | with_reducible apply State.coresChanged_canon
    | with_reducible apply outok_next
    | with_reducible apply foldl_canonical
    | intro _
    | (extract_lets +onlyGivenNames x; refine cut (P := Canonical x) ?_ (fun _ => ?_); unfold x; try clear x; rotate_left; clear_value x; rotate_right)
    | (extract_lets +onlyGivenNames x; clear_value x)
    | split)

theorem execCoachmanTakeover_canon (s : State) (hc : Canonical s) : OutOk ((execCoachmanTakeover s)) := by
  unfold execCoachmanTakeover
  repeat' (first
    | with_reducible assumption
    | with_reducible apply State.modPkg_canon
    | with_reducible apply outok_next)

theorem execFirmwareUpdate_canon (bar : Nat) (s : State) (hc : Canonical s) : OutOk ((execFirmwareUpdate bar s)) := by
  unfold execFirmwareUpdate
  repeat' (first
    | with_reducible assumption
    | with_reducible apply State.modPkg_canon
    | with_reducible apply outok_next)

theorem State.enterTwo_canon (s : State) (hc : Canonical s) : Canonical ((State.enterTwo s)) := by
  unfold State.enterTwo
  repeat' (first
    | with_reducible assumption
    | with_reducible apply State.askPreempt_canon
    | with_reducible apply State.modLaunch_canon
    | with_reducible apply State.requestPreempt_canon
    | with_reducible apply State.postIrq_canon
    | with_reducible apply foldl_canonical
    | intro _
    | split)

theorem State.enterThree_canon (s : State) (hc : Canonical s) : Canonical ((State.enterThree s)) := by
  unfold State.enterThree
  extract_lets t k
  have hsrc : Canonical t := by
    refine foldl_canonical _ ?_ _ _ hc
    intro s e h
    split
    · exact State.tellTime_canon _ _ _ h
    · exact h
  clear_value t k
  refine ⟨wf_filter hsrc.1, wf_filter hsrc.2.1, rising_filter hsrc.rstrands, rising_filter hsrc.rcores, .nil, rising_filter hsrc.rlaunches, .nil, .nil, .nil, .nil, .nil, .nil, .nil, .nil⟩

theorem execThermalSample_canon (m : ThermalData) (s : State) (hc : Canonical s) : OutOk ((execThermalSample m s)) := by
  unfold execThermalSample
  repeat' (first
    | with_reducible assumption
    | with_reducible apply State.modPkg_canon
    | with_reducible apply State.enterTwo_canon
    | with_reducible apply State.enterThree_canon
    | with_reducible apply State.owe_canon
    | with_reducible apply outok_next
    | split)

theorem State.leaveLevel_canon (s : State) (hc : Canonical s) : Canonical ((State.leaveLevel s)) := by
  unfold State.leaveLevel
  repeat' (first
    | with_reducible assumption
    | with_reducible apply State.modPkg_canon
    | with_reducible apply State.now_canon
    | with_reducible apply State.postIrq_canon
    | with_reducible apply State.kickEngine_canon
    | with_reducible apply State.resumeSaved_canon
    | with_reducible apply foldl_canonical
    | intro _
    | (extract_lets +onlyGivenNames x; refine cut (P := Canonical x) ?_ (fun _ => ?_); unfold x; try clear x; rotate_left; clear_value x; rotate_right)
    | (extract_lets +onlyGivenNames x; clear_value x)
    | split)

theorem execThermalLevelExit_canon (s : State) (hc : Canonical s) : OutOk ((execThermalLevelExit s)) := by
  unfold execThermalLevelExit
  repeat' (first
    | with_reducible assumption
    | with_reducible apply State.leaveLevel_canon
    | with_reducible apply State.owe_canon
    | with_reducible apply outok_next
    | (extract_lets +onlyGivenNames x; refine cut (P := Canonical x) ?_ (fun _ => ?_); unfold x; try clear x; rotate_left; clear_value x; rotate_right)
    | split)

theorem State.startCoach_canon (s : State) (core : Nat) (entry : Word) (tvec : Word) (hc : Canonical s) : Canonical ((State.startCoach s core entry tvec)) := by
  unfold State.startCoach
  repeat' (first
    | with_reducible assumption
    | with_reducible apply State.setStrand_canon
    | with_reducible apply State.setLaunch_canon)

theorem execBringupStage0_canon (p : Stage0Data) (s : State) (hc : Canonical s) : OutOk ((execBringupStage0 p s)) := by
  unfold execBringupStage0
  repeat' (first
    | with_reducible assumption
    | with_reducible apply State.modPkg_canon
    | with_reducible apply State.startCoach_canon
    | with_reducible apply outok_next
    | with_reducible apply foldl_wf
    | with_reducible apply wf_tput
    | with_reducible apply Canonical.wmem
    | with_reducible apply Canonical.wspad
    | intro _
    | (extract_lets +onlyGivenNames x; refine cut (P := Canonical x) ?_ (fun _ => ?_); unfold x; try clear x; rotate_left; clear_value x; rotate_right)
    | split
    | ((fail_if_success (fail_if_success (simp -zeta only [canonical_mk]))); with_reducible refine canon_keep rfl rfl rfl rfl rfl rfl rfl rfl rfl rfl rfl rfl ?_ ?_ ?_))

theorem State.flood_canon (s : State) (x : Nat) (y : Nat) (but : Option Nat) (hc : Canonical s) : Canonical ((State.flood s x y but)) := by
  unfold State.flood
  repeat' (first
    | with_reducible assumption
    | with_reducible apply State.after_canon
    | with_reducible apply foldl_canonical
    | intro _
    | split)

theorem execBringupStage1_canon (s : State) (hc : Canonical s) : OutOk ((execBringupStage1 s)) := by
  unfold execBringupStage1
  repeat' (first
    | with_reducible assumption
    | with_reducible apply State.modPkg_canon
    | with_reducible apply State.after_canon
    | with_reducible apply State.flood_canon
    | with_reducible apply outok_next
    | with_reducible apply Canonical.wmem
    | with_reducible apply Canonical.wspad
    | with_reducible apply Canonical.rstrands
    | with_reducible apply Canonical.rcores
    | with_reducible apply Canonical.rharps
    | with_reducible apply Canonical.rlaunches
    | with_reducible apply Canonical.rvds
    | with_reducible apply Canonical.rparts
    | with_reducible apply Canonical.rkeys
    | with_reducible apply Canonical.rframes
    | with_reducible apply Canonical.rmig
    | with_reducible apply Canonical.rports
    | with_reducible apply Canonical.rdrays
    | with_reducible apply Canonical.rqps
    | (with_reducible refine rising_map ?_ ?_; rotate_left; (intro _; first | rfl | (split <;> rfl)))
    | (extract_lets +onlyGivenNames x; refine cut (P := Canonical x) ?_ (fun _ => ?_); unfold x; try clear x; rotate_left; clear_value x; rotate_right)
    | (extract_lets +onlyGivenNames x; clear_value x)
    | split
    | (simp -zeta only [canonical_mk]; refine ⟨?_,?_,?_,?_,?_,?_,?_,?_,?_,?_,?_,?_,?_,?_⟩))

theorem execDiscoveryPacket_canon (x : Nat) (y : Nat) (dir : Dir) (s : State) (hc : Canonical s) : OutOk ((execDiscoveryPacket x y dir s)) := by
  unfold execDiscoveryPacket
  repeat' (first
    | with_reducible assumption
    | with_reducible apply State.modPkg_canon
    | with_reducible apply State.flood_canon
    | with_reducible apply State.after_canon
    | with_reducible apply outok_next
    | (extract_lets +onlyGivenNames x; refine cut (P := Canonical x) ?_ (fun _ => ?_); unfold x; try clear x; rotate_left; clear_value x; rotate_right)
    | (extract_lets +onlyGivenNames x; clear_value x)
    | split)

theorem execDiscoveryAnswer_canon (core : Nat) (s : State) (hc : Canonical s) : OutOk ((execDiscoveryAnswer core s)) := by
  unfold execDiscoveryAnswer
  repeat' (first
    | with_reducible assumption
    | with_reducible apply State.modCore_canon
    | with_reducible apply outok_next
    | split)

theorem State.numberCores_canon (s : State) (cs : List Nat) (hc : Canonical s) : Canonical ((State.numberCores s cs)) := by
  unfold State.numberCores
  repeat' (first
    | with_reducible assumption
    | with_reducible apply State.modCore_canon
    | with_reducible apply State.modPkg_canon
    | with_reducible apply foldl_canonical
    | with_reducible apply Canonical.wmem
    | with_reducible apply Canonical.wspad
    | with_reducible apply Canonical.rstrands
    | with_reducible apply Canonical.rcores
    | with_reducible apply Canonical.rharps
    | with_reducible apply Canonical.rlaunches
    | with_reducible apply Canonical.rvds
    | with_reducible apply Canonical.rparts
    | with_reducible apply Canonical.rkeys
    | with_reducible apply Canonical.rframes
    | with_reducible apply Canonical.rmig
    | with_reducible apply Canonical.rports
    | with_reducible apply Canonical.rdrays
    | with_reducible apply Canonical.rqps
    | (with_reducible refine rising_map ?_ ?_; rotate_left; (intro _; first | rfl | (split <;> rfl)))
    | intro _
    | (simp -zeta only [canonical_mk]; refine ⟨?_,?_,?_,?_,?_,?_,?_,?_,?_,?_,?_,?_,?_,?_⟩))

theorem execMapBuild_canon (s : State) (hc : Canonical s) : OutOk ((execMapBuild s)) := by
  unfold execMapBuild
  repeat' (first
    | with_reducible assumption
    | with_reducible apply State.modPkg_canon
    | with_reducible apply State.numberCores_canon
    | with_reducible apply outok_next
    | (extract_lets +onlyGivenNames x; refine cut (P := Canonical x) ?_ (fun _ => ?_); unfold x; try clear x; rotate_left; clear_value x; rotate_right)
    | (extract_lets +onlyGivenNames x; clear_value x)
    | split)

theorem State.placeBoot_canon (s : State) (hc : Canonical s) : Canonical ((State.placeBoot s)) := by
  unfold State.placeBoot
  repeat' (first
    | with_reducible assumption
    | with_reducible apply State.fresh_canon
    | with_reducible apply State.modCore_canon
    | with_reducible apply State.spadClear_canon
    | with_reducible apply State.setPort_canon
    | with_reducible apply State.setStrand_canon
    | with_reducible apply State.modVd_canon
    | with_reducible apply State.modPkg_canon
    | with_reducible apply State.setLaunch_canon
    | with_reducible apply foldl_canonical
    | intro _)

theorem State.endBoot_canon (s : State) (sum : BitVec 32) (hc : Canonical s) : Canonical ((State.endBoot s sum)) := by
  unfold State.endBoot
  repeat' (first
    | with_reducible assumption
    | with_reducible apply State.modPkg_canon
    | with_reducible apply State.startReset_canon
    | (extract_lets +onlyGivenNames x; refine cut (P := Canonical x) ?_ (fun _ => ?_); unfold x; try clear x; rotate_left; clear_value x; rotate_right)
    | (extract_lets +onlyGivenNames x; clear_value x)
    | split)

theorem execBringupStage2_canon (trained : Bool) (far : Bool) (checksum : BitVec 32) (s : State) (hc : Canonical s) : OutOk ((execBringupStage2 trained far checksum s)) := by
  unfold execBringupStage2
  repeat' (first
    | with_reducible assumption
    | with_reducible apply State.owe_canon
    | with_reducible apply State.endBoot_canon
    | with_reducible apply State.modPkg_canon
    | with_reducible apply State.retire_canon
    | with_reducible apply State.placeBoot_canon
    | with_reducible apply outok_next
    | with_reducible apply Canonical.wmem
    | with_reducible apply Canonical.wspad
    | with_reducible apply Canonical.rstrands
    | with_reducible apply Canonical.rcores
    | with_reducible apply Canonical.rharps
    | with_reducible apply Canonical.rlaunches
    | with_reducible apply Canonical.rvds
    | with_reducible apply Canonical.rparts
    | with_reducible apply Canonical.rkeys
    | with_reducible apply Canonical.rmig
    | with_reducible apply Canonical.rports
    | with_reducible apply Canonical.rdrays
    | with_reducible apply Canonical.rqps
    | with_reducible exact rising_nil
    | (extract_lets +onlyGivenNames x; refine cut (P := Canonical x) ?_ (fun _ => ?_); unfold x; try clear x; rotate_left; clear_value x; rotate_right)
    | (extract_lets +onlyGivenNames x; clear_value x)
    | split
    | (simp -zeta only [canonical_mk]; refine ⟨?_,?_,?_,?_,?_,?_,?_,?_,?_,?_,?_,?_,?_,?_⟩))

theorem execBootWaitRelease_canon (core : Nat) (s : State) (hc : Canonical s) : OutOk ((execBootWaitRelease core s)) := by
  unfold execBootWaitRelease
  repeat' (first
    | with_reducible assumption
    | with_reducible apply State.modStrand_canon
    | with_reducible apply outok_next
    | split)

theorem execBootExpiry_canon (s : State) (hc : Canonical s) : OutOk ((execBootExpiry s)) := by
  unfold execBootExpiry
  repeat' (first
    | with_reducible assumption
    | with_reducible apply State.numberCores_canon
    | with_reducible apply outok_next
    | split)

theorem execBringupStage3_canon (p : Stage3Data) (s : State) (hc : Canonical s) : OutOk ((execBringupStage3 p s)) := by
  unfold execBringupStage3
  repeat' (first
    | with_reducible assumption
    | with_reducible apply State.modPkg_canon
    | with_reducible apply State.owe_canon
    | with_reducible apply outok_next
    | split)

theorem execLockInterface_canon (vd : Nat) (s : State) (hc : Canonical s) : OutOk ((execLockInterface vd s)) := by
  unfold execLockInterface
  repeat' (first
    | with_reducible assumption
    | with_reducible apply State.modVd_canon
    | with_reducible apply outok_next
    | split)

theorem execStartInterface_canon (vd : Nat) (s : State) (hc : Canonical s) : OutOk ((execStartInterface vd s)) := by
  unfold execStartInterface
  repeat' (first
    | with_reducible assumption
    | with_reducible apply State.modVd_canon
    | with_reducible apply outok_next
    | split)

theorem execStopInterface_canon (vd : Nat) (s : State) (hc : Canonical s) : OutOk ((execStopInterface vd s)) := by
  unfold execStopInterface
  repeat' (first
    | with_reducible assumption
    | with_reducible apply State.modVd_canon
    | with_reducible apply outok_next)

theorem State.hostReply_canon (s : State) (v : Nat) (bs : List Byte) (hc : Canonical s) : Canonical ((State.hostReply s v bs)) := by
  unfold State.hostReply
  repeat' (first
    | with_reducible assumption
    | with_reducible apply Canonical.wmem
    | with_reducible apply Canonical.wspad
    | ((fail_if_success (fail_if_success (simp -zeta only [canonical_mk]))); with_reducible refine canon_keep rfl rfl rfl rfl rfl rfl rfl rfl rfl rfl rfl rfl ?_ ?_ ?_))

theorem execHostTransaction_canon (t : HostTx) (s : State) (hc : Canonical s) : OutOk ((execHostTransaction t s)) := by
  unfold execHostTransaction
  repeat' (first
    | with_reducible assumption
    | with_reducible apply State.hostReply_canon
    | with_reducible apply State.setVd_canon
    | with_reducible apply State.wakePart_canon
    | with_reducible apply State.chargeLine_canon
    | with_reducible apply State.linesWrite_canon
    | with_reducible apply outok_next
    | (extract_lets +onlyGivenNames x; refine cut (P := Canonical x) ?_ (fun _ => ?_); unfold x; try clear x; rotate_left; clear_value x; rotate_right)
    | split)

theorem execMctpMessage_canon (m : MgmtMsg) (s : State) (hc : Canonical s) : OutOk ((execMctpMessage m s)) := by
  unfold execMctpMessage
  repeat' (first
    | with_reducible assumption
    | with_reducible apply State.setLtol_canon
    | with_reducible apply State.hostReply_canon
    | with_reducible apply State.freeBytes_canon
    | with_reducible apply outok_next
    | split)

theorem State.ckptCopy_canon (s : State) (hc : Canonical s) : Canonical ((State.ckptCopy s)) := by
  unfold State.ckptCopy
  repeat' (first
    | with_reducible assumption
    | with_reducible apply State.freeWord_canon
    | with_reducible apply State.engineWrite_canon
    | (extract_lets +onlyGivenNames x; clear_value x)
    | split)

theorem State.clean_canon (s : State) (f : State → State) (hc : Canonical s) (hf_ : ∀ (x0_ : State), Canonical x0_ → Canonical (f x0_)) : Canonical ((State.clean s f)) := by
  unfold State.clean
  repeat' (first
    | with_reducible assumption
    | with_reducible apply hf_
    | with_reducible apply Canonical.wmem
    | with_reducible apply Canonical.wspad
    | (extract_lets +onlyGivenNames x; refine cut (P := Canonical x) ?_ (fun _ => ?_); unfold x; try clear x; rotate_left; clear_value x; rotate_right)
    | ((fail_if_success (fail_if_success (simp -zeta only [canonical_mk]))); with_reducible refine canon_keep rfl rfl rfl rfl rfl rfl rfl rfl rfl rfl rfl rfl ?_ ?_ ?_))

theorem State.areaWrite_canon (s : State) (a : Nat) (bs : List Byte) (hc : Canonical s) : Canonical ((State.areaWrite s a bs)) := by
  unfold State.areaWrite
  repeat' (first
    | with_reducible assumption
    | with_reducible apply State.clean_canon
    | with_reducible apply State.linesWrite_canon
    | intro _)

theorem State.ckptEnd_canon (s : State) (err : Nat) (hc : Canonical s) : Canonical ((State.ckptEnd s err)) := by
  unfold State.ckptEnd
  repeat' (first
    | with_reducible assumption
    | with_reducible apply State.countErr_canon
    | with_reducible apply State.ckptCopy_canon
    | with_reducible apply State.postIrq_canon
    | with_reducible apply Canonical.wmem
    | with_reducible apply Canonical.wspad
    | (extract_lets +onlyGivenNames x; clear_value x)
    | split
    | ((fail_if_success (fail_if_success (simp -zeta only [canonical_mk]))); with_reducible refine canon_keep rfl rfl rfl rfl rfl rfl rfl rfl rfl rfl rfl rfl ?_ ?_ ?_))

theorem execCheckpointRoundStart_canon (s : State) (hc : Canonical s) : OutOk ((execCheckpointRoundStart s)) := by
  unfold execCheckpointRoundStart
  repeat' (first
    | with_reducible assumption
    | with_reducible apply State.countErr_canon
    | with_reducible apply State.ckptEnd_canon
    | with_reducible apply State.duration_canon
    | with_reducible apply State.after_canon
    | with_reducible apply State.ckptCopy_canon
    | with_reducible apply outok_next
    | with_reducible apply Canonical.wmem
    | with_reducible apply Canonical.wspad
    | (extract_lets +onlyGivenNames x; refine cut (P := Canonical x) ?_ (fun _ => ?_); unfold x; try clear x; rotate_left; clear_value x; rotate_right)
    | split
    | ((fail_if_success (fail_if_success (simp -zeta only [canonical_mk]))); with_reducible refine canon_keep rfl rfl rfl rfl rfl rfl rfl rfl rfl rfl rfl rfl ?_ ?_ ?_))

theorem State.ckptStop_canon (s : State) (err : Nat) (hc : Canonical s) : Canonical ((State.ckptStop s err)) := by
  unfold State.ckptStop
  repeat' (first
    | with_reducible assumption
    | with_reducible apply State.after_canon
    | with_reducible apply State.ckptCopy_canon
    | with_reducible apply Canonical.wmem
    | with_reducible apply Canonical.wspad
    | (extract_lets +onlyGivenNames x; clear_value x)
    | ((fail_if_success (fail_if_success (simp -zeta only [canonical_mk]))); with_reducible refine canon_keep rfl rfl rfl rfl rfl rfl rfl rfl rfl rfl rfl rfl ?_ ?_ ?_))

theorem execCheckpointUnitCopy_canon (s : State) (hc : Canonical s) : OutOk ((execCheckpointUnitCopy s)) := by
  unfold execCheckpointUnitCopy
  repeat' (first
    | with_reducible assumption
    | with_reducible apply State.freeWord_canon
    | with_reducible apply State.areaWrite_canon
    | with_reducible apply State.after_canon
    | with_reducible apply State.ckptCopy_canon
    | with_reducible apply State.ckptStop_canon
    | with_reducible apply State.chargeLine_canon
    | with_reducible apply State.duration_canon
    | with_reducible apply outok_next
    | with_reducible apply foldl_snd
    | with_reducible apply Canonical.wmem
    | with_reducible apply Canonical.wspad
    | intro _
    | (extract_lets +onlyGivenNames x; refine cut (P := Canonical x) ?_ (fun _ => ?_); unfold x; try clear x; rotate_left; clear_value x; rotate_right)
    | (extract_lets +onlyGivenNames x; clear_value x)
    | split
    | ((fail_if_success (fail_if_success (simp -zeta only [canonical_mk]))); with_reducible refine canon_keep rfl rfl rfl rfl rfl rfl rfl rfl rfl rfl rfl rfl ?_ ?_ ?_))

theorem execCheckpointRetire_canon (s : State) (hc : Canonical s) : OutOk ((execCheckpointRetire s)) := by
  unfold execCheckpointRetire
  repeat' (first
    | with_reducible assumption
    | with_reducible apply State.after_canon
    | with_reducible apply outok_next
    | with_reducible apply wf_writeBytes
    | with_reducible apply Canonical.wmem
    | with_reducible apply Canonical.wspad
    | (extract_lets +onlyGivenNames x; clear_value x)
    | split
    | ((fail_if_success (fail_if_success (simp -zeta only [canonical_mk]))); with_reducible refine canon_keep rfl rfl rfl rfl rfl rfl rfl rfl rfl rfl rfl rfl ?_ ?_ ?_))

theorem execCheckpointRoundEnd_canon (s : State) (hc : Canonical s) : OutOk ((execCheckpointRoundEnd s)) := by
  unfold execCheckpointRoundEnd
  repeat' (first
    | with_reducible assumption
    | with_reducible apply State.ckptEnd_canon
    | with_reducible apply State.wakeCounter_canon
    | with_reducible apply State.setCounter_canon
    | with_reducible apply outok_next
    | (extract_lets +onlyGivenNames x; refine cut (P := Canonical x) ?_ (fun _ => ?_); unfold x; try clear x; rotate_left; clear_value x; rotate_right)
    | (extract_lets +onlyGivenNames x; clear_value x)
    | split)

end Sys2Proof.Machine
end

