-- ==== Sys2Proof/Laws/CanonIssue.lean ====
section
/-! SUPPORT. Memory, scratchpads and tables stay in their canonical form: control words, scalar words and the issue. -/
set_option linter.all false
namespace Sys2Proof.Machine

theorem State.jump_canon (s : State) (target : Word) (hc : Canonical s) : Canonical ((State.jump s target)) := by
  unfold State.jump
  repeat' (first
    | with_reducible assumption
    | with_reducible apply State.modMe_canon)

theorem registerTarget_canon (s : State) (target : Word) (k : State → Res) (hc : Canonical s) (hk_ : ∀ (x0_ : State), Canonical x0_ → ResOk (k x0_)) : ResOk ((registerTarget s target k)) := by
  unfold registerTarget
  repeat' (first
    | with_reducible assumption
    | with_reducible apply hk_
    | with_reducible apply misalignedTarget_canon
    | with_reducible apply State.jump_canon
    | split)

theorem State.halt_canon (s : State) (hc : Canonical s) : Canonical ((State.halt s)) := by
  unfold State.halt
  repeat' (first
    | with_reducible assumption
    | with_reducible apply State.modMe_canon
    | with_reducible apply State.now_canon
    | with_reducible apply State.routeWaiting_canon
    | (extract_lets +onlyGivenNames x; refine cut (P := Canonical x) ?_ (fun _ => ?_); unfold x; try clear x; rotate_left; clear_value x; rotate_right)
    | (extract_lets +onlyGivenNames x; clear_value x)
    | split)

theorem execBr_canon (gd : Guard) (off : Fin 2097152) (s : State) (hc : Canonical s) : OutOk ((execBr gd off s)) := by
  unfold execBr
  repeat' (first
    | with_reducible assumption
    | with_reducible apply finish_canon
    | with_reducible apply word_canon
    | with_reducible apply State.jump_canon
    | with_reducible apply resok_ok
    | intro _)

theorem execJmp_canon (off : Fin 1048576) (s : State) (hc : Canonical s) : OutOk ((execJmp off s)) := by
  unfold execJmp
  repeat' (first
    | with_reducible assumption
    | with_reducible apply finish_canon
    | with_reducible apply word_canon
    | with_reducible apply State.jump_canon
    | with_reducible apply resok_ok
    | intro _)

theorem execCall_canon (off : Fin 1048576) (s : State) (hc : Canonical s) : OutOk ((execCall off s)) := by
  unfold execCall
  repeat' (first
    | with_reducible assumption
    | with_reducible apply finish_canon
    | with_reducible apply word_canon
    | with_reducible apply State.jump_canon
    | with_reducible apply State.landG_canon
    | with_reducible apply resok_ok
    | intro _)

theorem execRet_canon (a : GReg) (s : State) (hc : Canonical s) : OutOk ((execRet a s)) := by
  unfold execRet
  repeat' (first
    | with_reducible assumption
    | with_reducible apply finish_canon
    | with_reducible apply word_canon
    | with_reducible apply registerTarget_canon
    | with_reducible apply resok_ok
    | intro _)

theorem execCallr_canon (a : GReg) (s : State) (hc : Canonical s) : OutOk ((execCallr a s)) := by
  unfold execCallr
  repeat' (first
    | with_reducible assumption
    | with_reducible apply finish_canon
    | with_reducible apply word_canon
    | with_reducible apply registerTarget_canon
    | with_reducible apply State.landG_canon
    | with_reducible apply resok_ok
    | intro _)

theorem execNop_canon (s : State) (hc : Canonical s) : OutOk ((execNop s)) := by
  unfold execNop
  repeat' (first
    | with_reducible assumption
    | with_reducible apply finish_canon
    | with_reducible apply word_canon
    | with_reducible apply resok_ok)

theorem execHalt_canon (s : State) (hc : Canonical s) : OutOk ((execHalt s)) := by
  unfold execHalt
  repeat' (first
    | with_reducible assumption
    | with_reducible apply finish_canon
    | with_reducible apply word_canon
    | with_reducible apply State.halt_canon
    | with_reducible apply resok_ok
    | intro _)

theorem execTrap_canon (code : Fin 512) (s : State) (hc : Canonical s) : OutOk ((execTrap code s)) := by
  unfold execTrap
  repeat' (first
    | with_reducible assumption
    | with_reducible apply finish_canon
    | with_reducible apply word_canon
    | with_reducible apply resok_trap
    | intro _)

theorem execEret_canon (s : State) (hc : Canonical s) : OutOk ((execEret s)) := by
  unfold execEret
  repeat' (first
    | with_reducible assumption
    | with_reducible apply finish_canon
    | with_reducible apply word_canon
    | with_reducible apply privilege_canon
    | with_reducible apply misalignedTarget_canon
    | with_reducible apply State.modMe_canon
    | with_reducible apply State.logNow_canon
    | with_reducible apply resok_ok
    | intro _
    | (extract_lets +onlyGivenNames x; clear_value x)
    | split)

theorem State.csrWrite_canon (s : State) (n : Nat) (v : Word) (hc : Canonical s) : Canonical ((State.csrWrite s n v)) := by
  unfold State.csrWrite
  repeat' (first
    | with_reducible assumption
    | with_reducible apply State.landWide_canon
    | with_reducible apply State.owe_canon
    | with_reducible apply State.modCore_canon
    | (extract_lets +onlyGivenNames x; refine cut (P := Canonical x) ?_ (fun _ => ?_); unfold x; try clear x; rotate_left; clear_value x; rotate_right)
    | (extract_lets +onlyGivenNames x; clear_value x)
    | split)

theorem csrAccess_canon (s : State) (n : Nat) (write : Bool) (u : Use) (effect : State → Res) (hc : Canonical s) (heffect_ : ∀ (x0_ : State), Canonical x0_ → ResOk (effect x0_)) : ResOk ((csrAccess s n write u effect)) := by
  unfold csrAccess
  repeat' (first
    | with_reducible assumption
    | with_reducible apply illegalInstr_canon
    | with_reducible apply privilege_canon
    | with_reducible apply word_canon
    | split)

theorem execCsrr_canon (d : GReg) (csr : Fin 512) (s : State) (hc : Canonical s) : OutOk ((execCsrr d csr s)) := by
  unfold execCsrr
  repeat' (first
    | with_reducible assumption
    | with_reducible apply finish_canon
    | with_reducible apply csrAccess_canon
    | with_reducible apply State.landG_canon
    | with_reducible apply resok_ok
    | intro _)

theorem execCsrw_canon (csr : Fin 512) (a : GReg) (s : State) (hc : Canonical s) : OutOk ((execCsrw csr a s)) := by
  unfold execCsrw
  repeat' (first
    | with_reducible assumption
    | with_reducible apply finish_canon
    | with_reducible apply csrAccess_canon
    | with_reducible apply State.csrWrite_canon
    | with_reducible apply resok_ok
    | intro _)

theorem execCsrx_canon (d : GReg) (csr : Fin 512) (a : GReg) (s : State) (hc : Canonical s) : OutOk ((execCsrx d csr a s)) := by
  unfold execCsrx
  repeat' (first
    | with_reducible assumption
    | with_reducible apply finish_canon
    | with_reducible apply csrAccess_canon
    | with_reducible apply State.csrWrite_canon
    | with_reducible apply State.landG_canon
    | with_reducible apply resok_ok
    | intro _)

theorem execLand_canon (sid : Nat) (s : State) (hc : Canonical s) : OutOk ((execLand sid s)) := by
  unfold execLand
  repeat' (first
    | with_reducible assumption
    | with_reducible apply State.modCore_canon
    | with_reducible apply State.modStrand_canon
    | with_reducible apply State.takeTrap_canon
    | with_reducible apply outok_next
    | split)

theorem State.beginWord_canon (s : State) (l : Lane) (hc : Canonical s) : BeginOk ((State.beginWord s l)) := by
  unfold State.beginWord
  repeat' (first
    | with_reducible assumption
    | with_reducible apply State.correct_canon
    | with_reducible apply State.laneArith_canon
    | with_reducible apply State.laneHplane_canon
    | with_reducible apply State.laneHwrite_canon
    | (with_reducible apply State.laneMem_canon_fwd; with_reducible assumption)
    | (with_reducible apply State.laneHread_canon_fwd; with_reducible assumption)
    | (with_reducible apply State.lanePush_canon_fwd; with_reducible assumption)
    | with_reducible apply beginok_wait
    | with_reducible apply beginok_trap
    | with_reducible apply beginok_done
    | (extract_lets +onlyGivenNames x; refine cut (P := Canonical x) ?_ (fun _ => ?_); unfold x; try clear x; rotate_left; clear_value x; rotate_right)
    | (extract_lets +onlyGivenNames x; clear_value x)
    | split)

theorem State.beginWord_canon_fwd {s : State} {l : Lane} {w_ : State} {z_ : _} (eq_ : (State.beginWord s l) = .done w_ z_) (hc : Canonical s) : Canonical w_ := by
  have := State.beginWord_canon s l hc; rw [eq_] at this; exact this

theorem State.popItem_canon (s : State) (sid : Nat) (hc : Canonical s) : Canonical ((State.popItem s sid)) := by
  unfold State.popItem
  repeat' (first
    | with_reducible assumption
    | with_reducible apply State.modStrand_canon)

theorem State.attachLoop_canon (s : State) (sid : Nat) (seq : Nat) (r : GReg × Nat × Nat) (hc : Canonical s) : Canonical ((State.attachLoop s sid seq r)) := by
  unfold State.attachLoop
  repeat' (first
    | with_reducible assumption
    | with_reducible apply State.modStrand_canon
    | with_reducible apply State.deliver_canon
    | (extract_lets +onlyGivenNames x; refine cut (P := Canonical x) ?_ (fun _ => ?_); unfold x; try clear x; rotate_left; clear_value x; rotate_right)
    | split)

theorem State.trimReturns_canon (s : State) (sid : Nat) (l : VLoop) (hc : Canonical s) : Canonical ((State.trimReturns s sid l)) := by
  unfold State.trimReturns
  repeat' (first
    | with_reducible assumption
    | with_reducible apply State.modStrand_canon)

theorem State.blockNext_canon (s : State) (sid : Nat) (l : VLoop) (seq : Nat) (trim : Option Nat) (hc : Canonical s) : Canonical ((State.blockNext s sid l seq trim)) := by
  unfold State.blockNext
  repeat' (first
    | with_reducible assumption
    | with_reducible apply State.trimReturns_canon
    | with_reducible apply State.attachLoop_canon
    | with_reducible apply State.modStrand_canon
    | (extract_lets +onlyGivenNames x; refine cut (P := Canonical x) ?_ (fun _ => ?_); unfold x; try clear x; rotate_left; clear_value x; rotate_right)
    | (extract_lets +onlyGivenNames x; clear_value x)
    | split)

theorem State.laneTrap_canon (s : State) (sid : Nat) (e : VEntry) (t : TrapInfo) (hc : Canonical s) : Canonical ((State.laneTrap s sid e t)) := by
  unfold State.laneTrap
  repeat' (first
    | with_reducible assumption
    | with_reducible apply State.modStrand_canon
    | with_reducible apply State.vectorTrap_canon
    | split)

theorem State.laneStart_canon (s : State) (sid : Nat) (hc : Canonical s) : Canonical ((State.laneStart s sid)) := by
  unfold State.laneStart
  repeat' (first
    | with_reducible assumption
    | with_reducible apply State.owe_canon
    | with_reducible apply State.laneTrap_canon
    | with_reducible apply State.oweLane_canon
    | with_reducible apply State.popItem_canon
    | with_reducible apply State.blockNext_canon
    | (with_reducible apply State.beginWord_canon_fwd; with_reducible assumption)
    | with_reducible apply_assumption -exfalso -symm
    | intro _
    | (extract_lets +onlyGivenNames x; refine cut (P := ∀ t, Canonical t → Canonical (x t)) ?_ (fun _ => ?_); unfold x; try clear x; rotate_left; clear_value x; rotate_right)
    | (extract_lets +onlyGivenNames x; clear_value x)
    | split)

theorem execLaneStart_canon (sid : Nat) (s : State) (hc : Canonical s) : OutOk ((execLaneStart sid s)) := by
  unfold execLaneStart
  repeat' (first
    | with_reducible assumption
    | with_reducible apply State.laneStart_canon
    | with_reducible apply outok_next)

theorem binary_canon (d : GReg) (a : GReg) (b : GReg) (gd : Guard) (turns : Nat) (f : Word → Word → Word) (s : State) (hc : Canonical s) : OutOk ((binary d a b gd turns f s)) := by
  unfold binary
  repeat' (first
    | with_reducible assumption
    | with_reducible apply finish_canon
    | with_reducible apply word_canon
    | with_reducible apply State.landG_canon
    | with_reducible apply resok_ok
    | intro _)

theorem unary_canon (d : GReg) (a : GReg) (gd : Guard) (f : Word → Word) (s : State) (hc : Canonical s) : OutOk ((unary d a gd f s)) := by
  unfold unary
  repeat' (first
    | with_reducible assumption
    | with_reducible apply finish_canon
    | with_reducible apply word_canon
    | with_reducible apply State.landG_canon
    | with_reducible apply resok_ok
    | intro _)

theorem compare_canon (op : CmpOp) (d : PReg) (a : GReg) (b : GReg) (gd : Guard) (w : Width) (s : State) (hc : Canonical s) : OutOk ((compare op d a b gd w s)) := by
  unfold compare
  repeat' (first
    | with_reducible assumption
    | with_reducible apply finish_canon
    | with_reducible apply word_canon
    | with_reducible apply State.landP_canon
    | with_reducible apply resok_ok
    | intro _)

theorem logic_canon (d : PReg) (a : PReg) (b : PReg) (gd : Guard) (f : Bool → Bool → Bool) (s : State) (hc : Canonical s) : OutOk ((logic d a b gd f s)) := by
  unfold logic
  repeat' (first
    | with_reducible assumption
    | with_reducible apply finish_canon
    | with_reducible apply word_canon
    | with_reducible apply State.landP_canon
    | with_reducible apply resok_ok
    | intro _)

theorem execAdd_canon (d : GReg) (a : GReg) (b : GReg) (gd : Guard) (w : Width) (s : State) (hc : Canonical s) : OutOk ((execAdd d a b gd w s)) := by
  unfold execAdd
  repeat' (first
    | with_reducible assumption
    | with_reducible apply binary_canon)

theorem execSub_canon (d : GReg) (a : GReg) (b : GReg) (gd : Guard) (w : Width) (s : State) (hc : Canonical s) : OutOk ((execSub d a b gd w s)) := by
  unfold execSub
  repeat' (first
    | with_reducible assumption
    | with_reducible apply binary_canon)

theorem execAnd_canon (d : GReg) (a : GReg) (b : GReg) (gd : Guard) (w : Width) (s : State) (hc : Canonical s) : OutOk ((execAnd d a b gd w s)) := by
  unfold execAnd
  repeat' (first
    | with_reducible assumption
    | with_reducible apply binary_canon)

theorem execOr_canon (d : GReg) (a : GReg) (b : GReg) (gd : Guard) (w : Width) (s : State) (hc : Canonical s) : OutOk ((execOr d a b gd w s)) := by
  unfold execOr
  repeat' (first
    | with_reducible assumption
    | with_reducible apply binary_canon)

theorem execXor_canon (d : GReg) (a : GReg) (b : GReg) (gd : Guard) (w : Width) (s : State) (hc : Canonical s) : OutOk ((execXor d a b gd w s)) := by
  unfold execXor
  repeat' (first
    | with_reducible assumption
    | with_reducible apply binary_canon)

theorem execShl_canon (d : GReg) (a : GReg) (b : GReg) (gd : Guard) (w : Width) (s : State) (hc : Canonical s) : OutOk ((execShl d a b gd w s)) := by
  unfold execShl
  repeat' (first
    | with_reducible assumption
    | with_reducible apply binary_canon)

theorem execShr_canon (d : GReg) (a : GReg) (b : GReg) (gd : Guard) (w : Width) (s : State) (hc : Canonical s) : OutOk ((execShr d a b gd w s)) := by
  unfold execShr
  repeat' (first
    | with_reducible assumption
    | with_reducible apply binary_canon)

theorem execSar_canon (d : GReg) (a : GReg) (b : GReg) (gd : Guard) (w : Width) (s : State) (hc : Canonical s) : OutOk ((execSar d a b gd w s)) := by
  unfold execSar
  repeat' (first
    | with_reducible assumption
    | with_reducible apply binary_canon)

theorem execMin_canon (d : GReg) (a : GReg) (b : GReg) (gd : Guard) (w : Width) (s : State) (hc : Canonical s) : OutOk ((execMin d a b gd w s)) := by
  unfold execMin
  repeat' (first
    | with_reducible assumption
    | with_reducible apply binary_canon)

theorem execMax_canon (d : GReg) (a : GReg) (b : GReg) (gd : Guard) (w : Width) (s : State) (hc : Canonical s) : OutOk ((execMax d a b gd w s)) := by
  unfold execMax
  repeat' (first
    | with_reducible assumption
    | with_reducible apply binary_canon)

theorem execMinn_canon (d : GReg) (a : GReg) (b : GReg) (gd : Guard) (w : Width) (s : State) (hc : Canonical s) : OutOk ((execMinn d a b gd w s)) := by
  unfold execMinn
  repeat' (first
    | with_reducible assumption
    | with_reducible apply binary_canon)

theorem execMaxn_canon (d : GReg) (a : GReg) (b : GReg) (gd : Guard) (w : Width) (s : State) (hc : Canonical s) : OutOk ((execMaxn d a b gd w s)) := by
  unfold execMaxn
  repeat' (first
    | with_reducible assumption
    | with_reducible apply binary_canon)

theorem execClz_canon (d : GReg) (a : GReg) (gd : Guard) (w : Width) (s : State) (hc : Canonical s) : OutOk ((execClz d a gd w s)) := by
  unfold execClz
  repeat' (first
    | with_reducible assumption
    | with_reducible apply unary_canon)

theorem execPopc_canon (d : GReg) (a : GReg) (gd : Guard) (w : Width) (s : State) (hc : Canonical s) : OutOk ((execPopc d a gd w s)) := by
  unfold execPopc
  repeat' (first
    | with_reducible assumption
    | with_reducible apply unary_canon)

theorem execSel_canon (d : GReg) (a : GReg) (b : GReg) (pr : PReg) (pn : Bool) (s : State) (hc : Canonical s) : OutOk ((execSel d a b pr pn s)) := by
  unfold execSel
  repeat' (first
    | with_reducible assumption
    | with_reducible apply finish_canon
    | with_reducible apply word_canon
    | with_reducible apply State.landG_canon
    | with_reducible apply resok_ok
    | intro _)

theorem execAddi_canon (d : GReg) (a : GReg) (imm : Fin 4096) (s : State) (hc : Canonical s) : OutOk ((execAddi d a imm s)) := by
  unfold execAddi
  repeat' (first
    | with_reducible assumption
    | with_reducible apply unary_canon)

theorem execAndi_canon (d : GReg) (a : GReg) (imm : Fin 4096) (s : State) (hc : Canonical s) : OutOk ((execAndi d a imm s)) := by
  unfold execAndi
  repeat' (first
    | with_reducible assumption
    | with_reducible apply unary_canon)

theorem execOri_canon (d : GReg) (a : GReg) (imm : Fin 4096) (s : State) (hc : Canonical s) : OutOk ((execOri d a imm s)) := by
  unfold execOri
  repeat' (first
    | with_reducible assumption
    | with_reducible apply unary_canon)

theorem execXori_canon (d : GReg) (a : GReg) (imm : Fin 4096) (s : State) (hc : Canonical s) : OutOk ((execXori d a imm s)) := by
  unfold execXori
  repeat' (first
    | with_reducible assumption
    | with_reducible apply unary_canon)

theorem execShli_canon (d : GReg) (a : GReg) (cnt : Fin 64) (s : State) (hc : Canonical s) : OutOk ((execShli d a cnt s)) := by
  unfold execShli
  repeat' (first
    | with_reducible assumption
    | with_reducible apply unary_canon)

theorem execShri_canon (d : GReg) (a : GReg) (cnt : Fin 64) (s : State) (hc : Canonical s) : OutOk ((execShri d a cnt s)) := by
  unfold execShri
  repeat' (first
    | with_reducible assumption
    | with_reducible apply unary_canon)

theorem execSari_canon (d : GReg) (a : GReg) (cnt : Fin 64) (s : State) (hc : Canonical s) : OutOk ((execSari d a cnt s)) := by
  unfold execSari
  repeat' (first
    | with_reducible assumption
    | with_reducible apply unary_canon)

theorem execLi_canon (d : GReg) (imm : Fin 1048576) (s : State) (hc : Canonical s) : OutOk ((execLi d imm s)) := by
  unfold execLi
  repeat' (first
    | with_reducible assumption
    | with_reducible apply finish_canon
    | with_reducible apply word_canon
    | with_reducible apply State.landG_canon
    | with_reducible apply resok_ok
    | intro _)

theorem execLih_canon (d : GReg) (imm : Fin 1048576) (s : State) (hc : Canonical s) : OutOk ((execLih d imm s)) := by
  unfold execLih
  repeat' (first
    | with_reducible assumption
    | with_reducible apply finish_canon
    | with_reducible apply word_canon
    | with_reducible apply State.landG_canon
    | with_reducible apply resok_ok
    | intro _)

theorem execMul_canon (d : GReg) (a : GReg) (b : GReg) (gd : Guard) (w : Width) (s : State) (hc : Canonical s) : OutOk ((execMul d a b gd w s)) := by
  unfold execMul
  repeat' (first
    | with_reducible assumption
    | with_reducible apply binary_canon)

theorem execMulh_canon (d : GReg) (a : GReg) (b : GReg) (gd : Guard) (w : Width) (s : State) (hc : Canonical s) : OutOk ((execMulh d a b gd w s)) := by
  unfold execMulh
  repeat' (first
    | with_reducible assumption
    | with_reducible apply binary_canon)

theorem execMulhn_canon (d : GReg) (a : GReg) (b : GReg) (gd : Guard) (w : Width) (s : State) (hc : Canonical s) : OutOk ((execMulhn d a b gd w s)) := by
  unfold execMulhn
  repeat' (first
    | with_reducible assumption
    | with_reducible apply binary_canon)

theorem execDiv_canon (d : GReg) (a : GReg) (b : GReg) (gd : Guard) (w : Width) (s : State) (hc : Canonical s) : OutOk ((execDiv d a b gd w s)) := by
  unfold execDiv
  repeat' (first
    | with_reducible assumption
    | with_reducible apply binary_canon)

theorem execDivn_canon (d : GReg) (a : GReg) (b : GReg) (gd : Guard) (w : Width) (s : State) (hc : Canonical s) : OutOk ((execDivn d a b gd w s)) := by
  unfold execDivn
  repeat' (first
    | with_reducible assumption
    | with_reducible apply binary_canon)

theorem execRem_canon (d : GReg) (a : GReg) (b : GReg) (gd : Guard) (w : Width) (s : State) (hc : Canonical s) : OutOk ((execRem d a b gd w s)) := by
  unfold execRem
  repeat' (first
    | with_reducible assumption
    | with_reducible apply binary_canon)

theorem execRemn_canon (d : GReg) (a : GReg) (b : GReg) (gd : Guard) (w : Width) (s : State) (hc : Canonical s) : OutOk ((execRemn d a b gd w s)) := by
  unfold execRemn
  repeat' (first
    | with_reducible assumption
    | with_reducible apply binary_canon)

theorem execCmpEq_canon (d : PReg) (a : GReg) (b : GReg) (gd : Guard) (w : Width) (s : State) (hc : Canonical s) : OutOk ((execCmpEq d a b gd w s)) := by
  unfold execCmpEq
  repeat' (first
    | with_reducible assumption
    | with_reducible apply compare_canon)

theorem execCmpNe_canon (d : PReg) (a : GReg) (b : GReg) (gd : Guard) (w : Width) (s : State) (hc : Canonical s) : OutOk ((execCmpNe d a b gd w s)) := by
  unfold execCmpNe
  repeat' (first
    | with_reducible assumption
    | with_reducible apply compare_canon)

theorem execCmpLt_canon (d : PReg) (a : GReg) (b : GReg) (gd : Guard) (w : Width) (s : State) (hc : Canonical s) : OutOk ((execCmpLt d a b gd w s)) := by
  unfold execCmpLt
  repeat' (first
    | with_reducible assumption
    | with_reducible apply compare_canon)

theorem execCmpGe_canon (d : PReg) (a : GReg) (b : GReg) (gd : Guard) (w : Width) (s : State) (hc : Canonical s) : OutOk ((execCmpGe d a b gd w s)) := by
  unfold execCmpGe
  repeat' (first
    | with_reducible assumption
    | with_reducible apply compare_canon)

theorem execCmpLtn_canon (d : PReg) (a : GReg) (b : GReg) (gd : Guard) (w : Width) (s : State) (hc : Canonical s) : OutOk ((execCmpLtn d a b gd w s)) := by
  unfold execCmpLtn
  repeat' (first
    | with_reducible assumption
    | with_reducible apply compare_canon)

theorem execCmpGen_canon (d : PReg) (a : GReg) (b : GReg) (gd : Guard) (w : Width) (s : State) (hc : Canonical s) : OutOk ((execCmpGen d a b gd w s)) := by
  unfold execCmpGen
  repeat' (first
    | with_reducible assumption
    | with_reducible apply compare_canon)

theorem execPlogAnd_canon (d : PReg) (a : PReg) (b : PReg) (gd : Guard) (s : State) (hc : Canonical s) : OutOk ((execPlogAnd d a b gd s)) := by
  unfold execPlogAnd
  repeat' (first
    | with_reducible assumption
    | with_reducible apply logic_canon)

theorem execPlogOr_canon (d : PReg) (a : PReg) (b : PReg) (gd : Guard) (s : State) (hc : Canonical s) : OutOk ((execPlogOr d a b gd s)) := by
  unfold execPlogOr
  repeat' (first
    | with_reducible assumption
    | with_reducible apply logic_canon)

theorem execPlogXor_canon (d : PReg) (a : PReg) (b : PReg) (gd : Guard) (s : State) (hc : Canonical s) : OutOk ((execPlogXor d a b gd s)) := by
  unfold execPlogXor
  repeat' (first
    | with_reducible assumption
    | with_reducible apply logic_canon)

theorem execPlogAndn_canon (d : PReg) (a : PReg) (b : PReg) (gd : Guard) (s : State) (hc : Canonical s) : OutOk ((execPlogAndn d a b gd s)) := by
  unfold execPlogAndn
  repeat' (first
    | with_reducible assumption
    | with_reducible apply logic_canon)

theorem execBfx_canon (d : GReg) (a : GReg) (len1 : Fin 64) (pos : Fin 64) (s : State) (hc : Canonical s) : OutOk ((execBfx d a len1 pos s)) := by
  unfold execBfx
  repeat' (first
    | with_reducible assumption
    | with_reducible apply unary_canon)

theorem execBfxs_canon (d : GReg) (a : GReg) (len1 : Fin 64) (pos : Fin 64) (s : State) (hc : Canonical s) : OutOk ((execBfxs d a len1 pos s)) := by
  unfold execBfxs
  repeat' (first
    | with_reducible assumption
    | with_reducible apply unary_canon)

theorem execBfi_canon (d : GReg) (a : GReg) (len1 : Fin 64) (pos : Fin 64) (s : State) (hc : Canonical s) : OutOk ((execBfi d a len1 pos s)) := by
  unfold execBfi
  repeat' (first
    | with_reducible assumption
    | with_reducible apply finish_canon
    | with_reducible apply word_canon
    | with_reducible apply State.landG_canon
    | with_reducible apply resok_ok
    | intro _)

theorem noEffect_canon (s : State) (hc : Canonical s) : OutOk ((noEffect s)) := by
  unfold noEffect
  repeat' (first
    | with_reducible assumption
    | with_reducible apply finish_canon
    | with_reducible apply word_canon
    | with_reducible apply resok_ok)

theorem execCHint_canon (z0 : Fin 4) (z1 : Fin 33554432) (s : State) (hc : Canonical s) : OutOk ((execCHint z0 z1 s)) := by
  unfold execCHint
  repeat' (first
    | with_reducible assumption
    | with_reducible apply noEffect_canon)

theorem execAHint_canon (z0 : Fin 4) (z1 : Fin 33554432) (s : State) (hc : Canonical s) : OutOk ((execAHint z0 z1 s)) := by
  unfold execAHint
  repeat' (first
    | with_reducible assumption
    | with_reducible apply noEffect_canon)

theorem execAtLcy_canon (a : GReg) (imm : Fin 4096) (s : State) (hc : Canonical s) : OutOk ((execAtLcy a imm s)) := by
  unfold execAtLcy
  repeat' (first
    | with_reducible assumption
    | with_reducible apply finish_canon
    | with_reducible apply word_canon
    | with_reducible apply State.owe_canon
    | with_reducible apply State.modMe_canon
    | with_reducible apply resok_ok
    | intro _
    | (extract_lets +onlyGivenNames x; clear_value x)
    | split)

theorem execAtWake_canon (sid : Nat) (s : State) (hc : Canonical s) : OutOk ((execAtWake sid s)) := by
  unfold execAtWake
  repeat' (first
    | with_reducible assumption
    | with_reducible apply State.modStrand_canon
    | with_reducible apply outok_next
    | split)

theorem execCue_canon (n : Fin 4096) (s : State) (hc : Canonical s) : OutOk ((execCue n s)) := by
  unfold execCue
  repeat' (first
    | with_reducible assumption
    | with_reducible apply finish_canon
    | with_reducible apply word_canon
    | with_reducible apply resok_ok
    | with_reducible apply resok_trap
    | intro _
    | (extract_lets +onlyGivenNames x; clear_value x)
    | split)

theorem execTune_canon (a : GReg) (s : State) (hc : Canonical s) : OutOk ((execTune a s)) := by
  unfold execTune
  repeat' (first
    | with_reducible assumption
    | with_reducible apply finish_canon
    | with_reducible apply word_canon
    | with_reducible apply State.modPkg_canon
    | with_reducible apply resok_ok
    | intro _)

theorem State.fetchPair_canon (s : State) (sid : Nat) (a : Nat) (hc : Canonical s) : Canonical ((State.fetchPair s sid a)).1 := by
  unfold State.fetchPair
  repeat' (first
    | with_reducible assumption
    | (with_reducible apply State.translate_canon_fwd2; with_reducible assumption)
    | (extract_lets +onlyGivenNames x; clear_value x)
    | split)

theorem State.fetchPair_canon_fwd2 {s : State} {sid : Nat} {a : Nat} {w_ : State} {z_ : _} (eq_ : (State.fetchPair s sid a) = (w_, z_)) (hc : Canonical s) : Canonical w_ := by
  have := State.fetchPair_canon s sid a hc; rw [eq_] at this; exact this

theorem State.tlbinvWait_canon (s : State) (sid : Nat) (v : Nat) (page : Option Nat) (drain : Option Nat) (d : GReg) (seq : Nat) (turn : Nat) (hc : Canonical s) : OptOk ((State.tlbinvWait s sid v page drain d seq turn)) := by
  unfold State.tlbinvWait
  repeat' (first
    | with_reducible assumption
    | with_reducible apply State.modStrand_canon
    | with_reducible apply State.shootDown_canon
    | with_reducible apply State.resolve_canon
    | with_reducible apply optok_none
    | with_reducible apply optok_some
    | (extract_lets +onlyGivenNames x; refine cut (P := Canonical x) ?_ (fun _ => ?_); unfold x; try clear x; rotate_left; clear_value x; rotate_right)
    | (extract_lets +onlyGivenNames x; clear_value x)
    | split)

theorem State.waitOver_canon (s : State) (sid : Nat) (w : Wait) (hc : Canonical s) : OptOk ((State.waitOver s sid w)) := by
  unfold State.waitOver
  repeat' (first
    | with_reducible assumption
    | with_reducible apply State.modStrand_canon
    | with_reducible apply State.fenceEnd_canon
    | with_reducible apply State.harpWait_canon
    | with_reducible apply State.resolve_canon
    | with_reducible apply State.tlbinvWait_canon
    | with_reducible apply optok_none
    | with_reducible apply optok_some
    | with_reducible apply_assumption -exfalso -symm
    | intro _
    | (extract_lets +onlyGivenNames x; refine cut (P := Canonical x) ?_ (fun _ => ?_); unfold x; try clear x; rotate_left; clear_value x; rotate_right)
    | (extract_lets +onlyGivenNames x; refine cut (P := ∀ t, Canonical t → OptOk (x t)) ?_ (fun _ => ?_); unfold x; try clear x; rotate_left; clear_value x; rotate_right)
    | (extract_lets +onlyGivenNames x; clear_value x)
    | split)

theorem State.waitOver_canon_fwd {s : State} {sid : Nat} {w : Wait} {w_ : State} (eq_ : (State.waitOver s sid w) = some w_) (hc : Canonical s) : Canonical w_ := by
  have := State.waitOver_canon s sid w hc; rw [eq_] at this; exact this

theorem State.takeInbox_canon (s : State) (hc : Canonical s) : OptSnd ((State.takeInbox s)) := by
  unfold State.takeInbox
  repeat' (first
    | with_reducible assumption
    | with_reducible apply optsnd_none
    | with_reducible apply optsnd_some
    | with_reducible apply Canonical.wmem
    | with_reducible apply Canonical.wspad
    | split
    | ((fail_if_success (fail_if_success (simp -zeta only [canonical_mk]))); with_reducible refine canon_keep rfl rfl rfl rfl rfl rfl rfl rfl rfl rfl rfl rfl ?_ ?_ ?_))

theorem State.takeDue_canon (s : State) (hc : Canonical s) : OptSnd ((State.takeDue s)) := by
  unfold State.takeDue
  repeat' (first
    | with_reducible assumption
    | with_reducible apply optsnd_none
    | with_reducible apply optsnd_some
    | with_reducible apply Canonical.wmem
    | with_reducible apply Canonical.wspad
    | split
    | ((fail_if_success (fail_if_success (simp -zeta only [canonical_mk]))); with_reducible refine canon_keep rfl rfl rfl rfl rfl rfl rfl rfl rfl rfl rfl rfl ?_ ?_ ?_))

theorem State.position_canon (s : State) (second : Bool) (raw : Nat) (hc : Canonical s) : Canonical ((State.position s second raw)) := by
  unfold State.position
  repeat' (first
    | with_reducible assumption
    | with_reducible apply Canonical.wmem
    | with_reducible apply Canonical.wspad
    | (extract_lets +onlyGivenNames x; clear_value x)
    | ((fail_if_success (fail_if_success (simp -zeta only [canonical_mk]))); with_reducible refine canon_keep rfl rfl rfl rfl rfl rfl rfl rfl rfl rfl rfl rfl ?_ ?_ ?_))

theorem State.keepEmpty_canon (s : State) (hc : Canonical s) : Canonical ((State.keepEmpty s)) := by
  unfold State.keepEmpty
  repeat' (first
    | with_reducible assumption
    | with_reducible apply Canonical.wmem
    | with_reducible apply Canonical.wspad
    | ((fail_if_success (fail_if_success (simp -zeta only [canonical_mk]))); with_reducible refine canon_keep rfl rfl rfl rfl rfl rfl rfl rfl rfl rfl rfl rfl ?_ ?_ ?_))

theorem State.chargePair_canon (s : State) (t : TrapInfo) (hc : Canonical s) : Canonical ((State.chargePair s t)) := by
  unfold State.chargePair
  repeat' (first
    | with_reducible assumption
    | with_reducible apply State.takeTrap_canon
    | with_reducible apply Canonical.wmem
    | with_reducible apply Canonical.wspad
    | (extract_lets +onlyGivenNames x; refine cut (P := Canonical x) ?_ (fun _ => ?_); unfold x; try clear x; rotate_left; clear_value x; rotate_right)
    | ((fail_if_success (fail_if_success (simp -zeta only [canonical_mk]))); with_reducible refine canon_keep rfl rfl rfl rfl rfl rfl rfl rfl rfl rfl rfl rfl ?_ ?_ ?_))

theorem State.issued_canon (s : State) (c : Cursor) (hc : Canonical s) : Canonical ((State.issued s c)) := by
  unfold State.issued
  repeat' (first
    | with_reducible assumption
    | with_reducible apply State.modStrand_canon
    | with_reducible apply Canonical.wmem
    | with_reducible apply Canonical.wspad
    | ((fail_if_success (fail_if_success (simp -zeta only [canonical_mk]))); with_reducible refine canon_keep rfl rfl rfl rfl rfl rfl rfl rfl rfl rfl rfl rfl ?_ ?_ ?_))

theorem State.behind_canon (s : State) (hc : Canonical s) : Canonical ((State.behind s)) := by
  unfold State.behind
  repeat' (first
    | with_reducible assumption
    | with_reducible apply State.modMe_canon)

theorem settle_canon (o : Host.Outcome State Fault Refusal) (before : State) (hc : Canonical before) (ho_ : OutOk o) : OutOk ((settle o before)) := by
  unfold settle
  repeat' (first
    | with_reducible assumption
    | with_reducible apply State.perf_canon
    | with_reducible apply State.modStrand_canon
    | with_reducible apply outok_next
    | (with_reducible apply outok_inv; with_reducible assumption)
    | (extract_lets +onlyGivenNames x; clear_value x)
    | split)

theorem State.toFetch_canon (s : State) (sid : Nat) (hc : Canonical s) : ExcBoth ((State.toFetch s sid)) := by
  unfold State.toFetch
  repeat' (first
    | with_reducible assumption
    | with_reducible apply State.perf_canon
    | with_reducible apply State.setLaunch_canon
    | (with_reducible apply State.waitOver_canon_fwd; with_reducible assumption)
    | with_reducible apply excboth_ok
    | with_reducible apply excboth_error
    | (extract_lets +onlyGivenNames x; refine cut (P := Canonical x) ?_ (fun _ => ?_); unfold x; try clear x; rotate_left; clear_value x; rotate_right)
    | (extract_lets +onlyGivenNames x; clear_value x)
    | split)

theorem State.fetchDecode_canon (s : State) (sid : Nat) (hc : Canonical s) : FetOk ((State.fetchDecode s sid)) := by
  unfold State.fetchDecode
  repeat' (first
    | with_reducible assumption
    | with_reducible apply State.modStrand_canon
    | with_reducible apply State.issued_canon
    | with_reducible apply State.behind_canon
    | (with_reducible apply State.fetchPair_canon_fwd2; with_reducible assumption)
    | with_reducible apply fetok_one
    | with_reducible apply fetok_two
    | with_reducible apply fetok_error
    | (extract_lets +onlyGivenNames x; refine cut (P := Canonical x) ?_ (fun _ => ?_); unfold x; try clear x; rotate_left; clear_value x; rotate_right)
    | (extract_lets +onlyGivenNames x; clear_value x)
    | split)

theorem State.periodic_canon (s : State) (hc : Canonical s) : Canonical ((State.periodic s)) := by
  unfold State.periodic
  repeat' (first
    | with_reducible assumption
    | with_reducible apply State.now_canon
    | with_reducible apply foldl_canonical
    | with_reducible apply Canonical.wmem
    | with_reducible apply Canonical.wspad
    | intro _
    | (extract_lets +onlyGivenNames x; refine cut (P := Canonical x) ?_ (fun _ => ?_); unfold x; try clear x; rotate_left; clear_value x; rotate_right)
    | (extract_lets +onlyGivenNames x; clear_value x)
    | split
    | ((fail_if_success (fail_if_success (simp -zeta only [canonical_mk]))); with_reducible refine canon_keep rfl rfl rfl rfl rfl rfl rfl rfl rfl rfl rfl rfl ?_ ?_ ?_))

theorem State.countCycles_canon (s : State) (hc : Canonical s) : Canonical ((State.countCycles s)) := by
  unfold State.countCycles
  repeat' (first
    | with_reducible assumption
    | with_reducible apply Canonical.wmem
    | with_reducible apply Canonical.wspad
    | with_reducible apply Canonical.rstrands
    | with_reducible apply Canonical.rcores
    | with_reducible apply Canonical.rharps
    | with_reducible apply Canonical.rlaunches
    | with_reducible apply Canonical.rvds
    | with_reducible apply Canonical.rparts
    | with_reducible apply Canonical.rkeys
    | with_reducible apply Canonical.rframes
    | with_reducible apply Canonical.rmig
    | with_reducible apply Canonical.rports
    | with_reducible apply Canonical.rdrays
    | with_reducible apply Canonical.rqps
    | (with_reducible refine rising_map ?_ ?_; rotate_left; (intro _; first | rfl | (split <;> rfl)))
    | split
    | (simp -zeta only [canonical_mk]; refine ⟨?_,?_,?_,?_,?_,?_,?_,?_,?_,?_,?_,?_,?_,?_⟩))

theorem State.tick_canon (s : State) (hc : Canonical s) : Canonical ((State.tick s)) := by
  unfold State.tick
  repeat' (first
    | with_reducible assumption
    | with_reducible apply State.countCycles_canon
    | with_reducible apply State.modPkg_canon
    | with_reducible apply State.watchPower_canon
    | with_reducible apply State.periodic_canon
    | with_reducible apply Canonical.wmem
    | with_reducible apply Canonical.wspad
    | with_reducible apply Canonical.rstrands
    | with_reducible apply Canonical.rcores
    | with_reducible apply Canonical.rharps
    | with_reducible apply Canonical.rlaunches
    | with_reducible apply Canonical.rvds
    | with_reducible apply Canonical.rparts
    | with_reducible apply Canonical.rkeys
    | with_reducible apply Canonical.rframes
    | with_reducible apply Canonical.rmig
    | with_reducible apply Canonical.rports
    | with_reducible apply Canonical.rdrays
    | with_reducible apply Canonical.rqps
    | (with_reducible refine rising_map ?_ ?_; rotate_left; (intro _; first | rfl | (split <;> rfl)))
    | (extract_lets +onlyGivenNames x; refine cut (P := Canonical x) ?_ (fun _ => ?_); unfold x; try clear x; rotate_left; clear_value x; rotate_right)
    | ((fail_if_success (fail_if_success (simp -zeta only [canonical_mk]))); with_reducible refine canon_keep rfl rfl rfl rfl rfl rfl rfl rfl rfl rfl rfl rfl ?_ ?_ ?_)
    | (simp -zeta only [canonical_mk]; refine ⟨?_,?_,?_,?_,?_,?_,?_,?_,?_,?_,?_,?_,?_,?_⟩))

end Sys2Proof.Machine
end

