-- ==== Sys2Proof/Laws/PerInstr.lean ====
section
/-! SUPPORT. What is said of every instruction as syntax, one lemma per constructor: decoding the word that an instruction
encodes to gives the instruction back. -/
namespace Sys2Proof.Laws

theorem reg_eq {k : Nat} [NeZero k] {x lo : Nat} {d : Fin k} (h : x / 2 ^ lo % k = d.val) : reg k x lo = d := Fin.ext h
theorem guard_ofBits {gd : Guard} (h : gd.ok = true) : Guard.ofBits gd.pr.val gd.pn.toNat = some gd := by
  obtain ⟨pr, pn⟩ := gd
  cases pn <;> simp_all [Guard.ofBits, Guard.ok]
theorem bool_ofNat (b : Bool) : (b.toNat == 1) = b := by cases b <;> rfl
theorem Width_code_lt (e : Width) : e.code < 4 := by cases e <;> decide
theorem Width_ofCode (e : Width) : Width.ofCode e.code = some e := by cases e <;> rfl
theorem EW_code_lt (e : EW) : e.code < 4 := by cases e <;> decide
theorem EW_ofCode (e : EW) : EW.ofCode e.code = some e := by cases e <;> rfl
theorem FEW_code_lt (e : FEW) : e.code < 4 := by cases e <;> decide
theorem FEW_ofCode (e : FEW) : FEW.ofCode e.code = some e := by cases e <;> rfl
theorem Space_code_lt (e : Space) : e.code < 4 := by cases e <;> decide
theorem Space_ofCode (e : Space) : Space.ofCode e.code = some e := by cases e <;> rfl
theorem LdSize_code_lt (e : LdSize) : e.code < 8 := by cases e <;> decide
theorem LdSize_ofCode (e : LdSize) : LdSize.ofCode e.code = some e := by cases e <;> rfl
theorem StSize_code_lt (e : StSize) : e.code < 8 := by cases e <;> decide
theorem StSize_ofCode (e : StSize) : StSize.ofCode e.code = some e := by cases e <;> rfl
theorem AmoSize_code_lt (e : AmoSize) : e.code < 8 := by cases e <;> decide
theorem AmoSize_ofCode (e : AmoSize) : AmoSize.ofCode e.code = some e := by cases e <;> rfl
theorem Scope_code_lt (e : Scope) : e.code < 8 := by cases e <;> decide
theorem Scope_ofCode (e : Scope) : Scope.ofCode e.code = some e := by cases e <;> rfl
theorem Rnd_code_lt (e : Rnd) : e.code < 8 := by cases e <;> decide
theorem Rnd_ofCode (e : Rnd) : Rnd.ofCode e.code = some e := by cases e <;> rfl
theorem Grp_code_lt (e : Grp) : e.code < 8 := by cases e <;> decide
theorem Grp_ofCode (e : Grp) : Grp.ofCode e.code = some e := by cases e <;> rfl
theorem ScanOp_code_lt (e : ScanOp) : e.code < 4 := by cases e <;> decide
theorem ScanOp_ofCode (e : ScanOp) : ScanOp.ofCode e.code = some e := by cases e <;> rfl
theorem RedT_kindCode_lt (e : RedT) : e.kindCode < 4 := by rcases e with e | e | e <;> cases e <;> decide
theorem RedT_ewCode_lt (e : RedT) : e.ewCode < 4 := by rcases e with e | e | e <;> cases e <;> decide
theorem RedT_ofBits (e : RedT) : RedT.ofBits e.kindCode e.ewCode = some e := by rcases e with e | e | e <;> cases e <;> rfl

/-! Each major selects its family (R49). -/

theorem major_decSys {x : Nat} (h : fld x 25 6 = 0) : decodeWord x = decSys x := by unfold decodeWord; rw [h]; rfl
theorem major_decBr {x : Nat} (h : fld x 25 6 = 1) : decodeWord x = decBr x := by unfold decodeWord; rw [h]; rfl
theorem major_decJmp {x : Nat} (h : fld x 25 6 = 2) : decodeWord x = decJmp x := by unfold decodeWord; rw [h]; rfl
theorem major_decTime {x : Nat} (h : fld x 25 6 = 3) : decodeWord x = decTime x := by unfold decodeWord; rw [h]; rfl
theorem major_decLd {x : Nat} (h : fld x 25 6 = 4) : decodeWord x = decLd x := by unfold decodeWord; rw [h]; rfl
theorem major_decSt {x : Nat} (h : fld x 25 6 = 5) : decodeWord x = decSt x := by unfold decodeWord; rw [h]; rfl
theorem major_decAmo {x : Nat} (h : fld x 25 6 = 6) : decodeWord x = decAmo x := by unfold decodeWord; rw [h]; rfl
theorem major_decFence {x : Nat} (h : fld x 25 6 = 7) : decodeWord x = decFence x := by unfold decodeWord; rw [h]; rfl
theorem major_decVmem {x : Nat} (h : fld x 25 6 = 8) : decodeWord x = decVmem x := by unfold decodeWord; rw [h]; rfl
theorem major_decStream {x : Nat} (h : fld x 25 6 = 9) : decodeWord x = decStream x := by unfold decodeWord; rw [h]; rfl
theorem major_decVamo {x : Nat} (h : fld x 25 6 = 10) : decodeWord x = decVamo x := by unfold decodeWord; rw [h]; rfl
theorem major_decVctl {x : Nat} (h : fld x 25 6 = 11) : decodeWord x = decVctl x := by unfold decodeWord; rw [h]; rfl
theorem major_decHarpc {x : Nat} (h : fld x 25 6 = 12) : decodeWord x = decHarpc x := by unfold decodeWord; rw [h]; rfl
theorem major_decHmma {x : Nat} (h : fld x 25 6 = 13) : decodeWord x = decHmma x := by unfold decodeWord; rw [h]; rfl
theorem major_decHmms {x : Nat} (h : fld x 25 6 = 14) : decodeWord x = decHmms x := by unfold decodeWord; rw [h]; rfl
theorem major_decSend {x : Nat} (h : fld x 25 6 = 15) : decodeWord x = decSend x := by unfold decodeWord; rw [h]; rfl
theorem major_decRemote {x : Nat} (h : fld x 25 6 = 16) : decodeWord x = decRemote x := by unfold decodeWord; rw [h]; rfl
theorem major_decTicket {x : Nat} (h : fld x 25 6 = 17) : decodeWord x = decTicket x := by unfold decodeWord; rw [h]; rfl
theorem major_decDray {x : Nat} (h : fld x 25 6 = 18) : decodeWord x = decDray x := by unfold decodeWord; rw [h]; rfl
theorem major_decDrayq {x : Nat} (h : fld x 25 6 = 19) : decodeWord x = decDrayq x := by unfold decodeWord; rw [h]; rfl
theorem major_decNet {x : Nat} (h : fld x 25 6 = 20) : decodeWord x = decNet x := by unfold decodeWord; rw [h]; rfl
theorem major_decCount {x : Nat} (h : fld x 25 6 = 21) : decodeWord x = decCount x := by unfold decodeWord; rw [h]; rfl
theorem major_decPriv {x : Nat} (h : fld x 25 6 = 22) : decodeWord x = decPriv x := by unfold decodeWord; rw [h]; rfl
theorem major_decAlu {x : Nat} (h : fld x 25 6 = 32) : decodeWord x = decAlu x := by unfold decodeWord; rw [h]; rfl
theorem major_decAlui {x : Nat} (h : fld x 25 6 = 33) : decodeWord x = decAlui x := by unfold decodeWord; rw [h]; rfl
theorem major_decLi {x : Nat} (h : fld x 25 6 = 34) : decodeWord x = decLi x := by unfold decodeWord; rw [h]; rfl
theorem major_decLih {x : Nat} (h : fld x 25 6 = 35) : decodeWord x = decLih x := by unfold decodeWord; rw [h]; rfl
theorem major_decMul {x : Nat} (h : fld x 25 6 = 36) : decodeWord x = decMul x := by unfold decodeWord; rw [h]; rfl
theorem major_decCmp {x : Nat} (h : fld x 25 6 = 37) : decodeWord x = decCmp x := by unfold decodeWord; rw [h]; rfl
theorem major_decPlog {x : Nat} (h : fld x 25 6 = 38) : decodeWord x = decPlog x := by unfold decodeWord; rw [h]; rfl
theorem major_decBit {x : Nat} (h : fld x 25 6 = 39) : decodeWord x = decBit x := by unfold decodeWord; rw [h]; rfl
theorem major_decValu {x : Nat} (h : fld x 25 6 = 40) : decodeWord x = decValu x := by unfold decodeWord; rw [h]; rfl
theorem major_decVfp {x : Nat} (h : fld x 25 6 = 41) : decodeWord x = decVfp x := by unfold decodeWord; rw [h]; rfl
theorem major_decVcmp {x : Nat} (h : fld x 25 6 = 42) : decodeWord x = decVcmp x := by unfold decodeWord; rw [h]; rfl
theorem major_decVcvt {x : Nat} (h : fld x 25 6 = 43) : decodeWord x = decVcvt x := by unfold decodeWord; rw [h]; rfl
theorem major_decVspec {x : Nat} (h : fld x 25 6 = 44) : decodeWord x = decVspec x := by unfold decodeWord; rw [h]; rfl
theorem major_decVred {x : Nat} (h : fld x 25 6 = 45) : decodeWord x = decVred x := by unfold decodeWord; rw [h]; rfl
theorem major_decVperm {x : Nat} (h : fld x 25 6 = 46) : decodeWord x = decVperm x := by unfold decodeWord; rw [h]; rfl
theorem major_decVmask {x : Nat} (h : fld x 25 6 = 47) : decodeWord x = decVmask x := by unfold decodeWord; rw [h]; rfl
theorem major_decVrng {x : Nat} (h : fld x 25 6 = 48) : decodeWord x = decVrng x := by unfold decodeWord; rw [h]; rfl

end Sys2Proof.Laws

namespace Sys2Proof.Laws.RoundTrip

/-- A well-formed instruction that has a word is what its word decodes to. -/
def Statement (i : Instr) : Prop := i.wellFormed = true → ∀ w, encode i = some w → decodeWord w = .ok i

theorem of_none {i : Instr} (h : encode i = none) : Statement i := by
  intro _ w e
  rw [h] at e
  cases e

/-! The fields of a word, by the form of its encoding. -/

theorem fields_nop {x c k0 k1 : Nat} (c0 : k0 < 64) (c1 : k1 < 64) (hx : c = x) (hc : c = k0 * 33554432 + k1) :
    fld x 25 6 = k0 ∧ fld x 0 6 = k1 ∧ fld x 6 19 = 0 := by
  subst hc hx
  unfold fld
  refine ⟨?_, ?_, ?_⟩ <;> omega

theorem fields_trap {x c v0 k0 k1 : Nat} (h0 : v0 < 512) (c0 : k0 < 64) (c1 : k1 < 64) (hx : c + v0 * 64 = x) (hc : c = k0 * 33554432 + k1) :
    fld x 25 6 = k0 ∧ fld x 0 6 = k1 ∧ fld x 15 10 = 0 ∧ x / 2 ^ 6 % 512 = v0 := by
  subst hc hx
  unfold fld
  refine ⟨?_, ?_, ?_, ?_⟩ <;> omega

theorem fields_csrr {x c v0 v1 k0 k1 : Nat} (h0 : v0 < 32) (h1 : v1 < 512) (c0 : k0 < 64) (c1 : k1 < 64) (hx : c + v0 * 1048576 + v1 * 64 = x) (hc : c = k0 * 33554432 + k1) :
    fld x 25 6 = k0 ∧ fld x 0 6 = k1 ∧ fld x 15 5 = 0 ∧ x / 2 ^ 20 % 32 = v0 ∧ x / 2 ^ 6 % 512 = v1 := by
  subst hc hx
  unfold fld
  refine ⟨?_, ?_, ?_, ?_, ?_⟩ <;> omega

theorem fields_csrw {x c v0 v1 k0 k1 : Nat} (h0 : v0 < 512) (h1 : v1 < 32) (c0 : k0 < 64) (c1 : k1 < 64) (hx : c + v0 * 64 + v1 * 32768 = x) (hc : c = k0 * 33554432 + k1) :
    fld x 25 6 = k0 ∧ fld x 0 6 = k1 ∧ fld x 20 5 = 0 ∧ x / 2 ^ 6 % 512 = v0 ∧ x / 2 ^ 15 % 32 = v1 := by
  subst hc hx
  unfold fld
  refine ⟨?_, ?_, ?_, ?_, ?_⟩ <;> omega

theorem fields_csrx {x c v0 v1 v2 k0 k1 : Nat} (h0 : v0 < 32) (h1 : v1 < 512) (h2 : v2 < 32) (c0 : k0 < 64) (c1 : k1 < 64) (hx : c + v0 * 1048576 + v1 * 64 + v2 * 32768 = x) (hc : c = k0 * 33554432 + k1) :
    fld x 25 6 = k0 ∧ fld x 0 6 = k1 ∧ x / 2 ^ 20 % 32 = v0 ∧ x / 2 ^ 6 % 512 = v1 ∧ x / 2 ^ 15 % 32 = v2 := by
  subst hc hx
  unfold fld
  refine ⟨?_, ?_, ?_, ?_, ?_⟩ <;> omega

theorem fields_ctxsave {x c v0 v1 k0 k1 : Nat} (h0 : v0 < 32) (h1 : v1 < 32) (c0 : k0 < 64) (c1 : k1 < 64) (hx : c + v0 * 1048576 + v1 * 32768 = x) (hc : c = k0 * 33554432 + k1) :
    fld x 25 6 = k0 ∧ fld x 0 6 = k1 ∧ fld x 6 9 = 0 ∧ x / 2 ^ 20 % 32 = v0 ∧ x / 2 ^ 15 % 32 = v1 := by
  subst hc hx
  unfold fld
  refine ⟨?_, ?_, ?_, ?_, ?_⟩ <;> omega

theorem fields_br {x c v0 v1 v2 k0 : Nat} (h0 : v0 < 8) (h1 : v1 < 2) (h2 : v2 < 2097152) (c0 : k0 < 64) (hx : c + v0 * 4194304 + v1 * 2097152 + v2 = x) (hc : c = k0 * 33554432) :
    fld x 25 6 = k0 ∧ fld x 22 3 = v0 ∧ fld x 21 1 = v1 ∧ x / 2 ^ 0 % 2097152 = v2 := by
  subst hc hx
  unfold fld
  refine ⟨?_, ?_, ?_, ?_⟩ <;> omega

theorem fields_jmp {x c v0 k0 k1 : Nat} (h0 : v0 < 1048576) (c0 : k0 < 64) (c1 : k1 < 32) (hx : c + v0 = x) (hc : c = k0 * 33554432 + k1 * 1048576) :
    fld x 25 6 = k0 ∧ fld x 20 5 = k1 ∧ x / 2 ^ 0 % 1048576 = v0 := by
  subst hc hx
  unfold fld
  refine ⟨?_, ?_, ?_⟩ <;> omega

theorem fields_ret {x c v0 k0 k1 : Nat} (h0 : v0 < 32) (c0 : k0 < 64) (c1 : k1 < 32) (hx : c + v0 * 32768 = x) (hc : c = k0 * 33554432 + k1 * 1048576) :
    fld x 25 6 = k0 ∧ fld x 20 5 = k1 ∧ fld x 0 15 = 0 ∧ x / 2 ^ 15 % 32 = v0 := by
  subst hc hx
  unfold fld
  refine ⟨?_, ?_, ?_, ?_⟩ <;> omega

theorem fields_atLcy {x c v0 v1 k0 k1 : Nat} (h0 : v0 < 32) (h1 : v1 < 4096) (c0 : k0 < 64) (c1 : k1 < 8) (hx : c + v0 * 32768 + v1 = x) (hc : c = k0 * 33554432 + k1 * 4096) :
    fld x 25 6 = k0 ∧ fld x 12 3 = k1 ∧ fld x 20 5 = 0 ∧ x / 2 ^ 15 % 32 = v0 ∧ x / 2 ^ 0 % 4096 = v1 := by
  subst hc hx
  unfold fld
  refine ⟨?_, ?_, ?_, ?_, ?_⟩ <;> omega

theorem fields_cue {x c v0 k0 k1 : Nat} (h0 : v0 < 4096) (c0 : k0 < 64) (c1 : k1 < 8) (hx : c + v0 = x) (hc : c = k0 * 33554432 + k1 * 4096) :
    fld x 25 6 = k0 ∧ fld x 12 3 = k1 ∧ fld x 15 10 = 0 ∧ x / 2 ^ 0 % 4096 = v0 := by
  subst hc hx
  unfold fld
  refine ⟨?_, ?_, ?_, ?_⟩ <;> omega

theorem fields_tune {x c v0 k0 k1 : Nat} (h0 : v0 < 32) (c0 : k0 < 64) (c1 : k1 < 8) (hx : c + v0 * 32768 = x) (hc : c = k0 * 33554432 + k1 * 4096) :
    fld x 25 6 = k0 ∧ fld x 12 3 = k1 ∧ fld x 0 12 = 0 ∧ fld x 20 5 = 0 ∧ x / 2 ^ 15 % 32 = v0 := by
  subst hc hx
  unfold fld
  refine ⟨?_, ?_, ?_, ?_, ?_⟩ <;> omega

theorem fields_ld {x c v0 v1 v2 v3 v4 k0 : Nat} (h0 : v0 < 32) (h1 : v1 < 32) (h2 : v2 < 4) (h3 : v3 < 8) (h4 : v4 < 1024) (c0 : k0 < 64) (hx : c + v0 * 1048576 + v1 * 32768 + v2 * 8192 + v3 * 1024 + v4 = x) (hc : c = k0 * 33554432) :
    fld x 25 6 = k0 ∧ fld x 13 2 = v2 ∧ fld x 10 3 = v3 ∧ x / 2 ^ 20 % 32 = v0 ∧ x / 2 ^ 15 % 32 = v1 ∧ x / 2 ^ 0 % 1024 = v4 := by
  subst hc hx
  unfold fld
  refine ⟨?_, ?_, ?_, ?_, ?_, ?_⟩ <;> omega

theorem fields_amoAdd {x c v0 v1 v2 v3 v4 k0 k1 : Nat} (h0 : v0 < 32) (h1 : v1 < 32) (h2 : v2 < 32) (h3 : v3 < 8) (h4 : v4 < 4) (c0 : k0 < 64) (c1 : k1 < 16) (hx : c + v0 * 1048576 + v1 * 32768 + v2 * 1024 + v3 * 128 + v4 * 16 = x) (hc : c = k0 * 33554432 + k1) :
    fld x 25 6 = k0 ∧ fld x 0 4 = k1 ∧ fld x 7 3 = v3 ∧ fld x 4 2 = v4 ∧ fld x 6 1 = 0 ∧ x / 2 ^ 20 % 32 = v0 ∧ x / 2 ^ 15 % 32 = v1 ∧ x / 2 ^ 10 % 32 = v2 := by
  subst hc hx
  unfold fld
  refine ⟨?_, ?_, ?_, ?_, ?_, ?_, ?_, ?_⟩ <;> omega

theorem fields_fence {x c v0 v1 v2 k0 k1 : Nat} (h0 : v0 < 32) (h1 : v1 < 8) (h2 : v2 < 64) (c0 : k0 < 64) (c1 : k1 < 8) (hx : c + v0 * 1048576 + v1 * 512 + v2 = x) (hc : c = k0 * 33554432 + k1 * 4096) :
    fld x 25 6 = k0 ∧ fld x 12 3 = k1 ∧ fld x 9 3 = v1 ∧ fld x 6 3 = 0 ∧ fld x 15 5 = 0 ∧ x / 2 ^ 20 % 32 = v0 ∧ x / 2 ^ 0 % 64 = v2 := by
  subst hc hx
  unfold fld
  refine ⟨?_, ?_, ?_, ?_, ?_, ?_, ?_⟩ <;> omega

theorem fields_vld {x c v0 v1 v2 v3 v4 k0 k1 : Nat} (h0 : v0 < 32) (h1 : v1 < 32) (h2 : v2 < 8) (h3 : v3 < 4) (h4 : v4 < 2) (c0 : k0 < 64) (c1 : k1 < 16) (hx : c + v0 * 1048576 + v1 * 32768 + v2 * 128 + v3 * 32 + v4 * 16 = x) (hc : c = k0 * 33554432 + k1) :
    fld x 25 6 = k0 ∧ fld x 0 4 = k1 ∧ fld x 5 2 = v3 ∧ fld x 4 1 = v4 ∧ fld x 10 5 = 0 ∧ x / 2 ^ 20 % 32 = v0 ∧ x / 2 ^ 15 % 32 = v1 ∧ x / 2 ^ 7 % 8 = v2 := by
  subst hc hx
  unfold fld
  refine ⟨?_, ?_, ?_, ?_, ?_, ?_, ?_, ?_⟩ <;> omega

theorem fields_vlds {x c v0 v1 v2 v3 v4 v5 k0 k1 : Nat} (h0 : v0 < 32) (h1 : v1 < 32) (h2 : v2 < 32) (h3 : v3 < 8) (h4 : v4 < 4) (h5 : v5 < 2) (c0 : k0 < 64) (c1 : k1 < 16) (hx : c + v0 * 1048576 + v1 * 32768 + v2 * 1024 + v3 * 128 + v4 * 32 + v5 * 16 = x) (hc : c = k0 * 33554432 + k1) :
    fld x 25 6 = k0 ∧ fld x 0 4 = k1 ∧ fld x 5 2 = v4 ∧ fld x 4 1 = v5 ∧ x / 2 ^ 20 % 32 = v0 ∧ x / 2 ^ 15 % 32 = v1 ∧ x / 2 ^ 10 % 32 = v2 ∧ x / 2 ^ 7 % 8 = v3 := by
  subst hc hx
  unfold fld
  refine ⟨?_, ?_, ?_, ?_, ?_, ?_, ?_, ?_⟩ <;> omega

theorem fields_vseg {x c v0 v1 v2 v3 k0 k1 : Nat} (h0 : v0 < 32) (h1 : v1 < 32) (h2 : v2 < 32) (h3 : v3 < 2) (c0 : k0 < 64) (c1 : k1 < 16) (hx : c + v0 * 1048576 + v1 * 32768 + v2 * 1024 + v3 * 16 = x) (hc : c = k0 * 33554432 + k1) :
    fld x 25 6 = k0 ∧ fld x 0 4 = k1 ∧ fld x 4 1 = v3 ∧ fld x 5 5 = 0 ∧ x / 2 ^ 20 % 32 = v0 ∧ x / 2 ^ 15 % 32 = v1 ∧ x / 2 ^ 10 % 32 = v2 := by
  subst hc hx
  unfold fld
  refine ⟨?_, ?_, ?_, ?_, ?_, ?_, ?_⟩ <;> omega

theorem fields_sset {x c v0 v1 v2 k0 k1 : Nat} (h0 : v0 < 8) (h1 : v1 < 32) (h2 : v2 < 32) (c0 : k0 < 64) (c1 : k1 < 16) (hx : c + v0 * 1048576 + v1 * 32768 + v2 * 1024 = x) (hc : c = k0 * 33554432 + k1) :
    fld x 25 6 = k0 ∧ fld x 0 4 = k1 ∧ fld x 4 6 = 0 ∧ fld x 23 2 = 0 ∧ x / 2 ^ 20 % 8 = v0 ∧ x / 2 ^ 15 % 32 = v1 ∧ x / 2 ^ 10 % 32 = v2 := by
  subst hc hx
  unfold fld
  refine ⟨?_, ?_, ?_, ?_, ?_, ?_, ?_⟩ <;> omega

theorem fields_sld {x c v0 v1 v2 v3 k0 k1 : Nat} (h0 : v0 < 32) (h1 : v1 < 8) (h2 : v2 < 8) (h3 : v3 < 4) (c0 : k0 < 64) (c1 : k1 < 16) (hx : c + v0 * 1048576 + v1 * 32768 + v2 * 128 + v3 * 32 = x) (hc : c = k0 * 33554432 + k1) :
    fld x 25 6 = k0 ∧ fld x 0 4 = k1 ∧ fld x 5 2 = v3 ∧ fld x 4 1 = 0 ∧ fld x 10 5 = 0 ∧ fld x 18 2 = 0 ∧ x / 2 ^ 20 % 32 = v0 ∧ x / 2 ^ 15 % 8 = v1 ∧ x / 2 ^ 7 % 8 = v2 := by
  subst hc hx
  unfold fld
  refine ⟨?_, ?_, ?_, ?_, ?_, ?_, ?_, ?_, ?_⟩ <;> omega

theorem fields_setvl {x c v0 v1 v2 k0 k1 : Nat} (h0 : v0 < 32) (h1 : v1 < 32) (h2 : v2 < 4) (c0 : k0 < 64) (c1 : k1 < 8) (hx : c + v0 * 1048576 + v1 * 32768 + v2 = x) (hc : c = k0 * 33554432 + k1 * 4096) :
    fld x 25 6 = k0 ∧ fld x 12 3 = k1 ∧ fld x 0 2 = v2 ∧ fld x 2 10 = 0 ∧ x / 2 ^ 20 % 32 = v0 ∧ x / 2 ^ 15 % 32 = v1 := by
  subst hc hx
  unfold fld
  refine ⟨?_, ?_, ?_, ?_, ?_, ?_⟩ <;> omega

theorem fields_vloop {x c v0 v1 v2 k0 k1 : Nat} (h0 : v0 < 32) (h1 : v1 < 32) (h2 : v2 < 16) (c0 : k0 < 64) (c1 : k1 < 8) (hx : c + v0 * 1048576 + v1 * 32768 + v2 = x) (hc : c = k0 * 33554432 + k1 * 4096) :
    fld x 25 6 = k0 ∧ fld x 12 3 = k1 ∧ fld x 4 8 = 0 ∧ x / 2 ^ 20 % 32 = v0 ∧ x / 2 ^ 15 % 32 = v1 ∧ x / 2 ^ 0 % 16 = v2 := by
  subst hc hx
  unfold fld
  refine ⟨?_, ?_, ?_, ?_, ?_, ?_⟩ <;> omega

theorem fields_vsync {x c k0 k1 : Nat} (c0 : k0 < 64) (c1 : k1 < 8) (hx : c = x) (hc : c = k0 * 33554432 + k1 * 4096) :
    fld x 25 6 = k0 ∧ fld x 12 3 = k1 ∧ fld x 0 12 = 0 ∧ fld x 15 10 = 0 := by
  subst hc hx
  unfold fld
  refine ⟨?_, ?_, ?_, ?_⟩ <;> omega

theorem fields_hplane {x c v0 v1 v2 v3 k0 k1 : Nat} (h0 : v0 < 32) (h1 : v1 < 32) (h2 : v2 < 32) (h3 : v3 < 8) (c0 : k0 < 64) (c1 : k1 < 8) (hx : c + v0 * 65536 + v1 * 2048 + v2 * 64 + v3 * 8 = x) (hc : c = k0 * 33554432 + k1) :
    fld x 25 6 = k0 ∧ fld x 0 3 = k1 ∧ fld x 3 3 = v3 ∧ fld x 11 1 = v1 % 2 ∧ fld x 16 5 = v0 ∧ fld x 21 4 = 0 ∧ fld x 6 5 = v2 ∧ x / 2 ^ 16 % 32 = v0 ∧ x / 2 ^ 11 % 32 = v1 ∧ x / 2 ^ 6 % 32 = v2 := by
  subst hc hx
  unfold fld
  refine ⟨?_, ?_, ?_, ?_, ?_, ?_, ?_, ?_, ?_, ?_⟩ <;> omega

theorem fields_hzero {x c v0 v1 k0 k1 : Nat} (h0 : v0 < 16) (h1 : v1 < 32) (c0 : k0 < 64) (c1 : k1 < 8) (hx : c + v0 * 2097152 + v1 * 2048 = x) (hc : c = k0 * 33554432 + k1) :
    fld x 25 6 = k0 ∧ fld x 0 3 = k1 ∧ fld x 11 1 = v1 % 2 ∧ fld x 3 8 = 0 ∧ fld x 16 5 = 0 ∧ x / 2 ^ 21 % 16 = v0 ∧ x / 2 ^ 11 % 32 = v1 := by
  subst hc hx
  unfold fld
  refine ⟨?_, ?_, ?_, ?_, ?_, ?_, ?_⟩ <;> omega

theorem fields_hread {x c v0 v1 v2 v3 v4 k0 k1 : Nat} (h0 : v0 < 16) (h1 : v1 < 32) (h2 : v2 < 32) (h3 : v3 < 32) (h4 : v4 < 8) (c0 : k0 < 64) (c1 : k1 < 8) (hx : c + v0 * 2097152 + v1 * 65536 + v2 * 2048 + v3 * 64 + v4 * 8 = x) (hc : c = k0 * 33554432 + k1) :
    fld x 25 6 = k0 ∧ fld x 0 3 = k1 ∧ fld x 3 3 = v4 ∧ fld x 11 1 = v2 % 2 ∧ fld x 16 5 = v1 ∧ fld x 6 5 = v3 ∧ x / 2 ^ 21 % 16 = v0 ∧ x / 2 ^ 16 % 32 = v1 ∧ x / 2 ^ 11 % 32 = v2 ∧ x / 2 ^ 6 % 32 = v3 := by
  subst hc hx
  unfold fld
  refine ⟨?_, ?_, ?_, ?_, ?_, ?_, ?_, ?_, ?_, ?_⟩ <;> omega

theorem fields_hwrite {x c v0 v1 v2 v3 k0 k1 : Nat} (h0 : v0 < 16) (h1 : v1 < 32) (h2 : v2 < 32) (h3 : v3 < 8) (c0 : k0 < 64) (c1 : k1 < 8) (hx : c + v0 * 2097152 + v1 * 65536 + v2 * 2048 + v3 * 8 = x) (hc : c = k0 * 33554432 + k1) :
    fld x 25 6 = k0 ∧ fld x 0 3 = k1 ∧ fld x 3 3 = v3 ∧ fld x 11 1 = v2 % 2 ∧ fld x 16 5 = v1 ∧ fld x 6 5 = 0 ∧ x / 2 ^ 21 % 16 = v0 ∧ x / 2 ^ 16 % 32 = v1 ∧ x / 2 ^ 11 % 32 = v2 := by
  subst hc hx
  unfold fld
  refine ⟨?_, ?_, ?_, ?_, ?_, ?_, ?_, ?_, ?_⟩ <;> omega

theorem fields_send {x c v0 v1 v2 k0 k1 : Nat} (h0 : v0 < 16) (h1 : v1 < 32) (h2 : v2 < 32) (c0 : k0 < 64) (c1 : k1 < 8) (hx : c + v0 * 2097152 + v1 * 2048 + v2 * 64 = x) (hc : c = k0 * 33554432 + k1) :
    fld x 25 6 = k0 ∧ fld x 0 3 = k1 ∧ fld x 3 3 = 0 ∧ fld x 16 5 = 0 ∧ x / 2 ^ 21 % 16 = v0 ∧ x / 2 ^ 11 % 32 = v1 ∧ x / 2 ^ 6 % 32 = v2 := by
  subst hc hx
  unfold fld
  refine ⟨?_, ?_, ?_, ?_, ?_, ?_, ?_⟩ <;> omega

theorem fields_recv {x c v0 v1 v2 k0 k1 : Nat} (h0 : v0 < 32) (h1 : v1 < 32) (h2 : v2 < 32) (c0 : k0 < 64) (c1 : k1 < 8) (hx : c + v0 * 65536 + v1 * 2048 + v2 * 64 = x) (hc : c = k0 * 33554432 + k1) :
    fld x 25 6 = k0 ∧ fld x 0 3 = k1 ∧ fld x 3 3 = 0 ∧ fld x 21 4 = 0 ∧ x / 2 ^ 16 % 32 = v0 ∧ x / 2 ^ 11 % 32 = v1 ∧ x / 2 ^ 6 % 32 = v2 := by
  subst hc hx
  unfold fld
  refine ⟨?_, ?_, ?_, ?_, ?_, ?_, ?_⟩ <;> omega

theorem fields_stripe {x c v0 v1 v2 v3 v4 k0 k1 : Nat} (h0 : v0 < 16) (h1 : v1 < 32) (h2 : v2 < 32) (h3 : v3 < 32) (h4 : v4 < 4) (c0 : k0 < 64) (c1 : k1 < 8) (hx : c + v0 * 2097152 + v1 * 65536 + v2 * 2048 + v3 * 64 + v4 * 8 = x) (hc : c = k0 * 33554432 + k1) :
    fld x 25 6 = k0 ∧ fld x 0 3 = k1 ∧ fld x 21 4 = v0 ∧ fld x 3 2 = v4 ∧ fld x 5 1 = 0 ∧ x / 2 ^ 21 % 16 = v0 ∧ x / 2 ^ 16 % 32 = v1 ∧ x / 2 ^ 11 % 32 = v2 ∧ x / 2 ^ 6 % 32 = v3 ∧ x / 2 ^ 3 % 4 = v4 := by
  subst hc hx
  unfold fld
  refine ⟨?_, ?_, ?_, ?_, ?_, ?_, ?_, ?_, ?_, ?_⟩ <;> omega

theorem fields_rld {x c v0 v1 v2 v3 k0 k1 : Nat} (h0 : v0 < 16) (h1 : v1 < 32) (h2 : v2 < 32) (h3 : v3 < 8) (c0 : k0 < 64) (c1 : k1 < 8) (hx : c + v0 * 2097152 + v1 * 65536 + v2 * 2048 + v3 * 8 = x) (hc : c = k0 * 33554432 + k1) :
    fld x 25 6 = k0 ∧ fld x 0 3 = k1 ∧ fld x 3 3 = v3 ∧ fld x 6 5 = 0 ∧ x / 2 ^ 21 % 16 = v0 ∧ x / 2 ^ 16 % 32 = v1 ∧ x / 2 ^ 11 % 32 = v2 := by
  subst hc hx
  unfold fld
  refine ⟨?_, ?_, ?_, ?_, ?_, ?_, ?_⟩ <;> omega

theorem fields_ramoAdd {x c v0 v1 v2 v3 k0 k1 k2 : Nat} (h0 : v0 < 16) (h1 : v1 < 32) (h2 : v2 < 32) (h3 : v3 < 32) (c0 : k0 < 64) (c1 : k1 < 8) (c2 : k2 < 8) (hx : c + v0 * 2097152 + v1 * 65536 + v2 * 2048 + v3 * 64 = x) (hc : c = k0 * 33554432 + k1 + k2 * 8) :
    fld x 25 6 = k0 ∧ fld x 0 3 = k1 ∧ fld x 3 3 = k2 ∧ x / 2 ^ 21 % 16 = v0 ∧ x / 2 ^ 16 % 32 = v1 ∧ x / 2 ^ 11 % 32 = v2 ∧ x / 2 ^ 6 % 32 = v3 := by
  subst hc hx
  unfold fld
  refine ⟨?_, ?_, ?_, ?_, ?_, ?_, ?_⟩ <;> omega

theorem fields_vpush {x c v0 v1 v2 v3 k0 k1 : Nat} (h0 : v0 < 16) (h1 : v1 < 32) (h2 : v2 < 32) (h3 : v3 < 8) (c0 : k0 < 64) (c1 : k1 < 8) (hx : c + v0 * 2097152 + v1 * 2048 + v2 * 64 + v3 * 8 = x) (hc : c = k0 * 33554432 + k1) :
    fld x 25 6 = k0 ∧ fld x 0 3 = k1 ∧ fld x 3 3 = v3 ∧ fld x 6 5 = v2 ∧ fld x 16 5 = 0 ∧ x / 2 ^ 21 % 16 = v0 ∧ x / 2 ^ 11 % 32 = v1 ∧ x / 2 ^ 6 % 32 = v2 := by
  subst hc hx
  unfold fld
  refine ⟨?_, ?_, ?_, ?_, ?_, ?_, ?_, ?_⟩ <;> omega

theorem fields_vpull {x c v0 v1 v2 v3 k0 k1 : Nat} (h0 : v0 < 32) (h1 : v1 < 32) (h2 : v2 < 32) (h3 : v3 < 8) (c0 : k0 < 64) (c1 : k1 < 8) (hx : c + v0 * 65536 + v1 * 2048 + v2 * 64 + v3 * 8 = x) (hc : c = k0 * 33554432 + k1) :
    fld x 25 6 = k0 ∧ fld x 0 3 = k1 ∧ fld x 3 3 = v3 ∧ fld x 6 5 = v2 ∧ fld x 21 4 = 0 ∧ x / 2 ^ 16 % 32 = v0 ∧ x / 2 ^ 11 % 32 = v1 ∧ x / 2 ^ 6 % 32 = v2 := by
  subst hc hx
  unfold fld
  refine ⟨?_, ?_, ?_, ?_, ?_, ?_, ?_, ?_⟩ <;> omega

theorem fields_tknar {x c v0 v1 v2 k0 k1 : Nat} (h0 : v0 < 16) (h1 : v1 < 32) (h2 : v2 < 32) (c0 : k0 < 64) (c1 : k1 < 8) (hx : c + v0 * 2097152 + v1 * 65536 + v2 * 2048 = x) (hc : c = k0 * 33554432 + k1) :
    fld x 25 6 = k0 ∧ fld x 0 3 = k1 ∧ fld x 3 8 = 0 ∧ x / 2 ^ 21 % 16 = v0 ∧ x / 2 ^ 16 % 32 = v1 ∧ x / 2 ^ 11 % 32 = v2 := by
  subst hc hx
  unfold fld
  refine ⟨?_, ?_, ?_, ?_, ?_, ?_⟩ <;> omega

theorem fields_tkld {x c v0 v1 v2 k0 k1 : Nat} (h0 : v0 < 16) (h1 : v1 < 32) (h2 : v2 < 4) (c0 : k0 < 64) (c1 : k1 < 8) (hx : c + v0 * 2097152 + v1 * 2048 + v2 * 8 = x) (hc : c = k0 * 33554432 + k1) :
    fld x 25 6 = k0 ∧ fld x 0 3 = k1 ∧ fld x 3 3 = v2 ∧ fld x 6 5 = 0 ∧ fld x 16 5 = 0 ∧ x / 2 ^ 21 % 16 = v0 ∧ x / 2 ^ 11 % 32 = v1 := by
  subst hc hx
  unfold fld
  refine ⟨?_, ?_, ?_, ?_, ?_, ?_, ?_⟩ <;> omega

theorem fields_tkmov {x c v0 v1 k0 k1 : Nat} (h0 : v0 < 16) (h1 : v1 < 16) (c0 : k0 < 64) (c1 : k1 < 8) (hx : c + v0 * 2097152 + v1 * 2048 = x) (hc : c = k0 * 33554432 + k1) :
    fld x 25 6 = k0 ∧ fld x 0 3 = k1 ∧ fld x 3 8 = 0 ∧ fld x 15 6 = 0 ∧ x / 2 ^ 21 % 16 = v0 ∧ x / 2 ^ 11 % 16 = v1 := by
  subst hc hx
  unfold fld
  refine ⟨?_, ?_, ?_, ?_, ?_, ?_⟩ <;> omega

theorem fields_tkchk {x c v0 v1 k0 k1 : Nat} (h0 : v0 < 16) (h1 : v1 < 32) (c0 : k0 < 64) (c1 : k1 < 8) (hx : c + v0 * 2097152 + v1 * 65536 = x) (hc : c = k0 * 33554432 + k1) :
    fld x 25 6 = k0 ∧ fld x 0 3 = k1 ∧ fld x 3 13 = 0 ∧ x / 2 ^ 21 % 16 = v0 ∧ x / 2 ^ 16 % 32 = v1 := by
  subst hc hx
  unfold fld
  refine ⟨?_, ?_, ?_, ?_, ?_⟩ <;> omega

theorem fields_drayCopy {x c v0 v1 v2 v3 k0 k1 : Nat} (h0 : v0 < 16) (h1 : v1 < 32) (h2 : v2 < 32) (h3 : v3 < 32) (c0 : k0 < 64) (c1 : k1 < 8) (hx : c + v0 * 2097152 + v1 * 65536 + v2 * 2048 + v3 * 64 = x) (hc : c = k0 * 33554432 + k1) :
    fld x 25 6 = k0 ∧ fld x 0 3 = k1 ∧ fld x 3 3 = 0 ∧ x / 2 ^ 21 % 16 = v0 ∧ x / 2 ^ 16 % 32 = v1 ∧ x / 2 ^ 11 % 32 = v2 ∧ x / 2 ^ 6 % 32 = v3 := by
  subst hc hx
  unfold fld
  refine ⟨?_, ?_, ?_, ?_, ?_, ?_, ?_⟩ <;> omega

theorem fields_dstat {x c v0 v1 k0 k1 : Nat} (h0 : v0 < 32) (h1 : v1 < 32) (c0 : k0 < 64) (c1 : k1 < 8) (hx : c + v0 * 65536 + v1 * 2048 = x) (hc : c = k0 * 33554432 + k1) :
    fld x 25 6 = k0 ∧ fld x 0 3 = k1 ∧ fld x 3 8 = 0 ∧ fld x 21 4 = 0 ∧ x / 2 ^ 16 % 32 = v0 ∧ x / 2 ^ 11 % 32 = v1 := by
  subst hc hx
  unfold fld
  refine ⟨?_, ?_, ?_, ?_, ?_, ?_⟩ <;> omega

theorem fields_carr {x c v0 v1 v2 v3 v4 k0 k1 : Nat} (h0 : v0 < 32) (h1 : v1 < 32) (h2 : v2 < 16) (h3 : v3 < 8) (h4 : v4 < 2) (c0 : k0 < 64) (c1 : k1 < 64) (hx : c + v0 * 1048576 + v1 * 32768 + v2 * 1024 + v3 * 128 + v4 * 64 = x) (hc : c = k0 * 33554432 + k1) :
    fld x 25 6 = k0 ∧ fld x 0 6 = k1 ∧ fld x 7 3 = v3 ∧ fld x 6 1 = v4 ∧ fld x 14 1 = 0 ∧ x / 2 ^ 20 % 32 = v0 ∧ x / 2 ^ 15 % 32 = v1 ∧ x / 2 ^ 10 % 16 = v2 := by
  subst hc hx
  unfold fld
  refine ⟨?_, ?_, ?_, ?_, ?_, ?_, ?_, ?_⟩ <;> omega

theorem fields_cancel {x c v0 v1 v2 v3 k0 k1 : Nat} (h0 : v0 < 32) (h1 : v1 < 32) (h2 : v2 < 8) (h3 : v3 < 2) (c0 : k0 < 64) (c1 : k1 < 64) (hx : c + v0 * 1048576 + v1 * 32768 + v2 * 128 + v3 * 64 = x) (hc : c = k0 * 33554432 + k1) :
    fld x 25 6 = k0 ∧ fld x 0 6 = k1 ∧ fld x 7 3 = v2 ∧ fld x 6 1 = v3 ∧ fld x 10 5 = 0 ∧ x / 2 ^ 20 % 32 = v0 ∧ x / 2 ^ 15 % 32 = v1 := by
  subst hc hx
  unfold fld
  refine ⟨?_, ?_, ?_, ?_, ?_, ?_, ?_⟩ <;> omega

theorem fields_xlatRead {x c v0 v1 v2 k0 k1 k2 : Nat} (h0 : v0 < 32) (h1 : v1 < 32) (h2 : v2 < 32) (c0 : k0 < 64) (c1 : k1 < 8) (c2 : k2 < 8) (hx : c + v0 * 65536 + v1 * 2048 + v2 * 64 = x) (hc : c = k0 * 33554432 + k1 + k2 * 8) :
    fld x 25 6 = k0 ∧ fld x 0 3 = k1 ∧ fld x 3 3 = k2 ∧ fld x 21 4 = 0 ∧ x / 2 ^ 16 % 32 = v0 ∧ x / 2 ^ 11 % 32 = v1 ∧ x / 2 ^ 6 % 32 = v2 := by
  subst hc hx
  unfold fld
  refine ⟨?_, ?_, ?_, ?_, ?_, ?_, ?_⟩ <;> omega

theorem fields_tlbinvVd {x c v0 v1 k0 k1 k2 : Nat} (h0 : v0 < 32) (h1 : v1 < 32) (c0 : k0 < 64) (c1 : k1 < 8) (c2 : k2 < 8) (hx : c + v0 * 65536 + v1 * 64 = x) (hc : c = k0 * 33554432 + k1 + k2 * 8) :
    fld x 25 6 = k0 ∧ fld x 0 3 = k1 ∧ fld x 3 3 = k2 ∧ fld x 11 5 = 0 ∧ fld x 21 4 = 0 ∧ x / 2 ^ 16 % 32 = v0 ∧ x / 2 ^ 6 % 32 = v1 := by
  subst hc hx
  unfold fld
  refine ⟨?_, ?_, ?_, ?_, ?_, ?_, ?_⟩ <;> omega

theorem fields_revokePort {x c v0 v1 k0 k1 k2 : Nat} (h0 : v0 < 32) (h1 : v1 < 32) (c0 : k0 < 64) (c1 : k1 < 8) (c2 : k2 < 8) (hx : c + v0 * 65536 + v1 * 2048 = x) (hc : c = k0 * 33554432 + k1 + k2 * 8) :
    fld x 25 6 = k0 ∧ fld x 0 3 = k1 ∧ fld x 3 3 = k2 ∧ fld x 6 5 = 0 ∧ fld x 21 4 = 0 ∧ x / 2 ^ 16 % 32 = v0 ∧ x / 2 ^ 11 % 32 = v1 := by
  subst hc hx
  unfold fld
  refine ⟨?_, ?_, ?_, ?_, ?_, ?_, ?_⟩ <;> omega

theorem fields_add {x c v0 v1 v2 v3 v4 v5 k0 k1 : Nat} (h0 : v0 < 32) (h1 : v1 < 32) (h2 : v2 < 32) (h3 : v3 < 8) (h4 : v4 < 2) (h5 : v5 < 4) (c0 : k0 < 64) (c1 : k1 < 16) (hx : c + v0 * 1048576 + v1 * 32768 + v2 * 1024 + v3 * 128 + v4 * 64 + v5 * 16 = x) (hc : c = k0 * 33554432 + k1) :
    fld x 25 6 = k0 ∧ fld x 0 4 = k1 ∧ fld x 7 3 = v3 ∧ fld x 6 1 = v4 ∧ fld x 4 2 = v5 ∧ x / 2 ^ 20 % 32 = v0 ∧ x / 2 ^ 15 % 32 = v1 ∧ x / 2 ^ 10 % 32 = v2 := by
  subst hc hx
  unfold fld
  refine ⟨?_, ?_, ?_, ?_, ?_, ?_, ?_, ?_⟩ <;> omega

theorem fields_sel {x c v0 v1 v2 v3 v4 k0 k1 : Nat} (h0 : v0 < 32) (h1 : v1 < 32) (h2 : v2 < 32) (h3 : v3 < 8) (h4 : v4 < 2) (c0 : k0 < 64) (c1 : k1 < 16) (hx : c + v0 * 1048576 + v1 * 32768 + v2 * 1024 + v3 * 128 + v4 * 64 = x) (hc : c = k0 * 33554432 + k1) :
    fld x 25 6 = k0 ∧ fld x 0 4 = k1 ∧ fld x 6 1 = v4 ∧ fld x 4 2 = 0 ∧ x / 2 ^ 20 % 32 = v0 ∧ x / 2 ^ 15 % 32 = v1 ∧ x / 2 ^ 10 % 32 = v2 ∧ x / 2 ^ 7 % 8 = v3 := by
  subst hc hx
  unfold fld
  refine ⟨?_, ?_, ?_, ?_, ?_, ?_, ?_, ?_⟩ <;> omega

theorem fields_clz {x c v0 v1 v2 v3 v4 k0 k1 : Nat} (h0 : v0 < 32) (h1 : v1 < 32) (h2 : v2 < 8) (h3 : v3 < 2) (h4 : v4 < 4) (c0 : k0 < 64) (c1 : k1 < 16) (hx : c + v0 * 1048576 + v1 * 32768 + v2 * 128 + v3 * 64 + v4 * 16 = x) (hc : c = k0 * 33554432 + k1) :
    fld x 25 6 = k0 ∧ fld x 0 4 = k1 ∧ fld x 7 3 = v2 ∧ fld x 6 1 = v3 ∧ fld x 4 2 = v4 ∧ fld x 10 5 = 0 ∧ x / 2 ^ 20 % 32 = v0 ∧ x / 2 ^ 15 % 32 = v1 := by
  subst hc hx
  unfold fld
  refine ⟨?_, ?_, ?_, ?_, ?_, ?_, ?_, ?_⟩ <;> omega

theorem fields_addi {x c v0 v1 v2 k0 k1 : Nat} (h0 : v0 < 32) (h1 : v1 < 32) (h2 : v2 < 4096) (c0 : k0 < 64) (c1 : k1 < 8) (hx : c + v0 * 1048576 + v1 * 32768 + v2 = x) (hc : c = k0 * 33554432 + k1 * 4096) :
    fld x 25 6 = k0 ∧ fld x 12 3 = k1 ∧ x / 2 ^ 20 % 32 = v0 ∧ x / 2 ^ 15 % 32 = v1 ∧ x / 2 ^ 0 % 4096 = v2 := by
  subst hc hx
  unfold fld
  refine ⟨?_, ?_, ?_, ?_, ?_⟩ <;> omega

theorem fields_shli {x c v0 v1 v2 k0 k1 : Nat} (h0 : v0 < 32) (h1 : v1 < 32) (h2 : v2 < 64) (c0 : k0 < 64) (c1 : k1 < 8) (hx : c + v0 * 1048576 + v1 * 32768 + v2 = x) (hc : c = k0 * 33554432 + k1 * 4096) :
    fld x 25 6 = k0 ∧ fld x 12 3 = k1 ∧ fld x 6 6 = 0 ∧ x / 2 ^ 20 % 32 = v0 ∧ x / 2 ^ 15 % 32 = v1 ∧ x / 2 ^ 0 % 64 = v2 := by
  subst hc hx
  unfold fld
  refine ⟨?_, ?_, ?_, ?_, ?_, ?_⟩ <;> omega

theorem fields_li {x c v0 v1 k0 : Nat} (h0 : v0 < 32) (h1 : v1 < 1048576) (c0 : k0 < 64) (hx : c + v0 * 1048576 + v1 = x) (hc : c = k0 * 33554432) :
    fld x 25 6 = k0 ∧ x / 2 ^ 20 % 32 = v0 ∧ x / 2 ^ 0 % 1048576 = v1 := by
  subst hc hx
  unfold fld
  refine ⟨?_, ?_, ?_⟩ <;> omega

theorem fields_cmpEq {x c v0 v1 v2 v3 v4 v5 k0 k1 : Nat} (h0 : v0 < 8) (h1 : v1 < 32) (h2 : v2 < 32) (h3 : v3 < 8) (h4 : v4 < 2) (h5 : v5 < 4) (c0 : k0 < 64) (c1 : k1 < 16) (hx : c + v0 * 1048576 + v1 * 32768 + v2 * 1024 + v3 * 128 + v4 * 64 + v5 * 16 = x) (hc : c = k0 * 33554432 + k1) :
    fld x 25 6 = k0 ∧ fld x 0 4 = k1 ∧ fld x 7 3 = v3 ∧ fld x 6 1 = v4 ∧ fld x 4 2 = v5 ∧ fld x 23 2 = 0 ∧ x / 2 ^ 20 % 8 = v0 ∧ x / 2 ^ 15 % 32 = v1 ∧ x / 2 ^ 10 % 32 = v2 := by
  subst hc hx
  unfold fld
  refine ⟨?_, ?_, ?_, ?_, ?_, ?_, ?_, ?_, ?_⟩ <;> omega

theorem fields_plogAnd {x c v0 v1 v2 v3 v4 k0 k1 : Nat} (h0 : v0 < 8) (h1 : v1 < 8) (h2 : v2 < 8) (h3 : v3 < 8) (h4 : v4 < 2) (c0 : k0 < 64) (c1 : k1 < 64) (hx : c + v0 * 1048576 + v1 * 32768 + v2 * 1024 + v3 * 128 + v4 * 64 = x) (hc : c = k0 * 33554432 + k1) :
    fld x 25 6 = k0 ∧ fld x 0 6 = k1 ∧ fld x 7 3 = v3 ∧ fld x 6 1 = v4 ∧ fld x 13 2 = 0 ∧ fld x 18 2 = 0 ∧ fld x 23 2 = 0 ∧ x / 2 ^ 20 % 8 = v0 ∧ x / 2 ^ 15 % 8 = v1 ∧ x / 2 ^ 10 % 8 = v2 := by
  subst hc hx
  unfold fld
  refine ⟨?_, ?_, ?_, ?_, ?_, ?_, ?_, ?_, ?_, ?_⟩ <;> omega

theorem fields_bfx {x c v0 v1 v2 v3 k0 k1 : Nat} (h0 : v0 < 32) (h1 : v1 < 32) (h2 : v2 < 64) (h3 : v3 < 64) (c0 : k0 < 64) (c1 : k1 < 8) (hx : c + v0 * 1048576 + v1 * 32768 + v2 * 64 + v3 = x) (hc : c = k0 * 33554432 + k1 * 4096) :
    fld x 25 6 = k0 ∧ fld x 12 3 = k1 ∧ fld x 0 6 = v3 ∧ fld x 6 6 = v2 ∧ x / 2 ^ 20 % 32 = v0 ∧ x / 2 ^ 15 % 32 = v1 ∧ x / 2 ^ 6 % 64 = v2 ∧ x / 2 ^ 0 % 64 = v3 := by
  subst hc hx
  unfold fld
  refine ⟨?_, ?_, ?_, ?_, ?_, ?_, ?_, ?_⟩ <;> omega

theorem fields_vadd {x c v0 v1 v2 v3 v4 k0 k1 : Nat} (h0 : v0 < 32) (h1 : v1 < 32) (h2 : v2 < 32) (h3 : v3 < 8) (h4 : v4 < 4) (c0 : k0 < 64) (c1 : k1 < 32) (hx : c + v0 * 1048576 + v1 * 32768 + v2 * 1024 + v3 * 128 + v4 * 32 = x) (hc : c = k0 * 33554432 + k1) :
    fld x 25 6 = k0 ∧ fld x 0 5 = k1 ∧ fld x 5 2 = v4 ∧ x / 2 ^ 20 % 32 = v0 ∧ x / 2 ^ 15 % 32 = v1 ∧ x / 2 ^ 10 % 32 = v2 ∧ x / 2 ^ 7 % 8 = v3 := by
  subst hc hx
  unfold fld
  refine ⟨?_, ?_, ?_, ?_, ?_, ?_, ?_⟩ <;> omega

theorem fields_vabs {x c v0 v1 v2 v3 k0 k1 : Nat} (h0 : v0 < 32) (h1 : v1 < 32) (h2 : v2 < 8) (h3 : v3 < 4) (c0 : k0 < 64) (c1 : k1 < 32) (hx : c + v0 * 1048576 + v1 * 32768 + v2 * 128 + v3 * 32 = x) (hc : c = k0 * 33554432 + k1) :
    fld x 25 6 = k0 ∧ fld x 0 5 = k1 ∧ fld x 5 2 = v3 ∧ fld x 10 5 = 0 ∧ x / 2 ^ 20 % 32 = v0 ∧ x / 2 ^ 15 % 32 = v1 ∧ x / 2 ^ 7 % 8 = v2 := by
  subst hc hx
  unfold fld
  refine ⟨?_, ?_, ?_, ?_, ?_, ?_, ?_⟩ <;> omega

theorem fields_vcmpEq {x c v0 v1 v2 v3 v4 k0 k1 : Nat} (h0 : v0 < 8) (h1 : v1 < 32) (h2 : v2 < 32) (h3 : v3 < 8) (h4 : v4 < 4) (c0 : k0 < 64) (c1 : k1 < 32) (hx : c + v0 * 1048576 + v1 * 32768 + v2 * 1024 + v3 * 128 + v4 * 32 = x) (hc : c = k0 * 33554432 + k1) :
    fld x 25 6 = k0 ∧ fld x 0 5 = k1 ∧ fld x 5 2 = v4 ∧ fld x 23 2 = 0 ∧ x / 2 ^ 20 % 8 = v0 ∧ x / 2 ^ 15 % 32 = v1 ∧ x / 2 ^ 10 % 32 = v2 ∧ x / 2 ^ 7 % 8 = v3 := by
  subst hc hx
  unfold fld
  refine ⟨?_, ?_, ?_, ?_, ?_, ?_, ?_, ?_⟩ <;> omega

theorem fields_vcvt {x c v0 v1 v2 v3 v4 v5 k0 k1 : Nat} (h0 : v0 < 32) (h1 : v1 < 32) (h2 : v2 < 32) (h3 : v3 < 8) (h4 : v4 < 4) (h5 : v5 < 8) (c0 : k0 < 64) (c1 : k1 < 4) (hx : c + v0 * 1048576 + v1 * 32768 + v2 * 1024 + v3 * 128 + v4 * 32 + v5 * 4 = x) (hc : c = k0 * 33554432 + k1) :
    fld x 25 6 = k0 ∧ fld x 0 2 = k1 ∧ fld x 5 2 = v4 ∧ fld x 2 3 = v5 ∧ fld x 20 5 = v0 ∧ fld x 10 5 = v2 ∧ x / 2 ^ 20 % 32 = v0 ∧ x / 2 ^ 15 % 32 = v1 ∧ x / 2 ^ 10 % 32 = v2 ∧ x / 2 ^ 7 % 8 = v3 := by
  subst hc hx
  unfold fld
  refine ⟨?_, ?_, ?_, ?_, ?_, ?_, ?_, ?_, ?_, ?_⟩ <;> omega

theorem fields_vqnt {x c v0 v1 v2 v3 v4 k0 k1 : Nat} (h0 : v0 < 32) (h1 : v1 < 32) (h2 : v2 < 32) (h3 : v3 < 8) (h4 : v4 < 4) (c0 : k0 < 64) (c1 : k1 < 4) (hx : c + v0 * 1048576 + v1 * 32768 + v2 * 1024 + v3 * 128 + v4 * 32 = x) (hc : c = k0 * 33554432 + k1) :
    fld x 25 6 = k0 ∧ fld x 0 2 = k1 ∧ fld x 5 2 = v4 ∧ fld x 2 3 = 0 ∧ fld x 10 5 = v2 ∧ x / 2 ^ 20 % 32 = v0 ∧ x / 2 ^ 15 % 32 = v1 ∧ x / 2 ^ 10 % 32 = v2 ∧ x / 2 ^ 7 % 8 = v3 := by
  subst hc hx
  unfold fld
  refine ⟨?_, ?_, ?_, ?_, ?_, ?_, ?_, ?_, ?_⟩ <;> omega

theorem fields_vdqnt {x c v0 v1 v2 v3 v4 v5 k0 k1 : Nat} (h0 : v0 < 32) (h1 : v1 < 32) (h2 : v2 < 32) (h3 : v3 < 8) (h4 : v4 < 4) (h5 : v5 < 8) (c0 : k0 < 64) (c1 : k1 < 4) (hx : c + v0 * 1048576 + v1 * 32768 + v2 * 1024 + v3 * 128 + v4 * 32 + v5 * 4 = x) (hc : c = k0 * 33554432 + k1) :
    fld x 25 6 = k0 ∧ fld x 0 2 = k1 ∧ fld x 5 2 = v4 ∧ fld x 2 3 = v5 ∧ fld x 10 5 = v2 ∧ x / 2 ^ 20 % 32 = v0 ∧ x / 2 ^ 15 % 32 = v1 ∧ x / 2 ^ 10 % 32 = v2 ∧ x / 2 ^ 7 % 8 = v3 := by
  subst hc hx
  unfold fld
  refine ⟨?_, ?_, ?_, ?_, ?_, ?_, ?_, ?_, ?_⟩ <;> omega

theorem fields_vrndi {x c v0 v1 v2 v3 v4 k0 k1 : Nat} (h0 : v0 < 32) (h1 : v1 < 32) (h2 : v2 < 8) (h3 : v3 < 4) (h4 : v4 < 8) (c0 : k0 < 64) (c1 : k1 < 4) (hx : c + v0 * 1048576 + v1 * 32768 + v2 * 128 + v3 * 32 + v4 * 4 = x) (hc : c = k0 * 33554432 + k1) :
    fld x 25 6 = k0 ∧ fld x 0 2 = k1 ∧ fld x 5 2 = v3 ∧ fld x 2 3 = v4 ∧ fld x 20 5 = v0 ∧ fld x 10 5 = 0 ∧ x / 2 ^ 20 % 32 = v0 ∧ x / 2 ^ 15 % 32 = v1 ∧ x / 2 ^ 7 % 8 = v2 := by
  subst hc hx
  unfold fld
  refine ⟨?_, ?_, ?_, ?_, ?_, ?_, ?_, ?_, ?_⟩ <;> omega

theorem fields_vredsum {x c v0 v1 v2 v3 v4 k0 k1 : Nat} (h0 : v0 < 32) (h1 : v1 < 32) (h2 : v2 < 4) (h3 : v3 < 4) (h4 : v4 < 8) (c0 : k0 < 64) (c1 : k1 < 32) (hx : c + v0 * 1048576 + v1 * 32768 + v2 * 1024 + v3 * 32 + v4 * 128 = x) (hc : c = k0 * 33554432 + k1) :
    fld x 25 6 = k0 ∧ fld x 0 5 = k1 ∧ fld x 10 2 = v2 ∧ fld x 5 2 = v3 ∧ fld x 12 3 = 0 ∧ x / 2 ^ 20 % 32 = v0 ∧ x / 2 ^ 15 % 32 = v1 ∧ x / 2 ^ 7 % 8 = v4 := by
  subst hc hx
  unfold fld
  refine ⟨?_, ?_, ?_, ?_, ?_, ?_, ?_, ?_⟩ <;> omega

theorem fields_vscan {x c v0 v1 v2 v3 v4 v5 k0 k1 : Nat} (h0 : v0 < 32) (h1 : v1 < 32) (h2 : v2 < 4) (h3 : v3 < 4) (h4 : v4 < 4) (h5 : v5 < 8) (c0 : k0 < 64) (c1 : k1 < 32) (hx : c + v0 * 1048576 + v1 * 32768 + v2 * 4096 + v3 * 1024 + v4 * 32 + v5 * 128 = x) (hc : c = k0 * 33554432 + k1) :
    fld x 25 6 = k0 ∧ fld x 0 5 = k1 ∧ fld x 12 2 = v2 ∧ fld x 10 2 = v3 ∧ fld x 5 2 = v4 ∧ fld x 14 1 = 0 ∧ x / 2 ^ 20 % 32 = v0 ∧ x / 2 ^ 15 % 32 = v1 ∧ x / 2 ^ 7 % 8 = v5 := by
  subst hc hx
  unfold fld
  refine ⟨?_, ?_, ?_, ?_, ?_, ?_, ?_, ?_, ?_⟩ <;> omega

theorem fields_vdot4 {x c v0 v1 v2 v3 k0 k1 k2 : Nat} (h0 : v0 < 32) (h1 : v1 < 32) (h2 : v2 < 32) (h3 : v3 < 8) (c0 : k0 < 64) (c1 : k1 < 32) (c2 : k2 < 4) (hx : c + v0 * 1048576 + v1 * 32768 + v2 * 1024 + v3 * 128 = x) (hc : c = k0 * 33554432 + k1 + k2 * 32) :
    fld x 25 6 = k0 ∧ fld x 0 5 = k1 ∧ fld x 5 2 = k2 ∧ x / 2 ^ 20 % 32 = v0 ∧ x / 2 ^ 15 % 32 = v1 ∧ x / 2 ^ 10 % 32 = v2 ∧ x / 2 ^ 7 % 8 = v3 := by
  subst hc hx
  unfold fld
  refine ⟨?_, ?_, ?_, ?_, ?_, ?_, ?_⟩ <;> omega

theorem fields_viota {x c v0 v1 v2 k0 k1 : Nat} (h0 : v0 < 32) (h1 : v1 < 8) (h2 : v2 < 4) (c0 : k0 < 64) (c1 : k1 < 32) (hx : c + v0 * 1048576 + v1 * 128 + v2 * 32 = x) (hc : c = k0 * 33554432 + k1) :
    fld x 25 6 = k0 ∧ fld x 0 5 = k1 ∧ fld x 5 2 = v2 ∧ fld x 10 10 = 0 ∧ x / 2 ^ 20 % 32 = v0 ∧ x / 2 ^ 7 % 8 = v1 := by
  subst hc hx
  unfold fld
  refine ⟨?_, ?_, ?_, ?_, ?_, ?_⟩ <;> omega

theorem fields_vextr {x c v0 v1 v2 v3 k0 k1 : Nat} (h0 : v0 < 32) (h1 : v1 < 32) (h2 : v2 < 32) (h3 : v3 < 4) (c0 : k0 < 64) (c1 : k1 < 32) (hx : c + v0 * 1048576 + v1 * 32768 + v2 * 1024 + v3 * 32 = x) (hc : c = k0 * 33554432 + k1) :
    fld x 25 6 = k0 ∧ fld x 0 5 = k1 ∧ fld x 5 2 = v3 ∧ fld x 7 3 = 0 ∧ x / 2 ^ 20 % 32 = v0 ∧ x / 2 ^ 15 % 32 = v1 ∧ x / 2 ^ 10 % 32 = v2 := by
  subst hc hx
  unfold fld
  refine ⟨?_, ?_, ?_, ?_, ?_, ?_, ?_⟩ <;> omega

theorem fields_mand {x c v0 v1 v2 v3 k0 k1 : Nat} (h0 : v0 < 8) (h1 : v1 < 8) (h2 : v2 < 8) (h3 : v3 < 4) (c0 : k0 < 64) (c1 : k1 < 32) (hx : c + v0 * 1048576 + v1 * 32768 + v2 * 1024 + v3 * 32 = x) (hc : c = k0 * 33554432 + k1) :
    fld x 25 6 = k0 ∧ fld x 0 5 = k1 ∧ fld x 5 2 = v3 ∧ fld x 7 3 = 0 ∧ fld x 13 2 = 0 ∧ fld x 18 2 = 0 ∧ fld x 23 2 = 0 ∧ x / 2 ^ 20 % 8 = v0 ∧ x / 2 ^ 15 % 8 = v1 ∧ x / 2 ^ 10 % 8 = v2 := by
  subst hc hx
  unfold fld
  refine ⟨?_, ?_, ?_, ?_, ?_, ?_, ?_, ?_, ?_, ?_⟩ <;> omega

theorem fields_mnot {x c v0 v1 v2 k0 k1 : Nat} (h0 : v0 < 8) (h1 : v1 < 8) (h2 : v2 < 4) (c0 : k0 < 64) (c1 : k1 < 32) (hx : c + v0 * 1048576 + v1 * 32768 + v2 * 32 = x) (hc : c = k0 * 33554432 + k1) :
    fld x 25 6 = k0 ∧ fld x 0 5 = k1 ∧ fld x 5 2 = v2 ∧ fld x 7 8 = 0 ∧ fld x 18 2 = 0 ∧ fld x 23 2 = 0 ∧ x / 2 ^ 20 % 8 = v0 ∧ x / 2 ^ 15 % 8 = v1 := by
  subst hc hx
  unfold fld
  refine ⟨?_, ?_, ?_, ?_, ?_, ?_, ?_, ?_⟩ <;> omega

theorem fields_mcnt {x c v0 v1 v2 k0 k1 : Nat} (h0 : v0 < 32) (h1 : v1 < 8) (h2 : v2 < 4) (c0 : k0 < 64) (c1 : k1 < 32) (hx : c + v0 * 1048576 + v1 * 32768 + v2 * 32 = x) (hc : c = k0 * 33554432 + k1) :
    fld x 25 6 = k0 ∧ fld x 0 5 = k1 ∧ fld x 5 2 = v2 ∧ fld x 7 8 = 0 ∧ fld x 18 2 = 0 ∧ x / 2 ^ 20 % 32 = v0 ∧ x / 2 ^ 15 % 8 = v1 := by
  subst hc hx
  unfold fld
  refine ⟨?_, ?_, ?_, ?_, ?_, ?_, ?_⟩ <;> omega

theorem fields_qand {x c v0 v1 v2 v3 k0 k1 : Nat} (h0 : v0 < 4) (h1 : v1 < 4) (h2 : v2 < 4) (h3 : v3 < 4) (c0 : k0 < 64) (c1 : k1 < 32) (hx : c + v0 * 1048576 + v1 * 32768 + v2 * 1024 + v3 * 32 = x) (hc : c = k0 * 33554432 + k1) :
    fld x 25 6 = k0 ∧ fld x 0 5 = k1 ∧ fld x 5 2 = v3 ∧ fld x 7 3 = 0 ∧ fld x 12 3 = 0 ∧ fld x 17 3 = 0 ∧ fld x 22 3 = 0 ∧ x / 2 ^ 20 % 4 = v0 ∧ x / 2 ^ 15 % 4 = v1 ∧ x / 2 ^ 10 % 4 = v2 := by
  subst hc hx
  unfold fld
  refine ⟨?_, ?_, ?_, ?_, ?_, ?_, ?_, ?_, ?_, ?_⟩ <;> omega

theorem fields_qclr {x c v0 v1 v2 k0 k1 : Nat} (h0 : v0 < 4) (h1 : v1 < 8) (h2 : v2 < 4) (c0 : k0 < 64) (c1 : k1 < 32) (hx : c + v0 * 1048576 + v1 * 32768 + v2 * 32 = x) (hc : c = k0 * 33554432 + k1) :
    fld x 25 6 = k0 ∧ fld x 0 5 = k1 ∧ fld x 5 2 = v2 ∧ fld x 7 8 = 0 ∧ fld x 18 2 = 0 ∧ fld x 22 3 = 0 ∧ x / 2 ^ 20 % 4 = v0 ∧ x / 2 ^ 15 % 8 = v1 := by
  subst hc hx
  unfold fld
  refine ⟨?_, ?_, ?_, ?_, ?_, ?_, ?_, ?_⟩ <;> omega

theorem fields_vrng {x c v0 v1 v2 v3 v4 k0 : Nat} (h0 : v0 < 32) (h1 : v1 < 32) (h2 : v2 < 32) (h3 : v3 < 8) (h4 : v4 < 4) (c0 : k0 < 64) (hx : c + v0 * 1048576 + v1 * 32768 + v2 * 1024 + v3 * 128 + v4 * 32 = x) (hc : c = k0 * 33554432) :
    fld x 25 6 = k0 ∧ fld x 5 2 = v4 ∧ fld x 0 5 = 0 ∧ x / 2 ^ 20 % 32 = v0 ∧ x / 2 ^ 15 % 32 = v1 ∧ x / 2 ^ 10 % 32 = v2 ∧ x / 2 ^ 7 % 8 = v3 := by
  subst hc hx
  unfold fld
  refine ⟨?_, ?_, ?_, ?_, ?_, ?_, ?_⟩ <;> omega

/-! The constructors. -/

theorem nop : Statement .nop := by
  intro _ x_ hx_
  obtain ⟨f0, f1, f2⟩ := fields_nop  (show 0 < 64 by decide) (show 0 < 64 by decide) (Option.some.inj hx_) rfl
  rw [major_decSys f0]
  simp [decSys, zeroF, f1, f2]

theorem halt : Statement .halt := by
  intro _ x_ hx_
  obtain ⟨f0, f1, f2⟩ := fields_nop  (show 0 < 64 by decide) (show 1 < 64 by decide) (Option.some.inj hx_) rfl
  rw [major_decSys f0]
  simp [decSys, zeroF, f1, f2]

theorem trap (code : Fin 512) : Statement (.trap code) := by
  intro _ x_ hx_
  obtain ⟨f0, f1, f2, r0⟩ := fields_trap code.isLt (show 0 < 64 by decide) (show 2 < 64 by decide) (Option.some.inj hx_) rfl
  rw [major_decSys f0]
  simp [decSys, zeroF, f1, f2, reg_eq r0]

theorem eret : Statement .eret := by
  intro _ x_ hx_
  obtain ⟨f0, f1, f2⟩ := fields_nop  (show 0 < 64 by decide) (show 3 < 64 by decide) (Option.some.inj hx_) rfl
  rw [major_decSys f0]
  simp [decSys, zeroF, f1, f2]

theorem csrr (d : GReg) (csr : Fin 512) : Statement (.csrr d csr) := by
  intro _ x_ hx_
  obtain ⟨f0, f1, f2, r0, r1⟩ := fields_csrr d.isLt csr.isLt (show 0 < 64 by decide) (show 4 < 64 by decide) (Option.some.inj hx_) rfl
  rw [major_decSys f0]
  simp [decSys, zeroF, f1, f2, reg_eq r0, reg_eq r1]

theorem csrw (csr : Fin 512) (a : GReg) : Statement (.csrw csr a) := by
  intro _ x_ hx_
  obtain ⟨f0, f1, f2, r0, r1⟩ := fields_csrw csr.isLt a.isLt (show 0 < 64 by decide) (show 5 < 64 by decide) (Option.some.inj hx_) rfl
  rw [major_decSys f0]
  simp [decSys, zeroF, f1, f2, reg_eq r0, reg_eq r1]

theorem csrx (d : GReg) (csr : Fin 512) (a : GReg) : Statement (.csrx d csr a) := by
  intro _ x_ hx_
  obtain ⟨f0, f1, r0, r1, r2⟩ := fields_csrx d.isLt csr.isLt a.isLt (show 0 < 64 by decide) (show 6 < 64 by decide) (Option.some.inj hx_) rfl
  rw [major_decSys f0]
  simp [decSys, f1, reg_eq r0, reg_eq r1, reg_eq r2]

theorem yield : Statement .yield := by
  intro _ x_ hx_
  obtain ⟨f0, f1, f2⟩ := fields_nop  (show 0 < 64 by decide) (show 7 < 64 by decide) (Option.some.inj hx_) rfl
  rw [major_decSys f0]
  simp [decSys, zeroF, f1, f2]

theorem ctxsave (d : GReg) (a : GReg) : Statement (.ctxsave d a) := by
  intro _ x_ hx_
  obtain ⟨f0, f1, f2, r0, r1⟩ := fields_ctxsave d.isLt a.isLt (show 0 < 64 by decide) (show 8 < 64 by decide) (Option.some.inj hx_) rfl
  rw [major_decSys f0]
  simp [decSys, zeroF, f1, f2, reg_eq r0, reg_eq r1]

theorem ctxload (d : GReg) (a : GReg) : Statement (.ctxload d a) := by
  intro _ x_ hx_
  obtain ⟨f0, f1, f2, r0, r1⟩ := fields_ctxsave d.isLt a.isLt (show 0 < 64 by decide) (show 9 < 64 by decide) (Option.some.inj hx_) rfl
  rw [major_decSys f0]
  simp [decSys, zeroF, f1, f2, reg_eq r0, reg_eq r1]

theorem br (gd : Guard) (off : Fin 2097152) : Statement (.br gd off) := by
  intro h_ x_ hx_
  obtain ⟨f0, f1, f2, r0⟩ := fields_br gd.pr.isLt (Bool.toNat_lt gd.pn) off.isLt (show 1 < 64 by decide) (Option.some.inj hx_) rfl
  rw [major_decBr f0]
  simp [decBr, codeF, f1, f2, reg_eq r0, guard_ofBits h_]

theorem jmp (off : Fin 1048576) : Statement (.jmp off) := by
  intro _ x_ hx_
  obtain ⟨f0, f1, r0⟩ := fields_jmp off.isLt (show 2 < 64 by decide) (show 0 < 32 by decide) (Option.some.inj hx_) rfl
  rw [major_decJmp f0]
  simp [decJmp, f1, reg_eq r0]

theorem call (off : Fin 1048576) : Statement (.call off) := by
  intro _ x_ hx_
  obtain ⟨f0, f1, r0⟩ := fields_jmp off.isLt (show 2 < 64 by decide) (show 1 < 32 by decide) (Option.some.inj hx_) rfl
  rw [major_decJmp f0]
  simp [decJmp, f1, reg_eq r0]

theorem ret (a : GReg) : Statement (.ret a) := by
  intro _ x_ hx_
  obtain ⟨f0, f1, f2, r0⟩ := fields_ret a.isLt (show 2 < 64 by decide) (show 2 < 32 by decide) (Option.some.inj hx_) rfl
  rw [major_decJmp f0]
  simp [decJmp, zeroF, f1, f2, reg_eq r0]

theorem callr (a : GReg) : Statement (.callr a) := by
  intro _ x_ hx_
  obtain ⟨f0, f1, f2, r0⟩ := fields_ret a.isLt (show 2 < 64 by decide) (show 3 < 32 by decide) (Option.some.inj hx_) rfl
  rw [major_decJmp f0]
  simp [decJmp, zeroF, f1, f2, reg_eq r0]

theorem atLcy (a : GReg) (imm : Fin 4096) : Statement (.atLcy a imm) := by
  intro _ x_ hx_
  obtain ⟨f0, f1, f2, r0, r1⟩ := fields_atLcy a.isLt imm.isLt (show 3 < 64 by decide) (show 0 < 8 by decide) (Option.some.inj hx_) rfl
  rw [major_decTime f0]
  simp [decTime, zeroF, f1, f2, reg_eq r0, reg_eq r1]

theorem cue (n : Fin 4096) : Statement (.cue n) := by
  intro _ x_ hx_
  obtain ⟨f0, f1, f2, r0⟩ := fields_cue n.isLt (show 3 < 64 by decide) (show 1 < 8 by decide) (Option.some.inj hx_) rfl
  rw [major_decTime f0]
  simp [decTime, zeroF, f1, f2, reg_eq r0]

theorem tune (a : GReg) : Statement (.tune a) := by
  intro _ x_ hx_
  obtain ⟨f0, f1, f2, f3, r0⟩ := fields_tune a.isLt (show 3 < 64 by decide) (show 2 < 8 by decide) (Option.some.inj hx_) rfl
  rw [major_decTime f0]
  simp [decTime, zeroF, f1, f2, f3, reg_eq r0]

theorem ld (d : GReg) (a : GReg) (sp : Space) (sz : LdSize) (off : Fin 1024) : Statement (.ld d a sp sz off) := by
  intro _ x_ hx_
  obtain ⟨f0, f1, f2, r0, r1, r2⟩ := fields_ld d.isLt a.isLt (Space_code_lt sp) (LdSize_code_lt sz) off.isLt (show 4 < 64 by decide) (Option.some.inj hx_) rfl
  rw [major_decLd f0]
  simp [decLd, codeF, f1, f2, reg_eq r0, reg_eq r1, reg_eq r2, LdSize_ofCode, Space_ofCode]

theorem st (d : GReg) (a : GReg) (sp : Space) (sz : StSize) (off : Fin 1024) : Statement (.st d a sp sz off) := by
  intro _ x_ hx_
  obtain ⟨f0, f1, f2, r0, r1, r2⟩ := fields_ld d.isLt a.isLt (Space_code_lt sp) (StSize_code_lt sz) off.isLt (show 5 < 64 by decide) (Option.some.inj hx_) rfl
  rw [major_decSt f0]
  simp [decSt, codeF, f1, f2, reg_eq r0, reg_eq r1, reg_eq r2, Space_ofCode, StSize_ofCode]

theorem amoAdd (d : GReg) (a : GReg) (b : GReg) (sz : AmoSize) (sp : Space) : Statement (.amoAdd d a b sz sp) := by
  intro _ x_ hx_
  obtain ⟨f0, f1, f2, f3, f4, r0, r1, r2⟩ := fields_amoAdd d.isLt a.isLt b.isLt (AmoSize_code_lt sz) (Space_code_lt sp) (show 6 < 64 by decide) (show 0 < 16 by decide) (Option.some.inj hx_) rfl
  rw [major_decAmo f0]
  simp [decAmo, codeF, zeroF, f1, f2, f3, f4, reg_eq r0, reg_eq r1, reg_eq r2, AmoSize_ofCode, Space_ofCode]

theorem amoMin (d : GReg) (a : GReg) (b : GReg) (sz : AmoSize) (sp : Space) : Statement (.amoMin d a b sz sp) := by
  intro _ x_ hx_
  obtain ⟨f0, f1, f2, f3, f4, r0, r1, r2⟩ := fields_amoAdd d.isLt a.isLt b.isLt (AmoSize_code_lt sz) (Space_code_lt sp) (show 6 < 64 by decide) (show 1 < 16 by decide) (Option.some.inj hx_) rfl
  rw [major_decAmo f0]
  simp [decAmo, codeF, zeroF, f1, f2, f3, f4, reg_eq r0, reg_eq r1, reg_eq r2, AmoSize_ofCode, Space_ofCode]

theorem amoMax (d : GReg) (a : GReg) (b : GReg) (sz : AmoSize) (sp : Space) : Statement (.amoMax d a b sz sp) := by
  intro _ x_ hx_
  obtain ⟨f0, f1, f2, f3, f4, r0, r1, r2⟩ := fields_amoAdd d.isLt a.isLt b.isLt (AmoSize_code_lt sz) (Space_code_lt sp) (show 6 < 64 by decide) (show 2 < 16 by decide) (Option.some.inj hx_) rfl
  rw [major_decAmo f0]
  simp [decAmo, codeF, zeroF, f1, f2, f3, f4, reg_eq r0, reg_eq r1, reg_eq r2, AmoSize_ofCode, Space_ofCode]

theorem amoMinn (d : GReg) (a : GReg) (b : GReg) (sz : AmoSize) (sp : Space) : Statement (.amoMinn d a b sz sp) := by
  intro _ x_ hx_
  obtain ⟨f0, f1, f2, f3, f4, r0, r1, r2⟩ := fields_amoAdd d.isLt a.isLt b.isLt (AmoSize_code_lt sz) (Space_code_lt sp) (show 6 < 64 by decide) (show 3 < 16 by decide) (Option.some.inj hx_) rfl
  rw [major_decAmo f0]
  simp [decAmo, codeF, zeroF, f1, f2, f3, f4, reg_eq r0, reg_eq r1, reg_eq r2, AmoSize_ofCode, Space_ofCode]

theorem amoMaxn (d : GReg) (a : GReg) (b : GReg) (sz : AmoSize) (sp : Space) : Statement (.amoMaxn d a b sz sp) := by
  intro _ x_ hx_
  obtain ⟨f0, f1, f2, f3, f4, r0, r1, r2⟩ := fields_amoAdd d.isLt a.isLt b.isLt (AmoSize_code_lt sz) (Space_code_lt sp) (show 6 < 64 by decide) (show 4 < 16 by decide) (Option.some.inj hx_) rfl
  rw [major_decAmo f0]
  simp [decAmo, codeF, zeroF, f1, f2, f3, f4, reg_eq r0, reg_eq r1, reg_eq r2, AmoSize_ofCode, Space_ofCode]

theorem amoAnd (d : GReg) (a : GReg) (b : GReg) (sz : AmoSize) (sp : Space) : Statement (.amoAnd d a b sz sp) := by
  intro _ x_ hx_
  obtain ⟨f0, f1, f2, f3, f4, r0, r1, r2⟩ := fields_amoAdd d.isLt a.isLt b.isLt (AmoSize_code_lt sz) (Space_code_lt sp) (show 6 < 64 by decide) (show 5 < 16 by decide) (Option.some.inj hx_) rfl
  rw [major_decAmo f0]
  simp [decAmo, codeF, zeroF, f1, f2, f3, f4, reg_eq r0, reg_eq r1, reg_eq r2, AmoSize_ofCode, Space_ofCode]

theorem amoOr (d : GReg) (a : GReg) (b : GReg) (sz : AmoSize) (sp : Space) : Statement (.amoOr d a b sz sp) := by
  intro _ x_ hx_
  obtain ⟨f0, f1, f2, f3, f4, r0, r1, r2⟩ := fields_amoAdd d.isLt a.isLt b.isLt (AmoSize_code_lt sz) (Space_code_lt sp) (show 6 < 64 by decide) (show 6 < 16 by decide) (Option.some.inj hx_) rfl
  rw [major_decAmo f0]
  simp [decAmo, codeF, zeroF, f1, f2, f3, f4, reg_eq r0, reg_eq r1, reg_eq r2, AmoSize_ofCode, Space_ofCode]

theorem amoXor (d : GReg) (a : GReg) (b : GReg) (sz : AmoSize) (sp : Space) : Statement (.amoXor d a b sz sp) := by
  intro _ x_ hx_
  obtain ⟨f0, f1, f2, f3, f4, r0, r1, r2⟩ := fields_amoAdd d.isLt a.isLt b.isLt (AmoSize_code_lt sz) (Space_code_lt sp) (show 6 < 64 by decide) (show 7 < 16 by decide) (Option.some.inj hx_) rfl
  rw [major_decAmo f0]
  simp [decAmo, codeF, zeroF, f1, f2, f3, f4, reg_eq r0, reg_eq r1, reg_eq r2, AmoSize_ofCode, Space_ofCode]

theorem amoSwap (d : GReg) (a : GReg) (b : GReg) (sz : AmoSize) (sp : Space) : Statement (.amoSwap d a b sz sp) := by
  intro _ x_ hx_
  obtain ⟨f0, f1, f2, f3, f4, r0, r1, r2⟩ := fields_amoAdd d.isLt a.isLt b.isLt (AmoSize_code_lt sz) (Space_code_lt sp) (show 6 < 64 by decide) (show 8 < 16 by decide) (Option.some.inj hx_) rfl
  rw [major_decAmo f0]
  simp [decAmo, codeF, zeroF, f1, f2, f3, f4, reg_eq r0, reg_eq r1, reg_eq r2, AmoSize_ofCode, Space_ofCode]

theorem amoCas (d : GReg) (a : GReg) (b : GReg) (sz : AmoSize) (sp : Space) : Statement (.amoCas d a b sz sp) := by
  intro _ x_ hx_
  obtain ⟨f0, f1, f2, f3, f4, r0, r1, r2⟩ := fields_amoAdd d.isLt a.isLt b.isLt (AmoSize_code_lt sz) (Space_code_lt sp) (show 6 < 64 by decide) (show 9 < 16 by decide) (Option.some.inj hx_) rfl
  rw [major_decAmo f0]
  simp [decAmo, codeF, zeroF, f1, f2, f3, f4, reg_eq r0, reg_eq r1, reg_eq r2, AmoSize_ofCode, Space_ofCode]

theorem fence (d : GReg) (scope : Scope) (mask : Fin 64) : Statement (.fence d scope mask) := by
  intro _ x_ hx_
  obtain ⟨f0, f1, f2, f3, f4, r0, r1⟩ := fields_fence d.isLt (Scope_code_lt scope) mask.isLt (show 7 < 64 by decide) (show 0 < 8 by decide) (Option.some.inj hx_) rfl
  rw [major_decFence f0]
  simp [decFence, codeF, zeroF, f1, f2, f3, f4, reg_eq r0, reg_eq r1, Scope_ofCode]

theorem pref (a : GReg) (imm : Fin 4096) : Statement (.pref a imm) := by
  intro _ x_ hx_
  obtain ⟨f0, f1, f2, r0, r1⟩ := fields_atLcy a.isLt imm.isLt (show 7 < 64 by decide) (show 1 < 8 by decide) (Option.some.inj hx_) rfl
  rw [major_decFence f0]
  simp [decFence, zeroF, f1, f2, reg_eq r0, reg_eq r1]

theorem flush (a : GReg) (imm : Fin 4096) : Statement (.flush a imm) := by
  intro _ x_ hx_
  obtain ⟨f0, f1, f2, r0, r1⟩ := fields_atLcy a.isLt imm.isLt (show 7 < 64 by decide) (show 2 < 8 by decide) (Option.some.inj hx_) rfl
  rw [major_decFence f0]
  simp [decFence, zeroF, f1, f2, reg_eq r0, reg_eq r1]

theorem inval (a : GReg) (imm : Fin 4096) : Statement (.inval a imm) := by
  intro _ x_ hx_
  obtain ⟨f0, f1, f2, r0, r1⟩ := fields_atLcy a.isLt imm.isLt (show 7 < 64 by decide) (show 3 < 8 by decide) (Option.some.inj hx_) rfl
  rw [major_decFence f0]
  simp [decFence, zeroF, f1, f2, reg_eq r0, reg_eq r1]

theorem rpub (a : GReg) : Statement (.rpub a) := by
  intro _ x_ hx_
  obtain ⟨f0, f1, f2, f3, r0⟩ := fields_tune a.isLt (show 7 < 64 by decide) (show 4 < 8 by decide) (Option.some.inj hx_) rfl
  rw [major_decFence f0]
  simp [decFence, zeroF, f1, f2, f3, reg_eq r0]

theorem vld (d : VecReg) (a : GReg) (m : MReg) (e : EW) (clu : Bool) : Statement (.vld d a m e clu) := by
  intro _ x_ hx_
  obtain ⟨f0, f1, f2, f3, f4, r0, r1, r2⟩ := fields_vld d.isLt a.isLt m.isLt (EW_code_lt e) (Bool.toNat_lt clu) (show 8 < 64 by decide) (show 0 < 16 by decide) (Option.some.inj hx_) rfl
  rw [major_decVmem f0]
  simp [decVmem, codeF, zeroF, f1, f2, f3, f4, reg_eq r0, reg_eq r1, reg_eq r2, EW_ofCode, bool_ofNat]

theorem vst (d : VecReg) (a : GReg) (m : MReg) (e : EW) (clu : Bool) : Statement (.vst d a m e clu) := by
  intro _ x_ hx_
  obtain ⟨f0, f1, f2, f3, f4, r0, r1, r2⟩ := fields_vld d.isLt a.isLt m.isLt (EW_code_lt e) (Bool.toNat_lt clu) (show 8 < 64 by decide) (show 1 < 16 by decide) (Option.some.inj hx_) rfl
  rw [major_decVmem f0]
  simp [decVmem, codeF, zeroF, f1, f2, f3, f4, reg_eq r0, reg_eq r1, reg_eq r2, EW_ofCode, bool_ofNat]

theorem vlds (d : VecReg) (a : GReg) (b : GReg) (m : MReg) (e : EW) (clu : Bool) : Statement (.vlds d a b m e clu) := by
  intro _ x_ hx_
  obtain ⟨f0, f1, f2, f3, r0, r1, r2, r3⟩ := fields_vlds d.isLt a.isLt b.isLt m.isLt (EW_code_lt e) (Bool.toNat_lt clu) (show 8 < 64 by decide) (show 2 < 16 by decide) (Option.some.inj hx_) rfl
  rw [major_decVmem f0]
  simp [decVmem, codeF, f1, f2, f3, reg_eq r0, reg_eq r1, reg_eq r2, reg_eq r3, EW_ofCode, bool_ofNat]

theorem vsts (d : VecReg) (a : GReg) (b : GReg) (m : MReg) (e : EW) (clu : Bool) : Statement (.vsts d a b m e clu) := by
  intro _ x_ hx_
  obtain ⟨f0, f1, f2, f3, r0, r1, r2, r3⟩ := fields_vlds d.isLt a.isLt b.isLt m.isLt (EW_code_lt e) (Bool.toNat_lt clu) (show 8 < 64 by decide) (show 3 < 16 by decide) (Option.some.inj hx_) rfl
  rw [major_decVmem f0]
  simp [decVmem, codeF, f1, f2, f3, reg_eq r0, reg_eq r1, reg_eq r2, reg_eq r3, EW_ofCode, bool_ofNat]

theorem vldx (d : VecReg) (a : GReg) (b : VecReg) (m : MReg) (e : EW) (clu : Bool) : Statement (.vldx d a b m e clu) := by
  intro _ x_ hx_
  obtain ⟨f0, f1, f2, f3, r0, r1, r2, r3⟩ := fields_vlds d.isLt a.isLt b.isLt m.isLt (EW_code_lt e) (Bool.toNat_lt clu) (show 8 < 64 by decide) (show 4 < 16 by decide) (Option.some.inj hx_) rfl
  rw [major_decVmem f0]
  simp [decVmem, codeF, f1, f2, f3, reg_eq r0, reg_eq r1, reg_eq r2, reg_eq r3, EW_ofCode, bool_ofNat]

theorem vstx (d : VecReg) (a : GReg) (b : VecReg) (m : MReg) (e : EW) (clu : Bool) : Statement (.vstx d a b m e clu) := by
  intro _ x_ hx_
  obtain ⟨f0, f1, f2, f3, r0, r1, r2, r3⟩ := fields_vlds d.isLt a.isLt b.isLt m.isLt (EW_code_lt e) (Bool.toNat_lt clu) (show 8 < 64 by decide) (show 5 < 16 by decide) (Option.some.inj hx_) rfl
  rw [major_decVmem f0]
  simp [decVmem, codeF, f1, f2, f3, reg_eq r0, reg_eq r1, reg_eq r2, reg_eq r3, EW_ofCode, bool_ofNat]

theorem vseg (d : VecReg) (a : GReg) (fmt : Fin 32) (clu : Bool) : Statement (.vseg d a fmt clu) := by
  intro _ x_ hx_
  obtain ⟨f0, f1, f2, f3, r0, r1, r2⟩ := fields_vseg d.isLt a.isLt fmt.isLt (Bool.toNat_lt clu) (show 8 < 64 by decide) (show 6 < 16 by decide) (Option.some.inj hx_) rfl
  rw [major_decVmem f0]
  simp [decVmem, zeroF, f1, f2, f3, reg_eq r0, reg_eq r1, reg_eq r2, bool_ofNat]

theorem sset (d : StReg) (a : GReg) (b : GReg) : Statement (.sset d a b) := by
  intro _ x_ hx_
  obtain ⟨f0, f1, f2, f3, r0, r1, r2⟩ := fields_sset d.isLt a.isLt b.isLt (show 9 < 64 by decide) (show 0 < 16 by decide) (Option.some.inj hx_) rfl
  rw [major_decStream f0]
  simp [decStream, zeroF, f1, f2, f3, reg_eq r0, reg_eq r1, reg_eq r2]

theorem sld (d : VecReg) (a : StReg) (m : MReg) (e : EW) : Statement (.sld d a m e) := by
  intro _ x_ hx_
  obtain ⟨f0, f1, f2, f3, f4, f5, r0, r1, r2⟩ := fields_sld d.isLt a.isLt m.isLt (EW_code_lt e) (show 9 < 64 by decide) (show 1 < 16 by decide) (Option.some.inj hx_) rfl
  rw [major_decStream f0]
  simp [decStream, codeF, zeroF, f1, f2, f3, f4, f5, reg_eq r0, reg_eq r1, reg_eq r2, EW_ofCode]

theorem sst (d : VecReg) (a : StReg) (m : MReg) (e : EW) : Statement (.sst d a m e) := by
  intro _ x_ hx_
  obtain ⟨f0, f1, f2, f3, f4, f5, r0, r1, r2⟩ := fields_sld d.isLt a.isLt m.isLt (EW_code_lt e) (show 9 < 64 by decide) (show 2 < 16 by decide) (Option.some.inj hx_) rfl
  rw [major_decStream f0]
  simp [decStream, codeF, zeroF, f1, f2, f3, f4, f5, reg_eq r0, reg_eq r1, reg_eq r2, EW_ofCode]

theorem vamoAdd (d : VecReg) (a : GReg) (b : VecReg) (m : MReg) (e : EW) (clu : Bool) : Statement (.vamoAdd d a b m e clu) := by
  intro _ x_ hx_
  obtain ⟨f0, f1, f2, f3, r0, r1, r2, r3⟩ := fields_vlds d.isLt a.isLt b.isLt m.isLt (EW_code_lt e) (Bool.toNat_lt clu) (show 10 < 64 by decide) (show 0 < 16 by decide) (Option.some.inj hx_) rfl
  rw [major_decVamo f0]
  simp [decVamo, codeF, f1, f2, f3, reg_eq r0, reg_eq r1, reg_eq r2, reg_eq r3, EW_ofCode, bool_ofNat]

theorem vamoMin (d : VecReg) (a : GReg) (b : VecReg) (m : MReg) (e : EW) (clu : Bool) : Statement (.vamoMin d a b m e clu) := by
  intro _ x_ hx_
  obtain ⟨f0, f1, f2, f3, r0, r1, r2, r3⟩ := fields_vlds d.isLt a.isLt b.isLt m.isLt (EW_code_lt e) (Bool.toNat_lt clu) (show 10 < 64 by decide) (show 1 < 16 by decide) (Option.some.inj hx_) rfl
  rw [major_decVamo f0]
  simp [decVamo, codeF, f1, f2, f3, reg_eq r0, reg_eq r1, reg_eq r2, reg_eq r3, EW_ofCode, bool_ofNat]

theorem vamoMax (d : VecReg) (a : GReg) (b : VecReg) (m : MReg) (e : EW) (clu : Bool) : Statement (.vamoMax d a b m e clu) := by
  intro _ x_ hx_
  obtain ⟨f0, f1, f2, f3, r0, r1, r2, r3⟩ := fields_vlds d.isLt a.isLt b.isLt m.isLt (EW_code_lt e) (Bool.toNat_lt clu) (show 10 < 64 by decide) (show 2 < 16 by decide) (Option.some.inj hx_) rfl
  rw [major_decVamo f0]
  simp [decVamo, codeF, f1, f2, f3, reg_eq r0, reg_eq r1, reg_eq r2, reg_eq r3, EW_ofCode, bool_ofNat]

theorem vamoMinn (d : VecReg) (a : GReg) (b : VecReg) (m : MReg) (e : EW) (clu : Bool) : Statement (.vamoMinn d a b m e clu) := by
  intro _ x_ hx_
  obtain ⟨f0, f1, f2, f3, r0, r1, r2, r3⟩ := fields_vlds d.isLt a.isLt b.isLt m.isLt (EW_code_lt e) (Bool.toNat_lt clu) (show 10 < 64 by decide) (show 3 < 16 by decide) (Option.some.inj hx_) rfl
  rw [major_decVamo f0]
  simp [decVamo, codeF, f1, f2, f3, reg_eq r0, reg_eq r1, reg_eq r2, reg_eq r3, EW_ofCode, bool_ofNat]

theorem vamoMaxn (d : VecReg) (a : GReg) (b : VecReg) (m : MReg) (e : EW) (clu : Bool) : Statement (.vamoMaxn d a b m e clu) := by
  intro _ x_ hx_
  obtain ⟨f0, f1, f2, f3, r0, r1, r2, r3⟩ := fields_vlds d.isLt a.isLt b.isLt m.isLt (EW_code_lt e) (Bool.toNat_lt clu) (show 10 < 64 by decide) (show 4 < 16 by decide) (Option.some.inj hx_) rfl
  rw [major_decVamo f0]
  simp [decVamo, codeF, f1, f2, f3, reg_eq r0, reg_eq r1, reg_eq r2, reg_eq r3, EW_ofCode, bool_ofNat]

theorem vamoAnd (d : VecReg) (a : GReg) (b : VecReg) (m : MReg) (e : EW) (clu : Bool) : Statement (.vamoAnd d a b m e clu) := by
  intro _ x_ hx_
  obtain ⟨f0, f1, f2, f3, r0, r1, r2, r3⟩ := fields_vlds d.isLt a.isLt b.isLt m.isLt (EW_code_lt e) (Bool.toNat_lt clu) (show 10 < 64 by decide) (show 5 < 16 by decide) (Option.some.inj hx_) rfl
  rw [major_decVamo f0]
  simp [decVamo, codeF, f1, f2, f3, reg_eq r0, reg_eq r1, reg_eq r2, reg_eq r3, EW_ofCode, bool_ofNat]

theorem vamoOr (d : VecReg) (a : GReg) (b : VecReg) (m : MReg) (e : EW) (clu : Bool) : Statement (.vamoOr d a b m e clu) := by
  intro _ x_ hx_
  obtain ⟨f0, f1, f2, f3, r0, r1, r2, r3⟩ := fields_vlds d.isLt a.isLt b.isLt m.isLt (EW_code_lt e) (Bool.toNat_lt clu) (show 10 < 64 by decide) (show 6 < 16 by decide) (Option.some.inj hx_) rfl
  rw [major_decVamo f0]
  simp [decVamo, codeF, f1, f2, f3, reg_eq r0, reg_eq r1, reg_eq r2, reg_eq r3, EW_ofCode, bool_ofNat]

theorem vamoXor (d : VecReg) (a : GReg) (b : VecReg) (m : MReg) (e : EW) (clu : Bool) : Statement (.vamoXor d a b m e clu) := by
  intro _ x_ hx_
  obtain ⟨f0, f1, f2, f3, r0, r1, r2, r3⟩ := fields_vlds d.isLt a.isLt b.isLt m.isLt (EW_code_lt e) (Bool.toNat_lt clu) (show 10 < 64 by decide) (show 7 < 16 by decide) (Option.some.inj hx_) rfl
  rw [major_decVamo f0]
  simp [decVamo, codeF, f1, f2, f3, reg_eq r0, reg_eq r1, reg_eq r2, reg_eq r3, EW_ofCode, bool_ofNat]

theorem vamoFadd (d : VecReg) (a : GReg) (b : VecReg) (m : MReg) (e : FEW) (clu : Bool) : Statement (.vamoFadd d a b m e clu) := by
  intro _ x_ hx_
  obtain ⟨f0, f1, f2, f3, r0, r1, r2, r3⟩ := fields_vlds d.isLt a.isLt b.isLt m.isLt (FEW_code_lt e) (Bool.toNat_lt clu) (show 10 < 64 by decide) (show 8 < 16 by decide) (Option.some.inj hx_) rfl
  rw [major_decVamo f0]
  simp [decVamo, codeF, f1, f2, f3, reg_eq r0, reg_eq r1, reg_eq r2, reg_eq r3, FEW_ofCode, bool_ofNat]

theorem setvl (d : GReg) (a : GReg) (e : EW) : Statement (.setvl d a e) := by
  intro _ x_ hx_
  obtain ⟨f0, f1, f2, f3, r0, r1⟩ := fields_setvl (c := 369098752) d.isLt a.isLt (EW_code_lt e) (show 11 < 64 by decide) (show 0 < 8 by decide) (by cases e <;> exact Option.some.inj hx_) rfl
  rw [major_decVctl f0]
  simp [decVctl, codeF, zeroF, f1, f2, f3, reg_eq r0, reg_eq r1, EW_ofCode]

theorem vloop (d : GReg) (a : GReg) (n : Fin 16) : Statement (.vloop d a n) := by
  intro _ x_ hx_
  obtain ⟨f0, f1, f2, r0, r1, r2⟩ := fields_vloop d.isLt a.isLt n.isLt (show 11 < 64 by decide) (show 1 < 8 by decide) (Option.some.inj hx_) rfl
  rw [major_decVctl f0]
  simp [decVctl, zeroF, f1, f2, reg_eq r0, reg_eq r1, reg_eq r2]

theorem vsync : Statement .vsync := by
  intro _ x_ hx_
  obtain ⟨f0, f1, f2, f3⟩ := fields_vsync  (show 11 < 64 by decide) (show 2 < 8 by decide) (Option.some.inj hx_) rfl
  rw [major_decVctl f0]
  simp [decVctl, zeroF, f1, f2, f3]

theorem hplane (vb : VecReg) (ga : GReg) (fmt : Fin 32) (n : Grp) : Statement (.hplane vb ga fmt n) := by
  intro h_ x_ hx_
  replace h_ : (decide (ga.val % 2 = 0) && decide (vb.val % n.size = 0) && decide (fmt.val < 30)) = true := h_
  simp only [Bool.and_eq_true, decide_eq_true_eq] at h_
  obtain ⟨f0, f1, f2, f3, f4, f5, f6, r0, r1, r2⟩ := fields_hplane vb.isLt ga.isLt fmt.isLt (Grp_code_lt n) (show 12 < 64 by decide) (show 0 < 8 by decide) (Option.some.inj hx_) rfl
  rw [major_decHarpc f0]
  simp [decHarpc, codeF, zeroF, needF, fmtF, f1, f2, f3, f4, f5, f6, reg_eq r0, reg_eq r1, reg_eq r2, Grp_ofCode, h_]

theorem hzero (t : Tile) (ga : GReg) : Statement (.hzero t ga) := by
  intro h_ x_ hx_
  replace h_ : (decide (ga.val % 2 = 0)) = true := h_
  simp only [decide_eq_true_eq] at h_
  obtain ⟨f0, f1, f2, f3, f4, r0, r1⟩ := fields_hzero t.isLt ga.isLt (show 12 < 64 by decide) (show 1 < 8 by decide) (Option.some.inj hx_) rfl
  rw [major_decHarpc f0]
  simp [decHarpc, zeroF, needF, f1, f2, f3, f4, reg_eq r0, reg_eq r1, h_]

theorem hread (t : Tile) (vb : VecReg) (ga : GReg) (fmt : Fin 32) (n : Grp) : Statement (.hread t vb ga fmt n) := by
  intro h_ x_ hx_
  replace h_ : (decide (ga.val % 2 = 0) && decide (vb.val % n.size = 0) && decide (fmt.val < 30)) = true := h_
  simp only [Bool.and_eq_true, decide_eq_true_eq] at h_
  obtain ⟨f0, f1, f2, f3, f4, f5, r0, r1, r2, r3⟩ := fields_hread t.isLt vb.isLt ga.isLt fmt.isLt (Grp_code_lt n) (show 12 < 64 by decide) (show 2 < 8 by decide) (Option.some.inj hx_) rfl
  rw [major_decHarpc f0]
  simp [decHarpc, codeF, needF, fmtF, f1, f2, f3, f4, f5, reg_eq r0, reg_eq r1, reg_eq r2, reg_eq r3, Grp_ofCode, h_]

theorem hwrite (t : Tile) (vb : VecReg) (ga : GReg) (n : Grp) : Statement (.hwrite t vb ga n) := by
  intro h_ x_ hx_
  replace h_ : (decide (ga.val % 2 = 0) && decide (vb.val % n.size = 0)) = true := h_
  simp only [Bool.and_eq_true, decide_eq_true_eq] at h_
  obtain ⟨f0, f1, f2, f3, f4, f5, r0, r1, r2⟩ := fields_hwrite t.isLt vb.isLt ga.isLt (Grp_code_lt n) (show 12 < 64 by decide) (show 3 < 8 by decide) (Option.some.inj hx_) rfl
  rw [major_decHarpc f0]
  simp [decHarpc, codeF, zeroF, needF, f1, f2, f3, f4, f5, reg_eq r0, reg_eq r1, reg_eq r2, Grp_ofCode, h_]

theorem hchk (t : Tile) (ga : GReg) : Statement (.hchk t ga) := by
  intro h_ x_ hx_
  replace h_ : (decide (ga.val % 2 = 0)) = true := h_
  simp only [decide_eq_true_eq] at h_
  obtain ⟨f0, f1, f2, f3, f4, r0, r1⟩ := fields_hzero t.isLt ga.isLt (show 12 < 64 by decide) (show 4 < 8 by decide) (Option.some.inj hx_) rfl
  rw [major_decHarpc f0]
  simp [decHarpc, zeroF, needF, f1, f2, f3, f4, reg_eq r0, reg_eq r1, h_]

theorem hanch (t : Tile) (ga : GReg) : Statement (.hanch t ga) := by
  intro h_ x_ hx_
  replace h_ : (decide (ga.val % 2 = 0)) = true := h_
  simp only [decide_eq_true_eq] at h_
  obtain ⟨f0, f1, f2, f3, f4, r0, r1⟩ := fields_hzero t.isLt ga.isLt (show 12 < 64 by decide) (show 5 < 8 by decide) (Option.some.inj hx_) rfl
  rw [major_decHarpc f0]
  simp [decHarpc, zeroF, needF, f1, f2, f3, f4, reg_eq r0, reg_eq r1, h_]

theorem hmmaAcc (t : Tile) (vb : VecReg) (ga : GReg) (fmt : Fin 32) (n : Grp) : Statement (.hmmaAcc t vb ga fmt n) := by
  intro h_ x_ hx_
  replace h_ : (decide (ga.val % 2 = 0) && decide (vb.val % n.size = 0) && decide (fmt.val < 30)) = true := h_
  simp only [Bool.and_eq_true, decide_eq_true_eq] at h_
  obtain ⟨f0, f1, f2, f3, f4, f5, r0, r1, r2, r3⟩ := fields_hread t.isLt vb.isLt ga.isLt fmt.isLt (Grp_code_lt n) (show 13 < 64 by decide) (show 0 < 8 by decide) (Option.some.inj hx_) rfl
  rw [major_decHmma f0]
  simp [decHmma, codeF, needF, fmtF, f1, f2, f3, f4, f5, reg_eq r0, reg_eq r1, reg_eq r2, reg_eq r3, Grp_ofCode, h_]

theorem hmmaSet (t : Tile) (vb : VecReg) (ga : GReg) (fmt : Fin 32) (n : Grp) : Statement (.hmmaSet t vb ga fmt n) := by
  intro h_ x_ hx_
  replace h_ : (decide (ga.val % 2 = 0) && decide (vb.val % n.size = 0) && decide (fmt.val < 30)) = true := h_
  simp only [Bool.and_eq_true, decide_eq_true_eq] at h_
  obtain ⟨f0, f1, f2, f3, f4, f5, r0, r1, r2, r3⟩ := fields_hread t.isLt vb.isLt ga.isLt fmt.isLt (Grp_code_lt n) (show 13 < 64 by decide) (show 1 < 8 by decide) (Option.some.inj hx_) rfl
  rw [major_decHmma f0]
  simp [decHmma, codeF, needF, fmtF, f1, f2, f3, f4, f5, reg_eq r0, reg_eq r1, reg_eq r2, reg_eq r3, Grp_ofCode, h_]

theorem hmmsAcc (t : Tile) (vb : VecReg) (ga : GReg) (fmt : Fin 32) (n : Grp) : Statement (.hmmsAcc t vb ga fmt n) := by
  intro h_ x_ hx_
  replace h_ : (decide (ga.val % 2 = 0) && decide (vb.val % n.size = 0) && decide (fmt.val < 30)) = true := h_
  simp only [Bool.and_eq_true, decide_eq_true_eq] at h_
  obtain ⟨f0, f1, f2, f3, f4, f5, r0, r1, r2, r3⟩ := fields_hread t.isLt vb.isLt ga.isLt fmt.isLt (Grp_code_lt n) (show 14 < 64 by decide) (show 0 < 8 by decide) (Option.some.inj hx_) rfl
  rw [major_decHmms f0]
  simp [decHmms, codeF, needF, fmtF, f1, f2, f3, f4, f5, reg_eq r0, reg_eq r1, reg_eq r2, reg_eq r3, Grp_ofCode, h_]

theorem hmmsSet (t : Tile) (vb : VecReg) (ga : GReg) (fmt : Fin 32) (n : Grp) : Statement (.hmmsSet t vb ga fmt n) := by
  intro h_ x_ hx_
  replace h_ : (decide (ga.val % 2 = 0) && decide (vb.val % n.size = 0) && decide (fmt.val < 30)) = true := h_
  simp only [Bool.and_eq_true, decide_eq_true_eq] at h_
  obtain ⟨f0, f1, f2, f3, f4, f5, r0, r1, r2, r3⟩ := fields_hread t.isLt vb.isLt ga.isLt fmt.isLt (Grp_code_lt n) (show 14 < 64 by decide) (show 1 < 8 by decide) (Option.some.inj hx_) rfl
  rw [major_decHmms f0]
  simp [decHmms, codeF, needF, fmtF, f1, f2, f3, f4, f5, reg_eq r0, reg_eq r1, reg_eq r2, reg_eq r3, Grp_ofCode, h_]

theorem send (tk : TkReg) (a : GReg) (b : GReg) : Statement (.send tk a b) := by
  intro _ x_ hx_
  obtain ⟨f0, f1, f2, f3, r0, r1, r2⟩ := fields_send tk.isLt a.isLt b.isLt (show 15 < 64 by decide) (show 0 < 8 by decide) (Option.some.inj hx_) rfl
  rw [major_decSend f0]
  simp [decSend, zeroF, f1, f2, f3, reg_eq r0, reg_eq r1, reg_eq r2]

theorem recv (d : GReg) (a : GReg) (b : GReg) : Statement (.recv d a b) := by
  intro _ x_ hx_
  obtain ⟨f0, f1, f2, f3, r0, r1, r2⟩ := fields_recv d.isLt a.isLt b.isLt (show 15 < 64 by decide) (show 1 < 8 by decide) (Option.some.inj hx_) rfl
  rw [major_decSend f0]
  simp [decSend, zeroF, f1, f2, f3, reg_eq r0, reg_eq r1, reg_eq r2]

theorem esend (tk : TkReg) (a : GReg) (b : GReg) : Statement (.esend tk a b) := by
  intro _ x_ hx_
  obtain ⟨f0, f1, f2, f3, r0, r1, r2⟩ := fields_send tk.isLt a.isLt b.isLt (show 15 < 64 by decide) (show 2 < 8 by decide) (Option.some.inj hx_) rfl
  rw [major_decSend f0]
  simp [decSend, zeroF, f1, f2, f3, reg_eq r0, reg_eq r1, reg_eq r2]

theorem erecv (d : GReg) (a : GReg) (b : GReg) : Statement (.erecv d a b) := by
  intro _ x_ hx_
  obtain ⟨f0, f1, f2, f3, r0, r1, r2⟩ := fields_recv d.isLt a.isLt b.isLt (show 15 < 64 by decide) (show 3 < 8 by decide) (Option.some.inj hx_) rfl
  rw [major_decSend f0]
  simp [decSend, zeroF, f1, f2, f3, reg_eq r0, reg_eq r1, reg_eq r2]

theorem stripe (tk : TkReg) (d : GReg) (a : GReg) (b : GReg) (n : Fin 4) : Statement (.stripe tk d a b n) := by
  intro h_ x_ hx_
  replace h_ : (decide (tk.val + n.val ≤ 15)) = true := h_
  simp only [decide_eq_true_eq] at h_
  obtain ⟨f0, f1, f2, f3, f4, r0, r1, r2, r3, r4⟩ := fields_stripe tk.isLt d.isLt a.isLt b.isLt n.isLt (show 15 < 64 by decide) (show 4 < 8 by decide) (Option.some.inj hx_) rfl
  rw [major_decSend f0]
  simp [decSend, zeroF, needF, f1, f2, f3, f4, reg_eq r0, reg_eq r1, reg_eq r2, reg_eq r3, reg_eq r4, h_]

theorem rld (tk : TkReg) (d : GReg) (a : GReg) (sz : LdSize) : Statement (.rld tk d a sz) := by
  intro _ x_ hx_
  obtain ⟨f0, f1, f2, f3, r0, r1, r2⟩ := fields_rld tk.isLt d.isLt a.isLt (LdSize_code_lt sz) (show 16 < 64 by decide) (show 0 < 8 by decide) (Option.some.inj hx_) rfl
  rw [major_decRemote f0]
  simp [decRemote, codeF, zeroF, f1, f2, f3, reg_eq r0, reg_eq r1, reg_eq r2, LdSize_ofCode]

theorem rst (tk : TkReg) (d : GReg) (a : GReg) (sz : StSize) : Statement (.rst tk d a sz) := by
  intro _ x_ hx_
  obtain ⟨f0, f1, f2, f3, r0, r1, r2⟩ := fields_rld tk.isLt d.isLt a.isLt (StSize_code_lt sz) (show 16 < 64 by decide) (show 1 < 8 by decide) (Option.some.inj hx_) rfl
  rw [major_decRemote f0]
  simp [decRemote, codeF, zeroF, f1, f2, f3, reg_eq r0, reg_eq r1, reg_eq r2, StSize_ofCode]

theorem ramoAdd (tk : TkReg) (d : GReg) (a : GReg) (b : GReg) : Statement (.ramoAdd tk d a b) := by
  intro _ x_ hx_
  obtain ⟨f0, f1, f2, r0, r1, r2, r3⟩ := fields_ramoAdd tk.isLt d.isLt a.isLt b.isLt (show 16 < 64 by decide) (show 2 < 8 by decide) (show 0 < 8 by decide) (Option.some.inj hx_) rfl
  rw [major_decRemote f0]
  simp [decRemote, f1, f2, reg_eq r0, reg_eq r1, reg_eq r2, reg_eq r3]

theorem ramoMin (tk : TkReg) (d : GReg) (a : GReg) (b : GReg) : Statement (.ramoMin tk d a b) := by
  intro _ x_ hx_
  obtain ⟨f0, f1, f2, r0, r1, r2, r3⟩ := fields_ramoAdd tk.isLt d.isLt a.isLt b.isLt (show 16 < 64 by decide) (show 2 < 8 by decide) (show 1 < 8 by decide) (Option.some.inj hx_) rfl
  rw [major_decRemote f0]
  simp [decRemote, f1, f2, reg_eq r0, reg_eq r1, reg_eq r2, reg_eq r3]

theorem ramoMax (tk : TkReg) (d : GReg) (a : GReg) (b : GReg) : Statement (.ramoMax tk d a b) := by
  intro _ x_ hx_
  obtain ⟨f0, f1, f2, r0, r1, r2, r3⟩ := fields_ramoAdd tk.isLt d.isLt a.isLt b.isLt (show 16 < 64 by decide) (show 2 < 8 by decide) (show 2 < 8 by decide) (Option.some.inj hx_) rfl
  rw [major_decRemote f0]
  simp [decRemote, f1, f2, reg_eq r0, reg_eq r1, reg_eq r2, reg_eq r3]

theorem ramoMinn (tk : TkReg) (d : GReg) (a : GReg) (b : GReg) : Statement (.ramoMinn tk d a b) := by
  intro _ x_ hx_
  obtain ⟨f0, f1, f2, r0, r1, r2, r3⟩ := fields_ramoAdd tk.isLt d.isLt a.isLt b.isLt (show 16 < 64 by decide) (show 2 < 8 by decide) (show 3 < 8 by decide) (Option.some.inj hx_) rfl
  rw [major_decRemote f0]
  simp [decRemote, f1, f2, reg_eq r0, reg_eq r1, reg_eq r2, reg_eq r3]

theorem ramoMaxn (tk : TkReg) (d : GReg) (a : GReg) (b : GReg) : Statement (.ramoMaxn tk d a b) := by
  intro _ x_ hx_
  obtain ⟨f0, f1, f2, r0, r1, r2, r3⟩ := fields_ramoAdd tk.isLt d.isLt a.isLt b.isLt (show 16 < 64 by decide) (show 2 < 8 by decide) (show 4 < 8 by decide) (Option.some.inj hx_) rfl
  rw [major_decRemote f0]
  simp [decRemote, f1, f2, reg_eq r0, reg_eq r1, reg_eq r2, reg_eq r3]

theorem ramoOr (tk : TkReg) (d : GReg) (a : GReg) (b : GReg) : Statement (.ramoOr tk d a b) := by
  intro _ x_ hx_
  obtain ⟨f0, f1, f2, r0, r1, r2, r3⟩ := fields_ramoAdd tk.isLt d.isLt a.isLt b.isLt (show 16 < 64 by decide) (show 2 < 8 by decide) (show 5 < 8 by decide) (Option.some.inj hx_) rfl
  rw [major_decRemote f0]
  simp [decRemote, f1, f2, reg_eq r0, reg_eq r1, reg_eq r2, reg_eq r3]

theorem ramoSwap (tk : TkReg) (d : GReg) (a : GReg) (b : GReg) : Statement (.ramoSwap tk d a b) := by
  intro _ x_ hx_
  obtain ⟨f0, f1, f2, r0, r1, r2, r3⟩ := fields_ramoAdd tk.isLt d.isLt a.isLt b.isLt (show 16 < 64 by decide) (show 2 < 8 by decide) (show 6 < 8 by decide) (Option.some.inj hx_) rfl
  rw [major_decRemote f0]
  simp [decRemote, f1, f2, reg_eq r0, reg_eq r1, reg_eq r2, reg_eq r3]

theorem ramoCas (tk : TkReg) (d : GReg) (a : GReg) (b : GReg) : Statement (.ramoCas tk d a b) := by
  intro _ x_ hx_
  obtain ⟨f0, f1, f2, r0, r1, r2, r3⟩ := fields_ramoAdd tk.isLt d.isLt a.isLt b.isLt (show 16 < 64 by decide) (show 2 < 8 by decide) (show 7 < 8 by decide) (Option.some.inj hx_) rfl
  rw [major_decRemote f0]
  simp [decRemote, f1, f2, reg_eq r0, reg_eq r1, reg_eq r2, reg_eq r3]

theorem vpush (tk : TkReg) (a : GReg) (vb : VecReg) (n : Grp) : Statement (.vpush tk a vb n) := by
  intro h_ x_ hx_
  replace h_ : (decide (vb.val % n.size = 0)) = true := h_
  simp only [decide_eq_true_eq] at h_
  obtain ⟨f0, f1, f2, f3, f4, r0, r1, r2⟩ := fields_vpush tk.isLt a.isLt vb.isLt (Grp_code_lt n) (show 16 < 64 by decide) (show 3 < 8 by decide) (Option.some.inj hx_) rfl
  rw [major_decRemote f0]
  simp [decRemote, codeF, zeroF, needF, f1, f2, f3, f4, reg_eq r0, reg_eq r1, reg_eq r2, Grp_ofCode, h_]

theorem vpull (d : GReg) (a : GReg) (vb : VecReg) (n : Grp) : Statement (.vpull d a vb n) := by
  intro h_ x_ hx_
  replace h_ : (decide (vb.val % n.size = 0)) = true := h_
  simp only [decide_eq_true_eq] at h_
  obtain ⟨f0, f1, f2, f3, f4, r0, r1, r2⟩ := fields_vpull d.isLt a.isLt vb.isLt (Grp_code_lt n) (show 16 < 64 by decide) (show 4 < 8 by decide) (Option.some.inj hx_) rfl
  rw [major_decRemote f0]
  simp [decRemote, codeF, zeroF, needF, f1, f2, f3, f4, reg_eq r0, reg_eq r1, reg_eq r2, Grp_ofCode, h_]

theorem tknar (tk : TkReg) (d : GReg) (a : GReg) : Statement (.tknar tk d a) := by
  intro _ x_ hx_
  obtain ⟨f0, f1, f2, r0, r1, r2⟩ := fields_tknar tk.isLt d.isLt a.isLt (show 17 < 64 by decide) (show 0 < 8 by decide) (Option.some.inj hx_) rfl
  rw [major_decTicket f0]
  simp [decTicket, zeroF, f1, f2, reg_eq r0, reg_eq r1, reg_eq r2]

theorem tkld (tk : TkReg) (a : GReg) (sp : Space) : Statement (.tkld tk a sp) := by
  intro _ x_ hx_
  obtain ⟨f0, f1, f2, f3, f4, r0, r1⟩ := fields_tkld tk.isLt a.isLt (Space_code_lt sp) (show 17 < 64 by decide) (show 1 < 8 by decide) (Option.some.inj hx_) rfl
  rw [major_decTicket f0]
  simp [decTicket, codeF, zeroF, f1, f2, f3, f4, reg_eq r0, reg_eq r1, Space_ofCode]

theorem tkst (tk : TkReg) (a : GReg) (sp : Space) : Statement (.tkst tk a sp) := by
  intro _ x_ hx_
  obtain ⟨f0, f1, f2, f3, f4, r0, r1⟩ := fields_tkld tk.isLt a.isLt (Space_code_lt sp) (show 17 < 64 by decide) (show 2 < 8 by decide) (Option.some.inj hx_) rfl
  rw [major_decTicket f0]
  simp [decTicket, codeF, zeroF, f1, f2, f3, f4, reg_eq r0, reg_eq r1, Space_ofCode]

theorem tkmov (tk : TkReg) (m : TkReg) : Statement (.tkmov tk m) := by
  intro _ x_ hx_
  obtain ⟨f0, f1, f2, f3, r0, r1⟩ := fields_tkmov tk.isLt m.isLt (show 17 < 64 by decide) (show 3 < 8 by decide) (Option.some.inj hx_) rfl
  rw [major_decTicket f0]
  simp [decTicket, zeroF, f1, f2, f3, reg_eq r0, reg_eq r1]

theorem tkchk (tk : TkReg) (d : GReg) : Statement (.tkchk tk d) := by
  intro _ x_ hx_
  obtain ⟨f0, f1, f2, r0, r1⟩ := fields_tkchk tk.isLt d.isLt (show 17 < 64 by decide) (show 4 < 8 by decide) (Option.some.inj hx_) rfl
  rw [major_decTicket f0]
  simp [decTicket, zeroF, f1, f2, reg_eq r0, reg_eq r1]

theorem drayCopy (tk : TkReg) (d : GReg) (a : GReg) (b : GReg) : Statement (.drayCopy tk d a b) := by
  intro _ x_ hx_
  obtain ⟨f0, f1, f2, r0, r1, r2, r3⟩ := fields_drayCopy tk.isLt d.isLt a.isLt b.isLt (show 18 < 64 by decide) (show 0 < 8 by decide) (Option.some.inj hx_) rfl
  rw [major_decDray f0]
  simp [decDray, zeroF, f1, f2, reg_eq r0, reg_eq r1, reg_eq r2, reg_eq r3]

theorem drayGath (tk : TkReg) (d : GReg) (a : GReg) (b : GReg) : Statement (.drayGath tk d a b) := by
  intro _ x_ hx_
  obtain ⟨f0, f1, f2, r0, r1, r2, r3⟩ := fields_drayCopy tk.isLt d.isLt a.isLt b.isLt (show 18 < 64 by decide) (show 1 < 8 by decide) (Option.some.inj hx_) rfl
  rw [major_decDray f0]
  simp [decDray, zeroF, f1, f2, reg_eq r0, reg_eq r1, reg_eq r2, reg_eq r3]

theorem drayScat (tk : TkReg) (d : GReg) (a : GReg) (b : GReg) : Statement (.drayScat tk d a b) := by
  intro _ x_ hx_
  obtain ⟨f0, f1, f2, r0, r1, r2, r3⟩ := fields_drayCopy tk.isLt d.isLt a.isLt b.isLt (show 18 < 64 by decide) (show 2 < 8 by decide) (Option.some.inj hx_) rfl
  rw [major_decDray f0]
  simp [decDray, zeroF, f1, f2, reg_eq r0, reg_eq r1, reg_eq r2, reg_eq r3]

theorem draySeal (tk : TkReg) (d : GReg) (a : GReg) (b : GReg) : Statement (.draySeal tk d a b) := by
  intro _ x_ hx_
  obtain ⟨f0, f1, f2, r0, r1, r2, r3⟩ := fields_drayCopy tk.isLt d.isLt a.isLt b.isLt (show 18 < 64 by decide) (show 3 < 8 by decide) (Option.some.inj hx_) rfl
  rw [major_decDray f0]
  simp [decDray, zeroF, f1, f2, reg_eq r0, reg_eq r1, reg_eq r2, reg_eq r3]

theorem drayUnseal (tk : TkReg) (d : GReg) (a : GReg) (b : GReg) : Statement (.drayUnseal tk d a b) := by
  intro _ x_ hx_
  obtain ⟨f0, f1, f2, r0, r1, r2, r3⟩ := fields_drayCopy tk.isLt d.isLt a.isLt b.isLt (show 18 < 64 by decide) (show 4 < 8 by decide) (Option.some.inj hx_) rfl
  rw [major_decDray f0]
  simp [decDray, zeroF, f1, f2, reg_eq r0, reg_eq r1, reg_eq r2, reg_eq r3]

theorem drayFill (tk : TkReg) (d : GReg) (a : GReg) (b : GReg) : Statement (.drayFill tk d a b) := by
  intro _ x_ hx_
  obtain ⟨f0, f1, f2, r0, r1, r2, r3⟩ := fields_drayCopy tk.isLt d.isLt a.isLt b.isLt (show 18 < 64 by decide) (show 5 < 8 by decide) (Option.some.inj hx_) rfl
  rw [major_decDray f0]
  simp [decDray, zeroF, f1, f2, reg_eq r0, reg_eq r1, reg_eq r2, reg_eq r3]

theorem dwait (d : GReg) (a : GReg) (b : GReg) : Statement (.dwait d a b) := by
  intro _ x_ hx_
  obtain ⟨f0, f1, f2, f3, r0, r1, r2⟩ := fields_recv d.isLt a.isLt b.isLt (show 19 < 64 by decide) (show 0 < 8 by decide) (Option.some.inj hx_) rfl
  rw [major_decDrayq f0]
  simp [decDrayq, zeroF, f1, f2, f3, reg_eq r0, reg_eq r1, reg_eq r2]

theorem dstat (d : GReg) (a : GReg) : Statement (.dstat d a) := by
  intro _ x_ hx_
  obtain ⟨f0, f1, f2, f3, r0, r1⟩ := fields_dstat d.isLt a.isLt (show 19 < 64 by decide) (show 1 < 8 by decide) (Option.some.inj hx_) rfl
  rw [major_decDrayq f0]
  simp [decDrayq, zeroF, f1, f2, f3, reg_eq r0, reg_eq r1]

theorem dcancel (d : GReg) (a : GReg) : Statement (.dcancel d a) := by
  intro _ x_ hx_
  obtain ⟨f0, f1, f2, f3, r0, r1⟩ := fields_dstat d.isLt a.isLt (show 19 < 64 by decide) (show 2 < 8 by decide) (Option.some.inj hx_) rfl
  rw [major_decDrayq f0]
  simp [decDrayq, zeroF, f1, f2, f3, reg_eq r0, reg_eq r1]

theorem npost (tk : TkReg) (d : GReg) (a : GReg) (b : GReg) : Statement (.npost tk d a b) := by
  intro _ x_ hx_
  obtain ⟨f0, f1, f2, r0, r1, r2, r3⟩ := fields_drayCopy tk.isLt d.isLt a.isLt b.isLt (show 20 < 64 by decide) (show 0 < 8 by decide) (Option.some.inj hx_) rfl
  rw [major_decNet f0]
  simp [decNet, zeroF, f1, f2, reg_eq r0, reg_eq r1, reg_eq r2, reg_eq r3]

theorem npoll (d : GReg) (a : GReg) : Statement (.npoll d a) := by
  intro _ x_ hx_
  obtain ⟨f0, f1, f2, f3, r0, r1⟩ := fields_dstat d.isLt a.isLt (show 20 < 64 by decide) (show 1 < 8 by decide) (Option.some.inj hx_) rfl
  rw [major_decNet f0]
  simp [decNet, zeroF, f1, f2, f3, reg_eq r0, reg_eq r1]

theorem carr (d : GReg) (a : GReg) (b : CnReg) (gd : Guard) : Statement (.carr d a b gd) := by
  intro h_ x_ hx_
  obtain ⟨f0, f1, f2, f3, f4, r0, r1, r2⟩ := fields_carr d.isLt a.isLt b.isLt gd.pr.isLt (Bool.toNat_lt gd.pn) (show 21 < 64 by decide) (show 0 < 64 by decide) (Option.some.inj hx_) rfl
  rw [major_decCount f0]
  simp [decCount, codeF, zeroF, f1, f2, f3, f4, reg_eq r0, reg_eq r1, reg_eq r2, guard_ofBits h_]

theorem cwait (d : GReg) (a : GReg) (b : CnReg) (gd : Guard) : Statement (.cwait d a b gd) := by
  intro h_ x_ hx_
  obtain ⟨f0, f1, f2, f3, f4, r0, r1, r2⟩ := fields_carr d.isLt a.isLt b.isLt gd.pr.isLt (Bool.toNat_lt gd.pn) (show 21 < 64 by decide) (show 1 < 64 by decide) (Option.some.inj hx_) rfl
  rw [major_decCount f0]
  simp [decCount, codeF, zeroF, f1, f2, f3, f4, reg_eq r0, reg_eq r1, reg_eq r2, guard_ofBits h_]

theorem cancel (d : GReg) (a : GReg) (gd : Guard) : Statement (.cancel d a gd) := by
  intro h_ x_ hx_
  obtain ⟨f0, f1, f2, f3, f4, r0, r1⟩ := fields_cancel d.isLt a.isLt gd.pr.isLt (Bool.toNat_lt gd.pn) (show 21 < 64 by decide) (show 2 < 64 by decide) (Option.some.inj hx_) rfl
  rw [major_decCount f0]
  simp [decCount, codeF, zeroF, f1, f2, f3, f4, reg_eq r0, reg_eq r1, guard_ofBits h_]

theorem ckpt (d : GReg) (a : GReg) (b : CnReg) (gd : Guard) : Statement (.ckpt d a b gd) := by
  intro h_ x_ hx_
  obtain ⟨f0, f1, f2, f3, f4, r0, r1, r2⟩ := fields_carr d.isLt a.isLt b.isLt gd.pr.isLt (Bool.toNat_lt gd.pn) (show 21 < 64 by decide) (show 3 < 64 by decide) (Option.some.inj hx_) rfl
  rw [major_decCount f0]
  simp [decCount, codeF, zeroF, f1, f2, f3, f4, reg_eq r0, reg_eq r1, reg_eq r2, guard_ofBits h_]

theorem cset (d : GReg) (a : GReg) (b : CnReg) (gd : Guard) : Statement (.cset d a b gd) := by
  intro h_ x_ hx_
  obtain ⟨f0, f1, f2, f3, f4, r0, r1, r2⟩ := fields_carr d.isLt a.isLt b.isLt gd.pr.isLt (Bool.toNat_lt gd.pn) (show 21 < 64 by decide) (show 4 < 64 by decide) (Option.some.inj hx_) rfl
  rw [major_decCount f0]
  simp [decCount, codeF, zeroF, f1, f2, f3, f4, reg_eq r0, reg_eq r1, reg_eq r2, guard_ofBits h_]

theorem xlatRead (d : GReg) (a : GReg) (b : GReg) : Statement (.xlatRead d a b) := by
  intro _ x_ hx_
  obtain ⟨f0, f1, f2, f3, r0, r1, r2⟩ := fields_xlatRead d.isLt a.isLt b.isLt (show 22 < 64 by decide) (show 0 < 8 by decide) (show 0 < 8 by decide) (Option.some.inj hx_) rfl
  rw [major_decPriv f0]
  simp [decPriv, zeroF, f1, f2, f3, reg_eq r0, reg_eq r1, reg_eq r2]

theorem xlatWrite (d : GReg) (a : GReg) (b : GReg) : Statement (.xlatWrite d a b) := by
  intro _ x_ hx_
  obtain ⟨f0, f1, f2, f3, r0, r1, r2⟩ := fields_xlatRead d.isLt a.isLt b.isLt (show 22 < 64 by decide) (show 0 < 8 by decide) (show 1 < 8 by decide) (Option.some.inj hx_) rfl
  rw [major_decPriv f0]
  simp [decPriv, zeroF, f1, f2, f3, reg_eq r0, reg_eq r1, reg_eq r2]

theorem xlatFetch (d : GReg) (a : GReg) (b : GReg) : Statement (.xlatFetch d a b) := by
  intro _ x_ hx_
  obtain ⟨f0, f1, f2, f3, r0, r1, r2⟩ := fields_xlatRead d.isLt a.isLt b.isLt (show 22 < 64 by decide) (show 0 < 8 by decide) (show 2 < 8 by decide) (Option.some.inj hx_) rfl
  rw [major_decPriv f0]
  simp [decPriv, zeroF, f1, f2, f3, reg_eq r0, reg_eq r1, reg_eq r2]

theorem xlatProbe (d : GReg) (a : GReg) (b : GReg) : Statement (.xlatProbe d a b) := by
  intro _ x_ hx_
  obtain ⟨f0, f1, f2, f3, r0, r1, r2⟩ := fields_xlatRead d.isLt a.isLt b.isLt (show 22 < 64 by decide) (show 0 < 8 by decide) (show 3 < 8 by decide) (Option.some.inj hx_) rfl
  rw [major_decPriv f0]
  simp [decPriv, zeroF, f1, f2, f3, reg_eq r0, reg_eq r1, reg_eq r2]

theorem tlbinvPage (d : GReg) (a : GReg) (b : GReg) : Statement (.tlbinvPage d a b) := by
  intro _ x_ hx_
  obtain ⟨f0, f1, f2, f3, r0, r1, r2⟩ := fields_xlatRead d.isLt a.isLt b.isLt (show 22 < 64 by decide) (show 1 < 8 by decide) (show 0 < 8 by decide) (Option.some.inj hx_) rfl
  rw [major_decPriv f0]
  simp [decPriv, zeroF, f1, f2, f3, reg_eq r0, reg_eq r1, reg_eq r2]

theorem tlbinvVd (d : GReg) (b : GReg) : Statement (.tlbinvVd d b) := by
  intro _ x_ hx_
  obtain ⟨f0, f1, f2, f3, f4, r0, r1⟩ := fields_tlbinvVd d.isLt b.isLt (show 22 < 64 by decide) (show 1 < 8 by decide) (show 1 < 8 by decide) (Option.some.inj hx_) rfl
  rw [major_decPriv f0]
  simp [decPriv, zeroF, f1, f2, f3, f4, reg_eq r0, reg_eq r1]

theorem migset (d : GReg) (a : GReg) (b : GReg) : Statement (.migset d a b) := by
  intro _ x_ hx_
  obtain ⟨f0, f1, f2, f3, r0, r1, r2⟩ := fields_recv d.isLt a.isLt b.isLt (show 22 < 64 by decide) (show 2 < 8 by decide) (Option.some.inj hx_) rfl
  rw [major_decPriv f0]
  simp [decPriv, zeroF, f1, f2, f3, reg_eq r0, reg_eq r1, reg_eq r2]

theorem mint (tk : TkReg) (d : GReg) (a : GReg) (b : GReg) : Statement (.mint tk d a b) := by
  intro _ x_ hx_
  obtain ⟨f0, f1, f2, r0, r1, r2, r3⟩ := fields_drayCopy tk.isLt d.isLt a.isLt b.isLt (show 22 < 64 by decide) (show 3 < 8 by decide) (Option.some.inj hx_) rfl
  rw [major_decPriv f0]
  simp [decPriv, zeroF, f1, f2, reg_eq r0, reg_eq r1, reg_eq r2, reg_eq r3]

theorem revokePort (d : GReg) (a : GReg) : Statement (.revokePort d a) := by
  intro _ x_ hx_
  obtain ⟨f0, f1, f2, f3, f4, r0, r1⟩ := fields_revokePort d.isLt a.isLt (show 22 < 64 by decide) (show 4 < 8 by decide) (show 0 < 8 by decide) (Option.some.inj hx_) rfl
  rw [major_decPriv f0]
  simp [decPriv, zeroF, f1, f2, f3, f4, reg_eq r0, reg_eq r1]

theorem revokeKey (d : GReg) (a : GReg) (b : GReg) : Statement (.revokeKey d a b) := by
  intro _ x_ hx_
  obtain ⟨f0, f1, f2, f3, r0, r1, r2⟩ := fields_xlatRead d.isLt a.isLt b.isLt (show 22 < 64 by decide) (show 4 < 8 by decide) (show 1 < 8 by decide) (Option.some.inj hx_) rfl
  rw [major_decPriv f0]
  simp [decPriv, zeroF, f1, f2, f3, reg_eq r0, reg_eq r1, reg_eq r2]

theorem keysetSet (d : GReg) (a : GReg) (b : GReg) : Statement (.keysetSet d a b) := by
  intro _ x_ hx_
  obtain ⟨f0, f1, f2, f3, r0, r1, r2⟩ := fields_xlatRead d.isLt a.isLt b.isLt (show 22 < 64 by decide) (show 5 < 8 by decide) (show 0 < 8 by decide) (Option.some.inj hx_) rfl
  rw [major_decPriv f0]
  simp [decPriv, zeroF, f1, f2, f3, reg_eq r0, reg_eq r1, reg_eq r2]

theorem keysetWin (d : GReg) (a : GReg) (b : GReg) : Statement (.keysetWin d a b) := by
  intro _ x_ hx_
  obtain ⟨f0, f1, f2, f3, r0, r1, r2⟩ := fields_xlatRead d.isLt a.isLt b.isLt (show 22 < 64 by decide) (show 5 < 8 by decide) (show 1 < 8 by decide) (Option.some.inj hx_) rfl
  rw [major_decPriv f0]
  simp [decPriv, zeroF, f1, f2, f3, reg_eq r0, reg_eq r1, reg_eq r2]

theorem keysetErase (d : GReg) (a : GReg) (b : GReg) : Statement (.keysetErase d a b) := by
  intro _ x_ hx_
  obtain ⟨f0, f1, f2, f3, r0, r1, r2⟩ := fields_xlatRead d.isLt a.isLt b.isLt (show 22 < 64 by decide) (show 5 < 8 by decide) (show 2 < 8 by decide) (Option.some.inj hx_) rfl
  rw [major_decPriv f0]
  simp [decPriv, zeroF, f1, f2, f3, reg_eq r0, reg_eq r1, reg_eq r2]

theorem admitTab (d : GReg) (a : GReg) (b : GReg) : Statement (.admitTab d a b) := by
  intro _ x_ hx_
  obtain ⟨f0, f1, f2, f3, r0, r1, r2⟩ := fields_recv d.isLt a.isLt b.isLt (show 22 < 64 by decide) (show 6 < 8 by decide) (Option.some.inj hx_) rfl
  rw [major_decPriv f0]
  simp [decPriv, zeroF, f1, f2, f3, reg_eq r0, reg_eq r1, reg_eq r2]

theorem add (d : GReg) (a : GReg) (b : GReg) (gd : Guard) (w : Width) : Statement (.add d a b gd w) := by
  intro h_ x_ hx_
  obtain ⟨f0, f1, f2, f3, f4, r0, r1, r2⟩ := fields_add d.isLt a.isLt b.isLt gd.pr.isLt (Bool.toNat_lt gd.pn) (Width_code_lt w) (show 32 < 64 by decide) (show 0 < 16 by decide) (Option.some.inj hx_) rfl
  rw [major_decAlu f0]
  simp [decAlu, codeF, f1, f2, f3, f4, reg_eq r0, reg_eq r1, reg_eq r2, Width_ofCode, guard_ofBits h_]

theorem sub (d : GReg) (a : GReg) (b : GReg) (gd : Guard) (w : Width) : Statement (.sub d a b gd w) := by
  intro h_ x_ hx_
  obtain ⟨f0, f1, f2, f3, f4, r0, r1, r2⟩ := fields_add d.isLt a.isLt b.isLt gd.pr.isLt (Bool.toNat_lt gd.pn) (Width_code_lt w) (show 32 < 64 by decide) (show 1 < 16 by decide) (Option.some.inj hx_) rfl
  rw [major_decAlu f0]
  simp [decAlu, codeF, f1, f2, f3, f4, reg_eq r0, reg_eq r1, reg_eq r2, Width_ofCode, guard_ofBits h_]

theorem and (d : GReg) (a : GReg) (b : GReg) (gd : Guard) (w : Width) : Statement (.and d a b gd w) := by
  intro h_ x_ hx_
  obtain ⟨f0, f1, f2, f3, f4, r0, r1, r2⟩ := fields_add d.isLt a.isLt b.isLt gd.pr.isLt (Bool.toNat_lt gd.pn) (Width_code_lt w) (show 32 < 64 by decide) (show 2 < 16 by decide) (Option.some.inj hx_) rfl
  rw [major_decAlu f0]
  simp [decAlu, codeF, f1, f2, f3, f4, reg_eq r0, reg_eq r1, reg_eq r2, Width_ofCode, guard_ofBits h_]

theorem or (d : GReg) (a : GReg) (b : GReg) (gd : Guard) (w : Width) : Statement (.or d a b gd w) := by
  intro h_ x_ hx_
  obtain ⟨f0, f1, f2, f3, f4, r0, r1, r2⟩ := fields_add d.isLt a.isLt b.isLt gd.pr.isLt (Bool.toNat_lt gd.pn) (Width_code_lt w) (show 32 < 64 by decide) (show 3 < 16 by decide) (Option.some.inj hx_) rfl
  rw [major_decAlu f0]
  simp [decAlu, codeF, f1, f2, f3, f4, reg_eq r0, reg_eq r1, reg_eq r2, Width_ofCode, guard_ofBits h_]

theorem xor (d : GReg) (a : GReg) (b : GReg) (gd : Guard) (w : Width) : Statement (.xor d a b gd w) := by
  intro h_ x_ hx_
  obtain ⟨f0, f1, f2, f3, f4, r0, r1, r2⟩ := fields_add d.isLt a.isLt b.isLt gd.pr.isLt (Bool.toNat_lt gd.pn) (Width_code_lt w) (show 32 < 64 by decide) (show 4 < 16 by decide) (Option.some.inj hx_) rfl
  rw [major_decAlu f0]
  simp [decAlu, codeF, f1, f2, f3, f4, reg_eq r0, reg_eq r1, reg_eq r2, Width_ofCode, guard_ofBits h_]

theorem shl (d : GReg) (a : GReg) (b : GReg) (gd : Guard) (w : Width) : Statement (.shl d a b gd w) := by
  intro h_ x_ hx_
  obtain ⟨f0, f1, f2, f3, f4, r0, r1, r2⟩ := fields_add d.isLt a.isLt b.isLt gd.pr.isLt (Bool.toNat_lt gd.pn) (Width_code_lt w) (show 32 < 64 by decide) (show 5 < 16 by decide) (Option.some.inj hx_) rfl
  rw [major_decAlu f0]
  simp [decAlu, codeF, f1, f2, f3, f4, reg_eq r0, reg_eq r1, reg_eq r2, Width_ofCode, guard_ofBits h_]

theorem shr (d : GReg) (a : GReg) (b : GReg) (gd : Guard) (w : Width) : Statement (.shr d a b gd w) := by
  intro h_ x_ hx_
  obtain ⟨f0, f1, f2, f3, f4, r0, r1, r2⟩ := fields_add d.isLt a.isLt b.isLt gd.pr.isLt (Bool.toNat_lt gd.pn) (Width_code_lt w) (show 32 < 64 by decide) (show 6 < 16 by decide) (Option.some.inj hx_) rfl
  rw [major_decAlu f0]
  simp [decAlu, codeF, f1, f2, f3, f4, reg_eq r0, reg_eq r1, reg_eq r2, Width_ofCode, guard_ofBits h_]

theorem sar (d : GReg) (a : GReg) (b : GReg) (gd : Guard) (w : Width) : Statement (.sar d a b gd w) := by
  intro h_ x_ hx_
  obtain ⟨f0, f1, f2, f3, f4, r0, r1, r2⟩ := fields_add d.isLt a.isLt b.isLt gd.pr.isLt (Bool.toNat_lt gd.pn) (Width_code_lt w) (show 32 < 64 by decide) (show 7 < 16 by decide) (Option.some.inj hx_) rfl
  rw [major_decAlu f0]
  simp [decAlu, codeF, f1, f2, f3, f4, reg_eq r0, reg_eq r1, reg_eq r2, Width_ofCode, guard_ofBits h_]

theorem min (d : GReg) (a : GReg) (b : GReg) (gd : Guard) (w : Width) : Statement (.min d a b gd w) := by
  intro h_ x_ hx_
  obtain ⟨f0, f1, f2, f3, f4, r0, r1, r2⟩ := fields_add d.isLt a.isLt b.isLt gd.pr.isLt (Bool.toNat_lt gd.pn) (Width_code_lt w) (show 32 < 64 by decide) (show 8 < 16 by decide) (Option.some.inj hx_) rfl
  rw [major_decAlu f0]
  simp [decAlu, codeF, f1, f2, f3, f4, reg_eq r0, reg_eq r1, reg_eq r2, Width_ofCode, guard_ofBits h_]

theorem max (d : GReg) (a : GReg) (b : GReg) (gd : Guard) (w : Width) : Statement (.max d a b gd w) := by
  intro h_ x_ hx_
  obtain ⟨f0, f1, f2, f3, f4, r0, r1, r2⟩ := fields_add d.isLt a.isLt b.isLt gd.pr.isLt (Bool.toNat_lt gd.pn) (Width_code_lt w) (show 32 < 64 by decide) (show 9 < 16 by decide) (Option.some.inj hx_) rfl
  rw [major_decAlu f0]
  simp [decAlu, codeF, f1, f2, f3, f4, reg_eq r0, reg_eq r1, reg_eq r2, Width_ofCode, guard_ofBits h_]

theorem minn (d : GReg) (a : GReg) (b : GReg) (gd : Guard) (w : Width) : Statement (.minn d a b gd w) := by
  intro h_ x_ hx_
  obtain ⟨f0, f1, f2, f3, f4, r0, r1, r2⟩ := fields_add d.isLt a.isLt b.isLt gd.pr.isLt (Bool.toNat_lt gd.pn) (Width_code_lt w) (show 32 < 64 by decide) (show 10 < 16 by decide) (Option.some.inj hx_) rfl
  rw [major_decAlu f0]
  simp [decAlu, codeF, f1, f2, f3, f4, reg_eq r0, reg_eq r1, reg_eq r2, Width_ofCode, guard_ofBits h_]

theorem maxn (d : GReg) (a : GReg) (b : GReg) (gd : Guard) (w : Width) : Statement (.maxn d a b gd w) := by
  intro h_ x_ hx_
  obtain ⟨f0, f1, f2, f3, f4, r0, r1, r2⟩ := fields_add d.isLt a.isLt b.isLt gd.pr.isLt (Bool.toNat_lt gd.pn) (Width_code_lt w) (show 32 < 64 by decide) (show 11 < 16 by decide) (Option.some.inj hx_) rfl
  rw [major_decAlu f0]
  simp [decAlu, codeF, f1, f2, f3, f4, reg_eq r0, reg_eq r1, reg_eq r2, Width_ofCode, guard_ofBits h_]

theorem sel (d : GReg) (a : GReg) (b : GReg) (pr : PReg) (pn : Bool) : Statement (.sel d a b pr pn) := by
  intro _ x_ hx_
  obtain ⟨f0, f1, f2, f3, r0, r1, r2, r3⟩ := fields_sel d.isLt a.isLt b.isLt pr.isLt (Bool.toNat_lt pn) (show 32 < 64 by decide) (show 12 < 16 by decide) (Option.some.inj hx_) rfl
  rw [major_decAlu f0]
  simp [decAlu, zeroF, f1, f2, f3, reg_eq r0, reg_eq r1, reg_eq r2, reg_eq r3, bool_ofNat]

theorem clz (d : GReg) (a : GReg) (gd : Guard) (w : Width) : Statement (.clz d a gd w) := by
  intro h_ x_ hx_
  obtain ⟨f0, f1, f2, f3, f4, f5, r0, r1⟩ := fields_clz d.isLt a.isLt gd.pr.isLt (Bool.toNat_lt gd.pn) (Width_code_lt w) (show 32 < 64 by decide) (show 13 < 16 by decide) (Option.some.inj hx_) rfl
  rw [major_decAlu f0]
  simp [decAlu, codeF, zeroF, f1, f2, f3, f4, f5, reg_eq r0, reg_eq r1, Width_ofCode, guard_ofBits h_]

theorem popc (d : GReg) (a : GReg) (gd : Guard) (w : Width) : Statement (.popc d a gd w) := by
  intro h_ x_ hx_
  obtain ⟨f0, f1, f2, f3, f4, f5, r0, r1⟩ := fields_clz d.isLt a.isLt gd.pr.isLt (Bool.toNat_lt gd.pn) (Width_code_lt w) (show 32 < 64 by decide) (show 14 < 16 by decide) (Option.some.inj hx_) rfl
  rw [major_decAlu f0]
  simp [decAlu, codeF, zeroF, f1, f2, f3, f4, f5, reg_eq r0, reg_eq r1, Width_ofCode, guard_ofBits h_]

theorem addi (d : GReg) (a : GReg) (imm : Fin 4096) : Statement (.addi d a imm) := by
  intro _ x_ hx_
  obtain ⟨f0, f1, r0, r1, r2⟩ := fields_addi d.isLt a.isLt imm.isLt (show 33 < 64 by decide) (show 0 < 8 by decide) (Option.some.inj hx_) rfl
  rw [major_decAlui f0]
  simp [decAlui, f1, reg_eq r0, reg_eq r1, reg_eq r2]

theorem andi (d : GReg) (a : GReg) (imm : Fin 4096) : Statement (.andi d a imm) := by
  intro _ x_ hx_
  obtain ⟨f0, f1, r0, r1, r2⟩ := fields_addi d.isLt a.isLt imm.isLt (show 33 < 64 by decide) (show 1 < 8 by decide) (Option.some.inj hx_) rfl
  rw [major_decAlui f0]
  simp [decAlui, f1, reg_eq r0, reg_eq r1, reg_eq r2]

theorem ori (d : GReg) (a : GReg) (imm : Fin 4096) : Statement (.ori d a imm) := by
  intro _ x_ hx_
  obtain ⟨f0, f1, r0, r1, r2⟩ := fields_addi d.isLt a.isLt imm.isLt (show 33 < 64 by decide) (show 2 < 8 by decide) (Option.some.inj hx_) rfl
  rw [major_decAlui f0]
  simp [decAlui, f1, reg_eq r0, reg_eq r1, reg_eq r2]

theorem xori (d : GReg) (a : GReg) (imm : Fin 4096) : Statement (.xori d a imm) := by
  intro _ x_ hx_
  obtain ⟨f0, f1, r0, r1, r2⟩ := fields_addi d.isLt a.isLt imm.isLt (show 33 < 64 by decide) (show 3 < 8 by decide) (Option.some.inj hx_) rfl
  rw [major_decAlui f0]
  simp [decAlui, f1, reg_eq r0, reg_eq r1, reg_eq r2]

theorem shli (d : GReg) (a : GReg) (cnt : Fin 64) : Statement (.shli d a cnt) := by
  intro _ x_ hx_
  obtain ⟨f0, f1, f2, r0, r1, r2⟩ := fields_shli d.isLt a.isLt cnt.isLt (show 33 < 64 by decide) (show 4 < 8 by decide) (Option.some.inj hx_) rfl
  rw [major_decAlui f0]
  simp [decAlui, zeroF, f1, f2, reg_eq r0, reg_eq r1, reg_eq r2]

theorem shri (d : GReg) (a : GReg) (cnt : Fin 64) : Statement (.shri d a cnt) := by
  intro _ x_ hx_
  obtain ⟨f0, f1, f2, r0, r1, r2⟩ := fields_shli d.isLt a.isLt cnt.isLt (show 33 < 64 by decide) (show 5 < 8 by decide) (Option.some.inj hx_) rfl
  rw [major_decAlui f0]
  simp [decAlui, zeroF, f1, f2, reg_eq r0, reg_eq r1, reg_eq r2]

theorem sari (d : GReg) (a : GReg) (cnt : Fin 64) : Statement (.sari d a cnt) := by
  intro _ x_ hx_
  obtain ⟨f0, f1, f2, r0, r1, r2⟩ := fields_shli d.isLt a.isLt cnt.isLt (show 33 < 64 by decide) (show 6 < 8 by decide) (Option.some.inj hx_) rfl
  rw [major_decAlui f0]
  simp [decAlui, zeroF, f1, f2, reg_eq r0, reg_eq r1, reg_eq r2]

theorem li (d : GReg) (imm : Fin 1048576) : Statement (.li d imm) := by
  intro _ x_ hx_
  obtain ⟨f0, r0, r1⟩ := fields_li d.isLt imm.isLt (show 34 < 64 by decide) (Option.some.inj hx_) rfl
  rw [major_decLi f0]
  simp [decLi, reg_eq r0, reg_eq r1]

theorem lih (d : GReg) (imm : Fin 1048576) : Statement (.lih d imm) := by
  intro _ x_ hx_
  obtain ⟨f0, r0, r1⟩ := fields_li d.isLt imm.isLt (show 35 < 64 by decide) (Option.some.inj hx_) rfl
  rw [major_decLih f0]
  simp [decLih, reg_eq r0, reg_eq r1]

theorem mul (d : GReg) (a : GReg) (b : GReg) (gd : Guard) (w : Width) : Statement (.mul d a b gd w) := by
  intro h_ x_ hx_
  obtain ⟨f0, f1, f2, f3, f4, r0, r1, r2⟩ := fields_add d.isLt a.isLt b.isLt gd.pr.isLt (Bool.toNat_lt gd.pn) (Width_code_lt w) (show 36 < 64 by decide) (show 0 < 16 by decide) (Option.some.inj hx_) rfl
  rw [major_decMul f0]
  simp [decMul, codeF, f1, f2, f3, f4, reg_eq r0, reg_eq r1, reg_eq r2, Width_ofCode, guard_ofBits h_]

theorem mulh (d : GReg) (a : GReg) (b : GReg) (gd : Guard) (w : Width) : Statement (.mulh d a b gd w) := by
  intro h_ x_ hx_
  obtain ⟨f0, f1, f2, f3, f4, r0, r1, r2⟩ := fields_add d.isLt a.isLt b.isLt gd.pr.isLt (Bool.toNat_lt gd.pn) (Width_code_lt w) (show 36 < 64 by decide) (show 1 < 16 by decide) (Option.some.inj hx_) rfl
  rw [major_decMul f0]
  simp [decMul, codeF, f1, f2, f3, f4, reg_eq r0, reg_eq r1, reg_eq r2, Width_ofCode, guard_ofBits h_]

theorem mulhn (d : GReg) (a : GReg) (b : GReg) (gd : Guard) (w : Width) : Statement (.mulhn d a b gd w) := by
  intro h_ x_ hx_
  obtain ⟨f0, f1, f2, f3, f4, r0, r1, r2⟩ := fields_add d.isLt a.isLt b.isLt gd.pr.isLt (Bool.toNat_lt gd.pn) (Width_code_lt w) (show 36 < 64 by decide) (show 2 < 16 by decide) (Option.some.inj hx_) rfl
  rw [major_decMul f0]
  simp [decMul, codeF, f1, f2, f3, f4, reg_eq r0, reg_eq r1, reg_eq r2, Width_ofCode, guard_ofBits h_]

theorem div (d : GReg) (a : GReg) (b : GReg) (gd : Guard) (w : Width) : Statement (.div d a b gd w) := by
  intro h_ x_ hx_
  obtain ⟨f0, f1, f2, f3, f4, r0, r1, r2⟩ := fields_add d.isLt a.isLt b.isLt gd.pr.isLt (Bool.toNat_lt gd.pn) (Width_code_lt w) (show 36 < 64 by decide) (show 3 < 16 by decide) (Option.some.inj hx_) rfl
  rw [major_decMul f0]
  simp [decMul, codeF, f1, f2, f3, f4, reg_eq r0, reg_eq r1, reg_eq r2, Width_ofCode, guard_ofBits h_]

theorem divn (d : GReg) (a : GReg) (b : GReg) (gd : Guard) (w : Width) : Statement (.divn d a b gd w) := by
  intro h_ x_ hx_
  obtain ⟨f0, f1, f2, f3, f4, r0, r1, r2⟩ := fields_add d.isLt a.isLt b.isLt gd.pr.isLt (Bool.toNat_lt gd.pn) (Width_code_lt w) (show 36 < 64 by decide) (show 4 < 16 by decide) (Option.some.inj hx_) rfl
  rw [major_decMul f0]
  simp [decMul, codeF, f1, f2, f3, f4, reg_eq r0, reg_eq r1, reg_eq r2, Width_ofCode, guard_ofBits h_]

theorem rem (d : GReg) (a : GReg) (b : GReg) (gd : Guard) (w : Width) : Statement (.rem d a b gd w) := by
  intro h_ x_ hx_
  obtain ⟨f0, f1, f2, f3, f4, r0, r1, r2⟩ := fields_add d.isLt a.isLt b.isLt gd.pr.isLt (Bool.toNat_lt gd.pn) (Width_code_lt w) (show 36 < 64 by decide) (show 5 < 16 by decide) (Option.some.inj hx_) rfl
  rw [major_decMul f0]
  simp [decMul, codeF, f1, f2, f3, f4, reg_eq r0, reg_eq r1, reg_eq r2, Width_ofCode, guard_ofBits h_]

theorem remn (d : GReg) (a : GReg) (b : GReg) (gd : Guard) (w : Width) : Statement (.remn d a b gd w) := by
  intro h_ x_ hx_
  obtain ⟨f0, f1, f2, f3, f4, r0, r1, r2⟩ := fields_add d.isLt a.isLt b.isLt gd.pr.isLt (Bool.toNat_lt gd.pn) (Width_code_lt w) (show 36 < 64 by decide) (show 6 < 16 by decide) (Option.some.inj hx_) rfl
  rw [major_decMul f0]
  simp [decMul, codeF, f1, f2, f3, f4, reg_eq r0, reg_eq r1, reg_eq r2, Width_ofCode, guard_ofBits h_]

theorem cmpEq (d : PReg) (a : GReg) (b : GReg) (gd : Guard) (w : Width) : Statement (.cmpEq d a b gd w) := by
  intro h_ x_ hx_
  obtain ⟨f0, f1, f2, f3, f4, f5, r0, r1, r2⟩ := fields_cmpEq d.isLt a.isLt b.isLt gd.pr.isLt (Bool.toNat_lt gd.pn) (Width_code_lt w) (show 37 < 64 by decide) (show 0 < 16 by decide) (Option.some.inj hx_) rfl
  rw [major_decCmp f0]
  simp [decCmp, codeF, zeroF, f1, f2, f3, f4, f5, reg_eq r0, reg_eq r1, reg_eq r2, Width_ofCode, guard_ofBits h_]

theorem cmpNe (d : PReg) (a : GReg) (b : GReg) (gd : Guard) (w : Width) : Statement (.cmpNe d a b gd w) := by
  intro h_ x_ hx_
  obtain ⟨f0, f1, f2, f3, f4, f5, r0, r1, r2⟩ := fields_cmpEq d.isLt a.isLt b.isLt gd.pr.isLt (Bool.toNat_lt gd.pn) (Width_code_lt w) (show 37 < 64 by decide) (show 1 < 16 by decide) (Option.some.inj hx_) rfl
  rw [major_decCmp f0]
  simp [decCmp, codeF, zeroF, f1, f2, f3, f4, f5, reg_eq r0, reg_eq r1, reg_eq r2, Width_ofCode, guard_ofBits h_]

theorem cmpLt (d : PReg) (a : GReg) (b : GReg) (gd : Guard) (w : Width) : Statement (.cmpLt d a b gd w) := by
  intro h_ x_ hx_
  obtain ⟨f0, f1, f2, f3, f4, f5, r0, r1, r2⟩ := fields_cmpEq d.isLt a.isLt b.isLt gd.pr.isLt (Bool.toNat_lt gd.pn) (Width_code_lt w) (show 37 < 64 by decide) (show 2 < 16 by decide) (Option.some.inj hx_) rfl
  rw [major_decCmp f0]
  simp [decCmp, codeF, zeroF, f1, f2, f3, f4, f5, reg_eq r0, reg_eq r1, reg_eq r2, Width_ofCode, guard_ofBits h_]

theorem cmpGe (d : PReg) (a : GReg) (b : GReg) (gd : Guard) (w : Width) : Statement (.cmpGe d a b gd w) := by
  intro h_ x_ hx_
  obtain ⟨f0, f1, f2, f3, f4, f5, r0, r1, r2⟩ := fields_cmpEq d.isLt a.isLt b.isLt gd.pr.isLt (Bool.toNat_lt gd.pn) (Width_code_lt w) (show 37 < 64 by decide) (show 3 < 16 by decide) (Option.some.inj hx_) rfl
  rw [major_decCmp f0]
  simp [decCmp, codeF, zeroF, f1, f2, f3, f4, f5, reg_eq r0, reg_eq r1, reg_eq r2, Width_ofCode, guard_ofBits h_]

theorem cmpLtn (d : PReg) (a : GReg) (b : GReg) (gd : Guard) (w : Width) : Statement (.cmpLtn d a b gd w) := by
  intro h_ x_ hx_
  obtain ⟨f0, f1, f2, f3, f4, f5, r0, r1, r2⟩ := fields_cmpEq d.isLt a.isLt b.isLt gd.pr.isLt (Bool.toNat_lt gd.pn) (Width_code_lt w) (show 37 < 64 by decide) (show 4 < 16 by decide) (Option.some.inj hx_) rfl
  rw [major_decCmp f0]
  simp [decCmp, codeF, zeroF, f1, f2, f3, f4, f5, reg_eq r0, reg_eq r1, reg_eq r2, Width_ofCode, guard_ofBits h_]

theorem cmpGen (d : PReg) (a : GReg) (b : GReg) (gd : Guard) (w : Width) : Statement (.cmpGen d a b gd w) := by
  intro h_ x_ hx_
  obtain ⟨f0, f1, f2, f3, f4, f5, r0, r1, r2⟩ := fields_cmpEq d.isLt a.isLt b.isLt gd.pr.isLt (Bool.toNat_lt gd.pn) (Width_code_lt w) (show 37 < 64 by decide) (show 5 < 16 by decide) (Option.some.inj hx_) rfl
  rw [major_decCmp f0]
  simp [decCmp, codeF, zeroF, f1, f2, f3, f4, f5, reg_eq r0, reg_eq r1, reg_eq r2, Width_ofCode, guard_ofBits h_]

theorem plogAnd (d : PReg) (a : PReg) (b : PReg) (gd : Guard) : Statement (.plogAnd d a b gd) := by
  intro h_ x_ hx_
  obtain ⟨f0, f1, f2, f3, f4, f5, f6, r0, r1, r2⟩ := fields_plogAnd d.isLt a.isLt b.isLt gd.pr.isLt (Bool.toNat_lt gd.pn) (show 38 < 64 by decide) (show 0 < 64 by decide) (Option.some.inj hx_) rfl
  rw [major_decPlog f0]
  simp [decPlog, codeF, zeroF, f1, f2, f3, f4, f5, f6, reg_eq r0, reg_eq r1, reg_eq r2, guard_ofBits h_]

theorem plogOr (d : PReg) (a : PReg) (b : PReg) (gd : Guard) : Statement (.plogOr d a b gd) := by
  intro h_ x_ hx_
  obtain ⟨f0, f1, f2, f3, f4, f5, f6, r0, r1, r2⟩ := fields_plogAnd d.isLt a.isLt b.isLt gd.pr.isLt (Bool.toNat_lt gd.pn) (show 38 < 64 by decide) (show 1 < 64 by decide) (Option.some.inj hx_) rfl
  rw [major_decPlog f0]
  simp [decPlog, codeF, zeroF, f1, f2, f3, f4, f5, f6, reg_eq r0, reg_eq r1, reg_eq r2, guard_ofBits h_]

theorem plogXor (d : PReg) (a : PReg) (b : PReg) (gd : Guard) : Statement (.plogXor d a b gd) := by
  intro h_ x_ hx_
  obtain ⟨f0, f1, f2, f3, f4, f5, f6, r0, r1, r2⟩ := fields_plogAnd d.isLt a.isLt b.isLt gd.pr.isLt (Bool.toNat_lt gd.pn) (show 38 < 64 by decide) (show 2 < 64 by decide) (Option.some.inj hx_) rfl
  rw [major_decPlog f0]
  simp [decPlog, codeF, zeroF, f1, f2, f3, f4, f5, f6, reg_eq r0, reg_eq r1, reg_eq r2, guard_ofBits h_]

theorem plogAndn (d : PReg) (a : PReg) (b : PReg) (gd : Guard) : Statement (.plogAndn d a b gd) := by
  intro h_ x_ hx_
  obtain ⟨f0, f1, f2, f3, f4, f5, f6, r0, r1, r2⟩ := fields_plogAnd d.isLt a.isLt b.isLt gd.pr.isLt (Bool.toNat_lt gd.pn) (show 38 < 64 by decide) (show 3 < 64 by decide) (Option.some.inj hx_) rfl
  rw [major_decPlog f0]
  simp [decPlog, codeF, zeroF, f1, f2, f3, f4, f5, f6, reg_eq r0, reg_eq r1, reg_eq r2, guard_ofBits h_]

theorem bfx (d : GReg) (a : GReg) (len1 : Fin 64) (pos : Fin 64) : Statement (.bfx d a len1 pos) := by
  intro h_ x_ hx_
  replace h_ : (decide (pos.val + len1.val + 1 ≤ 64)) = true := h_
  simp only [decide_eq_true_eq] at h_
  obtain ⟨f0, f1, f2, f3, r0, r1, r2, r3⟩ := fields_bfx d.isLt a.isLt len1.isLt pos.isLt (show 39 < 64 by decide) (show 0 < 8 by decide) (Option.some.inj hx_) rfl
  rw [major_decBit f0]
  simp [decBit, needF, f1, f2, f3, reg_eq r0, reg_eq r1, reg_eq r2, reg_eq r3, h_]

theorem bfxs (d : GReg) (a : GReg) (len1 : Fin 64) (pos : Fin 64) : Statement (.bfxs d a len1 pos) := by
  intro h_ x_ hx_
  replace h_ : (decide (pos.val + len1.val + 1 ≤ 64)) = true := h_
  simp only [decide_eq_true_eq] at h_
  obtain ⟨f0, f1, f2, f3, r0, r1, r2, r3⟩ := fields_bfx d.isLt a.isLt len1.isLt pos.isLt (show 39 < 64 by decide) (show 1 < 8 by decide) (Option.some.inj hx_) rfl
  rw [major_decBit f0]
  simp [decBit, needF, f1, f2, f3, reg_eq r0, reg_eq r1, reg_eq r2, reg_eq r3, h_]

theorem bfi (d : GReg) (a : GReg) (len1 : Fin 64) (pos : Fin 64) : Statement (.bfi d a len1 pos) := by
  intro h_ x_ hx_
  replace h_ : (decide (pos.val + len1.val + 1 ≤ 64)) = true := h_
  simp only [decide_eq_true_eq] at h_
  obtain ⟨f0, f1, f2, f3, r0, r1, r2, r3⟩ := fields_bfx d.isLt a.isLt len1.isLt pos.isLt (show 39 < 64 by decide) (show 2 < 8 by decide) (Option.some.inj hx_) rfl
  rw [major_decBit f0]
  simp [decBit, needF, f1, f2, f3, reg_eq r0, reg_eq r1, reg_eq r2, reg_eq r3, h_]

theorem vadd (d : VecReg) (a : VecReg) (b : VecReg) (m : MReg) (e : EW) : Statement (.vadd d a b m e) := by
  intro _ x_ hx_
  obtain ⟨f0, f1, f2, r0, r1, r2, r3⟩ := fields_vadd d.isLt a.isLt b.isLt m.isLt (EW_code_lt e) (show 40 < 64 by decide) (show 0 < 32 by decide) (Option.some.inj hx_) rfl
  rw [major_decValu f0]
  simp [decValu, codeF, f1, f2, reg_eq r0, reg_eq r1, reg_eq r2, reg_eq r3, EW_ofCode]

theorem vsub (d : VecReg) (a : VecReg) (b : VecReg) (m : MReg) (e : EW) : Statement (.vsub d a b m e) := by
  intro _ x_ hx_
  obtain ⟨f0, f1, f2, r0, r1, r2, r3⟩ := fields_vadd d.isLt a.isLt b.isLt m.isLt (EW_code_lt e) (show 40 < 64 by decide) (show 1 < 32 by decide) (Option.some.inj hx_) rfl
  rw [major_decValu f0]
  simp [decValu, codeF, f1, f2, reg_eq r0, reg_eq r1, reg_eq r2, reg_eq r3, EW_ofCode]

theorem vmul (d : VecReg) (a : VecReg) (b : VecReg) (m : MReg) (e : EW) : Statement (.vmul d a b m e) := by
  intro _ x_ hx_
  obtain ⟨f0, f1, f2, r0, r1, r2, r3⟩ := fields_vadd d.isLt a.isLt b.isLt m.isLt (EW_code_lt e) (show 40 < 64 by decide) (show 2 < 32 by decide) (Option.some.inj hx_) rfl
  rw [major_decValu f0]
  simp [decValu, codeF, f1, f2, reg_eq r0, reg_eq r1, reg_eq r2, reg_eq r3, EW_ofCode]

theorem vmulh (d : VecReg) (a : VecReg) (b : VecReg) (m : MReg) (e : EW) : Statement (.vmulh d a b m e) := by
  intro _ x_ hx_
  obtain ⟨f0, f1, f2, r0, r1, r2, r3⟩ := fields_vadd d.isLt a.isLt b.isLt m.isLt (EW_code_lt e) (show 40 < 64 by decide) (show 3 < 32 by decide) (Option.some.inj hx_) rfl
  rw [major_decValu f0]
  simp [decValu, codeF, f1, f2, reg_eq r0, reg_eq r1, reg_eq r2, reg_eq r3, EW_ofCode]

theorem vmin (d : VecReg) (a : VecReg) (b : VecReg) (m : MReg) (e : EW) : Statement (.vmin d a b m e) := by
  intro _ x_ hx_
  obtain ⟨f0, f1, f2, r0, r1, r2, r3⟩ := fields_vadd d.isLt a.isLt b.isLt m.isLt (EW_code_lt e) (show 40 < 64 by decide) (show 4 < 32 by decide) (Option.some.inj hx_) rfl
  rw [major_decValu f0]
  simp [decValu, codeF, f1, f2, reg_eq r0, reg_eq r1, reg_eq r2, reg_eq r3, EW_ofCode]

theorem vmax (d : VecReg) (a : VecReg) (b : VecReg) (m : MReg) (e : EW) : Statement (.vmax d a b m e) := by
  intro _ x_ hx_
  obtain ⟨f0, f1, f2, r0, r1, r2, r3⟩ := fields_vadd d.isLt a.isLt b.isLt m.isLt (EW_code_lt e) (show 40 < 64 by decide) (show 5 < 32 by decide) (Option.some.inj hx_) rfl
  rw [major_decValu f0]
  simp [decValu, codeF, f1, f2, reg_eq r0, reg_eq r1, reg_eq r2, reg_eq r3, EW_ofCode]

theorem vminn (d : VecReg) (a : VecReg) (b : VecReg) (m : MReg) (e : EW) : Statement (.vminn d a b m e) := by
  intro _ x_ hx_
  obtain ⟨f0, f1, f2, r0, r1, r2, r3⟩ := fields_vadd d.isLt a.isLt b.isLt m.isLt (EW_code_lt e) (show 40 < 64 by decide) (show 6 < 32 by decide) (Option.some.inj hx_) rfl
  rw [major_decValu f0]
  simp [decValu, codeF, f1, f2, reg_eq r0, reg_eq r1, reg_eq r2, reg_eq r3, EW_ofCode]

theorem vmaxn (d : VecReg) (a : VecReg) (b : VecReg) (m : MReg) (e : EW) : Statement (.vmaxn d a b m e) := by
  intro _ x_ hx_
  obtain ⟨f0, f1, f2, r0, r1, r2, r3⟩ := fields_vadd d.isLt a.isLt b.isLt m.isLt (EW_code_lt e) (show 40 < 64 by decide) (show 7 < 32 by decide) (Option.some.inj hx_) rfl
  rw [major_decValu f0]
  simp [decValu, codeF, f1, f2, reg_eq r0, reg_eq r1, reg_eq r2, reg_eq r3, EW_ofCode]

theorem vand (d : VecReg) (a : VecReg) (b : VecReg) (m : MReg) (e : EW) : Statement (.vand d a b m e) := by
  intro _ x_ hx_
  obtain ⟨f0, f1, f2, r0, r1, r2, r3⟩ := fields_vadd d.isLt a.isLt b.isLt m.isLt (EW_code_lt e) (show 40 < 64 by decide) (show 8 < 32 by decide) (Option.some.inj hx_) rfl
  rw [major_decValu f0]
  simp [decValu, codeF, f1, f2, reg_eq r0, reg_eq r1, reg_eq r2, reg_eq r3, EW_ofCode]

theorem vor (d : VecReg) (a : VecReg) (b : VecReg) (m : MReg) (e : EW) : Statement (.vor d a b m e) := by
  intro _ x_ hx_
  obtain ⟨f0, f1, f2, r0, r1, r2, r3⟩ := fields_vadd d.isLt a.isLt b.isLt m.isLt (EW_code_lt e) (show 40 < 64 by decide) (show 9 < 32 by decide) (Option.some.inj hx_) rfl
  rw [major_decValu f0]
  simp [decValu, codeF, f1, f2, reg_eq r0, reg_eq r1, reg_eq r2, reg_eq r3, EW_ofCode]

theorem vxor (d : VecReg) (a : VecReg) (b : VecReg) (m : MReg) (e : EW) : Statement (.vxor d a b m e) := by
  intro _ x_ hx_
  obtain ⟨f0, f1, f2, r0, r1, r2, r3⟩ := fields_vadd d.isLt a.isLt b.isLt m.isLt (EW_code_lt e) (show 40 < 64 by decide) (show 10 < 32 by decide) (Option.some.inj hx_) rfl
  rw [major_decValu f0]
  simp [decValu, codeF, f1, f2, reg_eq r0, reg_eq r1, reg_eq r2, reg_eq r3, EW_ofCode]

theorem vshl (d : VecReg) (a : VecReg) (b : VecReg) (m : MReg) (e : EW) : Statement (.vshl d a b m e) := by
  intro _ x_ hx_
  obtain ⟨f0, f1, f2, r0, r1, r2, r3⟩ := fields_vadd d.isLt a.isLt b.isLt m.isLt (EW_code_lt e) (show 40 < 64 by decide) (show 11 < 32 by decide) (Option.some.inj hx_) rfl
  rw [major_decValu f0]
  simp [decValu, codeF, f1, f2, reg_eq r0, reg_eq r1, reg_eq r2, reg_eq r3, EW_ofCode]

theorem vshr (d : VecReg) (a : VecReg) (b : VecReg) (m : MReg) (e : EW) : Statement (.vshr d a b m e) := by
  intro _ x_ hx_
  obtain ⟨f0, f1, f2, r0, r1, r2, r3⟩ := fields_vadd d.isLt a.isLt b.isLt m.isLt (EW_code_lt e) (show 40 < 64 by decide) (show 12 < 32 by decide) (Option.some.inj hx_) rfl
  rw [major_decValu f0]
  simp [decValu, codeF, f1, f2, reg_eq r0, reg_eq r1, reg_eq r2, reg_eq r3, EW_ofCode]

theorem vsar (d : VecReg) (a : VecReg) (b : VecReg) (m : MReg) (e : EW) : Statement (.vsar d a b m e) := by
  intro _ x_ hx_
  obtain ⟨f0, f1, f2, r0, r1, r2, r3⟩ := fields_vadd d.isLt a.isLt b.isLt m.isLt (EW_code_lt e) (show 40 < 64 by decide) (show 13 < 32 by decide) (Option.some.inj hx_) rfl
  rw [major_decValu f0]
  simp [decValu, codeF, f1, f2, reg_eq r0, reg_eq r1, reg_eq r2, reg_eq r3, EW_ofCode]

theorem vabs (d : VecReg) (a : VecReg) (m : MReg) (e : EW) : Statement (.vabs d a m e) := by
  intro _ x_ hx_
  obtain ⟨f0, f1, f2, f3, r0, r1, r2⟩ := fields_vabs d.isLt a.isLt m.isLt (EW_code_lt e) (show 40 < 64 by decide) (show 14 < 32 by decide) (Option.some.inj hx_) rfl
  rw [major_decValu f0]
  simp [decValu, codeF, zeroF, f1, f2, f3, reg_eq r0, reg_eq r1, reg_eq r2, EW_ofCode]

theorem vneg (d : VecReg) (a : VecReg) (m : MReg) (e : EW) : Statement (.vneg d a m e) := by
  intro _ x_ hx_
  obtain ⟨f0, f1, f2, f3, r0, r1, r2⟩ := fields_vabs d.isLt a.isLt m.isLt (EW_code_lt e) (show 40 < 64 by decide) (show 15 < 32 by decide) (Option.some.inj hx_) rfl
  rw [major_decValu f0]
  simp [decValu, codeF, zeroF, f1, f2, f3, reg_eq r0, reg_eq r1, reg_eq r2, EW_ofCode]

theorem vsel (d : VecReg) (a : VecReg) (b : VecReg) (m : MReg) (e : EW) : Statement (.vsel d a b m e) := by
  intro _ x_ hx_
  obtain ⟨f0, f1, f2, r0, r1, r2, r3⟩ := fields_vadd d.isLt a.isLt b.isLt m.isLt (EW_code_lt e) (show 40 < 64 by decide) (show 16 < 32 by decide) (Option.some.inj hx_) rfl
  rw [major_decValu f0]
  simp [decValu, codeF, f1, f2, reg_eq r0, reg_eq r1, reg_eq r2, reg_eq r3, EW_ofCode]

theorem vfadd (d : VecReg) (a : VecReg) (b : VecReg) (m : MReg) (e : FEW) : Statement (.vfadd d a b m e) := by
  intro _ x_ hx_
  obtain ⟨f0, f1, f2, r0, r1, r2, r3⟩ := fields_vadd d.isLt a.isLt b.isLt m.isLt (FEW_code_lt e) (show 41 < 64 by decide) (show 0 < 32 by decide) (Option.some.inj hx_) rfl
  rw [major_decVfp f0]
  simp [decVfp, codeF, f1, f2, reg_eq r0, reg_eq r1, reg_eq r2, reg_eq r3, FEW_ofCode]

theorem vfsub (d : VecReg) (a : VecReg) (b : VecReg) (m : MReg) (e : FEW) : Statement (.vfsub d a b m e) := by
  intro _ x_ hx_
  obtain ⟨f0, f1, f2, r0, r1, r2, r3⟩ := fields_vadd d.isLt a.isLt b.isLt m.isLt (FEW_code_lt e) (show 41 < 64 by decide) (show 1 < 32 by decide) (Option.some.inj hx_) rfl
  rw [major_decVfp f0]
  simp [decVfp, codeF, f1, f2, reg_eq r0, reg_eq r1, reg_eq r2, reg_eq r3, FEW_ofCode]

theorem vfmul (d : VecReg) (a : VecReg) (b : VecReg) (m : MReg) (e : FEW) : Statement (.vfmul d a b m e) := by
  intro _ x_ hx_
  obtain ⟨f0, f1, f2, r0, r1, r2, r3⟩ := fields_vadd d.isLt a.isLt b.isLt m.isLt (FEW_code_lt e) (show 41 < 64 by decide) (show 2 < 32 by decide) (Option.some.inj hx_) rfl
  rw [major_decVfp f0]
  simp [decVfp, codeF, f1, f2, reg_eq r0, reg_eq r1, reg_eq r2, reg_eq r3, FEW_ofCode]

theorem vfma (d : VecReg) (a : VecReg) (b : VecReg) (m : MReg) (e : FEW) : Statement (.vfma d a b m e) := by
  intro _ x_ hx_
  obtain ⟨f0, f1, f2, r0, r1, r2, r3⟩ := fields_vadd d.isLt a.isLt b.isLt m.isLt (FEW_code_lt e) (show 41 < 64 by decide) (show 3 < 32 by decide) (Option.some.inj hx_) rfl
  rw [major_decVfp f0]
  simp [decVfp, codeF, f1, f2, reg_eq r0, reg_eq r1, reg_eq r2, reg_eq r3, FEW_ofCode]

theorem vfms (d : VecReg) (a : VecReg) (b : VecReg) (m : MReg) (e : FEW) : Statement (.vfms d a b m e) := by
  intro _ x_ hx_
  obtain ⟨f0, f1, f2, r0, r1, r2, r3⟩ := fields_vadd d.isLt a.isLt b.isLt m.isLt (FEW_code_lt e) (show 41 < 64 by decide) (show 4 < 32 by decide) (Option.some.inj hx_) rfl
  rw [major_decVfp f0]
  simp [decVfp, codeF, f1, f2, reg_eq r0, reg_eq r1, reg_eq r2, reg_eq r3, FEW_ofCode]

theorem vfmin (d : VecReg) (a : VecReg) (b : VecReg) (m : MReg) (e : FEW) : Statement (.vfmin d a b m e) := by
  intro _ x_ hx_
  obtain ⟨f0, f1, f2, r0, r1, r2, r3⟩ := fields_vadd d.isLt a.isLt b.isLt m.isLt (FEW_code_lt e) (show 41 < 64 by decide) (show 5 < 32 by decide) (Option.some.inj hx_) rfl
  rw [major_decVfp f0]
  simp [decVfp, codeF, f1, f2, reg_eq r0, reg_eq r1, reg_eq r2, reg_eq r3, FEW_ofCode]

theorem vfmax (d : VecReg) (a : VecReg) (b : VecReg) (m : MReg) (e : FEW) : Statement (.vfmax d a b m e) := by
  intro _ x_ hx_
  obtain ⟨f0, f1, f2, r0, r1, r2, r3⟩ := fields_vadd d.isLt a.isLt b.isLt m.isLt (FEW_code_lt e) (show 41 < 64 by decide) (show 6 < 32 by decide) (Option.some.inj hx_) rfl
  rw [major_decVfp f0]
  simp [decVfp, codeF, f1, f2, reg_eq r0, reg_eq r1, reg_eq r2, reg_eq r3, FEW_ofCode]

theorem vfabs (d : VecReg) (a : VecReg) (m : MReg) (e : FEW) : Statement (.vfabs d a m e) := by
  intro _ x_ hx_
  obtain ⟨f0, f1, f2, f3, r0, r1, r2⟩ := fields_vabs d.isLt a.isLt m.isLt (FEW_code_lt e) (show 41 < 64 by decide) (show 7 < 32 by decide) (Option.some.inj hx_) rfl
  rw [major_decVfp f0]
  simp [decVfp, codeF, zeroF, f1, f2, f3, reg_eq r0, reg_eq r1, reg_eq r2, FEW_ofCode]

theorem vfneg (d : VecReg) (a : VecReg) (m : MReg) (e : FEW) : Statement (.vfneg d a m e) := by
  intro _ x_ hx_
  obtain ⟨f0, f1, f2, f3, r0, r1, r2⟩ := fields_vabs d.isLt a.isLt m.isLt (FEW_code_lt e) (show 41 < 64 by decide) (show 8 < 32 by decide) (Option.some.inj hx_) rfl
  rw [major_decVfp f0]
  simp [decVfp, codeF, zeroF, f1, f2, f3, reg_eq r0, reg_eq r1, reg_eq r2, FEW_ofCode]

theorem vcmpEq (d : MReg) (a : VecReg) (b : VecReg) (m : MReg) (e : EW) : Statement (.vcmpEq d a b m e) := by
  intro _ x_ hx_
  obtain ⟨f0, f1, f2, f3, r0, r1, r2, r3⟩ := fields_vcmpEq d.isLt a.isLt b.isLt m.isLt (EW_code_lt e) (show 42 < 64 by decide) (show 0 < 32 by decide) (Option.some.inj hx_) rfl
  rw [major_decVcmp f0]
  simp [decVcmp, codeF, zeroF, f1, f2, f3, reg_eq r0, reg_eq r1, reg_eq r2, reg_eq r3, EW_ofCode]

theorem vcmpNe (d : MReg) (a : VecReg) (b : VecReg) (m : MReg) (e : EW) : Statement (.vcmpNe d a b m e) := by
  intro _ x_ hx_
  obtain ⟨f0, f1, f2, f3, r0, r1, r2, r3⟩ := fields_vcmpEq d.isLt a.isLt b.isLt m.isLt (EW_code_lt e) (show 42 < 64 by decide) (show 1 < 32 by decide) (Option.some.inj hx_) rfl
  rw [major_decVcmp f0]
  simp [decVcmp, codeF, zeroF, f1, f2, f3, reg_eq r0, reg_eq r1, reg_eq r2, reg_eq r3, EW_ofCode]

theorem vcmpLt (d : MReg) (a : VecReg) (b : VecReg) (m : MReg) (e : EW) : Statement (.vcmpLt d a b m e) := by
  intro _ x_ hx_
  obtain ⟨f0, f1, f2, f3, r0, r1, r2, r3⟩ := fields_vcmpEq d.isLt a.isLt b.isLt m.isLt (EW_code_lt e) (show 42 < 64 by decide) (show 2 < 32 by decide) (Option.some.inj hx_) rfl
  rw [major_decVcmp f0]
  simp [decVcmp, codeF, zeroF, f1, f2, f3, reg_eq r0, reg_eq r1, reg_eq r2, reg_eq r3, EW_ofCode]

theorem vcmpGe (d : MReg) (a : VecReg) (b : VecReg) (m : MReg) (e : EW) : Statement (.vcmpGe d a b m e) := by
  intro _ x_ hx_
  obtain ⟨f0, f1, f2, f3, r0, r1, r2, r3⟩ := fields_vcmpEq d.isLt a.isLt b.isLt m.isLt (EW_code_lt e) (show 42 < 64 by decide) (show 3 < 32 by decide) (Option.some.inj hx_) rfl
  rw [major_decVcmp f0]
  simp [decVcmp, codeF, zeroF, f1, f2, f3, reg_eq r0, reg_eq r1, reg_eq r2, reg_eq r3, EW_ofCode]

theorem vcmpLtn (d : MReg) (a : VecReg) (b : VecReg) (m : MReg) (e : EW) : Statement (.vcmpLtn d a b m e) := by
  intro _ x_ hx_
  obtain ⟨f0, f1, f2, f3, r0, r1, r2, r3⟩ := fields_vcmpEq d.isLt a.isLt b.isLt m.isLt (EW_code_lt e) (show 42 < 64 by decide) (show 4 < 32 by decide) (Option.some.inj hx_) rfl
  rw [major_decVcmp f0]
  simp [decVcmp, codeF, zeroF, f1, f2, f3, reg_eq r0, reg_eq r1, reg_eq r2, reg_eq r3, EW_ofCode]

theorem vcmpGen (d : MReg) (a : VecReg) (b : VecReg) (m : MReg) (e : EW) : Statement (.vcmpGen d a b m e) := by
  intro _ x_ hx_
  obtain ⟨f0, f1, f2, f3, r0, r1, r2, r3⟩ := fields_vcmpEq d.isLt a.isLt b.isLt m.isLt (EW_code_lt e) (show 42 < 64 by decide) (show 5 < 32 by decide) (Option.some.inj hx_) rfl
  rw [major_decVcmp f0]
  simp [decVcmp, codeF, zeroF, f1, f2, f3, reg_eq r0, reg_eq r1, reg_eq r2, reg_eq r3, EW_ofCode]

theorem vcmpFeq (d : MReg) (a : VecReg) (b : VecReg) (m : MReg) (e : FEW) : Statement (.vcmpFeq d a b m e) := by
  intro _ x_ hx_
  obtain ⟨f0, f1, f2, f3, r0, r1, r2, r3⟩ := fields_vcmpEq d.isLt a.isLt b.isLt m.isLt (FEW_code_lt e) (show 42 < 64 by decide) (show 8 < 32 by decide) (Option.some.inj hx_) rfl
  rw [major_decVcmp f0]
  simp [decVcmp, codeF, zeroF, f1, f2, f3, reg_eq r0, reg_eq r1, reg_eq r2, reg_eq r3, FEW_ofCode]

theorem vcmpFne (d : MReg) (a : VecReg) (b : VecReg) (m : MReg) (e : FEW) : Statement (.vcmpFne d a b m e) := by
  intro _ x_ hx_
  obtain ⟨f0, f1, f2, f3, r0, r1, r2, r3⟩ := fields_vcmpEq d.isLt a.isLt b.isLt m.isLt (FEW_code_lt e) (show 42 < 64 by decide) (show 9 < 32 by decide) (Option.some.inj hx_) rfl
  rw [major_decVcmp f0]
  simp [decVcmp, codeF, zeroF, f1, f2, f3, reg_eq r0, reg_eq r1, reg_eq r2, reg_eq r3, FEW_ofCode]

theorem vcmpFlt (d : MReg) (a : VecReg) (b : VecReg) (m : MReg) (e : FEW) : Statement (.vcmpFlt d a b m e) := by
  intro _ x_ hx_
  obtain ⟨f0, f1, f2, f3, r0, r1, r2, r3⟩ := fields_vcmpEq d.isLt a.isLt b.isLt m.isLt (FEW_code_lt e) (show 42 < 64 by decide) (show 10 < 32 by decide) (Option.some.inj hx_) rfl
  rw [major_decVcmp f0]
  simp [decVcmp, codeF, zeroF, f1, f2, f3, reg_eq r0, reg_eq r1, reg_eq r2, reg_eq r3, FEW_ofCode]

theorem vcmpFge (d : MReg) (a : VecReg) (b : VecReg) (m : MReg) (e : FEW) : Statement (.vcmpFge d a b m e) := by
  intro _ x_ hx_
  obtain ⟨f0, f1, f2, f3, r0, r1, r2, r3⟩ := fields_vcmpEq d.isLt a.isLt b.isLt m.isLt (FEW_code_lt e) (show 42 < 64 by decide) (show 11 < 32 by decide) (Option.some.inj hx_) rfl
  rw [major_decVcmp f0]
  simp [decVcmp, codeF, zeroF, f1, f2, f3, reg_eq r0, reg_eq r1, reg_eq r2, reg_eq r3, FEW_ofCode]

theorem vcmpFun (d : MReg) (a : VecReg) (b : VecReg) (m : MReg) (e : FEW) : Statement (.vcmpFun d a b m e) := by
  intro _ x_ hx_
  obtain ⟨f0, f1, f2, f3, r0, r1, r2, r3⟩ := fields_vcmpEq d.isLt a.isLt b.isLt m.isLt (FEW_code_lt e) (show 42 < 64 by decide) (show 12 < 32 by decide) (Option.some.inj hx_) rfl
  rw [major_decVcmp f0]
  simp [decVcmp, codeF, zeroF, f1, f2, f3, reg_eq r0, reg_eq r1, reg_eq r2, reg_eq r3, FEW_ofCode]

theorem vcvt (d : VecReg) (a : VecReg) (fmt : Fin 32) (m : MReg) (e : FEW) (rnd : Rnd) : Statement (.vcvt d a fmt m e rnd) := by
  intro h_ x_ hx_
  replace h_ : (decide (fmt.val < 30) && decide (¬ (rnd = .rst ∧ d.val = 31))) = true := h_
  simp only [Bool.and_eq_true, decide_eq_true_eq] at h_
  obtain ⟨f0, f1, f2, f3, f4, f5, r0, r1, r2, r3⟩ := fields_vcvt d.isLt a.isLt fmt.isLt m.isLt (FEW_code_lt e) (Rnd_code_lt rnd) (show 43 < 64 by decide) (show 0 < 4 by decide) (Option.some.inj hx_) rfl
  rw [major_decVcvt f0]
  simp [decVcvt, codeF, needF, fmtF, f1, f2, f3, f4, f5, reg_eq r0, reg_eq r1, reg_eq r2, reg_eq r3, FEW_ofCode, Rnd_ofCode, h_]

theorem vqnt (d : VecReg) (a : VecReg) (fmt : Fin 32) (m : MReg) (e : FEW) : Statement (.vqnt d a fmt m e) := by
  intro h_ x_ hx_
  replace h_ : (decide (fmt.val < 30)) = true := h_
  simp only [decide_eq_true_eq] at h_
  obtain ⟨f0, f1, f2, f3, f4, r0, r1, r2, r3⟩ := fields_vqnt d.isLt a.isLt fmt.isLt m.isLt (FEW_code_lt e) (show 43 < 64 by decide) (show 1 < 4 by decide) (Option.some.inj hx_) rfl
  rw [major_decVcvt f0]
  simp [decVcvt, codeF, zeroF, fmtF, f1, f2, f3, f4, reg_eq r0, reg_eq r1, reg_eq r2, reg_eq r3, FEW_ofCode, h_]

theorem vdqnt (d : VecReg) (a : VecReg) (fmt : Fin 32) (m : MReg) (e : FEW) (rnd : Rnd) : Statement (.vdqnt d a fmt m e rnd) := by
  intro h_ x_ hx_
  replace h_ : (decide (fmt.val < 30) && decide (rnd ≠ .rst)) = true := h_
  simp only [Bool.and_eq_true, decide_eq_true_eq] at h_
  obtain ⟨f0, f1, f2, f3, f4, r0, r1, r2, r3⟩ := fields_vdqnt d.isLt a.isLt fmt.isLt m.isLt (FEW_code_lt e) (Rnd_code_lt rnd) (show 43 < 64 by decide) (show 2 < 4 by decide) (Option.some.inj hx_) rfl
  rw [major_decVcvt f0]
  simp [decVcvt, codeF, needF, fmtF, f1, f2, f3, f4, reg_eq r0, reg_eq r1, reg_eq r2, reg_eq r3, FEW_ofCode, Rnd_ofCode, h_]

theorem vrndi (d : VecReg) (a : VecReg) (m : MReg) (e : FEW) (rnd : Rnd) : Statement (.vrndi d a m e rnd) := by
  intro h_ x_ hx_
  replace h_ : (decide (¬ (rnd = .rst ∧ d.val = 31))) = true := h_
  simp only [decide_eq_true_eq] at h_
  obtain ⟨f0, f1, f2, f3, f4, f5, r0, r1, r2⟩ := fields_vrndi d.isLt a.isLt m.isLt (FEW_code_lt e) (Rnd_code_lt rnd) (show 43 < 64 by decide) (show 3 < 4 by decide) (Option.some.inj hx_) rfl
  rw [major_decVcvt f0]
  simp [decVcvt, codeF, zeroF, needF, f1, f2, f3, f4, f5, reg_eq r0, reg_eq r1, reg_eq r2, FEW_ofCode, Rnd_ofCode, h_]

theorem vrcpa (d : VecReg) (a : VecReg) (m : MReg) (e : FEW) : Statement (.vrcpa d a m e) := by
  intro _ x_ hx_
  obtain ⟨f0, f1, f2, f3, r0, r1, r2⟩ := fields_vabs d.isLt a.isLt m.isLt (FEW_code_lt e) (show 44 < 64 by decide) (show 0 < 32 by decide) (Option.some.inj hx_) rfl
  rw [major_decVspec f0]
  simp [decVspec, codeF, zeroF, f1, f2, f3, reg_eq r0, reg_eq r1, reg_eq r2, FEW_ofCode]

theorem vrsqa (d : VecReg) (a : VecReg) (m : MReg) (e : FEW) : Statement (.vrsqa d a m e) := by
  intro _ x_ hx_
  obtain ⟨f0, f1, f2, f3, r0, r1, r2⟩ := fields_vabs d.isLt a.isLt m.isLt (FEW_code_lt e) (show 44 < 64 by decide) (show 1 < 32 by decide) (Option.some.inj hx_) rfl
  rw [major_decVspec f0]
  simp [decVspec, codeF, zeroF, f1, f2, f3, reg_eq r0, reg_eq r1, reg_eq r2, FEW_ofCode]

theorem vexp2a (d : VecReg) (a : VecReg) (m : MReg) (e : FEW) : Statement (.vexp2a d a m e) := by
  intro _ x_ hx_
  obtain ⟨f0, f1, f2, f3, r0, r1, r2⟩ := fields_vabs d.isLt a.isLt m.isLt (FEW_code_lt e) (show 44 < 64 by decide) (show 2 < 32 by decide) (Option.some.inj hx_) rfl
  rw [major_decVspec f0]
  simp [decVspec, codeF, zeroF, f1, f2, f3, reg_eq r0, reg_eq r1, reg_eq r2, FEW_ofCode]

theorem vlog2a (d : VecReg) (a : VecReg) (m : MReg) (e : FEW) : Statement (.vlog2a d a m e) := by
  intro _ x_ hx_
  obtain ⟨f0, f1, f2, f3, r0, r1, r2⟩ := fields_vabs d.isLt a.isLt m.isLt (FEW_code_lt e) (show 44 < 64 by decide) (show 3 < 32 by decide) (Option.some.inj hx_) rfl
  rw [major_decVspec f0]
  simp [decVspec, codeF, zeroF, f1, f2, f3, reg_eq r0, reg_eq r1, reg_eq r2, FEW_ofCode]

theorem vredsum (d : VecReg) (a : VecReg) (k : RedT) (m : MReg) : Statement (.vredsum d a k m) := by
  intro _ x_ hx_
  obtain ⟨f0, f1, f2, f3, f4, r0, r1, r2⟩ := fields_vredsum d.isLt a.isLt (RedT_kindCode_lt k) (RedT_ewCode_lt k) m.isLt (show 45 < 64 by decide) (show 0 < 32 by decide) (Option.some.inj hx_) rfl
  rw [major_decVred f0]
  simp [decVred, codeF, zeroF, f1, f2, f3, f4, reg_eq r0, reg_eq r1, reg_eq r2, RedT_ofBits]

theorem vredmax (d : VecReg) (a : VecReg) (k : RedT) (m : MReg) : Statement (.vredmax d a k m) := by
  intro _ x_ hx_
  obtain ⟨f0, f1, f2, f3, f4, r0, r1, r2⟩ := fields_vredsum d.isLt a.isLt (RedT_kindCode_lt k) (RedT_ewCode_lt k) m.isLt (show 45 < 64 by decide) (show 1 < 32 by decide) (Option.some.inj hx_) rfl
  rw [major_decVred f0]
  simp [decVred, codeF, zeroF, f1, f2, f3, f4, reg_eq r0, reg_eq r1, reg_eq r2, RedT_ofBits]

theorem vredmin (d : VecReg) (a : VecReg) (k : RedT) (m : MReg) : Statement (.vredmin d a k m) := by
  intro _ x_ hx_
  obtain ⟨f0, f1, f2, f3, f4, r0, r1, r2⟩ := fields_vredsum d.isLt a.isLt (RedT_kindCode_lt k) (RedT_ewCode_lt k) m.isLt (show 45 < 64 by decide) (show 2 < 32 by decide) (Option.some.inj hx_) rfl
  rw [major_decVred f0]
  simp [decVred, codeF, zeroF, f1, f2, f3, f4, reg_eq r0, reg_eq r1, reg_eq r2, RedT_ofBits]

theorem vscan (d : VecReg) (a : VecReg) (op : ScanOp) (k : RedT) (m : MReg) : Statement (.vscan d a op k m) := by
  intro _ x_ hx_
  obtain ⟨f0, f1, f2, f3, f4, f5, r0, r1, r2⟩ := fields_vscan d.isLt a.isLt (ScanOp_code_lt op) (RedT_kindCode_lt k) (RedT_ewCode_lt k) m.isLt (show 45 < 64 by decide) (show 3 < 32 by decide) (Option.some.inj hx_) rfl
  rw [major_decVred f0]
  simp [decVred, codeF, zeroF, f1, f2, f3, f4, f5, reg_eq r0, reg_eq r1, reg_eq r2, RedT_ofBits, ScanOp_ofCode]

theorem vdot4 (d : VecReg) (a : VecReg) (b : VecReg) (m : MReg) : Statement (.vdot4 d a b m) := by
  intro _ x_ hx_
  obtain ⟨f0, f1, f2, r0, r1, r2, r3⟩ := fields_vdot4 d.isLt a.isLt b.isLt m.isLt (show 45 < 64 by decide) (show 4 < 32 by decide) (show 2 < 4 by decide) (Option.some.inj hx_) rfl
  rw [major_decVred f0]
  simp [decVred, fixF, f1, f2, reg_eq r0, reg_eq r1, reg_eq r2, reg_eq r3]

theorem vperm (d : VecReg) (a : VecReg) (b : VecReg) (m : MReg) (e : EW) : Statement (.vperm d a b m e) := by
  intro _ x_ hx_
  obtain ⟨f0, f1, f2, r0, r1, r2, r3⟩ := fields_vadd d.isLt a.isLt b.isLt m.isLt (EW_code_lt e) (show 46 < 64 by decide) (show 0 < 32 by decide) (Option.some.inj hx_) rfl
  rw [major_decVperm f0]
  simp [decVperm, codeF, f1, f2, reg_eq r0, reg_eq r1, reg_eq r2, reg_eq r3, EW_ofCode]

theorem vslup (d : VecReg) (a : VecReg) (b : GReg) (m : MReg) (e : EW) : Statement (.vslup d a b m e) := by
  intro _ x_ hx_
  obtain ⟨f0, f1, f2, r0, r1, r2, r3⟩ := fields_vadd d.isLt a.isLt b.isLt m.isLt (EW_code_lt e) (show 46 < 64 by decide) (show 1 < 32 by decide) (Option.some.inj hx_) rfl
  rw [major_decVperm f0]
  simp [decVperm, codeF, f1, f2, reg_eq r0, reg_eq r1, reg_eq r2, reg_eq r3, EW_ofCode]

theorem vsldn (d : VecReg) (a : VecReg) (b : GReg) (m : MReg) (e : EW) : Statement (.vsldn d a b m e) := by
  intro _ x_ hx_
  obtain ⟨f0, f1, f2, r0, r1, r2, r3⟩ := fields_vadd d.isLt a.isLt b.isLt m.isLt (EW_code_lt e) (show 46 < 64 by decide) (show 2 < 32 by decide) (Option.some.inj hx_) rfl
  rw [major_decVperm f0]
  simp [decVperm, codeF, f1, f2, reg_eq r0, reg_eq r1, reg_eq r2, reg_eq r3, EW_ofCode]

theorem vcomp (d : VecReg) (a : VecReg) (m : MReg) (e : EW) : Statement (.vcomp d a m e) := by
  intro _ x_ hx_
  obtain ⟨f0, f1, f2, f3, r0, r1, r2⟩ := fields_vabs d.isLt a.isLt m.isLt (EW_code_lt e) (show 46 < 64 by decide) (show 3 < 32 by decide) (Option.some.inj hx_) rfl
  rw [major_decVperm f0]
  simp [decVperm, codeF, zeroF, f1, f2, f3, reg_eq r0, reg_eq r1, reg_eq r2, EW_ofCode]

theorem vexpd (d : VecReg) (a : VecReg) (m : MReg) (e : EW) : Statement (.vexpd d a m e) := by
  intro _ x_ hx_
  obtain ⟨f0, f1, f2, f3, r0, r1, r2⟩ := fields_vabs d.isLt a.isLt m.isLt (EW_code_lt e) (show 46 < 64 by decide) (show 4 < 32 by decide) (Option.some.inj hx_) rfl
  rw [major_decVperm f0]
  simp [decVperm, codeF, zeroF, f1, f2, f3, reg_eq r0, reg_eq r1, reg_eq r2, EW_ofCode]

theorem viota (d : VecReg) (m : MReg) (e : EW) : Statement (.viota d m e) := by
  intro _ x_ hx_
  obtain ⟨f0, f1, f2, f3, r0, r1⟩ := fields_viota d.isLt m.isLt (EW_code_lt e) (show 46 < 64 by decide) (show 5 < 32 by decide) (Option.some.inj hx_) rfl
  rw [major_decVperm f0]
  simp [decVperm, codeF, zeroF, f1, f2, f3, reg_eq r0, reg_eq r1, EW_ofCode]

theorem vbcast (d : VecReg) (a : GReg) (m : MReg) (e : EW) : Statement (.vbcast d a m e) := by
  intro _ x_ hx_
  obtain ⟨f0, f1, f2, f3, r0, r1, r2⟩ := fields_vabs d.isLt a.isLt m.isLt (EW_code_lt e) (show 46 < 64 by decide) (show 6 < 32 by decide) (Option.some.inj hx_) rfl
  rw [major_decVperm f0]
  simp [decVperm, codeF, zeroF, f1, f2, f3, reg_eq r0, reg_eq r1, reg_eq r2, EW_ofCode]

theorem vextr (d : GReg) (a : VecReg) (b : GReg) (e : EW) : Statement (.vextr d a b e) := by
  intro _ x_ hx_
  obtain ⟨f0, f1, f2, f3, r0, r1, r2⟩ := fields_vextr d.isLt a.isLt b.isLt (EW_code_lt e) (show 46 < 64 by decide) (show 7 < 32 by decide) (Option.some.inj hx_) rfl
  rw [major_decVperm f0]
  simp [decVperm, codeF, zeroF, f1, f2, f3, reg_eq r0, reg_eq r1, reg_eq r2, EW_ofCode]

theorem vins (d : VecReg) (a : GReg) (b : GReg) (e : EW) : Statement (.vins d a b e) := by
  intro _ x_ hx_
  obtain ⟨f0, f1, f2, f3, r0, r1, r2⟩ := fields_vextr d.isLt a.isLt b.isLt (EW_code_lt e) (show 46 < 64 by decide) (show 8 < 32 by decide) (Option.some.inj hx_) rfl
  rw [major_decVperm f0]
  simp [decVperm, codeF, zeroF, f1, f2, f3, reg_eq r0, reg_eq r1, reg_eq r2, EW_ofCode]

theorem mand (d : MReg) (a : MReg) (b : MReg) (e : EW) : Statement (.mand d a b e) := by
  intro _ x_ hx_
  obtain ⟨f0, f1, f2, f3, f4, f5, f6, r0, r1, r2⟩ := fields_mand d.isLt a.isLt b.isLt (EW_code_lt e) (show 47 < 64 by decide) (show 0 < 32 by decide) (Option.some.inj hx_) rfl
  rw [major_decVmask f0]
  simp [decVmask, codeF, zeroF, f1, f2, f3, f4, f5, f6, reg_eq r0, reg_eq r1, reg_eq r2, EW_ofCode]

theorem mor (d : MReg) (a : MReg) (b : MReg) (e : EW) : Statement (.mor d a b e) := by
  intro _ x_ hx_
  obtain ⟨f0, f1, f2, f3, f4, f5, f6, r0, r1, r2⟩ := fields_mand d.isLt a.isLt b.isLt (EW_code_lt e) (show 47 < 64 by decide) (show 1 < 32 by decide) (Option.some.inj hx_) rfl
  rw [major_decVmask f0]
  simp [decVmask, codeF, zeroF, f1, f2, f3, f4, f5, f6, reg_eq r0, reg_eq r1, reg_eq r2, EW_ofCode]

theorem mxor (d : MReg) (a : MReg) (b : MReg) (e : EW) : Statement (.mxor d a b e) := by
  intro _ x_ hx_
  obtain ⟨f0, f1, f2, f3, f4, f5, f6, r0, r1, r2⟩ := fields_mand d.isLt a.isLt b.isLt (EW_code_lt e) (show 47 < 64 by decide) (show 2 < 32 by decide) (Option.some.inj hx_) rfl
  rw [major_decVmask f0]
  simp [decVmask, codeF, zeroF, f1, f2, f3, f4, f5, f6, reg_eq r0, reg_eq r1, reg_eq r2, EW_ofCode]

theorem mnot (d : MReg) (a : MReg) (e : EW) : Statement (.mnot d a e) := by
  intro _ x_ hx_
  obtain ⟨f0, f1, f2, f3, f4, f5, r0, r1⟩ := fields_mnot d.isLt a.isLt (EW_code_lt e) (show 47 < 64 by decide) (show 3 < 32 by decide) (Option.some.inj hx_) rfl
  rw [major_decVmask f0]
  simp [decVmask, codeF, zeroF, f1, f2, f3, f4, f5, reg_eq r0, reg_eq r1, EW_ofCode]

theorem mcnt (d : GReg) (a : MReg) (e : EW) : Statement (.mcnt d a e) := by
  intro _ x_ hx_
  obtain ⟨f0, f1, f2, f3, f4, r0, r1⟩ := fields_mcnt d.isLt a.isLt (EW_code_lt e) (show 47 < 64 by decide) (show 4 < 32 by decide) (Option.some.inj hx_) rfl
  rw [major_decVmask f0]
  simp [decVmask, codeF, zeroF, f1, f2, f3, f4, reg_eq r0, reg_eq r1, EW_ofCode]

theorem mfirst (d : GReg) (a : MReg) (e : EW) : Statement (.mfirst d a e) := by
  intro _ x_ hx_
  obtain ⟨f0, f1, f2, f3, f4, r0, r1⟩ := fields_mcnt d.isLt a.isLt (EW_code_lt e) (show 47 < 64 by decide) (show 5 < 32 by decide) (Option.some.inj hx_) rfl
  rw [major_decVmask f0]
  simp [decVmask, codeF, zeroF, f1, f2, f3, f4, reg_eq r0, reg_eq r1, EW_ofCode]

theorem qand (d : QReg) (a : QReg) (b : QReg) (e : EW) : Statement (.qand d a b e) := by
  intro _ x_ hx_
  obtain ⟨f0, f1, f2, f3, f4, f5, f6, r0, r1, r2⟩ := fields_qand d.isLt a.isLt b.isLt (EW_code_lt e) (show 47 < 64 by decide) (show 6 < 32 by decide) (Option.some.inj hx_) rfl
  rw [major_decVmask f0]
  simp [decVmask, codeF, zeroF, f1, f2, f3, f4, f5, f6, reg_eq r0, reg_eq r1, reg_eq r2, EW_ofCode]

theorem qclr (d : QReg) (a : MReg) (e : EW) : Statement (.qclr d a e) := by
  intro _ x_ hx_
  obtain ⟨f0, f1, f2, f3, f4, f5, r0, r1⟩ := fields_qclr d.isLt a.isLt (EW_code_lt e) (show 47 < 64 by decide) (show 7 < 32 by decide) (Option.some.inj hx_) rfl
  rw [major_decVmask f0]
  simp [decVmask, codeF, zeroF, f1, f2, f3, f4, f5, reg_eq r0, reg_eq r1, EW_ofCode]

theorem vrng (d : VecReg) (a : GReg) (b : GReg) (m : MReg) (e : EW) : Statement (.vrng d a b m e) := by
  intro _ x_ hx_
  obtain ⟨f0, f1, f2, r0, r1, r2, r3⟩ := fields_vrng d.isLt a.isLt b.isLt m.isLt (EW_code_lt e) (show 48 < 64 by decide) (Option.some.inj hx_) rfl
  rw [major_decVrng f0]
  simp [decVrng, codeF, zeroF, f1, f2, reg_eq r0, reg_eq r1, reg_eq r2, reg_eq r3, EW_ofCode]

theorem cHint (k : Fin 4) (y : Fin 33554432) : Statement (.cHint k y) := by
  intro _ x hx
  replace hx : 939524096 + k.val * 33554432 + y.val = x := Option.some.inj hx
  have := y.isLt
  have hr : reg 33554432 x 0 = y := reg_eq (by omega)
  have hf : fld x 25 6 = 28 + k.val := by unfold fld; omega
  unfold decodeWord
  rw [hf, hr]
  obtain ⟨k, hk⟩ := k
  have : k = 0 ∨ k = 1 ∨ k = 2 ∨ k = 3 := by omega
  rcases this with rfl | rfl | rfl | rfl <;> simp

theorem aHint (k : Fin 4) (y : Fin 33554432) : Statement (.aHint k y) := by
  intro _ x hx
  replace hx : 2013265920 + k.val * 33554432 + y.val = x := Option.some.inj hx
  have := y.isLt
  have hr : reg 33554432 x 0 = y := reg_eq (by omega)
  have hf : fld x 25 6 = 60 + k.val := by unfold fld; omega
  unfold decodeWord
  rw [hf, hr]
  obtain ⟨k, hk⟩ := k
  have : k = 0 ∨ k = 1 ∨ k = 2 ∨ k = 3 := by omega
  rcases this with rfl | rfl | rfl | rfl <;> simp

theorem land (sid : Nat) : Statement (.land sid) := of_none rfl

theorem laneStart (sid : Nat) : Statement (.laneStart sid) := of_none rfl

theorem faultOverflowMove (part : Nat) : Statement (.faultOverflowMove part) := of_none rfl

theorem atWake (sid : Nat) : Statement (.atWake sid) := of_none rfl

theorem cwaitWake (sid : Nat) : Statement (.cwaitWake sid) := of_none rfl

theorem erecvWake (sid : Nat) : Statement (.erecvWake sid) := of_none rfl

theorem vpullWake (sid : Nat) : Statement (.vpullWake sid) := of_none rfl

theorem dwaitWake (sid : Nat) : Statement (.dwaitWake sid) := of_none rfl

theorem harpCommandStart (core : Nat) : Statement (.harpCommandStart core) := of_none rfl

theorem harpRowTouch (op : Nat) : Statement (.harpRowTouch op) := of_none rfl

theorem hmmsPairingTimeout (op : Nat) : Statement (.hmmsPairingTimeout op) := of_none rfl

theorem freeAccessComplete (id : Nat) : Statement (.freeAccessComplete id) := of_none rfl

theorem freeAccessTimeout (id : Nat) : Statement (.freeAccessTimeout id) := of_none rfl

theorem translationWalk (core : Nat) (vd : Nat) (va : Nat) : Statement (.translationWalk core vd va) := of_none rfl

theorem l1LineExpiry (core : Nat) (line : Nat) : Statement (.l1LineExpiry core line) := of_none rfl

theorem memoryLineWrite (la : Nat) (data : BitVec 512) : Statement (.memoryLineWrite la data) := of_none rfl

theorem memoryLineRead (la : Nat) (vd : Nat) : Statement (.memoryLineRead la vd) := of_none rfl

theorem minorWrapReseal (blk : Nat) : Statement (.minorWrapReseal blk) := of_none rfl

theorem timedReadCheck (launch : Nat) (la : Nat) : Statement (.timedReadCheck launch la) := of_none rfl

theorem relayOwnerWrite (id : Nat) : Statement (.relayOwnerWrite id) := of_none rfl

theorem relayOwnerRead (id : Nat) : Statement (.relayOwnerRead id) := of_none rfl

theorem relayPeerRead (id : Nat) : Statement (.relayPeerRead id) := of_none rfl

theorem switchCheck (pkt : Nat) : Statement (.switchCheck pkt) := of_none rfl

theorem packetDelivery (pkt : Nat) : Statement (.packetDelivery pkt) := of_none rfl

theorem timedDelivery (pkt : Nat) (flit : Nat) : Statement (.timedDelivery pkt flit) := of_none rfl

theorem elasticArrival (pkt : Nat) : Statement (.elasticArrival pkt) := of_none rfl

theorem heldArrivalExpiry (pkt : Nat) : Statement (.heldArrivalExpiry pkt) := of_none rfl

theorem vpushArrival (pkt : Nat) : Statement (.vpushArrival pkt) := of_none rfl

theorem remoteReply (op : Nat) (value : Word) : Statement (.remoteReply op value) := of_none rfl

theorem discardNotice (op : Nat) : Statement (.discardNotice op) := of_none rfl

theorem fabricTimeout (op : Nat) : Statement (.fabricTimeout op) := of_none rfl

theorem rateUpdate : Statement .rateUpdate := of_none rfl

theorem drayCommandStart (dray : Nat) : Statement (.drayCommandStart dray) := of_none rfl

theorem drayCommandCompletion (dray : Nat) (seq : Nat) : Statement (.drayCommandCompletion dray seq) := of_none rfl

theorem drayTimeout (dray : Nat) (seq : Nat) : Statement (.drayTimeout dray seq) := of_none rfl

theorem timedDrayStart (launch : Nat) (idx : Nat) : Statement (.timedDrayStart launch idx) := of_none rfl

theorem migrationLineCopy (slot : Nat) : Statement (.migrationLineCopy slot) := of_none rfl

theorem portGenerationAdvance (x : Nat) (y : Nat) (port : Nat) : Statement (.portGenerationAdvance x y port) := of_none rfl

theorem keyDigestCompare (equal : Bool) : Statement (.keyDigestCompare equal) := of_none rfl

theorem routeKeyAdvance : Statement .routeKeyAdvance := of_none rfl

theorem networkWorkRequest (qp : Nat) (status : Nat) (reply : List Byte) : Statement (.networkWorkRequest qp status reply) := of_none rfl

theorem networkInbound (qp : Nat) (msg : NetMsg) : Statement (.networkInbound qp msg) := of_none rfl

theorem networkTimeout (qp : Nat) : Statement (.networkTimeout qp) := of_none rfl

theorem launchQueuePoll (part : Nat) (q : Nat) : Statement (.launchQueuePoll part q) := of_none rfl

theorem launchEngineTake (part : Nat) : Statement (.launchEngineTake part) := of_none rfl

theorem slotFreed (sid : Nat) : Statement (.slotFreed sid) := of_none rfl

theorem unitCompletion (sid : Nat) : Statement (.unitCompletion sid) := of_none rfl

theorem completionNotice (launch : Nat) : Statement (.completionNotice launch) := of_none rfl

theorem cancelDrainEnd (launch : Nat) : Statement (.cancelDrainEnd launch) := of_none rfl

theorem scoredLaunchStart (launch : Nat) (allReported : Bool) : Statement (.scoredLaunchStart launch allReported) := of_none rfl

theorem endingNotice (launch : Nat) (lcy : Nat) (detail : Nat) : Statement (.endingNotice launch lcy detail) := of_none rfl

theorem overrun (launch : Nat) : Statement (.overrun launch) := of_none rfl

theorem scoredLaunchEnd (launch : Nat) : Statement (.scoredLaunchEnd launch) := of_none rfl

theorem scoredLaunchRelease (launch : Nat) : Statement (.scoredLaunchRelease launch) := of_none rfl

theorem preq (part : Nat) : Statement (.preq part) := of_none rfl

theorem scoredPreempt (launch : Nat) : Statement (.scoredPreempt launch) := of_none rfl

theorem rreq (part : Nat) : Statement (.rreq part) := of_none rfl

theorem scoredResume (launch : Nat) : Statement (.scoredResume launch) := of_none rfl

theorem freePreempt (sid : Nat) : Statement (.freePreempt sid) := of_none rfl

theorem interruptDelivery (vd : Nat) : Statement (.interruptDelivery vd) := of_none rfl

theorem barLine (measured : BitVec 32) : Statement (.barLine measured) := of_none rfl

theorem barGap : Statement .barGap := of_none rfl

theorem rest : Statement .rest := of_none rfl

theorem timeLock (p : LockData) : Statement (.timeLock p) := of_none rfl

theorem timeLockRepeat (p : LockData) : Statement (.timeLockRepeat p) := of_none rfl

theorem wayQuotaRecompute (die : Nat) : Statement (.wayQuotaRecompute die) := of_none rfl

theorem errorCounterCopy : Statement .errorCounterCopy := of_none rfl

theorem checkpointRoundStart : Statement .checkpointRoundStart := of_none rfl

theorem checkpointRetire : Statement .checkpointRetire := of_none rfl

theorem checkpointRoundEnd : Statement .checkpointRoundEnd := of_none rfl

theorem vdScheduleOut (part : Nat) (x : Nat) : Statement (.vdScheduleOut part x) := of_none rfl

theorem vdScheduleIn (part : Nat) (x : Nat) : Statement (.vdScheduleIn part x) := of_none rfl

theorem vdReset (vd : Nat) : Statement (.vdReset vd) := of_none rfl

theorem vdTeardown (vd : Nat) : Statement (.vdTeardown vd) := of_none rfl

theorem vdResetEffect (vd : Nat) : Statement (.vdResetEffect vd) := of_none rfl

theorem vdQuiet (vd : Nat) : Statement (.vdQuiet vd) := of_none rfl

theorem portOpen (x : Nat) (y : Nat) (port : Nat) (vd : Nat) : Statement (.portOpen x y port vd) := of_none rfl

theorem portClose (x : Nat) (y : Nat) (port : Nat) : Statement (.portClose x y port) := of_none rfl

theorem deviceRegisterWrite (w : DevWrite) : Statement (.deviceRegisterWrite w) := of_none rfl

theorem coreRetire (core : Nat) : Statement (.coreRetire core) := of_none rfl

theorem partitionMove (src : Nat) (dst : Nat) (crews : Nat) (drays : Nat) (spares : Nat) : Statement (.partitionMove src dst crews drays spares) := of_none rfl

theorem coachmanTakeover : Statement .coachmanTakeover := of_none rfl

theorem powerStateEntry (part : Nat) : Statement (.powerStateEntry part) := of_none rfl

theorem powerWake (part : Nat) : Statement (.powerWake part) := of_none rfl

theorem thermalSample (m : ThermalData) : Statement (.thermalSample m) := of_none rfl

theorem thermalLevelExit : Statement .thermalLevelExit := of_none rfl

theorem bringupStage0 (p : Stage0Data) : Statement (.bringupStage0 p) := of_none rfl

theorem bringupStage1 : Statement .bringupStage1 := of_none rfl

theorem discoveryPacket (x : Nat) (y : Nat) (dir : Dir) : Statement (.discoveryPacket x y dir) := of_none rfl

theorem discoveryAnswer (core : Nat) : Statement (.discoveryAnswer core) := of_none rfl

theorem mapBuild : Statement .mapBuild := of_none rfl

theorem bringupStage2 (trained : Bool) (far : Bool) (checksum : BitVec 32) : Statement (.bringupStage2 trained far checksum) := of_none rfl

theorem bootWaitRelease (core : Nat) : Statement (.bootWaitRelease core) := of_none rfl

theorem bootExpiry : Statement .bootExpiry := of_none rfl

theorem bringupStage3 (p : Stage3Data) : Statement (.bringupStage3 p) := of_none rfl

theorem lockInterface (vd : Nat) : Statement (.lockInterface vd) := of_none rfl

theorem startInterface (vd : Nat) : Statement (.startInterface vd) := of_none rfl

theorem stopInterface (vd : Nat) : Statement (.stopInterface vd) := of_none rfl

theorem hostTransaction (t : HostTx) : Statement (.hostTransaction t) := of_none rfl

theorem mctpMessage (m : MgmtMsg) : Statement (.mctpMessage m) := of_none rfl

theorem firmwareUpdate (bar : Nat) : Statement (.firmwareUpdate bar) := of_none rfl

theorem scoredBankAccess (id : Nat) : Statement (.scoredBankAccess id) := of_none rfl

theorem fabricAcknowledgement (op : Nat) (mark : Bool) : Statement (.fabricAcknowledgement op mark) := of_none rfl

theorem drayQueueFullExpiry (sid : Nat) : Statement (.drayQueueFullExpiry sid) := of_none rfl

theorem checkpointUnitCopy : Statement .checkpointUnitCopy := of_none rfl

theorem frameAssignment (frame : Nat) (owner : Nat) (assigned : Bool) (fresh : Bool) : Statement (.frameAssignment frame owner assigned fresh) := of_none rfl

theorem queuePairCreation (qp : Nat) (c : QpConfig) : Statement (.queuePairCreation qp c) := of_none rfl

theorem vdCreation (vd : Nat) (c : VdConfig) : Statement (.vdCreation vd c) := of_none rfl

theorem reservedStrandRelease (sid : Nat) : Statement (.reservedStrandRelease sid) := of_none rfl

theorem openSlotPurge (vd : Nat) : Statement (.openSlotPurge vd) := of_none rfl

theorem emptyMaskWriteback (part : Nat) (die : Nat) : Statement (.emptyMaskWriteback part die) := of_none rfl

end Sys2Proof.Laws.RoundTrip
end

