-- ==== Sys2Proof/Certificates/Slice0/Obligations.lean ====
section
/-! DEFINITION. The statements for the provers. Each docstring names the rules of spec/ that a statement formalises, or what
it rests on where a choice of the model stands in it. -/
open Sys2Proof Sys2Proof.Machine

/-! ## Words the statements use -/

/-- The instruction takes effect: exec answers a next state, which is t with the word marked as done. -/
def Sys2Proof.Claims.Does (i : Instr) (s t : State) : Prop := exec i s = .next { t with last := .done }

/-- The instruction keeps its issue cycle empty: the next state is s with the word marked as held. -/
def Sys2Proof.Claims.Holds (i : Instr) (s : State) : Prop := exec i s = .next { s with last := .held }

/-- The instruction traps without other effect on the machine before the trap. -/
def Sys2Proof.Claims.Traps (i : Instr) (s : State) (t : TrapInfo) : Prop := exec i s = .next (raise s s t)

/-- The low n bits of g[r], as it stands at issue. -/
def Sys2Proof.Claims.low (n : Nat) (s : State) (r : GReg) : BitVec n := (s.rg r).setWidth n

/-- What a word that only lands results leaves alone: all of memory and every scratchpad byte, every other strand and core,
the launches, the package registers, and of the issuing strand everything but the results it owes. -/
def Sys2Proof.Claims.OnlyOwes (s t : State) : Prop :=
  t.mem = s.mem ∧ t.spad = s.spad ∧ (∀ c, t.core c = s.core c) ∧ t.launches = s.launches ∧ t.pkg = s.pkg ∧
  t.accesses = s.accesses ∧ t.ops = s.ops ∧ (∀ k, k ≠ s.cur.sid → t.strand k = s.strand k) ∧
  ∃ l, t.me = { s.me with pend := s.me.pend ++ l }

open Sys2Proof.Claims

/-! ## Encoding and the step -/

/-- Words written out from the spec's tables and worked examples (R114, R116, R357, R46 to R53) decode to what they stand for. -/
def Obligations.SpecWordsDecode : Prop :=
  (decodeWord 0xC0531DD1).toOption = some (.sub 5 6 7 ⟨3, true⟩ .w32) ∧
  (decodeWord 0xC4512345).toOption = some (.li 5 0x12345) ∧
  (decodeWord 0xC656789A).toOption = some (.lih 5 0x6789A) ∧
  (decodeWord 0x80007FC2).toOption = some (.trap 0x1FF) ∧
  (decodeWord 0x80000003).toOption = some .eret ∧
  (decodeWord 0x80000000).toOption = some .nop

/-- R45 to R53: decoding the word that a well-formed instruction encodes to gives the instruction back, with every operand at
every value that the encoding admits. -/
def Obligations.DecodeOfEncode : Prop :=
  ∀ i : Instr, i.wellFormed = true → ∀ w, encode i = some w → decodeWord w = .ok i

/-- R45 to R54: a word has one meaning. What a word decodes to is well formed and encodes to the same 31 bits, so a word with a
reserved field set, an unassigned minor or a reserved code decodes to nothing. -/
def Obligations.EncodeOfDecode : Prop :=
  ∀ (w : Nat) (i : Instr), decodeWord w = .ok i → i.wellFormed = true ∧ encode i = some (w % 2 ^ 31)

/-- R42: the illegal-pair trap of a joined pair whose words share a destination; g0 is exempt, and so are two files. -/
def Sys2Proof.Claims.JoinedPairDestinations : Prop :=
  ∀ w0 w1 : Nat, fld w0 31 1 = 0 → fld w1 31 1 = 0 → isCClass w0 = true → isCClass w1 = false →
    ((∃ r : GReg, r ≠ 0 ∧ wordDest w0 = some r ∧ wordDest w1 = some r) → decodePair w0 w1 = .error .illegalPair) ∧
    ((¬ ∃ r : GReg, r ≠ 0 ∧ wordDest w0 = some r ∧ wordDest w1 = some r) → decodePair w0 w1 = .ok (.joined w0 w1))

/-- R40: pairs that are neither two lone words nor a C word with an A word issue nothing. -/
def Sys2Proof.Claims.PairKinds : Prop :=
  ∀ w0 w1 : Nat,
    (fld w0 31 1 ≠ fld w1 31 1 → decodePair w0 w1 = .error .illegalPair) ∧
    (fld w0 31 1 = 1 → fld w1 31 1 = 1 → decodePair w0 w1 = .ok (.lone w0 w1)) ∧
    (fld w0 31 1 = 0 → fld w1 31 1 = 0 → (isCClass w0 && !isCClass w1) = false → decodePair w0 w1 = .error .illegalPair)

/-- R16, R40, R44: with nothing due, the step of the strand at the head of the cycle fetches the pair at its pc, and for a lone
pair runs exec of the decoded word in the state in which the pc has moved past it; a word that keeps its cycle empty leaves the
pc where it was (R34). The counting of issued and empty turns is R345's. -/
def Obligations.StepRunsLoneWord : Prop :=
  ∀ (s u v : State) (sid : Nat) (rest : List Nat) (w0 w1 : Nat) (i : Instr),
    let x := u.strand sid
    let w := if x.pc.getLsbD 2 then w1 else w0
    let t := v.issued ⟨sid, BitVec.ofNat 64 (x.pc.toNat / 8 * 8), x.pc.getLsbD 2, false, BitVec.ofNat 32 w⟩
    s.takeInbox = none → s.takeDue = none → s.toIssue = sid :: rest → State.toFetch { s with toIssue := rest } sid = .ok u →
    x.pendingTrap = none → u.fetchPair sid (x.pc.toNat / 8 * 8) = (v, .ok (w0, w1)) →
    decodePair w0 w1 = .ok (.lone w0 w1) → decodeWord w = .ok i →
    step s = match exec i t with
      | .next r =>
        if r.last = .held then
          .next ((r.modStrand r.cur.sid fun y => { y with
            pc := (u.strand r.cur.sid).pc, prev := (u.strand r.cur.sid).prev, seq := (u.strand r.cur.sid).seq }).perf r.cur.sid 3 1)
        else .next (r.perf r.cur.sid 2 1)
      | o => o

/-- R40, R41, R43: a joined pair runs its C word and then its A word in one turn, the A word behind it in the order of issue; where the A word
keeps the cycle empty or traps, the C word has no effect either. -/
def Obligations.StepRunsJoinedPair : Prop :=
  ∀ (s u v p q : State) (sid : Nat) (rest : List Nat) (w0 w1 : Nat) (c a : Instr),
    let x := u.strand sid
    let t := v.issued ⟨sid, BitVec.ofNat 64 (x.pc.toNat / 8 * 8), false, true, BitVec.ofNat 32 w0⟩
    s.takeInbox = none → s.takeDue = none → s.toIssue = sid :: rest → State.toFetch { s with toIssue := rest } sid = .ok u →
    x.pendingTrap = none → x.pc.getLsbD 2 = false → x.heldLoop = none →
    u.fetchPair sid (x.pc.toNat / 8 * 8) = (v, .ok (w0, w1)) →
    decodePair w0 w1 = .ok (.joined w0 w1) → decodeWord w0 = .ok c → decodeWord w1 = .ok a →
    exec c (t.position false w0) = .next p → p.last = .done → exec a (p.position true w1).behind = .next q →
    (q.last = .done → step s = .next (q.perf q.cur.sid 2 1)) ∧
    (q.last = .held → step s = .next (((t.position true w1).keepEmpty.modStrand sid fun y =>
      { y with pc := x.pc, prev := x.prev, seq := x.seq }).perf sid 3 1)) ∧
    (∀ i, q.last = .trapped i →
      let r := (t.position true w1).chargePair i
      step s = .next (r.perf r.cur.sid 2 1))

/-- R13, R334: a step with nothing due and no strand left to issue is the next ensemble cycle: ENCY rises by 1. -/
def Obligations.StepAdvancesTheCycle : Prop :=
  ∀ s : State, s.takeInbox = none → s.takeDue = none → s.toIssue = [] →
    ∃ t, step s = .next t ∧ t.pkg.ency = s.pkg.ency + 1

/-- R65, R334, R388, R391: what reset leaves, and the canonical form of log 2 at reset. Every strand slot is idle with registers of
zero, ENCY is 0 (the model's choice, log 10), STAGE 7, nothing is due, and every byte of physical space reads as 0 (the model's choices,
log 4 and log 5). -/
def Obligations.ResetState : Prop :=
  let s := State.reset
  Canonical s ∧ (∀ k, (s.strand k).slot = .idle ∧ (s.strand k).pc = 0 ∧ (s.strand k).g = Vector.replicate 32 0 ∧
    (s.strand k).p = 0 ∧ (s.strand k).tk = Vector.replicate 16 0 ∧ (s.strand k).priv = 0 ∧ (s.strand k).fpctl = 0) ∧
  s.pkg.ency = 0 ∧ s.pkg.stage = 7 ∧ s.agenda = [] ∧ s.toIssue = [] ∧ (∀ a n, s.memRead a n = List.replicate n 0)

/-- Log 2: every step keeps memory, the scratchpads and the tables by number in the one canonical form. -/
def Obligations.StepKeepsCanonical : Prop := ∀ s t : State, Canonical s → step s = .next t → Canonical t
/-! ## Landing -/

/-- R72, R73: a word that lands results in g or p changes nothing else: it adds them to what its strand owes (R27). -/
def Sys2Proof.Claims.LandingFrame : Prop :=
  ∀ (s : State) (d : GReg) (p : PReg) (v : Word) (b : Bool) (n : Nat), Canonical s →
    OnlyOwes s (s.landG d v n) ∧ OnlyOwes s (s.landP p b n) ∧
    s.landG 0 v n = s ∧ s.landP 0 b n = s

/-- R65, R66, R72, R74, R79: at its land turn the one result that a strand owes replaces its register, whole, and clears the errors of its
words; g0 and p0 discard it; no other register of the strand changes, and no other strand, core, launch or byte of memory. -/
def Sys2Proof.Claims.ResultLands : Prop :=
  ∀ (s : State) (sid seq turn due : Nat) (d : Dst) (v : Wide),
    let x := s.strand sid
    Canonical s → s.scored sid = true → x.started = [] → x.ended = [] → x.log = [] → s.groupWritten sid [d] = none →
    (s.core (coreOf sid)).csrPend = [] → (∃ r, d = .g r) ∨ (∃ r, d = .p r) ∨ (∃ r, d = .m r) →
    x.pend = [⟨seq, turn, d, some v, BitVec.allOnes 65536, some due, false⟩] → due ≤ s.lcy sid →
    ∃ t, exec (.land sid) s = .next t ∧ t.strand sid = { x.put d v with
        pend := []
        poison := x.poison.filter fun e => !(e.1 == d && covers d (BitVec.allOnes 65536) e.2)
        soft := x.soft.filter fun e => !(e.1 == d && covers d (BitVec.allOnes 65536) e.2) } ∧
      (∀ k, k ≠ sid → t.strand k = s.strand k) ∧ (∀ c, t.core c = s.core c) ∧ t.launches = s.launches ∧
      t.mem = s.mem ∧ t.spad = s.spad

/-- R65, R66: registers hard-wired to a value read it whatever was put into them. -/
def Sys2Proof.Claims.HardWiredRegisters : Prop :=
  ∀ (x : Strand) (v : Wide),
    (x.put (.g 0) v).rg 0 = 0 ∧ (x.put (.p 0) v).rp 0 = true ∧ (x.put (.m 0) v).rm 0 = BitVec.allOnes 8192 ∧
    x.put (.g 0) v = x ∧ x.put (.p 0) v = x ∧ x.put (.m 0) v = x ∧
    (∀ r : GReg, r ≠ 0 → (x.put (.g r) v).rg r = v.setWidth 64 ∧ ∀ q, q ≠ r → (x.put (.g r) v).rg q = x.rg q) ∧
    (∀ r : PReg, r ≠ 0 → (x.put (.p r) v).rp r = v.getLsbD 0 ∧ ∀ q, q ≠ r → (x.put (.p r) v).rp q = x.rp q)

/-! ## Scalar words (05) -/

/-- R112 to R114: ADD, SUB, AND, OR and XOR work on the low w bits and land the w-bit result extended by its sign. -/
def Sys2Proof.Claims.AluSums : Prop :=
  ∀ (s : State) (d a b : GReg) (gd : Guard) (w : Width), s.Ready { gd := gd, src := [.g a, .g b], dst := [.g d] } →
    let x := low w.bits s a
    let y := low w.bits s b
    Does (.add d a b gd w) s (s.landG d ((x + y).signExtend 64) 1) ∧
    Does (.sub d a b gd w) s (s.landG d ((x - y).signExtend 64) 1) ∧
    Does (.and d a b gd w) s (s.landG d ((x &&& y).signExtend 64) 1) ∧
    Does (.or d a b gd w) s (s.landG d ((x ||| y).signExtend 64) 1) ∧
    Does (.xor d a b gd w) s (s.landG d ((x ^^^ y).signExtend 64) 1)

/-- R113: the shift count is the whole of g[b]; a count of w or more gives 0 for SHL and SHR and copies of the sign for SAR. -/
def Sys2Proof.Claims.AluShifts : Prop :=
  ∀ (s : State) (d a b : GReg) (gd : Guard) (w : Width), s.Ready { gd := gd, src := [.g a, .g b], dst := [.g d] } →
    let x := low w.bits s a
    let c := (s.rg b).toNat
    Does (.shl d a b gd w) s (s.landG d ((x <<< c).signExtend 64) 1) ∧
    Does (.shr d a b gd w) s (s.landG d ((x >>> c).setWidth 64) 1) ∧
    Does (.sar d a b gd w) s (s.landG d ((x.sshiftRight c).signExtend 64) 1)

/-- R113: minima and maxima, signed and unsigned; SEL selects by its predicate. -/
def Sys2Proof.Claims.AluSelects : Prop :=
  ∀ (s : State) (d a b : GReg) (gd : Guard) (w : Width) (pr : PReg) (pn : Bool),
    let x := low w.bits s a
    let y := low w.bits s b
    (s.Ready { gd := gd, src := [.g a, .g b], dst := [.g d] } →
      Does (.min d a b gd w) s (s.landG d ((if x.sle y then x else y).signExtend 64) 1) ∧
      Does (.max d a b gd w) s (s.landG d ((if y.sle x then x else y).signExtend 64) 1) ∧
      Does (.minn d a b gd w) s (s.landG d ((if x ≤ y then x else y).setWidth 64) 1) ∧
      Does (.maxn d a b gd w) s (s.landG d ((if y ≤ x then x else y).setWidth 64) 1)) ∧
    (s.Ready { src := [.g a, .g b, .p pr], dst := [.g d] } →
      Does (.sel d a b pr pn) s (s.landG d (if (s.me.rp pr ^^ pn) = true then s.rg a else s.rg b) 1))

/-- R113: CLZ lands the number r of leading zero bits: the top r bits are zero and the next, if any, is one. POPC lands the number
of one bits. -/
def Sys2Proof.Claims.AluCounts : Prop :=
  ∀ (s : State) (d a : GReg) (gd : Guard) (w : Width), s.Ready { gd := gd, src := [.g a], dst := [.g d] } →
    let n := w.bits
    let x := low n s a
    (∃ r, r ≤ n ∧ Does (.clz d a gd w) s (s.landG d (BitVec.ofNat 64 r) 1) ∧
      (∀ i, n - r ≤ i → i < n → x.getLsbD i = false) ∧ (r < n → x.getLsbD (n - 1 - r) = true)) ∧
    Does (.popc d a gd w) s (s.landG d (BitVec.ofNat 64 ((List.range n).countP fun i => x.getLsbD i)) 1)

/-- R115, R116: the words with an immediate: its 12 bits are sign-extended, a shift count is 6 bits, LI lands 20 bits sign-extended, and LIH
shifts 20 more in from below. -/
def Sys2Proof.Claims.ImmediateWords : Prop :=
  ∀ (s : State) (d a : GReg) (imm : Fin 4096) (cnt : Fin 64) (k : Fin 1048576),
    let i := (BitVec.ofNat 12 imm).signExtend 64
    (s.Ready { src := [.g a], dst := [.g d] } →
      Does (.addi d a imm) s (s.landG d (s.rg a + i) 1) ∧
      Does (.andi d a imm) s (s.landG d (s.rg a &&& i) 1) ∧
      Does (.ori d a imm) s (s.landG d (s.rg a ||| i) 1) ∧
      Does (.xori d a imm) s (s.landG d (s.rg a ^^^ i) 1) ∧
      Does (.shli d a cnt) s (s.landG d (s.rg a <<< cnt.val) 1) ∧
      Does (.shri d a cnt) s (s.landG d (s.rg a >>> cnt.val) 1) ∧
      Does (.sari d a cnt) s (s.landG d ((s.rg a).sshiftRight cnt.val) 1)) ∧
    (s.Ready { dst := [.g d] } → Does (.li d k) s (s.landG d ((BitVec.ofNat 20 k).signExtend 64) 1)) ∧
    (s.Ready { src := [.g d], dst := [.g d] } → Does (.lih d k) s (s.landG d ((s.rg d <<< 20) ||| BitVec.ofNat 64 k) 1))

/-- R112, R117: products land in 2 turns; MULH and MULHN give the upper half of the double-width product. -/
def Sys2Proof.Claims.Products : Prop :=
  ∀ (s : State) (d a b : GReg) (gd : Guard) (w : Width), s.Ready { gd := gd, src := [.g a, .g b], dst := [.g d] } →
    let n := w.bits
    let x := low n s a
    let y := low n s b
    Does (.mul d a b gd w) s (s.landG d ((x * y).signExtend 64) 2) ∧
    Does (.mulh d a b gd w) s (s.landG d (((x.signExtend (2 * n) * y.signExtend (2 * n)).extractLsb' n n).signExtend 64) 2) ∧
    Does (.mulhn d a b gd w) s (s.landG d (((x.setWidth (2 * n) * y.setWidth (2 * n)).extractLsb' n n).setWidth 64) 2)

/-- R117: quotients and remainders land in 8 turns; signed ones are rounded towards zero. -/
def Sys2Proof.Claims.Quotients : Prop :=
  ∀ (s : State) (d a b : GReg) (gd : Guard) (w : Width), s.Ready { gd := gd, src := [.g a, .g b], dst := [.g d] } →
    let x := low w.bits s a
    let y := low w.bits s b
    y ≠ 0 →
    Does (.div d a b gd w) s (s.landG d ((x.sdiv y).signExtend 64) 8) ∧
    Does (.divn d a b gd w) s (s.landG d ((x / y).setWidth 64) 8) ∧
    Does (.rem d a b gd w) s (s.landG d ((x.srem y).signExtend 64) 8) ∧
    Does (.remn d a b gd w) s (s.landG d ((x % y).setWidth 64) 8)

/-- R118: the borderline divisions, by zero and of the least number by −1, with no trap and no flag; and the rule's two examples, of which
the first is the second clause at 32 bits. -/
def Obligations.DivisionEdges : Prop :=
  ∀ (s : State) (d a b : GReg) (gd : Guard) (w : Width), s.Ready { gd := gd, src := [.g a, .g b], dst := [.g d] } →
    let n := w.bits
    let x := low n s a
    let y := low n s b
    (y = 0 →
      Does (.div d a b gd w) s (s.landG d (-1) 8) ∧
      Does (.divn d a b gd w) s (s.landG d ((BitVec.allOnes n).setWidth 64) 8) ∧
      Does (.rem d a b gd w) s (s.landG d (x.signExtend 64) 8) ∧
      Does (.remn d a b gd w) s (s.landG d (x.setWidth 64) 8)) ∧
    (x = BitVec.intMin n → y = BitVec.allOnes n →
      Does (.div d a b gd w) s (s.landG d ((BitVec.intMin n).signExtend 64) 8) ∧
      Does (.rem d a b gd w) s (s.landG d 0 8)) ∧
    (w = .w32 → x.toInt = -7 → y.toInt = 2 → Does (.rem d a b gd w) s (s.landG d (-1) 8))

/-- R119: comparisons of the low w bits land 1 or 0 in p[d]. -/
def Sys2Proof.Claims.Comparisons : Prop :=
  ∀ (s : State) (d : PReg) (a b : GReg) (gd : Guard) (w : Width), s.Ready { gd := gd, src := [.g a, .g b], dst := [.p d] } →
    let x := low w.bits s a
    let y := low w.bits s b
    Does (.cmpEq d a b gd w) s (s.landP d (decide (x = y)) 1) ∧
    Does (.cmpNe d a b gd w) s (s.landP d (decide (x ≠ y)) 1) ∧
    Does (.cmpLt d a b gd w) s (s.landP d (x.slt y) 1) ∧
    Does (.cmpGe d a b gd w) s (s.landP d (y.sle x) 1) ∧
    Does (.cmpLtn d a b gd w) s (s.landP d (decide (x < y)) 1) ∧
    Does (.cmpGen d a b gd w) s (s.landP d (decide (y ≤ x)) 1)

/-- R120: predicate logic; p0 reads true. -/
def Sys2Proof.Claims.PredicateLogic : Prop :=
  ∀ (s : State) (d a b : PReg) (gd : Guard), s.Ready { gd := gd, src := [.p a, .p b], dst := [.p d] } →
    let x := a = 0 ∨ s.me.p.getLsbD a = true
    let y := b = 0 ∨ s.me.p.getLsbD b = true
    ∃ r1 r2 r3 r4 : Bool,
      (r1 = true ↔ x ∧ y) ∧ (r2 = true ↔ x ∨ y) ∧ (r3 = true ↔ ¬ (x ↔ y)) ∧ (r4 = true ↔ x ∧ ¬ y) ∧
      Does (.plogAnd d a b gd) s (s.landP d r1 1) ∧ Does (.plogOr d a b gd) s (s.landP d r2 1) ∧
      Does (.plogXor d a b gd) s (s.landP d r3 1) ∧ Does (.plogAndn d a b gd) s (s.landP d r4 1)

/-- R121: BFX and BFXS extract a field, and BFI replaces the bits of a field and no other bit. -/
def Sys2Proof.Claims.BitFields : Prop :=
  ∀ (s : State) (d a : GReg) (len1 pos : Fin 64), pos.val + len1.val + 1 ≤ 64 →
    let len := len1.val + 1
    (s.Ready { src := [.g a], dst := [.g d] } →
      Does (.bfx d a len1 pos) s (s.landG d (((s.rg a).extractLsb' pos len).setWidth 64) 1) ∧
      Does (.bfxs d a len1 pos) s (s.landG d (((s.rg a).extractLsb' pos len).signExtend 64) 1)) ∧
    (s.Ready { src := [.g d, .g a], dst := [.g d] } →
      ∃ v, Does (.bfi d a len1 pos) s (s.landG d v 1) ∧ ∀ i, i < 64 →
        v.getLsbD i = if pos.val ≤ i ∧ i < pos.val + len then (s.rg a).getLsbD (i - pos.val) else (s.rg d).getLsbD i)

/-- R47, R114: a guarded scalar word whose guard is false issues and lands nothing. -/
def Sys2Proof.Claims.FalseGuard : Prop :=
  ∀ (s : State) (i : Instr) (u : Use) (d a b : GReg) (p q r : PReg) (gd : Guard) (w : Width) (off : Fin 2097152),
    (u = { gd := gd, src := [.g a, .g b], dst := [.g d] } ∧
      i ∈ [.add d a b gd w, .sub d a b gd w, .and d a b gd w, .or d a b gd w, .xor d a b gd w, .shl d a b gd w, .shr d a b gd w,
        .sar d a b gd w, .min d a b gd w, .max d a b gd w, .minn d a b gd w, .maxn d a b gd w, .mul d a b gd w, .mulh d a b gd w,
        .mulhn d a b gd w, .div d a b gd w, .divn d a b gd w, .rem d a b gd w, .remn d a b gd w] ∨
     u = { gd := gd, src := [.g a], dst := [.g d] } ∧ i ∈ [.clz d a gd w, .popc d a gd w] ∨
     u = { gd := gd, src := [.g a, .g b], dst := [.p p] } ∧
      i ∈ [.cmpEq p a b gd w, .cmpNe p a b gd w, .cmpLt p a b gd w, .cmpGe p a b gd w, .cmpLtn p a b gd w, .cmpGen p a b gd w] ∨
     u = { gd := gd, src := [.p q, .p r], dst := [.p p] } ∧
      i ∈ [.plogAnd p q r gd, .plogOr p q r gd, .plogXor p q r gd, .plogAndn p q r gd] ∨
     u = { gd := gd } ∧ i = .br gd off) →
    s.mustWait u = false → s.me.guard gd = false → Does i s s

/-- R27: on a free core a word that reads or writes a register with a result owed from an earlier turn keeps its issue cycle
empty. g0 and p0, whose writes are discarded (R65, R66), hold no word back. -/
def Sys2Proof.Claims.Interlock : Prop :=
  ∀ (s : State) (d a b : GReg) (gd : Guard) (w : Width) (p : Pend), s.scored s.cur.sid = false → s.me.guard gd = true →
    p ∈ s.me.pend → p.turn < s.turn → p.dst ∈ [.g a, .g b, .g d, .p gd.pr] → p.dst ≠ .g 0 → p.dst ≠ .p 0 →
    Holds (.add d a b gd w) s ∧ Holds (.sub d a b gd w) s ∧ Holds (.mul d a b gd w) s ∧ Holds (.div d a b gd w) s
/-! ## Control (05), time (13) and traps (17) -/

/-- R122 to R124: a transfer of control sets the pc to the target and nothing else; CALL and CALLR land the return address in g31. -/
def Obligations.Transfers : Prop :=
  ∀ (s : State) (gd : Guard) (off : Fin 2097152) (o : Fin 1048576) (a : GReg),
    let goes (s : State) (target : Word) : State := s.modMe fun x => { x with pc := target }
    (s.Ready { gd := gd } → Does (.br gd off) s (goes s (s.cur.pair + ((BitVec.ofNat 21 off).signExtend 64 <<< 3)))) ∧
    (s.Ready {} → Does (.jmp o) s (goes s (s.cur.pair + ((BitVec.ofNat 20 o).signExtend 64 <<< 3)))) ∧
    (s.Ready { dst := [.g 31] } →
      Does (.call o) s (goes (s.landG 31 s.cur.next 1) (s.cur.pair + ((BitVec.ofNat 20 o).signExtend 64 <<< 3)))) ∧
    (s.Ready { src := [.g a] } →
      if s.rg a &&& 3#64 = 0 then Does (.ret a) s (goes s (s.rg a)) else Traps (.ret a) s { cause := 5, eval := s.rg a }) ∧
    (s.Ready { src := [.g a], dst := [.g 31] } →
      if s.rg a &&& 3#64 = 0 then Does (.callr a) s ((goes s (s.rg a)).landG 31 s.cur.next 1)
      else Traps (.callr a) s { cause := 5, eval := s.rg a })

/-- R125, R53: NOP and the hint words have no effect. -/
def Sys2Proof.Claims.HintsDoNothing : Prop :=
  ∀ (s : State) (h : Fin 4) (x : Fin 33554432), s.Ready {} → Does .nop s s ∧ Does (.cHint h x) s s ∧ Does (.aHint h x) s s

/-- R126: HALT leaves the strand halted; a strand of a launch is counted as complete. -/
def Sys2Proof.Claims.HaltHalts : Prop :=
  ∀ s : State, s.Ready { outward := true } →
    (∀ l, s.me.launch = some l →
      Does .halt s ((s.modMe fun x => { x with slot := .halted }).now prioCount (.unitCompletion s.cur.sid))) ∧
    (s.me.launch = none → s.partOf (coreOf s.cur.sid) = none → Does .halt s (s.modMe fun x => { x with slot := .halted }))

/-- R353, R354, R357: TRAP on a free strand below coach level with a handler: EPC holds the next word to issue, ECAUSE 14, EVAL the
code, ESTAT the level with INH set, and the pc is TVEC at supervisor level or above; what poison those registers held is gone (R79). Nothing
else changes. -/
def Obligations.TrapEntersHandler : Prop :=
  ∀ (s : State) (code : Fin 512), Canonical s → s.Ready {} → s.scored s.cur.sid = false → s.me.leaving = none → s.me.oldestVec = none →
    s.me.slot ≠ .preempted → s.me.priv ≤ 1 → s.me.tvec ≠ 0 → s.me.estat.getLsbD 2 = false →
    ∃ t, exec (.trap code) s = .next t ∧
      t.me = { s.me with
        epc := s.cur.next, ecause := 14, eval := BitVec.ofNat 64 code, estat := BitVec.ofNat 8 (s.me.priv + 4), priv := 1
        poison := s.me.poison.filter fun e => !([Dst.csr 0x21, .csr 0x22, .csr 0x23, .csr 0x24].contains e.1)
        pc := s.me.tvec, slot := .runnable, wait := some .drain } ∧
      t.mem = s.mem ∧ t.spad = s.spad ∧ (∀ k, k ≠ s.cur.sid → t.strand k = s.strand k) ∧ t.launches = s.launches ∧ t.pkg = s.pkg

/-- R353, R354: a trap that is handled on its strand saves the charged address, cause, value and level, and enters TVEC; at coach
level the level stays coach. -/
def Sys2Proof.Claims.TrapSavesState : Prop :=
  ∀ (s : State) (sid : Nat) (i : TrapInfo) (epc : Word), s.scored sid = false → (s.strand sid).leaving = none →
    (s.strand sid).slot ≠ .preempted → i.cause ≠ 10 → i.cause ≠ 11 → i.cause ≠ 12 → (s.strand sid).estat.getLsbD 2 = false →
    ((s.strand sid).priv ≤ 1 ∧ (s.strand sid).tvec ≠ 0 ∨ (s.strand sid).priv = 2) →
    let x := s.strand sid
    s.takeTrap sid i epc = s.setStrand sid { x with
      epc := epc, ecause := BitVec.ofNat 16 (i.cause + 2 ^ 8 * i.detail + 2 ^ 13 * i.level), eval := i.eval
      estat := BitVec.ofNat 8 (x.priv + 4 + if i.vect then 8 else 0), priv := if x.priv = 0 then 1 else x.priv
      poison := x.poison.filter fun e => !([Dst.csr 0x21, .csr 0x22, .csr 0x23, .csr 0x24].contains e.1)
      pc := x.tvec, slot := .runnable, wait := some .drain }

/-- R353, R343: a coach-level trap inside a handler stops that Coachman. -/
def Sys2Proof.Claims.CoachTrapInHandlerStops : Prop :=
  ∀ (s : State) (sid : Nat) (i : TrapInfo) (epc : Word), Canonical s → s.scored sid = false → (s.strand sid).leaving = none →
    (s.strand sid).slot ≠ .preempted → i.cause ≠ 10 → i.cause ≠ 11 → i.cause ≠ 12 → (s.strand sid).priv = 2 → (s.strand sid).estat.getLsbD 2 = true →
    let t := s.takeTrap sid i epc
    (t.strand sid).slot = .halted ∧ (t.strand sid).stopped = true ∧ t.pkg.coachStopped = true ∧ (t.strand sid).epc = (s.strand sid).epc

/-- R358: ERET returns to EPC at the level of ESTAT.PPRIV and clears INH; a level above the strand's own, or 3, is the privilege
trap and changes nothing. -/
def Obligations.EretReturns : Prop :=
  ∀ s : State, Canonical s → s.Ready { level := 1, src := [.csr 0x21, .csr 0x24] } → s.me.oldestVec = none →
    let p := (s.me.estat &&& 3#8).toNat
    (p ≤ s.me.priv → p ≠ 3 → s.me.epc &&& 3#64 = 0 →
      ∃ t, exec .eret s = .next t ∧ t.last = .done ∧
        t.me = { s.me with pc := s.me.epc, priv := p, estat := s.me.estat &&& 0xFB#8 } ∧
        t.mem = s.mem ∧ t.spad = s.spad ∧ (∀ k, k ≠ s.cur.sid → t.strand k = s.strand k) ∧ t.launches = s.launches ∧ t.pkg = s.pkg) ∧
    (s.me.priv < p ∨ p = 3 → Traps .eret s { cause := 4, eval := s.cur.raw.setWidth 64 }) ∧
    (p ≤ s.me.priv → p ≠ 3 → s.me.epc &&& 3#64 ≠ 0 → Traps .eret s { cause := 5, eval := s.me.epc })

/-- R69, R328, R358, R370: at program level the words of a higher level raise the privilege trap, whatever else they would meet. -/
def Obligations.PrivilegedWordsTrap : Prop :=
  ∀ (s : State) (d a b : GReg) (tk : TkReg) (cn : CnReg) (csr : Fin 512) (i : Instr), s.me.priv = 0 →
    i ∈ [.eret, .tune a, .tlbinvPage d a b, .tlbinvVd d b, .migset d a b, .mint tk d a b, .revokePort d a, .revokeKey d a b,
      .keysetSet d a b, .keysetWin d a b, .keysetErase d a b, .admitTab d a b, .ckpt d a cn ⟨0, false⟩, .xlatRead d a b, .xlatWrite d a b, .xlatFetch d a b, .xlatProbe d a b,
      .ctxsave d a, .ctxload d a] ∨
    (i = .csrr d csr ∨ i = .csrw csr a ∨ i = .csrx d csr a) ∧ 0x20 ≤ csr.val ∧ csr.val ≤ 0x25 →
    Traps i s { cause := 4, eval := s.cur.raw.setWidth 64 }

/-- R292: AT always completes. It parks the strand until its target LCY; a target that the next turn reaches leaves the strand runnable. -/
def Sys2Proof.Claims.AtParks : Prop :=
  ∀ (s : State) (a : GReg) (imm : Fin 4096), s.Ready { src := [.g a] } →
    let t := (s.rg a + (BitVec.ofNat 12 imm).signExtend 64).toNat
    let parked := (s.modMe fun x => { x with slot := .parked (.atLcy t) }).owe (some (s.clockOf s.cur.sid)) t prioWake (.atWake s.cur.sid)
    exec (.atLcy a imm) s = .next { (if t ≤ s.turn + 16 then s else parked) with last := .done }

/-- R280, R291: CUE completes, with no effect, on a free core, and on a scored one where its entry in the cue table that the core holds for
the strand's launch holds the LCY of its issue; at any other LCY it is a deviation. -/
def Sys2Proof.Claims.CueChecksTheTurn : Prop :=
  ∀ (s : State) (n : Fin 4096), s.Ready {} →
    let e := tget 0 n.val ((look (s.me.launch.getD 0) (s.core (coreOf s.cur.sid)).cues).getD [])
    let on := e.getLsbD 31 = true ∧ 4096 * (e.toNat / 4096 % 65536) + e.toNat % 4096 = s.turn
    (s.scored s.cur.sid = false → exec (.cue n) s = .next { s with last := .done }) ∧
    (on → exec (.cue n) s = .next { s with last := .done }) ∧
    (s.scored s.cur.sid = true → ¬ on → Traps (.cue n) s { cause := 16, eval := BitVec.ofNat 64 s.turn })

/-- R338: TUNE completes at coach level, for every operand. It sets the correction of the first bar gap at least 64 cycles away, from its code
and, for code 0, the drift: that of the coming gap, or where it is nearer that of the one after it. -/
def Sys2Proof.Claims.TuneSetsSlip : Prop :=
  ∀ (s : State) (a : GReg), s.Ready { level := 2, src := [.g a] } →
    let near := barLineAt (s.pkg.ency + 1) < s.pkg.ency + 64
    ∃ v, exec (.tune a) s = .next { (s.modPkg fun k => if near then { k with slipNext := some v } else { k with slip := v }) with last := .done } ∧
      (s.rg a &&& 3#64 = 1 → v = 1) ∧ (s.rg a &&& 3#64 = 2 → v = 2) ∧ (s.rg a &&& 3#64 = 3 → v = 3) ∧
      (s.rg a &&& 3#64 = 0 → (128 ≤ s.pkg.drift.toInt → v = 1) ∧ (s.pkg.drift.toInt ≤ -128 → v = 3) ∧
        (-128 < s.pkg.drift.toInt → s.pkg.drift.toInt < 128 → v = 2))

/-! ## Control and status registers (R68 to R71, R128, R129) -/

/-- R129: CSRR lands the register's value 2 turns after issue. -/
def Sys2Proof.Claims.CsrReads : Prop :=
  ∀ (s : State) (d : GReg) (csr : Fin 512) (r : Nat) (w : Option Nat), csrLevels csr = some (r, w) →
    s.Ready { level := r, src := csrSrc csr, dst := [.g d] } →
    ∃ v, Does (.csrr d csr) s (s.landG d v 2) ∧
      (csr.val = 0x00 → v = s.me.fpctl.setWidth 64) ∧ (csr.val = 0x02 → v = BitVec.ofNat 64 s.me.priv) ∧
      (csr.val = 0x10 → v = BitVec.ofNat 64 s.turn) ∧ (csr.val = 0x12 → v = BitVec.ofNat 64 (s.turn % 16)) ∧
      (csr.val = 0x13 → v = BitVec.ofNat 64 s.pkg.ency) ∧ (csr.val = 0x20 → v = s.me.tvec) ∧ (csr.val = 0x21 → v = s.me.epc) ∧
      (csr.val = 0x22 → v = s.me.ecause.setWidth 64) ∧ (csr.val = 0x23 → v = s.me.eval) ∧
      (csr.val = 0x24 → v = s.me.estat.setWidth 64) ∧ (csr.val = 0x25 → v = s.me.sscratch) ∧
      (csr.val = 0x49 → v = BitVec.ofNat 64 (s.core (coreOf s.cur.sid)).harpw)

/-- R69, R129: CSRW and CSRX write a strand-scope CSR 2 turns after issue, and CSRX lands the old value. -/
def Sys2Proof.Claims.CsrWrites : Prop :=
  ∀ (s : State) (d a : GReg) (csr : Fin 512) (r l : Nat), csrLevels csr = some (r, some l) → csr.val < 0x40 →
    (s.Ready { level := l, src := [.g a], dst := [.csr csr] } →
      Does (.csrw csr a) s (s.landWide (.csr csr) ((s.rg a).setWidth 65536) 2)) ∧
    (s.Ready { level := l, src := .g a :: csrSrc csr, dst := [.g d, .csr csr] } →
      Does (.csrx d csr a) s ((s.landG d (s.csr s.cur.sid csr) 2).landWide (.csr csr) ((s.rg a).setWidth 65536) 2))

/-- R68, R69: a CSR number that is unassigned is an illegal instruction, and a write of a CSR that nothing sets is a privilege trap. -/
def Sys2Proof.Claims.CsrRefusals : Prop :=
  ∀ (s : State) (d a : GReg) (csr : Fin 512),
    (csrLevels csr = none →
      Traps (.csrr d csr) s { cause := 2, eval := s.cur.raw.setWidth 64 } ∧
      Traps (.csrw csr a) s { cause := 2, eval := s.cur.raw.setWidth 64 } ∧
      Traps (.csrx d csr a) s { cause := 2, eval := s.cur.raw.setWidth 64 }) ∧
    (∀ r, csrLevels csr = some (r, none) →
      Traps (.csrw csr a) s { cause := 4, eval := s.cur.raw.setWidth 64 } ∧
      Traps (.csrx d csr a) s { cause := 4, eval := s.cur.raw.setWidth 64 })

/-- R6, R69, R70, R354: what a written value leaves in a strand-scope CSR: reserved fields read as zero, TVEC names a pair, and a
supervisor sets every field of ESTAT but VECT. No other register of the strand changes. -/
def Sys2Proof.Claims.CsrFields : Prop :=
  ∀ (x : Strand) (v : Word),
    x.setCsr 0x00 v = { x with fpctl := v.setWidth 32 &&& 0x1F3#32 } ∧
    x.setCsr 0x20 v = { x with tvec := v - (v &&& 7#64) } ∧
    x.setCsr 0x21 v = { x with epc := v } ∧ x.setCsr 0x22 v = { x with ecause := v.setWidth 16 } ∧
    x.setCsr 0x23 v = { x with eval := v } ∧ x.setCsr 0x25 v = { x with sscratch := v } ∧
    (∀ i, i < 8 → (x.setCsr 0x24 v).estat.getLsbD i = if i < 3 then v.getLsbD i else if i = 3 then x.estat.getLsbD 3 else false)
/-! ## Memory words (08, 09, 15) -/

/-- The word starts the access x, checked in the state u, with the one element e: the access is in flight, its result is owed
where it has one, and nothing else has changed yet. -/
def Sys2Proof.Claims.Starts (i : Instr) (s u : State) (x : Access) (e : Elem) (k : AccKind) (d : Option Dst) : Prop :=
  ∃ t a, exec i s = .next t ∧ t.last = .done ∧ t.accesses = bind u.nextId a u.accesses ∧
    a.sid = x.sid ∧ a.seq = x.seq ∧ a.kind = k ∧ a.place = x.place ∧ a.bytes = x.bytes ∧ a.dst = d ∧ a.cycles = [[e]] ∧
    t.mem = u.mem ∧ t.spad = u.spad ∧ t.launches = u.launches ∧ t.pkg = u.pkg ∧
    (∀ j, j ≠ s.cur.sid → t.strand j = u.strand j) ∧
    t.me = { u.me with pend := u.me.pend ++ match d with
      | some d => [⟨u.me.seq, u.turn, d, none, BitVec.allOnes 65536, none, false⟩]
      | none => [] }

/-- R206, R228: nothing holds the checked access back at issue. -/
def Sys2Proof.Claims.Clear (u : State) (x : Access) (e : Elem) (stores : Bool) : Prop :=
  (x.scored = true ∨ u.vectorHolds x = false) ∧
  (stores = true → x.place = .phys → isHost e.addr = true → u.checksPending x.vd = false)

/-- R203: the checks of an address read, and change nothing but translation caches and event counts of cores, and take the durations of
walks from the machine's picks (log 6). -/
def Obligations.ChecksTouchOnlyCaches : Prop :=
  ∀ (s : State) (sid : Nat) (sp : Space) (ea n : Nat) (r : Right) (u : MemUse),
    { (s.checkAccess sid sp ea n r u).1 with cores := s.cores, picks := s.picks } = s

/-- R203: the mode and alignment checks of LD, ST and AMO, in this order, whatever the rest of the machine. -/
def Sys2Proof.Claims.AddressFaults : Prop :=
  ∀ (s : State) (d a b : GReg) (sp : Space) (lz : LdSize) (sz : StSize) (az : AmoSize) (off : Fin 1024),
    let faults (i : Instr) (ea n : Nat) : Prop :=
      (sp = .vir → s.scored s.cur.sid = true → Traps i s { cause := 8 }) ∧
      ((sp = .vir → s.scored s.cur.sid = false) → ea % n ≠ 0 → Traps i s { cause := 6, eval := BitVec.ofNat 64 ea })
    (s.Ready { src := [.g a], dst := [.g d] } → faults (.ld d a sp lz off) (memAddr (s.rg a) off lz.bytes) lz.bytes) ∧
    (s.Ready { src := [.g d, .g a], outward := true } → faults (.st d a sp sz off) (memAddr (s.rg a) off sz.bytes) sz.bytes) ∧
    (s.Ready { src := [.g a, .g b, .g d], dst := [.g d], outward := true } →
      ∀ i ∈ [Instr.amoAdd d a b az sp, .amoMin d a b az sp, .amoMax d a b az sp, .amoMinn d a b az sp, .amoMaxn d a b az sp,
        .amoAnd d a b az sp, .amoOr d a b az sp, .amoXor d a b az sp, .amoSwap d a b az sp, .amoCas d a b az sp],
        faults i (s.rg a).toNat az.bytes)

/-- R204 to R207: LD, ST and AMO whose checks pass start one access of their size at their address, with the operands as they stand
at issue; a load that hits the L1 (R189) lands the line's bytes. -/
def Sys2Proof.Claims.ScalarAccessesStart : Prop :=
  ∀ (s u : State) (d a b : GReg) (sp : Space) (lz : LdSize) (sz : StSize) (az : AmoSize) (off : Fin 1024) (x : Access) (e : Elem),
    Canonical s → x.cycles = [[e]] →
    (s.Ready { src := [.g a], dst := [.g d] } →
      s.checkAccess s.cur.sid sp (memAddr (s.rg a) off lz.bytes) lz.bytes .read .plain = (u, .ok x) → Clear u x e false →
      (x.cached = true → ∀ l ∈ (u.core (coreOf x.sid)).l1, l.line ≠ e.addr / 128) →
      Starts (.ld d a sp lz off) s u x e .load (some (.g d))) ∧
    (s.Ready { src := [.g d, .g a], outward := true } →
      s.checkAccess s.cur.sid sp (memAddr (s.rg a) off sz.bytes) sz.bytes .write .plain = (u, .ok x) → Clear u x e true →
      Starts (.st d a sp sz off) s u x { e with data := s.rg d, exp := 0 } .store none) ∧
    (s.Ready { src := [.g a, .g b, .g d], dst := [.g d], outward := true } →
      s.checkAccess s.cur.sid sp (s.rg a).toNat az.bytes .write .atomic = (u, .ok x) → Clear u x e false →
      ∀ p ∈ [(Instr.amoAdd d a b az sp, AmoOp.add), (.amoMin d a b az sp, .min), (.amoMax d a b az sp, .max),
        (.amoMinn d a b az sp, .minn), (.amoMaxn d a b az sp, .maxn), (.amoAnd d a b az sp, .and), (.amoOr d a b az sp, .or),
        (.amoXor d a b az sp, .xor), (.amoSwap d a b az sp, .swap), (.amoCas d a b az sp, .cas)],
        Starts p.1 s u x { e with data := s.rg b, exp := s.rg d } (.amo p.2) (some (.g d)))

/-- R204, R207: an access to scratchpad that no earlier operation holds back, and whose bank is free, is performed whole: a store puts the low bytes of its data there, an
atomic operation the value of its table, a load nothing; what was there is delivered, and no other byte changes. -/
def Obligations.ScratchpadAccesses : Prop :=
  ∀ (s : State) (id : Nat) (a : Access) (e : Elem), Canonical s →
    let c := e.addr / 524288
    let o := e.addr % 524288
    let old := ofBytes (s.spadRead c o a.bytes)
    let n := a.bytes
    let m := 8 * n
    let y := e.data.toNat % 2 ^ m
    let run : Instr := if a.scored then .scoredBankAccess id else .freeAccessComplete id
    s.access id = some a → (a.kind = .load ∨ a.kind = .store ∨ ∃ op, a.kind = .amo op) → a.place = .spad c → e.win = 0 → a.vec = false → a.flags = 0 → a.cycles = [[e]] → a.done < a.plan →
    a.bytes ∈ [1, 2, 4, 8] → o + n ≤ 524288 → (s.accessCycle a).isSome = true → s.accessWaits id a = false → s.pairWaits a = false → s.refusesAccess a = false →
    (s.strand a.sid).slot ≠ .idle →
    ∃ t, exec run s = .next t ∧ t.accesses = unbind id s.accesses ∧ t.mem = s.mem ∧
      (∀ k q, k ≠ c ∨ q < o ∨ o + n ≤ q → q < 524288 → t.spadRead k q 1 = s.spadRead k q 1) ∧
      (a.kind = .load → t.spad = s.spad) ∧
      (a.kind = .store → ofBytes (t.spadRead c o n) = y) ∧
      (∀ op, a.kind = .amo op → ofBytes (t.spadRead c o n) = match op with
        | .add => (old + y) % 2 ^ m
        | .and => old &&& y
        | .or => old ||| y
        | .xor => old ^^^ y
        | .swap => y
        | .cas => if old = e.exp.toNat % 2 ^ m then y else old
        | .minn => if old ≤ y then old else y
        | .maxn => if old ≥ y then old else y
        | .min => if signed m old ≤ signed m y then old else y
        | .max => if signed m old ≥ signed m y then old else y) ∧
      (∀ r p, (a.kind = .load ∨ ∃ op, a.kind = .amo op) → a.dst = some (.g r) → p ∈ (s.strand a.sid).pend → p.seq = a.seq → p.dst = .g r → p.due = none →
        ∃ w mk due, { p with val := some w, mask := mk, due := some due } ∈ (t.strand a.sid).pend ∧
          w.setWidth 64 = if a.sext then (BitVec.ofNat m old).signExtend 64 else BitVec.ofNat 64 old)

/-- R182, R346: a write outside control pages, with no checkpoint round open, puts its bytes in place and changes no other byte of
the physical space. -/
def Obligations.MemoryWrites : Prop :=
  ∀ (s : State) (a : Nat) (bs : List Byte), Canonical s → s.ckpt.remap = [] → s.ckpt.state ≠ 2 →
    (∀ i, i < bs.length → s.ctlAt (a + i) = none) →
    let t := s.memWrite a bs
    t.memRead a bs.length = bs ∧ t.spad = s.spad ∧ (∀ b, b < a ∨ a + bs.length ≤ b → t.memRead b 1 = s.memRead b 1) ∧
    (∀ k, t.strand k = s.strand k)

/-- R208, R210, R211: PREF of an uncacheable page, and FLUSH and INVAL of a page that is never cached, do nothing; PREF of a
cacheable line starts its fill, FLUSH and INVAL of a dirty line its write-back, and of a line that is absent or clean they end at once; RPUB
starts its publication; a FENCE on a scored core, or with nothing outstanding, lands the peer errors at once, and another one waits. -/
def Obligations.CacheAndFenceWords : Prop :=
  ∀ (s u : State) (a d : GReg) (imm : Fin 4096) (sc : Scope) (mask : Fin 64) (x : Access) (e : Elem), Canonical s → x.cycles = [[e]] →
    let ea := (s.rg a + (BitVec.ofNat 12 imm).signExtend 64).toNat
    (s.Ready { src := [.g a] } → s.scored s.cur.sid = true → Does (.pref a imm) s s) ∧
    (s.Ready { src := [.g a] } → s.scored s.cur.sid = false →
      s.checkAccess s.cur.sid .vir ea 1 .read .plain = (u, .ok x) → Clear u x e false →
      if x.cached then Starts (.pref a imm) s u x e .pref none else Does (.pref a imm) s u) ∧
    (s.Ready { src := [.g a], outward := true } → s.checkAccess s.cur.sid .vir ea 1 .read .touch = (u, .ok x) → Clear u x e false →
      (∀ h, e.relay = none → isNear e.addr = true ∨ isFar e.addr = true → u.migrate x.vd e.addr = some h →
        ((∃ l ∈ u.mc, l.line = h / 128 ∧ l.dirty = true) →
          Starts (.flush a imm) s u x e .flush none ∧ Starts (.inval a imm) s u x e .inval none) ∧
        ((∀ l ∈ u.mc, l.line = h / 128 → l.dirty = false) → (∀ o ∈ u.accesses, o.2.sid ≠ s.cur.sid) →
          ∀ i ∈ [Instr.flush a imm, .inval a imm], ∃ t, exec i s = .next t ∧ t.last = .done ∧ t.accesses = u.accesses ∧ t.strands = u.strands ∧
            ∀ l ∈ (t.core (coreOf s.cur.sid)).l1, l.line ≠ h / 128 ∧ l.line ≠ e.addr / 128)) ∧
      (e.relay ≠ none ∨ (isNear e.addr = false ∧ isFar e.addr = false) → Does (.flush a imm) s u ∧ Does (.inval a imm) s u)) ∧
    (∀ w, s.Ready { src := [.g a], outward := true } → s.checkAccess s.cur.sid .vir (s.rg a).toNat 1 .read .touch = (u, .ok x) →
      e.relay = some (w, true) → (u.key x.vd).inthold = false → (u.key (192 + w)).pubgen ≠ 2 ^ 31 - 1 → u.checksPending x.vd = false →
      Starts (.rpub a) s u x e (.rpub w) none) ∧
    (s.Ready { dst := [.g d], outward := true } → s.scored s.cur.sid = true →
      if mask.val.testBit 4 then
        Does (.fence d sc mask) s ((s.modMe fun y => { y with peererr := 0 }).landG d (s.me.peererr.setWidth 64) 2)
      else Does (.fence d sc mask) s (s.landG d 0 2)) ∧
    (s.Ready { dst := [.g d], outward := true } → s.scored s.cur.sid = false → s.fenceDone s.cur.sid s.seqNo sc mask = true →
      let u := s.fenceL1 s.cur.sid sc mask
      if mask.val.testBit 4 then
        Does (.fence d sc mask) s ((u.modMe fun y => { y with peererr := 0 }).landG d (u.me.peererr.setWidth 64) 2)
      else Does (.fence d sc mask) s (u.landG d 0 2)) ∧
    (s.Ready { dst := [.g d], outward := true } → s.scored s.cur.sid = false → s.fenceDone s.cur.sid s.seqNo sc mask = false →
      ∃ t, exec (.fence d sc mask) s = .next t ∧ t.last = .done ∧ t.me.wait = some (.fence d sc mask s.seqNo s.turn) ∧ t.mem = s.mem ∧ t.spad = s.spad)

/-! ## Tickets (R258, R259, R299 to R303) -/

/-- R258, R259, R398: TKMOV copies a ticket, TKCHK lands its summary, TKNAR lands its status and, for status 0, the narrowed ticket, and
leaves the ticket otherwise; TKLD and TKST start one access of 64 bytes, TKST of a ticket without Delegable the access fault. -/
def Obligations.TicketWords : Prop :=
  ∀ (s u : State) (tk m : TkReg) (d a : GReg) (sp : Space) (x : Access) (e : Elem), Canonical s → x.cycles = [[e]] →
    let t := s.me.rtk tk
    (s.Ready { src := [.tk m], dst := [.tk tk] } → Does (.tkmov tk m) s (s.landWide (.tk tk) ((s.me.rtk m).setWidth 65536) 1)) ∧
    (s.Ready { src := [.tk tk], dst := [.g d] } →
      (t = 0 → Does (.tkchk tk d) s (s.landG d 0 2)) ∧
      (t ≠ 0 → ∃ v : Word, Does (.tkchk tk d) s (s.landG d v 2) ∧ v.getLsbD 0 = true ∧ bits v 1 3 = tkKind t ∧
        bits v 8 8 = (tkEff t).rights)) ∧
    (s.Ready { src := [.tk tk, .g a], dst := [.tk tk, .g d] } →
      let r := tknar t (s.rg a).toNat
      (r.1 = 0 → Does (.tknar tk d a) s ((s.landG d 0 2).landWide (.tk tk) (r.2.setWidth 65536) 2)) ∧
      (r.1 ≠ 0 → Does (.tknar tk d a) s (s.landG d (BitVec.ofNat 64 r.1) 2)) ∧
      (t = 0 → r.1 = 1) ∧ (t ≠ 0 → (tkEff t).rights.testBit 6 = false → r.1 = 2)) ∧
    (s.Ready { src := [.g a], dst := [.tk tk], outward := true } →
      s.checkAccess s.cur.sid sp (s.rg a).toNat 64 .read .plain = (u, .ok x) → Clear u x e false →
      Starts (.tkld tk a sp) s u x e (.image tk) (some (.tk tk))) ∧
    (s.Ready { src := [.tk tk, .g a], outward := true } →
      (t ≠ 0 → (tkEff t).rights.testBit 5 = false → Traps (.tkst tk a sp) s { cause := 8, eval := s.rg a }) ∧
      (t = 0 ∨ (tkEff t).rights.testBit 5 = true →
        s.checkAccess s.cur.sid sp (s.rg a).toNat 64 .write .plain = (u, .ok x) → Clear u x e true →
        Starts (.tkst tk a sp) s u x e (.block (toBytes 64 t.toNat)) none))

/-- R258, R303: a narrowed ticket is the same object with no more than it had: its window lies in the old one, its rights are
among the old ones, and an expiry is no later. -/
def Obligations.NarrowingNeverWidens : Prop :=
  ∀ (t : Ticket) (c : Nat), c < 2 ^ 64 → (tknar t c).1 = 0 → (tkEff t).bad = false →
    let n := (tknar t c).2
    tkWord n 0 = tkWord t 0 ∧ tkWord n 1 = tkWord t 1 ∧ (tkEff n).bad = false ∧
    (tkEff t).lo ≤ (tkEff n).lo ∧ (tkEff n).hi ≤ (tkEff t).hi ∧
    (∀ i, (tkEff n).rights.testBit i = true → (tkEff t).rights.testBit i = true) ∧
    (∀ x, (tkEff t).expiry = some x → ∃ y, (tkEff n).expiry = some y ∧ y ≤ x)
/-! ## Vector words (06) and vector memory words (09) -/

/-- The word enters its strand's vector queue with its operands captured (R132), alone in it with its lane start set (R76), and nothing
else changes but what the strand owes. -/
def Sys2Proof.Claims.Queues (i : Instr) (s : State) (op : VOp) : Prop :=
  ∃ t, exec i s = .next t ∧ t.last = .done ∧
    t.me = { s.me with
      vq := s.me.vq ++ [.one ⟨s.seqNo, s.cur.addr, s.turn, s.me.vlen, op, (s.core (coreOf s.cur.sid)).winscale⟩]
      pend := s.me.pend ++ op.promises.map fun d => ⟨s.seqNo, s.turn, d, none, BitVec.allOnes 65536, none, true⟩ } ∧
    t.mem = s.mem ∧ t.spad = s.spad ∧ t.launches = s.launches ∧ t.pkg = s.pkg ∧ t.cores = s.cores ∧
    (∀ j, j ≠ s.cur.sid → t.strand j = s.strand j) ∧
    t.agenda = s.agenda ++ if s.me.vq = [] then
      [(⟨some (s.clockOf s.cur.sid), Nat.max (s.turn + 16) s.me.laneNext, prioLane⟩, .laneStart s.cur.sid)] else []

/-- R133, R138: outside blocks, with room in its queues. -/
def Sys2Proof.Claims.Room (s : State) (op : VOp) : Prop :=
  s.me.collect = none ∧ s.me.heldLoop = none ∧ s.me.queued < 16 ∧ (op.returns = 0 ∨ s.me.returning < 8)

/-- R131 to R133, R141 to R156: the words that compute in the lanes enter the queue. -/
def Sys2Proof.Claims.LaneWordsQueue : Prop :=
  ∀ (s : State) (d a b : VecReg) (x y : GReg) (m md ma mb : MReg) (qd qa qb : QReg) (e : EW) (f : FEW) (fmt : Fin 32) (rnd : Rnd)
    (k : RedT) (so : ScanOp), Canonical s →
    let ready (i : Instr) (src : List Dst) (dst : List Dst) (op : VOp) : Prop :=
      s.Ready { vec := true, src := .vl :: src, dst := dst } → Room s op → Queues i s op
    (∀ p ∈ [(Instr.vadd d a b m e, VAluOp.add), (.vsub d a b m e, .sub), (.vmul d a b m e, .mul), (.vmulh d a b m e, .mulh),
        (.vmin d a b m e, .min), (.vmax d a b m e, .max), (.vminn d a b m e, .minn), (.vmaxn d a b m e, .maxn),
        (.vand d a b m e, .and), (.vor d a b m e, .or), (.vxor d a b m e, .xor), (.vshl d a b m e, .shl), (.vshr d a b m e, .shr),
        (.vsar d a b m e, .sar)], ready p.1 [] [] (.alu p.2 d a b m e)) ∧
    ready (.vabs d a m e) [] [] (.alu .abs d a 0 m e) ∧ ready (.vneg d a m e) [] [] (.alu .neg d a 0 m e) ∧
    ready (.vsel d a b m e) [] [] (.sel d a b m e) ∧
    (∀ p ∈ [(Instr.vfadd d a b m f, VFpOp.add), (.vfsub d a b m f, .sub), (.vfmul d a b m f, .mul), (.vfma d a b m f, .fma),
        (.vfms d a b m f, .fms), (.vfmin d a b m f, .min), (.vfmax d a b m f, .max)], ready p.1 [] [] (.fp p.2 d a b m f)) ∧
    ready (.vfabs d a m f) [] [] (.fp .abs d a 0 m f) ∧ ready (.vfneg d a m f) [] [] (.fp .neg d a 0 m f) ∧
    (∀ p ∈ [(Instr.vcmpEq md a b m e, CmpOp.eq), (.vcmpNe md a b m e, .ne), (.vcmpLt md a b m e, .lt), (.vcmpGe md a b m e, .ge),
        (.vcmpLtn md a b m e, .ltn), (.vcmpGen md a b m e, .gen)], ready p.1 [] [] (.cmp p.2 md a b m e)) ∧
    (∀ p ∈ [(Instr.vcmpFeq md a b m f, FCmpOp.feq), (.vcmpFne md a b m f, .fne), (.vcmpFlt md a b m f, .flt),
        (.vcmpFge md a b m f, .fge), (.vcmpFun md a b m f, .unord)], ready p.1 [] [] (.fcmp p.2 md a b m f)) ∧
    (fmt.val ≤ 27 → ready (.vcvt d a fmt m f rnd) [] [] (.cvt d a fmt m f rnd) ∧ ready (.vdqnt d a fmt m f rnd) [] [] (.dqnt d a fmt m f rnd)) ∧
    (fmt.val ∈ [2, 4, 9, 12] → ready (.vqnt d a fmt m f) [] [] (.qnt d a fmt m f)) ∧
    ready (.vrndi d a m f rnd) [] [] (.rndi d a m f rnd) ∧
    (∀ p ∈ [(Instr.vrcpa d a m f, SpecOp.rcp), (.vrsqa d a m f, .rsq), (.vexp2a d a m f, .exp2), (.vlog2a d a m f, .log2)],
      ready p.1 [] [] (.spec p.2 d a m f)) ∧
    (∀ p ∈ [(Instr.vredsum d a k m, RedOp.sum), (.vredmax d a k m, .max), (.vredmin d a k m, .min)], ready p.1 [] [] (.red p.2 d a k m)) ∧
    ready (.vscan d a so k m) [] [] (.scan so d a k m) ∧ ready (.vdot4 d a b m) [] [] (.dot4 d a b m) ∧
    ready (.vperm d a b m e) [] [] (.perm (.perm b) d a m e) ∧ ready (.vcomp d a m e) [] [] (.perm .comp d a m e) ∧
    ready (.vexpd d a m e) [] [] (.perm .expd d a m e) ∧ ready (.viota d m e) [] [] (.iota d m e) ∧
    ready (.vslup d a y m e) [.g y] [] (.perm (.slup (s.rg y)) d a m e) ∧ ready (.vsldn d a y m e) [.g y] [] (.perm (.sldn (s.rg y)) d a m e) ∧
    ready (.vbcast d x m e) [.g x] [] (.bcast d (s.rg x) m e) ∧ ready (.vextr x a y e) [.g y] [.g x] (.extr x a (s.rg y) e) ∧
    ready (.vins d x y e) [.g x, .g y] [] (.ins d (s.rg x) (s.rg y) e) ∧
    (∀ p ∈ [(Instr.mand md ma mb e, MaskOp.and), (.mor md ma mb e, .or), (.mxor md ma mb e, .xor)], ready p.1 [] [] (.mask p.2 md ma mb e)) ∧
    ready (.mnot md ma e) [] [] (.mnot md ma e) ∧ ready (.mcnt x ma e) [] [.g x] (.mcnt x ma e) ∧
    ready (.mfirst x ma e) [] [.g x] (.mfirst x ma e) ∧ ready (.qand qd qa qb e) [] [] (.qand qd qa qb e) ∧
    ready (.qclr qd ma e) [] [] (.qclr qd ma e) ∧ ready (.vrng d x y m e) [.g x, .g y] [] (.rng d (s.rg x) (s.rg y) m e)

/-- R212 to R220: the vector memory words enter the queue with their scalar operands captured; the stream words only on a free
core. -/
def Sys2Proof.Claims.VectorMemoryWordsQueue : Prop :=
  ∀ (s : State) (d b : VecReg) (x y : GReg) (m : MReg) (st : StReg) (e : EW) (f : FEW) (fmt : Fin 32) (clu : Bool), Canonical s →
    let ready (i : Instr) (src : List Dst) (op : VOp) : Prop :=
      s.Ready { vec := true, src := .vl :: src } → Room s op → Queues i s op
    let base := s.rg x
    ready (.vld d x m e clu) [.g x] (.load d (.unit base) m e clu) ∧ ready (.vst d x m e clu) [.g x] (.store d (.unit base) m e clu) ∧
    ready (.vlds d x y m e clu) [.g x, .g y] (.load d (.stride base (s.rg y)) m e clu) ∧
    ready (.vsts d x y m e clu) [.g x, .g y] (.store d (.stride base (s.rg y)) m e clu) ∧
    ready (.vldx d x b m e clu) [.g x] (.load d (.index base b) m e clu) ∧
    ready (.vstx d x b m e clu) [.g x] (.store d (.index base b) m e clu) ∧
    (fmtIsMx fmt = true → ready (.vseg d x fmt clu) [.g x] (.seg d base fmt clu)) ∧
    (∀ p ∈ [(Instr.vamoAdd d x b m e clu, AmoOp.add), (.vamoMin d x b m e clu, .min), (.vamoMax d x b m e clu, .max),
        (.vamoMinn d x b m e clu, .minn), (.vamoMaxn d x b m e clu, .maxn), (.vamoAnd d x b m e clu, .and), (.vamoOr d x b m e clu, .or),
        (.vamoXor d x b m e clu, .xor)], ready p.1 [.g x] (.amo p.2 d base b m e clu)) ∧
    ready (.vamoFadd d x b m f clu) [.g x] (.famo d base b m f clu) ∧
    (s.scored s.cur.sid = false → ready (.sld d st m e) [] (.sld d st m e) ∧ ready (.sst d st m e) [] (.sst d st m e)) ∧
    (s.scored s.cur.sid = true → s.isVector s.cur.sid = true → Traps (.sld d st m e) s { cause := 8 } ∧ Traps (.sst d st m e) s { cause := 8 })

/-- R136 to R139, R217: SETVL grants the smaller of its operand and the capacity, VSYNC waits for the vector words before it, VLOOP opens
a block, and SSET sets a stream register up; the translations that the stream's engine held give way to one walked ahead. -/
def Obligations.VectorControl : Prop :=
  ∀ (s : State) (d a b : GReg) (st : StReg) (e : EW) (n : Fin 16), Canonical s → s.me.collect = none →
    (s.Ready { vec := true, src := [.g a], dst := [.g d, .vl] } →
      let g := Nat.min (s.rg a).toNat (s.emax s.cur.sid e.bits)
      Does (.setvl d a e) s ((s.landG d (BitVec.ofNat 64 g) 2).landWide .vl (BitVec.ofNat 65536 (e.code * 2 ^ 14 + g)) 2)) ∧
    (s.Ready { vec := true } →
      (∀ o, s.me.oldestVec = some o → o < s.seqNo → Does .vsync s (s.modMe fun x => { x with wait := some (.vsync s.seqNo) })) ∧
      (s.me.oldestVec = none → Does .vsync s s)) ∧
    (s.Ready { vec := true, src := [.g a], dst := [.g d] } → s.me.returning < 8 →
      ∃ t l, exec (.vloop d a n) s = .next t ∧ t.last = .done ∧ t.me.collect = some l ∧ l.len = n.val + 1 ∧ l.words = [] ∧
        l.reps = (s.rg a).toNat % 2 ^ 32 ∧ l.d = d ∧ t.mem = s.mem ∧ t.spad = s.spad ∧ (∀ j, j ≠ s.cur.sid → t.strand j = s.strand j) ∧
        t.me.pend = s.me.pend ++ if d = 0 then [] else [⟨s.seqNo, s.turn, .g d, none, BitVec.allOnes 65536, none, true⟩]) ∧
    (s.Ready { vec := true, src := [.g a, .g b], dst := [.st st] } → s.scored s.cur.sid = false → (s.rg a).toNat < 2 ^ 57 →
      ∃ (v : BitVec 128) (u : State) (l : List (Nat × TlbEntry)), Does (.sset st a b) s (u.landWide (.st st) (v.setWidth 65536) 1) ∧
        u.me = { s.me with ahead := l } ∧ (∀ p : Nat × TlbEntry, p.1 ≠ st.val → (p ∈ l ↔ p ∈ s.me.ahead)) ∧
        u.mem = s.mem ∧ u.spad = s.spad ∧ (∀ j, j ≠ s.cur.sid → u.strand j = s.strand j) ∧ u.launches = s.launches ∧ u.pkg = s.pkg ∧
        bits v 0 64 = (s.rg a).toNat ∧ bits v 64 32 = (s.rg b).toNat % 2 ^ 32 ∧ bits v 96 32 = (s.rg b).toNat / 2 ^ 32) ∧
    (s.Ready { vec := true, src := [.g a, .g b], dst := [.st st] } → s.scored s.cur.sid = true → Traps (.sset st a b) s { cause := 8 })

/-- R130, R131, R141: what the integer words write: element by element below the length, of width w, where the mask is 1, and no
other bit of the register. -/
def Obligations.VectorIntegers : Prop :=
  ∀ (x : Strand) (vmax vl : Nat) (op : VAluOp) (d a b : VecReg) (m : MReg) (e : EW), vmax ≤ 2048 →
    let w := e.bits
    let n := Nat.min vl (vmax * 32 / w)
    let el (r : VecReg) (i : Nat) : BitVec w := (x.rv r).extractLsb' (w * i) w
    ∃ o v k, (VOp.alu op d a b m e).arith x vmax vl = some o ∧ o.outs.head? = some (.v d, v, k) ∧ o.flags = 0 ∧ o.depth = 2 ∧
      (∀ j, k.testBit j = true ↔ j / w < n ∧ (x.rm m).getLsbD (j / w) = true) ∧
      ∀ i, i < n → (x.rm m).getLsbD i = true →
        let y := BitVec.ofNat w (v / 2 ^ (w * i))
        let p := el a i
        let q := el b i
        match op with
        | .add => y = p + q
        | .sub => y = p - q
        | .mul => y = p * q
        | .and => y = p &&& q
        | .or => y = p ||| q
        | .xor => y = p ^^^ q
        | .shl => y = p <<< q.toNat
        | .shr => y = p >>> q.toNat
        | .sar => y = p.sshiftRight q.toNat
        | .min => y = if p.sle q then p else q
        | .max => y = if q.sle p then p else q
        | .minn => y = if p ≤ q then p else q
        | .maxn => y = if q ≤ p then p else q
        | .abs => y = if p.slt 0 then -p else p
        | .neg => y = -p
        | .mulh => y = ((p.signExtend (2 * w) * q.signExtend (2 * w)).extractLsb' w w)
/-! ## Harp words (07) -/

/-- The word's command enters the queue of its core, to start at its cycle (R165, R166); no tile, scratchpad or memory changes yet. HCHK's
strand, and on a free core a half of a paired HMMS, waits for it. -/
def Sys2Proof.Claims.Commands (i : Instr) (s : State) (t : Tile) (op : HarpOp) (off : Word) (waits : Bool) : Prop :=
  let c := coreOf s.cur.sid
  let n := off.toNat % 2 ^ 16
  (s.core c).harpq.length < 8 → (s.scored s.cur.sid = true → 32 ≤ n) →
  ∃ u q, exec i s = .next u ∧ u.last = .done ∧ (u.core c).harpq = (s.core c).harpq ++ [q] ∧ q.id = s.nextId ∧ q.t = t ∧ q.op = op ∧
    q.sid = s.cur.sid ∧ q.seq = s.seqNo ∧ q.start = (if s.scored s.cur.sid then s.turn + n else s.pkg.ency + 32) ∧
    u.harps = s.harps ∧ u.mem = s.mem ∧ u.spad = s.spad ∧ u.launches = s.launches ∧ u.pkg = s.pkg ∧
    (∀ k, k ≠ s.cur.sid → u.strand k = s.strand k) ∧
    u.me = { s.me with wait := if waits || (q.paired && !s.scored s.cur.sid) then some (.harp q.id) else s.me.wait }

/-- R157: every tile that a command names is the core's to command. -/
def Sys2Proof.Claims.Owns (s : State) (ts : List Nat) : Prop := ∀ t ∈ ts, s.ownsTile (coreOf s.cur.sid) t = true

/-- R165, R166, R172, R174: HZERO, HCHK and HANCH enter the queue. -/
def Sys2Proof.Claims.TileWordsQueue : Prop :=
  ∀ (s : State) (t : Tile) (ga : GReg), Canonical s → Owns s [t.val] →
    let off := s.rg (ga + 1)
    (s.Ready { src := [.g (ga + 1)], outward := true } →
      Commands (.hzero t ga) s t .zero off false ∧ Commands (.hchk t ga) s t .chk off true) ∧
    (s.Ready { src := [.g ga, .g (ga + 1)], outward := true } →
      (s.rg ga = ((s.rg ga).setWidth 12).signExtend 64 → Commands (.hanch t ga) s t (.anch ((s.rg ga).setWidth 12)) off false) ∧
      (s.rg ga ≠ ((s.rg ga).setWidth 12).signExtend 64 → Traps (.hanch t ga) s { cause := 3, eval := s.rg ga }))

/-- R159 to R163, R175, R176: an HMMA or HMMS whose descriptor and group are sound enters the queue, its word, format, group and length
captured. -/
def Sys2Proof.Claims.ProductWordsQueue : Prop :=
  ∀ (s : State) (t : Tile) (vb : VecReg) (ga : GReg) (fmt : Fin 32) (g : Grp) (multi : Bool), Canonical s →
    s.Ready { vec := true, src := [.vl, .g ga, .g (ga + 1)], outward := true } → s.me.collect = none →
    let w := s.rg ga
    let d := descOf w
    let n := g.size
    let len := Nat.min s.me.vlen (s.vlmax32 s.cur.sid)
    let kt := n * len / 128
    let cols := if multi then crewCols (crewOf (coreOf s.cur.sid)) d.mc else if d.bk = 6 then 2 else 1
    descBad w fmt (!multi) multi = false → n * len % 4096 = 0 → kt ≠ 0 → (fmtIsAsym fmt = true → kt % d.grp = 0) →
    vb.val + cols * n ≤ 32 → d.soff + d.mr * (kt / 32) * d.slab ≤ 524288 →
    (fmtIsAsym fmt = true → d.toff + 512 * (kt / d.grp) ≤ 524288) → s.me.poison = [] →
    (multi = true → t.val + d.mr * cols ≤ 16 ∧ (4 < d.mc →
      s.partOf (8 * partnerCrew (crewOf (coreOf s.cur.sid))) = s.partOf (coreOf s.cur.sid))) →
    Owns s (if multi then (List.range (d.mr * cols)).map (t.val + ·) else [t.val]) →
    ∀ p ∈ (if multi then [(Instr.hmmsAcc t vb ga fmt g, false), (.hmmsSet t vb ga fmt g, true)]
      else [(.hmmaAcc t vb ga fmt g, false), (.hmmaSet t vb ga fmt g, true)]),
      Commands p.1 s t (.mma p.2 multi vb w fmt n kt len) (s.rg (ga + 1)) false

/-- R173, R178, R180: HPLANE, HREAD and HWRITE with sound control words enter the vector queue; HREAD and HWRITE take the number under
which their rows are touched. -/
def Sys2Proof.Claims.RowWordsQueue : Prop :=
  ∀ (s : State) (t : Tile) (vb : VecReg) (ga : GReg) (fmt : Fin 32) (g : Grp), Canonical s →
    let ctl := s.rg ga
    let place := s.rg (ga + 1)
    (s.Ready { vec := true, src := [.vl, .g ga, .g (ga + 1)] } →
      let op := VOp.hplane vb ctl place fmt g.size
      let vl := op.len (s.vlmax32 s.cur.sid) s.me.vlen
      let nb := place.toNat / 2 ^ 16 % 2 ^ 7 + 1
      Room s op → descBad ctl fmt false false = false → place &&& 0x7F7F7F#64 = place → vl % 32 = 0 →
      (descOf ctl).soff + (place.toNat / 2 ^ 8 % 2 ^ 7 + nb) * (descOf ctl).slab ≤ 524288 → Queues (.hplane vb ga fmt g) s op) ∧
    (s.Ready { vec := true, src := [.vl, .g ga] } → ctl &&& 0x17F#64 = ctl → Owns s [t.val] →
      (fmt.val ∈ [9, 12, 19, 20, 21] → Room s (.hread t vb ctl fmt g.size s.nextId) →
        ∃ u, exec (.hread t vb ga fmt g) s = .next u ∧ u.last = .done ∧ u.nextId = s.nextId + 1 ∧
          u.me.vq = s.me.vq ++ [.one ⟨s.seqNo, s.cur.addr, s.turn, s.me.vlen, .hread t vb ctl fmt g.size s.nextId, (s.core (coreOf s.cur.sid)).winscale⟩] ∧
          u.harps = s.harps ∧ u.mem = s.mem ∧ u.spad = s.spad ∧ (∀ k, k ≠ s.cur.sid → u.strand k = s.strand k)) ∧
      (Room s (.hwrite t vb ctl g.size s.nextId) →
        ∃ u r, exec (.hwrite t vb ga g) s = .next u ∧ u.last = .done ∧ u.nextId = s.nextId + 1 ∧
          u.me.vq = s.me.vq ++ [.one ⟨s.seqNo, s.cur.addr, s.turn, s.me.vlen, .hwrite t vb ctl g.size s.nextId, (s.core (coreOf s.cur.sid)).winscale⟩] ∧
          u.runs = bind s.nextId r s.runs ∧ r.tile = t ∧ r.row = ctl.toNat % 2 ^ 7 ∧
          u.harps = s.harps ∧ u.mem = s.mem ∧ u.spad = s.spad ∧ (∀ k, k ≠ s.cur.sid → u.strand k = s.strand k)))

/-! ## Fabric words (12) -/

/-- The word opens one operation with one packet that asks req through the ticket, and owes g[d] where it has a result; nothing else
of the strand, and no byte, changes. -/
def Sys2Proof.Claims.Opens (i : Instr) (s : State) (t : Ticket) (dst : Option (GReg × Nat × Bool)) (req : Req) : Prop :=
  ∃ u id pid o p, exec i s = .next u ∧ u.last = .done ∧ u.ops = s.ops ++ [(id, o)] ∧ u.packets = bind pid p s.packets ∧
    o.sid = s.cur.sid ∧ o.seq = s.seqNo ∧ o.dst = dst ∧ o.left = 1 ∧ p.op = id ∧ p.ticket = t ∧ p.req = req ∧ p.timed = false ∧
    u.mem = s.mem ∧ u.spad = s.spad ∧ (∀ k, k ≠ s.cur.sid → u.strand k = s.strand k) ∧
    u.me = { s.me with pend := s.me.pend ++ match dst with
      | some (d, _, _) => if d = 0 then [] else [⟨s.seqNo, s.turn, .g d, none, BitVec.allOnes 65536, none, false⟩]
      | none => [] }

/-- R228, R257: the strand has room for another open operation, and nothing of R228 stands against one through this ticket. -/
def Sys2Proof.Claims.MayOpen (s : State) (t : Ticket) : Prop :=
  s.inFlight s.cur.sid < 32 ∧
  (s.foreign s.cur.sid t = true → s.checksPending (s.strandVd s.cur.sid) = false ∧ (s.key (s.strandVd s.cur.sid)).inthold = false)

/-- R255, R262, R265: ESEND, RLD, RST and RAMO through a ticket that passes its checks open one operation. -/
def Sys2Proof.Claims.OpenWords : Prop :=
  ∀ (s : State) (tk : TkReg) (d a b : GReg) (lz : LdSize) (sz : StSize), Canonical s → s.scored s.cur.sid = false →
    let t := s.me.rtk tk
    let off := (s.rg a).toNat
    let ask (right n : Nat) : TkAsk := { kinds := [1, 4], right := right, lo := off, hi := off + n, at_ := off }
    MayOpen s t →
    (s.Ready { src := [.tk tk, .g a], dst := [.g d], outward := true } → off % lz.bytes = 0 →
      s.tkFails t (ask 0 lz.bytes) = none → Opens (.rld tk d a lz) s t (some (d, 8 * lz.bytes, ldSigned lz)) (.read off lz.bytes)) ∧
    (s.Ready { src := [.tk tk, .g a, .g d], outward := true } → off % sz.bytes = 0 →
      s.tkFails t (ask 1 sz.bytes) = none → Opens (.rst tk d a sz) s t none (.write off (toBytes sz.bytes (s.rg d).toNat))) ∧
    (s.Ready { src := [.tk tk, .g a, .g b, .g d], dst := [.g d], outward := true } → off % 8 = 0 → s.tkFails t (ask 2 8) = none →
      ∀ p ∈ [(Instr.ramoAdd tk d a b, AmoOp.add), (.ramoMin tk d a b, .min), (.ramoMax tk d a b, .max), (.ramoMinn tk d a b, .minn),
        (.ramoMaxn tk d a b, .maxn), (.ramoOr tk d a b, .or), (.ramoSwap tk d a b, .swap), (.ramoCas tk d a b, .cas)],
        Opens p.1 s t (some (d, 64, false)) (.amo p.2 off (s.rg b) (s.rg d))) ∧
    (s.Ready { src := [.tk tk, .g a, .g b], outward := true } →
      let len := (s.rg b).toNat % 128
      1 ≤ len → len ≤ 64 → off + len ≤ 524288 → s.tkFails t { kinds := [3], right := 4 } = none →
      Opens (.esend tk a b) s t none (.elastic (s.spadRead (coreOf s.cur.sid) off len) s.seqNo))

/-- R255, R350: a ticket word whose ticket fails its checks takes the access fault with the offset in EVAL, and opens nothing. -/
def Sys2Proof.Claims.TicketChecksTrap : Prop :=
  ∀ (s : State) (tk : TkReg) (d a b : GReg) (lz : LdSize) (sz : StSize) (v : Nat), s.scored s.cur.sid = false →
    let t := s.me.rtk tk
    let off := (s.rg a).toNat
    let ask (right n : Nat) : TkAsk := { kinds := [1, 4], right := right, lo := off, hi := off + n, at_ := off }
    let fault : TrapInfo := { cause := 8, eval := BitVec.ofNat 64 v }
    (t = 0 → s.tkFails t (ask 0 lz.bytes) = some off) ∧
    (s.Ready { src := [.tk tk, .g a], dst := [.g d], outward := true } → off % lz.bytes = 0 →
      s.tkFails t (ask 0 lz.bytes) = some v → Traps (.rld tk d a lz) s fault) ∧
    (s.Ready { src := [.tk tk, .g a, .g d], outward := true } → off % sz.bytes = 0 →
      s.tkFails t (ask 1 sz.bytes) = some v → Traps (.rst tk d a sz) s fault) ∧
    (s.Ready { src := [.tk tk, .g a, .g b, .g d], dst := [.g d], outward := true } → off % 8 = 0 → s.tkFails t (ask 2 8) = some v →
      ∀ i ∈ [Instr.ramoAdd tk d a b, .ramoMin tk d a b, .ramoMax tk d a b, .ramoMinn tk d a b, .ramoMaxn tk d a b, .ramoOr tk d a b,
        .ramoSwap tk d a b, .ramoCas tk d a b], Traps i s fault)

/-- R260: SEND on a scored core, of flits within the scratchpad through a ticket that passes its checks, completes. It opens one operation,
sends one packet of the slot, spill offset and length of its control word from the turn after issue, and reads its flits from its own
scratchpad, one a cycle; no register, no memory and no scratchpad byte changes. -/
def Sys2Proof.Claims.SendCompletes : Prop :=
  ∀ (s : State) (tk : TkReg) (a b : GReg), Canonical s → s.scored s.cur.sid = true →
    s.Ready { src := [.tk tk, .g a, .g b], outward := true } →
    let t := s.me.rtk tk
    let c := coreOf s.cur.sid
    let off := (s.rg a).toNat
    let ctl := (s.rg b).toNat
    let slot := ctl % 64
    let len := ctl / 64 % 4096 + 1
    let spill := ctl / 2 ^ 18 % 2 ^ 13
    let f := (len + 63) / 64
    off % 64 = 0 → off + 64 * f ≤ 524288 →
    s.tkFails t { kinds := [2], right := 3, lo := 64 * spill, hi := 64 * spill + (len - 64), at_ := 64 * spill, slot := some slot } = none →
    ∃ u id p k x, exec (.send tk a b) s = .next u ∧ u.last = .done ∧
      u.packets.find? (fun e => e.1 == id) = some (id, p) ∧ p.ticket = t ∧ p.timed = true ∧ p.req = .timed slot spill len ∧
      (⟨some (s.clockOf s.cur.sid), s.turn + 16, prioSwitch⟩, Event.switchCheck id) ∈ u.agenda ∧
      u.accesses = bind k x s.accesses ∧ x.sid = s.cur.sid ∧
      x.cycles = ((List.range f).map fun i => [⟨i, spadKey c (off + 64 * i), 0, 0, 0, 0, false, none⟩]) ∧
      u.ops.length = s.ops.length + 1 ∧ u.mem = s.mem ∧ u.spad = s.spad ∧ u.strands = s.strands

/-- R261: RECV on a scored core completes where its slot is full: it empties the slot, owes its length two turns after issue and starts the write of
its 64 bytes to the scratchpad. -/
def Sys2Proof.Claims.RecvCompletes : Prop :=
  ∀ (s : State) (d a b : GReg), Canonical s → s.scored s.cur.sid = true →
    s.Ready { src := [.g a, .g b], dst := [.g d], outward := true } →
    let c := coreOf s.cur.sid
    let off := (s.rg a).toNat
    let n := (s.rg b).toNat % 64
    let r := tget {} n (s.core c).recv
    off % 64 = 0 → off + 64 ≤ 524288 → r.full = true →
    ∃ u x, exec (.recv d a b) s = .next u ∧ u.last = .done ∧
      (u.core c).recv = tput {} n { r with full := false } (s.core c).recv ∧ (∀ k, k ≠ c → u.core k = s.core k) ∧
      u.accesses = bind s.nextId x s.accesses ∧ x.kind = .block (toBytes 64 r.data.toNat) ∧
      x.cycles = [[⟨0, 524288 * c + off, 0, 0, 0, 0, false, none⟩]] ∧ u.mem = s.mem ∧ u.spad = s.spad ∧
      (∀ k, k ≠ s.cur.sid → u.strand k = s.strand k) ∧
      u.me = { s.me with pend := s.me.pend ++ if d = 0 then [] else
        [⟨s.seqNo, s.turn, .g d, some (BitVec.ofNat 65536 (r.len % 2 ^ 64)), BitVec.allOnes 65536, some (s.turn + 32), false⟩] }

/-- R254, R261: RECV of an empty slot is a timing fault, and SEND and RECV on a free core are access faults. -/
def Sys2Proof.Claims.TimedWordsTrap : Prop :=
  ∀ (s : State) (tk : TkReg) (d a b : GReg),
    (s.scored s.cur.sid = true → s.Ready { src := [.g a, .g b], dst := [.g d], outward := true } →
      (s.rg a).toNat % 64 = 0 → (s.rg a).toNat + 64 ≤ 524288 →
      (tget {} ((s.rg b).toNat % 64) (s.core (coreOf s.cur.sid)).recv).full = false →
      Traps (.recv d a b) s { cause := 15, detail := 4, eval := BitVec.ofNat 64 s.turn }) ∧
    (s.scored s.cur.sid = false →
      (s.Ready { src := [.g a, .g b], dst := [.g d], outward := true } → Traps (.recv d a b) s { cause := 8 }) ∧
      (s.Ready { src := [.tk tk, .g a, .g b], outward := true } → Traps (.send tk a b) s { cause := 8 }))

/-- R263: ERECV on a free core completes. It takes the oldest entry of its queue, writes the entry's bytes to the scratchpad and owes their length
and sender two turns after issue; with the queue empty it parks its strand until the limit. -/
def Sys2Proof.Claims.ErecvCompletes : Prop :=
  ∀ (s : State) (d a b : GReg), Canonical s → s.scored s.cur.sid = false →
    s.Ready { src := [.g a, .g b], dst := [.g d], outward := true } →
    let c := coreOf s.cur.sid
    let off := (s.rg a).toNat
    let q := (s.rg b).toNat % 4
    off % 64 = 0 → off + 64 ≤ 524288 →
    (∀ e l, (s.core c).queue q = e :: l → ∃ u, exec (.erecv d a b) s = .next u ∧ u.last = .done ∧ (u.core c).queue q = l ∧
      u.spad = spadPuts s.spad c off e.payload ∧ u.mem = s.mem ∧ (∀ k, k ≠ s.cur.sid → u.strand k = s.strand k) ∧
      u.me = { s.me with pend := s.me.pend ++ if d = 0 then [] else
        [⟨s.seqNo, s.turn, .g d, some (e.result.setWidth 65536), BitVec.allOnes 65536, some (s.turn + 32), false⟩] }) ∧
    ((s.core c).queue q = [] → ∃ u, exec (.erecv d a b) s = .next u ∧ u.last = .done ∧ u.mem = s.mem ∧ u.spad = s.spad ∧
      (∀ k, u.core k = s.core k) ∧ (∀ k, k ≠ s.cur.sid → u.strand k = s.strand k) ∧
      u.me = { s.me with
        slot := .parked (.erecv q (s.turn + (s.rg b).toNat / 2 ^ 16 % 2 ^ 32) off d s.turn)
        pend := s.me.pend ++ if d = 0 then [] else [⟨s.seqNo, s.turn, .g d, none, BitVec.allOnes 65536, none, false⟩] })

/-- R257, R264: STRIPE on a free core with a sound length and tickets that pass their checks, and with room among the strand's 32, completes: it
opens one operation a chunk and sends chunk j through ticket j modulo the number of its tickets; no register and no byte changes. The chunks beyond 32
of a longer one wait for places, and the strand with them (log 81). -/
def Sys2Proof.Claims.StripeCompletes : Prop :=
  ∀ (s : State) (tk : TkReg) (d a b : GReg) (n : Fin 4), Canonical s → s.scored s.cur.sid = false →
    s.Ready { src := ((List.range (n.val + 1)).map fun i => (Fin.ofNat 16 (tk.val + i) : TkReg)).map .tk ++ [.g d, .g a, .g b], outward := true } →
    let off := (s.rg a).toNat
    let len := (s.rg b).toNat % 2 ^ 32
    let dst := (s.rg d).toNat
    let tkt (i : Nat) : Ticket := s.me.rtk (Fin.ofNat 16 (tk.val + i))
    len % 64 = 0 → 64 ≤ len → off + len ≤ 524288 →
    stripeFails s tk (n.val + 1) { kinds := [1, 4], right := 1, lo := dst, hi := dst + len, at_ := dst } = none →
    s.inFlight s.cur.sid + Nat.min 32 (len / 64) ≤ 32 → s.chunksLeft s.cur.sid = false →
    (∀ i, i ≤ n.val → s.foreign s.cur.sid (tkt i) = true →
      s.checksPending (s.strandVd s.cur.sid) = false ∧ (s.key (s.strandVd s.cur.sid)).inthold = false) →
    ∃ u, exec (.stripe tk d a b n) s = .next u ∧ u.last = .done ∧ u.ops.length = s.ops.length + len / 64 ∧
      (∀ j, j < len / 64 → j < 32 → ∃ e ∈ u.packets, e.2.ticket = tkt (j % (n.val + 1)) ∧
        e.2.req = .write (dst + 64 * j) (s.spadRead (coreOf s.cur.sid) (off + 64 * j) 64)) ∧
      u.mem = s.mem ∧ u.spad = s.spad ∧ (∀ k, k ≠ s.cur.sid → u.strand k = s.strand k) ∧
      u.me = if 32 < len / 64 then { s.me with wait := some .chunks } else s.me

/-- R267: VPUSH on a free vector strand, of a group that the ticket's registers take in, completes: it enters the vector queue. -/
def Sys2Proof.Claims.VpushCompletes : Prop :=
  ∀ (s : State) (tk : TkReg) (a : GReg) (vb : VecReg) (g : Grp), Canonical s → s.scored s.cur.sid = false →
    s.Ready { vec := true, src := [.tk tk, .g a, .vl], outward := true } →
    let base := (s.rg a).toNat
    base < 32 → base % g.size = 0 → s.tkFails (s.me.rtk tk) { kinds := [5], right := 3 } = none →
    tkRegsOk (s.me.rtk tk) base g.size = true → s.inFlight s.cur.sid + s.me.pushes + g.size ≤ 32 →
    Room s (.push (s.me.rtk tk) tk vb base g.size) → Queues (.vpush tk a vb g) s (.push (s.me.rtk tk) tk vb base g.size)

/-- R268: VPULL on a free vector strand completes. Where every register of the group is full it clears their full-empty bits and owes 0 and the
group's registers, whose words stand, two turns after issue; otherwise it parks its strand until the limit. -/
def Sys2Proof.Claims.VpullCompletes : Prop :=
  ∀ (s : State) (d a : GReg) (vb : VecReg) (g : Grp), Canonical s → s.scored s.cur.sid = false →
    s.Ready { vec := true, src := [.g a], dst := [.g d], outward := true } →
    (s.me.full vb g.size = true → ∃ u, exec (.vpull d a vb g) s = .next u ∧ u.last = .done ∧ u.mem = s.mem ∧ u.spad = s.spad ∧
      (∀ k, k ≠ s.cur.sid → u.strand k = s.strand k) ∧ u.me.v = s.me.v ∧ u.me.g = s.me.g ∧ u.me.slot = s.me.slot ∧
      (∀ i, i < 32 → u.me.fe.getLsbD i = (s.me.fe.getLsbD i && !(decide (vb.val ≤ i) && decide (i < vb.val + g.size)))) ∧
      (∀ r ∈ groupRegs vb g.size, ⟨s.seqNo, s.turn, .v r, some 0, 0, some (s.turn + 32), false⟩ ∈ u.me.pend) ∧
      (d ≠ 0 → ⟨s.seqNo, s.turn, .g d, some 0, BitVec.allOnes 65536, some (s.turn + 32), false⟩ ∈ u.me.pend)) ∧
    (s.me.full vb g.size = false → ∃ u, exec (.vpull d a vb g) s = .next u ∧ u.last = .done ∧ u.mem = s.mem ∧ u.spad = s.spad ∧
      (∀ k, k ≠ s.cur.sid → u.strand k = s.strand k) ∧
      u.me = { s.me with
        slot := .parked (.vpull vb g.size (s.turn + (s.rg a).toNat % 2 ^ 32) d s.turn)
        pend := s.me.pend ++ (groupRegs vb g.size).map (fun r => ⟨s.seqNo, s.turn, .v r, none, BitVec.allOnes 65536, none, false⟩) ++
          if d = 0 then [] else [⟨s.seqNo, s.turn, .g d, none, BitVec.allOnes 65536, none, false⟩] })
/-! ## Dray words (R246, R269 to R275) and network words (R276 to R278) -/

/-- The strand owes v for g[d] in its n-th turn after the issue. -/
def Sys2Proof.Claims.Owed (s t : State) (d : GReg) (v : Word) (n : Nat) : Prop :=
  t.me.pend = s.me.pend ++ if d = 0 then [] else
    [⟨s.seqNo, s.turn, .g d, some (v.setWidth 65536), BitVec.allOnes 65536, some (s.turn + 16 * n), false⟩]

/-- The strand owes g[d] a value that is not known yet. -/
def Sys2Proof.Claims.Promised (s t : State) (d : GReg) : Prop :=
  t.me.pend = s.me.pend ++ if d = 0 then [] else [⟨s.seqNo, s.turn, .g d, none, BitVec.allOnes 65536, none, false⟩]

/-- No byte of memory or scratchpad and no other strand is changed. -/
def Sys2Proof.Claims.Quiet (s t : State) : Prop := t.mem = s.mem ∧ t.spad = s.spad ∧ ∀ k, k ≠ s.cur.sid → t.strand k = s.strand k

/-- R246, R255, R269 to R271: DRAY reads its 64-byte block from its own scratchpad. A bad block and a Dray that the partition does not
hold are refused with codes 1 and 2; a failing ticket is the access fault; else the command enters the queue and its identifier
lands 2 turns later. -/
def Sys2Proof.Claims.DrayWords : Prop :=
  ∀ (s : State) (tk : TkReg) (d a b : GReg), Canonical s → s.scored s.cur.sid = false →
    s.Ready { src := [.tk tk, .g a, .g b], dst := [.g d], outward := true } →
    let off := (s.rg a).toNat
    let sid := s.cur.sid
    off % 64 = 0 → off + 64 ≤ 524288 → s.ownWrites sid off 64 = false →
    let blk := s.spadRead (coreOf sid) off 64
    let n := (s.rg b).toNat % 64
    ∀ p ∈ [(Instr.drayCopy tk d a b, 0), (.drayGath tk d a b, 1), (.drayScat tk d a b, 2), (.draySeal tk d a b, 3),
        (.drayUnseal tk d a b, 4), (.drayFill tk d a b, 5)],
      let cmd := { cmdOf p.2 blk with
        ticket := s.me.rtk tk, core := coreOf sid, sid := sid, wseq := s.seqNo, vd := s.strandVd sid, priv := s.me.priv
        part := s.strandPart sid }
      let c := { cmd with cores := (s.drayScope cmd).1, shared := (s.drayScope cmd).2, seq := (s.dray n).nextSeq }
      let asked := (s.drayAsks c).findSome? (s.tkFails (s.me.rtk tk))
      let bad := blockBad false p.2 blk = true ∨ (s.strandPart sid = none ∧ 48 ≤ n)
      (bad → Does p.1 s (s.landG d (BitVec.ofNat 64 (2 ^ 63 + 16)) 2)) ∧
      (¬ bad →
        (∀ v, asked = some v → Traps p.1 s { cause := 8, eval := BitVec.ofNat 64 v }) ∧
        (asked = none → s.holdsDray sid n = false → Does p.1 s (s.landG d (BitVec.ofNat 64 (2 ^ 63 + 32)) 2)) ∧
        (asked = none → s.holdsDray sid n = true → (c.sealing = true → (s.key c.vd).valid = true) → (s.dray n).cmds.length < 64 →
          ∃ t, exec p.1 s = .next t ∧ t.last = .done ∧ (t.dray n).cmds = (s.dray n).cmds ++ [c] ∧
            (∀ k, k ≠ n → t.dray k = s.dray k) ∧ (t.agenda.any fun e => e.2 == .drayCommandStart n) = true ∧
            Owed s t d (BitVec.ofNat 64 (commandId n (s.dray n).nextSeq)) 2 ∧ Quiet s t ∧ t.launches = s.launches ∧ t.pkg = s.pkg))

/-- R274, R275: DSTAT, DWAIT and DCANCEL of a command that has not ended: its VD sees its state and its bytes, and every other VD the
status of a command that is not there; DWAIT waits, and DCANCEL ends the command. -/
def Sys2Proof.Claims.DrayStatusWords : Prop :=
  ∀ (s : State) (d a b : GReg) (n q : Nat) (c : DrayCmd), Canonical s → s.scored s.cur.sid = false → n < 48 → q < 2 ^ 32 →
    s.rg a = BitVec.ofNat 64 (commandId n q) → (s.dray n).cmds.find? (fun c => c.seq == q) = some c →
    (s.Ready { src := [.g a], dst := [.g d], outward := true } →
      (c.vd = s.strandVd s.cur.sid →
        Does (.dstat d a) s (s.landG d (statusWord (if c.running then 1 else 0) 0 c.bytes) 2) ∧
        (c.mig = none → c.result = none → ∃ t, exec (.dcancel d a) s = .next t ∧ t.last = .done ∧
          (∀ x ∈ (t.dray n).cmds, x.seq ≠ q) ∧ (∀ x ∈ (s.dray n).cmds, x.seq ≠ q → x ∈ (t.dray n).cmds) ∧
          Owed s t d (statusWord 3 0 c.bytes) 2 ∧ Quiet s t)) ∧
      (c.vd ≠ s.strandVd s.cur.sid → Does (.dstat d a) s (s.landG d 5 2) ∧ Does (.dcancel d a) s (s.landG d 5 2))) ∧
    (s.Ready { src := [.g a, .g b], dst := [.g d], outward := true } →
      (c.vd = s.strandVd s.cur.sid → ∃ t, exec (.dwait d a b) s = .next t ∧ t.last = .done ∧
        t.me.wait = some (.dwait (commandId n q) (s.turn + (s.rg b).toNat % 2 ^ 32) d s.seqNo s.turn) ∧ Promised s t d ∧ Quiet s t) ∧
      (c.vd ≠ s.strandVd s.cur.sid → Does (.dwait d a b) s (s.landG d 5 2)))

/-- R276 to R278: NPOLL takes the oldest completion of a queue pair of its VD; NPOST judges its 64-byte request in the order of R276 and
posts it. -/
def Sys2Proof.Claims.NetworkWords : Prop :=
  ∀ (s u : State) (tk : TkReg) (d a b : GReg) (x : Access) (e : Elem) (h : Nat), Canonical s →
    s.scored s.cur.sid = false →
    let q := (s.rg a).toNat % 4096
    let own := (s.qp q).exists_ = true ∧ (s.qp q).vd = s.strandVd s.cur.sid
    (s.Ready { src := [.g a], dst := [.g d], outward := true } →
      (¬ own → Traps (.npoll d a) s { cause := 8, eval := s.rg a }) ∧
      (own → (s.qp q).comp = [] → Does (.npoll d a) s (s.landG d 0 2)) ∧
      (own → ∀ st w rest, (s.qp q).comp = (st, w) :: rest →
        ∃ t, exec (.npoll d a) s = .next t ∧ t.last = .done ∧ t.qp q = { s.qp q with comp := rest } ∧ (∀ k, k ≠ q → t.qp k = s.qp k) ∧
          Owed s t d (BitVec.ofNat 64 (2 ^ 63 + 2 ^ 32 * st + w.toNat % 2 ^ 32)) 2 ∧ Quiet s t)) ∧
    (s.Ready { src := [.tk tk, .g a, .g b], dst := [.g d], outward := true } →
      s.checkAccess s.cur.sid .vir (s.rg b).toNat 64 .read .plain = (u, .ok x) → x.cycles = [[e]] →
      (∀ y ∈ u.accesses, y.2.sid = s.cur.sid → y.2.blocks x = false) → u.migrate x.vd e.addr = some h →
      let blk := toBytes 64 (u.accRead x e h).1
      let op := blockField blk 0 1
      let w := { workOf blk with
        sid := s.cur.sid, wseq := s.seqNo, vd := s.strandVd s.cur.sid, priv := s.me.priv, core := coreOf s.cur.sid, posted := s.pkg.ency
        need := if op = 2 then 0 else blockField blk 4 4 }
      let lands (v : Word) : Prop := Does (.npost tk d a b) s (u.landG d v 2)
      (¬ own → lands 4) ∧
      (own → workBad blk = true → lands 3) ∧
      (own → workBad blk = false → op = 3 ∨ op = 4 → s.me.priv = 0 → lands 5) ∧
      (own → workBad blk = false → (op ≠ 3 ∧ op ≠ 4) ∨ s.me.priv ≠ 0 → (s.qp q).errored = true → lands 2) ∧
      (own → workBad blk = false → (s.qp q).errored = false →
        (op = 5 → (s.qp q).recv.length < 2 ^ (s.qp q).recvLog →
          (∀ r, u.postImage q w blk = some r → ∃ t, exec (.npost tk d a b) s = .next t ∧ t.last = .done ∧
            (t.qp q).recv = (s.qp q).recv ++ [w] ∧ (t.qp q).send = (s.qp q).send ∧ (∀ k, k ≠ q → t.qp k = s.qp k) ∧
            Owed s t d 0 2 ∧ t.mem = r.mem ∧ t.spad = r.spad) ∧
          (u.postImage q w blk = none → exec (.npost tk d a b) s = .next { u with last := .held })) ∧
        (op = 5 → 2 ^ (s.qp q).recvLog ≤ (s.qp q).recv.length → lands 1) ∧
        (op ≤ 2 → 2 ^ (s.qp q).sendLog ≤ (s.qp q).send.length → lands 1) ∧
        (op ≤ 2 → (s.qp q).send.length < 2 ^ (s.qp q).sendLog →
          (∀ r, u.postImage q w blk = some r → ∃ t, exec (.npost tk d a b) s = .next t ∧ t.last = .done ∧
            (t.qp q).send = (s.qp q).send ++ [w] ∧ (t.qp q).recv = (s.qp q).recv ∧ (∀ k, k ≠ q → t.qp k = s.qp k) ∧
            Owed s t d 0 2 ∧ t.mem = r.mem ∧ t.spad = r.spad) ∧
          (u.postImage q w blk = none → exec (.npost tk d a b) s = .next { u with last := .held })) ∧
        (op = 3 → s.me.priv ≠ 0 → (∀ v, u.tkFails (s.me.rtk tk) (regAsk (s.me.rtk tk)) = some v →
          Traps (.npost tk d a b) s { cause := 8, eval := BitVec.ofNat 64 v })) ∧
        (op = 3 → s.me.priv ≠ 0 → u.tkFails (s.me.rtk tk) (regAsk (s.me.rtk tk)) = none →
          Does (.npost tk d a b) s ((u.setQp q { s.qp q with keys := bind w.rkey (s.me.rtk tk) (s.qp q).keys }).landG d 0 2)) ∧
        (op = 4 → s.me.priv ≠ 0 →
          Does (.npost tk d a b) s ((u.setQp q { s.qp q with keys := unbind w.rkey (s.qp q).keys }).landG d 0 2))))

/-! ## COUNT words (R341 to R343, R348) -/

/-- The word owes its effect in the cycle 16 after its issue, with a result for g[d] 2 turns after it. -/
def Sys2Proof.Claims.Effects (i : Instr) (s : State) (d : GReg) (prio : Nat) (e : Effect) : Prop :=
  Does i s ((if d = 0 then s else s.promise (.g d) false).owe none (s.pkg.ency + 16) prio
    (.effect e ⟨s.cur.sid, s.seqNo, d, s.turn + 32⟩))

/-- R341 to R343, R348: CARR owes its arrival once the strand's earlier operations are done, CSET its new counter, CANCEL and CKPT their
effect; CWAIT lands the word of a counter that is reached, and else parks its strand until the counter or its limit is reached. -/
def Sys2Proof.Claims.CountWords : Prop :=
  ∀ (s : State) (d a : GReg) (n : CnReg) (gd : Guard), Canonical s → s.scored s.cur.sid = false →
    let sid := s.cur.sid
    let v := s.countVdOf sid
    let w := s.rg a
    let use : Use := { gd := gd, src := [.g a], dst := [.g d], outward := true }
    (s.Ready use →
      (s.fenceDone sid s.seqNo .partition 63 = true →
        Effects (.carr d a n gd) s d (prioCarr (16 * (s.core (coreOf sid)).logical + slotOf sid)) (.carr v n w)) ∧
      (s.fenceDone sid s.seqNo .partition 63 = false → Holds (.carr d a n gd) s) ∧
      (w.toNat < 8 → Effects (.cset d a n gd) s d prioCset (.cset v n w)) ∧
      (8 ≤ w.toNat → Does (.cset d a n gd) s (s.landG d (BitVec.ofNat 64 (2 ^ 63)) 2)) ∧
      (let c := (s.vd v).counter n
       let t := w.toNat % 2 ^ 32
       let lm := w.toNat / 2 ^ 32
       ((c.done.toNat + c.canc.toNat + (2 ^ 32 - t)) % 2 ^ 32 < 2 ^ 31 → Does (.cwait d a n gd) s (s.landG d c.word 2)) ∧
       (2 ^ 31 ≤ (c.done.toNat + c.canc.toNat + (2 ^ 32 - t)) % 2 ^ 32 → ∃ u, exec (.cwait d a n gd) s = .next u ∧ u.last = .done ∧
         u.me.slot = .parked (.cwait v n t (if lm = 2 ^ 32 - 1 then none else some (s.turn + lm)) d s.turn) ∧ Promised s u d ∧
         Quiet s u ∧ (lm < 2 ^ 32 - 1 → (⟨some (s.clockOf sid), s.turn + lm, prioCwait⟩, Event.cwaitWake sid) ∈ u.agenda))) ∧
      ((cancelBad s.me.priv w = true ∨ s.cancelVd sid w = none) → Does (.cancel d a gd) s (s.landG d 2 2)) ∧
      (∀ k, cancelBad s.me.priv w = false → s.cancelVd sid w = some k → Effects (.cancel d a gd) s d prioCancel (.cancel k w))) ∧
    (s.Ready { use with level := 1 } → Effects (.ckpt d a n gd) s d prioCancel (.ckpt v (s.strandPart sid) n w))

/-- R339, R341: in its effect cycle an arrival adds to DONE, and a CSET clears the counts and sets the level; no other counter and no
byte changes. -/
def Sys2Proof.Claims.CounterEffects : Prop :=
  ∀ (s : State) (v : Nat) (n : CnReg) (x : Word) (r : Ret), Canonical s →
    let c := (s.vd v).counter n
    let frame (t : State) : Prop :=
      (∀ m, m ≠ n.val → m < 16 → (t.vd v).counter m = (s.vd v).counter m) ∧ (∀ w, w ≠ v → t.vd w = s.vd w) ∧ t.mem = s.mem ∧ t.spad = s.spad ∧
      (∀ k, k ≠ r.sid → t.strand k = s.strand k) ∧ t.launches = s.launches
    (∃ t, runEvent (.effect (.carr v n x) r) s = .next t ∧ (t.vd v).counter n = { c with done := c.done + x.setWidth 32 } ∧ frame t) ∧
    (∃ t, runEvent (.effect (.cset v n x) r) s = .next t ∧ (t.vd v).counter n = { level := x.toNat % 8 } ∧ frame t)

/-! ## Privileged words (R311, R315 to R318, R328 to R332, R234, R287) and contexts (R127, R366 to R368) -/

/-- R328 to R330: XLAT lands what a walk of its address finds 4 turns later; TLBINV waits for its invalidation, or lands its error; a
VD that the strand may not name is the privilege trap. -/
def Sys2Proof.Claims.TranslationWords : Prop :=
  ∀ (s u : State) (d a b : GReg), Canonical s → s.scored s.cur.sid = false →
    let va := (s.rg a).toNat
    let w := s.rg b
    let v := w.toNat % 256
    let named := s.mayName v
    let waits (t : State) : State := t.modMe fun x => { x with wait := some (.until (s.turn + 64)) }
    (s.Ready { level := 1, src := [.g a, .g b], dst := [.g d], outward := true } →
      (named = false → ∀ i ∈ [Instr.xlatRead d a b, .xlatWrite d a b, .xlatFetch d a b, .xlatProbe d a b, .tlbinvPage d a b],
        Traps i s { cause := 4, eval := s.cur.raw.setWidth 64 }) ∧
      (named = true → w.toNat < 512 → v < 192 → va < 2 ^ 57 →
        (∀ e, s.walk (coreOf s.cur.sid) v va = (u, .ok e) →
          Does (.xlatProbe d a b) s (waits (u.landG d (xlatWord e va) 4)) ∧
          ∀ p ∈ [(Instr.xlatRead d a b, Right.read), (.xlatWrite d a b, .write), (.xlatFetch d a b, .exec)],
            Does p.1 s (waits (u.landG d (match checkLeaf e.attr (w.getLsbD 8) p.2 va with
              | some t => BitVec.ofNat 64 (2 ^ 63 + 2 ^ 8 * t.detail + 2 ^ 13 * t.level)
              | none => xlatWord e va) 4))) ∧
        (∀ t, s.walk (coreOf s.cur.sid) v va = (u, .error t) → t.cause ≠ 10 →
          ∀ i ∈ [Instr.xlatRead d a b, .xlatWrite d a b, .xlatFetch d a b, .xlatProbe d a b],
            Does i s (waits (u.landG d (BitVec.ofNat 64 (2 ^ 63 + 2 ^ 8 * t.detail + 2 ^ 13 * t.level)) 4))) ∧
        (s.pinned v va = false → ∃ t, exec (.tlbinvPage d a b) s = .next t ∧ t.last = .done ∧
          t.me.wait = some (.tlbinv v (some (va / 4096)) none d s.seqNo s.turn) ∧ Promised s t d ∧ Quiet s t) ∧
        (s.pinned v va = true → ∃ t, exec (.tlbinvPage d a b) s = .next t ∧ t.last = .done ∧
          Owed s t d (BitVec.ofNat 64 (2 ^ 63 + 2)) 2 ∧ Quiet s t))) ∧
    (s.Ready { level := 1, src := [.g b], dst := [.g d], outward := true } → named = true → w.toNat < 512 → v < 192 →
      ∃ t, exec (.tlbinvVd d b) s = .next t ∧ t.last = .done ∧ t.me.wait = some (.tlbinv v none none d s.seqNo s.turn) ∧
        Promised s t d ∧ Quiet s t)

/-- R331, R332: MIGSET of a page that may move takes a slot of the migration table and a command of its Dray. -/
def Sys2Proof.Claims.MigrationWord : Prop :=
  ∀ (s u : State) (d a b : GReg) (e : TlbEntry) (i : Nat), Canonical s → s.scored s.cur.sid = false →
    s.Ready { level := 1, src := [.g a, .g b], dst := [.g d], outward := true } →
    let va := (s.rg a).toNat
    let w := (s.rg b).toNat
    let new := w % 2 ^ 40
    let v := w / 2 ^ 40 % 256
    let n := w / 2 ^ 48 % 64
    s.mayName v = true → va % 4096 = 0 → va < 2 ^ 57 → w < 2 ^ 54 → v < 192 →
    (s.holdsDray s.cur.sid n = false → Does (.migset d a b) s (s.landG d (BitVec.ofNat 64 (2 ^ 63 + 32)) 2)) ∧
    (s.holdsDray s.cur.sid n = true → 64 ≤ (s.dray n).cmds.length → Does (.migset d a b) s (s.landG d (BitVec.ofNat 64 (2 ^ 63 + 48)) 2)) ∧
    (s.holdsDray s.cur.sid n = true → (s.dray n).cmds.length < 64 → s.stalledSlot v (va / 4096) new = none → s.freeSlot = some i →
      s.walk (coreOf s.cur.sid) v va = (u, .ok e) → e.pages = 1 → (s.frame e.pfn).pins = 0 →
      (∀ r ∈ s.ckpt.remap, r.unit ≠ e.pfn / 16) → (s.frame new).assigned = true → (s.frame new).owner = v → (s.frame new).fresh = true →
      s.migOf v (va / 4096) = none →
      ∃ t, exec (.migset d a b) s = .next t ∧ t.last = .done ∧
        t.migSlot i = { state := 1, vd := v, vpn := va / 4096, old := e.pfn, new := new, ptr := 0, dray := n, seq := (s.dray n).nextSeq } ∧
        (t.frame new).migdst = true ∧ (t.dray n).cmds.length = (s.dray n).cmds.length + 1 ∧ t.mem = s.mem ∧ t.spad = s.spad ∧
        Owed s t d (BitVec.ofNat 64 (commandId n (s.dray n).nextSeq)) 2)

/-- R315 to R318: MINT of a template in near memory lands its status, and with status 0 the ticket, 4 turns later; REVOKE PORT and
REVOKE KEY begin, and their strand waits for the outcome. -/
def Sys2Proof.Claims.TicketIssueWords : Prop :=
  ∀ (s : State) (tk : TkReg) (d a b : GReg), Canonical s → s.scored s.cur.sid = false →
    let at_ := (s.rg a).toNat
    let rec_ := (s.rg b).toNat
    (s.Ready { level := 2, src := [.g a, .g b], dst := [.g d, .tk tk], outward := true } →
      (at_ % 32 ≠ 0 ∨ isNear at_ = false → Does (.mint tk d a b) s (s.landG d 1 4)) ∧
      (at_ % 32 = 0 → isNear at_ = true → s.linesFault at_ 32 = none →
        let w0 := ofBytes (s.physRead at_ 32) % 2 ^ 128
        let w1 := ofBytes (s.physRead at_ 32) / 2 ^ 128 % 2 ^ 128
        (mintStatus w0 w1 rec_ ≠ 0 → Does (.mint tk d a b) s (s.landG d (BitVec.ofNat 64 (mintStatus w0 w1 rec_)) 4)) ∧
        (mintStatus w0 w1 rec_ = 0 → s.pkg.kg < 16 → ∃ x : Ticket,
          Does (.mint tk d a b) s (((if rec_ = 0 then s else s.engineWrite rec_ (toBytes 64 x.toNat)).landWide (.tk tk)
            (x.setWidth 65536) 4).landG d 0 4) ∧ tkWord x 0 = w0 ∧
          (∀ i, i < 11 ∨ 15 ≤ i → (tkWord x 1).testBit i = w1.testBit i) ∧ tkWord x 1 / 2 ^ 11 % 16 = s.pkg.kg))) ∧
    (s.Ready { level := 2, src := [.g a], dst := [.g d], outward := true } → at_ < 65536 →
      let x := at_ % 32
      let y := at_ / 32 % 32
      let c := coreOf s.cur.sid
      let e := s.pkg.ency + 16 + siteLatency (siteX c) (siteY c) x y
      ∃ t w, exec (.revokePort d a) s = .next t ∧ t.last = .done ∧ t.me.wait = some (.port (portKey x y (at_ / 1024)) e d s.seqNo w) ∧
        (⟨none, e, prioBar⟩, Event.portGenerationAdvance x y (at_ / 1024)) ∈ t.agenda ∧ t.ports = s.ports ∧ Promised s t d ∧ Quiet s t) ∧
    (s.Ready { level := 2, src := [.g a, .g b], dst := [.g d], outward := true } → s.pkg.ency / 4096 + 2 ≤ at_ → rec_ % 16 = 0 →
      isNear rec_ = true → s.linesFault rec_ 16 = none → s.pkg.advance = none →
      ∃ t, exec (.revokeKey d a b) s = .next t ∧ t.last = .done ∧
        t.pkg.advance = some ⟨at_, BitVec.ofNat 128 (ofBytes (s.physRead rec_ 16)), s.cur.sid, d, s.seqNo, s.turn, none⟩ ∧
        t.pkg.keyCur = s.pkg.keyCur ∧ t.pkg.kg = s.pkg.kg ∧
        t.me.wait = some .event ∧ (⟨none, 4096 * at_, prioBar⟩, Event.routeKeyAdvance) ∈ t.agenda ∧ Promised s t d)

/-- The strand waits for its result, which lands at the end of the wait, after no more than some cycles. -/
def Sys2Proof.Claims.LandsWithin (s t : State) (d : GReg) (v : Word) (bound : Nat) : Prop :=
  ∃ n, 16 * n < bound + 16 ∧ t.me.wait = some (.until (s.turn + 16 * n)) ∧ Owed s t d v n

/-- R234, R235: KEYSET SET, WIN and ERASE whose operands and record are in order write their slot of the key table. -/
def Sys2Proof.Claims.KeyWords : Prop :=
  ∀ (s : State) (d a b : GReg), Canonical s → s.scored s.cur.sid = false →
    s.Ready { level := 2, src := [.g a, .g b], dst := [.g d], outward := true } →
    let w := (s.rg a).toNat
    let rec_ := (s.rg b).toNat
    let kid := w % 256
    let r := ofBytes (s.physRead rec_ 64)
    let base := field r 256 40
    let pages := field r 296 24
    let map := field r 320 40
    rec_ % 64 = 0 → isNear rec_ = true → s.linesFault rec_ 64 = none →
    (w / 256 % 2 ^ 24 = 0 → kid < 192 → s.vdHolds kid = false →
      ∃ t, exec (.keysetSet d a b) s = .next t ∧ t.last = .done ∧ LandsWithin s t d 0 65536 ∧
        t.key kid = { s.key kid with
          key := BitVec.ofNat 256 (field r 0 256), txkey := BitVec.ofNat 256 (field r 256 256), valid := true
          txsalt := BitVec.ofNat 32 (w / 2 ^ 32), txctr := 0, txwin := 0, inthold := false }) ∧
    (w < 2 ^ 24 → 192 ≤ kid → w / 256 % 256 < 192 → w / 65536 < 192 → field r 360 152 = 0 → (s.key kid).valid = false →
      (∀ e ∈ s.frames, windowHas base pages e.1 = true → e.2.pins = 0 ∧ e.2.migdst = false ∧ (e.2.assigned = true → e.2.owner = kid)) →
      (∀ e ∈ s.keys, 192 ≤ e.1 → e.1 ≠ kid → e.2.valid = true → e.2.base + 2 * e.2.pages ≤ base ∨ base + 2 * pages ≤ e.2.base) →
      1 ≤ pages → pages ≤ 262143 → isNear (4096 * (base + 2 * pages) - 1) = true → isNear (64 * map + 256 * pages - 1) = true →
      ∃ t, exec (.keysetWin d a b) s = .next t ∧ t.last = .done ∧ LandsWithin s t d 0 65536 ∧
        t.key kid = { s.key kid with
          key := BitVec.ofNat 256 (field r 0 256), valid := true, txctr := 0, txwin := 0, inthold := false, owner := w / 256 % 256
          peer := w / 65536, base := base, pages := pages, mapbase := map, pubgen := 1 }) ∧
    (w < 256 → (kid < 192 → s.vdHolds kid = false) →
      ∃ t, exec (.keysetErase d a b) s = .next t ∧ t.last = .done ∧ LandsWithin s t d 0 65536 ∧
        t.key kid = { s.key kid with key := 0, txkey := 0, valid := false }) ∧
    (kid < 192 → s.vdHolds kid = true → w / 256 % 2 ^ 24 = 0 →
      ∃ t, exec (.keysetSet d a b) s = .next t ∧ t.last = .done ∧ LandsWithin s t d 3 65536 ∧ t.keys = s.keys ∧ Quiet s t)

/-- R287: ADMIT of a tablature that passes its checks admits a scored launch, and lands its identifier; one that fails lands its
status, and changes nothing else. -/
def Sys2Proof.Claims.AdmitWord : Prop :=
  ∀ (s : State) (d a b : GReg), Canonical s → s.scored s.cur.sid = false →
    s.Ready { level := 1, src := [.g a, .g b], dst := [.g d], outward := true } →
    (∀ st, s.admitCheck (s.rg a).toNat (s.rg b).toNat = (st, none) →
      ∃ t, exec (.admitTab d a b) s = .next t ∧ t.last = .done ∧ LandsWithin s t d (BitVec.ofNat 64 st) 4194304 ∧ Quiet s t ∧
        t.launches = s.launches ∧ t.pkg.nadm = s.pkg.nadm ∧ t.frames = s.frames) ∧
    (∀ st h rs, s.admitCheck (s.rg a).toNat (s.rg b).toNat = (st, some (h, rs)) →
      let l := launchKey s.nextId
      s.clockOf s.cur.sid ≠ l →
      ∃ t n, exec (.admitTab d a b) s = .next t ∧ t.last = .done ∧ t.me.wait = some (.until (s.turn + 16 * n)) ∧
        (t.launch l).st = .admitted ∧ (t.launch l).scored = true ∧ (t.launch l).lid = s.freeLid ∧ (t.launch l).nb = h.h.nb ∧
        (t.launch l).startbar = h.h.startbar ∧ (t.launch l).vd = s.vdOfX h.h.part h.h.vdx ∧ (t.launch l).regions = rs ∧
        (∀ k, k ≠ l → t.launch k = s.launch k) ∧ t.pkg.nadm = s.pkg.nadm + 1 ∧
        (⟨none, 4096 * h.h.startbar, prioStart⟩, Event.scoredLaunchStart l false) ∈ t.agenda)

/-- R127, R365 to R368: YIELD of a program-level free strand whose slot is wanted begins its pre-emption, and is else without
effect; CTXSAVE begins the pre-emption of its target and waits; CTXLOAD makes the saved strand of its block the target's; both land
the status of what stands against it. -/
def Obligations.ContextWords : Prop :=
  ∀ (s : State) (d a : GReg) (l p : Nat), Canonical s →
    let sid := s.cur.sid
    let w := s.rg a
    let target := 16 * coreOf sid + w.toNat % 16
    (s.Ready { outward := true } →
      (s.scored sid = true ∨ 1 ≤ s.me.priv ∨ s.me.launch = none → Does .yield s s) ∧
      (s.scored sid = false → s.me.priv = 0 → s.me.launch = some l → (s.launch l).part = none → Does .yield s s) ∧
      (s.scored sid = false → s.me.priv = 0 → s.me.launch = some l → (s.launch l).part = some p →
        if s.slotWanted p (s.launch l).prio (coreOf sid) (slotOf sid) = true then
          Does .yield s ((s.modMe fun x => { x with leaving := some .yield }).now prioCount (.freePreempt sid))
        else Does .yield s s)) ∧
    (s.scored sid = false → s.Ready { level := 1, src := [.g a], dst := [.g d], outward := true } →
      (s.ctxBad w (s.blockSize target) = true → ∃ t, exec (.ctxsave d a) s = .next t ∧ t.last = .done ∧ Owed s t d 1 2 ∧ Quiet s t) ∧
      (s.ctxBad w (s.blockSize target) = false → target ≠ sid → s.preemptable target = true → (s.strand target).slot ≠ .halted →
        (s.strand target).inh = false → s.strandPart target = s.strandPart sid →
        ∃ t, exec (.ctxsave d a) s = .next t ∧ t.last = .done ∧
          t.me.wait = some (.ctxsave target (w.toNat / 4096 * 4096) d s.seqNo s.turn) ∧
          (t.strand target).leaving = some (.ctxsave (w.toNat / 4096 * 4096) sid) ∧
          (t.agenda.any fun e => e.2 == .freePreempt target) = true ∧ Promised s t d ∧ t.mem = s.mem ∧ t.spad = s.spad ∧
          ∀ k, k ≠ sid → k ≠ target → t.strand k = s.strand k) ∧
      (∀ st, s.ctxloadCheck w = (st, none) → ∃ t, exec (.ctxload d a) s = .next t ∧ t.last = .done ∧ Owed s t d (BitVec.ofNat 64 st) 2 ∧
        Quiet s t) ∧
      (∀ st key e, s.ctxloadCheck w = (st, some (key, e)) → target ≠ sid → e.ghost ≠ sid → e.ghost ≠ target →
        ∃ t n, exec (.ctxload d a) s = .next t ∧ t.last = .done ∧ 16 * n < 16384 + 16 ∧ t.me.wait = some (.until (s.turn + 16 * n)) ∧
          Owed s t d 0 n ∧ (t.core (coreOf sid)).k = e.k ∧
          t.strand target = { s.strand e.ghost with
            slot := if (s.strand e.ghost).pendingTrap.isSome then .runnable else e.state } ∧
          (∀ k, k ≠ sid → k ≠ target → k ≠ e.ghost → t.strand k = s.strand k)))
/-! ## Events: what is owed to strands -/

/-- The event answers a next state of which P holds. -/
def Sys2Proof.Claims.Runs (i : Instr) (s : State) (P : State → Prop) : Prop := ∃ t, exec i s = .next t ∧ P t

/-- R263, R268, R275, R292, R342: a parked or waiting strand goes on when its turn, its counter, its entry, its registers or its command
has come, or its limit has passed; until then its wake changes nothing. -/
def Sys2Proof.Claims.WakeEvents : Prop :=
  ∀ (s : State) (sid : Nat), Canonical s →
    let x := s.strand sid
    let now := s.lcy sid
    let wakes (i : Instr) : Prop := Runs i s fun t =>
      (t.strand sid).slot = .runnable ∧ (∀ k, k ≠ sid → t.strand k = s.strand k) ∧ t.mem = s.mem
    (∀ n, x.slot = .parked (.atLcy n) → exec (.atWake sid) s =
      .next (if n ≤ now then s.setStrand sid { x with slot := .runnable } else s)) ∧
    (∀ v n T e d since, x.slot = .parked (.cwait v n T e d since) →
      let c := (s.vd v).counter n
      let isOver := (c.done.toNat + c.canc.toNat + (2 ^ 32 - T % 2 ^ 32)) % 2 ^ 32 < 2 ^ 31
      (isOver ∨ (∃ y, e = some y ∧ y ≤ now) → wakes (.cwaitWake sid)) ∧
      (¬ isOver → (∀ y, e = some y → now < y) → exec (.cwaitWake sid) s = .next s)) ∧
    (∀ q e off d since, x.slot = .parked (.erecv q e off d since) → q < 4 →
      let k := s.core (coreOf sid)
      (∀ m l, k.queue q = m :: l → wakes (.erecvWake sid) ∧
        Runs (.erecvWake sid) s fun t => (t.core (coreOf sid)).queue q = l ∧ t.spad = spadPuts s.spad (coreOf sid) off m.payload) ∧
      (k.queue q = [] → e ≤ now → wakes (.erecvWake sid)) ∧
      (k.queue q = [] → now < e → exec (.erecvWake sid) s = .next s)) ∧
    (∀ b n e d since, x.slot = .parked (.vpull b n e d since) →
      let full := ∀ i, i < n → x.fe.getLsbD (b + i) = true
      (full ∨ e ≤ now → wakes (.vpullWake sid)) ∧ (¬ full → now < e → exec (.vpullWake sid) s = .next s) ∧
      (full → Runs (.vpullWake sid) s fun t =>
        ∀ i, i < 32 → (t.strand sid).fe.getLsbD i = (x.fe.getLsbD i && !(decide (b ≤ i) && decide (i < b + n))))) ∧
    (∀ id e d seq turn, x.wait = some (.dwait id e d seq turn) →
      let isOver := bits (s.drayStatus (s.strandVd sid) (BitVec.ofNat 64 id)) 0 4 ≥ 2
      (isOver ∨ e ≤ now → Runs (.dwaitWake sid) s fun t => (t.strand sid).wait = none ∧ (∀ k, k ≠ sid → t.strand k = s.strand k)) ∧
      (¬ isOver → now < e → exec (.dwaitWake sid) s = .next s)) ∧
    (∀ n, x.dqSince = some (n + 1) → exec (.drayQueueFullExpiry sid) s =
      .next (if n + 65536 ≤ s.pkg.ency then s.setStrand sid { x with dqSince := some 0 } else s))

/-- R76, R132: a word that computes in the lanes and that nothing holds starts at its turn: it leaves the queue, counts as started, and
owes its results; no byte of memory or scratchpad changes. A word that is held looks again a turn later. -/
def Sys2Proof.Claims.LaneStarts : Prop :=
  ∀ (s : State) (sid : Nat) (e : VEntry), Canonical s → (s.strand sid).vq = [.one e] →
    Nat.max (e.turn + 16) (s.strand sid).laneNext ≤ s.lcy sid →
    let l : Lane := ⟨sid, e, [e.seq], e.op.returns, none⟩
    let vmax := s.vlmax32 sid
    (s.laneReady l = false → exec (.laneStart sid) s =
      .next (s.owe (some (s.clockOf sid)) (s.lcy sid + 16) prioLane (.laneStart sid))) ∧
    (∀ o, s.laneReady l = true → e.op.poisonAt (s.strand sid) vmax e.vl = none → e.op.residueAt (s.strand sid) vmax e.vl = none →
      e.op.arith (s.strand sid) vmax e.vl = some o →
      Runs (.laneStart sid) s fun t => (t.strand sid).vq = [] ∧ (∃ b ∈ (t.strand sid).started, b.seq = e.seq) ∧ t.mem = s.mem ∧
        t.spad = s.spad ∧ ∀ k, k ≠ sid → t.strand k = s.strand k)

/-- R33, R297, R353, R365: the scheduler's pre-emption begins with the squash of the strand, and ends with its save, which frees its
slot; a freed slot lets the strands that wait for it resume; the Coachman's release lets the fault queue start a stopped
reserved strand again. -/
def Obligations.SlotEvents : Prop :=
  ∀ (s : State) (sid : Nat), Canonical s →
    let x := s.strand sid
    (x.leaving = none → s.preemptable sid = true → Runs (.freePreempt sid) s fun t =>
      (t.strand sid).leaving = some .scheduler ∧ (∀ k, k ≠ sid → t.strand k = s.strand k) ∧ t.mem = s.mem ∧ t.spad = s.spad) ∧
    (x.leaving = none → s.preemptable sid = false → exec (.freePreempt sid) s = .next s) ∧
    (x.leaving = some .scheduler → s.settled sid = true → inSlot sid = true → Runs (.freePreempt sid) s fun t =>
      t.strand sid = {} ∧ ∃ e, t.hwSaved = s.hwSaved ++ [e] ∧ 16 * e.core + e.slot = sid ∧ e.state = x.slot ∧ inSlot e.ghost = false ∧
        t.strand e.ghost = { x with slot := .preempted, leaving := none } ∧ ∀ k, k ≠ sid → k ≠ e.ghost → t.strand k = s.strand k) ∧
    (s.hwSaved = [] → exec (.slotFreed sid) s =
      .next (match s.partOf (coreOf sid) with | some p => s.kickEngine p | none => s)) ∧
    (∀ e, s.hwSaved = [e] → s.canResume e = true → e.ghost ≠ 16 * e.core + e.slot → Runs (.slotFreed sid) s fun t =>
      t.hwSaved = [] ∧ t.strand (16 * e.core + e.slot) = { s.strand e.ghost with
        slot := if (s.strand e.ghost).pendingTrap.isSome then .runnable else e.state }) ∧
    (x.slot = .halted → x.stopped = true → isCoach (coreOf sid) = false → s.partOf (coreOf sid) = none →
      exec (.reservedStrandRelease sid) s = .next (s.setStrand sid { x with stopped := false }))

/-! ## Events: Harps and memory -/

/-- R166, R170, R174, R177: a command at the head of a free core's queue, or at its cycle on a scored core, starts with row 0, an array
command when the arbiter grants it; a row of a clearing command becomes zero and valid; a half of an HMMS without its partner
takes the pairing fault. -/
def Obligations.HarpEvents : Prop :=
  ∀ (s : State) (c : Nat) (q : HarpCmd) (rest : List HarpCmd), Canonical s →
    let started (t : State) : Prop := (∀ x ∈ (t.core c).harpq, x.id ≠ q.id) ∧
      (q.isArray = false → ∃ r, look q.id t.runs = some r ∧ r.row = 0 ∧ r.stop = 128 ∧ r.sid = q.sid ∧ r.cs = some (s.lcy q.sid)) ∧
      t.mem = s.mem ∧ t.spad = s.spad ∧ t.strands = s.strands
    (q.core = c → (s.core c).scored = false → (s.core c).harpq = q :: rest →
      (s.pkg.ency < q.start → exec (.harpCommandStart c) s = .next (s.owe none q.start prioHarp (.harpCommandStart c))) ∧
      (q.start ≤ s.pkg.ency → q.isArray = false → Runs (.harpCommandStart c) s started) ∧
      (q.start ≤ s.pkg.ency → q.isArray = true → q.paired = false → ∀ keep, s.arbiter (crewOf c) = some (c, keep) →
        exec (.harpCommandStart c) s = .next ((s.grant q keep).startCmd q c)) ∧
      (q.start ≤ s.pkg.ency → q.isArray = true → s.arbiter (crewOf c) = none →
        exec (.harpCommandStart c) s = .next (s.after 1 prioHarp (.harpCommandStart c)))) ∧
    (q.core = c → (s.core c).scored = true → (s.core c).harpq = [q] → q.start ≤ s.lcy q.sid → q.isArray = false →
      Runs (.harpCommandStart c) s started) ∧
    (∀ op r, look op s.runs = some r → r.touch = .clear → Rising (s.harp (crewOf r.core)).tiles →
      Runs (.harpRowTouch op) s fun t => t.tile (crewOf r.core) r.tile = (s.tile (crewOf r.core) r.tile).clearRow r.row ∧
        (∀ k, k ≠ r.tile.val → t.tile (crewOf r.core) k = s.tile (crewOf r.core) k) ∧
        (r.row + 1 < r.stop → look op t.runs = some { r with row := r.row + 1 }) ∧ (r.stop ≤ r.row + 1 → look op t.runs = none) ∧
        t.mem = s.mem ∧ t.spad = s.spad ∧ t.strands = s.strands) ∧
    (∀ op, (s.cores.findSome? fun k => k.2.harpq.find? fun q => q.id == op) = some q → q.paired = true →
      let x := s.strand q.sid
      (s.partnerArrived q = true → exec (.hmmsPairingTimeout op) s = .next s) ∧
      (s.partnerArrived q = false → s.scored q.sid = false → x.slot ≠ .preempted → x.leaving = none → x.priv ≤ 1 → x.tvec ≠ 0 → x.estat.getLsbD 2 = false →
      Runs (.hmmsPairingTimeout op) s fun t => (t.strand q.sid).ecause = 13 ∧ (t.strand q.sid).epc = q.pc ∧ (t.strand q.sid).pc = x.tvec ∧
        (∀ y ∈ (t.core q.core).harpq, y.id ≠ q.id)))

/-- R189, R193, R207, R226, R227, R231, R233, R325: an uncached relay access is performed through the relay slot; a free access past its bound
ends with the access fault of detail 9 (a store too by log 73), a prefetch without one; a walk fills the TLB; an L1 line expires; a line write advances its minor counter, or at its
last value is counted as an integrity failure; a failing line read is counted and holds its reader's key; a reseal goes on to the next line;
a timed read's check counts down. No other byte changes. -/
def Obligations.MemoryEvents : Prop :=
  ∀ (s u : State) (c v la id : Nat) (data : BitVec 512) (a : Access) (e : Elem), Canonical s →
    (s.access id = some a → a.place = .phys → a.cycles = [[e]] → s.accessWaits id a = false → s.migrate a.vd e.addr = some e.addr →
      (s.strand a.sid).slot ≠ .idle → a.flags = 0 → a.vec = false → a.bytes ≤ 8 → s.pairWaits a = false → e.cached = false →
      ∀ w own, e.relay = some (w, own) →
      let old := ofBytes (s.relayRead w own e.addr a.bytes) % 2 ^ (8 * a.bytes)
      let reads (i : Instr) : Prop := Runs i s fun t => t.mem = s.mem ∧ t.spad = s.spad ∧ t.accesses = unbind id s.accesses ∧
        ∀ r p, a.dst = some (.g r) → p ∈ (s.strand a.sid).pend → p.seq = a.seq → p.dst = .g r → p.due = none →
          ∃ x mk due, { p with val := some x, mask := mk, due := some due } ∈ (t.strand a.sid).pend ∧
            x.setWidth 64 = if a.sext then (BitVec.ofNat (8 * a.bytes) old).signExtend 64 else BitVec.ofNat 64 old
      (a.kind = .store → a.dst = none → Runs (.relayOwnerWrite id) s fun t =>
        t.mem = (s.relayWrite w e.addr (toBytes a.bytes e.data.toNat)).mem ∧ t.accesses = unbind id s.accesses ∧ t.strands = s.strands) ∧
      (a.kind = .load → a.cached = false → reads (.relayOwnerRead id) ∧ reads (.relayPeerRead id))) ∧
    (s.access id = some a → s.pkg.ency < a.left + a.bound →
      exec (.freeAccessTimeout id) s = .next (s.after (a.left + a.bound - s.pkg.ency) prioArrive (.freeAccessTimeout id))) ∧
    (s.access id = some a → a.left + a.bound ≤ s.pkg.ency → (s.strand a.sid).slot ≠ .idle → a.vec = false →
      (a.kind = .pref → exec (.freeAccessTimeout id) s = .next { s with accesses := unbind id s.accesses }) ∧
      (a.kind ≠ .pref → s.scored a.sid = false → (s.strand a.sid).slot ≠ .preempted → (s.strand a.sid).leaving = none → (s.strand a.sid).priv ≤ 1 → (s.strand a.sid).tvec ≠ 0 →
        (s.strand a.sid).estat.getLsbD 2 = false → Runs (.freeAccessTimeout id) s fun t => t.accesses = unbind id s.accesses ∧
          (t.strand a.sid).ecause = BitVec.ofNat 16 (8 + 256 * 9) ∧ (t.strand a.sid).eval = a.ea ∧ (t.strand a.sid).epc = a.pc ∧
          t.mem = s.mem ∧ t.spad = s.spad)) ∧
    (∀ va l, s.walk c v va = (u, .ok l) → u.tlbHit c v va = none →
      Runs (.translationWalk c v va) s fun t => l ∈ (t.core c).tlb ∧ t.mem = s.mem ∧ t.strands = s.strands) ∧
    (Runs (.l1LineExpiry c la) s fun t => (∀ l ∈ (t.core c).l1, l.line = la → l.ro = false → s.pkg.ency < l.fill + 4096) ∧
      (∀ l ∈ (s.core c).l1, l.line ≠ la → l ∈ (t.core c).l1) ∧ t.mem = s.mem ∧ t.strands = s.strands) ∧
    (s.majorFull la = false → Rising s.lines → Runs (.memoryLineWrite la data) s fun t =>
      (t.line la).minor = (s.line la).minor + 1 ∧ (∀ k, k ≠ la → t.line k = s.line k) ∧ t.mem = s.mem ∧ t.strands = s.strands) ∧
    (s.majorFull la = true → exec (.memoryLineWrite la data) s = .next (s.countIntegrity none)) ∧
    (s.lineFault la = none → exec (.memoryLineRead la v) s = .next s) ∧
    (∀ d, s.lineFault la = some d → Runs (.memoryLineRead la v) s fun t =>
      t.pkg.errs.integrity = sat32 s.pkg.errs.integrity ∧ (d = 17 → (t.key v).inthold = true) ∧ t.mem = s.mem ∧ t.strands = s.strands) ∧
    (∀ i, (s.block la).reseal = some i → Rising s.blocks → Runs (.minorWrapReseal la) s fun t =>
      (t.block la).reseal = (if i < 63 then some (i + 1) else none) ∧ t.mem = s.mem ∧ t.strands = s.strands) ∧
    (∀ l, s.lineFault la = none → (∃ n ∈ (s.launch l).units, n.2 = .active) →
      exec (.timedReadCheck l la) s = .next (s.setLaunch l { s.launch l with checks := (s.launch l).checks - 1 }))
/-! ## Events: fabric, Drays, keys and network -/

/-- R244, R245, R256, R260, R264 to R268, R309, R312, R313, R374: a ticket that is not genuine is discarded at a router, a hop is granted its
link, and the last hop owes the delivery; a delivery that fails its checks is discarded, and one that passes them writes its bytes, fills its
receive slot, joins its elastic queue or writes its vector register; a held arrival expires with a notice. -/
def Obligations.FabricEvents : Prop :=
  ∀ (s : State) (id : Nat) (p : Packet) (c : Nat), Canonical s → look id s.packets = some p →
    let t := p.ticket
    let gone (u : State) : Prop := ∀ e ∈ u.packets, e.1 ≠ id
    -- the check pipeline of a router
    (p.out = none → p.need = 0 → p.lead = none → s.genuine t = false → exec (.switchCheck id) s = .next (s.discard id p)) ∧
    (p.out = none → p.need = 0 → p.timed = false → p.transit = false → s.genuine t = true → ∀ d x y, (p.hop ≠ 0 ∨ s.roomAt p (p.x + 32 * p.y + 1024 * d) = true) → s.hopAt (tkWord t 0) p.hop p.x = (.dir d, 1) →
      neighbour p.x p.y d = some (x, y) → Runs (.switchCheck id) s fun u =>
        look id u.packets = some { p with lastDir := some d, out := some (p.x + 32 * p.y + 1024 * d) } ∧
        (⟨none, s.pkg.ency, prioGrant⟩, Event.switchCheck id) ∈ u.agenda) ∧
    (p.out = none → p.need = 0 → p.timed = false → p.transit = false → p.lead = none → s.genuine t = true → s.hopAt (tkWord t 0) p.hop p.x = (.deliver, 1) →
      Runs (.switchCheck id) s fun u => (⟨none, s.pkg.ency + 6, rankFree⟩, Event.packetDelivery id) ∈ u.agenda) ∧
    (∀ u k d x y, p.out = some k → p.timed = false → p.port = none → p.lastDir = some d → neighbour p.x p.y d = some (x, y) →
      s.grantPath id p k = some u → Runs (.switchCheck id) s fun w =>
        ∃ q, look id w.packets = some q ∧ q.x = x ∧ q.y = y ∧ q.hop = p.hop + 1 ∧ q.lat = p.lat + hopCost p.x p.y x y) ∧
    -- delivery
    (p.passed = false → s.siteCheck p = none → exec (.packetDelivery id) s = .next (s.discard id p)) ∧
    (∀ off data, p.passed = false → s.siteCheck p = some (some c) → siteCore p.x p.y = some c → (∀ q, s.partOf c = some q → (s.part q).pstate = 0) →
      p.req = .write off data → s.stringBusy c off data.length = false → (s.core c).used s.pkg.ency &&& banksOf off data.length = 0 → p.src = none →
      Runs (.packetDelivery id) s fun u => gone u ∧ u.spad = spadPuts s.spad c off data ∧ u.mem = s.mem ∧
        ∃ mark, (p.ecn = true → mark = true) ∧ (⟨none, s.pkg.ency + p.lat, prioArrive⟩, Event.fabricAcknowledgement p.op mark) ∈ u.agenda) ∧
    (∀ slot spill len o, p.req = .timed slot spill len → p.src = none → siteCore p.x p.y = some c → 1 ≤ len → len ≤ 64 → s.op p.op = some o →
      (∀ k ∈ s.ops, k.2.chunk = none) →
      (tget {} (tkSlotFirst t + slot) (s.core c).recv).full = false → Runs (.timedDelivery id 0) s fun u => gone u ∧
        (u.core c).recv = tput {} (tkSlotFirst t + slot) ⟨BitVec.ofNat 512 (ofBytes (o.flit 0 len)), len, true⟩ (s.core c).recv ∧
        u.spad = s.spad ∧ u.mem = s.mem) ∧
    (∀ payload n, p.req = .elastic payload n → siteCore p.x p.y = some c → s.packets = [(id, p)] →
      let q := tkBase t % 4
      ((s.core c).queue q).length < 16 → Runs (.elasticArrival id) s fun u => gone u ∧
        (u.core c).queue q = (s.core c).queue q ++ [⟨payload, (s.sender p).1, (s.sender p).2, p.slot⟩] ∧
        u.spad = s.spad ∧ u.mem = s.mem) ∧
    (∀ h, p.held = some h → p.src = none → siteCore p.x p.y = some c → p.lead = none → h + 4096 ≤ s.pkg.ency →
      Runs (.heldArrivalExpiry id) s fun u => gone u ∧ (⟨none, s.pkg.ency + p.lat, prioArrive⟩, Event.discardNotice p.op) ∈ u.agenda) ∧
    (∀ r words data valid, p.req = .push r words data valid → siteCore p.x p.y = some c → r < 32 →
      let sid := 16 * c + 4 * tkStrand t
      s.isVector sid = true → words ≤ s.vlmax32 sid → (s.strand sid).fe.getLsbD r = false → Runs (.vpushArrival id) s fun u => gone u ∧
        (u.strand sid).fe = (s.strand sid).fe ||| BitVec.ofNat 32 (2 ^ r) ∧
        (∀ i, i < 32 * words → ((u.strand sid).rv (Fin.ofNat 32 r)).getLsbD i = data.getLsbD i) ∧
        (∀ i, 32 * words ≤ i → i < 65536 → ((u.strand sid).rv (Fin.ofNat 32 r)).getLsbD i = ((s.strand sid).rv (Fin.ofNat 32 r)).getLsbD i) ∧
        (∀ k, k ≠ sid → u.strand k = s.strand k) ∧ u.mem = s.mem ∧ u.spad = s.spad)

/-- R256, R257, R265, R374: the last outcome of an operation ends it: a reply lands its value, an acknowledgement nothing, a notice or the
bound sets the PEERERR bit of the ticket register used; an outcome of an older tenant generation is counted and has no other
effect. The rates of the partitions follow their marks. -/
def Obligations.OperationEvents : Prop :=
  ∀ (s : State) (op : Nat) (o : FabOp) (value : Word), Canonical s → s.ops = [(op, o)] → o.left ≤ 1 →
    let x := s.strand o.sid
    let fresh := o.tgen = (s.vd o.vd).tgen
    (fresh → o.dst = none → o.dray = none → s.scored o.sid = false ∨ o.away = none ∨ o.late = true →
      exec (.fabricAcknowledgement op false) s = .next { s with ops := [] }) ∧
    (fresh → s.opAlive o = true → s.lcy o.sid < o.earliest → ∀ d n sg q, o.dst = some (d, n, sg) → d ≠ 0 → q ∈ x.pend → q.seq = o.seq → q.dst = .g d →
      q.due = none → Runs (.remoteReply op value) s fun t => t.ops = [] ∧ t.mem = s.mem ∧ t.spad = s.spad ∧
        ∃ due, { q with val := some ((FabOp.extend n sg value).setWidth 65536), mask := BitVec.allOnes 65536, due := some due } ∈
          (t.strand o.sid).pend) ∧
    (o.dst = none → o.dray = none → s.opAlive o = true →
      let failed (t : State) : Prop := t.ops = [] ∧ t.mem = s.mem ∧ t.spad = s.spad ∧ (∀ k, k ≠ o.sid → t.strand k = s.strand k) ∧
        t.strand o.sid = { x with peererr := x.peererr ||| BitVec.ofNat 16 (2 ^ o.tkr) }
      (fresh → Runs (.discardNotice op) s failed) ∧
      Runs (.fabricTimeout op) s fun t => failed t ∧ ∀ e ∈ t.packets, e.2.src = none → e.2.op ≠ op) ∧
    (¬ fresh → o.dst = none → ∀ i ∈ [Instr.fabricAcknowledgement op false, .remoteReply op value, .discardNotice op],
      Runs i s fun t => t.ops = [] ∧ t.strands = s.strands ∧ t.pkg.errs.discard = sat32 s.pkg.errs.discard) ∧
    (∀ k r, (k, r) ∈ s.rates → let share := (s.part k.1).share
      Runs .rateUpdate s fun t => t.strands = s.strands ∧ t.mem = s.mem ∧ ∃ w, (k, w) ∈ t.rates ∧ w.marked = false ∧
        w.rate = if share = 0 then 0 else if r.marked then Nat.max 1 (r.rate - ceilDiv r.rate 8)
          else Nat.min share (r.rate + Nat.max 1 (share / 64)))

/-- R270, R272 to R274, R332: a Dray starts its commands, performs them unit by unit, and records their outcome. -/
def Obligations.DrayEvents : Prop :=
  ∀ (s : State) (n : Nat) (c : DrayCmd), Canonical s →
    (c.running = false → c.result = none → c.mig = none → c.fn = 5 → c.pos = 0 → c.claimed = 0 → c.dst < 2 ^ 57 → c.dst % 64 + c.len ≤ 64 → 1 ≤ c.len → c.dstSpace = 0 →
      (s.dray n).cmds = [c] → ∀ k off, s.drayLocal c false c.dst c.len = some (k, off) → s.stringBusy k off c.len = false →
      (s.core k).used s.pkg.ency &&& banksOf off c.len = 0 → Runs (.drayCommandStart n) s fun t =>
        (t.dray n).cmds = [{ c with running := true, pos := 1, bytes := c.bytes + c.len, asked := [], result := some 0 }] ∧ t.mem = s.mem ∧ t.strands = s.strands ∧
        t.spad = spadPuts s.spad k off ((List.range c.len).map fun j => BitVec.ofNat 8 (c.aux / 256 ^ (j % 8))) ∧
        (⟨none, s.pkg.ency, prioDray n⟩, Event.drayCommandCompletion n c.seq) ∈ t.agenda) ∧
    (∀ err, c.result = some err → (s.dray n).cmds = [c] → Runs (.drayCommandCompletion n c.seq) s fun t => (t.dray n).cmds = [] ∧
      (t.dray n).ended.getLast? = some (c.seq, c.vd, statusWord (if err = 0 then 2 else 4) err c.bytes) ∧ t.mem = s.mem ∧
      t.spad = s.spad ∧ t.strands = s.strands) ∧
    (c.running = true → c.result = none → c.mig = none → (s.dray n).cmds = [c] → Runs (.drayTimeout n c.seq) s fun t => (t.dray n).cmds = [] ∧
      (t.dray n).ended.getLast? = some (c.seq, c.vd, statusWord 4 8 c.bytes) ∧ t.mem = s.mem ∧ t.spad = s.spad) ∧
    (∀ l e b, (s.launch l).st = .running → (s.launch l).drays = [e] → e.fn = 5 → b = cmdOf 5 e.block → b.start + 4096 * e.bar ≤ s.lcyL l →
      let j := s.lcyL l - (4096 * e.bar + b.start)
      j < b.units → j < b.dlat → Runs (.timedDrayStart l 0) s fun t => t.mem = s.mem ∧ t.spad = s.spad ∧ (t.launch l).drays = [{ e with
        held := e.held ++ [(j, (List.range (Nat.min 64 (b.len - 64 * j))).map fun i => BitVec.ofNat 8 (b.aux / 256 ^ (i % 8)))] }]) ∧
    (∀ i, let m := s.migSlot i
      m.state = 1 → m.dray = n → c.seq = m.seq → c.mig = some i → c.running = true → c.result = none → (s.dray n).cmds = [c] →
      (∀ d, s.linesFault (4096 * m.old + m.ptr) 128 = some d → Runs (.migrationLineCopy i) s fun t =>
        t.migSlot i = { m with state := 2 } ∧ (t.dray n).cmds = [] ∧
        (t.dray n).ended.getLast? = some (c.seq, c.vd, statusWord 4 5 c.bytes) ∧ t.mem = s.mem) ∧
      (s.linesFault (4096 * m.old + m.ptr) 128 = none → m.ptr + 128 < 4096 → Runs (.migrationLineCopy i) s fun t =>
        t.migSlot i = { m with ptr := m.ptr + 128 } ∧ (t.dray n).cmds = [{ c with bytes := c.bytes + 128 }] ∧
        t.mem = (s.engineWrite (4096 * m.new + m.ptr) (s.physRead (4096 * m.old + m.ptr) 128)).mem))

/-- R311, R317, R318: ports open, close and advance; the digests are compared one bar before the new route key becomes current. -/
def Obligations.PortAndKeyEvents : Prop :=
  ∀ (s : State) (x y port v k : Nat) (eq : Bool), Canonical s →
    let key := portKey x y port
    let e := s.portEntry key
    (e.isOpen = false → e.closed = none → exec (.portOpen x y port v) s =
      .next (s.setPort key { e with gen := 0, ovd := v, isOpen := true })) ∧
    (e.isOpen = true → exec (.portOpen x y port v) s = .next s) ∧
    (e.isOpen = true → Runs (.portClose x y port) s fun t => (t.portEntry key).isOpen = false ∧ (t.portEntry key).gen = e.gen ∧
      (∀ j, j ≠ key → t.portEntry j = s.portEntry j) ∧ t.strands = s.strands ∧ t.mem = s.mem) ∧
    (∀ d seq after_ st, s.strands = [(k, st)] → st.wait = some (.port key s.pkg.ency d seq after_) →
      Runs (.portGenerationAdvance x y port) s fun t => (t.strand k).wait = some (.until after_) ∧ t.mem = s.mem ∧
        t.portEntry key = if e.isOpen ∧ e.gen ≠ 4095 then { e with gen := e.gen + 1 } else e) ∧
    (∀ a, s.pkg.advance = some a →
      (s.pkg.ency / 4096 + 1 = a.bar → exec (.keyDigestCompare eq) s =
        .next (s.modPkg fun k => { k with advance := some { a with digestOk := some (a.digestOk.getD true && eq) } })) ∧
      (s.pkg.ency = 4096 * a.bar → Runs .routeKeyAdvance s fun t => t.mem = s.mem ∧ t.spad = s.spad ∧
        t.pkg = if a.digestOk = some true then
          { s.pkg with advance := none, kg := (s.pkg.kg + 1) % 16, keyPrev := s.pkg.keyCur, keyCur := a.key }
        else { s.pkg with advance := none }))

/-- R250, R277, R278: completions come in the order of posting, and enter their ring in that order; a request without an outcome in 2^28 cycles completes with status 3. -/
def Sys2Proof.Claims.NetworkEvents : Prop :=
  ∀ (s : State) (q : Nat) (w : WorkReq) (status : Nat) (reply : List Byte) (m : NetMsg) (cf : QpConfig), Canonical s →
    let k := s.qp q
    (k.send = [w] → w.sent = true → w.result = none → w.op ≠ 2 → status ≤ 5 → Runs (.networkWorkRequest q status reply) s fun t =>
      (t.qp q).send = [] ∧ (t.qp q).comp ++ (t.qp q).late = k.comp ++ k.late ++ [(status, w.wrid)] ∧ t.strands = s.strands) ∧
    (k.send = [w] → w.result = none → (∀ y ∈ k.recv, s.pkg.ency < y.posted + 2 ^ 28) → w.posted + 2 ^ 28 ≤ s.pkg.ency → Runs (.networkTimeout q) s fun t =>
      (t.qp q).send = [] ∧ (t.qp q).recv = k.recv ∧ (t.qp q).comp ++ (t.qp q).late = k.comp ++ k.late ++ [(3, w.wrid)] ∧ t.strands = s.strands) ∧
    (k.exists_ = true → k.errored = false →
      (m.op = 3 → exec (.networkInbound q m) s = .next (s.setQp q { k with rate := { k.rate with marked := true } })) ∧
      (m.op = 0 → k.recv = [w] → w.len < m.len → Runs (.networkInbound q m) s fun t =>
        (t.qp q).recv = [] ∧ (t.qp q).comp ++ (t.qp q).late = k.comp ++ k.late ++ [(5, w.wrid)]) ∧
      (m.op = 0 → k.recv = [] → k.strict = true → Runs (.networkInbound q m) s fun t =>
        (t.qp q).errored = true ∧ (t.qp q).send = [] ∧ (t.qp q).comp.length + (t.qp q).late.length = k.comp.length + k.late.length + k.send.length)) ∧
    (k.exists_ = false → (∀ n ∈ [cf.sendLog, cf.recvLog, cf.compLog], 4 ≤ n ∧ n ≤ 15) → Runs (.queuePairCreation q cf) s fun t =>
      (t.qp q).exists_ = true ∧ (t.qp q).vd = cf.vd ∧ (t.qp q).send = [] ∧ (t.qp q).recv = [] ∧ (t.qp q).comp = [] ∧
      (t.qp q).errored = false ∧ (∀ j, j ≠ q → t.qp j = s.qp j) ∧ t.mem = s.mem ∧ t.strands = s.strands)
/-! ## Events: launches -/

/-- R22, R25, R251, R253, R296, R340: the launch engine reads a queue's tail and places the launch at its head; units and launches
complete or are cancelled. -/
def Obligations.LaunchEvents : Prop :=
  ∀ (s : State) (p q sid l : Nat), Canonical s →
    let k := s.launchQueue p q
    let L := s.launch l
    (q < 4 → k.log2n ≠ 0 → k.qerr = false → k.head = k.tail → s.linesFault k.tailaddr 4 = none →
      let tail := ofBytes (s.physRead k.tailaddr 4)
      (tail + 2 ^ 32 - k.head) % 2 ^ 32 ≤ 2 ^ k.log2n → Runs (.launchQueuePoll p q) s fun t =>
        t.launchQueue p q = { k with tail := tail } ∧ (t.agenda.any fun e => e.2 == .launchEngineTake p) = true ∧ t.mem = s.mem ∧
        t.strands = s.strands) ∧
    (k.log2n = 0 ∨ k.qerr = true → exec (.launchQueuePoll p q) s = .next s) ∧
    ((∀ i, i < 4 → (s.launchQueue p i).pending = []) → exec (.launchEngineTake p) s = .next s) ∧
    (∀ i d cs, (s.launchQueue p 0).pending = [i] → (s.launchQueue p 0).head < 2 ^ 32 - 1 →
      (s.launchQueue p 0).tail = (s.launchQueue p 0).head + 1 → (∀ j, 1 ≤ j → j < 4 → (s.launchQueue p j).pending = []) →
      s.headDesc p 0 = some (i, d, none) → s.headFate p 0 i d none = .place → s.coresFor p d = some cs →
      let n := launchKey s.nextId
      Runs (.launchEngineTake p) s fun t => (t.launch n).st = .running ∧ (t.launch n).lid = d.lid ∧ (t.launch n).gid = d.gid ∧
        (t.launch n).vd = s.vdOfX p d.vdx ∧ (t.launch n).scored = false ∧
        (∀ j, j ≠ n → t.launch j = s.launch j) ∧ ∀ c ∈ cs, ∀ j ∈ slotsOf d.smask,
          let x := t.strand (16 * c + j)
          x.slot = .runnable ∧ x.launch = some n ∧ x.pc = BitVec.ofNat 64 d.entry + BitVec.ofNat 64 (8 * j) ∧ x.priv = 0 ∧
          x.rg 2 = BitVec.ofNat 64 d.arg) ∧
    (∀ u, (s.strand sid).slot = .halted → (s.strand sid).launch = some l → s.drained sid = true → ((s.strand sid).unit, UState.active) ∈ L.units →
      u ∈ L.units → u.1 ≠ (s.strand sid).unit → u.2 = .active → Runs (.unitCompletion sid) s fun t =>
        t.launch l = { L with units := setUnit (s.strand sid).unit .complete L.units } ∧ t.strands = s.strands ∧ t.mem = s.mem) ∧
    ((s.strand sid).slot = .halted → (s.strand sid).launch = some l → s.drained sid = false → ((s.strand sid).unit, UState.active) ∈ L.units →
      exec (.unitCompletion sid) s = .next (s.after 1 prioCount (.unitCompletion sid))) ∧
    (L.scored = true → 2 ≤ L.npkg → L.st = .running → L.checks = 0 → (∀ u ∈ L.units, u.2 = .complete ∨ u.2 = .cancelled) →
      Runs (.completionNotice l) s fun t => t.launch l = { L with st := .done } ∧ t.mem = s.mem ∧ t.strands = s.strands) ∧
    (∀ u, L.st = .cancelling → L.units = [(u, .stopping sid)] → s.drained sid = true → Runs (.cancelDrainEnd l) s fun t =>
      t.launch l = {} ∧ t.mem = s.mem) ∧
    (∀ u, L.units = [(u, .stopping sid)] → s.drained sid = false → Runs (.cancelDrainEnd l) s fun t =>
      (t.launch l).units = [(u, .stopping sid)] ∧ (⟨none, s.pkg.ency + 1, prioCancel⟩, Event.cancelDrainEnd l) ∈ t.agenda)

/-- R289, R290, R294, R359 to R364: a scored launch starts at its bar line or lapses, with the largest ENDLAT that its packages reported; the first ending event sets its ending bar line;
at its bar lines it ends, is released, is pre-empted with its images kept, and resumes. -/
def Obligations.ScoredLaunchEvents : Prop :=
  ∀ (s : State) (l p : Nat), Canonical s →
    let L := s.launch l
    let resting := s.pkg.restbar = some (s.pkg.ency / 4096)
    let ready := s.coresReady L = true ∧ s.pkg.locked = true
    let line (n : Nat) : Nat := barLineAt (n + Nat.max s.pkg.endlat L.endlat)
    (L.scored = true → L.st = .admitted → 4096 * L.startbar ≤ s.pkg.ency → ¬ resting →
      (L.reported = true → ready → Runs (.scoredLaunchStart l false) s fun t => (t.launch l).st = .running ∧ (t.launch l).lcy = some 0 ∧
        ∀ sid ∈ L.sids, let x := t.strand sid
          x.slot = .runnable ∧ x.launch = some l ∧ x.fetch = .buffer ∧ x.priv = 0 ∧ x.rg 2 = L.arg) ∧
      (L.reported = false ∨ ¬ ready → Runs (.scoredLaunchStart l false) s fun t => t.launch l = {} ∧ t.pkg.nadm = s.pkg.nadm - 1)) ∧
    (L.scored = true → L.st = .admitted → s.pkg.ency < 4096 * (L.startbar - 1) →
      exec (.scoredLaunchStart l true) s = .next (s.setLaunch l { L with reported := true })) ∧
    (L.scored = true → ∀ e, runEvent (.timeArrival l (.admitted e)) s =
      .next (s.setLaunch l { L with endlat := Nat.max L.endlat (Nat.min e 2048) })) ∧
    (∀ f detail, L.scored = true → L.st = .running → L.first = none → L.endAt = none → s.lcyL l ≤ f + Nat.max s.pkg.endlat L.endlat →
      Runs (.endingNotice l f detail) s fun t => (t.launch l).st = .ending ∧ (t.launch l).endAt = some (line f) ∧
        t.strands = s.strands ∧ t.mem = s.mem) ∧
    (∀ sid, L.scored = true → L.st = .running → L.endAt = none → 4096 * L.nb ≤ s.lcyL l → L.sids = [sid] → (s.strand sid).launch = some l →
      ((s.strand sid).slot = .halted → exec (.overrun l) s = .next s) ∧
      ((s.strand sid).slot = .runnable → Runs (.overrun l) s fun t => (t.launch l).endAt = some (4096 * L.nb) ∧ (t.launch l).st = .ending ∧
        (⟨some l, 4096 * L.nb, prioEnd⟩, Event.scoredLaunchEnd l) ∈ t.agenda)) ∧
    (∀ n, L.st = .running ∨ L.st = .ending → L.endAt = some n →
      (n ≤ s.lcyL l → Runs (.scoredLaunchEnd l) s fun t => t.launch l = {} ∧ t.pkg.nadm = s.pkg.nadm - 1) ∧
      (s.lcyL l < n → L.cancelAt = none → exec (.scoredLaunchEnd l) s = .next s)) ∧
    (L.scored = true → L.st = .done → Runs (.scoredLaunchRelease l) s fun t => t.launch l = {} ∧ t.pkg.nadm = s.pkg.nadm - 1 ∧ t.mem = s.mem) ∧
    (let r := s.part p
     let w := s.memNat (r.ctlpage + 0x140) 8
     r.ctlpage ≠ 0 → w.testBit 16 = true → s.scoredNamed p (w % 65536) = some l → L.st = .running → L.preAt = none →
       Runs (.preq p) s fun t => (t.launch l).preAt = some (line (s.lcyL l)) ∧ t.strands = s.strands) ∧
    (∀ n, L.st = .running → L.preAt = some n → L.endAt = none → L.cancelAt = none →
      (s.lcyL l < n → exec (.scoredPreempt l) s = .next s) ∧
      (n ≤ s.lcyL l → L.checks = 0 → Runs (.scoredPreempt l) s fun t => (t.launch l).st = .preempted ∧ (t.launch l).lcy = L.lcy ∧
        ∃ img, t.images = s.images ++ [(l, img)] ∧ img.strands = s.strands.filter fun e => e.2.launch == some l)) ∧
    (let r := s.part p
     let w := s.memNat (r.ctlpage + 0x148) 8
     r.ctlpage ≠ 0 → s.scoredNamed p (w % 65536) = some l → L.st = .preempted → L.resumeAt = none → L.cancelAt = none →
       Runs (.rreq p) s fun t => (t.launch l).resumeAt = some (if w / 65536 % 2 ^ 48 ≤ s.pkg.ency / 4096 + 1 then s.pkg.ency / 4096 + 2
         else w / 65536 % 2 ^ 48)) ∧
    (∀ bar img, L.st = .preempted → L.resumeAt = some bar →
      (s.pkg.ency < 4096 * bar → exec (.scoredResume l) s = .next s) ∧
      (4096 * bar ≤ s.pkg.ency → ¬ resting → look l s.images = some img → ready → s.pkg.therm < 2 → s.linesFault img.addr img.size = none →
        (∀ c ∈ img.cores, (s.core c.1).logical = c.2.logical) → L.endAt = none → Runs (.scoredResume l) s fun t =>
          (t.launch l).st = .running ∧ (t.launch l).resumeAt = none ∧ (t.launch l).lcy = L.lcy ∧ look l t.images = none))
/-! ## Events: time, partitions and virtual devices -/

/-- R295, R335 to R338, R344: bar lines load DRIFT and end lock when it is lost, gaps take SLIP, rests freeze the scored launches, time
lock loads ENCY and the keys, and the error counters are copied. -/
def Obligations.TimeEvents : Prop :=
  ∀ (s : State) (m : BitVec 32) (k : LockData) (p : Nat) (r : Partition), Canonical s →
    let bar := s.pkg.ency / 4096
    (s.pkg.stage = 3 → -65536 ≤ m.toInt → m.toInt ≤ 65536 → Runs (.barLine m) s fun t =>
      t.pkg.drift = m ∧ t.pkg.locked = s.pkg.locked ∧ t.strands = s.strands ∧ t.mem = s.mem ∧
        (s.pkg.restbar = some bar → (⟨none, s.pkg.ency, prioBar⟩, Event.rest) ∈ t.agenda)) ∧
    (s.pkg.stage = 3 → s.pkg.locked = true → m.toInt < -65536 ∨ 65536 < m.toInt → Runs (.barLine m) s fun t =>
      t.pkg.drift = (if m = 0x80000000 then 0x80000001 else m) ∧ t.pkg.locked = false) ∧
    exec .barGap s = .next (s.modPkg fun k => { k with gapPeriods := k.gapPeriods + k.slip, slip := k.slipNext.getD 2, slipNext := none }) ∧
    (∀ b, s.pkg.restbar = some b →
      (bar = b → Runs .rest s fun t => t.pkg = s.pkg ∧ t.strands = s.strands ∧
        ∀ l, t.launch l = if (s.launch l).scored then { s.launch l with frozen := true } else s.launch l) ∧
      (b < bar → Runs .rest s fun t => t.pkg = { s.pkg with restbar := none } ∧ t.strands = s.strands ∧
        ∀ l, t.launch l = if (s.launch l).scored then { s.launch l with frozen := false } else s.launch l) ∧
      (bar < b → exec .rest s = .next s)) ∧
    (s.pkg.stage = 2 → s.pkg.ency % 4096 = 0 → Runs (.timeLock k) s fun t =>
      t.pkg.stage = 3 ∧ t.pkg.locked = true ∧ t.pkg.ency = 4096 * (k.ency.toNat / 4096) ∧ t.pkg.kg = k.kg % 16 ∧ t.pkg.keyPrev = 0 ∧
      t.pkg.keyCur = (if k.kg % 2 = 1 then k.routeKeyOdd else k.routeKeyEven) ∧ t.mem = s.mem ∧ t.spad = s.spad) ∧
    (s.pkg.stage ≠ 2 ∨ s.pkg.ency % 4096 ≠ 0 → exec (.timeLock k) s = .next s) ∧
    (s.pkg.restbar = some bar → Runs (.timeLockRepeat k) s fun t => t.pkg.ency = s.pkg.ency ∧ t.pkg.locked = s.pkg.locked ∧
      (⟨none, 4096 * (bar + 1), prioBar⟩, Event.timeLockRepeat k) ∈ t.agenda ∧ t.mem = s.mem) ∧
    (s.pkg.restbar ≠ some bar → s.pkg.lockAsked = true → s.pkg.ency % 4096 = 0 → Runs (.timeLockRepeat k) s fun t =>
      t.pkg.ency = 4096 * (k.ency.toNat / 4096) ∧ t.pkg.locked = true ∧ t.pkg.keyPrev = 0 ∧ t.mem = s.mem) ∧
    (s.parts = [(p, r)] → r.ctlpage ≠ 0 → exec .errorCounterCopy s = .next (s.engineWrite (r.ctlpage + 0x100)
      ([r.errs.residue, r.errs.rfile, r.errs.discard, r.errs.integrity, r.errs.faultovf, r.errs.ckmixed, r.errs.ckerr].flatMap (toBytes 4))))

/-- R191, R248, R249, R373 to R376: interrupts are signalled, fault entries move to the ring, VDs are scheduled, created, reset and torn
down, and their frames assigned. -/
def Sys2Proof.Claims.VdEvents : Prop :=
  ∀ (s : State) (v p x : Nat), Canonical s →
    let d := s.vd v
    let owed (t : State) (n : Nat) (e : Event) : Prop := (⟨none, s.pkg.ency + n, prioBar⟩, e) ∈ t.agenda
    -- R249, R248
    (∀ e, d.ring = [e] →
      (s.scheduledIn v = true → Runs (.interruptDelivery v) s fun t => (t.vd v).ring = [] ∧ t.mem = s.mem ∧ t.strands = s.strands ∧
        t.irqOut = s.irqOut ++ (if e.tgen = d.tgen then [(v, e)] else []) ∧
        t.pkg.errs.discard = if e.tgen = d.tgen then s.pkg.errs.discard else sat32 s.pkg.errs.discard) ∧
      (s.scheduledIn v = false → exec (.interruptDelivery v) s = .next s)) ∧
    (∀ e, (s.part p).overflow = [e] →
      (s.ringFree p = true → Runs (.faultOverflowMove p) s fun t => t.part p = { s.part p with overflow := [] } ∧
        t.mem = (s.ringWrite p e).mem ∧ t.strands = s.strands) ∧
      (s.ringFree p = false → exec (.faultOverflowMove p) s = .next s)) ∧
    -- R373
    (s.vdschedBit p x = true → exec (.vdScheduleOut p x) s = .next s ∧
      (s.hwSaved = [] → Runs (.vdScheduleIn p x) s fun t => (t.part p).vdsched = (s.part p).vdsched ||| BitVec.ofNat 8 (2 ^ x) ∧
        t.strands = s.strands ∧ t.mem = s.mem)) ∧
    (s.vdschedBit p x = false → exec (.vdScheduleIn p x) s = .next s ∧
      ∀ sid y, s.strands = [(sid, y)] → s.strandVd sid = s.vdOfX p x → s.strandPart sid = some p → s.preemptable sid = true →
        Runs (.vdScheduleOut p x) s fun t => (t.strand sid).leaving = some .scheduler ∧
          (t.part p).vdsched = (s.part p).vdsched &&& ~~~(BitVec.ofNat 8 (2 ^ x))) ∧
    -- R374 to R376
    (∀ q ∈ [(Instr.vdReset v, true), (.vdTeardown v, false)],
      (d.state = 2 → exec q.1 s = .next s) ∧
      (d.state ≠ 2 → Runs q.1 s fun t => t.vd v = { d with state := 2, retain := q.2 } ∧ owed t 256 (.vdResetEffect v) ∧
        (∀ w, w ≠ v → t.vd w = s.vd w) ∧ t.strands = s.strands ∧ t.mem = s.mem)) ∧
    (d.state ≠ 2 → ∀ i ∈ [Instr.vdResetEffect v, .openSlotPurge v, .vdQuiet v], exec i s = .next s) ∧
    (d.state = 2 → Runs (.vdResetEffect v) s fun t => (t.vd v).tgen = (d.tgen + 1) % 65536 ∧ owed t 131072 (.vdQuiet v)) ∧
    (d.state = 2 → s.ops = [] → ∀ id k, s.packets = [(id, k)] → k.vd = v → k.timed = false → Runs (.openSlotPurge v) s fun t =>
      t.packets = [] ∧ t.pkg.errs.discard = sat32 s.pkg.errs.discard ∧ t.strands = s.strands ∧ t.mem = s.mem) ∧
    (d.state = 2 → v ≠ 0 →
      (d.retain = true → Runs (.vdQuiet v) s fun t => t.strands = s.strands ∧ t.mem = s.mem ∧
        t.vd v = { d with cn := Vector.replicate 16 {}, graphs := [], phase := 0, jobCanc := false, state := 1 }) ∧
      (d.retain = false → Runs (.vdQuiet v) s fun t => (t.vd v).state = 3 ∧ (t.vd v).cn = Vector.replicate 16 {} ∧ (t.vd v).ring = [] ∧
        (t.key v).key = 0 ∧ (t.key v).valid = false ∧ (∀ q y : Nat, (t.part q).vdlist.toList[y]? ≠ some v ∨ v = 255) ∧ t.mem = s.mem)) ∧
    (∀ c : VdConfig,
      (d.state = 1 ∨ d.state = 2 → exec (.vdCreation v c) s = .next s) ∧
      (d.state = 0 ∨ d.state = 3 → v ∉ s.pkg.lostVds → Runs (.vdCreation v c) s fun t => t.mem = s.mem ∧ t.strands = s.strands ∧
        t.vd v = { d with state := 1, part := c.part % 256, troot := c.troot % 2 ^ 40, hostBase := c.hostBase, hostLen := c.hostLen })) ∧
    -- R231, R191, R377
    (∀ f as fr, isNear (4096 * f) = true ∨ isFar (4096 * f) = true → Runs (.frameAssignment f v as fr) s fun t =>
      t.frame f = { s.frame f with owner := v % 256, assigned := as, fresh := fr } ∧
      t.mem = (if fr then s.mem.filter fun e => decide (e.1 / 4096 ≠ f) else s.mem) ∧ t.strands = s.strands ∧
      (∀ l ∈ t.mc, l.line / 32 ≠ f) ∧ ∀ c, ∀ l ∈ (t.core c).l1, l.line / 32 ≠ f) ∧
    (∀ die, (((s.part p).ways.toList[die]?).getD 0) = 0 → (∀ l ∈ s.mc, l.dirty = false) → Runs (.emptyMaskWriteback p die) s fun t =>
      t.mc = s.mc.filter (fun l => !(l.part == some p && homeDie l.line == die)) ∧ t.mem = s.mem ∧ t.strands = s.strands) ∧
    (∀ die, die ≠ 0 → Runs (.wayQuotaRecompute die) s fun t => t.mem = s.mem ∧ t.strands = s.strands ∧ t.spad = s.spad ∧ t.pkg = s.pkg ∧
      ∀ e ∈ t.monHits, e.1 / 2048 ≠ die)

/-- R182, R249, R293, R344, R375, R378 to R381: writes of device registers, the retirement of a core, the move of crews and Drays,
and the takeover by the standby. -/
def Sys2Proof.Claims.ServiceEvents : Prop :=
  ∀ (s : State) (c a b : Nat), Canonical s →
    (∀ addr bs, isDevice addr = true → exec (.deviceRegisterWrite (.bytes addr bs)) s = .next (s.memWrite addr bs)) ∧
    (∀ n, exec (.deviceRegisterWrite (.restbar n)) s = .next (s.modPkg fun k => { k with restbar := n })) ∧
    exec (.deviceRegisterWrite .heartbeat) s = .next (s.modPkg fun k => { k with heartbeat := k.ency / 4096 }) ∧
    exec (.deviceRegisterWrite (.clearErrs none)) s = .next (s.modPkg fun k => { k with errs := {} }) ∧
    (Runs (.deviceRegisterWrite (.clearOvf a)) s fun t => t.vd a = { s.vd a with ovf := false }) ∧
    (s.elsewhere a (·.drays) (BitVec.ofNat 48 b) = false → Runs (.deviceRegisterWrite (.part a (.drays (BitVec.ofNat 48 b)))) s fun t =>
      t.part a = { s.part a with drays := BitVec.ofNat 48 b } ∧ ∀ q, q ≠ a → t.part q = s.part q) ∧
    (s.elsewhere a (·.drays) (BitVec.ofNat 48 b) = true →
      exec (.deviceRegisterWrite (.part a (.drays (BitVec.ofNat 48 b)))) s = .next s) ∧
    (960 ≤ c ∨ (s.core c).enabled = false → exec (.coreRetire c) s = .next s) ∧
    (c < 960 → (s.core c).enabled = true → s.hwSaved = [] →
      (s.pkg.ency % 4096 ≠ 0 → Runs (.coreRetire c) s fun t => (t.core c).enabled = true ∧ t.strands = s.strands ∧
        (⟨none, barLineAt s.pkg.ency, prioRelease⟩, Event.coreRetire c) ∈ t.agenda) ∧
      (s.pkg.ency % 4096 = 0 → s.vacated c = true → Runs (.coreRetire c) s fun t => (t.core c).enabled = false ∧ t.mem = s.mem ∧
        ∀ k, s.spareOf ((s.partOf c).getD 0) c = some k → (t.core k).logical = (s.core c).logical ∧
          ((t.part ((s.partOf c).getD 0)).spare).getLsbD k = false)) ∧
    (a ≠ b → ∀ crews drays spares, let cr := BitVec.ofNat 120 crews &&& (s.part a).crews
      let dr := BitVec.ofNat 48 drays &&& (s.part a).drays
      let sp := BitVec.ofNat 960 spares &&& (s.part a).spare
      (s.pkg.ency % 4096 ≠ 0 ∨ s.movable a cr dr sp = false → exec (.partitionMove a b crews drays spares) s =
        .next (s.owe none (barLineAt (s.pkg.ency + 1)) prioRelease (.partitionMove a b crews drays spares))) ∧
      (s.pkg.ency % 4096 = 0 → s.movable a cr dr sp = true → Runs (.partitionMove a b crews drays spares) s fun t =>
        (t.part a).crews = (s.part a).crews &&& ~~~cr ∧ (t.part b).crews = (s.part b).crews ||| cr ∧
        (t.part a).drays = (s.part a).drays &&& ~~~dr ∧ (t.part b).drays = (s.part b).drays ||| dr ∧ t.mem = s.mem)) ∧
    (Runs .coachmanTakeover s fun t => t.pkg.primary = 1 - s.pkg.primary ∧ t.pkg.coachStopped = false ∧
      t.pkg.heartbeat = s.pkg.ency / 4096 ∧ t.strands = s.strands ∧ t.mem = s.mem) ∧
    exec (.firmwareUpdate a) s = .next (s.modPkg fun k => { k with updateBar := some a })

/-! ## Events: power, thermal levels, the start and the host link -/

/-- R382, R390, R391: an idle partition enters the deepest state its tolerance allows, and runs again when it wakes; thermal samples
raise the level, which is left one at a time once its condition has been absent for 2^20 cycles. -/
def Obligations.PowerEvents : Prop :=
  ∀ (s : State) (p l : Nat) (m : ThermalData), Canonical s →
    let r := s.part p
    let ltol := r.ltol.toNat
    let deep := if 20000 ≤ ltol then 3 else if 200 ≤ ltol then 2 else if 5 ≤ ltol then 1 else 0
    let level := if 120 ≤ m.junction ∨ 5000 < m.current ∨ m.sustained = true then 3 else if 110 ≤ m.junction then 2
      else if 100 ≤ m.junction ∨ 3600 < m.average then 1 else 0
    let old := s.pkg.therm
    let last := (s.pkg.thermLast.toList[old - 1]?).getD 0
    (∀ t0, r.idleSince = some t0 → t0 + 65536 ≤ s.pkg.ency → s.partIdle p = true → s.mayChange p = true → r.pstate < deep →
      Runs (.powerStateEntry p) s fun t => (t.part p).pstate = deep ∧ t.strands = s.strands) ∧
    (r.idleSince = none ∨ s.partIdle p = false ∨ deep ≤ r.pstate → exec (.powerStateEntry p) s = .next s) ∧
    (r.pstate = 0 → exec (.powerWake p) s = .next s) ∧
    (r.pstate ≠ 0 → 2 ≤ old → exec (.powerWake p) s = .next (s.after 4096 prioBar (.powerWake p))) ∧
    (r.pstate ≠ 0 → old < 2 → s.mayChange p = true → s.hwSaved = [] → Runs (.powerWake p) s fun t =>
      (t.part p).pstate = 0 ∧ (t.part p).idleSince = none ∧ t.strands = s.strands) ∧
    (Runs (.thermalSample m) s fun t => t.pkg.therm = Nat.max old level) ∧
    (level < 2 → Runs (.thermalSample m) s fun t => t.strands = s.strands ∧ t.launches = s.launches ∧ t.mem = s.mem) ∧
    (level = 2 → old < 2 → ∀ L, s.launches = [(l, L)] → L.scored = true → L.st = .running → L.preAt = none →
      Runs (.thermalSample m) s fun t => (t.launch l).preAt = some (barLineAt (s.lcyL l + Nat.max s.pkg.endlat L.endlat)) ∧ (t.launch l).thermal = true) ∧
    (level = 3 → old < 3 → Runs (.thermalSample m) s fun t => t.pkg.stage = 0 ∧
      (∀ sid, isCoach (coreOf sid) = false → t.strand sid = {}) ∧ ∀ a, isNear a = true ∨ isFar a = true → tget memDefault a t.mem = memDefault) ∧
    (old = 0 → exec .thermalLevelExit s = .next s) ∧
    (old ≠ 0 → last + 2 ^ 20 ≤ s.pkg.ency → Runs .thermalLevelExit s fun t => t.pkg.therm = old - 1) ∧
    (old ≠ 0 → s.pkg.ency < last + 2 ^ 20 → Runs .thermalLevelExit s fun t => t.pkg = s.pkg ∧ t.strands = s.strands ∧ t.mem = s.mem)

/-- R383 to R387, R392 to R395: the stages of the start, each in the stage before it, with the failures that FAIL names; the discovery
flood, the core map, the boot launch and its go words. -/
def Obligations.StartEvents : Prop :=
  ∀ (s : State) (p : Stage0Data) (q : Stage3Data) (sum : BitVec 32) (tr far : Bool) (c x y : Nat) (dir : Dir), Canonical s →
    let stage := s.pkg.stage
    let failed (i : Instr) (n : Nat) : Prop := exec i s = .next (s.modPkg fun k => { k with fail := n })
    let n := (s.coresWhere (·.enabled)).length
    (stage ≠ 7 → exec (.bringupStage0 p) s = .next s) ∧
    (stage = 7 → p.flashOk = false → failed (.bringupStage0 p) 1) ∧
    (stage = 7 → p.flashOk = true → p.linkOk = false → failed (.bringupStage0 p) 2) ∧
    (stage = 7 → p.flashOk = true → p.linkOk = true → Runs (.bringupStage0 p) s fun t => t.pkg.stage = 0 ∧ t.pkg.keyCur = p.routeKey ∧
      t.pkg.keyPrev = 0 ∧ t.pkg.kg = 0 ∧ ∀ k ∈ [15360, 15376], let f := t.strand k
        f.slot = .runnable ∧ f.priv = 2 ∧ f.fetch = .phys ∧ f.pc = p.entry &&& ~~~7) ∧
    (stage ≠ 0 → exec .bringupStage1 s = .next s) ∧
    (stage = 0 → Runs .bringupStage1 s fun t => t.pkg.floodStart = some s.pkg.ency ∧ (∀ k, (t.core k).enabled = false) ∧
      (⟨none, s.pkg.ency + 1024, prioStart⟩, Event.mapBuild) ∈ t.agenda ∧
      (s.pkg.primary = 0 → (⟨none, s.pkg.ency + 2, prioFlood 3⟩, Event.discoveryPacket 1 0 .w) ∈ t.agenda)) ∧
    (∀ f a b, s.pkg.floodStart = some f → s.implied x y (dirNum dir) = some (a, b) →
      let k := look (siteNum x y) s.pkg.sites
      (k = none → Runs (.discoveryPacket x y dir) s fun t => t.pkg.sites = bind (siteNum x y) (a, b, false) s.pkg.sites ∧
        ∀ c, siteCore x y = some c → c < 960 → s.pkg.fused.getLsbD c = false → s.pkg.primary = 0 →
          (⟨none, s.pkg.ency + 16 + siteLatency x y 0 0, prioArrive⟩, Event.discoveryAnswer c) ∈ t.agenda) ∧
      (∀ e, k = some (a, b, e) → exec (.discoveryPacket x y dir) s = .next s) ∧
      (∀ a' b' e, k = some (a', b', e) → (a, b) ≠ (a', b') → Runs (.discoveryPacket x y dir) s fun t =>
        t.pkg.sites = bind (siteNum x y) (a', b', true) s.pkg.sites ∧ t.agenda = s.agenda)) ∧
    (∀ f, s.pkg.floodStart = some f →
      (c < 960 → s.pkg.fused.getLsbD c = false → s.pkg.ency < f + 1024 → Runs (.discoveryAnswer c) s fun t =>
        t.core c = { s.core c with answered := true } ∧ ∀ k, k ≠ c → t.core k = s.core k) ∧
      (f + 1024 ≤ s.pkg.ency → exec (.discoveryAnswer c) s = .next s) ∧
      ((∃ e ∈ s.pkg.sites, e.2.2.2 = true) → Runs .mapBuild s fun t => t.pkg = { s.pkg with floodStart := none, fail := 3 } ∧ t.cores = s.cores) ∧
      ((∀ e ∈ s.pkg.sites, e.2.2.2 = false) → Runs .mapBuild s fun t => t.pkg.stage = 1 ∧ t.pkg.fail = 0 ∧ t.pkg.floodStart = none ∧
        (c < 960 → (t.core c).enabled = (s.core c).answered ∧ ((s.core c).answered = true →
          (t.core c).logical = ((List.range c).filter fun j => (s.core j).answered).length)))) ∧
    (stage ≠ 1 → exec (.bringupStage2 tr far sum) s = .next s) ∧
    (stage = 1 → s.pkg.bootSum = none → s.pkg.booted = false →
      failed (.bringupStage2 false far sum) 4 ∧ failed (.bringupStage2 true false sum) 5 ∧
      (s.bootLaunch = none → Runs (.bringupStage2 true true sum) s fun t => t.frames = [] ∧ t.pkg.bootSum = some sum ∧ (t.vd 0).state = 1 ∧
        ((s.core c).enabled = true → c < 960 → (t.strand (16 * c)).slot = .parked .boot ∧ (t.strand (16 * c)).fetch = .spad))) ∧
    (∀ C, stage = 1 → s.pkg.bootSum = some C → ((s.vd 0).counter 1).reached n = true →
      (((s.vd 0).counter 2).done = BitVec.ofNat 32 n * C → (s.vd 0).state = 1 → Runs (.bringupStage2 tr far sum) s fun t =>
        (t.vd 0).state = 2 ∧ t.pkg.booted = true ∧ t.pkg.bootSum = none) ∧
      (((s.vd 0).counter 2).done ≠ BitVec.ofNat 32 n * C → Runs (.bringupStage2 tr far sum) s fun t =>
        t.pkg = { s.pkg with bootSum := none, fail := 3 })) ∧
    ((s.strand (16 * c)).slot = .parked .boot →
      (s.goWord c = 0 → exec (.bootWaitRelease c) s = .next s) ∧
      (s.goWord c ≠ 0 → exec (.bootWaitRelease c) s = .next (s.setStrand (16 * c) { s.strand (16 * c) with
        slot := .runnable, pc := BitVec.ofNat 64 (s.goWord c % 524288 / 8 * 8) }))) ∧
    (s.pkg.bootSum = none → exec .bootExpiry s = .next s) ∧
    (∀ C l L, s.pkg.bootSum = some C → s.bootLaunch = some (l, L) → c < 960 → Runs .bootExpiry s fun t =>
      let f := s.strand (16 * c)
      (t.core c).enabled = ((s.core c).enabled && !(f.launch == some l && f.slot != .halted && f.slot != .idle))) ∧
    (stage ≠ 2 → exec (.bringupStage3 q) s = .next s) ∧
    (stage = 2 → q.lockOk = false → failed (.bringupStage3 q) 6) ∧
    (stage = 2 → q.lockOk = true → Runs (.bringupStage3 q) s fun t => t.pkg.torus = q.torus ∧ t.pkg.stage = 2 ∧
      (⟨none, barLineAt (s.pkg.ency + 1), prioBar⟩, Event.timeLock q.lock) ∈ t.agenda)

/-- R236, R387, R388: LOCK, START and STOP move a VD's interface between the TDISP states; a transaction outside its stream in RUN moves it
to ERROR and is refused, one inside reads or writes the VD's memory; the management channel sets LTOL and answers the status, from stage 0 on.
What telemetry and SPDM answer is free (log 7). -/
def Obligations.HostEvents : Prop :=
  ∀ (s : State) (x : HostTx) (v : Nat) (w : BitVec 32), Canonical s →
    let d := s.vd v
    let moved (i : Instr) (st : Tdisp) : Prop := Runs i s fun t => t.vd v = { d with tdisp := st } ∧ (∀ k, k ≠ v → t.vd k = s.vd k) ∧ t.mem = s.mem
    (d.tdisp = .configUnlocked → s.lockedVds < 64 → moved (.lockInterface v) .configLocked) ∧
    (d.tdisp ≠ .configUnlocked ∨ 64 ≤ s.lockedVds → exec (.lockInterface v) s = .next s) ∧
    (d.tdisp = .configLocked → moved (.startInterface v) .run) ∧
    (d.tdisp ≠ .configLocked → exec (.startInterface v) s = .next s) ∧
    moved (.stopInterface v) .configUnlocked ∧
    (x.vd = v →
      let answers (bs : List Byte) : Prop := Runs (.hostTransaction x) s fun t => t.hostOut = s.hostOut ++ [(v, bs)] ∧ t.mem = s.mem ∧ t.strands = s.strands
      (d.tdisp = .run → x.ownStream = false → answers [] ∧ Runs (.hostTransaction x) s fun t => (t.vd v).tdisp = .error) ∧
      (d.tdisp = .error ∨ d.tdisp = .configLocked → answers []) ∧
      (d.tdisp = .run → x.ownStream = true → s.pkg.hostVfs = true → d.state = 1 → s.vdOwns v x.addr x.data.length = true →
        s.linesFault x.addr x.data.length = none →
        (x.write = false → answers (s.physRead x.addr x.data.length)) ∧
        (x.write = true → exec (.hostTransaction x) s =
          .next ((s.wakePart d.part).linesWrite x.addr x.data (x.data.length / 64 + 2))))) ∧
    (s.pkg.stage = 7 → ∀ m, exec (.mctpMessage m) s = .next s) ∧
    (s.pkg.stage ≠ 7 →
      exec (.mctpMessage .readStatus) s = .next (s.hostReply 192 s.pkg.statusBytes) ∧
      (Runs (.mctpMessage (.setLtol v w)) s fun t => (t.part v).ltol = w ∧ t.mem = s.mem ∧ t.strands = s.strands) ∧
      ∀ m ∈ [MgmtMsg.readTelemetry, .spdm], Runs (.mctpMessage m) s fun t => ∃ bs, t.hostOut = s.hostOut ++ [(192, bs)] ∧ t.mem = s.mem ∧ t.strands = s.strands)

/-- R347 to R349: a round freezes its units or ends without spares; units are copied one by one, lines move back one by one, and the end
is counted. -/
def Obligations.CheckpointEvents : Prop :=
  ∀ (s : State), Canonical s →
    let k := s.ckpt
    let own (f : Nat) : Bool := (s.frame f).owner == k.vd
    let frozen := s.dirty.filter fun u => (List.range 16).all fun i => own (16 * u + i)
    let at_ := 4096 * k.area + 0x30000 + k.copied * 0x10000
    (k.state ≠ 1 → exec .checkpointRoundStart s = .next s) ∧
    (k.state = 1 → frozen = [] → Runs .checkpointRoundStart s fun t => t.ckpt.state = 2 ∧ t.ckpt.round = k.round + 1 ∧ t.ckpt.units = [] ∧
      (t.agenda.any fun e => e.2 == .checkpointUnitCopy) = true ∧ t.strands = s.strands) ∧
    (k.state = 1 → Nat.min (16384 - k.remap.length) k.sparelen < frozen.length → Runs .checkpointRoundStart s fun t =>
      t.ckpt.state = 5 ∧ t.ckpt.err = 1 ∧ t.ckpt.round = k.round ∧ t.strands = s.strands) ∧
    (k.state ≠ 2 → exec .checkpointUnitCopy s = .next s) ∧
    (k.state = 2 → k.units.length ≤ k.copied → Runs .checkpointUnitCopy s fun t => t.ckpt.state = 3 ∧
      (t.agenda.any fun e => e.2 == .checkpointRetire) = true) ∧
    (∀ u, k.state = 2 → k.units[k.copied]? = some u → k.toHost = false →
      (∀ d, s.linesFault (65536 * u) 65536 = some d → Runs .checkpointUnitCopy s fun t => t.ckpt.state = 3 ∧ t.ckpt.err = 2) ∧
      (s.linesFault (65536 * u) 65536 = none → s.areaFits at_ 0x10000 = false → Runs .checkpointUnitCopy s fun t => t.ckpt.state = 3 ∧ t.ckpt.err = 4) ∧
      (s.linesFault (65536 * u) 65536 = none → s.areaFits at_ 0x10000 = true → Runs .checkpointUnitCopy s fun t =>
        t.ckpt.state = 2 ∧ t.ckpt.copied = k.copied + 1 ∧ (t.agenda.any fun e => e.2 == .checkpointUnitCopy) = true)) ∧
    (k.state ≠ 3 → exec .checkpointRetire s = .next s ∧ exec .checkpointRoundEnd s = .next s) ∧
    (k.state = 3 → (∀ r l, k.nextMove = some (r, l) → Runs .checkpointRetire s fun t =>
        t.mem = writeBytes s.mem (65536 * r.unit + 64 * l) (readBytes s.mem (65536 * r.spare + 64 * l) 64) ∧ t.strands = s.strands) ∧
      (k.nextMove = none → Runs .checkpointRetire s fun t => t.ckpt = { k with remap := [] } ∧ t.mem = s.mem ∧
        (⟨none, s.pkg.ency + 1, prioCount⟩, Event.checkpointRoundEnd) ∈ t.agenda)) ∧
    (k.state = 3 → k.cn < 16 → Runs .checkpointRoundEnd s fun t => t.ckpt.state = (if k.err = 0 then 4 else 5) ∧
      ((t.vd k.cnVd).counter k.cn).done = ((s.vd k.cnVd).counter k.cn).done + 1 ∧ t.strands = s.strands)

/-! ## Translation entries (R320, R321) -/

/-- R321: which entries count as having a reserved bit set, and that the walk takes the translation fault for them; an entry with V = 0 is
not valid, whatever its other bits hold. -/
def Obligations.EntryChecks : Prop :=
  ∀ (s : State) (v va core n table : Nat),
    let level := n + 1
    let a := 4096 * table + 8 * (va / 2 ^ (12 + 9 * n) % 512)
    let e := ofBytes (s.physRead a 8)
    let pointer := e.testBit 1 = true
    let fault (detail : Nat) : TrapInfo := { cause := 9, detail := detail, level := level, eval := BitVec.ofNat 64 va }
    let reserved := (∃ i, (9 ≤ i ∧ i ≤ 11 ∨ 52 ≤ i ∧ i ≤ 58 ∨ i = 63) ∧ e.testBit i = true) ∨ (¬ pointer ∧ 3 ≤ level) ∨
      (pointer ∧ level = 1) ∨ (pointer ∧ ∃ i, 2 ≤ i ∧ i ≤ 8 ∧ e.testBit i = true) ∨
      (¬ pointer ∧ level = 2 ∧ (e.testBit 8 = true ∨ e / 2 ^ 12 % 512 ≠ 0))
    (reservedSet e level = true ↔ reserved) ∧
    (s.linesFault a 8 = none →
      (e.testBit 0 = true → reserved → walkFrom v va core level table s = (s, .error (fault 2))) ∧
      (e.testBit 0 = false → walkFrom v va core level table s = (s, .error (fault 1))))


/-! ## Families -/

/-- R40, R42: Kinds of pairs and the illegal-pair trap. -/
def Obligations.PairsDecode : Prop := Claims.PairKinds ∧ Claims.JoinedPairDestinations

/-- R27, R65, R66, R72 to R74, R79: Results owed, landed and discarded, and what they leave alone. -/
def Obligations.ResultsLand : Prop := Claims.LandingFrame ∧ Claims.ResultLands ∧ Claims.HardWiredRegisters

/-- R112 to R114: The ALU words. -/
def Obligations.AluWords : Prop := Claims.AluSums ∧ Claims.AluShifts ∧ Claims.AluSelects ∧ Claims.AluCounts

/-- R115, R116, R121: Immediate and bit-field words. -/
def Obligations.ImmediateAndFieldWords : Prop := Claims.ImmediateWords ∧ Claims.BitFields

/-- R112, R117: Products, quotients and remainders. -/
def Obligations.MultiplyAndDivide : Prop := Claims.Products ∧ Claims.Quotients

/-- R119, R120: Comparisons and predicate logic. -/
def Obligations.PredicateWords : Prop := Claims.Comparisons ∧ Claims.PredicateLogic

/-- R27, R47, R65, R66, R114: False guards and the free-core interlock. -/
def Obligations.GuardAndInterlock : Prop := Claims.FalseGuard ∧ Claims.Interlock

/-- R53, R125, R126: NOP, hints and HALT. -/
def Obligations.HintsAndHalt : Prop := Claims.HintsDoNothing ∧ Claims.HaltHalts

/-- R343, R353, R354: What taking a trap saves, and the stop of a Coachman. -/
def Obligations.TrapsTaken : Prop := Claims.TrapSavesState ∧ Claims.CoachTrapInHandlerStops

/-- R280, R291, R292, R338: AT, CUE and TUNE. -/
def Obligations.TimeWords : Prop := Claims.AtParks ∧ Claims.CueChecksTheTurn ∧ Claims.TuneSetsSlip

/-- R6, R68 to R70, R129, R354: CSR reads, writes, refusals and fields. -/
def Obligations.CsrAccesses : Prop := Claims.CsrReads ∧ Claims.CsrWrites ∧ Claims.CsrRefusals ∧ Claims.CsrFields

/-- R189, R203 to R207: LD, ST and AMO: their checks and their start. -/
def Obligations.ScalarAccesses : Prop := Claims.AddressFaults ∧ Claims.ScalarAccessesStart

/-- R131 to R133, R141 to R156, R212 to R220: Vector words enter the vector queue. -/
def Obligations.VectorWordsQueue : Prop := Claims.LaneWordsQueue ∧ Claims.VectorMemoryWordsQueue

/-- R159 to R163, R165, R166, R172 to R176, R178, R180: Harp words enter their queues. -/
def Obligations.HarpWordsQueue : Prop := Claims.TileWordsQueue ∧ Claims.ProductWordsQueue ∧ Claims.RowWordsQueue

/-- R255, R262, R265, R350: Open operations and failing tickets. -/
def Obligations.OpenOperations : Prop := Claims.OpenWords ∧ Claims.TicketChecksTrap

/-- R254, R257, R260, R261, R263, R264, R267, R268: Timed sends and receives, and the elastic and vector queues. -/
def Obligations.SendsAndQueues : Prop := Claims.SendCompletes ∧ Claims.RecvCompletes ∧ Claims.TimedWordsTrap ∧ Claims.ErecvCompletes ∧ Claims.StripeCompletes ∧ Claims.VpushCompletes ∧ Claims.VpullCompletes

/-- R246, R255, R269 to R271, R274, R275: Dray words. -/
def Obligations.DrayCommands : Prop := Claims.DrayWords ∧ Claims.DrayStatusWords

/-- R339, R341 to R343, R348: COUNT words and their effects. -/
def Obligations.Counters : Prop := Claims.CountWords ∧ Claims.CounterEffects

/-- R328 to R332: XLAT, TLBINV and MIGSET. -/
def Obligations.TranslationAndMigration : Prop := Claims.TranslationWords ∧ Claims.MigrationWord

/-- R234, R235, R287, R315 to R318: MINT, REVOKE, KEYSET and ADMIT. -/
def Obligations.PrivilegedTables : Prop := Claims.TicketIssueWords ∧ Claims.KeyWords ∧ Claims.AdmitWord

/-- R76, R132, R263, R268, R275, R292, R342: Wakes of waiting strands and lane starts. -/
def Obligations.WakesAndStarts : Prop := Claims.WakeEvents ∧ Claims.LaneStarts

/-- R250, R276 to R278: Network words and completions. -/
def Obligations.NetworkWordsAndEvents : Prop := Claims.NetworkWords ∧ Claims.NetworkEvents

/-- R182, R191, R248, R249, R293, R344, R373 to R376, R378 to R381: Virtual devices, partitions and service. -/
def Obligations.VdAndServiceEvents : Prop := Claims.VdEvents ∧ Claims.ServiceEvents
end

