-- ==== Sys2Proof/Laws/State.lean ====
section
/-! SUPPORT. Laws of the updates of State: what each leaves in every field, so that no proof unfolds a record update, and what a
read answers after a write. -/
namespace Sys2Proof.Machine

/-! ## Reads after writes -/

theorem strand_setStrand (s : State) (k j : Nat) (x : Strand) (h : s.strands.Pairwise fun a b => a.1 < b.1) :
    (s.setStrand k x).strand j = if j = k then x else s.strand j := tget_tput_rising _ k j x s.strands h
theorem core_setCore (s : State) (k j : Nat) (x : Core) (h : s.cores.Pairwise fun a b => a.1 < b.1) :
    (s.setCore k x).core j = if j = k then x else s.core j := tget_tput_rising _ k j x s.cores h
theorem launch_setLaunch (s : State) (k j : Nat) (x : Launch) (h : s.launches.Pairwise fun a b => a.1 < b.1) :
    (s.setLaunch k x).launch j = if j = k then x else s.launch j := tget_tput_rising _ k j x s.launches h
theorem vd_setVd (s : State) (k j : Nat) (x : Vd) (h : s.vds.Pairwise fun a b => a.1 < b.1) :
    (s.setVd k x).vd j = if j = k then x else s.vd j := tget_tput_rising _ k j x s.vds h
theorem part_setPart (s : State) (k j : Nat) (x : Partition) (h : s.parts.Pairwise fun a b => a.1 < b.1) :
    (s.setPart k x).part j = if j = k then x else s.part j := tget_tput_rising _ k j x s.parts h
theorem harp_setHarp (s : State) (k j : Nat) (x : Harp) (h : s.harps.Pairwise fun a b => a.1 < b.1) :
    (s.setHarp k x).harp j = if j = k then x else s.harp j := tget_tput_rising _ k j x s.harps h
theorem key_setKey (s : State) (k j : Nat) (x : KeySlot) (h : s.keys.Pairwise fun a b => a.1 < b.1) :
    (s.setKey k x).key j = if j = k then x else s.key j := tget_tput_rising _ k j x s.keys h
theorem frame_setFrame (s : State) (k j : Nat) (x : Frame) (h : s.frames.Pairwise fun a b => a.1 < b.1) :
    (s.setFrame k x).frame j = if j = k then x else s.frame j := tget_tput_rising _ k j x s.frames h
theorem dray_setDray (s : State) (k j : Nat) (x : Dray) (h : s.drays.Pairwise fun a b => a.1 < b.1) :
    (s.setDray k x).dray j = if j = k then x else s.dray j := tget_tput_rising _ k j x s.drays h
theorem qp_setQp (s : State) (k j : Nat) (x : Qp) (h : s.qps.Pairwise fun a b => a.1 < b.1) :
    (s.setQp k x).qp j = if j = k then x else s.qp j := tget_tput_rising _ k j x s.qps h
theorem portEntry_setPort (s : State) (k j : Nat) (x : PortEntry) (h : s.ports.Pairwise fun a b => a.1 < b.1) :
    (s.setPort k x).portEntry j = if j = k then x else s.portEntry j := tget_tput_rising _ k j x s.ports h
theorem migSlot_setMig (s : State) (k j : Nat) (x : MigSlot) (h : s.mig.Pairwise fun a b => a.1 < b.1) :
    (s.setMig k x).migSlot j = if j = k then x else s.migSlot j := tget_tput_rising _ k j x s.mig h

/-! ## Updates through a function -/

@[simp] theorem modStrand_eq (s : State) (k : Nat) (f : Strand → Strand) : s.modStrand k f = s.setStrand k (f (s.strand k)) := rfl
@[simp] theorem modMe_eq (s : State) (f : Strand → Strand) : s.modMe f = s.setStrand s.cur.sid (f s.me) := rfl
@[simp] theorem modCore_eq (s : State) (k : Nat) (f : Core → Core) : s.modCore k f = s.setCore k (f (s.core k)) := rfl
@[simp] theorem modLaunch_eq (s : State) (k : Nat) (f : Launch → Launch) : s.modLaunch k f = s.setLaunch k (f (s.launch k)) := rfl
@[simp] theorem modVd_eq (s : State) (k : Nat) (f : Vd → Vd) : s.modVd k f = s.setVd k (f (s.vd k)) := rfl
@[simp] theorem modPart_eq (s : State) (k : Nat) (f : Partition → Partition) : s.modPart k f = s.setPart k (f (s.part k)) := rfl
@[simp] theorem modHarp_eq (s : State) (k : Nat) (f : Harp → Harp) : s.modHarp k f = s.setHarp k (f (s.harp k)) := rfl
@[simp] theorem after_eq (s : State) (n p : Nat) (e : Event) : s.after n p e = s.owe none (s.pkg.ency + n) p e := rfl
@[simp] theorem now_eq (s : State) (p : Nat) (e : Event) : s.now p e = s.owe none s.pkg.ency p e := rfl

/-! ## Fields -/

@[simp] theorem setStrand_cur (s : State) (k : Nat) (x : Strand) : (s.setStrand k x).cur = s.cur := rfl
@[simp] theorem setStrand_last (s : State) (k : Nat) (x : Strand) : (s.setStrand k x).last = s.last := rfl
@[simp] theorem setStrand_toIssue (s : State) (k : Nat) (x : Strand) : (s.setStrand k x).toIssue = s.toIssue := rfl
@[simp] theorem setStrand_agenda (s : State) (k : Nat) (x : Strand) : (s.setStrand k x).agenda = s.agenda := rfl
@[simp] theorem setStrand_inbox (s : State) (k : Nat) (x : Strand) : (s.setStrand k x).inbox = s.inbox := rfl
@[simp] theorem setStrand_drifts (s : State) (k : Nat) (x : Strand) : (s.setStrand k x).drifts = s.drifts := rfl
@[simp] theorem setStrand_linkOut (s : State) (k : Nat) (x : Strand) : (s.setStrand k x).linkOut = s.linkOut := rfl
@[simp] theorem setStrand_coachIn (s : State) (k : Nat) (x : Strand) : (s.setStrand k x).coachIn = s.coachIn := rfl
@[simp] theorem setStrand_timeOut (s : State) (k : Nat) (x : Strand) : (s.setStrand k x).timeOut = s.timeOut := rfl
@[simp] theorem setStrand_linkIn (s : State) (k : Nat) (x : Strand) : (s.setStrand k x).linkIn = s.linkIn := rfl
@[simp] theorem setStrand_backOut (s : State) (k : Nat) (x : Strand) : (s.setStrand k x).backOut = s.backOut := rfl
@[simp] theorem setStrand_irqOut (s : State) (k : Nat) (x : Strand) : (s.setStrand k x).irqOut = s.irqOut := rfl
@[simp] theorem setStrand_netOut (s : State) (k : Nat) (x : Strand) : (s.setStrand k x).netOut = s.netOut := rfl
@[simp] theorem setStrand_hostOut (s : State) (k : Nat) (x : Strand) : (s.setStrand k x).hostOut = s.hostOut := rfl
@[simp] theorem setStrand_picks (s : State) (k : Nat) (x : Strand) : (s.setStrand k x).picks = s.picks := rfl
@[simp] theorem setStrand_freeCtr (s : State) (k : Nat) (x : Strand) : (s.setStrand k x).freeCtr = s.freeCtr := rfl
@[simp] theorem setStrand_nextId (s : State) (k : Nat) (x : Strand) : (s.setStrand k x).nextId = s.nextId := rfl
@[simp] theorem setStrand_cores (s : State) (k : Nat) (x : Strand) : (s.setStrand k x).cores = s.cores := rfl
@[simp] theorem setStrand_harps (s : State) (k : Nat) (x : Strand) : (s.setStrand k x).harps = s.harps := rfl
@[simp] theorem setStrand_spad (s : State) (k : Nat) (x : Strand) : (s.setStrand k x).spad = s.spad := rfl
@[simp] theorem setStrand_mem (s : State) (k : Nat) (x : Strand) : (s.setStrand k x).mem = s.mem := rfl
@[simp] theorem setStrand_accesses (s : State) (k : Nat) (x : Strand) : (s.setStrand k x).accesses = s.accesses := rfl
@[simp] theorem setStrand_runs (s : State) (k : Nat) (x : Strand) : (s.setStrand k x).runs = s.runs := rfl
@[simp] theorem setStrand_snaps (s : State) (k : Nat) (x : Strand) : (s.setStrand k x).snaps = s.snaps := rfl
@[simp] theorem setStrand_launches (s : State) (k : Nat) (x : Strand) : (s.setStrand k x).launches = s.launches := rfl
@[simp] theorem setStrand_saved (s : State) (k : Nat) (x : Strand) : (s.setStrand k x).saved = s.saved := rfl
@[simp] theorem setStrand_hwSaved (s : State) (k : Nat) (x : Strand) : (s.setStrand k x).hwSaved = s.hwSaved := rfl
@[simp] theorem setStrand_images (s : State) (k : Nat) (x : Strand) : (s.setStrand k x).images = s.images := rfl
@[simp] theorem setStrand_vds (s : State) (k : Nat) (x : Strand) : (s.setStrand k x).vds = s.vds := rfl
@[simp] theorem setStrand_parts (s : State) (k : Nat) (x : Strand) : (s.setStrand k x).parts = s.parts := rfl
@[simp] theorem setStrand_keys (s : State) (k : Nat) (x : Strand) : (s.setStrand k x).keys = s.keys := rfl
@[simp] theorem setStrand_lines (s : State) (k : Nat) (x : Strand) : (s.setStrand k x).lines = s.lines := rfl
@[simp] theorem setStrand_blocks (s : State) (k : Nat) (x : Strand) : (s.setStrand k x).blocks = s.blocks := rfl
@[simp] theorem setStrand_tree (s : State) (k : Nat) (x : Strand) : (s.setStrand k x).tree = s.tree := rfl
@[simp] theorem setStrand_nodes (s : State) (k : Nat) (x : Strand) : (s.setStrand k x).nodes = s.nodes := rfl
@[simp] theorem setStrand_ctrCache (s : State) (k : Nat) (x : Strand) : (s.setStrand k x).ctrCache = s.ctrCache := rfl
@[simp] theorem setStrand_mc (s : State) (k : Nat) (x : Strand) : (s.setStrand k x).mc = s.mc := rfl
@[simp] theorem setStrand_monHits (s : State) (k : Nat) (x : Strand) : (s.setStrand k x).monHits = s.monHits := rfl
@[simp] theorem setStrand_monTags (s : State) (k : Nat) (x : Strand) : (s.setStrand k x).monTags = s.monTags := rfl
@[simp] theorem setStrand_frames (s : State) (k : Nat) (x : Strand) : (s.setStrand k x).frames = s.frames := rfl
@[simp] theorem setStrand_mig (s : State) (k : Nat) (x : Strand) : (s.setStrand k x).mig = s.mig := rfl
@[simp] theorem setStrand_dirty (s : State) (k : Nat) (x : Strand) : (s.setStrand k x).dirty = s.dirty := rfl
@[simp] theorem setStrand_ckpt (s : State) (k : Nat) (x : Strand) : (s.setStrand k x).ckpt = s.ckpt := rfl
@[simp] theorem setStrand_packets (s : State) (k : Nat) (x : Strand) : (s.setStrand k x).packets = s.packets := rfl
@[simp] theorem setStrand_ops (s : State) (k : Nat) (x : Strand) : (s.setStrand k x).ops = s.ops := rfl
@[simp] theorem setStrand_paths (s : State) (k : Nat) (x : Strand) : (s.setStrand k x).paths = s.paths := rfl
@[simp] theorem setStrand_rates (s : State) (k : Nat) (x : Strand) : (s.setStrand k x).rates = s.rates := rfl
@[simp] theorem setStrand_ports (s : State) (k : Nat) (x : Strand) : (s.setStrand k x).ports = s.ports := rfl
@[simp] theorem setStrand_drays (s : State) (k : Nat) (x : Strand) : (s.setStrand k x).drays = s.drays := rfl
@[simp] theorem setStrand_qps (s : State) (k : Nat) (x : Strand) : (s.setStrand k x).qps = s.qps := rfl
@[simp] theorem setStrand_pkg (s : State) (k : Nat) (x : Strand) : (s.setStrand k x).pkg = s.pkg := rfl
@[simp] theorem setCore_cur (s : State) (k : Nat) (x : Core) : (s.setCore k x).cur = s.cur := rfl
@[simp] theorem setCore_last (s : State) (k : Nat) (x : Core) : (s.setCore k x).last = s.last := rfl
@[simp] theorem setCore_toIssue (s : State) (k : Nat) (x : Core) : (s.setCore k x).toIssue = s.toIssue := rfl
@[simp] theorem setCore_agenda (s : State) (k : Nat) (x : Core) : (s.setCore k x).agenda = s.agenda := rfl
@[simp] theorem setCore_inbox (s : State) (k : Nat) (x : Core) : (s.setCore k x).inbox = s.inbox := rfl
@[simp] theorem setCore_drifts (s : State) (k : Nat) (x : Core) : (s.setCore k x).drifts = s.drifts := rfl
@[simp] theorem setCore_linkOut (s : State) (k : Nat) (x : Core) : (s.setCore k x).linkOut = s.linkOut := rfl
@[simp] theorem setCore_coachIn (s : State) (k : Nat) (x : Core) : (s.setCore k x).coachIn = s.coachIn := rfl
@[simp] theorem setCore_timeOut (s : State) (k : Nat) (x : Core) : (s.setCore k x).timeOut = s.timeOut := rfl
@[simp] theorem setCore_linkIn (s : State) (k : Nat) (x : Core) : (s.setCore k x).linkIn = s.linkIn := rfl
@[simp] theorem setCore_backOut (s : State) (k : Nat) (x : Core) : (s.setCore k x).backOut = s.backOut := rfl
@[simp] theorem setCore_irqOut (s : State) (k : Nat) (x : Core) : (s.setCore k x).irqOut = s.irqOut := rfl
@[simp] theorem setCore_netOut (s : State) (k : Nat) (x : Core) : (s.setCore k x).netOut = s.netOut := rfl
@[simp] theorem setCore_hostOut (s : State) (k : Nat) (x : Core) : (s.setCore k x).hostOut = s.hostOut := rfl
@[simp] theorem setCore_picks (s : State) (k : Nat) (x : Core) : (s.setCore k x).picks = s.picks := rfl
@[simp] theorem setCore_freeCtr (s : State) (k : Nat) (x : Core) : (s.setCore k x).freeCtr = s.freeCtr := rfl
@[simp] theorem setCore_nextId (s : State) (k : Nat) (x : Core) : (s.setCore k x).nextId = s.nextId := rfl
@[simp] theorem setCore_strands (s : State) (k : Nat) (x : Core) : (s.setCore k x).strands = s.strands := rfl
@[simp] theorem setCore_harps (s : State) (k : Nat) (x : Core) : (s.setCore k x).harps = s.harps := rfl
@[simp] theorem setCore_spad (s : State) (k : Nat) (x : Core) : (s.setCore k x).spad = s.spad := rfl
@[simp] theorem setCore_mem (s : State) (k : Nat) (x : Core) : (s.setCore k x).mem = s.mem := rfl
@[simp] theorem setCore_accesses (s : State) (k : Nat) (x : Core) : (s.setCore k x).accesses = s.accesses := rfl
@[simp] theorem setCore_runs (s : State) (k : Nat) (x : Core) : (s.setCore k x).runs = s.runs := rfl
@[simp] theorem setCore_snaps (s : State) (k : Nat) (x : Core) : (s.setCore k x).snaps = s.snaps := rfl
@[simp] theorem setCore_launches (s : State) (k : Nat) (x : Core) : (s.setCore k x).launches = s.launches := rfl
@[simp] theorem setCore_saved (s : State) (k : Nat) (x : Core) : (s.setCore k x).saved = s.saved := rfl
@[simp] theorem setCore_hwSaved (s : State) (k : Nat) (x : Core) : (s.setCore k x).hwSaved = s.hwSaved := rfl
@[simp] theorem setCore_images (s : State) (k : Nat) (x : Core) : (s.setCore k x).images = s.images := rfl
@[simp] theorem setCore_vds (s : State) (k : Nat) (x : Core) : (s.setCore k x).vds = s.vds := rfl
@[simp] theorem setCore_parts (s : State) (k : Nat) (x : Core) : (s.setCore k x).parts = s.parts := rfl
@[simp] theorem setCore_keys (s : State) (k : Nat) (x : Core) : (s.setCore k x).keys = s.keys := rfl
@[simp] theorem setCore_lines (s : State) (k : Nat) (x : Core) : (s.setCore k x).lines = s.lines := rfl
@[simp] theorem setCore_blocks (s : State) (k : Nat) (x : Core) : (s.setCore k x).blocks = s.blocks := rfl
@[simp] theorem setCore_tree (s : State) (k : Nat) (x : Core) : (s.setCore k x).tree = s.tree := rfl
@[simp] theorem setCore_nodes (s : State) (k : Nat) (x : Core) : (s.setCore k x).nodes = s.nodes := rfl
@[simp] theorem setCore_ctrCache (s : State) (k : Nat) (x : Core) : (s.setCore k x).ctrCache = s.ctrCache := rfl
@[simp] theorem setCore_mc (s : State) (k : Nat) (x : Core) : (s.setCore k x).mc = s.mc := rfl
@[simp] theorem setCore_monHits (s : State) (k : Nat) (x : Core) : (s.setCore k x).monHits = s.monHits := rfl
@[simp] theorem setCore_monTags (s : State) (k : Nat) (x : Core) : (s.setCore k x).monTags = s.monTags := rfl
@[simp] theorem setCore_frames (s : State) (k : Nat) (x : Core) : (s.setCore k x).frames = s.frames := rfl
@[simp] theorem setCore_mig (s : State) (k : Nat) (x : Core) : (s.setCore k x).mig = s.mig := rfl
@[simp] theorem setCore_dirty (s : State) (k : Nat) (x : Core) : (s.setCore k x).dirty = s.dirty := rfl
@[simp] theorem setCore_ckpt (s : State) (k : Nat) (x : Core) : (s.setCore k x).ckpt = s.ckpt := rfl
@[simp] theorem setCore_packets (s : State) (k : Nat) (x : Core) : (s.setCore k x).packets = s.packets := rfl
@[simp] theorem setCore_ops (s : State) (k : Nat) (x : Core) : (s.setCore k x).ops = s.ops := rfl
@[simp] theorem setCore_paths (s : State) (k : Nat) (x : Core) : (s.setCore k x).paths = s.paths := rfl
@[simp] theorem setCore_rates (s : State) (k : Nat) (x : Core) : (s.setCore k x).rates = s.rates := rfl
@[simp] theorem setCore_ports (s : State) (k : Nat) (x : Core) : (s.setCore k x).ports = s.ports := rfl
@[simp] theorem setCore_drays (s : State) (k : Nat) (x : Core) : (s.setCore k x).drays = s.drays := rfl
@[simp] theorem setCore_qps (s : State) (k : Nat) (x : Core) : (s.setCore k x).qps = s.qps := rfl
@[simp] theorem setCore_pkg (s : State) (k : Nat) (x : Core) : (s.setCore k x).pkg = s.pkg := rfl
@[simp] theorem setLaunch_cur (s : State) (k : Nat) (x : Launch) : (s.setLaunch k x).cur = s.cur := rfl
@[simp] theorem setLaunch_last (s : State) (k : Nat) (x : Launch) : (s.setLaunch k x).last = s.last := rfl
@[simp] theorem setLaunch_toIssue (s : State) (k : Nat) (x : Launch) : (s.setLaunch k x).toIssue = s.toIssue := rfl
@[simp] theorem setLaunch_agenda (s : State) (k : Nat) (x : Launch) : (s.setLaunch k x).agenda = s.agenda := rfl
@[simp] theorem setLaunch_inbox (s : State) (k : Nat) (x : Launch) : (s.setLaunch k x).inbox = s.inbox := rfl
@[simp] theorem setLaunch_drifts (s : State) (k : Nat) (x : Launch) : (s.setLaunch k x).drifts = s.drifts := rfl
@[simp] theorem setLaunch_linkOut (s : State) (k : Nat) (x : Launch) : (s.setLaunch k x).linkOut = s.linkOut := rfl
@[simp] theorem setLaunch_coachIn (s : State) (k : Nat) (x : Launch) : (s.setLaunch k x).coachIn = s.coachIn := rfl
@[simp] theorem setLaunch_timeOut (s : State) (k : Nat) (x : Launch) : (s.setLaunch k x).timeOut = s.timeOut := rfl
@[simp] theorem setLaunch_linkIn (s : State) (k : Nat) (x : Launch) : (s.setLaunch k x).linkIn = s.linkIn := rfl
@[simp] theorem setLaunch_backOut (s : State) (k : Nat) (x : Launch) : (s.setLaunch k x).backOut = s.backOut := rfl
@[simp] theorem setLaunch_irqOut (s : State) (k : Nat) (x : Launch) : (s.setLaunch k x).irqOut = s.irqOut := rfl
@[simp] theorem setLaunch_netOut (s : State) (k : Nat) (x : Launch) : (s.setLaunch k x).netOut = s.netOut := rfl
@[simp] theorem setLaunch_hostOut (s : State) (k : Nat) (x : Launch) : (s.setLaunch k x).hostOut = s.hostOut := rfl
@[simp] theorem setLaunch_picks (s : State) (k : Nat) (x : Launch) : (s.setLaunch k x).picks = s.picks := rfl
@[simp] theorem setLaunch_freeCtr (s : State) (k : Nat) (x : Launch) : (s.setLaunch k x).freeCtr = s.freeCtr := rfl
@[simp] theorem setLaunch_nextId (s : State) (k : Nat) (x : Launch) : (s.setLaunch k x).nextId = s.nextId := rfl
@[simp] theorem setLaunch_strands (s : State) (k : Nat) (x : Launch) : (s.setLaunch k x).strands = s.strands := rfl
@[simp] theorem setLaunch_cores (s : State) (k : Nat) (x : Launch) : (s.setLaunch k x).cores = s.cores := rfl
@[simp] theorem setLaunch_harps (s : State) (k : Nat) (x : Launch) : (s.setLaunch k x).harps = s.harps := rfl
@[simp] theorem setLaunch_spad (s : State) (k : Nat) (x : Launch) : (s.setLaunch k x).spad = s.spad := rfl
@[simp] theorem setLaunch_mem (s : State) (k : Nat) (x : Launch) : (s.setLaunch k x).mem = s.mem := rfl
@[simp] theorem setLaunch_accesses (s : State) (k : Nat) (x : Launch) : (s.setLaunch k x).accesses = s.accesses := rfl
@[simp] theorem setLaunch_runs (s : State) (k : Nat) (x : Launch) : (s.setLaunch k x).runs = s.runs := rfl
@[simp] theorem setLaunch_snaps (s : State) (k : Nat) (x : Launch) : (s.setLaunch k x).snaps = s.snaps := rfl
@[simp] theorem setLaunch_saved (s : State) (k : Nat) (x : Launch) : (s.setLaunch k x).saved = s.saved := rfl
@[simp] theorem setLaunch_hwSaved (s : State) (k : Nat) (x : Launch) : (s.setLaunch k x).hwSaved = s.hwSaved := rfl
@[simp] theorem setLaunch_images (s : State) (k : Nat) (x : Launch) : (s.setLaunch k x).images = s.images := rfl
@[simp] theorem setLaunch_vds (s : State) (k : Nat) (x : Launch) : (s.setLaunch k x).vds = s.vds := rfl
@[simp] theorem setLaunch_parts (s : State) (k : Nat) (x : Launch) : (s.setLaunch k x).parts = s.parts := rfl
@[simp] theorem setLaunch_keys (s : State) (k : Nat) (x : Launch) : (s.setLaunch k x).keys = s.keys := rfl
@[simp] theorem setLaunch_lines (s : State) (k : Nat) (x : Launch) : (s.setLaunch k x).lines = s.lines := rfl
@[simp] theorem setLaunch_blocks (s : State) (k : Nat) (x : Launch) : (s.setLaunch k x).blocks = s.blocks := rfl
@[simp] theorem setLaunch_tree (s : State) (k : Nat) (x : Launch) : (s.setLaunch k x).tree = s.tree := rfl
@[simp] theorem setLaunch_nodes (s : State) (k : Nat) (x : Launch) : (s.setLaunch k x).nodes = s.nodes := rfl
@[simp] theorem setLaunch_ctrCache (s : State) (k : Nat) (x : Launch) : (s.setLaunch k x).ctrCache = s.ctrCache := rfl
@[simp] theorem setLaunch_mc (s : State) (k : Nat) (x : Launch) : (s.setLaunch k x).mc = s.mc := rfl
@[simp] theorem setLaunch_monHits (s : State) (k : Nat) (x : Launch) : (s.setLaunch k x).monHits = s.monHits := rfl
@[simp] theorem setLaunch_monTags (s : State) (k : Nat) (x : Launch) : (s.setLaunch k x).monTags = s.monTags := rfl
@[simp] theorem setLaunch_frames (s : State) (k : Nat) (x : Launch) : (s.setLaunch k x).frames = s.frames := rfl
@[simp] theorem setLaunch_mig (s : State) (k : Nat) (x : Launch) : (s.setLaunch k x).mig = s.mig := rfl
@[simp] theorem setLaunch_dirty (s : State) (k : Nat) (x : Launch) : (s.setLaunch k x).dirty = s.dirty := rfl
@[simp] theorem setLaunch_ckpt (s : State) (k : Nat) (x : Launch) : (s.setLaunch k x).ckpt = s.ckpt := rfl
@[simp] theorem setLaunch_packets (s : State) (k : Nat) (x : Launch) : (s.setLaunch k x).packets = s.packets := rfl
@[simp] theorem setLaunch_ops (s : State) (k : Nat) (x : Launch) : (s.setLaunch k x).ops = s.ops := rfl
@[simp] theorem setLaunch_paths (s : State) (k : Nat) (x : Launch) : (s.setLaunch k x).paths = s.paths := rfl
@[simp] theorem setLaunch_rates (s : State) (k : Nat) (x : Launch) : (s.setLaunch k x).rates = s.rates := rfl
@[simp] theorem setLaunch_ports (s : State) (k : Nat) (x : Launch) : (s.setLaunch k x).ports = s.ports := rfl
@[simp] theorem setLaunch_drays (s : State) (k : Nat) (x : Launch) : (s.setLaunch k x).drays = s.drays := rfl
@[simp] theorem setLaunch_qps (s : State) (k : Nat) (x : Launch) : (s.setLaunch k x).qps = s.qps := rfl
@[simp] theorem setLaunch_pkg (s : State) (k : Nat) (x : Launch) : (s.setLaunch k x).pkg = s.pkg := rfl
@[simp] theorem setVd_cur (s : State) (k : Nat) (x : Vd) : (s.setVd k x).cur = s.cur := rfl
@[simp] theorem setVd_last (s : State) (k : Nat) (x : Vd) : (s.setVd k x).last = s.last := rfl
@[simp] theorem setVd_toIssue (s : State) (k : Nat) (x : Vd) : (s.setVd k x).toIssue = s.toIssue := rfl
@[simp] theorem setVd_agenda (s : State) (k : Nat) (x : Vd) : (s.setVd k x).agenda = s.agenda := rfl
@[simp] theorem setVd_inbox (s : State) (k : Nat) (x : Vd) : (s.setVd k x).inbox = s.inbox := rfl
@[simp] theorem setVd_drifts (s : State) (k : Nat) (x : Vd) : (s.setVd k x).drifts = s.drifts := rfl
@[simp] theorem setVd_linkOut (s : State) (k : Nat) (x : Vd) : (s.setVd k x).linkOut = s.linkOut := rfl
@[simp] theorem setVd_coachIn (s : State) (k : Nat) (x : Vd) : (s.setVd k x).coachIn = s.coachIn := rfl
@[simp] theorem setVd_timeOut (s : State) (k : Nat) (x : Vd) : (s.setVd k x).timeOut = s.timeOut := rfl
@[simp] theorem setVd_linkIn (s : State) (k : Nat) (x : Vd) : (s.setVd k x).linkIn = s.linkIn := rfl
@[simp] theorem setVd_backOut (s : State) (k : Nat) (x : Vd) : (s.setVd k x).backOut = s.backOut := rfl
@[simp] theorem setVd_irqOut (s : State) (k : Nat) (x : Vd) : (s.setVd k x).irqOut = s.irqOut := rfl
@[simp] theorem setVd_netOut (s : State) (k : Nat) (x : Vd) : (s.setVd k x).netOut = s.netOut := rfl
@[simp] theorem setVd_hostOut (s : State) (k : Nat) (x : Vd) : (s.setVd k x).hostOut = s.hostOut := rfl
@[simp] theorem setVd_picks (s : State) (k : Nat) (x : Vd) : (s.setVd k x).picks = s.picks := rfl
@[simp] theorem setVd_freeCtr (s : State) (k : Nat) (x : Vd) : (s.setVd k x).freeCtr = s.freeCtr := rfl
@[simp] theorem setVd_nextId (s : State) (k : Nat) (x : Vd) : (s.setVd k x).nextId = s.nextId := rfl
@[simp] theorem setVd_strands (s : State) (k : Nat) (x : Vd) : (s.setVd k x).strands = s.strands := rfl
@[simp] theorem setVd_cores (s : State) (k : Nat) (x : Vd) : (s.setVd k x).cores = s.cores := rfl
@[simp] theorem setVd_harps (s : State) (k : Nat) (x : Vd) : (s.setVd k x).harps = s.harps := rfl
@[simp] theorem setVd_spad (s : State) (k : Nat) (x : Vd) : (s.setVd k x).spad = s.spad := rfl
@[simp] theorem setVd_mem (s : State) (k : Nat) (x : Vd) : (s.setVd k x).mem = s.mem := rfl
@[simp] theorem setVd_accesses (s : State) (k : Nat) (x : Vd) : (s.setVd k x).accesses = s.accesses := rfl
@[simp] theorem setVd_runs (s : State) (k : Nat) (x : Vd) : (s.setVd k x).runs = s.runs := rfl
@[simp] theorem setVd_snaps (s : State) (k : Nat) (x : Vd) : (s.setVd k x).snaps = s.snaps := rfl
@[simp] theorem setVd_launches (s : State) (k : Nat) (x : Vd) : (s.setVd k x).launches = s.launches := rfl
@[simp] theorem setVd_saved (s : State) (k : Nat) (x : Vd) : (s.setVd k x).saved = s.saved := rfl
@[simp] theorem setVd_hwSaved (s : State) (k : Nat) (x : Vd) : (s.setVd k x).hwSaved = s.hwSaved := rfl
@[simp] theorem setVd_images (s : State) (k : Nat) (x : Vd) : (s.setVd k x).images = s.images := rfl
@[simp] theorem setVd_parts (s : State) (k : Nat) (x : Vd) : (s.setVd k x).parts = s.parts := rfl
@[simp] theorem setVd_keys (s : State) (k : Nat) (x : Vd) : (s.setVd k x).keys = s.keys := rfl
@[simp] theorem setVd_lines (s : State) (k : Nat) (x : Vd) : (s.setVd k x).lines = s.lines := rfl
@[simp] theorem setVd_blocks (s : State) (k : Nat) (x : Vd) : (s.setVd k x).blocks = s.blocks := rfl
@[simp] theorem setVd_tree (s : State) (k : Nat) (x : Vd) : (s.setVd k x).tree = s.tree := rfl
@[simp] theorem setVd_nodes (s : State) (k : Nat) (x : Vd) : (s.setVd k x).nodes = s.nodes := rfl
@[simp] theorem setVd_ctrCache (s : State) (k : Nat) (x : Vd) : (s.setVd k x).ctrCache = s.ctrCache := rfl
@[simp] theorem setVd_mc (s : State) (k : Nat) (x : Vd) : (s.setVd k x).mc = s.mc := rfl
@[simp] theorem setVd_monHits (s : State) (k : Nat) (x : Vd) : (s.setVd k x).monHits = s.monHits := rfl
@[simp] theorem setVd_monTags (s : State) (k : Nat) (x : Vd) : (s.setVd k x).monTags = s.monTags := rfl
@[simp] theorem setVd_frames (s : State) (k : Nat) (x : Vd) : (s.setVd k x).frames = s.frames := rfl
@[simp] theorem setVd_mig (s : State) (k : Nat) (x : Vd) : (s.setVd k x).mig = s.mig := rfl
@[simp] theorem setVd_dirty (s : State) (k : Nat) (x : Vd) : (s.setVd k x).dirty = s.dirty := rfl
@[simp] theorem setVd_ckpt (s : State) (k : Nat) (x : Vd) : (s.setVd k x).ckpt = s.ckpt := rfl
@[simp] theorem setVd_packets (s : State) (k : Nat) (x : Vd) : (s.setVd k x).packets = s.packets := rfl
@[simp] theorem setVd_ops (s : State) (k : Nat) (x : Vd) : (s.setVd k x).ops = s.ops := rfl
@[simp] theorem setVd_paths (s : State) (k : Nat) (x : Vd) : (s.setVd k x).paths = s.paths := rfl
@[simp] theorem setVd_rates (s : State) (k : Nat) (x : Vd) : (s.setVd k x).rates = s.rates := rfl
@[simp] theorem setVd_ports (s : State) (k : Nat) (x : Vd) : (s.setVd k x).ports = s.ports := rfl
@[simp] theorem setVd_drays (s : State) (k : Nat) (x : Vd) : (s.setVd k x).drays = s.drays := rfl
@[simp] theorem setVd_qps (s : State) (k : Nat) (x : Vd) : (s.setVd k x).qps = s.qps := rfl
@[simp] theorem setVd_pkg (s : State) (k : Nat) (x : Vd) : (s.setVd k x).pkg = s.pkg := rfl
@[simp] theorem setPart_cur (s : State) (k : Nat) (x : Partition) : (s.setPart k x).cur = s.cur := rfl
@[simp] theorem setPart_last (s : State) (k : Nat) (x : Partition) : (s.setPart k x).last = s.last := rfl
@[simp] theorem setPart_toIssue (s : State) (k : Nat) (x : Partition) : (s.setPart k x).toIssue = s.toIssue := rfl
@[simp] theorem setPart_agenda (s : State) (k : Nat) (x : Partition) : (s.setPart k x).agenda = s.agenda := rfl
@[simp] theorem setPart_inbox (s : State) (k : Nat) (x : Partition) : (s.setPart k x).inbox = s.inbox := rfl
@[simp] theorem setPart_drifts (s : State) (k : Nat) (x : Partition) : (s.setPart k x).drifts = s.drifts := rfl
@[simp] theorem setPart_linkOut (s : State) (k : Nat) (x : Partition) : (s.setPart k x).linkOut = s.linkOut := rfl
@[simp] theorem setPart_coachIn (s : State) (k : Nat) (x : Partition) : (s.setPart k x).coachIn = s.coachIn := rfl
@[simp] theorem setPart_timeOut (s : State) (k : Nat) (x : Partition) : (s.setPart k x).timeOut = s.timeOut := rfl
@[simp] theorem setPart_linkIn (s : State) (k : Nat) (x : Partition) : (s.setPart k x).linkIn = s.linkIn := rfl
@[simp] theorem setPart_backOut (s : State) (k : Nat) (x : Partition) : (s.setPart k x).backOut = s.backOut := rfl
@[simp] theorem setPart_irqOut (s : State) (k : Nat) (x : Partition) : (s.setPart k x).irqOut = s.irqOut := rfl
@[simp] theorem setPart_netOut (s : State) (k : Nat) (x : Partition) : (s.setPart k x).netOut = s.netOut := rfl
@[simp] theorem setPart_hostOut (s : State) (k : Nat) (x : Partition) : (s.setPart k x).hostOut = s.hostOut := rfl
@[simp] theorem setPart_picks (s : State) (k : Nat) (x : Partition) : (s.setPart k x).picks = s.picks := rfl
@[simp] theorem setPart_freeCtr (s : State) (k : Nat) (x : Partition) : (s.setPart k x).freeCtr = s.freeCtr := rfl
@[simp] theorem setPart_nextId (s : State) (k : Nat) (x : Partition) : (s.setPart k x).nextId = s.nextId := rfl
@[simp] theorem setPart_strands (s : State) (k : Nat) (x : Partition) : (s.setPart k x).strands = s.strands := rfl
@[simp] theorem setPart_cores (s : State) (k : Nat) (x : Partition) : (s.setPart k x).cores = s.cores := rfl
@[simp] theorem setPart_harps (s : State) (k : Nat) (x : Partition) : (s.setPart k x).harps = s.harps := rfl
@[simp] theorem setPart_spad (s : State) (k : Nat) (x : Partition) : (s.setPart k x).spad = s.spad := rfl
@[simp] theorem setPart_mem (s : State) (k : Nat) (x : Partition) : (s.setPart k x).mem = s.mem := rfl
@[simp] theorem setPart_accesses (s : State) (k : Nat) (x : Partition) : (s.setPart k x).accesses = s.accesses := rfl
@[simp] theorem setPart_runs (s : State) (k : Nat) (x : Partition) : (s.setPart k x).runs = s.runs := rfl
@[simp] theorem setPart_snaps (s : State) (k : Nat) (x : Partition) : (s.setPart k x).snaps = s.snaps := rfl
@[simp] theorem setPart_launches (s : State) (k : Nat) (x : Partition) : (s.setPart k x).launches = s.launches := rfl
@[simp] theorem setPart_saved (s : State) (k : Nat) (x : Partition) : (s.setPart k x).saved = s.saved := rfl
@[simp] theorem setPart_hwSaved (s : State) (k : Nat) (x : Partition) : (s.setPart k x).hwSaved = s.hwSaved := rfl
@[simp] theorem setPart_images (s : State) (k : Nat) (x : Partition) : (s.setPart k x).images = s.images := rfl
@[simp] theorem setPart_vds (s : State) (k : Nat) (x : Partition) : (s.setPart k x).vds = s.vds := rfl
@[simp] theorem setPart_keys (s : State) (k : Nat) (x : Partition) : (s.setPart k x).keys = s.keys := rfl
@[simp] theorem setPart_lines (s : State) (k : Nat) (x : Partition) : (s.setPart k x).lines = s.lines := rfl
@[simp] theorem setPart_blocks (s : State) (k : Nat) (x : Partition) : (s.setPart k x).blocks = s.blocks := rfl
@[simp] theorem setPart_tree (s : State) (k : Nat) (x : Partition) : (s.setPart k x).tree = s.tree := rfl
@[simp] theorem setPart_nodes (s : State) (k : Nat) (x : Partition) : (s.setPart k x).nodes = s.nodes := rfl
@[simp] theorem setPart_ctrCache (s : State) (k : Nat) (x : Partition) : (s.setPart k x).ctrCache = s.ctrCache := rfl
@[simp] theorem setPart_mc (s : State) (k : Nat) (x : Partition) : (s.setPart k x).mc = s.mc := rfl
@[simp] theorem setPart_monHits (s : State) (k : Nat) (x : Partition) : (s.setPart k x).monHits = s.monHits := rfl
@[simp] theorem setPart_monTags (s : State) (k : Nat) (x : Partition) : (s.setPart k x).monTags = s.monTags := rfl
@[simp] theorem setPart_frames (s : State) (k : Nat) (x : Partition) : (s.setPart k x).frames = s.frames := rfl
@[simp] theorem setPart_mig (s : State) (k : Nat) (x : Partition) : (s.setPart k x).mig = s.mig := rfl
@[simp] theorem setPart_dirty (s : State) (k : Nat) (x : Partition) : (s.setPart k x).dirty = s.dirty := rfl
@[simp] theorem setPart_ckpt (s : State) (k : Nat) (x : Partition) : (s.setPart k x).ckpt = s.ckpt := rfl
@[simp] theorem setPart_packets (s : State) (k : Nat) (x : Partition) : (s.setPart k x).packets = s.packets := rfl
@[simp] theorem setPart_ops (s : State) (k : Nat) (x : Partition) : (s.setPart k x).ops = s.ops := rfl
@[simp] theorem setPart_paths (s : State) (k : Nat) (x : Partition) : (s.setPart k x).paths = s.paths := rfl
@[simp] theorem setPart_rates (s : State) (k : Nat) (x : Partition) : (s.setPart k x).rates = s.rates := rfl
@[simp] theorem setPart_ports (s : State) (k : Nat) (x : Partition) : (s.setPart k x).ports = s.ports := rfl
@[simp] theorem setPart_drays (s : State) (k : Nat) (x : Partition) : (s.setPart k x).drays = s.drays := rfl
@[simp] theorem setPart_qps (s : State) (k : Nat) (x : Partition) : (s.setPart k x).qps = s.qps := rfl
@[simp] theorem setPart_pkg (s : State) (k : Nat) (x : Partition) : (s.setPart k x).pkg = s.pkg := rfl
@[simp] theorem setHarp_cur (s : State) (k : Nat) (x : Harp) : (s.setHarp k x).cur = s.cur := rfl
@[simp] theorem setHarp_last (s : State) (k : Nat) (x : Harp) : (s.setHarp k x).last = s.last := rfl
@[simp] theorem setHarp_toIssue (s : State) (k : Nat) (x : Harp) : (s.setHarp k x).toIssue = s.toIssue := rfl
@[simp] theorem setHarp_agenda (s : State) (k : Nat) (x : Harp) : (s.setHarp k x).agenda = s.agenda := rfl
@[simp] theorem setHarp_inbox (s : State) (k : Nat) (x : Harp) : (s.setHarp k x).inbox = s.inbox := rfl
@[simp] theorem setHarp_drifts (s : State) (k : Nat) (x : Harp) : (s.setHarp k x).drifts = s.drifts := rfl
@[simp] theorem setHarp_linkOut (s : State) (k : Nat) (x : Harp) : (s.setHarp k x).linkOut = s.linkOut := rfl
@[simp] theorem setHarp_coachIn (s : State) (k : Nat) (x : Harp) : (s.setHarp k x).coachIn = s.coachIn := rfl
@[simp] theorem setHarp_timeOut (s : State) (k : Nat) (x : Harp) : (s.setHarp k x).timeOut = s.timeOut := rfl
@[simp] theorem setHarp_linkIn (s : State) (k : Nat) (x : Harp) : (s.setHarp k x).linkIn = s.linkIn := rfl
@[simp] theorem setHarp_backOut (s : State) (k : Nat) (x : Harp) : (s.setHarp k x).backOut = s.backOut := rfl
@[simp] theorem setHarp_irqOut (s : State) (k : Nat) (x : Harp) : (s.setHarp k x).irqOut = s.irqOut := rfl
@[simp] theorem setHarp_netOut (s : State) (k : Nat) (x : Harp) : (s.setHarp k x).netOut = s.netOut := rfl
@[simp] theorem setHarp_hostOut (s : State) (k : Nat) (x : Harp) : (s.setHarp k x).hostOut = s.hostOut := rfl
@[simp] theorem setHarp_picks (s : State) (k : Nat) (x : Harp) : (s.setHarp k x).picks = s.picks := rfl
@[simp] theorem setHarp_freeCtr (s : State) (k : Nat) (x : Harp) : (s.setHarp k x).freeCtr = s.freeCtr := rfl
@[simp] theorem setHarp_nextId (s : State) (k : Nat) (x : Harp) : (s.setHarp k x).nextId = s.nextId := rfl
@[simp] theorem setHarp_strands (s : State) (k : Nat) (x : Harp) : (s.setHarp k x).strands = s.strands := rfl
@[simp] theorem setHarp_cores (s : State) (k : Nat) (x : Harp) : (s.setHarp k x).cores = s.cores := rfl
@[simp] theorem setHarp_spad (s : State) (k : Nat) (x : Harp) : (s.setHarp k x).spad = s.spad := rfl
@[simp] theorem setHarp_mem (s : State) (k : Nat) (x : Harp) : (s.setHarp k x).mem = s.mem := rfl
@[simp] theorem setHarp_accesses (s : State) (k : Nat) (x : Harp) : (s.setHarp k x).accesses = s.accesses := rfl
@[simp] theorem setHarp_runs (s : State) (k : Nat) (x : Harp) : (s.setHarp k x).runs = s.runs := rfl
@[simp] theorem setHarp_snaps (s : State) (k : Nat) (x : Harp) : (s.setHarp k x).snaps = s.snaps := rfl
@[simp] theorem setHarp_launches (s : State) (k : Nat) (x : Harp) : (s.setHarp k x).launches = s.launches := rfl
@[simp] theorem setHarp_saved (s : State) (k : Nat) (x : Harp) : (s.setHarp k x).saved = s.saved := rfl
@[simp] theorem setHarp_hwSaved (s : State) (k : Nat) (x : Harp) : (s.setHarp k x).hwSaved = s.hwSaved := rfl
@[simp] theorem setHarp_images (s : State) (k : Nat) (x : Harp) : (s.setHarp k x).images = s.images := rfl
@[simp] theorem setHarp_vds (s : State) (k : Nat) (x : Harp) : (s.setHarp k x).vds = s.vds := rfl
@[simp] theorem setHarp_parts (s : State) (k : Nat) (x : Harp) : (s.setHarp k x).parts = s.parts := rfl
@[simp] theorem setHarp_keys (s : State) (k : Nat) (x : Harp) : (s.setHarp k x).keys = s.keys := rfl
@[simp] theorem setHarp_lines (s : State) (k : Nat) (x : Harp) : (s.setHarp k x).lines = s.lines := rfl
@[simp] theorem setHarp_blocks (s : State) (k : Nat) (x : Harp) : (s.setHarp k x).blocks = s.blocks := rfl
@[simp] theorem setHarp_tree (s : State) (k : Nat) (x : Harp) : (s.setHarp k x).tree = s.tree := rfl
@[simp] theorem setHarp_nodes (s : State) (k : Nat) (x : Harp) : (s.setHarp k x).nodes = s.nodes := rfl
@[simp] theorem setHarp_ctrCache (s : State) (k : Nat) (x : Harp) : (s.setHarp k x).ctrCache = s.ctrCache := rfl
@[simp] theorem setHarp_mc (s : State) (k : Nat) (x : Harp) : (s.setHarp k x).mc = s.mc := rfl
@[simp] theorem setHarp_monHits (s : State) (k : Nat) (x : Harp) : (s.setHarp k x).monHits = s.monHits := rfl
@[simp] theorem setHarp_monTags (s : State) (k : Nat) (x : Harp) : (s.setHarp k x).monTags = s.monTags := rfl
@[simp] theorem setHarp_frames (s : State) (k : Nat) (x : Harp) : (s.setHarp k x).frames = s.frames := rfl
@[simp] theorem setHarp_mig (s : State) (k : Nat) (x : Harp) : (s.setHarp k x).mig = s.mig := rfl
@[simp] theorem setHarp_dirty (s : State) (k : Nat) (x : Harp) : (s.setHarp k x).dirty = s.dirty := rfl
@[simp] theorem setHarp_ckpt (s : State) (k : Nat) (x : Harp) : (s.setHarp k x).ckpt = s.ckpt := rfl
@[simp] theorem setHarp_packets (s : State) (k : Nat) (x : Harp) : (s.setHarp k x).packets = s.packets := rfl
@[simp] theorem setHarp_ops (s : State) (k : Nat) (x : Harp) : (s.setHarp k x).ops = s.ops := rfl
@[simp] theorem setHarp_paths (s : State) (k : Nat) (x : Harp) : (s.setHarp k x).paths = s.paths := rfl
@[simp] theorem setHarp_rates (s : State) (k : Nat) (x : Harp) : (s.setHarp k x).rates = s.rates := rfl
@[simp] theorem setHarp_ports (s : State) (k : Nat) (x : Harp) : (s.setHarp k x).ports = s.ports := rfl
@[simp] theorem setHarp_drays (s : State) (k : Nat) (x : Harp) : (s.setHarp k x).drays = s.drays := rfl
@[simp] theorem setHarp_qps (s : State) (k : Nat) (x : Harp) : (s.setHarp k x).qps = s.qps := rfl
@[simp] theorem setHarp_pkg (s : State) (k : Nat) (x : Harp) : (s.setHarp k x).pkg = s.pkg := rfl
@[simp] theorem setKey_cur (s : State) (k : Nat) (x : KeySlot) : (s.setKey k x).cur = s.cur := rfl
@[simp] theorem setKey_last (s : State) (k : Nat) (x : KeySlot) : (s.setKey k x).last = s.last := rfl
@[simp] theorem setKey_toIssue (s : State) (k : Nat) (x : KeySlot) : (s.setKey k x).toIssue = s.toIssue := rfl
@[simp] theorem setKey_agenda (s : State) (k : Nat) (x : KeySlot) : (s.setKey k x).agenda = s.agenda := rfl
@[simp] theorem setKey_inbox (s : State) (k : Nat) (x : KeySlot) : (s.setKey k x).inbox = s.inbox := rfl
@[simp] theorem setKey_drifts (s : State) (k : Nat) (x : KeySlot) : (s.setKey k x).drifts = s.drifts := rfl
@[simp] theorem setKey_linkOut (s : State) (k : Nat) (x : KeySlot) : (s.setKey k x).linkOut = s.linkOut := rfl
@[simp] theorem setKey_coachIn (s : State) (k : Nat) (x : KeySlot) : (s.setKey k x).coachIn = s.coachIn := rfl
@[simp] theorem setKey_timeOut (s : State) (k : Nat) (x : KeySlot) : (s.setKey k x).timeOut = s.timeOut := rfl
@[simp] theorem setKey_linkIn (s : State) (k : Nat) (x : KeySlot) : (s.setKey k x).linkIn = s.linkIn := rfl
@[simp] theorem setKey_backOut (s : State) (k : Nat) (x : KeySlot) : (s.setKey k x).backOut = s.backOut := rfl
@[simp] theorem setKey_irqOut (s : State) (k : Nat) (x : KeySlot) : (s.setKey k x).irqOut = s.irqOut := rfl
@[simp] theorem setKey_netOut (s : State) (k : Nat) (x : KeySlot) : (s.setKey k x).netOut = s.netOut := rfl
@[simp] theorem setKey_hostOut (s : State) (k : Nat) (x : KeySlot) : (s.setKey k x).hostOut = s.hostOut := rfl
@[simp] theorem setKey_picks (s : State) (k : Nat) (x : KeySlot) : (s.setKey k x).picks = s.picks := rfl
@[simp] theorem setKey_freeCtr (s : State) (k : Nat) (x : KeySlot) : (s.setKey k x).freeCtr = s.freeCtr := rfl
@[simp] theorem setKey_nextId (s : State) (k : Nat) (x : KeySlot) : (s.setKey k x).nextId = s.nextId := rfl
@[simp] theorem setKey_strands (s : State) (k : Nat) (x : KeySlot) : (s.setKey k x).strands = s.strands := rfl
@[simp] theorem setKey_cores (s : State) (k : Nat) (x : KeySlot) : (s.setKey k x).cores = s.cores := rfl
@[simp] theorem setKey_harps (s : State) (k : Nat) (x : KeySlot) : (s.setKey k x).harps = s.harps := rfl
@[simp] theorem setKey_spad (s : State) (k : Nat) (x : KeySlot) : (s.setKey k x).spad = s.spad := rfl
@[simp] theorem setKey_mem (s : State) (k : Nat) (x : KeySlot) : (s.setKey k x).mem = s.mem := rfl
@[simp] theorem setKey_accesses (s : State) (k : Nat) (x : KeySlot) : (s.setKey k x).accesses = s.accesses := rfl
@[simp] theorem setKey_runs (s : State) (k : Nat) (x : KeySlot) : (s.setKey k x).runs = s.runs := rfl
@[simp] theorem setKey_snaps (s : State) (k : Nat) (x : KeySlot) : (s.setKey k x).snaps = s.snaps := rfl
@[simp] theorem setKey_launches (s : State) (k : Nat) (x : KeySlot) : (s.setKey k x).launches = s.launches := rfl
@[simp] theorem setKey_saved (s : State) (k : Nat) (x : KeySlot) : (s.setKey k x).saved = s.saved := rfl
@[simp] theorem setKey_hwSaved (s : State) (k : Nat) (x : KeySlot) : (s.setKey k x).hwSaved = s.hwSaved := rfl
@[simp] theorem setKey_images (s : State) (k : Nat) (x : KeySlot) : (s.setKey k x).images = s.images := rfl
@[simp] theorem setKey_vds (s : State) (k : Nat) (x : KeySlot) : (s.setKey k x).vds = s.vds := rfl
@[simp] theorem setKey_parts (s : State) (k : Nat) (x : KeySlot) : (s.setKey k x).parts = s.parts := rfl
@[simp] theorem setKey_lines (s : State) (k : Nat) (x : KeySlot) : (s.setKey k x).lines = s.lines := rfl
@[simp] theorem setKey_blocks (s : State) (k : Nat) (x : KeySlot) : (s.setKey k x).blocks = s.blocks := rfl
@[simp] theorem setKey_tree (s : State) (k : Nat) (x : KeySlot) : (s.setKey k x).tree = s.tree := rfl
@[simp] theorem setKey_nodes (s : State) (k : Nat) (x : KeySlot) : (s.setKey k x).nodes = s.nodes := rfl
@[simp] theorem setKey_ctrCache (s : State) (k : Nat) (x : KeySlot) : (s.setKey k x).ctrCache = s.ctrCache := rfl
@[simp] theorem setKey_mc (s : State) (k : Nat) (x : KeySlot) : (s.setKey k x).mc = s.mc := rfl
@[simp] theorem setKey_monHits (s : State) (k : Nat) (x : KeySlot) : (s.setKey k x).monHits = s.monHits := rfl
@[simp] theorem setKey_monTags (s : State) (k : Nat) (x : KeySlot) : (s.setKey k x).monTags = s.monTags := rfl
@[simp] theorem setKey_frames (s : State) (k : Nat) (x : KeySlot) : (s.setKey k x).frames = s.frames := rfl
@[simp] theorem setKey_mig (s : State) (k : Nat) (x : KeySlot) : (s.setKey k x).mig = s.mig := rfl
@[simp] theorem setKey_dirty (s : State) (k : Nat) (x : KeySlot) : (s.setKey k x).dirty = s.dirty := rfl
@[simp] theorem setKey_ckpt (s : State) (k : Nat) (x : KeySlot) : (s.setKey k x).ckpt = s.ckpt := rfl
@[simp] theorem setKey_packets (s : State) (k : Nat) (x : KeySlot) : (s.setKey k x).packets = s.packets := rfl
@[simp] theorem setKey_ops (s : State) (k : Nat) (x : KeySlot) : (s.setKey k x).ops = s.ops := rfl
@[simp] theorem setKey_paths (s : State) (k : Nat) (x : KeySlot) : (s.setKey k x).paths = s.paths := rfl
@[simp] theorem setKey_rates (s : State) (k : Nat) (x : KeySlot) : (s.setKey k x).rates = s.rates := rfl
@[simp] theorem setKey_ports (s : State) (k : Nat) (x : KeySlot) : (s.setKey k x).ports = s.ports := rfl
@[simp] theorem setKey_drays (s : State) (k : Nat) (x : KeySlot) : (s.setKey k x).drays = s.drays := rfl
@[simp] theorem setKey_qps (s : State) (k : Nat) (x : KeySlot) : (s.setKey k x).qps = s.qps := rfl
@[simp] theorem setKey_pkg (s : State) (k : Nat) (x : KeySlot) : (s.setKey k x).pkg = s.pkg := rfl
@[simp] theorem setFrame_cur (s : State) (k : Nat) (x : Frame) : (s.setFrame k x).cur = s.cur := rfl
@[simp] theorem setFrame_last (s : State) (k : Nat) (x : Frame) : (s.setFrame k x).last = s.last := rfl
@[simp] theorem setFrame_toIssue (s : State) (k : Nat) (x : Frame) : (s.setFrame k x).toIssue = s.toIssue := rfl
@[simp] theorem setFrame_agenda (s : State) (k : Nat) (x : Frame) : (s.setFrame k x).agenda = s.agenda := rfl
@[simp] theorem setFrame_inbox (s : State) (k : Nat) (x : Frame) : (s.setFrame k x).inbox = s.inbox := rfl
@[simp] theorem setFrame_drifts (s : State) (k : Nat) (x : Frame) : (s.setFrame k x).drifts = s.drifts := rfl
@[simp] theorem setFrame_linkOut (s : State) (k : Nat) (x : Frame) : (s.setFrame k x).linkOut = s.linkOut := rfl
@[simp] theorem setFrame_coachIn (s : State) (k : Nat) (x : Frame) : (s.setFrame k x).coachIn = s.coachIn := rfl
@[simp] theorem setFrame_timeOut (s : State) (k : Nat) (x : Frame) : (s.setFrame k x).timeOut = s.timeOut := rfl
@[simp] theorem setFrame_linkIn (s : State) (k : Nat) (x : Frame) : (s.setFrame k x).linkIn = s.linkIn := rfl
@[simp] theorem setFrame_backOut (s : State) (k : Nat) (x : Frame) : (s.setFrame k x).backOut = s.backOut := rfl
@[simp] theorem setFrame_irqOut (s : State) (k : Nat) (x : Frame) : (s.setFrame k x).irqOut = s.irqOut := rfl
@[simp] theorem setFrame_netOut (s : State) (k : Nat) (x : Frame) : (s.setFrame k x).netOut = s.netOut := rfl
@[simp] theorem setFrame_hostOut (s : State) (k : Nat) (x : Frame) : (s.setFrame k x).hostOut = s.hostOut := rfl
@[simp] theorem setFrame_picks (s : State) (k : Nat) (x : Frame) : (s.setFrame k x).picks = s.picks := rfl
@[simp] theorem setFrame_freeCtr (s : State) (k : Nat) (x : Frame) : (s.setFrame k x).freeCtr = s.freeCtr := rfl
@[simp] theorem setFrame_nextId (s : State) (k : Nat) (x : Frame) : (s.setFrame k x).nextId = s.nextId := rfl
@[simp] theorem setFrame_strands (s : State) (k : Nat) (x : Frame) : (s.setFrame k x).strands = s.strands := rfl
@[simp] theorem setFrame_cores (s : State) (k : Nat) (x : Frame) : (s.setFrame k x).cores = s.cores := rfl
@[simp] theorem setFrame_harps (s : State) (k : Nat) (x : Frame) : (s.setFrame k x).harps = s.harps := rfl
@[simp] theorem setFrame_spad (s : State) (k : Nat) (x : Frame) : (s.setFrame k x).spad = s.spad := rfl
@[simp] theorem setFrame_mem (s : State) (k : Nat) (x : Frame) : (s.setFrame k x).mem = s.mem := rfl
@[simp] theorem setFrame_accesses (s : State) (k : Nat) (x : Frame) : (s.setFrame k x).accesses = s.accesses := rfl
@[simp] theorem setFrame_runs (s : State) (k : Nat) (x : Frame) : (s.setFrame k x).runs = s.runs := rfl
@[simp] theorem setFrame_snaps (s : State) (k : Nat) (x : Frame) : (s.setFrame k x).snaps = s.snaps := rfl
@[simp] theorem setFrame_launches (s : State) (k : Nat) (x : Frame) : (s.setFrame k x).launches = s.launches := rfl
@[simp] theorem setFrame_saved (s : State) (k : Nat) (x : Frame) : (s.setFrame k x).saved = s.saved := rfl
@[simp] theorem setFrame_hwSaved (s : State) (k : Nat) (x : Frame) : (s.setFrame k x).hwSaved = s.hwSaved := rfl
@[simp] theorem setFrame_images (s : State) (k : Nat) (x : Frame) : (s.setFrame k x).images = s.images := rfl
@[simp] theorem setFrame_vds (s : State) (k : Nat) (x : Frame) : (s.setFrame k x).vds = s.vds := rfl
@[simp] theorem setFrame_parts (s : State) (k : Nat) (x : Frame) : (s.setFrame k x).parts = s.parts := rfl
@[simp] theorem setFrame_keys (s : State) (k : Nat) (x : Frame) : (s.setFrame k x).keys = s.keys := rfl
@[simp] theorem setFrame_lines (s : State) (k : Nat) (x : Frame) : (s.setFrame k x).lines = s.lines := rfl
@[simp] theorem setFrame_blocks (s : State) (k : Nat) (x : Frame) : (s.setFrame k x).blocks = s.blocks := rfl
@[simp] theorem setFrame_tree (s : State) (k : Nat) (x : Frame) : (s.setFrame k x).tree = s.tree := rfl
@[simp] theorem setFrame_nodes (s : State) (k : Nat) (x : Frame) : (s.setFrame k x).nodes = s.nodes := rfl
@[simp] theorem setFrame_ctrCache (s : State) (k : Nat) (x : Frame) : (s.setFrame k x).ctrCache = s.ctrCache := rfl
@[simp] theorem setFrame_mc (s : State) (k : Nat) (x : Frame) : (s.setFrame k x).mc = s.mc := rfl
@[simp] theorem setFrame_monHits (s : State) (k : Nat) (x : Frame) : (s.setFrame k x).monHits = s.monHits := rfl
@[simp] theorem setFrame_monTags (s : State) (k : Nat) (x : Frame) : (s.setFrame k x).monTags = s.monTags := rfl
@[simp] theorem setFrame_mig (s : State) (k : Nat) (x : Frame) : (s.setFrame k x).mig = s.mig := rfl
@[simp] theorem setFrame_dirty (s : State) (k : Nat) (x : Frame) : (s.setFrame k x).dirty = s.dirty := rfl
@[simp] theorem setFrame_ckpt (s : State) (k : Nat) (x : Frame) : (s.setFrame k x).ckpt = s.ckpt := rfl
@[simp] theorem setFrame_packets (s : State) (k : Nat) (x : Frame) : (s.setFrame k x).packets = s.packets := rfl
@[simp] theorem setFrame_ops (s : State) (k : Nat) (x : Frame) : (s.setFrame k x).ops = s.ops := rfl
@[simp] theorem setFrame_paths (s : State) (k : Nat) (x : Frame) : (s.setFrame k x).paths = s.paths := rfl
@[simp] theorem setFrame_rates (s : State) (k : Nat) (x : Frame) : (s.setFrame k x).rates = s.rates := rfl
@[simp] theorem setFrame_ports (s : State) (k : Nat) (x : Frame) : (s.setFrame k x).ports = s.ports := rfl
@[simp] theorem setFrame_drays (s : State) (k : Nat) (x : Frame) : (s.setFrame k x).drays = s.drays := rfl
@[simp] theorem setFrame_qps (s : State) (k : Nat) (x : Frame) : (s.setFrame k x).qps = s.qps := rfl
@[simp] theorem setFrame_pkg (s : State) (k : Nat) (x : Frame) : (s.setFrame k x).pkg = s.pkg := rfl
@[simp] theorem setDray_cur (s : State) (k : Nat) (x : Dray) : (s.setDray k x).cur = s.cur := rfl
@[simp] theorem setDray_last (s : State) (k : Nat) (x : Dray) : (s.setDray k x).last = s.last := rfl
@[simp] theorem setDray_toIssue (s : State) (k : Nat) (x : Dray) : (s.setDray k x).toIssue = s.toIssue := rfl
@[simp] theorem setDray_agenda (s : State) (k : Nat) (x : Dray) : (s.setDray k x).agenda = s.agenda := rfl
@[simp] theorem setDray_inbox (s : State) (k : Nat) (x : Dray) : (s.setDray k x).inbox = s.inbox := rfl
@[simp] theorem setDray_drifts (s : State) (k : Nat) (x : Dray) : (s.setDray k x).drifts = s.drifts := rfl
@[simp] theorem setDray_linkOut (s : State) (k : Nat) (x : Dray) : (s.setDray k x).linkOut = s.linkOut := rfl
@[simp] theorem setDray_coachIn (s : State) (k : Nat) (x : Dray) : (s.setDray k x).coachIn = s.coachIn := rfl
@[simp] theorem setDray_timeOut (s : State) (k : Nat) (x : Dray) : (s.setDray k x).timeOut = s.timeOut := rfl
@[simp] theorem setDray_linkIn (s : State) (k : Nat) (x : Dray) : (s.setDray k x).linkIn = s.linkIn := rfl
@[simp] theorem setDray_backOut (s : State) (k : Nat) (x : Dray) : (s.setDray k x).backOut = s.backOut := rfl
@[simp] theorem setDray_irqOut (s : State) (k : Nat) (x : Dray) : (s.setDray k x).irqOut = s.irqOut := rfl
@[simp] theorem setDray_netOut (s : State) (k : Nat) (x : Dray) : (s.setDray k x).netOut = s.netOut := rfl
@[simp] theorem setDray_hostOut (s : State) (k : Nat) (x : Dray) : (s.setDray k x).hostOut = s.hostOut := rfl
@[simp] theorem setDray_picks (s : State) (k : Nat) (x : Dray) : (s.setDray k x).picks = s.picks := rfl
@[simp] theorem setDray_freeCtr (s : State) (k : Nat) (x : Dray) : (s.setDray k x).freeCtr = s.freeCtr := rfl
@[simp] theorem setDray_nextId (s : State) (k : Nat) (x : Dray) : (s.setDray k x).nextId = s.nextId := rfl
@[simp] theorem setDray_strands (s : State) (k : Nat) (x : Dray) : (s.setDray k x).strands = s.strands := rfl
@[simp] theorem setDray_cores (s : State) (k : Nat) (x : Dray) : (s.setDray k x).cores = s.cores := rfl
@[simp] theorem setDray_harps (s : State) (k : Nat) (x : Dray) : (s.setDray k x).harps = s.harps := rfl
@[simp] theorem setDray_spad (s : State) (k : Nat) (x : Dray) : (s.setDray k x).spad = s.spad := rfl
@[simp] theorem setDray_mem (s : State) (k : Nat) (x : Dray) : (s.setDray k x).mem = s.mem := rfl
@[simp] theorem setDray_accesses (s : State) (k : Nat) (x : Dray) : (s.setDray k x).accesses = s.accesses := rfl
@[simp] theorem setDray_runs (s : State) (k : Nat) (x : Dray) : (s.setDray k x).runs = s.runs := rfl
@[simp] theorem setDray_snaps (s : State) (k : Nat) (x : Dray) : (s.setDray k x).snaps = s.snaps := rfl
@[simp] theorem setDray_launches (s : State) (k : Nat) (x : Dray) : (s.setDray k x).launches = s.launches := rfl
@[simp] theorem setDray_saved (s : State) (k : Nat) (x : Dray) : (s.setDray k x).saved = s.saved := rfl
@[simp] theorem setDray_hwSaved (s : State) (k : Nat) (x : Dray) : (s.setDray k x).hwSaved = s.hwSaved := rfl
@[simp] theorem setDray_images (s : State) (k : Nat) (x : Dray) : (s.setDray k x).images = s.images := rfl
@[simp] theorem setDray_vds (s : State) (k : Nat) (x : Dray) : (s.setDray k x).vds = s.vds := rfl
@[simp] theorem setDray_parts (s : State) (k : Nat) (x : Dray) : (s.setDray k x).parts = s.parts := rfl
@[simp] theorem setDray_keys (s : State) (k : Nat) (x : Dray) : (s.setDray k x).keys = s.keys := rfl
@[simp] theorem setDray_lines (s : State) (k : Nat) (x : Dray) : (s.setDray k x).lines = s.lines := rfl
@[simp] theorem setDray_blocks (s : State) (k : Nat) (x : Dray) : (s.setDray k x).blocks = s.blocks := rfl
@[simp] theorem setDray_tree (s : State) (k : Nat) (x : Dray) : (s.setDray k x).tree = s.tree := rfl
@[simp] theorem setDray_nodes (s : State) (k : Nat) (x : Dray) : (s.setDray k x).nodes = s.nodes := rfl
@[simp] theorem setDray_ctrCache (s : State) (k : Nat) (x : Dray) : (s.setDray k x).ctrCache = s.ctrCache := rfl
@[simp] theorem setDray_mc (s : State) (k : Nat) (x : Dray) : (s.setDray k x).mc = s.mc := rfl
@[simp] theorem setDray_monHits (s : State) (k : Nat) (x : Dray) : (s.setDray k x).monHits = s.monHits := rfl
@[simp] theorem setDray_monTags (s : State) (k : Nat) (x : Dray) : (s.setDray k x).monTags = s.monTags := rfl
@[simp] theorem setDray_frames (s : State) (k : Nat) (x : Dray) : (s.setDray k x).frames = s.frames := rfl
@[simp] theorem setDray_mig (s : State) (k : Nat) (x : Dray) : (s.setDray k x).mig = s.mig := rfl
@[simp] theorem setDray_dirty (s : State) (k : Nat) (x : Dray) : (s.setDray k x).dirty = s.dirty := rfl
@[simp] theorem setDray_ckpt (s : State) (k : Nat) (x : Dray) : (s.setDray k x).ckpt = s.ckpt := rfl
@[simp] theorem setDray_packets (s : State) (k : Nat) (x : Dray) : (s.setDray k x).packets = s.packets := rfl
@[simp] theorem setDray_ops (s : State) (k : Nat) (x : Dray) : (s.setDray k x).ops = s.ops := rfl
@[simp] theorem setDray_paths (s : State) (k : Nat) (x : Dray) : (s.setDray k x).paths = s.paths := rfl
@[simp] theorem setDray_rates (s : State) (k : Nat) (x : Dray) : (s.setDray k x).rates = s.rates := rfl
@[simp] theorem setDray_ports (s : State) (k : Nat) (x : Dray) : (s.setDray k x).ports = s.ports := rfl
@[simp] theorem setDray_qps (s : State) (k : Nat) (x : Dray) : (s.setDray k x).qps = s.qps := rfl
@[simp] theorem setDray_pkg (s : State) (k : Nat) (x : Dray) : (s.setDray k x).pkg = s.pkg := rfl
@[simp] theorem setQp_cur (s : State) (k : Nat) (x : Qp) : (s.setQp k x).cur = s.cur := rfl
@[simp] theorem setQp_last (s : State) (k : Nat) (x : Qp) : (s.setQp k x).last = s.last := rfl
@[simp] theorem setQp_toIssue (s : State) (k : Nat) (x : Qp) : (s.setQp k x).toIssue = s.toIssue := rfl
@[simp] theorem setQp_agenda (s : State) (k : Nat) (x : Qp) : (s.setQp k x).agenda = s.agenda := rfl
@[simp] theorem setQp_inbox (s : State) (k : Nat) (x : Qp) : (s.setQp k x).inbox = s.inbox := rfl
@[simp] theorem setQp_drifts (s : State) (k : Nat) (x : Qp) : (s.setQp k x).drifts = s.drifts := rfl
@[simp] theorem setQp_linkOut (s : State) (k : Nat) (x : Qp) : (s.setQp k x).linkOut = s.linkOut := rfl
@[simp] theorem setQp_coachIn (s : State) (k : Nat) (x : Qp) : (s.setQp k x).coachIn = s.coachIn := rfl
@[simp] theorem setQp_timeOut (s : State) (k : Nat) (x : Qp) : (s.setQp k x).timeOut = s.timeOut := rfl
@[simp] theorem setQp_linkIn (s : State) (k : Nat) (x : Qp) : (s.setQp k x).linkIn = s.linkIn := rfl
@[simp] theorem setQp_backOut (s : State) (k : Nat) (x : Qp) : (s.setQp k x).backOut = s.backOut := rfl
@[simp] theorem setQp_irqOut (s : State) (k : Nat) (x : Qp) : (s.setQp k x).irqOut = s.irqOut := rfl
@[simp] theorem setQp_netOut (s : State) (k : Nat) (x : Qp) : (s.setQp k x).netOut = s.netOut := rfl
@[simp] theorem setQp_hostOut (s : State) (k : Nat) (x : Qp) : (s.setQp k x).hostOut = s.hostOut := rfl
@[simp] theorem setQp_picks (s : State) (k : Nat) (x : Qp) : (s.setQp k x).picks = s.picks := rfl
@[simp] theorem setQp_freeCtr (s : State) (k : Nat) (x : Qp) : (s.setQp k x).freeCtr = s.freeCtr := rfl
@[simp] theorem setQp_nextId (s : State) (k : Nat) (x : Qp) : (s.setQp k x).nextId = s.nextId := rfl
@[simp] theorem setQp_strands (s : State) (k : Nat) (x : Qp) : (s.setQp k x).strands = s.strands := rfl
@[simp] theorem setQp_cores (s : State) (k : Nat) (x : Qp) : (s.setQp k x).cores = s.cores := rfl
@[simp] theorem setQp_harps (s : State) (k : Nat) (x : Qp) : (s.setQp k x).harps = s.harps := rfl
@[simp] theorem setQp_spad (s : State) (k : Nat) (x : Qp) : (s.setQp k x).spad = s.spad := rfl
@[simp] theorem setQp_mem (s : State) (k : Nat) (x : Qp) : (s.setQp k x).mem = s.mem := rfl
@[simp] theorem setQp_accesses (s : State) (k : Nat) (x : Qp) : (s.setQp k x).accesses = s.accesses := rfl
@[simp] theorem setQp_runs (s : State) (k : Nat) (x : Qp) : (s.setQp k x).runs = s.runs := rfl
@[simp] theorem setQp_snaps (s : State) (k : Nat) (x : Qp) : (s.setQp k x).snaps = s.snaps := rfl
@[simp] theorem setQp_launches (s : State) (k : Nat) (x : Qp) : (s.setQp k x).launches = s.launches := rfl
@[simp] theorem setQp_saved (s : State) (k : Nat) (x : Qp) : (s.setQp k x).saved = s.saved := rfl
@[simp] theorem setQp_hwSaved (s : State) (k : Nat) (x : Qp) : (s.setQp k x).hwSaved = s.hwSaved := rfl
@[simp] theorem setQp_images (s : State) (k : Nat) (x : Qp) : (s.setQp k x).images = s.images := rfl
@[simp] theorem setQp_vds (s : State) (k : Nat) (x : Qp) : (s.setQp k x).vds = s.vds := rfl
@[simp] theorem setQp_parts (s : State) (k : Nat) (x : Qp) : (s.setQp k x).parts = s.parts := rfl
@[simp] theorem setQp_keys (s : State) (k : Nat) (x : Qp) : (s.setQp k x).keys = s.keys := rfl
@[simp] theorem setQp_lines (s : State) (k : Nat) (x : Qp) : (s.setQp k x).lines = s.lines := rfl
@[simp] theorem setQp_blocks (s : State) (k : Nat) (x : Qp) : (s.setQp k x).blocks = s.blocks := rfl
@[simp] theorem setQp_tree (s : State) (k : Nat) (x : Qp) : (s.setQp k x).tree = s.tree := rfl
@[simp] theorem setQp_nodes (s : State) (k : Nat) (x : Qp) : (s.setQp k x).nodes = s.nodes := rfl
@[simp] theorem setQp_ctrCache (s : State) (k : Nat) (x : Qp) : (s.setQp k x).ctrCache = s.ctrCache := rfl
@[simp] theorem setQp_mc (s : State) (k : Nat) (x : Qp) : (s.setQp k x).mc = s.mc := rfl
@[simp] theorem setQp_monHits (s : State) (k : Nat) (x : Qp) : (s.setQp k x).monHits = s.monHits := rfl
@[simp] theorem setQp_monTags (s : State) (k : Nat) (x : Qp) : (s.setQp k x).monTags = s.monTags := rfl
@[simp] theorem setQp_frames (s : State) (k : Nat) (x : Qp) : (s.setQp k x).frames = s.frames := rfl
@[simp] theorem setQp_mig (s : State) (k : Nat) (x : Qp) : (s.setQp k x).mig = s.mig := rfl
@[simp] theorem setQp_dirty (s : State) (k : Nat) (x : Qp) : (s.setQp k x).dirty = s.dirty := rfl
@[simp] theorem setQp_ckpt (s : State) (k : Nat) (x : Qp) : (s.setQp k x).ckpt = s.ckpt := rfl
@[simp] theorem setQp_packets (s : State) (k : Nat) (x : Qp) : (s.setQp k x).packets = s.packets := rfl
@[simp] theorem setQp_ops (s : State) (k : Nat) (x : Qp) : (s.setQp k x).ops = s.ops := rfl
@[simp] theorem setQp_paths (s : State) (k : Nat) (x : Qp) : (s.setQp k x).paths = s.paths := rfl
@[simp] theorem setQp_rates (s : State) (k : Nat) (x : Qp) : (s.setQp k x).rates = s.rates := rfl
@[simp] theorem setQp_ports (s : State) (k : Nat) (x : Qp) : (s.setQp k x).ports = s.ports := rfl
@[simp] theorem setQp_drays (s : State) (k : Nat) (x : Qp) : (s.setQp k x).drays = s.drays := rfl
@[simp] theorem setQp_pkg (s : State) (k : Nat) (x : Qp) : (s.setQp k x).pkg = s.pkg := rfl
@[simp] theorem setPort_cur (s : State) (k : Nat) (x : PortEntry) : (s.setPort k x).cur = s.cur := rfl
@[simp] theorem setPort_last (s : State) (k : Nat) (x : PortEntry) : (s.setPort k x).last = s.last := rfl
@[simp] theorem setPort_toIssue (s : State) (k : Nat) (x : PortEntry) : (s.setPort k x).toIssue = s.toIssue := rfl
@[simp] theorem setPort_agenda (s : State) (k : Nat) (x : PortEntry) : (s.setPort k x).agenda = s.agenda := rfl
@[simp] theorem setPort_inbox (s : State) (k : Nat) (x : PortEntry) : (s.setPort k x).inbox = s.inbox := rfl
@[simp] theorem setPort_drifts (s : State) (k : Nat) (x : PortEntry) : (s.setPort k x).drifts = s.drifts := rfl
@[simp] theorem setPort_linkOut (s : State) (k : Nat) (x : PortEntry) : (s.setPort k x).linkOut = s.linkOut := rfl
@[simp] theorem setPort_coachIn (s : State) (k : Nat) (x : PortEntry) : (s.setPort k x).coachIn = s.coachIn := rfl
@[simp] theorem setPort_timeOut (s : State) (k : Nat) (x : PortEntry) : (s.setPort k x).timeOut = s.timeOut := rfl
@[simp] theorem setPort_linkIn (s : State) (k : Nat) (x : PortEntry) : (s.setPort k x).linkIn = s.linkIn := rfl
@[simp] theorem setPort_backOut (s : State) (k : Nat) (x : PortEntry) : (s.setPort k x).backOut = s.backOut := rfl
@[simp] theorem setPort_irqOut (s : State) (k : Nat) (x : PortEntry) : (s.setPort k x).irqOut = s.irqOut := rfl
@[simp] theorem setPort_netOut (s : State) (k : Nat) (x : PortEntry) : (s.setPort k x).netOut = s.netOut := rfl
@[simp] theorem setPort_hostOut (s : State) (k : Nat) (x : PortEntry) : (s.setPort k x).hostOut = s.hostOut := rfl
@[simp] theorem setPort_picks (s : State) (k : Nat) (x : PortEntry) : (s.setPort k x).picks = s.picks := rfl
@[simp] theorem setPort_freeCtr (s : State) (k : Nat) (x : PortEntry) : (s.setPort k x).freeCtr = s.freeCtr := rfl
@[simp] theorem setPort_nextId (s : State) (k : Nat) (x : PortEntry) : (s.setPort k x).nextId = s.nextId := rfl
@[simp] theorem setPort_strands (s : State) (k : Nat) (x : PortEntry) : (s.setPort k x).strands = s.strands := rfl
@[simp] theorem setPort_cores (s : State) (k : Nat) (x : PortEntry) : (s.setPort k x).cores = s.cores := rfl
@[simp] theorem setPort_harps (s : State) (k : Nat) (x : PortEntry) : (s.setPort k x).harps = s.harps := rfl
@[simp] theorem setPort_spad (s : State) (k : Nat) (x : PortEntry) : (s.setPort k x).spad = s.spad := rfl
@[simp] theorem setPort_mem (s : State) (k : Nat) (x : PortEntry) : (s.setPort k x).mem = s.mem := rfl
@[simp] theorem setPort_accesses (s : State) (k : Nat) (x : PortEntry) : (s.setPort k x).accesses = s.accesses := rfl
@[simp] theorem setPort_runs (s : State) (k : Nat) (x : PortEntry) : (s.setPort k x).runs = s.runs := rfl
@[simp] theorem setPort_snaps (s : State) (k : Nat) (x : PortEntry) : (s.setPort k x).snaps = s.snaps := rfl
@[simp] theorem setPort_launches (s : State) (k : Nat) (x : PortEntry) : (s.setPort k x).launches = s.launches := rfl
@[simp] theorem setPort_saved (s : State) (k : Nat) (x : PortEntry) : (s.setPort k x).saved = s.saved := rfl
@[simp] theorem setPort_hwSaved (s : State) (k : Nat) (x : PortEntry) : (s.setPort k x).hwSaved = s.hwSaved := rfl
@[simp] theorem setPort_images (s : State) (k : Nat) (x : PortEntry) : (s.setPort k x).images = s.images := rfl
@[simp] theorem setPort_vds (s : State) (k : Nat) (x : PortEntry) : (s.setPort k x).vds = s.vds := rfl
@[simp] theorem setPort_parts (s : State) (k : Nat) (x : PortEntry) : (s.setPort k x).parts = s.parts := rfl
@[simp] theorem setPort_keys (s : State) (k : Nat) (x : PortEntry) : (s.setPort k x).keys = s.keys := rfl
@[simp] theorem setPort_lines (s : State) (k : Nat) (x : PortEntry) : (s.setPort k x).lines = s.lines := rfl
@[simp] theorem setPort_blocks (s : State) (k : Nat) (x : PortEntry) : (s.setPort k x).blocks = s.blocks := rfl
@[simp] theorem setPort_tree (s : State) (k : Nat) (x : PortEntry) : (s.setPort k x).tree = s.tree := rfl
@[simp] theorem setPort_nodes (s : State) (k : Nat) (x : PortEntry) : (s.setPort k x).nodes = s.nodes := rfl
@[simp] theorem setPort_ctrCache (s : State) (k : Nat) (x : PortEntry) : (s.setPort k x).ctrCache = s.ctrCache := rfl
@[simp] theorem setPort_mc (s : State) (k : Nat) (x : PortEntry) : (s.setPort k x).mc = s.mc := rfl
@[simp] theorem setPort_monHits (s : State) (k : Nat) (x : PortEntry) : (s.setPort k x).monHits = s.monHits := rfl
@[simp] theorem setPort_monTags (s : State) (k : Nat) (x : PortEntry) : (s.setPort k x).monTags = s.monTags := rfl
@[simp] theorem setPort_frames (s : State) (k : Nat) (x : PortEntry) : (s.setPort k x).frames = s.frames := rfl
@[simp] theorem setPort_mig (s : State) (k : Nat) (x : PortEntry) : (s.setPort k x).mig = s.mig := rfl
@[simp] theorem setPort_dirty (s : State) (k : Nat) (x : PortEntry) : (s.setPort k x).dirty = s.dirty := rfl
@[simp] theorem setPort_ckpt (s : State) (k : Nat) (x : PortEntry) : (s.setPort k x).ckpt = s.ckpt := rfl
@[simp] theorem setPort_packets (s : State) (k : Nat) (x : PortEntry) : (s.setPort k x).packets = s.packets := rfl
@[simp] theorem setPort_ops (s : State) (k : Nat) (x : PortEntry) : (s.setPort k x).ops = s.ops := rfl
@[simp] theorem setPort_paths (s : State) (k : Nat) (x : PortEntry) : (s.setPort k x).paths = s.paths := rfl
@[simp] theorem setPort_rates (s : State) (k : Nat) (x : PortEntry) : (s.setPort k x).rates = s.rates := rfl
@[simp] theorem setPort_drays (s : State) (k : Nat) (x : PortEntry) : (s.setPort k x).drays = s.drays := rfl
@[simp] theorem setPort_qps (s : State) (k : Nat) (x : PortEntry) : (s.setPort k x).qps = s.qps := rfl
@[simp] theorem setPort_pkg (s : State) (k : Nat) (x : PortEntry) : (s.setPort k x).pkg = s.pkg := rfl
@[simp] theorem setMig_cur (s : State) (k : Nat) (x : MigSlot) : (s.setMig k x).cur = s.cur := rfl
@[simp] theorem setMig_last (s : State) (k : Nat) (x : MigSlot) : (s.setMig k x).last = s.last := rfl
@[simp] theorem setMig_toIssue (s : State) (k : Nat) (x : MigSlot) : (s.setMig k x).toIssue = s.toIssue := rfl
@[simp] theorem setMig_agenda (s : State) (k : Nat) (x : MigSlot) : (s.setMig k x).agenda = s.agenda := rfl
@[simp] theorem setMig_inbox (s : State) (k : Nat) (x : MigSlot) : (s.setMig k x).inbox = s.inbox := rfl
@[simp] theorem setMig_drifts (s : State) (k : Nat) (x : MigSlot) : (s.setMig k x).drifts = s.drifts := rfl
@[simp] theorem setMig_linkOut (s : State) (k : Nat) (x : MigSlot) : (s.setMig k x).linkOut = s.linkOut := rfl
@[simp] theorem setMig_coachIn (s : State) (k : Nat) (x : MigSlot) : (s.setMig k x).coachIn = s.coachIn := rfl
@[simp] theorem setMig_timeOut (s : State) (k : Nat) (x : MigSlot) : (s.setMig k x).timeOut = s.timeOut := rfl
@[simp] theorem setMig_linkIn (s : State) (k : Nat) (x : MigSlot) : (s.setMig k x).linkIn = s.linkIn := rfl
@[simp] theorem setMig_backOut (s : State) (k : Nat) (x : MigSlot) : (s.setMig k x).backOut = s.backOut := rfl
@[simp] theorem setMig_irqOut (s : State) (k : Nat) (x : MigSlot) : (s.setMig k x).irqOut = s.irqOut := rfl
@[simp] theorem setMig_netOut (s : State) (k : Nat) (x : MigSlot) : (s.setMig k x).netOut = s.netOut := rfl
@[simp] theorem setMig_hostOut (s : State) (k : Nat) (x : MigSlot) : (s.setMig k x).hostOut = s.hostOut := rfl
@[simp] theorem setMig_picks (s : State) (k : Nat) (x : MigSlot) : (s.setMig k x).picks = s.picks := rfl
@[simp] theorem setMig_freeCtr (s : State) (k : Nat) (x : MigSlot) : (s.setMig k x).freeCtr = s.freeCtr := rfl
@[simp] theorem setMig_nextId (s : State) (k : Nat) (x : MigSlot) : (s.setMig k x).nextId = s.nextId := rfl
@[simp] theorem setMig_strands (s : State) (k : Nat) (x : MigSlot) : (s.setMig k x).strands = s.strands := rfl
@[simp] theorem setMig_cores (s : State) (k : Nat) (x : MigSlot) : (s.setMig k x).cores = s.cores := rfl
@[simp] theorem setMig_harps (s : State) (k : Nat) (x : MigSlot) : (s.setMig k x).harps = s.harps := rfl
@[simp] theorem setMig_spad (s : State) (k : Nat) (x : MigSlot) : (s.setMig k x).spad = s.spad := rfl
@[simp] theorem setMig_mem (s : State) (k : Nat) (x : MigSlot) : (s.setMig k x).mem = s.mem := rfl
@[simp] theorem setMig_accesses (s : State) (k : Nat) (x : MigSlot) : (s.setMig k x).accesses = s.accesses := rfl
@[simp] theorem setMig_runs (s : State) (k : Nat) (x : MigSlot) : (s.setMig k x).runs = s.runs := rfl
@[simp] theorem setMig_snaps (s : State) (k : Nat) (x : MigSlot) : (s.setMig k x).snaps = s.snaps := rfl
@[simp] theorem setMig_launches (s : State) (k : Nat) (x : MigSlot) : (s.setMig k x).launches = s.launches := rfl
@[simp] theorem setMig_saved (s : State) (k : Nat) (x : MigSlot) : (s.setMig k x).saved = s.saved := rfl
@[simp] theorem setMig_hwSaved (s : State) (k : Nat) (x : MigSlot) : (s.setMig k x).hwSaved = s.hwSaved := rfl
@[simp] theorem setMig_images (s : State) (k : Nat) (x : MigSlot) : (s.setMig k x).images = s.images := rfl
@[simp] theorem setMig_vds (s : State) (k : Nat) (x : MigSlot) : (s.setMig k x).vds = s.vds := rfl
@[simp] theorem setMig_parts (s : State) (k : Nat) (x : MigSlot) : (s.setMig k x).parts = s.parts := rfl
@[simp] theorem setMig_keys (s : State) (k : Nat) (x : MigSlot) : (s.setMig k x).keys = s.keys := rfl
@[simp] theorem setMig_lines (s : State) (k : Nat) (x : MigSlot) : (s.setMig k x).lines = s.lines := rfl
@[simp] theorem setMig_blocks (s : State) (k : Nat) (x : MigSlot) : (s.setMig k x).blocks = s.blocks := rfl
@[simp] theorem setMig_tree (s : State) (k : Nat) (x : MigSlot) : (s.setMig k x).tree = s.tree := rfl
@[simp] theorem setMig_nodes (s : State) (k : Nat) (x : MigSlot) : (s.setMig k x).nodes = s.nodes := rfl
@[simp] theorem setMig_ctrCache (s : State) (k : Nat) (x : MigSlot) : (s.setMig k x).ctrCache = s.ctrCache := rfl
@[simp] theorem setMig_mc (s : State) (k : Nat) (x : MigSlot) : (s.setMig k x).mc = s.mc := rfl
@[simp] theorem setMig_monHits (s : State) (k : Nat) (x : MigSlot) : (s.setMig k x).monHits = s.monHits := rfl
@[simp] theorem setMig_monTags (s : State) (k : Nat) (x : MigSlot) : (s.setMig k x).monTags = s.monTags := rfl
@[simp] theorem setMig_frames (s : State) (k : Nat) (x : MigSlot) : (s.setMig k x).frames = s.frames := rfl
@[simp] theorem setMig_dirty (s : State) (k : Nat) (x : MigSlot) : (s.setMig k x).dirty = s.dirty := rfl
@[simp] theorem setMig_ckpt (s : State) (k : Nat) (x : MigSlot) : (s.setMig k x).ckpt = s.ckpt := rfl
@[simp] theorem setMig_packets (s : State) (k : Nat) (x : MigSlot) : (s.setMig k x).packets = s.packets := rfl
@[simp] theorem setMig_ops (s : State) (k : Nat) (x : MigSlot) : (s.setMig k x).ops = s.ops := rfl
@[simp] theorem setMig_paths (s : State) (k : Nat) (x : MigSlot) : (s.setMig k x).paths = s.paths := rfl
@[simp] theorem setMig_rates (s : State) (k : Nat) (x : MigSlot) : (s.setMig k x).rates = s.rates := rfl
@[simp] theorem setMig_ports (s : State) (k : Nat) (x : MigSlot) : (s.setMig k x).ports = s.ports := rfl
@[simp] theorem setMig_drays (s : State) (k : Nat) (x : MigSlot) : (s.setMig k x).drays = s.drays := rfl
@[simp] theorem setMig_qps (s : State) (k : Nat) (x : MigSlot) : (s.setMig k x).qps = s.qps := rfl
@[simp] theorem setMig_pkg (s : State) (k : Nat) (x : MigSlot) : (s.setMig k x).pkg = s.pkg := rfl
@[simp] theorem modPkg_cur (s : State) (f : Pkg → Pkg) : (s.modPkg f).cur = s.cur := rfl
@[simp] theorem modPkg_last (s : State) (f : Pkg → Pkg) : (s.modPkg f).last = s.last := rfl
@[simp] theorem modPkg_toIssue (s : State) (f : Pkg → Pkg) : (s.modPkg f).toIssue = s.toIssue := rfl
@[simp] theorem modPkg_agenda (s : State) (f : Pkg → Pkg) : (s.modPkg f).agenda = s.agenda := rfl
@[simp] theorem modPkg_inbox (s : State) (f : Pkg → Pkg) : (s.modPkg f).inbox = s.inbox := rfl
@[simp] theorem modPkg_drifts (s : State) (f : Pkg → Pkg) : (s.modPkg f).drifts = s.drifts := rfl
@[simp] theorem modPkg_linkOut (s : State) (f : Pkg → Pkg) : (s.modPkg f).linkOut = s.linkOut := rfl
@[simp] theorem modPkg_coachIn (s : State) (f : Pkg → Pkg) : (s.modPkg f).coachIn = s.coachIn := rfl
@[simp] theorem modPkg_timeOut (s : State) (f : Pkg → Pkg) : (s.modPkg f).timeOut = s.timeOut := rfl
@[simp] theorem modPkg_linkIn (s : State) (f : Pkg → Pkg) : (s.modPkg f).linkIn = s.linkIn := rfl
@[simp] theorem modPkg_backOut (s : State) (f : Pkg → Pkg) : (s.modPkg f).backOut = s.backOut := rfl
@[simp] theorem modPkg_irqOut (s : State) (f : Pkg → Pkg) : (s.modPkg f).irqOut = s.irqOut := rfl
@[simp] theorem modPkg_netOut (s : State) (f : Pkg → Pkg) : (s.modPkg f).netOut = s.netOut := rfl
@[simp] theorem modPkg_hostOut (s : State) (f : Pkg → Pkg) : (s.modPkg f).hostOut = s.hostOut := rfl
@[simp] theorem modPkg_picks (s : State) (f : Pkg → Pkg) : (s.modPkg f).picks = s.picks := rfl
@[simp] theorem modPkg_freeCtr (s : State) (f : Pkg → Pkg) : (s.modPkg f).freeCtr = s.freeCtr := rfl
@[simp] theorem modPkg_nextId (s : State) (f : Pkg → Pkg) : (s.modPkg f).nextId = s.nextId := rfl
@[simp] theorem modPkg_strands (s : State) (f : Pkg → Pkg) : (s.modPkg f).strands = s.strands := rfl
@[simp] theorem modPkg_cores (s : State) (f : Pkg → Pkg) : (s.modPkg f).cores = s.cores := rfl
@[simp] theorem modPkg_harps (s : State) (f : Pkg → Pkg) : (s.modPkg f).harps = s.harps := rfl
@[simp] theorem modPkg_spad (s : State) (f : Pkg → Pkg) : (s.modPkg f).spad = s.spad := rfl
@[simp] theorem modPkg_mem (s : State) (f : Pkg → Pkg) : (s.modPkg f).mem = s.mem := rfl
@[simp] theorem modPkg_accesses (s : State) (f : Pkg → Pkg) : (s.modPkg f).accesses = s.accesses := rfl
@[simp] theorem modPkg_runs (s : State) (f : Pkg → Pkg) : (s.modPkg f).runs = s.runs := rfl
@[simp] theorem modPkg_snaps (s : State) (f : Pkg → Pkg) : (s.modPkg f).snaps = s.snaps := rfl
@[simp] theorem modPkg_launches (s : State) (f : Pkg → Pkg) : (s.modPkg f).launches = s.launches := rfl
@[simp] theorem modPkg_saved (s : State) (f : Pkg → Pkg) : (s.modPkg f).saved = s.saved := rfl
@[simp] theorem modPkg_hwSaved (s : State) (f : Pkg → Pkg) : (s.modPkg f).hwSaved = s.hwSaved := rfl
@[simp] theorem modPkg_images (s : State) (f : Pkg → Pkg) : (s.modPkg f).images = s.images := rfl
@[simp] theorem modPkg_vds (s : State) (f : Pkg → Pkg) : (s.modPkg f).vds = s.vds := rfl
@[simp] theorem modPkg_parts (s : State) (f : Pkg → Pkg) : (s.modPkg f).parts = s.parts := rfl
@[simp] theorem modPkg_keys (s : State) (f : Pkg → Pkg) : (s.modPkg f).keys = s.keys := rfl
@[simp] theorem modPkg_lines (s : State) (f : Pkg → Pkg) : (s.modPkg f).lines = s.lines := rfl
@[simp] theorem modPkg_blocks (s : State) (f : Pkg → Pkg) : (s.modPkg f).blocks = s.blocks := rfl
@[simp] theorem modPkg_tree (s : State) (f : Pkg → Pkg) : (s.modPkg f).tree = s.tree := rfl
@[simp] theorem modPkg_nodes (s : State) (f : Pkg → Pkg) : (s.modPkg f).nodes = s.nodes := rfl
@[simp] theorem modPkg_ctrCache (s : State) (f : Pkg → Pkg) : (s.modPkg f).ctrCache = s.ctrCache := rfl
@[simp] theorem modPkg_mc (s : State) (f : Pkg → Pkg) : (s.modPkg f).mc = s.mc := rfl
@[simp] theorem modPkg_monHits (s : State) (f : Pkg → Pkg) : (s.modPkg f).monHits = s.monHits := rfl
@[simp] theorem modPkg_monTags (s : State) (f : Pkg → Pkg) : (s.modPkg f).monTags = s.monTags := rfl
@[simp] theorem modPkg_frames (s : State) (f : Pkg → Pkg) : (s.modPkg f).frames = s.frames := rfl
@[simp] theorem modPkg_mig (s : State) (f : Pkg → Pkg) : (s.modPkg f).mig = s.mig := rfl
@[simp] theorem modPkg_dirty (s : State) (f : Pkg → Pkg) : (s.modPkg f).dirty = s.dirty := rfl
@[simp] theorem modPkg_ckpt (s : State) (f : Pkg → Pkg) : (s.modPkg f).ckpt = s.ckpt := rfl
@[simp] theorem modPkg_packets (s : State) (f : Pkg → Pkg) : (s.modPkg f).packets = s.packets := rfl
@[simp] theorem modPkg_ops (s : State) (f : Pkg → Pkg) : (s.modPkg f).ops = s.ops := rfl
@[simp] theorem modPkg_paths (s : State) (f : Pkg → Pkg) : (s.modPkg f).paths = s.paths := rfl
@[simp] theorem modPkg_rates (s : State) (f : Pkg → Pkg) : (s.modPkg f).rates = s.rates := rfl
@[simp] theorem modPkg_ports (s : State) (f : Pkg → Pkg) : (s.modPkg f).ports = s.ports := rfl
@[simp] theorem modPkg_drays (s : State) (f : Pkg → Pkg) : (s.modPkg f).drays = s.drays := rfl
@[simp] theorem modPkg_qps (s : State) (f : Pkg → Pkg) : (s.modPkg f).qps = s.qps := rfl
@[simp] theorem modPkg_pkg (s : State) (f : Pkg → Pkg) : (s.modPkg f).pkg = f s.pkg := rfl
@[simp] theorem owe_cur (s : State) (c : Option Nat) (t p : Nat) (e : Event) : (s.owe c t p e).cur = s.cur := rfl
@[simp] theorem owe_last (s : State) (c : Option Nat) (t p : Nat) (e : Event) : (s.owe c t p e).last = s.last := rfl
@[simp] theorem owe_toIssue (s : State) (c : Option Nat) (t p : Nat) (e : Event) : (s.owe c t p e).toIssue = s.toIssue := rfl
@[simp] theorem owe_agenda (s : State) (c : Option Nat) (t p : Nat) (e : Event) : (s.owe c t p e).agenda = s.agenda ++ [(⟨c, t, p⟩, e)] := rfl
@[simp] theorem owe_inbox (s : State) (c : Option Nat) (t p : Nat) (e : Event) : (s.owe c t p e).inbox = s.inbox := rfl
@[simp] theorem owe_drifts (s : State) (c : Option Nat) (t p : Nat) (e : Event) : (s.owe c t p e).drifts = s.drifts := rfl
@[simp] theorem owe_linkOut (s : State) (c : Option Nat) (t p : Nat) (e : Event) : (s.owe c t p e).linkOut = s.linkOut := rfl
@[simp] theorem owe_coachIn (s : State) (c : Option Nat) (t p : Nat) (e : Event) : (s.owe c t p e).coachIn = s.coachIn := rfl
@[simp] theorem owe_timeOut (s : State) (c : Option Nat) (t p : Nat) (e : Event) : (s.owe c t p e).timeOut = s.timeOut := rfl
@[simp] theorem owe_linkIn (s : State) (c : Option Nat) (t p : Nat) (e : Event) : (s.owe c t p e).linkIn = s.linkIn := rfl
@[simp] theorem owe_backOut (s : State) (c : Option Nat) (t p : Nat) (e : Event) : (s.owe c t p e).backOut = s.backOut := rfl
@[simp] theorem owe_irqOut (s : State) (c : Option Nat) (t p : Nat) (e : Event) : (s.owe c t p e).irqOut = s.irqOut := rfl
@[simp] theorem owe_netOut (s : State) (c : Option Nat) (t p : Nat) (e : Event) : (s.owe c t p e).netOut = s.netOut := rfl
@[simp] theorem owe_hostOut (s : State) (c : Option Nat) (t p : Nat) (e : Event) : (s.owe c t p e).hostOut = s.hostOut := rfl
@[simp] theorem owe_picks (s : State) (c : Option Nat) (t p : Nat) (e : Event) : (s.owe c t p e).picks = s.picks := rfl
@[simp] theorem owe_freeCtr (s : State) (c : Option Nat) (t p : Nat) (e : Event) : (s.owe c t p e).freeCtr = s.freeCtr := rfl
@[simp] theorem owe_nextId (s : State) (c : Option Nat) (t p : Nat) (e : Event) : (s.owe c t p e).nextId = s.nextId := rfl
@[simp] theorem owe_strands (s : State) (c : Option Nat) (t p : Nat) (e : Event) : (s.owe c t p e).strands = s.strands := rfl
@[simp] theorem owe_cores (s : State) (c : Option Nat) (t p : Nat) (e : Event) : (s.owe c t p e).cores = s.cores := rfl
@[simp] theorem owe_harps (s : State) (c : Option Nat) (t p : Nat) (e : Event) : (s.owe c t p e).harps = s.harps := rfl
@[simp] theorem owe_spad (s : State) (c : Option Nat) (t p : Nat) (e : Event) : (s.owe c t p e).spad = s.spad := rfl
@[simp] theorem owe_mem (s : State) (c : Option Nat) (t p : Nat) (e : Event) : (s.owe c t p e).mem = s.mem := rfl
@[simp] theorem owe_accesses (s : State) (c : Option Nat) (t p : Nat) (e : Event) : (s.owe c t p e).accesses = s.accesses := rfl
@[simp] theorem owe_runs (s : State) (c : Option Nat) (t p : Nat) (e : Event) : (s.owe c t p e).runs = s.runs := rfl
@[simp] theorem owe_snaps (s : State) (c : Option Nat) (t p : Nat) (e : Event) : (s.owe c t p e).snaps = s.snaps := rfl
@[simp] theorem owe_launches (s : State) (c : Option Nat) (t p : Nat) (e : Event) : (s.owe c t p e).launches = s.launches := rfl
@[simp] theorem owe_saved (s : State) (c : Option Nat) (t p : Nat) (e : Event) : (s.owe c t p e).saved = s.saved := rfl
@[simp] theorem owe_hwSaved (s : State) (c : Option Nat) (t p : Nat) (e : Event) : (s.owe c t p e).hwSaved = s.hwSaved := rfl
@[simp] theorem owe_images (s : State) (c : Option Nat) (t p : Nat) (e : Event) : (s.owe c t p e).images = s.images := rfl
@[simp] theorem owe_vds (s : State) (c : Option Nat) (t p : Nat) (e : Event) : (s.owe c t p e).vds = s.vds := rfl
@[simp] theorem owe_parts (s : State) (c : Option Nat) (t p : Nat) (e : Event) : (s.owe c t p e).parts = s.parts := rfl
@[simp] theorem owe_keys (s : State) (c : Option Nat) (t p : Nat) (e : Event) : (s.owe c t p e).keys = s.keys := rfl
@[simp] theorem owe_lines (s : State) (c : Option Nat) (t p : Nat) (e : Event) : (s.owe c t p e).lines = s.lines := rfl
@[simp] theorem owe_blocks (s : State) (c : Option Nat) (t p : Nat) (e : Event) : (s.owe c t p e).blocks = s.blocks := rfl
@[simp] theorem owe_tree (s : State) (c : Option Nat) (t p : Nat) (e : Event) : (s.owe c t p e).tree = s.tree := rfl
@[simp] theorem owe_nodes (s : State) (c : Option Nat) (t p : Nat) (e : Event) : (s.owe c t p e).nodes = s.nodes := rfl
@[simp] theorem owe_ctrCache (s : State) (c : Option Nat) (t p : Nat) (e : Event) : (s.owe c t p e).ctrCache = s.ctrCache := rfl
@[simp] theorem owe_mc (s : State) (c : Option Nat) (t p : Nat) (e : Event) : (s.owe c t p e).mc = s.mc := rfl
@[simp] theorem owe_monHits (s : State) (c : Option Nat) (t p : Nat) (e : Event) : (s.owe c t p e).monHits = s.monHits := rfl
@[simp] theorem owe_monTags (s : State) (c : Option Nat) (t p : Nat) (e : Event) : (s.owe c t p e).monTags = s.monTags := rfl
@[simp] theorem owe_frames (s : State) (c : Option Nat) (t p : Nat) (e : Event) : (s.owe c t p e).frames = s.frames := rfl
@[simp] theorem owe_mig (s : State) (c : Option Nat) (t p : Nat) (e : Event) : (s.owe c t p e).mig = s.mig := rfl
@[simp] theorem owe_dirty (s : State) (c : Option Nat) (t p : Nat) (e : Event) : (s.owe c t p e).dirty = s.dirty := rfl
@[simp] theorem owe_ckpt (s : State) (c : Option Nat) (t p : Nat) (e : Event) : (s.owe c t p e).ckpt = s.ckpt := rfl
@[simp] theorem owe_packets (s : State) (c : Option Nat) (t p : Nat) (e : Event) : (s.owe c t p e).packets = s.packets := rfl
@[simp] theorem owe_ops (s : State) (c : Option Nat) (t p : Nat) (e : Event) : (s.owe c t p e).ops = s.ops := rfl
@[simp] theorem owe_paths (s : State) (c : Option Nat) (t p : Nat) (e : Event) : (s.owe c t p e).paths = s.paths := rfl
@[simp] theorem owe_rates (s : State) (c : Option Nat) (t p : Nat) (e : Event) : (s.owe c t p e).rates = s.rates := rfl
@[simp] theorem owe_ports (s : State) (c : Option Nat) (t p : Nat) (e : Event) : (s.owe c t p e).ports = s.ports := rfl
@[simp] theorem owe_drays (s : State) (c : Option Nat) (t p : Nat) (e : Event) : (s.owe c t p e).drays = s.drays := rfl
@[simp] theorem owe_qps (s : State) (c : Option Nat) (t p : Nat) (e : Event) : (s.owe c t p e).qps = s.qps := rfl
@[simp] theorem owe_pkg (s : State) (c : Option Nat) (t p : Nat) (e : Event) : (s.owe c t p e).pkg = s.pkg := rfl
@[simp] theorem owe_strand (s : State) (c : Option Nat) (t p : Nat) (e : Event) (k : Nat) : (s.owe c t p e).strand k = s.strand k := rfl
@[simp] theorem modPkg_strand (s : State) (f : Pkg → Pkg) (k : Nat) : (s.modPkg f).strand k = s.strand k := rfl
@[simp] theorem setCore_strand (s : State) (k : Nat) (x : Core) (j : Nat) : (s.setCore k x).strand j = s.strand j := rfl
@[simp] theorem setLaunch_strand (s : State) (k : Nat) (x : Launch) (j : Nat) : (s.setLaunch k x).strand j = s.strand j := rfl
@[simp] theorem setVd_strand (s : State) (k : Nat) (x : Vd) (j : Nat) : (s.setVd k x).strand j = s.strand j := rfl
@[simp] theorem setPart_strand (s : State) (k : Nat) (x : Partition) (j : Nat) : (s.setPart k x).strand j = s.strand j := rfl
@[simp] theorem setHarp_strand (s : State) (k : Nat) (x : Harp) (j : Nat) : (s.setHarp k x).strand j = s.strand j := rfl
@[simp] theorem setKey_strand (s : State) (k : Nat) (x : KeySlot) (j : Nat) : (s.setKey k x).strand j = s.strand j := rfl
@[simp] theorem setFrame_strand (s : State) (k : Nat) (x : Frame) (j : Nat) : (s.setFrame k x).strand j = s.strand j := rfl
@[simp] theorem setDray_strand (s : State) (k : Nat) (x : Dray) (j : Nat) : (s.setDray k x).strand j = s.strand j := rfl
@[simp] theorem setQp_strand (s : State) (k : Nat) (x : Qp) (j : Nat) : (s.setQp k x).strand j = s.strand j := rfl
@[simp] theorem setPort_strand (s : State) (k : Nat) (x : PortEntry) (j : Nat) : (s.setPort k x).strand j = s.strand j := rfl
@[simp] theorem setMig_strand (s : State) (k : Nat) (x : MigSlot) (j : Nat) : (s.setMig k x).strand j = s.strand j := rfl
@[simp] theorem owe_core (s : State) (c : Option Nat) (t p : Nat) (e : Event) (k : Nat) : (s.owe c t p e).core k = s.core k := rfl
@[simp] theorem modPkg_core (s : State) (f : Pkg → Pkg) (k : Nat) : (s.modPkg f).core k = s.core k := rfl
@[simp] theorem setStrand_core (s : State) (k : Nat) (x : Strand) (j : Nat) : (s.setStrand k x).core j = s.core j := rfl
@[simp] theorem setLaunch_core (s : State) (k : Nat) (x : Launch) (j : Nat) : (s.setLaunch k x).core j = s.core j := rfl
@[simp] theorem setVd_core (s : State) (k : Nat) (x : Vd) (j : Nat) : (s.setVd k x).core j = s.core j := rfl
@[simp] theorem setPart_core (s : State) (k : Nat) (x : Partition) (j : Nat) : (s.setPart k x).core j = s.core j := rfl
@[simp] theorem setHarp_core (s : State) (k : Nat) (x : Harp) (j : Nat) : (s.setHarp k x).core j = s.core j := rfl
@[simp] theorem setKey_core (s : State) (k : Nat) (x : KeySlot) (j : Nat) : (s.setKey k x).core j = s.core j := rfl
@[simp] theorem setFrame_core (s : State) (k : Nat) (x : Frame) (j : Nat) : (s.setFrame k x).core j = s.core j := rfl
@[simp] theorem setDray_core (s : State) (k : Nat) (x : Dray) (j : Nat) : (s.setDray k x).core j = s.core j := rfl
@[simp] theorem setQp_core (s : State) (k : Nat) (x : Qp) (j : Nat) : (s.setQp k x).core j = s.core j := rfl
@[simp] theorem setPort_core (s : State) (k : Nat) (x : PortEntry) (j : Nat) : (s.setPort k x).core j = s.core j := rfl
@[simp] theorem setMig_core (s : State) (k : Nat) (x : MigSlot) (j : Nat) : (s.setMig k x).core j = s.core j := rfl
@[simp] theorem owe_harp (s : State) (c : Option Nat) (t p : Nat) (e : Event) (k : Nat) : (s.owe c t p e).harp k = s.harp k := rfl
@[simp] theorem modPkg_harp (s : State) (f : Pkg → Pkg) (k : Nat) : (s.modPkg f).harp k = s.harp k := rfl
@[simp] theorem setStrand_harp (s : State) (k : Nat) (x : Strand) (j : Nat) : (s.setStrand k x).harp j = s.harp j := rfl
@[simp] theorem setCore_harp (s : State) (k : Nat) (x : Core) (j : Nat) : (s.setCore k x).harp j = s.harp j := rfl
@[simp] theorem setLaunch_harp (s : State) (k : Nat) (x : Launch) (j : Nat) : (s.setLaunch k x).harp j = s.harp j := rfl
@[simp] theorem setVd_harp (s : State) (k : Nat) (x : Vd) (j : Nat) : (s.setVd k x).harp j = s.harp j := rfl
@[simp] theorem setPart_harp (s : State) (k : Nat) (x : Partition) (j : Nat) : (s.setPart k x).harp j = s.harp j := rfl
@[simp] theorem setKey_harp (s : State) (k : Nat) (x : KeySlot) (j : Nat) : (s.setKey k x).harp j = s.harp j := rfl
@[simp] theorem setFrame_harp (s : State) (k : Nat) (x : Frame) (j : Nat) : (s.setFrame k x).harp j = s.harp j := rfl
@[simp] theorem setDray_harp (s : State) (k : Nat) (x : Dray) (j : Nat) : (s.setDray k x).harp j = s.harp j := rfl
@[simp] theorem setQp_harp (s : State) (k : Nat) (x : Qp) (j : Nat) : (s.setQp k x).harp j = s.harp j := rfl
@[simp] theorem setPort_harp (s : State) (k : Nat) (x : PortEntry) (j : Nat) : (s.setPort k x).harp j = s.harp j := rfl
@[simp] theorem setMig_harp (s : State) (k : Nat) (x : MigSlot) (j : Nat) : (s.setMig k x).harp j = s.harp j := rfl
@[simp] theorem owe_launch (s : State) (c : Option Nat) (t p : Nat) (e : Event) (k : Nat) : (s.owe c t p e).launch k = s.launch k := rfl
@[simp] theorem modPkg_launch (s : State) (f : Pkg → Pkg) (k : Nat) : (s.modPkg f).launch k = s.launch k := rfl
@[simp] theorem setStrand_launch (s : State) (k : Nat) (x : Strand) (j : Nat) : (s.setStrand k x).launch j = s.launch j := rfl
@[simp] theorem setCore_launch (s : State) (k : Nat) (x : Core) (j : Nat) : (s.setCore k x).launch j = s.launch j := rfl
@[simp] theorem setVd_launch (s : State) (k : Nat) (x : Vd) (j : Nat) : (s.setVd k x).launch j = s.launch j := rfl
@[simp] theorem setPart_launch (s : State) (k : Nat) (x : Partition) (j : Nat) : (s.setPart k x).launch j = s.launch j := rfl
@[simp] theorem setHarp_launch (s : State) (k : Nat) (x : Harp) (j : Nat) : (s.setHarp k x).launch j = s.launch j := rfl
@[simp] theorem setKey_launch (s : State) (k : Nat) (x : KeySlot) (j : Nat) : (s.setKey k x).launch j = s.launch j := rfl
@[simp] theorem setFrame_launch (s : State) (k : Nat) (x : Frame) (j : Nat) : (s.setFrame k x).launch j = s.launch j := rfl
@[simp] theorem setDray_launch (s : State) (k : Nat) (x : Dray) (j : Nat) : (s.setDray k x).launch j = s.launch j := rfl
@[simp] theorem setQp_launch (s : State) (k : Nat) (x : Qp) (j : Nat) : (s.setQp k x).launch j = s.launch j := rfl
@[simp] theorem setPort_launch (s : State) (k : Nat) (x : PortEntry) (j : Nat) : (s.setPort k x).launch j = s.launch j := rfl
@[simp] theorem setMig_launch (s : State) (k : Nat) (x : MigSlot) (j : Nat) : (s.setMig k x).launch j = s.launch j := rfl
@[simp] theorem owe_vd (s : State) (c : Option Nat) (t p : Nat) (e : Event) (k : Nat) : (s.owe c t p e).vd k = s.vd k := rfl
@[simp] theorem modPkg_vd (s : State) (f : Pkg → Pkg) (k : Nat) : (s.modPkg f).vd k = s.vd k := rfl
@[simp] theorem setStrand_vd (s : State) (k : Nat) (x : Strand) (j : Nat) : (s.setStrand k x).vd j = s.vd j := rfl
@[simp] theorem setCore_vd (s : State) (k : Nat) (x : Core) (j : Nat) : (s.setCore k x).vd j = s.vd j := rfl
@[simp] theorem setLaunch_vd (s : State) (k : Nat) (x : Launch) (j : Nat) : (s.setLaunch k x).vd j = s.vd j := rfl
@[simp] theorem setPart_vd (s : State) (k : Nat) (x : Partition) (j : Nat) : (s.setPart k x).vd j = s.vd j := rfl
@[simp] theorem setHarp_vd (s : State) (k : Nat) (x : Harp) (j : Nat) : (s.setHarp k x).vd j = s.vd j := rfl
@[simp] theorem setKey_vd (s : State) (k : Nat) (x : KeySlot) (j : Nat) : (s.setKey k x).vd j = s.vd j := rfl
@[simp] theorem setFrame_vd (s : State) (k : Nat) (x : Frame) (j : Nat) : (s.setFrame k x).vd j = s.vd j := rfl
@[simp] theorem setDray_vd (s : State) (k : Nat) (x : Dray) (j : Nat) : (s.setDray k x).vd j = s.vd j := rfl
@[simp] theorem setQp_vd (s : State) (k : Nat) (x : Qp) (j : Nat) : (s.setQp k x).vd j = s.vd j := rfl
@[simp] theorem setPort_vd (s : State) (k : Nat) (x : PortEntry) (j : Nat) : (s.setPort k x).vd j = s.vd j := rfl
@[simp] theorem setMig_vd (s : State) (k : Nat) (x : MigSlot) (j : Nat) : (s.setMig k x).vd j = s.vd j := rfl
@[simp] theorem owe_part (s : State) (c : Option Nat) (t p : Nat) (e : Event) (k : Nat) : (s.owe c t p e).part k = s.part k := rfl
@[simp] theorem modPkg_part (s : State) (f : Pkg → Pkg) (k : Nat) : (s.modPkg f).part k = s.part k := rfl
@[simp] theorem setStrand_part (s : State) (k : Nat) (x : Strand) (j : Nat) : (s.setStrand k x).part j = s.part j := rfl
@[simp] theorem setCore_part (s : State) (k : Nat) (x : Core) (j : Nat) : (s.setCore k x).part j = s.part j := rfl
@[simp] theorem setLaunch_part (s : State) (k : Nat) (x : Launch) (j : Nat) : (s.setLaunch k x).part j = s.part j := rfl
@[simp] theorem setVd_part (s : State) (k : Nat) (x : Vd) (j : Nat) : (s.setVd k x).part j = s.part j := rfl
@[simp] theorem setHarp_part (s : State) (k : Nat) (x : Harp) (j : Nat) : (s.setHarp k x).part j = s.part j := rfl
@[simp] theorem setKey_part (s : State) (k : Nat) (x : KeySlot) (j : Nat) : (s.setKey k x).part j = s.part j := rfl
@[simp] theorem setFrame_part (s : State) (k : Nat) (x : Frame) (j : Nat) : (s.setFrame k x).part j = s.part j := rfl
@[simp] theorem setDray_part (s : State) (k : Nat) (x : Dray) (j : Nat) : (s.setDray k x).part j = s.part j := rfl
@[simp] theorem setQp_part (s : State) (k : Nat) (x : Qp) (j : Nat) : (s.setQp k x).part j = s.part j := rfl
@[simp] theorem setPort_part (s : State) (k : Nat) (x : PortEntry) (j : Nat) : (s.setPort k x).part j = s.part j := rfl
@[simp] theorem setMig_part (s : State) (k : Nat) (x : MigSlot) (j : Nat) : (s.setMig k x).part j = s.part j := rfl
@[simp] theorem owe_key (s : State) (c : Option Nat) (t p : Nat) (e : Event) (k : Nat) : (s.owe c t p e).key k = s.key k := rfl
@[simp] theorem modPkg_key (s : State) (f : Pkg → Pkg) (k : Nat) : (s.modPkg f).key k = s.key k := rfl
@[simp] theorem setStrand_key (s : State) (k : Nat) (x : Strand) (j : Nat) : (s.setStrand k x).key j = s.key j := rfl
@[simp] theorem setCore_key (s : State) (k : Nat) (x : Core) (j : Nat) : (s.setCore k x).key j = s.key j := rfl
@[simp] theorem setLaunch_key (s : State) (k : Nat) (x : Launch) (j : Nat) : (s.setLaunch k x).key j = s.key j := rfl
@[simp] theorem setVd_key (s : State) (k : Nat) (x : Vd) (j : Nat) : (s.setVd k x).key j = s.key j := rfl
@[simp] theorem setPart_key (s : State) (k : Nat) (x : Partition) (j : Nat) : (s.setPart k x).key j = s.key j := rfl
@[simp] theorem setHarp_key (s : State) (k : Nat) (x : Harp) (j : Nat) : (s.setHarp k x).key j = s.key j := rfl
@[simp] theorem setFrame_key (s : State) (k : Nat) (x : Frame) (j : Nat) : (s.setFrame k x).key j = s.key j := rfl
@[simp] theorem setDray_key (s : State) (k : Nat) (x : Dray) (j : Nat) : (s.setDray k x).key j = s.key j := rfl
@[simp] theorem setQp_key (s : State) (k : Nat) (x : Qp) (j : Nat) : (s.setQp k x).key j = s.key j := rfl
@[simp] theorem setPort_key (s : State) (k : Nat) (x : PortEntry) (j : Nat) : (s.setPort k x).key j = s.key j := rfl
@[simp] theorem setMig_key (s : State) (k : Nat) (x : MigSlot) (j : Nat) : (s.setMig k x).key j = s.key j := rfl
@[simp] theorem owe_frame (s : State) (c : Option Nat) (t p : Nat) (e : Event) (k : Nat) : (s.owe c t p e).frame k = s.frame k := rfl
@[simp] theorem modPkg_frame (s : State) (f : Pkg → Pkg) (k : Nat) : (s.modPkg f).frame k = s.frame k := rfl
@[simp] theorem setStrand_frame (s : State) (k : Nat) (x : Strand) (j : Nat) : (s.setStrand k x).frame j = s.frame j := rfl
@[simp] theorem setCore_frame (s : State) (k : Nat) (x : Core) (j : Nat) : (s.setCore k x).frame j = s.frame j := rfl
@[simp] theorem setLaunch_frame (s : State) (k : Nat) (x : Launch) (j : Nat) : (s.setLaunch k x).frame j = s.frame j := rfl
@[simp] theorem setVd_frame (s : State) (k : Nat) (x : Vd) (j : Nat) : (s.setVd k x).frame j = s.frame j := rfl
@[simp] theorem setPart_frame (s : State) (k : Nat) (x : Partition) (j : Nat) : (s.setPart k x).frame j = s.frame j := rfl
@[simp] theorem setHarp_frame (s : State) (k : Nat) (x : Harp) (j : Nat) : (s.setHarp k x).frame j = s.frame j := rfl
@[simp] theorem setKey_frame (s : State) (k : Nat) (x : KeySlot) (j : Nat) : (s.setKey k x).frame j = s.frame j := rfl
@[simp] theorem setDray_frame (s : State) (k : Nat) (x : Dray) (j : Nat) : (s.setDray k x).frame j = s.frame j := rfl
@[simp] theorem setQp_frame (s : State) (k : Nat) (x : Qp) (j : Nat) : (s.setQp k x).frame j = s.frame j := rfl
@[simp] theorem setPort_frame (s : State) (k : Nat) (x : PortEntry) (j : Nat) : (s.setPort k x).frame j = s.frame j := rfl
@[simp] theorem setMig_frame (s : State) (k : Nat) (x : MigSlot) (j : Nat) : (s.setMig k x).frame j = s.frame j := rfl
@[simp] theorem owe_dray (s : State) (c : Option Nat) (t p : Nat) (e : Event) (k : Nat) : (s.owe c t p e).dray k = s.dray k := rfl
@[simp] theorem modPkg_dray (s : State) (f : Pkg → Pkg) (k : Nat) : (s.modPkg f).dray k = s.dray k := rfl
@[simp] theorem setStrand_dray (s : State) (k : Nat) (x : Strand) (j : Nat) : (s.setStrand k x).dray j = s.dray j := rfl
@[simp] theorem setCore_dray (s : State) (k : Nat) (x : Core) (j : Nat) : (s.setCore k x).dray j = s.dray j := rfl
@[simp] theorem setLaunch_dray (s : State) (k : Nat) (x : Launch) (j : Nat) : (s.setLaunch k x).dray j = s.dray j := rfl
@[simp] theorem setVd_dray (s : State) (k : Nat) (x : Vd) (j : Nat) : (s.setVd k x).dray j = s.dray j := rfl
@[simp] theorem setPart_dray (s : State) (k : Nat) (x : Partition) (j : Nat) : (s.setPart k x).dray j = s.dray j := rfl
@[simp] theorem setHarp_dray (s : State) (k : Nat) (x : Harp) (j : Nat) : (s.setHarp k x).dray j = s.dray j := rfl
@[simp] theorem setKey_dray (s : State) (k : Nat) (x : KeySlot) (j : Nat) : (s.setKey k x).dray j = s.dray j := rfl
@[simp] theorem setFrame_dray (s : State) (k : Nat) (x : Frame) (j : Nat) : (s.setFrame k x).dray j = s.dray j := rfl
@[simp] theorem setQp_dray (s : State) (k : Nat) (x : Qp) (j : Nat) : (s.setQp k x).dray j = s.dray j := rfl
@[simp] theorem setPort_dray (s : State) (k : Nat) (x : PortEntry) (j : Nat) : (s.setPort k x).dray j = s.dray j := rfl
@[simp] theorem setMig_dray (s : State) (k : Nat) (x : MigSlot) (j : Nat) : (s.setMig k x).dray j = s.dray j := rfl
@[simp] theorem owe_qp (s : State) (c : Option Nat) (t p : Nat) (e : Event) (k : Nat) : (s.owe c t p e).qp k = s.qp k := rfl
@[simp] theorem modPkg_qp (s : State) (f : Pkg → Pkg) (k : Nat) : (s.modPkg f).qp k = s.qp k := rfl
@[simp] theorem setStrand_qp (s : State) (k : Nat) (x : Strand) (j : Nat) : (s.setStrand k x).qp j = s.qp j := rfl
@[simp] theorem setCore_qp (s : State) (k : Nat) (x : Core) (j : Nat) : (s.setCore k x).qp j = s.qp j := rfl
@[simp] theorem setLaunch_qp (s : State) (k : Nat) (x : Launch) (j : Nat) : (s.setLaunch k x).qp j = s.qp j := rfl
@[simp] theorem setVd_qp (s : State) (k : Nat) (x : Vd) (j : Nat) : (s.setVd k x).qp j = s.qp j := rfl
@[simp] theorem setPart_qp (s : State) (k : Nat) (x : Partition) (j : Nat) : (s.setPart k x).qp j = s.qp j := rfl
@[simp] theorem setHarp_qp (s : State) (k : Nat) (x : Harp) (j : Nat) : (s.setHarp k x).qp j = s.qp j := rfl
@[simp] theorem setKey_qp (s : State) (k : Nat) (x : KeySlot) (j : Nat) : (s.setKey k x).qp j = s.qp j := rfl
@[simp] theorem setFrame_qp (s : State) (k : Nat) (x : Frame) (j : Nat) : (s.setFrame k x).qp j = s.qp j := rfl
@[simp] theorem setDray_qp (s : State) (k : Nat) (x : Dray) (j : Nat) : (s.setDray k x).qp j = s.qp j := rfl
@[simp] theorem setPort_qp (s : State) (k : Nat) (x : PortEntry) (j : Nat) : (s.setPort k x).qp j = s.qp j := rfl
@[simp] theorem setMig_qp (s : State) (k : Nat) (x : MigSlot) (j : Nat) : (s.setMig k x).qp j = s.qp j := rfl
@[simp] theorem owe_portEntry (s : State) (c : Option Nat) (t p : Nat) (e : Event) (k : Nat) : (s.owe c t p e).portEntry k = s.portEntry k := rfl
@[simp] theorem modPkg_portEntry (s : State) (f : Pkg → Pkg) (k : Nat) : (s.modPkg f).portEntry k = s.portEntry k := rfl
@[simp] theorem setStrand_portEntry (s : State) (k : Nat) (x : Strand) (j : Nat) : (s.setStrand k x).portEntry j = s.portEntry j := rfl
@[simp] theorem setCore_portEntry (s : State) (k : Nat) (x : Core) (j : Nat) : (s.setCore k x).portEntry j = s.portEntry j := rfl
@[simp] theorem setLaunch_portEntry (s : State) (k : Nat) (x : Launch) (j : Nat) : (s.setLaunch k x).portEntry j = s.portEntry j := rfl
@[simp] theorem setVd_portEntry (s : State) (k : Nat) (x : Vd) (j : Nat) : (s.setVd k x).portEntry j = s.portEntry j := rfl
@[simp] theorem setPart_portEntry (s : State) (k : Nat) (x : Partition) (j : Nat) : (s.setPart k x).portEntry j = s.portEntry j := rfl
@[simp] theorem setHarp_portEntry (s : State) (k : Nat) (x : Harp) (j : Nat) : (s.setHarp k x).portEntry j = s.portEntry j := rfl
@[simp] theorem setKey_portEntry (s : State) (k : Nat) (x : KeySlot) (j : Nat) : (s.setKey k x).portEntry j = s.portEntry j := rfl
@[simp] theorem setFrame_portEntry (s : State) (k : Nat) (x : Frame) (j : Nat) : (s.setFrame k x).portEntry j = s.portEntry j := rfl
@[simp] theorem setDray_portEntry (s : State) (k : Nat) (x : Dray) (j : Nat) : (s.setDray k x).portEntry j = s.portEntry j := rfl
@[simp] theorem setQp_portEntry (s : State) (k : Nat) (x : Qp) (j : Nat) : (s.setQp k x).portEntry j = s.portEntry j := rfl
@[simp] theorem setMig_portEntry (s : State) (k : Nat) (x : MigSlot) (j : Nat) : (s.setMig k x).portEntry j = s.portEntry j := rfl
@[simp] theorem owe_migSlot (s : State) (c : Option Nat) (t p : Nat) (e : Event) (k : Nat) : (s.owe c t p e).migSlot k = s.migSlot k := rfl
@[simp] theorem modPkg_migSlot (s : State) (f : Pkg → Pkg) (k : Nat) : (s.modPkg f).migSlot k = s.migSlot k := rfl
@[simp] theorem setStrand_migSlot (s : State) (k : Nat) (x : Strand) (j : Nat) : (s.setStrand k x).migSlot j = s.migSlot j := rfl
@[simp] theorem setCore_migSlot (s : State) (k : Nat) (x : Core) (j : Nat) : (s.setCore k x).migSlot j = s.migSlot j := rfl
@[simp] theorem setLaunch_migSlot (s : State) (k : Nat) (x : Launch) (j : Nat) : (s.setLaunch k x).migSlot j = s.migSlot j := rfl
@[simp] theorem setVd_migSlot (s : State) (k : Nat) (x : Vd) (j : Nat) : (s.setVd k x).migSlot j = s.migSlot j := rfl
@[simp] theorem setPart_migSlot (s : State) (k : Nat) (x : Partition) (j : Nat) : (s.setPart k x).migSlot j = s.migSlot j := rfl
@[simp] theorem setHarp_migSlot (s : State) (k : Nat) (x : Harp) (j : Nat) : (s.setHarp k x).migSlot j = s.migSlot j := rfl
@[simp] theorem setKey_migSlot (s : State) (k : Nat) (x : KeySlot) (j : Nat) : (s.setKey k x).migSlot j = s.migSlot j := rfl
@[simp] theorem setFrame_migSlot (s : State) (k : Nat) (x : Frame) (j : Nat) : (s.setFrame k x).migSlot j = s.migSlot j := rfl
@[simp] theorem setDray_migSlot (s : State) (k : Nat) (x : Dray) (j : Nat) : (s.setDray k x).migSlot j = s.migSlot j := rfl
@[simp] theorem setQp_migSlot (s : State) (k : Nat) (x : Qp) (j : Nat) : (s.setQp k x).migSlot j = s.migSlot j := rfl
@[simp] theorem setPort_migSlot (s : State) (k : Nat) (x : PortEntry) (j : Nat) : (s.setPort k x).migSlot j = s.migSlot j := rfl

/-! ## Results owed (R72) -/

theorem landG_eq (s : State) (d : GReg) (v : Word) (n : Nat) (h : d ≠ 0) : s.landG d v n = s.landWide (.g d) (v.setWidth 65536) n := if_neg h
@[simp] theorem landG_zero (s : State) (v : Word) (n : Nat) : s.landG 0 v n = s := rfl
theorem landP_eq (s : State) (d : PReg) (v : Bool) (n : Nat) (h : d ≠ 0) : s.landP d v n = s.landWide (.p d) (if v then 1 else 0) n := if_neg h
@[simp] theorem landP_zero (s : State) (v : Bool) (n : Nat) : s.landP 0 v n = s := rfl
@[simp] theorem landMask_cur (s : State) (d : Dst) (v m : Wide) (n : Nat) : (s.landMask d v m n).cur = s.cur := rfl
@[simp] theorem landWide_cur (s : State) (d : Dst) (v : Wide) (n : Nat) : (s.landWide d v n).cur = s.cur := rfl
@[simp] theorem promise_cur (s : State) (d : Dst) (b : Bool) : (s.promise d b).cur = s.cur := rfl
@[simp] theorem deliver_cur (s : State) (sid q : Nat) (d : Dst) (v m : Wide) (t : Nat) : (s.deliver sid q d v m t).cur = s.cur := rfl
@[simp] theorem landG_cur (s : State) (d : GReg) (v : Word) (n : Nat) : (s.landG d v n).cur = s.cur := by unfold State.landG; split <;> rfl
@[simp] theorem landP_cur (s : State) (d : PReg) (v : Bool) (n : Nat) : (s.landP d v n).cur = s.cur := by unfold State.landP; split <;> rfl
@[simp] theorem landMask_last (s : State) (d : Dst) (v m : Wide) (n : Nat) : (s.landMask d v m n).last = s.last := rfl
@[simp] theorem landWide_last (s : State) (d : Dst) (v : Wide) (n : Nat) : (s.landWide d v n).last = s.last := rfl
@[simp] theorem promise_last (s : State) (d : Dst) (b : Bool) : (s.promise d b).last = s.last := rfl
@[simp] theorem deliver_last (s : State) (sid q : Nat) (d : Dst) (v m : Wide) (t : Nat) : (s.deliver sid q d v m t).last = s.last := rfl
@[simp] theorem landG_last (s : State) (d : GReg) (v : Word) (n : Nat) : (s.landG d v n).last = s.last := by unfold State.landG; split <;> rfl
@[simp] theorem landP_last (s : State) (d : PReg) (v : Bool) (n : Nat) : (s.landP d v n).last = s.last := by unfold State.landP; split <;> rfl
@[simp] theorem landMask_toIssue (s : State) (d : Dst) (v m : Wide) (n : Nat) : (s.landMask d v m n).toIssue = s.toIssue := rfl
@[simp] theorem landWide_toIssue (s : State) (d : Dst) (v : Wide) (n : Nat) : (s.landWide d v n).toIssue = s.toIssue := rfl
@[simp] theorem promise_toIssue (s : State) (d : Dst) (b : Bool) : (s.promise d b).toIssue = s.toIssue := rfl
@[simp] theorem deliver_toIssue (s : State) (sid q : Nat) (d : Dst) (v m : Wide) (t : Nat) : (s.deliver sid q d v m t).toIssue = s.toIssue := rfl
@[simp] theorem landG_toIssue (s : State) (d : GReg) (v : Word) (n : Nat) : (s.landG d v n).toIssue = s.toIssue := by unfold State.landG; split <;> rfl
@[simp] theorem landP_toIssue (s : State) (d : PReg) (v : Bool) (n : Nat) : (s.landP d v n).toIssue = s.toIssue := by unfold State.landP; split <;> rfl
@[simp] theorem landMask_inbox (s : State) (d : Dst) (v m : Wide) (n : Nat) : (s.landMask d v m n).inbox = s.inbox := rfl
@[simp] theorem landWide_inbox (s : State) (d : Dst) (v : Wide) (n : Nat) : (s.landWide d v n).inbox = s.inbox := rfl
@[simp] theorem promise_inbox (s : State) (d : Dst) (b : Bool) : (s.promise d b).inbox = s.inbox := rfl
@[simp] theorem deliver_inbox (s : State) (sid q : Nat) (d : Dst) (v m : Wide) (t : Nat) : (s.deliver sid q d v m t).inbox = s.inbox := rfl
@[simp] theorem landG_inbox (s : State) (d : GReg) (v : Word) (n : Nat) : (s.landG d v n).inbox = s.inbox := by unfold State.landG; split <;> rfl
@[simp] theorem landP_inbox (s : State) (d : PReg) (v : Bool) (n : Nat) : (s.landP d v n).inbox = s.inbox := by unfold State.landP; split <;> rfl
@[simp] theorem landMask_drifts (s : State) (d : Dst) (v m : Wide) (n : Nat) : (s.landMask d v m n).drifts = s.drifts := rfl
@[simp] theorem landWide_drifts (s : State) (d : Dst) (v : Wide) (n : Nat) : (s.landWide d v n).drifts = s.drifts := rfl
@[simp] theorem promise_drifts (s : State) (d : Dst) (b : Bool) : (s.promise d b).drifts = s.drifts := rfl
@[simp] theorem deliver_drifts (s : State) (sid q : Nat) (d : Dst) (v m : Wide) (t : Nat) : (s.deliver sid q d v m t).drifts = s.drifts := rfl
@[simp] theorem landG_drifts (s : State) (d : GReg) (v : Word) (n : Nat) : (s.landG d v n).drifts = s.drifts := by unfold State.landG; split <;> rfl
@[simp] theorem landP_drifts (s : State) (d : PReg) (v : Bool) (n : Nat) : (s.landP d v n).drifts = s.drifts := by unfold State.landP; split <;> rfl
@[simp] theorem landMask_linkOut (s : State) (d : Dst) (v m : Wide) (n : Nat) : (s.landMask d v m n).linkOut = s.linkOut := rfl
@[simp] theorem landMask_coachIn (s : State) (d : Dst) (v m : Wide) (n : Nat) : (s.landMask d v m n).coachIn = s.coachIn := rfl
@[simp] theorem landMask_timeOut (s : State) (d : Dst) (v m : Wide) (n : Nat) : (s.landMask d v m n).timeOut = s.timeOut := rfl
@[simp] theorem landMask_linkIn (s : State) (d : Dst) (v m : Wide) (n : Nat) : (s.landMask d v m n).linkIn = s.linkIn := rfl
@[simp] theorem landMask_backOut (s : State) (d : Dst) (v m : Wide) (n : Nat) : (s.landMask d v m n).backOut = s.backOut := rfl
@[simp] theorem landWide_linkOut (s : State) (d : Dst) (v : Wide) (n : Nat) : (s.landWide d v n).linkOut = s.linkOut := rfl
@[simp] theorem landWide_coachIn (s : State) (d : Dst) (v : Wide) (n : Nat) : (s.landWide d v n).coachIn = s.coachIn := rfl
@[simp] theorem landWide_timeOut (s : State) (d : Dst) (v : Wide) (n : Nat) : (s.landWide d v n).timeOut = s.timeOut := rfl
@[simp] theorem landWide_linkIn (s : State) (d : Dst) (v : Wide) (n : Nat) : (s.landWide d v n).linkIn = s.linkIn := rfl
@[simp] theorem landWide_backOut (s : State) (d : Dst) (v : Wide) (n : Nat) : (s.landWide d v n).backOut = s.backOut := rfl
@[simp] theorem promise_linkOut (s : State) (d : Dst) (b : Bool) : (s.promise d b).linkOut = s.linkOut := rfl
@[simp] theorem promise_coachIn (s : State) (d : Dst) (b : Bool) : (s.promise d b).coachIn = s.coachIn := rfl
@[simp] theorem promise_timeOut (s : State) (d : Dst) (b : Bool) : (s.promise d b).timeOut = s.timeOut := rfl
@[simp] theorem promise_linkIn (s : State) (d : Dst) (b : Bool) : (s.promise d b).linkIn = s.linkIn := rfl
@[simp] theorem promise_backOut (s : State) (d : Dst) (b : Bool) : (s.promise d b).backOut = s.backOut := rfl
@[simp] theorem deliver_linkOut (s : State) (sid q : Nat) (d : Dst) (v m : Wide) (t : Nat) : (s.deliver sid q d v m t).linkOut = s.linkOut := rfl
@[simp] theorem deliver_coachIn (s : State) (sid q : Nat) (d : Dst) (v m : Wide) (t : Nat) : (s.deliver sid q d v m t).coachIn = s.coachIn := rfl
@[simp] theorem deliver_timeOut (s : State) (sid q : Nat) (d : Dst) (v m : Wide) (t : Nat) : (s.deliver sid q d v m t).timeOut = s.timeOut := rfl
@[simp] theorem deliver_linkIn (s : State) (sid q : Nat) (d : Dst) (v m : Wide) (t : Nat) : (s.deliver sid q d v m t).linkIn = s.linkIn := rfl
@[simp] theorem deliver_backOut (s : State) (sid q : Nat) (d : Dst) (v m : Wide) (t : Nat) : (s.deliver sid q d v m t).backOut = s.backOut := rfl
@[simp] theorem landG_linkOut (s : State) (d : GReg) (v : Word) (n : Nat) : (s.landG d v n).linkOut = s.linkOut := by unfold State.landG; split <;> rfl
@[simp] theorem landG_coachIn (s : State) (d : GReg) (v : Word) (n : Nat) : (s.landG d v n).coachIn = s.coachIn := by unfold State.landG; split <;> rfl
@[simp] theorem landG_timeOut (s : State) (d : GReg) (v : Word) (n : Nat) : (s.landG d v n).timeOut = s.timeOut := by unfold State.landG; split <;> rfl
@[simp] theorem landG_linkIn (s : State) (d : GReg) (v : Word) (n : Nat) : (s.landG d v n).linkIn = s.linkIn := by unfold State.landG; split <;> rfl
@[simp] theorem landG_backOut (s : State) (d : GReg) (v : Word) (n : Nat) : (s.landG d v n).backOut = s.backOut := by unfold State.landG; split <;> rfl
@[simp] theorem landP_linkOut (s : State) (d : PReg) (v : Bool) (n : Nat) : (s.landP d v n).linkOut = s.linkOut := by unfold State.landP; split <;> rfl
@[simp] theorem landP_coachIn (s : State) (d : PReg) (v : Bool) (n : Nat) : (s.landP d v n).coachIn = s.coachIn := by unfold State.landP; split <;> rfl
@[simp] theorem landP_timeOut (s : State) (d : PReg) (v : Bool) (n : Nat) : (s.landP d v n).timeOut = s.timeOut := by unfold State.landP; split <;> rfl
@[simp] theorem landP_linkIn (s : State) (d : PReg) (v : Bool) (n : Nat) : (s.landP d v n).linkIn = s.linkIn := by unfold State.landP; split <;> rfl
@[simp] theorem landP_backOut (s : State) (d : PReg) (v : Bool) (n : Nat) : (s.landP d v n).backOut = s.backOut := by unfold State.landP; split <;> rfl
@[simp] theorem landMask_irqOut (s : State) (d : Dst) (v m : Wide) (n : Nat) : (s.landMask d v m n).irqOut = s.irqOut := rfl
@[simp] theorem landWide_irqOut (s : State) (d : Dst) (v : Wide) (n : Nat) : (s.landWide d v n).irqOut = s.irqOut := rfl
@[simp] theorem promise_irqOut (s : State) (d : Dst) (b : Bool) : (s.promise d b).irqOut = s.irqOut := rfl
@[simp] theorem deliver_irqOut (s : State) (sid q : Nat) (d : Dst) (v m : Wide) (t : Nat) : (s.deliver sid q d v m t).irqOut = s.irqOut := rfl
@[simp] theorem landG_irqOut (s : State) (d : GReg) (v : Word) (n : Nat) : (s.landG d v n).irqOut = s.irqOut := by unfold State.landG; split <;> rfl
@[simp] theorem landP_irqOut (s : State) (d : PReg) (v : Bool) (n : Nat) : (s.landP d v n).irqOut = s.irqOut := by unfold State.landP; split <;> rfl
@[simp] theorem landMask_netOut (s : State) (d : Dst) (v m : Wide) (n : Nat) : (s.landMask d v m n).netOut = s.netOut := rfl
@[simp] theorem landWide_netOut (s : State) (d : Dst) (v : Wide) (n : Nat) : (s.landWide d v n).netOut = s.netOut := rfl
@[simp] theorem promise_netOut (s : State) (d : Dst) (b : Bool) : (s.promise d b).netOut = s.netOut := rfl
@[simp] theorem deliver_netOut (s : State) (sid q : Nat) (d : Dst) (v m : Wide) (t : Nat) : (s.deliver sid q d v m t).netOut = s.netOut := rfl
@[simp] theorem landG_netOut (s : State) (d : GReg) (v : Word) (n : Nat) : (s.landG d v n).netOut = s.netOut := by unfold State.landG; split <;> rfl
@[simp] theorem landP_netOut (s : State) (d : PReg) (v : Bool) (n : Nat) : (s.landP d v n).netOut = s.netOut := by unfold State.landP; split <;> rfl
@[simp] theorem landMask_hostOut (s : State) (d : Dst) (v m : Wide) (n : Nat) : (s.landMask d v m n).hostOut = s.hostOut := rfl
@[simp] theorem landWide_hostOut (s : State) (d : Dst) (v : Wide) (n : Nat) : (s.landWide d v n).hostOut = s.hostOut := rfl
@[simp] theorem promise_hostOut (s : State) (d : Dst) (b : Bool) : (s.promise d b).hostOut = s.hostOut := rfl
@[simp] theorem deliver_hostOut (s : State) (sid q : Nat) (d : Dst) (v m : Wide) (t : Nat) : (s.deliver sid q d v m t).hostOut = s.hostOut := rfl
@[simp] theorem landG_hostOut (s : State) (d : GReg) (v : Word) (n : Nat) : (s.landG d v n).hostOut = s.hostOut := by unfold State.landG; split <;> rfl
@[simp] theorem landP_hostOut (s : State) (d : PReg) (v : Bool) (n : Nat) : (s.landP d v n).hostOut = s.hostOut := by unfold State.landP; split <;> rfl
@[simp] theorem landMask_picks (s : State) (d : Dst) (v m : Wide) (n : Nat) : (s.landMask d v m n).picks = s.picks := rfl
@[simp] theorem landWide_picks (s : State) (d : Dst) (v : Wide) (n : Nat) : (s.landWide d v n).picks = s.picks := rfl
@[simp] theorem promise_picks (s : State) (d : Dst) (b : Bool) : (s.promise d b).picks = s.picks := rfl
@[simp] theorem deliver_picks (s : State) (sid q : Nat) (d : Dst) (v m : Wide) (t : Nat) : (s.deliver sid q d v m t).picks = s.picks := rfl
@[simp] theorem landG_picks (s : State) (d : GReg) (v : Word) (n : Nat) : (s.landG d v n).picks = s.picks := by unfold State.landG; split <;> rfl
@[simp] theorem landP_picks (s : State) (d : PReg) (v : Bool) (n : Nat) : (s.landP d v n).picks = s.picks := by unfold State.landP; split <;> rfl
@[simp] theorem landMask_freeCtr (s : State) (d : Dst) (v m : Wide) (n : Nat) : (s.landMask d v m n).freeCtr = s.freeCtr := rfl
@[simp] theorem landWide_freeCtr (s : State) (d : Dst) (v : Wide) (n : Nat) : (s.landWide d v n).freeCtr = s.freeCtr := rfl
@[simp] theorem promise_freeCtr (s : State) (d : Dst) (b : Bool) : (s.promise d b).freeCtr = s.freeCtr := rfl
@[simp] theorem deliver_freeCtr (s : State) (sid q : Nat) (d : Dst) (v m : Wide) (t : Nat) : (s.deliver sid q d v m t).freeCtr = s.freeCtr := rfl
@[simp] theorem landG_freeCtr (s : State) (d : GReg) (v : Word) (n : Nat) : (s.landG d v n).freeCtr = s.freeCtr := by unfold State.landG; split <;> rfl
@[simp] theorem landP_freeCtr (s : State) (d : PReg) (v : Bool) (n : Nat) : (s.landP d v n).freeCtr = s.freeCtr := by unfold State.landP; split <;> rfl
@[simp] theorem landMask_nextId (s : State) (d : Dst) (v m : Wide) (n : Nat) : (s.landMask d v m n).nextId = s.nextId := rfl
@[simp] theorem landWide_nextId (s : State) (d : Dst) (v : Wide) (n : Nat) : (s.landWide d v n).nextId = s.nextId := rfl
@[simp] theorem promise_nextId (s : State) (d : Dst) (b : Bool) : (s.promise d b).nextId = s.nextId := rfl
@[simp] theorem deliver_nextId (s : State) (sid q : Nat) (d : Dst) (v m : Wide) (t : Nat) : (s.deliver sid q d v m t).nextId = s.nextId := rfl
@[simp] theorem landG_nextId (s : State) (d : GReg) (v : Word) (n : Nat) : (s.landG d v n).nextId = s.nextId := by unfold State.landG; split <;> rfl
@[simp] theorem landP_nextId (s : State) (d : PReg) (v : Bool) (n : Nat) : (s.landP d v n).nextId = s.nextId := by unfold State.landP; split <;> rfl
@[simp] theorem landMask_cores (s : State) (d : Dst) (v m : Wide) (n : Nat) : (s.landMask d v m n).cores = s.cores := rfl
@[simp] theorem landWide_cores (s : State) (d : Dst) (v : Wide) (n : Nat) : (s.landWide d v n).cores = s.cores := rfl
@[simp] theorem promise_cores (s : State) (d : Dst) (b : Bool) : (s.promise d b).cores = s.cores := rfl
@[simp] theorem deliver_cores (s : State) (sid q : Nat) (d : Dst) (v m : Wide) (t : Nat) : (s.deliver sid q d v m t).cores = s.cores := rfl
@[simp] theorem landG_cores (s : State) (d : GReg) (v : Word) (n : Nat) : (s.landG d v n).cores = s.cores := by unfold State.landG; split <;> rfl
@[simp] theorem landP_cores (s : State) (d : PReg) (v : Bool) (n : Nat) : (s.landP d v n).cores = s.cores := by unfold State.landP; split <;> rfl
@[simp] theorem landMask_harps (s : State) (d : Dst) (v m : Wide) (n : Nat) : (s.landMask d v m n).harps = s.harps := rfl
@[simp] theorem landWide_harps (s : State) (d : Dst) (v : Wide) (n : Nat) : (s.landWide d v n).harps = s.harps := rfl
@[simp] theorem promise_harps (s : State) (d : Dst) (b : Bool) : (s.promise d b).harps = s.harps := rfl
@[simp] theorem deliver_harps (s : State) (sid q : Nat) (d : Dst) (v m : Wide) (t : Nat) : (s.deliver sid q d v m t).harps = s.harps := rfl
@[simp] theorem landG_harps (s : State) (d : GReg) (v : Word) (n : Nat) : (s.landG d v n).harps = s.harps := by unfold State.landG; split <;> rfl
@[simp] theorem landP_harps (s : State) (d : PReg) (v : Bool) (n : Nat) : (s.landP d v n).harps = s.harps := by unfold State.landP; split <;> rfl
@[simp] theorem landMask_spad (s : State) (d : Dst) (v m : Wide) (n : Nat) : (s.landMask d v m n).spad = s.spad := rfl
@[simp] theorem landWide_spad (s : State) (d : Dst) (v : Wide) (n : Nat) : (s.landWide d v n).spad = s.spad := rfl
@[simp] theorem promise_spad (s : State) (d : Dst) (b : Bool) : (s.promise d b).spad = s.spad := rfl
@[simp] theorem deliver_spad (s : State) (sid q : Nat) (d : Dst) (v m : Wide) (t : Nat) : (s.deliver sid q d v m t).spad = s.spad := rfl
@[simp] theorem landG_spad (s : State) (d : GReg) (v : Word) (n : Nat) : (s.landG d v n).spad = s.spad := by unfold State.landG; split <;> rfl
@[simp] theorem landP_spad (s : State) (d : PReg) (v : Bool) (n : Nat) : (s.landP d v n).spad = s.spad := by unfold State.landP; split <;> rfl
@[simp] theorem landMask_mem (s : State) (d : Dst) (v m : Wide) (n : Nat) : (s.landMask d v m n).mem = s.mem := rfl
@[simp] theorem landWide_mem (s : State) (d : Dst) (v : Wide) (n : Nat) : (s.landWide d v n).mem = s.mem := rfl
@[simp] theorem promise_mem (s : State) (d : Dst) (b : Bool) : (s.promise d b).mem = s.mem := rfl
@[simp] theorem deliver_mem (s : State) (sid q : Nat) (d : Dst) (v m : Wide) (t : Nat) : (s.deliver sid q d v m t).mem = s.mem := rfl
@[simp] theorem landG_mem (s : State) (d : GReg) (v : Word) (n : Nat) : (s.landG d v n).mem = s.mem := by unfold State.landG; split <;> rfl
@[simp] theorem landP_mem (s : State) (d : PReg) (v : Bool) (n : Nat) : (s.landP d v n).mem = s.mem := by unfold State.landP; split <;> rfl
@[simp] theorem landMask_accesses (s : State) (d : Dst) (v m : Wide) (n : Nat) : (s.landMask d v m n).accesses = s.accesses := rfl
@[simp] theorem landWide_accesses (s : State) (d : Dst) (v : Wide) (n : Nat) : (s.landWide d v n).accesses = s.accesses := rfl
@[simp] theorem promise_accesses (s : State) (d : Dst) (b : Bool) : (s.promise d b).accesses = s.accesses := rfl
@[simp] theorem deliver_accesses (s : State) (sid q : Nat) (d : Dst) (v m : Wide) (t : Nat) : (s.deliver sid q d v m t).accesses = s.accesses := rfl
@[simp] theorem landG_accesses (s : State) (d : GReg) (v : Word) (n : Nat) : (s.landG d v n).accesses = s.accesses := by unfold State.landG; split <;> rfl
@[simp] theorem landP_accesses (s : State) (d : PReg) (v : Bool) (n : Nat) : (s.landP d v n).accesses = s.accesses := by unfold State.landP; split <;> rfl
@[simp] theorem landMask_runs (s : State) (d : Dst) (v m : Wide) (n : Nat) : (s.landMask d v m n).runs = s.runs := rfl
@[simp] theorem landWide_runs (s : State) (d : Dst) (v : Wide) (n : Nat) : (s.landWide d v n).runs = s.runs := rfl
@[simp] theorem promise_runs (s : State) (d : Dst) (b : Bool) : (s.promise d b).runs = s.runs := rfl
@[simp] theorem deliver_runs (s : State) (sid q : Nat) (d : Dst) (v m : Wide) (t : Nat) : (s.deliver sid q d v m t).runs = s.runs := rfl
@[simp] theorem landG_runs (s : State) (d : GReg) (v : Word) (n : Nat) : (s.landG d v n).runs = s.runs := by unfold State.landG; split <;> rfl
@[simp] theorem landP_runs (s : State) (d : PReg) (v : Bool) (n : Nat) : (s.landP d v n).runs = s.runs := by unfold State.landP; split <;> rfl
@[simp] theorem landMask_snaps (s : State) (d : Dst) (v m : Wide) (n : Nat) : (s.landMask d v m n).snaps = s.snaps := rfl
@[simp] theorem landWide_snaps (s : State) (d : Dst) (v : Wide) (n : Nat) : (s.landWide d v n).snaps = s.snaps := rfl
@[simp] theorem promise_snaps (s : State) (d : Dst) (b : Bool) : (s.promise d b).snaps = s.snaps := rfl
@[simp] theorem deliver_snaps (s : State) (sid q : Nat) (d : Dst) (v m : Wide) (t : Nat) : (s.deliver sid q d v m t).snaps = s.snaps := rfl
@[simp] theorem landG_snaps (s : State) (d : GReg) (v : Word) (n : Nat) : (s.landG d v n).snaps = s.snaps := by unfold State.landG; split <;> rfl
@[simp] theorem landP_snaps (s : State) (d : PReg) (v : Bool) (n : Nat) : (s.landP d v n).snaps = s.snaps := by unfold State.landP; split <;> rfl
@[simp] theorem landMask_launches (s : State) (d : Dst) (v m : Wide) (n : Nat) : (s.landMask d v m n).launches = s.launches := rfl
@[simp] theorem landWide_launches (s : State) (d : Dst) (v : Wide) (n : Nat) : (s.landWide d v n).launches = s.launches := rfl
@[simp] theorem promise_launches (s : State) (d : Dst) (b : Bool) : (s.promise d b).launches = s.launches := rfl
@[simp] theorem deliver_launches (s : State) (sid q : Nat) (d : Dst) (v m : Wide) (t : Nat) : (s.deliver sid q d v m t).launches = s.launches := rfl
@[simp] theorem landG_launches (s : State) (d : GReg) (v : Word) (n : Nat) : (s.landG d v n).launches = s.launches := by unfold State.landG; split <;> rfl
@[simp] theorem landP_launches (s : State) (d : PReg) (v : Bool) (n : Nat) : (s.landP d v n).launches = s.launches := by unfold State.landP; split <;> rfl
@[simp] theorem landMask_saved (s : State) (d : Dst) (v m : Wide) (n : Nat) : (s.landMask d v m n).saved = s.saved := rfl
@[simp] theorem landWide_saved (s : State) (d : Dst) (v : Wide) (n : Nat) : (s.landWide d v n).saved = s.saved := rfl
@[simp] theorem promise_saved (s : State) (d : Dst) (b : Bool) : (s.promise d b).saved = s.saved := rfl
@[simp] theorem deliver_saved (s : State) (sid q : Nat) (d : Dst) (v m : Wide) (t : Nat) : (s.deliver sid q d v m t).saved = s.saved := rfl
@[simp] theorem landG_saved (s : State) (d : GReg) (v : Word) (n : Nat) : (s.landG d v n).saved = s.saved := by unfold State.landG; split <;> rfl
@[simp] theorem landP_saved (s : State) (d : PReg) (v : Bool) (n : Nat) : (s.landP d v n).saved = s.saved := by unfold State.landP; split <;> rfl
@[simp] theorem landMask_hwSaved (s : State) (d : Dst) (v m : Wide) (n : Nat) : (s.landMask d v m n).hwSaved = s.hwSaved := rfl
@[simp] theorem landWide_hwSaved (s : State) (d : Dst) (v : Wide) (n : Nat) : (s.landWide d v n).hwSaved = s.hwSaved := rfl
@[simp] theorem promise_hwSaved (s : State) (d : Dst) (b : Bool) : (s.promise d b).hwSaved = s.hwSaved := rfl
@[simp] theorem deliver_hwSaved (s : State) (sid q : Nat) (d : Dst) (v m : Wide) (t : Nat) : (s.deliver sid q d v m t).hwSaved = s.hwSaved := rfl
@[simp] theorem landG_hwSaved (s : State) (d : GReg) (v : Word) (n : Nat) : (s.landG d v n).hwSaved = s.hwSaved := by unfold State.landG; split <;> rfl
@[simp] theorem landP_hwSaved (s : State) (d : PReg) (v : Bool) (n : Nat) : (s.landP d v n).hwSaved = s.hwSaved := by unfold State.landP; split <;> rfl
@[simp] theorem landMask_images (s : State) (d : Dst) (v m : Wide) (n : Nat) : (s.landMask d v m n).images = s.images := rfl
@[simp] theorem landWide_images (s : State) (d : Dst) (v : Wide) (n : Nat) : (s.landWide d v n).images = s.images := rfl
@[simp] theorem promise_images (s : State) (d : Dst) (b : Bool) : (s.promise d b).images = s.images := rfl
@[simp] theorem deliver_images (s : State) (sid q : Nat) (d : Dst) (v m : Wide) (t : Nat) : (s.deliver sid q d v m t).images = s.images := rfl
@[simp] theorem landG_images (s : State) (d : GReg) (v : Word) (n : Nat) : (s.landG d v n).images = s.images := by unfold State.landG; split <;> rfl
@[simp] theorem landP_images (s : State) (d : PReg) (v : Bool) (n : Nat) : (s.landP d v n).images = s.images := by unfold State.landP; split <;> rfl
@[simp] theorem landMask_vds (s : State) (d : Dst) (v m : Wide) (n : Nat) : (s.landMask d v m n).vds = s.vds := rfl
@[simp] theorem landWide_vds (s : State) (d : Dst) (v : Wide) (n : Nat) : (s.landWide d v n).vds = s.vds := rfl
@[simp] theorem promise_vds (s : State) (d : Dst) (b : Bool) : (s.promise d b).vds = s.vds := rfl
@[simp] theorem deliver_vds (s : State) (sid q : Nat) (d : Dst) (v m : Wide) (t : Nat) : (s.deliver sid q d v m t).vds = s.vds := rfl
@[simp] theorem landG_vds (s : State) (d : GReg) (v : Word) (n : Nat) : (s.landG d v n).vds = s.vds := by unfold State.landG; split <;> rfl
@[simp] theorem landP_vds (s : State) (d : PReg) (v : Bool) (n : Nat) : (s.landP d v n).vds = s.vds := by unfold State.landP; split <;> rfl
@[simp] theorem landMask_parts (s : State) (d : Dst) (v m : Wide) (n : Nat) : (s.landMask d v m n).parts = s.parts := rfl
@[simp] theorem landWide_parts (s : State) (d : Dst) (v : Wide) (n : Nat) : (s.landWide d v n).parts = s.parts := rfl
@[simp] theorem promise_parts (s : State) (d : Dst) (b : Bool) : (s.promise d b).parts = s.parts := rfl
@[simp] theorem deliver_parts (s : State) (sid q : Nat) (d : Dst) (v m : Wide) (t : Nat) : (s.deliver sid q d v m t).parts = s.parts := rfl
@[simp] theorem landG_parts (s : State) (d : GReg) (v : Word) (n : Nat) : (s.landG d v n).parts = s.parts := by unfold State.landG; split <;> rfl
@[simp] theorem landP_parts (s : State) (d : PReg) (v : Bool) (n : Nat) : (s.landP d v n).parts = s.parts := by unfold State.landP; split <;> rfl
@[simp] theorem landMask_keys (s : State) (d : Dst) (v m : Wide) (n : Nat) : (s.landMask d v m n).keys = s.keys := rfl
@[simp] theorem landWide_keys (s : State) (d : Dst) (v : Wide) (n : Nat) : (s.landWide d v n).keys = s.keys := rfl
@[simp] theorem promise_keys (s : State) (d : Dst) (b : Bool) : (s.promise d b).keys = s.keys := rfl
@[simp] theorem deliver_keys (s : State) (sid q : Nat) (d : Dst) (v m : Wide) (t : Nat) : (s.deliver sid q d v m t).keys = s.keys := rfl
@[simp] theorem landG_keys (s : State) (d : GReg) (v : Word) (n : Nat) : (s.landG d v n).keys = s.keys := by unfold State.landG; split <;> rfl
@[simp] theorem landP_keys (s : State) (d : PReg) (v : Bool) (n : Nat) : (s.landP d v n).keys = s.keys := by unfold State.landP; split <;> rfl
@[simp] theorem landMask_lines (s : State) (d : Dst) (v m : Wide) (n : Nat) : (s.landMask d v m n).lines = s.lines := rfl
@[simp] theorem landWide_lines (s : State) (d : Dst) (v : Wide) (n : Nat) : (s.landWide d v n).lines = s.lines := rfl
@[simp] theorem promise_lines (s : State) (d : Dst) (b : Bool) : (s.promise d b).lines = s.lines := rfl
@[simp] theorem deliver_lines (s : State) (sid q : Nat) (d : Dst) (v m : Wide) (t : Nat) : (s.deliver sid q d v m t).lines = s.lines := rfl
@[simp] theorem landG_lines (s : State) (d : GReg) (v : Word) (n : Nat) : (s.landG d v n).lines = s.lines := by unfold State.landG; split <;> rfl
@[simp] theorem landP_lines (s : State) (d : PReg) (v : Bool) (n : Nat) : (s.landP d v n).lines = s.lines := by unfold State.landP; split <;> rfl
@[simp] theorem landMask_blocks (s : State) (d : Dst) (v m : Wide) (n : Nat) : (s.landMask d v m n).blocks = s.blocks := rfl
@[simp] theorem landWide_blocks (s : State) (d : Dst) (v : Wide) (n : Nat) : (s.landWide d v n).blocks = s.blocks := rfl
@[simp] theorem promise_blocks (s : State) (d : Dst) (b : Bool) : (s.promise d b).blocks = s.blocks := rfl
@[simp] theorem deliver_blocks (s : State) (sid q : Nat) (d : Dst) (v m : Wide) (t : Nat) : (s.deliver sid q d v m t).blocks = s.blocks := rfl
@[simp] theorem landG_blocks (s : State) (d : GReg) (v : Word) (n : Nat) : (s.landG d v n).blocks = s.blocks := by unfold State.landG; split <;> rfl
@[simp] theorem landP_blocks (s : State) (d : PReg) (v : Bool) (n : Nat) : (s.landP d v n).blocks = s.blocks := by unfold State.landP; split <;> rfl
@[simp] theorem landMask_tree (s : State) (d : Dst) (v m : Wide) (n : Nat) : (s.landMask d v m n).tree = s.tree := rfl
@[simp] theorem landMask_nodes (s : State) (d : Dst) (v m : Wide) (n : Nat) : (s.landMask d v m n).nodes = s.nodes := rfl
@[simp] theorem landMask_ctrCache (s : State) (d : Dst) (v m : Wide) (n : Nat) : (s.landMask d v m n).ctrCache = s.ctrCache := rfl
@[simp] theorem landWide_tree (s : State) (d : Dst) (v : Wide) (n : Nat) : (s.landWide d v n).tree = s.tree := rfl
@[simp] theorem landWide_nodes (s : State) (d : Dst) (v : Wide) (n : Nat) : (s.landWide d v n).nodes = s.nodes := rfl
@[simp] theorem landWide_ctrCache (s : State) (d : Dst) (v : Wide) (n : Nat) : (s.landWide d v n).ctrCache = s.ctrCache := rfl
@[simp] theorem promise_tree (s : State) (d : Dst) (b : Bool) : (s.promise d b).tree = s.tree := rfl
@[simp] theorem promise_nodes (s : State) (d : Dst) (b : Bool) : (s.promise d b).nodes = s.nodes := rfl
@[simp] theorem promise_ctrCache (s : State) (d : Dst) (b : Bool) : (s.promise d b).ctrCache = s.ctrCache := rfl
@[simp] theorem deliver_tree (s : State) (sid q : Nat) (d : Dst) (v m : Wide) (t : Nat) : (s.deliver sid q d v m t).tree = s.tree := rfl
@[simp] theorem deliver_nodes (s : State) (sid q : Nat) (d : Dst) (v m : Wide) (t : Nat) : (s.deliver sid q d v m t).nodes = s.nodes := rfl
@[simp] theorem deliver_ctrCache (s : State) (sid q : Nat) (d : Dst) (v m : Wide) (t : Nat) : (s.deliver sid q d v m t).ctrCache = s.ctrCache := rfl
@[simp] theorem landG_tree (s : State) (d : GReg) (v : Word) (n : Nat) : (s.landG d v n).tree = s.tree := by unfold State.landG; split <;> rfl
@[simp] theorem landG_nodes (s : State) (d : GReg) (v : Word) (n : Nat) : (s.landG d v n).nodes = s.nodes := by unfold State.landG; split <;> rfl
@[simp] theorem landG_ctrCache (s : State) (d : GReg) (v : Word) (n : Nat) : (s.landG d v n).ctrCache = s.ctrCache := by unfold State.landG; split <;> rfl
@[simp] theorem landP_tree (s : State) (d : PReg) (v : Bool) (n : Nat) : (s.landP d v n).tree = s.tree := by unfold State.landP; split <;> rfl
@[simp] theorem landP_nodes (s : State) (d : PReg) (v : Bool) (n : Nat) : (s.landP d v n).nodes = s.nodes := by unfold State.landP; split <;> rfl
@[simp] theorem landP_ctrCache (s : State) (d : PReg) (v : Bool) (n : Nat) : (s.landP d v n).ctrCache = s.ctrCache := by unfold State.landP; split <;> rfl
@[simp] theorem landMask_mc (s : State) (d : Dst) (v m : Wide) (n : Nat) : (s.landMask d v m n).mc = s.mc := rfl
@[simp] theorem landWide_mc (s : State) (d : Dst) (v : Wide) (n : Nat) : (s.landWide d v n).mc = s.mc := rfl
@[simp] theorem promise_mc (s : State) (d : Dst) (b : Bool) : (s.promise d b).mc = s.mc := rfl
@[simp] theorem deliver_mc (s : State) (sid q : Nat) (d : Dst) (v m : Wide) (t : Nat) : (s.deliver sid q d v m t).mc = s.mc := rfl
@[simp] theorem landG_mc (s : State) (d : GReg) (v : Word) (n : Nat) : (s.landG d v n).mc = s.mc := by unfold State.landG; split <;> rfl
@[simp] theorem landP_mc (s : State) (d : PReg) (v : Bool) (n : Nat) : (s.landP d v n).mc = s.mc := by unfold State.landP; split <;> rfl
@[simp] theorem landMask_monHits (s : State) (d : Dst) (v m : Wide) (n : Nat) : (s.landMask d v m n).monHits = s.monHits := rfl
@[simp] theorem landWide_monHits (s : State) (d : Dst) (v : Wide) (n : Nat) : (s.landWide d v n).monHits = s.monHits := rfl
@[simp] theorem promise_monHits (s : State) (d : Dst) (b : Bool) : (s.promise d b).monHits = s.monHits := rfl
@[simp] theorem deliver_monHits (s : State) (sid q : Nat) (d : Dst) (v m : Wide) (t : Nat) : (s.deliver sid q d v m t).monHits = s.monHits := rfl
@[simp] theorem landG_monHits (s : State) (d : GReg) (v : Word) (n : Nat) : (s.landG d v n).monHits = s.monHits := by unfold State.landG; split <;> rfl
@[simp] theorem landP_monHits (s : State) (d : PReg) (v : Bool) (n : Nat) : (s.landP d v n).monHits = s.monHits := by unfold State.landP; split <;> rfl
@[simp] theorem landMask_monTags (s : State) (d : Dst) (v m : Wide) (n : Nat) : (s.landMask d v m n).monTags = s.monTags := rfl
@[simp] theorem landWide_monTags (s : State) (d : Dst) (v : Wide) (n : Nat) : (s.landWide d v n).monTags = s.monTags := rfl
@[simp] theorem promise_monTags (s : State) (d : Dst) (b : Bool) : (s.promise d b).monTags = s.monTags := rfl
@[simp] theorem deliver_monTags (s : State) (sid q : Nat) (d : Dst) (v m : Wide) (t : Nat) : (s.deliver sid q d v m t).monTags = s.monTags := rfl
@[simp] theorem landG_monTags (s : State) (d : GReg) (v : Word) (n : Nat) : (s.landG d v n).monTags = s.monTags := by unfold State.landG; split <;> rfl
@[simp] theorem landP_monTags (s : State) (d : PReg) (v : Bool) (n : Nat) : (s.landP d v n).monTags = s.monTags := by unfold State.landP; split <;> rfl
@[simp] theorem landMask_frames (s : State) (d : Dst) (v m : Wide) (n : Nat) : (s.landMask d v m n).frames = s.frames := rfl
@[simp] theorem landWide_frames (s : State) (d : Dst) (v : Wide) (n : Nat) : (s.landWide d v n).frames = s.frames := rfl
@[simp] theorem promise_frames (s : State) (d : Dst) (b : Bool) : (s.promise d b).frames = s.frames := rfl
@[simp] theorem deliver_frames (s : State) (sid q : Nat) (d : Dst) (v m : Wide) (t : Nat) : (s.deliver sid q d v m t).frames = s.frames := rfl
@[simp] theorem landG_frames (s : State) (d : GReg) (v : Word) (n : Nat) : (s.landG d v n).frames = s.frames := by unfold State.landG; split <;> rfl
@[simp] theorem landP_frames (s : State) (d : PReg) (v : Bool) (n : Nat) : (s.landP d v n).frames = s.frames := by unfold State.landP; split <;> rfl
@[simp] theorem landMask_mig (s : State) (d : Dst) (v m : Wide) (n : Nat) : (s.landMask d v m n).mig = s.mig := rfl
@[simp] theorem landWide_mig (s : State) (d : Dst) (v : Wide) (n : Nat) : (s.landWide d v n).mig = s.mig := rfl
@[simp] theorem promise_mig (s : State) (d : Dst) (b : Bool) : (s.promise d b).mig = s.mig := rfl
@[simp] theorem deliver_mig (s : State) (sid q : Nat) (d : Dst) (v m : Wide) (t : Nat) : (s.deliver sid q d v m t).mig = s.mig := rfl
@[simp] theorem landG_mig (s : State) (d : GReg) (v : Word) (n : Nat) : (s.landG d v n).mig = s.mig := by unfold State.landG; split <;> rfl
@[simp] theorem landP_mig (s : State) (d : PReg) (v : Bool) (n : Nat) : (s.landP d v n).mig = s.mig := by unfold State.landP; split <;> rfl
@[simp] theorem landMask_dirty (s : State) (d : Dst) (v m : Wide) (n : Nat) : (s.landMask d v m n).dirty = s.dirty := rfl
@[simp] theorem landWide_dirty (s : State) (d : Dst) (v : Wide) (n : Nat) : (s.landWide d v n).dirty = s.dirty := rfl
@[simp] theorem promise_dirty (s : State) (d : Dst) (b : Bool) : (s.promise d b).dirty = s.dirty := rfl
@[simp] theorem deliver_dirty (s : State) (sid q : Nat) (d : Dst) (v m : Wide) (t : Nat) : (s.deliver sid q d v m t).dirty = s.dirty := rfl
@[simp] theorem landG_dirty (s : State) (d : GReg) (v : Word) (n : Nat) : (s.landG d v n).dirty = s.dirty := by unfold State.landG; split <;> rfl
@[simp] theorem landP_dirty (s : State) (d : PReg) (v : Bool) (n : Nat) : (s.landP d v n).dirty = s.dirty := by unfold State.landP; split <;> rfl
@[simp] theorem landMask_ckpt (s : State) (d : Dst) (v m : Wide) (n : Nat) : (s.landMask d v m n).ckpt = s.ckpt := rfl
@[simp] theorem landWide_ckpt (s : State) (d : Dst) (v : Wide) (n : Nat) : (s.landWide d v n).ckpt = s.ckpt := rfl
@[simp] theorem promise_ckpt (s : State) (d : Dst) (b : Bool) : (s.promise d b).ckpt = s.ckpt := rfl
@[simp] theorem deliver_ckpt (s : State) (sid q : Nat) (d : Dst) (v m : Wide) (t : Nat) : (s.deliver sid q d v m t).ckpt = s.ckpt := rfl
@[simp] theorem landG_ckpt (s : State) (d : GReg) (v : Word) (n : Nat) : (s.landG d v n).ckpt = s.ckpt := by unfold State.landG; split <;> rfl
@[simp] theorem landP_ckpt (s : State) (d : PReg) (v : Bool) (n : Nat) : (s.landP d v n).ckpt = s.ckpt := by unfold State.landP; split <;> rfl
@[simp] theorem landMask_packets (s : State) (d : Dst) (v m : Wide) (n : Nat) : (s.landMask d v m n).packets = s.packets := rfl
@[simp] theorem landWide_packets (s : State) (d : Dst) (v : Wide) (n : Nat) : (s.landWide d v n).packets = s.packets := rfl
@[simp] theorem promise_packets (s : State) (d : Dst) (b : Bool) : (s.promise d b).packets = s.packets := rfl
@[simp] theorem deliver_packets (s : State) (sid q : Nat) (d : Dst) (v m : Wide) (t : Nat) : (s.deliver sid q d v m t).packets = s.packets := rfl
@[simp] theorem landG_packets (s : State) (d : GReg) (v : Word) (n : Nat) : (s.landG d v n).packets = s.packets := by unfold State.landG; split <;> rfl
@[simp] theorem landP_packets (s : State) (d : PReg) (v : Bool) (n : Nat) : (s.landP d v n).packets = s.packets := by unfold State.landP; split <;> rfl
@[simp] theorem landMask_ops (s : State) (d : Dst) (v m : Wide) (n : Nat) : (s.landMask d v m n).ops = s.ops := rfl
@[simp] theorem landWide_ops (s : State) (d : Dst) (v : Wide) (n : Nat) : (s.landWide d v n).ops = s.ops := rfl
@[simp] theorem promise_ops (s : State) (d : Dst) (b : Bool) : (s.promise d b).ops = s.ops := rfl
@[simp] theorem deliver_ops (s : State) (sid q : Nat) (d : Dst) (v m : Wide) (t : Nat) : (s.deliver sid q d v m t).ops = s.ops := rfl
@[simp] theorem landG_ops (s : State) (d : GReg) (v : Word) (n : Nat) : (s.landG d v n).ops = s.ops := by unfold State.landG; split <;> rfl
@[simp] theorem landP_ops (s : State) (d : PReg) (v : Bool) (n : Nat) : (s.landP d v n).ops = s.ops := by unfold State.landP; split <;> rfl
@[simp] theorem landMask_paths (s : State) (d : Dst) (v m : Wide) (n : Nat) : (s.landMask d v m n).paths = s.paths := rfl
@[simp] theorem landWide_paths (s : State) (d : Dst) (v : Wide) (n : Nat) : (s.landWide d v n).paths = s.paths := rfl
@[simp] theorem promise_paths (s : State) (d : Dst) (b : Bool) : (s.promise d b).paths = s.paths := rfl
@[simp] theorem deliver_paths (s : State) (sid q : Nat) (d : Dst) (v m : Wide) (t : Nat) : (s.deliver sid q d v m t).paths = s.paths := rfl
@[simp] theorem landG_paths (s : State) (d : GReg) (v : Word) (n : Nat) : (s.landG d v n).paths = s.paths := by unfold State.landG; split <;> rfl
@[simp] theorem landP_paths (s : State) (d : PReg) (v : Bool) (n : Nat) : (s.landP d v n).paths = s.paths := by unfold State.landP; split <;> rfl
@[simp] theorem landMask_rates (s : State) (d : Dst) (v m : Wide) (n : Nat) : (s.landMask d v m n).rates = s.rates := rfl
@[simp] theorem landWide_rates (s : State) (d : Dst) (v : Wide) (n : Nat) : (s.landWide d v n).rates = s.rates := rfl
@[simp] theorem promise_rates (s : State) (d : Dst) (b : Bool) : (s.promise d b).rates = s.rates := rfl
@[simp] theorem deliver_rates (s : State) (sid q : Nat) (d : Dst) (v m : Wide) (t : Nat) : (s.deliver sid q d v m t).rates = s.rates := rfl
@[simp] theorem landG_rates (s : State) (d : GReg) (v : Word) (n : Nat) : (s.landG d v n).rates = s.rates := by unfold State.landG; split <;> rfl
@[simp] theorem landP_rates (s : State) (d : PReg) (v : Bool) (n : Nat) : (s.landP d v n).rates = s.rates := by unfold State.landP; split <;> rfl
@[simp] theorem landMask_ports (s : State) (d : Dst) (v m : Wide) (n : Nat) : (s.landMask d v m n).ports = s.ports := rfl
@[simp] theorem landWide_ports (s : State) (d : Dst) (v : Wide) (n : Nat) : (s.landWide d v n).ports = s.ports := rfl
@[simp] theorem promise_ports (s : State) (d : Dst) (b : Bool) : (s.promise d b).ports = s.ports := rfl
@[simp] theorem deliver_ports (s : State) (sid q : Nat) (d : Dst) (v m : Wide) (t : Nat) : (s.deliver sid q d v m t).ports = s.ports := rfl
@[simp] theorem landG_ports (s : State) (d : GReg) (v : Word) (n : Nat) : (s.landG d v n).ports = s.ports := by unfold State.landG; split <;> rfl
@[simp] theorem landP_ports (s : State) (d : PReg) (v : Bool) (n : Nat) : (s.landP d v n).ports = s.ports := by unfold State.landP; split <;> rfl
@[simp] theorem landMask_drays (s : State) (d : Dst) (v m : Wide) (n : Nat) : (s.landMask d v m n).drays = s.drays := rfl
@[simp] theorem landWide_drays (s : State) (d : Dst) (v : Wide) (n : Nat) : (s.landWide d v n).drays = s.drays := rfl
@[simp] theorem promise_drays (s : State) (d : Dst) (b : Bool) : (s.promise d b).drays = s.drays := rfl
@[simp] theorem deliver_drays (s : State) (sid q : Nat) (d : Dst) (v m : Wide) (t : Nat) : (s.deliver sid q d v m t).drays = s.drays := rfl
@[simp] theorem landG_drays (s : State) (d : GReg) (v : Word) (n : Nat) : (s.landG d v n).drays = s.drays := by unfold State.landG; split <;> rfl
@[simp] theorem landP_drays (s : State) (d : PReg) (v : Bool) (n : Nat) : (s.landP d v n).drays = s.drays := by unfold State.landP; split <;> rfl
@[simp] theorem landMask_qps (s : State) (d : Dst) (v m : Wide) (n : Nat) : (s.landMask d v m n).qps = s.qps := rfl
@[simp] theorem landWide_qps (s : State) (d : Dst) (v : Wide) (n : Nat) : (s.landWide d v n).qps = s.qps := rfl
@[simp] theorem promise_qps (s : State) (d : Dst) (b : Bool) : (s.promise d b).qps = s.qps := rfl
@[simp] theorem deliver_qps (s : State) (sid q : Nat) (d : Dst) (v m : Wide) (t : Nat) : (s.deliver sid q d v m t).qps = s.qps := rfl
@[simp] theorem landG_qps (s : State) (d : GReg) (v : Word) (n : Nat) : (s.landG d v n).qps = s.qps := by unfold State.landG; split <;> rfl
@[simp] theorem landP_qps (s : State) (d : PReg) (v : Bool) (n : Nat) : (s.landP d v n).qps = s.qps := by unfold State.landP; split <;> rfl
@[simp] theorem landMask_pkg (s : State) (d : Dst) (v m : Wide) (n : Nat) : (s.landMask d v m n).pkg = s.pkg := rfl
@[simp] theorem landWide_pkg (s : State) (d : Dst) (v : Wide) (n : Nat) : (s.landWide d v n).pkg = s.pkg := rfl
@[simp] theorem promise_pkg (s : State) (d : Dst) (b : Bool) : (s.promise d b).pkg = s.pkg := rfl
@[simp] theorem deliver_pkg (s : State) (sid q : Nat) (d : Dst) (v m : Wide) (t : Nat) : (s.deliver sid q d v m t).pkg = s.pkg := rfl
@[simp] theorem landG_pkg (s : State) (d : GReg) (v : Word) (n : Nat) : (s.landG d v n).pkg = s.pkg := by unfold State.landG; split <;> rfl
@[simp] theorem landP_pkg (s : State) (d : PReg) (v : Bool) (n : Nat) : (s.landP d v n).pkg = s.pkg := by unfold State.landP; split <;> rfl

end Sys2Proof.Machine
end

