-- ==== Sys2Proof/Laws/Word.lean ====
section
/-! SUPPORT. Laws of the frame of instruction words (Machine/Ops.lean): which check decides, and what finish makes of an outcome. -/
namespace Sys2Proof.Machine

/-- A word that meets none of the checks is its effect. -/
theorem word_ready {s : State} {u : Use} {e : State → Res} (h : s.Ready u) : word s u e = e s := by
  obtain ⟨h1, h2, h3, h4, h5, h6⟩ := h
  unfold word
  rw [if_neg, if_neg, if_neg, if_neg, h5]
  · simp [State.correct, State.me] at h6 ⊢
    simp [h6]
  · simp [h4]
  · simp [h3]
  · omega
  · simpa using fun h => h1 h

/-- A vector word of another slot is an illegal instruction (R18). -/
theorem word_slot {s : State} {u : Use} {e : State → Res} (h : u.vec = true) (h' : s.isVector s.cur.sid = false) :
    word s u e = illegalInstr s := by
  unfold word; simp [h, h']

/-- A word of a higher level is a privilege trap. -/
theorem word_level {s : State} {u : Use} {e : State → Res} (h : u.vec = true → s.isVector s.cur.sid = true)
    (h' : s.me.priv < u.level) : word s u e = privilege s := by
  unfold word
  rw [if_neg, if_pos h']
  simpa using fun a => h a

/-- A word that must wait keeps its issue cycle empty (R34). -/
theorem word_held {s : State} {u : Use} {e : State → Res} (h : u.vec = true → s.isVector s.cur.sid = true) (h1 : u.level ≤ s.me.priv)
    (h2 : s.mustWait u = true) : word s u e = .held s := by
  unfold word
  rw [if_neg, if_neg, if_pos h2]
  · omega
  · simpa using fun a => h a

/-- A false guard (R47, R74). -/
theorem word_guarded {s : State} {u : Use} {e : State → Res} (h : u.vec = true → s.isVector s.cur.sid = true) (h1 : u.level ≤ s.me.priv)
    (h2 : s.mustWait u = false) (h3 : s.me.guard u.gd = false) : word s u e = .ok s := by
  unfold word
  rw [if_neg, if_neg, if_neg, if_pos]
  · simp [h3]
  · simp [h2]
  · omega
  · simpa using fun a => h a

@[simp] theorem finish_ok (s t : State) : finish s (.ok t) = .next { t with last := .done } := rfl
@[simp] theorem finish_held (s t : State) : finish s (.held t) = .next { t with last := .held } := rfl
@[simp] theorem finish_trap (s : State) (i : TrapInfo) : finish s (.trap i) = .next (raise s s i) := rfl
@[simp] theorem finish_trapIn (s t : State) (i : TrapInfo) : finish s (.trapIn t i) = .next (raise s t i) := rfl

/-- A word always answers a next state (R6: every case has a stated outcome). -/
theorem finish_next (s : State) (r : Res) : ∃ t, finish s r = .next t := by
  cases r <;> exact ⟨_, rfl⟩

end Sys2Proof.Machine
end

