-- ==== Sys2Proof/Tests/Slice0.lean ====
section
/-! SUPPORT. Tests: words of the spec decoded, ill-formed terms, single steps, and for every statement with hypotheses a concrete
state and operands that meet them (theorems wit_<statement>; a statement of several clauses has its clauses' hypotheses, over one
state or over a few). The witnesses say nothing but that the hypotheses can be met. -/
namespace Sys2Proof.Tests
open Machine Claims
set_option Elab.async false

/-! ## Words (R45 to R53) -/

/-- Control and scalar words, written out from the encodings of R46 to R53 (the worked words of 03, 05 and 13 among them). -/
theorem test_decode_scalar : (([0xC0531DD1, 0x40631400, 0xC4512345, 0xC656789A, 0x825FFFFE, 0x80500404, 0x80007FC2, 0x80000003, 0x86001011,
    0x86018028, 0x86032000, 0x4A219C01] : List Nat).map fun w => (decodeWord w).toOption) =
  [some (.sub 5 6 7 ⟨3, true⟩ .w32), some (.add 6 6 5 ⟨0, false⟩ .w64), some (.li 5 0x12345), some (.lih 5 0x6789A),
    some (.br ⟨1, false⟩ 2097150), some (.csrr 5 16), some (.trap 511), some .eret, some (.cue 17), some (.atLcy 3 40), some (.tune 6),
    some (.cmpNe 2 3 7 ⟨0, false⟩ .w64)] := by decide +kernel

/-- Memory words (08). -/
theorem test_decode_memory : (([0x08520804, 0x8A342BFF, 0x8C9635A9, 0x8E500409, 0x8E021100, 0x8E03C000] : List Nat).map
    fun w => (decodeWord w).toOption) =
  [some (.ld 5 4 .loc .w 4), some (.st 3 8 .clu .w 1023), some (.amoCas 9 12 13 .d .vir), some (.fence 5 .cluster 9), some (.pref 4 256),
    some (.rpub 7)] := by decide +kernel

/-- Vector, vector memory and Harp words (06, 07, 09). -/
theorem test_decode_vector : (([0xD2408843, 0x96002000, 0x96731001, 0x90431C42, 0x921A5400, 0x922180C1, 0x94A22C48, 0x98603005, 0x9A682519,
    0x9870455A] : List Nat).map fun w => (decodeWord w).toOption) =
  [some (.vfma 4 1 2 0 .fp32), some .vsync, some (.vloop 7 6 1), some (.vlds 4 6 7 0 .e32 false), some (.sset 1 20 21),
    some (.sld 2 3 1 .e32), some (.vamoFadd 10 4 11 0 .fp32 false), some (.hanch 3 6), some (.hmmaSet 3 8 4 20 .n8),
    some (.hread 3 16 8 21 .n8)] := by decide +kernel

/-- Fabric, Dray, COUNT and privileged words (10 to 16). -/
theorem test_decode_system : (([0x9E402140, 0x9E0621C1, 0xA2684800, 0xA40A5B00, 0xA0201C13, 0xAA530C00, 0xAA530C01, 0xAA530002, 0xAA530C03,
    0xAA530C04, 0xAC0531C0, 0xAC0531C1, 0xAC0531C2, 0xAC4531C3, 0xAC053004, 0xAC0531C5, 0xAC0531C6, 0x80530008, 0x80530009] : List Nat).map
    fun w => (decodeWord w).toOption) =
  [some (.send 2 4 5), some (.recv 6 4 7), some (.tknar 3 8 9), some (.drayCopy 0 10 11 12), some (.vpush 1 3 16 .n4),
    some (.carr 5 6 3 ⟨0, false⟩), some (.cwait 5 6 3 ⟨0, false⟩), some (.cancel 5 6 ⟨0, false⟩), some (.ckpt 5 6 3 ⟨0, false⟩),
    some (.cset 5 6 3 ⟨0, false⟩), some (.xlatRead 5 6 7), some (.tlbinvPage 5 6 7), some (.migset 5 6 7), some (.mint 2 5 6 7),
    some (.revokePort 5 6), some (.keysetSet 5 6 7), some (.admitTab 5 6 7), some (.ctxsave 5 6), some (.ctxload 5 6)] := by decide +kernel

/-- R45 to R54: reserved majors, unassigned minors and set fixed bits name their refusal. -/
theorem test_decode_refusals : (([0x2E000000, 0x8000003F, 0x80000040] : List Nat).map fun w =>
    match decodeWord w with | .ok _ => none | .error e => some e) =
  [some .reservedMajor, some .unassignedMinor, some .fixedField] := by decide +kernel

/-! ## Ill-formed terms, each refused by its check -/

/-- R47: p0 inverted guards nothing. -/
theorem test_ill_guard : (Instr.add 1 2 3 ⟨0, true⟩ .w64).wellFormed = false := by decide
/-- R121: a field that leaves the register. -/
theorem test_ill_field : (Instr.bfx 1 2 63 1).wellFormed = false ∧ (Instr.bfi 1 2 31 33).wellFormed = false := by decide
/-- R48: an odd g pair. -/
theorem test_ill_pair : (Instr.hzero 0 3).wellFormed = false ∧ (Instr.hanch 0 5).wellFormed = false := by decide
/-- R48, R51: a group that is not aligned. -/
theorem test_ill_group : (Instr.hread 0 6 2 9 .n4).wellFormed = false ∧ (Instr.vpush 1 2 1 .n2).wellFormed = false := by decide
/-- R53: format codes 30 and 31. -/
theorem test_ill_format : (Instr.hplane 0 2 30 .n1).wellFormed = false ∧ (Instr.vqnt 0 1 31 0 .fp32).wellFormed = false := by decide
/-- R147, R148: stochastic rounding where it is excluded. -/
theorem test_ill_rounding : (Instr.vdqnt 0 1 9 0 .fp32 .rst).wellFormed = false ∧ (Instr.vrndi 31 0 0 .fp32 .rst).wellFormed = false := by decide
/-- R254: a stripe past tk15. -/
theorem test_ill_stripe : (Instr.stripe 14 1 2 3 2).wellFormed = false := by decide
/-- Events of agents that do not exist. -/
theorem test_ill_agents : ([Instr.land 15392, .harpCommandStart 962, .launchQueuePoll 48 0, .launchQueuePoll 0 4, .wayQuotaRecompute 4,
    .vdReset 192, .drayCommandStart 48, .migrationLineCopy 16, .networkTimeout 4096, .portClose 32 0 0, .portClose 0 0 64,
    .vdScheduleIn 0 8].all fun i => !i.wellFormed) = true := by decide

/-- R10, R11: what stands at a site, and the site of each: cores, near- and far-memory ports, Drays, the Coachmen, the host link and the
checkpoint engine. -/
theorem test_sites :
    ((List.range 960).all fun c => siteUse (siteX c) (siteY c) == .core c) = true ∧
    ((List.range 8).all fun n => siteUse (nearSite n).1 (nearSite n).2 == .near n) = true ∧
    ((List.range 16).all fun n => siteUse (farSite n).1 (farSite n).2 == .far (n / 4)) = true ∧
    ((List.range 48).all fun n => siteUse (draySite n).1 (draySite n).2 == .dray n) = true ∧
    siteUse hostSite.1 hostSite.2 = .host ∧ siteUse ckptSite.1 ckptSite.2 = .checkpoint ∧
    siteUse 0 0 = .coachman 960 ∧ siteUse 31 31 = .coachman 961 := by decide +kernel

/-! ## Single steps -/

/-- The machine fetches and runs a placed word. -/
theorem test_step_addi : (match step (State.reset.withFetchWord 32 0xC25280FF) with
    | .next t => t.last == .done && (t.strand 15360).pend.length == 1 | _ => false) = true := by decide

/-- R357, R353: a placed TRAP enters the Coachman's handler with cause 14. -/
theorem test_step_trap : (match step (State.reset.withFetchWord 32 0x80000042) with
    | .next t => (t.strand 15360).ecause == 14 && (t.strand 15360).eval == 1 | _ => false) = true := by decide +kernel

/-- A machine with nothing due goes on to the next cycle. -/
theorem test_step_idle : (match step State.reset with | .next t => t.pkg.ency == 1 | _ => false) = true := by decide +kernel

/-! ## Worked examples of the spec, and published vectors of the ciphers it names -/

/-- 01_machine.md, worked example of R13: the cores at (14,3) and (17,9). -/
theorem test_worked_sites : coreAt 14 3 = 211 ∧ crewOf 211 = 26 ∧ coreAt 17 9 = 265 ∧ clusterOf 265 = 5 ∧ crewOf 265 = 33 ∧
    pathLatency 211 265 = 30 := by decide

/-- 04_formats.md, worked example of R99: the BF16 block 6.5, −1.25, 0.0859375, −0.0859375 at 9 and at 11 planes. -/
theorem test_worked_block : (let xs := ([0x40D0, 0xBFA0, 0x3DB0, 0xBDB0] : List Nat).map (fmtVal 20)
    (blockFix 9 xs, blockFix 11 xs)) = (⟨129, [208, -40, 2, -3], true, false, false⟩, ⟨129, [832, -160, 11, -11], false, false, false⟩) := by
  decide +kernel

/-- 04_formats.md, worked example of R103: the accumulator 4991 under anchor −10 read as BF16 under RNE and RTZ, inexact. -/
theorem test_worked_hread : hreadElem false 20 0 (-10) true 4991 = (0x409C, 256) ∧ hreadElem false 20 1 (-10) true 4991 = (0x409B, 256) := by
  decide +kernel

/-- 06_vector_instr.md, worked example of R152: VREDSUM of 2^24, 1.0, 1.0, 3.0, −2^24 from 1.0 gives 5.0, inexact. -/
theorem test_worked_redsum : (let f := redStep .sum (.flt .fp32) (rmOf 0)
    let (r, fl) := treeReduce f 20 (([0x4B800000, 0x3F800000, 0x3F800000, 0x40400000, 0xCB800000] : List Nat).map some)
    ((f 0x3F800000 (r.getD 0)).1, fl)) = (0x40A00000, 256) := by decide +kernel

/-- 08_memories.md, worked example of R185: 64 elements at stride 32 bytes from offset 0x40 take 3 access cycles. -/
theorem test_worked_banks :
    (cyclesOf .load true { blankAccess State.reset 80 with place := .spad 5, bytes := 4 }
      ((List.range 64).map fun i => ({ idx := i, addr := 0x40 + 32 * i, data := 0, exp := 0 } : Elem))).1.map List.length = [30, 32, 2] ∧
    (cyclesOf .load true { blankAccess State.reset 80 with place := .spad 5, bytes := 4 }
      ((List.range 64).map fun i => ({ idx := i, addr := 0x40 + 32 * i, data := 0, exp := 0 } : Elem))).2 = 3 := by decide +kernel

/-- QARMA-64 with σ1 and 7 rounds: the test vector of its designers. -/
theorem test_qarma : qarma 0x84BE85CE9804E94B 0xEC2802D4E0A488E9 0x477D469DEC0B8762 0xFB623599DA6E8127 = 0xEDF67FF370A483F2 := by
  decide +kernel

/-- AES-256: the test vector of FIPS 197, C.3, as byte strings. -/
theorem test_aes256 : aesBytes (aesKeys (ofNatBytes (List.range 32))) ((List.range 16).map (17 * ·)) =
    [0x8E, 0xA2, 0xB7, 0xCA, 0x51, 0x67, 0x45, 0xBF, 0xEA, 0xFC, 0x49, 0x90, 0x4B, 0x49, 0x60, 0x89] := by decide +kernel

/-! ## Small states -/

theorem ready_of {s : State} {u : Use} (h : ((!u.vec || s.isVector s.cur.sid) && decide (u.level ≤ s.me.priv) && !s.mustWait u &&
    s.me.guard u.gd && (s.poisoned u).isNone && s.me.soft.isEmpty) = true) : s.Ready u := by
  simp only [Bool.and_eq_true, Bool.or_eq_true, Bool.not_eq_true', decide_eq_true_eq, Option.isNone_iff_eq_none, List.isEmpty_iff] at h
  obtain ⟨⟨⟨⟨⟨h1, h2⟩, h3⟩, h4⟩, h5⟩, h6⟩ := h
  exact ⟨fun hv => h1.resolve_left (by simp [hv]), h2, h3, h4, h5, h6⟩

theorem canonical_of {s : State} (h : decide (Memory.wf s.mem = true ∧ Memory.wf s.spad = true ∧
    s.strands.Pairwise (fun a b => a.1 < b.1) ∧ s.cores.Pairwise (fun a b => a.1 < b.1) ∧ s.harps.Pairwise (fun a b => a.1 < b.1) ∧
    s.launches.Pairwise (fun a b => a.1 < b.1) ∧ s.vds.Pairwise (fun a b => a.1 < b.1) ∧ s.parts.Pairwise (fun a b => a.1 < b.1) ∧
    s.keys.Pairwise (fun a b => a.1 < b.1) ∧ s.frames.Pairwise (fun a b => a.1 < b.1) ∧ s.mig.Pairwise (fun a b => a.1 < b.1) ∧
    s.ports.Pairwise (fun a b => a.1 < b.1) ∧ s.drays.Pairwise (fun a b => a.1 < b.1) ∧ s.qps.Pairwise (fun a b => a.1 < b.1)) = true) :
    Canonical s := by simpa [Canonical, Rising] using of_decide_eq_true h

theorem ok_of_some {ε α : Type} {x : Except ε α} {a : α} (h : x.toOption = some a) : x = .ok a := by
  cases x <;> simp_all [Except.toOption]

/-- A check that passes, with what it answers. -/
theorem ok_of {α : Type} {f : State × Except TrapInfo α} {P : State → α → Prop}
    (h : ∀ u x, f = (u, .ok x) → P u x) (h0 : (match f.2 with | .ok _ => true | .error _ => false) = true) :
    ∃ u x, f = (u, .ok x) ∧ P u x := by
  match f, h, h0 with
  | (u, .ok x), h, _ => exact ⟨u, x, rfl, h u x rfl⟩

/-- A check that passes with an answer of which p holds. -/
theorem passes {α : Type} {f : State × Except TrapInfo α} (p : State → α → Bool)
    (h : (match f with | (u, .ok x) => p u x | _ => false) = true) : ∃ u x, f = (u, .ok x) ∧ p u x = true := by
  match f, h with
  | (u, .ok x), h => exact ⟨u, x, rfl, h⟩

/-- A fetch that succeeds. -/
theorem fetches {f : Except State State} {g : State → State × Except TrapInfo (Nat × Nat)} (p : State → State → Nat × Nat → Bool)
    (h : (match f with | .ok u => (match g u with | (v, .ok w) => p u v w | _ => false) | _ => false) = true) :
    ∃ u v w, f = .ok u ∧ g u = (v, .ok w) ∧ p u v w = true := by
  cases f with
  | error e => exact absurd h Bool.false_ne_true
  | ok u =>
    rcases hg : g u with ⟨v, e | w⟩
    · simp only [hg] at h; exact absurd h Bool.false_ne_true
    · simp only [hg] at h; exact ⟨u, v, w, rfl, hg, h⟩

/-- A register file with some registers set. -/
def gs (l : List (Nat × Nat)) : Vector Word 32 :=
  Vector.ofFn fun i => BitVec.ofNat 64 (((l.find? fun e => e.1 == i.val).map (·.2)).getD 0)

/-- Ticket registers with some set. -/
def tks (l : List (Nat × Ticket)) : Vector Ticket 16 :=
  Vector.ofFn fun i => ((l.find? fun e => e.1 == i.val).map (·.2)).getD 0

/-- A ticket of VD 1 with every right: kind, base and length as R299 to R302 place them. -/
def ticket (kind base len : Nat) : Ticket := BitVec.ofNat 512 (2 ^ 128 * (kind + 8 * 255 + 2 ^ 49 + 2 ^ 57 * base + 2 ^ 97 * len))

/-- Partition 0 with crew 0, Dray 1 and VD 1; core 5, whose slot 0 runs a strand of a free launch in its turn 10. -/
def base : State :=
  { State.reset with
    cur := { sid := 80, pair := 0x1000 }
    strands := [(80, { slot := .runnable, launch := some 1048576 })]
    launches := [(1048576, { st := .running, lcy := some 160, part := some 0, vd := 1, cores := [(5, 1)], units := [(0, .active)] })]
    vds := [(1, { state := 1 })]
    parts := [(0, { crews := 1, drays := 2, vdlist := #v[1, 255, 255, 255, 255, 255, 255, 255] })]
    nextId := 1 }

/-- The same with another strand in the slot. -/
def on (x : Strand) : State := { base with strands := [(80, { x with slot := .runnable, launch := some 1048576 })] }

/-- The same on a scored core. -/
def scoredOn (x : Strand) : State :=
  { on x with cores := [(5, { scored := true })]
              launches := [(1048576, { st := .running, scored := true, lcy := some 160, part := some 0, vd := 1, cores := [(5, 1)], units := [(0, .active)] })] }

/-- The same with page 16 of VD 1 mapped to its frame 64. -/
def mapped (x : Strand) : State :=
  { on x with cores := [(5, { tlb := [⟨1, 16, 1, 64, ⟨true, true, true, true, false, false⟩, false⟩] })]
              frames := [(64, { owner := 1, assigned := true })] }

/-- An access of the strand to word 16 of its scratchpad. -/
def spadAccess (k : AccKind) (d : Option Dst) : Access where
  sid := 80
  seq := 3
  pc := 0x1000
  turn := 150
  kind := k
  path := .core
  place := .spad 5
  vd := 1
  bytes := 4
  sext := true
  dst := d
  cycles := [[⟨0, 5 * 524288 + 64, 0xAABBCCDD, 0, 0, 0, false, none⟩]]
  done := 0
  plan := 1
  acc := 0
  msk := 0
  bad := 0
  flags := 0
  earliest := 0
  rank := 0
  vec := false
  scored := false

/-- The strand with that access in flight. -/
def accessing (k : AccKind) (d : Option Dst) : State :=
  { on { seq := 8, pend := [⟨3, 150, .g 4, none, 0, none, false⟩] } with accesses := [(7, spadAccess k d)] }

theorem room_of {s : State} {op : VOp} (h : decide (s.me.collect = none ∧ s.me.heldLoop = none ∧ s.me.queued < 16 ∧
    (op.returns = 0 ∨ s.me.returning < 8)) = true) : Room s op := by
  have g := of_decide_eq_true h
  exact g

theorem owns_of {s : State} {ts : List Nat} (h : (ts.all fun t => s.ownsTile (coreOf s.cur.sid) t) = true) : Owns s ts := by
  simpa [Owns] using h

theorem mayOpen_of {s : State} {t : Ticket} (h : (decide (s.inFlight s.cur.sid < 32) && (!s.foreign s.cur.sid t ||
      (!s.checksPending (s.strandVd s.cur.sid) && !(s.key (s.strandVd s.cur.sid)).inthold))) = true) : MayOpen s t := by
  simp only [Bool.and_eq_true, decide_eq_true_eq, Bool.or_eq_true, Bool.not_eq_true'] at h
  exact ⟨h.1, fun hf => h.2.resolve_left (by simp [hf])⟩


/-- The same with entry 3 of the launch's cue table at the strand's turn. -/
def cued (x : Strand) : State :=
  { scoredOn x with cores := [(5, { scored := true, cues := [(1048576, [(3, 0x800000A0)])] })] }

/-- The scored core with receive slot 0 full. -/
def slotted (x : Strand) : State :=
  { scoredOn x with cores := [(5, { scored := true, recv := [(0, ⟨7, 3, true⟩)] })] }

/-- The free core with an entry in its elastic queue 2. -/
def queued (x : Strand) : State :=
  { on x with cores := [(5, { elastic := #v[[], [], [⟨[1, 2, 3], 6, 0, 0⟩], []] })] }

/-- A FILL block of 64 bytes at offset 0 of the core's scratchpad, its destination in space 0. -/
def filling (x : Strand) : State :=
  { on { x with g := gs [(1, 0), (2, 1)] } with spad := writeBytes [] (5 * 524288) (toBytes 64 (2 ^ 134)) }

/-- The same strand with a running command 7 of its VD on Dray 1. -/
def asking (x : Strand) : State :=
  { on { x with g := gs [(1, commandId 1 7), (2, 100)] } with drays := [(1, { cmds := [{ cmdOf 5 (toBytes 64 0) with seq := 7, vd := 1, running := true }] })] }

/-- The strand at supervisor level over a walk cache that leads to its VD's last table, which maps page 16 to frame 64. -/
def walked (x : Strand) : State :=
  { on x with
    cores := [(5, { walk := [⟨1, 2, 0, 70⟩] })]
    frames := [(64, { owner := 1, assigned := true }), (65, { owner := 1, assigned := true, fresh := true }), (70, { owner := 1, assigned := true })]
    mem := writeBytes [] (4096 * 70 + 8 * 16) (toBytes 8 (64 * 4096 + 0x1D)) }

/-- Five levels of tables in frames 80 to 84 that map page 16 to frame 64, and in frame 96 a Tablature of one core, core 6, and one
code region, that page. -/
def tabled (x : Strand) : State :=
  { on x with
    pkg := { State.reset.pkg with locked := true }
    vds := [(1, { state := 1, troot := 80 })]
    cores := [(5, { enabled := true, logical := 5 }), (6, { enabled := true, logical := 6 })]
    frames := ([64, 80, 81, 82, 83, 84, 96].map fun f => (f, ({ owner := 1, assigned := true } : Frame)))
    mem := [(80, 0, 8, 81 * 4096 + 3), (81, 0, 8, 82 * 4096 + 3), (82, 0, 8, 83 * 4096 + 3), (83, 0, 8, 84 * 4096 + 3), (84, 128, 8, 64 * 4096 + 0x1D),
      (96, 0, 4, 1), (96, 4, 4, 224), (96, 16, 8, 4), (96, 24, 2, 1), (96, 26, 1, 1), (96, 32, 8, 0x10000), (96, 48, 4, 128), (96, 52, 2, 1),
      (96, 88, 4, 192), (96, 92, 2, 1), (96, 128, 2, 6), (96, 130, 2, 1), (96, 192, 8, 0x10000), (96, 200, 8, 4096), (96, 208, 1, 1)].foldl
        (fun m (e : Nat × Nat × Nat × Nat) => writeBytes m (4096 * e.1 + e.2.1) (toBytes e.2.2.1 e.2.2.2)) [] }

/-- A partition with one launch descriptor at 0x60000 in its queue 0. -/
def headPart : Partition where
  crews := 1
  drays := 2
  vdlist := #v[1, 255, 255, 255, 255, 255, 255, 255]
  ctlpage := 0x50000
  vdsched := 1
  queues := #v[{ rbase := 0x60000, log2n := 4, tail := 1, tailaddr := 0x58000 }, {}, {}, {}]

/-- The strand with a launch of one core, slot 0, at the head of its partition's queue 0, and cores 5 and 6 enabled. -/
def heading (x : Strand) : State :=
  { on x with
    cores := [(5, { enabled := true }), (6, { enabled := true })]
    parts := [(0, headPart)]
    mem := [(0, 8, 0x2000), (8, 8, 7), (16, 2, 3), (18, 2, 4), (20, 8, 2 ^ 64 - 1), (30, 2, 1), (32, 2, 1)].foldl
      (fun m (e : Nat × Nat × Nat) => writeBytes m (0x60000 + e.1) (toBytes e.2.1 e.2.2)) [] }

/-- The strand at supervisor level beside a runnable one of its launch, core 5 slot 1. -/
def beside (x : Strand) : State :=
  { on x with
    strands := [(80, { x with slot := .runnable, launch := some 1048576 }), (81, { slot := .runnable, launch := some 1048576 })]
    frames := [(64, { owner := 1, assigned := true })] }

/-- The strand at supervisor level with a strand of its launch saved at 0x40000, to be loaded into slot 1. -/
def loading (x : Strand) : State :=
  { on x with
    strands := [(80, { x with slot := .runnable, launch := some 1048576 }), (32848, { slot := .preempted, launch := some 1048576 })]
    frames := [(64, { owner := 1, assigned := true })]
    mem := writeBytes [] 0x40000 [9, 0, 0, 0, 0, 16]
    saved := [(0x40000, { state := .runnable, launch := 1048576, part := some 0, vd := 1, slot := 1, core := 5, ghost := 32848, image := [9, 0, 0, 0, 0, 16] })] }

/-- The coach-level strand with a record of 64 bytes in near memory. -/
def keyed (x : Strand) (r : Nat) : State := { on x with mem := writeBytes [] 0x61000 (toBytes 64 r) }

/-- The strand parked. -/
def parkedAt (w : Park) : State :=
  { base with strands := [(80, { slot := .parked w, launch := some 1048576 })] }

/-- A word of the vector queue that was issued a turn before. -/
def queuedWord : VEntry := { seq := 8, pc := 0x1000, turn := 144, vl := 16, op := .alu .add 1 2 3 0 .e32 }

/-- A Harp command of the strand that may start at a cycle. -/
def command (op : HarpOp) (n : Nat) : HarpCmd :=
  { id := 9, core := 5, sid := 80, seq := 7, pc := 0x1000, turn := 144, start := n, launch := some 1048576, t := 3, op := op, scored := false }

/-- The strand's core with that command alone in its queue. -/
def commanding (q : HarpCmd) : State := { on { tvec := 0x8000 } with cores := [(5, { harpq := [q] })] }

/-- An access of the strand to near memory. -/
def physAccess (k : AccKind) (d : Option Dst) (e : Elem) : Access :=
  { spadAccess k d with place := .phys, cycles := [[e]], left := 0, bound := 4096, ea := 0x10040, cached := false }

/-- The strand with that access in flight. -/
def reaching (k : AccKind) (d : Option Dst) (e : Elem) : State :=
  { on { seq := 8, tvec := 0x8000, pend := [⟨3, 150, .g 4, none, 0, none, false⟩] } with accesses := [(7, physAccess k d e)] }

/-- A strand of the launch that has been pre-empted from slot 0 of core 5, which stands free. -/
def resumable (x : Strand) : State :=
  { on x with
    strands := [(32848, { x with slot := .preempted, launch := some 1048576 })]
    cores := [(5, { enabled := true })]
    parts := [(0, headPart)]
    hwSaved := [{ state := .runnable, launch := 1048576, part := some 0, vd := 1, slot := 0, core := 5, ghost := 32848 }] }

/-- An HZERO of tile 3 whose row r is the next to be cleared. -/
def clearing (r : Nat) : State := { base with runs := [(9, ⟨80, 7, 0x1000, 5, 3, .clear, r, 128, some 144, none, 0⟩)] }

/-- A ticket of a route, tagged under the route key of zero, which is out of the first site by its east side, or to deliver there. -/
def genuineTicket (route kind base len : Nat) : Ticket :=
  ticket kind base len + BitVec.ofNat 512 (route + 2 ^ 384 * if route = 0x41 then 16078569133118575371 else 8506382825462650117)

/-- Packet 7 alone, with port 0 of the site of core 5 open for VD 1. -/
def carrying (p : Packet) : State :=
  { on {} with packets := [(7, p)], ports := [(portKey 1 5 0, { isOpen := true, ovd := 1 })] }

/-- A packet at the site of core 5. -/
def standing (t : Ticket) (q : Req) : Packet := { ticket := t, x := 1, y := 5, req := q, op := 4, vd := 1, part := some 0, core := 5 }

/-- An operation of the strand without an outcome. -/
def operating (o : FabOp) : State := { on { seq := 8, pend := [⟨3, 150, .g 4, none, 0, none, false⟩] } with ops := [(4, o)] }

/-- A Dray with one command. -/
def draying (c : DrayCmd) : State := { on {} with drays := [(1, { cmds := [c] })] }

/-- A queue pair of VD 1 under a strand that posts from near memory at 0x40040. -/
def posting (x : Strand) (q : Qp) (blk : Nat) : State :=
  { mapped x with qps := [(3, q)], mem := writeBytes [] 0x40040 (toBytes 64 blk) }

/-- The scored launch with a timed FILL of n units that starts at LCY 158. -/
def timedFill (n : Nat) : State :=
  { scoredOn {} with launches := [(1048576, { st := .running, scored := true, lcy := some 160, part := some 0, vd := 1, cores := [(5, 1)]
                                              units := [(0, .active)]
                                              drays := [{ block := toBytes 64 (2 ^ 133 * n + 2 ^ 320 * 158 + 2 ^ 352 * 8), bar := 0, dray := 1, fn := 5, core := 5 }] })] }

/-- Migration slot 2 with its copy as Dray 1's command, at byte n of its page. -/
def migrating (n : Nat) : State :=
  { on {} with mig := [(2, { state := 1, vd := 1, vpn := 16, old := 64, new := 65, ptr := n, dray := 1, seq := 7 })]
               drays := [(1, { cmds := [{ seq := 7, mig := some 2, running := true }] })] }

/-- The strand waits for the advance of port 0 of the site of core 5. -/
def closingPort (x : Strand) : State :=
  { carrying {} with strands := [(80, { x with wait := some (.port (portKey 1 5 0) 0 7 8 176), slot := .runnable, launch := some 1048576 })] }

/-- A scored launch alone, of one core and slot, with some of its fields set. -/
def scoring (L : Launch) (x : Strand) (n : Nat) : State :=
  { base with
    pkg := { State.reset.pkg with locked := true, ency := n, nadm := 1 }
    strands := [(80, { x with launch := some 1048576 })]
    cores := [(5, { enabled := true, scored := true })]
    launches := [(1048576, { L with scored := true, part := some 0, vd := 1, cores := [(5, 1)], lid := 3 })] }

/-- The same with a control page whose request registers name it. -/
def requesting (L : Launch) : State :=
  { scoring L {} 0 with
    parts := [(0, headPart)]
    mem := writeBytes [] 0x50140 (toBytes 8 (3 + 2 ^ 16) ++ toBytes 8 3) }

/-- The launch queue of headPart with its tail n descriptors on. -/
def headTail (n : Nat) : LaunchQueue := { rbase := 0x60000, log2n := 4, tail := n, tailaddr := 0x58000 }

/-- A halted strand of a launch of two units. -/
def halted (x : Strand) : State :=
  { base with
    strands := [(80, { x with slot := .halted, launch := some 1048576 })]
    launches := [(1048576, { st := .running, lcy := some 160, part := some 0, vd := 1, cores := [(5, 1)], units := [(0, .active), (1, .active)] })] }

/-- A pre-empted scored launch with its image, to resume at bar 1. -/
def imaged (n : Nat) : State :=
  { scoring { st := .preempted, resumeAt := some 1, lcy := some 160 } {} n with images := [(1048576, {})] }

/-- A partition with a control page, a fault queue and a scheduled VD with an interrupt. -/
def served (x : Strand) : State :=
  { on x with
    vds := [(1, { state := 1, ring := [⟨3, 0, 7⟩] })]
    parts := [(0, { headPart with fqbase := 0x70000, overflow := [⟨0, 0, 0, 0, 0, 0, 0⟩] })]
    mem := writeBytes [] 0x50010 [1] }

/-- Stage 1 with one enabled core, whose slot 0 is in the boot wait, all of it counted, and a sum. -/
def booting (n : Nat) : State :=
  { State.reset with
    pkg := { State.reset.pkg with stage := 1, bootSum := some 9 }
    cores := [(5, { enabled := true })]
    strands := [(80, { slot := .parked .boot, launch := some 1048576 })]
    launches := [(1048576, { st := .running })]
    vds := [(0, { state := 1, cn := Vector.ofFn fun i => if i.val = 1 then { done := 1 } else if i.val = 2 then { done := BitVec.ofNat 32 n } else {} })] }

/-! ## Witnesses -/

theorem wit_EncodeOfDecode :
    decodeWord 0xC0531DD1 = .ok (.sub 5 6 7 ⟨3, true⟩ .w32) :=
  ok_of_some (by decide +kernel)

theorem wit_DecodeOfEncode :
    (Instr.hmmaSet 3 8 4 20 .n8).wellFormed = true ∧
    (encode (.hmmaSet 3 8 4 20 .n8)).isSome = true :=
  ⟨by decide +kernel,
    by decide +kernel⟩

theorem wit_PairsDecode :
    fld 0x08520804 31 1 = 0 ∧
    fld 0x40631400 31 1 = 0 ∧
    isCClass 0x08520804 = true ∧
    isCClass 0x40631400 = false ∧
    decodeWord 0x08520804 = .ok (.ld 5 4 .loc .w 4) ∧
    decodeWord 0x40631400 = .ok (.add 6 6 5 ⟨0, false⟩ .w64) ∧
    (∃ r : GReg, r ≠ 0 ∧ wordDest 0x08620804 = some r ∧ wordDest 0x40631400 = some r) ∧
    (¬ (∃ r : GReg, r ≠ 0 ∧ wordDest 0x08520804 = some r ∧ wordDest 0x40631400 = some r)) ∧
    fld 0x08520804 31 1 ≠ fld 0xC0531DD1 31 1 ∧
    fld 0x80000003 31 1 = 1 ∧
    (isCClass 0x40631400 && !isCClass 0x40631400) = false :=
  ⟨by decide +kernel,
    by decide +kernel,
    by decide +kernel,
    by decide +kernel,
    ok_of_some (by decide +kernel),
    ok_of_some (by decide +kernel),
    by decide +kernel,
    by decide +kernel,
    by decide +kernel,
    by decide +kernel,
    by decide +kernel⟩

theorem wit_StepAdvancesTheCycle :
    State.reset.takeInbox = none ∧
    State.reset.takeDue = none ∧
    State.reset.toIssue = [] :=
  ⟨by decide +kernel,
    by decide +kernel,
    by decide +kernel⟩

theorem wit_ResultsLand :
    Canonical (scoredOn { pend := [⟨3, 150, .g 4, some 7, BitVec.allOnes 65536, some 152, false⟩] }) ∧
    (scoredOn { pend := [⟨3, 150, .g 4, some 7, BitVec.allOnes 65536, some 152, false⟩] }).scored 80 = true ∧
    (scoredOn { pend := [⟨3, 150, .g 4, some 7, BitVec.allOnes 65536, some 152, false⟩] }).groupWritten 80 [.g 4] = none ∧
    ((scoredOn {}).core (coreOf 80)).csrPend = [] ∧
    152 ≤ (scoredOn {}).lcy 80 ∧
    (scoredOn {}).groupWritten 80 [.p 4] = none ∧
    (scoredOn {}).groupWritten 80 [.m 4] = none :=
  ⟨canonical_of (by decide +kernel),
    by decide +kernel,
    by decide +kernel,
    by decide +kernel,
    by decide +kernel,
    by decide +kernel,
    by decide +kernel⟩

theorem wit_AluWords :
    (on { g := gs [(1, 5), (2, 7)], p := 4 }).Ready { gd := ⟨2, false⟩, src := [.g 1, .g 2], dst := [.g 3] } ∧
    (on { g := gs [(1, 5), (2, 7)] }).Ready { src := [.g 1, .g 2, .p 3], dst := [.g 0] } ∧
    (on { g := gs [(1, 2 ^ 63)], p := 4 }).Ready { gd := ⟨3, true⟩, src := [.g 1], dst := [.g 3] } ∧
    low 64 (on { g := gs [(1, 2 ^ 63)] }) 1 = BitVec.intMin 64 :=
  ⟨ready_of (by decide +kernel),
    ready_of (by decide +kernel),
    ready_of (by decide +kernel),
    by decide +kernel⟩

theorem wit_ImmediateAndFieldWords :
    (on { g := gs [(1, 5)] }).Ready { src := [.g 1], dst := [.g 31] } ∧
    (on {}).Ready { dst := [.g 31] } ∧
    (on {}).Ready { src := [.g 31], dst := [.g 31] } ∧
    (on {}).Ready { src := [.g 31, .g 1], dst := [.g 31] } ∧
    (⟨0, by decide⟩ : Fin 64).val + (⟨63, by decide⟩ : Fin 64).val + 1 ≤ 64 :=
  ⟨ready_of (by decide +kernel),
    ready_of (by decide +kernel),
    ready_of (by decide +kernel),
    ready_of (by decide +kernel),
    by decide +kernel⟩

theorem wit_MultiplyAndDivide :
    (on { g := gs [(1, 5), (2, 2 ^ 32 + 1)] }).Ready { src := [.g 1, .g 2], dst := [.g 3] } ∧
    low 32 (on { g := gs [(2, 2 ^ 32 + 1)] }) 2 ≠ 0 :=
  ⟨ready_of (by decide +kernel),
    by decide +kernel⟩

theorem wit_DivisionEdges :
    (on { g := gs [(1, 2 ^ 31), (2, 2 ^ 32 - 1)] }).Ready { src := [.g 1, .g 2], dst := [.g 3] } ∧
    low 32 (on { g := gs [(1, 2 ^ 31), (2, 2 ^ 32)] }) 2 = 0 ∧
    low 32 (on { g := gs [(1, 2 ^ 31), (2, 2 ^ 32 - 1)] }) 1 = BitVec.intMin 32 ∧
    low 32 (on { g := gs [(1, 2 ^ 31), (2, 2 ^ 32 - 1)] }) 2 = BitVec.allOnes 32 ∧
    (low 32 (on { g := gs [(1, 2 ^ 32 - 7), (2, 2)] }) 1).toInt = -7 ∧
    (low 32 (on { g := gs [(1, 2 ^ 32 - 7), (2, 2)] }) 2).toInt = 2 ∧
    (on { g := gs [(1, 2 ^ 32 - 7), (2, 2)] }).Ready { src := [.g 1, .g 2], dst := [.g 0] } :=
  ⟨ready_of (by decide +kernel),
    by decide +kernel,
    by decide +kernel,
    by decide +kernel,
    by decide +kernel,
    by decide +kernel,
    ready_of (by decide +kernel)⟩

theorem wit_PredicateWords :
    (on { g := gs [(1, 5), (2, 7)] }).Ready { src := [.g 1, .g 2], dst := [.p 0] } ∧
    (on { p := 2 }).Ready { gd := ⟨1, false⟩, src := [.p 0, .p 7], dst := [.p 1] } :=
  ⟨ready_of (by decide +kernel),
    ready_of (by decide +kernel)⟩

theorem wit_GuardAndInterlock :
    (on {}).mustWait { gd := ⟨1, false⟩, src := [.g 1, .g 2], dst := [.g 3] } = false ∧
    (on {}).mustWait { gd := ⟨1, false⟩, src := [.g 1], dst := [.g 3] } = false ∧
    (on {}).mustWait { gd := ⟨1, false⟩, src := [.g 1, .g 2], dst := [.p 3] } = false ∧
    (on {}).mustWait { gd := ⟨1, false⟩, src := [.p 1, .p 2], dst := [.p 3] } = false ∧
    (on {}).mustWait { gd := ⟨1, false⟩ } = false ∧
    (on {}).me.guard ⟨1, false⟩ = false ∧
    (on {}).scored (on {}).cur.sid = false ∧
    (on {}).me.guard ⟨0, false⟩ = true ∧
    (⟨3, 150, .g 4, none, 0, none, false⟩ : Pend) ∈ (on { pend := [⟨3, 150, .g 4, none, 0, none, false⟩] }).me.pend ∧
    150 < (on {}).turn ∧
    (.g 4 : Dst) ∈ [.g 4, .g 2, .g 3, .p (⟨0, false⟩ : Guard).pr] :=
  ⟨by decide +kernel,
    by decide +kernel,
    by decide +kernel,
    by decide +kernel,
    by decide +kernel,
    by decide +kernel,
    by decide +kernel,
    by decide +kernel,
    by decide +kernel,
    by decide +kernel,
    by decide +kernel⟩

theorem wit_Transfers :
    (on {}).Ready { gd := ⟨0, false⟩ } ∧
    (on {}).Ready {} ∧
    (on {}).Ready { dst := [.g 31] } ∧
    (on { g := gs [(1, 0x2000)] }).Ready { src := [.g 1] } ∧
    (on { g := gs [(1, 0x2000)] }).Ready { src := [.g 1], dst := [.g 31] } ∧
    (on { g := gs [(1, 0x2000)] }).rg 1 &&& 3#64 = 0 ∧
    (on { g := gs [(1, 0x2002)] }).Ready { src := [.g 1] } ∧
    (on { g := gs [(1, 0x2002)] }).rg 1 &&& 3#64 ≠ 0 :=
  ⟨ready_of (by decide +kernel),
    ready_of (by decide +kernel),
    ready_of (by decide +kernel),
    ready_of (by decide +kernel),
    ready_of (by decide +kernel),
    by decide +kernel,
    ready_of (by decide +kernel),
    by decide +kernel⟩

theorem wit_HintsAndHalt :
    (on {}).Ready {} ∧
    (on {}).Ready { outward := true } ∧
    (on {}).me.launch = some 1048576 ∧
    ({ on {} with strands := [(80, { slot := .runnable })], parts := [] } : State).Ready { outward := true } ∧
    ({ on {} with strands := [(80, { slot := .runnable })], parts := [] } : State).me.launch = none ∧
    ({ on {} with strands := [(80, { slot := .runnable })], parts := [] } : State).partOf 5 = none :=
  ⟨ready_of (by decide +kernel),
    ready_of (by decide +kernel),
    by decide +kernel,
    ready_of (by decide +kernel),
    by decide +kernel,
    by decide +kernel⟩

theorem wit_TrapEntersHandler :
    Canonical (on { tvec := 0x8000 }) ∧
    (on { tvec := 0x8000 }).Ready {} ∧
    (on { tvec := 0x8000 }).scored (on { tvec := 0x8000 }).cur.sid = false ∧
    (on { tvec := 0x8000 }).me.leaving = none ∧
    (on { tvec := 0x8000 }).me.oldestVec = none ∧
    (on { tvec := 0x8000 }).me.priv ≤ 1 ∧
    (on { tvec := 0x8000 }).me.tvec ≠ 0 ∧
    (on { tvec := 0x8000 }).me.estat.getLsbD 2 = false :=
  ⟨canonical_of (by decide +kernel),
    ready_of (by decide +kernel),
    by decide +kernel,
    by decide +kernel,
    by decide +kernel,
    by decide +kernel,
    by decide +kernel,
    by decide +kernel⟩

theorem wit_TrapsTaken :
    (on { tvec := 0x8000 }).scored 80 = false ∧
    ((on { tvec := 0x8000 }).strand 80).leaving = none ∧
    ((on { tvec := 0x8000 }).strand 80).estat.getLsbD 2 = false ∧
    ((on { tvec := 0x8000 }).strand 80).priv ≤ 1 ∧
    ((on { tvec := 0x8000 }).strand 80).tvec ≠ 0 ∧
    ((on { priv := 2 }).strand 80).priv = 2 ∧
    Canonical (on { priv := 2, estat := 4 }) ∧
    (on { priv := 2, estat := 4 }).scored 80 = false ∧
    ((on { priv := 2, estat := 4 }).strand 80).leaving = none ∧
    ((on { priv := 2, estat := 4 }).strand 80).priv = 2 ∧
    ((on { priv := 2, estat := 4 }).strand 80).estat.getLsbD 2 = true ∧
    ((({ cause := 14 } : TrapInfo).cause ≠ 10 ∧ ({ cause := 14 } : TrapInfo).cause ≠ 11 ∧ ({ cause := 14 } : TrapInfo).cause ≠ 12)) :=
  ⟨by decide +kernel,
    by decide +kernel,
    by decide +kernel,
    by decide +kernel,
    by decide +kernel,
    by decide +kernel,
    canonical_of (by decide +kernel),
    by decide +kernel,
    by decide +kernel,
    by decide +kernel,
    by decide +kernel,
    by decide +kernel⟩

theorem wit_EretReturns :
    Canonical (on { priv := 1, epc := 0x3000 }) ∧
    (on { priv := 1, epc := 0x3000 }).Ready { level := 1, src := [.csr 0x21, .csr 0x24] } ∧
    (on { priv := 1, epc := 0x3000 }).me.oldestVec = none ∧
    ((on { priv := 1, epc := 0x3000 }).me.estat &&& 3#8).toNat ≤ 1 ∧
    (on { priv := 1, epc := 0x3000 }).me.epc &&& 3#64 = 0 ∧
    (on { priv := 1, epc := 0x3002 }).me.epc &&& 3#64 ≠ 0 ∧
    (on { priv := 1, epc := 0x3002 }).Ready { level := 1, src := [.csr 0x21, .csr 0x24] } ∧
    (on { priv := 1, estat := 2 }).Ready { level := 1, src := [.csr 0x21, .csr 0x24] } ∧
    (on { priv := 1, estat := 2 }).me.priv < ((on { priv := 1, estat := 2 }).me.estat &&& 3#8).toNat ∧
    ((on { priv := 2, estat := 3 }).me.estat &&& 3#8).toNat = 3 ∧
    (on { priv := 2, estat := 3 }).Ready { level := 1, src := [.csr 0x21, .csr 0x24] } :=
  ⟨canonical_of (by decide +kernel),
    ready_of (by decide +kernel),
    by decide +kernel,
    by decide +kernel,
    by decide +kernel,
    by decide +kernel,
    ready_of (by decide +kernel),
    ready_of (by decide +kernel),
    by decide +kernel,
    by decide +kernel,
    ready_of (by decide +kernel)⟩

theorem wit_PrivilegedWordsTrap :
    (on {}).me.priv = 0 ∧
    (Instr.eret) ∈ [Instr.eret, .tune 1] ∧
    ((0x20 ≤ (⟨0x20, by decide⟩ : Fin 512).val ∧ (⟨0x25, by decide⟩ : Fin 512).val ≤ 0x25)) :=
  ⟨by decide +kernel,
    by decide +kernel,
    by decide +kernel⟩

theorem wit_TimeWords :
    (on { g := gs [(1, 176)] }).Ready { src := [.g 1] } ∧
    ((on { g := gs [(1, 176)] }).rg 1 + (BitVec.ofNat 12 0).signExtend 64).toNat ≤ (on {}).turn + 16 ∧
    (¬ ((on { g := gs [(1, 176)] }).rg 1 + (BitVec.ofNat 12 1).signExtend 64).toNat ≤ (on {}).turn + 16) ∧
    (on {}).Ready {} ∧
    (on {}).scored 80 = false ∧
    (scoredOn {}).Ready {} ∧
    (scoredOn {}).scored (scoredOn {}).cur.sid = true ∧
    (tget 0 3 ((look 1048576 ((scoredOn {}).core 5).cues).getD [])).getLsbD 31 = false ∧
    (tget 0 3 ((look 1048576 ((cued {}).core 5).cues).getD [])).getLsbD 31 = true ∧
    (tget 0 3 ((look 1048576 ((cued {}).core 5).cues).getD [])).toNat % 4096 = (cued {}).turn ∧
    (cued {}).Ready {} ∧
    (on { priv := 2, g := gs [(1, 0)] }).Ready { level := 2, src := [.g 1] } :=
  ⟨ready_of (by decide +kernel),
    by decide +kernel,
    by decide +kernel,
    ready_of (by decide +kernel),
    by decide +kernel,
    ready_of (by decide +kernel),
    by decide +kernel,
    by decide +kernel,
    by decide +kernel,
    by decide +kernel,
    ready_of (by decide +kernel),
    ready_of (by decide +kernel)⟩

theorem wit_CsrAccesses :
    csrLevels 0x10 = some (0, none) ∧
    (on {}).Ready { level := 0, src := csrSrc 0x10, dst := [.g 3] } ∧
    csrLevels 0x21 = some (1, some 1) ∧
    (on { priv := 1 }).Ready { level := 1, src := csrSrc 0x21, dst := [.g 3] } ∧
    (on { priv := 1 }).Ready { level := 1, src := [.g 2], dst := [.csr 0x21] } ∧
    (on { priv := 1 }).Ready { level := 1, src := .g 2 :: csrSrc 0x21, dst := [.g 3, .csr 0x21] } ∧
    csrLevels 0x1FF = none :=
  ⟨by decide +kernel,
    ready_of (by decide +kernel),
    by decide +kernel,
    ready_of (by decide +kernel),
    ready_of (by decide +kernel),
    ready_of (by decide +kernel),
    by decide +kernel⟩

theorem wit_StepRunsLoneWord :
    let s := State.reset.withFetchWord 32 0xC25280FF
    s.takeInbox = none ∧ s.takeDue = none ∧ s.toIssue = 15360 :: [] ∧
    ∃ u v w, State.toFetch { s with toIssue := [] } 15360 = .ok u ∧
      u.fetchPair 15360 ((u.strand 15360).pc.toNat / 8 * 8) = (v, .ok w) ∧
      decide ((u.strand 15360).pendingTrap = none ∧ (decodePair w.1 w.2).toOption = some (.lone w.1 w.2) ∧
        (decodeWord (if (u.strand 15360).pc.getLsbD 2 then w.2 else w.1)).toOption = some (.addi 5 5 255)) = true := by
  refine ⟨?_, ?_, ?_, fetches (fun u _ w => decide ((u.strand 15360).pendingTrap = none ∧
    (decodePair w.1 w.2).toOption = some (.lone w.1 w.2) ∧
    (decodeWord (if (u.strand 15360).pc.getLsbD 2 then w.2 else w.1)).toOption = some (.addi 5 5 255))) ?_⟩ <;> decide +kernel

theorem wit_StepRunsJoinedPair :
    let s := State.reset.withFetchWord 32 0x40631400
    let runs (u v : State) (w : Nat × Nat) : Bool :=
      let t := v.issued ⟨15360, BitVec.ofNat 64 ((u.strand 15360).pc.toNat / 8 * 8), false, true, BitVec.ofNat 32 w.1⟩
      decide ((u.strand 15360).pendingTrap = none ∧ (u.strand 15360).pc.getLsbD 2 = false ∧ (u.strand 15360).heldLoop = none ∧
        (decodePair w.1 w.2).toOption = some (.joined w.1 w.2) ∧ (decodeWord w.1).toOption = some .nop ∧
        (decodeWord w.2).toOption = some (.add 6 6 5 ⟨0, false⟩ .w64)) &&
      match exec .nop (t.position false w.1) with
      | .next p => decide (p.last = .done) && match exec (.add 6 6 5 ⟨0, false⟩ .w64) (p.position true w.2) with
        | .next q => decide (q.last = .done)
        | _ => false
      | _ => false
    s.takeInbox = none ∧ s.takeDue = none ∧ s.toIssue = 15360 :: [] ∧
    ∃ u v w, State.toFetch { s with toIssue := [] } 15360 = .ok u ∧
      u.fetchPair 15360 ((u.strand 15360).pc.toNat / 8 * 8) = (v, .ok w) ∧ runs u v w = true := by
  intro s runs
  refine ⟨?_, ?_, ?_, fetches runs ?_⟩ <;> decide +kernel

/-- An outcome that is a next state. -/
theorem goes_on {o : Host.Outcome State Fault Refusal} (h : (match o with | .next _ => true | _ => false) = true) :
    ∃ t, o = .next t := by
  match o, h with
  | .next t, _ => exact ⟨t, rfl⟩

theorem wit_StepKeepsCanonical : Canonical State.reset ∧ (∃ t, step State.reset = .next t) ∧
    Canonical (State.reset.withFetchWord 32 0xC25280FF) ∧ ∃ t, step (State.reset.withFetchWord 32 0xC25280FF) = .next t := by
  refine ⟨?_, ?_, ?_, ?_⟩ <;> first | exact canonical_of (by decide +kernel) | exact goes_on (by decide +kernel)


theorem wit_ScalarAccesses :
    (on { g := gs [(1, 64)] }).Ready { src := [.g 1], dst := [.g 3] } ∧
    (on { g := gs [(1, 64)] }).Ready { src := [.g 3, .g 1], outward := true } ∧
    (on { g := gs [(1, 64)] }).Ready { src := [.g 1, .g 2, .g 3], dst := [.g 3], outward := true } ∧
    (scoredOn {}).scored (scoredOn {}).cur.sid = true ∧
    (scoredOn {}).Ready { src := [.g 1], dst := [.g 3] } ∧
    memAddr ((on { g := gs [(1, 65)] }).rg 1) 0 4 % 4 ≠ 0 ∧
    (on { g := gs [(1, 65)] }).Ready { src := [.g 1], dst := [.g 3] } ∧
    Canonical (on { g := gs [(1, 64)] }) ∧
    (∃ u x, (on { g := gs [(1, 64)] }).checkAccess 80 .loc (memAddr ((on { g := gs [(1, 64)] }).rg 1) 0 4) 4 .read .plain = (u, .ok x) ∧ decide (x.cycles = [[⟨0, 5 * 524288 + 64, 0, 0, 0, 0, false, none⟩]] ∧ u.vectorHolds x = false ∧ x.cached = false ∧ x.place = .spad 5) = true) ∧
    (∃ u x, (on { g := gs [(1, 64)] }).checkAccess 80 .loc (memAddr ((on { g := gs [(1, 64)] }).rg 1) 0 4) 4 .write .plain = (u, .ok x) ∧ decide (x.cycles = [[⟨0, 5 * 524288 + 64, 0, 0, 0, 0, false, none⟩]] ∧ u.vectorHolds x = false ∧ x.place = .spad 5) = true) ∧
    (∃ u x, (mapped { g := gs [(1, 0x10040)] }).checkAccess 80 .vir 0x10040 8 .write .atomic = (u, .ok x) ∧ decide (x.cycles = [[⟨0, 0x40040, 0, 0, 0, 0, true, none⟩]] ∧ u.vectorHolds x = false ∧ x.place = .phys ∧ isHost 0x40040 = false) = true) ∧
    (∃ u x, (mapped { g := gs [(1, 0x10040)] }).checkAccess 80 .vir 0x10040 4 .read .plain = (u, .ok x) ∧ decide (x.cycles = [[⟨0, 0x40040, 0, 0, 0, 0, true, none⟩]] ∧ u.vectorHolds x = false ∧ x.cached = true ∧ (u.core 5).l1 = []) = true) :=
  ⟨ready_of (by decide +kernel),
    ready_of (by decide +kernel),
    ready_of (by decide +kernel),
    by decide +kernel,
    ready_of (by decide +kernel),
    by decide +kernel,
    ready_of (by decide +kernel),
    canonical_of (by decide +kernel),
    passes _ (by decide +kernel),
    passes _ (by decide +kernel),
    passes _ (by decide +kernel),
    passes _ (by decide +kernel)⟩

theorem wit_ScratchpadAccesses :
    Canonical (accessing .store none) ∧
    (accessing .store none).access 7 = some (spadAccess .store none) ∧
    (spadAccess .store none).bytes ∈ [1, 2, 4, 8] ∧
    ((accessing .store none).accessCycle (spadAccess .store none)).isSome = true ∧
    (accessing .store none).accessWaits 7 (spadAccess .store none) = false ∧
    ((accessing .store none).strand 80).slot ≠ .idle ∧
    ((spadAccess .store none).cycles = [[⟨0, 5 * 524288 + 64, 0xAABBCCDD, 0, 0, 0, false, none⟩]] ∧ (5 * 524288 + 64) % 524288 + 4 ≤ 524288) ∧
    (accessing (.amo .cas) (some (.g 4))).access 7 = some (spadAccess (.amo .cas) (some (.g 4))) ∧
    ((accessing (.amo .cas) (some (.g 4))).accessCycle (spadAccess (.amo .cas) (some (.g 4)))).isSome = true ∧
    (⟨3, 150, .g 4, none, 0, none, false⟩ : Pend) ∈ ((accessing .load (some (.g 4))).strand 80).pend ∧
    ((accessing .load (some (.g 4))).accessCycle (spadAccess .load (some (.g 4)))).isSome = true ∧
    ({ spadAccess .store none with scored := true } : Access).scored = true :=
  ⟨canonical_of (by decide +kernel),
    by decide +kernel,
    by decide +kernel,
    by decide +kernel,
    by decide +kernel,
    by decide +kernel,
    by decide +kernel,
    by decide +kernel,
    by decide +kernel,
    by decide +kernel,
    by decide +kernel,
    by decide +kernel⟩

theorem wit_MemoryWrites :
    Canonical base ∧
    base.ckpt.remap = [] ∧
    base.ckpt.state ≠ 2 ∧
    (∀ i, i < [(1 : Byte), 2, 3].length → base.ctlAt (0x1FFF + i) = none) :=
  ⟨canonical_of (by decide +kernel),
    by decide +kernel,
    by decide +kernel,
    by decide +kernel⟩

theorem wit_CacheAndFenceWords :
    Canonical (mapped { g := gs [(1, 0x10040)] }) ∧
    (scoredOn {}).Ready { src := [.g 1] } ∧
    (mapped { g := gs [(1, 0x10040)] }).Ready { src := [.g 1] } ∧
    (∃ u x, (mapped {}).checkAccess 80 .vir 0x10040 1 .read .plain = (u, .ok x) ∧ decide (x.cycles = [[⟨0, 0x40040, 0, 0, 0, 0, true, none⟩]] ∧ u.vectorHolds x = false ∧ x.cached = true) = true) ∧
    (mapped { g := gs [(1, 0x10040)] }).Ready { src := [.g 1], outward := true } ∧
    (∃ u x, ({ mapped {} with mc := [⟨0x800, 1, none, 0, true, 0⟩] } : State).checkAccess 80 .vir 0x10040 1 .read .touch = (u, .ok x) ∧ decide (x.cycles = [[⟨0, 0x40040, 0, 0, 0, 0, true, none⟩]] ∧ u.vectorHolds x = false ∧ u.migrate x.vd 0x40040 = some 0x40040 ∧ (∃ l ∈ u.mc, l.line = 0x40040 / 128 ∧ l.dirty = true) ∧ isNear 0x40040 = true) = true) ∧
    (∃ u x, ({ mapped {} with mc := [⟨0x800, 1, none, 0, false, 0⟩] } : State).checkAccess 80 .vir 0x10040 1 .read .touch = (u, .ok x) ∧ decide (x.cycles = [[⟨0, 0x40040, 0, 0, 0, 0, true, none⟩]] ∧ u.vectorHolds x = false ∧ u.migrate x.vd 0x40040 = some 0x40040 ∧ (∀ l ∈ u.mc, l.line = 0x40040 / 128 → l.dirty = false) ∧ (∀ o ∈ u.accesses, o.2.sid ≠ 80)) = true) ∧
    (∃ u x, ({ mapped {} with frames := [(64, { owner := 195, assigned := true })], keys := [(195, { valid := true, owner := 1, peer := 2, base := 64, pages := 1 })] } : State).checkAccess 80 .vir 0x10040 1 .read .touch = (u, .ok x) ∧ decide (x.cycles = [[⟨0, 0x40040, 0, 0, 0, 0, false, some (3, true)⟩]] ∧ (u.key x.vd).inthold = false ∧ (u.key (192 + 3)).pubgen ≠ 2 ^ 31 - 1 ∧ u.checksPending x.vd = false ∧ u.vectorHolds x = false) = true) ∧
    (scoredOn {}).Ready { dst := [.g 5], outward := true } ∧
    (⟨16, by decide⟩ : Fin 64).val.testBit 4 = true ∧
    (accessing .store none).fenceDone 80 (accessing .store none).seqNo .cluster 63 = false ∧
    (on {}).fenceDone 80 (on {}).seqNo .cluster 63 = true ∧
    (on {}).Ready { dst := [.g 5], outward := true } ∧
    (accessing .store none).Ready { dst := [.g 5], outward := true } :=
  ⟨canonical_of (by decide +kernel),
    ready_of (by decide +kernel),
    ready_of (by decide +kernel),
    passes _ (by decide +kernel),
    ready_of (by decide +kernel),
    passes _ (by decide +kernel),
    passes _ (by decide +kernel),
    passes _ (by decide +kernel),
    ready_of (by decide +kernel),
    by decide +kernel,
    by decide +kernel,
    by decide +kernel,
    ready_of (by decide +kernel),
    ready_of (by decide +kernel)⟩

theorem wit_TicketWords :
    Canonical (on { tk := tks [(3, ticket 1 16 4)], g := gs [(1, 64), (2, 2 + 4 * 7)] }) ∧
    (on { tk := tks [(3, ticket 1 16 4)] }).Ready { src := [.tk 3], dst := [.tk 4] } ∧
    (on { tk := tks [(3, ticket 1 16 4)] }).me.rtk 3 ≠ 0 ∧
    (on {}).me.rtk 3 = 0 ∧
    (on { tk := tks [(3, ticket 1 16 4)] }).Ready { src := [.tk 3], dst := [.g 5] } ∧
    (on { tk := tks [(3, ticket 1 16 4)], g := gs [(2, 2 + 4 * 7)] }).Ready { src := [.tk 3, .g 2], dst := [.tk 3, .g 5] } ∧
    (tknar (ticket 1 16 4) (2 + 4 * 7)).1 = 0 ∧
    (tknar (ticket 1 16 4) 4).1 ≠ 0 ∧
    (tkEff (ticket 1 16 4 - BitVec.ofNat 512 (2 ^ 131 * 64))).rights.testBit 6 = false ∧
    (on { g := gs [(1, 64)] }).Ready { src := [.g 1], dst := [.tk 3], outward := true } ∧
    (∃ u x, (on { g := gs [(1, 64)] }).checkAccess 80 .loc 64 64 .read .plain = (u, .ok x) ∧ decide (x.cycles = [[⟨0, 5 * 524288 + 64, 0, 0, 0, 0, false, none⟩]] ∧ u.vectorHolds x = false) = true) ∧
    (on { tk := tks [(3, ticket 1 16 4)], g := gs [(1, 64)] }).Ready { src := [.tk 3, .g 1], outward := true } ∧
    (tkEff (ticket 1 16 4 - BitVec.ofNat 512 (2 ^ 131 * 32))).rights.testBit 5 = false ∧
    (tkEff (ticket 1 16 4)).rights.testBit 5 = true ∧
    (∃ u x, (on { g := gs [(1, 64)] }).checkAccess 80 .loc 64 64 .write .plain = (u, .ok x) ∧ decide (x.cycles = [[⟨0, 5 * 524288 + 64, 0, 0, 0, 0, false, none⟩]] ∧ u.vectorHolds x = false ∧ x.place = .spad 5) = true) :=
  ⟨canonical_of (by decide +kernel),
    ready_of (by decide +kernel),
    by decide +kernel,
    by decide +kernel,
    ready_of (by decide +kernel),
    ready_of (by decide +kernel),
    by decide +kernel,
    by decide +kernel,
    by decide +kernel,
    ready_of (by decide +kernel),
    passes _ (by decide +kernel),
    ready_of (by decide +kernel),
    by decide +kernel,
    by decide +kernel,
    passes _ (by decide +kernel)⟩

theorem wit_NarrowingNeverWidens :
    2 + 4 * 7 < 2 ^ 64 ∧
    (tknar (ticket 1 16 4) (2 + 4 * 7)).1 = 0 ∧
    (tkEff (ticket 1 16 4)).bad = false ∧
    (tknar (ticket 1 16 4) (3 + 4 * 99)).1 = 0 ∧
    (tkEff (tknar (ticket 1 16 4) (3 + 4 * 99)).2).expiry = some 99 :=
  ⟨by decide +kernel,
    by decide +kernel,
    by decide +kernel,
    by decide +kernel,
    by decide +kernel⟩

theorem wit_VectorWordsQueue :
    Canonical (on { vl := 16 }) ∧
    (on { vl := 16 }).Ready { vec := true, src := [.vl] } ∧
    (on { vl := 16 }).Ready { vec := true, src := [.vl, .g 2], dst := [.g 3] } ∧
    (on { vl := 16 }).Ready { vec := true, src := [.vl, .g 2, .g 3] } ∧
    Room (on { vl := 16 }) (.alu .add 1 2 3 0 .e32) ∧
    Room (on { vl := 16 }) (.extr 3 1 0 .e32) ∧
    (⟨27, by decide⟩ : Fin 32).val ≤ 27 ∧
    (⟨12, by decide⟩ : Fin 32).val ∈ [2, 4, 9, 12] ∧
    fmtIsMx (⟨22, by decide⟩ : Fin 32) = true ∧
    (on {}).scored 80 = false ∧
    (scoredOn {}).scored 80 = true ∧
    (scoredOn {}).isVector 80 = true :=
  ⟨canonical_of (by decide +kernel),
    ready_of (by decide +kernel),
    ready_of (by decide +kernel),
    ready_of (by decide +kernel),
    room_of (by decide +kernel),
    room_of (by decide +kernel),
    by decide +kernel,
    by decide +kernel,
    by decide +kernel,
    by decide +kernel,
    by decide +kernel,
    by decide +kernel⟩

theorem wit_VectorControl :
    Canonical (on { g := gs [(1, 5000), (2, 16)] }) ∧
    (on { g := gs [(1, 5000), (2, 16)] }).me.collect = none ∧
    (on { g := gs [(1, 5000), (2, 16)] }).Ready { vec := true, src := [.g 1], dst := [.g 3, .vl] } ∧
    ((on { seq := 9, vq := [.one ⟨8, 0x1000, 150, 16, .alu .add 1 2 3 0 .e32, Vector.replicate 8 0⟩] }).me.oldestVec = some 8 ∧ 8 < (on { seq := 9 }).seqNo) ∧
    (on { seq := 9, vq := [.one ⟨8, 0x1000, 150, 16, .alu .add 1 2 3 0 .e32, Vector.replicate 8 0⟩] }).Ready { vec := true } ∧
    (on {}).me.oldestVec = none ∧
    (on { g := gs [(1, 5000), (2, 16)] }).Ready { vec := true, src := [.g 1], dst := [.g 3] } ∧
    (on { g := gs [(1, 5000), (2, 16)] }).me.returning < 8 ∧
    (on { g := gs [(1, 5000), (2, 16)] }).Ready { vec := true, src := [.g 1, .g 2], dst := [.st 1] } ∧
    ((on { g := gs [(1, 5000), (2, 16)] }).rg 1).toNat < 2 ^ 57 ∧
    (scoredOn {}).Ready { vec := true, src := [.g 1, .g 2], dst := [.st 1] } :=
  ⟨canonical_of (by decide +kernel),
    by decide +kernel,
    ready_of (by decide +kernel),
    by decide +kernel,
    ready_of (by decide +kernel),
    by decide +kernel,
    ready_of (by decide +kernel),
    by decide +kernel,
    ready_of (by decide +kernel),
    by decide +kernel,
    ready_of (by decide +kernel)⟩

theorem wit_VectorIntegers :
    2048 ≤ 2048 ∧
    Nat.min 16 (2048 * 32 / EW.e32.bits) = 16 ∧
    (({} : Strand).rm 0).getLsbD 15 = true :=
  ⟨by decide +kernel,
    by decide +kernel,
    by decide +kernel⟩

theorem wit_HarpWordsQueue :
    Canonical (on { g := gs [(2, 0xFFFFFFFFFFFFF800), (3, 0)] }) ∧
    Owns (on {}) [15] ∧
    (on { g := gs [(2, 0xFFFFFFFFFFFFF800), (3, 0)] }).Ready { src := [.g (2 + 1)], outward := true } ∧
    (on { g := gs [(2, 0xFFFFFFFFFFFFF800), (3, 0)] }).Ready { src := [.g 2, .g (2 + 1)], outward := true } ∧
    (on { g := gs [(2, 0xFFFFFFFFFFFFF800)] }).rg 2 = (((on { g := gs [(2, 0xFFFFFFFFFFFFF800)] }).rg 2).setWidth 12).signExtend 64 ∧
    (on { g := gs [(2, 0x800)] }).rg 2 ≠ (((on { g := gs [(2, 0x800)] }).rg 2).setWidth 12).signExtend 64 ∧
    ((on {}).core 5).harpq.length < 8 ∧
    32 ≤ ((scoredOn { g := gs [(3, 32)] }).rg 3).toNat % 2 ^ 16 ∧
    (on { vl := 2048, g := gs [(2, 7 * 2 ^ 19)] }).Ready { vec := true, src := [.vl, .g 2, .g (2 + 1)], outward := true } ∧
    (on { vl := 2048, g := gs [(2, 7 * 2 ^ 19)] }).me.collect = none ∧
    descBad ((on { vl := 2048, g := gs [(2, 7 * 2 ^ 19)] }).rg 2) 9 true false = false ∧
    descBad ((on { vl := 2048, g := gs [(2, 7 * 2 ^ 19)] }).rg 2) 9 false true = false ∧
    2 * Nat.min (on { vl := 2048 }).me.vlen ((on { vl := 2048 }).vlmax32 80) % 4096 = 0 ∧
    2 * Nat.min (on { vl := 2048 }).me.vlen ((on { vl := 2048 }).vlmax32 80) / 128 ≠ 0 ∧
    30 + 1 * Grp.size .n2 ≤ 32 ∧
    (descOf (7 * 2 ^ 19)).soff + (descOf (7 * 2 ^ 19)).mr * (32 / 32) * (descOf (7 * 2 ^ 19)).slab ≤ 524288 ∧
    crewCols (crewOf 5) (descOf (7 * 2 ^ 19)).mc = 1 ∧
    15 + (descOf (7 * 2 ^ 19)).mr * 1 ≤ 16 ∧
    fmtIsAsym 29 = true ∧
    Owns (on {}) ((List.range ((descOf (7 * 2 ^ 19)).mr * 1)).map (15 + ·)) ∧
    (on { vl := 2048, g := gs [(2, 7 * 2 ^ 19)] }).Ready { vec := true, src := [.vl, .g 2, .g (2 + 1)] } ∧
    Room (on { vl := 2048, g := gs [(2, 7 * 2 ^ 19)] }) (.hplane 0 (7 * 2 ^ 19) 0 9 2) ∧
    descBad (7 * 2 ^ 19) 9 false false = false ∧
    (0x7F7F7F : Word) &&& 0x7F7F7F#64 = 0x7F7F7F ∧
    (VOp.hplane 0 (7 * 2 ^ 19) 0 9 2).len 2048 2048 % 32 = 0 ∧
    (on { vl := 2048, g := gs [(2, 0x17F)] }).Ready { vec := true, src := [.vl, .g 2] } ∧
    (on { g := gs [(2, 0x17F)] }).rg 2 &&& 0x17F#64 = (on { g := gs [(2, 0x17F)] }).rg 2 ∧
    Room (on { vl := 2048 }) (.hread 3 0 0x17F 19 2 1) ∧
    Room (on { vl := 2048 }) (.hwrite 3 0 0x17F 2 1) :=
  ⟨canonical_of (by decide +kernel),
    owns_of (by decide +kernel),
    ready_of (by decide +kernel),
    ready_of (by decide +kernel),
    by decide +kernel,
    by decide +kernel,
    by decide +kernel,
    by decide +kernel,
    ready_of (by decide +kernel),
    by decide +kernel,
    by decide +kernel,
    by decide +kernel,
    by decide +kernel,
    by decide +kernel,
    by decide +kernel,
    by decide +kernel,
    by decide +kernel,
    by decide +kernel,
    by decide +kernel,
    owns_of (by decide +kernel),
    ready_of (by decide +kernel),
    room_of (by decide +kernel),
    by decide +kernel,
    by decide +kernel,
    by decide +kernel,
    ready_of (by decide +kernel),
    by decide +kernel,
    room_of (by decide +kernel),
    room_of (by decide +kernel)⟩

/-- A strand of the free core with tickets of kinds 1, 3, 5 and 2 in tk1 to tk4, and offsets in g1 and g2. -/
def opening : Strand :=
  { tk := tks [(1, ticket 1 16 4), (3, ticket 3 2 0), (4, ticket 2 (2 + 2 ^ 19) 4), (5, ticket 5 (4 * 6 + 128 * 2) 0)],
    g := gs [(1, 1024), (2, 64), (3, 64 * 63 + 0), (6, 6)], vl := 2048, seq := 8 }


theorem wit_OpenOperations :
    Canonical (on opening) ∧
    (on opening).scored (on opening).cur.sid = false ∧
    MayOpen (on opening) (ticket 1 16 4) ∧
    (on opening).Ready { src := [.tk 1, .g 1], dst := [.g 5], outward := true } ∧
    (on opening).tkFails ((on opening).me.rtk 1) { kinds := [1, 4], right := 0, lo := 1024, hi := 1024 + 8, at_ := 1024 } = none ∧
    (on opening).tkFails ((on opening).me.rtk 1) { kinds := [1, 4], right := 2, lo := 1024 + 248, hi := 1024 + 256, at_ := 1024 + 248 } = none ∧
    (on opening).tkFails ((on opening).me.rtk 1) { kinds := [1, 4], right := 2, lo := 1024 + 256, hi := 1024 + 264, at_ := 1024 + 256 } = some 1280 ∧
    (on opening).Ready { src := [.tk 1, .g 1, .g 5], outward := true } ∧
    (on opening).Ready { src := [.tk 1, .g 1, .g 2, .g 5], dst := [.g 5], outward := true } ∧
    (on opening).Ready { src := [.tk 3, .g 1, .g 2], outward := true } ∧
    ((on opening).rg 2).toNat % 128 = 64 ∧
    (on opening).tkFails ((on opening).me.rtk 3) { kinds := [3], right := 4 } = none ∧
    (on {}).me.rtk 1 = 0 ∧
    (on opening).foreign 80 (ticket 1 16 4 - BitVec.ofNat 512 (2 ^ 177)) = true :=
  ⟨canonical_of (by decide +kernel),
    by decide +kernel,
    mayOpen_of (by decide +kernel),
    ready_of (by decide +kernel),
    by decide +kernel,
    by decide +kernel,
    by decide +kernel,
    ready_of (by decide +kernel),
    ready_of (by decide +kernel),
    ready_of (by decide +kernel),
    by decide +kernel,
    by decide +kernel,
    by decide +kernel,
    by decide +kernel⟩

theorem wit_SendsAndQueues :
    Canonical (scoredOn opening) ∧
    (scoredOn opening).scored (scoredOn opening).cur.sid = true ∧
    (scoredOn opening).Ready { src := [.tk 4, .g 1, .g 3], outward := true } ∧
    (scoredOn opening).tkFails ((scoredOn opening).me.rtk 4) { kinds := [2], right := 3, lo := 64 * 0, hi := 64 * 0 + (64 - 64), at_ := 64 * 0, slot := some 0 } = none ∧
    ((scoredOn opening).rg 3).toNat % 64 = 0 ∧
    Canonical (slotted opening) ∧
    (slotted opening).scored (slotted opening).cur.sid = true ∧
    (slotted opening).Ready { src := [.g 1, .g 3], dst := [.g 7], outward := true } ∧
    (tget {} (((slotted opening).rg 3).toNat % 64) ((slotted opening).core 5).recv).full = true ∧
    (tget {} (((scoredOn opening).rg 3).toNat % 64) ((scoredOn opening).core 5).recv).full = false ∧
    (scoredOn opening).Ready { src := [.g 1, .g 3], dst := [.g 7], outward := true } ∧
    (on opening).Ready { src := [.tk 4, .g 1, .g 3], outward := true } ∧
    Canonical (queued opening) ∧
    (queued opening).scored (queued opening).cur.sid = false ∧
    (queued opening).Ready { src := [.g 1, .g 6], dst := [.g 7], outward := true } ∧
    ((queued opening).core 5).queue (((queued opening).rg 6).toNat % 4) = [⟨[1, 2, 3], 6, 0, 0⟩] ∧
    ((on opening).core 5).queue (((on opening).rg 6).toNat % 4) = [] ∧
    (on opening).Ready { src := ((List.range (0 + 1)).map fun i => (Fin.ofNat 16 ((1 : TkReg).val + i) : TkReg)).map .tk ++ [.g 1, .g 1, .g 2], outward := true } ∧
    stripeFails (on opening) 1 1 { kinds := [1, 4], right := 1, lo := 1024, hi := 1024 + 64, at_ := 1024 } = none ∧
    (on opening).inFlight 80 + Nat.min 32 (64 / 64) ≤ 32 ∧
    (on opening).chunksLeft 80 = false ∧
    (on opening).foreign 80 ((on opening).me.rtk 1) = false ∧
    (on opening).Ready { vec := true, src := [.tk 5, .g 6, .vl], outward := true } ∧
    (on opening).tkFails ((on opening).me.rtk 5) { kinds := [5], right := 3 } = none ∧
    tkRegsOk ((on opening).me.rtk 5) 6 2 = true ∧
    ((on opening).rg 6).toNat % Grp.size .n2 = 0 ∧
    (on opening).inFlight 80 + (on opening).me.pushes + Grp.size .n2 ≤ 32 ∧
    Room (on opening) (.push ((on opening).me.rtk 5) 5 0 6 2) ∧
    (on { opening with fe := 3 }).Ready { vec := true, src := [.g 2], dst := [.g 7], outward := true } ∧
    (on { opening with fe := 3 }).me.full 0 2 = true ∧
    (on { opening with fe := 1 }).me.full 0 2 = false ∧
    (on { opening with fe := 1 }).Ready { vec := true, src := [.g 2], dst := [.g 7], outward := true } :=
  ⟨canonical_of (by decide +kernel),
    by decide +kernel,
    ready_of (by decide +kernel),
    by decide +kernel,
    by decide +kernel,
    canonical_of (by decide +kernel),
    by decide +kernel,
    ready_of (by decide +kernel),
    by decide +kernel,
    by decide +kernel,
    ready_of (by decide +kernel),
    ready_of (by decide +kernel),
    canonical_of (by decide +kernel),
    by decide +kernel,
    ready_of (by decide +kernel),
    by decide +kernel,
    by decide +kernel,
    ready_of (by decide +kernel),
    by decide +kernel,
    by decide +kernel,
    by decide +kernel,
    by decide +kernel,
    ready_of (by decide +kernel),
    by decide +kernel,
    by decide +kernel,
    by decide +kernel,
    by decide +kernel,
    room_of (by decide +kernel),
    ready_of (by decide +kernel),
    by decide +kernel,
    by decide +kernel,
    ready_of (by decide +kernel)⟩

theorem wit_DrayCommands :
    Canonical (on opening) ∧
    (on opening).Ready { src := [.tk 1, .g 1, .g 2], dst := [.g 7], outward := true } ∧
    (on opening).ownWrites 80 1024 64 = false ∧
    blockBad false 0 (toBytes 64 0) = true ∧
    (filling {}).Ready { src := [.tk 1, .g 1, .g 2], dst := [.g 7], outward := true } ∧
    blockBad false 5 ((filling {}).spadRead 5 0 64) = false ∧
    (filling {}).holdsDray 80 1 = true ∧
    (filling {}).holdsDray 80 2 = false ∧
    (filling {}).strandPart 80 ≠ none ∧
    ((filling {}).dray 1).cmds.length < 64 ∧
    ((filling {}).drayAsks { cmdOf 5 ((filling {}).spadRead 5 0 64) with sid := 80, core := 5, cores := [5] }).findSome? ((filling {}).tkFails ((filling {}).me.rtk 1)) = none ∧
    Canonical (asking {}) ∧
    (asking {}).rg 1 = BitVec.ofNat 64 (commandId 1 7) ∧
    ((asking {}).dray 1).cmds.find? (fun c => c.seq == 7) = some { cmdOf 5 (toBytes 64 0) with seq := 7, vd := 1, running := true } ∧
    (asking {}).strandVd 80 = 1 ∧
    (asking {}).Ready { src := [.g 1], dst := [.g 7], outward := true } ∧
    (asking {}).Ready { src := [.g 1, .g 2], dst := [.g 7], outward := true } :=
  ⟨canonical_of (by decide +kernel),
    ready_of (by decide +kernel),
    by decide +kernel,
    by decide +kernel,
    ready_of (by decide +kernel),
    by decide +kernel,
    by decide +kernel,
    by decide +kernel,
    by decide +kernel,
    by decide +kernel,
    by decide +kernel,
    canonical_of (by decide +kernel),
    by decide +kernel,
    by decide +kernel,
    by decide +kernel,
    ready_of (by decide +kernel),
    ready_of (by decide +kernel)⟩

theorem wit_Counters :
    Canonical (on opening) ∧
    (on opening).Ready { src := [.g 1], dst := [.g 7], outward := true } ∧
    (on opening).fenceDone 80 (on opening).seqNo .partition 63 = true ∧
    (accessing .store none).fenceDone 80 (accessing .store none).seqNo .partition 63 = false ∧
    (accessing .store none).Ready { src := [.g 1], dst := [.g 7], outward := true } ∧
    ((on { g := gs [(1, 7)] }).rg 1).toNat < 8 ∧
    8 ≤ ((on { g := gs [(1, 8)] }).rg 1).toNat ∧
    (0 + 0 + (2 ^ 32 - 0)) % 2 ^ 32 < 2 ^ 31 ∧
    2 ^ 31 ≤ ((((on {}).vd 1).counter 3).done.toNat + (((on {}).vd 1).counter 3).canc.toNat + (2 ^ 32 - 2 ^ 31)) % 2 ^ 32 ∧
    (cancelBad 0 (BitVec.ofNat 64 (2 ^ 63)) = true ∨ (on {}).cancelVd 80 (BitVec.ofNat 64 (2 ^ 63)) = none) ∧
    cancelBad 0 0 = false ∧
    (on {}).cancelVd 80 0 = some 1 ∧
    (on { priv := 1, g := gs [(1, 1)] }).Ready { level := 1, src := [.g 1], dst := [.g 7], outward := true } :=
  ⟨canonical_of (by decide +kernel),
    ready_of (by decide +kernel),
    by decide +kernel,
    by decide +kernel,
    ready_of (by decide +kernel),
    by decide +kernel,
    by decide +kernel,
    by decide +kernel,
    by decide +kernel,
    by decide +kernel,
    by decide +kernel,
    by decide +kernel,
    ready_of (by decide +kernel)⟩

theorem wit_TranslationAndMigration :
    Canonical (walked { priv := 1, g := gs [(1, 0x10000), (2, 1), (3, 65 + 2 ^ 40 + 2 ^ 48)] }) ∧
    (walked { priv := 1, g := gs [(1, 0x10000), (2, 1), (3, 65 + 2 ^ 40 + 2 ^ 48)] }).scored 80 = false ∧
    (walked { priv := 1, g := gs [(1, 0x10000), (2, 1), (3, 65 + 2 ^ 40 + 2 ^ 48)] }).Ready { level := 1, src := [.g 1, .g 2], dst := [.g 7], outward := true } ∧
    (walked { priv := 1 }).mayName 1 = true ∧
    (walked { priv := 1 }).mayName 2 = false ∧
    (∃ u x, (walked { priv := 1 }).walk 5 1 0x10000 = (u, .ok x) ∧ decide (x = ⟨1, 16, 1, 64, ⟨true, true, true, false, false, false⟩, false⟩) = true) ∧
    ((walked { priv := 1 }).walk 5 1 0x11000).2.toOption = none ∧
    (walked { priv := 1 }).pinned 1 0x10000 = false ∧
    ({ tabled {} with launches := [(1048577, { scored := true, vd := 1, regions := [⟨0x10000, 4096, true, [64]⟩] })] } : State).pinned 1 0x10FFF = true ∧
    (walked { priv := 1 }).holdsDray 80 1 = true ∧
    (walked { priv := 1 }).holdsDray 80 0 = false ∧
    ((walked { priv := 1 }).dray 1).cmds.length < 64 ∧
    ({ walked { priv := 1 } with drays := [(1, { cmds := List.replicate 64 {} })] } : State).dray 1 = { cmds := List.replicate 64 {} } ∧
    (((walked { priv := 1 }).stalledSlot 1 16 65).isNone = true ∧ (walked { priv := 1 }).freeSlot = some 0 ∧ ((walked { priv := 1 }).frame 64).pins = 0) ∧
    (((walked { priv := 1 }).frame 65).assigned = true ∧ ((walked { priv := 1 }).frame 65).owner = 1 ∧ ((walked { priv := 1 }).frame 65).fresh = true ∧ ((walked { priv := 1 }).migOf 1 16).isNone = true) ∧
    (walked { priv := 1 }).ckpt.remap = [] :=
  ⟨canonical_of (by decide +kernel),
    by decide +kernel,
    ready_of (by decide +kernel),
    by decide +kernel,
    by decide +kernel,
    passes _ (by decide +kernel),
    by decide +kernel,
    by decide +kernel,
    by decide +kernel,
    by decide +kernel,
    by decide +kernel,
    by decide +kernel,
    by decide +kernel,
    by decide +kernel,
    by decide +kernel,
    by decide +kernel⟩

theorem wit_EntryChecks :
    (walked {}).linesFault (4096 * 70 + 8 * (0x10000 / 2 ^ (12 + 9 * 0) % 512)) 8 = none ∧
    (ofBytes ((walked {}).physRead (4096 * 70 + 8 * 16) 8)).testBit 0 = true ∧
    (ofBytes ((walked {}).physRead (4096 * 70 + 8 * 17) 8)).testBit 0 = false ∧
    (([9, 11, 52, 58, 63].all fun i => reservedSet (2 ^ i + 1) 1) = true ∧ reservedSet (2 ^ 51 + 1) 1 = false ∧ reservedSet 1 3 = true ∧ reservedSet 3 1 = true) :=
  ⟨by decide +kernel,
    by decide +kernel,
    by decide +kernel,
    by decide +kernel⟩

theorem wit_PrivilegedTables :
    Canonical (keyed { priv := 2, g := gs [(1, 0x61000), (2, 0)] } (4 + 2 ^ 128 * (1 + 8 * 255 + 2 ^ 57 * 16 + 2 ^ 97 * 4))) ∧
    (keyed { priv := 2, g := gs [(1, 0x61000), (2, 0)] } (4 + 2 ^ 128 * (1 + 8 * 255 + 2 ^ 57 * 16 + 2 ^ 97 * 4))).Ready { level := 2, src := [.g 1, .g 2], dst := [.g 7, .tk 3], outward := true } ∧
    isNear 0x61000 = true ∧
    (keyed {} (4 + 2 ^ 128 * (1 + 8 * 255 + 2 ^ 57 * 16 + 2 ^ 97 * 4))).linesFault 0x61000 64 = none ∧
    mintStatus (ofBytes ((keyed {} (4 + 2 ^ 128 * (1 + 8 * 255 + 2 ^ 57 * 16 + 2 ^ 97 * 4))).physRead 0x61000 32) % 2 ^ 128) (ofBytes ((keyed {} (4 + 2 ^ 128 * (1 + 8 * 255 + 2 ^ 57 * 16 + 2 ^ 97 * 4))).physRead 0x61000 32) / 2 ^ 128 % 2 ^ 128) 0 = 0 ∧
    mintStatus 0 1 0 ≠ 0 ∧
    (keyed {} 0).pkg.kg < 16 ∧
    (keyed { priv := 2, g := gs [(1, 65535)] } 0).Ready { level := 2, src := [.g 1], dst := [.g 7], outward := true } ∧
    (keyed {} 0).pkg.ency / 4096 + 2 ≤ 2 ∧
    (keyed {} 0).pkg.advance.isNone = true ∧
    (keyed { priv := 2, g := gs [(1, 2), (2, 0x61000)] } 0).Ready { level := 2, src := [.g 1, .g 2], dst := [.g 7], outward := true } ∧
    (keyed {} 0).vdHolds 191 = false ∧
    (keyed {} 0).vdHolds 1 = true ∧
    ((keyed {} (7 + 2 ^ 256 * 200 + 2 ^ 296 * 1 + 2 ^ 320 * 100)).key 192).valid = false ∧
    windowHas (field (2 ^ 256 * 200 + 2 ^ 296 * 1 + 2 ^ 320 * 100) 256 40) (field (2 ^ 256 * 200 + 2 ^ 296 * 1 + 2 ^ 320 * 100) 296 24) 201 = true ∧
    ((keyed {} 0).frames = [] ∧ (keyed {} 0).keys = []) ∧
    (isNear (4096 * (200 + 2 * 1) - 1) = true ∧ isNear (64 * 100 + 256 * 1 - 1) = true) ∧
    field (7 + 2 ^ 256 * 200 + 2 ^ 296 * 1 + 2 ^ 320 * 100) 360 152 = 0 ∧
    192 + 256 * 1 + 65536 * 191 < 2 ^ 24 ∧
    Canonical (tabled { priv := 1, g := gs [(1, 4096 * 96), (2, 0)] }) ∧
    (tabled { priv := 1, g := gs [(1, 4096 * 96), (2, 0)] }).Ready { level := 1, src := [.g 1, .g 2], dst := [.g 7], outward := true } ∧
    (((tabled { priv := 1 }).admitCheck (4096 * 96) 0).1 = 0 ∧ ((tabled { priv := 1 }).admitCheck (4096 * 96) 0).2.isSome = true) ∧
    (((tabled { priv := 1 }).admitCheck (4096 * 96) 1).1 = 9 ∧ ((tabled { priv := 1 }).admitCheck (4096 * 96) 1).2.isNone = true) ∧
    (tabled {}).clockOf 80 ≠ launchKey (tabled {}).nextId :=
  ⟨canonical_of (by decide +kernel),
    ready_of (by decide +kernel),
    by decide +kernel,
    by decide +kernel,
    by decide +kernel,
    by decide +kernel,
    by decide +kernel,
    ready_of (by decide +kernel),
    by decide +kernel,
    by decide +kernel,
    ready_of (by decide +kernel),
    by decide +kernel,
    by decide +kernel,
    by decide +kernel,
    by decide +kernel,
    by decide +kernel,
    by decide +kernel,
    by decide +kernel,
    by decide +kernel,
    canonical_of (by decide +kernel),
    ready_of (by decide +kernel),
    by decide +kernel,
    by decide +kernel,
    by decide +kernel⟩

theorem wit_ContextWords :
    Canonical (on {}) ∧
    (on {}).Ready { outward := true } ∧
    (scoredOn {}).scored 80 = true ∧
    ({ on {} with strands := [(80, { slot := .runnable })] } : State).me.launch = none ∧
    ((on {}).scored 80 = false ∧ (on {}).me.priv = 0 ∧ (on {}).me.launch = some 1048576) ∧
    ((on {}).launch 1048576).part = some 0 ∧
    (heading {}).slotWanted 0 ((heading {}).launch 1048576).prio 5 0 = true ∧
    (on {}).slotWanted 0 ((on {}).launch 1048576).prio 5 0 = false ∧
    Canonical (beside { priv := 1, g := gs [(1, 0x40001)] }) ∧
    (beside { priv := 1, g := gs [(1, 0x40001)] }).Ready { level := 1, src := [.g 1], dst := [.g 7], outward := true } ∧
    (beside {}).ctxBad 0x40001 ((beside {}).blockSize 81) = false ∧
    (beside {}).ctxBad 0x41001 ((beside {}).blockSize 81) = true ∧
    ((81 ≠ 80) ∧ (beside {}).preemptable 81 = true ∧ ((beside {}).strand 81).slot ≠ .halted ∧ ((beside {}).strand 81).inh = false ∧ (beside {}).strandPart 81 = (beside {}).strandPart 80) ∧
    Canonical (loading { priv := 1, g := gs [(1, 0x40001)] }) ∧
    (loading { priv := 1, g := gs [(1, 0x40001)] }).Ready { level := 1, src := [.g 1], dst := [.g 7], outward := true } ∧
    (((loading { priv := 1 }).ctxloadCheck 0x40001).1 = 0 ∧ (((loading { priv := 1 }).ctxloadCheck 0x40001).2.map fun e => e.2.ghost) = some 32848) ∧
    (((on { priv := 1 }).ctxloadCheck 0x40001).1 = 1 ∧ ((on { priv := 1 }).ctxloadCheck 0x40001).2.isNone = true) :=
  ⟨canonical_of (by decide +kernel),
    ready_of (by decide +kernel),
    by decide +kernel,
    by decide +kernel,
    by decide +kernel,
    by decide +kernel,
    by decide +kernel,
    by decide +kernel,
    canonical_of (by decide +kernel),
    ready_of (by decide +kernel),
    by decide +kernel,
    by decide +kernel,
    by decide +kernel,
    canonical_of (by decide +kernel),
    ready_of (by decide +kernel),
    by decide +kernel,
    by decide +kernel⟩

theorem wit_WakesAndStarts :
    Canonical (parkedAt (.atLcy 160)) ∧
    (((parkedAt (.atLcy 160)).strand 80).slot = .parked (.atLcy 160) ∧ 160 ≤ (parkedAt (.atLcy 160)).lcy 80) ∧
    (¬ 161 ≤ (parkedAt (.atLcy 161)).lcy 80) ∧
    ((parkedAt (.cwait 1 3 0 none 5 150)).strand 80).slot = .parked (.cwait 1 3 0 none 5 150) ∧
    (((parkedAt (.cwait 1 3 0 none 5 150)).vd 1).counter 3).done.toNat + 0 + (2 ^ 32 - 0 % 2 ^ 32) < 2 ^ 33 ∧
    (¬ ((0 + 0 + (2 ^ 32 - 1 % 2 ^ 32)) % 2 ^ 32 < 2 ^ 31)) ∧
    (((parkedAt (.cwait 1 3 1 (some 160) 5 150)).strand 80).slot = .parked (.cwait 1 3 1 (some 160) 5 150) ∧ 160 ≤ (parkedAt (.atLcy 0)).lcy 80) ∧
    (((parkedAt (.erecv 3 160 1024 7 150)).strand 80).slot = .parked (.erecv 3 160 1024 7 150) ∧ ((parkedAt (.erecv 3 160 1024 7 150)).core 5).queue 3 = []) ∧
    (({ parkedAt (.erecv 2 200 1024 7 150) with cores := (queued {}).cores } : State).core 5 = (queued {}).core 5 ∧ ((queued {}).core 5).queue 2 = [⟨[1, 2, 3], 6, 0, 0⟩]) ∧
    (parkedAt (.erecv 3 161 1024 7 150)).lcy 80 < 161 ∧
    ((parkedAt (.vpull 30 2 160 7 150)).strand 80).slot = .parked (.vpull 30 2 160 7 150) ∧
    ((parkedAt (.vpull 30 2 160 7 150)).strand 80).fe.getLsbD 31 = false ∧
    ((on { wait := some (.dwait (commandId 1 7) 160 7 8 150) }).strand 80).wait = some (.dwait (commandId 1 7) 160 7 8 150) ∧
    bits ((on {}).drayStatus ((on {}).strandVd 80) (BitVec.ofNat 64 (commandId 1 7))) 0 4 ≥ 2 ∧
    bits ((asking {}).drayStatus ((asking {}).strandVd 80) (BitVec.ofNat 64 (commandId 1 7))) 0 4 < 2 ∧
    ((on { dqSince := some 1 }).strand 80).dqSince = some (0 + 1) ∧
    Canonical (on { seq := 8, vq := [.one queuedWord] }) ∧
    ((on { seq := 8, vq := [.one queuedWord] }).strand 80).vq = [.one queuedWord] ∧
    Nat.max (queuedWord.turn + 16) ((on {}).strand 80).laneNext ≤ (on {}).lcy 80 ∧
    (on { seq := 8, vq := [.one queuedWord] }).laneReady ⟨80, queuedWord, [8], 0, none⟩ = true ∧
    (on { seq := 8, vq := [.one queuedWord], pend := [⟨3, 140, .v 2, none, 0, none, false⟩] }).laneReady ⟨80, queuedWord, [8], 0, none⟩ = false ∧
    ((queuedWord.op.poisonAt ((on {}).strand 80) ((on {}).vlmax32 80) 16).isNone = true ∧ (queuedWord.op.residueAt ((on {}).strand 80) ((on {}).vlmax32 80) 16).isNone = true) ∧
    (queuedWord.op.arith ((on {}).strand 80) ((on {}).vlmax32 80) 16).isSome = true :=
  ⟨canonical_of (by decide +kernel),
    by decide +kernel,
    by decide +kernel,
    by decide +kernel,
    by decide +kernel,
    by decide +kernel,
    by decide +kernel,
    by decide +kernel,
    by decide +kernel,
    by decide +kernel,
    by decide +kernel,
    by decide +kernel,
    by decide +kernel,
    by decide +kernel,
    by decide +kernel,
    by decide +kernel,
    canonical_of (by decide +kernel),
    by decide +kernel,
    by decide +kernel,
    by decide +kernel,
    by decide +kernel,
    by decide +kernel,
    by decide +kernel⟩

theorem wit_SlotEvents :
    Canonical (on {}) ∧
    (((on {}).strand 80).leaving = none ∧ (on {}).preemptable 80 = true) ∧
    ((scoredOn {}).preemptable 80 = false ∧ ((scoredOn {}).strand 80).leaving = none) ∧
    (((on { leaving := some .scheduler }).strand 80).leaving = some .scheduler ∧ (on { leaving := some .scheduler }).settled 80 = true ∧ inSlot 80 = true) ∧
    (on {}).hwSaved = [] ∧
    (resumable {}).hwSaved = [{ state := .runnable, launch := 1048576, part := some 0, vd := 1, slot := 0, core := 5, ghost := 32848 }] ∧
    (resumable {}).canResume { state := .runnable, launch := 1048576, part := some 0, vd := 1, slot := 0, core := 5, ghost := 32848 } = true ∧
    (32848 ≠ 16 * 5 + 0) ∧
    (({ on {} with strands := [(15, { slot := .halted, stopped := true })], parts := [] } : State).strand 15).slot = .halted ∧
    (({ on {} with strands := [(15, { slot := .halted, stopped := true })], parts := [] } : State).strand 15).stopped = true ∧
    (({ on {} with strands := [(15, { slot := .halted, stopped := true })], parts := [] } : State).partOf (coreOf 15) = none ∧ isCoach (coreOf 15) = false) :=
  ⟨canonical_of (by decide +kernel),
    by decide +kernel,
    by decide +kernel,
    by decide +kernel,
    by decide +kernel,
    by decide +kernel,
    by decide +kernel,
    by decide +kernel,
    by decide +kernel,
    by decide +kernel,
    by decide +kernel⟩

theorem wit_HarpEvents :
    Canonical (commanding (command .zero 0)) ∧
    (((commanding (command .zero 0)).core 5).scored = false ∧ ((commanding (command .zero 0)).core 5).harpq = command .zero 0 :: [] ∧ (command .zero 0).core = 5) ∧
    (commanding (command .zero 1)).pkg.ency < (command .zero 1).start ∧
    ((command .zero 0).start ≤ (commanding (command .zero 0)).pkg.ency ∧ (command .zero 0).isArray = false) ∧
    ((command (.mma false false 0 (7 * 2 ^ 19) 9 2 32 2048) 0).isArray = true ∧ (command (.mma false false 0 (7 * 2 ^ 19) 9 2 32 2048) 0).paired = false) ∧
    (commanding (command (.mma false false 0 (7 * 2 ^ 19) 9 2 32 2048) 0)).arbiter (crewOf 5) = some (5, false) ∧
    ({ commanding (command (.mma false false 0 (7 * 2 ^ 19) 9 2 32 2048) 0) with harps := [(0, { busy := 5 })] } : State).arbiter (crewOf 5) = none ∧
    (((scoredOn {}).core 5).scored = true ∧ ({ scoredOn {} with cores := [(5, { scored := true, harpq := [command .zero 160] })] } : State).core 5 = { scored := true, harpq := [command .zero 160] } ∧ 160 ≤ (scoredOn {}).lcy 80) ∧
    look 9 (clearing 127).runs = some ⟨80, 7, 0x1000, 5, 3, .clear, 127, 128, some 144, none, 0⟩ ∧
    (look 9 (clearing 126).runs = some ⟨80, 7, 0x1000, 5, 3, .clear, 126, 128, some 144, none, 0⟩ ∧ 126 + 1 < 128) ∧
    Rising ((clearing 127).harp (crewOf 5)).tiles ∧
    ((commanding (command (.mma false true 0 (7 * 2 ^ 29) 9 2 32 2048) 0)).cores.findSome? fun k => k.2.harpq.find? fun q => q.id == 9) = some (command (.mma false true 0 (7 * 2 ^ 29) 9 2 32 2048) 0) ∧
    (command (.mma false true 0 (7 * 2 ^ 29) 9 2 32 2048) 0).paired = true ∧
    (commanding (command (.mma false true 0 (7 * 2 ^ 29) 9 2 32 2048) 0)).partnerArrived (command (.mma false true 0 (7 * 2 ^ 29) 9 2 32 2048) 0) = false ∧
    ({ commanding (command (.mma false true 0 (7 * 2 ^ 29) 9 2 32 2048) 0) with cores := [(5, { harpq := [command (.mma false true 0 (7 * 2 ^ 29) 9 2 32 2048) 0] }), (8, { harpq := [command (.mma false true 0 (7 * 2 ^ 29) 9 2 32 2048) 0] })] } : State).partnerArrived (command (.mma false true 0 (7 * 2 ^ 29) 9 2 32 2048) 0) = true ∧
    ((commanding (command .zero 0)).scored 80 = false ∧ ((commanding (command .zero 0)).strand 80).slot ≠ .preempted ∧ ((commanding (command .zero 0)).strand 80).leaving = none ∧ ((commanding (command .zero 0)).strand 80).priv ≤ 1 ∧ ((commanding (command .zero 0)).strand 80).tvec ≠ 0 ∧ ((commanding (command .zero 0)).strand 80).estat.getLsbD 2 = false) :=
  ⟨canonical_of (by decide +kernel),
    by decide +kernel,
    by decide +kernel,
    by decide +kernel,
    by decide +kernel,
    by decide +kernel,
    by decide +kernel,
    by decide +kernel,
    by decide +kernel,
    by decide +kernel,
    by
    unfold Rising
    decide +kernel,
    by decide +kernel,
    by decide +kernel,
    by decide +kernel,
    by decide +kernel,
    by decide +kernel⟩

theorem wit_MemoryEvents :
    Canonical (reaching .store none ⟨0, 0x40040, 5, 0, 0, 0, false, some (3, true)⟩) ∧
    (reaching .store none ⟨0, 0x40040, 5, 0, 0, 0, false, some (3, true)⟩).access 7 = some (physAccess .store none ⟨0, 0x40040, 5, 0, 0, 0, false, some (3, true)⟩) ∧
    (reaching .store none ⟨0, 0x40040, 5, 0, 0, 0, false, some (3, true)⟩).accessWaits 7 (physAccess .store none ⟨0, 0x40040, 5, 0, 0, 0, false, some (3, true)⟩) = false ∧
    (reaching .store none ⟨0, 0x40040, 5, 0, 0, 0, false, some (3, true)⟩).migrate 1 0x40040 = some 0x40040 ∧
    ((reaching .store none ⟨0, 0x40040, 5, 0, 0, 0, false, some (3, true)⟩).strand 80).slot ≠ .idle ∧
    (reaching .store none ⟨0, 0x40040, 5, 0, 0, 0, false, some (3, true)⟩).pairWaits (physAccess .store none ⟨0, 0x40040, 5, 0, 0, 0, false, some (3, true)⟩) = false ∧
    (reaching .load (some (.g 4)) ⟨0, 0x40040, 0, 0, 0, 0, false, some (3, false)⟩).accessWaits 7 (physAccess .load (some (.g 4)) ⟨0, 0x40040, 0, 0, 0, 0, false, some (3, false)⟩) = false ∧
    (⟨3, 150, .g 4, none, 0, none, false⟩ : Pend) ∈ ((reaching .load (some (.g 4)) ⟨0, 0x40040, 0, 0, 0, 0, false, some (3, false)⟩).strand 80).pend ∧
    (reaching .load (some (.g 4)) ⟨0, 0x40040, 0, 0, 0, 0, true, none⟩).pkg.ency < 0 + 4096 ∧
    ({ reaching .load (some (.g 4)) ⟨0, 0x40040, 0, 0, 0, 0, true, none⟩ with pkg := { State.reset.pkg with ency := 4096 } } : State).pkg.ency ≥ 0 + 4096 ∧
    (reaching .pref none ⟨0, 0x40040, 0, 0, 0, 0, true, none⟩).access 7 = some (physAccess .pref none ⟨0, 0x40040, 0, 0, 0, 0, true, none⟩) ∧
    ((reaching .load (some (.g 4)) ⟨0, 0x40040, 0, 0, 0, 0, true, none⟩).scored 80 = false ∧ ((reaching .load (some (.g 4)) ⟨0, 0x40040, 0, 0, 0, 0, true, none⟩).strand 80).tvec ≠ 0 ∧ ((reaching .load (some (.g 4)) ⟨0, 0x40040, 0, 0, 0, 0, true, none⟩).strand 80).leaving = none ∧ ((reaching .load (some (.g 4)) ⟨0, 0x40040, 0, 0, 0, 0, true, none⟩).strand 80).estat.getLsbD 2 = false) ∧
    (∃ u x, (walked {}).walk 5 1 0x10000 = (u, .ok x) ∧ decide ((u.tlbHit 5 1 0x10000).isNone = true) = true) ∧
    (base.core 5).l1 = [] ∧
    base.majorFull 0 = false ∧
    Rising base.lines ∧
    ({ base with blocks := [(0, { major := 2 ^ 48 - 1, shadow := [(0, 127)] })] } : State).majorFull 0 = true ∧
    base.lineFault 0 = none ∧
    ({ base with lines := [(0, { poison := some 5, written := true })] } : State).lineFault 0 = some 16 ∧
    (({ base with blocks := [(0, { reseal := some 63 })] } : State).block 0).reseal = some 63 ∧
    Rising ({ base with blocks := [(0, { reseal := some 63 })] } : State).blocks ∧
    (∃ n ∈ ((scoredOn {}).launch 1048576).units, n.2 = .active) :=
  ⟨canonical_of (by decide +kernel),
    by decide +kernel,
    by decide +kernel,
    by decide +kernel,
    by decide +kernel,
    by decide +kernel,
    by decide +kernel,
    by decide +kernel,
    by decide +kernel,
    by decide +kernel,
    by decide +kernel,
    by decide +kernel,
    passes _ (by decide +kernel),
    by decide +kernel,
    by decide +kernel,
    by
    unfold Rising
    decide +kernel,
    by decide +kernel,
    by decide +kernel,
    by decide +kernel,
    by decide +kernel,
    by
    unfold Rising
    decide +kernel,
    by decide +kernel⟩

theorem wit_FabricEvents :
    Canonical (carrying (standing (genuineTicket 0x41 1 16 4) (.write 1024 [1]))) ∧
    look 7 (carrying (standing (ticket 1 16 4) (.write 1024 [1]))).packets = some (standing (ticket 1 16 4) (.write 1024 [1])) ∧
    ((standing (ticket 1 16 4) (.write 1024 [1])).out = none ∧ (standing (ticket 1 16 4) (.write 1024 [1])).need = 0 ∧ (standing (ticket 1 16 4) (.write 1024 [1])).lead = none) ∧
    base.genuine (ticket 1 16 4) = false ∧
    base.genuine (genuineTicket 0x41 1 16 4) = true ∧
    (carrying (standing (genuineTicket 0x41 1 16 4) (.write 1024 [1]))).hopAt (tkWord (genuineTicket 0x41 1 16 4) 0) 0 1 = (.dir 1, 1) ∧
    neighbour 1 5 1 = some (2, 5) ∧
    (carrying { standing (genuineTicket 0x41 1 16 4) (.write 1024 [1]) with part := none }).roomAt { standing (genuineTicket 0x41 1 16 4) (.write 1024 [1]) with part := none } (1 + 32 * 5 + 1024 * 1) = true ∧
    base.hopAt (tkWord (genuineTicket 4 1 16 4) 0) 0 1 = (.deliver, 1) ∧
    ((carrying { standing (genuineTicket 0x41 1 16 4) (.write 1024 [1]) with out := some 1185, lastDir := some 1 }).grantPath 7 { standing (genuineTicket 0x41 1 16 4) (.write 1024 [1]) with out := some 1185, lastDir := some 1 } 1185).isSome = true ∧
    (carrying (standing (ticket 2 16 4) (.write 1024 [1]))).siteCheck (standing (ticket 2 16 4) (.write 1024 [1])) = none ∧
    (carrying (standing (ticket 1 16 4) (.write 1024 [1]))).siteCheck (standing (ticket 1 16 4) (.write 1024 [1])) = some (some 5) ∧
    siteCore 1 5 = some 5 ∧
    ((base.partOf 5 = some 0) ∧ (base.part 0).pstate = 0) ∧
    (base.stringBusy 5 1024 1 = false ∧ (base.core 5).used base.pkg.ency &&& banksOf 1024 1 = 0) ∧
    look 7 (carrying (standing (ticket 2 (2 ^ 19) 4) (.timed 0 0 64))).packets = some (standing (ticket 2 (2 ^ 19) 4) (.timed 0 0 64)) ∧
    (tget {} (tkSlotFirst (ticket 2 (2 ^ 19) 4) + 0) (base.core 5).recv).full = false ∧
    (({ carrying (standing (ticket 2 (2 ^ 19) 4) (.timed 0 0 64)) with ops := [(4, { sid := 80 })] } : State).op 4) = some { sid := 80 } ∧
    ((base.core 5).queue (tkBase (ticket 3 3 0) % 4)).length < 16 ∧
    (carrying (standing (ticket 3 3 0) (.elastic [1] 9))).packets = [(7, standing (ticket 3 3 0) (.elastic [1] 9))] ∧
    (({ standing (ticket 3 3 0) (.elastic [1] 9) with held := some 0 } : Packet).held = some 0) ∧
    0 + 4096 ≤ ({ carrying (standing (ticket 3 3 0) (.elastic [1] 9)) with pkg := { State.reset.pkg with ency := 4096 } } : State).pkg.ency ∧
    (standing (ticket 5 (4 * 6 + 128 * 2) 0) (.push 31 2 5 0)).req = .push 31 2 5 0 ∧
    base.isVector (16 * 5 + 4 * tkStrand (ticket 5 (4 * 6 + 128 * 2) 0)) = true ∧
    (2 ≤ base.vlmax32 80 ∧ (base.strand 80).fe.getLsbD 31 = false) :=
  ⟨canonical_of (by decide +kernel),
    by decide +kernel,
    by decide +kernel,
    by decide +kernel,
    by decide +kernel,
    by decide +kernel,
    by decide +kernel,
    by decide +kernel,
    by decide +kernel,
    by decide +kernel,
    by decide +kernel,
    by decide +kernel,
    by decide +kernel,
    by decide +kernel,
    by decide +kernel,
    by decide +kernel,
    by decide +kernel,
    by decide +kernel,
    by decide +kernel,
    by decide +kernel,
    by decide +kernel,
    by decide +kernel,
    by decide +kernel,
    by decide +kernel,
    by decide +kernel⟩

theorem wit_OperationEvents :
    Canonical (operating { sid := 80, vd := 1, left := 1 }) ∧
    ({ sid := 80, vd := 1, left := 1 } : FabOp).tgen = ((operating { sid := 80, vd := 1, left := 1 }).vd 1).tgen ∧
    (operating { sid := 80, vd := 1, left := 1 }).scored 80 = false ∧
    (operating { sid := 80, vd := 1, left := 1, seq := 3, dst := some (4, 64, false), earliest := 161, launch := some 1048576 }).opAlive { sid := 80, vd := 1, left := 1, seq := 3, dst := some (4, 64, false), earliest := 161, launch := some 1048576 } = true ∧
    (operating { sid := 80, vd := 1, left := 1, seq := 3, dst := some (4, 64, false), earliest := 161, launch := some 1048576 }).lcy 80 < 161 ∧
    (⟨3, 150, .g 4, none, 0, none, false⟩ : Pend) ∈ ((operating {}).strand 80).pend ∧
    (operating { sid := 80, vd := 1, left := 1, launch := some 1048576 }).opAlive { sid := 80, vd := 1, left := 1, launch := some 1048576 } = true ∧
    ({ sid := 80, vd := 1, left := 1, tgen := 1 } : FabOp).tgen ≠ ((operating {}).vd 1).tgen :=
  ⟨canonical_of (by decide +kernel),
    by decide +kernel,
    by decide +kernel,
    by decide +kernel,
    by decide +kernel,
    by decide +kernel,
    by decide +kernel,
    by decide +kernel⟩

theorem wit_DrayEvents :
    Canonical (draying { fn := 5, seq := 7, dst := 64, len := 64, vd := 1, core := 5, sid := 80, part := some 0 }) ∧
    ((draying { fn := 5, seq := 7, dst := 64, len := 64, vd := 1, core := 5, sid := 80, part := some 0 }).drayLocal { fn := 5, seq := 7, dst := 64, len := 64, vd := 1, core := 5, sid := 80, part := some 0 } false 64 64) = some (5, 64) ∧
    ((64 % 64 + 64 ≤ 64) ∧ base.stringBusy 5 64 64 = false ∧ (base.core 5).used base.pkg.ency &&& banksOf 64 64 = 0) ∧
    (({ fn := 5, len := 64 } : DrayCmd).running = false ∧ ({ fn := 5, len := 64 } : DrayCmd).result = none ∧ ({ fn := 5, len := 64 } : DrayCmd).mig = none ∧ ({ fn := 5, len := 64 } : DrayCmd).pos = 0) ∧
    ({ fn := 5, result := some 0 } : DrayCmd).result = some 0 ∧
    ((draying { seq := 7, running := true }).dray 1).cmds = [{ seq := 7, running := true }] ∧
    (((timedFill 2).launch 1048576).st = .running ∧ ((timedFill 2).launch 1048576).drays = [{ block := toBytes 64 (2 ^ 134 + 2 ^ 320 * 158 + 2 ^ 352 * 8), bar := 0, dray := 1, fn := 5, core := 5 }]) ∧
    (cmdOf 5 (toBytes 64 (2 ^ 134 + 2 ^ 320 * 158 + 2 ^ 352 * 8))).start + 4096 * 0 ≤ (timedFill 2).lcyL 1048576 ∧
    (timedFill 2).lcyL 1048576 - (cmdOf 5 (toBytes 64 (2 ^ 135 + 2 ^ 320 * 159 + 2 ^ 352 * 8))).start < (cmdOf 5 (toBytes 64 (2 ^ 135 + 2 ^ 320 * 159 + 2 ^ 352 * 8))).units ∧
    (((migrating 3968).migSlot 2).state = 1 ∧ ((migrating 3968).migSlot 2).dray = 1 ∧ ((migrating 3968).migSlot 2).seq = 7 ∧ ((migrating 3968).dray 1).cmds = [{ seq := 7, mig := some 2, running := true }]) ∧
    ((migrating 3840).linesFault (4096 * 64 + 3840) 128 = none ∧ 3840 + 128 < 4096) ∧
    ({ migrating 3968 with lines := [(4096 * 64 / 64 + 62, { poison := some 1, written := true })] } : State).linesFault (4096 * 64 + 3968) 128 = some 16 :=
  ⟨canonical_of (by decide +kernel),
    by decide +kernel,
    by decide +kernel,
    by decide +kernel,
    by decide +kernel,
    by decide +kernel,
    by decide +kernel,
    by decide +kernel,
    by decide +kernel,
    by decide +kernel,
    by decide +kernel,
    by decide +kernel⟩

theorem wit_PortAndKeyEvents :
    Canonical (carrying {}) ∧
    ((carrying {}).portEntry (portKey 1 5 0)).isOpen = true ∧
    (((carrying {}).portEntry (portKey 31 31 63)).isOpen = false ∧ ((carrying {}).portEntry (portKey 31 31 63)).closed = none) ∧
    (closingPort {}).strands = [(80, { wait := some (.port (portKey 1 5 0) 0 7 8 176), slot := .runnable, launch := some 1048576 })] ∧
    ((({ on {} with pkg := { State.reset.pkg with ency := 4096 * 5, advance := some ⟨6, 9, 80, 7, 8, 160, none⟩ } } : State).pkg.advance) = some ⟨6, 9, 80, 7, 8, 160, none⟩ ∧ (4096 * 5) / 4096 + 1 = 6) ∧
    ({ on {} with pkg := { State.reset.pkg with ency := 4096 * 6, advance := some ⟨6, 9, 80, 7, 8, 160, none⟩ } } : State).pkg.ency = 4096 * 6 :=
  ⟨canonical_of (by decide +kernel),
    by decide +kernel,
    by decide +kernel,
    by decide +kernel,
    by decide +kernel,
    by decide +kernel⟩

theorem wit_NetworkWordsAndEvents :
    Canonical (posting { g := gs [(1, 3), (2, 0x10040)] } { exists_ := true, vd := 1, sendLog := 4, recvLog := 4, comp := [(0, 9)] } 0) ∧
    (posting { g := gs [(1, 3), (2, 0x10040)] } { exists_ := true, vd := 1 } 0).Ready { src := [.g 1], dst := [.g 7], outward := true } ∧
    (((posting {} { exists_ := true, vd := 1 } 0).qp 3).exists_ = true ∧ ((posting {} { exists_ := true, vd := 1 } 0).qp 3).vd = (posting {} {} 0).strandVd 80) ∧
    (¬ (((posting {} { exists_ := true, vd := 1 } 0).qp 4).exists_ = true)) ∧
    ((posting {} { exists_ := true, vd := 1, comp := [(0, 9)] } 0).qp 3).comp = (0, 9) :: [] ∧
    (posting { g := gs [(1, 3), (2, 0x10040)] } { exists_ := true, vd := 1 } 0).Ready { src := [.tk 4, .g 1, .g 2], dst := [.g 7], outward := true } ∧
    (∃ u x, (posting { g := gs [(1, 3), (2, 0x10040)] } { exists_ := true, vd := 1, sendLog := 4, recvLog := 4 } 5).checkAccess 80 .vir 0x10040 64 .read .plain = (u, .ok x) ∧ decide (x.cycles = [[⟨0, 0x40040, 0, 0, 0, 0, true, none⟩]] ∧ (∀ y ∈ u.accesses, y.2.sid = 80 → y.2.blocks x = false) ∧ u.migrate x.vd 0x40040 = some 0x40040 ∧ blockField (toBytes 64 (u.accRead x ⟨0, 0x40040, 0, 0, 0, 0, true, none⟩ 0x40040).1) 0 1 = 5 ∧ workBad (toBytes 64 (u.accRead x ⟨0, 0x40040, 0, 0, 0, 0, true, none⟩ 0x40040).1) = false) = true) ∧
    (workBad (toBytes 64 6) = true ∧ workBad (toBytes 64 3) = false) ∧
    ((posting {} { exists_ := true, vd := 1, errored := true } 0).qp 3).errored = true ∧
    (((posting {} { exists_ := true, vd := 1, recvLog := 4 } 0).qp 3).recv).length < 2 ^ ((posting {} { exists_ := true, vd := 1, recvLog := 4 } 0).qp 3).recvLog ∧
    2 ^ 4 ≤ (List.replicate 16 (workOf (toBytes 64 5))).length ∧
    (posting { tk := tks [(4, ticket 4 16 4)] } {} 0).tkFails ((posting { tk := tks [(4, ticket 4 16 4)] } {} 0).me.rtk 4) (regAsk (ticket 4 16 4)) = none ∧
    ((posting {} {} 0).tkFails ((posting {} {} 0).me.rtk 4) (regAsk 0)).isSome = true ∧
    ((posting {} { exists_ := true, send := [{ workOf (toBytes 64 0) with sent := true }] } 0).qp 3).send = [{ workOf (toBytes 64 0) with sent := true }] ∧
    (((workOf (toBytes 64 0)).result = none) ∧ (workOf (toBytes 64 0)).op ≠ 2) ∧
    (0 + 2 ^ 28 ≤ ({ posting {} {} 0 with pkg := { State.reset.pkg with ency := 2 ^ 28 } } : State).pkg.ency) ∧
    (((posting {} { exists_ := true, recv := [workOf (toBytes 64 5)] } 0).qp 3).recv = [workOf (toBytes 64 5)] ∧ (workOf (toBytes 64 5)).len < 1) ∧
    (((posting {} { exists_ := true, strict := true } 0).qp 3).strict = true ∧ ((posting {} { exists_ := true } 0).qp 3).recv = []) ∧
    (((posting {} {} 0).qp 3).exists_ = false ∧ (∀ n ∈ [4, 15, 4], 4 ≤ n ∧ n ≤ 15)) :=
  ⟨canonical_of (by decide +kernel),
    ready_of (by decide +kernel),
    by decide +kernel,
    by decide +kernel,
    by decide +kernel,
    ready_of (by decide +kernel),
    passes _ (by decide +kernel),
    by decide +kernel,
    by decide +kernel,
    by decide +kernel,
    by decide +kernel,
    by decide +kernel,
    by decide +kernel,
    by decide +kernel,
    by decide +kernel,
    by decide +kernel,
    by decide +kernel,
    by decide +kernel,
    by decide +kernel⟩

theorem wit_LaunchEvents :
    Canonical (heading {}) ∧
    (((heading {}).launchQueue 0 0).log2n ≠ 0 ∧ ((heading {}).launchQueue 0 0).qerr = false) ∧
    ((headTail 16).head = (headTail 16).tail - 16 ∧ ((headTail 16).tail + 2 ^ 32 - (headTail 16).head) % 2 ^ 32 ≤ 2 ^ (headTail 16).log2n) ∧
    (heading {}).linesFault ((heading {}).launchQueue 0 0).tailaddr 4 = none ∧
    (base.launchQueue 0 3).log2n = 0 ∧
    (((base.launchQueue 0 0).pending = []) ∧ (base.launchQueue 0 1).pending = [] ∧ (base.launchQueue 0 2).pending = [] ∧ (base.launchQueue 0 3).pending = []) ∧
    (((heading {}).launchQueue 0 0).pending = [0] ∧ ((heading {}).launchQueue 0 0).head < 2 ^ 32 - 1 ∧ ((heading {}).launchQueue 0 0).tail = ((heading {}).launchQueue 0 0).head + 1) ∧
    ((heading {}).headDesc 0 0).map (fun e => (e.1, e.2.2)) = some (0, none) ∧
    (((heading {}).headDesc 0 0).map fun e => ((heading {}).headFate 0 0 e.1 e.2.1 none, (heading {}).coresFor 0 e.2.1)) = some (.place, some [6]) ∧
    (((halted {}).strand 80).slot = .halted ∧ ((halted {}).strand 80).launch = some 1048576 ∧ (halted {}).drained 80 = true) ∧
    (((halted {}).strand 80).unit, UState.active) ∈ ((halted {}).launch 1048576).units ∧
    ((1, UState.active) ∈ ((halted {}).launch 1048576).units ∧ (1, UState.active).1 ≠ ((halted {}).strand 80).unit) ∧
    (halted { pend := [⟨3, 150, .g 4, none, 0, none, false⟩] }).drained 80 = false ∧
    (((scoring { st := .running, npkg := 2, units := [(0, .complete)] } {} 0).launch 1048576).st = .running ∧ ((scoring { st := .running, npkg := 2, units := [(0, .complete)] } {} 0).launch 1048576).checks = 0 ∧ 2 ≤ ((scoring { st := .running, npkg := 2, units := [(0, .complete)] } {} 0).launch 1048576).npkg) ∧
    (((scoring { st := .cancelling, units := [(0, .stopping 80)] } {} 0).launch 1048576).units = [(0, .stopping 80)] ∧ (scoring { st := .cancelling, units := [(0, .stopping 80)] } {} 0).drained 80 = true) ∧
    (scoring { st := .cancelling, units := [(0, .stopping 80)] } { pend := [⟨3, 150, .g 4, none, 0, none, false⟩] } 0).drained 80 = false :=
  ⟨canonical_of (by decide +kernel),
    by decide +kernel,
    by decide +kernel,
    by decide +kernel,
    by decide +kernel,
    by decide +kernel,
    by decide +kernel,
    by decide +kernel,
    by decide +kernel,
    by decide +kernel,
    by decide +kernel,
    by decide +kernel,
    by decide +kernel,
    by decide +kernel,
    by decide +kernel,
    by decide +kernel⟩

theorem wit_ScoredLaunchEvents :
    Canonical (scoring { st := .admitted, startbar := 4, reported := true } {} (4096 * 4)) ∧
    (((scoring { st := .admitted, startbar := 4, reported := true } {} (4096 * 4)).launch 1048576).scored = true ∧ 4096 * 4 ≤ (scoring { st := .admitted, startbar := 4, reported := true } {} (4096 * 4)).pkg.ency ∧ (scoring { st := .admitted, startbar := 4 } {} (4096 * 4)).pkg.restbar = none) ∧
    ((scoring { st := .admitted, startbar := 4, reported := true } {} (4096 * 4)).coresReady ((scoring { st := .admitted, startbar := 4, reported := true } {} (4096 * 4)).launch 1048576) = true ∧ (scoring {} {} 0).pkg.locked = true) ∧
    ((scoring { st := .admitted, startbar := 4 } {} (4096 * 4)).launch 1048576).reported = false ∧
    (scoring { st := .admitted, startbar := 4 } {} (4096 * 3 - 1)).pkg.ency < 4096 * (4 - 1) ∧
    (((scoring { st := .running, lcy := some 160, nb := 1 } {} 0).launch 1048576).endAt = none ∧ ((scoring { st := .running, lcy := some 160 } {} 0).launch 1048576).first.isNone = true ∧ (scoring { st := .running, lcy := some 160 } {} 0).lcyL 1048576 ≤ 150 + Nat.max (scoring {} {} 0).pkg.endlat 16) ∧
    (4096 * 1 ≤ (scoring { st := .running, lcy := some 4096, nb := 1 } { slot := .halted } 0).lcyL 1048576 ∧ ((scoring { st := .running, lcy := some 4096, nb := 1 } { slot := .halted } 0).launch 1048576).sids = [80] ∧ ((scoring {} { slot := .halted } 0).strand 80).slot = .halted ∧ ((scoring {} { slot := .halted } 0).strand 80).launch = some 1048576) ∧
    ((scoring {} { slot := .runnable } 0).strand 80).slot = .runnable ∧
    (((scoring { st := .ending, endAt := some 4096, lcy := some 4096 } {} 0).launch 1048576).endAt = some 4096 ∧ 4096 ≤ (scoring { st := .ending, endAt := some 4096, lcy := some 4096 } {} 0).lcyL 1048576) ∧
    (scoring { st := .ending, endAt := some 4096, lcy := some 4095 } {} 0).lcyL 1048576 < 4096 ∧
    ((scoring { st := .done } {} 0).launch 1048576).st = .done ∧
    (((requesting { st := .running, lcy := some 160 }).part 0).ctlpage ≠ 0 ∧ ((requesting { st := .running, lcy := some 160 }).memNat (((requesting {}).part 0).ctlpage + 0x140) 8).testBit 16 = true) ∧
    ((requesting { st := .running, lcy := some 160 }).scoredNamed 0 3 = some 1048576 ∧ ((requesting { st := .running, lcy := some 160 }).launch 1048576).preAt = none) ∧
    (((scoring { st := .running, preAt := some 4096, lcy := some 4096 } {} 0).launch 1048576).preAt = some 4096 ∧ 4096 ≤ (scoring { st := .running, preAt := some 4096, lcy := some 4096 } {} 0).lcyL 1048576 ∧ ((scoring { st := .running, preAt := some 4096, lcy := some 4096 } {} 0).launch 1048576).checks = 0) ∧
    (scoring { st := .running, preAt := some 4096, lcy := some 4095 } {} 0).lcyL 1048576 < 4096 ∧
    ((requesting { st := .preempted, lcy := some 160 }).scoredNamed 0 ((requesting { st := .preempted, lcy := some 160 }).memNat (((requesting {}).part 0).ctlpage + 0x148) 8 % 65536) = some 1048576 ∧ ((requesting { st := .preempted }).launch 1048576).resumeAt = none) ∧
    (look 1048576 (imaged 4096).images = some {} ∧ ((imaged 4096).launch 1048576).resumeAt = some 1 ∧ 4096 * 1 ≤ (imaged 4096).pkg.ency ∧ (imaged 4096).linesFault ({} : Image).addr ({} : Image).size = none ∧ (imaged 4096).pkg.therm < 2) ∧
    ((imaged 4096).coresReady ((imaged 4096).launch 1048576) = true ∧ ({} : Image).cores = []) ∧
    (imaged 4095).pkg.ency < 4096 * 1 :=
  ⟨canonical_of (by decide +kernel),
    by decide +kernel,
    by decide +kernel,
    by decide +kernel,
    by decide +kernel,
    by decide +kernel,
    by decide +kernel,
    by decide +kernel,
    by decide +kernel,
    by decide +kernel,
    by decide +kernel,
    by decide +kernel,
    by decide +kernel,
    by decide +kernel,
    by decide +kernel,
    by decide +kernel,
    by decide +kernel,
    by decide +kernel,
    by decide +kernel⟩

theorem wit_TimeEvents :
    Canonical base ∧
    ({ base with pkg := { State.reset.pkg with stage := 3, locked := true } } : State).pkg.stage = 3 ∧
    ((-65536 ≤ (BitVec.ofInt 32 (-65536)).toInt) ∧ (BitVec.ofInt 32 65536).toInt ≤ 65536) ∧
    (65536 < (BitVec.ofInt 32 65537).toInt ∧ (0x80000000 : BitVec 32).toInt < -65536) ∧
    ((({ base with pkg := { State.reset.pkg with restbar := some 5, ency := 4096 * 5 } } : State).pkg.restbar = some 5) ∧ 4096 * 5 / 4096 = 5) ∧
    ((4096 * 6 / 4096 > 5) ∧ 4095 / 4096 < 5) ∧
    ((({ base with pkg := { State.reset.pkg with stage := 2, ency := 4096 } } : State).pkg.stage = 2) ∧ 4096 % 4096 = 0) ∧
    (({ base with pkg := { State.reset.pkg with lockAsked := true } } : State).pkg.lockAsked = true ∧ base.pkg.restbar ≠ some (base.pkg.ency / 4096)) ∧
    (({ base with parts := [(0, headPart)] } : State).parts = [(0, headPart)] ∧ headPart.ctlpage ≠ 0) :=
  ⟨canonical_of (by decide +kernel),
    by decide +kernel,
    by decide +kernel,
    by decide +kernel,
    by decide +kernel,
    by decide +kernel,
    by decide +kernel,
    by decide +kernel,
    by decide +kernel⟩

theorem wit_VdAndServiceEvents :
    Canonical (served {}) ∧
    (((served {}).vd 1).ring = [⟨3, 0, 7⟩] ∧ (served {}).scheduledIn 1 = true ∧ (⟨3, 0, 7⟩ : IrqEntry).tgen = ((served {}).vd 1).tgen) ∧
    ({ base with vds := [(1, { state := 1, ring := [⟨3, 5, 7⟩] })] } : State).scheduledIn 1 = false ∧
    (((served {}).part 0).overflow = [⟨0, 0, 0, 0, 0, 0, 0⟩] ∧ (served {}).ringFree 0 = true) ∧
    ({ base with parts := [(0, { overflow := [⟨0, 0, 0, 0, 0, 0, 0⟩] })] } : State).ringFree 0 = false ∧
    ((served {}).vdschedBit 0 0 = true ∧ (served {}).hwSaved = []) ∧
    (served {}).vdschedBit 0 7 = false ∧
    (base.vdschedBit 0 0 = false ∧ base.strands.map (·.1) = [80] ∧ base.strandVd 80 = base.vdOfX 0 0 ∧ base.strandPart 80 = some 0 ∧ base.preemptable 80 = true) ∧
    ((base.vd 1).state ≠ 2 ∧ ({ base with vds := [(1, { state := 2 })] } : State).vd 1 = { state := 2 }) ∧
    (({ base with vds := [(1, { state := 2 })], packets := [(7, { vd := 1 })] } : State).packets = [(7, { vd := 1 })] ∧ ({ vd := 1 } : Packet).timed = false) ∧
    ({ base with vds := [(1, { state := 2, retain := true })] } : State).vd 1 = { state := 2, retain := true } ∧
    (({ base with vds := [(1, { state := 3 })] } : State).vd 1 = { state := 3 } ∧ 1 ∉ base.pkg.lostVds ∧ (base.vd 7).state = 0) ∧
    isNear (4096 * 64) = true ∧
    ((((base.part 0).ways.toList[3]?).getD 0) = 0 ∧ ∀ l ∈ base.mc, l.dirty = false) ∧
    (isDevice 0xF000000000000 = true ∧ isDevice 0xFFFFFFFFFFFFF = true) ∧
    base.elsewhere 0 (·.drays) (BitVec.ofNat 48 2) = false ∧
    base.elsewhere 1 (·.drays) (BitVec.ofNat 48 2) = true ∧
    (base.core 959).enabled = false ∧
    (({ base with strands := [], cores := [(5, { enabled := true })] } : State).core 5 = { enabled := true } ∧ ({ base with strands := [], cores := [(5, { enabled := true })] } : State).vacated 5 = true) ∧
    ((4095 % 4096 ≠ 0) ∧ 4096 % 4096 = 0) ∧
    base.movable 0 (BitVec.ofNat 120 1) 0 0 = false ∧
    ({ base with strands := [], launches := [] } : State).movable 0 (BitVec.ofNat 120 1) 2 0 = true :=
  ⟨canonical_of (by decide +kernel),
    by decide +kernel,
    by decide +kernel,
    by decide +kernel,
    by decide +kernel,
    by decide +kernel,
    by decide +kernel,
    by decide +kernel,
    by decide +kernel,
    by decide +kernel,
    by decide +kernel,
    by decide +kernel,
    by decide +kernel,
    by decide +kernel,
    by decide +kernel,
    by decide +kernel,
    by decide +kernel,
    by decide +kernel,
    by decide +kernel,
    by decide +kernel,
    by decide +kernel,
    by decide +kernel⟩

theorem wit_PowerEvents :
    Canonical base ∧
    (({ base with parts := [(0, { idleSince := some 0 })], pkg := { State.reset.pkg with ency := 65536 } } : State).part 0 = { idleSince := some 0 } ∧ 0 + 65536 ≤ 65536) ∧
    (({ base with strands := [], launches := [] } : State).partIdle 0 = true ∧ ({ base with strands := [], launches := [] } : State).mayChange 0 = true) ∧
    base.partIdle 0 = false ∧
    ((base.part 0).pstate = 0 ∧ ({ base with parts := [(0, { pstate := 3 })] } : State).part 0 = { pstate := 3 }) ∧
    (base.pkg.therm = 0 ∧ ({ base with pkg := { State.reset.pkg with therm := 2 } } : State).pkg.therm = 2) ∧
    (120 ≤ (⟨120, 0, 0, false⟩ : ThermalData).junction ∧ (110 ≤ 119 ∧ 119 < 120) ∧ (100 ≤ 109 ∧ 109 < 110)) ∧
    (({ scoring { st := .running, lcy := some 160 } {} 0 with strands := [] } : State).launches.map (·.1) = [1048576] ∧ ((scoring { st := .running, lcy := some 160 } {} 0).launch 1048576).preAt = none) :=
  ⟨canonical_of (by decide +kernel),
    by decide +kernel,
    by decide +kernel,
    by decide +kernel,
    by decide +kernel,
    by decide +kernel,
    by decide +kernel,
    by decide +kernel⟩

theorem wit_StartEvents :
    Canonical State.reset ∧
    State.reset.pkg.stage = 7 ∧
    (({ base with pkg := { State.reset.pkg with stage := 0 } } : State).pkg.stage = 0) ∧
    ({ base with pkg := { State.reset.pkg with stage := 0, floodStart := some 0 } } : State).implied 1 0 3 = some (1, 0) ∧
    (look (siteNum 1 0) base.pkg.sites).isNone = true ∧
    (siteCore 1 5 = some 5 ∧ 5 < 960 ∧ base.pkg.fused.getLsbD 5 = false ∧ base.pkg.ency < 0 + 1024) ∧
    (({ base with pkg := { State.reset.pkg with sites := [(5, 0, 0, true)] } } : State).pkg.sites = [(5, 0, 0, true)] ∧ (∀ e ∈ base.pkg.sites, e.2.2.2 = false)) ∧
    (({ base with pkg := { State.reset.pkg with stage := 1 } } : State).pkg.bootSum = none ∧ base.pkg.booted = false) ∧
    (({ base with launches := [] } : State).bootLaunch).isNone = true ∧
    (((booting 3).pkg.bootSum = some 9) ∧ (booting 3).pkg.stage = 1 ∧ (((booting 3).vd 0).counter 1).reached 1 = true ∧ ((booting 3).coresWhere (·.enabled)).length = 1) ∧
    ((((booting 9).vd 0).counter 2).done = BitVec.ofNat 32 1 * 9 ∧ ((booting 9).vd 0).state = 1) ∧
    (((booting 3).vd 0).counter 2).done ≠ BitVec.ofNat 32 1 * 9 ∧
    (((booting 3).strand (16 * 5)).slot = .parked .boot ∧ (booting 3).goWord 5 = 0) ∧
    ({ booting 3 with spad := writeBytes [] (5 * 524288 + 0x7FFF0) [8] } : State).goWord 5 ≠ 0 ∧
    ((booting 3).bootLaunch.map (·.1)) = some 1048576 ∧
    (({ base with pkg := { State.reset.pkg with stage := 2 } } : State).pkg.stage = 2) :=
  ⟨canonical_of (by decide +kernel),
    by decide +kernel,
    by decide +kernel,
    by decide +kernel,
    by decide +kernel,
    by decide +kernel,
    by decide +kernel,
    by decide +kernel,
    by decide +kernel,
    by decide +kernel,
    by decide +kernel,
    by decide +kernel,
    by decide +kernel,
    by decide +kernel,
    by decide +kernel,
    by decide +kernel⟩

theorem wit_HostEvents :
    Canonical base ∧
    ((base.vd 1).tdisp = .configUnlocked ∧ base.lockedVds < 64) ∧
    (({ base with vds := [(1, { state := 1, tdisp := .run })] } : State).vd 1 = { state := 1, tdisp := .run } ∧ ({ base with vds := [(1, { state := 1, tdisp := .run })], pkg := { State.reset.pkg with hostVfs := true }, frames := [(64, { owner := 1, assigned := true })] } : State).vdOwns 1 0x40000 8 = true) ∧
    base.linesFault 0x40000 8 = none ∧
    (State.reset.pkg.stage = 7 ∧ ({ base with pkg := { State.reset.pkg with stage := 0 } } : State).pkg.stage ≠ 7) :=
  ⟨canonical_of (by decide +kernel),
    by decide +kernel,
    by decide +kernel,
    by decide +kernel,
    by decide +kernel⟩

theorem wit_CheckpointEvents :
    Canonical base ∧
    (base.ckpt.state ≠ 1 ∧ base.ckpt.state ≠ 2 ∧ base.ckpt.state ≠ 3) ∧
    (({ base with ckpt := { state := 1, vd := 1 } } : State).ckpt.state = 1 ∧ base.dirty = []) ∧
    ({ base with ckpt := { state := 1, vd := 1 }, dirty := [4], frames := (List.range 16).map fun i => (64 + i, ({ owner := 1, assigned := true } : Frame)) } : State).dirty.filter (fun u => (List.range 16).all fun i => (({ base with frames := (List.range 16).map fun i => (64 + i, ({ owner := 1, assigned := true } : Frame)) } : State).frame (16 * u + i)).owner == 1) = [4] ∧
    Nat.min (16384 - 0) base.ckpt.sparelen < 1 ∧
    (({ base with ckpt := { state := 2, units := [4], copied := 1 } } : State).ckpt.units.length ≤ 1) ∧
    ((({ base with ckpt := { state := 2, units := [4] } } : State).ckpt.units[0]? = some 4) ∧ base.linesFault (65536 * 4) 65536 = none ∧ base.areaFits 0x30000 0x10000 = false) ∧
    ({ base with ckpt := { state := 2, vd := 1, units := [4], area := 0x10000000 }, frames := (List.range 16).map fun i => (0x10000030 + i, ({ owner := 1, assigned := true } : Frame)) } : State).areaFits (4096 * 0x10000030) 0x10000 = true ∧
    ({ base with ckpt := { state := 3, remap := [⟨4, 9, 1⟩] } } : State).ckpt.nextMove = some (⟨4, 9, 1⟩, 0) ∧
    ((({ base with ckpt := { state := 3 } } : State).ckpt.nextMove).isNone = true ∧ ({ base with ckpt := { state := 3, cn := 15 } } : State).ckpt.cn < 16) :=
  ⟨canonical_of (by decide +kernel),
    by decide +kernel,
    by decide +kernel,
    by decide +kernel,
    by decide +kernel,
    by decide +kernel,
    by decide +kernel,
    by decide +kernel,
    by decide +kernel,
    by decide +kernel⟩

end Sys2Proof.Tests
end

section
/-! Proofs of the statement on control and status registers (O24): what each CSR reads and keeps, which check of a CSR access
decides (R69), and the three words in terms of both. -/
namespace Sys2Proof.Machine

/-! ## The value of a CSR (R68) -/

section
variable (s : State) (sid : Nat)

@[simp] theorem State.csr_fpctl : s.csr sid 0x00 = (s.strand sid).fpctl.setWidth 64 := rfl
@[simp] theorem State.csr_priv : s.csr sid 0x02 = BitVec.ofNat 64 (s.strand sid).priv := rfl
@[simp] theorem State.csr_lcy : s.csr sid 0x10 = BitVec.ofNat 64 (s.lcy sid) := rfl
@[simp] theorem State.csr_turnInBar : s.csr sid 0x12 = BitVec.ofNat 64 (s.lcy sid % 16) := rfl
@[simp] theorem State.csr_ency : s.csr sid 0x13 = BitVec.ofNat 64 s.pkg.ency := rfl
@[simp] theorem State.csr_tvec : s.csr sid 0x20 = (s.strand sid).tvec := rfl
@[simp] theorem State.csr_epc : s.csr sid 0x21 = (s.strand sid).epc := rfl
@[simp] theorem State.csr_ecause : s.csr sid 0x22 = (s.strand sid).ecause.setWidth 64 := rfl
@[simp] theorem State.csr_eval : s.csr sid 0x23 = (s.strand sid).eval := rfl
@[simp] theorem State.csr_estat : s.csr sid 0x24 = (s.strand sid).estat.setWidth 64 := rfl
@[simp] theorem State.csr_sscratch : s.csr sid 0x25 = (s.strand sid).sscratch := rfl
@[simp] theorem State.csr_harpw : s.csr sid 0x49 = BitVec.ofNat 64 (s.core (coreOf sid)).harpw := rfl

end

/-! ## What a written value leaves (R6, R69, R70, R354) -/

section
variable (x : Strand) (v : Word)

@[simp] theorem Strand.setCsr_fpctl : x.setCsr 0x00 v = { x with fpctl := v.setWidth 32 &&& 0x1F3#32 } := rfl
@[simp] theorem Strand.setCsr_tvec : x.setCsr 0x20 v = { x with tvec := v &&& ~~~7#64 } := rfl
@[simp] theorem Strand.setCsr_epc : x.setCsr 0x21 v = { x with epc := v } := rfl
@[simp] theorem Strand.setCsr_ecause : x.setCsr 0x22 v = { x with ecause := v.setWidth 16 } := rfl
@[simp] theorem Strand.setCsr_eval : x.setCsr 0x23 v = { x with eval := v } := rfl
@[simp] theorem Strand.setCsr_estat :
    x.setCsr 0x24 v = { x with estat := (v.setWidth 8 &&& 7#8) ||| (x.estat &&& 8#8) } := rfl
@[simp] theorem Strand.setCsr_sscratch : x.setCsr 0x25 v = { x with sscratch := v } := rfl

end

/-- Clearing the bits of a mask takes away what the value has under it: the two parts share no bit, so their sum is their union. -/
theorem and_not_eq_sub_and {n : Nat} (v m : BitVec n) : v &&& ~~~m = v - (v &&& m) := by
  have disjoint : (v &&& ~~~m) &&& (v &&& m) = 0#n := by ext i; simp; grind
  have union : (v &&& ~~~m) ||| (v &&& m) = v := by ext i; simp; grind
  rw [BitVec.eq_sub_iff_add_eq, BitVec.add_eq_or_of_and_eq_zero _ _ disjoint, union]

/-- Three bits come from the written value and bit 3 stays as it was. -/
theorem getLsbD_estatMask (v e : BitVec 8) {i : Nat} (h : i < 8) :
    ((v &&& 7#8) ||| (e &&& 8#8)).getLsbD i = if i < 3 then v.getLsbD i else if i = 3 then e.getLsbD 3 else false := by
  have low : ∀ j < 8, (7#8).getLsbD j = decide (j < 3) := by decide
  have bit3 : ∀ j < 8, (8#8).getLsbD j = decide (j = 3) := by decide
  rw [BitVec.getLsbD_or, BitVec.getLsbD_and, BitVec.getLsbD_and, low i h, bit3 i h]
  grind

/-! ## The checks of a CSR access (R69) -/

section
variable {s : State} {n : Nat} {u : Use} {effect : State → Res}

theorem csrAccess_unassigned (write : Bool) (h : csrLevels n = none) : csrAccess s n write u effect = illegalInstr s := by
  simp [csrAccess, h]

theorem csrAccess_write_unsettable {r : Nat} (h : csrLevels n = some (r, none)) :
    csrAccess s n true u effect = privilege s := by
  simp [csrAccess, h]

theorem csrAccess_read_ready {r : Nat} {w : Option Nat} (h : csrLevels n = some (r, w))
    (ready : s.Ready { u with level := r }) : csrAccess s n false u effect = effect s := by
  simp [csrAccess, h, word_ready ready]

theorem csrIsCore_of_lt (h : n < 0x40) : csrIsCore n = false := by
  simpa [csrIsCore] using h

theorem csrAccess_write_ready {r l : Nat} (h : csrLevels n = some (r, some l)) (hn : n < 0x40)
    (ready : s.Ready { u with level := Nat.max u.level l, outward := false }) :
    csrAccess s n true u effect = effect s := by
  simp [csrAccess, h, csrIsCore_of_lt hn, word_ready ready]

end

/-- A write of a strand-scope CSR is a result of the strand and nothing else. -/
theorem State.csrWrite_of_lt (s : State) {n : Nat} (v : Word) (h : n < 0x40) :
    s.csrWrite n v = s.landWide (.csr n) (v.setWidth 65536) 2 := by
  simp [State.csrWrite, csrIsCore_of_lt h]

/-! ## The words (R128) -/

theorem exec_csrr (d : GReg) (csr : Fin 512) (s : State) : exec (.csrr d csr) s =
    finish s (csrAccess s csr false { src := csrSrc csr, dst := [.g d] } fun s =>
      .ok (s.landG d (s.csr s.cur.sid csr) 2)) := rfl

theorem exec_csrw (csr : Fin 512) (a : GReg) (s : State) : exec (.csrw csr a) s =
    finish s (csrAccess s csr true { src := [.g a], dst := [.csr csr] } fun s => .ok (s.csrWrite csr (s.rg a))) := rfl

theorem exec_csrx (d : GReg) (csr : Fin 512) (a : GReg) (s : State) : exec (.csrx d csr a) s =
    finish s (csrAccess s csr true { src := .g a :: csrSrc csr, dst := [.g d, .csr csr] } fun s =>
      .ok ((s.landG d (s.csr s.cur.sid csr) 2).csrWrite csr (s.rg a))) := rfl

open Sys2Proof.Claims

section
variable {s : State} {d a : GReg} {csr : Fin 512}

theorem csrr_does {r : Nat} {w : Option Nat} (h : csrLevels csr = some (r, w))
    (ready : s.Ready { level := r, src := csrSrc csr, dst := [.g d] }) :
    Does (.csrr d csr) s (s.landG d (s.csr s.cur.sid csr) 2) := by
  rw [Does, exec_csrr, csrAccess_read_ready h ready, finish_ok]

theorem csrw_does {r l : Nat} (h : csrLevels csr = some (r, some l)) (hn : csr.val < 0x40)
    (ready : s.Ready { level := l, src := [.g a], dst := [.csr csr] }) :
    Does (.csrw csr a) s (s.landWide (.csr csr) ((s.rg a).setWidth 65536) 2) := by
  rw [Does, exec_csrw, csrAccess_write_ready h hn (by simpa using ready), finish_ok, State.csrWrite_of_lt s _ hn]

theorem csrx_does {r l : Nat} (h : csrLevels csr = some (r, some l)) (hn : csr.val < 0x40)
    (ready : s.Ready { level := l, src := .g a :: csrSrc csr, dst := [.g d, .csr csr] }) :
    Does (.csrx d csr a) s
      ((s.landG d (s.csr s.cur.sid csr) 2).landWide (.csr csr) ((s.rg a).setWidth 65536) 2) := by
  rw [Does, exec_csrx, csrAccess_write_ready h hn (by simpa using ready), finish_ok, State.csrWrite_of_lt _ _ hn]

end

/-- The value is the CSR as it stands, which the laws above give number by number. -/
theorem csrReads : CsrReads := by
  intro s d csr r w levels ready
  refine ⟨s.csr s.cur.sid csr, csrr_does levels ready, ?_⟩
  refine ⟨?_, ?_, ?_, ?_, ?_, ?_, ?_, ?_, ?_, ?_, ?_, ?_⟩ <;> intro h <;> simp [h, State.me, State.turn]

theorem csrWrites : CsrWrites := fun _ _ _ _ _ _ levels hn => ⟨csrw_does levels hn, csrx_does levels hn⟩

theorem csrRefusals : CsrRefusals := by
  intro s d a csr
  refine ⟨fun unassigned => ?illegal, fun r unsettable => ?unsettable⟩
  case illegal =>
    simp only [Traps, exec_csrr, exec_csrw, exec_csrx, csrAccess_unassigned _ unassigned, illegalInstr, finish_trap, and_self]
  case unsettable =>
    simp only [Traps, exec_csrw, exec_csrx, csrAccess_write_unsettable unsettable, privilege, finish_trap, and_self]

theorem csrFields : CsrFields := by
  intro x v
  refine ⟨x.setCsr_fpctl v, ?tvec, x.setCsr_epc v, x.setCsr_ecause v, x.setCsr_eval v, x.setCsr_sscratch v, ?estat⟩
  case tvec => rw [Strand.setCsr_tvec, and_not_eq_sub_and]
  case estat =>
    intro i hi
    rw [Strand.setCsr_estat, getLsbD_estatMask _ _ hi, BitVec.getLsbD_setWidth]
    simp [hi]

/-- Settles O24: the reads, the writes, the refusals and the fields, each from the laws above. -/
theorem csrAccesses : Obligations.CsrAccesses := ⟨csrReads, csrWrites, csrRefusals, csrFields⟩

end Sys2Proof.Machine
end

section
/-! Proofs of the statement on landing (O10): what a strand that owes a result has more than before, what one due result does to its
strand, and what the registers of fixed value read. -/
namespace Sys2Proof.Machine

/-! ## Masks of whole registers -/

/-- A whole result leaves nothing of what it replaces (R72). -/
theorem replace_allOnes {n : Nat} (old new : BitVec n) : (old &&& ~~~BitVec.allOnes n) ||| (new &&& BitVec.allOnes n) = new := by
  simp

/-! ## Registers read after a write (R65, R66) -/

section
variable (x : Strand) (v : Wide)

@[simp] theorem Strand.put_g_zero : x.put (.g 0) v = x := rfl
@[simp] theorem Strand.put_p_zero : x.put (.p 0) v = x := rfl
@[simp] theorem Strand.put_m_zero : x.put (.m 0) v = x := rfl
@[simp] theorem Strand.rg_zero : x.rg 0 = 0 := rfl
@[simp] theorem Strand.rp_zero : x.rp 0 = true := rfl
@[simp] theorem Strand.rm_zero : x.rm 0 = BitVec.allOnes 8192 := rfl

variable {x v}

theorem Strand.rg_put {r : GReg} (h : r ≠ 0) (q : GReg) : (x.put (.g r) v).rg q = if q = r then v.setWidth 64 else x.rg q := by
  by_cases hq : q = r
  · subst hq
    simp [Strand.put, Strand.rg, h]
  · have apart : r.val ≠ q.val := fun e => hq (Fin.ext e.symm)
    simp [Strand.put, Strand.rg, h, hq, apart]

/-- Bit q of the predicate file after bit r has been replaced. -/
theorem getLsbD_replaceBit (p : BitVec 8) (b : Bool) (r q : Fin 8) :
    ((p &&& ~~~(1#8 <<< r.val)) ||| (if b then 1#8 <<< r.val else 0)).getLsbD q = if q = r then b else p.getLsbD q := by
  have one : (1#8 <<< r.val).getLsbD q = decide (q = r) := by decide +revert
  have bit : (if b then 1#8 <<< r.val else 0).getLsbD q = (b && decide (q = r)) := by
    cases b
    · simp
    · exact one
  rw [BitVec.getLsbD_or, BitVec.getLsbD_and, BitVec.getLsbD_not, one, bit]
  by_cases h : q = r <;> simp [h]

theorem Strand.rp_put {r : PReg} (h : r ≠ 0) (q : PReg) : (x.put (.p r) v).rp q = if q = r then v.getLsbD 0 else x.rp q := by
  simp only [Strand.put, Strand.rp, h, if_false, getLsbD_replaceBit]
  by_cases hq : q = r
  · simp [hq, h]
  · simp [hq]

end

open Sys2Proof.Claims

theorem hardWiredRegisters : HardWiredRegisters := by
  intro x v
  refine ⟨rfl, rfl, rfl, rfl, rfl, rfl, fun r h => ⟨?_, fun q hq => ?_⟩, fun r h => ⟨?_, fun q hq => ?_⟩⟩
  · simp [Strand.rg_put h]
  · simp [Strand.rg_put h, hq]
  · simp [Strand.rp_put h]
  · simp [Strand.rp_put h, hq]

/-! ## A word that owes a result (R72, R73) -/

/-- A whole result, of no vector word, that lands at an LCY. -/
def wholeResult (seq turn due : Nat) (d : Dst) (v : Wide) : Pend := ⟨seq, turn, d, some v, BitVec.allOnes 65536, some due, false⟩

theorem onlyOwes_refl (s : State) : OnlyOwes s s :=
  ⟨rfl, rfl, fun _ => rfl, rfl, rfl, rfl, rfl, fun _ _ => rfl, [], by rw [List.append_nil]⟩

theorem landWide_onlyOwes {s : State} (canon : Canonical s) (d : Dst) (v : Wide) (n : Nat) : OnlyOwes s (s.landWide d v n) := by
  have strand (j : Nat) := strand_setStrand s s.cur.sid j
    { s.me with pend := s.me.pend ++ [wholeResult s.me.seq s.turn (s.turn + 16 * n) d v] } canon.rstrands
  refine ⟨rfl, rfl, fun _ => rfl, rfl, rfl, rfl, rfl, fun k other => ?_, _, (strand s.cur.sid).trans (if_pos rfl)⟩
  exact (strand k).trans (if_neg other)

theorem landingFrame : LandingFrame := by
  intro s d p v b n canon
  refine ⟨?g, ?p, rfl, rfl⟩
  case g =>
    by_cases h : d = 0
    · exact h ▸ onlyOwes_refl s
    · exact landG_eq s d v n h ▸ landWide_onlyOwes canon ..
  case p =>
    by_cases h : p = 0
    · exact h ▸ onlyOwes_refl s
    · exact landP_eq s p b n h ▸ landWide_onlyOwes canon ..

/-! ## The land turn (R72, R79) -/

/-- A register of the files g, p and m, which are put whole or, where they are of fixed value, not at all. -/
def InGpm (d : Dst) : Prop := (∃ r, d = .g r) ∨ (∃ r, d = .p r) ∨ ∃ r, d = .m r

/-- Whether a whole result of a register clears an error of a word (R79). -/
def clearedBy (d : Dst) (e : Dst × Nat) : Bool := e.1 == d && covers d (BitVec.allOnes 65536) e.2

section
variable {x : Strand} {d : Dst} {v : Wide}

/-- Which results a strand owes is no matter to a register of a file g, p or m. -/
theorem put_withPend (file : InGpm d) (l : List Pend) :
    Strand.put { x with pend := l } d v = { x.put d v with pend := l } := by
  obtain ⟨r, rfl⟩ | ⟨r, rfl⟩ | ⟨r, rfl⟩ := file
  all_goals
    simp only [Strand.put]
    split <;> rfl

/-- A write of such a register leaves the strand's vector words, its rollback log and its errors. -/
theorem put_keeps (file : InGpm d) : (x.put d v).started = x.started ∧
    (x.put d v).ended = x.ended ∧ (x.put d v).log = x.log ∧ (x.put d v).poison = x.poison ∧ (x.put d v).soft = x.soft := by
  obtain ⟨r, rfl⟩ | ⟨r, rfl⟩ | ⟨r, rfl⟩ := file
  all_goals
    simp only [Strand.put]
    split <;> exact ⟨rfl, rfl, rfl, rfl, rfl⟩

/-- A whole result of a file g, p or m replaces its register and clears the errors of its words. -/
theorem landOne_whole (file : InGpm d) (seq turn due : Nat) :
    x.landOne (wholeResult seq turn due d v) = { x.put d v with
      poison := x.poison.filter fun e => !clearedBy d e
      soft := x.soft.filter fun e => !clearedBy d e } := by
  obtain ⟨-, -, -, poison, soft⟩ := put_keeps (x := x) (v := v) file
  rw [← poison, ← soft]
  obtain ⟨r, rfl⟩ | ⟨r, rfl⟩ | ⟨r, rfl⟩ := file
  all_goals
    simp only [Strand.landOne, wholeResult, replace_allOnes, reduceCtorEq, if_false]
    rfl

/-- Of a strand that owes one result, which is due, the land turn on a scored core is that result's. -/
theorem landAll_single {seq turn due now : Nat} (pend : x.pend = [wholeResult seq turn due d v]) (come : due ≤ now) :
    x.landAll now false = Strand.landOne { x with pend := [] } (wholeResult seq turn due d v) := by
  by_cases fp : d = .fp <;> simp [Strand.landAll, pend, wholeResult, Pend.isDue, come, fp]

/-- A strand with no vector word outstanding keeps what it is. -/
theorem retireVec_idle (started : x.started = []) (ended : x.ended = []) (log : x.log = []) (now : Nat) : x.retireVec now = x := by
  cases x
  simp only at started ended log
  subst started ended log
  simp only [Strand.retireVec, List.filter_nil]
  split <;> rfl

/-- The strand after a land turn in which its one result is due. -/
theorem land_single {seq turn due now : Nat} (file : InGpm d)
    (pend : x.pend = [wholeResult seq turn due d v]) (come : due ≤ now)
    (started : x.started = []) (ended : x.ended = []) (log : x.log = []) :
    (x.landAll now false).retireVec now = { x.put d v with
      pend := []
      poison := x.poison.filter fun e => !clearedBy d e
      soft := x.soft.filter fun e => !clearedBy d e } := by
  obtain ⟨started', ended', log', -, -⟩ := put_keeps (x := x) (v := v) file
  rw [landAll_single pend come, landOne_whole file, put_withPend file, retireVec_idle]
  · exact started'.trans started
  · exact ended'.trans ended
  · exact log'.trans log

end

/-- LAND on a scored core when no operand of a running product is written and no CSR write waits. -/
theorem execLand_scored {s : State} {sid : Nat} (scored : s.scored sid = true) (csrs : (s.core (coreOf sid)).csrPend = [])
    (group : s.groupWritten sid (((s.strand sid).pend.filter fun p => p.isDue (s.lcy sid)).map (·.dst)) = none) :
    exec (.land sid) s = .next ((s.setStrand sid (((s.strand sid).landAll (s.lcy sid) false).retireVec (s.lcy sid))).setCore
      (coreOf sid) (s.core (coreOf sid))) := by
  show execLand sid s = _
  simp only [execLand, scored, if_true, group, modStrand_eq, modCore_eq, setStrand_core, csrs, List.isEmpty_nil, Bool.not_true]

theorem resultLands : ResultLands := by
  intro s sid seq turn due d v x canon scored started ended log group csrs file pend come
  have dues : (x.pend.filter fun p => p.isDue (s.lcy sid)).map (·.dst) = [d] := by simp [pend, Pend.isDue, come]
  let t := (s.setStrand sid ((x.landAll (s.lcy sid) false).retireVec (s.lcy sid))).setCore (coreOf sid) (s.core (coreOf sid))
  have run : exec (.land sid) s = .next t := execLand_scored scored csrs (dues ▸ group)
  have strand (k : Nat) : t.strand k = if k = sid then (x.landAll (s.lcy sid) false).retireVec (s.lcy sid) else s.strand k :=
    strand_setStrand s sid k _ canon.rstrands
  have core (c : Nat) : t.core c = s.core c := by
    by_cases same : c = coreOf sid
    · exact (core_setCore _ (coreOf sid) c _ canon.rcores).trans (by rw [if_pos same, same])
    · exact (core_setCore _ (coreOf sid) c _ canon.rcores).trans (if_neg same)
  refine ⟨t, run, ?_, fun k other => (strand k).trans (if_neg other), core, rfl, rfl, rfl⟩
  rw [strand sid, if_pos rfl]
  exact land_single file pend come started ended log

/-- Settles O10: what a landing word adds, what a land turn does, and what registers of fixed value read. -/
theorem resultsLand : Obligations.ResultsLand := ⟨landingFrame, resultLands, hardWiredRegisters⟩

end Sys2Proof.Machine
end

section
/-! Proofs of the statement on false guards and the interlock (O16): every guarded scalar word runs in the one frame of
instruction words, whose laws say what a false guard and a pending register make of it. -/
namespace Sys2Proof.Machine

/-- The instruction is a word of the frame: it asks for u, and has some effect once its checks have passed. -/
def RunsInFrame (s : State) (u : Use) (i : Instr) : Prop := ∃ effect, exec i s = finish s (word s u effect)

/-! ## Which words ask what of the frame -/

section
variable (s : State) (d a b : GReg) (p q r : PReg) (gd : Guard) (w : Width) (off : Fin 2097152)

theorem binaryWords_runInFrame : ∀ i ∈ [Instr.add d a b gd w, .sub d a b gd w, .and d a b gd w, .or d a b gd w, .xor d a b gd w,
    .shl d a b gd w, .shr d a b gd w, .sar d a b gd w, .min d a b gd w, .max d a b gd w, .minn d a b gd w, .maxn d a b gd w,
    .mul d a b gd w, .mulh d a b gd w, .mulhn d a b gd w, .div d a b gd w, .divn d a b gd w, .rem d a b gd w, .remn d a b gd w],
    RunsInFrame s { gd := gd, src := [.g a, .g b], dst := [.g d] } i := by
  simp only [List.forall_mem_cons]
  iterate 19 refine ⟨⟨_, rfl⟩, ?_⟩
  exact List.forall_mem_nil _

theorem unaryWords_runInFrame : ∀ i ∈ [Instr.clz d a gd w, .popc d a gd w],
    RunsInFrame s { gd := gd, src := [.g a], dst := [.g d] } i := by
  simp only [List.forall_mem_cons]
  exact ⟨⟨_, rfl⟩, ⟨_, rfl⟩, List.forall_mem_nil _⟩

theorem compareWords_runInFrame : ∀ i ∈ [Instr.cmpEq p a b gd w, .cmpNe p a b gd w, .cmpLt p a b gd w, .cmpGe p a b gd w,
    .cmpLtn p a b gd w, .cmpGen p a b gd w], RunsInFrame s { gd := gd, src := [.g a, .g b], dst := [.p p] } i := by
  simp only [List.forall_mem_cons]
  exact ⟨⟨_, rfl⟩, ⟨_, rfl⟩, ⟨_, rfl⟩, ⟨_, rfl⟩, ⟨_, rfl⟩, ⟨_, rfl⟩, List.forall_mem_nil _⟩

theorem logicWords_runInFrame : ∀ i ∈ [Instr.plogAnd p q r gd, .plogOr p q r gd, .plogXor p q r gd, .plogAndn p q r gd],
    RunsInFrame s { gd := gd, src := [.p q, .p r], dst := [.p p] } i := by
  simp only [List.forall_mem_cons]
  exact ⟨⟨_, rfl⟩, ⟨_, rfl⟩, ⟨_, rfl⟩, ⟨_, rfl⟩, List.forall_mem_nil _⟩

theorem branch_runsInFrame : RunsInFrame s { gd := gd } (.br gd off) := ⟨_, rfl⟩

end

open Sys2Proof.Claims

/-! ## What the frame makes of them -/

section
variable {s : State} {u : Use} {i : Instr}

/-- R47: a scalar word of no level whose guard is false takes effect as nothing. -/
theorem RunsInFrame.does_nothing (framed : RunsInFrame s u i) (scalar : u.vec = false) (level : u.level = 0)
    (wait : s.mustWait u = false) (guard : s.me.guard u.gd = false) : Does i s s := by
  obtain ⟨effect, run⟩ := framed
  rw [Does, run, word_guarded (by simp [scalar]) (by simp [level]) wait guard, finish_ok]

/-- R34: a scalar word of no level that must wait keeps its issue cycle empty. -/
theorem RunsInFrame.holds (framed : RunsInFrame s u i) (scalar : u.vec = false) (level : u.level = 0)
    (wait : s.mustWait u = true) : Holds i s := by
  obtain ⟨effect, run⟩ := framed
  rw [Holds, run, word_held (by simp [scalar]) (by simp [level]) wait, finish_held]

/-- R27: a result owed from an earlier turn to a register that the word reads or writes makes it wait. -/
theorem mustWait_of_pend {p : Pend} (free : s.scored s.cur.sid = false) (guard : s.me.guard u.gd = true) (owed : p ∈ s.me.pend)
    (earlier : p.turn < s.turn) (used : p.dst ∈ .p u.gd.pr :: (u.src ++ u.dst)) (writable : p.dst.fixed = false) :
    s.mustWait u = true := by
  have pending : s.me.pending s.turn p.dst = true := by
    simp only [Strand.pending, writable, Bool.not_false, Bool.true_and, List.any_eq_true, Bool.and_eq_true, beq_iff_eq, decide_eq_true_eq]
    exact ⟨p, owed, rfl, earlier⟩
  have any : ((.p u.gd.pr : Dst) :: (u.src ++ u.dst)).any (s.me.pending s.turn) = true := List.any_eq_true.2 ⟨_, used, pending⟩
  simp only [State.mustWait, free, guard, if_true, any, Bool.not_false, Bool.true_or, Bool.and_self]

end

/-- R65, R66: of the registers of the files g and p only g0 and p0 are of fixed value. -/
theorem fixed_eq_false {d : Dst} (file : (∃ r, d = .g r) ∨ ∃ r, d = .p r) (g0 : d ≠ .g 0) (p0 : d ≠ .p 0) : d.fixed = false := by
  obtain ⟨r, rfl⟩ | ⟨r, rfl⟩ := file
  · simpa [Dst.fixed] using g0
  · simpa [Dst.fixed] using p0

theorem falseGuard : FalseGuard := by
  intro s i u d a b p q r gd w off h wait guard
  obtain ⟨rfl, hi⟩ | ⟨rfl, hi⟩ | ⟨rfl, hi⟩ | ⟨rfl, hi⟩ | ⟨rfl, rfl⟩ := h
  · exact (binaryWords_runInFrame s d a b gd w i hi).does_nothing rfl rfl wait guard
  · exact (unaryWords_runInFrame s d a gd w i hi).does_nothing rfl rfl wait guard
  · exact (compareWords_runInFrame s a b p gd w i hi).does_nothing rfl rfl wait guard
  · exact (logicWords_runInFrame s p q r gd i hi).does_nothing rfl rfl wait guard
  · exact (branch_runsInFrame s gd off).does_nothing rfl rfl wait guard

theorem interlock : Interlock := by
  intro s d a b gd w p free guard owed earlier used g0 p0
  have file : (∃ r, p.dst = .g r) ∨ ∃ r, p.dst = .p r := by
    simp only [List.mem_cons, List.not_mem_nil, or_false] at used
    obtain h | h | h | h := used
    · exact .inl ⟨a, h⟩
    · exact .inl ⟨b, h⟩
    · exact .inl ⟨d, h⟩
    · exact .inr ⟨gd.pr, h⟩
  have named : p.dst ∈ (.p gd.pr : Dst) :: ([.g a, .g b] ++ [.g d]) := by
    obtain register | predicate := List.mem_append.1 (show p.dst ∈ [Dst.g a, .g b, .g d] ++ [.p gd.pr] from used)
    · exact List.mem_cons_of_mem _ register
    · exact List.mem_singleton.1 predicate ▸ List.mem_cons_self
  have wait : s.mustWait { gd := gd, src := [.g a, .g b], dst := [.g d] } = true :=
    mustWait_of_pend free guard owed earlier named (fixed_eq_false file g0 p0)
  have held (i) (hi) : Holds i s := (binaryWords_runInFrame s d a b gd w i hi).holds rfl rfl wait
  exact ⟨held _ (by simp), held _ (by simp), held _ (by simp), held _ (by simp)⟩

/-- Settles O16: the two halves, each from a law of the frame of instruction words. -/
theorem guardAndInterlock : Obligations.GuardAndInterlock := ⟨falseGuard, interlock⟩

end Sys2Proof.Machine
end

section
/-! Laws of the writes of the package's engines: what no write to the physical space touches. -/
namespace Sys2Proof.Machine

/-- What every update of a fold keeps, the fold keeps. -/
theorem foldl_keeps {β γ : Type} (part : State → γ) {f : State → β → State} (h : ∀ s b, part (f s b) = part s) :
    (l : List β) → (s : State) → part (l.foldl f s) = part s
  | [], _ => rfl
  | b :: l, s => (foldl_keeps part h l (f s b)).trans (h s b)

/-! ## The two halves of a diversion (R349) -/

/-- A frozen unit takes an entry, if it has none and a spare unit is free. -/
def State.enterUnit (s : State) (u : Nat) : State :=
  match s.ckpt.remap.find? fun r => r.unit == u with
  | some _ => s
  | none => match s.ckpt.freeSpare with
    | some sp => { s with ckpt := { s.ckpt with remap := s.ckpt.remap ++ [⟨u, sp, 0⟩], diverted := s.ckpt.diverted + 1 } }
    | none => s

/-- A line of a unit that has an entry is merged into the spare. -/
def State.mergeLine (s : State) (u line : Nat) : State :=
  match s.ckpt.remap.find? fun r => r.unit == u with
  | some r =>
    if r.lm.getLsbD line then s else
    { s with
      mem := writeBytes s.mem (65536 * r.spare + 64 * line) (readBytes s.mem (65536 * u + 64 * line) 64)
      ckpt := { s.ckpt with remap := s.ckpt.remap.map fun r =>
        if r.unit = u then { r with lm := r.lm ||| BitVec.ofNat 1024 (2 ^ line) } else r } }
  | none => s

theorem divert_eq (s : State) (a : Nat) : s.divert a =
    if s.ckpt.diverts (a / 65536) then (s.enterUnit (a / 65536)).mergeLine (a / 65536) (a % 65536 / 64) else s := rfl

/-- The parts of the machine that no write to the physical space touches, whatever it sets going. -/
structure Beside where
  strands : Sparse Strand
  cores : Sparse Core
  launches : Sparse Launch
  parts : Sparse Partition
  nextId : Nat
  pkg : Pkg

def State.beside (s : State) : Beside := ⟨s.strands, s.cores, s.launches, s.parts, s.nextId, s.pkg⟩

/-- A change of the memory and of its seals alone. It is cited where a plain `rfl` would first compare the memories. -/
theorem beside_of_memory (s : State) (mem : Sparse Byte) (ckpt : Ckpt) (tree : Sparse Nat) :
    State.beside { s with mem := mem, ckpt := ckpt, tree := tree } = s.beside := rfl

section
variable (s : State)

@[simp] theorem owe_beside (clock : Option Nat) (time prio : Nat) (e : Event) : (s.owe clock time prio e).beside = s.beside := rfl
@[simp] theorem setFrame_beside (f : Nat) (x : Frame) : (s.setFrame f x).beside = s.beside := rfl
@[simp] theorem setBlock_beside (n : Nat) (b : CtrBlock) : (s.setBlock n b).beside = s.beside := rfl
@[simp] theorem setLine_beside (la : Nat) (l : Line) : (s.setLine la l).beside = s.beside := rfl
@[simp] theorem writeNode_beside (level n : Nat) : (s.writeNode level n).beside = s.beside := rfl
@[simp] theorem cachePath_beside (n : Nat) : (s.cachePath n).beside = s.beside := rfl

/-! ## The bytes and what they set going -/

@[simp] theorem enterUnit_beside (u : Nat) : (s.enterUnit u).beside = s.beside := by
  unfold State.enterUnit
  split
  · rfl
  · split <;> rfl

@[simp] theorem mergeLine_beside (u line : Nat) : (s.mergeLine u line).beside = s.beside := by
  unfold State.mergeLine
  split
  · split
    · rfl
    · exact beside_of_memory s _ _ s.tree
  · rfl

@[simp] theorem divert_beside (a : Nat) : (s.divert a).beside = s.beside := by
  rw [divert_eq]
  split
  · exact (mergeLine_beside ..).trans (enterUnit_beside ..)
  · rfl

@[simp] theorem memPut_beside (a : Nat) (b : Byte) : (s.memPut a b).beside = s.beside := by
  unfold State.memPut
  split
  · rfl
  · split
    · exact divert_beside s a
    · rfl

@[simp] theorem memPuts_beside (a : Nat) : (bs : List Byte) → (s : State) → (s.memPuts a bs).beside = s.beside
  | [], _ => rfl
  | b :: bs, s => (memPuts_beside (a + 1) bs (s.memPut a b)).trans (memPut_beside s a b)

@[simp] theorem vdschedHook_beside (p : Nat) : (s.vdschedHook p).beside = s.beside := by
  refine foldl_keeps State.beside (fun s x => ?_) _ s
  split
  · rfl
  · split <;> rfl

@[simp] theorem ctlHook_beside (a n : Nat) : (s.ctlHook a n).beside = s.beside := by
  unfold State.ctlHook
  split
  · rfl
  · extract_lets off hits s1 s2 s3
    have kept1 : s1.beside = s.beside := by unfold s1; split <;> rfl
    have kept2 : s2.beside = s1.beside := by
      unfold s2
      split
      · exact vdschedHook_beside ..
      · rfl
    have kept3 : s3.beside = s2.beside := by unfold s3; split <;> rfl
    have kept := kept3.trans (kept2.trans kept1)
    split
    · exact kept
    · exact kept

@[simp] theorem vdctlHook_beside (a n : Nat) : (s.vdctlHook a n).beside = s.beside := by
  unfold State.vdctlHook
  extract_lets v w d set
  split
  · split
    · split
      · rfl
      · split <;> rfl
    · split <;> rfl
  · rfl

@[simp] theorem memWrite_beside (a : Nat) (bs : List Byte) : (s.memWrite a bs).beside = s.beside := by
  simp [State.memWrite]

/-! ## The seals of what is written -/

@[simp] theorem treeBump_beside (level child : Nat) : (s.treeBump level child).beside = s.beside := by
  unfold State.treeBump
  extract_lets +onlyGivenNames c
  split
  · extract_lets +onlyGivenNames kids cleared
    have kept : cleared.beside = s.beside := beside_of_memory s s.mem s.ckpt _
    clear_value cleared
    refine (foldl_keeps State.beside (fun t i => ?_) kids cleared).trans kept
    split <;> rfl
  · rfl

@[simp] theorem treeWrite_beside (blk : Nat) : (s.treeWrite blk).beside = s.beside := by
  unfold State.treeWrite
  rw [cachePath_beside, foldl_keeps State.beside fun _ _ => writeNode_beside .., foldl_keeps State.beside fun _ _ => treeBump_beside ..]

theorem initFrame_beside (f : Nat) {write : State → State} (h : ∀ s, (write s).beside = s.beside) :
    (s.initFrame f write).beside = s.beside := by
  unfold State.initFrame
  rw [foldl_keeps State.beside fun s i => setLine_beside ..]
  simp [h]

/-! ## The writes -/

@[simp] theorem engineWrite_beside (a : Nat) (bs : List Byte) : (s.engineWrite a bs).beside = s.beside := by
  unfold State.engineWrite
  split
  · split
    · exact initFrame_beside s _ fun s => memWrite_beside s a bs
    · dsimp only
      rw [foldl_keeps State.beside fun _ _ => by rw [now_eq, owe_beside], memWrite_beside]
  · exact memWrite_beside s a bs

/-- R190: a write that no cache holds. -/
@[simp] theorem physWrite_beside (pa : Nat) (bs : List Byte) (part : Option Nat) :
    (s.physWrite pa bs part false).beside = s.beside := by
  unfold State.physWrite
  simp only [Bool.false_and, Bool.false_eq_true, if_false]
  split
  · split
    · exact initFrame_beside s _ fun s => memWrite_beside s pa bs
    · exact memWrite_beside s pa bs
  · exact memWrite_beside s pa bs

@[simp] theorem linesWrite_beside : (n : Nat) → (s : State) → (a : Nat) → (bs : List Byte) → (s.linesWrite a bs n).beside = s.beside
  | 0, _, _, _ => rfl
  | n + 1, s, a, bs => by
    unfold State.linesWrite
    split
    · rfl
    · exact (linesWrite_beside n _ _ _).trans (physWrite_beside ..)

end
/-! ## What is read of the rest -/

section
variable {s t : State} (h : t.beside = s.beside)
include h

theorem strands_of_beside : t.strands = s.strands := show t.beside.strands = s.beside.strands by rw [h]
theorem launches_of_beside : t.launches = s.launches := show t.beside.launches = s.beside.launches by rw [h]
theorem parts_of_beside : t.parts = s.parts := show t.beside.parts = s.beside.parts by rw [h]
theorem nextId_of_beside : t.nextId = s.nextId := show t.beside.nextId = s.beside.nextId by rw [h]
theorem pkg_of_beside : t.pkg = s.pkg := show t.beside.pkg = s.beside.pkg by rw [h]
theorem part_of_beside (p : Nat) : t.part p = s.part p := by unfold State.part; rw [parts_of_beside h]

end

end Sys2Proof.Machine
end

section
/-! Proofs of the statements on the step (O5, O7): what a step is by what is due, what a lone pair yields, and that nothing which a new
cycle brings touches the package registers once ENCY has risen. -/
namespace Sys2Proof.Machine

/-! ## What a step is, by what is due -/

section
variable {s : State}

/-- With nothing due, the strand at the head of the cycle issues (R16). -/
theorem step_of_toIssue {sid : Nat} {rest : List Nat} (inbox : s.takeInbox = none) (due : s.takeDue = none)
    (head : s.toIssue = sid :: rest) : step s = issue sid { s with toIssue := rest } := by
  simp only [step, inbox, due, head]

/-- With nothing due and no strand left to issue, the next cycle begins. -/
theorem step_of_cycleOver (inbox : s.takeInbox = none) (due : s.takeDue = none) (head : s.toIssue = []) : step s = .next s.tick := by
  simp only [step, inbox, due, head]

/-! ## The issue of a lone word (R40, R44) -/

/-- A lone pair yields the word that the program counter points at, in the state past it. -/
theorem fetchDecode_lone {u v : State} {sid w0 w1 : Nat} {i : Instr} (trap : (u.strand sid).pendingTrap = none)
    (fetched : u.fetchPair sid ((u.strand sid).pc.toNat / 8 * 8) = (v, .ok (w0, w1))) (pair : decodePair w0 w1 = .ok (.lone w0 w1))
    (word : decodeWord (if (u.strand sid).pc.getLsbD 2 then w1 else w0) = .ok i) :
    u.fetchDecode sid = .ok (.one (v.issued ⟨sid, BitVec.ofNat 64 ((u.strand sid).pc.toNat / 8 * 8), (u.strand sid).pc.getLsbD 2, false,
      BitVec.ofNat 32 (if (u.strand sid).pc.getLsbD 2 then w1 else w0)⟩) i) := by
  simp only [State.fetchDecode, trap, fetched, pair, word]

theorem issue_of_fetched {u t : State} {sid : Nat} {i : Instr} (ready : s.toFetch sid = .ok u)
    (fetched : u.fetchDecode sid = .ok (.one t i)) : issue sid s = settle (exec i t) u := by
  simp only [issue, ready, fetched]

end

/-- Settles O5: the strand at the head issues, its lone word is fetched, and what the word came to is settled. -/
theorem stepRunsLoneWord : Obligations.StepRunsLoneWord := by
  intro s u v sid rest w0 w1 i x w t inbox due head ready trap fetched pair word
  have run : step s = settle (exec i t) u :=
    (step_of_toIssue inbox due head).trans (issue_of_fetched ready (fetchDecode_lone trap fetched pair word))
  rw [run]
  cases exec i t with
  | next r => rfl
  | fault r => rfl
  | refused r => rfl

/-! ## The next cycle (R334) -/

section
variable (s : State)

@[simp] theorem countCycles_pkg : s.countCycles.pkg = s.pkg := by
  unfold State.countCycles
  split <;> rfl

@[simp] theorem spadClear_pkg (c : Nat) : (s.spadClear c).pkg = s.pkg := rfl

@[simp] theorem freeBytes_pkg : (n : Nat) → (s : State) → (s.freeBytes n).2.pkg = s.pkg
  | 0, _ => rfl
  | n + 1, s => freeBytes_pkg n s.freeWord.2

@[simp] theorem setPstate_pkg (p g : Nat) : (s.setPstate p g).pkg = s.pkg := by
  unfold State.setPstate
  extract_lets changed
  split
  · rfl
  · exact (pkg_of_beside (engineWrite_beside changed _ _)).trans rfl

@[simp] theorem enterPower_pkg (p g : Nat) : (s.enterPower p g).pkg = s.pkg := by
  unfold State.enterPower
  extract_lets +onlyGivenNames entered
  have kept : entered.pkg = s.pkg := setPstate_pkg s p g
  clear_value entered
  split
  · exact kept
  · split
    · extract_lets +onlyGivenNames n
      clear_value n
      split
      next bs drawn h =>
        have kept' : drawn.pkg = entered.pkg := by rw [← freeBytes_pkg (n / 8) entered, h]
        rw [pkg_of_beside (linesWrite_beside ..), kept', kept]
    · rw [foldl_keeps State.pkg fun _ _ => spadClear_pkg .., kept]

@[simp] theorem watchPart_pkg (p : Nat) : (s.watchPart p).pkg = s.pkg := by
  unfold State.watchPart
  extract_lets watched
  have kept : watched.pkg = s.pkg := by
    unfold watched
    split
    · exact enterPower_pkg s p 2
    · rfl
  split <;> exact kept

@[simp] theorem watchPower_pkg : s.watchPower.pkg = s.pkg := by
  refine foldl_keeps State.pkg (fun s e => ?_) _ s
  split
  · rfl
  · exact watchPart_pkg s e.1

@[simp] theorem periodic_pkg : s.periodic.pkg = s.pkg := by
  unfold State.periodic
  extract_lets n bar kilo
  have atBar : bar.pkg = s.pkg := by
    unfold bar
    split
    · split <;> rfl
    · rfl
  have atKilo : kilo.pkg = bar.pkg := by
    unfold kilo
    split
    · refine (foldl_keeps State.pkg (fun s e => ?_) _ _).trans rfl
      refine foldl_keeps State.pkg (fun s q => ?_) _ s
      split <;> rfl
    · rfl
  split
  · rw [foldl_keeps State.pkg fun _ _ => by rw [now_eq, owe_pkg]]
    exact atKilo.trans atBar
  · exact atKilo.trans atBar

@[simp] theorem tick_ency : s.tick.pkg.ency = s.pkg.ency + 1 := by
  simp [State.tick]

end

/-- Settles O7: the step is the next cycle, of whose parts only the first touches ENCY. -/
theorem stepAdvancesTheCycle : Obligations.StepAdvancesTheCycle :=
  fun s inbox due head => ⟨s.tick, step_of_cycleOver inbox due head, tick_ency s⟩

end Sys2Proof.Machine
end

section
/-! Laws of the completion counters and of the record of graphs (R22, R340): nothing but the VDs and the agenda changes with them. -/
namespace Sys2Proof.Machine

/-- A state without its VDs and its agenda: what no counting of completions and cancellations changes. -/
def State.uncounted (s : State) : State := { s with vds := [], agenda := [] }

section
variable (s : State) (v n level k : Nat)

@[simp] theorem owe_uncounted (clock : Option Nat) (time prio : Nat) (e : Event) : (s.owe clock time prio e).uncounted = s.uncounted := rfl
@[simp] theorem setVd_uncounted (x : Vd) : (s.setVd v x).uncounted = s.uncounted := rfl

@[simp] theorem setCounter_uncounted (c : Counter) : (s.setCounter v n c).uncounted = s.uncounted := by
  unfold State.setCounter
  split <;> rfl

@[simp] theorem wakeCounter_uncounted : (s.wakeCounter v n).uncounted = s.uncounted := by
  refine foldl_keeps State.uncounted (fun s e => ?_) _ s
  split
  · split <;> rfl
  · rfl

@[simp] theorem countDone_uncounted : (s.countDone v n level k).uncounted = s.uncounted := by
  unfold State.countDone
  dsimp only
  split <;> simp

@[simp] theorem countCanc_uncounted : (s.countCanc v n level k).uncounted = s.uncounted := by
  unfold State.countCanc
  dsimp only
  split <;> simp

@[simp] theorem setGraph_uncounted (g : Graph) : (s.setGraph v g).uncounted = s.uncounted := rfl

@[simp] theorem settleGraphs_uncounted : (s.settleGraphs v).uncounted = s.uncounted := by
  unfold State.settleGraphs
  extract_lets +onlyGivenNames closed phased
  have closed_kept : closed.uncounted = s.uncounted := by
    refine foldl_keeps State.uncounted (fun s g => ?_) _ s
    split
    · split
      · rfl
      · split <;> simp
    · rfl
  have phased_kept : phased.uncounted = closed.uncounted := by
    refine foldl_keeps State.uncounted (fun s g => ?_) _ closed
    split
    · dsimp only
      split
      · rfl
      · split
        · split <;> simp
        · simp
    · rfl
  clear_value phased closed
  split
  · rw [foldl_keeps State.uncounted fun _ _ => countCanc_uncounted .., modVd_eq, setVd_uncounted, phased_kept, closed_kept]
  · rw [phased_kept, closed_kept]

@[simp] theorem recordLaunch_uncounted (gid lid cn flags : Nat) (done : Bool) :
    (s.recordLaunch v gid lid cn flags done).uncounted = s.uncounted := by
  unfold State.recordLaunch
  extract_lets g closing phasing recorded opened
  rw [settleGraphs_uncounted]
  unfold opened
  split <;> rfl

@[simp] theorem countLaunch_uncounted (l : Nat) : (s.countLaunch l).uncounted = s.uncounted := by
  unfold State.countLaunch
  dsimp only
  split <;> simp

@[simp] theorem recordCancelled_uncounted (l : Nat) : (s.recordCancelled l).uncounted = s.uncounted := by
  unfold State.recordCancelled
  dsimp only
  split <;> simp

end

/-! ## What is read of the rest -/

section
variable {s t : State} (h : t.uncounted = s.uncounted)
include h

theorem strands_of_uncounted : t.strands = s.strands := show t.uncounted.strands = s.uncounted.strands by rw [h]
theorem launches_of_uncounted : t.launches = s.launches := show t.uncounted.launches = s.uncounted.launches by rw [h]
theorem launch_of_uncounted (l : Nat) : t.launch l = s.launch l := by unfold State.launch; rw [launches_of_uncounted h]
theorem mem_of_uncounted : t.mem = s.mem := show t.uncounted.mem = s.uncounted.mem by rw [h]
theorem pkg_of_uncounted : t.pkg = s.pkg := show t.uncounted.pkg = s.uncounted.pkg by rw [h]

end

end Sys2Proof.Machine
end

section
/-! Laws of the launch queues and of the launch engine (R251, R253, R296): what a queue reads after an update, what taking a head
and placing it leave, and the engine's passes over queues that hold nothing. -/
namespace Sys2Proof.Machine

/-! ## A queue after an update -/

section
variable (s : State) (p q : Nat)

theorem launchQueue_congr {s t : State} {p : Nat} (h : (t.part p).queues = (s.part p).queues) (q : Nat) :
    t.launchQueue p q = s.launchQueue p q := by
  unfold State.launchQueue
  rw [h]

theorem part_modQueue (rising : Rising s.parts) (f : LaunchQueue → LaunchQueue) (j : Nat) : (s.modQueue p q f).part j =
    if j = p then { s.part p with queues := Vector.ofFn fun i => if i.val = q then f (s.part p).queues[i] else (s.part p).queues[i] }
    else s.part j := part_setPart s p j _ rising

/-- An update of one of a partition's four queues is read back, and leaves the others. -/
theorem launchQueue_modQueue (rising : Rising s.parts) (f : LaunchQueue → LaunchQueue) {j : Nat} (h : j < 4) :
    (s.modQueue p q f).launchQueue p j = if j = q then f (s.launchQueue p j) else s.launchQueue p j := by
  unfold State.launchQueue
  rw [part_modQueue s p q rising, if_pos rfl]
  simp [h]

/-! ## Wakes and kicks -/

@[simp] theorem duration_beside (lo hi : Nat) : (s.duration lo hi).2.beside = s.beside := by
  unfold State.duration
  split <;> rfl

@[simp] theorem duration_mem (lo hi : Nat) : (s.duration lo hi).2.mem = s.mem := by
  unfold State.duration
  split <;> rfl

@[simp] theorem wakePart_beside : (s.wakePart p).beside = s.beside := by
  unfold State.wakePart
  dsimp only
  split
  · rfl
  · exact duration_beside s _ _

@[simp] theorem wakePart_mem : (s.wakePart p).mem = s.mem := by
  unfold State.wakePart
  dsimp only
  split
  · rfl
  · exact duration_mem s _ _

@[simp] theorem kickEngine_beside : (s.kickEngine p).beside = s.beside := by
  unfold State.kickEngine
  split <;> rfl

@[simp] theorem kickEngine_mem : (s.kickEngine p).mem = s.mem := by
  unfold State.kickEngine
  split <;> rfl

/-- The engine is about to look at the queues. -/
theorem kickEngine_owes : ((s.kickEngine p).agenda.any fun e => e.2 == .launchEngineTake p) = true := by
  unfold State.kickEngine
  split
  · assumption
  · simp [State.owe]

/-! ## Queues that hold nothing (R251) -/

theorem pending_of_head_eq_tail {k : LaunchQueue} (h : k.head = k.tail) : k.pending = [] := by
  unfold LaunchQueue.pending
  split
  · rfl
  · simp [h]

theorem headDesc_of_pending_nil (h : (s.launchQueue p q).pending = []) : s.headDesc p q = none := by
  unfold State.headDesc
  simp [h]

/-- A pass over queues without heads changes nothing and takes nothing. -/
theorem servePass_of_noHeads : (l : List Nat) → (∀ q ∈ l, s.headDesc p q = none) → State.servePass p l s = (s, false)
  | [], _ => rfl
  | q :: l, h => by
    have stays : s.serveHead p q = .stays s := by simp only [State.serveHead, h q (List.mem_cons_self ..)]
    rw [State.servePass, stays]
    exact servePass_of_noHeads l fun j hj => h j (List.mem_cons_of_mem _ hj)

theorem servePasses_of_noHeads (n : Nat) (h : ∀ q ∈ [0, 1, 2, 3], s.headDesc p q = none) : State.servePasses p n s = s := by
  cases n with
  | zero => rfl
  | succ n => rw [State.servePasses, servePass_of_noHeads s p _ h]

end

/-! ## A head that is done with (R253) -/

/-- A queue whose head is done with. -/
def LaunchQueue.advanced (k : LaunchQueue) : LaunchQueue :=
  { k with head := (k.head + 1) % 4294967296, since := none, marked := k.marked.filter fun m => decide (m ≠ k.head) }

/-- The queue that held one descriptor holds none. -/
theorem advanced_pending {k : LaunchQueue} (inRange : k.head < 2 ^ 32 - 1) (single : k.tail = k.head + 1) : k.advanced.pending = [] := by
  apply pending_of_head_eq_tail
  show (k.head + 1) % 4294967296 = k.tail
  omega

section
variable (s : State) (p q : Nat)

theorem advanceQueue_beside : (s.advanceQueue p q).beside = (s.modQueue p q fun k => { k with
    head := ((s.launchQueue p q).head + 1) % 4294967296, since := none
    marked := k.marked.filter fun m => decide (m ≠ k.head) }).beside := engineWrite_beside ..

theorem advanceQueue_launches : (s.advanceQueue p q).launches = s.launches := (launches_of_beside (advanceQueue_beside s p q)).trans rfl

theorem advanceQueue_nextId : (s.advanceQueue p q).nextId = s.nextId := (nextId_of_beside (advanceQueue_beside s p q)).trans rfl

theorem part_advanceQueue (rising : Rising s.parts) (j : Nat) : ∃ queues,
    (s.advanceQueue p q).part j = { s.part j with queues := queues } := by
  rw [part_of_beside (advanceQueue_beside s p q), part_modQueue s p q rising]
  split
  · next same => exact ⟨_, by rw [same]⟩
  · exact ⟨(s.part j).queues, rfl⟩

theorem advanceQueue_vdOfX (rising : Rising s.parts) (j x : Nat) : (s.advanceQueue p q).vdOfX j x = s.vdOfX j x := by
  obtain ⟨queues, h⟩ := part_advanceQueue s p q rising j
  rw [State.vdOfX, h, State.vdOfX]

theorem launchQueue_advanceQueue (rising : Rising s.parts) {j : Nat} (h : j < 4) :
    (s.advanceQueue p q).launchQueue p j = if j = q then (s.launchQueue p j).advanced else s.launchQueue p j := by
  rw [launchQueue_congr (congrArg Partition.queues (part_of_beside (advanceQueue_beside s p q) p)), launchQueue_modQueue s p q rising _ h]
  split
  · next same => rw [same, LaunchQueue.advanced]
  · rfl

end

/-! ## Cores taken for a launch (R188, R296) -/

/-- What taking cores for a launch keeps: strands, launches and the launch queues. -/
structure KeepsQueues (s t : State) : Prop where
  strands : t.strands = s.strands
  launches : t.launches = s.launches
  rising : Rising s.parts → Rising t.parts
  queues : Rising s.parts → ∀ p, (t.part p).queues = (s.part p).queues

namespace KeepsQueues

theorem of_parts {s t : State} (strands : t.strands = s.strands) (launches : t.launches = s.launches)
    (parts : t.parts = s.parts) : KeepsQueues s t :=
  ⟨strands, launches, fun h => parts ▸ h, fun _ p => by rw [State.part, parts, State.part]⟩

theorem refl (s : State) : KeepsQueues s s := of_parts rfl rfl rfl

theorem trans {s t u : State} (h : KeepsQueues s t) (k : KeepsQueues t u) : KeepsQueues s u where
  strands := k.strands.trans h.strands
  launches := k.launches.trans h.launches
  rising r := k.rising (h.rising r)
  queues r p := (k.queues (h.rising r) p).trans (h.queues r p)

theorem foldl {β : Type} {f : State → β → State} (h : ∀ s b, KeepsQueues s (f s b)) : (l : List β) → (s : State) → KeepsQueues s (l.foldl f s)
  | [], s => refl s
  | b :: l, s => (h s b).trans (foldl h l (f s b))

section
variable (s : State)

theorem countErr (p : Option Nat) (f : ErrCounters → ErrCounters) : KeepsQueues s (s.countErr p f) := by
  cases p with
  | none => exact of_parts rfl rfl rfl
  | some p =>
    refine ⟨rfl, rfl, fun r => tput_rising _ _ _ _ r, fun r j => ?_⟩
    refine (congrArg Partition.queues (part_setPart (s.modPkg fun k => { k with errs := f k.errs }) p j _ r)).trans ?_
    split
    · next same => rw [same]; rfl
    · rfl

theorem answer (k : Packet) (e : Event) : KeepsQueues s (s.answer k e) := by
  unfold State.answer
  split <;> exact of_parts rfl rfl rfl

theorem discard (id : Nat) (k : Packet) : KeepsQueues s (s.discard id k) := by
  unfold State.discard
  split
  · exact of_parts rfl rfl rfl
  · refine .trans ?_ (answer _ k _)
    exact (countErr s _ _).trans (of_parts rfl rfl rfl)

theorem dropHeld (c : Nat) : KeepsQueues s (s.dropHeld c) := by
  refine foldl (fun s e => ?_) _ s
  split
  · exact discard s e.1 e.2
  · exact refl s

theorem startClear (c : Nat) : KeepsQueues s (s.startClear c) := by
  unfold State.startClear
  dsimp only
  split <;> exact of_parts rfl rfl rfl

theorem placeVd (c v : Nat) : KeepsQueues s (s.placeVd c v) := by
  unfold State.placeVd
  split
  · exact refl s
  · exact (startClear s c).trans (of_parts rfl rfl rfl)

theorem takeVd (c v : Nat) : KeepsQueues s (s.takeVd c v) := by
  unfold State.takeVd
  split
  · exact placeVd s c v
  · exact (dropHeld s c).trans (placeVd _ c v)

end
end KeepsQueues

/-! ## A placement (R296, R297) -/

/-- The cores of a placement, each taken for its VD and configured. -/
def State.takeCores (s : State) (v k : Nat) (cs : List Nat) : State :=
  cs.foldl (fun s c => (s.takeVd c v).modCore c fun x => { x with k := k, scored := false }) s

theorem takeCores_keepsQueues (s : State) (v k : Nat) (cs : List Nat) : KeepsQueues s (s.takeCores v k cs) := by
  refine KeepsQueues.foldl (fun s c => ?_) cs s
  exact (KeepsQueues.takeVd s c v).trans (.of_parts rfl rfl rfl)

/-- The strands of a placement, each at the start of its launch. -/
def State.startStrands (s : State) (l : Nat) (d : LaunchDesc) (tvec : Word) (sids : List Nat) : State :=
  sids.foldl (fun s sid =>
    s.setStrand sid (s.newStrand sid l (BitVec.ofNat 64 d.entry) (BitVec.ofNat 64 d.arg) .virt tvec)) s

section
variable (l : Nat) (d : LaunchDesc) (tvec : Word)

/-- A strand stands as the start of its launch leaves it. -/
def State.started (s : State) (sid : Nat) : Prop :=
  ∃ u : State, s.strand sid = u.newStrand sid l (BitVec.ofNat 64 d.entry) (BitVec.ofNat 64 d.arg) .virt tvec

theorem startStrands_keeps (sids : List Nat) (s : State) : (s.startStrands l d tvec sids).launches = s.launches ∧
    (s.startStrands l d tvec sids).parts = s.parts := by
  refine ⟨foldl_keeps State.launches ?_ sids s, foldl_keeps State.parts ?_ sids s⟩ <;> exact fun _ _ => rfl

/-- A strand that has been started or is among those to be started is started in the end. -/
theorem startStrands_started {sid : Nat} : (sids : List Nat) → (s : State) → Rising s.strands → sid ∈ sids ∨ s.started l d tvec sid →
    (s.startStrands l d tvec sids).started l d tvec sid
  | [], _, _, h => h.resolve_left List.not_mem_nil
  | a :: sids, s, rising, h => by
    refine startStrands_started sids _ (tput_rising _ _ _ _ rising) ?_
    by_cases same : sid = a
    · exact .inr ⟨s, by rw [strand_setStrand s a sid _ rising, if_pos same, same]⟩
    · refine h.imp (fun mem => (List.mem_cons.1 mem).resolve_left same) fun ⟨u, started⟩ => ⟨u, ?_⟩
      rw [strand_setStrand s a sid _ rising, if_neg same, started]

end

/-- A placement part by part: a new identifier, its cores, its strands, its graph, its queue's last start, and its launch. -/
theorem place_eq (s : State) (p q : Nat) (d : LaunchDesc) (cs : List Nat) : ∃ (t : State) (tvec : Word) (g : Graph) (start : Nat) (L : Launch),
    t.beside = s.beside ∧
    s.place p q d cs = ((((({ t with nextId := t.nextId + 1 } : State).takeCores (s.vdOfX p d.vdx) d.k cs).startStrands (launchKey t.nextId) d tvec
      (cs.flatMap fun c => (slotsOf d.smask).map (sidOf c))).setGraph (s.vdOfX p d.vdx) g).modQueue p q fun k =>
        { k with lastStart := start }).setLaunch (launchKey t.nextId) L ∧
    L.st = .running ∧ L.lid = d.lid ∧ L.gid = d.gid ∧ L.vd = s.vdOfX p d.vdx ∧ L.scored = false :=
  ⟨(s.duration 0 4096).2, _, _, _, _, duration_beside s 0 4096, rfl, rfl, rfl, rfl, rfl, rfl⟩

end Sys2Proof.Machine
end

section
/-! Proofs of the statement on the launch engine and on completions (O53), clause by clause. -/
namespace Sys2Proof.Machine

open Sys2Proof.Claims

/-! ## What a placement leaves (R296) -/

section
variable (s : State) (p q : Nat) (d : LaunchDesc) (cs : List Nat)

/-- The launch of a placement stands under its new number and no other launch changes. -/
theorem place_launch (rising : Rising s.launches) : let n := launchKey s.nextId
    let t := s.place p q d cs
    (t.launch n).st = .running ∧ (t.launch n).lid = d.lid ∧ (t.launch n).gid = d.gid ∧ (t.launch n).vd = s.vdOfX p d.vdx ∧
      (t.launch n).scored = false ∧ ∀ j, j ≠ n → t.launch j = s.launch j := by
  obtain ⟨t, tvec, g, start, L, beside, eq, running, lid, gid, vd, free⟩ := place_eq s p q d cs
  have launches : t.launches = s.launches := launches_of_beside beside
  have nextId : t.nextId = s.nextId := nextId_of_beside beside
  have read (j : Nat) : (s.place p q d cs).launch j = if j = launchKey s.nextId then L else s.launch j := by
    rw [eq, nextId]
    generalize hu : State.modQueue _ p q _ = u
    have kept : u.launches = s.launches := by
      rw [← hu]
      exact (startStrands_keeps ..).1.trans ((takeCores_keepsQueues ..).launches.trans launches)
    rw [launch_setLaunch u _ j L (kept ▸ rising), State.launch, kept, State.launch]
  simp only [read, if_true]
  exact ⟨running, lid, gid, vd, free, fun j other => if_neg other⟩

/-- Every strand of a placement stands at the start of its launch. -/
theorem place_started (rising : Rising s.strands) {c j : Nat} (core : c ∈ cs) (slot : j ∈ slotsOf d.smask) :
    ∃ tvec, (s.place p q d cs).started (launchKey s.nextId) d tvec (sidOf c j) := by
  obtain ⟨t, tvec, g, start, L, beside, eq, -⟩ := place_eq s p q d cs
  have strands : t.strands = s.strands := strands_of_beside beside
  have nextId : t.nextId = s.nextId := nextId_of_beside beside
  refine ⟨tvec, ?_⟩
  rw [eq, nextId]
  refine startStrands_started _ d tvec _ _ ?_ (.inl ?_)
  · rw [(takeCores_keepsQueues ..).strands]
    exact strands ▸ rising
  · exact List.mem_flatMap.2 ⟨c, core, List.mem_map.2 ⟨j, slot, rfl⟩⟩

/-- A placement notes its start with its queue, and leaves what the partition's queues hold. -/
theorem place_pending (rising : Rising s.parts) {j : Nat} (h : j < 4) :
    ((s.place p q d cs).launchQueue p j).pending = (s.launchQueue p j).pending := by
  obtain ⟨t, tvec, g, start, L, beside, eq, -⟩ := place_eq s p q d cs
  rw [eq]
  have risingT : Rising t.parts := parts_of_beside beside ▸ rising
  have taken := takeCores_keepsQueues { t with nextId := t.nextId + 1 } (s.vdOfX p d.vdx) d.k cs
  generalize State.takeCores _ _ _ cs = u at taken
  generalize hw : (u.startStrands _ d tvec _).setGraph _ g = w
  have parts : w.parts = u.parts := by
    rw [← hw]
    exact (startStrands_keeps ..).2
  clear hw
  have risingW : Rising w.parts := parts ▸ taken.rising risingT
  have same : w.launchQueue p j = s.launchQueue p j := by
    apply launchQueue_congr
    rw [State.part, parts, ← State.part, taken.queues risingT]
    exact congrArg Partition.queues (part_of_beside beside p)
  rw [launchQueue_congr (congrArg Partition.queues (setLaunch_part ..)), launchQueue_modQueue w p q risingW _ h, same]
  split <;> rfl

end

/-! ## The engine reads a tail and takes a head (R251, R253) -/

section
variable {s : State} {p q : Nat}

theorem poll_reads (canon : Canonical s) (inRange : q < 4) (exists_ : (s.launchQueue p q).log2n ≠ 0)
    (well : (s.launchQueue p q).qerr = false) (empty : (s.launchQueue p q).head = (s.launchQueue p q).tail)
    (sound : s.linesFault (s.launchQueue p q).tailaddr 4 = none) :
    let k := s.launchQueue p q
    let tail := ofBytes (s.physRead k.tailaddr 4)
    (tail + 2 ^ 32 - k.head) % 2 ^ 32 ≤ 2 ^ k.log2n → Runs (.launchQueuePoll p q) s fun t =>
      t.launchQueue p q = { k with tail := tail } ∧ (t.agenda.any fun e => e.2 == .launchEngineTake p) = true ∧ t.mem = s.mem ∧
      t.strands = s.strands := by
  intro k tail near
  let woken := if tail = k.tail then s else s.wakePart p
  have beside : woken.beside = s.beside := by
    unfold woken
    split
    · rfl
    · exact wakePart_beside s p
  have mem : woken.mem = s.mem := by
    unfold woken
    split
    · rfl
    · exact wakePart_mem s p
  let u := woken.modQueue p q fun k => { k with tail := tail }
  have run : exec (.launchQueuePoll p q) s = .next (u.kickEngine p) := by
    show execLaunchQueuePoll p q s = _
    have near' : ¬ (tail + 4294967296 - k.head) % 4294967296 > 2 ^ k.log2n := by omega
    simp only [execLaunchQueuePoll]
    rw [if_neg (by simp [exists_, well]), if_neg (by simp [empty]), if_neg (by simp [sound]), if_neg near']
  refine ⟨_, run, ?_, kickEngine_owes u p, (kickEngine_mem u p).trans mem, ?_⟩
  · rw [launchQueue_congr (congrArg Partition.queues (part_of_beside (kickEngine_beside u p) p)),
      launchQueue_modQueue woken p q (parts_of_beside beside ▸ canon.rparts) _ inRange, if_pos rfl,
      launchQueue_congr (congrArg Partition.queues (part_of_beside beside p))]
  · exact (strands_of_beside (kickEngine_beside u p)).trans (strands_of_beside beside : woken.strands = s.strands)

theorem poll_of_stopped (h : (s.launchQueue p q).log2n = 0 ∨ (s.launchQueue p q).qerr = true) : exec (.launchQueuePoll p q) s = .next s := by
  show execLaunchQueuePoll p q s = _
  simp only [execLaunchQueuePoll, if_pos h]

/-- A partition whose four queues hold nothing has no heads. -/
theorem noHeads (h : ∀ i, i < 4 → (s.launchQueue p i).pending = []) : ∀ q ∈ [0, 1, 2, 3], s.headDesc p q = none :=
  fun q mem => headDesc_of_pending_nil s p q (h q (by simp at mem; omega))

theorem engine_of_emptyQueues (h : ∀ i, i < 4 → (s.launchQueue p i).pending = []) : exec (.launchEngineTake p) s = .next s := by
  show Host.Outcome.next (State.servePasses ..) = _
  rw [servePasses_of_noHeads s p _ (noHeads h)]

/-- The engine places the one descriptor that a partition's queues hold, and finds no other. -/
theorem engine_places {i : Nat} {d : LaunchDesc} {cs : List Nat} (canon : Canonical s) (single : (s.launchQueue p 0).pending = [i])
    (inRange : (s.launchQueue p 0).head < 2 ^ 32 - 1) (tail : (s.launchQueue p 0).tail = (s.launchQueue p 0).head + 1)
    (others : ∀ j, 1 ≤ j → j < 4 → (s.launchQueue p j).pending = []) (head : s.headDesc p 0 = some (i, d, none))
    (fate : s.headFate p 0 i d none = .place) (fits : s.coresFor p d = some cs) :
    exec (.launchEngineTake p) s = .next ((s.advanceQueue p 0).place p 0 d cs) := by
  let t := (s.advanceQueue p 0).place p 0 d cs
  have served : s.serveHead p 0 = .moved t := by simp only [State.serveHead, head, fate, fits, t]
  have risingA : Rising (s.advanceQueue p 0).parts := (State.advanceQueue_canon s p 0 canon).rparts
  have emptied : ∀ j, j < 4 → (t.launchQueue p j).pending = [] := by
    intro j h
    rw [place_pending _ p 0 d cs risingA h, launchQueue_advanceQueue s p 0 canon.rparts h]
    split
    · next first => exact first ▸ advanced_pending inRange tail
    · next later => exact others j (Nat.pos_of_ne_zero later) h
  have idle := noHeads emptied
  have pass : State.servePass p [0, 1, 2, 3] s = (t, true) := by
    rw [State.servePass, served]
    dsimp only
    rw [servePass_of_noHeads t p [1, 2, 3] fun q mem => idle q (List.mem_cons_of_mem _ mem)]
  have passes : ((List.range 4).map fun q => (s.launchQueue p q).pending.length).sum + 1 = 2 := by
    simp [List.range_succ, single, others]
  show Host.Outcome.next (State.servePasses ..) = _
  rw [passes, State.servePasses, pass]
  dsimp only
  rw [servePasses_of_noHeads t p 1 idle]

/-- R65: a strand at the start of its launch: its address by its slot, at user level, with its argument in g2. -/
theorem started_reads {t : State} {l c j : Nat} {d : LaunchDesc} {tvec : Word} (h : t.started l d tvec (sidOf c j)) (slot : j < 16) :
    let x := t.strand (16 * c + j)
    x.slot = .runnable ∧ x.launch = some l ∧ x.pc = BitVec.ofNat 64 d.entry + BitVec.ofNat 64 (8 * j) ∧ x.priv = 0 ∧
      x.rg 2 = BitVec.ofNat 64 d.arg := by
  obtain ⟨u, h⟩ := h
  have own : slotOf (sidOf c j) = j := by unfold slotOf sidOf; omega
  intro x
  have read : x = u.newStrand (sidOf c j) l (BitVec.ofNat 64 d.entry) (BitVec.ofNat 64 d.arg) .virt tvec := h
  rw [read]
  refine ⟨rfl, rfl, ?_, rfl, ?_⟩
  · simp only [State.newStrand, own]
  · simp [State.newStrand, Strand.rg]

end

/-! ## Units and launches complete or are cancelled (R22, R25, R340) -/

section
variable {s : State} {sid l : Nat}

/-- A launch is not complete while a unit of it has neither completed nor been stopped. -/
theorem launchComplete_of_live (h : ((s.launch l).units.any fun u => u.2.live) = true) : s.launchComplete l = s := by
  simp [State.launchComplete, h]

/-- The completion of one unit leaves another that is active alive. -/
theorem setUnit_live {n : Nat} {x : UState} {units : List (Nat × UState)} {u : Nat × UState} (mem : u ∈ units) (other : u.1 ≠ n)
    (active : u.2 = .active) : ((setUnit n x units).any fun u => u.2.live) = true :=
  List.any_eq_true.2 ⟨u, List.mem_map.2 ⟨u, mem, if_neg other⟩, by simp [active, UState.live]⟩

/-- A halted strand's unit, which is active, as UNIT_COMPLETION finds it. -/
theorem unitCompletion_of_halted (slot : (s.strand sid).slot = .halted) (launch : (s.strand sid).launch = some l)
    (active : ((s.strand sid).unit, UState.active) ∈ (s.launch l).units) : exec (.unitCompletion sid) s =
      .next (if s.drained sid then ((s.setLaunch l { s.launch l with units := setUnit (s.strand sid).unit .complete (s.launch l).units }).countDone
        (s.launch l).vd (s.launch l).cn 0 1).launchComplete l else s.after 1 prioCount (.unitCompletion sid)) := by
  have halted : s.hasHalted sid = true := by simp [State.hasHalted, slot]
  have found : ((s.launch l).units.any fun u => u.1 == (s.strand sid).unit && u.2 == .active) = true :=
    List.any_eq_true.2 ⟨_, active, by simp⟩
  show execUnitCompletion sid s = _
  simp only [execUnitCompletion, halted, launch, found, if_true]

theorem unit_completes (canon : Canonical s) {u : Nat × UState} (slot : (s.strand sid).slot = .halted)
    (launch : (s.strand sid).launch = some l) (drained : s.drained sid = true)
    (active : ((s.strand sid).unit, UState.active) ∈ (s.launch l).units) (mem : u ∈ (s.launch l).units)
    (other : u.1 ≠ (s.strand sid).unit) (live : u.2 = .active) : Runs (.unitCompletion sid) s fun t =>
      t.launch l = { s.launch l with units := setUnit (s.strand sid).unit .complete (s.launch l).units } ∧ t.strands = s.strands ∧
      t.mem = s.mem := by
  let L := s.launch l
  let M : Launch := { L with units := setUnit (s.strand sid).unit .complete L.units }
  have kept := countDone_uncounted (s.setLaunch l M) L.vd L.cn 0 1
  have read : ((s.setLaunch l M).countDone L.vd L.cn 0 1).launch l = M := by
    rw [launch_of_uncounted kept, launch_setLaunch s l l M canon.rlaunches, if_pos rfl]
  refine ⟨_, unitCompletion_of_halted slot launch active, ?_⟩
  rw [if_pos drained, launchComplete_of_live (by rw [read]; exact setUnit_live mem other live)]
  exact ⟨read, (strands_of_uncounted kept :), (mem_of_uncounted kept :)⟩

theorem unit_waits (slot : (s.strand sid).slot = .halted) (launch : (s.strand sid).launch = some l) (open_ : s.drained sid = false)
    (active : ((s.strand sid).unit, UState.active) ∈ (s.launch l).units) :
    exec (.unitCompletion sid) s = .next (s.after 1 prioCount (.unitCompletion sid)) := by
  rw [unitCompletion_of_halted slot launch active, if_neg (by simp [open_])]

/-! ## The end of a launch of several packages -/

theorem zeroSlots_keeps (s : State) (l : Nat) : (s.zeroSlots l).launches = s.launches ∧ (s.zeroSlots l).strands = s.strands ∧
    (s.zeroSlots l).mem = s.mem := by
  refine ⟨foldl_keeps State.launches ?_ _ s, foldl_keeps State.strands ?_ _ s, foldl_keeps State.mem ?_ _ s⟩ <;> exact fun _ _ => rfl

theorem notice_completes (canon : Canonical s) (scored : (s.launch l).scored = true) (several : 2 ≤ (s.launch l).npkg)
    (running : (s.launch l).st = .running) (checked : (s.launch l).checks = 0)
    (ended : ∀ u ∈ (s.launch l).units, u.2 = .complete ∨ u.2 = .cancelled) : Runs (.completionNotice l) s fun t =>
      t.launch l = { s.launch l with st := .done } ∧ t.mem = s.mem ∧ t.strands = s.strands := by
  let M : Launch := { s.launch l with st := .done }
  have noneLive : ((s.launch l).units.any fun u => u.2.live) = false := by
    refine List.any_eq_false.2 fun u mem => ?_
    obtain h | h := ended u mem <;> simp [h, UState.live]
  have kept := countLaunch_uncounted (s.setLaunch l M) l
  obtain ⟨launches, strands, mem⟩ := zeroSlots_keeps ((s.setLaunch l M).countLaunch l) l
  have run : exec (.completionNotice l) s = .next ((((s.setLaunch l M).countLaunch l).zeroSlots l).owe none (barLineAt s.pkg.ency)
      prioRelease (.scoredLaunchRelease l)) := by
    show execCompletionNotice l s = _
    simp only [execCompletionNotice]
    rw [if_neg (by simp [scored, running, checked, noneLive]; omega)]
  refine ⟨_, run, ?_, mem.trans (mem_of_uncounted kept :), strands.trans (strands_of_uncounted kept :)⟩
  rw [owe_launch, State.launch, launches, ← State.launch, launch_of_uncounted kept, launch_setLaunch s l l M canon.rlaunches, if_pos rfl]

/-! ## The end of a cancellation -/

theorem idle_keeps (sids : List Nat) (s : State) :
    (sids.foldl State.idle s).launches = s.launches ∧ (sids.foldl State.idle s).mem = s.mem := by
  refine ⟨foldl_keeps State.launches ?_ sids s, foldl_keeps State.mem ?_ sids s⟩ <;> exact fun _ _ => rfl

/-- A launch that is retired has left the table of launches (R20, R297), and memory is as it was. -/
theorem retire_leaves (rising : Rising s.launches) : (s.retire l).launch l = {} ∧ (s.retire l).mem = s.mem := by
  unfold State.retire
  extract_lets +onlyGivenNames ids idled left
  obtain ⟨launches, mem⟩ := idle_keeps ids s
  have removed : left.launch l = {} := by
    show tget {} l (tput {} l {} idled.launches) = _
    rw [tget_tput_rising _ l l _ _ (launches ▸ rising), if_pos rfl]
  have told := foldl_keeps State.launches (f := fun s sid => s.now prioCancel (.slotFreed (sid % 16384))) (fun _ _ => rfl) ids left
  have toldMem := foldl_keeps State.mem (f := fun s sid => s.now prioCancel (.slotFreed (sid % 16384))) (fun _ _ => rfl) ids left
  exact ⟨by rw [State.launch, told]; exact removed, toldMem.trans mem⟩

variable {u : Nat}

/-- The one unit of a launch that is being stopped has drained: it is recorded, and the launch with it. -/
theorem cancelDrainEnd_of_drained (state : (s.launch l).st = .cancelling) (units : (s.launch l).units = [(u, .stopping sid)])
    (drained : s.drained sid = true) : exec (.cancelDrainEnd l) s =
      .next ((((s.setLaunch l { s.launch l with units := [(u, .cancelled)] }).countCanc (s.launch l).vd (s.launch l).cn 0 1).recordCancelled
        l).retire l) := by
  show execCancelDrainEnd l s = _
  simp [execCancelDrainEnd, units, drained, state]

theorem cancelled_launch_retires (canon : Canonical s) (state : (s.launch l).st = .cancelling)
    (units : (s.launch l).units = [(u, .stopping sid)]) (drained : s.drained sid = true) :
    Runs (.cancelDrainEnd l) s fun t => t.launch l = {} ∧ t.mem = s.mem := by
  refine ⟨_, cancelDrainEnd_of_drained state units drained, ?_⟩
  generalize hr : State.recordCancelled _ l = r
  have recorded : r.uncounted = (s.setLaunch l { s.launch l with units := [(u, .cancelled)] }).uncounted := by
    rw [← hr, recordCancelled_uncounted, countCanc_uncounted]
  have rising : Rising r.launches := (launches_of_uncounted recorded) ▸ tput_rising _ _ _ _ canon.rlaunches
  obtain ⟨launch, mem⟩ := retire_leaves (l := l) rising
  exact ⟨launch, mem.trans (mem_of_uncounted recorded :)⟩

/-- While it has not, the drain is looked at again in the next cycle. -/
theorem cancelled_unit_waits (canon : Canonical s) (units : (s.launch l).units = [(u, .stopping sid)]) (open_ : s.drained sid = false) :
    Runs (.cancelDrainEnd l) s fun t => (t.launch l).units = [(u, .stopping sid)] ∧
      (⟨none, s.pkg.ency + 1, prioCancel⟩, Event.cancelDrainEnd l) ∈ t.agenda := by
  let M : Launch := { s.launch l with units := [(u, .stopping sid)] }
  let t := (s.setLaunch l M).countCanc (s.launch l).vd (s.launch l).cn 0 0
  have kept : t.uncounted = (s.setLaunch l M).uncounted := countCanc_uncounted ..
  have run : exec (.cancelDrainEnd l) s = .next (t.after 1 prioCancel (.cancelDrainEnd l)) := by
    show execCancelDrainEnd l s = _
    simp [execCancelDrainEnd, units, open_, t, M]
  have ency : t.pkg = s.pkg := (pkg_of_uncounted kept :)
  refine ⟨_, run, ?_, ?_⟩
  · rw [after_eq, owe_launch, launch_of_uncounted kept, launch_setLaunch s l l M canon.rlaunches, if_pos rfl]
  · rw [after_eq, ency]
    exact List.mem_append_right _ (List.mem_singleton.2 rfl)

end

/-- Settles O53: the engine reads a tail and places a head; units and launches complete, or are cancelled once they have drained. -/
theorem launchEvents : Obligations.LaunchEvents := by
  intro s p q sid l canon k L
  refine ⟨poll_reads canon, poll_of_stopped, engine_of_emptyQueues, ?placed, fun u slot launch drained active mem other live =>
    unit_completes canon slot launch drained active mem other live, unit_waits, notice_completes canon, fun u state units drained =>
    cancelled_launch_retires canon state units drained, fun u units open_ => cancelled_unit_waits canon units open_⟩
  case placed =>
    intro i d cs single inRange tail others head fate fits n
    have launches : (s.advanceQueue p 0).launches = s.launches := advanceQueue_launches s p 0
    have nextId : (s.advanceQueue p 0).nextId = s.nextId := advanceQueue_nextId s p 0
    have canonA := State.advanceQueue_canon s p 0 canon
    obtain ⟨st, lid, gid, vd, free, rest⟩ := place_launch (s.advanceQueue p 0) p 0 d cs canonA.rlaunches
    rw [nextId] at st lid gid vd free rest
    refine ⟨_, engine_places canon single inRange tail others head fate fits, st, lid, gid, ?_, free, fun j other => ?_, fun c core j slot => ?_⟩
    · rw [vd, advanceQueue_vdOfX s p 0 canon.rparts]
    · rw [rest j other, State.launch, launches, State.launch]
    · obtain ⟨tvec, started⟩ := place_started (s.advanceQueue p 0) p 0 d cs canonA.rstrands core slot
      rw [nextId] at started
      exact started_reads started (by simpa using (List.mem_filter.1 slot).1)

end Sys2Proof.Machine
end

section
/-! Proof of the statement that decoding an encoded instruction gives it back (O2), from the lemma of each constructor. -/
namespace Sys2Proof.Laws.RoundTrip

/-- Every instruction makes the round trip: for each constructor its lemma of this namespace, in the order of the opcode table. -/
theorem roundTrip : ∀ i, Statement i :=
  @Instr.rec Statement
    -- SYS
    nop halt trap eret csrr csrw csrx yield ctxsave ctxload
    -- BR, JMP, TIME
    br jmp call ret callr atLcy cue tune
    -- LD, ST, AMO, FENCE
    ld st amoAdd amoMin amoMax amoMinn amoMaxn amoAnd amoOr amoXor amoSwap amoCas fence pref flush inval rpub
    -- VMEM, STREAM, VAMO
    vld vst vlds vsts vldx vstx vseg sset sld sst vamoAdd vamoMin vamoMax vamoMinn vamoMaxn vamoAnd vamoOr vamoXor vamoFadd
    -- VCTL, HARPC, HMMA, HMMS
    setvl vloop vsync hplane hzero hread hwrite hchk hanch hmmaAcc hmmaSet hmmsAcc hmmsSet
    -- SEND, REMOTE
    send recv esend erecv stripe rld rst ramoAdd ramoMin ramoMax ramoMinn ramoMaxn ramoOr ramoSwap ramoCas vpush vpull
    -- TICKET, DRAY, DRAYQ, NET
    tknar tkld tkst tkmov tkchk drayCopy drayGath drayScat draySeal drayUnseal drayFill dwait dstat dcancel npost npoll
    -- COUNT, PRIV
    carr cwait cancel ckpt cset xlatRead xlatWrite xlatFetch xlatProbe tlbinvPage tlbinvVd migset mint revokePort revokeKey keysetSet
    keysetWin keysetErase admitTab
    -- ALU, ALUI, LI, LIH
    add sub and or xor shl shr sar min max minn maxn sel clz popc addi andi ori xori shli shri sari li lih
    -- MUL, CMP, PLOG, BIT
    mul mulh mulhn div divn rem remn cmpEq cmpNe cmpLt cmpGe cmpLtn cmpGen plogAnd plogOr plogXor plogAndn bfx bfxs bfi
    -- VALU, VFP
    vadd vsub vmul vmulh vmin vmax vminn vmaxn vand vor vxor vshl vshr vsar vabs vneg vsel vfadd vfsub vfmul vfma vfms vfmin vfmax vfabs
    vfneg
    -- VCMP, VCVT, VSPEC, VRED
    vcmpEq vcmpNe vcmpLt vcmpGe vcmpLtn vcmpGen vcmpFeq vcmpFne vcmpFlt vcmpFge vcmpFun vcvt vqnt vdqnt vrndi vrcpa vrsqa vexp2a vlog2a
    vredsum vredmax vredmin vscan vdot4
    -- VPERM, VMASK, VRNG
    vperm vslup vsldn vcomp vexpd viota vbcast vextr vins mand mor mxor mnot mcnt mfirst qand qclr vrng
    -- hint words
    cHint aHint
    -- steps that no word names
    land laneStart faultOverflowMove atWake cwaitWake erecvWake vpullWake dwaitWake harpCommandStart harpRowTouch hmmsPairingTimeout
    freeAccessComplete freeAccessTimeout translationWalk l1LineExpiry memoryLineWrite memoryLineRead minorWrapReseal timedReadCheck
    relayOwnerWrite relayOwnerRead relayPeerRead switchCheck packetDelivery timedDelivery elasticArrival heldArrivalExpiry vpushArrival
    remoteReply discardNotice fabricTimeout rateUpdate drayCommandStart drayCommandCompletion drayTimeout timedDrayStart
    migrationLineCopy portGenerationAdvance keyDigestCompare routeKeyAdvance networkWorkRequest networkInbound networkTimeout
    launchQueuePoll launchEngineTake slotFreed unitCompletion completionNotice cancelDrainEnd scoredLaunchStart endingNotice overrun
    scoredLaunchEnd scoredLaunchRelease preq scoredPreempt rreq scoredResume freePreempt interruptDelivery barLine barGap rest timeLock
    timeLockRepeat wayQuotaRecompute errorCounterCopy checkpointRoundStart checkpointRetire checkpointRoundEnd vdScheduleOut
    vdScheduleIn vdReset vdTeardown vdResetEffect vdQuiet portOpen portClose deviceRegisterWrite coreRetire partitionMove
    coachmanTakeover powerStateEntry powerWake thermalSample thermalLevelExit bringupStage0 bringupStage1 discoveryPacket
    discoveryAnswer mapBuild bringupStage2 bootWaitRelease bootExpiry bringupStage3 lockInterface startInterface stopInterface
    hostTransaction mctpMessage firmwareUpdate scoredBankAccess fabricAcknowledgement drayQueueFullExpiry checkpointUnitCopy
    frameAssignment queuePairCreation vdCreation reservedStrandRelease openSlotPurge emptyMaskWriteback

/-- Settles O2: the round trip of every instruction, constructor by constructor. -/
theorem decodeOfEncode : Obligations.DecodeOfEncode := roundTrip

end Sys2Proof.Laws.RoundTrip
end

section
/-! Laws of the fields of a word (R39, R45). -/
namespace Sys2Proof.Laws

theorem fld_lt (w lo n : Nat) : fld w lo n < 2 ^ n := Nat.mod_lt _ (Nat.two_pow_pos n)

theorem fld_one (w lo : Nat) : fld w lo 1 = 0 ∨ fld w lo 1 = 1 := by
  have := fld_lt w lo 1
  omega

end Sys2Proof.Laws
end

section
/-! Proof of the statement that a word which decodes is the encoding of a well-formed instruction (O3). Each combinator of the
decoder asks something of the word's fields; the fields of a format, put together again, are the word; so what a decoder of a major
answers is faithful, and with it what decodeWord answers. -/
namespace Sys2Proof.Laws

-- The lemmas below are elaborated one after the other: the stacks of as many threads would pass the memory limit of a compile.
set_option Elab.async false

/-- An answer of a decoder is faithful to a word: what it yields is well formed and encodes to the word's bits below the L bit. -/
def Faithful (w : Nat) (r : Except DecodeError Instr) : Prop :=
  ∀ i, r = .ok i → i.wellFormed = true ∧ encode i = some (w % 2 ^ 31)

/-! ## What the combinators of the decoder ask (R51 to R53) -/

section
variable {w lo n v : Nat} {k : Except DecodeError Instr}

theorem faithful_error (e : DecodeError) : Faithful w (.error e) := fun _ h => by cases h

theorem faithful_ok {i : Instr} : Faithful w (.ok i) ↔ i.wellFormed = true ∧ encode i = some (w % 2 ^ 31) :=
  ⟨fun h => h i rfl, fun h _ e => by cases e; exact h⟩

theorem faithful_zeroF : Faithful w (zeroF w lo n k) ↔ (fld w lo n = 0 → Faithful w k) := by
  unfold zeroF; split <;> simp [*, faithful_error]

theorem faithful_fixF : Faithful w (fixF w lo n v k) ↔ (fld w lo n = v → Faithful w k) := by
  unfold fixF; split <;> simp [*, faithful_error]

theorem faithful_needF {p : Prop} [Decidable p] : Faithful w (needF p k) ↔ (p → Faithful w k) := by
  unfold needF; split <;> simp [*, faithful_error]

theorem faithful_fmtF : Faithful w (fmtF w lo k) ↔ (fld w lo 5 < 30 → Faithful w k) := by
  unfold fmtF; split <;> simp [*, faithful_error]

theorem faithful_codeF {α : Type} {c : Option α} {k : α → Except DecodeError Instr} :
    Faithful w (codeF c k) ↔ ∀ x, c = some x → Faithful w (k x) := by
  cases c <;> simp [codeF, faithful_error]

end

/-! ## The operand read from a field, and the code it was read from -/

theorem reg_val (w lo : Nat) : (reg 4 w lo).val = fld w lo 2 ∧ (reg 8 w lo).val = fld w lo 3 ∧ (reg 16 w lo).val = fld w lo 4 ∧
    (reg 32 w lo).val = fld w lo 5 ∧ (reg 64 w lo).val = fld w lo 6 ∧ (reg 512 w lo).val = fld w lo 9 ∧
    (reg 1024 w lo).val = fld w lo 10 ∧ (reg 4096 w lo).val = fld w lo 12 ∧ (reg 1048576 w lo).val = fld w lo 20 ∧
    (reg 2097152 w lo).val = fld w lo 21 ∧ (reg 33554432 w lo).val = fld w lo 25 :=
  ⟨rfl, rfl, rfl, rfl, rfl, rfl, rfl, rfl, rfl, rfl, rfl⟩

theorem toNat_fld_one (w lo : Nat) : (fld w lo 1 == 1).toNat = fld w lo 1 := by
  obtain h | h := fld_one w lo <;> rw [h] <;> rfl

theorem guard_ofBits_iff {w lo lo' : Nat} {gd : Guard} : Guard.ofBits (fld w lo 3) (fld w lo' 1) = some gd ↔
    gd.ok = true ∧ fld w lo 3 = gd.pr.val ∧ fld w lo' 1 = gd.pn.toNat := by
  constructor
  · intro h
    simp only [Guard.ofBits, Option.ite_none_right_eq_some, Option.some.injEq] at h
    obtain ⟨ok, rfl⟩ := h
    exact ⟨ok, (Nat.mod_eq_of_lt (fld_lt w lo 3)).symm, (toNat_fld_one w lo').symm⟩
  · rintro ⟨ok, pr, pn⟩
    rw [pr, pn, guard_ofBits ok]

section
variable {n : Nat}

theorem Width_ofCode_iff {e : Width} : Width.ofCode n = some e ↔ n = e.code :=
  ⟨by unfold Width.ofCode; split <;> rintro ⟨⟩ <;> rfl, fun h => h ▸ Width_ofCode e⟩
theorem EW_ofCode_iff {e : EW} : EW.ofCode n = some e ↔ n = e.code :=
  ⟨by unfold EW.ofCode; split <;> rintro ⟨⟩ <;> rfl, fun h => h ▸ EW_ofCode e⟩
theorem FEW_ofCode_iff {e : FEW} : FEW.ofCode n = some e ↔ n = e.code :=
  ⟨by unfold FEW.ofCode; split <;> rintro ⟨⟩ <;> rfl, fun h => h ▸ FEW_ofCode e⟩
theorem Space_ofCode_iff {e : Space} : Space.ofCode n = some e ↔ n = e.code :=
  ⟨by unfold Space.ofCode; split <;> rintro ⟨⟩ <;> rfl, fun h => h ▸ Space_ofCode e⟩
theorem LdSize_ofCode_iff {e : LdSize} : LdSize.ofCode n = some e ↔ n = e.code :=
  ⟨by unfold LdSize.ofCode; split <;> rintro ⟨⟩ <;> rfl, fun h => h ▸ LdSize_ofCode e⟩
theorem StSize_ofCode_iff {e : StSize} : StSize.ofCode n = some e ↔ n = e.code :=
  ⟨by unfold StSize.ofCode; split <;> rintro ⟨⟩ <;> rfl, fun h => h ▸ StSize_ofCode e⟩
theorem AmoSize_ofCode_iff {e : AmoSize} : AmoSize.ofCode n = some e ↔ n = e.code :=
  ⟨by unfold AmoSize.ofCode; split <;> rintro ⟨⟩ <;> rfl, fun h => h ▸ AmoSize_ofCode e⟩
theorem Scope_ofCode_iff {e : Scope} : Scope.ofCode n = some e ↔ n = e.code :=
  ⟨by unfold Scope.ofCode; split <;> rintro ⟨⟩ <;> rfl, fun h => h ▸ Scope_ofCode e⟩
theorem Rnd_ofCode_iff {e : Rnd} : Rnd.ofCode n = some e ↔ n = e.code :=
  ⟨by unfold Rnd.ofCode; split <;> rintro ⟨⟩ <;> rfl, fun h => h ▸ Rnd_ofCode e⟩
theorem Grp_ofCode_iff {e : Grp} : Grp.ofCode n = some e ↔ n = e.code :=
  ⟨by unfold Grp.ofCode; split <;> rintro ⟨⟩ <;> rfl, fun h => h ▸ Grp_ofCode e⟩
theorem ScanOp_ofCode_iff {e : ScanOp} : ScanOp.ofCode n = some e ↔ n = e.code :=
  ⟨by unfold ScanOp.ofCode; split <;> rintro ⟨⟩ <;> rfl, fun h => h ▸ ScanOp_ofCode e⟩

theorem RedT_ofBits_iff {m : Nat} {k : RedT} : RedT.ofBits n m = some k ↔ n = k.kindCode ∧ m = k.ewCode := by
  constructor
  · intro h
    unfold RedT.ofBits at h
    split at h
    · obtain ⟨e, he, rfl⟩ := Option.map_eq_some_iff.1 h
      exact ⟨rfl, EW_ofCode_iff.1 he⟩
    · obtain ⟨e, he, rfl⟩ := Option.map_eq_some_iff.1 h
      exact ⟨rfl, EW_ofCode_iff.1 he⟩
    · obtain ⟨e, he, rfl⟩ := Option.map_eq_some_iff.1 h
      exact ⟨rfl, FEW_ofCode_iff.1 he⟩
    · cases h
  · rintro ⟨rfl, rfl⟩
    exact RedT_ofBits k

end

/-! ## The fields of a format tile the word -/

/-- The fields of the given widths, from bit lo upward, at their places. -/
def fields (w : Nat) : Nat → List Nat → Nat
  | _, [] => 0
  | lo, n :: ns => fields w (lo + n) ns + fld w lo n * 2 ^ lo

theorem fields_eq (w : Nat) : (lo : Nat) → (ns : List Nat) → fields w lo ns + w % 2 ^ lo = w % 2 ^ (lo + ns.sum)
  | lo, [] => by simp [fields]
  | lo, n :: ns => by
    have low : fld w lo n * 2 ^ lo + w % 2 ^ lo = w % 2 ^ (lo + n) := by
      rw [Nat.pow_add, Nat.mod_mul, fld, Nat.add_comm, Nat.mul_comm]
    rw [fields, List.sum_cons, ← Nat.add_assoc lo, ← fields_eq w (lo + n) ns, Nat.add_assoc, low]

/-- The encoding of an instruction is a word's bits below the L bit if it is the sum of the fields of a format of 31 bits. The
last hypothesis is linear in the fields: what is known of the word decides it. -/
theorem encode_eq_bits {w : Nat} {i : Instr} {x : Nat} (ns : List Nat) (enc : encode i = some x) (whole : ns.sum = 31 := by rfl)
    (sum : x = fields w 0 ns := by simp only [fields, reg_val, toNat_fld_one, Nat.reduceAdd]; omega) : encode i = some (w % 2 ^ 31) := by
  have tiled : fields w 0 ns = w % 2 ^ 31 := by
    rw [← whole, ← Nat.zero_add ns.sum, ← fields_eq, Nat.pow_zero, Nat.mod_one, Nat.add_zero]
  rw [enc, sum, tiled]

/-! ## Well-formed operands (R47, R48, R51, R53) -/

theorem decide_and₂ {p q : Prop} [Decidable p] [Decidable q] (hp : p) (hq : q) : (decide p && decide q) = true := by
  simp [hp, hq]

theorem decide_and₃ {p q r : Prop} [Decidable p] [Decidable q] [Decidable r] (hp : p) (hq : q) (hr : r) :
    (decide p && decide q && decide r) = true := by
  simp [hp, hq, hr]

/-- R48: a g pair whose low bit is 0 begins at an even register. -/
theorem even_reg {w lo : Nat} (h : fld w lo 1 = 0) : (reg 32 w lo).val % 2 = 0 :=
  (Nat.mod_mod_of_dvd (w / 2 ^ lo) ⟨16, rfl⟩).trans h

/-! ## The decoder of each major

In each proof the list holds the widths of a word's fields from bit 0 up, as the format (R46) and the field uses (R51) cut it. -/

section
variable {w : Nat}

theorem faithful_decSys (major : fld w 25 6 = 0) : Faithful w (decSys w) := by
  unfold decSys
  split <;> simp only [faithful_error, faithful_zeroF, faithful_ok]
  -- NOP, HALT, ERET, YIELD
  case h_1 | h_2 | h_4 | h_8 => intros; exact ⟨rfl, encode_eq_bits [6, 19, 6] rfl⟩
  -- TRAP
  case h_3 => intros; exact ⟨rfl, encode_eq_bits [6, 9, 10, 6] rfl⟩
  all_goals intros; exact ⟨rfl, encode_eq_bits [6, 9, 5, 5, 6] rfl⟩

theorem faithful_decBr (major : fld w 25 6 = 1) : Faithful w (decBr w) := by
  unfold decBr
  simp only [faithful_codeF, faithful_ok, guard_ofBits_iff]
  rintro gd ⟨ok, pr, pn⟩
  exact ⟨ok, encode_eq_bits [21, 1, 3, 6] rfl⟩

theorem faithful_decJmp (major : fld w 25 6 = 2) : Faithful w (decJmp w) := by
  unfold decJmp
  split <;> simp only [faithful_error, faithful_zeroF, faithful_ok]
  -- JMP, CALL
  case h_1 | h_2 => exact ⟨rfl, encode_eq_bits [20, 5, 6] rfl⟩
  all_goals intros; exact ⟨rfl, encode_eq_bits [15, 5, 5, 6] rfl⟩

theorem faithful_decTime (major : fld w 25 6 = 3) : Faithful w (decTime w) := by
  unfold decTime
  split <;> simp only [faithful_error, faithful_zeroF, faithful_ok]
  -- CUE
  case h_2 => intros; exact ⟨rfl, encode_eq_bits [12, 3, 10, 6] rfl⟩
  all_goals intros; exact ⟨rfl, encode_eq_bits [12, 3, 5, 5, 6] rfl⟩

theorem faithful_decLd (major : fld w 25 6 = 4) : Faithful w (decLd w) := by
  unfold decLd
  simp only [faithful_codeF, faithful_ok, Space_ofCode_iff, LdSize_ofCode_iff]
  intros; exact ⟨rfl, encode_eq_bits [10, 3, 2, 5, 5, 6] rfl⟩

theorem faithful_decSt (major : fld w 25 6 = 5) : Faithful w (decSt w) := by
  unfold decSt
  simp only [faithful_codeF, faithful_ok, Space_ofCode_iff, StSize_ofCode_iff]
  intros; exact ⟨rfl, encode_eq_bits [10, 3, 2, 5, 5, 6] rfl⟩

theorem faithful_decAmo (major : fld w 25 6 = 6) : Faithful w (decAmo w) := by
  unfold decAmo
  split <;> simp only [faithful_error, faithful_zeroF, faithful_codeF, AmoSize_ofCode_iff, Space_ofCode_iff, faithful_ok]
  all_goals intros; exact ⟨rfl, encode_eq_bits [4, 2, 1, 3, 5, 5, 5, 6] rfl⟩

theorem faithful_decFence (major : fld w 25 6 = 7) : Faithful w (decFence w) := by
  unfold decFence
  split <;> simp only [faithful_error, faithful_zeroF, faithful_codeF, Scope_ofCode_iff, faithful_ok]
  -- FENCE
  case h_1 => intros; exact ⟨rfl, encode_eq_bits [6, 3, 3, 3, 5, 5, 6] rfl⟩
  all_goals intros; exact ⟨rfl, encode_eq_bits [12, 3, 5, 5, 6] rfl⟩

theorem faithful_decVmem (major : fld w 25 6 = 8) : Faithful w (decVmem w) := by
  unfold decVmem
  split <;> simp only [faithful_error, faithful_zeroF, faithful_codeF, EW_ofCode_iff, faithful_ok]
  -- VSEG
  case h_7 => intros; exact ⟨rfl, encode_eq_bits [4, 1, 5, 5, 5, 5, 6] rfl⟩
  all_goals intros; exact ⟨rfl, encode_eq_bits [4, 1, 2, 3, 5, 5, 5, 6] rfl⟩

theorem faithful_decStream (major : fld w 25 6 = 9) : Faithful w (decStream w) := by
  unfold decStream
  split <;> simp only [faithful_error, faithful_zeroF, faithful_codeF, EW_ofCode_iff, faithful_ok]
  -- SSET
  case h_1 => intros; exact ⟨rfl, encode_eq_bits [4, 6, 5, 5, 3, 2, 6] rfl⟩
  all_goals intros; exact ⟨rfl, encode_eq_bits [4, 1, 2, 3, 5, 3, 2, 5, 6] rfl⟩

theorem faithful_decVamo (major : fld w 25 6 = 10) : Faithful w (decVamo w) := by
  unfold decVamo
  split <;> simp only [faithful_error, faithful_codeF, EW_ofCode_iff, FEW_ofCode_iff, faithful_ok]
  all_goals intros; exact ⟨rfl, encode_eq_bits [4, 1, 2, 3, 5, 5, 5, 6] rfl⟩

theorem faithful_decVctl (major : fld w 25 6 = 11) : Faithful w (decVctl w) := by
  unfold decVctl
  split <;> simp only [faithful_error, faithful_zeroF, faithful_codeF, EW_ofCode_iff, faithful_ok]
  -- SETVL
  case h_1 => intros; exact ⟨rfl, encode_eq_bits [2, 10, 3, 5, 5, 6] rfl⟩
  -- VLOOP
  case h_2 => intros; exact ⟨rfl, encode_eq_bits [4, 8, 3, 5, 5, 6] rfl⟩
  all_goals intros; exact ⟨rfl, encode_eq_bits [12, 3, 10, 6] rfl⟩

theorem faithful_decHarpc (major : fld w 25 6 = 12) : Faithful w (decHarpc w) := by
  unfold decHarpc
  split <;> simp only [faithful_error, faithful_zeroF, faithful_codeF, faithful_needF, faithful_fmtF, faithful_ok, Grp_ofCode_iff]
  -- HPLANE
  case h_1 =>
    intro _ n _ pair group fmt
    exact ⟨decide_and₃ (even_reg pair) group fmt, encode_eq_bits [3, 3, 5, 5, 5, 4, 6] rfl⟩
  -- HREAD
  case h_3 =>
    intro n _ pair group fmt
    exact ⟨decide_and₃ (even_reg pair) group fmt, encode_eq_bits [3, 3, 5, 5, 5, 4, 6] rfl⟩
  -- HWRITE
  case h_4 =>
    intro _ n _ pair group
    exact ⟨decide_and₂ (even_reg pair) group, encode_eq_bits [3, 3, 5, 5, 5, 4, 6] rfl⟩
  all_goals
    intro _ _ pair
    exact ⟨decide_eq_true (even_reg pair), encode_eq_bits [3, 8, 5, 5, 4, 6] rfl⟩

theorem faithful_decHmma (major : fld w 25 6 = 13) : Faithful w (decHmma w) := by
  unfold decHmma
  split <;> simp only [faithful_error, faithful_codeF, faithful_needF, faithful_fmtF, faithful_ok, Grp_ofCode_iff]
  all_goals
    intro n _ pair group fmt
    exact ⟨decide_and₃ (even_reg pair) group fmt, encode_eq_bits [3, 3, 5, 5, 5, 4, 6] rfl⟩

theorem faithful_decHmms (major : fld w 25 6 = 14) : Faithful w (decHmms w) := by
  unfold decHmms
  split <;> simp only [faithful_error, faithful_codeF, faithful_needF, faithful_fmtF, faithful_ok, Grp_ofCode_iff]
  all_goals
    intro n _ pair group fmt
    exact ⟨decide_and₃ (even_reg pair) group fmt, encode_eq_bits [3, 3, 5, 5, 5, 4, 6] rfl⟩

theorem faithful_decSend (major : fld w 25 6 = 15) : Faithful w (decSend w) := by
  unfold decSend
  split <;> simp only [faithful_error, faithful_zeroF, faithful_needF, faithful_ok]
  -- STRIPE
  case h_5 =>
    intro _ tickets
    exact ⟨decide_eq_true tickets, encode_eq_bits [3, 2, 1, 5, 5, 5, 4, 6] rfl⟩
  all_goals intros; exact ⟨rfl, encode_eq_bits [3, 3, 5, 5, 5, 4, 6] rfl⟩

theorem faithful_decRemote (major : fld w 25 6 = 16) : Faithful w (decRemote w) := by
  unfold decRemote
  split
  -- the RAMO words, each a code of R51
  case h_3 =>
    split <;> simp only [faithful_ok]
    case h_8 =>
      have last : fld w 3 3 = 7 := by grind [fld_lt w 3 3]
      exact ⟨rfl, encode_eq_bits [3, 3, 5, 5, 5, 4, 6] rfl⟩
    all_goals exact ⟨rfl, encode_eq_bits [3, 3, 5, 5, 5, 4, 6] rfl⟩
  all_goals simp only [faithful_error, faithful_zeroF, faithful_codeF, faithful_needF, faithful_ok, LdSize_ofCode_iff,
    StSize_ofCode_iff, Grp_ofCode_iff]
  -- RLD, RST
  case h_1 | h_2 => intros; exact ⟨rfl, encode_eq_bits [3, 3, 5, 5, 5, 4, 6] rfl⟩
  all_goals
    intro _ n _ group
    exact ⟨decide_eq_true group, encode_eq_bits [3, 3, 5, 5, 5, 4, 6] rfl⟩

theorem faithful_decTicket (major : fld w 25 6 = 17) : Faithful w (decTicket w) := by
  unfold decTicket
  split <;> simp only [faithful_error, faithful_zeroF, faithful_codeF, faithful_ok, Space_ofCode_iff]
  -- TKLD, TKST
  case h_2 | h_3 => intros; exact ⟨rfl, encode_eq_bits [3, 3, 5, 5, 5, 4, 6] rfl⟩
  -- TKMOV
  case h_4 => intros; exact ⟨rfl, encode_eq_bits [3, 8, 4, 6, 4, 6] rfl⟩
  -- TKCHK
  case h_5 => intros; exact ⟨rfl, encode_eq_bits [3, 13, 5, 4, 6] rfl⟩
  all_goals intros; exact ⟨rfl, encode_eq_bits [3, 8, 5, 5, 4, 6] rfl⟩

theorem faithful_decDray (major : fld w 25 6 = 18) : Faithful w (decDray w) := by
  unfold decDray
  split <;> simp only [faithful_error, faithful_zeroF, faithful_ok]
  all_goals intros; exact ⟨rfl, encode_eq_bits [3, 3, 5, 5, 5, 4, 6] rfl⟩

theorem faithful_decDrayq (major : fld w 25 6 = 19) : Faithful w (decDrayq w) := by
  unfold decDrayq
  split <;> simp only [faithful_error, faithful_zeroF, faithful_ok]
  -- DWAIT
  case h_1 => intros; exact ⟨rfl, encode_eq_bits [3, 3, 5, 5, 5, 4, 6] rfl⟩
  all_goals intros; exact ⟨rfl, encode_eq_bits [3, 8, 5, 5, 4, 6] rfl⟩

theorem faithful_decNet (major : fld w 25 6 = 20) : Faithful w (decNet w) := by
  unfold decNet
  split <;> simp only [faithful_error, faithful_zeroF, faithful_ok]
  -- NPOST
  case h_1 => intros; exact ⟨rfl, encode_eq_bits [3, 3, 5, 5, 5, 4, 6] rfl⟩
  all_goals intros; exact ⟨rfl, encode_eq_bits [3, 8, 5, 5, 4, 6] rfl⟩

theorem faithful_decCount (major : fld w 25 6 = 21) : Faithful w (decCount w) := by
  unfold decCount
  split <;> simp only [faithful_error, faithful_zeroF, faithful_codeF, faithful_ok, guard_ofBits_iff]
  -- CANCEL
  case h_3 =>
    rintro _ gd ⟨ok, pr, pn⟩
    exact ⟨ok, encode_eq_bits [6, 1, 3, 5, 5, 5, 6] rfl⟩
  all_goals
    rintro _ gd ⟨ok, pr, pn⟩
    exact ⟨ok, encode_eq_bits [6, 1, 3, 4, 1, 5, 5, 6] rfl⟩

theorem faithful_decPriv (major : fld w 25 6 = 22) : Faithful w (decPriv w) := by
  unfold decPriv
  repeat' split
  all_goals simp only [faithful_error, faithful_zeroF, faithful_ok]
  all_goals intros; exact ⟨rfl, encode_eq_bits [3, 3, 5, 5, 5, 4, 6] rfl⟩

theorem faithful_decAlu (major : fld w 25 6 = 32) : Faithful w (decAlu w) := by
  unfold decAlu
  split <;> simp only [faithful_error, faithful_zeroF, faithful_codeF, faithful_ok, guard_ofBits_iff, Width_ofCode_iff]
  -- SEL
  case h_13 => intros; exact ⟨rfl, encode_eq_bits [4, 2, 1, 3, 5, 5, 5, 6] rfl⟩
  -- CLZ, POPC
  case h_14 | h_15 =>
    rintro _ gd ⟨ok, pr, pn⟩ wd width
    exact ⟨ok, encode_eq_bits [4, 2, 1, 3, 5, 5, 5, 6] rfl⟩
  all_goals
    rintro gd ⟨ok, pr, pn⟩ wd width
    exact ⟨ok, encode_eq_bits [4, 2, 1, 3, 5, 5, 5, 6] rfl⟩

theorem faithful_decAlui (major : fld w 25 6 = 33) : Faithful w (decAlui w) := by
  unfold decAlui
  split <;> simp only [faithful_error, faithful_zeroF, faithful_ok]
  -- ADDI, ANDI, ORI, XORI
  case h_1 | h_2 | h_3 | h_4 => exact ⟨rfl, encode_eq_bits [12, 3, 5, 5, 6] rfl⟩
  all_goals intros; exact ⟨rfl, encode_eq_bits [6, 6, 3, 5, 5, 6] rfl⟩

theorem faithful_decLi (major : fld w 25 6 = 34) : Faithful w (decLi w) := by
  unfold decLi
  exact faithful_ok.2 ⟨rfl, encode_eq_bits [20, 5, 6] rfl⟩

theorem faithful_decLih (major : fld w 25 6 = 35) : Faithful w (decLih w) := by
  unfold decLih
  exact faithful_ok.2 ⟨rfl, encode_eq_bits [20, 5, 6] rfl⟩

theorem faithful_decMul (major : fld w 25 6 = 36) : Faithful w (decMul w) := by
  unfold decMul
  split <;> simp only [faithful_error, faithful_codeF, faithful_ok, guard_ofBits_iff, Width_ofCode_iff]
  all_goals
    rintro gd ⟨ok, pr, pn⟩ wd width
    exact ⟨ok, encode_eq_bits [4, 2, 1, 3, 5, 5, 5, 6] rfl⟩

theorem faithful_decCmp (major : fld w 25 6 = 37) : Faithful w (decCmp w) := by
  unfold decCmp
  split <;> simp only [faithful_error, faithful_zeroF, faithful_codeF, faithful_ok, guard_ofBits_iff, Width_ofCode_iff]
  all_goals
    rintro _ gd ⟨ok, pr, pn⟩ wd width
    exact ⟨ok, encode_eq_bits [4, 2, 1, 3, 5, 5, 3, 2, 6] rfl⟩

theorem faithful_decPlog (major : fld w 25 6 = 38) : Faithful w (decPlog w) := by
  unfold decPlog
  split <;> simp only [faithful_error, faithful_zeroF, faithful_codeF, faithful_ok, guard_ofBits_iff]
  all_goals
    rintro _ _ _ gd ⟨ok, pr, pn⟩
    exact ⟨ok, encode_eq_bits [6, 1, 3, 3, 2, 3, 2, 3, 2, 6] rfl⟩

theorem faithful_decBit (major : fld w 25 6 = 39) : Faithful w (decBit w) := by
  unfold decBit
  split <;> simp only [faithful_error, faithful_needF, faithful_ok]
  all_goals
    intro inside
    exact ⟨decide_eq_true inside, encode_eq_bits [6, 6, 3, 5, 5, 6] rfl⟩

theorem faithful_decValu (major : fld w 25 6 = 40) : Faithful w (decValu w) := by
  unfold decValu
  split <;> simp only [faithful_error, faithful_zeroF, faithful_codeF, EW_ofCode_iff, faithful_ok]
  all_goals intros; exact ⟨rfl, encode_eq_bits [5, 2, 3, 5, 5, 5, 6] rfl⟩

theorem faithful_decVfp (major : fld w 25 6 = 41) : Faithful w (decVfp w) := by
  unfold decVfp
  split <;> simp only [faithful_error, faithful_zeroF, faithful_codeF, FEW_ofCode_iff, faithful_ok]
  all_goals intros; exact ⟨rfl, encode_eq_bits [5, 2, 3, 5, 5, 5, 6] rfl⟩

theorem faithful_decVcmp (major : fld w 25 6 = 42) : Faithful w (decVcmp w) := by
  unfold decVcmp
  split <;> simp only [faithful_error, faithful_zeroF, faithful_codeF, EW_ofCode_iff, FEW_ofCode_iff, faithful_ok]
  all_goals intros; exact ⟨rfl, encode_eq_bits [5, 2, 3, 5, 5, 3, 2, 6] rfl⟩

theorem faithful_decVcvt (major : fld w 25 6 = 43) : Faithful w (decVcvt w) := by
  unfold decVcvt
  split <;> simp only [faithful_zeroF, faithful_codeF, faithful_needF, faithful_fmtF, faithful_ok, FEW_ofCode_iff, Rnd_ofCode_iff]
  -- VCVT, VDQNT
  case h_1 | h_3 =>
    intro e _ rnd _ rounding fmt
    exact ⟨decide_and₂ fmt rounding, encode_eq_bits [2, 3, 2, 3, 5, 5, 5, 6] rfl⟩
  -- VQNT
  case h_2 =>
    intro _ e _ fmt
    exact ⟨decide_eq_true fmt, encode_eq_bits [2, 3, 2, 3, 5, 5, 5, 6] rfl⟩
  -- VRNDI
  case h_4 =>
    have last : fld w 0 2 = 3 := by grind [fld_lt w 0 2]
    intro _ e _ rnd _ rounding
    exact ⟨decide_eq_true rounding, encode_eq_bits [2, 3, 2, 3, 5, 5, 5, 6] rfl⟩

theorem faithful_decVspec (major : fld w 25 6 = 44) : Faithful w (decVspec w) := by
  unfold decVspec
  split <;> simp only [faithful_error, faithful_zeroF, faithful_codeF, FEW_ofCode_iff, faithful_ok]
  all_goals intros; exact ⟨rfl, encode_eq_bits [5, 2, 3, 5, 5, 5, 6] rfl⟩

theorem faithful_decVred (major : fld w 25 6 = 45) : Faithful w (decVred w) := by
  unfold decVred
  split <;> simp only [faithful_error, faithful_zeroF, faithful_fixF, faithful_codeF, faithful_ok, ScanOp_ofCode_iff, RedT_ofBits_iff]
  -- VSCAN
  case h_4 => rintro _ op _ k ⟨kind, ew⟩; exact ⟨rfl, encode_eq_bits [5, 2, 3, 2, 2, 1, 5, 5, 6] rfl⟩
  -- VDOT4
  case h_5 => intros; exact ⟨rfl, encode_eq_bits [5, 2, 3, 5, 5, 5, 6] rfl⟩
  all_goals rintro _ k ⟨kind, ew⟩; exact ⟨rfl, encode_eq_bits [5, 2, 3, 2, 3, 5, 5, 6] rfl⟩

theorem faithful_decVperm (major : fld w 25 6 = 46) : Faithful w (decVperm w) := by
  unfold decVperm
  split <;> simp only [faithful_error, faithful_zeroF, faithful_codeF, EW_ofCode_iff, faithful_ok]
  -- VIOTA
  case h_6 => intros; exact ⟨rfl, encode_eq_bits [5, 2, 3, 10, 5, 6] rfl⟩
  all_goals intros; exact ⟨rfl, encode_eq_bits [5, 2, 3, 5, 5, 5, 6] rfl⟩

theorem faithful_decVmask (major : fld w 25 6 = 47) : Faithful w (decVmask w) := by
  unfold decVmask
  split <;> simp only [faithful_error, faithful_zeroF, faithful_codeF, EW_ofCode_iff, faithful_ok]
  -- MNOT
  case h_4 => intros; exact ⟨rfl, encode_eq_bits [5, 2, 8, 3, 2, 3, 2, 6] rfl⟩
  -- MCNT, MFIRST
  case h_5 | h_6 => intros; exact ⟨rfl, encode_eq_bits [5, 2, 8, 3, 2, 5, 6] rfl⟩
  -- QAND
  case h_7 => intros; exact ⟨rfl, encode_eq_bits [5, 2, 3, 2, 3, 2, 3, 2, 3, 6] rfl⟩
  -- QCLR
  case h_8 => intros; exact ⟨rfl, encode_eq_bits [5, 2, 8, 3, 2, 2, 3, 6] rfl⟩
  all_goals intros; exact ⟨rfl, encode_eq_bits [5, 2, 3, 3, 2, 3, 2, 3, 2, 6] rfl⟩

theorem faithful_decVrng (major : fld w 25 6 = 48) : Faithful w (decVrng w) := by
  unfold decVrng
  simp only [faithful_zeroF, faithful_codeF, faithful_ok, EW_ofCode_iff]
  intros; exact ⟨rfl, encode_eq_bits [5, 2, 3, 5, 5, 5, 6] rfl⟩

theorem faithful_cHint (h : Fin 4) (major : fld w 25 6 = 28 + h.val) : Faithful w (.ok (.cHint h (reg 33554432 w 0))) :=
  faithful_ok.2 ⟨rfl, encode_eq_bits [25, 6] rfl⟩

theorem faithful_aHint (h : Fin 4) (major : fld w 25 6 = 60 + h.val) : Faithful w (.ok (.aHint h (reg 33554432 w 0))) :=
  faithful_ok.2 ⟨rfl, encode_eq_bits [25, 6] rfl⟩

/-- Every major is decoded faithfully, and a reserved major is not decoded. -/
theorem faithful_decodeWord (w : Nat) : Faithful w (decodeWord w) := by
  unfold decodeWord
  split
  · exact faithful_decSys ‹_›
  · exact faithful_decBr ‹_›
  · exact faithful_decJmp ‹_›
  · exact faithful_decTime ‹_›
  · exact faithful_decLd ‹_›
  · exact faithful_decSt ‹_›
  · exact faithful_decAmo ‹_›
  · exact faithful_decFence ‹_›
  · exact faithful_decVmem ‹_›
  · exact faithful_decStream ‹_›
  · exact faithful_decVamo ‹_›
  · exact faithful_decVctl ‹_›
  · exact faithful_decHarpc ‹_›
  · exact faithful_decHmma ‹_›
  · exact faithful_decHmms ‹_›
  · exact faithful_decSend ‹_›
  · exact faithful_decRemote ‹_›
  · exact faithful_decTicket ‹_›
  · exact faithful_decDray ‹_›
  · exact faithful_decDrayq ‹_›
  · exact faithful_decNet ‹_›
  · exact faithful_decCount ‹_›
  · exact faithful_decPriv ‹_›
  · exact faithful_decAlu ‹_›
  · exact faithful_decAlui ‹_›
  · exact faithful_decLi ‹_›
  · exact faithful_decLih ‹_›
  · exact faithful_decMul ‹_›
  · exact faithful_decCmp ‹_›
  · exact faithful_decPlog ‹_›
  · exact faithful_decBit ‹_›
  · exact faithful_decValu ‹_›
  · exact faithful_decVfp ‹_›
  · exact faithful_decVcmp ‹_›
  · exact faithful_decVcvt ‹_›
  · exact faithful_decVspec ‹_›
  · exact faithful_decVred ‹_›
  · exact faithful_decVperm ‹_›
  · exact faithful_decVmask ‹_›
  · exact faithful_decVrng ‹_›
  · exact faithful_cHint 0 ‹_›
  · exact faithful_cHint 1 ‹_›
  · exact faithful_cHint 2 ‹_›
  · exact faithful_cHint 3 ‹_›
  · exact faithful_aHint 0 ‹_›
  · exact faithful_aHint 1 ‹_›
  · exact faithful_aHint 2 ‹_›
  · exact faithful_aHint 3 ‹_›
  · exact faithful_error _

end

/-- Settles O3: whatever a word decodes to is faithful to it. -/
theorem encodeOfDecode : Obligations.EncodeOfDecode := faithful_decodeWord

end Sys2Proof.Laws
end

section
/-! Proofs of the statements on pairs and on the words written out from the spec (O4, O1). -/
namespace Sys2Proof.Laws

/-! ## The destinations of a joined pair (R42) -/

/-- What a word names as its destination is the number of a general register. -/
theorem wordDest_lt {w x : Nat} (h : wordDest w = some x) : x < 32 := by
  have d : fld w 20 5 < 32 := fld_lt w 20 5
  have e : fld w 16 5 < 32 := fld_lt w 16 5
  unfold wordDest at h
  split at h <;> simp only [Option.ite_none_right_eq_some, Option.some.injEq, reduceCtorEq] at h <;> omega

theorem joinedDup_iff {w0 w1 : Nat} :
    joinedDup w0 w1 = true ↔ ∃ r : GReg, r ≠ 0 ∧ wordDest w0 = some r ∧ wordDest w1 = some r := by
  constructor
  · intro h
    unfold joinedDup at h
    split at h
    next x y hx hy =>
      simp only [Bool.and_eq_true, beq_iff_eq, bne_iff_ne] at h
      obtain ⟨rfl, nonzero⟩ := h
      exact ⟨⟨x, wordDest_lt hx⟩, fun zero => nonzero (congrArg Fin.val zero), hx, hy⟩
    next => cases h
  · rintro ⟨r, nonzero, h0, h1⟩
    simp [joinedDup, h0, h1, Fin.val_ne_zero_iff.2 nonzero]

/-! ## The kinds of a pair (R40) -/

section
variable {w0 w1 : Nat}

theorem decodePair_of_joinBits (h0 : fld w0 31 1 = 0) (h1 : fld w1 31 1 = 0) : decodePair w0 w1 =
    if isCClass w0 && !isCClass w1 && !joinedDup w0 w1 then .ok (.joined w0 w1) else .error .illegalPair := by
  simp only [decodePair, h0, h1]

theorem decodePair_of_loneBits (h0 : fld w0 31 1 = 1) (h1 : fld w1 31 1 = 1) : decodePair w0 w1 = .ok (.lone w0 w1) := by
  simp only [decodePair, h0, h1]

theorem decodePair_of_mixedBits (h : fld w0 31 1 ≠ fld w1 31 1) : decodePair w0 w1 = .error .illegalPair := by
  obtain h0 | h0 := fld_one w0 31
  · have h1 : fld w1 31 1 = 1 := (fld_one w1 31).resolve_left fun h1 => h (h0.trans h1.symm)
    simp only [decodePair, h0, h1]
  · have h1 : fld w1 31 1 = 0 := (fld_one w1 31).resolve_right fun h1 => h (h0.trans h1.symm)
    simp only [decodePair, h0, h1]

end

theorem pairKinds : Claims.PairKinds := by
  intro w0 w1
  refine ⟨decodePair_of_mixedBits, decodePair_of_loneBits, fun h0 h1 classes => ?_⟩
  rw [decodePair_of_joinBits h0 h1, classes]
  rfl

theorem joinedPairDestinations : Claims.JoinedPairDestinations := by
  intro w0 w1 h0 h1 c a
  rw [← joinedDup_iff, decodePair_of_joinBits h0 h1, c, a]
  cases joinedDup w0 w1 <;> simp

/-- Settles O4: the kinds by the L bits and classes, and the check of a joined pair's destinations. -/
theorem pairsDecode : Obligations.PairsDecode := ⟨pairKinds, joinedPairDestinations⟩

/-- Settles O1: the decoder answers each word by computation. -/
theorem specWordsDecode : Obligations.SpecWordsDecode := ⟨rfl, rfl, rfl, rfl, rfl, rfl⟩

end Sys2Proof.Laws
end

section
/-! Proof of the statement on the step of a joined pair (O6): what a joined pair yields, what its two words come to, and what is
settled of it. -/
namespace Sys2Proof.Machine

section
variable {s : State}

/-- R40: at its first word, with no block to go on with, a joined pair yields both of its words. -/
theorem fetchDecode_joined {u v : State} {sid w0 w1 : Nat} {c a : Instr} (trap : (u.strand sid).pendingTrap = none)
    (first : (u.strand sid).pc.getLsbD 2 = false) (block : (u.strand sid).heldLoop = none)
    (fetched : u.fetchPair sid ((u.strand sid).pc.toNat / 8 * 8) = (v, .ok (w0, w1))) (pair : decodePair w0 w1 = .ok (.joined w0 w1))
    (word0 : decodeWord w0 = .ok c) (word1 : decodeWord w1 = .ok a) :
    u.fetchDecode sid = .ok (.two (v.issued ⟨sid, BitVec.ofNat 64 ((u.strand sid).pc.toNat / 8 * 8), false, true, BitVec.ofNat 32 w0⟩)
      (.ok c) (.ok a) w0 w1) := by
  simp only [State.fetchDecode, trap, first, fetched, pair, word0, word1, Strand.resumes, block, Except.mapError]
  rfl

theorem issue_of_fetched_pair {u t : State} {sid w0 w1 : Nat} {c a : Except TrapInfo Instr} (ready : s.toFetch sid = .ok u)
    (fetched : u.fetchDecode sid = .ok (.two t c a w0 w1)) : issue sid s = settle (runJoined t c a w0 w1) u := by
  simp only [issue, ready, fetched]

/-- R41, R43: once the C word is done, the pair comes to what the A word behind it comes to, which keeps or drops both. -/
theorem runJoined_of_done {p q : State} {w0 w1 : Nat} {c a : Instr} (run0 : exec c (s.position false w0) = .next p)
    (done : p.last = .done) (run1 : exec a (p.position true w1).behind = .next q) :
    runJoined s (.ok c) (.ok a) w0 w1 = .next (match q.last with
      | .done => q
      | .held => (s.position true w1).keepEmpty
      | .trapped i => (s.position true w1).chargePair i) := by
  simp only [runJoined, runWord, run0, done, run1]
  cases q.last <;> rfl

theorem settle_of_held {t u : State} (h : t.last = .held) : settle (.next t) u = .next ((t.modStrand t.cur.sid fun y => { y with
    pc := (u.strand t.cur.sid).pc, prev := (u.strand t.cur.sid).prev, seq := (u.strand t.cur.sid).seq }).perf t.cur.sid 3 1) := by
  simp only [settle, h, if_true]

theorem settle_of_not_held {t u : State} (h : t.last ≠ .held) : settle (.next t) u = .next (t.perf t.cur.sid 2 1) := by
  simp only [settle, h, if_false]

end

/-- Settles O6: the strand at the head issues its joined pair, and what the A word came to decides what is settled. -/
theorem stepRunsJoinedPair : Obligations.StepRunsJoinedPair := by
  intro s u v p q sid rest w0 w1 c a x t inbox due head ready trap first block fetched pair word0 word1 run0 done run1
  have run : step s = settle (runJoined t (.ok c) (.ok a) w0 w1) u :=
    (step_of_toIssue inbox due head).trans (issue_of_fetched_pair ready (fetchDecode_joined trap first block fetched pair word0 word1))
  rw [run, runJoined_of_done run0 done run1]
  refine ⟨fun last => ?_, fun last => ?_, fun i last => ?_⟩
  · simp only [last]
    exact settle_of_not_held (by simp [last])
  · simp only [last]
    exact settle_of_held rfl
  · simp only [last]
    exact settle_of_not_held (by simp [State.chargePair])

end Sys2Proof.Machine
end

section
/-! Proofs of the statement on NOP, the hint words and HALT (O18), from the law of a word that meets none of its checks. -/
namespace Sys2Proof.Machine
open Sys2Proof.Claims

/-- In any table, canonical or not, the entry just written reads as the value written, unless that is the default. -/
theorem tget_tput_same {α : Type} [DecidableEq α] {d v : α} (h : v ≠ d) (k : Nat) : (m : Sparse α) → tget d k (tput d k v m) = v
  | [] => by simp [tput, tget, h]
  | (j, w) :: t => by
    simp only [tput, h, if_false]
    split
    next => simp [tget]
    next ne =>
      split
      next => simp [tget]
      next le => simp [tget, ne, le, tget_tput_same h k t]

theorem hintsDoNothing : HintsDoNothing := by
  intro s h x ready
  have run : finish s (word s {} .ok) = .next { s with last := .done } := by rw [word_ready ready, finish_ok]
  exact ⟨run, run, run⟩

/-- The strand of a word reads as halted once it halts: no slot that is not listed is halted. -/
theorem me_of_halted (s : State) : (s.modMe fun x => { x with slot := .halted }).me = { s.me with slot := .halted } :=
  have listed : { s.me with slot := .halted } ≠ ({} : Strand) := fun h => SlotState.noConfusion (congrArg Strand.slot h)
  tget_tput_same listed s.cur.sid s.strands

theorem halt_does {s : State} (ready : s.Ready { outward := true }) : Does .halt s s.halt := by
  show finish s (word s { outward := true } fun s => .ok s.halt) = _
  rw [word_ready ready, finish_ok]

/-- R126: of a strand of a launch the completion of its unit is due. -/
theorem halt_of_launch {s : State} {l : Nat} (launch : s.me.launch = some l) :
    s.halt = (s.modMe fun x => { x with slot := .halted }).now prioCount (.unitCompletion s.cur.sid) := by
  simp only [State.halt, me_of_halted, launch]

theorem halt_of_none {s : State} (launch : s.me.launch = none) (part : s.partOf (coreOf s.cur.sid) = none) :
    s.halt = s.modMe fun x => { x with slot := .halted } := by
  have kept : (s.modMe fun x => { x with slot := .halted }).partOf (coreOf s.cur.sid) = none := part
  simp only [State.halt, me_of_halted, launch, kept]

theorem haltHalts : HaltHalts := fun _ ready =>
  ⟨fun _ launch => halt_of_launch launch ▸ halt_does ready, fun launch part => halt_of_none launch part ▸ halt_does ready⟩

/-- Settles O18: the words without effect, and the halt of a strand in and outside a launch. -/
theorem hintsAndHalt : Obligations.HintsAndHalt := ⟨hintsDoNothing, haltHalts⟩

end Sys2Proof.Machine
end

section
/-! Proof of the statement on reset (O8): every table of the reset state is empty, so that each read answers what an unlisted entry
stands for. -/
namespace Sys2Proof.Machine

theorem reset_canonical : Canonical State.reset :=
  ⟨wf_nil, wf_nil, rising_nil, rising_nil, rising_nil, rising_nil, rising_nil, rising_nil, rising_nil, rising_nil, rising_nil, rising_nil,
    rising_nil, rising_nil⟩

theorem reset_memRead : (n a : Nat) → State.reset.memRead a n = List.replicate n 0
  | 0, _ => rfl
  | n + 1, a => by
    have byte : tget memDefault (State.reset.home a) State.reset.mem = 0 := rfl
    rw [State.memRead, byte, reset_memRead n (a + 1), List.replicate_succ]

/-- Settles O8: the canonical form, the strands, the package registers and the bytes, each read off empty tables. -/
theorem resetState : Obligations.ResetState :=
  ⟨reset_canonical, fun _ => ⟨rfl, rfl, rfl, rfl, rfl, rfl, rfl⟩, rfl, rfl, rfl, rfl, fun a n => reset_memRead n a⟩

end Sys2Proof.Machine
end

section
/-! Proof of the statement on words of a higher level (O22): each of them runs in the one frame of instruction words, which checks the
level before anything that a scalar word could meet. -/
namespace Sys2Proof.Machine
open Sys2Proof.Claims

/-- The instruction is a scalar word of the frame, of a level above program level. -/
def IsPrivileged (s : State) (i : Instr) : Prop := ∃ u : Use, RunsInFrame s u i ∧ u.vec = false ∧ 0 < u.level

section
variable {s : State}

theorem IsPrivileged.traps {i : Instr} (h : IsPrivileged s i) (program : s.me.priv = 0) :
    Traps i s { cause := 4, eval := s.cur.raw.setWidth 64 } := by
  obtain ⟨u, ⟨effect, run⟩, scalar, level⟩ := h
  have above : s.me.priv < u.level := by omega
  rw [Traps, run, word_level (by simp [scalar]) above, privilege, finish_trap]

variable (s) (d a b : GReg)

theorem systemWords_privileged (tk : TkReg) (cn : CnReg) :
    ∀ i ∈ [Instr.eret, .tune a, .tlbinvPage d a b, .tlbinvVd d b, .migset d a b, .mint tk d a b, .revokePort d a, .revokeKey d a b,
      .keysetSet d a b, .keysetWin d a b, .keysetErase d a b, .admitTab d a b, .ckpt d a cn ⟨0, false⟩, .xlatRead d a b, .xlatWrite d a b,
      .xlatFetch d a b, .xlatProbe d a b, .ctxsave d a, .ctxload d a], IsPrivileged s i := by
  simp only [List.forall_mem_cons]
  iterate 19 refine ⟨⟨_, ⟨_, rfl⟩, rfl, Nat.succ_pos _⟩, ?_⟩
  exact List.forall_mem_nil _

variable {csr : Fin 512}

/-- R68: the trap registers are read and written at supervisor level. -/
theorem csrLevels_trap (low : 0x20 ≤ csr.val) (high : csr.val ≤ 0x25) : csrLevels csr = some (1, some 1) := by
  unfold csrLevels
  grind

theorem csrAccess_read {n r : Nat} {w : Option Nat} (levels : csrLevels n = some (r, w)) (u : Use) (effect : State → Res) :
    csrAccess s n false u effect = word s { u with level := r } effect := by
  simp [csrAccess, levels]

theorem csrAccess_write {n r l : Nat} (levels : csrLevels n = some (r, some l)) (u : Use) (effect : State → Res) :
    csrAccess s n true u effect = word s { u with level := Nat.max u.level l, outward := csrIsCore n } effect := by
  simp [csrAccess, levels]

theorem trapCsrWords_privileged (low : 0x20 ≤ csr.val) (high : csr.val ≤ 0x25) :
    IsPrivileged s (.csrr d csr) ∧ IsPrivileged s (.csrw csr a) ∧ IsPrivileged s (.csrx d csr a) := by
  have levels := csrLevels_trap low high
  exact ⟨⟨_, ⟨_, (exec_csrr d csr s).trans (congrArg _ (csrAccess_read s levels _ _))⟩, rfl, Nat.one_pos⟩,
    ⟨_, ⟨_, (exec_csrw csr a s).trans (congrArg _ (csrAccess_write s levels _ _))⟩, rfl, Nat.one_pos⟩,
    ⟨_, ⟨_, (exec_csrx d csr a s).trans (congrArg _ (csrAccess_write s levels _ _))⟩, rfl, Nat.one_pos⟩⟩

end

/-- Settles O22: the words of system, translation, keys and contexts, and the accesses of the trap registers, are all privileged. -/
theorem privilegedWordsTrap : Obligations.PrivilegedWordsTrap := by
  intro s d a b tk cn csr i program h
  obtain mem | ⟨access, low, high⟩ := h
  · exact (systemWords_privileged s d a b tk cn i mem).traps program
  · obtain ⟨read, write, exchange⟩ := trapCsrWords_privileged s d a low high
    obtain rfl | rfl | rfl := access
    · exact read.traps program
    · exact write.traps program
    · exact exchange.traps program

end Sys2Proof.Machine
end

section
/-! Proof of the statement on TRAP (O19): a trap that its strand handles is the entry of that strand. -/
namespace Sys2Proof.Machine

section
variable {s : State} {sid : Nat} {i : TrapInfo}

/-- R351: only integrity, register-file and residue faults are counted. -/
theorem countTrap_of_software (software : i.cause = 14) : s.countTrap sid i = s := by
  simp [State.countTrap, software]

/-- R353: on a free core a trap below coach level with a handler that is not inhibited is taken on its strand. -/
theorem takeTrap_enters (epc : Word) (free : s.scored sid = false) (stays : (s.strand sid).leaving = none)
    (present : (s.strand sid).slot ≠ .preempted) (uncounted : s.countTrap sid i = s) (below : (s.strand sid).priv ≤ 1)
    (handler : (s.strand sid).tvec ≠ 0) (open_ : (s.strand sid).inh = false) :
    s.takeTrap sid i epc = s.setStrand sid ((s.strand sid).enter i epc) := by
  have notCoach : ¬ (s.strand sid).priv ≥ 2 := by omega
  have hasHandler : ¬ (s.strand sid).tvec = 0#64 := handler
  simp [State.takeTrap, free, stays, present, uncounted, notCoach, hasHandler, open_]

/-- R356: with no vector word outstanding a trap is taken at once. -/
theorem raise_of_noVec (idle : s.me.oldestVec = none) :
    raise s s i = { s.takeTrap s.cur.sid i (s.epcOf i) with last := .trapped i } := by
  simp [raise, State.vecBefore, idle]

theorem exec_trap_ready (code : Fin 512) (ready : s.Ready {}) : exec (.trap code) s =
    .next (raise s s { cause := 14, eval := BitVec.ofNat 64 code }) := by
  show finish s (word s {} _) = _
  rw [word_ready ready, finish_trap]

end

/-- Settles O19: the software trap enters its strand's handler, and its strand is all that changes. -/
theorem trapEntersHandler : Obligations.TrapEntersHandler := by
  intro s code canon ready free stays idle present below handler open_
  let i : TrapInfo := { cause := 14, eval := BitVec.ofNat 64 code }
  have entered : s.takeTrap s.cur.sid i s.cur.next = s.setStrand s.cur.sid (s.me.enter i s.cur.next) :=
    takeTrap_enters _ free stays present (countTrap_of_software rfl) below handler open_
  have strand (k : Nat) := strand_setStrand s s.cur.sid k (s.me.enter i s.cur.next) canon.rstrands
  refine ⟨{ s.setStrand s.cur.sid (s.me.enter i s.cur.next) with last := .trapped i }, ?run, ?me, rfl, rfl,
    fun k other => (strand k).trans (if_neg other), rfl, rfl⟩
  case run => rw [exec_trap_ready code ready, raise_of_noVec idle, ← entered]; rfl
  case me =>
    refine (strand s.cur.sid).trans ((if_pos rfl).trans ?_)
    have supervisor : Nat.max s.me.priv 1 = 1 := Nat.max_eq_right below
    simp only [Strand.enter, supervisor]
    rfl

end Sys2Proof.Machine
end

section
/-! Laws of what is confined to one strand (R27, R72): an operation that lands or owes results of a strand, or lets it go on, changes that
strand, the agenda and at most some core, and of the strand it keeps what the results do not name. -/
namespace Sys2Proof.Machine

/-- A state without its agenda: what nothing that is only owed changes. -/
def State.unowed (s : State) : State := { s with agenda := [] }

/-- A state without its strands, its cores and its agenda. -/
def State.beyond (s : State) : State := { s with strands := [], cores := [], agenda := [] }

/-- From s to t of the strands only one changes, and of the rest only cores and the agenda. -/
structure Confined (sid : Nat) (s t : State) : Prop where
  beyond : t.beyond = s.beyond
  rising : Rising s.strands → Rising t.strands
  others : Rising s.strands → ∀ k, k ≠ sid → t.strand k = s.strand k

/-- A confined change that keeps a part of the strand. -/
structure KeepsPart {γ : Type} (part : Strand → γ) (sid : Nat) (s t : State) : Prop extends Confined sid s t where
  kept : Rising s.strands → part (t.strand sid) = part (s.strand sid)

theorem Confined.mem {s t : State} {sid : Nat} (h : Confined sid s t) : t.mem = s.mem :=
  show t.beyond.mem = s.beyond.mem by rw [h.beyond]

theorem Confined.spad {s t : State} {sid : Nat} (h : Confined sid s t) : t.spad = s.spad :=
  show t.beyond.spad = s.beyond.spad by rw [h.beyond]

theorem Confined.trans {s t u : State} {sid : Nat} (h : Confined sid s t) (h' : Confined sid t u) : Confined sid s u where
  beyond := h'.beyond.trans h.beyond
  rising r := h'.rising (h.rising r)
  others r k other := (h'.others (h.rising r) k other).trans (h.others r k other)

theorem setStrand_confined (s : State) (sid : Nat) (x : Strand) : Confined sid s (s.setStrand sid x) where
  beyond := rfl
  rising := rising_tput
  others r k other := (strand_setStrand s sid k x r).trans (if_neg other)

theorem strand_setStrand_same {s : State} (rising : Rising s.strands) (sid : Nat) (x : Strand) : (s.setStrand sid x).strand sid = x :=
  (strand_setStrand s sid sid x rising).trans (if_pos rfl)

section
variable {γ : Type} {part : Strand → γ} {sid : Nat}

namespace KeepsPart

theorem of_strands {s t : State} (beyond : t.beyond = s.beyond) (strands : t.strands = s.strands) : KeepsPart part sid s t := by
  have strand (k : Nat) : t.strand k = s.strand k := by rw [State.strand, strands, State.strand]
  exact ⟨⟨beyond, fun r => strands ▸ r, fun _ k _ => strand k⟩, fun _ => congrArg part (strand sid)⟩

theorem of_unowed {s t : State} (h : t.unowed = s.unowed) : KeepsPart part sid s t :=
  of_strands (show t.unowed.beyond = s.unowed.beyond by rw [h]) (show t.unowed.strands = s.unowed.strands by rw [h])

theorem refl (s : State) : KeepsPart part sid s s := of_strands rfl rfl

theorem trans {s t u : State} (h : KeepsPart part sid s t) (h' : KeepsPart part sid t u) : KeepsPart part sid s u where
  toConfined := h.toConfined.trans h'.toConfined
  kept r := (h'.kept (h.rising r)).trans (h.kept r)

theorem foldl {β : Type} {f : State → β → State} (h : ∀ s b, KeepsPart part sid s (f s b)) :
    (l : List β) → (s : State) → KeepsPart part sid s (l.foldl f s)
  | [], s => refl s
  | b :: l, s => (h s b).trans (foldl h l (f s b))

theorem setStrand {s : State} {x : Strand} (same : part x = part (s.strand sid)) : KeepsPart part sid s (s.setStrand sid x) where
  toConfined := setStrand_confined s sid x
  kept r := by rw [strand_setStrand_same r, same]

end KeepsPart

theorem modCore_keepsPart (s : State) (c : Nat) (f : Core → Core) : KeepsPart part sid s (s.modCore c f) := .of_strands rfl rfl

theorem perf_keepsPart (s : State) (k code n : Nat) : KeepsPart part sid s (s.perf k code n) := modCore_keepsPart ..

/-! ## Results that become known -/

variable (s : State) (seq turn due : Nat) (d : Dst)

section
variable (blind : ∀ x l, part { x with pend := l } = part x)
include blind

theorem deliver_keepsPart (v mask : Wide) : KeepsPart part sid s (s.deliver sid seq d v mask due) :=
  (KeepsPart.setStrand (s := s) (blind (s.strand sid) _)).trans (.of_strands rfl rfl)

theorem addPend_keepsPart (p : Pend) : KeepsPart part sid s (s.addPend sid p) :=
  KeepsPart.setStrand (s := s) (blind (s.strand sid) _)

theorem landVec_keepsPart (v mask : Nat) : KeepsPart part sid s (s.landVec sid seq turn d v mask due) := by
  unfold State.landVec
  dsimp only
  split
  · exact deliver_keepsPart s seq due d blind _ _
  · exact (addPend_keepsPart s blind _).trans (.of_strands rfl rfl)

theorem pullPend_keepsPart (base n : Nat) : KeepsPart part sid s (s.pullPend sid seq base n due) :=
  KeepsPart.foldl (fun s _ => deliver_keepsPart s seq due _ blind _ _) _ s

end
end

/-! ## What landing leaves of a strand (R72) -/

/-- How a strand stands: its slot state, what it waits for, and which of its registers are full. No result names any of them. -/
def Strand.standing (x : Strand) : SlotState × Option Wait × BitVec 32 := (x.slot, x.wait, x.fe)

section
variable (x : Strand)

theorem setCsr_standing (n : Nat) (v : Word) : (x.setCsr n v).standing = x.standing := by
  unfold Strand.setCsr
  iterate 7 (split; · rfl)
  rfl

theorem put_standing (d : Dst) (v : Wide) : (x.put d v).standing = x.standing := by
  cases d with
  | g | p | m =>
    simp only [Strand.put]
    split <;> rfl
  | csr n =>
    simp only [Strand.put]
    iterate 3 (split; · rfl)
    exact setCsr_standing ..
  | tk | v | be | q | st | vl | fp => rfl

theorem landOne_standing (p : Pend) : (x.landOne p).standing = x.standing := by
  unfold Strand.landOne
  split
  · rfl
  · split
    · rfl
    · split
      · exact setCsr_standing ..
      · exact put_standing ..

theorem landAll_standing (now : Nat) (free : Bool) : (x.landAll now free).standing = x.standing := by
  refine List.foldlRecOn (motive := fun y : Strand => y.standing = x.standing) _ _ rfl fun y same p _ => ?_
  dsimp only
  rw [landOne_standing]
  split <;> exact same

end

section
variable (s : State) (sid seq due since : Nat)

theorem resolve_keepsStanding (d : Dst) (v : Word) : KeepsPart Strand.standing sid s (s.resolve sid seq d v due) :=
  (deliver_keepsPart s seq due d (fun _ _ => rfl) _ _).trans (KeepsPart.setStrand (landAll_standing _ _ _))

variable (d : GReg) (v : Word)

/-- A strand that goes on: it is runnable, and the rest of how it stands is kept. -/
theorem unpark_keepsStanding :
    KeepsPart Strand.standing sid (s.setStrand sid { s.strand sid with slot := .runnable }) (s.unpark sid d v seq since) := by
  unfold State.unpark
  split
  · exact .refl _
  · exact resolve_keepsStanding ..

theorem unpark_confined : Confined sid s (s.unpark sid d v seq since) :=
  (setStrand_confined s sid _).trans (unpark_keepsStanding s sid seq since d v).toConfined

theorem unpark_cores : (s.unpark sid d v seq since).cores = s.cores := by
  unfold State.unpark
  split <;> rfl

/-- How the strand stands once it goes on. -/
theorem unpark_standing (rising : Rising s.strands) :
    ((s.unpark sid d v seq since).strand sid).standing = (.runnable, (s.strand sid).wait, (s.strand sid).fe) := by
  rw [(unpark_keepsStanding s sid seq since d v).kept (rising_tput rising), strand_setStrand_same rising]
  rfl

end

/-! ## Held arrivals look again (R245) -/

theorem kickHeld_unowed (s : State) (c : Nat) : (s.kickHeld c).unowed = s.unowed := by
  refine foldl_keeps State.unowed (fun s e => ?_) _ s
  split
  · split <;> rfl
  · rfl

theorem spadWrite_unowed (s : State) (c off : Nat) (bs : List Byte) :
    (s.spadWrite c off bs).unowed = State.unowed { s with spad := spadPuts s.spad c off bs } := by
  unfold State.spadWrite State.watchGo
  split <;> rfl

end Sys2Proof.Machine
end

section
/-! Proofs of the statement on waking strands (O44): what each wake comes to, clause by clause. -/
namespace Sys2Proof.Machine
open Sys2Proof.Claims

/-- The strand has gone on, and no other strand and no byte of memory has changed. -/
def GoesOn (sid : Nat) (s t : State) : Prop :=
  (t.strand sid).slot = .runnable ∧ (∀ k, k ≠ sid → t.strand k = s.strand k) ∧ t.mem = s.mem

theorem unpark_goesOn {s t : State} {sid : Nat} (rising : Rising t.strands) (others : ∀ k, k ≠ sid → t.strand k = s.strand k)
    (mem : t.mem = s.mem) (d : GReg) (v : Word) (seq since : Nat) : GoesOn sid s (t.unpark sid d v seq since) := by
  have confined := unpark_confined t sid seq since d v
  refine ⟨congrArg Prod.fst (unpark_standing t sid seq since d v rising), fun k other => ?_, confined.mem.trans mem⟩
  exact (confined.others rising k other).trans (others k other)

/-- The same of a strand whose own confined change comes before. -/
theorem Confined.unpark_goesOn {s t : State} {sid : Nat} (h : Confined sid s t) (rising : Rising s.strands) (d : GReg) (v : Word)
    (seq since : Nat) : GoesOn sid s (t.unpark sid d v seq since) :=
  Machine.unpark_goesOn (h.rising rising) (h.others rising) h.mem d v seq since

theorem GoesOn.of_unowed {s t u : State} {sid : Nat} (goesOn : GoesOn sid s u) (unowed : t.unowed = u.unowed) : GoesOn sid s t := by
  have read : GoesOn sid s u.unowed := goesOn
  rw [← unowed] at read
  exact read

/-! ## The wakes by name -/

section
variable (s : State) (sid : Nat)

theorem exec_atWake : exec (.atWake sid) s = execAtWake sid s := rfl
theorem exec_cwaitWake : exec (.cwaitWake sid) s = execCwaitWake sid s := rfl
theorem exec_erecvWake : exec (.erecvWake sid) s = execErecvWake sid s := rfl
theorem exec_vpullWake : exec (.vpullWake sid) s = execVpullWake sid s := rfl
theorem exec_dwaitWake : exec (.dwaitWake sid) s = execDwaitWake sid s := rfl
theorem exec_drayQueueFullExpiry : exec (.drayQueueFullExpiry sid) s = execDrayQueueFullExpiry sid s := rfl

end

section
variable {s : State} {sid : Nat}

/-! ## A target LCY (R292) -/

theorem atWake_eq {n : Nat} (parked : (s.strand sid).slot = .parked (.atLcy n)) : exec (.atWake sid) s =
    .next (if s.lcy sid < n then s else s.setStrand sid { s.strand sid with slot := .runnable }) := by
  simp only [exec_atWake, execAtWake, parked, modStrand_eq]

/-! ## A counter (R342) -/

/-- R342: the comparison on a circle of 2^32. -/
theorem reached_iff (c : Counter) (T : Nat) :
    c.reached T = true ↔ (c.done.toNat + c.canc.toNat + (2 ^ 32 - T % 2 ^ 32)) % 2 ^ 32 < 2 ^ 31 := by
  simp [Counter.reached]

section
variable {v : Nat} {n : CnReg} {T since : Nat} {e : Option Nat} {d : GReg}
  (parked : (s.strand sid).slot = .parked (.cwait v n T e d since))
include parked

theorem cwaitWake_of_reached (reached : ((s.vd v).counter n).reached T = true) : exec (.cwaitWake sid) s =
    .next (s.unpark sid d ((s.vd v).counter n).word (s.parkSeq sid) since) := by
  simp only [exec_cwaitWake, execCwaitWake, parked, reached, if_true]

theorem cwaitWake_of_expired (short : ((s.vd v).counter n).reached T = false) {y : Nat} (limit : e = some y) (come : y ≤ s.lcy sid) :
    ∃ t, exec (.cwaitWake sid) s = .next t ∧
      t.unowed = (s.unpark sid d (expiredWord ((s.vd v).counter n).word) (s.parkSeq sid) since).unowed := by
  simp only [exec_cwaitWake, execCwaitWake, parked, short, limit, come, Bool.false_eq_true, if_false, if_true]
  refine ⟨_, rfl, ?_⟩
  split <;> rfl

theorem cwaitWake_of_waiting (short : ((s.vd v).counter n).reached T = false) (early : ∀ y, e = some y → s.lcy sid < y) :
    exec (.cwaitWake sid) s = .next s := by
  cases e with
  | none => simp only [exec_cwaitWake, execCwaitWake, parked, short, Bool.false_eq_true, if_false]
  | some y =>
    have notYet : ¬ y ≤ s.lcy sid := Nat.not_le.2 (early y rfl)
    simp only [exec_cwaitWake, execCwaitWake, parked, short, notYet, Bool.false_eq_true, if_false]

end

/-! ## An elastic queue (R263) -/

/-- A queue that has been set reads as it was set. -/
theorem queue_setQueue (k : Core) {q : Nat} (inRange : q < 4) (l : List ElasticEntry) : (k.setQueue q l).queue q = l := by
  simp [Core.queue, Core.setQueue, inRange]

/-- The state once an entry with a payload has left a queue for the scratchpad. -/
def State.dequeued (s : State) (sid q off : Nat) (l : List ElasticEntry) (payload : List Byte) : State :=
  ((s.modCore (coreOf sid) fun k => k.setQueue q l).spadWrite (coreOf sid) off payload).kickHeld (coreOf sid)

theorem dequeued_unowed (s : State) (sid q off : Nat) (l : List ElasticEntry) (payload : List Byte) :
    (s.dequeued sid q off l payload).unowed =
    State.unowed { s.setCore (coreOf sid) ((s.core (coreOf sid)).setQueue q l) with spad := spadPuts s.spad (coreOf sid) off payload } :=
  (kickHeld_unowed ..).trans (spadWrite_unowed ..)

section
variable {q e off since : Nat} {d : GReg} (parked : (s.strand sid).slot = .parked (.erecv q e off d since))
include parked

theorem erecvWake_of_entry {m : ElasticEntry} {l : List ElasticEntry} (queue : (s.core (coreOf sid)).queue q = m :: l) :
    ∃ seq, exec (.erecvWake sid) s = .next ((s.dequeued sid q off l m.payload).unpark sid d m.result seq since) := by
  have taken : s.takeElastic sid q off = some (m.result, s.dequeued sid q off l m.payload) := by
    simp only [State.takeElastic, queue, State.dequeued]
  simp only [exec_erecvWake, execErecvWake, parked, taken]
  exact ⟨_, rfl⟩

theorem erecvWake_of_empty (queue : (s.core (coreOf sid)).queue q = []) : exec (.erecvWake sid) s =
    .next (if e ≤ s.lcy sid then s.unpark sid d (BitVec.ofNat 64 (2 ^ 63)) (s.parkSeq sid) since else s) := by
  have nothing : s.takeElastic sid q off = none := by simp only [State.takeElastic, queue]
  simp only [exec_erecvWake, execErecvWake, parked, nothing]

theorem erecvWake_takes (canon : Canonical s) (inRange : q < 4) {m : ElasticEntry} {l : List ElasticEntry}
    (queue : (s.core (coreOf sid)).queue q = m :: l) : Runs (.erecvWake sid) s fun t =>
      GoesOn sid s t ∧ (t.core (coreOf sid)).queue q = l ∧ t.spad = spadPuts s.spad (coreOf sid) off m.payload := by
  obtain ⟨seq, run⟩ := erecvWake_of_entry parked queue
  let u := s.dequeued sid q off l m.payload
  have unowed : u.unowed = _ := dequeued_unowed s sid q off l m.payload
  have strands : u.strands = s.strands := show u.unowed.strands = _ by rw [unowed]; rfl
  have mem : u.mem = s.mem := show u.unowed.mem = _ by rw [unowed]; rfl
  have spad : u.spad = spadPuts s.spad (coreOf sid) off m.payload := show u.unowed.spad = _ by rw [unowed]; rfl
  have cores : u.cores = (s.setCore (coreOf sid) ((s.core (coreOf sid)).setQueue q l)).cores :=
    show u.unowed.cores = _ by rw [unowed]; rfl
  have strand (k : Nat) : u.strand k = s.strand k := by rw [State.strand, strands, State.strand]
  refine ⟨_, run, unpark_goesOn (strands ▸ canon.rstrands) (fun k _ => strand k) mem .., ?queue, (unpark_confined ..).spad.trans spad⟩
  have core : (u.unpark sid d m.result seq since).core (coreOf sid) = (s.core (coreOf sid)).setQueue q l := by
    rw [State.core, unpark_cores, cores]
    exact (core_setCore s (coreOf sid) (coreOf sid) _ canon.rcores).trans (if_pos rfl)
  exact core ▸ queue_setQueue _ inRange l

end

/-! ## A group of registers (R268) -/

theorem full_iff (x : Strand) (b n : Nat) : x.full b n = true ↔ ∀ i, i < n → x.fe.getLsbD (b + i) = true := by
  simp [Strand.full]

/-- The bits of a group, and no others, are taken away. -/
theorem getLsbD_clearGroup (fe : BitVec 32) (b n : Nat) {i : Nat} (h : i < 32) :
    (fe &&& ~~~BitVec.ofNat 32 ((2 ^ n - 1) * 2 ^ b)).getLsbD i = (fe.getLsbD i && !(decide (b ≤ i) && decide (i < b + n))) := by
  rw [BitVec.getLsbD_and, BitVec.getLsbD_not, BitVec.getLsbD_ofNat, Nat.testBit_mul_two_pow, Nat.testBit_two_pow_sub_one]
  grind

theorem pull_confined (s : State) (sid b n : Nat) : Confined sid s (s.pull sid b n) :=
  (setStrand_confined s sid _).trans (KeepsPart.of_unowed (part := id) (kickHeld_unowed ..)).toConfined

theorem pull_fe (rising : Rising s.strands) (b n : Nat) :
    ((s.pull sid b n).strand sid).fe = (s.strand sid).fe &&& ~~~BitVec.ofNat 32 ((2 ^ n - 1) * 2 ^ b) := by
  let x : Strand := { s.strand sid with fe := (s.strand sid).fe &&& ~~~BitVec.ofNat 32 ((2 ^ n - 1) * 2 ^ b) }
  have kept : KeepsPart Strand.fe sid (s.setStrand sid x) (s.pull sid b n) := .of_unowed (kickHeld_unowed ..)
  rw [kept.kept (rising_tput rising), strand_setStrand_same rising]

section
variable {b n e since : Nat} {d : GReg} (parked : (s.strand sid).slot = .parked (.vpull b n e d since))
include parked

theorem vpullWake_of_full (full : (s.strand sid).full b n = true) : ∃ seq due, exec (.vpullWake sid) s =
    .next (((s.pull sid b n).pullPend sid seq b n due).unpark sid d 0 seq since) := by
  simp only [exec_vpullWake, execVpullWake, parked, full, if_true]
  exact ⟨_, _, rfl⟩

theorem vpullWake_of_expired (short : (s.strand sid).full b n = false) (come : e ≤ s.lcy sid) : ∃ seq due,
    exec (.vpullWake sid) s = .next ((s.pullPend sid seq b n due).unpark sid d 1 seq since) := by
  simp only [exec_vpullWake, execVpullWake, parked, short, come, Bool.false_eq_true, if_false, if_true]
  exact ⟨_, _, rfl⟩

theorem vpullWake_of_waiting (short : (s.strand sid).full b n = false) (early : s.lcy sid < e) : exec (.vpullWake sid) s = .next s := by
  have notYet : ¬ e ≤ s.lcy sid := Nat.not_le.2 early
  simp only [exec_vpullWake, execVpullWake, parked, short, notYet, Bool.false_eq_true, if_false]

theorem vpullWake_pulls (rising : Rising s.strands) (full : (s.strand sid).full b n = true) : Runs (.vpullWake sid) s fun t =>
    GoesOn sid s t ∧ (t.strand sid).fe = (s.strand sid).fe &&& ~~~BitVec.ofNat 32 ((2 ^ n - 1) * 2 ^ b) := by
  obtain ⟨seq, due, run⟩ := vpullWake_of_full parked full
  have pulled := pull_confined s sid b n
  have pend : KeepsPart Strand.standing sid _ _ := pullPend_keepsPart (s.pull sid b n) seq due (fun _ _ => rfl) b n
  have confined := pulled.trans pend.toConfined
  refine ⟨_, run, confined.unpark_goesOn rising .., ?fe⟩
  have standing := unpark_standing _ sid seq since d 0 (confined.rising rising)
  have kept := pend.kept (pulled.rising rising)
  calc _ = _ := congrArg (·.2.2) standing
    _ = ((s.pull sid b n).strand sid).fe := congrArg (·.2.2) kept
    _ = _ := pull_fe rising b n

end

/-! ## A Dray command (R275) -/

/-- The strand's wait is over. -/
def State.unwait (s : State) (sid : Nat) : State := s.setStrand sid { s.strand sid with wait := none }

section
variable {id e seq turn : Nat} {d : GReg} (waits : (s.strand sid).wait = some (.dwait id e d seq turn))
include waits

theorem dwaitWake_eq : ∃ due, exec (.dwaitWake sid) s =
    .next (let st := s.drayStatus (s.strandVd sid) (BitVec.ofNat 64 id)
      if drayOver st ∨ e ≤ s.lcy sid then (if d = 0 then s.unwait sid else (s.unwait sid).resolve sid seq (.g d) st due) else s) := by
  simp only [exec_dwaitWake, execDwaitWake, waits]
  exact ⟨_, rfl⟩

theorem dwaitWake_ends (rising : Rising s.strands)
    (ended : drayOver (s.drayStatus (s.strandVd sid) (BitVec.ofNat 64 id)) = true ∨ e ≤ s.lcy sid) :
    Runs (.dwaitWake sid) s fun t => (t.strand sid).wait = none ∧ ∀ k, k ≠ sid → t.strand k = s.strand k := by
  obtain ⟨due, run⟩ := dwaitWake_eq waits
  simp only [ended, if_true] at run
  have kept : KeepsPart Strand.standing sid (s.unwait sid) (if d = 0 then s.unwait sid else (s.unwait sid).resolve sid seq (.g d)
      (s.drayStatus (s.strandVd sid) (BitVec.ofNat 64 id)) due) := by
    split
    · exact .refl _
    · exact resolve_keepsStanding ..
  have unwait := setStrand_confined s sid { s.strand sid with wait := none }
  refine ⟨_, run, ?_, (unwait.trans kept.toConfined).others rising⟩
  have wait := congrArg (·.2.1) (kept.kept (unwait.rising rising))
  exact wait.trans (congrArg Strand.wait (strand_setStrand_same rising sid _))

theorem dwaitWake_of_waiting (going : drayOver (s.drayStatus (s.strandVd sid) (BitVec.ofNat 64 id)) = false) (early : s.lcy sid < e) :
    exec (.dwaitWake sid) s = .next s := by
  obtain ⟨due, run⟩ := dwaitWake_eq waits
  have notYet : ¬ e ≤ s.lcy sid := Nat.not_le.2 early
  simpa only [going, notYet, Bool.false_eq_true, or_self, if_false] using run

end

theorem drayQueueFullExpiry_eq {n : Nat} (since : (s.strand sid).dqSince = some (n + 1)) : exec (.drayQueueFullExpiry sid) s =
    .next (if n + 65536 ≤ s.pkg.ency then s.setStrand sid { s.strand sid with dqSince := some 0 } else s) := by
  simp only [exec_drayQueueFullExpiry, execDrayQueueFullExpiry, since, modStrand_eq]

end

/-! ## The clauses together -/

section
variable {s : State} {sid : Nat} (canon : Canonical s)
include canon

theorem cwaitWake_clause {v : Nat} {n : CnReg} {T since : Nat} {e : Option Nat} {d : GReg}
    (parked : (s.strand sid).slot = .parked (.cwait v n T e d since)) :
    (((s.vd v).counter n).reached T = true ∨ (∃ y, e = some y ∧ y ≤ s.lcy sid) → Runs (.cwaitWake sid) s (GoesOn sid s)) ∧
    (((s.vd v).counter n).reached T = false → (∀ y, e = some y → s.lcy sid < y) → exec (.cwaitWake sid) s = .next s) := by
  refine ⟨fun ended => ?_, cwaitWake_of_waiting parked⟩
  have rising := canon.rstrands
  cases reached : ((s.vd v).counter n).reached T with
  | true => exact ⟨_, cwaitWake_of_reached parked reached, unpark_goesOn rising (fun _ _ => rfl) rfl ..⟩
  | false =>
    obtain ⟨y, limit, come⟩ := ended.resolve_left (by simp [reached])
    obtain ⟨t, run, unowed⟩ := cwaitWake_of_expired parked reached limit come
    exact ⟨t, run, (unpark_goesOn rising (fun _ _ => rfl) rfl ..).of_unowed unowed⟩

end

theorem wakeEvents : WakeEvents := by
  intro s sid canon x now wakes
  have rising := canon.rstrands
  refine ⟨?target, ?counter, ?queue, ?group, ?command, fun n since => drayQueueFullExpiry_eq since⟩
  case target =>
    intro n parked
    rw [atWake_eq parked]
    by_cases come : n ≤ now
    · rw [if_pos come, if_neg (Nat.not_lt.2 come)]
    · rw [if_neg come, if_pos (Nat.not_le.1 come)]
  case counter =>
    intro v n T e d since parked c isOver
    obtain ⟨goes, stays⟩ := cwaitWake_clause canon parked
    have reached : c.reached T = true ↔ isOver := reached_iff c T
    refine ⟨fun ended => goes (ended.imp_left reached.2), fun short => stays ?_⟩
    exact Bool.eq_false_iff.2 (mt reached.1 short)
  case queue =>
    intro q e off d since parked inRange k
    refine ⟨fun m l queue => ?entry, fun queue come => ?expired, fun queue early => ?waiting⟩
    case entry =>
      obtain ⟨t, run, goesOn, left, spad⟩ := erecvWake_takes parked canon inRange queue
      exact ⟨⟨t, run, goesOn⟩, ⟨t, run, left, spad⟩⟩
    case expired =>
      exact ⟨_, (erecvWake_of_empty parked queue).trans (by rw [if_pos come]), unpark_goesOn rising (fun _ _ => rfl) rfl ..⟩
    case waiting => rw [erecvWake_of_empty parked queue, if_neg (Nat.not_le.2 early)]
  case group =>
    intro b n e d since parked full
    have isFull : x.full b n = true ↔ full := full_iff x b n
    have short (h : ¬ full) : x.full b n = false := Bool.eq_false_iff.2 (mt isFull.1 h)
    refine ⟨fun ended => ?goes, fun h early => vpullWake_of_waiting parked (short h) early, fun h => ?pulled⟩
    case goes =>
      by_cases h : full
      · obtain ⟨t, run, goesOn, -⟩ := vpullWake_pulls parked rising (isFull.2 h)
        exact ⟨t, run, goesOn⟩
      · obtain ⟨seq, due, run⟩ := vpullWake_of_expired parked (short h) (ended.resolve_left h)
        have pend : KeepsPart Strand.standing sid _ _ := pullPend_keepsPart s seq due (fun _ _ => rfl) b n
        exact ⟨_, run, pend.toConfined.unpark_goesOn rising ..⟩
    case pulled =>
      obtain ⟨t, run, -, fe⟩ := vpullWake_pulls parked rising (isFull.2 h)
      exact ⟨t, run, fun i inRange => fe ▸ getLsbD_clearGroup _ b n inRange⟩
  case command =>
    intro id e d seq turn waits isOver
    have ended : drayOver (s.drayStatus (s.strandVd sid) (BitVec.ofNat 64 id)) = true ↔ isOver := decide_eq_true_iff
    refine ⟨fun h => dwaitWake_ends waits rising (h.imp_left ended.2), fun going early => ?_⟩
    exact dwaitWake_of_waiting waits (Bool.eq_false_iff.2 (mt ended.1 going)) early

end Sys2Proof.Machine
end

section
/-! Proofs of the statement on lane starts (O44): a word that computes in the lanes is held, or is taken into the lanes and owes its
results, which names neither the queue nor what else has started. -/
namespace Sys2Proof.Machine
open Sys2Proof.Claims

/-- The vector work of a strand: its queue, and the sequence numbers of the words that have started. -/
def Strand.laneWork (x : Strand) : List VItem × List Nat := (x.vq, x.started.map (·.seq))

section
variable (s : State) (sid : Nat)

/-! ## The operand check (R77) -/

theorem correct_keepsWork (reads : Dst × Nat → Bool) : KeepsPart Strand.laneWork sid s (s.correct sid reads) := by
  unfold State.correct
  dsimp only
  split
  · exact .refl s
  · refine .trans (.setStrand ?_) (modCore_keepsPart ..)
    rfl

theorem correct_k (reads : Dst × Nat → Bool) (rising : Rising s.cores) (c : Nat) : ((s.correct sid reads).core c).k = (s.core c).k := by
  unfold State.correct
  dsimp only
  split
  · rfl
  · refine (congrArg Core.k (core_setCore _ (coreOf sid) c _ rising)).trans ?_
    split
    · next same => rw [same]; rfl
    · rfl

theorem correct_vlmax32 (reads : Dst × Nat → Bool) (rising : Rising s.cores) : (s.correct sid reads).vlmax32 sid = s.vlmax32 sid := by
  rw [State.vlmax32, correct_k s sid reads rising, State.vlmax32]

/-! ## The start itself (R132) -/

variable (l : Lane) (occ seq due : Nat)

theorem laneTake_confined : Confined l.sid s (s.laneTake l occ) := by
  unfold State.laneTake
  exact (setStrand_confined s l.sid _).trans (perf_keepsPart (part := id) ..).toConfined

theorem laneTake_work (rising : Rising s.strands) : ((s.laneTake l occ).strand l.sid).laneWork =
    ((s.strand l.sid).vq, (s.strand l.sid).started.map (·.seq) ++ [l.e.seq]) := by
  refine (congrArg Strand.laneWork (strand_setStrand_same rising l.sid _)).trans ?_
  simp [Strand.laneWork]

theorem setDue_keepsWork : KeepsPart Strand.laneWork sid s (s.setDue sid seq due) := by
  unfold State.setDue
  refine .trans (.foldl (fun s e => ?_) _ s) (.trans (.setStrand ?_) (.of_strands rfl rfl))
  · split
    · exact deliver_keepsPart s _ due _ (fun _ _ => rfl) _ _
    · exact .refl s
  · simp only [Strand.laneWork, List.map_map]
    refine congrArg _ (List.map_congr_left fun e _ => ?_)
    dsimp only [Function.comp]
    split <;> rfl

/-- A word that computes in the lanes is taken, and its results are owed. -/
theorem laneArith_afterTake (o : LaneOut) :
    KeepsPart Strand.laneWork l.sid (s.laneTake l (s.occOf l.sid o.width o.vl)) (s.laneArith l o) := by
  have lands (s : State) (d : Dst) (v mask due : Nat) :=
    landVec_keepsPart (part := Strand.laneWork) (sid := l.sid) s l.e.seq l.e.turn due d (fun _ _ => rfl) v mask
  unfold State.laneArith
  extract_lets occ due taken landed flagged
  have outs : KeepsPart Strand.laneWork l.sid taken landed := .foldl (fun s r => lands s r.1 r.2.1 r.2.2 due) o.outs taken
  have flags : KeepsPart Strand.laneWork l.sid landed flagged := by
    unfold flagged
    split
    · exact .refl landed
    · exact lands ..
  exact (outs.trans flags).trans (setDue_keepsWork ..)

theorem laneArith_confined (o : LaneOut) : Confined l.sid s (s.laneArith l o) :=
  (laneTake_confined ..).trans (laneArith_afterTake ..).toConfined

theorem laneArith_work (rising : Rising s.strands) (o : LaneOut) : ((s.laneArith l o).strand l.sid).laneWork =
    ((s.strand l.sid).vq, (s.strand l.sid).started.map (·.seq) ++ [l.e.seq]) :=
  ((laneArith_afterTake s l o).kept ((laneTake_confined ..).rising rising)).trans (laneTake_work s l _ rising)

/-! ## The queue behind it -/

theorem popItem_confined : Confined sid s (s.popItem sid) := setStrand_confined s sid _

theorem popItem_work (rising : Rising s.strands) : ((s.popItem sid).strand sid).laneWork =
    ((s.strand sid).laneWork.1.drop 1, (s.strand sid).laneWork.2) :=
  congrArg Strand.laneWork (strand_setStrand_same rising sid _)

theorem oweLane_keepsWork : KeepsPart Strand.laneWork sid s (s.oweLane sid) := by
  unfold State.oweLane
  dsimp only
  split
  · exact .of_strands rfl rfl
  · exact .refl s

end

/-! ## The head of the queue at its turn -/

/-- The lane of a word in its own chapter. -/
def laneOf (sid : Nat) (e : VEntry) : Lane := ⟨sid, e, [e.seq], e.op.returns, none⟩

section
variable {s : State} {sid : Nat} {e : VEntry}

theorem beginWord_of_held (held : s.laneReady (laneOf sid e) = false) : s.beginWord (laneOf sid e) = .wait := by
  simp [State.beginWord, held]

theorem beginWord_of_ready (rising : Rising s.cores) {o : LaneOut} (ready : s.laneReady (laneOf sid e) = true)
    (sound : e.op.poisonAt (s.strand sid) (s.vlmax32 sid) e.vl = none)
    (checked : e.op.residueAt (s.strand sid) (s.vlmax32 sid) e.vl = none)
    (computes : e.op.arith (s.strand sid) (s.vlmax32 sid) e.vl = some o) : s.beginWord (laneOf sid e) =
    .done ((s.correct sid (e.op.uses (s.strand sid) (s.vlmax32 sid) e.vl)).laneArith (laneOf sid e) o) none := by
  simp only [laneOf] at ready
  simp [State.beginWord, ready, laneOf, sound, checked, correct_vlmax32 s sid _ rising, computes]

variable (queue : (s.strand sid).vq = [.one e]) (turn : Nat.max (e.turn + 16) (s.strand sid).laneNext ≤ s.lcy sid)
include queue turn

theorem laneStart_of_wait (held : s.beginWord (laneOf sid e) = .wait) : exec (.laneStart sid) s =
    .next (s.owe (some (s.clockOf sid)) (s.lcy sid + 16) prioLane (.laneStart sid)) := by
  have come : ¬ s.lcy sid < (s.strand sid).startAt (VItem.one e).turn := Nat.not_lt.2 turn
  show Host.Outcome.next (s.laneStart sid) = _
  simp only [laneOf] at held
  simp only [State.laneStart, queue, come, if_false, held]

theorem laneStart_of_done {t : State} {trim : Option Nat} (begun : s.beginWord (laneOf sid e) = .done t trim) :
    exec (.laneStart sid) s = .next ((t.popItem sid).oweLane sid) := by
  have come : ¬ s.lcy sid < (s.strand sid).startAt (VItem.one e).turn := Nat.not_lt.2 turn
  show Host.Outcome.next (s.laneStart sid) = _
  simp only [laneOf] at begun
  simp only [State.laneStart, queue, come, if_false, begun]

omit turn in
/-- What a started word leaves: its queue is empty, and it is among the words that have started. -/
theorem afterStart (rising : Rising s.strands) (reads : Dst × Nat → Bool) (o : LaneOut) :
    let t := ((s.correct sid reads).laneArith (laneOf sid e) o).popItem sid
    Confined sid s (t.oweLane sid) ∧ ((t.oweLane sid).strand sid).vq = [] ∧
      ∃ b ∈ ((t.oweLane sid).strand sid).started, b.seq = e.seq := by
  let c := s.correct sid reads
  let u := c.laneArith (laneOf sid e) o
  have corrected : KeepsPart Strand.laneWork sid s c := correct_keepsWork s sid reads
  have computed : Confined sid s u := corrected.toConfined.trans (laneArith_confined c (laneOf sid e) o)
  have popped : Confined sid s (u.popItem sid) := computed.trans (popItem_confined u sid)
  have owed := oweLane_keepsWork (u.popItem sid) sid
  have before : (c.strand sid).laneWork = ([.one e], (s.strand sid).started.map (·.seq)) :=
    (corrected.kept rising).trans (by rw [Strand.laneWork, queue])
  have vq : (c.strand sid).vq = [.one e] := congrArg Prod.fst before
  have started : (c.strand sid).started.map (·.seq) = (s.strand sid).started.map (·.seq) := congrArg Prod.snd before
  have after : (u.strand sid).laneWork = ((c.strand sid).vq, (c.strand sid).started.map (·.seq) ++ [e.seq]) :=
    laneArith_work c (laneOf sid e) (corrected.rising rising) o
  have work : (((u.popItem sid).oweLane sid).strand sid).laneWork = ([], (s.strand sid).started.map (·.seq) ++ [e.seq]) := calc
    _ = _ := owed.kept (popped.rising rising)
    _ = ((u.strand sid).laneWork.1.drop 1, (u.strand sid).laneWork.2) := popItem_work u sid (computed.rising rising)
    _ = _ := by rw [after, vq, started, List.drop_one, List.tail_cons]
  have mem : e.seq ∈ (((u.popItem sid).oweLane sid).strand sid).laneWork.2 := by simp [work]
  exact ⟨popped.trans owed.toConfined, congrArg Prod.fst work, List.mem_map.1 mem⟩

end

theorem laneStarts : LaneStarts := by
  intro s sid e canon queue turn l vmax
  refine ⟨fun held => laneStart_of_wait queue turn (beginWord_of_held held), fun o ready sound checked computes => ?_⟩
  have run := laneStart_of_done queue turn (beginWord_of_ready canon.rcores ready sound checked computes)
  obtain ⟨confined, emptied, started⟩ := afterStart queue canon.rstrands (e.op.uses (s.strand sid) vmax e.vl) o
  exact ⟨_, run, emptied, started, confined.mem, confined.spad, confined.others canon.rstrands⟩

/-- Settles O44: the wakes of waiting strands and the lane starts. -/
theorem wakesAndStarts : Obligations.WakesAndStarts := ⟨wakeEvents, laneStarts⟩

end Sys2Proof.Machine
end

section
/-! Laws of the integer operations on w bits (R113, R117, R141): the low w bits of each result are the operation of bit vectors on the low
w bits of its operands. -/
namespace Sys2Proof.Machine

section
variable {w : Nat}

/-! ## Readings of w bits -/

theorem ofNat_mod_two_pow (w n : Nat) : BitVec.ofNat w (n % 2 ^ w) = BitVec.ofNat w n :=
  BitVec.eq_of_toNat_eq (Nat.mod_mod n (2 ^ w))

theorem signed_eq_toInt (w n : Nat) : signed w n = (BitVec.ofNat w n).toInt := by
  simp only [signed, BitVec.toInt_eq_toNat_cond, BitVec.toNat_ofNat]
  cases w with
  | zero => simp only [Nat.pow_zero, Nat.mod_one, Nat.mul_zero, Nat.zero_sub]
  | succ k => simp only [Nat.add_sub_cancel, Nat.pow_succ, Nat.mul_comm _ 2, Nat.mul_lt_mul_left Nat.two_pos]

theorem ofNat_wrap (w : Nat) (r : Int) : BitVec.ofNat w (wrap w r) = BitVec.ofInt w r := by
  rw [wrap, ← BitVec.toNat_ofInt, BitVec.ofNat_toNat, BitVec.setWidth_eq]

section
variable (x : Word)

theorem lowU_eq_toNat : lowU w x = (x.setWidth w).toNat := (BitVec.toNat_setWidth ..).symm

theorem lowS_eq_toInt : lowS w x = (x.setWidth w).toInt := by rw [lowS, signed_eq_toInt, BitVec.ofNat_toNat]

theorem ofNat_lowU : BitVec.ofNat w (lowU w x) = x.setWidth w := by rw [lowU_eq_toNat, BitVec.ofNat_toNat, BitVec.setWidth_eq]

theorem ofInt_lowS : BitVec.ofInt w (lowS w x) = x.setWidth w := by rw [lowS_eq_toInt, BitVec.ofInt_toInt]

end

/-! ## Fields of an integer -/

/-- Above place s, an integer modulo 2^(s + m) is the integer's quotient modulo 2^m. -/
theorem emod_two_pow_ediv (z : Int) (s m : Nat) : z % 2 ^ (s + m) / 2 ^ s = z / 2 ^ s - 2 ^ m * (z / 2 ^ (s + m)) := by
  have pos : (2 : Int) ^ s ≠ 0 := Int.ne_of_gt (Int.pow_pos (by decide))
  have shift : z - 2 ^ (s + m) * (z / 2 ^ (s + m)) = z + 2 ^ s * -(2 ^ m * (z / 2 ^ (s + m))) := by
    rw [Int.pow_add, Int.mul_assoc, Int.mul_neg, Int.sub_eq_add_neg]
  rw [Int.emod_def, shift, Int.add_mul_ediv_left _ _ pos, Int.sub_eq_add_neg]

theorem extractLsb'_ofInt {n s : Nat} (le : s + w ≤ n) (z : Int) :
    (BitVec.ofInt n z).extractLsb' s w = BitVec.ofInt w (z / 2 ^ s) := by
  obtain ⟨k, rfl⟩ := Nat.exists_eq_add_of_le le
  have field : z % 2 ^ (s + (w + k)) / 2 ^ s % 2 ^ w = z / 2 ^ s % 2 ^ w := by
    rw [emod_two_pow_ediv, Int.pow_add 2 w k, Int.mul_assoc, Int.sub_eq_add_neg, ← Int.mul_neg, Int.add_mul_emod_self_left]
  have nonneg (a : Int) (m : Nat) : 0 ≤ a % 2 ^ m := Int.emod_nonneg a (Int.ne_of_gt (Int.pow_pos (by decide)))
  apply BitVec.eq_of_toNat_eq
  apply Int.ofNat_inj.1
  rw [BitVec.extractLsb'_toNat, BitVec.toNat_ofInt, BitVec.toNat_ofInt, Nat.shiftRight_eq_div_pow, Nat.add_assoc]
  push_cast
  rw [Int.toNat_of_nonneg (nonneg _ _), Int.toNat_of_nonneg (nonneg _ _), field]

theorem setWidth_ofInt {n : Nat} (le : w ≤ n) (z : Int) : (BitVec.ofInt n z).setWidth w = BitVec.ofInt w z := by
  rw [BitVec.setWidth_eq_extractLsb' le, extractLsb'_ofInt (by omega), Int.pow_zero, Int.ediv_one]

/-- A shift by more than the places of a number leaves what a shift by all of them leaves: its sign. -/
theorem ediv_two_pow_min {z : Int} {k : Nat} (low : -2 ^ k ≤ z) (high : z < 2 ^ k) (s : Nat) : z / 2 ^ min s k = z >>> s := by
  rw [Int.shiftRight_eq_div_pow]
  push_cast
  obtain le | le := Nat.le_total s k
  · rw [Nat.min_eq_left le]
  · have pow : (2 : Int) ^ k ≤ 2 ^ s := mod_cast Nat.pow_le_pow_right Nat.two_pos le
    rw [Nat.min_eq_right le]
    obtain neg | nonneg := Int.lt_or_le z 0
    · rw [Int.ediv_eq_neg_one_of_neg_of_le neg (by omega), Int.ediv_eq_neg_one_of_neg_of_le neg (by omega)]
    · rw [Int.ediv_eq_zero_of_lt nonneg high, Int.ediv_eq_zero_of_lt nonneg (by omega)]

/-! ## The operations of scalar words at width w -/

section
variable (le : w ≤ 64) (x y : Word)
include le

theorem setWidth_extU (r : Nat) : (extU w r).setWidth w = BitVec.ofNat w r := by
  rw [extU, BitVec.setWidth_ofNat_of_le le, ofNat_mod_two_pow]

theorem setWidth_extS (r : Int) : (extS w r).setWidth w = BitVec.ofInt w r := by
  rw [extS, setWidth_ofInt le, signed_eq_toInt, BitVec.ofInt_toInt, ofNat_wrap]

theorem setWidth_extS_natCast (r : Nat) : (extS w r).setWidth w = BitVec.ofNat w r := by
  rw [setWidth_extS le, BitVec.ofInt_natCast]

theorem setWidth_aluAdd : (aluAdd w x y).setWidth w = x.setWidth w + y.setWidth w := by
  rw [aluAdd, setWidth_extS_natCast le, BitVec.ofNat_add, ofNat_lowU, ofNat_lowU]

theorem setWidth_aluSub : (aluSub w x y).setWidth w = x.setWidth w - y.setWidth w := by
  rw [aluSub, setWidth_extS le, Int.sub_eq_add_neg, BitVec.ofInt_add, BitVec.ofInt_neg, BitVec.ofInt_natCast, BitVec.ofInt_natCast,
    ofNat_lowU, ofNat_lowU, BitVec.sub_eq_add_neg]

theorem setWidth_aluMul : (aluMul w x y).setWidth w = x.setWidth w * y.setWidth w := by
  rw [aluMul, setWidth_extS le, BitVec.ofInt_mul, ofInt_lowS, ofInt_lowS]

theorem setWidth_aluMulh : (aluMulh w x y).setWidth w =
    ((x.setWidth w).signExtend (2 * w) * (y.setWidth w).signExtend (2 * w)).extractLsb' w w := by
  have wide (z : Word) : (z.setWidth w).signExtend (2 * w) = BitVec.ofInt (2 * w) (lowS w z) := by
    rw [← BitVec.ofInt_toInt (x := BitVec.signExtend ..), BitVec.toInt_signExtend_of_le (by omega), lowS_eq_toInt]
  rw [wide, wide, ← BitVec.ofInt_mul, extractLsb'_ofInt (by omega), aluMulh, setWidth_extS le]
  norm_cast

theorem setWidth_aluShl : (aluShl w x y).setWidth w = x.setWidth w <<< y.toNat := by
  unfold aluShl
  split
  next =>
    rw [setWidth_extS_natCast le, lowU_eq_toNat, ← Nat.shiftLeft_eq]
    rfl
  next beyond => rw [BitVec.shiftLeft_eq_zero (Nat.le_of_not_lt beyond), BitVec.ofNat_eq_ofNat, BitVec.setWidth_zero]

theorem setWidth_aluShr : (aluShr w x y).setWidth w = x.setWidth w >>> y.toNat := by
  unfold aluShr
  split
  next =>
    rw [setWidth_extU le, lowU_eq_toNat, ← Nat.shiftRight_eq_div_pow, ← BitVec.toNat_ushiftRight, BitVec.ofNat_toNat,
      BitVec.setWidth_eq]
  next beyond => rw [BitVec.ushiftRight_eq_zero (Nat.le_of_not_lt beyond), BitVec.ofNat_eq_ofNat, BitVec.setWidth_zero]

theorem setWidth_aluSar : (aluSar w x y).setWidth w = (x.setWidth w).sshiftRight y.toNat := by
  rw [aluSar, setWidth_extS le, lowS_eq_toInt, BitVec.sshiftRight, ← ediv_two_pow_min (k := w - 1) (BitVec.le_toInt _) BitVec.toInt_lt]
  norm_cast

theorem setWidth_aluMin : (aluMin w x y).setWidth w = if (x.setWidth w).sle (y.setWidth w) then x.setWidth w else y.setWidth w := by
  rw [aluMin, setWidth_extS le, apply_ite (BitVec.ofInt w), ofInt_lowS, ofInt_lowS]
  simp only [lowS_eq_toInt, BitVec.sle_iff_toInt_le]

theorem setWidth_aluMax : (aluMax w x y).setWidth w = if (y.setWidth w).sle (x.setWidth w) then x.setWidth w else y.setWidth w := by
  rw [aluMax, setWidth_extS le, apply_ite (BitVec.ofInt w), ofInt_lowS, ofInt_lowS]
  simp only [lowS_eq_toInt, BitVec.sle_iff_toInt_le, ge_iff_le]

theorem setWidth_aluMinn : (aluMinn w x y).setWidth w = if x.setWidth w ≤ y.setWidth w then x.setWidth w else y.setWidth w := by
  change (extU w (min (lowU w x) (lowU w y))).setWidth w = _
  rw [setWidth_extU le, Nat.min_def, apply_ite (BitVec.ofNat w), ofNat_lowU, ofNat_lowU]
  simp only [lowU_eq_toNat, BitVec.le_def]

theorem setWidth_aluMaxn : (aluMaxn w x y).setWidth w = if y.setWidth w ≤ x.setWidth w then x.setWidth w else y.setWidth w := by
  change (extU w (max (lowU w x) (lowU w y))).setWidth w = _
  rw [setWidth_extU le, Nat.max_comm, Nat.max_def, apply_ite (BitVec.ofNat w), ofNat_lowU, ofNat_lowU]
  simp only [lowU_eq_toNat, BitVec.le_def]

end

/-! ## The operations of VALU -/

/-- An operation of VALU as an operation of bit vectors (R141). -/
def VAluOp.onElems (op : VAluOp) (p q : BitVec w) : BitVec w :=
  match op with
  | .add => p + q
  | .sub => p - q
  | .mul => p * q
  | .mulh => (p.signExtend (2 * w) * q.signExtend (2 * w)).extractLsb' w w
  | .min => if p.sle q then p else q
  | .max => if q.sle p then p else q
  | .minn => if p ≤ q then p else q
  | .maxn => if q ≤ p then p else q
  | .and => p &&& q
  | .or => p ||| q
  | .xor => p ^^^ q
  | .shl => p <<< q.toNat
  | .shr => p >>> q.toNat
  | .sar => p.sshiftRight q.toNat
  | .abs => if p.slt 0 then -p else p
  | .neg => -p

theorem ofNat_onBits (f : Word → Word → Word) (p q : BitVec w) :
    BitVec.ofNat w (onBits w f p.toNat q.toNat) = (f (p.setWidth 64) (q.setWidth 64)).setWidth w := by
  simp only [onBits, ofNat_mod_two_pow, BitVec.ofNat_toNat]

/-- What VALU computes of two elements, operation by operation. -/
theorem ofNat_run (op : VAluOp) (le : w ≤ 64) (p q : BitVec w) : BitVec.ofNat w (op.run w p.toNat q.toNat) = op.onElems p q := by
  have narrow (r : BitVec w) : (r.setWidth 64).setWidth w = r := by rw [BitVec.setWidth_setWidth_of_le _ le, BitVec.setWidth_eq]
  have wide (r : BitVec w) : (r.setWidth 64).toNat = r.toNat := BitVec.toNat_setWidth_of_le le
  have signed (r : BitVec w) : signed w r.toNat = r.toInt := by rw [signed_eq_toInt, BitVec.ofNat_toNat, BitVec.setWidth_eq]
  cases op with
  | abs =>
    simp only [VAluOp.run, ofNat_wrap, signed, VAluOp.onElems, BitVec.slt_iff_toInt_lt, BitVec.ofNat_eq_ofNat, BitVec.toInt_zero]
    split
    next neg => rw [Int.ofNat_natAbs_of_nonpos (Int.le_of_lt neg), BitVec.ofInt_neg, BitVec.ofInt_toInt]
    next nonneg => rw [Int.natAbs_of_nonneg (Int.not_lt.1 nonneg), BitVec.ofInt_toInt]
  | neg => rw [VAluOp.run, ofNat_wrap, signed, BitVec.ofInt_neg, BitVec.ofInt_toInt, VAluOp.onElems]
  | and | or | xor =>
    simp only [VAluOp.run, VAluOp.onElems, BitVec.ofNat_and, BitVec.ofNat_or, BitVec.ofNat_xor, BitVec.ofNat_toNat, BitVec.setWidth_eq]
  | add | sub | mul | mulh | min | max | minn | maxn | shl | shr | sar =>
    simp only [VAluOp.run, VAluOp.onElems, ofNat_onBits, setWidth_aluAdd le, setWidth_aluSub le, setWidth_aluMul le, setWidth_aluMulh le,
      setWidth_aluMin le, setWidth_aluMax le, setWidth_aluMinn le, setWidth_aluMaxn le, setWidth_aluShl le, setWidth_aluShr le,
      setWidth_aluSar le, narrow, wide]

end

end Sys2Proof.Machine
end

section
/-! Laws of elements at their places (R130, R131): what a list of elements put at their places holds and which bits it writes. -/
namespace Sys2Proof.Machine

/-! ## Active elements (R131) -/

theorem mem_activeList {m : BitVec 8192} {n i : Nat} : i ∈ activeList m n ↔ i < n ∧ m.getLsbD i = true := by
  rw [activeList, List.mem_filter, List.mem_range]

theorem activeList_rising (m : BitVec 8192) (n : Nat) : (activeList m n).Pairwise (· < ·) := List.pairwise_lt_range.filter _

/-! ## Elements at their places -/

/-- Induction on a list from its end, where packing puts the last element. -/
theorem append_induction {α : Type} {motive : List α → Prop} (nil : motive []) (concat : ∀ l a, motive l → motive (l ++ [a])) (l : List α) :
    motive l := by
  rw [← List.reverse_reverse l]
  induction l.reverse with
  | nil => exact nil
  | cons a t ih => exact List.reverse_cons ▸ concat t.reverse a ih

section
variable {w : Nat} {l : List (Nat × Nat)}

theorem packAt_concat (w : Nat) (l : List (Nat × Nat)) (e : Nat × Nat) : packAt w (l ++ [e]) =
    ((packAt w l).1 + e.2 % 2 ^ w * 2 ^ (w * e.1), (packAt w l).2 ||| (2 ^ w - 1) * 2 ^ (w * e.1)) := by
  simp only [packAt, List.foldl_append, List.foldl_cons, List.foldl_nil]

theorem packAt_lt (rising : l.Pairwise fun a b => a.1 < b.1) {n : Nat} (below : ∀ e ∈ l, e.1 < n) : (packAt w l).1 < 2 ^ (w * n) := by
  induction l using append_induction generalizing n with
  | nil => exact Nat.two_pow_pos _
  | concat l e ih =>
    obtain ⟨front, -, last⟩ := List.pairwise_append.1 rising
    have low : (packAt w l).1 < 2 ^ (w * e.1) := ih front fun a mem => last a mem e (List.mem_singleton_self e)
    rw [packAt_concat]
    calc (packAt w l).1 + e.2 % 2 ^ w * 2 ^ (w * e.1)
      _ < 2 ^ (w * e.1) + e.2 % 2 ^ w * 2 ^ (w * e.1) := Nat.add_lt_add_right low _
      _ = (e.2 % 2 ^ w + 1) * 2 ^ (w * e.1) := by rw [Nat.succ_mul, Nat.add_comm]
      _ ≤ 2 ^ w * 2 ^ (w * e.1) := Nat.mul_le_mul_right _ (Nat.mod_lt _ (Nat.two_pow_pos w))
      _ = 2 ^ (w * (e.1 + 1)) := by rw [← Nat.pow_add, Nat.mul_add, Nat.mul_one, Nat.add_comm]
      _ ≤ 2 ^ (w * n) := Nat.pow_le_pow_right Nat.two_pos (Nat.mul_le_mul_left w (below e (List.mem_concat_self ..)))

/-- An element above another leaves it as it is. -/
theorem elemAt_add_above {v x i k : Nat} (above : i < k) : elemAt (v + x * 2 ^ (w * k)) w i = elemAt v w i := by
  obtain ⟨t, rfl⟩ := Nat.exists_eq_add_of_lt above
  have split : x * 2 ^ (w * (i + t + 1)) = 2 ^ (w * i) * (2 ^ w * (2 ^ (w * t) * x)) := by
    rw [Nat.mul_add, Nat.mul_add, Nat.mul_one, Nat.pow_add, Nat.pow_add]
    ac_rfl
  rw [elemAt, split, Nat.add_mul_div_left _ _ (Nat.two_pow_pos _), Nat.add_mul_mod_self_left, elemAt]

theorem elemAt_packAt (rising : l.Pairwise fun a b => a.1 < b.1) {a : Nat × Nat} (mem : a ∈ l) :
    elemAt (packAt w l).1 w a.1 = a.2 % 2 ^ w := by
  induction l using append_induction with
  | nil => cases mem
  | concat l e ih =>
    obtain ⟨front, -, last⟩ := List.pairwise_append.1 rising
    have below (b) (mem : b ∈ l) : b.1 < e.1 := last b mem e (List.mem_singleton_self e)
    rw [packAt_concat]
    obtain old | new := List.mem_append.1 mem
    · rw [elemAt_add_above (below a old), ih front old]
    · rw [List.mem_singleton.1 new, elemAt, Nat.add_mul_div_right _ _ (Nat.two_pow_pos _), Nat.div_eq_of_lt (packAt_lt front below),
        Nat.zero_add, Nat.mod_mod]

/-- The written bits are those of the elements' places. -/
theorem testBit_packAt (pos : 0 < w) (l : List (Nat × Nat)) (j : Nat) : (packAt w l).2.testBit j = true ↔ ∃ e ∈ l, e.1 = j / w := by
  induction l using append_induction with
  | nil => simp only [packAt, List.foldl_nil, Nat.zero_testBit, Bool.false_eq_true, List.not_mem_nil, false_and, exists_false]
  | concat l e ih =>
    have place : ((2 ^ w - 1) * 2 ^ (w * e.1)).testBit j = true ↔ e.1 = j / w := by
      rw [Nat.testBit_mul_two_pow, Nat.testBit_two_pow_sub_one, Bool.and_eq_true, decide_eq_true_eq, decide_eq_true_eq, eq_comm,
        Nat.div_eq_iff pos, Nat.mul_comm w]
      omega
    simp only [packAt_concat, Nat.testBit_or, Bool.or_eq_true, ih, place, List.mem_append, List.mem_singleton, or_and_right, exists_or,
      exists_eq_left]

end

end Sys2Proof.Machine
end

section
/-! Proof of the statement on the vector integer words (O34), from the laws of the operations on w bits and of elements at their places. -/
namespace Sys2Proof.Machine

/-! ## An element-wise result -/

section
variable (x : Strand) (d : VecReg) (depth n : Nat) (rs : List VecReg) (f : Nat → Nat × Nat)

/-- R131: what an element-wise word writes of its first register: the places of the active elements, each with its value. -/
theorem mapOut_writes {w : Nat} (pos : 0 < w) (m : BitVec 8192) :
    ∃ v k, (mapOut x d w depth n (activeList m n) rs f).outs.head? = some (.v d, v, k) ∧
      (∀ j, k.testBit j = true ↔ j / w < n ∧ m.getLsbD (j / w) = true) ∧
      ∀ i, i < n → m.getLsbD i = true → BitVec.ofNat w (v / 2 ^ (w * i)) = BitVec.ofNat w (f i).1 := by
  refine ⟨_, _, by rw [mapOut, List.head?_cons, List.map_map], fun j => ?_, fun i below on => ?_⟩
  · rw [testBit_packAt pos, ← mem_activeList]
    refine ⟨fun ⟨e, written, place⟩ => ?_, fun used => ⟨_, List.mem_map_of_mem used, rfl⟩⟩
    obtain ⟨i, used, rfl⟩ := List.mem_map.1 written
    exact place ▸ used
  · have rising : ((activeList m n).map fun i => (i, (f i).1)).Pairwise fun a b => a.1 < b.1 :=
      List.pairwise_map.2 (activeList_rising m n)
    have value := elemAt_packAt (w := w) rising (List.mem_map_of_mem (mem_activeList.2 ⟨below, on⟩))
    rw [← ofNat_mod_two_pow]
    exact (congrArg (BitVec.ofNat w) value).trans (ofNat_mod_two_pow ..)

theorem mapOut_flags (w : Nat) (act : List Nat) (quiet : ∀ i, (f i).2 = 0) : (mapOut x d w depth n act rs f).flags = 0 := by
  simp only [mapOut, List.foldl_map, quiet, Nat.or_zero]
  exact List.foldlRecOn (motive := (· = 0)) _ _ rfl fun _ same _ _ => same

end

theorem elemBits_pos (e : EW) : 0 < e.bits := by cases e <;> decide

theorem elemBits_le (e : EW) : e.bits ≤ 64 := by cases e <;> decide

theorem toNat_extractLsb'_eq_elemAt {n : Nat} (v : BitVec n) (w i : Nat) : (v.extractLsb' (w * i) w).toNat = elemAt v.toNat w i := by
  rw [BitVec.extractLsb'_toNat, Nat.shiftRight_eq_div_pow, elemAt]

/-- Settles O34: the word writes its active elements at their places, and each is what the operation makes of its two sources. -/
theorem vectorIntegers : Obligations.VectorIntegers := by
  intro x vmax vl op d a b m e _ w n el
  obtain ⟨v, k, out, mask, values⟩ := mapOut_writes x d 2 n (if op.binary then [a, b] else [a])
    (fun i => (op.run w (elemAt (x.rv a).toNat w i) (elemAt (x.rv b).toNat w i), 0)) (elemBits_pos e) (x.rm m)
  refine ⟨_, v, k, rfl, out, mapOut_flags _ _ _ _ _ _ _ _ fun _ => rfl, rfl, mask, fun i below on => ?_⟩
  have value : BitVec.ofNat w (v / 2 ^ (w * i)) = op.onElems (el a i) (el b i) := by
    rw [values i below on, ← ofNat_run op (elemBits_le e), toNat_extractLsb'_eq_elemAt, toNat_extractLsb'_eq_elemAt]
  cases op <;> exact value

end Sys2Proof.Machine
end

section
/-! Laws of what only the issuing strand undergoes, and of the entry of a word into the vector queue (R132, R133). -/
namespace Sys2Proof.Machine

/-! ## A change of the issuing strand alone -/

/-- A state without its strands. -/
def State.strandless (s : State) : State := { s with strands := [] }

/-- From s to t nothing changes but the issuing strand, which becomes x. -/
structure Becomes (s t : State) (x : Strand) : Prop where
  rest : t.strandless = s.strandless
  rising : Rising t.strands
  me : t.me = x
  others : ∀ k, k ≠ s.cur.sid → t.strand k = s.strand k

section
variable {s t u : State} {x y : Strand}

theorem modMe_becomes (rising : Rising s.strands) (f : Strand → Strand) : Becomes s (s.modMe f) (f s.me) :=
  ⟨rfl, rising_tput rising, strand_setStrand_same rising s.cur.sid _,
    fun k other => (strand_setStrand s _ k _ rising).trans (if_neg other)⟩

section
variable (h : Becomes s t x)
include h

/-- Whatever is read of the state but its strands stands as it was. -/
theorem Becomes.read {γ : Type} (part : State → γ) : part t.strandless = part s.strandless := congrArg part h.rest

theorem Becomes.cur : t.cur = s.cur := h.read State.cur

theorem Becomes.trans (h' : Becomes t u y) : Becomes s u y :=
  ⟨h'.rest.trans h.rest, h'.rising, h'.me, fun k other => (h'.others k (h.cur ▸ other)).trans (h.others k other)⟩

theorem Becomes.clockOf (clock : x.launch = s.me.launch) : t.clockOf t.cur.sid = s.clockOf s.cur.sid := by
  rw [State.clockOf, show t.strand t.cur.sid = x from h.me, clock, h.cur]
  rfl

theorem Becomes.turn (clock : x.launch = s.me.launch) : t.turn = s.turn := by
  have launches : t.launches = s.launches := h.read State.launches
  rw [State.turn, State.lcy, h.clockOf clock, State.lcyL, State.launch, launches]
  rfl

end

/-! ## Results that a word promises (R132) -/

/-- The whole result of a vector word, not known yet. -/
def promised (seq turn : Nat) (d : Dst) : Pend := ⟨seq, turn, d, none, BitVec.allOnes 65536, none, true⟩

/-- A strand that owes more results. -/
def Strand.owing (x : Strand) (l : List Pend) : Strand := { x with pend := x.pend ++ l }

theorem Strand.owing_nil (x : Strand) : x.owing [] = x := by rw [Strand.owing, List.append_nil]

theorem Strand.owing_owing (x : Strand) (l k : List Pend) : (x.owing l).owing k = x.owing (l ++ k) := by
  simp only [Strand.owing, List.append_assoc]

theorem promise_becomes (rising : Rising s.strands) (d : Dst) :
    Becomes s (s.promise d true) (s.me.owing [promised s.seqNo s.turn d]) := modMe_becomes rising _

theorem promiseAll_becomes : (l : List Dst) → {s : State} → Rising s.strands →
    Becomes s (s.promiseAll l) (s.me.owing (l.map (promised s.seqNo s.turn)))
  | [], s, rising => ⟨rfl, rising, s.me.owing_nil.symm, fun _ _ => rfl⟩
  | d :: l, s, rising => by
    have first := promise_becomes rising d
    have later := first.trans (promiseAll_becomes l first.rising)
    rw [first.turn rfl, State.seqNo, first.me, Strand.owing_owing] at later
    exact later

/-! ## The queue -/

/-- A strand with an item more in its vector queue. -/
def Strand.queueing (x : Strand) (i : VItem) : Strand := { x with vq := x.vq ++ [i] }

/-- R76: alone in the queue, an item has its lane start set. -/
theorem pushItem_becomes (rising : Rising s.strands) (i : VItem) : ∃ u, Becomes s u (s.me.queueing i) ∧
    s.pushItem i = { u with agenda := s.agenda ++ if s.me.vq = [] then
      [(⟨some (s.clockOf s.cur.sid), s.me.startAt i.turn, prioLane⟩, .laneStart s.cur.sid)] else [] } := by
  have entered : Becomes s (s.modMe (Strand.queueing · i)) (s.me.queueing i) := modMe_becomes rising _
  refine ⟨_, entered, ?_⟩
  change (if s.me.vq.isEmpty then (s.modMe (Strand.queueing · i)).oweLane s.cur.sid else s.modMe (Strand.queueing · i)) = _
  simp only [List.isEmpty_iff]
  split
  next empty =>
    have me : (s.modMe (Strand.queueing · i)).strand s.cur.sid = s.me.queueing i := entered.me
    have vq : (s.me.queueing i).vq = [i] := by rw [Strand.queueing, empty, List.nil_append]
    have clock : (s.modMe (Strand.queueing · i)).clockOf s.cur.sid = s.clockOf s.cur.sid := entered.clockOf rfl
    simp only [State.oweLane, me, vq, clock]
    rfl
  next full => rw [List.append_nil]; rfl

end

/-! ## Issue outside blocks (R133, R138) -/

theorem Strand.collecting_of_none {x : Strand} (outside : x.collect = none) : x.collecting = none := by
  rw [Strand.collecting, outside]

theorem notInBlock_of_none {s : State} (outside : s.me.collect = none) (effect : State → Res) : notInBlock s effect = effect s := by
  rw [notInBlock, Strand.collecting_of_none outside, Option.isSome_none, if_neg Bool.false_ne_true]

theorem queueRoom_of_le {s : State} {rets entries : Nat} (queue : s.me.queued + entries ≤ 16)
    (returns : rets = 0 ∨ s.me.returning + rets ≤ 8) (k : State → Res) : queueRoom s rets entries k = k s :=
  if_neg (by omega)

theorem VOp.returns_le_one (op : VOp) : op.returns ≤ 1 := by
  unfold VOp.returns
  split <;> decide

open Sys2Proof.Claims

theorem enqueue_of_room {s : State} {op : VOp} (room : Room s op) (blockOk : Bool) :
    enqueue blockOk op s = .ok ((s.promiseAll op.promises).pushItem (.one (s.entryOf op))) := by
  obtain ⟨outside, unheld, queue, returns⟩ := room
  have one := op.returns_le_one
  simp only [enqueue, Strand.collecting_of_none outside, unheld]
  exact queueRoom_of_le (by omega) (by omega) _

/-- A word that meets no check, outside blocks and with room, enters its strand's vector queue. -/
theorem queues_of_word {s : State} (canon : Canonical s) {i : Instr} {u : Use} {blockOk : Bool} {captured : State → VOp} {op : VOp}
    (run : exec i s = finish s (word s u fun s => enqueue blockOk (captured s) s)) (capture : captured s = op) (ready : s.Ready u)
    (room : Room s op) : Queues i s op := by
  have owing := promiseAll_becomes op.promises canon.rstrands
  obtain ⟨t, entered, pushed⟩ := pushItem_becomes owing.rising (.one (s.entryOf op))
  have queued := owing.trans entered
  rw [word_ready ready, capture, enqueue_of_room room, finish_ok, pushed] at run
  refine ⟨_, run, rfl, ?me, queued.read State.mem, queued.read State.spad, queued.read State.launches, queued.read State.pkg,
    queued.read State.cores, queued.others, ?agenda⟩
  case me =>
    refine queued.me.trans ?_
    rw [owing.me]
    rfl
  case agenda =>
    have agenda : (s.promiseAll op.promises).agenda = s.agenda := owing.read State.agenda
    rw [agenda, owing.me, owing.clockOf rfl, owing.cur]
    rfl

end Sys2Proof.Machine
end

section
/-! Proof of the statement on vector words (O32): each word runs in the frame of instruction words and enters the queue; the format words
and the words of the streams check their format or mode first. -/
namespace Sys2Proof.Machine
open Sys2Proof.Claims

section
variable {s : State}

theorem formatVec_of_ok {u : Use} (ready : s.Ready u) (vec : u.vec = true) {ok : Bool} (accepted : ok = true) (fmt : Nat) (op : VOp) :
    formatVec ok fmt op s = plainVec op s := by
  simp only [formatVec, ready.1 vec, accepted, Bool.not_true, Bool.false_eq_true, if_false, if_true, plainVec]

/-- R146: the format codes that VQNT takes. -/
theorem quantFormat_accepted : ∀ fmt : Fin 32, fmt.val ∈ [2, 4, 9, 12] →
    (fmt.val == 12 || fmt.val == 9 || fmt.val == 4 || fmt.val == 2) = true := by decide

theorem execVseg_of_mx {u : Use} (ready : s.Ready u) (vec : u.vec = true) {fmt : Fin 32} (code : fmtIsMx fmt = true) (d : VecReg) (a : GReg)
    (clu : Bool) : execVseg d a fmt clu s = finish s (vectorWord [.g a] false (fun s => .seg d (s.rg a) fmt clu) s) := by
  simp only [execVseg, ready.1 vec, code, Bool.not_true, Bool.false_eq_true, if_false, if_true]

theorem streamWord_of_free {u : Use} (ready : s.Ready u) (vec : u.vec = true) (free : s.scored s.cur.sid = false) (op : VOp) :
    streamWord op s = plainVec op s := by
  simp only [streamWord, freeOnly, ready.1 vec, free, Bool.not_true, Bool.false_eq_true, if_false, plainVec]

theorem streamWord_of_scored (vec : s.isVector s.cur.sid = true) (scored : s.scored s.cur.sid = true) (op : VOp) :
    streamWord op s = .next (raise s s { cause := 8 }) := by
  simp only [streamWord, freeOnly, vec, scored, Bool.not_true, Bool.false_eq_true, if_false, if_true, accessFault, finish_trap]

end

theorem laneWordsQueue : LaneWordsQueue := by
  intro s d a b x y m md ma mb qd qa qb e f fmt rnd k so canon ready
  have enters {i u ok captured op} := @queues_of_word s canon i u ok captured op
  refine ⟨?valu, enters rfl rfl, enters rfl rfl, enters rfl rfl, ?vfp, enters rfl rfl, enters rfl rfl, ?vcmp, ?fcmp,
    fun code => ⟨?vcvt, ?vdqnt⟩, ?vqnt, enters rfl rfl, ?vspec, ?vred, enters rfl rfl, enters rfl rfl, enters rfl rfl, enters rfl rfl,
    enters rfl rfl, enters rfl rfl, enters rfl rfl, enters rfl rfl, enters rfl rfl, enters rfl rfl, enters rfl rfl, ?vmask, enters rfl rfl,
    enters rfl rfl, enters rfl rfl, enters rfl rfl, enters rfl rfl, enters rfl rfl⟩
  case valu =>
    simp only [List.forall_mem_cons]
    iterate 14 refine ⟨enters rfl rfl, ?_⟩
    exact List.forall_mem_nil _
  case vfp =>
    simp only [List.forall_mem_cons]
    iterate 7 refine ⟨enters rfl rfl, ?_⟩
    exact List.forall_mem_nil _
  case vcmp =>
    simp only [List.forall_mem_cons]
    iterate 6 refine ⟨enters rfl rfl, ?_⟩
    exact List.forall_mem_nil _
  case fcmp =>
    simp only [List.forall_mem_cons]
    iterate 5 refine ⟨enters rfl rfl, ?_⟩
    exact List.forall_mem_nil _
  case vcvt => exact fun r => enters (formatVec_of_ok r rfl (decide_eq_true code) ..) rfl r
  case vdqnt => exact fun r => enters (formatVec_of_ok r rfl (decide_eq_true code) ..) rfl r
  case vqnt => exact fun code r => enters (formatVec_of_ok r rfl (quantFormat_accepted fmt code) ..) rfl r
  case vspec =>
    simp only [List.forall_mem_cons]
    iterate 4 refine ⟨enters rfl rfl, ?_⟩
    exact List.forall_mem_nil _
  case vred | vmask =>
    simp only [List.forall_mem_cons]
    iterate 3 refine ⟨enters rfl rfl, ?_⟩
    exact List.forall_mem_nil _

theorem vectorMemoryWordsQueue : VectorMemoryWordsQueue := by
  intro s d b x y m st e f fmt clu canon ready base
  have enters {i u ok captured op} := @queues_of_word s canon i u ok captured op
  refine ⟨enters rfl rfl, enters rfl rfl, enters rfl rfl, enters rfl rfl, enters rfl rfl, enters rfl rfl, ?vseg, ?vamo, enters rfl rfl,
    fun free => ⟨fun r => enters (streamWord_of_free r rfl free _) rfl r, fun r => enters (streamWord_of_free r rfl free _) rfl r⟩,
    fun scored vec => ⟨streamWord_of_scored vec scored _, streamWord_of_scored vec scored _⟩⟩
  case vseg => exact fun code r => enters (execVseg_of_mx r rfl code ..) rfl r
  case vamo =>
    simp only [List.forall_mem_cons]
    iterate 8 refine ⟨enters rfl rfl, ?_⟩
    exact List.forall_mem_nil _

/-- Settles O32: the words that compute in the lanes, and the vector memory words, each by the law of a word that enters the queue. -/
theorem vectorWordsQueue : Obligations.VectorWordsQueue := ⟨laneWordsQueue, vectorMemoryWordsQueue⟩

end Sys2Proof.Machine
end

section
/-! Refutation of the statement on SETVL, VSYNC, VLOOP and SSET (O33): a VLOOP takes no entry of the vector queue, but one of a free strand
waits while the queue holds more than its 16 entries, and the statement bounds the return queue alone. -/
namespace Sys2Proof.Machine
open Sys2Proof.Claims

/-- R133: behind a queue of more entries than it has room for, a VLOOP of a free strand keeps its issue cycle empty. -/
theorem vloop_holds_of_overfull {s : State} {d a : GReg} (n : Fin 16) (ready : s.Ready { vec := true, src := [.g a], dst := [.g d] })
    (outside : s.me.collect = none) (free : s.scored s.cur.sid = false) (overfull : 16 < s.me.queued) : Holds (.vloop d a n) s := by
  change finish s (word s _ fun s => notInBlock s fun s => queueRoom s 1 0 _) = _
  rw [word_ready ready, notInBlock_of_none outside, queueRoom, if_pos (.inl overfull), free, if_neg Bool.false_ne_true, finish_held]

/-- An entry of the vector queue without a return entry. -/
def plainEntry : VEntry := { seq := 0, pc := 0, turn := 0, vl := 0, op := .qand 0 0 0 .e8 }

/-- A free vector strand with 17 words in its vector queue, of which none has a return entry, and nothing else in the machine. -/
def overfullState : State := { State.reset with strands := [(15360, { vq := List.replicate 17 (.one plainEntry) })] }

theorem overfullState_ready : overfullState.Ready { vec := true, src := [.g 1], dst := [.g 2] } :=
  ⟨fun _ => rfl, Nat.zero_le _, rfl, rfl, rfl, rfl⟩

/-- Refutes O33: its clause on VLOOP bounds the return queue and not the vector queue, and behind the overfull queue VLOOP is held. R133
gives the vector queue 16 entries; that no more are in use is what the clause would have to ask for. -/
theorem not_vectorControl : ¬ Obligations.VectorControl := by
  intro control
  have canon : Canonical overfullState := by
    obtain ⟨mem, spad, -, tables⟩ := reset_canonical
    exact ⟨mem, spad, List.pairwise_singleton .., tables⟩
  obtain ⟨-, -, opens, -⟩ := control overfullState 2 1 0 0 .e8 0 canon rfl
  obtain ⟨t, -, run, done, -⟩ := opens overfullState_ready (by decide)
  have held : Holds (.vloop 2 1 0) overfullState := vloop_holds_of_overfull 0 overfullState_ready rfl rfl (by decide)
  rw [Holds, run] at held
  cases held
  cases done

end Sys2Proof.Machine
end

section
/-! Laws of Harp commands and of the operations that they start (R165 to R170): the queue that a command leaves, the operation that it
starts, and what a row touch changes. -/
namespace Sys2Proof.Machine

/-! ## Lists by key -/

section
variable {κ α : Type} [DecidableEq κ] (k : κ)

theorem look_bind_same (v : α) : (l : List (κ × α)) → look k (bind k v l) = some v
  | [] => if_pos rfl
  | (j, w) :: l => by
    rw [bind]
    split
    · exact if_pos rfl
    next other => exact (if_neg other).trans (look_bind_same v l)

theorem look_unbind_same (l : List (κ × α)) : look k (unbind k l) = none := by
  induction l with
  | nil => rfl
  | cons e l ih =>
    by_cases same : e.1 = k
    · rwa [unbind, List.filter_cons_of_neg (by simpa using same)]
    · rw [unbind, List.filter_cons_of_pos (by simpa using same)]
      exact (if_neg same).trans ih

end

section
variable {s : State}

theorem core_setCore_same (rising : Rising s.cores) (c : Nat) (x : Core) : (s.setCore c x).core c = x :=
  (core_setCore s c c x rising).trans (if_pos rfl)

theorem harp_setHarp_same (rising : Rising s.harps) (c : Nat) (x : Harp) : (s.setHarp c x).harp c = x :=
  (harp_setHarp s c c x rising).trans (if_pos rfl)

theorem tile_modTile {crew : Nat} (harps : Rising s.harps) (tiles : Rising (s.harp crew).tiles) (t j : Nat) (f : TileState → TileState) :
    (s.modTile crew t f).tile crew j = if j = t then f (s.tile crew t) else s.tile crew j := by
  have harp : (s.modTile crew t f).harp crew = _ := harp_setHarp_same harps crew _
  rw [State.tile, harp]
  exact tget_tput_rising _ t j _ _ tiles

/-! ## The queue that a command leaves (R165) -/

variable {q : HarpCmd}

theorem unqueue_leaves (rising : Rising s.cores) : ∀ x ∈ ((s.unqueue q).core q.core).harpq, x.id ≠ q.id := by
  intro x queued
  have core : (s.unqueue q).core q.core = _ := core_setCore_same rising q.core _
  rw [core] at queued
  exact of_decide_eq_true (List.mem_filter.mp queued).2

theorem unqueue_scored (rising : Rising s.cores) (sid : Nat) : (s.unqueue q).scored sid = s.scored sid := by
  have core : ((s.unqueue q).core (coreOf sid)).scored = (s.core (coreOf sid)).scored := by
    refine (congrArg Core.scored (core_setCore s q.core (coreOf sid) _ rising)).trans ?_
    split
    next same => rw [same]
    · rfl
  rw [State.scored, core, State.scored]

/-! ## The operation that a command starts (R166, R170) -/

theorem oweTouch_owes (s : State) (sid id d : Nat) : ∃ l, s.oweTouch sid id d = { s with agenda := l } := by
  unfold State.oweTouch
  split <;> exact ⟨_, rfl⟩

/-- The operation of a command on its own tile: all rows from row 0 on, from this cycle of its strand on. -/
def State.tileRun (s : State) (q : HarpCmd) (x : Touch) : HarpRun :=
  { sid := q.sid, seq := q.seq, pc := q.pc, core := q.core, tile := Fin.ofNat 16 q.t, touch := x, row := 0, stop := 128
    cs := some (s.lcy q.sid), failed := none }

theorem startCmd_of_tile (tile : q.isArray = false) (strings : Nat) : ∃ x harps agenda,
    s.startCmd q strings = { (s.unqueue q).setRun q.id (s.tileRun q x) with harps := harps, agenda := agenda } := by
  have begins (u : State) (x : Touch) : ∃ l, u.startRun q.id (s.tileRun q x) 0 = { u.setRun q.id (s.tileRun q x) with agenda := l } :=
    oweTouch_owes ..
  unfold State.startCmd
  cases op : q.op with
  | mma => simp [HarpCmd.isArray, op] at tile
  | zero =>
    obtain ⟨l, run⟩ := begins ((s.unqueue q).modTile (crewOf q.core) q.t fun x => { x with inx := false }) .clear
    exact ⟨_, _, l, run⟩
  | anch a =>
    obtain ⟨l, run⟩ := begins ((s.unqueue q).modTile (crewOf q.core) q.t fun x => { x with inx := false, anch := a }) .clear
    exact ⟨_, _, l, run⟩
  | chk =>
    obtain ⟨l, run⟩ := begins (s.unqueue q) .check
    exact ⟨_, _, l, run⟩

/-- A command has left its core's queue and its operation stands before row 0. -/
structure Starts (s t : State) (q : HarpCmd) : Prop where
  left : ∀ x ∈ (t.core q.core).harpq, x.id ≠ q.id
  run : ∃ r, look q.id t.runs = some r ∧ r.row = 0 ∧ r.stop = 128 ∧ r.sid = q.sid ∧ r.cs = some (s.lcy q.sid)
  mem : t.mem = s.mem
  spad : t.spad = s.spad
  strands : t.strands = s.strands

theorem setRun_starts (rising : Rising s.cores) (x : Touch) (harps : Sparse Harp) (agenda : List (Stamp × Event)) :
    Starts s { (s.unqueue q).setRun q.id (s.tileRun q x) with harps := harps, agenda := agenda } q where
  left := unqueue_leaves rising
  run := ⟨_, look_bind_same .., rfl, rfl, rfl, rfl⟩
  mem := rfl
  spad := rfl
  strands := rfl

theorem startCmd_starts (rising : Rising s.cores) (tile : q.isArray = false) (strings : Nat) : Starts s (s.startCmd q strings) q := by
  obtain ⟨x, harps, agenda, start⟩ := startCmd_of_tile (s := s) tile strings
  exact start ▸ setRun_starts rising x harps agenda

/-! ## The start of a command (R166, R169) -/

theorem startFree_of_tile (rising : Rising s.cores) (tile : q.isArray = false) : ∃ t, s.startFree q = some t ∧ Starts s t q := by
  obtain ⟨x, harps, agenda, start⟩ := startCmd_of_tile (s := s) tile q.core
  rw [State.startFree, tile, start]
  exact ⟨_, rfl, setRun_starts rising x _ agenda⟩

theorem startFree_of_granted {keep : Bool} (array : q.isArray = true) (alone : q.paired = false)
    (granted : s.arbiter (crewOf q.core) = some (q.core, keep)) : s.startFree q = some ((s.grant q keep).startCmd q q.core) := by
  simp [State.startFree, array, alone, granted]

theorem startFree_of_ungranted (array : q.isArray = true) (ungranted : s.arbiter (crewOf q.core) = none) : s.startFree q = none := by
  simp [State.startFree, array, ungranted]

theorem startScored_of_tile (tile : q.isArray = false) : s.startScored q = s.startCmd q q.core := by
  simp [State.startScored, tile]

section
variable {c : Nat} {rest : List HarpCmd} (queue : (s.core c).harpq = q :: rest)
include queue

theorem harpCommandStart_early (free : (s.core c).scored = false) (early : s.pkg.ency < q.start) :
    exec (.harpCommandStart c) s = .next (s.owe none q.start prioHarp (.harpCommandStart c)) := by
  change execHarpCommandStart c s = _
  simp only [execHarpCommandStart, free, queue, early, Bool.false_eq_true, if_false, if_true]

theorem harpCommandStart_free (free : (s.core c).scored = false) (come : q.start ≤ s.pkg.ency) :
    exec (.harpCommandStart c) s = .next ((s.startFree q).getD (s.after 1 prioHarp (.harpCommandStart c))) := by
  change execHarpCommandStart c s = _
  simp only [execHarpCommandStart, free, queue, if_neg (Nat.not_lt.mpr come), Bool.false_eq_true, if_false]
  cases s.startFree q <;> rfl

theorem harpCommandStart_scored (scored : (s.core c).scored = true) (come : q.start ≤ s.lcy q.sid) :
    exec (.harpCommandStart c) s = .next (s.startScored q) := by
  change execHarpCommandStart c s = _
  simp only [execHarpCommandStart, scored, queue, come, decide_true, if_true]

end
end

/-! ## A touch of a clearing command (R170, R174) -/

/-- The state behind a touch of a row that leaves u: the next row is owed, or the operation is over. -/
def State.behindTouch (u : State) (op : Nat) (r : HarpRun) : State :=
  if r.row + 1 < r.stop then (u.setRun op { r with row := r.row + 1 }).oweTouch r.sid op 1 else u.endRun op

section
variable {s : State} {op : Nat} {r : HarpRun}

theorem harpRowTouch_of_clear (running : look op s.runs = some r) (clear : r.touch = .clear) : exec (.harpRowTouch op) s =
    .next ((s.modTile (crewOf r.core) r.tile fun x => x.clearRow r.row).behindTouch op r) := by
  change execHarpRowTouch op s = _
  simp only [execHarpRowTouch, running, State.touchRow, clear, State.behindTouch]

theorem behindTouch_changes (u : State) (op : Nat) (r : HarpRun) : ∃ runs snaps agenda,
    u.behindTouch op r = { u with runs := runs, snaps := snaps, agenda := agenda } ∧
    (r.row + 1 < r.stop → look op runs = some { r with row := r.row + 1 }) ∧ (r.stop ≤ r.row + 1 → look op runs = none) := by
  unfold State.behindTouch
  split
  next going =>
    obtain ⟨l, owes⟩ := oweTouch_owes (u.setRun op { r with row := r.row + 1 }) r.sid op 1
    exact ⟨_, _, l, owes, fun _ => look_bind_same .., fun last => absurd going (Nat.not_lt.mpr last)⟩
  next last => exact ⟨_, _, _, rfl, fun going => absurd going last, fun _ => look_unbind_same ..⟩

end

/-! ## The pairing fault (R177) -/

section
variable {s : State} {op : Nat} {q : HarpCmd}

theorem hmmsPairingTimeout_of_arrived (found : (s.cores.findSome? fun k => k.2.harpq.find? fun q => q.id == op) = some q)
    (arrived : s.partnerArrived q = true) : exec (.hmmsPairingTimeout op) s = .next s := by
  change execHmmsPairingTimeout op s = _
  simp [execHmmsPairingTimeout, found, arrived]

theorem hmmsPairingTimeout_of_missing (found : (s.cores.findSome? fun k => k.2.harpq.find? fun q => q.id == op) = some q)
    (paired : q.paired = true) (free : s.scored q.sid = false) (missing : s.partnerArrived q = false) :
    exec (.hmmsPairingTimeout op) s = .next (s.chargeCmd q { cause := 13 }) := by
  change execHmmsPairingTimeout op s = _
  simp [execHmmsPairingTimeout, found, paired, free, missing]

/-- R351: only integrity, register-file and residue faults are counted. -/
theorem countTrap_of_pairing {i : TrapInfo} (pairing : i.cause = 13) (sid : Nat) : s.countTrap sid i = s := by
  simp [State.countTrap, pairing]

/-- On a free core a pairing fault that its strand handles drops the command and enters the handler. -/
theorem chargeCmd_enters {i : TrapInfo} (rising : Rising s.cores) (pairing : i.cause = 13) (free : s.scored q.sid = false)
    (present : (s.strand q.sid).slot ≠ .preempted) (stays : (s.strand q.sid).leaving = none) (below : (s.strand q.sid).priv ≤ 1)
    (handler : (s.strand q.sid).tvec ≠ 0) (open_ : (s.strand q.sid).inh = false) : ∃ toIssue,
    s.chargeCmd q i = { s.unqueue q with toIssue := toIssue }.setStrand q.sid ((s.strand q.sid).enter i q.pc) :=
  have stillFree := (unqueue_scored rising q.sid).trans free
  ⟨_, takeTrap_enters q.pc stillFree stays present (countTrap_of_pairing pairing q.sid) below handler open_⟩

end

/-- Settles O46: the starts on a free and on a scored core, the touch of a clearing command, and the pairing fault. -/
theorem harpEvents : Obligations.HarpEvents := by
  intro s c q rest canon started
  have starts {t : State} (h : Starts s t q) (own : q.core = c) : started t := by
    obtain ⟨left, run, mem, spad, strands⟩ := h
    exact ⟨own ▸ left, fun _ => run, mem, spad, strands⟩
  refine ⟨?free, ?scored, ?touch, ?pairing⟩
  case free =>
    rintro rfl free queue
    have run (come : q.start ≤ s.pkg.ency) := harpCommandStart_free queue free come
    refine ⟨harpCommandStart_early queue free, fun come tile => ?tile, fun come array alone keep granted => ?granted,
      fun come array ungranted => ?ungranted⟩
    case tile =>
      obtain ⟨t, start, h⟩ := startFree_of_tile canon.rcores tile
      exact ⟨t, by rw [run come, start, Option.getD_some], starts h rfl⟩
    case granted => rw [run come, startFree_of_granted array alone granted, Option.getD_some]
    case ungranted => rw [run come, startFree_of_ungranted array ungranted, Option.getD_none]
  case scored =>
    intro own scored queue come tile
    refine ⟨_, harpCommandStart_scored queue scored come, starts ?_ own⟩
    rw [startScored_of_tile tile]
    exact startCmd_starts canon.rcores tile q.core
  case touch =>
    intro op r running clear tiles
    have tile (k : Nat) := tile_modTile canon.rharps tiles r.tile k fun x => x.clearRow r.row
    obtain ⟨runs, snaps, agenda, behind, going, last⟩ :=
      behindTouch_changes (s.modTile (crewOf r.core) r.tile fun x => x.clearRow r.row) op r
    rw [Claims.Runs, harpRowTouch_of_clear running clear, behind]
    exact ⟨_, rfl, (tile _).trans (if_pos rfl), fun k other => (tile k).trans (if_neg other), going, last, rfl, rfl, rfl⟩
  case pairing =>
    intro op found paired x
    refine ⟨hmmsPairingTimeout_of_arrived found, fun missing free present stays below handler open_ => ?_⟩
    obtain ⟨toIssue, charged⟩ := chargeCmd_enters (i := { cause := 13 }) canon.rcores rfl free present stays below handler open_
    have strand := strand_setStrand_same (s := { s.unqueue q with toIssue := toIssue }) canon.rstrands q.sid
      (x.enter { cause := 13 } q.pc)
    rw [Claims.Runs, hmmsPairingTimeout_of_missing found paired free missing, charged]
    refine ⟨_, rfl, ?_, ?_, ?_, unqueue_leaves canon.rcores⟩
    all_goals rw [strand]; rfl

end Sys2Proof.Machine
end

section
/-! Laws of the issue of Harp words (R165, R166, R172): the checks that a sound word passes, and the command that enters the queue of its
core. -/
namespace Sys2Proof.Machine
open Sys2Proof.Claims

section
variable {s : State}

theorem bits_zero {w : Nat} (x : BitVec w) (n : Nat) : bits x 0 n = x.toNat % 2 ^ n := by
  rw [bits, field, Nat.pow_zero, Nat.div_one]

theorem sext_eq_signExtend (n : Nat) (x : Word) : sext n x.toNat = (x.setWidth n).signExtend 64 := by
  rw [sext, signed_eq_toInt, BitVec.ofNat_toNat, BitVec.signExtend]

/-! ## Checks that pass (R157, R160, R172) -/

theorem ownTiles_of_owned {ts : List Nat} (owned : Owns s ts) (k : State → Res) : ownTiles s ts k = k s := by
  have none : (ts.find? fun t => !s.ownsTile (coreOf s.cur.sid) t) = none := by
    rw [List.find?_eq_none]
    intro t named
    simp [owned t named]
  rw [ownTiles, none]

theorem Desc.beyond_of_le {d : Desc} {first n : Nat} (within : d.soff + (first + n) * d.slab ≤ 524288) : d.beyond first n = none :=
  if_pos (.inr within)

theorem Strand.groupPoison_of_clean {x : Strand} (clean : x.poison = []) (regs : List Nat) (w len : Nat) :
    x.groupPoison regs w len = none := by
  rw [Strand.groupPoison, clean]
  rfl

/-! ## The command that enters (R165, R166) -/

/-- The command that a Harp word makes. -/
def State.harpCmd (s : State) (t : Tile) (op : HarpOp) (off : Word) : HarpCmd where
  id := s.nextId
  core := coreOf s.cur.sid
  sid := s.cur.sid
  seq := s.seqNo
  pc := s.cur.addr
  turn := s.turn
  start := if s.scored s.cur.sid then s.turn + bits off 0 16 else s.pkg.ency + 32
  launch := s.me.launch
  t := t
  op := op
  scored := s.scored s.cur.sid

/-- Whether the strand waits for its command: for HCHK, and on a free core for the other half of an HMMS (R174, R177). -/
def State.waitsFor (s : State) (q : HarpCmd) (waits : Bool) : Bool := waits || (q.paired && !s.scored s.cur.sid)

/-- A command enters its core's queue behind the others. -/
def State.commanded (s : State) (q : HarpCmd) (nextId : Nat) (agenda : List (Stamp × Event)) : State :=
  { s.modCore q.core fun k => { k with harpq := k.harpq ++ [q] } with nextId := nextId, agenda := agenda }

/-- The strand waits for its command, where its word does. -/
def State.harpWaits (s : State) (waits : Bool) (id : Nat) : State :=
  if waits then s.modMe fun x => { x with wait := some (.harp id) } else s

theorem harpCommand_of_room {t : Tile} {op : HarpOp} {off : Word} (waits : Bool) (owned : Owns s (s.harpCmd t op off).tiles)
    (room : (s.core (coreOf s.cur.sid)).harpq.length < 8) (inTime : s.scored s.cur.sid = true → 32 ≤ bits off 0 16) :
    ∃ nextId agenda, harpCommand t op off waits s = .ok ((s.commanded (s.harpCmd t op off) nextId agenda).harpWaits
      (s.waitsFor (s.harpCmd t op off) waits) s.nextId) := by
  have timely : ¬ (s.scored s.cur.sid = true ∧ bits off 0 16 < 32) := fun h => Nat.not_lt.mpr (inTime h.1) h.2
  unfold harpCommand
  extract_lets sid c sc n q
  rw [ownTiles_of_owned (ts := q.tiles) owned, if_neg (Nat.not_le.mpr room), if_neg timely]
  extract_lets numbered queued owing halved
  have same : halved = s.commanded q numbered.nextId halved.agenda := by
    unfold halved
    split <;> rfl
  refine ⟨numbered.nextId, halved.agenda, congrArg Res.ok ?_⟩
  simp only [State.harpWaits, State.waitsFor, Bool.or_eq_true, Bool.and_eq_true]
  exact same ▸ rfl

theorem harpWaits_becomes (rising : Rising s.strands) (waits : Bool) (id : Nat) :
    Becomes s (s.harpWaits waits id) { s.me with wait := if waits then some (.harp id) else s.me.wait } := by
  unfold State.harpWaits
  split
  · exact modMe_becomes rising _
  · exact ⟨rfl, rising, rfl, fun _ _ => rfl⟩

/-- A word that meets no check and comes to the issue of a command, its tiles owned, makes that command. -/
theorem commands_of_word (canon : Canonical s) {i : Instr} {u : Use} {effect : State → Res} {t : Tile} {op : HarpOp} {off : Word}
    {waits : Bool} (run : exec i s = finish s (word s u effect)) (ready : s.Ready u) (comes : effect s = harpCommand t op off waits s)
    (owned : Owns s (s.harpCmd t op off).tiles) : Commands i s t op off waits := by
  intro room inTime
  have inTime' : s.scored s.cur.sid = true → 32 ≤ bits off 0 16 := by rwa [bits_zero]
  obtain ⟨nextId, agenda, command⟩ := harpCommand_of_room waits owned room inTime'
  rw [word_ready ready, comes, command, finish_ok] at run
  let q := s.harpCmd t op off
  have waiting := harpWaits_becomes (s := s.commanded q nextId agenda) canon.rstrands (s.waitsFor q waits) s.nextId
  have core : (s.commanded q nextId agenda).core (coreOf s.cur.sid) = _ := core_setCore_same canon.rcores ..
  refine ⟨_, q, run, rfl, ?queue, rfl, rfl, rfl, rfl, rfl, ?start, waiting.read State.harps, waiting.read State.mem,
    waiting.read State.spad, waiting.read State.launches, waiting.read State.pkg, waiting.others, waiting.me⟩
  case queue => exact (waiting.read fun u => (u.core (coreOf s.cur.sid)).harpq).trans (congrArg Core.harpq core)
  case start => rw [← bits_zero]; rfl

end

theorem tileWordsQueue : TileWordsQueue := by
  intro s t ga canon owned off
  have commands {i u effect op waits} := @commands_of_word s canon i u effect t op off waits
  have extended := sext_eq_signExtend 12 (s.rg ga)
  refine ⟨fun ready => ⟨commands rfl ready rfl owned, commands rfl ready rfl owned⟩,
    fun ready => ⟨fun fits => ?fits, fun wide => ?wide⟩⟩
  case fits => exact commands rfl ready (if_neg (not_not_intro (fits.trans extended.symm))) owned
  case wide =>
    change finish s (word s _ _) = _
    rw [word_ready ready, if_pos (extended ▸ wide), illegalFormat, finish_trap]

/-! ## Products (R159 to R163, R175, R176) -/

/-- R162: the elements of a register that a product takes. -/
def State.productLen (s : State) : Nat := Nat.min s.me.vlen (s.vlmax32 s.cur.sid)

/-- R163, R176: the B groups of a product. -/
def State.productCols (s : State) (multi : Bool) (d : Desc) : Nat :=
  if multi then crewCols (crewOf (coreOf s.cur.sid)) d.mc else if d.bk = 6 then 2 else 1

/-- What R159 to R163 and R176 ask of a product: its descriptor w, its groups of n registers from vb on, and its tiles. -/
structure SoundProduct (s : State) (multi : Bool) (t : Tile) (vb : VecReg) (w : Word) (fmt n : Nat) : Prop where
  desc : descBad w fmt (!multi) multi = false
  words : n * s.productLen % 4096 = 0
  nonempty : n * s.productLen / 128 ≠ 0
  groups : fmtIsAsym fmt = true → n * s.productLen / 128 % (descOf w).grp = 0
  regs : vb.val + s.productCols multi (descOf w) * n ≤ 32
  tiles : multi = true → t.val + (descOf w).mr * s.productCols multi (descOf w) ≤ 16
  pair : multi = true → 4 < (descOf w).mc →
    s.partOf (8 * partnerCrew (crewOf (coreOf s.cur.sid))) = s.partOf (coreOf s.cur.sid)
  clean : s.me.poison = []
  slabs : (descOf w).soff + (descOf w).mr * (n * s.productLen / 128 / 32) * (descOf w).slab ≤ 524288
  table : fmtIsAsym fmt = true → (descOf w).toff + 512 * (n * s.productLen / 128 / (descOf w).grp) ≤ 524288

section
variable {s : State} {set multi : Bool} {t : Tile} {vb : VecReg} {ga : GReg} {fmt n : Nat}

theorem commands_of_product (canon : Canonical s) {i : Instr} (run : exec i s = harpProduct set multi t vb ga fmt n s)
    (ready : s.Ready { vec := true, src := [.vl, .g ga, .g (ga + 1)], outward := true }) (outside : s.me.collect = none)
    (sound : SoundProduct s multi t vb (s.rg ga) fmt n)
    (owned : Owns s (if multi then (List.range ((descOf (s.rg ga)).mr * s.productCols multi (descOf (s.rg ga)))).map (t.val + ·)
      else [t.val])) :
    Commands i s t (.mma set multi vb (s.rg ga) fmt n (n * s.productLen / 128) s.productLen) (s.rg (ga + 1)) false := by
  refine commands_of_word canon run ready ((notInBlock_of_none outside _).trans ?passes) ?tiles
  case passes =>
    obtain ⟨desc, words, nonempty, groups, regs, tiles, pair, clean, slabs, table⟩ := sound
    dsimp only
    rw [if_neg ?sound, if_neg ?together, Strand.groupPoison_of_clean clean, Desc.beyond_of_le (by rwa [Nat.zero_add])]
    · exact if_neg fun h => Nat.not_lt.mpr (table h.1) h.2
    case sound =>
      simp only [desc, Bool.false_or, Bool.or_eq_true, Bool.and_eq_true, decide_eq_true_eq]
      rintro ((((ragged | empty) | uneven) | beyond) | outside)
      · exact ragged words
      · exact nonempty empty
      · exact uneven.2 (groups uneven.1)
      · exact Nat.not_lt.mpr regs beyond
      · exact Nat.not_lt.mpr (tiles outside.1) outside.2
    case together => simpa using pair
  case tiles => cases multi <;> exact owned

end

theorem productWordsQueue : ProductWordsQueue := by
  intro s t vb ga fmt g multi canon ready outside w d n len kt cols desc words nonempty groups regs slabs table clean span owned
  have sound : SoundProduct s multi t vb w fmt n :=
    { desc, words, nonempty, groups, regs, slabs, table, clean, tiles := fun m => (span m).1, pair := fun m => (span m).2 }
  have commands {set i} (run : exec i s = harpProduct set multi t vb ga fmt n s) := commands_of_product canon run ready outside sound owned
  cases multi with
  | false =>
    simp only [Bool.false_eq_true, if_false, List.forall_mem_cons]
    exact ⟨commands rfl, commands rfl, List.forall_mem_nil _⟩
  | true =>
    simp only [if_true, List.forall_mem_cons]
    exact ⟨commands rfl, commands rfl, List.forall_mem_nil _⟩

/-! ## Words that move rows (R173, R178, R180) -/

section
variable {s : State} {op : VOp}

/-- What the entry of a word into the vector queue changes and what it leaves alone. -/
structure Enters (s u : State) (op : VOp) : Prop where
  vq : u.me.vq = s.me.vq ++ [.one (s.entryOf op)]
  others : ∀ k, k ≠ s.cur.sid → u.strand k = s.strand k
  nextId : u.nextId = s.nextId
  runs : u.runs = s.runs
  harps : u.harps = s.harps
  mem : u.mem = s.mem
  spad : u.spad = s.spad

theorem enqueue_enters (canon : Canonical s) (room : Room s op) (blockOk : Bool) :
    ∃ u, enqueue blockOk op s = .ok u ∧ Enters s u op := by
  have owing := promiseAll_becomes op.promises canon.rstrands
  obtain ⟨t, entered, pushed⟩ := pushItem_becomes owing.rising (.one (s.entryOf op))
  have queued := owing.trans entered
  refine ⟨_, (enqueue_of_room room blockOk).trans (congrArg Res.ok pushed), ?vq, queued.others, queued.read State.nextId,
    queued.read State.runs, queued.read State.harps, queued.read State.mem, queued.read State.spad⟩
  refine (congrArg Strand.vq queued.me).trans ?_
  rw [owing.me]
  rfl

end

theorem ctlBad_of_fits {w : Word} (fits : w &&& 0x17F#64 = w) : ctlBad w = false := by simp [ctlBad, fits]

theorem rowWordsQueue : RowWordsQueue := by
  intro s t vb ga fmt g canon ctl place
  refine ⟨fun ready => ?hplane, fun ready fits owned => ⟨fun code room => ?hread, fun room => ?hwrite⟩⟩
  case hplane =>
    intro op vl nb room desc fits words slabs
    have below : (descOf ctl).beyond (bits place 8 7) (bits place 16 7 + 1) = none := Desc.beyond_of_le slabs
    refine queues_of_word canon (captured := fun _ => op) (blockOk := false) ?run rfl ready room
    change finish s (word s _ _) = _
    rw [word_ready ready, word_ready ready, notInBlock_of_none room.1]
    dsimp only
    rw [if_neg (Bool.eq_false_iff.mp desc), if_neg (not_not_intro fits), if_neg (not_not_intro words), below, ite_self]
  case hread =>
    obtain ⟨u, entered, vq, others, nextId, -, harps, mem, spad⟩ := enqueue_enters canon room false
    have run : exec (.hread t vb ga fmt g) s = .next { u with nextId := u.nextId + 1, last := .done } := by
      change finish s _ = _
      have format : [9, 12, 19, 20, 21].contains fmt.val = true := List.contains_iff_mem.mpr code
      rw [ready.1 rfl, format, word_ready ready, notInBlock_of_none room.1, ctlBad_of_fits fits, ownTiles_of_owned owned, entered]
      rfl
    exact ⟨_, run, rfl, congrArg (· + 1) nextId, vq, harps, mem, spad, others⟩
  case hwrite =>
    obtain ⟨u, entered, vq, others, nextId, runs, harps, mem, spad⟩ := enqueue_enters canon room false
    have run : ∃ r, exec (.hwrite t vb ga g) s = .next { u with nextId := s.nextId + 1, runs := bind s.nextId r u.runs, last := .done } ∧
        r.tile = t ∧ r.row = ctl.toNat % 2 ^ 7 := by
      change ∃ r, finish s (word s _ _) = _ ∧ _
      rw [word_ready ready, notInBlock_of_none room.1]
      dsimp only
      rw [ctlBad_of_fits fits, ownTiles_of_owned owned, entered]
      exact ⟨_, rfl, rfl, bits_zero ..⟩
    obtain ⟨r, run, tile, row⟩ := run
    exact ⟨_, r, run, rfl, rfl, vq, congrArg _ runs, tile, row, harps, mem, spad, others⟩

/-- Settles O35: the words on one tile, the products, and the words that move rows. -/
theorem harpWordsQueue : Obligations.HarpWordsQueue := ⟨tileWordsQueue, productWordsQueue, rowWordsQueue⟩

end Sys2Proof.Machine
end

section
/-! Law of the checks of an address (R203): they change nothing but cores, and take the durations of walks from the machine's picks. -/
namespace Sys2Proof.Machine

/-- A state without its cores and the durations picked for it. -/
def State.coreless (s : State) : State := { s with cores := [], picks := [] }

theorem outcome_picks {s t : State} {lo hi : Nat} {n : Option Nat} (drawn : s.outcome lo hi = (n, t)) :
    ∃ picks, t = { s with picks := picks } := by
  unfold State.outcome at drawn
  split at drawn <;> cases drawn <;> exact ⟨_, rfl⟩

theorem walkFrom_coreless (v va core : Nat) : (n tbl : Nat) → (s : State) → (walkFrom v va core n tbl s).1.coreless = s.coreless
  | 0, _, _ => rfl
  | n + 1, tbl, s => by
    simp only [walkFrom]
    split
    next faulty => rfl
    next sound =>
      split
      next absent => rfl
      next =>
        split
        next reserved => rfl
        next =>
          split
          next table =>
            split
            next unusable => rfl
            next =>
              refine (walkFrom_coreless v va core n _ _).trans ?_
              split <;> rfl
          next leaf =>
            split
            next misplaced => rfl
            next => exact (apply_ite (fun r : State × Except TrapInfo TlbEntry => r.1.coreless) _ _ _).trans (ite_self _)

section
variable (s : State)

theorem walk_coreless (core v va : Nat) : (s.walk core v va).1.coreless = s.coreless := by
  unfold State.walk
  dsimp only
  split
  next drawn =>
    obtain ⟨picks, rfl⟩ := outcome_picks drawn
    exact walkFrom_coreless ..
  next drawn =>
    obtain ⟨picks, rfl⟩ := outcome_picks drawn
    rfl

theorem leaf_coreless (core v va : Nat) : (s.leaf core v va).1.coreless = s.coreless := by
  have walked := walk_coreless s core v va
  unfold State.leaf
  split
  · rfl
  · split
    · rfl
    · split
      next found =>
        rw [found] at walked
        exact walked
      next => exact walked

theorem translate_coreless (held : Option TlbEntry) (sid va : Nat) (r : Right) :
    (s.translate held sid va r).1.coreless = s.coreless := by
  unfold State.translate
  extract_lets miss
  cases held with
  | some e =>
    dsimp only
    split <;> rfl
  | none =>
    have counted : (if miss then s.perf sid 13 1 else s).coreless = s.coreless := by split <;> rfl
    have looked := (leaf_coreless (if miss then s.perf sid 13 1 else s) (coreOf sid) (s.strandVd sid) va).trans counted
    dsimp only
    split
    next found =>
      rw [found] at looked
      exact looked
    next found =>
      rw [found] at looked
      split <;> exact looked

theorem virtTarget_coreless (held : Option TlbEntry) (sid ea n : Nat) (r : Right) (a : Access) (use : MemUse) :
    (s.virtTarget held sid ea n r a use).1.coreless = s.coreless := by
  have translated := translate_coreless s held sid ea r
  unfold State.virtTarget
  split
  next coach =>
    split
    · split <;> rfl
    · rfl
  next =>
    split
    next found =>
      rw [found] at translated
      exact translated
    next found =>
      rw [found] at translated
      dsimp only
      split <;> exact translated

theorem checkAccess_coreless (sid : Nat) (sp : Space) (ea n : Nat) (r : Right) (use : MemUse) :
    (s.checkAccess sid sp ea n r use).1.coreless = s.coreless := by
  unfold State.checkAccess
  dsimp only
  split
  next virtual =>
    split
    · rfl
    · split
      · rfl
      · exact virtTarget_coreless ..
  next scratchpad =>
    split
    · rfl
    · split <;> rfl

end

theorem checkAccess_cur {s u : State} {sid ea n : Nat} {sp : Space} {r : Right} {use : MemUse} {o : Except TrapInfo Access}
    (checked : s.checkAccess sid sp ea n r use = (u, o)) : u.cur = s.cur := by
  have kept := checkAccess_coreless s sid sp ea n r use
  rw [checked] at kept
  exact (show u.coreless.cur = s.coreless.cur by rw [kept])

end Sys2Proof.Machine
end

section
/-! Laws of accesses at their issue (R203, R206, R228): what a passed check of a virtual address tells of the access, and what it is that
enters the machine. -/
namespace Sys2Proof.Machine
open Sys2Proof.Claims

/-- R203: an access to a virtual address that passes its checks is the strand's own, reaches physical space, and lands nothing yet. -/
theorem checkAccess_vir {s u : State} {sid ea n : Nat} {r : Right} {use : MemUse} {x : Access}
    (passed : s.checkAccess sid .vir ea n r use = (u, .ok x)) : x.sid = sid ∧ x.place = .phys ∧ x.dst = none := by
  simp only [State.checkAccess, State.virtTarget] at passed
  repeat' split at passed
  all_goals cases passed
  all_goals exact ⟨rfl, rfl, rfl⟩

theorem window_single {x : Access} {e : Elem} (cycles : x.cycles = [[e]]) : x.window = e.relay := by
  rw [Access.window, cycles]
  rfl

/-- An access that has been started is in flight under a fresh number; beside that, events are owed and a duration is picked. -/
theorem startAccess_eq (s : State) (a : Access) (p pmax : Nat) : ∃ left bound agenda picks, s.startAccess a p pmax =
    { s with nextId := s.nextId + 1, accesses := bind s.nextId { a with left := left, bound := bound } s.accesses
             agenda := agenda, picks := picks } := by
  unfold State.startAccess State.fresh
  dsimp only
  split
  · exact ⟨a.left, a.bound, _, _, rfl⟩
  · split
    all_goals
      next drawn =>
      obtain ⟨picks, rfl⟩ := outcome_picks drawn
      exact ⟨_, _, _, _, rfl⟩

section
variable {i : Instr} {s u : State} {x : Access} {e : Elem} {kind : AccKind}

/-- A word that starts the checked access x as one of another kind, which lands nothing. -/
theorem starts_of_startAccess {home rank earliest p pmax : Nat} (cycles : x.cycles = [[e]]) (owed : x.dst = none)
    (run : exec i s = finish s (.ok (u.startAccess { x with kind := kind, home := home, rank := rank, earliest := earliest } p pmax))) :
    Claims.Starts i s u x e kind none := by
  obtain ⟨left, bound, agenda, picks, started⟩ :=
    startAccess_eq u { x with kind := kind, home := home, rank := rank, earliest := earliest } p pmax
  rw [started] at run
  refine ⟨_, _, run, rfl, rfl, rfl, rfl, rfl, rfl, rfl, owed, cycles, rfl, rfl, rfl, rfl, fun _ _ => rfl, ?_⟩
  dsimp only
  rw [List.append_nil]
  rfl

/-- PREF, FLUSH and INVAL meet no vector word and no pending check (R206, R228): their access starts at once. -/
theorem issueAccess_of_lineOp (place : x.place = .phys) (owed : x.dst = none)
    (op : kind = .pref ∨ kind = .flush ∨ kind = .inval) : ∃ home rank earliest p,
    u.issueAccess { x with kind := kind } 0 =
      .ok (u.startAccess { x with kind := kind, home := home, rank := rank, earliest := earliest } p p) := by
  obtain rfl | rfl | rfl := op
  all_goals
    simp only [State.issueAccess, State.vectorHolds, place, owed, Bool.and_false, Bool.false_eq_true, if_false]
    exact ⟨_, _, _, _, rfl⟩

end

end Sys2Proof.Machine
end

section
/-! Proof of the statement on PREF, FLUSH, INVAL, RPUB and FENCE (O29), from the laws of accesses at their issue and of the frame of
instruction words. -/
namespace Sys2Proof.Machine
open Sys2Proof.Claims

/-! ## A line that is flushed (R189, R208) -/

theorem mcFlush_of_clean {s : State} {la : Nat} (clean : ∀ l ∈ s.mc, l.line = la → l.dirty = false) (inval : Bool) :
    ∃ mc, s.mcFlush la inval = { s with mc := mc } := by
  unfold State.mcFlush
  split
  next l found =>
    have line : l.line = la := by simpa using List.find?_some found
    rw [clean l (List.mem_of_find?_eq_some found) line]
    exact ⟨_, rfl⟩
  next => exact ⟨_, rfl⟩

theorem l1Drop_drops {s : State} (rising : Rising s.cores) (c : Nat) (f : L1Line → Bool) :
    ∀ l ∈ ((s.l1Drop c f).core c).l1, f l = false := by
  intro l kept
  have core : (s.l1Drop c f).core c = _ := core_setCore_same rising c _
  rw [core] at kept
  simpa using (List.mem_filter.mp kept).2

/-- R345: neither FLUSH nor INVAL is counted as a hit or a miss. -/
theorem cacheEvents_of_flush {a : Access} (op : a.kind = .flush ∨ a.kind = .inval) (s : State) (e : Elem) (addr : Nat) :
    s.cacheEvents a e addr = s := by
  obtain op | op := op <;> simp [State.cacheEvents, op]

/-- FLUSH and INVAL of a line that is not dirty write nothing: the line leaves the L1 of the core, under both of its addresses. -/
theorem doElem_of_clean {s : State} {a : Access} {e : Elem} {sid h : Nat} (own : a.sid = sid) (op : a.kind = .flush ∨ a.kind = .inval)
    (place : a.place = .phys) (served : s.migrate a.vd e.addr = some h) (clean : ∀ l ∈ s.mc, l.line = h / 128 → l.dirty = false) :
    ∃ mc, (s.doElem a e).1 = State.l1Drop { s with mc := mc } (coreOf sid) fun l => l.line == h / 128 || l.line == e.addr / 128 := by
  have uncounted := cacheEvents_of_flush op s e h
  obtain op | op := op
  case inl =>
    obtain ⟨mc, flushed⟩ := mcFlush_of_clean clean false
    exact ⟨mc, by simp only [State.doElem, place, served, op, uncounted, flushed, own]⟩
  case inr =>
    obtain ⟨mc, flushed⟩ := mcFlush_of_clean clean true
    exact ⟨mc, by simp only [State.doElem, place, served, op, uncounted, flushed, own]⟩

/-! ## The words (R208, R211) -/

theorem lineAddr_eq (base : Word) (imm : Nat) : lineAddr base imm = (base + (BitVec.ofNat 12 imm).signExtend 64).toNat := by
  rw [lineAddr, immS, signed_eq_toInt]
  rfl

section
variable {s u : State} {a : GReg} {imm : Fin 4096} {x : Access} {e : Elem}

/-- The words FLUSH and INVAL, by what their accesses do. -/
def CacheOp (a : GReg) (imm : Fin 4096) (kind : AccKind) (i : Instr) : Prop :=
  (kind = .flush ∧ i = .flush a imm) ∨ (kind = .inval ∧ i = .inval a imm)

theorem CacheOp.run {kind : AccKind} {i : Instr} (word : CacheOp a imm kind i) :
    (kind = .flush ∨ kind = .inval) ∧ exec i s = cacheOp kind a imm s := by
  obtain ⟨rfl, rfl⟩ | ⟨rfl, rfl⟩ := word
  · exact ⟨.inl rfl, rfl⟩
  · exact ⟨.inr rfl, rfl⟩

section
variable {kind : AccKind} (ready : s.Ready { src := [.g a], outward := true })
    (passed : s.checkAccess s.cur.sid .vir (s.rg a + (BitVec.ofNat 12 imm).signExtend 64).toNat 1 .read .touch = (u, .ok x))
    (cycles : x.cycles = [[e]])
include ready passed cycles

/-- FLUSH and INVAL have nothing to do through a relay window and outside device memory. -/
theorem cacheOp_of_uncached (uncached : e.relay ≠ none ∨ (isNear e.addr = false ∧ isFar e.addr = false)) :
    cacheOp kind a imm s = .next { u with last := .done } := by
  rw [cacheOp, word_ready ready]
  simp only [lineAddr_eq, passed, checked, window_single cycles, cycles]
  obtain relayed | ⟨near, far⟩ := uncached
  · rw [if_pos (Option.isSome_iff_ne_none.mpr relayed), finish_ok]
  · rw [near, far, Bool.or_self, Bool.not_false, if_pos rfl, ite_self, finish_ok]

variable (plain : e.relay = none) (memory : isNear e.addr = true ∨ isFar e.addr = true) {h : Nat}
    (served : u.migrate x.vd e.addr = some h)
include plain memory served

theorem cacheOp_of_dirty (dirty : ∃ l ∈ u.mc, l.line = h / 128 ∧ l.dirty = true) :
    cacheOp kind a imm s = finish s (u.issueAccess { x with kind := kind } 0) := by
  have present : (u.mc.any fun l => l.line == h / 128 && l.dirty) = true := by simpa using dirty
  rw [cacheOp, word_ready ready]
  simp only [lineAddr_eq, passed, checked, window_single cycles, cycles, plain, served, present, Bool.or_eq_true_iff.mpr memory,
    Option.isSome_none, Bool.not_true, Bool.false_and, Bool.false_eq_true, if_false]

theorem cacheOp_of_clean (clean : ∀ l ∈ u.mc, l.line = h / 128 → l.dirty = false)
    (alone : ∀ o ∈ u.accesses, o.2.sid ≠ s.cur.sid) :
    cacheOp kind a imm s = .next { (u.doElem { x with kind := kind } e).1 with last := .done } := by
  have absent : (u.mc.any fun l => l.line == h / 128 && l.dirty) = false := by simpa using clean
  have free (b : Access) : (u.accesses.any fun o => o.2.sid == u.cur.sid && o.2.blocks b) = false := by
    rw [checkAccess_cur passed, List.any_eq_false]
    intro o flying
    simp [alone o flying]
  rw [cacheOp, word_ready ready]
  simp only [lineAddr_eq, passed, checked, window_single cycles, cycles, plain, served, absent, free, Bool.or_eq_true_iff.mpr memory,
    Option.isSome_none, Bool.not_true, Bool.false_eq_true, if_false]
  rfl

variable {i : Instr} (op : CacheOp a imm kind i)
include op

/-- R208: the write-back of a dirty line starts. -/
theorem CacheOp.starts (dirty : ∃ l ∈ u.mc, l.line = h / 128 ∧ l.dirty = true) : Claims.Starts i s u x e kind none := by
  obtain ⟨flush, run⟩ := op.run (s := s)
  obtain ⟨-, place, owed⟩ := checkAccess_vir passed
  obtain ⟨home, rank, earliest, p, issued⟩ := issueAccess_of_lineOp (u := u) place owed (.inr flush)
  refine starts_of_startAccess cycles owed (home := home) (rank := rank) (earliest := earliest) (p := p) (pmax := p) ?_
  rw [run, cacheOp_of_dirty ready passed cycles plain memory served dirty, issued]

/-- R208: for a line that is absent or clean the word ends at once, and the core's L1 has lost the line. -/
theorem CacheOp.ends (rising : Rising u.cores) (clean : ∀ l ∈ u.mc, l.line = h / 128 → l.dirty = false)
    (alone : ∀ o ∈ u.accesses, o.2.sid ≠ s.cur.sid) : ∃ t, exec i s = .next t ∧ t.last = .done ∧ t.accesses = u.accesses ∧
      t.strands = u.strands ∧ ∀ l ∈ (t.core (coreOf s.cur.sid)).l1, l.line ≠ h / 128 ∧ l.line ≠ e.addr / 128 := by
  obtain ⟨flush, run⟩ := op.run (s := s)
  obtain ⟨sid, place, -⟩ := checkAccess_vir passed
  obtain ⟨mc, dropped⟩ := doElem_of_clean (a := { x with kind := kind }) sid flush place served clean
  rw [cacheOp_of_clean ready passed cycles plain memory served clean alone, dropped] at run
  exact ⟨_, run, rfl, rfl, rfl, fun l left => by simpa using l1Drop_drops (s := { u with mc := mc }) rising _ _ l left⟩

end

theorem pref_of_scored (ready : s.Ready { src := [.g a] }) (scored : s.scored s.cur.sid = true) : Does (.pref a imm) s s := by
  change finish s (word s _ _) = _
  rw [word_ready ready, if_pos scored, finish_ok]

theorem pref_of_free (ready : s.Ready { src := [.g a] }) (free : s.scored s.cur.sid = false)
    (passed : s.checkAccess s.cur.sid .vir (s.rg a + (BitVec.ofNat 12 imm).signExtend 64).toNat 1 .read .plain = (u, .ok x))
    (cycles : x.cycles = [[e]]) : if x.cached then Claims.Starts (.pref a imm) s u x e .pref none else Does (.pref a imm) s u := by
  obtain ⟨-, place, owed⟩ := checkAccess_vir passed
  have run : exec (.pref a imm) s = finish s (if x.cached then u.issueAccess { x with kind := .pref } 0 else .ok u) := by
    change finish s (word s _ _) = _
    rw [word_ready ready, if_neg (Bool.eq_false_iff.mp free), lineAddr_eq, passed]
  split
  next cached =>
    obtain ⟨home, rank, earliest, p, issued⟩ := issueAccess_of_lineOp (u := u) place owed (.inl rfl)
    exact starts_of_startAccess cycles owed (by rw [run, if_pos cached, issued])
  next uncached => rw [Does, run, if_neg uncached, finish_ok]

theorem rpub_starts {w : Nat} (ready : s.Ready { src := [.g a], outward := true })
    (passed : s.checkAccess s.cur.sid .vir (s.rg a).toNat 1 .read .touch = (u, .ok x)) (cycles : x.cycles = [[e]])
    (owner : e.relay = some (w, true)) (sound : (u.key x.vd).inthold = false) (more : (u.key (192 + w)).pubgen ≠ 2 ^ 31 - 1)
    (checked : u.checksPending x.vd = false) : Claims.Starts (.rpub a) s u x e (.rpub w) none := by
  obtain ⟨-, -, owed⟩ := checkAccess_vir passed
  refine starts_of_startAccess (home := x.home) (rank := x.rank) (earliest := x.earliest) cycles owed ?_ (p := 0) (pmax := 0)
  change finish s (word s _ _) = _
  rw [word_ready ready, passed]
  simp only [Machine.checked, window_single cycles, owner, sound, checked, more, Bool.false_eq_true, or_self, if_false]

end

/-! ## FENCE (R210) -/

section
variable {s : State} {d : GReg} {sc : Scope} {mask : Fin 64} (ready : s.Ready { dst := [.g d], outward := true })

/-- A FENCE that lands the peer errors, if it waits for the fabric, on a machine that its L1 rule leaves as v. -/
theorem fence_lands {v : State} (cur : v.cur = s.cur)
    (run : exec (.fence d sc mask) s = finish s (.ok ((v.takePeerErr s.cur.sid mask).2.landG d (v.takePeerErr s.cur.sid mask).1 2))) :
    if mask.val.testBit 4 then
      Does (.fence d sc mask) s ((v.modMe fun y => { y with peererr := 0 }).landG d (v.me.peererr.setWidth 64) 2)
    else Does (.fence d sc mask) s (v.landG d 0 2) := by
  rw [← cur, State.takePeerErr] at run
  split
  next fabric =>
    rw [if_pos fabric] at run
    exact run
  next other =>
    rw [if_neg other] at run
    exact run

include ready

theorem fence_of_scored (scored : s.scored s.cur.sid = true) :
    exec (.fence d sc mask) s = finish s (.ok ((s.takePeerErr s.cur.sid mask).2.landG d (s.takePeerErr s.cur.sid mask).1 2)) := by
  change finish s (word s _ _) = _
  rw [word_ready ready]
  dsimp only
  rw [if_pos scored]

variable (free : s.scored s.cur.sid = false)
include free

theorem fence_of_done (done : s.fenceDone s.cur.sid s.seqNo sc mask = true) : exec (.fence d sc mask) s =
    finish s (.ok (((s.fenceL1 s.cur.sid sc mask).takePeerErr s.cur.sid mask).2.landG d
      ((s.fenceL1 s.cur.sid sc mask).takePeerErr s.cur.sid mask).1 2)) := by
  change finish s (word s _ _) = _
  rw [word_ready ready]
  dsimp only
  rw [if_neg (Bool.eq_false_iff.mp free), if_pos done]

theorem fence_waits (rising : Rising s.strands) (open_ : s.fenceDone s.cur.sid s.seqNo sc mask = false) :
    ∃ t, exec (.fence d sc mask) s = .next t ∧ t.last = .done ∧ t.me.wait = some (.fence d sc mask s.seqNo s.turn) ∧
      t.mem = s.mem ∧ t.spad = s.spad := by
  have owing : ∃ v x, (if d = 0 then s else s.promise (.g d) false) = v ∧ Becomes s v x ∧ x.launch = s.me.launch ∧
      x.seq = s.me.seq := by
    split
    · exact ⟨_, _, rfl, ⟨rfl, rising, rfl, fun _ _ => rfl⟩, rfl, rfl⟩
    · exact ⟨_, _, rfl, modMe_becomes rising _, rfl, rfl⟩
  obtain ⟨v, x, promises, owes, launch, seq⟩ := owing
  have waits := owes.trans (modMe_becomes owes.rising fun y => { y with wait := some (.fence d sc mask v.seqNo v.turn) })
  have run : exec (.fence d sc mask) s =
      .next { v.modMe fun y => { y with wait := some (.fence d sc mask v.seqNo v.turn) } with last := .done } := by
    change finish s (word s _ _) = _
    rw [word_ready ready]
    dsimp only
    rw [if_neg (Bool.eq_false_iff.mp free), if_neg (Bool.eq_false_iff.mp open_), promises, finish_ok]
  refine ⟨_, run, rfl, (congrArg Strand.wait waits.me).trans ?_, waits.read State.mem, waits.read State.spad⟩
  rw [owes.turn launch, State.seqNo, owes.me, seq]
  rfl

end

theorem fenceL1_cur (s : State) (sid : Nat) (sc : Scope) (mask : Nat) : (s.fenceL1 sid sc mask).cur = s.cur := by
  unfold State.fenceL1
  split <;> rfl

/-- Settles O29: PREF, FLUSH and INVAL by what the checks and the caches say of the line, RPUB, and FENCE by what is outstanding. -/
theorem cacheAndFenceWords : Obligations.CacheAndFenceWords := by
  intro s u a d imm sc mask x e canon cycles ea
  refine ⟨pref_of_scored, fun ready free passed _ => pref_of_free ready free passed cycles, fun ready passed _ => ⟨?line, ?uncached⟩,
    fun w ready passed owner sound more checked => rpub_starts ready passed cycles owner sound more checked,
    fun ready scored => fence_lands rfl (fence_of_scored ready scored),
    fun ready free done => fence_lands (fenceL1_cur ..) (fence_of_done ready free done),
    fun ready free open_ => fence_waits ready free canon.rstrands open_⟩
  case uncached =>
    exact fun uncached => ⟨cacheOp_of_uncached (kind := .flush) ready passed cycles uncached,
      cacheOp_of_uncached (kind := .inval) ready passed cycles uncached⟩
  case line =>
    intro h plain memory served
    have flush : CacheOp a imm .flush (.flush a imm) := .inl ⟨rfl, rfl⟩
    have inval : CacheOp a imm .inval (.inval a imm) := .inr ⟨rfl, rfl⟩
    refine ⟨fun dirty => ⟨flush.starts ready passed cycles plain memory served dirty,
      inval.starts ready passed cycles plain memory served dirty⟩, fun clean alone i op => ?_⟩
    have rising : Rising u.cores := (State.checkAccess_canon_fwd2 passed canon).rcores
    simp only [List.mem_cons, List.not_mem_nil, or_false] at op
    obtain rfl | rfl := op
    · exact flush.ends ready passed cycles plain memory served rising clean alone
    · exact inval.ends ready passed cycles plain memory served rising clean alone

end Sys2Proof.Machine
end

section
/-! Laws of scratchpad bytes (R181): what is read after bytes have been put, and the number that bytes hold (R4). -/
namespace Sys2Proof.Machine

/-! ## Numbers in bytes -/

theorem ofBytes_toBytes (n x : Nat) : ofBytes (toBytes n x) = x % 2 ^ (8 * n) := by
  induction n generalizing x with
  | zero => simp [toBytes, ofBytes, Nat.mod_one]
  | succ n ih =>
    rw [toBytes, ofBytes, ih, BitVec.toNat_ofNat, Nat.mul_succ, Nat.pow_add, Nat.mul_comm (2 ^ (8 * n)), Nat.mod_mul]

theorem length_toBytes (n x : Nat) : (toBytes n x).length = n := by
  induction n generalizing x with
  | zero => rfl
  | succ n ih => rw [toBytes, List.length_cons, ih]

theorem ofBytes_lt (bs : List Byte) : ofBytes bs < 2 ^ (8 * bs.length) := by
  induction bs with
  | nil => decide
  | cons b bs ih =>
    rw [ofBytes, List.length_cons, Nat.mul_succ, Nat.pow_add]
    have := b.isLt
    omega

/-! ## Bytes of a scratchpad -/

theorem spadKey_inj {c k p q : Nat} (hp : p < 524288) (hq : q < 524288) : spadKey k q = spadKey c p ↔ k = c ∧ q = p := by
  unfold spadKey
  omega

theorem length_spadRead (s : State) (c : Nat) : (n off : Nat) → (s.spadRead c off n).length = n
  | 0, _ => rfl
  | n + 1, off => congrArg Nat.succ (length_spadRead s c n (off + 1))

theorem spadRead_congr {s t : State} (h : t.spad = s.spad) (c : Nat) : (n off : Nat) → t.spadRead c off n = s.spadRead c off n
  | 0, _ => rfl
  | n + 1, off => by rw [State.spadRead, State.spadRead, h, spadRead_congr h c n (off + 1)]

section
variable {m : Sparse Byte} {c off : Nat} {bs : List Byte} (wf : Memory.wf m = true) (within : off + bs.length ≤ 524288)
include wf within

/-- Bytes put leave every other byte. -/
theorem tget_spadPuts_other {k q : Nat} (hq : q < 524288) (other : k ≠ c ∨ q < off ∨ off + bs.length ≤ q) :
    tget 0 (spadKey k q) (spadPuts m c off bs) = tget 0 (spadKey k q) m := by
  induction bs generalizing m off with
  | nil => rfl
  | cons b bs ih =>
    rw [List.length_cons] at within other
    rw [spadPuts, ih (wf_tput0 wf) (by omega) (by omega)]
    refine (tget_tput 0 _ _ b m wf).trans (if_neg ?_)
    rw [spadKey_inj (by omega) hq]
    omega

/-- Bytes put are read back. -/
theorem spadRead_of_spadPuts {t : State} (put : t.spad = spadPuts m c off bs) : t.spadRead c off bs.length = bs := by
  induction bs generalizing m off with
  | nil => rfl
  | cons b bs ih =>
    rw [List.length_cons] at within
    have rest := ih (m := tput 0 (spadKey c off) b m) (off := off + 1) (wf_tput0 wf) (by omega) put
    have first : tget 0 (spadKey c off) (spadPuts (tput 0 (spadKey c off) b m) c (off + 1) bs) = b := by
      rw [tget_spadPuts_other (wf_tput0 wf) (by omega) (by omega) (by omega)]
      exact (tget_tput 0 _ _ b m wf).trans (if_pos rfl)
    rw [List.length_cons, State.spadRead, rest, put, spadPuts, first]

end

section
variable {s t : State} {c off n v : Nat} (wf : Memory.wf s.spad = true) (within : off + n ≤ 524288)
    (put : t.spad = spadPuts s.spad c off (toBytes n v))
include wf within put

theorem ofBytes_spadRead_of_put : ofBytes (t.spadRead c off n) = v % 2 ^ (8 * n) := by
  have read := spadRead_of_spadPuts wf (by rwa [length_toBytes]) put
  rw [length_toBytes] at read
  rw [read, ofBytes_toBytes]

theorem spadRead_one_of_put {k q : Nat} (hq : q < 524288) (other : k ≠ c ∨ q < off ∨ off + n ≤ q) :
    t.spadRead k q 1 = s.spadRead k q 1 := by
  simp only [State.spadRead, put]
  rw [tget_spadPuts_other wf (by rwa [length_toBytes]) hq (by rwa [length_toBytes])]

end

end Sys2Proof.Machine
end

section
/-! Laws of scalar accesses to raw scratchpad bytes (R186, R204, R207): what the one access cycle of such an access performs, and what is
left once its result has been delivered (R72). -/
namespace Sys2Proof.Machine

/-! ## The memory-side cache (R190) -/

/-- A state without what a touch of the memory-side cache changes. -/
def State.decached (s : State) : State := { s with mc := [], monHits := [], monTags := [], ctrCache := [], agenda := [] }

theorem monitor_decached (s : State) (la part : Nat) : (s.monitor la part).decached = s.decached := by
  unfold State.monitor
  dsimp only
  split
  · split <;> rfl
  · rfl

theorem mcTouch_decached (s : State) (pa kid : Nat) (part : Option Nat) (write : Bool) :
    (s.mcTouch pa kid part write).1.decached = s.decached := by
  unfold State.mcTouch
  extract_lets +onlyGivenNames la u
  have monitored : u.decached = s.decached := by
    unfold u
    split
    · exact monitor_decached ..
    · rfl
  clear_value u
  rw [← monitored]
  dsimp only
  split
  next hit => rfl
  next miss =>
    have walked : (if isNear pa || isFar pa then u.cachePath (pa / 4096) else u).decached = u.decached := by split <;> rfl
    generalize (if isNear pa || isFar pa then u.cachePath (pa / 4096) else u) = w at walked ⊢
    split
    next way => exact walked
    next full =>
      split
      next => exact (apply_ite State.decached _ _ _).trans ((ite_self _).trans walked)
      next => split <;> exact walked

theorem homeTouch_decached (s : State) (a : Access) (e : Elem) (addr : Nat) : (s.homeTouch a e addr).decached = s.decached := by
  unfold State.homeTouch
  split
  · exact mcTouch_decached ..
  · rfl

/-! ## One element at its bank (R204, R207) -/

/-- The number in the bytes of an element of raw scratchpad bytes. -/
def State.rawAt (s : State) (a : Access) (e : Elem) : Nat := ofBytes (s.spadRead (e.addr / 524288) (e.addr % 524288) a.bytes)

theorem rawAt_cores (s : State) (cores : Sparse Core) (a : Access) (e : Elem) : State.rawAt { s with cores := cores } a e = s.rawAt a e :=
  congrArg ofBytes (spadRead_congr (s := s) (t := { s with cores := cores }) rfl ..)

/-- The number that an access puts there, where it writes: the low bytes of its data, or the value of its table. -/
def Access.puts (a : Access) (e : Elem) (old : Nat) : Option Nat :=
  match a.kind with
  | .store => some e.data.toNat
  | .amo op => some (op.new a.bytes old (e.data.toNat % 2 ^ (8 * a.bytes)) (e.exp.toNat % 2 ^ (8 * a.bytes)))
  | _ => none

section
variable {a : Access} (e : Elem) (old : Nat)

theorem puts_of_load (kind : a.kind = .load) : a.puts e old = none := by rw [Access.puts, kind]

theorem puts_of_store (kind : a.kind = .store) : a.puts e old = some e.data.toNat := by rw [Access.puts, kind]

theorem puts_of_amo {op : AmoOp} (kind : a.kind = .amo op) : a.puts e old =
    some (op.new a.bytes old (e.data.toNat % 2 ^ (8 * a.bytes)) (e.exp.toNat % 2 ^ (8 * a.bytes))) := by rw [Access.puts, kind]

end

/-- What a scalar access to raw scratchpad bytes leaves of s, and the value acc that it has loaded where it delivers one. -/
structure Performed (s u : State) (a : Access) (e : Elem) (acc : Wide) : Prop where
  mem : u.mem = s.mem
  accesses : u.accesses = s.accesses
  strands : u.strands = s.strands
  kept : a.puts e (s.rawAt a e) = none → u.spad = s.spad
  put : ∀ v, a.puts e (s.rawAt a e) = some v →
    u.spad = spadPuts s.spad (e.addr / 524288) (e.addr % 524288) (toBytes a.bytes v)
  loaded : (a.kind = .load ∨ ∃ op, a.kind = .amo op) → a.dst.isSome = true → acc = extendTo a.sext (8 * a.bytes) (s.rawAt a e)

theorem Performed.of_cores {s u : State} {cores : Sparse Core} {a : Access} {e : Elem} {acc : Wide}
    (performed : Performed { s with cores := cores } u a e acc) : Performed s u a e acc := by
  obtain ⟨mem, accesses, strands, kept, put, loaded⟩ := performed
  rw [rawAt_cores] at kept put loaded
  exact ⟨mem, accesses, strands, kept, put, loaded⟩

section
variable {s : State} {a : Access} {e : Elem} {c : Nat} (place : a.place = .spad c)
include place

theorem cacheEvents_of_spad (addr : Nat) : s.cacheEvents a e addr = s := by
  simp [State.cacheEvents, place]

theorem accWrite_of_spad (addr : Nat) (bs : List Byte) : s.accWrite a e addr bs = s.spadWrite (addr / 524288) (addr % 524288) bs := by
  rw [State.accWrite, place]

theorem accRead_of_spad (raw : e.win = 0) : s.accRead a e e.addr = (s.rawAt a e, false) := by
  rw [State.accRead, place, raw]
  rfl

omit place in
theorem spadWrite_performed {v : Nat} {acc : Wide} (puts : a.puts e (s.rawAt a e) = some v)
    (loaded : (a.kind = .load ∨ ∃ op, a.kind = .amo op) → a.dst.isSome = true → acc = extendTo a.sext (8 * a.bytes) (s.rawAt a e)) :
    Performed s (s.spadWrite (e.addr / 524288) (e.addr % 524288) (toBytes a.bytes v)) a e acc := by
  have written := spadWrite_unowed s (e.addr / 524288) (e.addr % 524288) (toBytes a.bytes v)
  refine ⟨(congrArg State.mem written :), (congrArg State.accesses written :), (congrArg State.strands written :), ?_, ?_, loaded⟩
  · simp [puts]
  · intro w other
    rw [← Option.some.inj (puts.symm.trans other)]
    exact (congrArg State.spad written :)

omit place in
/-- A scalar takes the value extended, whole. -/
theorem gather_scalar (scalar : a.vec = false) (i v : Nat) : a.gather i v = { a with acc := extendTo a.sext (8 * a.bytes) v } :=
  if_neg (Bool.eq_false_iff.mp scalar)

theorem doElem_load_spad (kind : a.kind = .load) (raw : e.win = 0) :
    s.doElem a e = (s.homeTouch a e e.addr, a.gather e.idx (s.rawAt a e)) := by
  simp [State.doElem, place, kind, cacheEvents_of_spad place, accRead_of_spad place raw]

theorem doElem_store_spad (kind : a.kind = .store) :
    s.doElem a e = (s.spadWrite (e.addr / 524288) (e.addr % 524288) (toBytes a.bytes e.data.toNat), a) := by
  simp [State.doElem, place, kind, cacheEvents_of_spad place, accWrite_of_spad place]

theorem doElem_amo_spad {op : AmoOp} (kind : a.kind = .amo op) (raw : e.win = 0) :
    s.doElem a e = (s.spadWrite (e.addr / 524288) (e.addr % 524288) (toBytes a.bytes
      (op.new a.bytes (s.rawAt a e) (e.data.toNat % 2 ^ (8 * a.bytes)) (e.exp.toNat % 2 ^ (8 * a.bytes)))),
      if a.dst.isSome then a.gather e.idx (s.rawAt a e) else a) := by
  simp [State.doElem, place, kind, cacheEvents_of_spad place, accWrite_of_spad place, accRead_of_spad place raw]

theorem doElem_performed (kind : a.kind = .load ∨ a.kind = .store ∨ ∃ op, a.kind = .amo op) (raw : e.win = 0)
    (scalar : a.vec = false) : ∃ u acc, s.doElem a e = (u, { a with acc := acc }) ∧ Performed s u a e acc := by
  obtain kind | kind | ⟨op, kind⟩ := kind
  case inl =>
    have kept := homeTouch_decached s a e e.addr
    have spad : (s.homeTouch a e e.addr).spad = s.spad := (congrArg State.spad kept :)
    rw [doElem_load_spad place kind raw, gather_scalar scalar]
    exact ⟨_, _, rfl, (congrArg State.mem kept :), (congrArg State.accesses kept :), (congrArg State.strands kept :),
      fun _ => spad, fun _ puts => by simp [puts_of_load e _ kind] at puts, fun _ _ => rfl⟩
  case inr.inl =>
    rw [doElem_store_spad place kind]
    exact ⟨_, a.acc, rfl, spadWrite_performed (puts_of_store e _ kind) (by simp [kind])⟩
  case inr.inr =>
    rw [doElem_amo_spad place kind raw, gather_scalar scalar]
    refine ⟨_, if a.dst.isSome then extendTo a.sext (8 * a.bytes) (s.rawAt a e) else a.acc, ?_,
      spadWrite_performed (puts_of_amo e _ kind) fun _ delivers => if_pos delivers⟩
    split <;> rfl

/-! ## One access cycle (R186) -/

omit place in
theorem takeBanks_cores {t : State} {k : Nat} {banks : BitVec 32} (taken : s.takeBanks k banks = some t) :
    ∃ cores, t = { s with cores := cores } := by
  unfold State.takeBanks at taken
  dsimp only at taken
  split at taken
  next => exact ⟨_, (Option.some.inj taken).symm⟩
  next => cases taken

/-- The one cycle of a scalar access whose banks are free performs its element. -/
theorem accessCycle_performed (cycles : a.cycles = [[e]]) (kind : a.kind = .load ∨ a.kind = .store ∨ ∃ op, a.kind = .amo op)
    (raw : e.win = 0) (scalar : a.vec = false) (free : (s.accessCycle a).isSome = true) : ∃ u acc,
    s.accessCycle a = some (u, { a with acc := acc, cycles := [], done := a.done + 1 }) ∧ Performed s u a e acc := by
  have single : [e.addr / 524288].eraseDups = [e.addr / 524288] := rfl
  unfold State.accessCycle at free ⊢
  simp only [cycles, single, List.map_cons, List.map_nil, List.foldl_cons, List.foldl_nil] at free ⊢
  split
  next refused => simp [refused] at free
  next t granted =>
    have taken : ∃ cores, t = { s with cores := cores } := by
      rw [place] at granted
      dsimp only at granted
      split at granted
      next busy => cases granted
      next quiet => exact takeBanks_cores granted
    obtain ⟨cores, rfl⟩ := taken
    obtain ⟨u, acc, elem, performed⟩ := doElem_performed (s := { s with cores := cores }) place kind raw scalar
    exact ⟨u, acc, by rw [State.doElems, elem]; rfl, performed.of_cores⟩

omit place in
/-- An access that nothing holds back performs its last access cycle: on a scored core at its bank cycle, on a free one within its bound. -/
theorem bankAccess_runs {u : State} {b : Access} {id : Nat} (found : s.access id = some a) (planned : a.done < a.plan)
    (waits : s.accessWaits id a = false) (pair : s.pairWaits a = false) (accepted : s.refusesAccess a = false)
    (cycle : s.accessCycle a = some (u, b)) (last : b.cycles = []) :
    exec (if a.scored then .scoredBankAccess id else .freeAccessComplete id) s = .next (u.finishAccess id b) := by
  split
  next scored =>
    change execScoredBankAccess id s = _
    have more : ¬(a.done ≥ a.plan ∧ a.cycles ≠ []) := fun done => Nat.not_le.mpr planned done.1
    simp only [execScoredBankAccess, found, if_neg more, cycle, last, List.isEmpty_nil, if_true]
  next free =>
    change Host.Outcome.next (s.freeAccess id) = _
    simp only [State.freeAccess, found, pair, accepted, waits, cycle, last, List.isEmpty_nil, Bool.false_eq_true, if_false, if_true]

/-! ## What lands (R72, R204) -/

section
variable {id : Nat} (live : (s.strand a.sid).slot ≠ .idle) (scalar : a.vec = false) (clean : a.flags = 0)
include live scalar clean

/-- A scalar access to scratchpad that is over is in flight no longer, and delivers to its strand, to a register of g what it has loaded. -/
theorem finishAccess_of_spad : ∃ due, Confined a.sid (s.dropAccess id) (s.finishAccess id a) ∧
    ∀ r, a.dst = some (.g r) → s.finishAccess id a = (s.dropAccess id).deliver a.sid a.seq (.g r) a.acc a.msk due := by
  have delivered (u : State) (d : Dst) (v mask : Wide) (due : Nat) : Confined a.sid u (u.deliver a.sid a.seq d v mask due) :=
    (deliver_keepsPart u a.seq due d (part := Strand.standing) (fun _ _ => rfl) v mask).toConfined
  have beyond : (Place.spad c == Place.phys) = false := rfl
  unfold State.finishAccess
  extract_lets +onlyGivenNames u
  rw [if_neg (show (u.strand a.sid).slot ≠ .idle from live)]
  extract_lets +onlyGivenNames due
  refine ⟨due, ?_⟩
  clear_value due
  simp only [if_pos clean, place, scalar, beyond, Bool.and_false, Bool.false_and, Bool.false_eq_true, if_false]
  refine ⟨?confined, fun r dst => by rw [dst]⟩
  split
  next d _ =>
    split
    next r => exact (delivered ..).trans (delivered ..)
    next => exact delivered ..
  next => exact (KeepsPart.refl (part := Strand.standing) _).toConfined

end

end

theorem Confined.accesses {s t : State} {sid : Nat} (h : Confined sid s t) : t.accesses = s.accesses :=
  show t.beyond.accesses = s.beyond.accesses by rw [h.beyond]

theorem mem_pend_deliver {s : State} (rising : Rising s.strands) {sid seq due : Nat} {d : Dst} {v mask : Wide} {p : Pend}
    (owed : p ∈ (s.strand sid).pend) (word : p.seq = seq) (dst : p.dst = d) (unknown : p.due = none) :
    { p with val := some v, mask := mask, due := some due } ∈ ((s.deliver sid seq d v mask due).strand sid).pend := by
  have strand : (s.deliver sid seq d v mask due).strand sid = _ := strand_setStrand_same rising sid _
  rw [strand]
  exact List.mem_map.mpr ⟨p, owed, if_pos ⟨word, dst, unknown⟩⟩

/-! ## The whole access -/

/-- What a scalar access to raw scratchpad bytes has done in t, once it is over. -/
structure Done (s t : State) (id : Nat) (a : Access) (e : Elem) : Prop where
  accesses : t.accesses = unbind id s.accesses
  mem : t.mem = s.mem
  kept : a.puts e (s.rawAt a e) = none → t.spad = s.spad
  put : ∀ v, a.puts e (s.rawAt a e) = some v →
    t.spad = spadPuts s.spad (e.addr / 524288) (e.addr % 524288) (toBytes a.bytes v)
  result : ∀ r p, (a.kind = .load ∨ ∃ op, a.kind = .amo op) → a.dst = some (.g r) → p ∈ (s.strand a.sid).pend →
    p.seq = a.seq → p.dst = .g r → p.due = none → ∃ mask due,
      { p with val := some (extendTo a.sext (8 * a.bytes) (s.rawAt a e)), mask := mask, due := some due } ∈ (t.strand a.sid).pend

theorem finishAccess_done {s u : State} {id c n : Nat} {a : Access} {e : Elem} {acc : Wide} (rising : Rising s.strands)
    (place : a.place = .spad c) (scalar : a.vec = false) (clean : a.flags = 0) (live : (s.strand a.sid).slot ≠ .idle)
    (performed : Performed s u a e acc) : Done s (u.finishAccess id { a with acc := acc, cycles := [], done := n }) id a e := by
  obtain ⟨mem, accesses, strands, kept, put, loaded⟩ := performed
  have strand : u.strand a.sid = s.strand a.sid := by rw [State.strand, strands, State.strand]
  obtain ⟨due, ended, lands⟩ := finishAccess_of_spad (id := id) (a := { a with acc := acc, cycles := [], done := n }) place
    (strand ▸ live) scalar clean
  refine ⟨ended.accesses.trans (congrArg (unbind id) accesses), ended.mem.trans mem, fun reads => ended.spad.trans (kept reads),
    fun v puts => ended.spad.trans (put v puts), fun r p loads dst owed word reg unknown => ?_⟩
  rw [lands r dst, ← loaded loads (Option.isSome_of_eq_some dst)]
  exact ⟨a.msk, due, mem_pend_deliver (s := u.dropAccess id) (strands ▸ rising) (strand.symm ▸ owed) word reg unknown⟩

end Sys2Proof.Machine
end

section
/-! Proof of the statement on accesses performed in scratchpad (O27), from the laws of such accesses and of scratchpad bytes. -/
namespace Sys2Proof.Machine

theorem setWidth_extendTo {m v : Nat} (below : v < 2 ^ m) (signs : Bool) :
    (extendTo signs m v).setWidth 64 = if signs then (BitVec.ofNat m v).signExtend 64 else BitVec.ofNat 64 v := by
  have back (w : Word) : (w.setWidth 65536).setWidth 64 = w := by simp
  cases signs
  · rw [extendTo, if_neg Bool.false_ne_true, back, zext, Nat.mod_eq_of_lt below, if_neg Bool.false_ne_true]
  · rw [extendTo, if_pos rfl, back, sext, signed_eq_toInt, if_pos rfl]
    rfl

/-- R207: of numbers of n bytes the operation is a number of n bytes. -/
theorem AmoOp.new_lt (op : AmoOp) {n old y : Nat} (x : Nat) (hold : old < 2 ^ (8 * n)) (hy : y < 2 ^ (8 * n)) :
    op.new n old y x < 2 ^ (8 * n) := by
  cases op
  case add => exact Nat.mod_lt _ (Nat.two_pow_pos _)
  case and => exact Nat.and_lt_two_pow _ hy
  case or => exact Nat.or_lt_two_pow hold hy
  case xor => exact Nat.xor_lt_two_pow hold hy
  case minn => exact Nat.lt_of_le_of_lt (Nat.min_le_left ..) hold
  case maxn => exact Nat.max_lt.mpr ⟨hold, hy⟩
  case swap => exact hy
  case min | max | cas =>
    unfold AmoOp.new
    dsimp only
    split <;> assumption

/-- Settles O27: the one access cycle performs the element, and what it delivers lands. -/
theorem scratchpadAccesses : Obligations.ScratchpadAccesses := by
  intro s id a e canon c o old n m y run found kind place raw scalar clean cycles planned size within free waits pair accepted live
  obtain ⟨u, acc, cycle, performed⟩ := accessCycle_performed place cycles kind raw scalar free
  have runs := bankAccess_runs found planned waits pair accepted cycle rfl
  obtain ⟨accesses, mem, kept, put, result⟩ := finishAccess_done (id := id) (n := a.done + 1) canon.rstrands place scalar
    clean live performed
  have wf : Memory.wf s.spad = true := canon.wspad
  have small : old < 2 ^ m := by simpa only [length_spadRead] using ofBytes_lt (s.spadRead c o a.bytes)
  have low : y < 2 ^ m := Nat.mod_lt _ (Nat.two_pow_pos _)
  refine ⟨_, runs, accesses, mem, ?others, ?load, ?store, ?amo, ?result⟩
  case others =>
    intro k q other hq
    cases puts : a.puts e (s.rawAt a e) with
    | none => exact spadRead_congr (kept puts) ..
    | some v => exact spadRead_one_of_put wf within (put v puts) hq other
  case load => exact fun load => kept (puts_of_load e _ load)
  case store => exact fun store => ofBytes_spadRead_of_put wf within (put _ (puts_of_store e _ store))
  case amo =>
    intro op amo
    refine (ofBytes_spadRead_of_put wf within (put _ (puts_of_amo e _ amo))).trans
      ((Nat.mod_eq_of_lt (op.new_lt _ small low)).trans ?_)
    cases op
    case minn => exact Nat.min_def ..
    case maxn => exact (Nat.max_comm ..).trans (Nat.max_def ..)
    all_goals rfl
  case result =>
    intro r p loads dst owed word reg unknown
    obtain ⟨mask, due, lands⟩ := result r p loads dst owed word reg unknown
    exact ⟨_, mask, due, lands, setWidth_extendTo small a.sext⟩

end Sys2Proof.Machine
end

section
/-! Proof of the statement on the host link (O59): the TDISP states, the transactions of the host and the management channel, from the
laws of a wake of a partition. -/
namespace Sys2Proof.Machine
open Sys2Proof.Claims

/-! ## Parts of the machine that a wake or a free value leaves -/

section
variable (s : State)

/-- R382: a wake takes a duration from the machine's picks and owes an event, and nothing else. -/
theorem wakePart_eq (p : Nat) : ∃ picks agenda, s.wakePart p = { s with picks := picks, agenda := agenda } := by
  unfold State.wakePart
  dsimp only
  split
  · exact ⟨_, _, rfl⟩
  · unfold State.duration
    split
    · exact ⟨_, _, rfl⟩
    · exact ⟨_, _, rfl⟩

theorem freeBytes_eq : (n : Nat) → (s : State) → ∃ k, (s.freeBytes n).2 = { s with freeCtr := k }
  | 0, _ => ⟨_, rfl⟩
  | n + 1, s => freeBytes_eq n s.freeWord.2

theorem wakePart_linesFault (p a n : Nat) : (s.wakePart p).linesFault a n = s.linesFault a n := by
  obtain ⟨picks, agenda, woken⟩ := wakePart_eq s p
  rw [woken]
  rfl

theorem memRead_of_wake (picks : List Nat) (agenda : List (Stamp × Event)) : (n a : Nat) →
    State.memRead { s with picks := picks, agenda := agenda } a n = s.memRead a n
  | 0, _ => rfl
  | n + 1, a => congrArg (tget memDefault (s.home a) s.mem :: ·) (memRead_of_wake picks agenda n (a + 1))

theorem wakePart_physRead (p a n : Nat) : (s.wakePart p).physRead a n = s.physRead a n := by
  obtain ⟨picks, agenda, woken⟩ := wakePart_eq s p
  rw [woken, State.physRead, memRead_of_wake]
  rfl

theorem wakePart_hostOut (p : Nat) : (s.wakePart p).hostOut = s.hostOut := by
  obtain ⟨picks, agenda, woken⟩ := wakePart_eq s p
  rw [woken]

end

/-! ## The interface of a VD (R236) -/

section
variable {s : State} {v : Nat}

/-- What the host sees of an interface that moves: the VD alone is in another state. -/
theorem setTdisp_moves (rising : Rising s.vds) (st : Tdisp) :
    let t := s.modVd v fun d => { d with tdisp := st }
    t.vd v = { s.vd v with tdisp := st } ∧ (∀ k, k ≠ v → t.vd k = s.vd k) ∧ t.mem = s.mem :=
  ⟨(vd_setVd s v v _ rising).trans (if_pos rfl), fun k other => (vd_setVd s v k _ rising).trans (if_neg other), rfl⟩

theorem exec_lockInterface : exec (.lockInterface v) s =
    .next (if (s.vd v).tdisp = .configUnlocked ∧ s.lockedVds < 64 then s.modVd v fun d => { d with tdisp := .configLocked } else s) := rfl

theorem exec_startInterface : exec (.startInterface v) s =
    .next (if (s.vd v).tdisp = .configLocked then s.modVd v fun d => { d with tdisp := .run } else s) := rfl

theorem exec_stopInterface : exec (.stopInterface v) s = .next (s.modVd v fun d => { d with tdisp := .configUnlocked }) := rfl

end

/-! ## Transactions of the host -/

section
variable {s : State} {x : HostTx}

theorem hostTransaction_outside (run : (s.vd x.vd).tdisp = .run) (foreign : x.ownStream = false) : exec (.hostTransaction x) s =
    .next ((s.setVd x.vd { s.vd x.vd with tdisp := .error }).hostReply x.vd []) := by
  change execHostTransaction x s = _
  rw [execHostTransaction, if_pos ⟨run, foreign⟩]

theorem hostTransaction_closed (closed : (s.vd x.vd).tdisp = .error ∨ (s.vd x.vd).tdisp = .configLocked) :
    exec (.hostTransaction x) s = .next (s.hostReply x.vd []) := by
  have notRun : ¬ ((s.vd x.vd).tdisp = .run ∧ x.ownStream = false) := by
    rintro ⟨run, -⟩
    rw [run] at closed
    exact closed.elim Tdisp.noConfusion Tdisp.noConfusion
  change execHostTransaction x s = _
  rw [execHostTransaction, if_neg notRun, if_pos (by tauto)]

/-- A transaction inside its stream in RUN, to sound lines of frames of the VD, reads or writes the woken machine. -/
theorem hostTransaction_inside (run : (s.vd x.vd).tdisp = .run) (own : x.ownStream = true) (vfs : s.pkg.hostVfs = true)
    (active : (s.vd x.vd).state = 1) (owns : s.vdOwns x.vd x.addr x.data.length = true)
    (sound : s.linesFault x.addr x.data.length = none) :
    let u := s.wakePart (s.vd x.vd).part
    exec (.hostTransaction x) s = .next (if x.write then u.linesWrite x.addr x.data (x.data.length / 64 + 2)
      else u.hostReply x.vd (s.physRead x.addr x.data.length)) := by
  change execHostTransaction x s = _
  rw [execHostTransaction, if_neg (by simp [own]), if_neg (by simp [run, vfs, active, owns])]
  dsimp only
  rw [wakePart_linesFault, sound, wakePart_physRead]

/-! ## The management channel (R387, R388) -/

/-- From stage 0 on a message has the effect t that it has by its kind. -/
theorem mctpMessage_of_stage {m : MgmtMsg} {t : State} (up : s.pkg.stage ≠ 7)
    (effect : execMctpMessage m s = .next (if s.pkg.stage = 7 then s else t)) : exec (.mctpMessage m) s = .next t :=
  effect.trans (by rw [if_neg up])

theorem setLtol_sets (rising : Rising s.parts) (p : Nat) (w : BitVec 32) :
    ((s.setLtol p w).part p).ltol = w ∧ (s.setLtol p w).mem = s.mem ∧ (s.setLtol p w).strands = s.strands := by
  let u := s.modPart p fun r => { r with ltol := w }
  have set : (u.part p).ltol = w := congrArg Partition.ltol ((part_setPart s p p _ rising).trans (if_pos rfl))
  have branches : s.setLtol p w = u.wakePart p ∨ s.setLtol p w = u.now prioStart (.powerStateEntry p) ∨ s.setLtol p w = u := by
    rw [State.setLtol]
    split
    · exact .inl rfl
    · split
      · exact .inr (.inl rfl)
      · exact .inr (.inr rfl)
  obtain woken | owed | plain := branches
  · have beside := wakePart_beside u p
    rw [woken]
    exact ⟨(congrArg Partition.ltol (part_of_beside beside p)).trans set, wakePart_mem u p, (strands_of_beside beside).trans rfl⟩
  · exact owed ▸ ⟨set, rfl, rfl⟩
  · exact plain ▸ ⟨set, rfl, rfl⟩

/-- An answer of n free words: some bytes to the physical function. -/
theorem freeBytes_answered (n : Nat) : let t := (s.freeBytes n).2.hostReply 192 (s.freeBytes n).1
    ∃ bs, t.hostOut = s.hostOut ++ [(192, bs)] ∧ t.mem = s.mem ∧ t.strands = s.strands := by
  obtain ⟨k, free⟩ := freeBytes_eq n s
  dsimp only
  rw [free]
  exact ⟨_, rfl, rfl, rfl⟩

end

/-- Settles O59: the moves of an interface, a transaction by the state of the interface and its stream, and the messages of the
management channel by the stage. -/
theorem hostEvents : Obligations.HostEvents := by
  intro s x v w canon d moved
  refine ⟨fun unlocked few => ?lock, fun not => ?lockless, fun locked => ?start, fun not => ?startless,
    ⟨_, exec_stopInterface, setTdisp_moves canon.rvds _⟩, ?transaction, fun down m => ?down, fun up => ⟨?status, ?ltol, ?free⟩⟩
  case lock => exact ⟨_, exec_lockInterface.trans (by rw [if_pos ⟨unlocked, few⟩]), setTdisp_moves canon.rvds _⟩
  case lockless => exact exec_lockInterface.trans (by rw [if_neg fun both => not.elim (· both.1) (Nat.not_lt.mpr · both.2)])
  case start => exact ⟨_, exec_startInterface.trans (by rw [if_pos locked]), setTdisp_moves canon.rvds _⟩
  case startless => exact exec_startInterface.trans (by rw [if_neg not])
  case transaction =>
    rintro rfl answers
    refine ⟨fun run foreign => ?_, fun closed => ⟨_, hostTransaction_closed closed, rfl, rfl, rfl⟩,
      fun run own vfs active owns sound => ?_⟩
    · have refused := hostTransaction_outside run foreign
      exact ⟨⟨_, refused, rfl, rfl, rfl⟩, _, refused,
        congrArg Vd.tdisp ((vd_setVd s x.vd x.vd _ canon.rvds).trans (if_pos rfl))⟩
    · have inside := hostTransaction_inside run own vfs active owns sound
      refine ⟨fun read => ⟨_, inside.trans (by rw [if_neg (by simp [read])]), ?_⟩, fun write => inside.trans (by rw [if_pos write])⟩
      exact ⟨congrArg (· ++ _) (wakePart_hostOut ..), wakePart_mem .., strands_of_beside (wakePart_beside ..)⟩
  case down =>
    change execMctpMessage m s = _
    unfold execMctpMessage
    rw [if_pos down]
  case status => exact mctpMessage_of_stage up rfl
  case ltol => exact ⟨_, mctpMessage_of_stage up rfl, setLtol_sets canon.rparts v w⟩
  case free =>
    intro m mem
    simp only [List.mem_cons, List.not_mem_nil, or_false] at mem
    obtain rfl | rfl := mem
    · exact ⟨_, mctpMessage_of_stage up rfl, freeBytes_answered 4⟩
    · exact ⟨_, mctpMessage_of_stage up rfl, freeBytes_answered 8⟩

end Sys2Proof.Machine
end

section
/-! Laws of what the privileged words leave alone while they write memory and clear caches (R226, R230, R231, R235): the issuing strand, the
strands and their clocks, the key table and the package registers. -/
namespace Sys2Proof.Machine

/-- The parts of the machine that no write of an engine, no clearing of a cache and no pin of a frame touches, as far as the words of the
privileged tables read them afterwards. -/
structure Roster where
  cur : Cursor
  strands : Sparse Strand
  launches : Sparse Launch
  keys : Sparse KeySlot
  pkg : Pkg

def State.roster (s : State) : Roster := ⟨s.cur, s.strands, s.launches, s.keys, s.pkg⟩

/-- A change of the memory and of its seals alone. It is cited where a plain `rfl` would first compare the memories. -/
theorem roster_of_memory (s : State) (mem : Sparse Byte) (ckpt : Ckpt) (tree : Sparse Nat) (dirty : List Nat) :
    State.roster { s with mem := mem, ckpt := ckpt, tree := tree, dirty := dirty } = s.roster := rfl

section
variable (s : State)

theorem owe_roster (clock : Option Nat) (time prio : Nat) (e : Event) : (s.owe clock time prio e).roster = s.roster := rfl
theorem setLine_roster (la : Nat) (l : Line) : (s.setLine la l).roster = s.roster := rfl
theorem writeNode_roster (level n : Nat) : (s.writeNode level n).roster = s.roster := rfl

/-! ## Performed writes (R346, R349, R372) -/

theorem divert_roster (a : Nat) : (s.divert a).roster = s.roster := by
  have entered (u : Nat) : (s.enterUnit u).roster = s.roster := by
    unfold State.enterUnit
    split
    · rfl
    · split <;> rfl
  have merged (s : State) (u line : Nat) : (s.mergeLine u line).roster = s.roster := by
    unfold State.mergeLine
    split
    · split
      · rfl
      · exact roster_of_memory s _ _ s.tree s.dirty
    · rfl
  rw [divert_eq]
  split
  · exact (merged ..).trans (entered _)
  · rfl

theorem memPut_roster (a : Nat) (b : Byte) : (s.memPut a b).roster = s.roster := by
  unfold State.memPut
  split
  · rfl
  · split
    · exact divert_roster s a
    · rfl

theorem memPuts_roster (a : Nat) : (bs : List Byte) → (s : State) → (s.memPuts a bs).roster = s.roster
  | [], _ => rfl
  | b :: bs, s => (memPuts_roster (a + 1) bs (s.memPut a b)).trans (memPut_roster s a b)

theorem vdschedHook_roster (p : Nat) : (s.vdschedHook p).roster = s.roster := by
  refine foldl_keeps State.roster (fun s x => ?_) _ s
  split
  · rfl
  · split <;> rfl

theorem ctlHook_roster (a n : Nat) : (s.ctlHook a n).roster = s.roster := by
  have guarded (c : Prop) [Decidable c] {t u : State} (h : u.roster = t.roster) : (if c then u else t).roster = t.roster := by
    split
    · exact h
    · rfl
  unfold State.ctlHook
  split
  · rfl
  · extract_lets off hits t1 t2 t3
    have kept1 : t1.roster = s.roster := guarded _ rfl
    have kept2 : t2.roster = t1.roster := guarded _ (vdschedHook_roster ..)
    have kept3 : t3.roster = t2.roster := guarded _ rfl
    refine .trans ?_ (kept3.trans (kept2.trans kept1))
    exact guarded _ rfl

theorem vdctlHook_roster (a n : Nat) : (s.vdctlHook a n).roster = s.roster := by
  unfold State.vdctlHook
  extract_lets v w d set
  split
  · split
    · split
      · rfl
      · split <;> rfl
    · split <;> rfl
  · rfl

theorem memWrite_roster (a : Nat) (bs : List Byte) : (s.memWrite a bs).roster = s.roster := by
  rw [State.memWrite, vdctlHook_roster, ctlHook_roster, memPuts_roster]

/-! ## Writes at the ports (R226, R230) -/

theorem treeBump_roster (level child : Nat) : (s.treeBump level child).roster = s.roster := by
  unfold State.treeBump
  extract_lets +onlyGivenNames c
  split
  · extract_lets +onlyGivenNames kids cleared
    have kept : cleared.roster = s.roster := roster_of_memory s s.mem s.ckpt _ s.dirty
    clear_value cleared
    refine (foldl_keeps State.roster (fun t i => ?_) kids cleared).trans kept
    split <;> rfl
  · rfl

theorem treeWrite_roster (blk : Nat) : (s.treeWrite blk).roster = s.roster := by
  have cached (t : State) : (t.cachePath blk).roster = t.roster := rfl
  unfold State.treeWrite
  rw [cached, foldl_keeps State.roster fun _ _ => writeNode_roster .., foldl_keeps State.roster fun _ _ => treeBump_roster ..]

theorem initFrame_roster (f : Nat) {write : State → State} (h : ∀ s, (write s).roster = s.roster) :
    (s.initFrame f write).roster = s.roster := by
  unfold State.initFrame
  rw [foldl_keeps State.roster fun _ _ => setLine_roster .., treeWrite_roster, h]
  rfl

theorem engineWrite_roster (a : Nat) (bs : List Byte) : (s.engineWrite a bs).roster = s.roster := by
  unfold State.engineWrite
  split
  · split
    · exact initFrame_roster s _ fun s => memWrite_roster s a bs
    · dsimp only
      rw [foldl_keeps State.roster fun _ _ => by rw [now_eq, owe_roster], memWrite_roster]
  · exact memWrite_roster s a bs

/-! ## Frames, caches and records (R231, R235) -/

theorem dropKid_roster (kid : Nat) : (s.dropKid kid).roster = s.roster := rfl
theorem dropFrames_roster (f n : Nat) : (s.dropFrames f n).roster = s.roster := rfl
theorem makeFresh_roster (f : Nat) : (s.makeFresh f).roster = s.roster := rfl
theorem clearRecord_roster (rec_ : Nat) : (s.clearRecord rec_).roster = s.roster := engineWrite_roster ..

theorem zeroLines_roster : (n la : Nat) → (t : State) → (t.zeroLines la n).roster = t.roster
  | 0, _, _ => rfl
  | n + 1, la, _ => (zeroLines_roster n (la + 1) _).trans (engineWrite_roster ..)

theorem mcFlush_roster (la : Nat) (inval : Bool) : (s.mcFlush la inval).roster = s.roster := by
  unfold State.mcFlush
  split
  · split <;> rfl
  · rfl

theorem pinFrame_roster (f : Nat) : (s.pinFrame f).roster = s.roster := by
  have freshened : (s.freshen f).roster = s.roster := by
    unfold State.freshen
    split
    · exact initFrame_roster s f fun _ => rfl
    · rfl
  have dropped (t : State) (g : L1Line → Bool) (x : Frame) : ((t.l1DropAll g).setFrame f x).roster = t.roster := rfl
  unfold State.pinFrame
  rw [dropped, foldl_keeps State.roster fun _ _ => mcFlush_roster .., freshened]

end

/-! ## What is read of the rest -/

section
variable {s t : State} (h : t.roster = s.roster)
include h

theorem setKey_roster (kid : Nat) (k : KeySlot) : (t.setKey kid k).roster = (s.setKey kid k).roster :=
  congrArg (fun r : Roster => { r with keys := tput {} kid k r.keys }) h

theorem cur_of_roster : t.cur = s.cur := show t.roster.cur = s.roster.cur by rw [h]
theorem strands_of_roster : t.strands = s.strands := show t.roster.strands = s.roster.strands by rw [h]
theorem launches_of_roster : t.launches = s.launches := show t.roster.launches = s.roster.launches by rw [h]
theorem me_of_roster : t.me = s.me := by rw [State.me, State.strand, cur_of_roster h, strands_of_roster h]; rfl
theorem turn_of_roster : t.turn = s.turn := by
  have me : t.strand t.cur.sid = s.strand s.cur.sid := me_of_roster h
  rw [State.turn, State.lcy, State.clockOf, me, State.lcyL, State.launch, cur_of_roster h, launches_of_roster h]
  rfl
theorem pkg_of_roster : t.pkg = s.pkg := show t.roster.pkg = s.roster.pkg by rw [h]
theorem key_of_roster (k : Nat) : t.key k = s.key k := show tget {} k t.roster.keys = tget {} k s.roster.keys by rw [h]

end

end Sys2Proof.Machine
end

section
/-! Laws of the frame of the privileged words and of what they land (R72, R315 to R318). -/
namespace Sys2Proof.Machine
open Sys2Proof.Claims

/-- R315 to R318, R234, R287: a privileged word of a free strand that meets no check is its effect. -/
theorem privWord_ready {s : State} {level : Nat} {src dst : List Dst} {k : State → Res}
    (ready : s.Ready { level := level, src := src, dst := dst, outward := true }) (free : s.scored s.cur.sid = false) :
    privWord level src dst s k = finish s (k s) := by
  rw [privWord, word_ready ready, freeOnly, if_neg (Bool.eq_false_iff.mp free)]

theorem readRecord_sound {s : State} {rec_ n : Nat} (sound : s.linesFault rec_ n = none) (k : State → Res) :
    readRecord s rec_ n k = k s := by
  rw [readRecord, sound, lineTrap]

/-! ## What a word answers its strand -/

/-- A state without its strands, its agenda and the picks that are left. -/
def State.unanswered (s : State) : State := { s with strands := [], agenda := [], picks := [] }

/-- From s to t the issuing strand becomes x, and of the rest nothing changes but the picks, and the agenda, which grows. -/
structure Answers (s t : State) (x : Strand) : Prop where
  rest : t.unanswered = s.unanswered
  rising : Rising t.strands
  me : t.me = x
  others : ∀ k, k ≠ s.cur.sid → t.strand k = s.strand k
  agenda : s.agenda ⊆ t.agenda

theorem mem_agenda_owe (s : State) (clock : Option Nat) (time prio : Nat) (e : Event) :
    (⟨clock, time, prio⟩, e) ∈ (s.owe clock time prio e).agenda := List.mem_append_right _ (List.mem_singleton_self _)

section
variable {s t u : State} {x y : Strand}

theorem answers_refl (rising : Rising s.strands) : Answers s s s.me := ⟨rfl, rising, rfl, fun _ _ => rfl, fun _ => id⟩

theorem modMe_answers (rising : Rising s.strands) (f : Strand → Strand) : Answers s (s.modMe f) (f s.me) :=
  have become := modMe_becomes rising f
  ⟨rfl, become.rising, become.me, become.others, fun _ => id⟩

section
variable (h : Answers s t x)
include h

/-- Whatever is read of the state but its strands, agenda and picks stands as it was. -/
theorem Answers.read {γ : Type} (part : State → γ) : part t.unanswered = part s.unanswered := congrArg part h.rest

theorem Answers.cur : t.cur = s.cur := h.read State.cur

theorem Answers.trans (h' : Answers t u y) : Answers s u y where
  rest := h'.rest.trans h.rest
  rising := h'.rising
  me := h'.me
  others k other := (h'.others k (h.cur ▸ other)).trans (h.others k other)
  agenda _ mem := h'.agenda (h.agenda mem)

theorem Answers.owe (clock : Option Nat) (time prio : Nat) (e : Event) : Answers s (t.owe clock time prio e) x :=
  ⟨h.rest, h.rising, h.me, h.others, fun _ mem => List.mem_append_left _ (h.agenda mem)⟩

theorem Answers.quiet : Quiet s t := ⟨h.read State.mem, h.read State.spad, h.others⟩

theorem Answers.pkg : t.pkg = s.pkg := h.read State.pkg

theorem Answers.key (k : Nat) : t.key k = s.key k := h.read (·.key k)

theorem Answers.seqNo (same : x.seq = s.me.seq) : t.seqNo = s.seqNo := (congrArg Strand.seq h.me).trans same

theorem Answers.turn (clock : x.launch = s.me.launch) : t.turn = s.turn := by
  have launches : t.launches = s.launches := h.read State.launches
  have same : t.clockOf t.cur.sid = s.clockOf s.cur.sid := by
    rw [State.clockOf, show t.strand t.cur.sid = x from h.me, clock, h.cur]
    rfl
  rw [State.turn, State.lcy, same, State.lcyL, State.launch, launches]
  rfl

end

/-- A strand that waits. -/
def Strand.awaiting (x : Strand) (w : Wait) : Strand := { x with wait := some w }

/-- The result of a word for g[d], n turns on; none for g[0]. -/
def State.gResult (s : State) (d : GReg) (v : Word) (n : Nat) : List Pend :=
  if d = 0 then [] else [wholeResult s.seqNo s.turn (s.turn + 16 * n) (.g d) (v.setWidth 65536)]

/-- The promise of a word for g[d]; none for g[0]. -/
def State.gPromise (s : State) (d : GReg) : List Pend :=
  if d = 0 then [] else [⟨s.seqNo, s.turn, .g d, none, BitVec.allOnes 65536, none, false⟩]

theorem landG_answers (rising : Rising s.strands) (d : GReg) (v : Word) (n : Nat) :
    Answers s (s.landG d v n) (s.me.owing (s.gResult d v n)) := by
  unfold State.landG State.gResult
  split
  · exact s.me.owing_nil.symm ▸ answers_refl rising
  · exact (modMe_answers rising _).owe ..

theorem promise_answers (rising : Rising s.strands) (d : GReg) :
    Answers s (if d = 0 then s else s.promise (.g d) false) (s.me.owing (s.gPromise d)) := by
  unfold State.gPromise
  split
  · exact s.me.owing_nil.symm ▸ answers_refl rising
  · exact modMe_answers rising _

theorem landWait_answers (rising : Rising s.strands) (d : GReg) (v : Word) (n : Nat) : Answers s (s.landWait d v n)
    ((s.me.owing (s.gResult d v n)).awaiting (.until (s.turn + 16 * n))) := by
  have landed := landG_answers rising d v n
  have waits := landed.trans (modMe_answers landed.rising (·.awaiting (.until (s.turn + 16 * n))))
  exact landed.me ▸ waits

/-- A chosen duration of at least one cycle lies within its bound, and takes a pick at most. -/
theorem duration_draws (s : State) {bound : Nat} (pos : 1 ≤ bound) :
    ∃ w picks, s.duration 1 bound = (w, { s with picks := picks }) ∧ w ≤ bound := by
  unfold State.duration
  split
  · exact ⟨_, _, rfl, pos⟩
  · exact ⟨_, _, rfl, Nat.max_le.mpr ⟨pos, Nat.min_le_right ..⟩⟩

theorem landWithin_answers (rising : Rising s.strands) (d : GReg) (v : Word) {bound : Nat} (pos : 1 ≤ bound) :
    ∃ n, 16 * n < bound + 16 ∧ Answers s (s.landWithin d v bound)
      ((s.me.owing (s.gResult d v n)).awaiting (.until (s.turn + 16 * n))) := by
  obtain ⟨w, picks, drawn, le⟩ := duration_draws s pos
  have lands := landWait_answers (s := { s with picks := picks }) rising d v (ceilDiv w 16)
  refine ⟨ceilDiv w 16, by unfold ceilDiv; omega, ?_⟩
  rw [State.landWithin, drawn]
  exact ⟨lands.rest, lands.rising, lands.me, lands.others, lands.agenda⟩

end

/-- A word that keeps its strand and its turn until then lands its status within the bound. -/
theorem landsWithin_of_same {s u : State} (rising : Rising u.strands) (me : u.me = s.me) (turn : u.turn = s.turn) (d : GReg) (v : Word)
    {bound : Nat} (pos : 1 ≤ bound) : LandsWithin s { u.landWithin d v bound with last := .done } d v bound := by
  obtain ⟨n, within, lands⟩ := landWithin_answers rising d v pos
  have result : u.gResult d v n = s.gResult d v n := by rw [State.gResult, State.seqNo, me, turn]; rfl
  refine ⟨n, within, (congrArg Strand.wait lands.me).trans ?_, (congrArg Strand.pend lands.me).trans ?_⟩
  · rw [turn]
    rfl
  · rw [result, me]
    rfl

end Sys2Proof.Machine
end

section
/-! Proof of the part of the statement on the privileged tables (O42) that is on MINT and REVOKE (R315 to R318). -/
namespace Sys2Proof.Machine
open Sys2Proof.Claims

/-! ## The ticket of a template (R299, R315) -/

/-- A word 1 whose four bits of key generation are replaced. -/
def withGeneration (w1 kg : Nat) : Nat := w1 - 2 ^ 11 * field w1 11 4 + 2 ^ 11 * kg

section
variable {w1 kg : Nat}

theorem withGeneration_lt (below : w1 < 2 ^ 128) (gen : kg < 16) : withGeneration w1 kg < 2 ^ 128 := by
  unfold withGeneration field
  omega

theorem withGeneration_field (gen : kg < 16) : withGeneration w1 kg / 2 ^ 11 % 16 = kg := by
  unfold withGeneration field
  omega

theorem testBit_withGeneration (gen : kg < 16) {i : Nat} (outside : i < 11 ∨ 15 ≤ i) :
    (withGeneration w1 kg).testBit i = w1.testBit i := by
  obtain low | high := outside
  · have same : withGeneration w1 kg % 2 ^ 11 = w1 % 2 ^ 11 := by unfold withGeneration field; omega
    have bit (x : Nat) : x.testBit i = (x % 2 ^ 11).testBit i := by rw [Nat.testBit_mod_two_pow, decide_eq_true low, Bool.true_and]
    rw [bit, same, ← bit]
  · have same : withGeneration w1 kg / 2 ^ 15 = w1 / 2 ^ 15 := by unfold withGeneration field; omega
    have bit (x : Nat) : x.testBit i = (x / 2 ^ 15).testBit (i - 15) := by rw [Nat.testBit_div_two_pow, Nat.sub_add_cancel high]
    rw [bit, same, ← bit]

end

theorem tkWord_ofNat {w0 w1 : Nat} (h0 : w0 < 2 ^ 128) (h1 : w1 < 2 ^ 128) (tag : Nat) :
    let x : Ticket := BitVec.ofNat 512 (w0 + 2 ^ 128 * w1 + 2 ^ 384 * tag)
    tkWord x 0 = w0 ∧ tkWord x 1 = w1 := by
  dsimp only [tkWord, bits, field]
  rw [BitVec.toNat_ofNat]
  omega

/-- The ticket carries the template, but for its key generation, which is the current one. -/
theorem mintTicket_carries {s : State} {w0 w1 : Nat} (h0 : w0 < 2 ^ 128) (h1 : w1 < 2 ^ 128) (gen : s.pkg.kg < 16) :
    let x := s.mintTicket w0 w1
    tkWord x 0 = w0 ∧ (∀ i, i < 11 ∨ 15 ≤ i → (tkWord x 1).testBit i = w1.testBit i) ∧ tkWord x 1 / 2 ^ 11 % 16 = s.pkg.kg := by
  obtain ⟨word0, word1⟩ := tkWord_ofNat h0 (withGeneration_lt h1 gen) (tagZero s.pkg.keyCur w0 (withGeneration w1 s.pkg.kg))
  refine ⟨word0, fun i outside => ?_, ?_⟩
  · exact (congrArg (Nat.testBit · i) word1).trans (testBit_withGeneration gen outside)
  · exact (congrArg (· / 2 ^ 11 % 16) word1).trans (withGeneration_field gen)

section
variable {s : State} {tk : TkReg} {d a b : GReg} (free : s.scored s.cur.sid = false)
include free

/-! ## MINT (R315) -/

section
variable (ready : s.Ready { level := 2, src := [.g a, .g b], dst := [.g d, .tk tk], outward := true })
include ready

theorem mint_misplaced (bad : (s.rg a).toNat % 32 ≠ 0 ∨ isNear (s.rg a).toNat = false) : Does (.mint tk d a b) s (s.landG d 1 4) := by
  change privWord .. = _
  rw [privWord_ready ready free]
  dsimp only
  rw [if_pos bad]
  rfl

variable (aligned : (s.rg a).toNat % 32 = 0) (near : isNear (s.rg a).toNat = true) (sound : s.linesFault (s.rg a).toNat 32 = none)
include aligned near sound

/-- MINT of a template that it can read. -/
theorem mint_reads :
    let w0 := ofBytes (s.physRead (s.rg a).toNat 32) % 2 ^ 128
    let w1 := ofBytes (s.physRead (s.rg a).toNat 32) / 2 ^ 128 % 2 ^ 128
    let img := (s.rg b).toNat
    let st := mintStatus w0 w1 img
    exec (.mint tk d a b) s = finish s (if st ≠ 0 then .ok (s.landG d (BitVec.ofNat 64 st) 4)
      else .ok (((if img = 0 then s else s.engineWrite img (toBytes 64 (s.mintTicket w0 w1).toNat)).landWide (.tk tk)
        ((s.mintTicket w0 w1).setWidth 65536) 4).landG d 0 4)) := by
  intro w0 w1 img st
  have word0 : field (ofBytes (s.physRead (s.rg a).toNat 32)) 0 128 = w0 := by rw [field, Nat.pow_zero, Nat.div_one]
  change privWord .. = _
  rw [privWord_ready ready free]
  dsimp only
  rw [if_neg (by simp [aligned, near]), sound]
  dsimp only
  rw [word0]
  rfl

end

/-! ## REVOKE (R317, R318) -/

theorem revokePort_begins (rising : Rising s.strands) (ready : s.Ready { level := 2, src := [.g a], dst := [.g d], outward := true })
    (small : (s.rg a).toNat < 65536) :
    let at_ := (s.rg a).toNat
    let x := at_ % 32
    let y := at_ / 32 % 32
    let c := coreOf s.cur.sid
    let e := s.pkg.ency + 16 + siteLatency (siteX c) (siteY c) x y
    ∃ t w, exec (.revokePort d a) s = .next t ∧ t.last = .done ∧ t.me.wait = some (.port (portKey x y (at_ / 1024)) e d s.seqNo w) ∧
      (⟨none, e, prioBar⟩, Event.portGenerationAdvance x y (at_ / 1024)) ∈ t.agenda ∧ t.ports = s.ports ∧ Promised s t d ∧ Quiet s t := by
  intro at_ x y c e
  let u := if d = 0 then s else s.promise (.g d) false
  have owes : Answers s u (s.me.owing (s.gPromise d)) := promise_answers rising d
  have ency : u.pkg = s.pkg := owes.pkg
  have seq : u.seqNo = s.seqNo := owes.seqNo rfl
  let w := turnAfter u.turn (u.turn + 16 + 2 * siteLatency (siteX c) (siteY c) x y)
  have fields : bits (s.rg a) 0 5 = x ∧ bits (s.rg a) 5 5 = y ∧ bits (s.rg a) 10 6 = at_ / 1024 ∧ bits (s.rg a) 16 48 = 0 := by
    dsimp only [bits, field, x, y, at_]
    omega
  obtain ⟨fieldX, fieldY, fieldPort, rest⟩ := fields
  let t := (u.modMe (·.awaiting (.port (portKey x y (at_ / 1024)) e d s.seqNo w))).owe none e prioBar
    (.portGenerationAdvance x y (at_ / 1024))
  have begins : Answers s t _ := (owes.trans (modMe_answers owes.rising _)).owe ..
  have run : exec (.revokePort d a) s = .next { t with last := .done } := by
    change privWord .. = _
    rw [privWord_ready ready free]
    dsimp only
    rw [fieldX, fieldY, fieldPort, rest, if_neg (by simp)]
    change finish s (.ok ((u.modMe fun z => { z with wait := some (.port (portKey x y (at_ / 1024))
      (u.pkg.ency + 16 + siteLatency (siteX c) (siteY c) x y) d u.seqNo w) }).owe none _ prioBar _)) = _
    rw [ency, seq]
    rfl
  refine ⟨_, w, run, rfl, congrArg Strand.wait begins.me, mem_agenda_owe .., begins.read State.ports, ?_, begins.quiet⟩
  exact (congrArg Strand.pend begins.me).trans (by rw [owes.me]; rfl)

theorem revokeKey_begins (rising : Rising s.strands) (ready : s.Ready { level := 2, src := [.g a, .g b], dst := [.g d], outward := true })
    (late : s.pkg.ency / 4096 + 2 ≤ (s.rg a).toNat) (aligned : (s.rg b).toNat % 16 = 0) (near : isNear (s.rg b).toNat = true)
    (sound : s.linesFault (s.rg b).toNat 16 = none) (idle : s.pkg.advance = none) :
    let at_ := (s.rg a).toNat
    let rec_ := (s.rg b).toNat
    ∃ t, exec (.revokeKey d a b) s = .next t ∧ t.last = .done ∧
      t.pkg.advance = some ⟨at_, BitVec.ofNat 128 (ofBytes (s.physRead rec_ 16)), s.cur.sid, d, s.seqNo, s.turn, none⟩ ∧
      t.pkg.keyCur = s.pkg.keyCur ∧ t.pkg.kg = s.pkg.kg ∧
      t.me.wait = some .event ∧ (⟨none, 4096 * at_, prioBar⟩, Event.routeKeyAdvance) ∈ t.agenda ∧ Promised s t d := by
  intro at_ rec_
  obtain ⟨u, cleared, kept⟩ : ∃ u, s.engineWrite rec_ (List.replicate 16 0) = u ∧ u.roster = s.roster :=
    ⟨_, rfl, engineWrite_roster ..⟩
  obtain ⟨v, promises, owes⟩ : ∃ v, (if d = 0 then u else u.promise (.g d) false) = v ∧ Answers u v (u.me.owing (u.gPromise d)) :=
    ⟨_, rfl, promise_answers (strands_of_roster kept ▸ rising) d⟩
  have cur : v.cur = s.cur := owes.cur.trans (cur_of_roster kept)
  have seq : v.seqNo = s.seqNo := (owes.seqNo rfl).trans (congrArg Strand.seq (me_of_roster kept))
  have turn : v.turn = s.turn := (owes.turn rfl).trans (turn_of_roster kept)
  have pkg : v.pkg = s.pkg := owes.pkg.trans (pkg_of_roster kept)
  let adv : KeyAdvance := ⟨at_, BitVec.ofNat 128 (ofBytes (s.physRead rec_ 16)), v.cur.sid, d, v.seqNo, v.turn, none⟩
  let w := v.modPkg fun k => { k with advance := some adv }
  have waits : Answers w (w.modMe (·.awaiting .event)) (v.me.awaiting .event) := modMe_answers (s := w) owes.rising _
  have run : exec (.revokeKey d a b) s = .next { ((w.modMe (·.awaiting .event)).owe none (4096 * (at_ - 1)) prioBar
      (.keyDigestCompare true)).owe none (4096 * at_) prioBar .routeKeyAdvance with last := .done } := by
    change privWord .. = _
    rw [privWord_ready ready free]
    dsimp only
    rw [if_neg (by simp [aligned, near]; omega), if_neg (by simp [idle]), readRecord_sound sound, cleared, promises]
    rfl
  refine ⟨_, run, rfl, ?advance, ?keyCur, ?kg, congrArg Strand.wait waits.me, mem_agenda_owe .., ?owed⟩
  case advance => exact congrArg some (by simp only [adv, cur, seq, turn])
  case keyCur => exact (congrArg Pkg.keyCur pkg :)
  case kg => exact (congrArg Pkg.kg pkg :)
  case owed =>
    have promise : u.gPromise d = s.gPromise d := by
      rw [State.gPromise, State.seqNo, me_of_roster kept, turn_of_roster kept]
      rfl
    have pend : v.me.pend = s.me.pend ++ s.gPromise d := by
      rw [owes.me, promise, me_of_roster kept]
      rfl
    exact (congrArg Strand.pend waits.me).trans pend

end

theorem ticketIssueWords : TicketIssueWords := by
  intro s tk d a b canon free at_ rec_
  refine ⟨fun ready => ⟨mint_misplaced free ready, fun aligned near sound => ?mint⟩,
    fun ready small => revokePort_begins free canon.rstrands ready small, ?key⟩
  case mint =>
    have run := mint_reads free ready aligned near sound
    refine ⟨fun fails => run.trans (by rw [if_pos fails]; rfl),
      fun passes gen => ⟨_, run.trans (by rw [if_neg (not_not.mpr passes)]; rfl), ?_⟩⟩
    exact mintTicket_carries (Nat.mod_lt _ (Nat.two_pow_pos 128)) (Nat.mod_lt _ (Nat.two_pow_pos 128)) gen
  case key => exact revokeKey_begins free canon.rstrands

end Sys2Proof.Machine
end

section
/-! Proof of the part of the statement on the privileged tables (O42) that is on KEYSET (R234, R235). -/
namespace Sys2Proof.Machine
open Sys2Proof.Claims

/-! ## Operands in order -/

theorem keysetCheck_inOrder {bad : Bool} {rec_ : Nat} (fields : bad = false) (aligned : rec_ % 64 = 0) (near : isNear rec_ = true) :
    keysetCheck bad rec_ = 0 := by
  simp [keysetCheck, fields, aligned, near]

/-- A window in order: its slot and its frames are free, and it lies in near memory apart from every other window (R234). -/
structure FreeWindow (s : State) (kid base pages map : Nat) : Prop where
  slot : (s.key kid).valid = false
  frames : ∀ e ∈ s.frames, windowHas base pages e.1 = true → e.2.pins = 0 ∧ e.2.migdst = false ∧ (e.2.assigned = true → e.2.owner = kid)
  apart : ∀ e ∈ s.keys, 192 ≤ e.1 → e.1 ≠ kid → e.2.valid = true → e.2.base + 2 * e.2.pages ≤ base ∨ base + 2 * pages ≤ e.2.base
  nonempty : 1 ≤ pages
  most : pages ≤ 262143
  memory : isNear (4096 * (base + 2 * pages) - 1) = true
  lineMap : isNear (64 * map + 256 * pages - 1) = true

section
variable {s : State} {kid base pages map : Nat} (window : FreeWindow s kid base pages map)
include window

/-- Nothing stands against the slot, the frames and the extent of a free window. -/
theorem FreeWindow.notInUse : ((s.key kid).valid || (s.frames.any fun e => windowHas base pages e.1 &&
      (e.2.pins != 0 || e.2.migdst || (e.2.assigned && e.2.owner != kid))) ||
    s.keys.any fun e => decide (192 ≤ e.1) && e.1 != kid && e.2.valid && decide (base < e.2.base + 2 * e.2.pages) &&
      decide (e.2.base < base + 2 * pages)) = false := by
  have frames : (s.frames.any fun e => windowHas base pages e.1 &&
      (e.2.pins != 0 || e.2.migdst || (e.2.assigned && e.2.owner != kid))) = false := by
    refine List.any_eq_false.mpr fun e mem held => ?_
    have free := window.frames e mem
    grind
  have keys : (s.keys.any fun e => decide (192 ≤ e.1) && e.1 != kid && e.2.valid && decide (base < e.2.base + 2 * e.2.pages) &&
      decide (e.2.base < base + 2 * pages)) = false := by
    refine List.any_eq_false.mpr fun e mem held => ?_
    have apart := window.apart e mem
    grind
  rw [window.slot, frames, keys]
  rfl

theorem FreeWindow.inRange : (pages == 0 || decide (pages > 262143) || !isNear (4096 * (base + 2 * pages) - 1) ||
    !isNear (64 * map + 256 * pages - 1)) = false := by
  have nonempty := window.nonempty
  have most := window.most
  simp only [window.memory, window.lineMap, Bool.not_true, Bool.or_false, Bool.or_eq_false_iff, beq_eq_false_iff_ne, decide_eq_false_iff_not]
  omega

end

/-! ## The words -/

section
variable {s : State} {d a b : GReg} {kid : Nat} (free : s.scored s.cur.sid = false)
  (ready : s.Ready { level := 2, src := [.g a, .g b], dst := [.g d], outward := true }) (slot : (s.rg a).toNat % 256 = kid)
  (aligned : (s.rg b).toNat % 64 = 0) (near : isNear (s.rg b).toNat = true)
include free ready slot aligned near

theorem keysetSet_refuses (low : kid < 192) (held : s.vdHolds kid = true) (zero : (s.rg a).toNat / 256 % 2 ^ 24 = 0) :
    exec (.keysetSet d a b) s = finish s (.ok (s.landWithin d 3 65536)) := by
  have field8 : bits (s.rg a) 8 24 = 0 := zero
  have busy : (if 0 = 0 ∧ s.vdHolds kid = true then 3 else 0) = 3 := if_pos ⟨rfl, held⟩
  change privWord .. = _
  rw [privWord_ready ready free]
  dsimp only
  rw [bits_zero, show (s.rg a).toNat % 2 ^ 8 = kid from slot, keysetCheck_inOrder (by simp [field8, low]) aligned near,
    busy, if_pos (by decide)]
  rfl

theorem keysetErase_writes (zero : (s.rg a).toNat < 256) (idle : kid < 192 → s.vdHolds kid = false) :
    exec (.keysetErase d a b) s = finish s (.ok ((((s.dropKid kid).setKey kid { s.key kid with key := 0, txkey := 0, valid := false }
      ).clearRecord (s.rg b).toNat).landWithin d 0 65536)) := by
  have field8 : bits (s.rg a) 8 56 = 0 := by
    dsimp only [bits, field]
    omega
  change privWord .. = _
  rw [privWord_ready ready free]
  dsimp only
  rw [bits_zero, show (s.rg a).toNat % 2 ^ 8 = kid from slot, keysetCheck_inOrder (by simp [field8]) aligned near,
    if_neg (by simpa using idle)]
  rfl

variable (sound : s.linesFault (s.rg b).toNat 64 = none)
include sound

theorem keysetSet_writes (low : kid < 192) (idle : s.vdHolds kid = false) (zero : (s.rg a).toNat / 256 % 2 ^ 24 = 0) :
    exec (.keysetSet d a b) s = finish s (.ok ((((s.dropKid kid).setKey kid ((s.key kid).set (ofBytes (s.physRead (s.rg b).toNat 64))
      (bits (s.rg a) 32 32))).clearRecord (s.rg b).toNat).landWithin d 0 65536)) := by
  have field8 : bits (s.rg a) 8 24 = 0 := zero
  change privWord .. = _
  rw [privWord_ready ready free]
  dsimp only
  rw [bits_zero, show (s.rg a).toNat % 2 ^ 8 = kid from slot, keysetCheck_inOrder (by simp [field8, low]) aligned near,
    if_neg (by simp [idle]), readRecord_sound sound]
  rfl

/-- R234: the pages of the window become fresh and its line map zero. -/
def State.makeWindow (s : State) (k : KeySlot) : State :=
  ((List.range (2 * k.pages)).foldl (fun (s : State) i => s.makeFresh (k.base + i)) s).zeroLines k.mapbase (4 * k.pages)

theorem keysetWin_writes {k : KeySlot} (high : 192 ≤ kid) (zero : (s.rg a).toNat < 2 ^ 24) (owner : (s.rg a).toNat / 256 % 256 < 192)
    (peer : (s.rg a).toNat / 65536 < 192) (reserved : field (ofBytes (s.physRead (s.rg b).toNat 64)) 360 152 = 0)
    (new : (s.key kid).window (ofBytes (s.physRead (s.rg b).toNat 64)) ((s.rg a).toNat / 256 % 256) ((s.rg a).toNat / 65536) = k)
    (window : FreeWindow s kid k.base k.pages k.mapbase) : exec (.keysetWin d a b) s =
      finish s (.ok ((((((s.dropKid kid).dropFrames k.base (2 * k.pages)).setKey kid k).makeWindow k).clearRecord (s.rg b).toNat
        ).landWithin d 0 65536)) := by
  have field24 : bits (s.rg a) 24 40 = 0 := by
    dsimp only [bits, field]
    omega
  have field8 : bits (s.rg a) 8 8 = (s.rg a).toNat / 256 % 256 := rfl
  have field16 : bits (s.rg a) 16 8 = (s.rg a).toNat / 65536 := by
    dsimp only [bits, field]
    omega
  change privWord .. = _
  rw [privWord_ready ready free]
  dsimp only
  rw [bits_zero, show (s.rg a).toNat % 2 ^ 8 = kid from slot, field8, field16,
    keysetCheck_inOrder (by simp [field24, high, owner, peer]) aligned near, if_neg (by simp), readRecord_sound sound, reserved, new,
    window.notInUse, window.inRange]
  rfl

end

theorem keyWritten_lands {s u : State} {i : Instr} {d : GReg} {kid : Nat} {k : KeySlot} (canon : Canonical s)
    (run : exec i s = finish s (.ok (u.landWithin d 0 65536))) (kept : u.roster = (s.setKey kid k).roster) :
    ∃ t, exec i s = .next t ∧ t.last = .done ∧ LandsWithin s t d 0 65536 ∧ t.key kid = k := by
  have rising : Rising u.strands := (strands_of_roster kept).symm ▸ canon.rstrands
  obtain ⟨n, -, lands⟩ := landWithin_answers rising d 0 (bound := 65536) (by decide)
  refine ⟨_, run, rfl, landsWithin_of_same rising (me_of_roster kept) (turn_of_roster kept) d 0 (by decide), ?_⟩
  exact (lands.key kid).trans ((key_of_roster kept kid).trans ((key_setKey s kid kid k canon.rkeys).trans (if_pos rfl)))

theorem makeWindow_roster (s : State) (k : KeySlot) : (s.makeWindow k).roster = s.roster := by
  rw [State.makeWindow, zeroLines_roster, foldl_keeps State.roster fun _ _ => makeFresh_roster ..]

theorem keyWords : KeyWords := by
  intro s d a b canon free ready w rec_ kid r base pages map aligned near sound
  refine ⟨fun zero low idle => ?set, fun zero high owner peer reserved valid frames apart nonempty most memory lineMap => ?win,
    fun zero idle => ?erase, fun low held zero => ?refused⟩
  case set =>
    have run := keysetSet_writes free ready rfl aligned near sound low idle zero
    have salt : BitVec.ofNat 32 (bits (s.rg a) 32 32) = BitVec.ofNat 32 (w / 2 ^ 32) := ofNat_mod_two_pow 32 _
    have written := keyWritten_lands canon run ((clearRecord_roster ..).trans (setKey_roster (dropKid_roster ..) ..))
    rw [KeySlot.set, salt] at written
    exact written
  case win =>
    have run := keysetWin_writes free ready rfl aligned near sound high zero owner peer reserved rfl
      ⟨valid, frames, apart, nonempty, most, memory, lineMap⟩
    exact keyWritten_lands canon run ((clearRecord_roster ..).trans ((makeWindow_roster ..).trans
      (setKey_roster (dropFrames_roster ..) ..)))
  case erase =>
    exact keyWritten_lands canon (keysetErase_writes free ready rfl aligned near zero idle)
      ((clearRecord_roster ..).trans (setKey_roster (dropKid_roster ..) ..))
  case refused =>
    obtain ⟨n, -, lands⟩ := landWithin_answers canon.rstrands d 3 (bound := 65536) (by decide)
    exact ⟨_, keysetSet_refuses free ready rfl aligned near low held zero, rfl, landsWithin_of_same canon.rstrands rfl rfl d 3 (by decide),
      lands.read State.keys, lands.quiet⟩

end Sys2Proof.Machine
end

section
/-! Proof of the statement on the privileged tables (O42), of which here is ADMIT (R287): an admission keeps every clock but the new
launch's, and a refusal counts at most an integrity failure. -/
namespace Sys2Proof.Machine
open Sys2Proof.Claims

/-! ## What keeps the clocks -/

/-! ### No register names the launch of its strand (R72, R356) -/

theorem setCsr_launch (x : Strand) (n : Nat) (v : Word) : (x.setCsr n v).launch = x.launch := by
  unfold Strand.setCsr
  iterate 7 (split; · rfl)
  rfl

theorem put_launch (x : Strand) (d : Dst) (v : Wide) : (x.put d v).launch = x.launch := by
  cases d with
  | g | p | m =>
    simp only [Strand.put]
    split <;> rfl
  | csr n =>
    simp only [Strand.put]
    iterate 3 (split; · rfl)
    exact setCsr_launch ..
  | tk | v | be | q | st | vl | fp => rfl

theorem landOne_launch (x : Strand) (p : Pend) : (x.landOne p).launch = x.launch := by
  unfold Strand.landOne
  split
  · rfl
  · split
    · rfl
    · split
      · exact setCsr_launch ..
      · exact put_launch ..

theorem rollback_launch (x : Strand) (seq : Nat) : (x.rollback seq).launch = x.launch := by
  refine List.foldlRecOn (motive := fun y : Strand => y.launch = x.launch) _ _ rfl fun y same e _ => ?_
  dsimp only
  split
  · exact same
  · exact (put_launch ..).trans same

theorem backTo_launch (x : Strand) (seq : Nat) (pc : Word) : (x.backTo seq pc).launch = x.launch := rollback_launch x seq

/-- From s to t the launches and the package registers stand, and every strand stays in its launch: every clock runs on. -/
structure KeepsClocks (s t : State) : Prop where
  cur : t.cur = s.cur
  launches : t.launches = s.launches
  pkg : t.pkg = s.pkg
  rising : Rising s.strands → Rising t.strands
  strand : Rising s.strands → ∀ k, (t.strand k).launch = (s.strand k).launch

namespace KeepsClocks

theorem of_roster {s t : State} (h : t.roster = s.roster) : KeepsClocks s t where
  cur := cur_of_roster h
  launches := launches_of_roster h
  pkg := pkg_of_roster h
  rising := (strands_of_roster h).symm ▸ id
  strand _ k := by rw [State.strand, strands_of_roster h]; rfl

theorem trans {s t u : State} (h : KeepsClocks s t) (h' : KeepsClocks t u) : KeepsClocks s u where
  cur := h'.cur.trans h.cur
  launches := h'.launches.trans h.launches
  pkg := h'.pkg.trans h.pkg
  rising r := h'.rising (h.rising r)
  strand r k := (h'.strand (h.rising r) k).trans (h.strand r k)

theorem foldl {β : Type} {f : State → β → State} (h : ∀ s b, KeepsClocks s (f s b)) :
    (l : List β) → (s : State) → KeepsClocks s (l.foldl f s)
  | [], _ => of_roster rfl
  | b :: l, s => (h s b).trans (foldl h l (f s b))

theorem setStrand {s : State} {sid : Nat} {x : Strand} (same : x.launch = (s.strand sid).launch) : KeepsClocks s (s.setStrand sid x) where
  cur := rfl
  launches := rfl
  pkg := rfl
  rising := rising_tput
  strand r k := by
    rw [strand_setStrand s sid k x r]
    split
    next eq => rw [same, eq]
    · rfl

/-! ## The pre-emption of a strand (R365) -/

section
variable (s : State) (sid : Nat)

theorem stopAccess (id : Nat) (a : Access) : KeepsClocks s (s.stopAccess sid id a) := by
  have dropped : KeepsClocks s (s.dropAccess id) := of_roster rfl
  refine dropped.trans (setStrand ?_)
  dsimp only
  split
  · exact (landOne_launch ..).trans ((landOne_launch ..).trans (backTo_launch ..))
  · exact backTo_launch ..

theorem squash : KeepsClocks s (s.squash sid) := by
  have fence : (s.strand sid).squashFence.launch = (s.strand sid).launch := by
    unfold Strand.squashFence
    split
    · exact backTo_launch ..
    · rfl
  unfold State.squash
  extract_lets u
  have squashed : KeepsClocks s u := setStrand fence
  refine squashed.trans ?_
  split
  · exact stopAccess ..
  · split
    · exact setStrand (backTo_launch ..)
    · exact of_roster rfl

theorem requestPreempt (w : Leave) : KeepsClocks s (s.requestPreempt sid w) := by
  unfold State.requestPreempt
  extract_lets u
  have squashed : KeepsClocks s u := by
    unfold u
    split
    · exact of_roster rfl
    · exact squash ..
  have leaves : KeepsClocks u (u.modStrand sid fun x => { x with leaving := some w }) := setStrand rfl
  exact squashed.trans (leaves.trans (of_roster (owe_roster ..)))

theorem clearSlots (c smask : Nat) : KeepsClocks s (s.clearSlots c smask) := by
  refine foldl (fun s i => ?_) _ s
  split
  · exact requestPreempt ..
  · exact of_roster rfl

end
end KeepsClocks

/-! ## The parts of an admission (R287) -/

theorem modHarp_roster (s : State) (c : Nat) (f : Harp → Harp) : (s.modHarp c f).roster = s.roster := rfl

theorem giveTiles_roster (s : State) (l : Nat) (ws : List (Nat × WheelSlot)) : (s.giveTiles l ws).roster = s.roster := by
  refine foldl_keeps State.roster (fun s crew => foldl_keeps State.roster (fun s t => ?_) _ s) _ s
  split <;> rfl

theorem loadWheels_roster (s : State) : s.loadWheels.roster = s.roster := foldl_keeps State.roster (fun s c => modHarp_roster s c _) _ s

theorem tellTime_roster (s : State) (l : Nat) (m : TimeNote) : (s.tellTime l m).roster = s.roster := by
  unfold State.tellTime
  dsimp only
  split <;> rfl

section
variable (s : State) (l : Nat) (t : Tablature) (rs : List Region)

/-- Steps before the launch is entered: its frames are pinned, and its cores hold its code and cues. -/
def State.prepared : State :=
  let s := (rs.flatMap (·.frames)).foldl State.pinFrame s
  let buf := match rs.find? (·.code) with | some r => (r.vbase, s.regionBytes r) | none => (0, [])
  t.cores.foldl (fun s e => match s.physOf e.logical with
    | some c => s.modCore c fun k => { k with
        ibuf := k.ibuf ++ [(l, buf)], cues := k.cues ++ [(l, e.cues.zipIdx.foldl (fun m x => tput 0 x.2 x.1 m) [])] }
    | none => s) s

/-- Steps after it is entered: tiles and wheels are given, its Drays owed, its slots cleared and its peers told. -/
def State.announced (ws : List (Nat × WheelSlot)) (drays : List TimedDray) (cores : List (Nat × Nat)) : State :=
  let s := (s.giveTiles l ws).loadWheels
  let s := drays.zipIdx.foldl (fun s e => s.owe (some l) e.1.first rankDray (.timedDrayStart l e.2)) s
  let s := cores.foldl (fun s c => s.clearSlots c.1 c.2) s
  (s.tellTime l (.admitted s.pkg.endlat)).owe none (4096 * (t.h.startbar - 1)) prioStart (.scoredLaunchStart l false)

theorem prepared_keepsClocks : KeepsClocks s (s.prepared l t rs) := by
  unfold State.prepared
  extract_lets pinned buf
  have pins : pinned.roster = s.roster := foldl_keeps State.roster (fun _ _ => pinFrame_roster ..) _ s
  refine (KeepsClocks.of_roster pins).trans (.of_roster (foldl_keeps State.roster (fun s e => ?_) _ pinned))
  split <;> rfl

theorem announced_keepsClocks (ws : List (Nat × WheelSlot)) (drays : List TimedDray) (cores : List (Nat × Nat)) :
    KeepsClocks s (s.announced l t ws drays cores) := by
  unfold State.announced
  extract_lets given owed cleared
  have tiles : given.roster = s.roster := (loadWheels_roster _).trans (giveTiles_roster ..)
  have owes : owed.roster = given.roster := foldl_keeps State.roster (fun _ _ => owe_roster ..) _ given
  have clears : KeepsClocks owed cleared := .foldl (fun _ _ => .clearSlots ..) _ owed
  exact (KeepsClocks.of_roster (owes.trans tiles)).trans (clears.trans (.of_roster ((owe_roster ..).trans (tellTime_roster ..))))

/-- The launch as it is entered, with the machine u that the steps before leave. -/
def State.admittedLaunch (u : State) (tab : Nat) : Launch := {
  st := .admitted, scored := true, lid := s.freeLid, gid := 65535, part := some t.h.part, vd := s.vdOfX t.h.part t.h.vdx, k := t.h.k
  entry := BitVec.ofNat 64 t.h.entry, arg := t.h.arg, cn := t.h.cn, cores := s.tabPhys t, nb := t.h.nb, npkg := t.h.npkg
  ekey := t.h.ekey, startbar := t.h.startbar, tab := tab, regions := rs, slots := t.slots
  wheels := t.wheels.map fun e => (e.1, { e.2 with launch := l })
  drays := t.drays.map fun e => { e with core := (u.physOf e.core).getD e.core }
  recvs := t.recvs, reported := t.h.npkg == 1 }

theorem admittedLaunch_fields (u : State) (tab : Nat) :
    let L := s.admittedLaunch l t rs u tab
    L.st = .admitted ∧ L.scored = true ∧ L.lid = s.freeLid ∧ L.nb = t.h.nb ∧ L.startbar = t.h.startbar ∧
    L.vd = s.vdOfX t.h.part t.h.vdx ∧ L.regions = rs := by
  dsimp only [State.admittedLaunch]
  exact ⟨rfl, rfl, rfl, rfl, rfl, rfl, rfl⟩

/-- An admission part by part: what comes before the launch is entered, its entry, and what comes after. -/
theorem admitLaunch_eq (tab : Nat) :
    let l := launchKey s.nextId
    let u := s.fresh.2.prepared l t rs
    let L := s.admittedLaunch l t rs u tab
    s.admitLaunch tab t rs = (s.freeLid, (((u.setLaunch l L).announced l t L.wheels L.drays L.cores).modPkg fun k =>
      { k with nadm := k.nadm + 1 }).owe none (4096 * t.h.startbar) prioStart (.scoredLaunchStart l false)) := by
  unfold State.admitLaunch State.announced State.prepared State.admittedLaunch
  rfl

end

/-! ## What a refusal counts (R227, R344) -/

/-- A state without its partitions, its key table and its counts of errors. -/
def State.uncharged (s : State) : State := { s with parts := [], keys := [], pkg := { s.pkg with errs := {} } }

theorem countErr_uncharged (s : State) (p : Nat) (f : ErrCounters → ErrCounters) : (s.countErr (some p) f).uncharged = s.uncharged := by
  have part (t : State) (x : Partition) : (t.setPart p x).uncharged = t.uncharged := rfl
  have pkg : (s.modPkg fun k => { k with errs := f k.errs }).uncharged = s.uncharged := rfl
  exact (part ..).trans pkg

theorem chargeLine_uncharged (s : State) (v detail : Nat) : (s.chargeLine v detail).uncharged = s.uncharged := by
  have held (t : State) (x : KeySlot) : (t.setKey v x).uncharged = t.uncharged := rfl
  unfold State.chargeLine
  dsimp only
  split
  · exact (held ..).trans (countErr_uncharged ..)
  · exact countErr_uncharged ..

theorem countAdmit_uncharged (s : State) (tab st : Nat) : (s.countAdmit tab st).uncharged = s.uncharged := by
  unfold State.countAdmit
  dsimp only
  split
  · exact chargeLine_uncharged ..
  · rfl

/-! ## The word -/

section
variable {s : State} {d a b : GReg} (free : s.scored s.cur.sid = false)
  (ready : s.Ready { level := 1, src := [.g a, .g b], dst := [.g d], outward := true })
include free ready

theorem admitTab_refuses {st : Nat} (fails : s.admitCheck (s.rg a).toNat (s.rg b).toNat = (st, none)) : exec (.admitTab d a b) s =
    finish s (.ok ((s.countAdmit (s.rg a).toNat st).landWithin d (BitVec.ofNat 64 st) 4194304)) := by
  change privWord .. = _
  rw [privWord_ready ready free]
  dsimp only
  rw [fails]

theorem admitTab_admits {st : Nat} {t : Tablature} {rs : List Region}
    (passes : s.admitCheck (s.rg a).toNat (s.rg b).toNat = (st, some (t, rs))) : exec (.admitTab d a b) s =
    finish s (.ok ((s.admitLaunch (s.rg a).toNat t rs).2.landWithin d
      (BitVec.ofNat 64 (65536 * (s.admitLaunch (s.rg a).toNat t rs).1)) 4194304)) := by
  change privWord .. = _
  rw [privWord_ready ready free]
  dsimp only
  rw [passes]

end

/-- What an admission leaves of the launches, the clocks and the package registers, at the landing of its word. -/
theorem admitLaunch_leaves {s : State} (canon : Canonical s) (tab : Nat) (t : Tablature) (rs : List Region) :
    let l := launchKey s.nextId
    let w := (s.admitLaunch tab t rs).2
    (∃ u, w.launch l = s.admittedLaunch l t rs u tab) ∧ (∀ k, k ≠ l → w.launch k = s.launch k) ∧ w.pkg.nadm = s.pkg.nadm + 1 ∧
    (⟨none, 4096 * t.h.startbar, prioStart⟩, Event.scoredLaunchStart l false) ∈ w.agenda ∧ Rising w.strands ∧
    (s.clockOf s.cur.sid ≠ l → w.turn = s.turn) := by
  intro l w
  have admitted : w = _ := congrArg Prod.snd (admitLaunch_eq s t rs tab)
  have numbered : KeepsClocks s s.fresh.2 := .of_roster rfl
  obtain ⟨u, before, enters⟩ : ∃ u, KeepsClocks s u ∧ u = s.fresh.2.prepared l t rs :=
    ⟨_, numbered.trans (prepared_keepsClocks ..), rfl⟩
  rw [← enters] at admitted
  let L := s.admittedLaunch l t rs u tab
  obtain ⟨v, after, announces⟩ : ∃ v, KeepsClocks (u.setLaunch l L) v ∧ v = (u.setLaunch l L).announced l t L.wheels L.drays L.cores :=
    ⟨_, announced_keepsClocks .., rfl⟩
  rw [← announces] at admitted
  have launch (k : Nat) : v.launch k = if k = l then L else s.launch k := by
    rw [State.launch, after.launches, ← State.launch, launch_setLaunch u l k L (before.launches ▸ canon.rlaunches)]
    rw [State.launch, before.launches]
    rfl
  have clock : v.clockOf v.cur.sid = s.clockOf s.cur.sid := by
    have cur : v.cur = s.cur := after.cur.trans before.cur
    have stays : (v.strand s.cur.sid).launch = (s.strand s.cur.sid).launch :=
      (after.strand (before.rising canon.rstrands) s.cur.sid).trans (before.strand canon.rstrands s.cur.sid)
    rw [State.clockOf, cur, stays]
    rfl
  rw [admitted]
  refine ⟨⟨u, (launch l).trans (if_pos rfl)⟩, fun k other => (launch k).trans (if_neg other), ?nadm, mem_agenda_owe ..,
    after.rising (before.rising canon.rstrands), fun other => ?turn⟩
  case nadm => exact congrArg (·.nadm + 1) (after.pkg.trans before.pkg)
  case turn =>
    change v.turn = s.turn
    rw [State.turn, State.lcy, clock, State.lcyL, launch, if_neg other]
    rfl

theorem admitWord : AdmitWord := by
  intro s d a b canon free ready
  refine ⟨fun st fails => ?refused, fun st h rs passes => ?admitted⟩
  case refused =>
    obtain ⟨u, counts, kept⟩ : ∃ u, s.countAdmit (s.rg a).toNat st = u ∧ u.uncharged = s.uncharged := ⟨_, rfl, countAdmit_uncharged ..⟩
    have read {γ : Type} (part : State → γ) : part u.uncharged = part s.uncharged := congrArg part kept
    have strands : u.strands = s.strands := read State.strands
    have rising : Rising u.strands := strands.symm ▸ canon.rstrands
    have cur : u.cur = s.cur := read State.cur
    obtain ⟨n, -, lands⟩ := landWithin_answers rising d (BitVec.ofNat 64 st) (bound := 4194304) (by decide)
    refine ⟨_, admitTab_refuses free ready fails, rfl, ?lands, ?quiet, ?launches, ?nadm, ?frames⟩ <;> rw [counts]
    case lands => exact landsWithin_of_same rising (read State.me) (read State.turn) d _ (by decide)
    case quiet =>
      refine ⟨(lands.read State.mem).trans (read State.mem), (lands.read State.spad).trans (read State.spad), fun k other => ?_⟩
      exact (lands.others k (cur ▸ other)).trans (read (·.strand k))
    case launches => exact (lands.read State.launches).trans (read State.launches)
    case nadm => exact (lands.read (·.pkg.nadm)).trans (read (·.pkg.nadm))
    case frames => exact (lands.read State.frames).trans (read State.frames)
  case admitted =>
    intro l other
    have run := admitTab_admits free ready passes
    have leaves := admitLaunch_leaves canon (s.rg a).toNat h rs
    generalize s.admitLaunch (s.rg a).toNat h rs = admitted at run leaves
    obtain ⟨⟨u, entered⟩, launches, nadm, owed, rising, turn⟩ := leaves
    obtain ⟨n, -, lands⟩ := landWithin_answers rising d (BitVec.ofNat 64 (65536 * admitted.1)) (bound := 4194304) (by decide)
    have launch (k : Nat) := lands.read (·.launch k)
    have new := (launch l).trans entered
    have fields := admittedLaunch_fields s l h rs u (s.rg a).toNat
    rw [← new] at fields
    obtain ⟨st, scored, lid, nb, startbar, vd, regions⟩ := fields
    exact ⟨_, n, run, rfl, (congrArg Strand.wait lands.me).trans (by rw [turn other]; rfl), st, scored, lid, nb, startbar, vd, regions,
      fun k elsewhere => (launch k).trans (launches k elsewhere), (lands.read (·.pkg.nadm)).trans nadm, lands.agenda owed⟩

/-- Settles O42: the words that mint and revoke, those of the key table, and ADMIT. -/
theorem privilegedTables : Obligations.PrivilegedTables := ⟨ticketIssueWords, keyWords, admitWord⟩

end Sys2Proof.Machine
end

section
/-! More laws of what a word answers to its strand: what lands after it, and a fold that answers nothing. -/
namespace Sys2Proof.Machine
open Sys2Proof.Claims

variable {s : State} {d : GReg}

theorem any_of_subset {α : Type} {l m : List α} {p : α → Bool} (sub : l ⊆ m) (found : l.any p = true) : m.any p = true := by
  obtain ⟨e, mem, passes⟩ := List.any_eq_true.mp found
  exact List.any_eq_true.mpr ⟨e, sub mem, passes⟩

/-- A result that lands after a change of the strand which leaves its turn is the word's own. -/
theorem Answers.lands {t : State} {x : Strand} (h : Answers s t x) (seq : x.seq = s.me.seq) (launch : x.launch = s.me.launch)
    (d : GReg) (v : Word) (n : Nat) : Answers s (t.landG d v n) (x.owing (s.gResult d v n)) := by
  have landed := h.trans (landG_answers h.rising d v n)
  rwa [h.me, State.gResult, h.seqNo seq, h.turn launch] at landed

theorem Answers.owed {t : State} {x : Strand} {v : Word} {n : Nat} (h : Answers s t (x.owing (s.gResult d v n)))
    (pend : x.pend = s.me.pend) : Owed s t d v n := by
  rw [Owed, h.me, ← pend]
  rfl

/-- Every step of a fold that answers the strand nothing. -/
theorem answers_foldl {β : Type} {f : State → β → State} (h : ∀ s b, Rising s.strands → Answers s (f s b) s.me) :
    (l : List β) → (s : State) → Rising s.strands → Answers s (l.foldl f s) s.me
  | [], _, rising => answers_refl rising
  | b :: l, s, rising =>
    have step := h s b rising
    step.trans (step.me ▸ answers_foldl h l (f s b) step.rising)

end Sys2Proof.Machine
end

section
/-! Proof of the statement on the Dray words (O38): DRAY is refused, faults or enters a queue; and what a command that has not ended
answers to DSTAT, DWAIT and DCANCEL. -/
namespace Sys2Proof.Machine
open Sys2Proof.Claims

/-! ## The issue of DRAY (R246, R255, R271) -/

section
variable {s : State} {tk : TkReg} {d a b : GReg} {fn : Nat}

/-- The command that a strand gives with a block, before it is numbered. -/
def State.drayOrder (s : State) (tk : TkReg) (fn : Nat) (blk : List Byte) : DrayCmd :=
  let sid := s.cur.sid
  let cmd := { cmdOf fn blk with
    ticket := s.me.rtk tk, core := coreOf sid, sid := sid, wseq := s.seqNo, vd := s.strandVd sid, priv := s.me.priv
    part := s.strandPart sid }
  { cmd with cores := (s.drayScope cmd).1, shared := (s.drayScope cmd).2 }

/-- What DRAY comes to for a block that it has read, up to the room in the queue. -/
theorem drayWord_judged {blk : List Byte}
    (ready : s.Ready { src := [.tk tk, .g a, .g b], dst := [.g d], outward := true }) (free : s.scored s.cur.sid = false)
    (aligned : (s.rg a).toNat % 64 = 0) (inside : (s.rg a).toNat + 64 ≤ 524288)
    (written : s.ownWrites s.cur.sid (s.rg a).toNat 64 = false) (read : s.spadRead (coreOf s.cur.sid) (s.rg a).toNat 64 = blk) :
    let n := (s.rg b).toNat % 64
    let c := { s.drayOrder tk fn blk with seq := (s.dray n).nextSeq }
    let asked := (s.drayAsks c).findSome? (s.tkFails (s.me.rtk tk))
    let bad := blockBad false fn blk = true ∨ (c.part = none ∧ 48 ≤ n)
    (bad → drayWord fn tk d a b s = finish s (.ok (s.landG d (drayRefused 1) 2))) ∧
    (¬ bad →
      (∀ v, asked = some v → drayWord fn tk d a b s = finish s (accessFault (BitVec.ofNat 64 v))) ∧
      (asked = none → s.holdsDray s.cur.sid n = false → drayWord fn tk d a b s = finish s (.ok (s.landG d (drayRefused 2) 2))) ∧
      (asked = none → s.holdsDray s.cur.sid n = true → (c.sealing = true → (s.key c.vd).valid = true) → (s.dray n).cmds.length < 64 →
        drayWord fn tk d a b s = finish s (.ok (s.drayEnqueue n (s.drayOrder tk fn blk) d)))) := by
  intro n c asked bad
  have badly : (blockBad false fn blk || (c.part.isNone && decide (n ≥ 48))) = true ↔ bad := by simp [bad]
  rw [drayWord, word_ready ready, freeOnly, if_neg (Bool.eq_false_iff.mp free)]
  extract_lets off sid
  rw [if_neg (not_not_intro aligned), localBytes, if_neg (Nat.not_lt.mpr inside), if_neg (Bool.eq_false_iff.mp written), read]
  extract_lets read fields cmd dray order q id numbered
  have same : order = s.drayOrder tk fn blk := rfl
  have at_ : dray = n := bits_zero ..
  clear_value numbered id q order dray
  subst same at_
  refine ⟨fun refused => by rw [if_pos (badly.mpr refused)], fun sound => ?_⟩
  rw [if_neg (mt badly.mp sound)]
  refine ⟨fun v fails => ?_, fun passes foreign => ?_, fun passes held keyed room => ?_⟩
  · rw [show (s.drayAsks (s.drayOrder tk fn blk)).findSome? _ = some v from fails]
  · rw [show (s.drayAsks (s.drayOrder tk fn blk)).findSome? _ = none from passes, foreign]
    rfl
  · have unsealed : ((s.drayOrder tk fn blk).sealing && !(s.key (s.drayOrder tk fn blk).vd).valid) = false := by
      simpa using show (s.drayOrder tk fn blk).sealing = true → (s.key _).valid = true from keyed
    rw [show (s.drayAsks (s.drayOrder tk fn blk)).findSome? _ = none from passes, held]
    dsimp only
    rw [unsealed, if_neg (by decide), if_neg (by decide), if_neg (Nat.not_le.mpr room)]

/-! ## The queue of a Dray (R271) -/

theorem kickDray_answers (rising : Rising s.strands) (dray n : Nat) : Answers s (s.kickDray dray n) s.me := by
  unfold State.kickDray
  split
  · exact answers_refl rising
  · exact (answers_refl rising).owe ..

theorem kickDray_owes (dray n : Nat) : ((s.kickDray dray n).agenda.any fun e => e.2 == .drayCommandStart dray) = true := by
  unfold State.kickDray
  split
  next owed => exact owed
  next => exact List.any_eq_true.mpr ⟨_, mem_agenda_owe .., beq_self_eq_true _⟩

/-- A queue that a command has entered under the next number. -/
def Dray.taking (q : Dray) (c : DrayCmd) : Dray :=
  { q with nextSeq := (q.nextSeq + 1) % 4294967296, cmds := q.cmds ++ [{ c with seq := q.nextSeq }] }

theorem drayEnqueue_eq (n : Nat) (c : DrayCmd) (d : GReg) : s.drayEnqueue n c d =
    (((s.setDray n ((s.dray n).taking c)).kickDray n 0).modMe fun x => { x with dqSince := none }).landG d
      (BitVec.ofNat 64 (commandId n (s.dray n).nextSeq)) 2 := rfl

/-- A command that enters a queue is its last, the Dray is due to look at it, and the strand owes the identifier. -/
theorem drayEnqueue_enters (canon : Canonical s) (n : Nat) (c : DrayCmd) : let t := s.drayEnqueue n c d
    (t.dray n).cmds = (s.dray n).cmds ++ [{ c with seq := (s.dray n).nextSeq }] ∧ (∀ k, k ≠ n → t.dray k = s.dray k) ∧
    (t.agenda.any fun e => e.2 == .drayCommandStart n) = true ∧
    Owed s t d (BitVec.ofNat 64 (commandId n (s.dray n).nextSeq)) 2 ∧ Quiet s t ∧ t.launches = s.launches ∧ t.pkg = s.pkg := by
  rw [drayEnqueue_eq]
  generalize entered : s.setDray n ((s.dray n).taking c) = u
  have rising : Rising u.strands := entered ▸ canon.rstrands
  have dray (k : Nat) : u.dray k = if k = n then (s.dray n).taking c else s.dray k := entered ▸ dray_setDray s n k _ canon.rdrays
  have kicked := kickDray_answers rising n 0
  have freed := kicked.trans (modMe_answers kicked.rising fun x => { x with dqSince := none })
  rw [kicked.me] at freed
  have landed := landG_answers freed.rising d (BitVec.ofNat 64 (commandId n (s.dray n).nextSeq)) 2
  have lands := freed.lands rfl rfl d (BitVec.ofNat 64 (commandId n (s.dray n).nextSeq)) 2
  have drays (k : Nat) := (lands.read (·.dray k)).trans (dray k)
  have owes := any_of_subset landed.agenda (kickDray_owes (s := u) n 0)
  refine ⟨(congrArg Dray.cmds (drays n)).trans (by rw [if_pos rfl]; rfl), fun k other => (drays k).trans (if_neg other), owes, ?_⟩
  subst entered
  exact ⟨lands.owed rfl, lands.quiet, lands.read State.launches, lands.pkg⟩

/-! ## The status of a command (R274, R275) -/

section
variable {n q : Nat} {c : DrayCmd}

theorem commandId_lt (hn : n < 48) : commandId n q < 2 ^ 40 := by
  unfold commandId
  omega

/-- The fields of a command's identifier. -/
theorem bits_commandId (hn : n < 48) (hq : q < 2 ^ 32) : bits (BitVec.ofNat 64 (commandId n q)) 0 8 = n ∧
    bits (BitVec.ofNat 64 (commandId n q)) 8 32 = q ∧ bits (BitVec.ofNat 64 (commandId n q)) 40 24 = 0 := by
  simp only [bits, field, commandId, BitVec.toNat_ofNat]
  omega

/-- A command that has not ended is not over. -/
theorem drayOver_of_open (running : Bool) (bytes : Nat) : drayOver (statusWord (if running then 1 else 0) 0 bytes) = false := by
  cases running <;> simp [drayOver, bits, field, statusWord] <;> omega

section
variable (hn : n < 48) (hq : q < 2 ^ 32)
include hn hq

theorem drayStatus_of_found (found : (s.dray n).cmds.find? (fun c => c.seq == q) = some c) (v : Nat) :
    s.drayStatus v (BitVec.ofNat 64 (commandId n q)) =
      if c.vd = v then statusWord (if c.running then 1 else 0) 0 c.bytes else 5 := by
  obtain ⟨dray, seq, zero⟩ := bits_commandId hn hq
  simp only [State.drayStatus, dray, seq, zero, found]
  exact if_neg (by omega)

theorem drayStatus_of_ended {w : Word} {v : Nat} (gone : (s.dray n).cmds.find? (fun c => c.seq == q) = none)
    (ended : (s.dray n).ended.reverse.find? (fun e => e.1 == q) = some (q, v, w)) :
    s.drayStatus v (BitVec.ofNat 64 (commandId n q)) = w := by
  obtain ⟨dray, seq, zero⟩ := bits_commandId hn hq
  simp only [State.drayStatus, dray, seq, zero, gone, ended, if_true]
  exact if_neg (by omega)

end

/-! ## A command that ends (R272, R274) -/

/-- A queue that a command has left with an outcome. -/
def Dray.ending (q : Dray) (c : DrayCmd) (state err : Nat) : Dray :=
  let ended := q.ended ++ [(c.seq, c.vd, statusWord state err c.bytes)]
  { q with cmds := q.cmds.filter fun k => decide (k.seq ≠ c.seq), ended := ended.drop (ended.length - 256) }

theorem mem_ending_cmds {x : DrayCmd} {d : Dray} {state err : Nat} :
    x ∈ (d.ending c state err).cmds ↔ x ∈ d.cmds ∧ x.seq ≠ c.seq := by
  simp [Dray.ending]

theorem find?_ending_cmds (d : Dray) (state err : Nat) : (d.ending c state err).cmds.find? (fun k => k.seq == c.seq) = none := by
  rw [List.find?_eq_none]
  intro x left
  simpa using (mem_ending_cmds.mp left).2

/-- The outcome is the latest, and so among the last 256. -/
theorem find?_ending_ended (d : Dray) (state err : Nat) :
    (d.ending c state err).ended.reverse.find? (fun e => e.1 == c.seq) = some (c.seq, c.vd, statusWord state err c.bytes) := by
  have kept : (d.ended ++ [(c.seq, c.vd, statusWord state err c.bytes)]).length - 256 ≤ d.ended.length := by
    rw [List.length_append, List.length_singleton]
    omega
  dsimp only [Dray.ending]
  rw [List.drop_append_of_le_length kept, List.reverse_append]
  exact List.find?_cons_of_pos (beq_self_eq_true _)

theorem wakeDwait_answers (rising : Rising s.strands) (dray seq : Nat) : Answers s (s.wakeDwait dray seq) s.me := by
  refine answers_foldl (fun s e rising => ?_) _ s rising
  split
  · split
    · exact (answers_refl rising).owe ..
    · exact answers_refl rising
  · exact answers_refl rising

theorem drayEnd_eq (c : DrayCmd) {state : Nat} (fine : state ≠ 4) (err : Nat) : s.drayEnd n c state err =
    ((s.setDray n ((s.dray n).ending c state err)).wakeDwait n c.seq).kickDray n 0 := if_neg fine

/-- A command that ends without an error: its status is kept, and nothing but that Dray changes beside the agenda. -/
theorem drayEnd_answers (canon : Canonical s) (c : DrayCmd) {state : Nat} (fine : state ≠ 4) (err : Nat) :
    Answers (s.setDray n ((s.dray n).ending c state err)) (s.drayEnd n c state err) s.me := by
  have woken := wakeDwait_answers (s := s.setDray n ((s.dray n).ending c state err)) canon.rstrands n c.seq
  have kicked := woken.trans (kickDray_answers woken.rising n 0)
  rw [woken.me] at kicked
  exact (drayEnd_eq c fine err).symm ▸ kicked

end

/-! ## The words (R274, R275) -/

section
variable {n q : Nat} {c : DrayCmd} (free : s.scored s.cur.sid = false) (hn : n < 48) (hq : q < 2 ^ 32)
  (id : s.rg a = BitVec.ofNat 64 (commandId n q)) (found : (s.dray n).cmds.find? (fun c => c.seq == q) = some c)
include free hn hq id found

section
variable (ready : s.Ready { src := [.g a], dst := [.g d], outward := true })
include ready

theorem dstat_lands : Does (.dstat d a) s (s.landG d
    (if c.vd = s.strandVd s.cur.sid then statusWord (if c.running then 1 else 0) 0 c.bytes else 5) 2) := by
  change finish s (word s _ _) = _
  rw [word_ready ready, freeOnly, if_neg (Bool.eq_false_iff.mp free), id, drayStatus_of_found hn hq found]
  rfl

/-- DCANCEL ends the command of its own VD, unless that is a migration or has an outcome already, and lands the status then. -/
theorem dcancel_lands {t : State}
    (left : (if c.vd = s.strandVd s.cur.sid ∧ c.mig = none ∧ c.result = none then s.drayEnd n c 3 0 else s) = t) :
    Does (.dcancel d a) s (t.landG d (t.drayStatus (s.strandVd s.cur.sid) (BitVec.ofNat 64 (commandId n q))) 2) := by
  obtain ⟨dray, seq, zero⟩ := bits_commandId hn hq
  change finish s (word s _ _) = _
  rw [word_ready ready, freeOnly, if_neg (Bool.eq_false_iff.mp free), id]
  simp only [dray, seq, zero, found, if_true, left]
  rfl

theorem dcancel_of_foreign (foreign : c.vd ≠ s.strandVd s.cur.sid) : Does (.dcancel d a) s (s.landG d 5 2) := by
  have lands := dcancel_lands (d := d) free hn hq id found ready (if_neg fun own => foreign own.1)
  rwa [drayStatus_of_found hn hq found, if_neg foreign] at lands

theorem dcancel_ends (canon : Canonical s) (own : c.vd = s.strandVd s.cur.sid) (plain : c.mig = none) (going : c.result = none) :
    ∃ t, exec (.dcancel d a) s = .next t ∧ t.last = .done ∧ (∀ x ∈ (t.dray n).cmds, x.seq ≠ q) ∧
      (∀ x ∈ (s.dray n).cmds, x.seq ≠ q → x ∈ (t.dray n).cmds) ∧ Owed s t d (statusWord 3 0 c.bytes) 2 ∧ Quiet s t := by
  have seq : c.seq = q := by simpa using List.find?_some found
  have ended := drayEnd_answers (n := n) canon c (state := 3) (by decide) 0
  have ending : (s.setDray n ((s.dray n).ending c 3 0)).dray n = (s.dray n).ending c 3 0 :=
    (dray_setDray s n n _ canon.rdrays).trans (if_pos rfl)
  have queue := (ended.read (·.dray n)).trans ending
  have status := drayStatus_of_ended (s := s.drayEnd n c 3 0) hn hq (v := c.vd) (w := statusWord 3 0 c.bytes)
    (by rw [← seq]; exact queue ▸ find?_ending_cmds ..) (by rw [← seq]; exact queue ▸ find?_ending_ended ..)
  have run := dcancel_lands (d := d) free hn hq id found ready (if_pos ⟨own, plain, going⟩)
  rw [← own, status] at run
  have lands := ended.lands rfl rfl d (statusWord 3 0 c.bytes) 2
  have left : _ = ((s.dray n).ending c 3 0).cmds := congrArg Dray.cmds ((lands.read (·.dray n)).trans ending)
  refine ⟨_, run, rfl, fun x stays => ?_, fun x queued other => ?_, lands.owed rfl, lands.quiet⟩
  · exact seq ▸ (mem_ending_cmds.mp (left ▸ stays)).2
  · exact left.symm ▸ mem_ending_cmds.mpr ⟨queued, seq ▸ other⟩

end

section
variable (ready : s.Ready { src := [.g a, .g b], dst := [.g d], outward := true })
include ready

theorem dwait_of_foreign (foreign : c.vd ≠ s.strandVd s.cur.sid) : Does (.dwait d a b) s (s.landG d 5 2) := by
  change finish s (word s _ _) = _
  rw [word_ready ready, freeOnly, if_neg (Bool.eq_false_iff.mp free), id]
  dsimp only
  rw [drayStatus_of_found hn hq found, if_neg foreign]
  rfl

theorem dwait_waits (rising : Rising s.strands) (own : c.vd = s.strandVd s.cur.sid) : ∃ t, exec (.dwait d a b) s = .next t ∧
    t.last = .done ∧ t.me.wait = some (.dwait (commandId n q) (s.turn + (s.rg b).toNat % 2 ^ 32) d s.seqNo s.turn) ∧
    Promised s t d ∧ Quiet s t := by
  have number : (s.rg a).toNat = commandId n q :=
    id ▸ BitVec.toNat_ofNat .. ▸ Nat.mod_eq_of_lt (Nat.lt_trans (commandId_lt hn) (by decide))
  have promises := promise_answers rising d
  obtain ⟨u, promised⟩ : ∃ u, (if d = 0 then s else s.promise (.g d) false) = u := ⟨_, rfl⟩
  rw [promised] at promises
  have seq := promises.seqNo rfl
  have turn := promises.turn rfl
  have reg : u.rg a = s.rg a := congrArg (·.rg a) promises.me
  have run : exec (.dwait d a b) s = .next { (u.modMe (·.awaiting
      (.dwait (commandId n q) (s.turn + (s.rg b).toNat % 2 ^ 32) d s.seqNo s.turn))).owe (some (u.clockOf s.cur.sid))
      (s.turn + (s.rg b).toNat % 2 ^ 32) prioWake (.dwaitWake s.cur.sid) with last := .done } := by
    change finish s (word s _ _) = _
    rw [word_ready ready, freeOnly, if_neg (Bool.eq_false_iff.mp free)]
    dsimp only
    rw [id, drayStatus_of_found hn hq found, if_pos own, drayOver_of_open, promised, reg, number, bits_zero, seq, turn]
    rfl
  have waits := promises.trans (modMe_answers promises.rising (·.awaiting
    (.dwait (commandId n q) (s.turn + (s.rg b).toNat % 2 ^ 32) d s.seqNo s.turn)))
  rw [promises.me] at waits
  exact ⟨_, run, rfl, congrArg Strand.wait waits.me, congrArg Strand.pend waits.me, waits.quiet⟩

end

end

end

/-! ## The statement -/

theorem drayWords : DrayWords := by
  intro s tk d a b canon free ready off sid aligned inside written blk n p word cmd c asked bad
  have run : exec p.1 s = drayWord p.2 tk d a b s := by
    simp only [List.mem_cons, List.not_mem_nil, or_false] at word
    obtain rfl | rfl | rfl | rfl | rfl | rfl := word <;> rfl
  obtain ⟨refused, judged⟩ := drayWord_judged (fn := p.2) ready free aligned inside written (blk := blk) rfl
  simp only [Does, Traps, run]
  refine ⟨refused, fun sound => ?_⟩
  obtain ⟨fails, foreign, enters⟩ := judged sound
  exact ⟨fails, foreign, fun passes held keyed room => ⟨_, enters passes held keyed room, rfl, drayEnqueue_enters canon n _⟩⟩

theorem drayStatusWords : DrayStatusWords := by
  intro s d a b n q c canon free hn hq id found
  refine ⟨fun ready => ?_,
    fun ready => ⟨dwait_waits free hn hq id found ready canon.rstrands, dwait_of_foreign free hn hq id found ready⟩⟩
  have stat := dstat_lands (d := d) free hn hq id found ready
  refine ⟨fun own => ⟨?_, fun plain going => dcancel_ends free hn hq id found ready canon own plain going⟩,
    fun foreign => ⟨?_, dcancel_of_foreign free hn hq id found ready foreign⟩⟩
  · rwa [if_pos own] at stat
  · rwa [if_neg foreign] at stat

/-- Settles O38: DRAY by what its block and its ticket are judged, and the words on a command by its status. -/
theorem drayCommands : Obligations.DrayCommands := ⟨drayWords, drayStatusWords⟩

end Sys2Proof.Machine
end

section
/-! Laws of what the accesses of the network engine leave alone (R190, R226, R233, R250): the strands, their launches and the queue
pairs. -/
namespace Sys2Proof.Machine

/-- What the words and the events of a queue pair read and change beside the ring images, and what no access of an engine touches. -/
structure Posting where
  cur : Cursor
  strands : Sparse Strand
  launches : Sparse Launch
  qps : Sparse Qp

def State.posting (s : State) : Posting := ⟨s.cur, s.strands, s.launches, s.qps⟩

/-- A change of the memory and of its seals alone. It is cited where a plain `rfl` would first compare the memories. -/
theorem posting_of_memory (s : State) (mem : Sparse Byte) (ckpt : Ckpt) (tree : Sparse Nat) (dirty : List Nat) :
    State.posting { s with mem := mem, ckpt := ckpt, tree := tree, dirty := dirty } = s.posting := rfl

section
variable (s : State)

/-! ## Performed writes (R346, R349, R372) -/

theorem enterUnit_posting (u : Nat) : (s.enterUnit u).posting = s.posting := by
  unfold State.enterUnit
  split
  · rfl
  · split <;> rfl

theorem mergeLine_posting (u line : Nat) : (s.mergeLine u line).posting = s.posting := by
  unfold State.mergeLine
  split
  · split
    · rfl
    · exact posting_of_memory s _ _ s.tree s.dirty
  · rfl

theorem memPut_posting (a : Nat) (b : Byte) : (s.memPut a b).posting = s.posting := by
  have diverted : (s.divert a).posting = s.posting := by
    rw [divert_eq]
    split
    · exact (mergeLine_posting ..).trans (enterUnit_posting ..)
    · rfl
  unfold State.memPut
  split
  · rfl
  · split
    · exact diverted
    · rfl

theorem memPuts_posting (a : Nat) : (bs : List Byte) → (s : State) → (s.memPuts a bs).posting = s.posting
  | [], _ => rfl
  | b :: bs, s => (memPuts_posting (a + 1) bs (s.memPut a b)).trans (memPut_posting s a b)

theorem vdschedHook_posting (p : Nat) : (s.vdschedHook p).posting = s.posting := by
  refine foldl_keeps State.posting (fun s x => ?_) _ s
  split
  · rfl
  · split <;> rfl

theorem ctlHook_posting (a n : Nat) : (s.ctlHook a n).posting = s.posting := by
  have guarded (c : Prop) [Decidable c] {t u : State} (h : u.posting = t.posting) : (if c then u else t).posting = t.posting := by
    split
    · exact h
    · rfl
  unfold State.ctlHook
  split
  · rfl
  · extract_lets off hits t1 t2 t3
    have kept1 : t1.posting = s.posting := guarded _ rfl
    have kept2 : t2.posting = t1.posting := guarded _ (vdschedHook_posting ..)
    have kept3 : t3.posting = t2.posting := guarded _ rfl
    refine .trans ?_ (kept3.trans (kept2.trans kept1))
    exact guarded _ rfl

theorem vdctlHook_posting (a n : Nat) : (s.vdctlHook a n).posting = s.posting := by
  unfold State.vdctlHook
  extract_lets v w d set
  split
  · split
    · split
      · rfl
      · split <;> rfl
    · split <;> rfl
  · rfl

theorem memWrite_posting (a : Nat) (bs : List Byte) : (s.memWrite a bs).posting = s.posting := by
  rw [State.memWrite, vdctlHook_posting, ctlHook_posting, memPuts_posting]

/-! ## Writes at the ports (R190, R226, R230, R233) -/

theorem treeBump_posting (level child : Nat) : (s.treeBump level child).posting = s.posting := by
  unfold State.treeBump
  extract_lets +onlyGivenNames c
  split
  · extract_lets +onlyGivenNames kids cleared
    have kept : cleared.posting = s.posting := posting_of_memory s s.mem s.ckpt _ s.dirty
    clear_value cleared
    refine (foldl_keeps State.posting (fun t i => ?_) kids cleared).trans kept
    split <;> rfl
  · rfl

theorem treeWrite_posting (blk : Nat) : (s.treeWrite blk).posting = s.posting := by
  have cached (t : State) : (t.cachePath blk).posting = t.posting := rfl
  have written (t : State) (level n : Nat) : (t.writeNode level n).posting = t.posting := rfl
  unfold State.treeWrite
  rw [cached, foldl_keeps State.posting fun _ _ => written .., foldl_keeps State.posting fun _ _ => treeBump_posting ..]

theorem initFrame_posting (f : Nat) {write : State → State} (h : ∀ s, (write s).posting = s.posting) :
    (s.initFrame f write).posting = s.posting := by
  have sealed (t : State) (la : Nat) (l : Line) : (t.setLine la l).posting = t.posting := rfl
  unfold State.initFrame
  rw [foldl_keeps State.posting fun _ _ => sealed .., treeWrite_posting, h]
  rfl

theorem mcTouch_posting (pa kid : Nat) (part : Option Nat) (write : Bool) : (s.mcTouch pa kid part write).1.posting = s.posting :=
  show (s.mcTouch pa kid part write).1.decached.posting = s.decached.posting from congrArg State.posting (mcTouch_decached ..)

theorem physWrite_posting (pa : Nat) (bs : List Byte) (part : Option Nat) (cached : Bool) :
    (s.physWrite pa bs part cached).posting = s.posting := by
  have fresh : (s.initFrame (pa / 4096) fun s => s.memWrite pa bs).posting = s.posting :=
    initFrame_posting s _ fun s => memWrite_posting s pa bs
  unfold State.physWrite
  dsimp only
  split
  · split
    · split
      · exact (mcTouch_posting ..).trans fresh
      · exact fresh
    · split
      · exact (mcTouch_posting ..).trans (memWrite_posting ..)
      · exact memWrite_posting ..
  · exact memWrite_posting ..

theorem relayWrite_posting (w pa : Nat) (bs : List Byte) : (s.relayWrite w pa bs).posting = s.posting := by
  unfold State.relayWrite
  dsimp only
  split
  · exact (physWrite_posting ..).trans (physWrite_posting ..)
  · exact physWrite_posting ..

/-! ## Writes of a VD at their homes (R238) -/

theorem homeWrite_posting (v pa : Nat) (bs : List Byte) (part : Option Nat) (at_ : Attr) :
    (s.homeWrite v pa bs part at_).posting = s.posting := by
  unfold State.homeWrite
  split
  · exact relayWrite_posting ..
  · exact physWrite_posting ..

theorem vdPuts_posting (v : Nat) (part : Option Nat) (whole : Nat → Bool) : (l : List ((Nat × Attr) × (Nat × Nat))) → (bs : List Byte) →
    (s : State) → (s.vdPuts v part whole l bs).posting = s.posting
  | [], _, _ => rfl
  | ((pa, at_), (a, n)) :: l, bs, s => by
    have cleaned (t : State) (la : Nat) : (t.cleanLine la).posting = t.posting := rfl
    unfold State.vdPuts
    dsimp only
    rw [vdPuts_posting, homeWrite_posting]
    split
    · exact cleaned ..
    · rfl

theorem vdWrite_posting {t : State} {v a : Nat} {program : Bool} {part : Option Nat} {whole : Nat → Bool} {bs rs : List Byte}
    (written : s.vdWrite v program part whole a bs = .ok t rs) : t.posting = s.posting := by
  unfold State.vdWrite at written
  dsimp only at written
  split at written
  · cases written
  · split at written
    · cases written
    · cases written
      exact vdPuts_posting ..

/-! ## The network engine (R250, R276) -/

theorem chargeLine_posting (v detail : Nat) : (s.chargeLine v detail).posting = s.posting :=
  show (s.chargeLine v detail).uncharged.posting = s.uncharged.posting from congrArg State.posting (chargeLine_uncharged ..)

/-- The state that a part of a unit leaves. -/
def Part.state : Part → State
  | .wait s | .fail _ s | .ok s _ => s

theorem partFail_posting (v : Nat) (t : TrapInfo) : (s.partFail v t).state.posting = s.posting := by
  unfold State.partFail
  split
  · exact chargeLine_posting ..
  · rfl

theorem netWrite_posting (c : DrayCmd) (a : Nat) (bs : List Byte) : (s.netWrite c a bs).state.posting = s.posting := by
  have homed (program : Bool) (whole : Nat → Bool) :
      ((s.vdWrite c.vd program c.part whole a bs).part s fun t => s.partFail c.vd t).state.posting = s.posting := by
    generalize home : s.vdWrite c.vd program c.part whole a bs = h
    cases h with
    | wait => rfl
    | fail t => exact partFail_posting ..
    | ok t rs => exact vdWrite_posting s home
  unfold State.netWrite State.drayWrites
  dsimp only
  split
  · contradiction
  · split
    · split
      · split
        · rfl
        · split
          · rfl
          · exact homed ..
      · exact homed ..
    · contradiction

/-- The image of an entry in a ring changes nothing but memory and what a write to it changes. -/
theorem ringImage_posting {r : State} {q base log idx : Nat} {entry : List Byte} (image : s.ringImage q base log idx entry = some r) :
    r.posting = s.posting := by
  have wrote (c : DrayCmd) (a : Nat) := netWrite_posting s c a entry
  unfold State.ringImage at image
  dsimp only at image
  split at image
  next => cases image
  next err t failed => cases image; exact (congrArg (·.state.posting) failed).symm.trans (wrote ..)
  next t rs done => cases image; exact (congrArg (·.state.posting) done).symm.trans (wrote ..)

/-- An interrupt. -/
theorem postIrq_posting (v source : Nat) : (s.postIrq v source).posting = s.posting := by
  have counted (t : State) (p : Nat) : (t.countDiscard (some p)).posting = t.posting :=
    show (t.countDiscard (some p)).uncharged.posting = t.uncharged.posting from congrArg State.posting (countErr_uncharged ..)
  obtain ⟨picks, agenda, woken⟩ := wakePart_eq s (s.vd v).part
  unfold State.postIrq
  dsimp only
  split
  · rw [counted, woken]
    rfl
  · rw [woken]
    rfl

theorem kickNet_posting (q n : Nat) : (s.kickNet q n).posting = s.posting := by
  unfold State.kickNet
  split <;> rfl

end

end Sys2Proof.Machine
end

section
/-! Laws of the completions of a queue pair (R250, R278), and proof of the statement on the events of the network engine. -/
namespace Sys2Proof.Machine
open Sys2Proof.Claims

/-! ## Completions in order -/

/-- A queue pair without its completions. -/
def Qp.uncompleted (k : Qp) : Qp := { k with comp := [], late := [], comps := 0 }

/-- Completions of a queue pair: the given ones come after those that it has, and nothing else of it changes, nor a strand. -/
structure Completes (q : Nat) (s t : State) (l : List (Nat × Word)) : Prop where
  strands : t.strands = s.strands
  rising : Rising t.qps
  order : (t.qp q).comp ++ (t.qp q).late = (s.qp q).comp ++ (s.qp q).late ++ l
  rest : (t.qp q).uncompleted = (s.qp q).uncompleted

section
variable {q : Nat} {s t u : State} {l m : List (Nat × Word)} {w : WorkReq} {r : Nat}

theorem qps_of_posting (h : t.posting = s.posting) : t.qps = s.qps := congrArg Posting.qps h

theorem qp_of_posting (h : t.posting = s.posting) (q : Nat) : t.qp q = s.qp q :=
  show tget {} q t.qps = tget {} q s.qps by rw [qps_of_posting h]

theorem Completes.of_posting (h : t.posting = s.posting) (rising : Rising s.qps) : Completes q s t [] where
  strands := congrArg Posting.strands h
  rising := qps_of_posting h ▸ rising
  order := by rw [qp_of_posting h, List.append_nil]
  rest := by rw [qp_of_posting h]

theorem Completes.trans (h : Completes q s t l) (g : Completes q t u m) : Completes q s u (l ++ m) where
  strands := g.strands.trans h.strands
  rising := g.rising
  order := by rw [g.order, h.order, List.append_assoc]
  rest := g.rest.trans h.rest

theorem Completes.send (h : Completes q s t l) : (t.qp q).send = (s.qp q).send := by
  have same := congrArg Qp.send h.rest
  exact same

theorem Completes.recv (h : Completes q s t l) : (t.qp q).recv = (s.qp q).recv := by
  have same := congrArg Qp.recv h.rest
  exact same

theorem Completes.errored (h : Completes q s t l) : (t.qp q).errored = (s.qp q).errored := by
  have same := congrArg Qp.errored h.rest
  exact same

theorem setQp_completes (rising : Rising s.qps) {k : Qp} (order : k.comp ++ k.late = (s.qp q).comp ++ (s.qp q).late ++ l)
    (rest : k.uncompleted = (s.qp q).uncompleted) : Completes q s (s.setQp q k) l where
  strands := rfl
  rising := rising_tput rising
  order := by rwa [qp_setQp s q q k rising, if_pos rfl]
  rest := by rwa [qp_setQp s q q k rising, if_pos rfl]

theorem compEnter_completes : (n : Nat) → (s : State) → Rising s.qps → Completes q s (State.compEnter q n s) []
  | 0, _, rising => .of_posting rfl rising
  | n + 1, s, rising => by
    unfold State.compEnter
    dsimp only
    split
    next => exact .of_posting rfl rising
    next e rest late =>
      split
      · exact .of_posting rfl rising
      · split
        next => exact .of_posting (kickNet_posting ..) rising
        next r image =>
          have imaged : Completes q s r [] := .of_posting (ringImage_posting s image) rising
          have same := qp_of_posting (ringImage_posting s image) q
          have entered := setQp_completes (q := q) imaged.rising (l := []) (k := { r.qp q with
            late := rest, comp := (s.qp q).comp ++ [e], comps := (s.qp q).comps + 1 }) (by simp [same, late]) rfl
          have told := Completes.of_posting (q := q) (postIrq_posting _ (s.qp q).vd 5) entered.rising
          exact imaged.trans (entered.trans (told.trans (compEnter_completes n _ told.rising)))

theorem netComplete_completes (rising : Rising s.qps) (status : Nat) (wrid : Word) :
    Completes q s (s.netComplete q status wrid) [(status, wrid)] := by
  have added := setQp_completes (q := q) rising (l := [(status, wrid)]) (k := { s.qp q with late := (s.qp q).late ++ [(status, wrid)] })
    (List.append_assoc ..).symm rfl
  exact added.trans (compEnter_completes _ _ added.rising)

theorem foldl_netComplete (f : WorkReq → Nat) : (l : List WorkReq) → (s : State) → Rising s.qps →
    Completes q s (l.foldl (fun s w => s.netComplete q (f w) w.wrid) s) (l.map fun w => (f w, w.wrid))
  | [], _, rising => .of_posting rfl rising
  | w :: l, _, rising =>
    have first := netComplete_completes (q := q) rising (f w) w.wrid
    first.trans (foldl_netComplete f l _ first.rising)

/-- A lone request that has its status leaves the send ring and completes. -/
theorem netFlush_completes (rising : Rising s.qps) (send : (s.qp q).send = [w]) (result : w.result = some r) :
    let t := State.netFlush q 1 s
    (t.qp q).send = [] ∧ (t.qp q).recv = (s.qp q).recv ∧
    (t.qp q).comp ++ (t.qp q).late = (s.qp q).comp ++ (s.qp q).late ++ [(r, w.wrid)] ∧ t.strands = s.strands := by
  have flushed : State.netFlush q 1 s = (s.setQp q { s.qp q with send := [] }).netComplete q r w.wrid := by
    simp only [State.netFlush, send, result]
  have done := netComplete_completes (q := q) (s := s.setQp q { s.qp q with send := [] }) (rising_tput rising) r w.wrid
  have left := qp_setQp s q q { s.qp q with send := [] } rising
  rw [if_pos rfl] at left
  have order := done.order
  have send := done.send
  have recv := done.recv
  rw [left] at order send recv
  rw [flushed]
  exact ⟨send, recv, order, done.strands⟩

theorem netResult_completes (rising : Rising s.qps) (send : (s.qp q).send = [w]) {f : WorkReq → Bool} (first : f w = true) (r : Nat) :
    let t := s.netResult q f r
    (t.qp q).send = [] ∧ (t.qp q).comp ++ (t.qp q).late = (s.qp q).comp ++ (s.qp q).late ++ [(r, w.wrid)] ∧ t.strands = s.strands := by
  have set_ := qp_setQp s q q { s.qp q with send := [{ w with result := some r }] } rising
  rw [if_pos rfl] at set_
  have flushed := netFlush_completes (q := q) (s := s.setQp q { s.qp q with send := [{ w with result := some r }] }) (rising_tput rising)
    (congrArg Qp.send set_) rfl
  rw [set_] at flushed
  have run : s.netResult q f r = State.netFlush q 1 (s.setQp q { s.qp q with send := [{ w with result := some r }] }) := by
    simp only [State.netResult, send, setResult, first, if_true, List.length_singleton]
  rw [run]
  obtain ⟨send', -, order, strands⟩ := flushed
  exact ⟨send', order, strands⟩

/-- Every outstanding request completes when a queue pair falls into the error state. -/
theorem netError_completes (rising : Rising s.qps) (recv : (s.qp q).recv = []) : let t := s.netError q
    (t.qp q).errored = true ∧ (t.qp q).send = [] ∧
    (t.qp q).comp.length + (t.qp q).late.length = (s.qp q).comp.length + (s.qp q).late.length + (s.qp q).send.length := by
  have left := qp_setQp s q q { s.qp q with errored := true, send := [], recv := [], replies := [] } rising
  rw [if_pos rfl] at left
  have done : Completes q _ (s.netError q) _ := foldl_netComplete (fun w => w.result.getD 1) ((s.qp q).send ++ (s.qp q).recv)
    (s.setQp q { s.qp q with errored := true, send := [], recv := [], replies := [] }) (rising_tput rising)
  refine ⟨done.errored.trans (congrArg Qp.errored left), done.send.trans (congrArg Qp.send left), ?_⟩
  have order := congrArg List.length done.order
  simpa only [left, recv, List.append_nil, List.length_append, List.length_map] using order

/-- A send that is longer than the receive that it takes. -/
theorem netReceive_tooLong (rising : Rising s.qps) {m : NetMsg} (recv : (s.qp q).recv = [w]) (long : w.len < m.len) :
    let t := s.netReceive q m
    (t.qp q).recv = [] ∧ (t.qp q).comp ++ (t.qp q).late = (s.qp q).comp ++ (s.qp q).late ++ [(5, w.wrid)] := by
  have taken : s.netReceive q m = (s.setQp q { s.qp q with recv := [] }).netComplete q 5 w.wrid := by
    simp only [State.netReceive, recv, if_pos long]
  have left := qp_setQp s q q { s.qp q with recv := [] } rising
  rw [if_pos rfl] at left
  have done := netComplete_completes (q := q) (s := s.setQp q { s.qp q with recv := [] }) (rising_tput rising) 5 w.wrid
  have order := done.order
  have recv := done.recv
  rw [left] at order recv
  rw [taken]
  exact ⟨recv, order⟩

end

/-! ## The statement on events -/

section
variable {s : State} {q : Nat} {w : WorkReq} {m : NetMsg}

theorem networkInbound_runs (exists_ : (s.qp q).exists_ = true) (sound : (s.qp q).errored = false) :
    (m.op = 3 → exec (.networkInbound q m) s = .next (s.setQp q { s.qp q with rate := { (s.qp q).rate with marked := true } })) ∧
    (m.op = 0 → ∃ u : State, u.posting = s.posting ∧ exec (.networkInbound q m) s = .next (u.netReceive q { m with ecn := false })) := by
  constructor
  · intro echo
    change execNetworkInbound .. = _
    simp [execNetworkInbound, exists_, sound, echo]
  · intro message
    refine ⟨if m.ecn then { s with netOut := s.netOut ++ [{ qp := q, op := 5, len := 0 }] } else s, by split <;> rfl, ?_⟩
    change execNetworkInbound .. = _
    simp [execNetworkInbound, exists_, sound, message]

section
variable (canon : Canonical s)
include canon

theorem networkWorkRequest_completes {status : Nat} (reply : List Byte) (send : (s.qp q).send = [w]) (sent : w.sent = true)
    (open_ : w.result = none) (plain : w.op ≠ 2) (known : status ≤ 5) : Runs (.networkWorkRequest q status reply) s fun t =>
      (t.qp q).send = [] ∧ (t.qp q).comp ++ (t.qp q).late = (s.qp q).comp ++ (s.qp q).late ++ [(status, w.wrid)] ∧
      t.strands = s.strands := by
  have first : (w.sent && w.result.isNone) = true := by rw [sent, open_]; rfl
  refine ⟨_, ?_, netResult_completes canon.rqps send (f := fun w => w.sent && w.result.isNone) first status⟩
  change execNetworkWorkRequest .. = _
  have other : status ≠ engineTurn := by unfold engineTurn; omega
  simp [execNetworkWorkRequest, if_neg other, send, first, plain, known]

theorem networkTimeout_completes (send : (s.qp q).send = [w]) (open_ : w.result = none)
    (young : ∀ y ∈ (s.qp q).recv, s.pkg.ency < y.posted + 2 ^ 28) (old : w.posted + 2 ^ 28 ≤ s.pkg.ency) :
    Runs (.networkTimeout q) s fun t => (t.qp q).send = [] ∧ (t.qp q).recv = (s.qp q).recv ∧
      (t.qp q).comp ++ (t.qp q).late = (s.qp q).comp ++ (s.qp q).late ++ [(3, w.wrid)] ∧ t.strands = s.strands := by
  have late : ((s.qp q).recv.filter fun y => decide (y.posted + 268435456 ≤ s.pkg.ency)) = [] :=
    List.filter_eq_nil_iff.mpr fun y mem => by simpa using young y mem
  have kept : ((s.qp q).recv.filter fun y => !decide (y.posted + 268435456 ≤ s.pkg.ency)) = (s.qp q).recv :=
    List.filter_eq_self.mpr fun y mem => by simpa using young y mem
  have set_ := qp_setQp s q q { s.qp q with send := [{ w with result := some 3 }] } canon.rqps
  rw [if_pos rfl] at set_
  have flushed := netFlush_completes (q := q) (s := s.setQp q { s.qp q with send := [{ w with result := some 3 }] })
    (rising_tput canon.rqps) (congrArg Qp.send set_) rfl
  rw [set_] at flushed
  refine ⟨_, ?_, flushed⟩
  change execNetworkTimeout .. = _
  have old' : w.posted + 268435456 ≤ s.pkg.ency := old
  simp [execNetworkTimeout, send, open_, old', late, kept]

theorem queuePairCreation_creates {cf : QpConfig} (new : (s.qp q).exists_ = false)
    (logs : ∀ n ∈ [cf.sendLog, cf.recvLog, cf.compLog], 4 ≤ n ∧ n ≤ 15) : Runs (.queuePairCreation q cf) s fun t =>
      (t.qp q).exists_ = true ∧ (t.qp q).vd = cf.vd ∧ (t.qp q).send = [] ∧ (t.qp q).recv = [] ∧ (t.qp q).comp = [] ∧
      (t.qp q).errored = false ∧ (∀ j, j ≠ q → t.qp j = s.qp j) ∧ t.mem = s.mem ∧ t.strands = s.strands := by
  have fine (n : Nat) (mem : n ∈ [cf.sendLog, cf.recvLog, cf.compLog]) : ringLogOk n = true := by
    simpa [ringLogOk] using logs n mem
  have refused : (!(ringLogOk cf.sendLog && ringLogOk cf.recvLog && ringLogOk cf.compLog) || (s.qp q).exists_) = false := by
    simp [fine, new]
  have qp (k : Qp) (j : Nat) := qp_setQp s q j k canon.rqps
  have run : exec (.queuePairCreation q cf) s = execQueuePairCreation q cf s := rfl
  rw [Runs, run, execQueuePairCreation, refused]
  refine ⟨_, rfl, ?_⟩
  rw [if_neg (by decide)]
  simp +contextual [qp]

end

end

theorem networkEvents : NetworkEvents := by
  intro s q w status reply m cf canon k
  refine ⟨fun send sent open_ plain known => networkWorkRequest_completes canon reply send sent open_ plain known,
    fun send open_ young old => networkTimeout_completes canon send open_ young old,
    fun exists_ sound => ?_, fun new logs => queuePairCreation_creates canon new logs⟩
  obtain ⟨echo, message⟩ := networkInbound_runs (m := m) exists_ sound
  refine ⟨echo, fun op recv long => ?_, fun op recv strict => ?_⟩
  · obtain ⟨u, same, run⟩ := message op
    have rising : Rising u.qps := qps_of_posting same ▸ canon.rqps
    have qp := qp_of_posting same q
    have ends := netReceive_tooLong rising (m := { m with ecn := false }) ((congrArg Qp.recv qp).trans recv) long
    rw [qp] at ends
    exact ⟨_, run, ends⟩
  · obtain ⟨u, same, run⟩ := message op
    have rising : Rising u.qps := qps_of_posting same ▸ canon.rqps
    have qp := qp_of_posting same q
    have empty : (u.qp q).recv = [] := (congrArg Qp.recv qp).trans recv
    have mode : (u.qp q).strict = true := (congrArg Qp.strict qp).trans strict
    have ends := netError_completes rising empty
    rw [qp] at ends
    refine ⟨_, run.trans ?_, ends⟩
    simp [State.netReceive, State.netViolation, empty, mode]

end Sys2Proof.Machine
end

section
/-! Proof of the statement on the network words (O52): what NPOLL takes, and what NPOST answers a request. -/
namespace Sys2Proof.Machine
open Sys2Proof.Claims

/-! ## A check of an address -/

/-- A check of an address changes nothing but the cores and the picks. -/
theorem checkAccess_eq {s u : State} {sid ea n : Nat} {sp : Space} {r : Right} {use : MemUse} {o : Except TrapInfo Access}
    (checked : s.checkAccess sid sp ea n r use = (u, o)) : ∃ cores picks, u = { s with cores := cores, picks := picks } := by
  have kept := checkAccess_coreless s sid sp ea n r use
  rw [checked] at kept
  have same := congrArg (fun t : State => { t with cores := u.cores, picks := u.picks }) kept
  exact ⟨u.cores, u.picks, same⟩

/-! ## A queue pair that a word has changed -/

section
variable {s r v : State} {q n : Nat} {k : Qp} {d : GReg} {w : WorkReq}

theorem Answers.after {x : Strand} (h : Answers s v x) (n prio : Nat) (e : Event) : Answers s (v.after n prio e) x := h.owe ..

theorem kickNet_answers (rising : Rising s.strands) (q n : Nat) : Answers s (s.kickNet q n) s.me := by
  unfold State.kickNet
  split
  · exact answers_refl rising
  · exact (answers_refl rising).after ..

/-- A word that changes a queue pair, and then lands its result. -/
theorem setQp_lands (rising : Rising s.qps) (h : Answers (s.setQp q k) v s.me) (x : Word) (n : Nat) : let t := v.landG d x n
    t.qp q = k ∧ (∀ j, j ≠ q → t.qp j = s.qp j) ∧ Owed s t d x n ∧ Quiet s t := by
  have lands := h.lands rfl rfl d x n
  have qp (j : Nat) := (lands.read (·.qp j)).trans (qp_setQp s q j k rising)
  exact ⟨(qp q).trans (if_pos rfl), fun j other => (qp j).trans (if_neg other), lands.owed rfl, lands.quiet⟩

theorem owed_of_posting {t : State} {x : Word} (same : r.posting = s.posting) (h : Owed r t d x n) : Owed s t d x n := by
  have cur : r.cur = s.cur := congrArg Posting.cur same
  have strands : r.strands = s.strands := congrArg Posting.strands same
  have launches : r.launches = s.launches := congrArg Posting.launches same
  have strand (k : Nat) : r.strand k = s.strand k := by rw [State.strand, strands]; rfl
  have me : r.me = s.me := by rw [State.me, strand, cur]; rfl
  have turn : r.turn = s.turn := by
    rw [State.turn, State.lcy, State.clockOf, strand, State.lcyL, State.launch, launches, cur]
    rfl
  unfold Owed at h ⊢
  rwa [State.seqNo, me, turn] at h

end

/-! ## NPOLL (R278) -/

section
variable {s : State} {d a : GReg} {q : Nat} (ready : s.Ready { src := [.g a], dst := [.g d], outward := true })
  (free : s.scored s.cur.sid = false) (number : (s.rg a).toNat % 4096 = q)
include ready free number

theorem npoll_of_foreign (foreign : ¬ ((s.qp q).exists_ = true ∧ (s.qp q).vd = s.strandVd s.cur.sid)) :
    Traps (.npoll d a) s { cause := 8, eval := s.rg a } := by
  have at_ : bits (s.rg a) 0 12 = q := (bits_zero _ 12).trans number
  change finish s (word s _ _) = _
  rw [word_ready ready, freeOnly, if_neg (Bool.eq_false_iff.mp free)]
  dsimp only
  rw [at_, if_pos (by simpa [imp_iff_not_or] using foreign)]
  rfl

section
variable (exists_ : (s.qp q).exists_ = true) (own : (s.qp q).vd = s.strandVd s.cur.sid)
include exists_ own

theorem npoll_of_empty (empty : (s.qp q).comp = []) : Does (.npoll d a) s (s.landG d 0 2) := by
  have at_ : bits (s.rg a) 0 12 = q := (bits_zero _ 12).trans number
  change finish s (word s _ _) = _
  rw [word_ready ready, freeOnly, if_neg (Bool.eq_false_iff.mp free)]
  dsimp only
  rw [at_, if_neg (by simp [exists_, own]), empty]
  rfl

theorem npoll_takes {st : Nat} {w : Word} {rest : List (Nat × Word)} (comp : (s.qp q).comp = (st, w) :: rest) (canon : Canonical s) :
    ∃ t, exec (.npoll d a) s = .next t ∧ t.last = .done ∧ t.qp q = { s.qp q with comp := rest } ∧ (∀ k, k ≠ q → t.qp k = s.qp k) ∧
      Owed s t d (BitVec.ofNat 64 (2 ^ 63 + 2 ^ 32 * st + w.toNat % 2 ^ 32)) 2 ∧ Quiet s t := by
  have at_ : bits (s.rg a) 0 12 = q := (bits_zero _ 12).trans number
  obtain ⟨v, kicked, answers⟩ : ∃ v, (if (s.qp q).late.isEmpty then s.setQp q { s.qp q with comp := rest } else
      (s.setQp q { s.qp q with comp := rest }).kickNet q 1) = v ∧ Answers (s.setQp q { s.qp q with comp := rest }) v s.me := by
    refine ⟨_, rfl, ?_⟩
    split
    · exact answers_refl canon.rstrands
    · exact kickNet_answers (s := s.setQp q _) canon.rstrands q 1
  refine ⟨{ v.landG d (completionWord (st, w)) 2 with last := .done }, ?_, rfl,
    setQp_lands canon.rqps answers (completionWord (st, w)) 2⟩
  change finish s (word s _ _) = _
  rw [word_ready ready, freeOnly, if_neg (Bool.eq_false_iff.mp free)]
  dsimp only
  rw [at_, if_neg (by simp [exists_, own]), comp]
  exact congrArg (fun v : State => finish s (.ok (v.landG d (completionWord (st, w)) 2))) kicked

end

end

/-! ## NPOST (R276) -/

/-- The request that a strand posts with a block. -/
def State.workRequest (s : State) (blk : List Byte) : WorkReq :=
  { workOf blk with
    sid := s.cur.sid, wseq := s.seqNo, vd := s.strandVd s.cur.sid, priv := s.me.priv, core := coreOf s.cur.sid, posted := s.pkg.ency
    need := if blockField blk 0 1 = 2 then 0 else blockField blk 4 4 }

section
variable {s : State} {q : Nat} {w : WorkReq} {bad : Bool} {t : Ticket}

theorem npostStatus_of_foreign (foreign : ¬ ((s.qp q).exists_ = true ∧ (s.qp q).vd = s.strandVd w.sid)) :
    npostStatus q w bad t s = .ok 4 := if_pos (by simpa [imp_iff_not_or] using foreign)

section
variable (own : (s.qp q).exists_ = true ∧ (s.qp q).vd = s.strandVd w.sid)
include own

theorem npostStatus_of_bad : npostStatus q w true t s = .ok 3 := by
  simp [npostStatus, own]

theorem npostStatus_of_user (op : w.op = 3 ∨ w.op = 4) (priv : w.priv = 0) : npostStatus q w false t s = .ok 5 := by
  have keys : 3 ≤ w.op ∧ w.op ≤ 4 := by omega
  simp [npostStatus, own, keys, priv]

section
variable (allowed : (w.op ≠ 3 ∧ w.op ≠ 4) ∨ w.priv ≠ 0)
include allowed

theorem npostStatus_of_errored (errored : (s.qp q).errored = true) : npostStatus q w false t s = .ok 2 := by
  have fine : ¬ (3 ≤ w.op ∧ w.op ≤ 4 ∧ w.priv = 0) := by omega
  simp [npostStatus, own, if_neg fine, errored]

end

section
variable (sound : (s.qp q).errored = false)
include sound

theorem npostStatus_of_regFails (op : w.op = 3) (priv : w.priv ≠ 0) {v : Nat} (fails : s.tkFails t (regAsk t) = some v) :
    npostStatus q w false t s = .error v := by
  simp [npostStatus, own, sound, op, priv, fails]

theorem npostStatus_of_reg (op : w.op = 3) (priv : w.priv ≠ 0) (passes : s.tkFails t (regAsk t) = none) :
    npostStatus q w false t s = .ok 0 := by
  simp [npostStatus, own, sound, op, priv, passes]

theorem npostStatus_of_dereg (op : w.op = 4) (priv : w.priv ≠ 0) : npostStatus q w false t s = .ok 0 := by
  simp [npostStatus, own, sound, op, priv]

theorem npostStatus_of_recv (op : w.op = 5) :
    npostStatus q w false t s = .ok (if 2 ^ (s.qp q).recvLog ≤ (s.qp q).recv.length then 1 else 0) := by
  simp [npostStatus, own, sound, op]

theorem npostStatus_of_send (op : w.op ≤ 2) :
    npostStatus q w false t s = .ok (if 2 ^ (s.qp q).sendLog ≤ (s.qp q).send.length then 1 else 0) := by
  have plain : w.op ≠ 3 ∧ w.op ≠ 4 ∧ w.op ≠ 5 ∧ ¬ 3 ≤ w.op := by omega
  simp [npostStatus, own, sound, plain, apply_ite Except.ok]

end

end

end

/-! ## A request that is taken (R276) -/

/-- A queue pair that a request has entered: on the receive ring, and on the send ring. -/
def Qp.receiving (k : Qp) (w : WorkReq) : Qp := { k with recv := k.recv ++ [w], recvs := k.recvs + 1 }
def Qp.sending (k : Qp) (w : WorkReq) : Qp := { k with send := k.send ++ [w], sends := k.sends + 1 }

section
variable {s r : State} {q : Nat} {w : WorkReq} {t : Ticket} {d : GReg}

theorem netPost_of_recv (op : w.op = 5) :
    r.netPost q w t = (r.setQp q ((r.qp q).receiving w)).after 268435456 prioNet (.networkTimeout q) := by
  simp [State.netPost, Qp.receiving, op]

theorem netPost_of_send (op : w.op ≤ 2) :
    r.netPost q w t = ((r.setQp q ((r.qp q).sending w)).kickNet q 1).after 268435456 prioNet (.networkTimeout q) := by
  have plain : w.op ≠ 3 ∧ w.op ≠ 4 ∧ w.op ≠ 5 := by omega
  simp [State.netPost, Qp.sending, plain]

section
variable (canon : Canonical r) (kept : r.posting = s.posting)
include canon kept

/-- A queue pair that the word of s has changed in a state that reads as s does, up to the images of its rings. -/
theorem setQp_lands_kept {k : Qp} {v : State} (answers : Answers (r.setQp q k) v r.me) : let t := v.landG d 0 2
    t.qp q = k ∧ (∀ j, j ≠ q → t.qp j = s.qp j) ∧ Owed s t d 0 2 ∧ t.mem = r.mem ∧ t.spad = r.spad := by
  obtain ⟨entered, others, owed, mem, spad, -⟩ := setQp_lands canon.rqps answers 0 2 (d := d)
  exact ⟨entered, fun j other => (others j other).trans (qp_of_posting kept j), owed_of_posting kept owed, mem, spad⟩

theorem netPost_lands_recv (op : w.op = 5) : let v := (r.netPost q w t).landG d 0 2
    (v.qp q).recv = (s.qp q).recv ++ [w] ∧ (v.qp q).send = (s.qp q).send ∧ (∀ k, k ≠ q → v.qp k = s.qp k) ∧ Owed s v d 0 2 ∧
    v.mem = r.mem ∧ v.spad = r.spad := by
  have answers := (answers_refl (s := r.setQp q ((r.qp q).receiving w)) canon.rstrands).after 268435456 prioNet (.networkTimeout q)
  obtain ⟨entered, frame⟩ := setQp_lands_kept (d := d) canon kept answers
  rw [netPost_of_recv op, ← qp_of_posting kept q]
  exact ⟨by rw [entered]; rfl, by rw [entered]; rfl, frame⟩

theorem netPost_lands_send (op : w.op ≤ 2) : let v := (r.netPost q w t).landG d 0 2
    (v.qp q).send = (s.qp q).send ++ [w] ∧ (v.qp q).recv = (s.qp q).recv ∧ (∀ k, k ≠ q → v.qp k = s.qp k) ∧ Owed s v d 0 2 ∧
    v.mem = r.mem ∧ v.spad = r.spad := by
  have answers := (kickNet_answers (s := r.setQp q ((r.qp q).sending w)) canon.rstrands q 1).after 268435456 prioNet (.networkTimeout q)
  obtain ⟨entered, frame⟩ := setQp_lands_kept (d := d) canon kept answers
  rw [netPost_of_send op, ← qp_of_posting kept q]
  exact ⟨by rw [entered]; rfl, by rw [entered]; rfl, frame⟩

end

theorem netPost_of_reg (op : w.op = 3) : r.netPost q w t = r.setQp q { r.qp q with keys := bind w.rkey t (r.qp q).keys } := by
  simp [State.netPost, op]

theorem netPost_of_dereg (op : w.op = 4) : r.netPost q w t = r.setQp q { r.qp q with keys := unbind w.rkey (r.qp q).keys } := by
  simp [State.netPost, op]

end

/-! ## The word -/

section
variable {s u : State} {tk : TkReg} {d a b : GReg} {x : Access} {e : Elem} {h q : Nat} {blk : List Byte}
  (ready : s.Ready { src := [.tk tk, .g a, .g b], dst := [.g d], outward := true }) (free : s.scored s.cur.sid = false)
  (number : (s.rg a).toNat % 4096 = q)
  (checked : s.checkAccess s.cur.sid .vir (s.rg b).toNat 64 .read .plain = (u, .ok x)) (cycles : x.cycles = [[e]])
  (passes : ∀ y ∈ u.accesses, y.2.sid = s.cur.sid → y.2.blocks x = false) (migrated : u.migrate x.vd e.addr = some h)
  (block : toBytes 64 (u.accRead x e h).1 = blk)
include ready free number checked cycles passes migrated block

/-- NPOST comes to what its request is answered. -/
theorem npost_judged : let w := s.workRequest blk
    let status := npostStatus q w (workBad blk) (s.me.rtk tk) u
    (∀ v, status = .error v → Traps (.npost tk d a b) s { cause := 8, eval := BitVec.ofNat 64 v }) ∧
    (∀ v, status = .ok v → v ≠ 0 → Does (.npost tk d a b) s (u.landG d (BitVec.ofNat 64 v) 2)) ∧
    (status = .ok 0 → (u.postImage q w blk = none → exec (.npost tk d a b) s = .next { u with last := .held }) ∧
      (∀ r, u.postImage q w blk = some r → Does (.npost tk d a b) s ((r.netPost q w (r.me.rtk tk)).landG d 0 2))) := by
  obtain ⟨cores, picks, same⟩ := checkAccess_eq checked
  have me : u.me = s.me := by rw [same]; rfl
  have seq : u.seqNo = s.seqNo := congrArg Strand.seq me
  have vd : u.strandVd s.cur.sid = s.strandVd s.cur.sid := by rw [same]; rfl
  have ency : u.pkg.ency = s.pkg.ency := by rw [same]
  have at_ : bits (u.rg a) 0 12 = q := by rw [same]; exact (bits_zero _ 12).trans number
  have clear : (u.accesses.any fun y => y.2.sid == s.cur.sid && y.2.blocks x) = false := by
    rw [List.any_eq_false]
    intro y mem
    simpa using passes y mem
  have first : x.cycles.flatten.headD ⟨0, 0, 0, 0, 0, 0, false, none⟩ = e := by rw [cycles]; rfl
  have run : exec (.npost tk d a b) s = execNpost tk d a b s := rfl
  have start : ∀ k : State → Access → Res, Machine.checked (u, .ok x) k = k u x := fun _ => rfl
  intro w status
  unfold Does Traps
  rw [run, execNpost, word_ready ready, freeOnly, if_neg (Bool.eq_false_iff.mp free)]
  dsimp only
  rw [checked, start, if_neg (Bool.eq_false_iff.mp clear), first, migrated]
  dsimp only
  rw [block, at_, me, seq, vd, ency]
  refine ⟨fun v answered => ?_, fun v answered nonzero => ?_, fun answered => ?_⟩ <;>
    dsimp only [status, w, State.workRequest] at answered ⊢ <;> rw [answered] <;> dsimp only
  · rfl
  · rw [if_pos nonzero]
    rfl
  · rw [if_neg (c := 0 ≠ 0) (by decide)]
    exact ⟨fun waits => by rw [waits]; rfl, fun r image => by rw [image]; rfl⟩

end

/-! ## The statement -/

theorem postImage_posting {u r : State} {q : Nat} {w : WorkReq} {blk : List Byte} (image : u.postImage q w blk = some r) :
    r.posting = u.posting := by
  unfold State.postImage at image
  dsimp only at image
  split at image
  · exact ringImage_posting u image
  · split at image
    · exact ringImage_posting u image
    · cases image
      rfl

theorem postImage_of_key {u : State} {q : Nat} {w : WorkReq} (blk : List Byte) (op : w.op = 3 ∨ w.op = 4) :
    u.postImage q w blk = some u := by
  have plain : w.op ≠ 5 ∧ ¬ w.op ≤ 2 := by omega
  simp [State.postImage, plain]

theorem networkWords : NetworkWords := by
  intro s u tk d a b x e h canon free q own
  refine ⟨fun ready => ⟨npoll_of_foreign ready free rfl, fun own => npoll_of_empty ready free rfl own.1 own.2,
    fun own st w rest comp => npoll_takes ready free rfl own.1 own.2 comp canon⟩, fun ready checked cycles passes migrated => ?_⟩
  obtain ⟨traps, lands, taken⟩ := npost_judged ready free (q := q) rfl checked cycles passes migrated rfl
  intro blk op w answers
  obtain ⟨same, me, vd⟩ : u.posting = s.posting ∧ u.me = s.me ∧ u.strandVd s.cur.sid = s.strandVd s.cur.sid := by
    obtain ⟨cores, picks, rfl⟩ := checkAccess_eq checked
    exact ⟨rfl, rfl, rfl⟩
  have qp := qp_of_posting same q
  have owns : own ↔ (u.qp q).exists_ = true ∧ (u.qp q).vd = u.strandVd w.sid := by rw [qp, show u.strandVd w.sid = _ from vd]
  have canonU := State.checkAccess_canon_fwd2 checked canon
  have posted {r : State} (image : u.postImage q w blk = some r) : Canonical r ∧ r.posting = s.posting :=
    ⟨State.postImage_canon_fwd image canonU, (postImage_posting image).trans same⟩
  refine ⟨fun foreign => ?_, fun own bad => ?_, fun own sound keys user => ?_, fun own sound allowed errored => ?_,
    fun own sound open_ => ?_⟩
  · exact lands 4 (npostStatus_of_foreign ((not_congr owns).mp foreign)) (by decide)
  · exact lands 3 (bad.symm ▸ npostStatus_of_bad (owns.mp own)) (by decide)
  · exact lands 5 (sound.symm ▸ npostStatus_of_user (owns.mp own) keys user) (by decide)
  · exact lands 2 (sound.symm ▸ npostStatus_of_errored (owns.mp own) allowed (qp ▸ errored)) (by decide)
  · have errored : (u.qp q).errored = false := qp ▸ open_
    have judged {v} (st : npostStatus q w false (s.me.rtk tk) u = v) : npostStatus q w (workBad blk) (s.me.rtk tk) u = v :=
      sound.symm ▸ st
    have recv (o : w.op = 5) := judged (npostStatus_of_recv (owns.mp own) errored o)
    have send (o : w.op ≤ 2) := judged (npostStatus_of_send (owns.mp own) errored o)
    rw [qp] at recv send
    have received (o : w.op = 5) (room : (s.qp q).recv.length < 2 ^ (s.qp q).recvLog) :=
      taken ((recv o).trans (congrArg _ (if_neg (Nat.not_le.mpr room))))
    have sends (o : w.op ≤ 2) (room : (s.qp q).send.length < 2 ^ (s.qp q).sendLog) :=
      taken ((send o).trans (congrArg _ (if_neg (Nat.not_le.mpr room))))
    refine ⟨fun o room => ⟨fun r image => ?_, (received o room).1⟩, fun o full => ?_, fun o full => ?_,
      fun o room => ⟨fun r image => ?_, (sends o room).1⟩, fun o priv v fails => ?_, fun o priv passes => ?_, fun o priv => ?_⟩
    · obtain ⟨canonR, kept⟩ := posted image
      exact ⟨_, (received o room).2 r image, rfl, netPost_lands_recv canonR kept o⟩
    · exact lands 1 ((recv o).trans (congrArg _ (if_pos full))) (by decide)
    · exact lands 1 ((send o).trans (congrArg _ (if_pos full))) (by decide)
    · obtain ⟨canonR, kept⟩ := posted image
      exact ⟨_, (sends o room).2 r image, rfl, netPost_lands_send canonR kept o⟩
    · exact traps v (judged (npostStatus_of_regFails (owns.mp own) errored o priv fails))
    · have run := (taken (judged (npostStatus_of_reg (owns.mp own) errored o priv passes))).2 u (postImage_of_key _ (.inl o))
      rwa [netPost_of_reg o, qp, me] at run
    · have run := (taken (judged (npostStatus_of_dereg (owns.mp own) errored o priv))).2 u (postImage_of_key _ (.inr o))
      rwa [netPost_of_dereg o, qp] at run

/-- Settles O52: the words by what a request is answered and what is taken of a queue pair, the events by its completions in order. -/
theorem networkWordsAndEvents : Obligations.NetworkWordsAndEvents := ⟨networkWords, networkEvents⟩

end Sys2Proof.Machine
end

section
/-! Laws of packets (R256): how one leaves the fabric, and what is owed for it. -/
namespace Sys2Proof.Machine

section
variable {s : State} {id : Nat} {p : Packet}

/-- The packet is not in the fabric. -/
def State.lacks (s : State) (id : Nat) : Prop := ∀ e ∈ s.packets, e.1 ≠ id

theorem dropPacket_lacks (s : State) (id : Nat) : (s.dropPacket id).lacks id := by
  intro e mem
  have kept := (List.mem_filter.mp mem).2
  simp only [Bool.and_eq_true, decide_eq_true_eq] at kept
  exact kept.1

theorem lacks_of_packets {t : State} (same : t.packets = s.packets) (gone : s.lacks id) : t.lacks id := by
  rwa [State.lacks, same]

theorem core_of_cores {t : State} (same : t.cores = s.cores) (c : Nat) : t.core c = s.core c := by
  rw [State.core, same]
  rfl

theorem mem_agenda_after (s : State) (n prio : Nat) (e : Event) : (⟨none, s.pkg.ency + n, prio⟩, e) ∈ (s.after n prio e).agenda :=
  mem_agenda_owe ..

/-- A packet of this package is answered on its path. -/
theorem answer_of_home (home : p.src = none) (e : Event) : s.answer p e = s.after p.lat prioArrive e := by
  rw [State.answer, home]
  rfl

/-- A state without its packets and what is owed for them. -/
def State.unsent (s : State) : State := { s with packets := [], agenda := [], backOut := [] }

theorem unsent_of_unowed {t : State} (same : t.unowed = s.unowed) : t.unsent = s.unsent :=
  show t.unowed.unsent = s.unowed.unsent by rw [same]

theorem answer_unsent (e : Event) : (s.answer p e).unsent = s.unsent := by
  unfold State.answer
  split <;> rfl

theorem answer_packets (e : Event) : (s.answer p e).packets = s.packets := by
  unfold State.answer
  split <;> rfl

theorem ack_unsent (s : State) (id : Nat) (p : Packet) : (s.ack id p).unsent = s.unsent := answer_unsent ..

theorem ack_lacks (s : State) (id : Nat) (p : Packet) : (s.ack id p).lacks id :=
  lacks_of_packets (answer_packets _) (dropPacket_lacks s id)

theorem ack_owes (home : p.src = none) :
    (⟨none, s.pkg.ency + p.lat, prioArrive⟩, Event.fabricAcknowledgement p.op p.ecn) ∈ (s.ack id p).agenda := by
  rw [State.ack, answer_of_home home]
  exact mem_agenda_after ..

/-- Events of open packets are due by the package's clock. -/
theorem packetAfter_of_open (open_ : p.timed = false) (n prio : Nat) (e : Event) : s.packetAfter p n prio e = s.after n prio e := by
  unfold State.packetAfter
  rw [open_]

theorem packetAfter_packets (n prio : Nat) (e : Event) : (s.packetAfter p n prio e).packets = s.packets := by
  unfold State.packetAfter
  split <;> rfl

end

end Sys2Proof.Machine
end

section
/-! What a router does with a packet that it has checked (R256, R260, R264). -/
namespace Sys2Proof.Machine
open Sys2Proof.Claims

section
variable {s : State} {id : Nat} {p : Packet}

/-- A packet whose flits the rate has granted enters the fabric. -/
theorem enter_of_granted (granted : p.need = 0) : s.enter id p = (s, some p) := by
  unfold State.enter
  split
  next need => cases granted.symm.trans need
  next => rfl

section
variable (found : look id s.packets = some p)
include found

section
variable (fresh : p.out = none) (granted : p.need = 0)
include fresh granted

theorem switchCheck_discards (lead : p.lead = none) (forged : s.genuine p.ticket = false) :
    exec (.switchCheck id) s = .next (s.discard id p) := by
  have run : exec (.switchCheck id) s = execSwitchCheck id s := rfl
  rw [run, execSwitchCheck, State.packet, found]
  dsimp only
  rw [fresh, enter_of_granted granted]
  simp [lead, forged]

theorem switchCheck_takesHop (inside : p.transit = false) (genuine : s.genuine p.ticket = true) :
    exec (.switchCheck id) s = .next (s.takeHop id p) := by
  have run : exec (.switchCheck id) s = execSwitchCheck id s := rfl
  rw [run, execSwitchCheck, State.packet, found]
  dsimp only
  rw [fresh, enter_of_granted granted]
  simp [inside, genuine]

end
end

/-- An open packet waits in its buffer at a router output once there is room in it. -/
theorem want_of_room {code : Nat} (open_ : p.timed = false) (room : p.hop ≠ 0 ∨ s.roomAt p code = true) :
    s.want id p code = (s.setPacket id { p with out := some code }).now prioGrant (.switchCheck id) := by
  have waits : ¬ (p.hop = 0 ∧ s.roomAt p code = false) := by
    rintro ⟨first, full⟩
    obtain later | free := room
    · exact later first
    · exact absurd (free.symm.trans full) (by decide)
  rw [State.want, if_neg (by simp [open_]), if_neg waits]

theorem takeHop_waits {d x y : Nat} (open_ : p.timed = false) (room : p.hop ≠ 0 ∨ s.roomAt p (linkCode p.x p.y d) = true)
    (hop : s.hopAt (tkWord p.ticket 0) p.hop p.x = (.dir d, 1)) (next : neighbour p.x p.y d = some (x, y)) :
    s.takeHop id p = (s.setPacket id { p with lastDir := some d, out := some (linkCode p.x p.y d) }).now prioGrant (.switchCheck id) := by
  unfold State.takeHop
  rw [hop]
  dsimp only
  rw [next]
  exact want_of_room (p := { p with lastDir := some d }) open_ room

/-- The last hop owes the delivery, six cycles on. -/
theorem takeHop_delivers (open_ : p.timed = false) (lead : p.lead = none)
    (hop : s.hopAt (tkWord p.ticket 0) p.hop p.x = (.deliver, 1)) :
    s.takeHop id p = (s.setPacket id { p with lat := p.lat + 6, hop := 32 }).after 6 rankFree (.packetDelivery id) := by
  unfold State.takeHop
  rw [hop]
  dsimp only
  rw [lead]
  exact packetAfter_of_open open_ ..

/-- A granted packet is at the next site after its hop. -/
theorem advance_moves {d x y : Nat} (u : State) (mesh : p.port = none) (dir : p.lastDir = some d)
    (next : neighbour p.x p.y d = some (x, y)) : ∃ q, look id (u.advance id p).packets = some q ∧ q.x = x ∧ q.y = y ∧
      q.hop = p.hop + 1 ∧ q.lat = p.lat + hopCost p.x p.y x y := by
  unfold State.advance
  extract_lets +onlyGivenNames full
  clear_value full
  dsimp only
  rw [mesh]
  dsimp only
  rw [dir]
  dsimp only
  rw [next]
  dsimp only
  rw [packetAfter_packets]
  exact ⟨_, look_bind_same .., rfl, rfl, rfl, rfl⟩

theorem switchCheck_moves (found : look id s.packets = some p) {u : State} {k d x y : Nat} (waits : p.out = some k)
    (open_ : p.timed = false) (mesh : p.port = none) (dir : p.lastDir = some d) (next : neighbour p.x p.y d = some (x, y)) (granted : s.grantPath id p k = some u) :
    Runs (.switchCheck id) s fun w => ∃ q, look id w.packets = some q ∧ q.x = x ∧ q.y = y ∧ q.hop = p.hop + 1 ∧
      q.lat = p.lat + hopCost p.x p.y x y := by
  refine ⟨u.advance id p, ?_, advance_moves u mesh dir next⟩
  change execSwitchCheck id s = _
  rw [execSwitchCheck, State.packet, found]
  dsimp only
  rw [waits]
  dsimp only
  rw [granted, if_neg (by simp [open_])]

end

end Sys2Proof.Machine
end

section
/-! Proof of the statement on the fabric's events (O48): what becomes of a packet at its destination, and the clauses together. -/
namespace Sys2Proof.Machine
open Sys2Proof.Claims

section
variable {s : State} {id : Nat} {p : Packet}

theorem packetDelivery_discards (found : look id s.packets = some p) (first : p.passed = false) (fails : s.siteCheck p = none) :
    exec (.packetDelivery id) s = .next (s.discard id p) := by
  change execPacketDelivery id s = _
  rw [execPacketDelivery, State.packet, found]
  dsimp only
  rw [first, if_neg (by decide), fails]

/-! ## An open write at a scratchpad (R264) -/

theorem takeBanks_of_free {c : Nat} {m : BitVec 32} (free : (s.core c).used s.pkg.ency &&& m = 0) :
    ∃ t, s.takeBanks c m = some t ∧ t.spad = s.spad ∧ t.mem = s.mem ∧ t.pkg = s.pkg := by
  have taken : s.takeBanks c m = some _ := if_pos free
  exact ⟨_, taken, rfl, rfl, rfl⟩

theorem spadWrite_leaves (s : State) (c off : Nat) (bs : List Byte) : let t := s.spadWrite c off bs
    t.spad = spadPuts s.spad c off bs ∧ t.mem = s.mem ∧ t.pkg = s.pkg := by
  have written := spadWrite_unowed s c off bs
  exact ⟨(congrArg State.spad written :), (congrArg State.mem written :), (congrArg State.pkg written :)⟩

/-- A write whose banks are free is performed and acknowledged. -/
theorem atSpad_writes {c off : Nat} {data : List Byte} (req : p.req = .write off data) (home : p.src = none)
    (quiet : s.stringBusy c off data.length = false) (free : (s.core c).used s.pkg.ency &&& banksOf off data.length = 0) :
    ∃ u, s.atSpad id p c = some u ∧ u.lacks id ∧ u.spad = spadPuts s.spad c off data ∧ u.mem = s.mem ∧
      (⟨none, s.pkg.ency + p.lat, prioArrive⟩, Event.fabricAcknowledgement p.op p.ecn) ∈ u.agenda := by
  obtain ⟨t, taken, spad, mem, pkg⟩ := takeBanks_of_free free
  obtain ⟨spad', mem', pkg'⟩ := spadWrite_leaves t c off data
  have performed : s.atSpad id p c = some ((t.spadWrite c off data).ack id p) := by
    unfold State.atSpad
    rw [req]
    dsimp only
    rw [if_neg (by simp [quiet]), taken]
    rfl
  have acked := ack_unsent (t.spadWrite c off data) id p
  have owed := ack_owes (s := t.spadWrite c off data) (id := id) home
  rw [pkg', pkg] at owed
  refine ⟨_, performed, ack_lacks _ _ _, ?_, ?_, owed⟩
  · exact (congrArg State.spad acked :).trans (spad'.trans (spad ▸ rfl))
  · exact (congrArg State.mem acked :).trans (mem'.trans mem)

theorem packetDelivery_writes {c off : Nat} {data : List Byte} (found : look id s.packets = some p) (first : p.passed = false)
    (passes : s.siteCheck p = some (some c)) (core : siteCore p.x p.y = some c)
    (awake : ∀ q, s.partOf c = some q → (s.part q).pstate = 0) (req : p.req = .write off data)
    (quiet : s.stringBusy c off data.length = false) (free : (s.core c).used s.pkg.ency &&& banksOf off data.length = 0)
    (home : p.src = none) : Runs (.packetDelivery id) s fun u => u.lacks id ∧ u.spad = spadPuts s.spad c off data ∧ u.mem = s.mem ∧
      ∃ mark, (p.ecn = true → mark = true) ∧
        (⟨none, s.pkg.ency + p.lat, prioArrive⟩, Event.fabricAcknowledgement p.op mark) ∈ u.agenda := by
  have run : exec (.packetDelivery id) s = execPacketDelivery id s := rfl
  rw [Runs, run, execPacketDelivery, State.packet, found]
  dsimp -zeta only
  extract_lets +onlyGivenNames verdict gated full q t retry
  have checked : verdict = some (some c) := (if_neg (by simp [first])).trans passes
  have open_ : gated = none := by
    unfold gated
    rw [core]
    dsimp only
    split
    next q found => rw [if_pos (awake q found)]
    next => rfl
  have req' : q.req = .write off data := req
  rw [checked, open_]
  dsimp only
  rw [req']
  obtain ⟨u, performed, gone, spad, mem, owed⟩ := atSpad_writes (s := t) (id := id) req' home quiet free
  refine ⟨u, ?_, gone, spad, mem, q.ecn, fun marked => ?_, owed⟩
  · dsimp only
    rw [performed]
  · exact Bool.or_eq_true_iff.mpr (.inl marked)

/-! ## A timed flit (R242, R260) -/

/-- A state without its strands, its operations and what an outcome of one changes beside them. -/
def State.unresulted (s : State) : State := { s with strands := [], agenda := [], ops := [], drays := [] }

theorem nextChunk_of_none (whole : ∀ k ∈ s.ops, k.2.chunk = none) (sid : Nat) : s.nextChunk sid = s := by
  have none_ : (s.ops.find? fun o => o.2.sid == sid && o.2.chunk.isSome) = none :=
    List.find?_eq_none.mpr fun k mem => by simp [whole k mem]
  rw [State.nextChunk, none_]

/-- An outcome of an operation, where no chunks wait for a place, changes nothing beside operations, strands and Drays. -/
theorem opResult_unresulted (whole : ∀ k ∈ s.ops, k.2.chunk = none) (op : Nat) (r : Option Word) :
    (s.opResult op r).unresulted = s.unresulted := by
  unfold State.opResult
  split
  next => rfl
  next o found =>
    split
    next => rfl
    next =>
      extract_lets +onlyGivenNames t v a b
      have answered : a.ops = t.ops ∧ a.unresulted = t.unresulted := by
        unfold a
        split <;> exact ⟨rfl, rfl⟩
      have landed : b.ops = a.ops ∧ b.unresulted = a.unresulted := by
        unfold b
        split
        · split <;> exact ⟨rfl, rfl⟩
        · exact ⟨rfl, rfl⟩
      have left : ∀ k ∈ b.ops, k.2.chunk = none := by
        rw [landed.1, answered.1]
        exact fun k mem => whole k (List.mem_of_mem_filter mem)
      rw [nextChunk_of_none left, landed.2, answered.2]
      rfl

/-- A core one of whose receive slots a flit has filled. -/
def Core.filling (k : Core) (n : Nat) (data : List Byte) (len : Nat) : Core :=
  { k with recv := tput {} n ⟨BitVec.ofNat 512 (ofBytes data), len, true⟩ k.recv }

section
variable {c slot spill len : Nat} {o : FabOp} (found : look id s.packets = some p) (req : p.req = .timed slot spill len)
  (home : p.src = none) (core : siteCore p.x p.y = some c) (some_ : 1 ≤ len) (short : len ≤ 64) (op : s.op p.op = some o)
  (empty : (tget {} (tkSlotFirst p.ticket + slot) (s.core c).recv).full = false)
include found req home core some_ short op empty

/-- The one flit of a timed send fills its slot, and the operation has its outcome. -/
theorem timedDelivery_run : exec (.timedDelivery id 0) s = .next (((s.setCore c ((s.core c).filling (tkSlotFirst p.ticket + slot)
    (o.flit 0 len) len)).dropPacket id).opResult p.op (some 0)) := by
  have last : 0 + 1 = ceilDiv len 64 := by unfold ceilDiv; omega
  have mine : s.opOf p = some o := by rw [State.opOf, home]; exact op
  have whole : Nat.min len 64 = len := Nat.min_eq_left short
  change execTimedDelivery id 0 s = _
  rw [execTimedDelivery, State.packet, found]
  dsimp only
  rw [req, core]
  dsimp only
  rw [mine, empty, home, if_pos last, whole]
  rfl

theorem timedDelivery_fills (canon : Canonical s) (whole : ∀ k ∈ s.ops, k.2.chunk = none) : Runs (.timedDelivery id 0) s fun u =>
    u.lacks id ∧ (u.core c).recv = tput {} (tkSlotFirst p.ticket + slot) ⟨BitVec.ofNat 512 (ofBytes (o.flit 0 len)), len, true⟩
      (s.core c).recv ∧ u.spad = s.spad ∧ u.mem = s.mem := by
  have run := timedDelivery_run found req home core some_ short op empty
  obtain ⟨k, filled⟩ : ∃ k, (s.core c).filling (tkSlotFirst p.ticket + slot) (o.flit 0 len) len = k := ⟨_, rfl⟩
  rw [filled] at run
  have same := opResult_unresulted (s := (s.setCore c k).dropPacket id) whole p.op (some 0)
  refine ⟨_, run, lacks_of_packets (congrArg State.packets same :) (dropPacket_lacks _ id), ?_, (congrArg State.spad same :),
    (congrArg State.mem same :)⟩
  refine (congrArg Core.recv (core_of_cores (s := s.setCore c k) (congrArg State.cores same :) c)).trans ?_
  rw [core_setCore s c c k canon.rcores, if_pos rfl, ← filled]
  rfl

end

/-! ## An elastic message (R244, R245) -/

/-- A message without an earlier one enters its queue while that has room. -/
theorem elasticArrival_enters {c n : Nat} {payload : List Byte} (canon : Canonical s) (req : p.req = .elastic payload n)
    (core : siteCore p.x p.y = some c) (alone : s.packets = [(id, p)]) (room : ((s.core c).queue (tkBase p.ticket % 4)).length < 16) :
    Runs (.elasticArrival id) s fun u => u.lacks id ∧ (u.core c).queue (tkBase p.ticket % 4) =
      (s.core c).queue (tkBase p.ticket % 4) ++ [⟨payload, (s.sender p).1, (s.sender p).2, p.slot⟩] ∧
      u.spad = s.spad ∧ u.mem = s.mem := by
  have run : exec (.elasticArrival id) s = execElasticArrival id s := rfl
  have found : look id s.packets = some p := by rw [alone]; exact if_pos rfl
  rw [Runs, run, execElasticArrival, State.packet, found]
  dsimp -zeta only
  rw [req, core]
  dsimp -zeta only
  extract_lets +onlyGivenNames q earlier k t v
  have first : earlier = false := by
    unfold earlier
    rw [alone]
    simp [req]
  clear_value earlier
  rw [if_neg (by simp [first, k, q, room])]
  generalize ran : List.foldl _ v v.strands = u
  have woken : u.unowed = v.unowed := by
    rw [← ran]
    refine foldl_keeps State.unowed (fun s e => ?_) _ v
    split
    · split <;> rfl
    · rfl
  have settled : u.unowed = (t.ack id p).unowed := woken.trans (kickHeld_unowed ..)
  have same : u.unsent = t.unsent := (unsent_of_unowed settled).trans (ack_unsent ..)
  refine ⟨u, rfl, lacks_of_packets (congrArg State.packets settled :) (ack_lacks t id p), ?_, (congrArg State.spad same :),
    (congrArg State.mem same :)⟩
  refine (congrArg (Core.queue · q) (core_of_cores (s := t) (congrArg State.cores same :) c)).trans ?_
  rw [core_setCore s c c _ canon.rcores, if_pos rfl]
  exact queue_setQueue k (Nat.mod_lt _ (by decide)) _

/-! ## A held arrival (R245) -/

theorem kickHeld_answers (rising : Rising s.strands) (c : Nat) : Answers s (s.kickHeld c) s.me := by
  refine answers_foldl (fun s e rising => ?_) _ s rising
  split
  · split <;> exact (answers_refl rising).owe ..
  · exact answers_refl rising

theorem countDiscard_leaves (part : Option Nat) :
    (s.countDiscard part).strands = s.strands ∧ (s.countDiscard part).pkg.ency = s.pkg.ency := by
  unfold State.countDiscard State.countErr
  split <;> exact ⟨rfl, rfl⟩

/-- A discarded packet leaves the fabric, and its notice is owed on its path. -/
theorem discard_notifies (rising : Rising s.strands) (lead : p.lead = none) (home : p.src = none) :
    (s.discard id p).lacks id ∧ Rising (s.discard id p).strands ∧
    (⟨none, s.pkg.ency + p.lat, prioArrive⟩, Event.discardNotice p.op) ∈ (s.discard id p).agenda := by
  obtain ⟨part, counted⟩ : ∃ part, s.discard id p =
      ((s.countDiscard part).dropPacket id).after p.lat prioArrive (.discardNotice p.op) := by
    refine ⟨if p.src.isNone && isCoach p.core then none else some (s.vd p.vd).part, ?_⟩
    rw [State.discard, lead, if_neg (by decide)]
    exact answer_of_home home _
  obtain ⟨strands, ency⟩ := countDiscard_leaves (s := s) part
  rw [counted, ← ency]
  exact ⟨dropPacket_lacks _ id, strands.symm ▸ rising, mem_agenda_after ..⟩

theorem heldArrivalExpiry_discards {c h : Nat} (canon : Canonical s) (found : look id s.packets = some p) (held : p.held = some h)
    (home : p.src = none) (core : siteCore p.x p.y = some c) (lead : p.lead = none) (old : h + 4096 ≤ s.pkg.ency) :
    Runs (.heldArrivalExpiry id) s fun u => u.lacks id ∧
      (⟨none, s.pkg.ency + p.lat, prioArrive⟩, Event.discardNotice p.op) ∈ u.agenda := by
  have run : exec (.heldArrivalExpiry id) s = execHeldArrivalExpiry id s := rfl
  rw [Runs, run, execHeldArrivalExpiry, State.packet, found]
  dsimp only
  rw [held, core]
  dsimp only
  rw [if_pos old]
  obtain ⟨gone, rising, owed⟩ := discard_notifies canon.rstrands (id := id) lead home
  have kicked := kickHeld_answers rising c
  exact ⟨_, rfl, lacks_of_packets (congrArg State.packets kicked.rest :) gone, kicked.agenda owed⟩

/-! ## A push into a vector register (R266, R267) -/

/-- The first words of a register replaced by others. -/
theorem getLsbD_replaced {old data : Wide} {words : Nat} :
    let mask : Wide := BitVec.ofNat 65536 (2 ^ (32 * words) - 1)
    let new := (old &&& ~~~mask) ||| (data &&& mask)
    (∀ i, i < 65536 → i < 32 * words → new.getLsbD i = data.getLsbD i) ∧
    (∀ i, i < 65536 → 32 * words ≤ i → new.getLsbD i = old.getLsbD i) := by
  intro mask new
  have bit (i : Nat) (inside : i < 65536) : mask.getLsbD i = decide (i < 32 * words) := by
    rw [BitVec.getLsbD_ofNat, Nat.testBit_two_pow_sub_one, decide_eq_true inside, Bool.true_and]
  refine ⟨fun i inside low => ?_, fun i inside high => ?_⟩ <;>
    simp only [new, BitVec.getLsbD_or, BitVec.getLsbD_and, BitVec.getLsbD_not, bit i inside]
  · simp [low]
  · simp [inside, Nat.not_lt.mpr high]

/-- A strand one of whose vector registers a push has written: its first words, their validity, and its full-empty bit. -/
def Strand.pushed (x : Strand) (r words : Nat) (data : Wide) (valid : BitVec 256) : Strand :=
  let reg : VecReg := Fin.ofNat 32 r
  let mask : Wide := BitVec.ofNat 65536 (2 ^ (32 * words) - 1)
  let blocks : BitVec 256 := BitVec.ofNat 256 (2 ^ ceilDiv words 32 - 1)
  let x := x.put (.v reg) ((x.rv reg &&& ~~~mask) ||| (data &&& mask))
  let x := x.put (.q (qOf reg)) (((x.rq (qOf reg) &&& ~~~blocks) ||| (valid &&& blocks)).setWidth 65536)
  { x with
    fe := x.fe ||| BitVec.ofNat 32 (2 ^ r)
    poison := x.poison.filter fun e => !((e.1 == .v reg && decide (e.2 < words)) ||
      (e.1 == .q (qOf reg) && decide (64 * (e.2 + 1) ≤ ceilDiv words 32))) }

section
variable (x : Strand) (r words : Nat) (data : Wide) (valid : BitVec 256)

theorem pushed_fe : (x.pushed r words data valid).fe = x.fe ||| BitVec.ofNat 32 (2 ^ r) := rfl

theorem pushed_rv : (x.pushed r words data valid).rv (Fin.ofNat 32 r) =
    (x.rv (Fin.ofNat 32 r) &&& ~~~BitVec.ofNat 65536 (2 ^ (32 * words) - 1)) ||| (data &&& BitVec.ofNat 65536 (2 ^ (32 * words) - 1)) :=
  Vector.getElem_set_self ..

end

section
variable {c r words : Nat} {data : Wide} {valid : BitVec 256} (found : look id s.packets = some p)
  (req : p.req = .push r words data valid) (core : siteCore p.x p.y = some c) (vector : s.isVector (16 * c + 4 * tkStrand p.ticket) = true)
  (fits : words ≤ s.vlmax32 (16 * c + 4 * tkStrand p.ticket))
  (empty : (s.strand (16 * c + 4 * tkStrand p.ticket)).fe.getLsbD r = false)
include found req core vector fits empty

/-- A push into an empty register writes it and is acknowledged; a strand that waits for it looks again. -/
theorem vpushArrival_run : let sid := 16 * c + 4 * tkStrand p.ticket
    ∃ u, exec (.vpushArrival id) s = .next u ∧
      u.unowed = ((s.setStrand sid ((s.strand sid).pushed r words data valid)).ack id p).unowed := by
  intro sid
  have run : exec (.vpushArrival id) s = execVpushArrival id s := rfl
  have at_ : sidOf c (4 * tkStrand p.ticket) = sid := rfl
  rw [run, execVpushArrival, State.packet, found]
  dsimp -zeta only
  rw [req, core]
  dsimp -zeta only
  rw [at_]
  extract_lets +onlyGivenNames sid' reg mask blocks t u
  rw [if_neg (by simp [sid', sid, vector, fits]), if_neg (by simp [sid', sid, empty])]
  split <;> exact ⟨_, rfl, rfl⟩

theorem vpushArrival_writes (canon : Canonical s) : let sid := 16 * c + 4 * tkStrand p.ticket
    Runs (.vpushArrival id) s fun u => u.lacks id ∧ (u.strand sid).fe = (s.strand sid).fe ||| BitVec.ofNat 32 (2 ^ r) ∧
      (∀ i, i < 32 * words → ((u.strand sid).rv (Fin.ofNat 32 r)).getLsbD i = data.getLsbD i) ∧
      (∀ i, 32 * words ≤ i → i < 65536 →
        ((u.strand sid).rv (Fin.ofNat 32 r)).getLsbD i = ((s.strand sid).rv (Fin.ofNat 32 r)).getLsbD i) ∧
      (∀ k, k ≠ sid → u.strand k = s.strand k) ∧ u.mem = s.mem ∧ u.spad = s.spad := by
  intro sid
  obtain ⟨u, run, settled⟩ := vpushArrival_run found req core vector fits empty
  obtain ⟨t, pushed⟩ : ∃ t, s.setStrand sid ((s.strand sid).pushed r words data valid) = t := ⟨_, rfl⟩
  rw [pushed] at settled
  have same : u.unsent = t.unsent := (unsent_of_unowed settled).trans (ack_unsent ..)
  have strand (k : Nat) : u.strand k = if k = sid then (s.strand sid).pushed r words data valid else s.strand k := by
    rw [State.strand, show u.strands = t.strands from (congrArg State.strands same :), ← pushed]
    exact strand_setStrand s sid k _ canon.rstrands
  have mine := (strand sid).trans (if_pos rfl)
  have narrow : words ≤ 2048 := fits.trans (Nat.div_le_self ..)
  have bound : 32 * words ≤ 65536 := by omega
  obtain ⟨low, high⟩ := getLsbD_replaced (old := (s.strand sid).rv (Fin.ofNat 32 r)) (data := data) (words := words)
  refine ⟨u, run, lacks_of_packets (congrArg State.packets settled :) (ack_lacks t id p), ?_, fun i inside => ?_,
    fun i above inside => ?_, fun k other => (strand k).trans (if_neg other), ?_, ?_⟩
  · rw [mine, pushed_fe]
  · rw [mine, pushed_rv]
    exact low i (Nat.lt_of_lt_of_le inside bound) inside
  · rw [mine, pushed_rv]
    exact high i inside above
  · exact (congrArg State.mem same :).trans (pushed ▸ rfl)
  · exact (congrArg State.spad same :).trans (pushed ▸ rfl)

end

end

/-! ## The statement -/

/-- Settles O48, clause by clause: the check pipeline of a router, and then the delivery of each kind of packet. -/
theorem fabricEvents : Obligations.FabricEvents := by
  intro s id p c canon found t gone
  refine ⟨fun fresh granted lead forged => switchCheck_discards found fresh granted lead forged,
    fun fresh granted open_ inside genuine d x y room hop next => ?_, fun fresh granted open_ inside lead genuine hop => ?_,
    fun u k d x y waits open_ mesh dir next granted => switchCheck_moves found waits open_ mesh dir next granted,
    fun first fails => packetDelivery_discards found first fails,
    fun off data first passes core awake req quiet free home =>
      packetDelivery_writes found first passes core awake req quiet free home,
    fun slot spill len o req home core some_ short op whole empty =>
      timedDelivery_fills found req home core some_ short op empty canon whole,
    fun payload n req core alone => fun room => elasticArrival_enters canon req core alone room,
    fun h held home core lead old => heldArrivalExpiry_discards canon found held home core lead old,
    fun r words data valid req core _ => fun vector fits empty => vpushArrival_writes found req core vector fits empty canon⟩
  · refine ⟨_, (switchCheck_takesHop found fresh granted inside genuine).trans (congrArg _ (takeHop_waits open_ room hop next)), ?_⟩
    exact ⟨look_bind_same .., mem_agenda_after _ 0 _ _⟩
  · refine ⟨_, (switchCheck_takesHop found fresh granted inside genuine).trans (congrArg _ (takeHop_delivers open_ lead hop)), ?_⟩
    exact mem_agenda_after _ 6 _ _

end Sys2Proof.Machine
end

section
/-! Proof of the statement that every step keeps the canonical form (O9): the laws of the single operations (Laws/CanonBase.lean to
Laws/CanonIssue.lean) put together along the definitions of exec, of the events and of the step. -/
namespace Sys2Proof.Machine

/-- Every instruction keeps the canonical form, one arm of exec a case. -/
theorem exec_canonical (i : Instr) (s : State) (canon : Canonical s) : OutOk (exec i s) := by
  cases i with
  | nop => exact execNop_canon s canon
  | halt => exact execHalt_canon s canon
  | trap code => exact execTrap_canon code s canon
  | eret => exact execEret_canon s canon
  | csrr d csr => exact execCsrr_canon d csr s canon
  | csrw csr a => exact execCsrw_canon csr a s canon
  | csrx d csr a => exact execCsrx_canon d csr a s canon
  | yield => exact execYield_canon s canon
  | ctxsave d a => exact execCtxsave_canon d a s canon
  | ctxload d a => exact execCtxload_canon d a s canon
  | br gd off => exact execBr_canon gd off s canon
  | jmp off => exact execJmp_canon off s canon
  | call off => exact execCall_canon off s canon
  | ret a => exact execRet_canon a s canon
  | callr a => exact execCallr_canon a s canon
  | atLcy a imm => exact execAtLcy_canon a imm s canon
  | cue n => exact execCue_canon n s canon
  | tune a => exact execTune_canon a s canon
  | ld d a sp sz off => exact execLd_canon d a sp sz off s canon
  | st d a sp sz off => exact execSt_canon d a sp sz off s canon
  | amoAdd d a b sz sp => exact execAmoAdd_canon d a b sz sp s canon
  | amoMin d a b sz sp => exact execAmoMin_canon d a b sz sp s canon
  | amoMax d a b sz sp => exact execAmoMax_canon d a b sz sp s canon
  | amoMinn d a b sz sp => exact execAmoMinn_canon d a b sz sp s canon
  | amoMaxn d a b sz sp => exact execAmoMaxn_canon d a b sz sp s canon
  | amoAnd d a b sz sp => exact execAmoAnd_canon d a b sz sp s canon
  | amoOr d a b sz sp => exact execAmoOr_canon d a b sz sp s canon
  | amoXor d a b sz sp => exact execAmoXor_canon d a b sz sp s canon
  | amoSwap d a b sz sp => exact execAmoSwap_canon d a b sz sp s canon
  | amoCas d a b sz sp => exact execAmoCas_canon d a b sz sp s canon
  | fence d scope mask => exact execFence_canon d scope mask s canon
  | pref a imm => exact execPref_canon a imm s canon
  | flush a imm => exact execFlush_canon a imm s canon
  | inval a imm => exact execInval_canon a imm s canon
  | rpub a => exact execRpub_canon a s canon
  | vld d a m e clu => exact execVld_canon d a m e clu s canon
  | vst d a m e clu => exact execVst_canon d a m e clu s canon
  | vlds d a b m e clu => exact execVlds_canon d a b m e clu s canon
  | vsts d a b m e clu => exact execVsts_canon d a b m e clu s canon
  | vldx d a b m e clu => exact execVldx_canon d a b m e clu s canon
  | vstx d a b m e clu => exact execVstx_canon d a b m e clu s canon
  | vseg d a fmt clu => exact execVseg_canon d a fmt clu s canon
  | sset d a b => exact execSset_canon d a b s canon
  | sld d a m e => exact execSld_canon d a m e s canon
  | sst d a m e => exact execSst_canon d a m e s canon
  | vamoAdd d a b m e clu => exact execVamoAdd_canon d a b m e clu s canon
  | vamoMin d a b m e clu => exact execVamoMin_canon d a b m e clu s canon
  | vamoMax d a b m e clu => exact execVamoMax_canon d a b m e clu s canon
  | vamoMinn d a b m e clu => exact execVamoMinn_canon d a b m e clu s canon
  | vamoMaxn d a b m e clu => exact execVamoMaxn_canon d a b m e clu s canon
  | vamoAnd d a b m e clu => exact execVamoAnd_canon d a b m e clu s canon
  | vamoOr d a b m e clu => exact execVamoOr_canon d a b m e clu s canon
  | vamoXor d a b m e clu => exact execVamoXor_canon d a b m e clu s canon
  | vamoFadd d a b m e clu => exact execVamoFadd_canon d a b m e clu s canon
  | setvl d a e => exact execSetvl_canon d a e s canon
  | vloop d a n => exact execVloop_canon d a n s canon
  | vsync => exact execVsync_canon s canon
  | hplane vb ga fmt n => exact execHplane_canon vb ga fmt n s canon
  | hzero t ga => exact execHzero_canon t ga s canon
  | hread t vb ga fmt n => exact execHread_canon t vb ga fmt n s canon
  | hwrite t vb ga n => exact execHwrite_canon t vb ga n s canon
  | hchk t ga => exact execHchk_canon t ga s canon
  | hanch t ga => exact execHanch_canon t ga s canon
  | hmmaAcc t vb ga fmt n => exact execHmmaAcc_canon t vb ga fmt n s canon
  | hmmaSet t vb ga fmt n => exact execHmmaSet_canon t vb ga fmt n s canon
  | hmmsAcc t vb ga fmt n => exact execHmmsAcc_canon t vb ga fmt n s canon
  | hmmsSet t vb ga fmt n => exact execHmmsSet_canon t vb ga fmt n s canon
  | send tk a b => exact execSend_canon tk a b s canon
  | recv d a b => exact execRecv_canon d a b s canon
  | esend tk a b => exact execEsend_canon tk a b s canon
  | erecv d a b => exact execErecv_canon d a b s canon
  | stripe tk d a b n => exact execStripe_canon tk d a b n s canon
  | rld tk d a sz => exact execRld_canon tk d a sz s canon
  | rst tk d a sz => exact execRst_canon tk d a sz s canon
  | ramoAdd tk d a b => exact execRamoAdd_canon tk d a b s canon
  | ramoMin tk d a b => exact execRamoMin_canon tk d a b s canon
  | ramoMax tk d a b => exact execRamoMax_canon tk d a b s canon
  | ramoMinn tk d a b => exact execRamoMinn_canon tk d a b s canon
  | ramoMaxn tk d a b => exact execRamoMaxn_canon tk d a b s canon
  | ramoOr tk d a b => exact execRamoOr_canon tk d a b s canon
  | ramoSwap tk d a b => exact execRamoSwap_canon tk d a b s canon
  | ramoCas tk d a b => exact execRamoCas_canon tk d a b s canon
  | vpush tk a vb n => exact execVpush_canon tk a vb n s canon
  | vpull d a vb n => exact execVpull_canon d a vb n s canon
  | tknar tk d a => exact execTknar_canon tk d a s canon
  | tkld tk a sp => exact execTkld_canon tk a sp s canon
  | tkst tk a sp => exact execTkst_canon tk a sp s canon
  | tkmov tk m => exact execTkmov_canon tk m s canon
  | tkchk tk d => exact execTkchk_canon tk d s canon
  | drayCopy tk d a b => exact execDrayCopy_canon tk d a b s canon
  | drayGath tk d a b => exact execDrayGath_canon tk d a b s canon
  | drayScat tk d a b => exact execDrayScat_canon tk d a b s canon
  | draySeal tk d a b => exact execDraySeal_canon tk d a b s canon
  | drayUnseal tk d a b => exact execDrayUnseal_canon tk d a b s canon
  | drayFill tk d a b => exact execDrayFill_canon tk d a b s canon
  | dwait d a b => exact execDwait_canon d a b s canon
  | dstat d a => exact execDstat_canon d a s canon
  | dcancel d a => exact execDcancel_canon d a s canon
  | npost tk d a b => exact execNpost_canon tk d a b s canon
  | npoll d a => exact execNpoll_canon d a s canon
  | carr d a b gd => exact execCarr_canon d a b gd s canon
  | cwait d a b gd => exact execCwait_canon d a b gd s canon
  | cancel d a gd => exact execCancel_canon d a gd s canon
  | ckpt d a b gd => exact execCkpt_canon d a b gd s canon
  | cset d a b gd => exact execCset_canon d a b gd s canon
  | xlatRead d a b => exact execXlatRead_canon d a b s canon
  | xlatWrite d a b => exact execXlatWrite_canon d a b s canon
  | xlatFetch d a b => exact execXlatFetch_canon d a b s canon
  | xlatProbe d a b => exact execXlatProbe_canon d a b s canon
  | tlbinvPage d a b => exact execTlbinvPage_canon d a b s canon
  | tlbinvVd d b => exact execTlbinvVd_canon d b s canon
  | migset d a b => exact execMigset_canon d a b s canon
  | mint tk d a b => exact execMint_canon tk d a b s canon
  | revokePort d a => exact execRevokePort_canon d a s canon
  | revokeKey d a b => exact execRevokeKey_canon d a b s canon
  | keysetSet d a b => exact execKeysetSet_canon d a b s canon
  | keysetWin d a b => exact execKeysetWin_canon d a b s canon
  | keysetErase d a b => exact execKeysetErase_canon d a b s canon
  | admitTab d a b => exact execAdmitTab_canon d a b s canon
  | add d a b gd w => exact execAdd_canon d a b gd w s canon
  | sub d a b gd w => exact execSub_canon d a b gd w s canon
  | and d a b gd w => exact execAnd_canon d a b gd w s canon
  | or d a b gd w => exact execOr_canon d a b gd w s canon
  | xor d a b gd w => exact execXor_canon d a b gd w s canon
  | shl d a b gd w => exact execShl_canon d a b gd w s canon
  | shr d a b gd w => exact execShr_canon d a b gd w s canon
  | sar d a b gd w => exact execSar_canon d a b gd w s canon
  | min d a b gd w => exact execMin_canon d a b gd w s canon
  | max d a b gd w => exact execMax_canon d a b gd w s canon
  | minn d a b gd w => exact execMinn_canon d a b gd w s canon
  | maxn d a b gd w => exact execMaxn_canon d a b gd w s canon
  | sel d a b pr pn => exact execSel_canon d a b pr pn s canon
  | clz d a gd w => exact execClz_canon d a gd w s canon
  | popc d a gd w => exact execPopc_canon d a gd w s canon
  | addi d a imm => exact execAddi_canon d a imm s canon
  | andi d a imm => exact execAndi_canon d a imm s canon
  | ori d a imm => exact execOri_canon d a imm s canon
  | xori d a imm => exact execXori_canon d a imm s canon
  | shli d a cnt => exact execShli_canon d a cnt s canon
  | shri d a cnt => exact execShri_canon d a cnt s canon
  | sari d a cnt => exact execSari_canon d a cnt s canon
  | li d imm => exact execLi_canon d imm s canon
  | lih d imm => exact execLih_canon d imm s canon
  | mul d a b gd w => exact execMul_canon d a b gd w s canon
  | mulh d a b gd w => exact execMulh_canon d a b gd w s canon
  | mulhn d a b gd w => exact execMulhn_canon d a b gd w s canon
  | div d a b gd w => exact execDiv_canon d a b gd w s canon
  | divn d a b gd w => exact execDivn_canon d a b gd w s canon
  | rem d a b gd w => exact execRem_canon d a b gd w s canon
  | remn d a b gd w => exact execRemn_canon d a b gd w s canon
  | cmpEq d a b gd w => exact execCmpEq_canon d a b gd w s canon
  | cmpNe d a b gd w => exact execCmpNe_canon d a b gd w s canon
  | cmpLt d a b gd w => exact execCmpLt_canon d a b gd w s canon
  | cmpGe d a b gd w => exact execCmpGe_canon d a b gd w s canon
  | cmpLtn d a b gd w => exact execCmpLtn_canon d a b gd w s canon
  | cmpGen d a b gd w => exact execCmpGen_canon d a b gd w s canon
  | plogAnd d a b gd => exact execPlogAnd_canon d a b gd s canon
  | plogOr d a b gd => exact execPlogOr_canon d a b gd s canon
  | plogXor d a b gd => exact execPlogXor_canon d a b gd s canon
  | plogAndn d a b gd => exact execPlogAndn_canon d a b gd s canon
  | bfx d a len1 pos => exact execBfx_canon d a len1 pos s canon
  | bfxs d a len1 pos => exact execBfxs_canon d a len1 pos s canon
  | bfi d a len1 pos => exact execBfi_canon d a len1 pos s canon
  | vadd d a b m e => exact execVadd_canon d a b m e s canon
  | vsub d a b m e => exact execVsub_canon d a b m e s canon
  | vmul d a b m e => exact execVmul_canon d a b m e s canon
  | vmulh d a b m e => exact execVmulh_canon d a b m e s canon
  | vmin d a b m e => exact execVmin_canon d a b m e s canon
  | vmax d a b m e => exact execVmax_canon d a b m e s canon
  | vminn d a b m e => exact execVminn_canon d a b m e s canon
  | vmaxn d a b m e => exact execVmaxn_canon d a b m e s canon
  | vand d a b m e => exact execVand_canon d a b m e s canon
  | vor d a b m e => exact execVor_canon d a b m e s canon
  | vxor d a b m e => exact execVxor_canon d a b m e s canon
  | vshl d a b m e => exact execVshl_canon d a b m e s canon
  | vshr d a b m e => exact execVshr_canon d a b m e s canon
  | vsar d a b m e => exact execVsar_canon d a b m e s canon
  | vabs d a m e => exact execVabs_canon d a m e s canon
  | vneg d a m e => exact execVneg_canon d a m e s canon
  | vsel d a b m e => exact execVsel_canon d a b m e s canon
  | vfadd d a b m e => exact execVfadd_canon d a b m e s canon
  | vfsub d a b m e => exact execVfsub_canon d a b m e s canon
  | vfmul d a b m e => exact execVfmul_canon d a b m e s canon
  | vfma d a b m e => exact execVfma_canon d a b m e s canon
  | vfms d a b m e => exact execVfms_canon d a b m e s canon
  | vfmin d a b m e => exact execVfmin_canon d a b m e s canon
  | vfmax d a b m e => exact execVfmax_canon d a b m e s canon
  | vfabs d a m e => exact execVfabs_canon d a m e s canon
  | vfneg d a m e => exact execVfneg_canon d a m e s canon
  | vcmpEq d a b m e => exact execVcmpEq_canon d a b m e s canon
  | vcmpNe d a b m e => exact execVcmpNe_canon d a b m e s canon
  | vcmpLt d a b m e => exact execVcmpLt_canon d a b m e s canon
  | vcmpGe d a b m e => exact execVcmpGe_canon d a b m e s canon
  | vcmpLtn d a b m e => exact execVcmpLtn_canon d a b m e s canon
  | vcmpGen d a b m e => exact execVcmpGen_canon d a b m e s canon
  | vcmpFeq d a b m e => exact execVcmpFeq_canon d a b m e s canon
  | vcmpFne d a b m e => exact execVcmpFne_canon d a b m e s canon
  | vcmpFlt d a b m e => exact execVcmpFlt_canon d a b m e s canon
  | vcmpFge d a b m e => exact execVcmpFge_canon d a b m e s canon
  | vcmpFun d a b m e => exact execVcmpFun_canon d a b m e s canon
  | vcvt d a fmt m e rnd => exact execVcvt_canon d a fmt m e rnd s canon
  | vqnt d a fmt m e => exact execVqnt_canon d a fmt m e s canon
  | vdqnt d a fmt m e rnd => exact execVdqnt_canon d a fmt m e rnd s canon
  | vrndi d a m e rnd => exact execVrndi_canon d a m e rnd s canon
  | vrcpa d a m e => exact execVrcpa_canon d a m e s canon
  | vrsqa d a m e => exact execVrsqa_canon d a m e s canon
  | vexp2a d a m e => exact execVexp2a_canon d a m e s canon
  | vlog2a d a m e => exact execVlog2a_canon d a m e s canon
  | vredsum d a k m => exact execVredsum_canon d a k m s canon
  | vredmax d a k m => exact execVredmax_canon d a k m s canon
  | vredmin d a k m => exact execVredmin_canon d a k m s canon
  | vscan d a op k m => exact execVscan_canon d a op k m s canon
  | vdot4 d a b m => exact execVdot4_canon d a b m s canon
  | vperm d a b m e => exact execVperm_canon d a b m e s canon
  | vslup d a b m e => exact execVslup_canon d a b m e s canon
  | vsldn d a b m e => exact execVsldn_canon d a b m e s canon
  | vcomp d a m e => exact execVcomp_canon d a m e s canon
  | vexpd d a m e => exact execVexpd_canon d a m e s canon
  | viota d m e => exact execViota_canon d m e s canon
  | vbcast d a m e => exact execVbcast_canon d a m e s canon
  | vextr d a b e => exact execVextr_canon d a b e s canon
  | vins d a b e => exact execVins_canon d a b e s canon
  | mand d a b e => exact execMand_canon d a b e s canon
  | mor d a b e => exact execMor_canon d a b e s canon
  | mxor d a b e => exact execMxor_canon d a b e s canon
  | mnot d a e => exact execMnot_canon d a e s canon
  | mcnt d a e => exact execMcnt_canon d a e s canon
  | mfirst d a e => exact execMfirst_canon d a e s canon
  | qand d a b e => exact execQand_canon d a b e s canon
  | qclr d a e => exact execQclr_canon d a e s canon
  | vrng d a b m e => exact execVrng_canon d a b m e s canon
  | cHint h x => exact execCHint_canon h x s canon
  | aHint h x => exact execAHint_canon h x s canon
  | land sid => exact execLand_canon sid s canon
  | laneStart sid => exact execLaneStart_canon sid s canon
  | faultOverflowMove part => exact execFaultOverflowMove_canon part s canon
  | atWake sid => exact execAtWake_canon sid s canon
  | cwaitWake sid => exact execCwaitWake_canon sid s canon
  | erecvWake sid => exact execErecvWake_canon sid s canon
  | vpullWake sid => exact execVpullWake_canon sid s canon
  | dwaitWake sid => exact execDwaitWake_canon sid s canon
  | harpCommandStart core => exact execHarpCommandStart_canon core s canon
  | harpRowTouch op => exact execHarpRowTouch_canon op s canon
  | hmmsPairingTimeout op => exact execHmmsPairingTimeout_canon op s canon
  | freeAccessComplete id => exact execFreeAccessComplete_canon id s canon
  | freeAccessTimeout id => exact execFreeAccessTimeout_canon id s canon
  | translationWalk core vd va => exact execTranslationWalk_canon core vd va s canon
  | l1LineExpiry core line => exact execL1LineExpiry_canon core line s canon
  | memoryLineWrite la data => exact execMemoryLineWrite_canon la data s canon
  | memoryLineRead la vd => exact execMemoryLineRead_canon la vd s canon
  | minorWrapReseal blk => exact execMinorWrapReseal_canon blk s canon
  | timedReadCheck launch la => exact execTimedReadCheck_canon launch la s canon
  | relayOwnerWrite id => exact execRelayOwnerWrite_canon id s canon
  | relayOwnerRead id => exact execRelayOwnerRead_canon id s canon
  | relayPeerRead id => exact execRelayPeerRead_canon id s canon
  | switchCheck pkt => exact execSwitchCheck_canon pkt s canon
  | packetDelivery pkt => exact execPacketDelivery_canon pkt s canon
  | timedDelivery pkt flit => exact execTimedDelivery_canon pkt flit s canon
  | elasticArrival pkt => exact execElasticArrival_canon pkt s canon
  | heldArrivalExpiry pkt => exact execHeldArrivalExpiry_canon pkt s canon
  | vpushArrival pkt => exact execVpushArrival_canon pkt s canon
  | remoteReply op value => exact execRemoteReply_canon op value s canon
  | discardNotice op => exact execDiscardNotice_canon op s canon
  | fabricTimeout op => exact execFabricTimeout_canon op s canon
  | rateUpdate => exact execRateUpdate_canon s canon
  | drayCommandStart dray => exact execDrayCommandStart_canon dray s canon
  | drayCommandCompletion dray seq => exact execDrayCommandCompletion_canon dray seq s canon
  | drayTimeout dray seq => exact execDrayTimeout_canon dray seq s canon
  | timedDrayStart launch idx => exact execTimedDrayStart_canon launch idx s canon
  | migrationLineCopy slot => exact execMigrationLineCopy_canon slot s canon
  | portGenerationAdvance x y port => exact execPortGenerationAdvance_canon x y port s canon
  | keyDigestCompare equal => exact execKeyDigestCompare_canon equal s canon
  | routeKeyAdvance => exact execRouteKeyAdvance_canon s canon
  | networkWorkRequest qp status reply => exact execNetworkWorkRequest_canon qp status reply s canon
  | networkInbound qp msg => exact execNetworkInbound_canon qp msg s canon
  | networkTimeout qp => exact execNetworkTimeout_canon qp s canon
  | launchQueuePoll part q => exact execLaunchQueuePoll_canon part q s canon
  | launchEngineTake part => exact execLaunchEngineTake_canon part s canon
  | slotFreed sid => exact execSlotFreed_canon sid s canon
  | unitCompletion sid => exact execUnitCompletion_canon sid s canon
  | completionNotice launch => exact execCompletionNotice_canon launch s canon
  | cancelDrainEnd launch => exact execCancelDrainEnd_canon launch s canon
  | scoredLaunchStart launch allReported => exact execScoredLaunchStart_canon launch allReported s canon
  | endingNotice launch lcy detail => exact execEndingNotice_canon launch lcy detail s canon
  | overrun launch => exact execOverrun_canon launch s canon
  | scoredLaunchEnd launch => exact execScoredLaunchEnd_canon launch s canon
  | scoredLaunchRelease launch => exact execScoredLaunchRelease_canon launch s canon
  | preq part => exact execPreq_canon part s canon
  | scoredPreempt launch => exact execScoredPreempt_canon launch s canon
  | rreq part => exact execRreq_canon part s canon
  | scoredResume launch => exact execScoredResume_canon launch s canon
  | freePreempt sid => exact execFreePreempt_canon sid s canon
  | interruptDelivery vd => exact execInterruptDelivery_canon vd s canon
  | barLine measured => exact execBarLine_canon measured s canon
  | barGap => exact execBarGap_canon s canon
  | rest => exact execRest_canon s canon
  | timeLock p => exact execTimeLock_canon p s canon
  | timeLockRepeat p => exact execTimeLockRepeat_canon p s canon
  | wayQuotaRecompute die => exact execWayQuotaRecompute_canon die s canon
  | errorCounterCopy => exact execErrorCounterCopy_canon s canon
  | checkpointRoundStart => exact execCheckpointRoundStart_canon s canon
  | checkpointRetire => exact execCheckpointRetire_canon s canon
  | checkpointRoundEnd => exact execCheckpointRoundEnd_canon s canon
  | vdScheduleOut part x => exact execVdScheduleOut_canon part x s canon
  | vdScheduleIn part x => exact execVdScheduleIn_canon part x s canon
  | vdReset vd => exact execVdReset_canon vd s canon
  | vdTeardown vd => exact execVdTeardown_canon vd s canon
  | vdResetEffect vd => exact execVdResetEffect_canon vd s canon
  | vdQuiet vd => exact execVdQuiet_canon vd s canon
  | portOpen x y port vd => exact execPortOpen_canon x y port vd s canon
  | portClose x y port => exact execPortClose_canon x y port s canon
  | deviceRegisterWrite w => exact execDeviceRegisterWrite_canon w s canon
  | coreRetire core => exact execCoreRetire_canon core s canon
  | partitionMove src dst crews drays spares => exact execPartitionMove_canon src dst crews drays spares s canon
  | coachmanTakeover => exact execCoachmanTakeover_canon s canon
  | powerStateEntry part => exact execPowerStateEntry_canon part s canon
  | powerWake part => exact execPowerWake_canon part s canon
  | thermalSample m => exact execThermalSample_canon m s canon
  | thermalLevelExit => exact execThermalLevelExit_canon s canon
  | bringupStage0 p => exact execBringupStage0_canon p s canon
  | bringupStage1 => exact execBringupStage1_canon s canon
  | discoveryPacket x y dir => exact execDiscoveryPacket_canon x y dir s canon
  | discoveryAnswer core => exact execDiscoveryAnswer_canon core s canon
  | mapBuild => exact execMapBuild_canon s canon
  | bringupStage2 trained far checksum => exact execBringupStage2_canon trained far checksum s canon
  | bootWaitRelease core => exact execBootWaitRelease_canon core s canon
  | bootExpiry => exact execBootExpiry_canon s canon
  | bringupStage3 p => exact execBringupStage3_canon p s canon
  | lockInterface vd => exact execLockInterface_canon vd s canon
  | startInterface vd => exact execStartInterface_canon vd s canon
  | stopInterface vd => exact execStopInterface_canon vd s canon
  | hostTransaction t => exact execHostTransaction_canon t s canon
  | mctpMessage m => exact execMctpMessage_canon m s canon
  | firmwareUpdate bar => exact execFirmwareUpdate_canon bar s canon
  | scoredBankAccess id => exact execScoredBankAccess_canon id s canon
  | fabricAcknowledgement op mark => exact execFabricAcknowledgement_canon op mark s canon
  | drayQueueFullExpiry sid => exact execDrayQueueFullExpiry_canon sid s canon
  | checkpointUnitCopy => exact execCheckpointUnitCopy_canon s canon
  | frameAssignment frame owner assigned fresh => exact execFrameAssignment_canon frame owner assigned fresh s canon
  | queuePairCreation qp c => exact execQueuePairCreation_canon qp c s canon
  | vdCreation vd c => exact execVdCreation_canon vd c s canon
  | reservedStrandRelease sid => exact execReservedStrandRelease_canon sid s canon
  | openSlotPurge vd => exact execOpenSlotPurge_canon vd s canon
  | emptyMaskWriteback part die => exact execEmptyMaskWriteback_canon part die s canon

/-- Every event keeps the canonical form, one arm of runEvent a case. -/
theorem runEvent_canonical (e : Event) (s : State) (canon : Canonical s) : OutOk (runEvent e s) := by
  cases e with
  | land sid => exact execLand_canon sid s canon
  | laneStart sid => exact execLaneStart_canon sid s canon
  | faultOverflowMove part => exact execFaultOverflowMove_canon part s canon
  | atWake sid => exact execAtWake_canon sid s canon
  | cwaitWake sid => exact execCwaitWake_canon sid s canon
  | erecvWake sid => exact execErecvWake_canon sid s canon
  | vpullWake sid => exact execVpullWake_canon sid s canon
  | dwaitWake sid => exact execDwaitWake_canon sid s canon
  | harpCommandStart core => exact execHarpCommandStart_canon core s canon
  | harpRowTouch op => exact execHarpRowTouch_canon op s canon
  | hmmsPairingTimeout op => exact execHmmsPairingTimeout_canon op s canon
  | freeAccessComplete id => exact execFreeAccessComplete_canon id s canon
  | freeAccessTimeout id => exact execFreeAccessTimeout_canon id s canon
  | translationWalk core vd va => exact execTranslationWalk_canon core vd va s canon
  | l1LineExpiry core line => exact execL1LineExpiry_canon core line s canon
  | memoryLineWrite la data => exact execMemoryLineWrite_canon la data s canon
  | memoryLineRead la vd => exact execMemoryLineRead_canon la vd s canon
  | minorWrapReseal blk => exact execMinorWrapReseal_canon blk s canon
  | timedReadCheck launch la => exact execTimedReadCheck_canon launch la s canon
  | relayOwnerWrite id => exact execRelayOwnerWrite_canon id s canon
  | relayOwnerRead id => exact execRelayOwnerRead_canon id s canon
  | relayPeerRead id => exact execRelayPeerRead_canon id s canon
  | switchCheck pkt => exact execSwitchCheck_canon pkt s canon
  | packetDelivery pkt => exact execPacketDelivery_canon pkt s canon
  | timedDelivery pkt flit => exact execTimedDelivery_canon pkt flit s canon
  | elasticArrival pkt => exact execElasticArrival_canon pkt s canon
  | heldArrivalExpiry pkt => exact execHeldArrivalExpiry_canon pkt s canon
  | vpushArrival pkt => exact execVpushArrival_canon pkt s canon
  | remoteReply op value mark => exact execRemoteReply_canon op value _ (State.replyMark_canon s op mark canon)
  | discardNotice op => exact execDiscardNotice_canon op s canon
  | fabricTimeout op => exact execFabricTimeout_canon op s canon
  | rateUpdate => exact execRateUpdate_canon s canon
  | drayCommandStart dray => exact execDrayCommandStart_canon dray s canon
  | drayCommandCompletion dray seq => exact execDrayCommandCompletion_canon dray seq s canon
  | drayTimeout dray seq => exact execDrayTimeout_canon dray seq s canon
  | timedDrayStart launch idx => exact execTimedDrayStart_canon launch idx s canon
  | migrationLineCopy slot => exact execMigrationLineCopy_canon slot s canon
  | portGenerationAdvance x y port => exact execPortGenerationAdvance_canon x y port s canon
  | keyDigestCompare equal => exact execKeyDigestCompare_canon equal s canon
  | routeKeyAdvance => exact execRouteKeyAdvance_canon s canon
  | networkWorkRequest qp status reply => exact execNetworkWorkRequest_canon qp status reply s canon
  | networkInbound qp msg => exact execNetworkInbound_canon qp msg s canon
  | networkTimeout qp => exact execNetworkTimeout_canon qp s canon
  | launchQueuePoll part q => exact execLaunchQueuePoll_canon part q s canon
  | launchEngineTake part => exact execLaunchEngineTake_canon part s canon
  | slotFreed sid => exact execSlotFreed_canon sid s canon
  | unitCompletion sid => exact execUnitCompletion_canon sid s canon
  | completionNotice launch => exact execCompletionNotice_canon launch s canon
  | cancelDrainEnd launch => exact execCancelDrainEnd_canon launch s canon
  | scoredLaunchStart launch allReported => exact execScoredLaunchStart_canon launch allReported s canon
  | endingNotice launch lcy detail => exact execEndingNotice_canon launch lcy detail s canon
  | overrun launch => exact execOverrun_canon launch s canon
  | scoredLaunchEnd launch => exact execScoredLaunchEnd_canon launch s canon
  | scoredLaunchRelease launch => exact execScoredLaunchRelease_canon launch s canon
  | preq part => exact execPreq_canon part s canon
  | scoredPreempt launch => exact execScoredPreempt_canon launch s canon
  | rreq part => exact execRreq_canon part s canon
  | scoredResume launch => exact execScoredResume_canon launch s canon
  | freePreempt sid => exact execFreePreempt_canon sid s canon
  | interruptDelivery vd => exact execInterruptDelivery_canon vd s canon
  | barLine measured => exact execBarLine_canon measured s canon
  | barGap => exact execBarGap_canon s canon
  | rest => exact execRest_canon s canon
  | timeLock p => exact execTimeLock_canon p s canon
  | timeLockRepeat p => exact execTimeLockRepeat_canon p s canon
  | wayQuotaRecompute die => exact execWayQuotaRecompute_canon die s canon
  | errorCounterCopy => exact execErrorCounterCopy_canon s canon
  | checkpointRoundStart => exact execCheckpointRoundStart_canon s canon
  | checkpointRetire => exact execCheckpointRetire_canon s canon
  | checkpointRoundEnd => exact execCheckpointRoundEnd_canon s canon
  | vdScheduleOut part x => exact execVdScheduleOut_canon part x s canon
  | vdScheduleIn part x => exact execVdScheduleIn_canon part x s canon
  | vdReset vd => exact execVdReset_canon vd s canon
  | vdTeardown vd => exact execVdTeardown_canon vd s canon
  | vdResetEffect vd => exact execVdResetEffect_canon vd s canon
  | vdQuiet vd => exact execVdQuiet_canon vd s canon
  | portOpen x y port vd => exact execPortOpen_canon x y port vd s canon
  | portClose x y port => exact execPortClose_canon x y port s canon
  | deviceRegisterWrite w => exact execDeviceRegisterWrite_canon w s canon
  | coreRetire core => exact execCoreRetire_canon core s canon
  | partitionMove src dst crews drays spares => exact execPartitionMove_canon src dst crews drays spares s canon
  | coachmanTakeover => exact execCoachmanTakeover_canon s canon
  | powerStateEntry part => exact execPowerStateEntry_canon part s canon
  | powerWake part => exact execPowerWake_canon part s canon
  | thermalSample m => exact execThermalSample_canon m s canon
  | thermalLevelExit => exact execThermalLevelExit_canon s canon
  | bringupStage0 p => exact execBringupStage0_canon p s canon
  | bringupStage1 => exact execBringupStage1_canon s canon
  | discoveryPacket x y dir => exact execDiscoveryPacket_canon x y dir s canon
  | discoveryAnswer core => exact execDiscoveryAnswer_canon core s canon
  | mapBuild => exact execMapBuild_canon s canon
  | bringupStage2 trained far checksum => exact execBringupStage2_canon trained far checksum s canon
  | bootWaitRelease core => exact execBootWaitRelease_canon core s canon
  | bootExpiry => exact execBootExpiry_canon s canon
  | bringupStage3 p => exact execBringupStage3_canon p s canon
  | lockInterface vd => exact execLockInterface_canon vd s canon
  | startInterface vd => exact execStartInterface_canon vd s canon
  | stopInterface vd => exact execStopInterface_canon vd s canon
  | hostTransaction t => exact execHostTransaction_canon t s canon
  | mctpMessage m => exact execMctpMessage_canon m s canon
  | firmwareUpdate bar => exact execFirmwareUpdate_canon bar s canon
  | scoredBankAccess id => exact execScoredBankAccess_canon id s canon
  | fabricAcknowledgement op mark => exact execFabricAcknowledgement_canon op mark s canon
  | drayQueueFullExpiry sid => exact execDrayQueueFullExpiry_canon sid s canon
  | checkpointUnitCopy => exact execCheckpointUnitCopy_canon s canon
  | frameAssignment frame owner assigned fresh => exact execFrameAssignment_canon frame owner assigned fresh s canon
  | queuePairCreation qp c => exact execQueuePairCreation_canon qp c s canon
  | vdCreation vd c => exact execVdCreation_canon vd c s canon
  | reservedStrandRelease sid => exact execReservedStrandRelease_canon sid s canon
  | openSlotPurge vd => exact execOpenSlotPurge_canon vd s canon
  | emptyMaskWriteback part die => exact execEmptyMaskWriteback_canon part die s canon
  | effect e r => exact State.runEffect_canon s e r canon
  | timeArrival launch m => exact execTimeArrival_canon launch m s canon
  | scratchClear core => exact execScratchClear_canon core s canon
  | upset u => exact execUpset_canon u s canon
  | linkArrival => exact execLinkArrival_canon s canon

theorem runWord_canonical (s : State) (w : Except TrapInfo Instr) (canon : Canonical s) : OutOk (runWord s w) := by
  cases w with
  | ok i => exact exec_canonical i s canon
  | error t => exact finish_canon s (.trap t) canon resok_trap

/-- A joined pair keeps the canonical form, whichever of its words is done, held or trapped (R41, R43). -/
theorem runJoined_canonical (s : State) (c a : Except TrapInfo Instr) (wc wa : Nat) (canon : Canonical s) :
    OutOk (runJoined s c a wc wa) := by
  have placed (second : Bool) (w : Nat) {u : State} (h : Canonical u) : Canonical (u.position second w) := State.position_canon u second w h
  have first := runWord_canonical (s.position false wc) c (placed false wc canon)
  have empty : Canonical (s.position true wa).keepEmpty := State.keepEmpty_canon _ (placed true wa canon)
  unfold runJoined
  split
  next t ran =>
    have canonT : Canonical t := outok_inv (ran ▸ first)
    have behind {u : State} (h : Canonical u) : OutOk (runWord (u.position true wa).behind a) :=
      runWord_canonical _ a (State.behind_canon _ (placed true wa h))
    split
    · exact canonT
    · have second := behind canonT
      split
      next u ranA =>
        split
        · exact outok_inv (ranA ▸ second)
        · exact empty
        · exact State.chargePair_canon _ _ (placed true wa canon)
      · exact second
    · have second := behind canon
      split
      next u ranA =>
        show Canonical (if _ then _ else _)
        split
        · exact empty
        · exact canonT
      · exact second
  · exact first

/-- The issue cycle of a strand keeps the canonical form. -/
theorem issue_canonical (sid : Nat) (s : State) (canon : Canonical s) : OutOk (issue sid s) := by
  have fetch := State.toFetch_canon s sid canon
  unfold issue
  split
  next t waits =>
    rw [waits] at fetch
    exact fetch
  next t issues =>
    rw [issues] at fetch
    have decoded := State.fetchDecode_canon t sid fetch
    split
    next u info traps =>
      rw [traps] at decoded
      exact settle_canon _ t fetch (finish_canon u (.trap info) decoded resok_trap)
    next u i one =>
      rw [one] at decoded
      exact settle_canon _ t fetch (exec_canonical i u decoded)
    next u c a wc wa two =>
      rw [two] at decoded
      exact settle_canon _ t fetch (runJoined_canonical u c a wc wa decoded)

theorem step_canonical (s : State) (canon : Canonical s) : OutOk (step s) := by
  have inbox := State.takeInbox_canon s canon
  have due := State.takeDue_canon s canon
  unfold step
  split
  next e t outside =>
    rw [outside] at inbox
    split
    · exact runEvent_canonical e t inbox
    · exact outok_fault
  · split
    next e t owed =>
      rw [owed] at due
      exact runEvent_canonical e t due
    · split
      next sid rest _ => exact issue_canonical sid _ canon
      · exact State.tick_canon s canon

/-- Settles O9. -/
theorem stepKeepsCanonical : Obligations.StepKeepsCanonical := fun s _ canon ran => outok_inv (ran ▸ step_canonical s canon)

end Sys2Proof.Machine
end

section
/-! Proof of the statement that narrowing never widens (O31): a caveat leaves an effective object within the one before it, and the
narrowed ticket is the old one with one caveat more. -/
namespace Sys2Proof.Machine

/-! ## One caveat (R303) -/

/-- An effective object with no more than another: window, rights and lifetime. -/
structure Eff.Within (e f : Eff) : Prop where
  lo : f.lo ≤ e.lo
  hi : e.hi ≤ f.hi
  rights : ∀ i, e.rights.testBit i = true → f.rights.testBit i = true
  expiry : ∀ x, f.expiry = some x → ∃ y, e.expiry = some y ∧ y ≤ x

theorem Eff.within_refl (e : Eff) : e.Within e := ⟨le_rfl, le_rfl, fun _ => id, fun x at_ => ⟨x, at_, le_rfl⟩⟩

theorem Eff.narrow_absent (e : Eff) (kind : Nat) : e.narrow kind 0 = e := if_pos (.inl rfl)

/-- A well-formed caveat narrows: the window to a part of it, the rights to some of them, the lifetime to an earlier end. -/
theorem Eff.narrow_within {e : Eff} {kind c : Nat} (sound : (e.narrow kind c).bad = false) : (e.narrow kind c).Within e := by
  revert sound
  unfold Eff.narrow
  split
  next => exact fun _ => e.within_refl
  next =>
    split
    next window =>
      extract_lets off len
      split
      next => simp
      next inside =>
        refine fun _ => ⟨Nat.le_add_right .., ?_, fun _ => id, fun x at_ => ⟨x, at_, le_rfl⟩⟩
        change e.lo + off + len ≤ e.hi
        omega
    next =>
      split
      next rights =>
        split
        · simp
        · refine fun _ => ⟨le_rfl, le_rfl, fun i both => ?_, fun x at_ => ⟨x, at_, le_rfl⟩⟩
          exact (Bool.and_eq_true_iff.mp ((Nat.testBit_and ..).symm.trans both)).1
      next =>
        split
        next expiry =>
          split
          · simp
          · refine fun _ => ⟨le_rfl, le_rfl, fun _ => id, fun x at_ => ⟨_, rfl, ?_⟩⟩
            simp only [at_]
            exact Nat.min_le_left ..
        next => simp

/-! ## The ticket by its words (R299, R303) -/

/-- The effective object of a ticket without its caveats, from its word 1. -/
def wholeEff (w1 : Nat) : Eff :=
  let kind := field w1 0 3
  let base := if kind = 2 then field w1 57 40 % 8192 else field w1 57 40
  if kind = 3 ∨ kind = 5 then ⟨0, 0, field w1 3 8, none, false⟩ else ⟨64 * base, 64 * (base + field w1 97 24), field w1 3 8, none, false⟩

/-- A field of word 1. -/
theorem bits_word1 (t : Ticket) {lo n : Nat} (fits : lo + n ≤ 128) : bits t (128 + lo) n = field (tkWord t 1) lo n := by
  refine Nat.eq_of_testBit_eq fun i => ?_
  simp only [tkWord, bits, field, Nat.testBit_mod_two_pow, Nat.testBit_div_two_pow, Nat.mul_one]
  by_cases below : i < n
  · rw [decide_eq_true (show i + lo < 128 by omega), Bool.true_and, show i + (128 + lo) = i + lo + 128 by omega]
  · rw [decide_eq_false below, Bool.false_and, Bool.false_and]

theorem tkKind_eq (t : Ticket) : tkKind t = field (tkWord t 1) 0 3 := bits_word1 t (lo := 0) (n := 3) (by omega)

theorem caveat0_eq (t : Ticket) : tkCaveat t 0 = tkWord t 2 % 2 ^ 64 := by
  unfold tkCaveat tkWord bits field
  omega

theorem caveat1_eq (t : Ticket) : tkCaveat t 1 = tkWord t 2 / 2 ^ 64 := by
  unfold tkCaveat tkWord bits field
  omega

/-- With its caveats in order, a ticket's effective object is the whole one narrowed by each in turn. -/
theorem tkEff_of_ordered {t : Ticket} (ordered : tkCaveat t 0 = 0 → tkCaveat t 1 = 0) :
    tkEff t = ((wholeEff (tkWord t 1)).narrow (tkKind t) (tkCaveat t 0)).narrow (tkKind t) (tkCaveat t 1) := by
  have kind := tkKind_eq t
  have rights : tkRights t = _ := bits_word1 t (lo := 3) (n := 8) (by omega)
  have base : tkBase t = _ := bits_word1 t (lo := 57) (n := 40) (by omega)
  have len : tkLen t = _ := bits_word1 t (lo := 97) (n := 24) (by omega)
  unfold tkEff wholeEff
  dsimp only
  rw [if_neg (by tauto), rights, base, len, kind]

theorem ordered_of_sound {t : Ticket} (sound : (tkEff t).bad = false) : tkCaveat t 0 = 0 → tkCaveat t 1 = 0 := by
  intro first
  by_contra second
  unfold tkEff at sound
  dsimp only at sound
  rw [if_pos ⟨first, second⟩] at sound
  cases sound

/-! ## The narrowed ticket (R258) -/

theorem tkWord_ofWords {w0 w1 w2 : Nat} (h0 : w0 < 2 ^ 128) (h1 : w1 < 2 ^ 128) (h2 : w2 < 2 ^ 128) (tag top : Nat) :
    let x : Ticket := BitVec.ofNat 512 (w0 + 2 ^ 128 * w1 + 2 ^ 256 * w2 + 2 ^ 384 * tag + 2 ^ 448 * top)
    tkWord x 0 = w0 ∧ tkWord x 1 = w1 ∧ tkWord x 2 = w2 := by
  dsimp only [tkWord, bits, field]
  rw [BitVec.toNat_ofNat]
  omega

theorem tkWord_lt (t : Ticket) (i : Nat) : tkWord t i < 2 ^ 128 := Nat.mod_lt _ (by decide)

/-- TKNAR with status 0 has found a place for a caveat that is well formed, and puts it there. -/
theorem tknar_narrows {t : Ticket} {c : Nat} (ok : (tknar t c).1 = 0) : ∃ i tag, (i = 0 ∧ tkCaveat t 0 = 0 ∨ i = 1 ∧ tkCaveat t 0 ≠ 0 ∧ tkCaveat t 1 = 0) ∧
    c ≠ 0 ∧ ((tkEff t).narrow (tkKind t) c).bad = false ∧
    (tknar t c).2 = BitVec.ofNat 512 (tkWord t 0 + 2 ^ 128 * tkWord t 1 + 2 ^ 256 * (tkWord t 2 + c * 2 ^ (64 * i)) + 2 ^ 384 * tag +
      2 ^ 448 * bits t 448 64) := by
  revert ok
  unfold tknar
  dsimp only
  generalize place : (if tkCaveat t 0 = 0 then 0 else if tkCaveat t 1 = 0 then 1 else 2) = i
  split
  · exact fun ok => nomatch ok
  · split
    · exact fun ok => nomatch ok
    · split
      · exact fun ok => nomatch ok
      · split
        · exact fun ok => nomatch ok
        next free fits =>
          intro _
          obtain ⟨kind, sound⟩ := not_or.mp fits
          refine ⟨i, _, ?_, fun zero => kind (by rw [zero]), Bool.eq_false_iff.mpr sound, rfl⟩
          split at place
          · exact .inl ⟨place.symm, ‹_›⟩
          · split at place
            · exact .inr ⟨place.symm, ‹_›, ‹_›⟩
            · exact absurd place.symm free

/-- The narrowed ticket keeps words 0 and 1, and its effective object is the old one narrowed by the caveat. -/
theorem tknar_words {t : Ticket} {c : Nat} (fits : c < 2 ^ 64) (ok : (tknar t c).1 = 0) (sound : (tkEff t).bad = false) :
    tkWord (tknar t c).2 0 = tkWord t 0 ∧ tkWord (tknar t c).2 1 = tkWord t 1 ∧
      tkEff (tknar t c).2 = (tkEff t).narrow (tkKind t) c ∧ ((tkEff t).narrow (tkKind t) c).bad = false := by
  obtain ⟨i, tag, place, present, narrowed, image⟩ := tknar_narrows ok
  have ordered := ordered_of_sound sound
  have old := tkEff_of_ordered ordered
  have below : tkWord t 2 + c * 2 ^ (64 * i) < 2 ^ 128 := by
    have first := caveat0_eq t
    have second := caveat1_eq t
    obtain ⟨rfl, free⟩ | ⟨rfl, -, free⟩ := place
    · have free' := ordered free
      omega
    · omega
  obtain ⟨word0, word1, word2⟩ := tkWord_ofWords (tkWord_lt t 0) (tkWord_lt t 1) below tag (bits t 448 64)
  rw [← image] at word0 word1 word2
  have kind : tkKind (tknar t c).2 = tkKind t := by rw [tkKind_eq, word1, ← tkKind_eq]
  have first := caveat0_eq (tknar t c).2
  have second := caveat1_eq (tknar t c).2
  have first' := caveat0_eq t
  have second' := caveat1_eq t
  rw [word2] at first second
  refine ⟨word0, word1, ?_, narrowed⟩
  obtain ⟨rfl, free⟩ | ⟨rfl, used, free⟩ := place
  · have free' := ordered free
    have c0 : tkCaveat (tknar t c).2 0 = c := by omega
    have c1 : tkCaveat (tknar t c).2 1 = 0 := by omega
    rw [tkEff_of_ordered fun _ => c1, old, kind, word1, c0, c1, free, free', Eff.narrow_absent, Eff.narrow_absent, Eff.narrow_absent]
  · have c0 : tkCaveat (tknar t c).2 0 = tkCaveat t 0 := by omega
    have c1 : tkCaveat (tknar t c).2 1 = c := by omega
    rw [tkEff_of_ordered fun empty => absurd (c0 ▸ empty) used, old, kind, word1, c0, c1, free, Eff.narrow_absent]

/-- Settles O31, by the one caveat that narrowing adds. -/
theorem narrowingNeverWidens : Obligations.NarrowingNeverWidens := by
  intro t c fits ok sound n
  obtain ⟨word0, word1, object, narrowed⟩ := tknar_words fits ok sound
  have within := Eff.narrow_within narrowed
  rw [← object] at within narrowed
  exact ⟨word0, word1, narrowed, within.lo, within.hi, within.rights, within.expiry⟩

end Sys2Proof.Machine
end

section
/-! Proof of the statement on TKMOV, TKCHK, TKNAR, TKLD and TKST (O30), from the laws of accesses at their issue. -/
namespace Sys2Proof.Machine
open Sys2Proof.Claims

/-! ## Accesses of 64 bytes (R258) -/

section
variable {s u : State} {sid ea n : Nat} {sp : Space} {r : Right} {use : MemUse} {x : Access} {e : Elem}

/-- An access that passes its checks is a blank one of its size, but for its place and its cycles. -/
theorem checkAccess_blank (passed : s.checkAccess sid sp ea n r use = (u, .ok x)) : x.sid = sid ∧ x.kind = .load ∧ x.bytes = n ∧ x.dst = none := by
  simp only [State.checkAccess, State.virtTarget] at passed
  repeat' split at passed
  all_goals cases passed
  all_goals exact ⟨rfl, rfl, rfl, rfl⟩

/-- Of 64 bytes, an access touches the same words as a load, a ticket's image or a block. -/
theorem vectorHolds_of_wide (load : x.kind = .load) (size : x.bytes = 64) {kind : AccKind} {d : Option Dst}
    (wide : (∃ tk, kind = .image tk) ∨ ∃ bs, kind = .block bs) :
    u.vectorHolds { x with kind := kind, dst := d } = u.vectorHolds x := by
  have spans : Access.spans { x with kind := kind, dst := d } = x.spans := by
    funext e
    obtain ⟨tk, rfl⟩ | ⟨bs, rfl⟩ := wide <;> simp [Access.spans, Access.unit, load, size]
  unfold State.vectorHolds
  rw [spans]

/-- An access that is no load and that nothing holds back at issue starts, with its result promised where it has one. -/
theorem issueAccess_of_free {a : Access} (cycles : a.cycles = [[e]]) (wide : (∃ tk, a.kind = .image tk) ∨ ∃ bs, a.kind = .block bs)
    (free : a.scored = true ∨ u.vectorHolds a = false)
    (checked : (∃ bs, a.kind = .block bs) → a.place = .phys → isHost e.addr = true → u.checksPending a.vd = false) :
    ∃ a' home rank earliest p n, a' = { a with home := home, rank := rank, earliest := earliest } ∧ u.issueAccess a 0 = .ok
      (match a.dst with
      | some d => ((u.promise d false).startAccess a' p p).perf a'.sid 6 n
      | none => u.startAccess a' p p) := by
  have unheld : (!a.scored && u.vectorHolds a) = false := by
    obtain h | h := free <;> simp [h]
  have sound : (∃ bs, a.kind = .block bs) → (isHost e.addr && a.place == .phys && u.checksPending a.vd) = false := by
    intro stores
    by_cases host : isHost e.addr = true ∧ a.place = .phys
    · rw [checked stores host.2 host.1, Bool.and_false]
    · have outside : (isHost e.addr && a.place == .phys) = false := by simpa using host
      rw [outside, Bool.false_and]
  unfold State.issueAccess
  rw [if_neg (Bool.eq_false_iff.mp unheld)]
  extract_lets addr a' hit own
  have at_ : addr = e.addr := by unfold addr; rw [cycles]
  have noHit : hit = none := by
    unfold hit
    obtain ⟨tk, h⟩ | ⟨bs, h⟩ := wide <;> rw [if_neg] <;> simp [a', h]
  rw [if_neg, noHit]
  · refine ⟨a', _, _, _, a'.latency, if a'.cached then 1 else 0, rfl, ?_⟩
    have dst : a'.dst = a.dst := rfl
    rw [dst]
    clear_value a'
    cases a.dst <;> rfl
  · rw [at_]
    obtain ⟨tk, h⟩ | ⟨bs, h⟩ := wide
    · simp [h]
    · rw [h]
      exact Bool.eq_false_iff.mp (sound ⟨bs, h⟩)

/-- A word that issues such an access starts it. -/
theorem starts_of_issueAccess {i : Instr} {kind : AccKind} {d : Option Dst} (rising : Rising u.strands) (cur : u.cur = s.cur)
    (cycles : x.cycles = [[e]]) (wide : (∃ tk, kind = .image tk) ∨ ∃ bs, kind = .block bs)
    (free : x.scored = true ∨ u.vectorHolds { x with kind := kind, dst := d } = false)
    (checked : (∃ bs, kind = .block bs) → x.place = .phys → isHost e.addr = true → u.checksPending x.vd = false)
    (run : exec i s = finish s (u.issueAccess { x with kind := kind, dst := d } 0)) : Claims.Starts i s u x e kind d := by
  obtain ⟨_, home, rank, earliest, p, n, rfl, issued⟩ :=
    issueAccess_of_free (u := u) (a := { x with kind := kind, dst := d }) cycles wide free checked
  rw [issued] at run
  cases d with
  | none => exact starts_of_startAccess (x := { x with dst := none }) cycles rfl run
  | some d =>
    have promised := modMe_becomes rising fun y => { y with
      pend := y.pend ++ [⟨y.seq, u.turn, d, none, BitVec.allOnes 65536, none, false⟩] }
    obtain ⟨left, bound, agenda, picks, started⟩ := startAccess_eq (u.promise d false)
      { x with kind := kind, dst := some d, home := home, rank := rank, earliest := earliest } p p
    dsimp only at run
    rw [started] at run
    refine ⟨_, _, run, rfl, rfl, rfl, rfl, rfl, rfl, rfl, rfl, cycles, rfl, rfl, rfl, rfl, fun j other => ?_, ?_⟩
    · exact promised.others j (cur ▸ other)
    · exact promised.me

end

/-! ## The words -/

section
variable {s u : State} {tk m : TkReg} {d a : GReg} {sp : Space} {x : Access} {e : Elem}

theorem tkmov_copies (ready : s.Ready { src := [.tk m], dst := [.tk tk] }) :
    Does (.tkmov tk m) s (s.landWide (.tk tk) ((s.me.rtk m).setWidth 65536) 1) := by
  change finish s (word s _ _) = _
  rw [word_ready ready, finish_ok]

theorem narrow_rights_le (e : Eff) (kind c : Nat) : (e.narrow kind c).rights ≤ e.rights := by
  unfold Eff.narrow
  split
  · exact le_rfl
  · split
    · extract_lets off len
      split <;> exact le_rfl
    · split
      · split
        · exact le_rfl
        · exact Nat.and_le_left
      · split
        · split <;> exact le_rfl
        · exact le_rfl

theorem tkEff_rights_lt (t : Ticket) : (tkEff t).rights < 256 := by
  have whole : tkRights t < 256 := Nat.mod_lt _ (by decide)
  have narrowed (e : Eff) (kind c1 c2 : Nat) (same : e.rights = tkRights t) : ((e.narrow kind c1).narrow kind c2).rights < 256 :=
    ((narrow_rights_le ..).trans (narrow_rights_le ..)).trans_lt (same ▸ whole)
  unfold tkEff
  extract_lets kind base object c1 c2
  have same : object.rights = tkRights t := by unfold object; split <;> rfl
  split
  · exact same ▸ whole
  · exact narrowed object kind c1 c2 same

/-- The summary of a ticket: its low bit, the kind above it, and the rights in the second byte (R258). -/
theorem tkSummary_fields {t : Ticket} (present : t ≠ 0) :
    let v := BitVec.ofNat 64 (s.tkSummary t)
    v.getLsbD 0 = true ∧ bits v 1 3 = tkKind t ∧ bits v 8 8 = (tkEff t).rights := by
  have kind : tkKind t < 8 := Nat.mod_lt _ (by decide)
  have rights := tkEff_rights_lt t
  have expired : ∃ b, b ≤ 1 ∧ s.tkSummary t = 1 + 2 * tkKind t + 256 * (tkEff t).rights + 65536 * b := by
    rw [State.tkSummary, if_neg present]
    dsimp only
    split
    · split
      · exact ⟨1, le_rfl, rfl⟩
      · exact ⟨0, by omega, rfl⟩
    · exact ⟨0, by omega, rfl⟩
  obtain ⟨b, le, sum⟩ := expired
  rw [sum]
  refine ⟨?_, ?_, ?_⟩
  · rw [BitVec.getLsbD_ofNat, Nat.testBit_zero]
    simp
    omega
  · rw [bits, field, BitVec.toNat_ofNat]
    omega
  · rw [bits, field, BitVec.toNat_ofNat]
    omega

theorem tkchk_lands (ready : s.Ready { src := [.tk tk], dst := [.g d] }) :
    Does (.tkchk tk d) s (s.landG d (BitVec.ofNat 64 (s.tkSummary (s.me.rtk tk))) 2) := by
  change finish s (word s _ _) = _
  rw [word_ready ready, finish_ok]

theorem tknar_lands (ready : s.Ready { src := [.tk tk, .g a], dst := [.tk tk, .g d] }) :
    let r := tknar (s.me.rtk tk) (s.rg a).toNat
    let t := s.landG d (BitVec.ofNat 64 r.1) 2
    Does (.tknar tk d a) s (if r.1 = 0 then t.landWide (.tk tk) (r.2.setWidth 65536) 2 else t) := by
  change finish s (word s _ _) = _
  rw [word_ready ready, finish_ok]

theorem tknar_of_empty (c : Nat) : (tknar 0 c).1 = 1 := by
  rw [tknar]
  dsimp only
  rw [if_pos rfl]

theorem tknar_of_unnarrowable {t : Ticket} (present : t ≠ 0) (kept : (tkEff t).rights.testBit 6 = false) (c : Nat) :
    (tknar t c).1 = 2 := by
  have kept' : (tkEff t).has rightNarrowable = false := kept
  rw [tknar]
  dsimp only
  rw [if_neg present, kept', Bool.not_false, if_pos rfl]

variable (canon : Canonical s) (cycles : x.cycles = [[e]])
include canon cycles

theorem tkld_starts (ready : s.Ready { src := [.g a], dst := [.tk tk], outward := true })
    (passed : s.checkAccess s.cur.sid sp (s.rg a).toNat 64 .read .plain = (u, .ok x)) (clear : Clear u x e false) :
    Claims.Starts (.tkld tk a sp) s u x e (.image tk) (some (.tk tk)) := by
  obtain ⟨-, load, size, -⟩ := checkAccess_blank passed
  have canonU : Canonical u := State.checkAccess_canon_fwd2 passed canon
  have wide : (∃ k, AccKind.image tk = .image k) ∨ ∃ bs, AccKind.image tk = .block bs := .inl ⟨tk, rfl⟩
  refine starts_of_issueAccess canonU.rstrands (checkAccess_cur passed) cycles wide ?_ (fun ⟨_, stores⟩ => nomatch stores) ?_
  · exact clear.1.imp_right (vectorHolds_of_wide load size wide).trans
  · change finish s (word s _ _) = _
    rw [word_ready ready, passed, checked]

theorem tkst_starts (ready : s.Ready { src := [.tk tk, .g a], outward := true })
    (delegable : s.me.rtk tk = 0 ∨ (tkEff (s.me.rtk tk)).rights.testBit 5 = true)
    (passed : s.checkAccess s.cur.sid sp (s.rg a).toNat 64 .write .plain = (u, .ok x)) (clear : Clear u x e true) :
    Claims.Starts (.tkst tk a sp) s u x e (.block (toBytes 64 (s.me.rtk tk).toNat)) none := by
  obtain ⟨-, load, size, owed⟩ := checkAccess_blank passed
  have canonU : Canonical u := State.checkAccess_canon_fwd2 passed canon
  generalize image : toBytes 64 (s.me.rtk tk).toNat = bs
  have wide : (∃ k, AccKind.block bs = .image k) ∨ ∃ b, AccKind.block bs = .block b := .inr ⟨bs, rfl⟩
  have undelegable : ¬ (s.me.rtk tk ≠ 0 ∧ (!(tkEff (s.me.rtk tk)).has rightDelegable) = true) := by
    rintro ⟨present, kept⟩
    obtain empty | right := delegable
    · exact present empty
    · exact absurd (Bool.not_eq_true' _ ▸ kept) (by rw [Eff.has, rightDelegable, right]; simp)
  rw [← owed]
  refine starts_of_issueAccess canonU.rstrands (checkAccess_cur passed) cycles wide ?_ (fun _ => clear.2 rfl) ?_
  · exact clear.1.imp_right (vectorHolds_of_wide load size wide).trans
  · change finish s (word s _ _) = _
    rw [word_ready ready]
    dsimp only
    rw [if_neg undelegable, passed, checked, image]

end

theorem tkst_refused {s : State} {tk : TkReg} {a : GReg} {sp : Space} (ready : s.Ready { src := [.tk tk, .g a], outward := true })
    (present : s.me.rtk tk ≠ 0) (kept : (tkEff (s.me.rtk tk)).rights.testBit 5 = false) :
    Traps (.tkst tk a sp) s { cause := 8, eval := s.rg a } := by
  have refused : s.me.rtk tk ≠ 0 ∧ (!(tkEff (s.me.rtk tk)).has rightDelegable) = true := ⟨present, by rw [Eff.has, rightDelegable, kept]; rfl⟩
  change finish s (word s _ _) = _
  rw [word_ready ready]
  dsimp only
  rw [if_pos refused]
  rfl

/-- Settles O30, word by word. -/
theorem ticketWords : Obligations.TicketWords := by
  intro s u tk m d a sp x e canon cycles t
  refine ⟨tkmov_copies, fun ready => ⟨fun empty => ?_, fun present => ⟨_, tkchk_lands ready, tkSummary_fields present⟩⟩,
    fun ready => ?_, fun ready passed clear => tkld_starts canon cycles ready passed clear,
    fun ready => ⟨tkst_refused ready, fun delegable passed clear => tkst_starts canon cycles ready delegable passed clear⟩⟩
  · have landed := tkchk_lands ready
    rwa [State.tkSummary, if_pos empty] at landed
  · have landed := tknar_lands ready
    refine ⟨fun ok => ?_, fun failed => ?_, fun empty => ?_, fun present kept => tknar_of_unnarrowable present kept _⟩
    · dsimp only at landed
      rwa [if_pos ok, ok] at landed
    · dsimp only at landed
      rwa [if_neg failed] at landed
    · exact (congrArg (fun t => (tknar t _).1) empty).trans (tknar_of_empty _)

end Sys2Proof.Machine
end

section
/-! Proof of the statement on open operations and on tickets that fail their checks (O36), from the laws of what a word answers its
strand. -/
namespace Sys2Proof.Machine
open Sys2Proof.Claims

/-! ## The operation that a word opens (R257) -/

/-- The register of an operation's result, g[0] for none. -/
def resultReg (dst : Option (GReg × Nat × Bool)) : GReg := match dst with | some (d, _, _) => d | none => 0

/-- The operation of the issuing word is open, and its packet leaves. -/
def State.sending (s : State) (sid tkr : Nat) (t : Ticket) (dst : Option (GReg × Nat × Bool)) (req : Req) : State :=
  let o := s.newOp sid s.seqNo s.cur.addr tkr t dst
  (s.openOp o).2.sendOpen s.nextId o ((s.openOp o).2.newPacket sid tkr t req) 16

/-- What sending an open operation's packet leaves of the state. -/
structure SentFrom (s : State) (p : Packet) (u : State) : Prop where
  ops : u.ops = s.ops
  packets : u.packets = bind s.nextId p s.packets
  mem : u.mem = s.mem
  spad : u.spad = s.spad
  strands : u.strands = s.strands
  cur : u.cur = s.cur

theorem sendOpen_sentFrom (s : State) (op : Nat) (o : FabOp) (p : Packet) (n : Nat) :
    SentFrom s { p with op := op } (s.sendOpen op o p n) := ⟨rfl, rfl, rfl, rfl, rfl, rfl⟩

theorem newPacket_openOp (s : State) (o : FabOp) (sid tkr : Nat) (t : Ticket) (req : Req) :
    (s.openOp o).2.newPacket sid tkr t req = s.newPacket sid tkr t req := rfl

section
variable {s : State} {t : Ticket} {i : Instr}

/-- With room among the strand's 32, and nothing of R228 against it, an open word opens its one operation and sends its packet. -/
theorem opens_of_openWord {tk : TkReg} {dst : Option (GReg × Nat × Bool)} {req : Req} (rising : Rising s.strands) (may : MayOpen s t)
    (run : exec i s = finish s (openWord s tk t dst req)) : Opens i s t dst req := by
  obtain ⟨room, sound⟩ := may
  have answers := promise_answers rising (resultReg dst)
  have held : ¬ (s.foreign s.cur.sid t && s.checksPending (s.strandVd s.cur.sid)) = true := by
    rintro both
    obtain ⟨foreign, pending⟩ := Bool.and_eq_true_iff.mp both
    exact absurd pending (Bool.eq_false_iff.mp (sound foreign).1)
  have refused : ¬ (s.foreign s.cur.sid t && (s.key (s.strandVd s.cur.sid)).inthold) = true := by
    rintro both
    obtain ⟨foreign, hold⟩ := Bool.and_eq_true_iff.mp both
    exact absurd hold (Bool.eq_false_iff.mp (sound foreign).2)
  unfold openWord at run
  dsimp only at run
  rw [if_neg (Nat.not_le.mpr room), if_neg held, if_neg refused] at run
  change exec i s = finish s (.ok (State.sending (if resultReg dst = 0 then s else s.promise (.g (resultReg dst)) false)
    s.cur.sid tk t dst req)) at run
  generalize (if resultReg dst = 0 then s else s.promise (.g (resultReg dst)) false) = s1 at answers run
  have sent := sendOpen_sentFrom (s1.openOp (s1.newOp s.cur.sid s1.seqNo s1.cur.addr tk t dst)).2 s1.nextId
    (s1.newOp s.cur.sid s1.seqNo s1.cur.addr tk t dst) (s1.newPacket s.cur.sid tk t req) 16
  rw [State.sending, newPacket_openOp] at run
  generalize (s1.openOp _).2.sendOpen _ _ _ _ = u at sent run
  have strand (k : Nat) : u.strand k = s1.strand k := by rw [State.strand, sent.strands]; rfl
  refine ⟨{ u with last := .done }, s1.nextId, s1.nextId + 1, s1.newOp s.cur.sid s1.seqNo s1.cur.addr tk t dst,
    { s1.newPacket s.cur.sid tk t req with op := s1.nextId }, run, rfl, ?_, ?_, rfl, answers.seqNo rfl, rfl, rfl, rfl, rfl, rfl, rfl,
    sent.mem.trans answers.quiet.1, sent.spad.trans answers.quiet.2.1, fun k other => (strand k).trans (answers.others k other), ?_⟩
  · exact sent.ops.trans (congrArg (· ++ [(s1.nextId, _)]) (answers.read State.ops))
  · exact sent.packets.trans (congrArg (bind (s1.nextId + 1) _) (answers.read State.packets))
  · change u.strand u.cur.sid = _
    rw [sent.cur, strand]
    refine answers.me.trans ?_
    cases dst <;> rfl

end

/-! ## The words (R255, R262, R265) -/

/-- What a remote access of n bytes at a window offset asks of its ticket (R255). -/
def remoteAsk (right off n : Nat) : TkAsk := { kinds := [1, 4], right := right, lo := off, hi := off + n, at_ := off }

section
variable {s : State} {tk : TkReg} {d a b : GReg} (free : s.scored s.cur.sid = false)
include free

/-- A remote access at an aligned offset is its operation, or the access fault of its ticket. -/
theorem remoteWord_ticketed {n right : Nat} {u : Use} {dst : Option (GReg × Nat × Bool)} {req : State → Nat → Req}
    (ready : s.Ready { u with src := .tk tk :: .g a :: u.src, outward := true }) (aligned : (s.rg a).toNat % n = 0) :
    remoteWord tk a n right u dst req s = finish s (ticketed s tk (remoteAsk right (s.rg a).toNat n) fun t => openWord s tk t dst (req s (s.rg a).toNat)) := by
  rw [remoteWord, word_ready ready, freeOnly, if_neg (Bool.eq_false_iff.mp free)]
  dsimp only
  rw [if_neg (not_not.mpr aligned)]
  rfl

theorem remoteWord_opens {i : Instr} {n right : Nat} {u : Use} {dst : Option (GReg × Nat × Bool)} {req : State → Nat → Req}
    (word : exec i s = remoteWord tk a n right u dst req s)
    (ready : s.Ready { u with src := .tk tk :: .g a :: u.src, outward := true }) (aligned : (s.rg a).toNat % n = 0)
    (rising : Rising s.strands) (may : MayOpen s (s.me.rtk tk))
    (passed : s.tkFails (s.me.rtk tk) (remoteAsk right (s.rg a).toNat n) = none) : Opens i s (s.me.rtk tk) dst (req s (s.rg a).toNat) := by
  refine opens_of_openWord rising may (tk := tk) ?_
  rw [word, remoteWord_ticketed free ready aligned, ticketed, passed]

theorem remoteWord_traps {i : Instr} {n right v : Nat} {u : Use} {dst : Option (GReg × Nat × Bool)} {req : State → Nat → Req}
    (word : exec i s = remoteWord tk a n right u dst req s)
    (ready : s.Ready { u with src := .tk tk :: .g a :: u.src, outward := true }) (aligned : (s.rg a).toNat % n = 0)
    (failed : s.tkFails (s.me.rtk tk) (remoteAsk right (s.rg a).toNat n) = some v) : Traps i s { cause := 8, eval := BitVec.ofNat 64 v } := by
  rw [Traps, word, remoteWord_ticketed free ready aligned, ticketed, failed]
  rfl

theorem esend_opens (ready : s.Ready { src := [.tk tk, .g a, .g b], outward := true }) (rising : Rising s.strands)
    (may : MayOpen s (s.me.rtk tk)) (some_ : 1 ≤ (s.rg b).toNat % 128) (short : (s.rg b).toNat % 128 ≤ 64)
    (inside : (s.rg a).toNat + (s.rg b).toNat % 128 ≤ 524288)
    (passed : s.tkFails (s.me.rtk tk) { kinds := [3], right := 4 } = none) :
    Opens (.esend tk a b) s (s.me.rtk tk) none
      (.elastic (s.spadRead (coreOf s.cur.sid) (s.rg a).toNat ((s.rg b).toNat % 128)) s.seqNo) := by
  have len : bits (s.rg b) 0 7 = (s.rg b).toNat % 128 := by rw [bits, field, Nat.pow_zero, Nat.div_one]; rfl
  have passed' : s.tkFails (s.me.rtk tk) { kinds := [3], right := rightQueue } = none := passed
  refine opens_of_openWord rising may (tk := tk) ?_
  change finish s (word s _ _) = _
  rw [word_ready ready, freeOnly, if_neg (Bool.eq_false_iff.mp free)]
  dsimp only
  rw [len, if_neg (by omega), ticketed, passed']
  dsimp only
  rw [localBytes, if_neg (by omega)]

end

/-- RAMO words are one remote access of 8 bytes, each with its operation. -/
theorem exec_ramo (s : State) (tk : TkReg) (d a b : GReg) : ∀ p ∈ [(Instr.ramoAdd tk d a b, AmoOp.add), (.ramoMin tk d a b, .min),
    (.ramoMax tk d a b, .max), (.ramoMinn tk d a b, .minn), (.ramoMaxn tk d a b, .maxn), (.ramoOr tk d a b, .or),
    (.ramoSwap tk d a b, .swap), (.ramoCas tk d a b, .cas)], exec p.1 s = ramo p.2 tk d a b s := by
  simp only [List.forall_mem_cons]
  exact ⟨rfl, rfl, rfl, rfl, rfl, rfl, rfl, rfl, fun _ none => nomatch none⟩

theorem openWords : OpenWords := by
  intro s tk d a b lz sz canon free t off ask may
  refine ⟨fun ready aligned passed => ?_, fun ready aligned passed => ?_, fun ready aligned passed p mem => ?_,
    fun ready some_ short inside passed => esend_opens free ready canon.rstrands may some_ short inside passed⟩
  · exact remoteWord_opens free (req := fun _ off => .read off lz.bytes) (u := { dst := [.g d] }) rfl ready aligned canon.rstrands may passed
  · exact remoteWord_opens free (req := fun s off => .write off (toBytes sz.bytes (s.rg d).toNat)) (u := { src := [.g d] }) rfl ready
      aligned canon.rstrands may passed
  · exact remoteWord_opens free (req := fun s off => .amo p.2 off (s.rg b) (s.rg d)) (u := { src := [.g b, .g d], dst := [.g d] })
      (exec_ramo s tk d a b p mem) ready aligned canon.rstrands may passed

theorem ticketChecksTrap : TicketChecksTrap := by
  intro s tk d a b lz sz v free t off ask fault
  refine ⟨fun empty => if_pos empty, fun ready aligned failed => ?_, fun ready aligned failed => ?_,
    fun ready aligned failed i mem => ?_⟩
  · exact remoteWord_traps free (req := fun _ off => .read off lz.bytes) (u := { dst := [.g d] }) rfl ready aligned failed
  · exact remoteWord_traps free (req := fun s off => .write off (toBytes sz.bytes (s.rg d).toNat)) (u := { src := [.g d] }) rfl ready
      aligned failed
  · have each (op : AmoOp) {i : Instr} (word : exec i s = ramo op tk d a b s) : Traps i s fault :=
      remoteWord_traps free (req := fun s off => .amo op off (s.rg b) (s.rg d)) (u := { src := [.g b, .g d], dst := [.g d] }) word
        ready aligned failed
    revert i
    simp only [List.forall_mem_cons]
    exact ⟨each .add rfl, each .min rfl, each .max rfl, each .minn rfl, each .maxn rfl, each .or rfl, each .swap rfl, each .cas rfl,
      fun _ none => nomatch none⟩

/-- Settles O36. -/
theorem openOperations : Obligations.OpenOperations := ⟨openWords, ticketChecksTrap⟩

end Sys2Proof.Machine
end

section
/-! Proofs of the statements on what a trap saves (O20) and on ERET (O21), from the laws of taking a trap (O19) and of changes to the
issuing strand. -/
namespace Sys2Proof.Machine
open Sys2Proof.Claims

section
variable {s : State} {sid : Nat} {i : TrapInfo}

/-- R351: of the traps only those of causes 10 to 12 are counted. -/
theorem countTrap_of_uncounted (line : i.cause ≠ 10) (rfile : i.cause ≠ 11) (residue : i.cause ≠ 12) : s.countTrap sid i = s := by
  rw [State.countTrap, if_neg line, if_neg rfile, if_neg residue]

section
variable (epc : Word) (free : s.scored sid = false) (stays : (s.strand sid).leaving = none)
  (present : (s.strand sid).slot ≠ .preempted) (uncounted : s.countTrap sid i = s) (coach : (s.strand sid).priv = 2)
include free stays present uncounted coach

/-- R353: a trap at coach level outside a handler is taken on its strand, whatever its TVEC. -/
theorem takeTrap_coach (open_ : (s.strand sid).inh = false) : s.takeTrap sid i epc = s.setStrand sid ((s.strand sid).enter i epc) := by
  simp [State.takeTrap, free, stays, present, uncounted, coach, open_]

/-- R343, R353: a trap at coach level inside a handler halts the Coachman. -/
theorem takeTrap_inhibited (inh : (s.strand sid).inh = true) : s.takeTrap sid i epc =
    (s.modStrand sid fun y => { y with slot := .halted, stopped := true }).modPkg fun k => { k with coachStopped := true } := by
  simp [State.takeTrap, free, stays, present, uncounted, coach, inh]

end
end

theorem max_one_eq (n : Nat) : Nat.max n 1 = if n = 0 then 1 else n := by
  cases n with
  | zero => rfl
  | succ n => exact Nat.max_eq_left (Nat.succ_pos n)

theorem trapSavesState : TrapSavesState := by
  intro s sid i epc free stays present line rfile residue open_ level x
  have uncounted := countTrap_of_uncounted (s := s) (sid := sid) line rfile residue
  have entered : s.takeTrap sid i epc = s.setStrand sid (x.enter i epc) := by
    rcases level with ⟨below, handler⟩ | coach
    · exact takeTrap_enters epc free stays present uncounted below handler open_
    · exact takeTrap_coach epc free stays present uncounted coach open_
  rw [entered, Strand.enter, max_one_eq]
  rfl

theorem coachTrapInHandlerStops : CoachTrapInHandlerStops := by
  intro s sid i epc canon free stays present line rfile residue coach inh t
  have stopped : t = _ := takeTrap_inhibited epc free stays present (countTrap_of_uncounted line rfile residue) coach inh
  have strand : t.strand sid = { s.strand sid with slot := .halted, stopped := true } := by
    rw [stopped]
    exact strand_setStrand_same canon.rstrands sid _
  exact ⟨congrArg Strand.slot strand, congrArg Strand.stopped strand, congrArg (·.pkg.coachStopped) stopped, (congrArg Strand.epc strand :)⟩

/-- Settles O20. -/
theorem trapsTaken : Obligations.TrapsTaken := ⟨trapSavesState, coachTrapInHandlerStops⟩

/-! ## The return from a handler (R358) -/

theorem bits_two {w : Nat} (x : BitVec w) (wide : 2 ≤ w) : bits x 0 2 = (x &&& BitVec.ofNat w 3).toNat := by
  have fits : 3 < 2 ^ w := Nat.lt_of_lt_of_le (by decide : 3 < 2 ^ 2) (Nat.pow_le_pow_right Nat.two_pos wide)
  rw [bits_zero, BitVec.toNat_and, BitVec.toNat_ofNat, Nat.mod_eq_of_lt fits]
  exact (Nat.and_two_pow_sub_one_eq_mod x.toNat 2).symm

theorem bits_two_eq_zero {w : Nat} (x : BitVec w) (wide : 2 ≤ w) : bits x 0 2 = 0 ↔ x &&& BitVec.ofNat w 3 = 0 := by
  rw [bits_two x wide, BitVec.toNat_eq_nat, and_iff_right (Nat.two_pow_pos w)]
  rfl

section
variable {s : State}

/-- With no vector word outstanding nothing is logged. -/
theorem logNow_becomes (rising : Rising s.strands) (idle : s.me.oldestVec = none) (d : Dst) : Becomes s (s.logNow d) s.me := by
  have same := modMe_becomes rising (s := s) fun x => match x.oldestVec with
    | some o => if !s.scored s.cur.sid && decide (o ≤ x.seq) then
        { x with log := x.log ++ [⟨x.seq, d, x.get d, (x.poison.filter fun e => e.1 == d).map (·.2)⟩] } else x
    | none => x
  simp only [idle] at same
  exact same

/-- ERET of a strand that may return makes its strand the one that returned. -/
theorem eret_becomes (rising : Rising s.strands) (idle : s.me.oldestVec = none) :
    Becomes s (((s.logNow (.csr 0x24)).logNow (.csr 2)).modMe Strand.eret) s.me.eret := by
  have estat := logNow_becomes rising idle (.csr 0x24)
  have level := logNow_becomes estat.rising (by rw [estat.me]; exact idle) (.csr 2)
  have returned := (estat.trans level).trans (modMe_becomes level.rising Strand.eret)
  rwa [level.me, estat.me] at returned

end

/-- Settles O21: its level, its alignment and its effect are the word's three cases. -/
theorem eretReturns : Obligations.EretReturns := by
  intro s canon ready idle p
  have level : bits s.me.estat 0 2 = p := bits_two s.me.estat (by decide)
  have aligned := bits_two_eq_zero s.me.epc (by decide)
  have run : exec .eret s = finish s (if p = 3 ∨ s.me.priv < p then privilege s
      else if bits s.me.epc 0 2 ≠ 0 then misalignedTarget s.me.epc
      else .ok (((s.logNow (.csr 0x24)).logNow (.csr 2)).modMe Strand.eret)) := by
    change finish s (word s _ _) = _
    rw [word_ready ready]
    dsimp only
    rw [level]
  refine ⟨fun within named even => ?_, fun above => ?_, fun within named odd => ?_⟩
  · rw [if_neg (by omega), if_neg (not_not.mpr (aligned.mpr even)), finish_ok] at run
    have returned := eret_becomes canon.rstrands idle
    generalize (((s.logNow (.csr 0x24)).logNow (.csr 2)).modMe Strand.eret) = u at run returned
    refine ⟨_, run, rfl, returned.me.trans ?_, returned.read State.mem, returned.read State.spad, returned.others,
      returned.read State.launches, returned.read State.pkg⟩
    rw [Strand.eret, level]
    rfl
  · exact run.trans (by rw [if_pos above.symm]; rfl)
  · exact run.trans (by rw [if_neg (by omega), if_pos (fun even => odd (aligned.mp even))]; rfl)

end Sys2Proof.Machine
end

section
/-! Proof of the statement on the translation entries with a reserved bit set (O41). -/
namespace Sys2Proof.Machine

/-- A field is not zero where one of its bits is set. -/
theorem field_ne_zero (x lo n : Nat) : field x lo n ≠ 0 ↔ ∃ i, (lo ≤ i ∧ i < lo + n) ∧ x.testBit i = true := by
  have bit (j : Nat) : (field x lo n).testBit j = (decide (j < n) && x.testBit (j + lo)) := by
    rw [field, Nat.testBit_mod_two_pow, Nat.testBit_div_two_pow]
  constructor
  · intro set
    obtain ⟨j, on⟩ := Nat.exists_testBit_of_ne_zero set
    rw [bit] at on
    obtain ⟨small, on⟩ := Bool.and_eq_true_iff.mp on
    have small := of_decide_eq_true small
    exact ⟨j + lo, ⟨by omega, by omega⟩, on⟩
  · rintro ⟨i, ⟨low, high⟩, on⟩ zero
    have off := bit (i - lo)
    rw [zero, Nat.zero_testBit, Nat.sub_add_cancel low, on, decide_eq_true (by omega)] at off
    exact Bool.false_ne_true off

/-- R321: which entries with V = 1 count as having a reserved bit set. -/
theorem reservedSet_iff (e level : Nat) : reservedSet e level = true ↔
    (∃ i, (9 ≤ i ∧ i ≤ 11 ∨ 52 ≤ i ∧ i ≤ 58 ∨ i = 63) ∧ e.testBit i = true) ∨ (¬ e.testBit 1 = true ∧ 3 ≤ level) ∨
      (e.testBit 1 = true ∧ level = 1) ∨ (e.testBit 1 = true ∧ ∃ i, 2 ≤ i ∧ i ≤ 8 ∧ e.testBit i = true) ∨
      (¬ e.testBit 1 = true ∧ level = 2 ∧ (e.testBit 8 = true ∨ e / 2 ^ 12 % 512 ≠ 0)) := by
  have fixed : (field e 9 3 ≠ 0 ∨ field e 52 7 ≠ 0) ∨ e.testBit 63 = true ↔
      ∃ i, (9 ≤ i ∧ i ≤ 11 ∨ 52 ≤ i ∧ i ≤ 58 ∨ i = 63) ∧ e.testBit i = true := by
    rw [field_ne_zero, field_ne_zero]
    constructor
    · rintro ((⟨i, range, on⟩ | ⟨i, range, on⟩) | on)
      · exact ⟨i, by omega, on⟩
      · exact ⟨i, by omega, on⟩
      · exact ⟨63, by omega, on⟩
    · rintro ⟨i, range | range | rfl, on⟩
      · exact .inl (.inl ⟨i, by omega, on⟩)
      · exact .inl (.inr ⟨i, by omega, on⟩)
      · exact .inr on
  have rights : field e 2 7 ≠ 0 ↔ ∃ i, 2 ≤ i ∧ i ≤ 8 ∧ e.testBit i = true := by
    rw [field_ne_zero]
    exact exists_congr fun i => by rw [← and_assoc, show i < 2 + 7 ↔ i ≤ 8 by omega]
  rw [← fixed, ← rights]
  simp only [reservedSet, Bool.or_eq_true, Bool.and_eq_true, bne_iff_ne, beq_iff_eq, decide_eq_true_eq, Bool.not_eq_true',
    Bool.not_eq_true, ge_iff_le, field, or_assoc, and_assoc]
  norm_num

/-- The address of the walk's entry of an address in a table (R319). -/
def entryAddress (va n table : Nat) : Nat := 4096 * table + 8 * vaIndex va (n + 1)

section
variable {s : State} {va n table e : Nat} (v core : Nat) (readable : s.linesFault (entryAddress va n table) 8 = none)
  (held : ofBytes (s.physRead (entryAddress va n table) 8) = e)
include readable held

/-- R325: an entry with V = 0 ends the walk. -/
theorem walkFrom_invalid (invalid : e.testBit 0 = false) :
    walkFrom v va core (n + 1) table s = (s, .error (walkTrap 9 1 (n + 1) va)) := by
  unfold entryAddress at readable held
  rw [walkFrom]
  dsimp only
  rw [readable, held]
  dsimp only
  rw [invalid]
  rfl

/-- R321, R325: an entry with a reserved bit set ends the walk. -/
theorem walkFrom_reserved (valid : e.testBit 0 = true) (bad : reservedSet e (n + 1) = true) :
    walkFrom v va core (n + 1) table s = (s, .error (walkTrap 9 2 (n + 1) va)) := by
  unfold entryAddress at readable held
  rw [walkFrom]
  dsimp only
  rw [readable, held]
  dsimp only
  rw [valid, bad]
  rfl

end

/-- Settles O41: the walk refuses the entry before it takes it for a pointer or a leaf. -/
theorem entryChecks : Obligations.EntryChecks := fun _ v _ core _ _ =>
  have iff := reservedSet_iff _ _
  ⟨iff, fun readable => ⟨fun valid bad => walkFrom_reserved v core readable rfl valid (iff.mpr bad), walkFrom_invalid v core readable rfl⟩⟩

end Sys2Proof.Machine
end

section
/-! Proof of the statement on AT, CUE and TUNE (O23). -/
namespace Sys2Proof.Machine
open Sys2Proof.Claims

/-- R292: the target of an AT as the words of R3 give it. -/
theorem atTarget_eq (base : Word) (imm : Fin 4096) : atTarget base imm = (base + (BitVec.ofNat 12 imm).signExtend 64).toNat := by
  have offset := signed_eq_toInt 12 imm.val
  rw [atTarget, immS, offset, BitVec.signExtend]

/-- R280: a valid entry of the cue table names one LCY. -/
theorem cueLcy_eq_some (e : BitVec 32) (n : Nat) :
    cueLcy e = some n ↔ e.getLsbD 31 = true ∧ 4096 * (e.toNat / 4096 % 65536) + e.toNat % 4096 = n := by
  have entry : 4096 * bits e 12 16 + bits e 0 12 = 4096 * (e.toNat / 4096 % 65536) + e.toNat % 4096 := by
    rw [bits_zero]
    rfl
  rw [cueLcy, entry]
  split
  next valid => rw [and_iff_right valid, Option.some.injEq]
  next invalid => exact ⟨(fun named => nomatch named), fun ⟨valid, _⟩ => absurd valid invalid⟩

/-- R338: the correction that a drift alone gives. -/
theorem slipFor_zero (d : BitVec 32) : (128 ≤ d.toInt → slipFor 0 d = 1) ∧ (d.toInt ≤ -128 → slipFor 0 d = 3) ∧
    (-128 < d.toInt → d.toInt < 128 → slipFor 0 d = 2) := by
  rw [slipFor, if_pos rfl]
  refine ⟨fun high => if_pos high, fun low => ?_, fun low high => ?_⟩
  · rw [if_neg (by omega), if_pos low]
  · rw [if_neg (by omega), if_neg (by omega)]

theorem atParks : AtParks := by
  intro s a imm ready t parked
  have target : atTarget (s.rg a) imm = t := atTarget_eq _ _
  change finish s (word s _ _) = _
  rw [word_ready ready]
  dsimp only
  rw [target]
  split <;> rfl

theorem cueChecksTheTurn : CueChecksTheTurn := by
  intro s n ready e on
  have named : cueLcy e = some s.turn ↔ on := cueLcy_eq_some e s.turn
  have run : exec (.cue n) s = finish s (if s.scored s.cur.sid && cueLcy e != some s.turn then
      .trap { cause := 16, eval := BitVec.ofNat 64 s.turn } else .ok s) := by
    change finish s (word s _ _) = _
    rw [word_ready ready]
  refine ⟨fun free => ?_, fun held => ?_, fun scored other => ?_⟩
  · rw [run, free]
    rfl
  · rw [run, named.mpr held, bne_self_eq_false, Bool.and_false]
    rfl
  · rw [Traps, run, scored, bne_iff_ne.mpr (mt named.mp other)]
    rfl

theorem tuneSetsSlip : TuneSetsSlip := by
  intro s a ready near
  have code : bits (s.rg a) 0 2 = (s.rg a &&& 3#64).toNat := bits_two _ (by decide)
  refine ⟨slipFor (bits (s.rg a) 0 2) s.pkg.drift, ?_, fun at1 => ?_, fun at2 => ?_, fun at3 => ?_, fun at0 => ?_⟩
  · change finish s (word s _ _) = _
    rw [word_ready ready]
    dsimp only
    by_cases soon : near
    · have late : ¬ barLineAt (s.pkg.ency + 1) - s.pkg.ency ≥ 64 := by omega
      rw [finish_ok, State.modPkg, State.modPkg, if_neg late, if_pos soon]
    · have early : barLineAt (s.pkg.ency + 1) - s.pkg.ency ≥ 64 := by omega
      rw [finish_ok, State.modPkg, State.modPkg, if_pos early, if_neg soon]
  · rw [code, at1]; rfl
  · rw [code, at2]; rfl
  · rw [code, at3]; rfl
  · rw [code, at0]
    exact slipFor_zero s.pkg.drift

/-- Settles O23. -/
theorem timeWords : Obligations.TimeWords := ⟨atParks, cueChecksTheTurn, tuneSetsSlip⟩

end Sys2Proof.Machine
end

section
/-! Proof of the statement on ports and route keys (O51). -/
namespace Sys2Proof.Machine
open Sys2Proof.Claims

/-! ## Ports (R311, R317) -/

/-- The entry of a port as REVOKE PORT leaves it: one that is open and not at its last generation advances. -/
def PortEntry.advanced (e : PortEntry) : PortEntry := if e.isOpen = true ∧ e.gen ≠ 4095 then { e with gen := e.gen + 1 } else e

/-- The state after the outcome of a REVOKE PORT, and the outcome. -/
def State.advancePort (s : State) (key : Nat) : State × Word :=
  let e := s.portEntry key
  if !e.isOpen then (s, errorWord 2)
  else if e.gen = 4095 then (s, errorWord 3)
  else (s.setPort key { e with gen := e.gen + 1 }, BitVec.ofNat 64 (e.gen + 1))

theorem advancePort_leaves {s : State} (rising : Rising s.ports) (key : Nat) :
    (s.advancePort key).1.portEntry key = (s.portEntry key).advanced ∧ (s.advancePort key).1.strands = s.strands ∧
      (s.advancePort key).1.mem = s.mem := by
  unfold State.advancePort PortEntry.advanced
  dsimp only
  cases shut : (s.portEntry key).isOpen with
  | false => exact ⟨(if_neg fun h => Bool.false_ne_true h.1).symm, rfl, rfl⟩
  | true =>
    by_cases last : (s.portEntry key).gen = 4095
    · simp [last]
    · simp [last, portEntry_setPort _ _ _ _ rising]

/-- The waiting strand goes on after its turn, with what it learns of its word. -/
def State.tellWaiting (s : State) (sid : Nat) (d : GReg) (seq after_ : Nat) (v : Word) : State :=
  let s := s.modStrand sid fun z => { z with wait := some (.until after_) }
  if d = 0 then s else s.deliver sid seq (.g d) (v.setWidth 65536) (BitVec.allOnes 65536) after_

theorem tellWaiting_confined (s : State) (sid : Nat) (d : GReg) (seq after_ : Nat) (v : Word) :
    Confined sid s (s.tellWaiting sid d seq after_ v) := by
  have waits := setStrand_confined s sid { s.strand sid with wait := some (.until after_) }
  unfold State.tellWaiting
  dsimp only
  split
  · exact waits
  · exact waits.trans (deliver_keepsPart (part := Strand.wait) _ _ _ _ (fun _ _ => rfl) _ _).toConfined

theorem tellWaiting_wait {s : State} (rising : Rising s.strands) (sid : Nat) (d : GReg) (seq after_ : Nat) (v : Word) :
    ((s.tellWaiting sid d seq after_ v).strand sid).wait = some (.until after_) := by
  have waits := strand_setStrand_same rising sid { s.strand sid with wait := some (.until after_) }
  unfold State.tellWaiting
  dsimp only
  split
  · exact congrArg Strand.wait waits
  · refine ((deliver_keepsPart (part := Strand.wait) _ _ _ _ (fun _ _ => rfl) _ _).kept ?_).trans (congrArg Strand.wait waits)
    exact rising_tput rising

theorem Confined.ports {s t : State} {sid : Nat} (h : Confined sid s t) : t.ports = s.ports :=
  show t.beyond.ports = s.beyond.ports by rw [h.beyond]

theorem Confined.pkg {s t : State} {sid : Nat} (h : Confined sid s t) : t.pkg = s.pkg :=
  show t.beyond.pkg = s.beyond.pkg by rw [h.beyond]

/-- With one strand, which waits for this port in this cycle, the advance judges the port and tells that strand. -/
theorem exec_portGenerationAdvance_one {s : State} {x y port k seq after_ : Nat} {g : GReg} {st : Strand} (one : s.strands = [(k, st)])
    (waits : st.wait = some (.port (portKey x y port) s.pkg.ency g seq after_)) :
    exec (.portGenerationAdvance x y port) s =
      .next ((s.advancePort (portKey x y port)).1.tellWaiting k g seq after_ (s.advancePort (portKey x y port)).2) := by
  change Host.Outcome.next (s.strands.foldl _ s) = _
  rw [one, List.foldl_cons, List.foldl_nil]
  dsimp only
  rw [waits]
  dsimp only
  rw [if_neg (by simp)]
  rfl

theorem portGenerationAdvance_runs {s : State} (canon : Canonical s) {x y port k seq after_ : Nat} {g : GReg} {st : Strand}
    (one : s.strands = [(k, st)]) (waits : st.wait = some (.port (portKey x y port) s.pkg.ency g seq after_)) :
    Runs (.portGenerationAdvance x y port) s fun t => (t.strand k).wait = some (.until after_) ∧ t.mem = s.mem ∧
      t.portEntry (portKey x y port) = (s.portEntry (portKey x y port)).advanced := by
  refine ⟨_, exec_portGenerationAdvance_one one waits, ?_⟩
  obtain ⟨entry, strands, mem⟩ := advancePort_leaves canon.rports (portKey x y port)
  have told := tellWaiting_confined (s.advancePort (portKey x y port)).1 k g seq after_ (s.advancePort (portKey x y port)).2
  refine ⟨tellWaiting_wait (strands ▸ canon.rstrands) .., told.mem.trans mem, ?_⟩
  rw [State.portEntry, told.ports]
  exact entry

/-! ## The route key (R318) -/

/-- The package once the bar of a key advance has come. -/
def Pkg.advanced (k : Pkg) (a : KeyAdvance) : Pkg :=
  if a.digestOk = some true then { k with advance := none, kg := (k.kg + 1) % 16, keyPrev := k.keyCur, keyCur := a.key }
  else { k with advance := none }

/-- The first turn of a strand after the present cycle. -/
def State.turnBeyond (s : State) (sid : Nat) : Nat := if s.nextTurn sid = s.lcy sid then s.nextTurn sid + 16 else s.nextTurn sid

/-- The strand that revoked the key, where it still waits, learns the outcome. -/
theorem exec_routeKeyAdvance {s : State} {a : KeyAdvance} (pending : s.pkg.advance = some a) (due : s.pkg.ency = 4096 * a.bar) :
    let t := s.modPkg fun k => k.advanced a
    exec .routeKeyAdvance s = .next (if (t.strand a.sid).wait ≠ some .event then t
      else t.tellWaiting a.sid a.d a.seq (t.turnBeyond a.sid) (if a.digestOk == some true then 0 else errorWord 4)) := by
  change execRouteKeyAdvance s = _
  rw [execRouteKeyAdvance, pending]
  dsimp only
  rw [if_neg (not_not.mpr due)]
  simp only [Pkg.advanced, beq_iff_eq]
  rfl

theorem routeKeyAdvance_runs {s : State} {a : KeyAdvance} (pending : s.pkg.advance = some a) (due : s.pkg.ency = 4096 * a.bar) :
    Runs .routeKeyAdvance s fun t => t.mem = s.mem ∧ t.spad = s.spad ∧ t.pkg = s.pkg.advanced a := by
  refine ⟨_, exec_routeKeyAdvance pending due, ?_⟩
  split
  · exact ⟨rfl, rfl, rfl⟩
  · have told := tellWaiting_confined (s.modPkg fun k => k.advanced a) a.sid a.d a.seq
      ((s.modPkg fun k => k.advanced a).turnBeyond a.sid) (if a.digestOk == some true then 0 else errorWord 4)
    exact ⟨told.mem, told.spad, told.pkg⟩

theorem keyDigestCompare_next {s : State} {a : KeyAdvance} (eq : Bool) (pending : s.pkg.advance = some a)
    (bar : s.pkg.ency / 4096 + 1 = a.bar) : exec (.keyDigestCompare eq) s =
      .next (s.modPkg fun k => { k with advance := some { a with digestOk := some (a.digestOk.getD true && eq) } }) := by
  change execKeyDigestCompare eq s = _
  rw [execKeyDigestCompare, pending]
  exact congrArg Host.Outcome.next (if_pos bar)

theorem portClose_runs {s : State} (canon : Canonical s) {x y port : Nat} (isOpen : (s.portEntry (portKey x y port)).isOpen = true) :
    Runs (.portClose x y port) s fun t => (t.portEntry (portKey x y port)).isOpen = false ∧
      (t.portEntry (portKey x y port)).gen = (s.portEntry (portKey x y port)).gen ∧
      (∀ j, j ≠ portKey x y port → t.portEntry j = s.portEntry j) ∧ t.strands = s.strands ∧ t.mem = s.mem := by
  have entry (j : Nat) (e : PortEntry) := portEntry_setPort s (portKey x y port) j e canon.rports
  refine ⟨_, congrArg Host.Outcome.next (if_pos isOpen), ?_, ?_, fun j other => (entry j _).trans (if_neg other), rfl, rfl⟩
  · rw [entry, if_pos rfl]
  · rw [entry, if_pos rfl]

/-- Settles O51. -/
theorem portAndKeyEvents : Obligations.PortAndKeyEvents := by
  intro s x y port v k eq canon key e
  refine ⟨fun shut never => ?_, fun isOpen => ?_, fun isOpen => portClose_runs canon isOpen,
    fun d seq after_ st one waits => portGenerationAdvance_runs canon one waits,
    fun a pending => ⟨keyDigestCompare_next eq pending, routeKeyAdvance_runs pending⟩⟩
  · refine congrArg Host.Outcome.next ((if_pos ?_).trans rfl)
    rw [show (s.portEntry (portKey x y port)).isOpen = false from shut, show (s.portEntry (portKey x y port)).closed = none from never]
    rfl
  · refine congrArg Host.Outcome.next (if_neg ?_)
    rw [show (s.portEntry (portKey x y port)).isOpen = true from isOpen]
    exact Bool.false_ne_true

end Sys2Proof.Machine
end

section
/-! Laws of what the writes of the package's engines change (R190, R226, R230, R346, R349, R375): memory, its seals and its caches, what
is owed, and of the tables by number only the diversions of a checkpoint round and the control of a VD. -/
namespace Sys2Proof.Machine

/-- A checkpoint round without the diversions that writes to its frozen units enter (R349). -/
def Ckpt.undiverted (k : Ckpt) : Ckpt := { k with remap := [], diverted := 0 }

/-- A state without what a performed write may change. -/
def State.unwritten (s : State) : State :=
  { s with
    mem := [], dirty := [], agenda := [], blocks := [], lines := [], nodes := [], tree := [], ctrCache := [], frames := [], vds := []
    ckpt := s.ckpt.undiverted }

/-- A VD without its control register (R375). -/
def Vd.uncontrolled (d : Vd) : Vd := { d with retain := false, part := 0 }

/-- From s to t nothing changes but what a performed write may change. -/
structure Written (s t : State) : Prop where
  rest : t.unwritten = s.unwritten
  rising : Rising s.vds → Rising t.vds
  vds : Rising s.vds → ∀ v, (t.vd v).uncontrolled = (s.vd v).uncontrolled
  agenda : ∀ e, e ∈ s.agenda → e ∈ t.agenda

namespace Written

theorem of_rest {s t : State} (rest : t.unwritten = s.unwritten) (vds : t.vds = s.vds) (agenda : t.agenda = s.agenda) : Written s t :=
  ⟨rest, fun r => vds ▸ r, fun _ v => by rw [State.vd, vds, State.vd], fun _ => agenda ▸ id⟩

theorem refl (s : State) : Written s s := of_rest rfl rfl rfl

theorem trans {s t u : State} (h : Written s t) (h' : Written t u) : Written s u :=
  ⟨h'.rest.trans h.rest, fun r => h'.rising (h.rising r), fun r v => (h'.vds (h.rising r) v).trans (h.vds r v),
    fun e mem => h'.agenda e (h.agenda e mem)⟩

theorem foldl {β : Type} {f : State → β → State} (h : ∀ s b, Written s (f s b)) : (l : List β) → (s : State) → Written s (l.foldl f s)
  | [], s => refl s
  | b :: l, s => (h s b).trans (foldl h l (f s b))

theorem ite {c : Prop} [Decidable c] {s t u : State} (h : Written s t) (h' : Written s u) : Written s (if c then t else u) := by
  split
  · exact h
  · exact h'

end Written

section
variable (s : State)

theorem owe_written (clock : Option Nat) (time prio : Nat) (e : Event) : Written s (s.owe clock time prio e) :=
  ⟨rfl, id, fun _ _ => rfl, fun _ => List.mem_append_left _⟩

theorem now_written (prio : Nat) (e : Event) : Written s (s.now prio e) := owe_written ..

/-- A change of the memory and of the diversions. It is cited where a plain `rfl` would first compare the memories. -/
theorem written_of_memory (mem : Sparse Byte) (ckpt : Ckpt) (same : ckpt.undiverted = s.ckpt.undiverted) :
    Written s { s with mem := mem, ckpt := ckpt } :=
  .of_rest (congrArg (fun k => { s.unwritten with ckpt := k }) same) rfl rfl

theorem setVd_written (v : Nat) (d : Vd) (same : d.uncontrolled = (s.vd v).uncontrolled) : Written s (s.setVd v d) :=
  ⟨rfl, rising_tput, fun r k => by
    rw [vd_setVd s v k d r]
    split
    next eq => rw [same, eq]
    next => rfl, fun _ => id⟩

/-! ## Performed writes (R346, R349, R372, R375) -/

theorem enterUnit_written (u : Nat) : Written s (s.enterUnit u) := by
  unfold State.enterUnit
  split
  · exact .refl s
  · split
    · exact .of_rest rfl rfl rfl
    · exact .refl s

theorem mergeLine_written (u line : Nat) : Written s (s.mergeLine u line) := by
  unfold State.mergeLine
  split
  · exact .ite (.refl s) (written_of_memory s _ _ rfl)
  · exact .refl s

theorem memPut_written (a : Nat) (b : Byte) : Written s (s.memPut a b) := by
  have diverted : Written s (s.divert a) := by
    rw [divert_eq]
    exact .ite ((enterUnit_written ..).trans (mergeLine_written ..)) (.refl s)
  have put (t : State) (dirty : List Nat) (mem : Sparse Byte) : Written t { t with dirty := dirty, mem := mem } := .of_rest rfl rfl rfl
  unfold State.memPut
  split
  · exact .refl s
  · split
    · exact diverted.trans (put _ _ _)
    · exact put _ s.dirty _

theorem memPuts_written (a : Nat) : (bs : List Byte) → (s : State) → Written s (s.memPuts a bs)
  | [], s => .refl s
  | b :: bs, s => (memPut_written s a b).trans (memPuts_written (a + 1) bs (s.memPut a b))

theorem vdschedHook_written (p : Nat) : Written s (s.vdschedHook p) :=
  Written.foldl (fun s _ => .ite (now_written s _ _) (.ite (now_written s _ _) (.refl s))) _ s

theorem ctlHook_written (a n : Nat) : Written s (s.ctlHook a n) := by
  unfold State.ctlHook
  split
  · exact .refl s
  · extract_lets off hits t1 t2 t3
    have kept1 : Written s t1 := .ite (now_written ..) (.refl s)
    have kept2 : Written t1 t2 := .ite (vdschedHook_written ..) (.refl t1)
    have kept3 : Written t2 t3 := .ite (now_written ..) (.refl t2)
    exact (kept1.trans (kept2.trans kept3)).trans (.ite (now_written ..) (.refl t3))

theorem vdctlHook_written (a n : Nat) : Written s (s.vdctlHook a n) := by
  unfold State.vdctlHook
  extract_lets v w d set
  have retained : Written s set := setVd_written s v _ rfl
  refine .ite ?_ (.refl s)
  refine .ite (.ite (.refl s) (.ite (retained.trans (now_written ..)) (retained.trans (now_written ..)))) ?_
  exact .ite (setVd_written s v _ rfl) (.refl s)

theorem memWrite_written (a : Nat) (bs : List Byte) : Written s (s.memWrite a bs) :=
  ((memPuts_written a bs s).trans (ctlHook_written ..)).trans (vdctlHook_written ..)

/-! ## Writes at the ports (R190, R226, R230) -/

theorem writeNode_written (level n : Nat) : Written s (s.writeNode level n) := .of_rest rfl rfl rfl

theorem treeBump_written (level child : Nat) : Written s (s.treeBump level child) := by
  have bumped (tree : Sparse Nat) : Written s { s with tree := tree } := .of_rest rfl rfl rfl
  unfold State.treeBump
  refine .ite ((bumped _).trans (.foldl (fun t i => ?_) _ _)) (bumped _)
  exact .ite (writeNode_written ..) (.refl t)

theorem treeWrite_written (blk : Nat) : Written s (s.treeWrite blk) := by
  have cached (t : State) : Written t (t.cachePath blk) := .of_rest rfl rfl rfl
  exact ((Written.foldl (fun t (k : Nat × Nat) => treeBump_written t k.1 k.2) _ s).trans
    (.foldl (fun t (k : Nat × Nat) => writeNode_written t k.1 k.2) _ _)).trans (cached _)

theorem initFrame_written (f : Nat) {write : State → State} (h : ∀ s, Written s (write s)) : Written s (s.initFrame f write) := by
  have opened (x : Frame) (b : CtrBlock) : Written s ((s.setFrame f x).setBlock f b) := .of_rest rfl rfl rfl
  have sealed (t : State) (la : Nat) (l : Line) : Written t (t.setLine la l) := .of_rest rfl rfl rfl
  unfold State.initFrame
  exact (((opened _ _).trans (h _)).trans (treeWrite_written ..)).trans (.foldl (fun t i => sealed t _ _) _ _)

theorem engineWrite_written (a : Nat) (bs : List Byte) : Written s (s.engineWrite a bs) := by
  have performed := memWrite_written s a bs
  unfold State.engineWrite
  refine .ite (.ite (initFrame_written s _ fun s => memWrite_written s a bs) ?_) performed
  exact performed.trans (.foldl (fun t i => now_written t _ _) _ _)

/-- R190: a write that no cache holds. -/
theorem physWrite_written (pa : Nat) (bs : List Byte) (part : Option Nat) : Written s (s.physWrite pa bs part false) := by
  have performed := memWrite_written s pa bs
  unfold State.physWrite
  simp only [Bool.false_and, Bool.false_eq_true, if_false]
  exact .ite (.ite (initFrame_written s _ fun s => memWrite_written s pa bs) (performed.trans (now_written ..))) performed

theorem linesWrite_written : (n : Nat) → (s : State) → (a : Nat) → (bs : List Byte) → Written s (s.linesWrite a bs n)
  | 0, s, _, _ => .refl s
  | n + 1, s, a, bs => by
    unfold State.linesWrite
    exact .ite (.refl s) ((physWrite_written ..).trans (linesWrite_written n _ _ _))

end

/-! ## What is read of the rest -/

section
variable {s t : State} (h : Written s t)
include h

/-- Whatever a performed write does not change stands as it was. -/
theorem Written.read {γ : Type} (part : State → γ) : part t.unwritten = part s.unwritten := congrArg part h.rest

theorem Written.ckpt : t.ckpt.undiverted = s.ckpt.undiverted := h.read State.ckpt

theorem Written.pkg : t.pkg = s.pkg := h.read State.pkg

theorem Written.counter (rising : Rising s.vds) (v n : Nat) : (t.vd v).counter n = (s.vd v).counter n :=
  (congrArg (Vd.counter · n) (h.vds rising v) : (t.vd v).uncontrolled.counter n = (s.vd v).uncontrolled.counter n)

end

end Sys2Proof.Machine
end

section
/-! Proof of the statement on checkpoint rounds (O60), from the laws of performed writes. -/
namespace Sys2Proof.Machine
open Sys2Proof.Claims

/-! ## What the engine's steps leave of the round (R347, R348) -/

/-- From s to t the round stands as it was but for its diversions, and the strands and the counters stand. -/
structure RoundStands (s t : State) : Prop where
  ckpt : t.ckpt.undiverted = s.ckpt.undiverted
  strands : t.strands = s.strands
  rising : Rising s.vds → Rising t.vds
  counter : Rising s.vds → ∀ v n, (t.vd v).counter n = (s.vd v).counter n

namespace RoundStands

theorem of_fields {s t : State} (ckpt : t.ckpt = s.ckpt) (strands : t.strands = s.strands) (vds : t.vds = s.vds) : RoundStands s t :=
  ⟨by rw [ckpt], strands, fun r => vds ▸ r, fun _ v n => by rw [State.vd, vds, State.vd]⟩

theorem trans {s t u : State} (h : RoundStands s t) (h' : RoundStands t u) : RoundStands s u :=
  ⟨h'.ckpt.trans h.ckpt, h'.strands.trans h.strands, fun r => h'.rising (h.rising r),
    fun r v n => (h'.counter (h.rising r) v n).trans (h.counter r v n)⟩

end RoundStands

theorem Written.round {s t : State} (h : Written s t) : RoundStands s t := ⟨h.ckpt, h.read State.strands, h.rising, h.counter⟩

section
variable (s : State)

theorem owe_round (clock : Option Nat) (time prio : Nat) (e : Event) : RoundStands s (s.owe clock time prio e) := .of_fields rfl rfl rfl

theorem duration_round (lo hi : Nat) : RoundStands s (s.duration lo hi).2 := by
  unfold State.duration
  split
  · exact .of_fields rfl rfl rfl
  · exact .of_fields rfl rfl rfl

theorem countErr_round (p : Option Nat) (f : ErrCounters → ErrCounters) : RoundStands s (s.countErr p f) := by
  cases p <;> exact .of_fields rfl rfl rfl

theorem setVd_round (v : Nat) (d : Vd) (same : d.cn = (s.vd v).cn) : RoundStands s (s.setVd v d) :=
  ⟨rfl, rfl, rising_tput, fun r k n => by
    rw [vd_setVd s v k d r]
    split
    next eq => rw [Vd.counter, same, eq, Vd.counter]
    next => rfl⟩

/-- An interrupt (R249). -/
theorem postIrq_round (v source : Nat) : RoundStands s (s.postIrq v source) := by
  obtain ⟨picks, agenda, woken⟩ := wakePart_eq s (s.vd v).part
  have woke : RoundStands s (s.wakePart (s.vd v).part) := woken ▸ .of_fields rfl rfl rfl
  have vd : (s.wakePart (s.vd v).part).vd v = s.vd v := by rw [woken]; rfl
  unfold State.postIrq
  dsimp only
  split
  · exact (woke.trans (setVd_round _ v _ (by rw [vd]))).trans (countErr_round ..)
  · exact (woke.trans (setVd_round _ v _ (by rw [vd]))).trans (owe_round ..)

theorem chargeLine_round (v detail : Nat) : RoundStands s (s.chargeLine v detail) := by
  have held (t : State) (k : KeySlot) : RoundStands t (t.setKey v k) := .of_fields rfl rfl rfl
  unfold State.chargeLine
  dsimp only
  split
  · exact (countErr_round ..).trans (held ..)
  · exact countErr_round ..

/-- R347: the copy of the registers in the control page. -/
theorem ckptCopy_round : RoundStands s s.ckptCopy := by
  have drawn (k : Nat) : RoundStands s { s with freeCtr := k } := .of_fields rfl rfl rfl
  unfold State.ckptCopy
  dsimp only
  split
  · exact .of_fields rfl rfl rfl
  · exact (drawn (s.freeCtr + 1 + 1 + 1 + 1)).trans (engineWrite_written ..).round

theorem areaWrite_round (a : Nat) (bs : List Byte) : RoundStands s (s.areaWrite a bs) := by
  have kept (t : State) : RoundStands t { t with dirty := s.dirty } := .of_fields rfl rfl rfl
  exact (linesWrite_written ..).round.trans (kept _)

theorem wakeCounter_written (v n : Nat) : Written s (s.wakeCounter v n) := by
  refine Written.foldl (fun s e => ?_) _ s
  split
  · exact .ite (now_written ..) (.refl s)
  · exact .refl s

end

section
variable {s t : State} (h : RoundStands s t)
include h

/-- Whatever of the round does not tell its diversions stands. -/
theorem RoundStands.read {γ : Type} (part : Ckpt → γ) : part t.ckpt.undiverted = part s.ckpt.undiverted := congrArg part h.ckpt

end

/-! ## The copy of the registers, and what is then owed -/

/-- The registers are copied into the control page, and an event is owed. -/
theorem copied_after (s : State) (n prio : Nat) (e : Event) : RoundStands s (s.ckptCopy.after n prio e) ∧
    ((s.ckptCopy.after n prio e).agenda.any fun a => a.2 == e) = true :=
  ⟨(ckptCopy_round s).trans (owe_round ..), List.any_eq_true.mpr ⟨_, mem_agenda_owe .., beq_self_eq_true e⟩⟩

/-- The copy stops, and the lines are to move back. -/
theorem ckptStop_stops (s : State) (err : Nat) : (s.ckptStop err).ckpt.state = 3 ∧ (s.ckptStop err).ckpt.err = err := by
  have stopped : ∃ u : State, u.ckpt = { s.ckpt with state := 3, err := err } ∧ RoundStands u (s.ckptStop err) :=
    ⟨_, rfl, (copied_after _ 1 prioArrive .checkpointRetire).1⟩
  obtain ⟨u, ckpt, stands⟩ := stopped
  have state := stands.read Ckpt.state
  have error := stands.read Ckpt.err
  rw [ckpt] at state error
  exact ⟨state, error⟩

/-- R348: the end of a round, counted and told. -/
theorem ckptEnd_round (s : State) (err : Nat) :
    RoundStands { s with ckpt := { s.ckpt with state := if err = 0 then 4 else 5, err := err } } (s.ckptEnd err) := by
  unfold State.ckptEnd
  dsimp only
  refine .trans ?_ ((postIrq_round ..).trans (ckptCopy_round _))
  split
  · exact .of_fields rfl rfl rfl
  · exact countErr_round ..

/-! ## The start of a round (R347) -/

/-- The dirty units that are wholly the VD's. -/
def State.wholeUnits (s : State) : List Nat :=
  s.dirty.filter fun u => (List.range 16).all fun i => (s.frame (16 * u + i)).owner == s.ckpt.vd

/-- Spares for so many units. -/
def State.spares (s : State) : Nat := Nat.min (16384 - s.ckpt.remap.length) s.ckpt.sparelen

theorem wholeUnits_eq (s : State) : (s.dirty.filter fun u => (unitFrames u).all fun f => (s.frame f).owner == s.ckpt.vd) = s.wholeUnits := by
  refine List.filter_congr fun u _ => ?_
  rw [unitFrames, List.all_map]
  rfl

section
variable {s : State}

/-- The state of a round as it starts: its units are frozen, and none of them is dirty. -/
def State.startRound (s : State) (dirty : List Nat) (units : List Nat) : State :=
  { s with
    dirty := dirty
    ckpt := { s.ckpt with round := s.ckpt.round + 1, state := 2, units := units, frozen := units.length, copied := 0, diverted := 0 } }

/-- The dirty units that are only partly the VD's are counted (R347). -/
def State.countMixed (s : State) : State :=
  let own (f : Nat) : Bool := (s.frame f).owner == s.ckpt.vd
  let mixed := s.dirty.filter fun u => (unitFrames u).any own && !(unitFrames u).all own
  s.countErr (some (s.vd s.ckpt.vd).part) fun e => { e with ckmixed := Nat.min 4294967295 (e.ckmixed + mixed.length) }

/-- A step of the engine is over: the registers are copied, and the copy of the next unit is owed. -/
def State.goesOnCopying (s : State) : State :=
  (s.duration 1 1048576).2.ckptCopy.after (s.duration 1 1048576).1 prioArrive .checkpointUnitCopy

/-- The units are frozen, or without spares for them the round ends before it has begun. -/
theorem exec_checkpointRoundStart (armed : s.ckpt.state = 1) : exec .checkpointRoundStart s =
    .next (if s.wholeUnits.length > s.spares then s.countMixed.ckptEnd 1
      else (s.countMixed.startRound (s.dirty.filter fun u => !s.wholeUnits.contains u) s.wholeUnits).goesOnCopying) := by
  change execCheckpointRoundStart s = _
  rw [execCheckpointRoundStart]
  dsimp only
  rw [if_neg (not_not.mpr armed), wholeUnits_eq]
  rfl

theorem goesOnCopying_round : RoundStands s s.goesOnCopying ∧ (s.goesOnCopying.agenda.any fun e => e.2 == .checkpointUnitCopy) = true := by
  obtain ⟨stands, owed⟩ := copied_after (s.duration 1 1048576).2 (s.duration 1 1048576).1 prioArrive .checkpointUnitCopy
  exact ⟨(duration_round _ 1 1048576).trans stands, owed⟩

theorem countMixed_leaves : s.countMixed.ckpt = s.ckpt ∧ s.countMixed.strands = s.strands := ⟨rfl, rfl⟩

theorem checkpointRoundStart_freezes (armed : s.ckpt.state = 1) (room : s.wholeUnits.length ≤ s.spares) :
    Runs .checkpointRoundStart s fun t => t.ckpt.state = 2 ∧ t.ckpt.round = s.ckpt.round + 1 ∧ t.ckpt.units = s.wholeUnits ∧
      (t.agenda.any fun e => e.2 == .checkpointUnitCopy) = true ∧ t.strands = s.strands := by
  have run := exec_checkpointRoundStart armed
  rw [if_neg (by omega)] at run
  obtain ⟨ckpt, strands⟩ := countMixed_leaves (s := s)
  generalize s.countMixed = c at run ckpt strands
  obtain ⟨stands, owed⟩ := goesOnCopying_round (s := c.startRound (s.dirty.filter fun u => !s.wholeUnits.contains u) s.wholeUnits)
  exact ⟨_, run, stands.read Ckpt.state, (stands.read Ckpt.round).trans (congrArg (·.round + 1) ckpt :), stands.read Ckpt.units, owed,
    stands.strands.trans strands⟩

theorem checkpointRoundStart_ends (armed : s.ckpt.state = 1) (short : s.spares < s.wholeUnits.length) :
    Runs .checkpointRoundStart s fun t => t.ckpt.state = 5 ∧ t.ckpt.err = 1 ∧ t.ckpt.round = s.ckpt.round ∧ t.strands = s.strands := by
  have run := exec_checkpointRoundStart armed
  rw [if_pos short] at run
  obtain ⟨ckpt, strands⟩ := countMixed_leaves (s := s)
  generalize s.countMixed = c at run ckpt strands
  have stands := ckptEnd_round c 1
  exact ⟨_, run, stands.read Ckpt.state, stands.read Ckpt.err, (stands.read Ckpt.round).trans (congrArg Ckpt.round ckpt :),
    stands.strands.trans strands⟩

/-! ## The copy of a unit (R348) -/

/-- Where the area takes the next unit. -/
def State.areaPlace (s : State) : Nat := 4096 * s.ckpt.area + 0x30000 + s.ckpt.copied * 0x10000

/-- After the last unit the lines are to move back. -/
theorem checkpointUnitCopy_last (copying : s.ckpt.state = 2) (last : s.ckpt.units.length ≤ s.ckpt.copied) :
    Runs .checkpointUnitCopy s fun t => t.ckpt.state = 3 ∧ (t.agenda.any fun e => e.2 == .checkpointRetire) = true := by
  have none_ : s.ckpt.units[s.ckpt.copied]? = none := List.getElem?_eq_none last
  have run : ∃ u : State, exec .checkpointUnitCopy s =
      .next ((State.ckptCopy { u with ckpt := { u.ckpt with state := 3 } }).after 1 prioArrive .checkpointRetire) := by
    have step : exec .checkpointUnitCopy s = execCheckpointUnitCopy s := rfl
    rw [execCheckpointUnitCopy] at step
    dsimp only at step
    rw [if_neg (not_not.mpr copying), none_] at step
    exact ⟨_, step⟩
  obtain ⟨u, run⟩ := run
  obtain ⟨stands, owed⟩ := copied_after { u with ckpt := { u.ckpt with state := 3 } } 1 prioArrive .checkpointRetire
  exact ⟨_, run, stands.read Ckpt.state, owed⟩

/-- The image of a unit is in the area, with the unit's address, and the unit is counted as copied. -/
def State.copyUnit (s : State) (u : Nat) : State :=
  let c := (s.areaWrite s.areaPlace (s.unitImage u s.ckpt.copied)).areaWrite (4096 * s.ckpt.area + 64 + 8 * s.ckpt.copied)
    (toBytes 8 (65536 * u))
  { c with ckpt := { c.ckpt with copied := s.ckpt.copied + 1 } }

theorem copyUnit_leaves (copying : s.ckpt.state = 2) (u : Nat) : (s.copyUnit u).ckpt.state = 2 ∧ (s.copyUnit u).ckpt.copied = s.ckpt.copied + 1 := by
  have stands := (areaWrite_round s s.areaPlace (s.unitImage u s.ckpt.copied)).trans (areaWrite_round _
    (4096 * s.ckpt.area + 64 + 8 * s.ckpt.copied) (toBytes 8 (65536 * u)))
  exact ⟨(stands.read Ckpt.state).trans copying, rfl⟩

section
variable {u : Nat} (copying : s.ckpt.state = 2) (next : s.ckpt.units[s.ckpt.copied]? = some u) (here : s.ckpt.toHost = false)
include copying next here

/-- A unit that fails its checks, or that the area does not take, stops the copy. -/
theorem exec_checkpointUnitCopy : exec .checkpointUnitCopy s = .next (match s.linesFault (65536 * u) 65536 with
    | some d => (s.chargeLine s.ckpt.vd d).ckptStop 2
    | none => if s.areaFits s.areaPlace 0x10000 = false then s.ckptStop 4 else (s.copyUnit u).goesOnCopying) := by
  change execCheckpointUnitCopy s = _
  rw [execCheckpointUnitCopy]
  dsimp only
  rw [if_neg (not_not.mpr copying), next]
  dsimp only
  rw [here, if_neg (by simp), if_neg (by simp)]
  simp only [Bool.not_eq_true', Bool.false_eq_true, if_false]
  rfl

theorem checkpointUnitCopy_runs :
    (∀ d, s.linesFault (65536 * u) 65536 = some d → Runs .checkpointUnitCopy s fun t => t.ckpt.state = 3 ∧ t.ckpt.err = 2) ∧
    (s.linesFault (65536 * u) 65536 = none → s.areaFits s.areaPlace 0x10000 = false → Runs .checkpointUnitCopy s fun t =>
      t.ckpt.state = 3 ∧ t.ckpt.err = 4) ∧
    (s.linesFault (65536 * u) 65536 = none → s.areaFits s.areaPlace 0x10000 = true → Runs .checkpointUnitCopy s fun t =>
      t.ckpt.state = 2 ∧ t.ckpt.copied = s.ckpt.copied + 1 ∧ (t.agenda.any fun e => e.2 == .checkpointUnitCopy) = true) := by
  have run := exec_checkpointUnitCopy copying next here
  refine ⟨fun d failed => ?_, fun sound tight => ?_, fun sound fits => ?_⟩
  · rw [failed] at run
    exact ⟨_, run, ckptStop_stops _ 2⟩
  · rw [sound] at run
    exact ⟨_, run.trans (congrArg Host.Outcome.next (if_pos tight)), ckptStop_stops s 4⟩
  · rw [sound] at run
    obtain ⟨state, copied⟩ := copyUnit_leaves copying u
    obtain ⟨stands, owed⟩ := goesOnCopying_round (s := s.copyUnit u)
    exact ⟨_, run.trans (congrArg Host.Outcome.next (if_neg (by rw [fits]; exact Bool.noConfusion))),
      (stands.read Ckpt.state).trans state, (stands.read Ckpt.copied).trans copied, owed⟩

end

/-! ## The moves back, and the end (R348, R349) -/

theorem checkpointRetire_runs (moving : s.ckpt.state = 3) :
    (∀ r l, s.ckpt.nextMove = some (r, l) → Runs .checkpointRetire s fun t =>
      t.mem = writeBytes s.mem (65536 * r.unit + 64 * l) (readBytes s.mem (65536 * r.spare + 64 * l) 64) ∧ t.strands = s.strands) ∧
    (s.ckpt.nextMove = none → Runs .checkpointRetire s fun t => t.ckpt = { s.ckpt with remap := [] } ∧ t.mem = s.mem ∧
      (⟨none, s.pkg.ency + 1, prioCount⟩, Event.checkpointRoundEnd) ∈ t.agenda) := by
  have run : exec .checkpointRetire s = execCheckpointRetire s := rfl
  rw [execCheckpointRetire, if_neg (not_not.mpr moving)] at run
  refine ⟨fun r l move => ?_, fun moved => ?_⟩
  · rw [move] at run
    dsimp only at run
    generalize writeBytes s.mem _ _ = moved at run ⊢
    exact ⟨_, run, rfl, rfl⟩
  · rw [moved] at run
    exact ⟨_, run, rfl, rfl, mem_agenda_after { s with ckpt := { s.ckpt with remap := [] } } 1 prioCount .checkpointRoundEnd⟩

theorem counter_setCounter (rising : Rising s.vds) (v : Nat) {n : Nat} (c : Counter) (small : n < 16) :
    Rising (s.setCounter v n c).vds ∧ ((s.setCounter v n c).vd v).counter n = c := by
  rw [State.setCounter, dif_pos small, modVd_eq, vd_setVd s v v _ rising, if_pos rfl, Vd.counter]
  exact ⟨rising_tput rising, by simp [small]⟩

theorem checkpointRoundEnd_runs (canon : Canonical s) (moving : s.ckpt.state = 3) (small : s.ckpt.cn < 16) :
    Runs .checkpointRoundEnd s fun t => t.ckpt.state = (if s.ckpt.err = 0 then 4 else 5) ∧
      ((t.vd s.ckpt.cnVd).counter s.ckpt.cn).done = ((s.vd s.ckpt.cnVd).counter s.ckpt.cn).done + 1 ∧ t.strands = s.strands := by
  have ended := ckptEnd_round s s.ckpt.err
  have run : exec .checkpointRoundEnd s = execCheckpointRoundEnd s := rfl
  rw [execCheckpointRoundEnd, if_neg (not_not.mpr moving)] at run
  dsimp only at run
  generalize s.ckptEnd s.ckpt.err = u at run ended
  have vd : u.ckpt.cnVd = s.ckpt.cnVd := ended.read Ckpt.cnVd
  have number : u.ckpt.cn = s.ckpt.cn := ended.read Ckpt.cn
  have counter : (u.vd s.ckpt.cnVd).counter s.ckpt.cn = (s.vd s.ckpt.cnVd).counter s.ckpt.cn := ended.counter canon.rvds _ _
  rw [vd, number, counter] at run
  generalize fresh : ({ (s.vd s.ckpt.cnVd).counter s.ckpt.cn with done := ((s.vd s.ckpt.cnVd).counter s.ckpt.cn).done + 1 } : Counter) = c at run
  obtain ⟨rising, counted⟩ := counter_setCounter (ended.rising canon.rvds) s.ckpt.cnVd c small
  have told := wakeCounter_written (u.setCounter s.ckpt.cnVd s.ckpt.cn c) s.ckpt.cnVd s.ckpt.cn
  have set : (u.setCounter s.ckpt.cnVd s.ckpt.cn c).uncounted = u.uncounted := setCounter_uncounted ..
  have kept : (u.setCounter s.ckpt.cnVd s.ckpt.cn c).ckpt = u.ckpt := show State.ckpt (State.uncounted _) = State.ckpt (State.uncounted u) by rw [set]
  generalize u.setCounter s.ckpt.cnVd s.ckpt.cn c = w at run rising counted told set kept
  refine ⟨_, run, ?_, ?_, ?_⟩
  · exact (told.round.read Ckpt.state).trans ((congrArg Ckpt.state kept).trans (ended.read Ckpt.state))
  · rw [told.counter rising, counted, ← fresh]
  · exact told.round.strands.trans ((strands_of_uncounted set).trans ended.strands)

end

/-- Settles O60. -/
theorem checkpointEvents : Obligations.CheckpointEvents := by
  intro s canon k own frozen at_
  refine ⟨fun other => ?_, fun armed none_ => ?_, checkpointRoundStart_ends, fun other => ?_, checkpointUnitCopy_last,
    fun u copying next here => checkpointUnitCopy_runs copying next here, fun other => ⟨?_, ?_⟩, checkpointRetire_runs,
    checkpointRoundEnd_runs canon⟩
  · exact congrArg Host.Outcome.next (if_pos other)
  · have units : s.wholeUnits = [] := none_
    have started := checkpointRoundStart_freezes armed (by rw [units]; exact Nat.zero_le _)
    rwa [units] at started
  · exact congrArg Host.Outcome.next (if_pos other)
  · exact congrArg Host.Outcome.next (if_pos other)
  · exact congrArg Host.Outcome.next (if_pos other)

end Sys2Proof.Machine
end

section
/-! Proof of the statement on power states and thermal levels (O57), from the laws of performed writes and of pre-emption. -/
namespace Sys2Proof.Machine
open Sys2Proof.Claims

/-! ## Interrupts leave all but their VD and the counts (R249) -/

/-- A state without what an interrupt may change. -/
def State.uninterrupted (s : State) : State :=
  { s with vds := [], parts := [], agenda := [], picks := [], pkg := { s.pkg with errs := {} } }

section
variable (s : State)

theorem countErr_uninterrupted (p : Option Nat) (f : ErrCounters → ErrCounters) : (s.countErr p f).uninterrupted = s.uninterrupted := by
  cases p <;> rfl

theorem wakePart_uninterrupted (p : Nat) : (s.wakePart p).uninterrupted = s.uninterrupted := by
  obtain ⟨picks, agenda, woken⟩ := wakePart_eq s p
  rw [woken]
  rfl

theorem postIrq_uninterrupted (v source : Nat) : (s.postIrq v source).uninterrupted = s.uninterrupted := by
  have posted (t : State) (d : Vd) : (t.setVd v d).uninterrupted = t.uninterrupted := rfl
  have owed (t : State) (prio : Nat) (e : Event) : (t.now prio e).uninterrupted = t.uninterrupted := rfl
  unfold State.postIrq
  dsimp only
  split
  · rw [State.countDiscard, countErr_uninterrupted, posted, wakePart_uninterrupted]
  · rw [owed, posted, wakePart_uninterrupted]

end

/-! ## What leaves the thermal level (R391) -/

/-- The thermal level. -/
def State.therm (s : State) : Nat := s.pkg.therm

section
variable (s : State)

theorem countErr_therm (p : Option Nat) (f : ErrCounters → ErrCounters) : (s.countErr p f).therm = s.therm :=
  show (s.countErr p f).uninterrupted.pkg.therm = s.uninterrupted.pkg.therm by rw [countErr_uninterrupted]

theorem postIrq_therm (v source : Nat) : (s.postIrq v source).therm = s.therm :=
  show (s.postIrq v source).uninterrupted.pkg.therm = s.uninterrupted.pkg.therm by rw [postIrq_uninterrupted]

theorem discard_therm (id : Nat) (k : Packet) : (s.discard id k).therm = s.therm := by
  have answered (t : State) (e : Event) : (t.answer k e).therm = t.therm := by
    unfold State.answer
    split <;> rfl
  unfold State.discard
  split
  · rfl
  · exact (answered ..).trans (countErr_therm ..)

theorem takeVd_therm (c v : Nat) : (s.takeVd c v).therm = s.therm := by
  have cleared (t : State) : (t.startClear c).therm = t.therm := by
    unfold State.startClear
    dsimp only
    split <;> rfl
  have placed (t : State) : (t.placeVd c v).therm = t.therm := by
    unfold State.placeVd
    split
    · rfl
    · exact cleared t
  have dropped : (s.dropHeld c).therm = s.therm := by
    refine foldl_keeps State.therm (fun t e => ?_) _ s
    split
    · exact discard_therm ..
    · rfl
  unfold State.takeVd
  rw [placed]
  split
  · rfl
  · exact dropped

theorem reowe_therm (sid : Nat) : (s.reowe sid).therm = s.therm := by
  unfold State.reowe
  extract_lets x k counted t
  have kept : t.therm = s.therm := by
    unfold t
    split
    · rfl
    · rfl
    · split <;> rfl
    · rfl
    · rfl
    · rfl
  refine .trans ?_ kept
  split <;> rfl

theorem restoreStrand_therm (sid : Nat) (e : Saved) : (s.restoreStrand sid e).therm = s.therm := by
  unfold State.restoreStrand
  extract_lets +onlyGivenNames c taken owed paired x placed relabelled running
  have kept1 : taken.therm = s.therm := takeVd_therm s c e.vd
  have kept2 : owed.therm = taken.therm := by
    unfold owed
    split <;> rfl
  have kept3 : paired.therm = owed.therm := by
    refine foldl_keeps State.therm (fun t q => ?_) _ owed
    split <;> rfl
  have kept4 : relabelled.therm = paired.therm := rfl
  rw [reowe_therm]
  exact kept4.trans (kept3.trans (kept2.trans kept1))

theorem resumeSaved_therm : s.resumeSaved.therm = s.therm := by
  refine foldl_keeps State.therm (fun t e => ?_) _ s
  split
  · exact restoreStrand_therm ..
  · rfl

theorem kickEngine_therm (p : Nat) : (s.kickEngine p).therm = s.therm := congrArg Pkg.therm (pkg_of_beside (kickEngine_beside s p))

end

/-! ## Power states of a partition (R382) -/

section
variable {s : State} {p : Nat}

/-- From s to t of the tables that power control reads only a partition's power state changes, which becomes g. -/
structure Powered (p g : Nat) (s t : State) : Prop where
  pstate : (t.part p).pstate = g
  rising : Rising t.parts
  strands : t.strands = s.strands
  hwSaved : t.hwSaved = s.hwSaved

theorem Powered.of_written {g : Nat} {t u : State} (h : Powered p g s t) (w : Written t u) : Powered p g s u := by
  have parts : u.parts = t.parts := w.read State.parts
  exact ⟨by rw [State.part, parts]; exact h.pstate, parts ▸ h.rising, (w.read State.strands).trans h.strands,
    (w.read State.hwSaved).trans h.hwSaved⟩

theorem setPstate_powered (rising : Rising s.parts) (g : Nat) : Powered p g s (s.setPstate p g) := by
  have set : Powered p g s (s.setPart p { s.part p with pstate := g }) :=
    ⟨by rw [part_setPart s p p _ rising, if_pos rfl], rising_tput rising, rfl, rfl⟩
  unfold State.setPstate
  rw [modPart_eq]
  dsimp only
  split
  · exact set
  · exact set.of_written (engineWrite_written ..)

theorem enterPower_powered (rising : Rising s.parts) (g : Nat) : Powered p g s (s.enterPower p g) := by
  have set := setPstate_powered (p := p) rising g
  unfold State.enterPower
  dsimp only
  generalize s.setPstate p g = u at set
  split
  · exact set
  · split
    · obtain ⟨k, drawn⟩ := freeBytes_eq (524288 * (u.crewCores p).length / 8) u
      have same : Powered p g s (u.freeBytes (524288 * (u.crewCores p).length / 8)).2 :=
        drawn ▸ ⟨set.pstate, set.rising, set.strands, set.hwSaved⟩
      exact same.of_written (linesWrite_written ..)
    · refine List.foldlRecOn (motive := Powered p g s) _ _ set fun t same c _ => ?_
      exact ⟨same.pstate, same.rising, same.strands, same.hwSaved⟩

theorem kickGated_written : Written s (s.kickGated p) := Written.foldl (fun t _ => .ite (now_written ..) (.refl t)) _ s

/-- An idle partition takes the state that its tolerance allows. -/
theorem powerStateEntry_runs (canon : Canonical s) {t0 : Nat} (idle : (s.part p).idleSince = some t0)
    (long : t0 + 65536 ≤ s.pkg.ency) (quiet : s.partIdle p = true) (may : s.mayChange p = true)
    (deeper : (s.part p).pstate < deepest (s.part p).ltol.toNat) :
    Runs (.powerStateEntry p) s fun t => (t.part p).pstate = deepest (s.part p).ltol.toNat ∧ t.strands = s.strands := by
  have run : exec (.powerStateEntry p) s = execPowerStateEntry p s := rfl
  rw [execPowerStateEntry, idle] at run
  dsimp only at run
  rw [if_pos ⟨long, quiet, deeper⟩, if_pos may] at run
  have entered := enterPower_powered (p := p) canon.rparts (deepest (s.part p).ltol.toNat)
  exact ⟨_, run, entered.pstate, entered.strands⟩

theorem powerStateEntry_stays (stays : (s.part p).idleSince = none ∨ s.partIdle p = false ∨ deepest (s.part p).ltol.toNat ≤ (s.part p).pstate) :
    exec (.powerStateEntry p) s = .next s := by
  have run : exec (.powerStateEntry p) s = execPowerStateEntry p s := rfl
  rw [run, execPowerStateEntry]
  congr 1
  split
  next t0 idle =>
    refine if_neg fun ⟨_, quiet, deeper⟩ => ?_
    obtain none_ | busy | shallow := stays
    · rw [none_] at idle
      cases idle
    · rw [busy] at quiet
      cases quiet
    · exact absurd deeper (Nat.not_lt.mpr shallow)
  · rfl

theorem resumeSaved_of_none (none_ : s.hwSaved = []) : s.resumeSaved = s := by
  rw [State.resumeSaved, none_]
  rfl

/-- A partition that is not idle. -/
def Partition.woken (r : Partition) : Partition := { r with idleSince := none }

/-- A partition that wakes runs, with nothing saved to resume. -/
theorem powerWake_runs (canon : Canonical s) (off : (s.part p).pstate ≠ 0) (cool : s.pkg.therm < 2) (may : s.mayChange p = true)
    (none_ : s.hwSaved = []) : Runs (.powerWake p) s fun t =>
      (t.part p).pstate = 0 ∧ (t.part p).idleSince = none ∧ t.strands = s.strands := by
  have run : exec (.powerWake p) s = .next ((((s.setPstate p 0).modPart p Partition.woken).kickGated p).resumeSaved.kickEngine p) := by
    change execPowerWake p s = _
    rw [execPowerWake, if_neg off, if_neg (Nat.not_le.mpr cool), if_pos may]
    rfl
  have set := setPstate_powered (p := p) canon.rparts 0
  generalize s.setPstate p 0 = u at run set
  have part : (u.modPart p Partition.woken).part p = (u.part p).woken := by
    rw [modPart_eq, part_setPart u p p _ set.rising, if_pos rfl]
  have gated := kickGated_written (s := u.modPart p Partition.woken) (p := p)
  have saved : ((u.modPart p Partition.woken).kickGated p).hwSaved = [] := (gated.read State.hwSaved).trans (set.hwSaved.trans none_)
  have parts : ((u.modPart p Partition.woken).kickGated p).part p = (u.part p).woken :=
    (congrArg (tget ({} : Partition) p) (gated.read State.parts)).trans part
  have strands : ((u.modPart p Partition.woken).kickGated p).strands = s.strands := (gated.read State.strands).trans set.strands
  generalize (u.modPart p Partition.woken).kickGated p = w at run saved parts strands
  rw [resumeSaved_of_none saved] at run
  have kicked := kickEngine_beside w p
  refine ⟨_, run, ?_, ?_, (strands_of_beside kicked).trans strands⟩
  · rw [part_of_beside kicked, parts]
    exact set.pstate
  · rw [part_of_beside kicked, parts]
    rfl

end

/-! ## Thermal levels (R390, R391) -/

theorem thermLevel_eq (m : ThermalData) : thermLevel m = if 120 ≤ m.junction ∨ 5000 < m.current ∨ m.sustained = true then 3
    else if 110 ≤ m.junction then 2 else if 100 ≤ m.junction ∨ 3600 < m.average then 1 else 0 := by
  simp [thermLevel, thermHolds, or_assoc]

theorem thermLevel_le (m : ThermalData) : thermLevel m ≤ 3 := by
  rw [thermLevel_eq]
  split_ifs <;> omega

section
variable (s : State) (m : ThermalData)

/-- The level after a sample, and when its condition last held. -/
def State.sampled : State := s.modPkg fun k => { k with
  therm := Nat.max s.pkg.therm (thermLevel m)
  thermLast := Vector.ofFn fun i => if thermHolds m (i.val + 1) then k.ency else k.thermLast[i] }

/-- What entering a level does. -/
def State.heated : State :=
  if (s.sampled m).pkg.therm = 2 ∧ s.pkg.therm < 2 then (s.sampled m).enterTwo
  else if (s.sampled m).pkg.therm = 3 ∧ s.pkg.therm < 3 then (s.sampled m).enterThree else s.sampled m

theorem exec_thermalSample : ∃ agenda, exec (.thermalSample m) s = .next { s.heated m with agenda := agenda } := by
  have run : exec (.thermalSample m) s =
      .next (if (s.heated m).pkg.therm = 0 ∨ ((s.heated m).agenda.any fun e => e.2 == .thermalLevelExit) = true then s.heated m
        else (s.heated m).owe none (s.heated m).thermDue prioBar .thermalLevelExit) := rfl
  rw [run]
  generalize s.heated m = u
  split
  · exact ⟨u.agenda, rfl⟩
  · exact ⟨_, rfl⟩

theorem requestPreempt_therm (sid : Nat) (w : Leave) : (s.requestPreempt sid w).therm = s.therm :=
  congrArg Pkg.therm (KeepsClocks.requestPreempt s sid w).pkg

theorem askPreempt_therm (l : Nat) : (s.askPreempt l).therm = s.therm := by
  have told : (s.tellTime l (.preempt (s.lcyL l))).therm = s.therm := congrArg Pkg.therm (pkg_of_roster (tellTime_roster ..))
  unfold State.askPreempt State.askPreemptAt
  dsimp only
  split
  · exact told
  · exact told

theorem enterTwo_therm : s.enterTwo.therm = s.therm := by
  unfold State.enterTwo
  dsimp only
  rw [foldl_keeps State.therm (fun t v => postIrq_therm t v 6), foldl_keeps State.therm (fun t e => requestPreempt_therm t _ _)]
  refine foldl_keeps State.therm (fun t e => ?_) _ s
  split
  · exact askPreempt_therm ..
  · rfl

theorem heated_therm : (s.heated m).pkg.therm = Nat.max s.pkg.therm (thermLevel m) := by
  unfold State.heated
  split
  next => exact enterTwo_therm (s.sampled m)
  next =>
    split
    next level => exact level.1.symm
    next => rfl

end

section
variable {s : State} {m : ThermalData}

theorem thermalSample_level : Runs (.thermalSample m) s fun t => t.pkg.therm = Nat.max s.pkg.therm (thermLevel m) := by
  obtain ⟨agenda, run⟩ := exec_thermalSample s m
  exact ⟨_, run, heated_therm s m⟩

/-- Below level 2 nothing but the level changes. -/
theorem thermalSample_mild (mild : thermLevel m < 2) :
    Runs (.thermalSample m) s fun t => t.strands = s.strands ∧ t.launches = s.launches ∧ t.mem = s.mem := by
  obtain ⟨agenda, run⟩ := exec_thermalSample s m
  have level : (s.sampled m).pkg.therm = max s.pkg.therm (thermLevel m) := rfl
  have only : s.heated m = s.sampled m := by
    rw [State.heated, level, if_neg (by omega), if_neg (by omega)]
  rw [only] at run
  exact ⟨_, run, rfl, rfl, rfl⟩

/-! ## Level 2 -/

theorem launch_of_one {l : Nat} {L : Launch} (one : s.launches = [(l, L)]) : s.launch l = L := by
  rw [State.launch, one, tget, if_pos rfl]

/-- The bar line at which a launch that is to leave from now on ends. -/
def State.leaveLine (s : State) (l : Nat) : Nat := barLineAt (s.lcyL l + Nat.max s.pkg.endlat (s.launch l).endlat)

theorem askPreempt_launch (rising : Rising s.launches) {l : Nat} (running : (s.launch l).st = .running) (stays : (s.launch l).preAt = none) :
    (s.askPreempt l).launch l = { s.launch l with preAt := some (s.leaveLine l) } := by
  have told := tellTime_roster s l (.preempt (s.lcyL l))
  have launch : (s.tellTime l (.preempt (s.lcyL l))).launch l = s.launch l := congrArg (tget ({} : Launch) l) (launches_of_roster told)
  have line : (s.tellTime l (.preempt (s.lcyL l))).endLine l (s.lcyL l) = s.leaveLine l := by
    rw [State.endLine, launch, pkg_of_roster told, State.leaveLine]
  have risen : Rising (s.tellTime l (.preempt (s.lcyL l))).launches := (launches_of_roster told).symm ▸ rising
  unfold State.askPreempt State.askPreemptAt
  dsimp only
  rw [launch, line]
  generalize s.tellTime l (.preempt (s.lcyL l)) = u at *
  rw [if_pos ⟨.inl running, stays⟩]
  exact (launch_setLaunch u l l _ risen).trans (if_pos rfl)

/-- The launch of a machine that has one, as level 2 makes it leave. -/
theorem enterTwo_launch {l : Nat} {L : Launch} (one : s.launches = [(l, L)]) (scored : L.scored = true) (running : L.st = .running)
    (stays : L.preAt = none) : s.enterTwo.launch l = { L with thermal := true, preAt := some (s.leaveLine l) } := by
  have rising : Rising s.launches := one ▸ List.pairwise_singleton ..
  have marked : (s.setLaunch l { L with thermal := true }).launch l = { L with thermal := true } :=
    (launch_setLaunch s l l _ rising).trans (if_pos rfl)
  have line : (s.setLaunch l { L with thermal := true }).leaveLine l = s.leaveLine l := by
    rw [State.leaveLine, State.lcyL, marked, State.leaveLine, State.lcyL, launch_of_one one]
    rfl
  have leaves := askPreempt_launch (s := s.setLaunch l { L with thermal := true }) (rising_tput rising) (l := l)
    (by rw [marked]; exact running) (by rw [marked]; exact stays)
  rw [marked, line] at leaves
  have interrupted (t : State) (v : Nat) : (t.postIrq v 6).launches = t.launches :=
    show (t.postIrq v 6).uninterrupted.launches = t.uninterrupted.launches by rw [postIrq_uninterrupted]
  unfold State.enterTwo
  dsimp only
  rw [State.launch, foldl_keeps State.launches (fun t v => interrupted t v),
    foldl_keeps State.launches (fun t e => (KeepsClocks.requestPreempt t _ _).launches), one, List.foldl_cons, List.foldl_nil]
  dsimp only
  have held : (L.scored && (L.st == .running || L.st == .ending)) = true := by rw [scored, running]; rfl
  rw [if_pos held, modLaunch_eq, launch_of_one one]
  exact leaves

theorem thermalSample_warm {l : Nat} {L : Launch} (warm : thermLevel m = 2) (below : s.pkg.therm < 2) (one : s.launches = [(l, L)])
    (scored : L.scored = true) (running : L.st = .running) (stays : L.preAt = none) : Runs (.thermalSample m) s fun t =>
      (t.launch l).preAt = some (barLineAt (s.lcyL l + Nat.max s.pkg.endlat L.endlat)) ∧ (t.launch l).thermal = true := by
  obtain ⟨agenda, run⟩ := exec_thermalSample s m
  have level : (s.sampled m).pkg.therm = 2 := by
    change Nat.max s.pkg.therm (thermLevel m) = 2
    rw [warm]
    exact Nat.max_eq_right below.le
  have two : s.heated m = (s.sampled m).enterTwo := by rw [State.heated, level, if_pos ⟨rfl, below⟩]
  have leaves := enterTwo_launch (s := s.sampled m) one scored running stays
  rw [State.leaveLine, launch_of_one (s := s.sampled m) one] at leaves
  rw [two] at run
  exact ⟨_, run, (congrArg Launch.preAt leaves :), (congrArg Launch.thermal leaves :)⟩

/-! ## Level 3 -/

theorem tget_of_lacks {α : Type} (d : α) (k : Nat) : (m : Sparse α) → (∀ e ∈ m, e.1 ≠ k) → tget d k m = d
  | [], _ => rfl
  | (j, w) :: m, lacks => by
    rw [tget, if_neg fun same => lacks _ List.mem_cons_self same.symm, tget_of_lacks d k m fun e mem => lacks e (List.mem_cons_of_mem _ mem)]
    exact ite_self d

theorem tget_filter_out {α : Type} (d : α) (k : Nat) (keep : Nat × α → Bool) (m : Sparse α) (out : ∀ w, keep (k, w) = false) :
    tget d k (m.filter keep) = d := by
  refine tget_of_lacks d k _ fun e mem same => ?_
  have kept := (List.mem_filter.mp mem).2
  rw [show e = (k, e.2) from Prod.ext same rfl, out] at kept
  cases kept

/-- Of the strands and of memory only the Coachmen's and the host's remain. -/
theorem enterThree_tables : ∃ (strands : Sparse Strand) (mem : Sparse Byte), s.enterThree.pkg.stage = 0 ∧
    s.enterThree.strands = (strands.filter fun e => isCoach (coreOf e.1)) ∧
    s.enterThree.mem = mem.filter fun e => !isNear e.1 && !isFar e.1 := by
  unfold State.enterThree
  extract_lets told k
  exact ⟨told.strands, told.mem, rfl, rfl, rfl⟩

theorem enterThree_leaves : s.enterThree.pkg.stage = 0 ∧ (∀ sid, isCoach (coreOf sid) = false → s.enterThree.strand sid = {}) ∧
    ∀ a, isNear a = true ∨ isFar a = true → tget memDefault a s.enterThree.mem = memDefault := by
  obtain ⟨strands, mem, stage, coach, host⟩ := enterThree_tables (s := s)
  refine ⟨stage, fun sid worker => ?_, fun a mapped => ?_⟩
  · rw [State.strand, coach]
    exact tget_filter_out _ sid (fun e => isCoach (coreOf e.1)) strands fun _ => worker
  · rw [host]
    refine tget_filter_out _ a (fun e => !isNear e.1 && !isFar e.1) mem fun _ => ?_
    obtain near | far := mapped
    · simp [near]
    · simp [far]

theorem thermalSample_hot (hot : thermLevel m = 3) (below : s.pkg.therm < 3) : Runs (.thermalSample m) s fun t => t.pkg.stage = 0 ∧
    (∀ sid, isCoach (coreOf sid) = false → t.strand sid = {}) ∧
    ∀ a, isNear a = true ∨ isFar a = true → tget memDefault a t.mem = memDefault := by
  obtain ⟨agenda, run⟩ := exec_thermalSample s m
  have level : (s.sampled m).pkg.therm = 3 := by
    change Nat.max s.pkg.therm (thermLevel m) = 3
    rw [hot]
    exact Nat.max_eq_right below.le
  have three : s.heated m = (s.sampled m).enterThree := by
    rw [State.heated, level, if_neg (by simp), if_pos ⟨rfl, below⟩]
  rw [three] at run
  exact ⟨_, run, enterThree_leaves (s := s.sampled m)⟩

/-! ## The level is left -/

theorem leaveLevel_therm : s.leaveLevel.pkg.therm = s.pkg.therm - 1 := by
  unfold State.leaveLevel
  extract_lets old lowered vs told
  have kept : lowered.therm = s.pkg.therm - 1 := rfl
  split
  · rfl
  · split
    · have posted : told.therm = lowered.therm := foldl_keeps State.therm (fun t v => postIrq_therm t v 6) _ lowered
      refine (foldl_keeps State.therm (fun t e => kickEngine_therm t _) _ _).trans ?_
      exact (resumeSaved_therm told).trans (posted.trans kept)
    · rfl

/-- The level is left once its condition has been absent for long enough. -/
def State.cooled (s : State) : State := if s.thermDue ≤ s.pkg.ency then s.leaveLevel else s

/-- What follows the judgement of a level changes only what is owed. -/
theorem owes_exit (u : State) (due : Nat) : ∃ agenda, (if u.pkg.therm = 0 then u else u.owe none due prioBar .thermalLevelExit) =
    { u with agenda := agenda } := by
  split
  · exact ⟨u.agenda, rfl⟩
  · exact ⟨_, rfl⟩

theorem exec_thermalLevelExit (warm : s.pkg.therm ≠ 0) : ∃ agenda, exec .thermalLevelExit s = .next { s.cooled with agenda := agenda } := by
  have run : exec .thermalLevelExit s = .next (if s.cooled.pkg.therm = 0 then s.cooled
      else s.cooled.owe none (Nat.max s.cooled.thermDue (s.cooled.pkg.ency + 1)) prioBar .thermalLevelExit) := by
    have step : exec .thermalLevelExit s = execThermalLevelExit s := rfl
    rw [step, execThermalLevelExit, if_neg warm]
    rfl
  obtain ⟨agenda, owes⟩ := owes_exit s.cooled (Nat.max s.cooled.thermDue (s.cooled.pkg.ency + 1))
  exact ⟨agenda, run.trans (congrArg Host.Outcome.next owes)⟩

end

/-- Settles O57. -/
theorem powerEvents : Obligations.PowerEvents := by
  intro s p l m canon r ltol deep level old last
  have due : s.thermDue = last + 2 ^ 20 := congrArg (last + ·) (by norm_num : 1048576 = 2 ^ 20)
  have sampled : thermLevel m = level := thermLevel_eq m
  refine ⟨fun t0 idle long quiet may deeper => powerStateEntry_runs canon idle long quiet may deeper, powerStateEntry_stays,
    fun on => congrArg Host.Outcome.next (if_pos on), fun off hot => ?_, fun off cool may none_ => powerWake_runs canon off cool may none_,
    sampled ▸ thermalSample_level, fun mild => thermalSample_mild (sampled ▸ mild), fun warm below L one scored running stays =>
      thermalSample_warm (sampled.trans warm) below one scored running stays,
    fun hot below => thermalSample_hot (sampled.trans hot) below, fun cold => congrArg Host.Outcome.next (if_pos cold),
    fun warm past => ?_, fun warm early => ?_⟩
  · exact congrArg Host.Outcome.next ((if_neg off).trans (if_pos hot))
  · obtain ⟨agenda, run⟩ := exec_thermalLevelExit warm
    rw [State.cooled, if_pos (due ▸ past)] at run
    exact ⟨_, run, leaveLevel_therm⟩
  · obtain ⟨agenda, run⟩ := exec_thermalLevelExit warm
    rw [State.cooled, if_neg (by omega)] at run
    exact ⟨_, run, rfl, rfl, rfl⟩

end Sys2Proof.Machine
end

section
/-! Proof of the statement on the outcomes of open operations (O49). -/
namespace Sys2Proof.Machine
open Sys2Proof.Claims

/-! ## Landing leaves the results that are not due (R72) -/

theorem setCsr_pend (x : Strand) (n : Nat) (v : Word) : (x.setCsr n v).pend = x.pend := by
  unfold Strand.setCsr
  iterate 7 (split; · rfl)
  rfl

theorem put_pend (x : Strand) (d : Dst) (v : Wide) : (x.put d v).pend = x.pend := by
  cases d with
  | g | p | m =>
    simp only [Strand.put]
    split <;> rfl
  | csr n =>
    simp only [Strand.put]
    iterate 3 (split; · rfl)
    exact setCsr_pend ..
  | tk | v | be | q | st | vl | fp => rfl

theorem landOne_pend (x : Strand) (p : Pend) : (x.landOne p).pend = x.pend := by
  unfold Strand.landOne
  split
  · rfl
  · split
    · rfl
    · split
      · exact setCsr_pend ..
      · exact put_pend ..

theorem landAll_pend (x : Strand) (now : Nat) (free : Bool) : (x.landAll now free).pend = x.pend.filter fun p => !p.isDue now := by
  refine List.foldlRecOn (motive := fun y : Strand => y.pend = x.pend.filter fun p => !p.isDue now) _ _ rfl fun y same p _ => ?_
  dsimp only
  rw [landOne_pend]
  split <;> exact same

/-! ## An operation's one outcome (R256, R265) -/

section
variable {s : State} {op : Nat} {o : FabOp}

theorem op_of_one (one : s.ops = [(op, o)]) : s.op op = some o := by rw [State.op, one, look, if_pos rfl]

/-- The machine once its one operation is over, whose Dray knows the outcome. -/
def State.opOver (s : State) (op : Nat) (o : FabOp) (r : Option Word) : State :=
  match o.dray with | some q => State.drayAnswer { s with ops := [] } op r q | none => { s with ops := [] }

theorem opOver_leaves (s : State) (op : Nat) (o : FabOp) (r : Option Word) : ∃ drays, s.opOver op o r = { s with ops := [], drays := drays } := by
  unfold State.opOver
  split
  · exact ⟨_, rfl⟩
  · exact ⟨s.drays, rfl⟩

section
variable (one : s.ops = [(op, o)]) (last : o.left ≤ 1) (r : Option Word)
include one last

/-- The last outcome of the one operation ends it, and lands in the register that waits for it. -/
theorem opResult_of_one : s.opResult op r = match o.dst with
    | some (d, n, sg) => if d ≠ 0 ∧ s.opAlive o = true then
        (s.opOver op o r).resolve o.sid o.seq (.g d) (FabOp.extend n sg (r.getD 0)) (Nat.max o.earliest (s.nextTurn o.sid))
      else s.opOver op o r
    | none => s.opOver op o r := by
  have gone : unbind op s.ops = [] := by simp [one, unbind]
  obtain ⟨drays, ended⟩ := opOver_leaves s op o r
  have idle (t : State) (none_ : t.ops = []) : t.nextChunk o.sid = t := nextChunk_of_none (by rw [none_]; exact fun _ h => nomatch h) _
  have step : s.opResult op r = State.nextChunk (match o.dst with
      | some (d, n, sg) => if d ≠ 0 ∧ (s.opOver op o r).opAlive o = true then
          (s.opOver op o r).resolve o.sid o.seq (.g d) (FabOp.extend n sg (r.getD 0))
            (Nat.max o.earliest ((s.opOver op o r).nextTurn o.sid))
        else s.opOver op o r
      | none => s.opOver op o r) o.sid := by
    unfold State.opResult
    rw [op_of_one one]
    dsimp only
    rw [if_neg (by omega), gone]
    rfl
  rw [step, ended]
  cases o.dst with
  | none => exact idle _ rfl
  | some g =>
    obtain ⟨d, n, sg⟩ := g
    dsimp only
    by_cases held : d ≠ 0 ∧ s.opAlive o = true
    · rw [if_pos held]
      exact (congrArg (State.nextChunk · o.sid) (if_pos held)).trans (idle _ rfl)
    · rw [if_neg held]
      exact (congrArg (State.nextChunk · o.sid) (if_neg held)).trans (idle _ rfl)

theorem opResult_of_bare (noDst : o.dst = none) : s.opResult op r = s.opOver op o r := by
  rw [opResult_of_one one last r, noDst]

theorem opResult_of_plain (noDst : o.dst = none) (noDray : o.dray = none) : s.opResult op r = { s with ops := [] } := by
  rw [opResult_of_bare one last r noDst, State.opOver, noDray]

end

theorem stale_of_fresh (fresh : o.tgen = (s.vd o.vd).tgen) : s.stale o = false := by rw [State.stale, fresh, bne_self_eq_false]

theorem stale_of_older (older : ¬ o.tgen = (s.vd o.vd).tgen) : s.stale o = true := bne_iff_ne.mpr older

theorem fabricAcknowledgement_ends (one : s.ops = [(op, o)]) (last : o.left ≤ 1) (fresh : o.tgen = (s.vd o.vd).tgen) (noDst : o.dst = none)
    (noDray : o.dray = none) (whole : s.scored o.sid = false ∨ o.away = none ∨ o.late = true) :
    exec (.fabricAcknowledgement op false) s = .next { s with ops := [] } := by
  have waits : ¬ (o.dray.isNone && s.scored o.sid && o.away.isSome && !o.late) = true := by
    obtain free | home | late := whole
    · simp [free]
    · simp [home]
    · simp [late]
  have unmarked : s.echo op o false = s := by
    unfold State.echo
    split <;> simp_all
  change execFabricAcknowledgement op false s = _
  rw [execFabricAcknowledgement, op_of_one one]
  dsimp only
  rw [unmarked, stale_of_fresh fresh, if_neg Bool.false_ne_true, if_neg waits, opResult_of_plain one last _ noDst noDray]

/-- A result that is not due when it becomes known stands among those that the strand is owed. -/
theorem resolve_owes (rising : Rising s.strands) {sid seq due : Nat} {d : Dst} {q : Pend} (v : Word) (mem : q ∈ (s.strand sid).pend)
    (seq_ : q.seq = seq) (dst : q.dst = d) (open_ : q.due = none) (later : s.lcy sid < due) :
    { q with val := some (v.setWidth 65536), mask := BitVec.allOnes 65536, due := some due } ∈ ((s.resolve sid seq d v due).strand sid).pend := by
  let w : Wide := v.setWidth 65536
  have delivered : (s.deliver sid seq d w (BitVec.allOnes 65536) due).strand sid = { s.strand sid with
      pend := (s.strand sid).pend.map fun p => if p.seq = seq ∧ p.dst = d ∧ p.due = none then
        { p with val := some w, mask := BitVec.allOnes 65536, due := some due } else p } := strand_setStrand_same rising sid _
  have lcy : (s.deliver sid seq d w (BitVec.allOnes 65536) due).lcy sid = s.lcy sid := by
    rw [State.lcy, State.clockOf, delivered]
    rfl
  have risen : Rising (s.deliver sid seq d w (BitVec.allOnes 65536) due).strands := rising_tput rising
  unfold State.resolve
  dsimp only
  rw [modStrand_eq, strand_setStrand_same risen, landAll_pend, lcy, delivered]
  refine List.mem_filter.mpr ⟨List.mem_map.mpr ⟨q, mem, if_pos ⟨seq_, dst, open_⟩⟩, ?_⟩
  simp [Pend.isDue, later]

theorem remoteReply_lands (canon : Canonical s) (one : s.ops = [(op, o)]) (last : o.left ≤ 1) (fresh : o.tgen = (s.vd o.vd).tgen)
    (alive : s.opAlive o = true) (early : s.lcy o.sid < o.earliest) {d : GReg} {n : Nat} {sg : Bool} (dst : o.dst = some (d, n, sg))
    (named : d ≠ 0) {q : Pend} (mem : q ∈ (s.strand o.sid).pend) (seq : q.seq = o.seq) (for_ : q.dst = .g d) (open_ : q.due = none)
    (value : Word) : Runs (.remoteReply op value) s fun t => t.ops = [] ∧ t.mem = s.mem ∧ t.spad = s.spad ∧
      ∃ due, { q with val := some ((FabOp.extend n sg value).setWidth 65536), mask := BitVec.allOnes 65536, due := some due } ∈
        (t.strand o.sid).pend := by
  have run : exec (.remoteReply op value) s = .next ((s.opOver op o (some value)).resolve o.sid o.seq (.g d) (FabOp.extend n sg value)
      (Nat.max o.earliest (s.nextTurn o.sid))) := by
    change execRemoteReply op value s = _
    rw [execRemoteReply, op_of_one one]
    dsimp only
    rw [stale_of_fresh fresh, if_neg Bool.false_ne_true, opResult_of_one one last, dst]
    dsimp only
    rw [if_pos ⟨named, alive⟩]
    rfl
  obtain ⟨drays, ended⟩ := opOver_leaves s op o (some value)
  rw [ended] at run
  exact ⟨_, run, rfl, rfl, rfl, _, resolve_owes (s := { s with ops := [], drays := drays }) canon.rstrands _ mem seq for_ open_
    (Nat.lt_of_lt_of_le early (Nat.le_max_left ..))⟩

/-! ## Failures (R256) -/

/-- What a failed operation leaves: it is over, and its ticket register's PEERERR bit is set. -/
def State.FailsAs (s : State) (o : FabOp) (t : State) : Prop :=
  t.ops = [] ∧ t.mem = s.mem ∧ t.spad = s.spad ∧ (∀ k, k ≠ o.sid → t.strand k = s.strand k) ∧
    t.strand o.sid = { s.strand o.sid with peererr := (s.strand o.sid).peererr ||| BitVec.ofNat 16 (2 ^ o.tkr) }

/-- Setting the PEERERR bit changes one register of one strand. -/
theorem peerErr_eq (noDray : o.dray = none) (alive : s.opAlive o = true) : s.peerErr o =
    s.setStrand o.sid { s.strand o.sid with peererr := (s.strand o.sid).peererr ||| BitVec.ofNat 16 (2 ^ o.tkr) } := by
  rw [State.peerErr, noDray, alive]
  rfl

theorem failsAs_of_peerErr {u t : State} (rising : Rising s.strands) (strands : u.strands = s.strands) (mem : t.mem = s.mem)
    (spad : t.spad = s.spad) (none_ : t.ops = []) (same : t.strands = (u.setStrand o.sid { u.strand o.sid with
      peererr := (u.strand o.sid).peererr ||| BitVec.ofNat 16 (2 ^ o.tkr) }).strands) : s.FailsAs o t := by
  have here (k : Nat) : u.strand k = s.strand k := by rw [State.strand, strands]; rfl
  have strand (k : Nat) := strand_setStrand u o.sid k { u.strand o.sid with
    peererr := (u.strand o.sid).peererr ||| BitVec.ofNat 16 (2 ^ o.tkr) } (strands ▸ rising)
  have eq (k : Nat) : t.strand k = _ := (congrArg (tget ({} : Strand) k) same).trans (strand k)
  refine ⟨none_, mem, spad, fun k other => (eq k).trans ((if_neg other).trans (here k)), (eq o.sid).trans ((if_pos rfl).trans ?_)⟩
  rw [here]

theorem discardNotice_fails (canon : Canonical s) (one : s.ops = [(op, o)]) (last : o.left ≤ 1) (fresh : o.tgen = (s.vd o.vd).tgen)
    (noDst : o.dst = none) (noDray : o.dray = none) (alive : s.opAlive o = true) : Runs (.discardNotice op) s (s.FailsAs o) := by
  have run : exec (.discardNotice op) s = .next (((s.peerErr o).perf o.sid 12 1).opResult op none) := by
    change execDiscardNotice op s = _
    rw [execDiscardNotice, op_of_one one]
    dsimp only
    rw [stale_of_fresh fresh, if_neg Bool.false_ne_true, noDray]
    rfl
  rw [peerErr_eq noDray alive, opResult_of_plain (by exact one) last none noDst noDray] at run
  exact ⟨_, run, failsAs_of_peerErr (u := s) canon.rstrands rfl rfl rfl rfl rfl⟩

/-- An operation past its bound fails, and none of its packets is left. -/
theorem fabricTimeout_fails (canon : Canonical s) (one : s.ops = [(op, o)]) (noDst : o.dst = none) (noDray : o.dray = none)
    (alive : s.opAlive o = true) : Runs (.fabricTimeout op) s fun t => s.FailsAs o t ∧ ∀ e ∈ t.packets, e.2.src = none → e.2.op ≠ op := by
  let left : State := { s with
    packets := s.packets.filter fun p => p.2.src.isSome || decide (p.2.op ≠ op), ops := bind op { o with left := 1 } s.ops }
  let part := if isCoach (coreOf o.sid) then none else some (s.vd o.vd).part
  have run : exec (.fabricTimeout op) s = .next (((left.countDiscard part).peerErr o).opResult op none) := by
    change execFabricTimeout op s = _
    rw [execFabricTimeout, op_of_one one]
    rfl
  have counted : (left.countDiscard part).uninterrupted = left.uninterrupted := countErr_uninterrupted ..
  have strands : (left.countDiscard part).strands = s.strands := (congrArg State.strands counted :)
  have ops : (left.countDiscard part).ops = [(op, { o with left := 1 })] := by
    refine (congrArg State.ops counted :).trans ?_
    change bind op { o with left := 1 } s.ops = _
    rw [one, bind, if_pos rfl]
  have living : (left.countDiscard part).opAlive o = true := by
    rw [State.opAlive, State.strand, strands]
    exact alive
  have packets : (left.countDiscard part).packets = left.packets := (congrArg State.packets counted :)
  have mem : (left.countDiscard part).mem = s.mem := (congrArg State.mem counted :)
  have spad : (left.countDiscard part).spad = s.spad := (congrArg State.spad counted :)
  generalize left.countDiscard part = u at *
  rw [peerErr_eq noDray living, opResult_of_plain (o := { o with left := 1 }) (by exact ops) le_rfl none noDst noDray] at run
  refine ⟨_, run, failsAs_of_peerErr (u := u) canon.rstrands strands mem spad rfl rfl, fun e kept home => ?_⟩
  have kept : e ∈ left.packets := packets ▸ kept
  have passes := (List.mem_filter.mp kept).2
  rw [home] at passes
  exact of_decide_eq_true passes

/-! ## Outcomes of an older tenant generation (R374) -/

theorem outcome_of_older (one : s.ops = [(op, o)]) (last : o.left ≤ 1) (older : ¬ o.tgen = (s.vd o.vd).tgen) (noDst : o.dst = none)
    (value : Word) : ∀ i ∈ [Instr.fabricAcknowledgement op false, .remoteReply op value, .discardNotice op],
      Runs i s fun t => t.ops = [] ∧ t.strands = s.strands ∧ t.pkg.errs.discard = sat32 s.pkg.errs.discard := by
  have run : ∀ i ∈ [Instr.fabricAcknowledgement op false, .remoteReply op value, .discardNotice op],
      exec i s = .next ((s.countDiscard (some (s.vd o.vd).part)).opResult op none) := by
    have unmarked : s.echo op o false = s := by
      unfold State.echo
      split <;> simp_all
    simp only [List.forall_mem_cons]
    refine ⟨?_, ?_, ?_, fun _ none_ => nomatch none_⟩
    · change execFabricAcknowledgement op false s = _
      rw [execFabricAcknowledgement, op_of_one one]
      dsimp only
      rw [unmarked, if_pos (stale_of_older older)]
    · change execRemoteReply op value s = _
      rw [execRemoteReply, op_of_one one]
      exact congrArg Host.Outcome.next (if_pos (stale_of_older older))
    · change execDiscardNotice op s = _
      rw [execDiscardNotice, op_of_one one]
      exact congrArg Host.Outcome.next (if_pos (stale_of_older older))
  have over_ := opResult_of_bare (s := s.countDiscard (some (s.vd o.vd).part)) (by exact one) last none noDst
  obtain ⟨drays, ended⟩ := opOver_leaves (s.countDiscard (some (s.vd o.vd).part)) op o none
  rw [over_, ended] at run
  exact fun i mem => ⟨_, run i mem, rfl, rfl, rfl⟩

/-! ## The rates (R257) -/

theorem rateUpdate_runs (k : Nat × Nat) (r : Rate) (mem : (k, r) ∈ s.rates) : Runs .rateUpdate s fun t => t.strands = s.strands ∧ t.mem = s.mem ∧
    ∃ w, (k, w) ∈ t.rates ∧ w.marked = false ∧ w.rate = if (s.part k.1).share = 0 then 0
      else if r.marked then Nat.max 1 (r.rate - ceilDiv r.rate 8)
      else Nat.min (s.part k.1).share (r.rate + Nat.max 1 ((s.part k.1).share / 64)) := by
  refine ⟨_, rfl, rfl, rfl, ?_⟩
  by_cases none_ : (s.part k.1).share = 0
  · exact ⟨{ r with rate := 0, marked := false }, List.mem_map.mpr ⟨(k, r), mem, if_pos none_⟩, rfl, (if_pos none_).symm⟩
  · exact ⟨_, List.mem_map.mpr ⟨(k, r), mem, if_neg none_⟩, rfl, (if_neg none_).symm⟩

end

/-- Settles O49. -/
theorem operationEvents : Obligations.OperationEvents := by
  intro s op o value canon one last x fresh
  refine ⟨fun young noDst noDray whole => fabricAcknowledgement_ends one last young noDst noDray whole,
    fun young alive early d n sg q dst named mem seq for_ open_ =>
      remoteReply_lands canon one last young alive early dst named mem seq for_ open_ value,
    fun noDst noDray alive => ⟨fun young => discardNotice_fails canon one last young noDst noDray alive,
      fabricTimeout_fails canon one noDst noDray alive⟩,
    fun older noDst => outcome_of_older one last older noDst value, rateUpdate_runs⟩

end Sys2Proof.Machine
end

section
/-! Proof of the statement on the COUNT words and their effects (O39), from the laws of what a word answers its strand. -/
namespace Sys2Proof.Machine
open Sys2Proof.Claims

section
variable {s : State} {d a : GReg} {gd : Guard} {level : Nat} (free : s.scored s.cur.sid = false)
  (ready : s.Ready { level := level, gd := gd, src := [.g a], dst := [.g d], outward := true })
include free ready

/-- R341: a COUNT word of a free strand that meets no check is its effect. -/
theorem countWord_ready (k : State → Res) : countWord level d a gd s k = finish s (k s) := by
  rw [countWord, word_ready ready, freeOnly, if_neg (Bool.eq_false_iff.mp free)]

end

/-- The effect is owed 16 cycles on, and its result two turns after issue (R341). -/
theorem oweEffect_eq {s : State} (rising : Rising s.strands) (d : GReg) (prio : Nat) (e : Effect) : s.oweEffect d prio e =
    (if d = 0 then s else s.promise (.g d) false).owe none (s.pkg.ency + 16) prio
      (.effect e ⟨s.cur.sid, s.seqNo, d, s.turn + 32⟩) := by
  have promises := promise_answers rising d
  unfold State.oweEffect
  dsimp only
  generalize (if d = 0 then s else s.promise (.g d) false) = u at promises
  rw [State.after, promises.cur, promises.seqNo rfl, promises.turn rfl, promises.pkg]

theorem effects_of_exec {s : State} {i : Instr} {d : GReg} {prio : Nat} {e : Effect} (rising : Rising s.strands)
    (run : exec i s = finish s (.ok (s.oweEffect d prio e))) : Effects i s d prio e := by
  rw [Effects, Does, run, finish_ok, oweEffect_eq rising]

/-! ## The words -/

section
variable {s : State} {d a : GReg} {n : CnReg} {gd : Guard} (canon : Canonical s) (free : s.scored s.cur.sid = false)
  (ready : s.Ready { gd := gd, src := [.g a], dst := [.g d], outward := true })

theorem bits_upper_eq (w : Word) : bits w 3 61 = w.toNat / 8 := by
  have small := w.isLt
  rw [bits, field]
  omega

theorem bits_high_eq (w : Word) : bits w 32 32 = w.toNat / 2 ^ 32 := by
  have small := w.isLt
  rw [bits, field]
  omega

/-- A strand parked. -/
def Strand.parking (x : Strand) (p : Park) : Strand := { x with slot := .parked p }

/-- The wake of a wait with a limit is owed at the limit. -/
def State.oweLimit (s : State) (sid : Nat) (expiry : Option Nat) : State :=
  match expiry with
  | some x => s.owe (some (s.clockOf sid)) x prioCwait (.cwaitWake sid)
  | none => s

theorem oweLimit_answers {t : State} {x : Strand} (h : Answers s t x) (sid : Nat) (expiry : Option Nat) :
    Answers s (t.oweLimit sid expiry) x := by
  cases expiry with
  | none => exact h
  | some e => exact h.owe ..

theorem Answers.clockOf {t : State} {x : Strand} (h : Answers s t x) (same : x.launch = s.me.launch) :
    t.clockOf s.cur.sid = s.clockOf s.cur.sid := by
  have me : t.strand s.cur.sid = x := h.cur ▸ h.me
  rw [State.clockOf, me, same]
  rfl

section
include canon free ready

theorem carr_effects (drained : s.fenceDone s.cur.sid s.seqNo .partition 63 = true) :
    Effects (.carr d a n gd) s d (prioCarr (16 * (s.core (coreOf s.cur.sid)).logical + slotOf s.cur.sid))
      (.carr (s.countVdOf s.cur.sid) n (s.rg a)) := by
  refine effects_of_exec canon.rstrands ?_
  change countWord 0 d a gd s _ = _
  rw [countWord_ready free ready]
  dsimp only
  rw [drained]
  rfl

theorem cset_effects (small : (s.rg a).toNat < 8) : Effects (.cset d a n gd) s d prioCset (.cset (s.countVdOf s.cur.sid) n (s.rg a)) := by
  refine effects_of_exec canon.rstrands ?_
  change countWord 0 d a gd s _ = _
  rw [countWord_ready free ready]
  rw [bits_upper_eq, if_neg (by omega)]

theorem cancel_effects {k : Nat} (sound : cancelBad s.me.priv (s.rg a) = false) (named : s.cancelVd s.cur.sid (s.rg a) = some k) :
    Effects (.cancel d a gd) s d prioCancel (.cancel k (s.rg a)) := by
  refine effects_of_exec canon.rstrands ?_
  change countWord 0 d a gd s _ = _
  rw [countWord_ready free ready]
  rw [sound, if_neg Bool.false_ne_true, named]

/-- R342: a counter that is not reached parks the strand, until its limit where it has one. -/
theorem cwait_parks (short : ((s.vd (s.countVdOf s.cur.sid)).counter n).reached ((s.rg a).toNat % 2 ^ 32) = false) :
    let lm := (s.rg a).toNat / 2 ^ 32
    ∃ u, exec (.cwait d a n gd) s = .next u ∧ u.last = .done ∧
      u.me.slot = .parked (.cwait (s.countVdOf s.cur.sid) n ((s.rg a).toNat % 2 ^ 32)
        (if lm = 2 ^ 32 - 1 then none else some (s.turn + lm)) d s.turn) ∧ Promised s u d ∧ Quiet s u ∧
      (lm < 2 ^ 32 - 1 → (⟨some (s.clockOf s.cur.sid), s.turn + lm, prioCwait⟩, Event.cwaitWake s.cur.sid) ∈ u.agenda) := by
  intro lm
  let expiry := if lm = 2 ^ 32 - 1 then none else some (s.turn + lm)
  let park : Park := .cwait (s.countVdOf s.cur.sid) n ((s.rg a).toNat % 2 ^ 32) expiry d s.turn
  have promises := promise_answers canon.rstrands d
  obtain ⟨u, promised⟩ : ∃ u, (if d = 0 then s else s.promise (.g d) false) = u := ⟨_, rfl⟩
  rw [promised] at promises
  have turn := promises.turn rfl
  have run : exec (.cwait d a n gd) s = finish s (.ok ((u.modMe (·.parking park)).oweLimit s.cur.sid expiry)) := by
    change countWord 0 d a gd s _ = _
    rw [countWord_ready free ready]
    dsimp only
    rw [bits_zero, bits_high_eq, short, promised, turn]
    rfl
  have parks := promises.trans (modMe_answers promises.rising (·.parking park))
  rw [promises.me] at parks
  have clock : (u.modMe (·.parking park)).clockOf s.cur.sid = s.clockOf s.cur.sid := parks.clockOf rfl
  generalize u.modMe (·.parking park) = w at run parks clock
  have owes := oweLimit_answers parks s.cur.sid expiry
  refine ⟨_, run, rfl, congrArg Strand.slot owes.me, congrArg Strand.pend owes.me, owes.quiet, fun limited => ?_⟩
  have limit : expiry = some (s.turn + lm) := if_neg (by omega)
  rw [limit, ← clock]
  exact mem_agenda_owe ..

end

section
include free ready

theorem carr_holds (open_ : s.fenceDone s.cur.sid s.seqNo .partition 63 = false) : Holds (.carr d a n gd) s := by
  rw [Holds]
  change countWord 0 d a gd s _ = _
  rw [countWord_ready free ready]
  dsimp only
  rw [open_]
  rfl

theorem cset_refuses (large : 8 ≤ (s.rg a).toNat) : Does (.cset d a n gd) s (s.landG d (BitVec.ofNat 64 (2 ^ 63)) 2) := by
  rw [Does]
  change countWord 0 d a gd s _ = _
  rw [countWord_ready free ready]
  rw [bits_upper_eq, if_pos (by omega)]
  rfl

theorem cwait_lands (reached : ((s.vd (s.countVdOf s.cur.sid)).counter n).reached ((s.rg a).toNat % 2 ^ 32) = true) :
    Does (.cwait d a n gd) s (s.landG d ((s.vd (s.countVdOf s.cur.sid)).counter n).word 2) := by
  rw [Does]
  change countWord 0 d a gd s _ = _
  rw [countWord_ready free ready]
  dsimp only
  rw [bits_zero, reached]
  rfl

theorem cancel_refuses (refused : cancelBad s.me.priv (s.rg a) = true ∨ s.cancelVd s.cur.sid (s.rg a) = none) :
    Does (.cancel d a gd) s (s.landG d 2 2) := by
  have none_ : (if cancelBad s.me.priv (s.rg a) = true then none else s.cancelVd s.cur.sid (s.rg a)) = none := by
    split
    · rfl
    · exact refused.resolve_left (by assumption)
  rw [Does]
  change countWord 0 d a gd s _ = _
  rw [countWord_ready free ready]
  rw [none_]
  rfl

end
end

theorem countWords : CountWords := by
  intro s d a n gd canon free sid v w use
  refine ⟨fun ready => ⟨carr_effects canon free ready, carr_holds free ready, cset_effects canon free ready, cset_refuses free ready, ?_,
    cancel_refuses free ready, fun k => cancel_effects canon free ready⟩, fun ready => ?_⟩
  · intro c t lm
    have test : c.reached t = true ↔ (c.done.toNat + c.canc.toNat + (2 ^ 32 - t)) % 2 ^ 32 < 2 ^ 31 := by
      rw [reached_iff, Nat.mod_mod]
    refine ⟨fun reached => cwait_lands free ready (test.mpr reached), fun short => cwait_parks canon free ready ?_⟩
    exact Bool.eq_false_iff.mpr fun reached => absurd (test.mp reached) (Nat.not_lt.mpr short)
  · refine effects_of_exec canon.rstrands ?_
    change countWord 1 d a gd s _ = _
    rw [countWord_ready free ready]

/-! ## The effects (R339, R341) -/

section
variable {s : State} (canon : Canonical s) (v : Nat) (n : CnReg) (c : Counter)
include canon

/-- What an effect on one counter leaves. -/
theorem counted_leaves :
    let t := (s.setCounter v n c).wakeCounter v n
    (t.vd v).counter n = c ∧ (∀ m, m ≠ n.val → m < 16 → (t.vd v).counter m = (s.vd v).counter m) ∧ (∀ w, w ≠ v → t.vd w = s.vd w) ∧
      t.uncounted = s.uncounted := by
  intro t
  have set : s.setCounter v n c = s.setVd v { s.vd v with cn := (s.vd v).cn.set n c n.isLt } := by
    rw [State.setCounter, dif_pos n.isLt, modVd_eq]
  have vds : t.vds = (s.setCounter v n c).vds := by
    refine foldl_keeps State.vds (fun u e => ?_) _ _
    split
    · split <;> rfl
    · rfl
  have vd (k : Nat) : t.vd k = if k = v then { s.vd v with cn := (s.vd v).cn.set n c n.isLt } else s.vd k := by
    rw [State.vd, vds, set]
    exact vd_setVd s v k _ canon.rvds
  refine ⟨?_, fun m other small => ?_, fun w other => by rw [vd, if_neg other], ?_⟩
  · rw [vd, if_pos rfl, Vd.counter]
    simp
  · rw [vd, if_pos rfl, Vd.counter, Vd.counter]
    simp [small, Ne.symm other]
  · exact (wakeCounter_uncounted ..).trans (setCounter_uncounted ..)

/-- What an effect on one counter leaves once its result is known to its strand. -/
theorem counterEffect_leaves (r : Ret) (w : Word) :
    let t := ((s.setCounter v n c).wakeCounter v n).giveRet r w
    (t.vd v).counter n = c ∧ (∀ m, m ≠ n.val → m < 16 → (t.vd v).counter m = (s.vd v).counter m) ∧ (∀ k, k ≠ v → t.vd k = s.vd k) ∧
      t.mem = s.mem ∧ t.spad = s.spad ∧ (∀ k, k ≠ r.sid → t.strand k = s.strand k) ∧ t.launches = s.launches := by
  obtain ⟨here, others, vds, rest⟩ := counted_leaves canon v n c
  generalize (s.setCounter v n c).wakeCounter v n = u at *
  have strands := strands_of_uncounted rest
  have told : Confined r.sid u (u.giveRet r w) := by
    unfold State.giveRet
    split
    · exact (KeepsPart.refl (part := Strand.wait) u).toConfined
    · exact (deliver_keepsPart (part := Strand.wait) _ _ _ _ (fun _ _ => rfl) _ _).toConfined
  have vd (k : Nat) : (u.giveRet r w).vd k = u.vd k :=
    congrArg (tget ({} : Vd) k) (show (u.giveRet r w).beyond.vds = u.beyond.vds by rw [told.beyond])
  refine ⟨by rw [vd, here], fun m other small => by rw [vd, others m other small], fun k other => by rw [vd, vds k other],
    told.mem.trans (mem_of_uncounted rest), told.spad.trans ?_, fun k other => ?_, ?_⟩
  · exact show u.uncounted.spad = s.uncounted.spad by rw [rest]
  · refine (told.others (strands ▸ canon.rstrands) k other).trans ?_
    rw [State.strand, strands]
    rfl
  · have launches : (u.giveRet r w).launches = u.launches := (congrArg State.launches told.beyond :)
    exact launches.trans (launches_of_uncounted rest)

end

theorem counterEffects : CounterEffects := by
  intro s v n x r canon c frame
  refine ⟨⟨_, rfl, counterEffect_leaves canon v n { c with done := c.done + x.setWidth 32 } r c.word⟩, ?_⟩
  have set := counterEffect_leaves canon v n { level := x.toNat % 8 } r c.word
  refine ⟨_, ?_, set⟩
  change Host.Outcome.next (((s.setCounter v n { level := bits x 0 3 }).wakeCounter v n).giveRet r c.word) = _
  rw [bits_zero]
  rfl

/-- Settles O39. -/
theorem counters : Obligations.Counters := ⟨countWords, counterEffects⟩

end Sys2Proof.Machine
end

section
/-! Proof of the statement on XLAT, TLBINV and MIGSET (O40), from the laws of the privileged words and of the walk. -/
namespace Sys2Proof.Machine
open Sys2Proof.Claims

/-! ## What a walk and a shoot-down leave (R325, R329) -/

section
variable {s u : State}

theorem turn_of_fields {t : State} (cur : t.cur = s.cur) (launches : t.launches = s.launches) (launch : t.me.launch = s.me.launch) :
    t.turn = s.turn := by
  have same : t.clockOf t.cur.sid = s.clockOf s.cur.sid := by
    rw [State.clockOf, show (t.strand t.cur.sid).launch = (s.strand s.cur.sid).launch from launch, State.clockOf, cur]
  rw [State.turn, State.lcy, same, State.lcyL, State.launch, launches]
  rfl

section
variable {core v va : Nat} {r : Except TrapInfo TlbEntry} (walked : s.walk core v va = (u, r))
include walked

/-- Whatever is read of the state but its cores and picks stands after a walk as it was. -/
theorem walk_read {γ : Type} (part : State → γ) : part u.coreless = part s.coreless := by
  have kept := walk_coreless s core v va
  rw [walked] at kept
  exact congrArg part kept

theorem walk_me : u.me = s.me := walk_read walked State.me

theorem walk_turn : u.turn = s.turn := walk_read walked State.turn

end

/-- An update of every entry of a table keeps what it keeps of each. -/
theorem tget_map_keeps {α γ : Type} (d : α) (part : α → γ) (f : Nat × α → Nat × α) (key : ∀ e, (f e).1 = e.1)
    (kept : ∀ e, part (f e).2 = part e.2) (k : Nat) : (m : Sparse α) → part (tget d k (m.map f)) = part (tget d k m)
  | [] => rfl
  | (j, w) :: m => by
    have key' : (f (j, w)).1 = j := key (j, w)
    have kept' : part (f (j, w)).2 = part w := kept (j, w)
    rw [List.map_cons, tget, ← Prod.mk.eta (p := f (j, w)), key', tget]
    split
    · exact kept'
    · split
      · rfl
      · exact tget_map_keeps d part f key kept k m

/-- A shoot-down takes nothing of a strand but the translations held ahead for its streams. -/
theorem shootDown_strand (v : Nat) (vpn : Option Nat) (k : Nat) : dropStreams ((s.shootDown v vpn).strand k) = dropStreams (s.strand k) := by
  unfold State.shootDown
  refine tget_map_keeps _ dropStreams _ (fun e => ?_) (fun e => ?_) k s.strands
  · split <;> rfl
  · split <;> rfl

end

/-- Promises and results owed are told of what the words read of their strand. -/
theorem owed_of_same {s s' t : State} {d : GReg} {v : Word} {n : Nat} (pend : s'.me.pend = s.me.pend) (seq : s'.me.seq = s.me.seq)
    (turn : s'.turn = s.turn) (owed : Owed s' t d v n) : Owed s t d v n := by
  rw [Owed, pend, turn, show s'.seqNo = s.seqNo from seq] at owed
  exact owed

/-! ## XLAT (R330) -/

section
variable {s u : State} {d a b : GReg} (free : s.scored s.cur.sid = false)
  (ready : s.Ready { level := 1, src := [.g a, .g b], dst := [.g d], outward := true })

theorem bits_flag (w : Word) : (bits w 8 1 == 1) = w.getLsbD 8 := by
  rw [bits, field, BitVec.getLsbD, Nat.testBit_eq_decide_div_mod_eq]
  rfl

theorem bits_rest_eq_zero {w : Word} (small : w.toNat < 512) : bits w 9 55 = 0 := by
  rw [bits, field, Nat.div_eq_of_lt (lt_of_lt_of_eq small (by decide))]
  rfl

/-- A result 4 turns on, the strand issuing nothing until then. -/
def State.waitFour (s t : State) : State := t.modMe fun x => { x with wait := some (.until (s.turn + 64)) }

section
variable {kind : Option Right}
include free ready

theorem xlatOp_refuses (foreign : s.mayName ((s.rg b).toNat % 256) = false) :
    xlatOp kind d a b s = .next (raise s s { cause := 4, eval := s.cur.raw.setWidth 64 }) := by
  rw [xlatOp, privWord_ready ready free]
  dsimp only
  rw [bits_zero, show s.mayName ((s.rg b).toNat % 2 ^ 8) = false from foreign]
  rfl

variable (named : s.mayName ((s.rg b).toNat % 256) = true) (small : (s.rg b).toNat < 512) (vd : (s.rg b).toNat % 256 < 192)
include named small vd

theorem xlatOp_answers {w : Word} (answer : s.xlat ((s.rg b).toNat % 256) (s.rg a).toNat ((s.rg b).getLsbD 8) kind = (u, w))
    (turn : u.turn = s.turn) : xlatOp kind d a b s = .next { s.waitFour (u.landG d w 4) with last := .done } := by
  rw [xlatOp, privWord_ready ready free]
  dsimp only
  rw [bits_zero, bits_flag, show s.mayName ((s.rg b).toNat % 2 ^ 8) = true from named, bits_rest_eq_zero small, if_neg (by simp), if_neg (by omega),
    show s.xlat ((s.rg b).toNat % 2 ^ 8) _ _ kind = (u, w) from answer]
  dsimp only
  rw [finish_ok, State.landWait, turn, State.waitFour]

end

theorem xlat_of_leaf {v va : Nat} {program : Bool} {e : TlbEntry} (kind : Option Right) (low : va < 2 ^ 57)
    (walked : s.walk (coreOf s.cur.sid) v va = (u, .ok e)) : s.xlat v va program kind =
      (u, match kind.bind fun r => checkLeaf e.attr program r va with
        | some t => BitVec.ofNat 64 (2 ^ 63 + 2 ^ 8 * t.detail + 2 ^ 13 * t.level)
        | none => xlatWord e va) := by
  rw [State.xlat, if_neg (Nat.not_le.mpr low), walked]
  dsimp only
  cases kind.bind fun r => checkLeaf e.attr program r va <;> rfl

theorem xlat_of_fault {v va : Nat} {program : Bool} {t : TrapInfo} (kind : Option Right) (low : va < 2 ^ 57)
    (walked : s.walk (coreOf s.cur.sid) v va = (u, .error t)) (sound : t.cause ≠ 10) : s.xlat v va program kind =
      (u, BitVec.ofNat 64 (2 ^ 63 + 2 ^ 8 * t.detail + 2 ^ 13 * t.level)) := by
  rw [State.xlat, if_neg (Nat.not_le.mpr low), walked]
  dsimp only
  rw [if_neg sound]
  rfl

end

/-! ## TLBINV (R328, R329) -/

section
variable {s : State} {d b : GReg} {page : Option GReg} (free : s.scored s.cur.sid = false)
  (ready : s.Ready { level := 1, src := (match page with | some a => [.g a] | none => []) ++ [.g b], dst := [.g d], outward := true })
include free ready

theorem tlbinv_refuses (foreign : s.mayName ((s.rg b).toNat % 256) = false) :
    tlbinv d b page s = .next (raise s s { cause := 4, eval := s.cur.raw.setWidth 64 }) := by
  refine (privWord_ready ready free).trans ?_
  dsimp only
  rw [bits_zero, show s.mayName ((s.rg b).toNat % 2 ^ 8) = false from foreign]
  rfl

variable (named : s.mayName ((s.rg b).toNat % 256) = true) (small : (s.rg b).toNat < 512) (vd : (s.rg b).toNat % 256 < 192)
  (low : (page.map fun a => (s.rg a).toNat).any (fun x => decide (x ≥ 2 ^ 57)) = false) (rising : Rising s.strands)
include named small vd low rising

theorem tlbinv_begins (loose : (page.map fun a => (s.rg a).toNat).any (s.pinned ((s.rg b).toNat % 256)) = false) :
    ∃ t, tlbinv d b page s = .next t ∧ t.last = .done ∧ t.me.wait = some (.tlbinv ((s.rg b).toNat % 256)
      (page.map fun a => (s.rg a).toNat / 4096) none d s.seqNo s.turn) ∧ Promised s t d ∧ Quiet s t := by
  let wait : Wait := .tlbinv ((s.rg b).toNat % 256) (page.map fun a => (s.rg a).toNat / 4096) none d s.seqNo s.turn
  have promises := promise_answers rising d
  obtain ⟨u, promised⟩ : ∃ u, (if d = 0 then s else s.promise (.g d) false) = u := ⟨_, rfl⟩
  rw [promised] at promises
  have run : tlbinv d b page s = .next { u.modMe (·.awaiting wait) with last := .done } := by
    refine (privWord_ready ready free).trans ?_
    dsimp only
    rw [bits_zero, show s.mayName ((s.rg b).toNat % 2 ^ 8) = true from named, bits_rest_eq_zero small, low,
      show Option.any (s.pinned ((s.rg b).toNat % 2 ^ 8)) _ = false from loose, promised, promises.seqNo rfl, promises.turn rfl,
      if_neg (by simp), if_neg (by simpa using vd), if_neg (by simp), Option.map_map]
    rfl
  have waits := promises.trans (modMe_answers promises.rising (·.awaiting wait))
  rw [promises.me] at waits
  exact ⟨_, run, rfl, congrArg Strand.wait waits.me, congrArg Strand.pend waits.me, waits.quiet⟩

/-- R329: a page that an admitted launch pins is not invalidated. -/
theorem tlbinv_pinned (pinned : (page.map fun a => (s.rg a).toNat).any (s.pinned ((s.rg b).toNat % 256)) = true) :
    ∃ t, tlbinv d b page s = .next t ∧ t.last = .done ∧ Owed s t d (BitVec.ofNat 64 (2 ^ 63 + 2)) 2 ∧ Quiet s t := by
  have run : tlbinv d b page s = .next { s.landWait d (errorWord 2) 2 with last := .done } := by
    refine (privWord_ready ready free).trans ?_
    dsimp only
    rw [bits_zero, show s.mayName ((s.rg b).toNat % 2 ^ 8) = true from named, bits_rest_eq_zero small, low,
      show Option.any (s.pinned ((s.rg b).toNat % 2 ^ 8)) _ = true from pinned,
      if_neg (by simp), if_neg (by simpa using vd), if_pos rfl]
    rfl
  have lands := landWait_answers rising d (errorWord 2) 2
  exact ⟨_, run, rfl, congrArg Strand.pend lands.me, lands.quiet⟩

end

/-- The words of XLAT, each with the access that it checks. -/
theorem exec_xlat (s : State) (d a b : GReg) : exec (.xlatRead d a b) s = xlatOp (some .read) d a b s ∧
    exec (.xlatWrite d a b) s = xlatOp (some .write) d a b s ∧ exec (.xlatFetch d a b) s = xlatOp (some .exec) d a b s ∧
    exec (.xlatProbe d a b) s = xlatOp none d a b s ∧ exec (.tlbinvPage d a b) s = tlbinv d b (some a) s :=
  ⟨rfl, rfl, rfl, rfl, rfl⟩

theorem translationWords : TranslationWords := by
  intro s u d a b canon free va w v named waits
  obtain ⟨read, write, fetch, probe, page⟩ := exec_xlat s d a b
  refine ⟨fun ready => ⟨fun foreign => ?_, fun mine small vd low => ⟨fun e walked => ⟨?_, ?_⟩, fun t walked sound => ?_, fun loose => ?_,
    fun pinned => ?_⟩⟩, fun ready mine small vd => ?_⟩
  · have refused (kind : Option Right) := xlatOp_refuses free ready (kind := kind) foreign
    simp only [List.forall_mem_cons, Traps]
    exact ⟨read.trans (refused _), write.trans (refused _), fetch.trans (refused _), probe.trans (refused _),
      page.trans (tlbinv_refuses free ready foreign), fun _ none_ => nomatch none_⟩
  · rw [Does, probe]
    exact xlatOp_answers (w := xlatWord e va) free ready mine small vd (xlat_of_leaf none low walked) (walk_turn walked)
  · have answers (r : Right) := xlatOp_answers free ready mine small vd (xlat_of_leaf (some r) low walked) (walk_turn walked)
    simp only [List.forall_mem_cons, Does]
    rw [read, write, fetch]
    exact ⟨answers .read, answers .write, answers .exec, fun _ none_ => nomatch none_⟩
  · have answers (kind : Option Right) := xlatOp_answers free ready mine small vd (xlat_of_fault kind low walked sound) (walk_turn walked)
    simp only [List.forall_mem_cons, Does]
    rw [read, write, fetch, probe]
    exact ⟨answers _, answers _, answers _, answers _, fun _ none_ => nomatch none_⟩
  · exact tlbinv_begins (page := some a) free ready mine small vd (decide_eq_false (Nat.not_le.mpr low)) canon.rstrands loose
  · exact tlbinv_pinned (page := some a) free ready mine small vd (decide_eq_false (Nat.not_le.mpr low)) canon.rstrands pinned
  · exact tlbinv_begins (page := none) free ready mine small vd rfl canon.rstrands rfl

/-! ## MIGSET (R331, R332) -/

section
variable {s u : State} {d a b : GReg} {new v n i : Nat} {e : TlbEntry}

/-- The state in which a migration's command enters its Dray: the new frame takes the page, and what covered the page is gone. -/
def State.migrating (s : State) (new v vpn i old n : Nat) : State :=
  ((s.setFrame new { s.frame new with migdst := true }).shootDown v (some vpn)).setMig i
    { state := 1, vd := v, vpn := vpn, old := old, new := new, dray := n, seq := (s.dray n).nextSeq }

/-- What a shoot-down leaves beside its VD, the cores and what the strands hold ahead. -/
def State.unshot (s : State) : State := { s with vds := [], cores := [], strands := [] }

theorem shootDown_unshot (s : State) (v : Nat) (vpn : Option Nat) : (s.shootDown v vpn).unshot = s.unshot := rfl

/-- What a migration that begins leaves to its command. -/
structure Migrates (s t : State) (new i : Nat) (m : MigSlot) : Prop where
  canon : Canonical t
  slot : t.migSlot i = m
  frame : (t.frame new).migdst = true
  drays : t.drays = s.drays
  mem : t.mem = s.mem
  spad : t.spad = s.spad
  cur : t.cur = s.cur
  launches : t.launches = s.launches
  strand : dropStreams t.me = dropStreams s.me

theorem migrating_migrates (canon : Canonical s) (vpn old : Nat) : Migrates s (s.migrating new v vpn i old n) new i
    { state := 1, vd := v, vpn := vpn, old := old, new := new, dray := n, seq := (s.dray n).nextSeq } := by
  have framed := State.setFrame_canon s new { s.frame new with migdst := true } canon
  have frame := congrArg Frame.migdst ((frame_setFrame s new new { s.frame new with migdst := true } canon.rframes).trans (if_pos rfl))
  have strand := shootDown_strand (s := s.setFrame new { s.frame new with migdst := true }) v (some vpn) s.cur.sid
  have shot := shootDown_unshot (s.setFrame new { s.frame new with migdst := true }) v (some vpn)
  have canon' := State.shootDown_canon _ v (some vpn) framed
  unfold State.migrating
  generalize (s.setFrame new { s.frame new with migdst := true }).shootDown v (some vpn) = u at *
  have cur : u.cur = s.cur := (congrArg State.cur shot :)
  have same : (u.strand s.cur.sid) = u.me := by rw [State.me, cur]
  rw [same] at strand
  exact ⟨State.setMig_canon _ _ _ canon', (migSlot_setMig _ i i _ canon'.rmig).trans (if_pos rfl),
    (congrArg (fun w : State => (w.frame new).migdst) shot :).trans frame, (congrArg State.drays shot :), (congrArg State.mem shot :),
    (congrArg State.spad shot :), cur, (congrArg State.launches shot :), strand⟩

/-- A command that enters a queue leaves the frames and the migration table. -/
theorem drayEnqueue_tables (rising : Rising s.strands) (n : Nat) (c : DrayCmd) (d : GReg) :
    (s.drayEnqueue n c d).mig = s.mig ∧ (s.drayEnqueue n c d).frames = s.frames := by
  have mig : (s.setDray n ((s.dray n).taking c)).mig = s.mig := rfl
  have frames : (s.setDray n ((s.dray n).taking c)).frames = s.frames := rfl
  have risen : Rising (s.setDray n ((s.dray n).taking c)).strands := rising
  rw [drayEnqueue_eq, ← mig, ← frames]
  generalize s.setDray n ((s.dray n).taking c) = u at risen ⊢
  have kicked := kickDray_answers risen n 0
  have freed := kicked.trans (modMe_answers kicked.rising fun x => { x with dqSince := none })
  have landed := freed.trans (landG_answers freed.rising d (BitVec.ofNat 64 (commandId n (s.dray n).nextSeq)) 2)
  exact ⟨landed.read State.mig, landed.read State.frames⟩

section
variable (free : s.scored s.cur.sid = false)
  (ready : s.Ready { level := 1, src := [.g a, .g b], dst := [.g d], outward := true })
  (named : s.mayName ((s.rg b).toNat / 2 ^ 40 % 256) = true) (even : (s.rg a).toNat % 4096 = 0) (low : (s.rg a).toNat < 2 ^ 57)
  (small : (s.rg b).toNat < 2 ^ 54) (vd : (s.rg b).toNat / 2 ^ 40 % 256 < 192)
include free ready named even low small vd

/-- A MIGSET whose operands are sound is judged by its Dray and then by its page. -/
theorem migset_judged : exec (.migset d a b) s = finish s (
    let va := (s.rg a).toNat
    let new := (s.rg b).toNat % 2 ^ 40
    let v := (s.rg b).toNat / 2 ^ 40 % 256
    let n := (s.rg b).toNat / 2 ^ 48 % 64
    let refuse (s : State) (err : Nat) : Res := .ok (s.landG d (drayRefused err) 2)
    let enqueue (s : State) (slot : Nat) (m : MigSlot) : Res :=
      let c := s.migCommand slot v n
      .ok ((s.setMig slot { m with state := 1, dray := n, seq := c.seq }).drayEnqueue n c d)
    if !s.holdsDray s.cur.sid n then refuse s 2
    else if (s.dray n).cmds.length ≥ 64 ∨ ((s.stalledSlot v (va / 4096) new).isNone ∧ s.freeSlot.isNone) then refuse s 3
    else match s.walk (coreOf s.cur.sid) v va with
      | (s, .error t) => refuse (if t.cause = 10 then s.chargeLine v t.detail else s) 4
      | (s, .ok e) =>
        if e.pages ≠ 1 ∨ (s.frame e.pfn).pins ≠ 0 ∨ (s.ckpt.remap.any fun r => r.unit == e.pfn / 16) = true then refuse s 4
        else match s.stalledSlot v (va / 4096) new with
          | some (i, m) => enqueue s i m
          | none =>
            let f := s.frame new
            if !f.assigned ∨ f.owner ≠ v ∨ !f.fresh ∨ (s.migOf v (va / 4096)).isSome then refuse s 4
            else match s.freeSlot with
              | some i =>
                let s := (s.setFrame new { f with migdst := true }).shootDown v (some (va / 4096))
                enqueue s i { vd := v, vpn := va / 4096, old := e.pfn, new := new }
              | none => refuse s 3) := by
  have vd' : bits (s.rg b) 40 8 = (s.rg b).toNat / 2 ^ 40 % 256 := rfl
  have n' : bits (s.rg b) 48 6 = (s.rg b).toNat / 2 ^ 48 % 64 := rfl
  have rest : bits (s.rg b) 54 10 = 0 := by rw [bits, field, Nat.div_eq_of_lt small]; rfl
  refine (privWord_ready ready free).trans ?_
  dsimp only
  rw [vd', n', rest, bits_zero, named, if_neg (by simp), if_neg (by omega)] <;> rfl

theorem migset_unheld (foreign : s.holdsDray s.cur.sid ((s.rg b).toNat / 2 ^ 48 % 64) = false) :
    Does (.migset d a b) s (s.landG d (BitVec.ofNat 64 (2 ^ 63 + 32)) 2) := by
  rw [Does, migset_judged free ready named even low small vd]
  dsimp only
  rw [foreign]
  rfl

theorem migset_full (held : s.holdsDray s.cur.sid ((s.rg b).toNat / 2 ^ 48 % 64) = true)
    (full : 64 ≤ (s.dray ((s.rg b).toNat / 2 ^ 48 % 64)).cmds.length) :
    Does (.migset d a b) s (s.landG d (BitVec.ofNat 64 (2 ^ 63 + 48)) 2) := by
  rw [Does, migset_judged free ready named even low small vd]
  dsimp only
  rw [held, if_neg (by simp), if_pos (.inl full)]
  rfl

/-- R331: a page that may move, whose new frame is fresh and the VD's, takes a free slot and a command. -/
theorem migset_moves (held : s.holdsDray s.cur.sid ((s.rg b).toNat / 2 ^ 48 % 64) = true)
    (room : (s.dray ((s.rg b).toNat / 2 ^ 48 % 64)).cmds.length < 64)
    (unstalled : s.stalledSlot ((s.rg b).toNat / 2 ^ 40 % 256) ((s.rg a).toNat / 4096) ((s.rg b).toNat % 2 ^ 40) = none)
    (slot : s.freeSlot = some i) (walked : s.walk (coreOf s.cur.sid) ((s.rg b).toNat / 2 ^ 40 % 256) (s.rg a).toNat = (u, .ok e))
    (one : e.pages = 1) (unpinned : (s.frame e.pfn).pins = 0) (undiverted : ∀ r ∈ s.ckpt.remap, r.unit ≠ e.pfn / 16)
    (assigned : (s.frame ((s.rg b).toNat % 2 ^ 40)).assigned = true)
    (owner : (s.frame ((s.rg b).toNat % 2 ^ 40)).owner = (s.rg b).toNat / 2 ^ 40 % 256)
    (fresh : (s.frame ((s.rg b).toNat % 2 ^ 40)).fresh = true)
    (still : s.migOf ((s.rg b).toNat / 2 ^ 40 % 256) ((s.rg a).toNat / 4096) = none) :
    ∃ c, exec (.migset d a b) s = .next { (u.migrating ((s.rg b).toNat % 2 ^ 40) ((s.rg b).toNat / 2 ^ 40 % 256) ((s.rg a).toNat / 4096) i
      e.pfn ((s.rg b).toNat / 2 ^ 48 % 64)).drayEnqueue ((s.rg b).toNat / 2 ^ 48 % 64) c d with last := .done } := by
  have judged := migset_judged free ready named even low small vd
  dsimp only at judged
  generalize (s.rg b).toNat / 2 ^ 48 % 64 = n at *
  generalize (s.rg b).toNat / 2 ^ 40 % 256 = v at *
  generalize (s.rg b).toNat % 2 ^ 40 = new at *
  have unstalled' : u.stalledSlot v ((s.rg a).toNat / 4096) new = none :=
    (walk_read walked (·.stalledSlot v ((s.rg a).toNat / 4096) new)).trans unstalled
  have slot' : u.freeSlot = some i := (walk_read walked State.freeSlot).trans slot
  have unpinned' : (u.frame e.pfn).pins = 0 := (walk_read walked fun t => (t.frame e.pfn).pins).trans unpinned
  have undiverted' : (u.ckpt.remap.any fun r => r.unit == e.pfn / 16) = false := by
    rw [show u.ckpt = s.ckpt from walk_read walked State.ckpt]
    exact List.any_eq_false.mpr fun r mem => by simpa using undiverted r mem
  have frame : u.frame new = s.frame new := walk_read walked (·.frame new)
  have still' : u.migOf v ((s.rg a).toNat / 4096) = none := (walk_read walked (·.migOf v ((s.rg a).toNat / 4096))).trans still
  rw [held, if_neg (by simp), if_neg (by simp [slot, Nat.not_le.mpr room]), walked] at judged
  dsimp only at judged
  rw [if_neg (by simp [one, unpinned', undiverted']), unstalled'] at judged
  dsimp only at judged
  rw [if_neg (by simp [frame, assigned, owner, fresh, still']), slot'] at judged
  exact ⟨_, judged⟩

end
end

theorem migrationWord : MigrationWord := by
  intro s u d a b e i canon free ready va w new v n named even low small vd
  refine ⟨migset_unheld free ready named even low small vd, migset_full free ready named even low small vd,
    fun held room unstalled slot walked one unpinned undiverted assigned owner fresh still => ?_⟩
  obtain ⟨c, run⟩ := migset_moves free ready named even low small vd held room unstalled slot walked one unpinned undiverted assigned owner
    fresh still
  have begins := migrating_migrates (new := new) (v := v) (n := n) (i := i) (State.walk_canon_fwd2 walked canon) (va / 4096) e.pfn
  have dray : u.dray n = s.dray n := walk_read walked (·.dray n)
  rw [dray] at begins
  have mem : u.mem = s.mem := walk_read walked State.mem
  have spad : u.spad = s.spad := walk_read walked State.spad
  have me := walk_me walked
  have turn := walk_turn walked
  have cur : u.cur = s.cur := walk_read walked State.cur
  generalize u.migrating new v (va / 4096) i e.pfn n = t at run begins
  have same : t.dray n = s.dray n := (congrArg (tget ({} : Dray) n) begins.drays).trans dray
  have entered := drayEnqueue_enters (d := d) begins.canon n c
  obtain ⟨mig, frames⟩ := drayEnqueue_tables begins.canon.rstrands n c d
  obtain ⟨cmds, -, -, owed, quiet, -, -⟩ := entered
  rw [same] at cmds owed
  refine ⟨_, run, rfl, ?_, ?_, ?_, quiet.1.trans (begins.mem.trans mem), quiet.2.1.trans (begins.spad.trans spad), ?_⟩
  · exact (congrArg (tget ({} : MigSlot) i) mig).trans begins.slot
  · exact (congrArg (fun m => (tget ({} : Frame) new m).migdst) frames).trans begins.frame
  · exact (congrArg List.length cmds).trans (by simp)
  · refine owed_of_same ?_ ?_ ?_ owed
    · exact (congrArg Strand.pend begins.strand :).trans (congrArg Strand.pend me :)
    · exact (congrArg Strand.seq begins.strand :).trans (congrArg Strand.seq me :)
    · exact (turn_of_fields begins.cur begins.launches (congrArg Strand.launch begins.strand :)).trans turn

/-- Settles O40. -/
theorem translationAndMigration : Obligations.TranslationAndMigration := ⟨translationWords, migrationWord⟩

end Sys2Proof.Machine
end

section
/-! Proof of the statement on bar lines, gaps, rests and time lock (O55): what the endings of launches and the traps leave of the package's
clock. -/
namespace Sys2Proof.Machine
open Sys2Proof.Claims

/-! ## The lock, its drift and the admissions -/

/-- What of the package's state only a bar line, a time lock, an admission or a release changes. -/
structure Beat where
  drift : BitVec 32
  locked : Bool
  nadm : Nat

/-- One admitted launch fewer. -/
def Beat.less (b : Beat) : Beat := ⟨b.drift, b.locked, b.nadm - 1⟩

/-- The package's drift, its lock and the number of its admitted launches. -/
def State.beat (s : State) : Beat := ⟨s.pkg.drift, s.pkg.locked, s.pkg.nadm⟩

section
variable {s t : State}

theorem beat_of_pkg (h : t.pkg = s.pkg) : t.beat = s.beat := by rw [State.beat, h]; rfl
theorem beat_of_uncounted (h : t.uncounted = s.uncounted) : t.beat = s.beat := beat_of_pkg (congrArg State.pkg h :)
theorem beat_of_uninterrupted (h : t.uninterrupted = s.uninterrupted) : t.beat = s.beat := (congrArg State.beat h :)
theorem beat_of_uncharged (h : t.uncharged = s.uncharged) : t.beat = s.beat := (congrArg State.beat h :)
theorem beat_of_beside (h : t.beside = s.beside) : t.beat = s.beat := beat_of_pkg (pkg_of_beside h)
theorem beat_of_roster (h : t.roster = s.roster) : t.beat = s.beat := beat_of_pkg (pkg_of_roster h)

end

section
variable (s : State)

theorem ringWrite_beat (p : Nat) (e : FaultEntry) : (s.ringWrite p e).beat = s.beat :=
  beat_of_beside ((engineWrite_beside ..).trans (engineWrite_beside ..))

theorem startReserved_beat (p : Nat) : (s.startReserved p).beat = s.beat := by
  unfold State.startReserved
  split <;> rfl

theorem countErr_beat (p : Option Nat) (f : ErrCounters → ErrCounters) : (s.countErr p f).beat = s.beat :=
  beat_of_uninterrupted (countErr_uninterrupted ..)

theorem postIrq_beat (v source : Nat) : (s.postIrq v source).beat = s.beat := beat_of_uninterrupted (postIrq_uninterrupted ..)

/-- An entry that is posted wakes a reserved strand, and signals the VD (R247). -/
theorem postFault_beat (p : Nat) (vd : Option Nat) (e : FaultEntry) : (s.postFault p vd e).1.beat = s.beat := by
  have signals (u : State) : (match vd with | some v => u.postIrq v 1 | none => u).beat = u.beat := by
    cases vd with
    | none => rfl
    | some v => exact postIrq_beat ..
  unfold State.postFault
  dsimp only
  split
  · exact (startReserved_beat ..).trans ((signals _).trans (ringWrite_beat ..))
  · split
    · exact (startReserved_beat ..).trans (signals _)
    · exact countErr_beat ..

theorem postScored_beat (L : Launch) (ecause : BitVec 16) (core slot : Nat) (epc eval : Word) (ency : Nat) :
    (s.postScored L ecause core slot epc eval ency).beat = s.beat := postFault_beat ..

theorem endingAt_beat (l f core slot : Nat) (i : TrapInfo) (epc : Word) : (s.endingAt l f core slot i epc).beat = s.beat := by
  unfold State.endingAt
  dsimp only
  split
  · exact (apply_ite State.beat ..).trans (ite_self _)
  · rfl

theorem endingEvent_beat (l f core slot : Nat) (i : TrapInfo) (epc : Word) : (s.endingEvent l f core slot i epc).beat = s.beat :=
  (endingAt_beat ..).trans (beat_of_roster (tellTime_roster ..))

theorem stopUnit_beat (l u : Nat) : (s.stopUnit l u).beat = s.beat := by
  unfold State.stopUnit
  dsimp only
  split <;> rfl

theorem cancelFree_beat (l : Nat) : (s.cancelFree l).beat = s.beat := by
  unfold State.cancelFree
  dsimp only
  split
  · refine Eq.trans rfl (foldl_keeps State.beat (fun s u => ?_) _ s)
    split
    · exact stopUnit_beat ..
    · rfl
  · rfl

theorem postTrap_beat (sid : Nat) (i : TrapInfo) (epc : Word) : (s.postTrap sid i epc).beat = s.beat := by
  have stops : (match (s.strand sid).launch with
      | some l => s.cancelFree l
      | none => if (s.strand sid).priv = 1 then State.modStrand { s with coachIn := s.coachIn ++ [((s.strandPart sid).getD 0, s.faultOf sid i epc)] }
          sid fun y => { y with slot := .halted, stopped := true, pend := [], vq := [], started := [], wait := none }
        else s.idle sid).beat = s.beat := by
    split
    · exact cancelFree_beat ..
    · split <;> rfl
  unfold State.postTrap
  dsimp only
  split
  · exact (postFault_beat ..).trans stops
  · exact stops

theorem countTrap_beat (sid : Nat) (i : TrapInfo) : (s.countTrap sid i).beat = s.beat := by
  unfold State.countTrap
  dsimp only
  split
  · exact beat_of_uncharged (chargeLine_uncharged ..)
  · split
    · exact countErr_beat ..
    · split
      · exact countErr_beat ..
      · rfl

/-- A trap may stop the Coachman, end or cancel a launch and post an entry (R353, R359); the clock stands. -/
theorem takeTrap_beat (sid : Nat) (i : TrapInfo) (epc : Word) : (s.takeTrap sid i epc).beat = s.beat := by
  unfold State.takeTrap
  split
  · rfl
  split
  · rfl
  rw [← countTrap_beat s sid i]
  generalize s.countTrap sid i = u
  dsimp only
  split
  · split
    · exact endingEvent_beat ..
    · rfl
  split
  · split <;> rfl
  split
  · rfl
  · exact postTrap_beat ..

/-- A launch that leaves its machine is one admission fewer (R289). -/
theorem retire_beat (l : Nat) : (s.retire l).beat = s.beat := by
  have idled (u : State) (sids : List Nat) : (sids.foldl State.idle u).beat = u.beat := foldl_keeps State.beat (fun _ _ => by rfl) sids u
  unfold State.retire
  dsimp only
  refine (foldl_keeps State.beat (fun _ _ => by rfl) _ _).trans ?_
  exact idled s _

theorem release_beat (l : Nat) : (s.release l).beat = s.beat.less := by
  unfold State.release
  extract_lets L unpinned given freed
  have pins : unpinned.beat = s.beat := foldl_keeps State.beat (fun _ _ => by rfl) _ s
  have tiles : given.beat = unpinned.beat := by
    refine foldl_keeps State.beat (fun s h => ?_) _ unpinned
    exact Eq.trans rfl (foldl_keeps State.beat (fun _ _ => by rfl) _ s)
  have cores : freed.beat = given.beat := by
    unfold freed
    split
    · rfl
    · exact foldl_keeps State.beat (fun _ _ => by rfl) _ given
  have all : freed.beat = s.beat := cores.trans (tiles.trans pins)
  rw [retire_beat]
  exact congrArg Beat.less all

theorem lapse_beat (l : Nat) : (s.lapse l).beat = s.beat.less := by
  unfold State.lapse
  extract_lets L done
  have done_keeps : done.beat = s.beat := by
    unfold done
    split <;> rfl
  have keeps := (postScored_beat _ L 20 0 0 0 (BitVec.ofNat 64 L.lid) done.pkg.ency).trans
    ((beat_of_uncounted (recordCancelled_uncounted done l)).trans done_keeps)
  exact (release_beat ..).trans (congrArg Beat.less keeps)

end

/-! ## Losing lock (R337) -/

/-- The drift and the lock. -/
def Beat.lock (b : Beat) : BitVec 32 × Bool := (b.drift, b.locked)

theorem loseLock_lock (s : State) : s.loseLock.beat.lock = (s.pkg.drift, false) := by
  unfold State.loseLock
  extract_lets lost c trapped
  have fault : trapped.beat = lost.beat := by
    unfold trapped
    split
    · rfl
    · exact takeTrap_beat ..
  refine (foldl_keeps (fun s : State => s.beat.lock) (fun u e => ?_) _ _).trans (congrArg Beat.lock fault)
  split
  · exact (congrArg Beat.lock (lapse_beat u e.1) :)
  · exact (congrArg Beat.lock (endingEvent_beat u e.1 _ _ _ _ _) :)

/-! ## Bar lines (R336, R337) -/

/-- The bar's measure of the drift, taken. -/
def State.measured (s : State) (m : BitVec 32) : State := s.modPkg fun k => { k with drift := driftOf m }

/-- What a bar line owes in its own cycle: a rest that was commanded for it, and the standby's taking over. -/
def State.barOwed (s : State) : State :=
  let bar := s.pkg.ency / 4096
  let s := if s.pkg.restbar = some bar then s.now prioBar .rest else s
  if s.pkg.stage ≤ 3 ∧ (s.pkg.coachStopped ∨ s.pkg.heartbeat + 16 < bar ∨ s.pkg.updateBar = some bar) then
    s.now prioBar .coachmanTakeover else s

section
variable (s : State) (m : BitVec 32)

theorem barOwed_leaves : s.barOwed.pkg = s.pkg ∧ s.barOwed.strands = s.strands ∧ s.barOwed.mem = s.mem := by
  unfold State.barOwed
  dsimp only
  split <;> split <;> exact ⟨rfl, rfl, rfl⟩

theorem barOwed_rest (rest : s.pkg.restbar = some (s.pkg.ency / 4096)) : (⟨none, s.pkg.ency, prioBar⟩, Event.rest) ∈ s.barOwed.agenda := by
  unfold State.barOwed
  dsimp only
  rw [if_pos rest]
  have owed : (⟨none, s.pkg.ency, prioBar⟩, Event.rest) ∈ (s.now prioBar .rest).agenda := mem_agenda_after s 0 ..
  split
  · exact List.mem_append_left _ owed
  · exact owed

theorem loadWheels_mem : s.loadWheels.mem = s.mem := foldl_keeps State.mem (fun _ _ => by rfl) _ s

theorem barLine_runs (stage : s.pkg.stage = 3) : exec (.barLine m) s =
    .next (if s.pkg.locked ∧ driftLost (driftOf m) then (s.measured m).loseLock else s.measured m).loadWheels.barOwed := by
  change execBarLine m s = _
  unfold execBarLine
  rw [if_pos stage]
  rfl

/-- A drift within 2^16 is held as it is measured, and keeps the lock. -/
theorem driftOf_within (low : -65536 ≤ m.toInt) (high : m.toInt ≤ 65536) : driftOf m = m ∧ driftLost m = false := by
  refine ⟨if_neg fun least => ?_, ?_⟩
  · subst least
    exact absurd low (by decide)
  · rw [driftLost, decide_eq_false (by omega), decide_eq_false (by omega)]
    rfl

/-- A drift beyond 2^16 loses the lock, saturated or not. -/
theorem driftLost_driftOf (far : m.toInt < -65536 ∨ 65536 < m.toInt) : driftLost (driftOf m) = true := by
  unfold driftOf
  split
  · decide
  · rw [driftLost, Bool.or_eq_true, decide_eq_true_eq, decide_eq_true_eq]
    exact far.symm

theorem barLine_paces (stage : s.pkg.stage = 3) (low : -65536 ≤ m.toInt) (high : m.toInt ≤ 65536) : Runs (.barLine m) s fun t =>
    t.pkg.drift = m ∧ t.pkg.locked = s.pkg.locked ∧ t.strands = s.strands ∧ t.mem = s.mem ∧
      (s.pkg.restbar = some (s.pkg.ency / 4096) → (⟨none, s.pkg.ency, prioBar⟩, Event.rest) ∈ t.agenda) := by
  obtain ⟨same, holds⟩ := driftOf_within m low high
  have run := barLine_runs s m stage
  rw [same, if_neg fun h => absurd h.2 (by rw [holds]; decide)] at run
  obtain ⟨pkg, strands, mem⟩ := barOwed_leaves (s.measured m).loadWheels
  have kept := loadWheels_roster (s.measured m)
  have paced : (s.measured m).loadWheels.pkg = (s.measured m).pkg := pkg_of_roster kept
  have after := Eq.trans pkg paced
  refine ⟨_, run, ?drift, ?locked, strands.trans ((strands_of_roster kept :)), mem.trans (loadWheels_mem (s.measured m)), fun rest => ?owed⟩
  case drift => exact (congrArg Pkg.drift after :).trans same
  case locked => exact (congrArg Pkg.locked after :)
  case owed =>
    have now : (s.measured m).loadWheels.pkg.ency = s.pkg.ency := (congrArg Pkg.ency paced :)
    have due : (s.measured m).loadWheels.pkg.restbar = s.pkg.restbar := (congrArg Pkg.restbar paced :)
    have owed := barOwed_rest (s.measured m).loadWheels
    rw [now, due] at owed
    exact owed rest

theorem barLine_losesLock (stage : s.pkg.stage = 3) (locked : s.pkg.locked = true) (far : m.toInt < -65536 ∨ 65536 < m.toInt) :
    Runs (.barLine m) s fun t => t.pkg.drift = (if m = 0x80000000 then 0x80000001 else m) ∧ t.pkg.locked = false := by
  have run := barLine_runs s m stage
  rw [if_pos ⟨locked, driftLost_driftOf m far⟩] at run
  have kept : (s.measured m).loseLock.loadWheels.barOwed.beat = (s.measured m).loseLock.beat :=
    (beat_of_pkg (barOwed_leaves _).1).trans (beat_of_roster (loadWheels_roster _))
  have lock := (congrArg Beat.lock kept).trans (loseLock_lock (s.measured m))
  exact ⟨_, run, congrArg Prod.fst lock, congrArg Prod.snd lock⟩

end

/-! ## Rests (R295) -/

section
variable (s : State)

/-- A launch that is scored stands still, or goes on. -/
def Launch.freeze (b : Bool) (L : Launch) : Launch := if L.scored then { L with frozen := b } else L

/-- What a table mapped entry by entry holds, where the map keeps the default. -/
theorem tget_map {α : Type} (d : α) (f : Nat → α → α) (k : Nat) (still : f k d = d) : (m : Sparse α) →
    tget d k (m.map fun e => (e.1, f e.1 e.2)) = f k (tget d k m)
  | [] => still.symm
  | (j, w) :: m => by
    rw [List.map_cons, tget, tget, tget_map d f k still m]
    split
    · next same => rw [same]
    · split
      · exact still.symm
      · rfl

theorem freezeScored_launch (b : Bool) (l : Nat) : (s.freezeScored b).launch l = (s.launch l).freeze b := by
  have mapped : (s.freezeScored b).launches = s.launches.map fun e => (e.1, e.2.freeze b) := by
    refine List.map_congr_left fun e _ => ?_
    unfold Launch.freeze
    split <;> rfl
  unfold State.launch
  rw [mapped]
  exact tget_map {} (fun _ => Launch.freeze b) l (if_neg (by decide)) s.launches

theorem rest_runs (b : Nat) (due : s.pkg.restbar = some b) :
    let bar := s.pkg.ency / 4096
    (bar = b → Runs .rest s fun t => t.pkg = s.pkg ∧ t.strands = s.strands ∧
      ∀ l, t.launch l = if (s.launch l).scored then { s.launch l with frozen := true } else s.launch l) ∧
    (b < bar → Runs .rest s fun t => t.pkg = { s.pkg with restbar := none } ∧ t.strands = s.strands ∧
      ∀ l, t.launch l = if (s.launch l).scored then { s.launch l with frozen := false } else s.launch l) ∧
    (bar < b → exec .rest s = .next s) := by
  intro bar
  have run : exec .rest s = .next (if bar = b then (s.freezeScored true).owe none (4096 * (b + 1)) prioBar .rest
      else if b < bar then (s.freezeScored false).modPkg fun k => { k with restbar := none } else s) := by
    change execRest s = _
    rw [execRest, due]
  refine ⟨fun here => ⟨_, run.trans (congrArg Host.Outcome.next (if_pos here)), rfl, rfl, freezeScored_launch s true⟩,
    fun past => ⟨_, run.trans (congrArg Host.Outcome.next ((if_neg (by omega)).trans (if_pos past))), rfl, rfl, freezeScored_launch s false⟩,
    fun early => run.trans (congrArg Host.Outcome.next ((if_neg (by omega)).trans (if_neg (by omega))))⟩

end

/-! ## Time lock (R336, R337) -/

section
variable (s : State) (k : LockData)

/-- What a time lock writes of the package's state, and what it leaves of the memories. -/
theorem lock_becomes : let t := s.lock k
    t.pkg.locked = true ∧ t.pkg.ency = 4096 * (k.ency.toNat / 4096) ∧ t.pkg.kg = k.kg % 16 ∧ t.pkg.keyPrev = 0 ∧
      t.pkg.keyCur = (if k.kg % 2 = 1 then k.routeKeyOdd else k.routeKeyEven) ∧ t.mem = s.mem ∧ t.spad = s.spad :=
  ⟨rfl, rfl, rfl, rfl, rfl, rfl, rfl⟩

theorem timeLock_locks (stage : s.pkg.stage = 2) (line : s.pkg.ency % 4096 = 0) : Runs (.timeLock k) s fun t =>
    t.pkg.stage = 3 ∧ t.pkg.locked = true ∧ t.pkg.ency = 4096 * (k.ency.toNat / 4096) ∧ t.pkg.kg = k.kg % 16 ∧ t.pkg.keyPrev = 0 ∧
      t.pkg.keyCur = (if k.kg % 2 = 1 then k.routeKeyOdd else k.routeKeyEven) ∧ t.mem = s.mem ∧ t.spad = s.spad :=
  ⟨_, congrArg Host.Outcome.next (if_pos ⟨stage, line⟩), rfl, lock_becomes (s.loadLinks k) k⟩

theorem timeLock_elsewhere (off : s.pkg.stage ≠ 2 ∨ s.pkg.ency % 4096 ≠ 0) : exec (.timeLock k) s = .next s :=
  congrArg Host.Outcome.next (if_neg fun h => off.elim (· h.1) (· h.2))

/-- A bar line after the present one is the next. -/
theorem barLineAt_succ (n : Nat) : barLineAt (n + 1) = 4096 * (n / 4096 + 1) := by
  rw [barLineAt, ceilDiv]
  omega

theorem timeLockRepeat_measures (rest : s.pkg.restbar = some (s.pkg.ency / 4096)) : Runs (.timeLockRepeat k) s fun t =>
    t.pkg.ency = s.pkg.ency ∧ t.pkg.locked = s.pkg.locked ∧
      (⟨none, 4096 * (s.pkg.ency / 4096 + 1), prioBar⟩, Event.timeLockRepeat k) ∈ t.agenda ∧ t.mem = s.mem := by
  refine ⟨_, congrArg Host.Outcome.next (if_pos rest), rfl, rfl, ?_, rfl⟩
  rw [← barLineAt_succ]
  exact mem_agenda_owe ..

theorem timeLockRepeat_loads (open_ : s.pkg.restbar ≠ some (s.pkg.ency / 4096)) (asked : s.pkg.lockAsked = true)
    (line : s.pkg.ency % 4096 = 0) : Runs (.timeLockRepeat k) s fun t =>
    t.pkg.ency = 4096 * (k.ency.toNat / 4096) ∧ t.pkg.locked = true ∧ t.pkg.keyPrev = 0 ∧ t.mem = s.mem :=
  ⟨_, congrArg Host.Outcome.next ((if_neg open_).trans (if_pos ⟨asked, line⟩)), rfl, rfl, rfl, rfl⟩

end

/-! ## The statement -/

theorem errorCounterCopy_writes (s : State) (p : Nat) (r : Partition) (one : s.parts = [(p, r)]) (page : r.ctlpage ≠ 0) :
    exec .errorCounterCopy s = .next (s.engineWrite (r.ctlpage + 0x100)
      ([r.errs.residue, r.errs.rfile, r.errs.discard, r.errs.integrity, r.errs.faultovf, r.errs.ckmixed, r.errs.ckerr].flatMap (toBytes 4))) := by
  change execErrorCounterCopy s = _
  rw [execErrorCounterCopy, one, List.foldl_cons, List.foldl_nil]
  exact congrArg Host.Outcome.next (if_neg page)

/-- Settles O55. -/
theorem timeEvents : Obligations.TimeEvents := fun s m k p r _ =>
  ⟨barLine_paces s m, barLine_losesLock s m, rfl, rest_runs s, timeLock_locks s k, timeLock_elsewhere s k, timeLockRepeat_measures s k,
    timeLockRepeat_loads s k, errorCounterCopy_writes s p r⟩

end Sys2Proof.Machine
end

section
/-! Proof of the statement on the staged start (O58): what a fold over the cores leaves, stage by stage. -/
namespace Sys2Proof.Machine
open Sys2Proof.Claims

/-! ## Folds over a list of cores -/

/-- What one element of a fold brings about, and no element undoes, holds after it. -/
theorem foldl_reaches {β : Type} {f : State → β → State} {inv good : State → Prop} (kept : ∀ s b, inv s → inv (f s b)) {b : β}
    (sets : ∀ s, inv s → good (f s b)) (stays : ∀ s c, inv s → good s → good (f s c)) :
    (l : List β) → b ∈ l → (s : State) → inv s → good (l.foldl f s)
  | c :: l, mem, s, h => by
    have stay (l : List β) : ∀ s, inv s → good s → good (l.foldl f s) := by
      induction l with
      | nil => exact fun _ _ g => g
      | cons d l ih => exact fun s h g => ih _ (kept s d h) (stays s d h g)
    rcases List.mem_cons.mp mem with same | later
    · exact stay l _ (kept s c h) (same ▸ sets s h)
    · exact foldl_reaches kept sets stays l later _ (kept s c h)

/-! ## The core map (R12, R393) -/

/-- A core of the map before it is numbered. -/
def Core.unmapped (k : Core) : Core := { k with enabled := false, logical := 0 }

/-- A core of the map with its logical number. -/
def Core.mapped (n : Nat) (k : Core) : Core := { k with logical := n, enabled := true }

theorem mapped_logical (n : Nat) (k : Core) : (k.mapped n).logical = n := rfl

/-- Numbered in order from a number on. -/
theorem foldl_mapped_core (c : Nat) : (cs : List Nat) → (n : Nat) → (s : State) → Rising s.cores → cs.Nodup →
    ((cs.zipIdx n).foldl (fun s e => s.modCore e.1 (Core.mapped e.2)) s).core c =
      if c ∈ cs then (s.core c).mapped (n + cs.idxOf c) else s.core c
  | [], _, _, _, _ => rfl
  | d :: cs, n, s, rising, distinct => by
    obtain ⟨fresh, distinct'⟩ := List.nodup_cons.mp distinct
    have step (j : Nat) : (s.modCore d (Core.mapped n)).core j = if j = d then (s.core d).mapped n else s.core j := core_setCore s d j _ rising
    rw [List.zipIdx_cons, List.foldl_cons, foldl_mapped_core c cs (n + 1) _ (rising_tput rising) distinct', step]
    by_cases same : c = d
    · subst same
      rw [if_neg fresh, if_pos rfl, if_pos List.mem_cons_self, List.idxOf_cons_self]
      rfl
    · rw [if_neg same, List.idxOf_cons_ne _ (Ne.symm same), Nat.succ_eq_add_one, Nat.add_right_comm n 1]
      exact if_congr (by rw [List.mem_cons, or_iff_right same]) rfl rfl

section
variable {s : State} {cs : List Nat}

/-- The map holds the listed cores, numbered in their order, and no other core below 960. -/
theorem numberCores_core (rising : Rising s.cores) (distinct : cs.Nodup) {c : Nat} (small : c < 960) :
    (s.numberCores cs).core c = if c ∈ cs then (s.core c).mapped (cs.idxOf c) else (s.core c).unmapped := by
  let strip (k : Nat) (x : Core) : Core := if k < 960 then x.unmapped else x
  have bare (m : Sparse Core) : m.map (fun e : Nat × Core => if e.1 < 960 then (e.1, { e.2 with enabled := false, logical := 0 }) else e) =
      m.map fun e => (e.1, strip e.1 e.2) := List.map_congr_left fun e _ => by
    unfold strip
    split <;> rfl
  have stripped : tget {} c (s.cores.map fun e => (e.1, strip e.1 e.2)) = (s.core c).unmapped :=
    (tget_map {} strip c (if_pos small) s.cores).trans (if_pos small)
  have numbered := foldl_mapped_core c cs 0 { s with cores := s.cores.map fun e => (e.1, strip e.1 e.2) }
    (rising_map rising fun _ => rfl) distinct
  rw [Nat.zero_add] at numbered
  unfold State.numberCores
  rw [bare]
  refine Eq.trans (numbered :) ?_
  rw [show State.core { s with cores := s.cores.map fun e => (e.1, strip e.1 e.2) } c = (s.core c).unmapped from stripped]
  rfl

theorem numberCores_pkg : (s.numberCores cs).pkg = { s.pkg with degraded := decide (cs.length < 944) } :=
  congrArg (fun k : Pkg => { k with degraded := decide (cs.length < 944) }) (foldl_keeps State.pkg (fun _ _ => by rfl) _ _)

theorem numberCores_enabled (rising : Rising s.cores) (distinct : cs.Nodup) {c : Nat} (small : c < 960) :
    ((s.numberCores cs).core c).enabled = decide (c ∈ cs) := by
  rw [numberCores_core rising distinct small]
  split
  · next listed => exact (decide_eq_true listed).symm
  · next other => exact (decide_eq_false other).symm

theorem mem_coresWhere {p : Core → Bool} {c : Nat} (small : c < 960) : c ∈ s.coresWhere p ↔ p (s.core c) = true := by
  rw [State.coresWhere, List.mem_filter, List.mem_range, and_iff_right small]

theorem decide_coresWhere {p : Core → Bool} {c : Nat} (small : c < 960) : decide (c ∈ s.coresWhere p) = p (s.core c) := by
  rw [Bool.eq_iff_iff, decide_eq_true_iff]
  exact mem_coresWhere small

theorem coresWhere_nodup (p : Core → Bool) : (s.coresWhere p).Nodup := List.nodup_range.filter _

/-- The place of a core among those of a kind is the number of those before it. -/
theorem idxOf_coresWhere {p : Core → Bool} {c : Nat} (small : c < 960) (is : p (s.core c) = true) :
    (s.coresWhere p).idxOf c = ((List.range c).filter fun j => p (s.core j)).length := by
  obtain ⟨k, rest⟩ : ∃ k, 960 = c + (k + 1) := ⟨960 - (c + 1), by omega⟩
  rw [State.coresWhere, rest, List.range_add, List.filter_append, List.idxOf_append_of_notMem
    fun mem => absurd (List.mem_range.mp (List.mem_filter.mp mem).1) (lt_irrefl c), List.range_succ_eq_map, List.map_cons, Nat.add_zero,
    List.filter_cons_of_pos (p := fun c => p (s.core c)) is, List.idxOf_cons_self, Nat.add_zero]

end

/-- MAP_BUILD without an error of the flood numbers the cores that answered. -/
theorem mapBuild_numbers {s : State} (canon : Canonical s) {f c : Nat} (flood : s.pkg.floodStart = some f)
    (clean : ∀ e ∈ s.pkg.sites, e.2.2.2 = false) : Runs .mapBuild s fun t => t.pkg.stage = 1 ∧ t.pkg.fail = 0 ∧ t.pkg.floodStart = none ∧
      (c < 960 → (t.core c).enabled = (s.core c).answered ∧ ((s.core c).answered = true →
        (t.core c).logical = ((List.range c).filter fun j => (s.core j).answered).length)) := by
  have good : (s.pkg.sites.any fun e => e.2.2.2) = false := List.any_eq_false.mpr fun e mem => by rw [clean e mem]; decide
  let u := s.modPkg fun k => { k with floodStart := none }
  have run : exec .mapBuild s =
      .next ((u.numberCores (s.coresWhere (·.answered))).modPkg fun k => { k with stage := 1, fail := 0 }) := by
    change execMapBuild s = _
    unfold execMapBuild
    rw [flood, good]
    rfl
  have same (k : Nat) : u.core k = s.core k := rfl
  have leaves (cs : List Nat) : let t := (u.numberCores cs).modPkg fun k => { k with stage := 1, fail := 0 }
      t.pkg.stage = 1 ∧ t.pkg.fail = 0 ∧ t.pkg.floodStart = none ∧ ∀ k, t.core k = (u.numberCores cs).core k :=
    ⟨rfl, rfl, (congrArg Pkg.floodStart numberCores_pkg :), fun _ => rfl⟩
  obtain ⟨stage, fail, ended, core⟩ := leaves (s.coresWhere (·.answered))
  refine ⟨_, run, stage, fail, ended, fun small => ?_⟩
  rw [core]
  refine ⟨?_, fun answered => ?_⟩
  · refine (numberCores_enabled (s := u) canon.rcores (coresWhere_nodup _) small).trans ?_
    exact decide_coresWhere small
  · have listed := (mem_coresWhere (p := (·.answered)) small).mpr answered
    have at_ := numberCores_core (s := u) canon.rcores (coresWhere_nodup (s := s) (·.answered)) small
    rw [if_pos listed] at at_
    rw [at_, mapped_logical]
    exact idxOf_coresWhere (p := (·.answered)) small answered

/-- MAP_BUILD after an error of the flood numbers nothing. -/
theorem mapBuild_fails {s : State} {f : Nat} (flood : s.pkg.floodStart = some f) (bad : ∃ e ∈ s.pkg.sites, e.2.2.2 = true) :
    Runs .mapBuild s fun t => t.pkg = { s.pkg with floodStart := none, fail := 3 } ∧ t.cores = s.cores := by
  have some_ : (s.pkg.sites.any fun e => e.2.2.2) = true := List.any_eq_true.mpr bad
  refine ⟨(s.modPkg fun k => { k with floodStart := none }).modPkg fun k => { k with fail := 3 }, ?_, rfl, rfl⟩
  change execMapBuild s = _
  unfold execMapBuild
  rw [flood, some_]
  rfl

/-- BOOT_EXPIRY takes the late cores from the map. -/
theorem bootExpiry_drops {s : State} (canon : Canonical s) {C : BitVec 32} {l c : Nat} {L : Launch} (sum : s.pkg.bootSum = some C)
    (boot : s.bootLaunch = some (l, L)) (small : c < 960) : Runs .bootExpiry s fun t =>
      let f := s.strand (16 * c)
      (t.core c).enabled = ((s.core c).enabled && !(f.launch == some l && f.slot != .halted && f.slot != .idle)) := by
  let late (c : Nat) : Bool :=
    let x := s.strand (sidOf c 0)
    x.launch == some l && x.slot != .halted && x.slot != .idle
  let cs := (s.coresWhere (·.enabled)).filter fun c => !late c
  have run : exec .bootExpiry s = .next (s.numberCores cs) := by
    change execBootExpiry s = _
    unfold execBootExpiry
    rw [sum, boot]
  refine ⟨_, run, ?_⟩
  refine (numberCores_enabled canon.rcores ((coresWhere_nodup _).filter _) small).trans ?_
  rw [decide_eq_decide.mpr (List.mem_filter.trans (and_congr_left fun _ => mem_coresWhere small)), Bool.decide_and, Bool.decide_eq_true,
    Bool.decide_eq_true]
  rfl

/-! ## Stage 0 (R383, R386) -/

section
variable {s : State} (p : Stage0Data)

theorem startCoach_canon (canon : Canonical s) (core : Nat) (entry tvec : Word) : Canonical (s.startCoach core entry tvec) :=
  State.setLaunch_canon _ _ _ (State.setStrand_canon _ _ _ canon)

theorem startCoach_strand (rising : Rising s.strands) (core : Nat) (entry tvec : Word) (k : Nat) :
    (s.startCoach core entry tvec).strand k = if k = sidOf core 0 then
      { slot := .runnable, pc := entry &&& ~~~7#64, priv := 2, tvec := tvec &&& ~~~7#64, fetch := .phys } else s.strand k :=
  strand_setStrand s (sidOf core 0) k _ rising

/-- What the ROM has loaded and drawn before the Coachmen start. -/
def State.romLoaded (s : State) (p : Stage0Data) : State :=
  State.modPkg { s with mem := p.image.foldl (fun (m : Sparse Byte) (e : Nat × Byte) => tput memDefault e.1 e.2 m) s.mem } fun k => { k with
    stage := 0, fail := 0, keyCur := p.routeKey, keyPrev := 0, kg := 0, ktree := p.kTree, ctxkey := p.ctxKey
    pkgnum := p.pkgnum % 256, primary := 0, heartbeat := k.ency / 4096 }

theorem bringupStage0_starts (rising : Rising s.strands) (stage : s.pkg.stage = 7) (flash : p.flashOk = true) (link : p.linkOk = true) :
    Runs (.bringupStage0 p) s fun t => t.pkg.stage = 0 ∧ t.pkg.keyCur = p.routeKey ∧ t.pkg.keyPrev = 0 ∧ t.pkg.kg = 0 ∧
      ∀ k ∈ [15360, 15376], let f := t.strand k
        f.slot = .runnable ∧ f.priv = 2 ∧ f.fetch = .phys ∧ f.pc = p.entry &&& ~~~7 := by
  have run : exec (.bringupStage0 p) s = .next (((s.romLoaded p).startCoach 960 p.entry p.tvec).startCoach 961 p.entry p.tvec) := by
    change execBringupStage0 p s = _
    unfold execBringupStage0
    rw [if_neg (not_not.mpr stage), flash, link]
    rfl
  refine ⟨_, run, rfl, rfl, rfl, rfl, fun k mem => ?_⟩
  have first := startCoach_strand (s := s.romLoaded p) rising 960 p.entry p.tvec k
  have second := startCoach_strand (s := (s.romLoaded p).startCoach 960 p.entry p.tvec) (rising_tput rising) 961 p.entry p.tvec k
  rw [first] at second
  rcases List.mem_cons.mp mem with one | mem
  · rw [if_neg (by subst one; decide), if_pos (by subst one; decide)] at second
    rw [second]
    exact ⟨rfl, rfl, rfl, rfl⟩
  · rw [if_pos (by rw [List.mem_singleton.mp mem]; decide)] at second
    rw [second]
    exact ⟨rfl, rfl, rfl, rfl⟩

theorem bringupStage0_elsewhere (off : s.pkg.stage ≠ 7) : exec (.bringupStage0 p) s = .next s :=
  congrArg Host.Outcome.next (if_pos off)

theorem bringupStage0_noFlash (stage : s.pkg.stage = 7) (flash : p.flashOk = false) :
    exec (.bringupStage0 p) s = .next (s.modPkg fun k => { k with fail := 1 }) := by
  change execBringupStage0 p s = _
  unfold execBringupStage0
  rw [if_neg (not_not.mpr stage), flash]
  rfl

theorem bringupStage0_noLink (stage : s.pkg.stage = 7) (flash : p.flashOk = true) (link : p.linkOk = false) :
    exec (.bringupStage0 p) s = .next (s.modPkg fun k => { k with fail := 2 }) := by
  change execBringupStage0 p s = _
  unfold execBringupStage0
  rw [if_neg (not_not.mpr stage), flash, link]
  rfl

end

/-! ## The flood (R392) -/

section
variable {s : State} {x y : Nat}

/-- The packet of a flood to one neighbour. -/
def State.floodOne (s : State) (x y : Nat) (but : Option Nat) (d : Nat) : State :=
  match neighbour x y d with
  | some (x', y') => if but = some d then s
    else s.after (hopCost x y x' y') (prioFlood (opposite d)) (.discoveryPacket x' y' (numDir (opposite d)))
  | none => s

theorem flood_eq (s : State) (but : Option Nat) : s.flood x y but = (List.range 4).foldl (fun s d => s.floodOne x y but d) s := rfl

theorem floodOne_owes (s : State) (but : Option Nat) (d : Nat) : ∃ l, s.floodOne x y but d = { s with agenda := s.agenda ++ l } := by
  unfold State.floodOne
  split
  · split
    · exact ⟨[], by rw [List.append_nil]⟩
    · exact ⟨_, rfl⟩
  · exact ⟨[], by rw [List.append_nil]⟩

theorem floods_owe (but : Option Nat) : (ds : List Nat) → (s : State) →
    ∃ l, ds.foldl (fun s d => s.floodOne x y but d) s = { s with agenda := s.agenda ++ l }
  | [], s => ⟨[], by rw [List.append_nil]; rfl⟩
  | d :: ds, s => by
    obtain ⟨first, one⟩ := floodOne_owes (x := x) (y := y) s but d
    obtain ⟨rest, all⟩ := floods_owe but ds (s.floodOne x y but d)
    refine ⟨first ++ rest, all.trans ?_⟩
    rw [one, List.append_assoc]

/-- From site (0, 0) a packet goes east, two cycles away. -/
theorem flood_east (s : State) : (⟨none, s.pkg.ency + 2, prioFlood 3⟩, Event.discoveryPacket 1 0 .w) ∈ (s.flood 0 0 none).agenda := by
  obtain ⟨north, first⟩ := floodOne_owes (x := 0) (y := 0) s none 0
  obtain ⟨rest, later⟩ := floods_owe (x := 0) (y := 0) none [2, 3] ((s.floodOne 0 0 none 0).floodOne 0 0 none 1)
  have east : (⟨none, s.pkg.ency + 2, prioFlood 3⟩, Event.discoveryPacket 1 0 .w) ∈ ((s.floodOne 0 0 none 0).floodOne 0 0 none 1).agenda := by
    rw [first]
    exact mem_agenda_owe ..
  rw [flood_eq, show List.range 4 = 0 :: 1 :: [2, 3] from rfl, List.foldl_cons, List.foldl_cons, later]
  exact List.mem_append_left _ east

/-- The primary Coachman's flood begins at site (0, 0). -/
theorem bringupStage1_floods (stage : s.pkg.stage = 0) : Runs .bringupStage1 s fun t => t.pkg.floodStart = some s.pkg.ency ∧
    (∀ k, (t.core k).enabled = false) ∧ (⟨none, s.pkg.ency + 1024, prioStart⟩, Event.mapBuild) ∈ t.agenda ∧
      (s.pkg.primary = 0 → (⟨none, s.pkg.ency + 2, prioFlood 3⟩, Event.discoveryPacket 1 0 .w) ∈ t.agenda) := by
  let quiet (k : Core) : Core := { k with answered := false, enabled := false }
  let c := 960 + s.pkg.primary
  let u : State := State.modPkg { s with cores := s.cores.map fun e => (e.1, quiet e.2) } fun k => { k with
    floodStart := some k.ency, sites := [(siteNum (siteX c) (siteY c), siteX c, siteY c, false)] }
  have run : exec .bringupStage1 s = .next ((u.flood (siteX c) (siteY c) none).after 1024 prioStart .mapBuild) :=
    congrArg Host.Outcome.next (if_neg (not_not.mpr stage))
  obtain ⟨packets, owes⟩ : ∃ l, u.flood (siteX c) (siteY c) none = { u with agenda := u.agenda ++ l } := floods_owe none (List.range 4) u
  refine ⟨_, run, (congrArg (fun t : State => t.pkg.floodStart) owes :), fun k => ?core, ?map, fun zero => List.mem_append_left _ ?packet⟩
  case core =>
    have silent : (u.flood (siteX c) (siteY c) none).core k = quiet (s.core k) := by
      unfold State.core
      rw [owes]
      exact tget_map {} (fun _ => quiet) k rfl s.cores
    exact (congrArg Core.enabled silent :)
  case map =>
    have due := mem_agenda_after (u.flood (siteX c) (siteY c) none) 1024 prioStart .mapBuild
    rw [congrArg (fun t : State => t.pkg.ency) owes] at due
    exact due
  case packet =>
    have corner : siteX c = 0 ∧ siteY c = 0 := by
      rw [show c = 960 from congrArg (960 + ·) zero]
      decide
    rw [corner.1, corner.2]
    exact flood_east u

/-- Where a discovery packet finds a router without coordinates, it sets them and is passed on. -/
def State.discovered (s : State) (x y a b d : Nat) : State :=
  (s.modPkg fun k => { k with sites := bind (siteNum x y) (a, b, false) k.sites }).flood x y (some d)

theorem discovered_owes (s : State) (a b d : Nat) : ∃ l, s.discovered x y a b d =
    { s with pkg := { s.pkg with sites := bind (siteNum x y) (a, b, false) s.pkg.sites }, agenda := s.agenda ++ l } :=
  floods_owe (some d) (List.range 4) (s.modPkg fun k => { k with sites := bind (siteNum x y) (a, b, false) k.sites })

/-- The core of a router that a packet has found answers the primary Coachman. -/
def State.asked (s : State) (x y : Nat) : State :=
  match siteCore x y with
  | some c =>
    if s.answers c then
      let q := 960 + s.pkg.primary
      s.after (16 + siteLatency x y (siteX q) (siteY q)) prioArrive (.discoveryAnswer c)
    else s
  | none => s

theorem asked_pkg (s : State) : (s.asked x y).pkg = s.pkg := by
  unfold State.asked
  split
  · split <;> rfl
  · rfl

theorem asked_owes {c : Nat} (home : siteCore x y = some c) (small : c < 960) (whole : s.pkg.fused.getLsbD c = false)
    (zero : s.pkg.primary = 0) :
    (⟨none, s.pkg.ency + 16 + siteLatency x y 0 0, prioArrive⟩, Event.discoveryAnswer c) ∈ (s.asked x y).agenda := by
  have answers : s.answers c = true := by rw [State.answers, whole, decide_eq_true small]; rfl
  have corner : siteX (960 + s.pkg.primary) = 0 ∧ siteY (960 + s.pkg.primary) = 0 := by rw [zero]; decide
  unfold State.asked
  rw [home]
  dsimp only
  rw [if_pos answers, corner.1, corner.2, Nat.add_assoc]
  exact mem_agenda_after ..

section
variable {f a b : Nat} {dir : Dir} (flood : s.pkg.floodStart = some f) (implied : s.implied x y (dirNum dir) = some (a, b))
include flood implied

theorem discoveryPacket_discovers (fresh : look (siteNum x y) s.pkg.sites = none) : Runs (.discoveryPacket x y dir) s fun t =>
    t.pkg.sites = bind (siteNum x y) (a, b, false) s.pkg.sites ∧
      ∀ c, siteCore x y = some c → c < 960 → s.pkg.fused.getLsbD c = false → s.pkg.primary = 0 →
        (⟨none, s.pkg.ency + 16 + siteLatency x y 0 0, prioArrive⟩, Event.discoveryAnswer c) ∈ t.agenda := by
  have run : exec (.discoveryPacket x y dir) s = .next ((s.discovered x y a b (dirNum dir)).asked x y) := by
    change execDiscoveryPacket x y dir s = _
    unfold execDiscoveryPacket
    dsimp only
    rw [flood, implied]
    dsimp only
    rw [fresh]
    rfl
  obtain ⟨packets, owes⟩ := discovered_owes (x := x) (y := y) s a b (dirNum dir)
  have pkg : (s.discovered x y a b (dirNum dir)).pkg = { s.pkg with sites := bind (siteNum x y) (a, b, false) s.pkg.sites } :=
    (congrArg State.pkg owes :)
  generalize s.discovered x y a b (dirNum dir) = u at run pkg
  refine ⟨_, run, (congrArg Pkg.sites ((asked_pkg u).trans pkg) :), fun c home small whole zero => ?_⟩
  have due := asked_owes (s := u) home small (by rw [pkg]; exact whole) (by rw [pkg]; exact zero)
  rw [pkg] at due
  exact due

theorem discoveryPacket_agrees {e : Bool} (known : look (siteNum x y) s.pkg.sites = some (a, b, e)) :
    exec (.discoveryPacket x y dir) s = .next s := by
  change execDiscoveryPacket x y dir s = _
  unfold execDiscoveryPacket
  dsimp only
  rw [flood, implied]
  dsimp only
  rw [known]
  exact congrArg Host.Outcome.next (if_pos ⟨rfl, rfl⟩)

theorem discoveryPacket_differs {a' b' : Nat} {e : Bool} (known : look (siteNum x y) s.pkg.sites = some (a', b', e)) (other : (a, b) ≠ (a', b')) :
    Runs (.discoveryPacket x y dir) s fun t => t.pkg.sites = bind (siteNum x y) (a', b', true) s.pkg.sites ∧ t.agenda = s.agenda := by
  refine ⟨s.modPkg fun k => { k with sites := bind (siteNum x y) (a', b', true) k.sites }, ?_, rfl, rfl⟩
  change execDiscoveryPacket x y dir s = _
  unfold execDiscoveryPacket
  dsimp only
  rw [flood, implied]
  dsimp only
  rw [known]
  exact congrArg Host.Outcome.next (if_neg fun h => other (Prod.ext h.1 h.2))

end

section
variable {f c : Nat} (flood : s.pkg.floodStart = some f)
include flood

theorem discoveryAnswer_records (rising : Rising s.cores) (small : c < 960) (whole : s.pkg.fused.getLsbD c = false)
    (early : s.pkg.ency < f + 1024) : Runs (.discoveryAnswer c) s fun t =>
      t.core c = { s.core c with answered := true } ∧ ∀ k, k ≠ c → t.core k = s.core k := by
  have answers : s.answers c = true := by rw [State.answers, whole, decide_eq_true small]; rfl
  have run : exec (.discoveryAnswer c) s = .next (s.modCore c fun k => { k with answered := true }) := by
    change execDiscoveryAnswer c s = _
    unfold execDiscoveryAnswer
    rw [flood]
    exact congrArg Host.Outcome.next (if_pos ⟨answers, early⟩)
  have core (k : Nat) := core_setCore s c k { s.core c with answered := true } rising
  exact ⟨_, run, (core c).trans (if_pos rfl), fun k other => (core k).trans (if_neg other)⟩

theorem discoveryAnswer_late (late : f + 1024 ≤ s.pkg.ency) : exec (.discoveryAnswer c) s = .next s := by
  change execDiscoveryAnswer c s = _
  unfold execDiscoveryAnswer
  rw [flood]
  exact congrArg Host.Outcome.next (if_neg fun h => absurd h.2 (by omega))

end

end

/-! ## Stage 2 and the boot launch (R394, R395) -/

section
variable {s : State} {tr far : Bool} {sum : BitVec 32}

theorem bringupStage2_elsewhere (off : s.pkg.stage ≠ 1) : exec (.bringupStage2 tr far sum) s = .next s :=
  congrArg Host.Outcome.next (if_pos off)

section
variable (stage : s.pkg.stage = 1) (fresh : s.pkg.bootSum = none) (unbooted : s.pkg.booted = false)
include stage fresh unbooted

theorem bringupStage2_untrained :
    exec (.bringupStage2 false far sum) s = .next (s.modPkg fun k => { k with fail := 4 }) := by
  change execBringupStage2 false far sum s = _
  unfold execBringupStage2
  dsimp only
  rw [if_neg (not_not.mpr stage), fresh, unbooted]
  rfl

theorem bringupStage2_noFar : exec (.bringupStage2 true false sum) s = .next (s.modPkg fun k => { k with fail := 5 }) := by
  change execBringupStage2 true false sum s = _
  unfold execBringupStage2
  dsimp only
  rw [if_neg (not_not.mpr stage), fresh, unbooted]
  rfl

end

/-- The cores of the map, cleared for VD 0, with its ports open and slot 0 in the boot wait. -/
def State.bootSlots (s : State) (cs : List Nat) (l : Nat) : State :=
  let s := cs.foldl (fun s c => (s.spadClear c).modCore c fun k => { k with
    lastVd := some 0, elastic := Vector.replicate 4 [], k := 0, scored := false }) s
  let s := cs.foldl (fun s c => s.setPort (portKey (siteX c) (siteY c) 0) { gen := 0, ovd := 0, isOpen := true, closed := none }) s
  cs.foldl (fun s c => s.setStrand (sidOf c 0) { s.newStrand (sidOf c 0) l 0 0 .spad 0 with slot := .parked .boot }) s

theorem placeBoot_eq (s : State) : ∃ l L, s.placeBoot = (((State.bootSlots { s with nextId := s.nextId + 1 } (s.coresWhere (·.enabled)) l).modVd 0
    fun d => { d with state := 1 }).modPkg fun k => { k with cnvd := Vector.replicate 2 0 }).setLaunch l L := by
  unfold State.placeBoot
  generalize s.coresWhere (·.enabled) = cs
  exact ⟨_, _, rfl⟩

section
variable (cs : List Nat) (l : Nat)

theorem bootSlots_keeps {γ : Type} (part : State → γ) (clears : ∀ u c, part (State.spadClear u c) = part u)
    (cores : ∀ u c x, part (State.setCore u c x) = part u) (ports : ∀ u k x, part (State.setPort u k x) = part u)
    (strands : ∀ u k x, part (State.setStrand u k x) = part u) : part (s.bootSlots cs l) = part s := by
  unfold State.bootSlots
  dsimp only
  rw [foldl_keeps part fun _ _ => strands .., foldl_keeps part fun _ _ => ports ..]
  exact foldl_keeps part (fun u c => (cores (u.spadClear c) c _).trans (clears u c)) cs s

theorem bootSlots_frames : (s.bootSlots cs l).frames = s.frames :=
  bootSlots_keeps cs l State.frames (fun _ _ => rfl) (fun _ _ _ => rfl) (fun _ _ _ => rfl) fun _ _ _ => rfl

theorem bootSlots_vds : (s.bootSlots cs l).vds = s.vds :=
  bootSlots_keeps cs l State.vds (fun _ _ => rfl) (fun _ _ _ => rfl) (fun _ _ _ => rfl) fun _ _ _ => rfl

/-- Slot 0 of every core of the map waits for its go word, and fetches from the scratchpad. -/
theorem bootSlots_strand (rising : Rising s.strands) {c : Nat} (listed : c ∈ cs) :
    ((s.bootSlots cs l).strand (16 * c)).slot = .parked .boot ∧ ((s.bootSlots cs l).strand (16 * c)).fetch = .spad := by
  refine foldl_reaches (inv := fun u => Rising u.strands) (good := fun u => (u.strand (16 * c)).slot = .parked .boot ∧ (u.strand (16 * c)).fetch = .spad)
    (fun _ _ => rising_tput) (fun u h => ?sets) (fun u d h held => ?stays) cs listed _ ?start
  case sets =>
    have there := strand_setStrand_same h (sidOf c 0) { u.newStrand (sidOf c 0) l 0 0 .spad 0 with slot := .parked .boot }
    exact ⟨(congrArg Strand.slot there :), (congrArg Strand.fetch there :)⟩
  case stays =>
    rw [strand_setStrand u _ (16 * c) _ h]
    split
    · exact ⟨rfl, rfl⟩
    · exact held
  case start =>
    rw [foldl_keeps State.strands fun _ _ => by rfl, foldl_keeps State.strands fun _ _ => by rfl]
    exact rising

end

theorem bootAgain_leaves (w : State) (rising : Rising w.vds) (l : Nat) (L : Launch) (n : Nat) (e : Event) (sum : BitVec 32) :
    let placed := ((w.modVd 0 fun d => { d with state := 1 }).modPkg fun k => { k with cnvd := Vector.replicate 2 0 }).setLaunch l L
    let t := (placed.modPkg fun k => { k with fail := 0, bootSum := some sum }).owe none n prioStart e
    t.frames = w.frames ∧ t.pkg.bootSum = some sum ∧ (t.vd 0).state = 1 ∧ ∀ k, t.strand k = w.strand k := by
  intro placed t
  have vds : t.vds = (w.setVd 0 { w.vd 0 with state := 1 }).vds := by simp [t, placed]
  have strands : t.strands = w.strands := by simp [t, placed]
  refine ⟨by simp [t, placed], by simp [t, placed], ?_, fun k => ?_⟩
  · have vd := (vd_setVd w 0 0 { w.vd 0 with state := 1 } rising).trans (if_pos rfl)
    rw [State.vd, vds]
    exact (congrArg Vd.state vd :)
  · rw [State.strand, strands]
    rfl

/-- The frame table and the trees set up anew. -/
def State.unframed (s : State) : State := { s with frames := [], lines := [], blocks := [], tree := [], nodes := [], ctrCache := [], mc := [] }

theorem bringupStage2_boots (canon : Canonical s) (stage : s.pkg.stage = 1) (fresh : s.pkg.bootSum = none) (unbooted : s.pkg.booted = false)
    (none_ : s.bootLaunch = none) {c : Nat} : Runs (.bringupStage2 true true sum) s fun t => t.frames = [] ∧ t.pkg.bootSum = some sum ∧
      (t.vd 0).state = 1 ∧ ((s.core c).enabled = true → c < 960 → (t.strand (16 * c)).slot = .parked .boot ∧ (t.strand (16 * c)).fetch = .spad) := by
  let u := s.unframed
  have run : exec (.bringupStage2 true true sum) s = .next ((u.placeBoot.modPkg fun k => { k with fail := 0, bootSum := some sum }).owe none
      (barLineAt (u.placeBoot.pkg.ency + 1)) prioStart (.bringupStage2 true true sum)) := by
    change execBringupStage2 true true sum s = _
    unfold execBringupStage2
    dsimp only
    rw [if_neg (not_not.mpr stage), fresh, unbooted, none_]
    unfold u State.unframed
    generalize State.placeBoot = placed
    rfl
  obtain ⟨l, L, placed⟩ := placeBoot_eq u
  have slots (listed : c ∈ u.coresWhere (·.enabled)) :=
    bootSlots_strand (s := { u with nextId := u.nextId + 1 }) (u.coresWhere (·.enabled)) l canon.rstrands listed
  have frames := bootSlots_frames (s := { u with nextId := u.nextId + 1 }) (u.coresWhere (·.enabled)) l
  have vds := bootSlots_vds (s := { u with nextId := u.nextId + 1 }) (u.coresWhere (·.enabled)) l
  have listed (small : c < 960) (on : (s.core c).enabled = true) : c ∈ u.coresWhere (·.enabled) :=
    (mem_coresWhere (s := u) (p := (·.enabled)) small).mpr on
  have rest := bootAgain_leaves _ (vds.symm ▸ canon.rvds) l L (barLineAt (u.placeBoot.pkg.ency + 1)) (.bringupStage2 true true sum) sum
  rw [← placed] at rest
  obtain ⟨same, boot, live, strand⟩ := rest
  exact ⟨_, run, same.trans frames, boot, live, fun on small => by rw [strand]; exact slots (listed small on)⟩

/-! ## The end of the boot launch (R395) -/

theorem bringupStage2_ends {C : BitVec 32} (stage : s.pkg.stage = 1) (boot : s.pkg.bootSum = some C)
    (counted : ((s.vd 0).counter 1).reached (s.coresWhere (·.enabled)).length = true) :
    exec (.bringupStage2 tr far sum) s = .next (s.endBoot C) := by
  change execBringupStage2 tr far sum s = _
  unfold execBringupStage2
  dsimp only
  rw [if_neg (not_not.mpr stage), boot]
  exact congrArg Host.Outcome.next (if_pos counted)

theorem endBoot_right (canon : Canonical s) {C : BitVec 32} (live : (s.vd 0).state = 1)
    (right : ((s.vd 0).counter 2).done = BitVec.ofNat 32 (s.coresWhere (·.enabled)).length * C) :
    ((s.endBoot C).vd 0).state = 2 ∧ (s.endBoot C).pkg.booted = true ∧ (s.endBoot C).pkg.bootSum = none := by
  let u := (s.modPkg fun k => { k with bootSum := none }).modPkg fun k => { k with booted := true }
  have ended : s.endBoot C = (u.modVd 0 fun d => { d with state := 2, retain := false }).after 256 prioBar (.vdResetEffect 0) := by
    unfold State.endBoot
    refine (if_pos right).trans (if_neg ?_)
    exact fun over_ => absurd (live.symm.trans over_) (by decide)
  have vd := vd_setVd u 0 0 { u.vd 0 with state := 2, retain := false } canon.rvds
  rw [if_pos rfl] at vd
  rw [ended]
  exact ⟨(congrArg Vd.state vd :), rfl, rfl⟩

theorem endBoot_wrong {C : BitVec 32} (wrong : ((s.vd 0).counter 2).done ≠ BitVec.ofNat 32 (s.coresWhere (·.enabled)).length * C) :
    (s.endBoot C).pkg = { s.pkg with bootSum := none, fail := 3 } := by
  unfold State.endBoot
  exact congrArg State.pkg (if_neg wrong)

theorem bootWaitRelease_cases {c : Nat} (waits : (s.strand (16 * c)).slot = .parked .boot) :
    (s.goWord c = 0 → exec (.bootWaitRelease c) s = .next s) ∧
    (s.goWord c ≠ 0 → exec (.bootWaitRelease c) s = .next (s.setStrand (16 * c) { s.strand (16 * c) with
      slot := .runnable, pc := BitVec.ofNat 64 (s.goWord c % 524288 / 8 * 8) })) :=
  ⟨fun zero => congrArg Host.Outcome.next (if_neg fun h => h.2 zero), fun go => congrArg Host.Outcome.next (if_pos ⟨waits, go⟩)⟩

theorem bootExpiry_idle (none_ : s.pkg.bootSum = none) : exec .bootExpiry s = .next s := by
  change execBootExpiry s = _
  unfold execBootExpiry
  rw [none_]

end

/-! ## Stage 3 (R383, R385), and the statement -/

section
variable {s : State} (q : Stage3Data)

theorem bringupStage3_elsewhere (off : s.pkg.stage ≠ 2) : exec (.bringupStage3 q) s = .next s :=
  congrArg Host.Outcome.next (if_pos off)

theorem bringupStage3_noLock (stage : s.pkg.stage = 2) (unlocked : q.lockOk = false) :
    exec (.bringupStage3 q) s = .next (s.modPkg fun k => { k with fail := 6 }) := by
  change execBringupStage3 q s = _
  unfold execBringupStage3
  rw [if_neg (not_not.mpr stage), unlocked]
  rfl

theorem bringupStage3_locks (stage : s.pkg.stage = 2) (locked : q.lockOk = true) : Runs (.bringupStage3 q) s fun t => t.pkg.torus = q.torus ∧
    t.pkg.stage = 2 ∧ (⟨none, barLineAt (s.pkg.ency + 1), prioBar⟩, Event.timeLock q.lock) ∈ t.agenda := by
  have run : exec (.bringupStage3 q) s = .next ((s.modPkg fun k => { k with
      torus := q.torus, peerport := q.peerport.map fun e => (e.1, e.2 % 8192) }).owe none (barLineAt (s.pkg.ency + 1)) prioBar (.timeLock q.lock)) := by
    change execBringupStage3 q s = _
    unfold execBringupStage3
    rw [if_neg (not_not.mpr stage), locked]
    rfl
  exact ⟨_, run, rfl, stage, mem_agenda_owe ..⟩

end

/-- Settles O58. -/
theorem startEvents : Obligations.StartEvents := by
  intro s p q sum tr far c x y dir canon stage failed n
  refine ⟨bringupStage0_elsewhere p, bringupStage0_noFlash p, bringupStage0_noLink p, bringupStage0_starts p canon.rstrands,
    fun off => congrArg Host.Outcome.next (if_pos off), bringupStage1_floods, fun f a b flood implied => ?packet,
    fun f flood => ?answers, bringupStage2_elsewhere, fun one fresh unbooted => ?stage2, fun C one boot counted => ?ends,
    bootWaitRelease_cases, bootExpiry_idle, fun C l L boot launch small => bootExpiry_drops canon boot launch small,
    bringupStage3_elsewhere q, bringupStage3_noLock q, bringupStage3_locks q⟩
  case packet =>
    exact ⟨discoveryPacket_discovers flood implied, fun e known => discoveryPacket_agrees flood implied known,
      fun a' b' e known other => discoveryPacket_differs flood implied known other⟩
  case answers =>
    exact ⟨discoveryAnswer_records flood canon.rcores, discoveryAnswer_late flood, mapBuild_fails flood, mapBuild_numbers canon flood⟩
  case stage2 =>
    exact ⟨bringupStage2_untrained one fresh unbooted, bringupStage2_noFar one fresh unbooted,
      fun none_ => bringupStage2_boots canon one fresh unbooted none_⟩
  case ends =>
    have run := bringupStage2_ends (tr := tr) (far := far) (sum := sum) one boot counted
    exact ⟨fun right live => ⟨_, run, endBoot_right canon live right⟩, fun wrong => ⟨_, run, endBoot_wrong wrong⟩⟩

end Sys2Proof.Machine
end

section
/-! Laws of what a launch has under way when it stops (R360): how it leaves the package's lock, drift and admissions. -/
namespace Sys2Proof.Machine
open Sys2Proof.Claims

/-! ## Writes and reads that are completed -/

section
variable (s : State)

theorem watchGo_beat (c off n : Nat) : (s.watchGo c off n).beat = s.beat := by
  unfold State.watchGo
  split <;> rfl

theorem spadWrite_beat (c off : Nat) (bs : List Byte) : (s.spadWrite c off bs).beat = s.beat :=
  watchGo_beat { s with spad := spadPuts s.spad c off bs } ..

theorem cacheEvents_beat (a : Access) (e : Elem) (addr : Nat) : (s.cacheEvents a e addr).beat = s.beat := by
  unfold State.cacheEvents
  extract_lets wr rd diverted
  have diverted_keeps : diverted.beat = s.beat := by
    unfold diverted
    split <;> rfl
  split
  · rfl
  · split
    · exact diverted_keeps
    · exact diverted_keeps

/-- An element of a timed send's reads (R260): its bytes join the packet's operation. -/
theorem doElem_flit {a : Access} {op : Nat} (kind : a.kind = .flit op) (e : Elem) :
    (s.doElem a e).1.beat = s.beat ∧ (s.doElem a e).2 = a := by
  unfold State.doElem
  split
  · exact ⟨rfl, rfl⟩
  · rw [kind]
    exact ⟨cacheEvents_beat .., rfl⟩

theorem doElems_flit {a : Access} {op : Nat} (kind : a.kind = .flit op) : (es : List Elem) → (s : State) → (s.doElems a es).1.beat = s.beat
  | [], _ => rfl
  | e :: es, s => by
    obtain ⟨one, same⟩ := doElem_flit s kind e
    have cut : s.doElems a (e :: es) = (s.doElem a e).1.doElems (s.doElem a e).2 es := rfl
    rw [cut, same, doElems_flit kind es]
    exact one

theorem readFlits_beat (l : Nat) : (s.readFlits l).beat = s.beat := by
  refine foldl_keeps State.beat (fun u e => ?_) _ s
  split
  · next op kind =>
    split
    · exact doElems_flit kind _ u
    · rfl
  · rfl

/-- The flits of a timed send that go to the spill area are written, or the packet leaves for another package. -/
theorem finishSend_beat (id : Nat) (p : Packet) : (s.finishSend id p).beat = s.beat := by
  have spills (n : Nat) (u : State) (c f : Nat) (bs : List Byte) :
      (if f = 0 then u else u.spadWrite c n bs).beat = u.beat := by
    split
    · rfl
    · exact spadWrite_beat ..
  unfold State.finishSend
  split
  · dsimp only
    split
    · split
      · refine foldl_keeps State.beat (fun u e => ?_) _ s
        split
        · split
          · exact spills ..
          · rfl
        · rfl
      · rfl
    · split
      · split
        · exact foldl_keeps State.beat (fun u f => spills ..) _ s
        · rfl
      · rfl
      · rfl
  · rfl

theorem physWrite_beat (pa : Nat) (bs : List Byte) (part : Option Nat) : (s.physWrite pa bs part false).beat = s.beat :=
  beat_of_beside (physWrite_beside ..)

theorem finishDrays_beat (l : Nat) : (s.finishDrays l).beat = s.beat := by
  refine foldl_keeps State.beat (fun u e => ?_) _ s
  refine foldl_keeps State.beat (fun w h => ?_) _ u
  dsimp only
  split
  · exact spadWrite_beat ..
  · split
    · exact physWrite_beat ..
    · rfl

end

/-! ## Touches that are completed (R167) -/

section
variable (s : State)

theorem vectorTrap_beat (sid seq : Nat) (pc : Word) (i : TrapInfo) : (s.vectorTrap sid seq pc i).beat = s.beat := by
  refine (takeTrap_beat ..).trans ?_
  split <;> rfl

theorem deliver_beat (sid seq : Nat) (d : Dst) (v mask : Wide) (due : Nat) : (s.deliver sid seq d v mask due).beat = s.beat := rfl

theorem landVec_beat (sid seq turn : Nat) (d : Dst) (v mask due : Nat) : (s.landVec sid seq turn d v mask due).beat = s.beat := by
  unfold State.landVec
  dsimp only
  split <;> rfl

theorem setDue_beat (sid seq due : Nat) : (s.setDue sid seq due).beat = s.beat := by
  unfold State.setDue
  refine Eq.trans rfl (foldl_keeps State.beat (fun u e => ?_) _ s)
  split <;> rfl

theorem hreadLand_beat (e : VEntry) (sid w vl : Nat) (rows : List (List Nat × Bool × Nat)) (due : Nat) :
    (s.hreadLand e sid w vl rows due).beat = s.beat := by
  unfold State.hreadLand
  split
  · extract_lets elems valids values masks flags flagged
    have values_keep : values.beat = s.beat := foldl_keeps State.beat (fun _ _ => by rfl) _ s
    have masks_keep : masks.beat = values.beat := foldl_keeps State.beat (fun _ _ => by rfl) _ values
    rw [setDue_beat]
    unfold flagged
    split
    · exact masks_keep.trans values_keep
    · exact (landVec_beat ..).trans (masks_keep.trans values_keep)
  · rfl

theorem oweTouch_beat (sid id d : Nat) : (s.oweTouch sid id d).beat = s.beat := by
  unfold State.oweTouch
  split <;> rfl

theorem endRun_beat (id : Nat) : (s.endRun id).beat = s.beat := rfl

/-- A row that an operation touches changes a tile and the operation; a row read by HREAD lands, or traps. -/
theorem touchRow_beat (id : Nat) (r : HarpRun) : (s.touchRow id r).beat = s.beat := by
  unfold State.touchRow
  extract_lets crew x m next
  have next_keeps (u : State) (r' : HarpRun) (pace : Nat) : (next u r' pace).beat = u.beat := by
    unfold next
    split
    · exact oweTouch_beat ..
    · rfl
  clear_value next
  split
  · exact next_keeps ..
  · split
    · exact next_keeps ..
    · split <;> rfl
  · split
    · rfl
    · exact next_keeps ..
  · exact next_keeps ..
  · split
    · exact oweTouch_beat ..
    · split
      · exact vectorTrap_beat ..
      · extract_lets els flags rows
        split
        · exact next_keeps ..
        · exact hreadLand_beat ..

theorem finishRun_beat (id : Nat) : (n : Nat) → (s : State) → (State.finishRun id n s).beat = s.beat
  | 0, _ => rfl
  | n + 1, s => by
    unfold State.finishRun
    split
    · exact (finishRun_beat id n _).trans (touchRow_beat ..)
    · rfl

theorem finishHarp_beat (l : Nat) : (s.finishHarp l).beat = s.beat := foldl_keeps State.beat (fun u id => finishRun_beat id 128 u) _ s

theorem dropWork_beat (l : Nat) : (s.dropWork l).beat = s.beat := rfl

/-- Everything that a launch has under way is completed or dropped (R360). -/
theorem stopAll_beat (l : Nat) : (s.stopAll l).beat = s.beat := by
  unfold State.stopAll
  extract_lets read sent dropped sids
  have sent_keeps : sent.beat = read.beat := by
    refine foldl_keeps State.beat (fun u p => ?_) _ read
    split
    · exact finishSend_beat ..
    · rfl
  refine (foldl_keeps State.beat (fun _ _ => by rfl) sids dropped).trans ?_
  exact (dropWork_beat ..).trans ((finishHarp_beat ..).trans ((finishDrays_beat ..).trans (sent_keeps.trans (readFlits_beat ..))))

end

end Sys2Proof.Machine
end

section
/-! Proof of the statement on scored launches at their bar lines (O54): their start, their endings, their pre-emption and their resumption. -/
namespace Sys2Proof.Machine
open Sys2Proof.Claims

/-! ## Release and lapse (R289) -/

/-- A machine without the reservations of a launch that is about to leave it. -/
def State.unreserved (s : State) (l : Nat) : State :=
  let L := s.launch l
  let s := (L.regions.flatMap (·.frames)).foldl (fun s f => s.setFrame f { s.frame f with pins := (s.frame f).pins - 1 }) s
  let s := s.harps.foldl (fun s h =>
    let s := (h.2.saved.filter fun e => e.1 == l).foldl (fun s e => s.modTile h.1 e.2.1 fun x => { x with own := e.2.2 }) s
    s.modHarp h.1 fun h => { h with
      saved := h.saved.filter fun e => decide (e.1 ≠ l), wheel := h.wheel.filter fun w => decide (w.launch ≠ l) }) s
  let s := if L.st = .preempted then s else L.cores.foldl (fun s c => s.modCore c.1 fun k =>
    k.without l (s.scoredElse l c.1)) s
  s.modPkg fun k => { k with nadm := k.nadm - 1 }

section
variable (s : State) (l : Nat)

theorem release_eq : s.release l = (s.unreserved l).retire l := rfl

theorem unreserved_keeps {γ : Type} (part : State → γ) (frames : ∀ u f x, part (State.setFrame u f x) = part u)
    (harps : ∀ u k x, part (State.setHarp u k x) = part u) (cores : ∀ u k x, part (State.setCore u k x) = part u)
    (pkg : ∀ u f, part (State.modPkg u f) = part u) : part (s.unreserved l) = part s := by
  unfold State.unreserved
  extract_lets L unpinned given freed
  have pins : part unpinned = part s := foldl_keeps part (fun _ _ => frames ..) _ s
  have tiles : part given = part unpinned := by
    refine foldl_keeps part (fun u h => ?_) _ unpinned
    exact (harps ..).trans (foldl_keeps part (fun _ _ => harps ..) _ u)
  have left : part freed = part given := by
    unfold freed
    split
    · rfl
    · exact foldl_keeps part (fun _ _ => cores ..) _ given
  exact (pkg ..).trans (left.trans (tiles.trans pins))

theorem unreserved_launches : (s.unreserved l).launches = s.launches :=
  unreserved_keeps s l State.launches (fun _ _ _ => rfl) (fun _ _ _ => rfl) (fun _ _ _ => rfl) fun _ _ => rfl

theorem unreserved_mem : (s.unreserved l).mem = s.mem :=
  unreserved_keeps s l State.mem (fun _ _ _ => rfl) (fun _ _ _ => rfl) (fun _ _ _ => rfl) fun _ _ => rfl

theorem release_leaves (rising : Rising s.launches) : (s.release l).launch l = {} ∧ (s.release l).mem = s.mem := by
  obtain ⟨gone, mem⟩ := retire_leaves (s := s.unreserved l) (l := l) ((unreserved_launches s l).symm ▸ rising)
  exact ⟨gone, mem.trans (unreserved_mem s l)⟩

/-- A launch that lapses has left, and is one admission fewer. -/
theorem lapse_leaves (canon : Canonical s) : (s.lapse l).launch l = {} ∧ (s.lapse l).pkg.nadm = s.pkg.nadm - 1 := by
  refine ⟨?_, congrArg Beat.nadm (lapse_beat s l)⟩
  unfold State.lapse
  extract_lets L done
  have sound : Canonical done := ite_canon (fun _ => canon) fun _ => State.setLaunch_canon _ _ _ canon
  exact (release_leaves _ l (State.postScored_canon _ _ _ _ _ _ _ _ (State.recordCancelled_canon _ _ sound)).rlaunches).1

/-! ## Endings (R294, R360) -/

/-- A launch that is over, recorded and posted, before its release. -/
def State.overAt (s : State) (l : Nat) (cancelled : Bool) : State :=
  let L := s.launch l
  let gone := L.st == .preempted
  let s := if gone then { s with images := s.images.filter fun e => decide (e.1 ≠ l) } else s.stopAll l
  let s := (s.stopUnits l).recordCancelled l
  let s := if gone then s.modLaunch l fun L => { L with st := .preempted } else s
  match cancelled, L.first with
  | false, some (_, core, slot, t, epc) =>
    let s := (s.postScored L t.ecause core slot epc t.eval L.firstAt).postIrq L.vd 2
    if t.cause = 15 ∧ t.detail = 8 then s.postIrq L.vd 6 else s
  | _, _ => s

theorem endScored_eq (cancelled : Bool) : s.endScored l cancelled = (s.overAt l cancelled).release l := rfl

theorem stopUnits_beat : (s.stopUnits l).beat = s.beat := by
  unfold State.stopUnits
  dsimp only
  split
  · rfl
  · refine Eq.trans (beat_of_uncounted (countCanc_uncounted ..)) ?_
    rfl

theorem overAt_beat (cancelled : Bool) : (s.overAt l cancelled).beat = s.beat := by
  unfold State.overAt
  extract_lets L gone stopped recorded held
  have stops : stopped.beat = s.beat := by
    unfold stopped
    split
    · rfl
    · exact stopAll_beat ..
  have records : recorded.beat = stopped.beat := (beat_of_uncounted (recordCancelled_uncounted ..)).trans (stopUnits_beat ..)
  have holds : held.beat = recorded.beat := by
    unfold held
    split <;> rfl
  rw [← stops, ← records, ← holds]
  split
  · dsimp only
    split
    · rw [postIrq_beat, postIrq_beat, postScored_beat]
    · rw [postIrq_beat, postScored_beat]
  · rfl

theorem overAt_canon (cancelled : Bool) (canon : Canonical s) : Canonical (s.overAt l cancelled) := by
  unfold State.overAt
  extract_lets L gone stopped recorded held
  have stops : Canonical stopped := ite_canon (fun _ => canon) fun _ => State.stopAll_canon _ _ canon
  have records : Canonical recorded := State.recordCancelled_canon _ _ (State.stopUnits_canon _ _ stops)
  have holds : Canonical held := ite_canon (fun _ => State.modLaunch_canon _ _ _ records) fun _ => records
  split
  · next core slot i epc _ =>
    have posted := State.postIrq_canon _ L.vd 2 (State.postScored_canon held L i.ecause core slot epc i.eval L.firstAt holds)
    exact ite_canon (fun _ => State.postIrq_canon _ _ _ posted) fun _ => posted
  · exact holds

/-- A launch that ends leaves, and is one admission fewer. -/
theorem endScored_leaves (canon : Canonical s) (cancelled : Bool) :
    (s.endScored l cancelled).launch l = {} ∧ (s.endScored l cancelled).pkg.nadm = s.pkg.nadm - 1 := by
  rw [endScored_eq]
  refine ⟨(release_leaves _ l (overAt_canon s l cancelled canon).rlaunches).1, ?_⟩
  have beat := (release_beat (s.overAt l cancelled) l).trans (congrArg Beat.less (overAt_beat s l cancelled))
  exact congrArg Beat.nadm beat

theorem scoredLaunchRelease_frees (canon : Canonical s) (scored : (s.launch l).scored = true) (over_ : (s.launch l).st = .done) :
    Runs (.scoredLaunchRelease l) s fun t => t.launch l = {} ∧ t.pkg.nadm = s.pkg.nadm - 1 ∧ t.mem = s.mem := by
  obtain ⟨gone, mem⟩ := release_leaves s l canon.rlaunches
  exact ⟨_, congrArg Host.Outcome.next (if_pos ⟨scored, over_⟩), gone, congrArg Beat.nadm (release_beat s l), mem⟩

end

/-! ## Pre-emption that is asked for (R361) -/

section
variable {s : State} {l : Nat}

/-- A pre-emption that is asked for marks its launch, and no strand feels it yet. -/
theorem askPreemptAt_marks (rising : Rising s.launches) (lcy : Nat) : ∃ pre,
    (s.askPreemptAt l lcy).launch l = { s.launch l with preAt := pre } ∧ (s.askPreemptAt l lcy).strands = s.strands := by
  unfold State.askPreemptAt
  dsimp only
  split
  · exact ⟨_, (launch_setLaunch s l l _ rising).trans (if_pos rfl), rfl⟩
  · exact ⟨_, rfl, rfl⟩

theorem askPreempt_marks (rising : Rising s.launches) : ∃ pre,
    (s.askPreempt l).launch l = { s.launch l with preAt := pre } ∧ (s.askPreempt l).strands = s.strands := by
  have told := tellTime_roster s l (.preempt (s.lcyL l))
  obtain ⟨pre, launch, strands⟩ := askPreemptAt_marks (s := s.tellTime l (.preempt (s.lcyL l))) (l := l)
    ((launches_of_roster told).symm ▸ rising) (s.lcyL l)
  have same : (s.tellTime l (.preempt (s.lcyL l))).launch l = s.launch l := congrArg (tget ({} : Launch) l) (launches_of_roster told)
  exact ⟨pre, launch.trans (by rw [same]), strands.trans (strands_of_roster told)⟩

/-! ## Start (R290) -/

/-- A strand at the start of a scored launch. -/
def Strand.opens (x : Strand) (l : Nat) (arg : Word) : Prop :=
  x.slot = .runnable ∧ x.launch = some l ∧ x.fetch = .buffer ∧ x.priv = 0 ∧ x.rg 2 = arg

theorem newStrand_opens (s : State) (sid l : Nat) (entry arg tvec : Word) : (s.newStrand sid l entry arg .buffer tvec).opens l arg :=
  ⟨rfl, rfl, rfl, rfl, by simp [State.newStrand, Strand.rg]⟩

/-- A started launch runs from LCY 0, and so does every strand of it. -/
theorem startScoredLaunch_starts (canon : Canonical s) : let t := s.startScoredLaunch l
    (t.launch l).st = .running ∧ (t.launch l).lcy = some 0 ∧ Rising t.launches ∧
      ∀ sid ∈ (s.launch l).sids, (t.strand sid).opens l (s.launch l).arg := by
  unfold State.startScoredLaunch
  extract_lets L readied woken tvec opened started t
  have woken_sound : Canonical woken := State.modPart_canon _ _ _
    (foldl_canonical _ (fun _ _ h => State.modCore_canon _ _ _ (State.readyCore_canon _ _ _ h)) _ s canon)
  have opened_sound : Canonical opened := foldl_canonical _ (fun _ _ h => State.setStrand_canon _ _ _ h) _ woken woken_sound
  have started_launch := launch_setLaunch opened l l
    { L with st := .running, lcy := some 0, units := L.sids.map fun sid => (opened.unitOf sid, .active) } opened_sound.rlaunches
  rw [if_pos rfl] at started_launch
  have kept : t.roster = started.roster := (loadWheels_roster _).trans rfl
  have launch : t.launch l = started.launch l := congrArg (tget ({} : Launch) l) (launches_of_roster kept)
  refine ⟨(congrArg Launch.st (launch.trans started_launch) :), (congrArg Launch.lcy (launch.trans started_launch) :),
    (launches_of_roster kept).symm ▸ (State.setLaunch_canon _ _ _ opened_sound).rlaunches, fun sid listed => ?_⟩
  have strand : t.strand sid = opened.strand sid := congrArg (tget ({} : Strand) sid) ((strands_of_roster kept :))
  rw [strand]
  refine foldl_reaches (inv := fun u => Rising u.strands) (good := fun u => (u.strand sid).opens l L.arg) (fun _ _ => rising_tput)
    (fun u h => ?sets) (fun u c h held => ?stays) L.sids listed woken woken_sound.rstrands
  case sets =>
    rw [strand_setStrand_same h]
    exact newStrand_opens ..
  case stays =>
    rw [strand_setStrand u c sid _ h]
    split
    · exact newStrand_opens ..
    · exact held

/-- What the start of a launch leaves: at thermal level 2 it is to leave again at once (R390). -/
def State.startedAt (s : State) (l : Nat) : State :=
  let t := s.startScoredLaunch l
  if t.pkg.therm ≥ 2 then (t.modLaunch l fun L => { L with thermal := true }).askPreempt l else t

theorem startedAt_starts (canon : Canonical s) : let t := s.startedAt l
    (t.launch l).st = .running ∧ (t.launch l).lcy = some 0 ∧ ∀ sid ∈ (s.launch l).sids, (t.strand sid).opens l (s.launch l).arg := by
  obtain ⟨st, lcy, rising, opens⟩ := startScoredLaunch_starts (l := l) canon
  unfold State.startedAt
  dsimp only
  split
  · generalize s.startScoredLaunch l = t at *
    have marked := (launch_setLaunch t l l { t.launch l with thermal := true } rising).trans (if_pos rfl)
    obtain ⟨pre, launch, strands⟩ := askPreempt_marks (s := t.setLaunch l { t.launch l with thermal := true }) (l := l) (rising_tput rising)
    rw [marked] at launch
    refine ⟨(congrArg Launch.st launch).trans st, (congrArg Launch.lcy launch).trans lcy, fun sid listed => ?_⟩
    have strand : _ = t.strand sid := congrArg (tget ({} : Strand) sid) strands
    exact (strand ▸ opens sid listed :)
  · exact ⟨st, lcy, opens⟩

section
variable (scored : (s.launch l).scored = true) (admitted : (s.launch l).st = .admitted)
include scored admitted

section
variable (due : 4096 * (s.launch l).startbar ≤ s.pkg.ency) (awake : ¬ s.pkg.restbar = some (s.pkg.ency / 4096))
include due awake

theorem scoredLaunchStart_due : exec (.scoredLaunchStart l false) s = .next
    (if ((s.launch l).reported ∨ false) ∧ s.coresReady (s.launch l) ∧ s.pkg.locked then s.startedAt l else s.lapse l) := by
  change execScoredLaunchStart l false s = _
  unfold execScoredLaunchStart
  dsimp only
  rw [if_neg (by rw [scored, admitted]; decide), if_neg (by omega), if_neg awake]
  simp only [Bool.false_eq_true, or_false]
  rfl

theorem scoredLaunchStart_starts (canon : Canonical s) (reported : (s.launch l).reported = true)
    (ready : s.coresReady (s.launch l) = true ∧ s.pkg.locked = true) : Runs (.scoredLaunchStart l false) s fun t =>
      (t.launch l).st = .running ∧ (t.launch l).lcy = some 0 ∧ ∀ sid ∈ (s.launch l).sids, let x := t.strand sid
        x.slot = .runnable ∧ x.launch = some l ∧ x.fetch = .buffer ∧ x.priv = 0 ∧ x.rg 2 = (s.launch l).arg :=
  ⟨_, (scoredLaunchStart_due scored admitted due awake).trans (congrArg Host.Outcome.next (if_pos ⟨.inl reported, ready.1, ready.2⟩)),
    startedAt_starts canon⟩

theorem scoredLaunchStart_lapses (canon : Canonical s)
    (fails : (s.launch l).reported = false ∨ ¬ (s.coresReady (s.launch l) = true ∧ s.pkg.locked = true)) :
    Runs (.scoredLaunchStart l false) s fun t => t.launch l = {} ∧ t.pkg.nadm = s.pkg.nadm - 1 := by
  refine ⟨_, (scoredLaunchStart_due scored admitted due awake).trans (congrArg Host.Outcome.next (if_neg fun ⟨reported, ready⟩ => ?_)),
    lapse_leaves s l canon⟩
  rcases fails with unreported | unready
  · rw [unreported] at reported
    exact absurd reported (by decide)
  · exact unready ready

end

theorem scoredLaunchStart_reports (early : s.pkg.ency < 4096 * ((s.launch l).startbar - 1)) :
    exec (.scoredLaunchStart l true) s = .next (s.setLaunch l { s.launch l with reported := true }) := by
  change execScoredLaunchStart l true s = _
  unfold execScoredLaunchStart
  dsimp only
  rw [if_neg (by rw [scored, admitted]; decide), if_pos (by omega), if_neg (by omega)]
  rfl

end

theorem timeArrival_admitted (scored : (s.launch l).scored = true) (e : Nat) : runEvent (.timeArrival l (.admitted e)) s =
    .next (s.setLaunch l { s.launch l with endlat := Nat.max (s.launch l).endlat (Nat.min e 2048) }) := by
  change execTimeArrival l (.admitted e) s = _
  exact congrArg Host.Outcome.next (if_neg (by rw [scored]; decide))

/-! ## The first ending event (R294, R359) -/

section
variable {f core slot : Nat} {i : TrapInfo} {epc : Word}

/-- A launch that has no ending bar line yet takes that of the event. -/
theorem endingAt_first (running : (s.launch l).st = .running) (open_ : (s.launch l).endAt = none) : ∃ first at_,
    s.endingAt l f core slot i epc = (s.setLaunch l { s.launch l with
      st := .ending, endAt := some (s.endLine l f), first := first, firstAt := at_ }).owe (some l) (s.endLine l f) prioEnd (.scoredLaunchEnd l) := by
  unfold State.endingAt
  dsimp only
  rw [if_pos (.inl running), open_]
  exact ⟨_, _, if_neg nofun⟩

end

theorem endingNotice_ends (rising : Rising s.launches) (scored : (s.launch l).scored = true) (running : (s.launch l).st = .running)
    (open_ : (s.launch l).endAt = none) {f detail : Nat} (timely : s.lcyL l ≤ f + Nat.max s.pkg.endlat (s.launch l).endlat) :
    Runs (.endingNotice l f detail) s fun t => (t.launch l).st = .ending ∧
      (t.launch l).endAt = some (barLineAt (f + Nat.max s.pkg.endlat (s.launch l).endlat)) ∧ t.strands = s.strands ∧ t.mem = s.mem := by
  have named : Nat.max f (s.lcyL l - Nat.max s.pkg.endlat (s.launch l).endlat) = f := Nat.max_eq_left (by omega)
  have run : exec (.endingNotice l f detail) s = .next (s.endingAt l f 0 0 { cause := 15, detail := detail, eval := BitVec.ofNat 64 f } 0) := by
    refine (congrArg Host.Outcome.next (if_pos scored) : execEndingNotice l f detail s = _).trans ?_
    rw [named]
  obtain ⟨first, at_, ends⟩ := endingAt_first (f := f) (core := 0) (slot := 0) (epc := 0)
    (i := { cause := 15, detail := detail, eval := BitVec.ofNat 64 f }) running open_
  rw [ends] at run
  have launch := (launch_setLaunch s l l { s.launch l with
    st := .ending, endAt := some (s.endLine l f), first := first, firstAt := at_ } rising).trans (if_pos rfl)
  exact ⟨_, run, (congrArg Launch.st launch :), (congrArg Launch.endAt launch :), rfl, rfl⟩

/-! ## Overrun (R294) -/

/-- A strand of a launch that has neither halted nor left. -/
def State.isLate (s : State) (l sid : Nat) : Bool :=
  (s.strand sid).launch == some l && (s.strand sid).slot != .halted && (s.strand sid).slot != .idle

theorem le_barLineAt (n : Nat) : n ≤ barLineAt n := by
  rw [barLineAt, ceilDiv]
  omega

/-- The ending event of an overrun at its strand. -/
def State.overruns (s : State) (l f sid : Nat) : State :=
  s.endingEvent l f (s.core (coreOf sid)).logical (slotOf sid) { cause := 15, detail := 7, eval := BitVec.ofNat 64 f } (s.strand sid).prev

section
variable {sid : Nat} (scored : (s.launch l).scored = true) (due : 4096 * (s.launch l).nb ≤ s.lcyL l) (one : (s.launch l).sids = [sid])
include scored due one

theorem overrun_clean (late : s.isLate l sid = false) : exec (.overrun l) s = .next s := by
  change execOverrun l s = _
  unfold execOverrun
  dsimp only
  rw [if_neg (by rw [scored]; simp; omega), one, List.filter_cons_of_neg (by rw [← State.isLate, late]; decide), List.filter_nil]
  rfl

theorem overrun_late (late : s.isLate l sid = true) : exec (.overrun l) s = .next (let f := 4096 * (s.launch l).nb
    ((s.overruns l f sid).modLaunch l fun L => { L with endAt := some (match L.endAt with | some x => Nat.min x f | none => f) }).owe
      (some l) f prioEnd (.scoredLaunchEnd l)) := by
  change execOverrun l s = _
  unfold execOverrun
  dsimp only
  rw [if_neg (by rw [scored]; simp; omega), one, List.filter_cons_of_pos (by rw [← State.isLate, late]), List.filter_nil]
  rfl

/-- The last bar of the launch is its ending bar line. -/
theorem overrun_ends (canon : Canonical s) (running : (s.launch l).st = .running) (open_ : (s.launch l).endAt = none)
    (late : s.isLate l sid = true) : Runs (.overrun l) s fun t => (t.launch l).endAt = some (4096 * (s.launch l).nb) ∧
      (t.launch l).st = .ending ∧ (⟨some l, 4096 * (s.launch l).nb, prioEnd⟩, Event.scoredLaunchEnd l) ∈ t.agenda := by
  have run := overrun_late scored due one late
  dsimp only at run
  generalize 4096 * (s.launch l).nb = f at run ⊢
  have told := tellTime_roster s l (.ending f 7)
  have same : (s.tellTime l (.ending f 7)).launch l = s.launch l := congrArg (tget ({} : Launch) l) (launches_of_roster told)
  obtain ⟨first, at_, ends⟩ := endingAt_first (s := s.tellTime l (.ending f 7)) (f := f) (core := (s.core (coreOf sid)).logical) (slot := slotOf sid)
    (epc := (s.strand sid).prev) (i := { cause := 15, detail := 7, eval := BitVec.ofNat 64 f }) (same ▸ running) (same ▸ open_)
  have risen : Rising (s.tellTime l (.ending f 7)).launches := (launches_of_roster told).symm ▸ canon.rlaunches
  rw [State.overruns, State.endingEvent, ends] at run
  generalize s.tellTime l (.ending f 7) = u at run same risen
  have first_ := (launch_setLaunch u l l { u.launch l with
    st := .ending, endAt := some (u.endLine l f), first := first, firstAt := at_ } risen).trans (if_pos rfl)
  let w := (u.setLaunch l { u.launch l with st := .ending, endAt := some (u.endLine l f), first := first, firstAt := at_ }).owe
    (some l) (u.endLine l f) prioEnd (.scoredLaunchEnd l)
  have marked : w.launch l = _ := first_
  have last : (match (w.launch l).endAt with | some x => Nat.min x f | none => f) = f := by
    rw [marked]
    exact Nat.min_eq_right ((Nat.le_add_right ..).trans (le_barLineAt _))
  have launch := (launch_setLaunch w l l { w.launch l with
    endAt := some (match (w.launch l).endAt with | some x => Nat.min x f | none => f) } (rising_tput risen)).trans (if_pos rfl)
  refine ⟨_, run, (congrArg Launch.endAt launch : _ = some (match (w.launch l).endAt with | some x => Nat.min x f | none => f)).trans
    (congrArg some last), ?_, mem_agenda_owe ..⟩
  have ending : (w.launch l).st = .ending := (congrArg Launch.st marked :)
  exact (congrArg Launch.st launch :).trans ending

end

/-! ## Ending bar lines (R360) -/

theorem scoredLaunchEnd_ends (canon : Canonical s) (live : (s.launch l).st = .running ∨ (s.launch l).st = .ending) {n : Nat}
    (line : (s.launch l).endAt = some n) (due : n ≤ s.lcyL l) : Runs (.scoredLaunchEnd l) s fun t =>
      t.launch l = {} ∧ t.pkg.nadm = s.pkg.nadm - 1 := by
  have run : exec (.scoredLaunchEnd l) s = .next (s.endScored l false) := by
    change execScoredLaunchEnd l s = _
    unfold execScoredLaunchEnd
    dsimp only
    rw [line]
    rcases live with running | ending
    · rw [running]
      exact congrArg Host.Outcome.next (if_pos (decide_eq_true due))
    · rw [ending]
      exact congrArg Host.Outcome.next (if_pos (decide_eq_true due))
  exact ⟨_, run, endScored_leaves s l canon false⟩

theorem scoredLaunchEnd_early (live : (s.launch l).st = .running ∨ (s.launch l).st = .ending) {n : Nat}
    (line : (s.launch l).endAt = some n) (early : s.lcyL l < n) (kept : (s.launch l).cancelAt = none) :
    exec (.scoredLaunchEnd l) s = .next s := by
  have late : ¬ decide (n ≤ s.lcyL l) = true := by rw [decide_eq_true_iff]; omega
  change execScoredLaunchEnd l s = _
  unfold execScoredLaunchEnd
  dsimp only
  rw [line, kept]
  rcases live with running | ending
  · rw [running]
    exact congrArg Host.Outcome.next ((if_neg late).trans (if_neg nofun))
  · rw [ending]
    exact congrArg Host.Outcome.next ((if_neg late).trans (if_neg nofun))

/-! ## Requests of the control page (R361, R364) -/

theorem preq_asks (rising : Rising s.launches) {p : Nat} (page : (s.part p).ctlpage ≠ 0)
    (valid : (s.memNat ((s.part p).ctlpage + 0x140) 8).testBit 16 = true)
    (named : s.scoredNamed p (s.memNat ((s.part p).ctlpage + 0x140) 8 % 65536) = some l) (running : (s.launch l).st = .running)
    (stays : (s.launch l).preAt = none) : Runs (.preq p) s fun t =>
      (t.launch l).preAt = some (barLineAt (s.lcyL l + Nat.max s.pkg.endlat (s.launch l).endlat)) ∧ t.strands = s.strands := by
  generalize word : s.memNat ((s.part p).ctlpage + 0x140) 8 = w at valid named
  let u := s.engineWrite ((s.part p).ctlpage + 0x140 + 2) (toBytes 1 (field w 16 8 - 1))
  have kept : u.beside = s.beside := engineWrite_beside ..
  have launches := launches_of_beside kept
  have launch : u.launch l = s.launch l := congrArg (tget ({} : Launch) l) launches
  have named' : u.scoredNamed p (w % 65536) = some l := by rw [State.scoredNamed, launches]; exact named
  have run : exec (.preq p) s = .next (u.askPreempt l) := by
    change execPreq p s = _
    unfold execPreq
    dsimp only
    rw [if_neg page, word, if_pos valid]
    change Host.Outcome.next (match u.scoredNamed p (w % 65536) with | some l => u.askPreempt l | none => u) = _
    rw [named']
  obtain ⟨pre, -, strands⟩ := askPreempt_marks (s := u) (l := l) (launches.symm ▸ rising)
  have asked := askPreempt_launch (s := u) (l := l) (launches.symm ▸ rising) (launch.symm ▸ running) (launch.symm ▸ stays)
  refine ⟨_, run, (congrArg Launch.preAt asked).trans ?_, strands.trans (strands_of_beside kept)⟩
  rw [State.leaveLine, State.lcyL, launch, pkg_of_beside kept]
  rfl

theorem rreq_asks (rising : Rising s.launches) {p : Nat} (page : (s.part p).ctlpage ≠ 0)
    (named : s.scoredNamed p (s.memNat ((s.part p).ctlpage + 0x148) 8 % 65536) = some l) (saved : (s.launch l).st = .preempted)
    (unasked : (s.launch l).resumeAt = none) (kept : (s.launch l).cancelAt = none) :
    let w := s.memNat ((s.part p).ctlpage + 0x148) 8
    Runs (.rreq p) s fun t => (t.launch l).resumeAt =
      some (if w / 65536 % 2 ^ 48 ≤ s.pkg.ency / 4096 + 1 then s.pkg.ency / 4096 + 2 else w / 65536 % 2 ^ 48) := by
  intro w
  let bar := if w / 65536 % 2 ^ 48 ≤ s.pkg.ency / 4096 + 1 then s.pkg.ency / 4096 + 2 else w / 65536 % 2 ^ 48
  have run : exec (.rreq p) s = .next ((s.tellTime l (.resume bar)).askResume l bar) := by
    change execRreq p s = _
    unfold execRreq
    dsimp only
    rw [if_neg page, named]
    rfl
  have told := tellTime_roster s l (.resume bar)
  have same : (s.tellTime l (.resume bar)).launch l = s.launch l := congrArg (tget ({} : Launch) l) (launches_of_roster told)
  have risen : Rising (s.tellTime l (.resume bar)).launches := (launches_of_roster told).symm ▸ rising
  refine ⟨_, run, ?_⟩
  generalize s.tellTime l (.resume bar) = u at same risen
  unfold State.askResume
  dsimp only
  rw [if_pos ⟨same.symm ▸ saved, same.symm ▸ unasked, same.symm ▸ kept⟩]
  let v := u.setLaunch l { u.launch l with resumeAt := some bar }
  have launches := (KeepsClocks.foldl (fun (t : State) (c : Nat × Nat) => KeepsClocks.clearSlots t c.1 c.2) (u.launch l).cores v).launches
  have launch := (launch_setLaunch u l l { u.launch l with resumeAt := some bar } risen).trans (if_pos rfl)
  exact (congrArg (fun m => (tget ({} : Launch) l m).resumeAt) launches).trans (congrArg Launch.resumeAt launch)

/-! ## The save (R363) -/

/-- The images of a launch that leaves, written, and its strands and cores given up. -/
def State.savedAt (s : State) (l : Nat) : State :=
  let L := s.launch l
  let img := s.takeImage l (s.saveAt (L.part.getD 0))
  let (bs, s) := s.freeBytes (img.size / 8)
  let s := (s.linesWrite img.addr bs (img.size / 64 + 1)).dropWork l
  let s := (img.strands.map (·.1)).foldl State.idle s
  L.cores.foldl (fun s c => s.modCore c.1 fun k => { k.without l (s.scoredElse l c.1) with csrPend := [] }) s

theorem linesWrite_images (u : State) (a : Nat) (bs : List Byte) (n : Nat) : (u.linesWrite a bs n).images = u.images :=
  (congrArg State.images (linesWrite_written n u a bs).rest :)

theorem savedAt_keeps (s : State) (l : Nat) : (s.savedAt l).images = s.images ∧ (s.savedAt l).launches = s.launches := by
  unfold State.savedAt
  dsimp only
  obtain ⟨ctr, freed⟩ := freeBytes_eq ((s.takeImage l (s.saveAt ((s.launch l).part.getD 0))).size / 8) s
  rw [freed]
  refine ⟨?images, ?launches⟩
  case images =>
    rw [foldl_keeps State.images fun _ _ => by rfl, foldl_keeps State.images fun _ _ => by rfl]
    exact linesWrite_images ..
  case launches =>
    rw [foldl_keeps State.launches fun _ _ => by rfl, foldl_keeps State.launches fun _ _ => by rfl]
    exact launches_of_beside (linesWrite_beside ..)

/-- The launch marked as pre-empted, with its images beside those that are kept already. -/
def State.shelved (s w : State) (l : Nat) : State :=
  { w.setLaunch l { s.launch l with st := .preempted, frozen := false, preAt := none } with
    images := w.images ++ [(l, s.takeImage l (s.saveAt ((s.launch l).part.getD 0)))] }

theorem saveLaunch_eq (s : State) (l : Nat) : s.saveLaunch l =
    let L := s.launch l
    let t := s.shelved (s.savedAt l) l
    ((s.takeImage l (s.saveAt (L.part.getD 0))).strands.map (·.1)).foldl (fun s sid => s.now prioCancel (.slotFreed sid))
      (if L.thermal then t.postIrq L.vd 6 else t) := rfl

theorem saveLaunch_saves (rising : Rising s.launches) : let t := s.saveLaunch l
    (t.launch l).st = .preempted ∧ (t.launch l).lcy = (s.launch l).lcy ∧
      ∃ img, t.images = s.images ++ [(l, img)] ∧ img.strands = s.strands.filter fun e => e.2.launch == some l := by
  obtain ⟨images, launches⟩ := savedAt_keeps s l
  have risen : Rising (s.savedAt l).launches := launches.symm ▸ rising
  rw [saveLaunch_eq]
  dsimp only
  generalize State.savedAt s l = w at images risen
  have launch := (launch_setLaunch w l l { s.launch l with st := .preempted, frozen := false, preAt := none } risen).trans (if_pos rfl)
  have told (u : State) (sids : List Nat) : (sids.foldl (fun s sid => s.now prioCancel (.slotFreed sid)) u).launches = u.launches ∧
      (sids.foldl (fun s sid => s.now prioCancel (.slotFreed sid)) u).images = u.images :=
    ⟨foldl_keeps State.launches (fun _ _ => by rfl) sids u, foldl_keeps State.images (fun _ _ => by rfl) sids u⟩
  have signalled : (if (s.launch l).thermal then (s.shelved w l).postIrq (s.launch l).vd 6 else s.shelved w l).uninterrupted =
      (s.shelved w l).uninterrupted := by
    split
    · exact postIrq_uninterrupted ..
    · rfl
  generalize (if (s.launch l).thermal then (s.shelved w l).postIrq (s.launch l).vd 6 else s.shelved w l) = v at signalled
  obtain ⟨launches', images'⟩ := told v ((s.takeImage l (s.saveAt ((s.launch l).part.getD 0))).strands.map (·.1))
  have kept := launches'.trans (congrArg State.launches signalled :)
  have here : _ = (s.shelved w l).launch l := congrArg (tget ({} : Launch) l) kept
  refine ⟨?st, ?lcy, s.takeImage l (s.saveAt ((s.launch l).part.getD 0)), images'.trans ((congrArg State.images signalled :).trans ?images), rfl⟩
  case st => exact (congrArg Launch.st (here.trans launch) :)
  case lcy => exact (congrArg Launch.lcy (here.trans launch) :)
  case images =>
    rw [← images]
    rfl

section
variable {n : Nat} (running : (s.launch l).st = .running) (line : (s.launch l).preAt = some n)
include line

theorem scoredPreempt_early (early : s.lcyL l < n) : exec (.scoredPreempt l) s = .next s := by
  have late : ¬ n ≤ s.lcyL l := by omega
  change execScoredPreempt l s = _
  unfold execScoredPreempt
  dsimp only
  rw [line]
  exact congrArg Host.Outcome.next (if_pos (.inr (decide_eq_false late)))

include running in
theorem scoredPreempt_saves (open_ : (s.launch l).endAt = none) (kept : (s.launch l).cancelAt = none) (due : n ≤ s.lcyL l)
    (checked : (s.launch l).checks = 0) : exec (.scoredPreempt l) s = .next (s.saveLaunch l) := by
  have come : decide (n ≤ s.lcyL l) = true := decide_eq_true due
  change execScoredPreempt l s = _
  unfold execScoredPreempt
  dsimp only
  rw [line, open_, kept]
  dsimp only
  rw [if_neg (by rw [running, come]; decide), if_neg (by decide), if_neg (by decide), if_neg (not_not.mpr checked)]

end

/-! ## The resumption (R364) -/

/-- The images of a launch reloaded into its machine, before the launch goes on. -/
def State.reloaded (s : State) (l : Nat) (img : Image) : State :=
  let L := s.launch l
  let s := s.modPart (L.part.getD 0) fun r => { r with pstate := 0, idleSince := none }
  let mine {α : Type} (m : List (Nat × α)) : List (Nat × α) := m.filter fun e => e.1 == l
  let s := img.cores.foldl (fun s c => (s.readyCore L.vd c.1).modCore c.1 fun k => { k with
    clearing := none, winscale := c.2.winscale, k := L.k, scored := true, harpw := c.2.harpw, csrPend := c.2.csrPend, recv := c.2.recv
    cues := k.cues ++ mine c.2.cues, ibuf := k.ibuf ++ mine c.2.ibuf
    harpq := k.harpq ++ c.2.harpq.filter fun q => q.launch == some l }) s
  let s := L.cores.foldl (fun s c => s.spadClear c.1) s
  let s : State := { s with spad := img.spads.foldl (fun (m : Sparse Byte) (e : Nat × Byte) => tput 0 e.1 e.2 m) s.spad }
  let s := img.harps.foldl (fun s h => (s.launchTiles L h.1).foldl (fun s t =>
    s.modTile h.1 t fun x => { (tget ({} : TileState) t h.2.tiles) with own := x.own }) s) s
  let s := img.strands.foldl (fun s e => s.setStrand e.1 e.2) s
  { s with
    accesses := s.accesses ++ img.accesses, runs := s.runs ++ img.runs, ops := s.ops ++ img.ops, packets := s.packets ++ img.packets
    snaps := img.snaps.foldl (fun (m : List (Nat × Snapshot)) (e : Nat × Snapshot) => bind e.1 e.2 m) s.snaps
    images := s.images.filter fun (e : Nat × Image) => decide (e.1 ≠ l) }

theorem restoreLaunch_eq (s : State) (l : Nat) (img : Image) : s.restoreLaunch l img =
    let L := s.launch l
    let t := (s.reloaded l img).setLaunch l { L with
      st := if L.endAt.isSome then .ending else .running, resumeAt := none, thermal := false }
    ((img.strands.foldl (fun s e => if e.2.slot = .halted then s.now prioCount (.unitCompletion e.1) else s) t).issueNow
      (img.strands.map (·.1))).loadWheels := rfl

theorem reloaded_rising (canon : Canonical s) (img : Image) : Rising (s.reloaded l img).launches := by
  unfold State.reloaded
  extract_lets L woken mine placed cleared filled tiled strands
  have placed_sound : Canonical placed :=
    foldl_canonical _ (fun _ _ h => State.modCore_canon _ _ _ (State.readyCore_canon _ _ _ h)) _ woken (State.modPart_canon _ _ _ canon)
  have cleared_keeps : cleared.launches = placed.launches := foldl_keeps State.launches (fun _ _ => by rfl) _ placed
  have tiled_keeps : tiled.launches = filled.launches := by
    refine foldl_keeps State.launches (fun u h => ?_) _ filled
    exact foldl_keeps State.launches (fun _ _ => by rfl) _ u
  have strands_keep : strands.launches = tiled.launches := foldl_keeps State.launches (fun _ _ => by rfl) _ tiled
  have kept : strands.launches = placed.launches := strands_keep.trans (tiled_keeps.trans cleared_keeps)
  exact (kept.symm ▸ placed_sound.rlaunches :)

/-- What the completion of halted units and the next issues leave. -/
theorem resumed_keeps (v : State) (img : Image) :
    let t := ((img.strands.foldl (fun s e => if e.2.slot = .halted then s.now prioCount (.unitCompletion e.1) else s) v).issueNow
      (img.strands.map (·.1))).loadWheels
    t.launches = v.launches ∧ t.images = v.images := by
  have step {γ : Type} (part : State → γ) (owe : ∀ (u : State) c n p e, part (u.owe c n p e) = part u) :
      part (img.strands.foldl (fun s e => if e.2.slot = .halted then s.now prioCount (.unitCompletion e.1) else s) v) = part v := by
    refine foldl_keeps part (fun u e => ?_) _ v
    split
    · exact owe ..
    · rfl
  refine ⟨(launches_of_roster (loadWheels_roster _)).trans (step State.launches fun _ _ _ _ _ => rfl), ?_⟩
  exact (foldl_keeps State.images (fun _ _ => by rfl) _ _).trans (step State.images fun _ _ _ _ _ => rfl)

/-- A launch that resumes goes on at the LCY of its save, and its images are gone. -/
theorem restoreLaunch_resumes (canon : Canonical s) (img : Image) (open_ : (s.launch l).endAt = none) : let t := s.restoreLaunch l img
    (t.launch l).st = .running ∧ (t.launch l).resumeAt = none ∧ (t.launch l).lcy = (s.launch l).lcy ∧ look l t.images = none := by
  have gone : look l (s.reloaded l img).images = none := look_unbind_same ..
  have rising := reloaded_rising (l := l) canon img
  rw [restoreLaunch_eq]
  dsimp only
  generalize s.reloaded l img = u at gone rising
  have launch := launch_setLaunch u l l { s.launch l with
    st := if (s.launch l).endAt.isSome then .ending else .running, resumeAt := none, thermal := false } rising
  rw [if_pos rfl] at launch
  obtain ⟨launches, images⟩ := resumed_keeps (u.setLaunch l { s.launch l with
    st := if (s.launch l).endAt.isSome then .ending else .running, resumeAt := none, thermal := false }) img
  have here := (congrArg (tget ({} : Launch) l) launches).trans launch
  have runs : (if (s.launch l).endAt.isSome then LState.ending else .running) = .running := by rw [open_]; rfl
  exact ⟨(congrArg Launch.st here :).trans runs, (congrArg Launch.resumeAt here :), (congrArg Launch.lcy here :), (congrArg (look l) images).trans gone⟩

section
variable {bar : Nat} (saved : (s.launch l).st = .preempted) (asked : (s.launch l).resumeAt = some bar)
include saved asked

theorem scoredResume_early (early : s.pkg.ency < 4096 * bar) : exec (.scoredResume l) s = .next s := by
  change execScoredResume l s = _
  unfold execScoredResume
  dsimp only
  rw [saved, asked]
  exact congrArg Host.Outcome.next (if_pos early)

theorem scoredResume_restores {img : Image} (due : 4096 * bar ≤ s.pkg.ency) (awake : ¬ s.pkg.restbar = some (s.pkg.ency / 4096))
    (kept : look l s.images = some img) (ready : s.coresReady (s.launch l) = true ∧ s.pkg.locked = true) (cool : s.pkg.therm < 2)
    (clean : s.linesFault img.addr img.size = none) (same : ∀ c ∈ img.cores, (s.core c.1).logical = c.2.logical) :
    exec (.scoredResume l) s = .next (s.restoreLaunch l img) := by
  have all : (img.cores.all fun c => (s.core c.1).logical == c.2.logical) = true :=
    List.all_eq_true.mpr fun c mem => beq_iff_eq.mpr (same c mem)
  change execScoredResume l s = _
  unfold execScoredResume
  dsimp only
  rw [saved, asked]
  dsimp only
  rw [if_neg (by omega), if_neg awake, kept]
  dsimp only
  rw [if_pos ⟨ready.1, all, cool, ready.2⟩, clean]

end

end

/-- Settles O54. -/
theorem scoredLaunchEvents : Obligations.ScoredLaunchEvents := by
  intro s l p canon L resting ready line
  refine ⟨fun scored admitted due awake => ?start, scoredLaunchStart_reports, timeArrival_admitted, fun f detail => ?notice, fun sid => ?overrun,
    fun n live ends => ?ends, scoredLaunchRelease_frees s l canon, preq_asks canon.rlaunches, fun n running asked open_ kept => ?preempt,
    rreq_asks canon.rlaunches, fun bar img saved asked => ?resume⟩
  case start =>
    exact ⟨scoredLaunchStart_starts scored admitted due awake canon, scoredLaunchStart_lapses scored admitted due awake canon⟩
  case notice =>
    exact fun scored running _ open_ timely => endingNotice_ends canon.rlaunches scored running open_ timely
  case overrun =>
    intro scored running open_ due one mine
    refine ⟨fun halted => overrun_clean scored due one ?_, fun runs => overrun_ends scored due one canon running open_ ?_⟩
    · rw [State.isLate, halted]
      exact congrArg (· && _) (Bool.and_false _)
    · rw [State.isLate, runs, mine]
      simp
  case ends =>
    exact ⟨scoredLaunchEnd_ends canon live ends, scoredLaunchEnd_early live ends⟩
  case preempt =>
    exact ⟨scoredPreempt_early asked, fun due checked =>
      ⟨_, scoredPreempt_saves running asked open_ kept due checked, saveLaunch_saves canon.rlaunches⟩⟩
  case resume =>
    refine ⟨scoredResume_early saved asked, fun due awake kept ready cool clean same open_ => ?_⟩
    exact ⟨_, scoredResume_restores saved asked due awake kept ready cool clean same, restoreLaunch_resumes canon img open_⟩

end Sys2Proof.Machine
end

section
/-! Proof of the statement on the steps of Dray commands (O50): one command of a Dray by itself, unit by unit. -/
namespace Sys2Proof.Machine
open Sys2Proof.Claims

/-! ## A command in its queue -/

section
variable {s : State} {n : Nat} {c k : DrayCmd}

theorem setCmd_alone (rising : Rising s.drays) (one : (s.dray n).cmds = [k]) (same : k.seq = c.seq) : ((s.setCmd n c).dray n).cmds = [c] := by
  have dray := (dray_setDray s n n { s.dray n with cmds := (s.dray n).cmds.map fun k => if k.seq = c.seq then c else k } rising).trans (if_pos rfl)
  refine (congrArg Dray.cmds dray :).trans ?_
  rw [one]
  exact congrArg (· :: []) (if_pos same)

theorem setCmd_migSlot (s : State) (n : Nat) (c : DrayCmd) (i : Nat) : (s.setCmd n c).migSlot i = s.migSlot i := rfl

theorem setCmd_mem (s : State) (n : Nat) (c : DrayCmd) : (s.setCmd n c).mem = s.mem := rfl

/-- The queue of a Dray with a command begun: it runs, and its limit is owed (R272). -/
def State.begun (s : State) (n : Nat) (c : DrayCmd) : State :=
  (s.setCmd n { c with running := true }).after (4194304 + c.len / 16) prioWake (.drayTimeout n c.seq)

theorem begun_dray (rising : Rising s.drays) (one : (s.dray n).cmds = [c]) : ((s.begun n c).dray n).cmds = [{ c with running := true }] :=
  setCmd_alone rising one rfl

/-- Queued commands begin in order while fewer than four run. -/
def State.begins (s : State) (n : Nat) : State :=
  ((s.dray n).cmds.foldl (fun (r : State × Nat) c =>
    if c.running then (r.1, r.2 + 1)
    else if r.2 < 4 then
      ((r.1.setCmd n { c with running := true }).after (4194304 + c.len / 16) prioWake (.drayTimeout n c.seq), r.2 + 1)
    else r) (s, 0)).1

/-- Every command that runs performs what it may of its next unit. -/
def State.performs (s : State) (n : Nat) : State :=
  (s.dray n).cmds.foldl (fun s c =>
    if c.running ∧ c.result = none then
      match c.mig with
      | some i => s.now (prioDray n) (.migrationLineCopy i)
      | none => s.drayStep n c
    else s) s

theorem drayCommandStart_eq (s : State) (n : Nat) : exec (.drayCommandStart n) s = .next (let t := (s.begins n).performs n
    if (t.dray n).cmds.any fun c => c.result.isNone then t.kickDray n 1 else t) := rfl

theorem begins_one (one : (s.dray n).cmds = [c]) (waits : c.running = false) : s.begins n = s.begun n c := by
  unfold State.begins
  rw [one, List.foldl_cons, List.foldl_nil, if_neg (by rw [waits]; decide),
    if_pos (show (s, 0).2 < 4 from Nat.zero_lt_succ 3)]
  rfl

theorem performs_one (one : (s.dray n).cmds = [c]) (runs : c.running = true) (open_ : c.result = none) (copies : c.mig = none) :
    s.performs n = s.drayStep n c := by
  unfold State.performs
  rw [one, List.foldl_cons, List.foldl_nil, if_pos ⟨runs, open_⟩, copies]

end

/-! ## FILL of a scratchpad (R270) -/

theorem drayLocal_offset {s : State} {c : DrayCmd} {a n k off : Nat} (here : s.drayLocal c false a n = some (k, off)) : off = a % 524288 := by
  unfold State.drayLocal at here
  dsimp only at here
  split at here
  · split at here
    · simp_all
    · exact absurd here nofun
  · exact absurd here nofun

theorem drayLocal_congr {s t : State} (scored : ∀ j, (t.core j).scored = (s.core j).scored) (c : DrayCmd) (a n : Nat) :
    t.drayLocal c false a n = s.drayLocal c false a n := by
  unfold State.drayLocal
  simp only [scored, Bool.false_eq_true, if_false]

theorem piecesOf_one {size off n : Nat} (some_ : 1 ≤ n) (fits : off % size + n ≤ size) (f : Nat) : piecesOf size (f + 2) off n = [(off, n)] := by
  have whole : Nat.min n (size - off % size) = n := Nat.min_eq_left (by omega)
  rw [piecesOf, if_neg (by omega)]
  dsimp only
  rw [whole, piecesOf, if_pos (by omega)]

section
variable {s : State} {n k off : Nat} {c : DrayCmd}

/-- The bytes of the one unit of a FILL. -/
def DrayCmd.fill (c : DrayCmd) : List Byte := (List.range c.len).map fun j => BitVec.ofNat 8 (c.aux / 256 ^ (j % 8))

/-- A FILL of one unit, of its own core's scratchpad. -/
structure DrayCmd.FillsOne (c : DrayCmd) : Prop where
  fn : c.fn = 5
  pos : c.pos = 0
  claimed : c.claimed = 0
  some : 1 ≤ c.len
  within : c.dst % 64 + c.len ≤ 64
  local_ : c.dstSpace = 0

section
variable (fills : c.FillsOne) (here : s.drayLocal c false c.dst c.len = some (k, off))
include fills here

theorem unitGroups_fill : s.unitGroups c = [(k, off, c.len)] := by
  have offset := drayLocal_offset here
  have within := fills.within
  have short : Nat.min 64 (c.len - 64 * c.pos) = c.len := by
    rw [fills.pos]
    exact Nat.min_eq_right (by omega)
  have one : piecesOf 128 (c.len / 128 + 2) off c.len = [(off, c.len)] := piecesOf_one fills.some (by omega) _
  unfold State.unitGroups
  rw [if_neg (by simp [DrayCmd.sealing, fills.fn]), if_neg (by simp [DrayCmd.indexed, fills.fn])]
  dsimp only
  rw [if_pos fills.fn, short, fills.pos, fills.local_, Nat.mul_zero, Nat.add_zero, List.nil_append]
  unfold State.drayGroups
  dsimp only
  rw [if_pos (by decide), show ((0 : Nat) == 1) = false from rfl, here]
  exact congrArg (List.map _) one

/-- The FILL done: its command has its outcome, and is about to leave the queue. -/
def DrayCmd.filled (c : DrayCmd) : DrayCmd :=
  { c with pos := c.pos + 1, bytes := c.bytes + c.len, claimed := 0, asked := [], result := some 0 }

theorem drayUnit_fills : s.drayUnit n { c with claimed := 1 } = ((s.spadWrite k off c.fill).setCmd n c.filled).now (prioDray n)
    (.drayCommandCompletion n c.seq) := by
  have within := fills.within
  have short : Nat.min 64 (c.len - 64 * c.pos) = c.len := by
    rw [fills.pos]
    exact Nat.min_eq_right (by omega)
  have length : c.fill.length = c.len := by rw [DrayCmd.fill, List.length_map, List.length_range]
  have start : c.dst + 64 * c.pos = c.dst := by rw [fills.pos]; rfl
  have last : c.pos + 1 ≥ c.filled.units := by
    have units : c.filled.units = ceilDiv c.len 64 := by
      rw [DrayCmd.units, if_neg (by simp [DrayCmd.indexed, DrayCmd.filled, fills.fn]), if_neg (by simp [DrayCmd.filled, fills.fn])]
      rfl
    rw [units, ceilDiv]
    omega
  have writes : s.drayWrites n { c with claimed := 1 } (DrayCmd.dstSpace { c with claimed := 1 }) c.dst (c.dst + c.len) c.dst c.fill =
      .ok (s.spadWrite k off c.fill) [] := by
    have there : s.drayLocal { c with claimed := 1 } false c.dst c.fill.length = some (k, off) := length.symm ▸ here
    rw [show DrayCmd.dstSpace { c with claimed := 1 } = 0 from fills.local_]
    unfold State.drayWrites
    dsimp only
    rw [if_pos (by decide), show ((0 : Nat) == 1) = false from rfl, there]
  have bytes : (List.range c.len).map (fun j => BitVec.ofNat 8 (c.aux / 256 ^ (j % 8))) = c.fill := rfl
  unfold State.drayUnit
  dsimp only
  rw [if_neg (by rw [fills.fn]; decide), if_neg (by rw [fills.fn]; decide), if_neg (by simp [DrayCmd.indexed, fills.fn]), if_pos fills.fn,
    short, start, bytes, writes]
  exact if_pos last

/-- What the performed unit of a FILL leaves: the command with its outcome, its bytes, and its completion owed. -/
structure FillDone (s t : State) (n k off : Nat) (c : DrayCmd) : Prop where
  cmds : (t.dray n).cmds = [c.filled]
  mem : t.mem = s.mem
  strands : t.strands = s.strands
  spad : t.spad = spadPuts s.spad k off c.fill
  owed : (⟨none, s.pkg.ency, prioDray n⟩, Event.drayCommandCompletion n c.seq) ∈ t.agenda

/-- The banks of a FILL are free: they are taken, and its unit is performed. -/
theorem drayStep_fills (canon : Canonical s) (one : (s.dray n).cmds = [c]) (quiet : s.stringBusy k off c.len = false)
    (free : (s.core k).used s.pkg.ency &&& banksOf off c.len = 0) : FillDone s (s.drayStep n c) n k off c := by
  let busy : Core := { s.core k with bankUse := (s.pkg.ency, (s.core k).used s.pkg.ency ||| banksOf off c.len) }
  have taken : s.takeBanks k (banksOf off c.len) = some (s.setCore k busy) := if_pos free
  have banks : s.drayBanks [(k, off, c.len)] = (s.setCore k busy, 1) := by
    rw [State.drayBanks, if_neg (by rw [quiet]; decide), taken]
    rfl
  let u := (s.setCore k busy).setCmd n { c with claimed := 1 }
  have step : s.drayStep n c = u.drayUnit n { c with claimed := 1 } := by
    unfold State.drayStep
    dsimp only
    rw [unitGroups_fill fills here, fills.claimed, List.drop_zero, banks]
    exact if_neg (Nat.lt_irrefl 1)
  have scored (j : Nat) : (u.core j).scored = (s.core j).scored := by
    refine (congrArg Core.scored (core_setCore s k j busy canon.rcores) :).trans ?_
    split
    · next same => rw [same]
    · rfl
  have there : u.drayLocal c false c.dst c.len = some (k, off) := (drayLocal_congr scored c c.dst c.len).trans here
  have alone : (u.dray n).cmds = [{ c with claimed := 1 }] := setCmd_alone (s := s.setCore k busy) canon.rdrays one rfl
  have rising : Rising u.drays := rising_tput canon.rdrays
  have fields : u.mem = s.mem ∧ u.strands = s.strands ∧ u.spad = s.spad ∧ u.pkg = s.pkg := ⟨rfl, rfl, rfl, rfl⟩
  rw [step, drayUnit_fills fills there]
  clear_value u
  obtain ⟨mem, strands, spad, pkg⟩ := fields
  have written := spadWrite_unowed u k off c.fill
  have drays : (u.spadWrite k off c.fill).drays = u.drays := (congrArg State.drays written :)
  have strands' : (u.spadWrite k off c.fill).strands = u.strands := (congrArg State.strands written :)
  obtain ⟨spad', mem', pkg'⟩ := spadWrite_leaves u k off c.fill
  generalize u.spadWrite k off c.fill = w at drays strands' spad' mem' pkg'
  have alone' : (w.dray n).cmds = [{ c with claimed := 1 }] := by rw [State.dray, drays]; exact alone
  have cmds := setCmd_alone (c := c.filled) (drays.symm ▸ rising) alone' rfl
  have owed := mem_agenda_after (w.setCmd n c.filled) 0 (prioDray n) (.drayCommandCompletion n c.seq)
  have now : (w.setCmd n c.filled).pkg.ency + 0 = s.pkg.ency := congrArg Pkg.ency (pkg'.trans pkg)
  rw [now] at owed
  exact ⟨cmds, mem'.trans mem, strands'.trans strands, spad'.trans (by rw [spad]), owed⟩

end

end

/-- A FILL of one unit is begun, performed and about to complete, in one cycle. -/
theorem drayCommandStart_fills {s : State} {n k off : Nat} {c : DrayCmd} (canon : Canonical s) (one : (s.dray n).cmds = [c])
    (waits : c.running = false) (open_ : c.result = none) (copies : c.mig = none) (fills : c.FillsOne)
    (here : s.drayLocal c false c.dst c.len = some (k, off)) (quiet : s.stringBusy k off c.len = false)
    (free : (s.core k).used s.pkg.ency &&& banksOf off c.len = 0) : ∃ t, exec (.drayCommandStart n) s = .next t ∧
      FillDone s t n k off { c with running := true } := by
  have begun := begun_dray canon.rdrays one
  have sound : Canonical (s.begun n c) := State.after_canon _ _ _ _ (State.setCmd_canon _ _ _ canon)
  have fields : (s.begun n c).mem = s.mem ∧ (s.begun n c).strands = s.strands ∧ (s.begun n c).spad = s.spad ∧ (s.begun n c).pkg = s.pkg ∧
      (s.begun n c).cores = s.cores ∧ (s.begun n c).harps = s.harps := ⟨rfl, rfl, rfl, rfl, rfl, rfl⟩
  have run := drayCommandStart_eq s n
  rw [begins_one one waits] at run
  generalize s.begun n c = u at begun sound fields run
  obtain ⟨mem, strands, spad, pkg, cores, harps⟩ := fields
  have core (j : Nat) : u.core j = s.core j := congrArg (tget ({} : Core) j) cores
  have fills' : DrayCmd.FillsOne { c with running := true } := ⟨fills.fn, fills.pos, fills.claimed, fills.some, fills.within, fills.local_⟩
  have here' : u.drayLocal { c with running := true } false c.dst c.len = some (k, off) :=
    (drayLocal_congr (fun j => by rw [core]) _ _ _).trans here
  have done := drayStep_fills (s := u) fills' here' sound begun (by rw [State.stringBusy, harps, pkg]; exact quiet)
    (by rw [core, pkg]; exact free)
  rw [performs_one begun rfl open_ copies] at run
  dsimp only at run
  rw [done.cmds, List.any_cons, List.any_nil] at run
  refine ⟨_, run, done.cmds, done.mem.trans mem, done.strands.trans strands, done.spad.trans (by rw [spad]), ?_⟩
  rw [← pkg]
  exact done.owed

/-! ## A command that ends (R272, R274, R369) -/

section
variable (s : State) (n : Nat) (c : DrayCmd)

theorem wakeDwait_uninterrupted (seq : Nat) : (s.wakeDwait n seq).uninterrupted = s.uninterrupted := by
  refine foldl_keeps State.uninterrupted (fun u e => ?_) _ s
  split
  · split <;> rfl
  · rfl

theorem kickDray_uninterrupted (m : Nat) : (s.kickDray n m).uninterrupted = s.uninterrupted := by
  unfold State.kickDray
  split <;> rfl

/-- The outcome of a command is kept; an interrupt may be posted for it. -/
theorem drayEnd_uninterrupted (state err : Nat) :
    (s.drayEnd n c state err).uninterrupted = (s.setDray n ((s.dray n).ending c state err)).uninterrupted := by
  have ended := (kickDray_uninterrupted ((s.setDray n ((s.dray n).ending c state err)).wakeDwait n c.seq) n 0).trans
    (wakeDwait_uninterrupted ..)
  change (if state = 4 then State.postIrq _ c.vd 4 else _ : State).uninterrupted = _
  split
  · exact (postIrq_uninterrupted ..).trans ended
  · exact ended

end

theorem ending_ended_last (d : Dray) (c : DrayCmd) (state err : Nat) :
    (d.ending c state err).ended.getLast? = some (c.seq, c.vd, statusWord state err c.bytes) := by
  have short : (d.ended ++ [(c.seq, c.vd, statusWord state err c.bytes)]).length - 256 <
      (d.ended ++ [(c.seq, c.vd, statusWord state err c.bytes)]).length := by
    rw [List.length_append, List.length_singleton]
    omega
  dsimp only [Dray.ending]
  rw [List.getLast?_drop, if_neg (by omega), List.getLast?_concat]

/-- What the end of the only command of a Dray leaves. -/
structure DrayOver (s t : State) (n : Nat) (c : DrayCmd) (state err : Nat) : Prop where
  cmds : (t.dray n).cmds = []
  ended : (t.dray n).ended.getLast? = some (c.seq, c.vd, statusWord state err c.bytes)
  mem : t.mem = s.mem
  spad : t.spad = s.spad
  strands : t.strands = s.strands
  mig : t.mig = s.mig

section
variable {s : State} {n : Nat} {c : DrayCmd}

theorem drayEnd_over (rising : Rising s.drays) (one : (s.dray n).cmds = [c]) (state err : Nat) :
    DrayOver s (s.drayEnd n c state err) n c state err := by
  have rest := drayEnd_uninterrupted s n c state err
  have drays : (s.drayEnd n c state err).drays = (s.setDray n ((s.dray n).ending c state err)).drays := (congrArg State.drays rest :)
  have dray : (s.drayEnd n c state err).dray n = (s.dray n).ending c state err :=
    (congrArg (tget ({} : Dray) n) drays).trans ((dray_setDray s n n _ rising).trans (if_pos rfl))
  refine ⟨?cmds, (congrArg (fun d : Dray => d.ended.getLast?) dray).trans (ending_ended_last ..), (congrArg State.mem rest :),
    (congrArg State.spad rest :), (congrArg State.strands rest :), (congrArg State.mig rest :)⟩
  rw [dray, Dray.ending, one]
  exact List.filter_cons_of_neg (p := fun k : DrayCmd => decide (k.seq ≠ c.seq)) (by simp)

theorem drayCommandCompletion_ends {err : Nat} (one : (s.dray n).cmds = [c]) (outcome : c.result = some err) :
    exec (.drayCommandCompletion n c.seq) s = .next (s.drayEnd n c (if err = 0 then 2 else 4) err) := by
  change execDrayCommandCompletion n c.seq s = _
  unfold execDrayCommandCompletion
  rw [one, List.find?_cons_of_pos (p := fun k : DrayCmd => k.seq == c.seq) (beq_self_eq_true _)]
  dsimp only
  rw [outcome]

theorem drayTimeout_ends (one : (s.dray n).cmds = [c]) (runs : c.running = true) (open_ : c.result = none) (copies : c.mig = none) :
    exec (.drayTimeout n c.seq) s = .next (s.drayEnd n c 4 8) := by
  change execDrayTimeout n c.seq s = _
  unfold execDrayTimeout
  rw [one, List.find?_cons_of_pos (by rw [runs, open_, copies]; simp)]

end

/-! ## Timed commands (R273) -/

section
variable {s : State} {l j : Nat} {e : TimedDray}

/-- The bytes of unit j of a timed FILL. -/
def DrayCmd.unitBytes (c : DrayCmd) (j : Nat) : List Byte :=
  (List.range (Nat.min 64 (c.len - 64 * j))).map fun i => BitVec.ofNat 8 (c.aux / 256 ^ (i % 8))

/-- A unit of a timed FILL is held until its latency has passed. -/
theorem timedRead_fills (one : (s.launch l).drays = [e]) {b : DrayCmd} (fill : b.fn = 5) :
    (s.timedRead l 0 e b j) = s.setLaunch l { s.launch l with drays := [{ e with held := e.held ++ [(j, b.unitBytes j)] }] } := by
  have unit : s.timedUnit e.core b j = (b.src + 64 * j, Nat.min 64 (b.len - 64 * j), b.dst + 64 * j) := if_neg (by rw [fill]; decide)
  unfold State.timedRead
  rw [unit]
  dsimp only
  rw [if_pos fill, State.modLaunch, one]
  rfl

theorem timedDrayStart_reads (rising : Rising s.launches) (running : (s.launch l).st = .running) (one : (s.launch l).drays = [e])
    (fill : e.fn = 5) : let b := cmdOf 5 e.block
    let j := s.lcyL l - (4096 * e.bar + b.start)
    j < b.units → j < b.dlat → Runs (.timedDrayStart l 0) s fun t => t.mem = s.mem ∧ t.spad = s.spad ∧
      (t.launch l).drays = [{ e with held := e.held ++ [(j, b.unitBytes j)] }] := by
  intro b j inside held
  let L : Launch := { s.launch l with drays := [{ e with held := e.held ++ [(j, b.unitBytes j)] }] }
  have launch : (s.setLaunch l L).launch l = L := (launch_setLaunch s l l L rising).trans (if_pos rfl)
  have read : s.timedRead l 0 e b j = s.setLaunch l L := timedRead_fills one rfl
  have run : exec (.timedDrayStart l 0) s = .next (if j + 1 < b.units + b.dlat then
      (s.setLaunch l L).owe (some l) ((s.setLaunch l L).lcyL l + 1) rankDray (.timedDrayStart l 0) else s.setLaunch l L) := by
    change execTimedDrayStart l 0 s = _
    have first : (s.launch l).drays[0]? = some e := by rw [one]; rfl
    have next : ((s.setLaunch l L).launch l).drays[0]? = some { e with held := e.held ++ [(j, b.unitBytes j)] } := by rw [launch]; rfl
    have command : cmdOf e.fn e.block = b := by rw [fill]
    have late : ¬ (b.dlat ≤ j ∧ j - b.dlat < b.units) := fun h => by omega
    have cycle : s.lcyL l - (4096 * e.bar + b.start) = j := rfl
    unfold execTimedDrayStart
    dsimp only
    rw [first]
    dsimp only
    rw [running, if_neg (by decide), command, cycle, if_pos inside, read, next]
    dsimp only
    rw [if_neg late]
  refine ⟨_, run, ?_⟩
  split
  · exact ⟨rfl, rfl, (congrArg Launch.drays launch :)⟩
  · exact ⟨rfl, rfl, (congrArg Launch.drays launch :)⟩

end

/-! ## The copy of a migration (R332) -/

section
variable {s : State} {n i : Nat} {c : DrayCmd} (canon : Canonical s) (mine : (s.migSlot i).dray = n) (seq : c.seq = (s.migSlot i).seq)
  (copies : c.mig = some i) (runs : c.running = true) (open_ : c.result = none) (one : (s.dray n).cmds = [c])
include mine seq copies runs open_ one

theorem migration_finds : (s.dray (s.migSlot i).dray).cmds.find?
    (fun c => c.seq == (s.migSlot i).seq && c.mig == some i && c.running && c.result.isNone) = some c := by
  rw [mine, one]
  exact List.find?_cons_of_pos (by rw [seq, copies, runs, open_]; simp)

variable (moves : (s.migSlot i).state = 1)
include moves

section
include canon

/-- A line that fails its check stalls the slot, and ends the command with INTEGRITY. -/
theorem migrationLineCopy_stalls {d : Nat} (fails : s.linesFault (4096 * (s.migSlot i).old + (s.migSlot i).ptr) 128 = some d) :
    Runs (.migrationLineCopy i) s fun t => t.migSlot i = { s.migSlot i with state := 2 } ∧ (t.dray n).cmds = [] ∧
      (t.dray n).ended.getLast? = some (c.seq, c.vd, statusWord 4 5 c.bytes) ∧ t.mem = s.mem := by
  subst mine
  let u := (s.chargeLine (s.migSlot i).vd d).setMig i { s.migSlot i with state := 2 }
  have run : exec (.migrationLineCopy i) s = .next (u.drayEnd (s.migSlot i).dray c 4 5) := by
    change execMigrationLineCopy i s = _
    unfold execMigrationLineCopy
    dsimp only
    rw [migration_finds rfl seq copies runs open_ one]
    dsimp only
    rw [if_neg (not_not.mpr moves), fails]
  have charged := chargeLine_uncharged s (s.migSlot i).vd d
  have mig : (s.chargeLine (s.migSlot i).vd d).mig = s.mig := (congrArg State.mig charged :)
  have drays : u.drays = s.drays := (congrArg State.drays charged :)
  have mem : u.mem = s.mem := (congrArg State.mem charged :)
  have slot : u.migSlot i = { s.migSlot i with state := 2 } :=
    (migSlot_setMig (s.chargeLine (s.migSlot i).vd d) i i _ (mig.symm ▸ canon.rmig)).trans (if_pos rfl)
  have over_ := drayEnd_over (s := u) (c := c) (drays.symm ▸ canon.rdrays) (by rw [State.dray, drays]; exact one) 4 5
  exact ⟨_, run, (congrArg (tget ({} : MigSlot) i) over_.mig).trans slot, over_.cmds, over_.ended, over_.mem.trans mem⟩

/-- A sound line moves, and the slot and the command count it. -/
theorem migrationLineCopy_copies (sound : s.linesFault (4096 * (s.migSlot i).old + (s.migSlot i).ptr) 128 = none)
    (within : (s.migSlot i).ptr + 128 < 4096) : Runs (.migrationLineCopy i) s fun t =>
      t.migSlot i = { s.migSlot i with ptr := (s.migSlot i).ptr + 128 } ∧ (t.dray n).cmds = [{ c with bytes := c.bytes + 128 }] ∧
      t.mem = (s.engineWrite (4096 * (s.migSlot i).new + (s.migSlot i).ptr)
        (s.physRead (4096 * (s.migSlot i).old + (s.migSlot i).ptr) 128)).mem := by
  subst mine
  let dest := 4096 * (s.migSlot i).new + (s.migSlot i).ptr
  let line := s.physRead (4096 * (s.migSlot i).old + (s.migSlot i).ptr) 128
  have run : exec (.migrationLineCopy i) s = .next (((s.engineWrite dest line).setMig i
      { s.migSlot i with ptr := (s.migSlot i).ptr + 128 }).setCmd (s.migSlot i).dray { c with bytes := c.bytes + 128 }) := by
    change execMigrationLineCopy i s = _
    unfold execMigrationLineCopy
    dsimp only
    rw [migration_finds rfl seq copies runs open_ one]
    dsimp only
    rw [if_neg (not_not.mpr moves), sound]
    exact congrArg Host.Outcome.next (if_neg (by omega))
  have written := (engineWrite_written s dest line).rest
  have mig : (s.engineWrite dest line).mig = s.mig := (congrArg State.mig written :)
  have drays : (s.engineWrite dest line).drays = s.drays := (congrArg State.drays written :)
  refine ⟨_, run, ?_⟩
  change _ ∧ _ ∧ _ = (s.engineWrite dest line).mem
  generalize s.engineWrite dest line = u at mig drays
  have slot := (migSlot_setMig u i i { s.migSlot i with ptr := (s.migSlot i).ptr + 128 } (mig.symm ▸ canon.rmig)).trans (if_pos rfl)
  have alone : ((u.setMig i { s.migSlot i with ptr := (s.migSlot i).ptr + 128 }).dray (s.migSlot i).dray).cmds = [c] :=
    (congrArg (fun m => (tget ({} : Dray) (s.migSlot i).dray m).cmds) drays).trans one
  have rising : Rising u.drays := drays.symm ▸ canon.rdrays
  exact ⟨(setCmd_migSlot ..).trans slot, setCmd_alone rising alone rfl, setCmd_mem ..⟩

end

end

/-- Settles O50. -/
theorem drayEvents : Obligations.DrayEvents := by
  intro s n c canon
  refine ⟨?fill, fun err outcome one => ?completion, fun runs open_ copies one => ?timeout, fun l e b running one fill named _ => ?timed,
    fun i => ?migration⟩
  case fill =>
    intro waits open_ copies fn pos claimed _ within some_ local_ one k off here quiet free
    have fills : c.FillsOne := ⟨fn, pos, claimed, some_, within, local_⟩
    obtain ⟨t, run, done⟩ := drayCommandStart_fills canon one waits open_ copies fills here quiet free
    refine ⟨t, run, done.cmds.trans ?_, done.mem, done.strands, done.spad, done.owed⟩
    simp [DrayCmd.filled, pos, claimed]
  case completion =>
    have over_ := drayEnd_over canon.rdrays one (if err = 0 then 2 else 4) err
    exact ⟨_, drayCommandCompletion_ends one outcome, over_.cmds, over_.ended, over_.mem, over_.spad, over_.strands⟩
  case timeout =>
    have over_ := drayEnd_over canon.rdrays one 4 8
    exact ⟨_, drayTimeout_ends one runs open_ copies, over_.cmds, over_.ended, over_.mem, over_.spad⟩
  case timed =>
    subst named
    exact fun inside held => timedDrayStart_reads canon.rlaunches running one fill inside held
  case migration =>
    intro m moves mine seq copies runs open_ one
    exact ⟨fun d fails => migrationLineCopy_stalls canon mine seq copies runs open_ one moves fails,
      fun sound within => migrationLineCopy_copies canon mine seq copies runs open_ one moves sound within⟩

end Sys2Proof.Machine
end


section
/-! Proof of the statement on sends, receives and queues (O37), word by word: the queue words from the laws of what a word answers its
strand, SEND and STRIPE from what the sending of packets leaves. -/
namespace Sys2Proof.Machine
open Sys2Proof.Claims

/-! ## The modes (R254) and local offsets (R181) -/

section
variable {s : State}

theorem scoredOnly_of_scored (scored : s.scored s.cur.sid = true) (k : State → Res) : scoredOnly s k = k s := if_pos scored

theorem scoredOnly_of_free (free : s.scored s.cur.sid = false) (k : State → Res) : scoredOnly s k = accessFault 0 :=
  if_neg (Bool.eq_false_iff.mp free)

theorem freeOnly_of_free (free : s.scored s.cur.sid = false) (k : State → Res) : freeOnly s k = k s :=
  if_neg (Bool.eq_false_iff.mp free)

theorem localBytes_of_le {off : Word} {n : Nat} (inside : off.toNat + n ≤ 524288) (k : State → Res) : localBytes s off n k = k s :=
  if_neg (Nat.not_lt.mpr inside)

theorem ticketed_of_passed {r : TkReg} {q : TkAsk} (passed : s.tkFails (s.me.rtk r) q = none) (k : Ticket → Res) :
    ticketed s r q k = k (s.me.rtk r) := by
  rw [ticketed, passed]

end

theorem timedWordsTrap : TimedWordsTrap := by
  intro s tk d a b
  refine ⟨fun scored ready aligned inside empty => ?_, fun free => ⟨fun ready => ?_, fun ready => ?_⟩⟩
  · change finish s (word s _ _) = _
    rw [word_ready ready, scoredOnly_of_scored scored]
    dsimp only
    rw [if_neg (not_not.mpr aligned), localBytes_of_le inside, bits_zero, show (2 : Nat) ^ 6 = 64 from rfl, empty]
    rfl
  · change finish s (word s _ _) = _
    rw [word_ready ready, scoredOnly_of_free free]
    rfl
  · change finish s (word s _ _) = _
    rw [word_ready ready, scoredOnly_of_free free]
    rfl

/-! ## An access that starts -/

/-- What the start of the access x leaves of the state. -/
structure StartedFrom (s : State) (x : Access) (u : State) : Prop where
  accesses : ∃ left bound, u.accesses = bind s.nextId { x with left := left, bound := bound } s.accesses
  rest : { u.unanswered with accesses := s.accesses, nextId := s.nextId } = s.unanswered
  strands : u.strands = s.strands
  agenda : s.agenda ⊆ u.agenda

theorem startAccess_startedFrom (s : State) (x : Access) (p pmax : Nat) : StartedFrom s x (s.startAccess x p pmax) := by
  unfold State.startAccess State.fresh
  dsimp only
  split
  · exact ⟨⟨x.left, x.bound, rfl⟩, rfl, rfl, List.subset_append_left ..⟩
  · split
    next drawn =>
      obtain ⟨picks, rfl⟩ := outcome_picks drawn
      exact ⟨⟨_, _, rfl⟩, rfl, rfl, fun _ mem => List.mem_append_left _ (List.mem_append_left _ mem)⟩
    next drawn =>
      obtain ⟨picks, rfl⟩ := outcome_picks drawn
      exact ⟨⟨_, _, rfl⟩, rfl, rfl, List.subset_append_left ..⟩

/-- Whatever is read of the state but its accesses, the next number, the agenda and the picks stands as it was. -/
theorem StartedFrom.read {γ : Type} {s u : State} {x : Access} (h : StartedFrom s x u) (part : State → γ) :
    part { u with strands := [], agenda := [], picks := [], accesses := s.accesses, nextId := s.nextId } = part s.unanswered :=
  congrArg part h.rest

theorem StartedFrom.strand {s u : State} {x : Access} (h : StartedFrom s x u) (k : Nat) : u.strand k = s.strand k := by
  rw [State.strand, h.strands, State.strand]

theorem StartedFrom.me {s u : State} {x : Access} (h : StartedFrom s x u) : u.me = s.me := by
  have cur : u.cur = s.cur := h.read State.cur
  rw [State.me, cur, h.strand, State.me]

theorem StartedFrom.turn {s u : State} {x : Access} (h : StartedFrom s x u) : u.turn = s.turn := by
  have cur : u.cur = s.cur := h.read State.cur
  have clock : u.clockOf s.cur.sid = s.clockOf s.cur.sid := by rw [State.clockOf, h.strand, State.clockOf]
  have lcy : u.lcyL (s.clockOf s.cur.sid) = s.lcyL (s.clockOf s.cur.sid) := h.read (·.lcyL (s.clockOf s.cur.sid))
  rw [State.turn, State.lcy, cur, clock, lcy]
  rfl

/-! ## RECV (R261) -/

/-- Slot n of core c is empty. -/
def State.slotEmptied (s : State) (c n : Nat) : State :=
  s.modCore c fun k => { k with recv := tput {} n { tget {} n (s.core c).recv with full := false } k.recv }

/-- The write of a slot's bytes to the scratchpad of core c. -/
def State.slotWrite (s : State) (c off data : Nat) : Access :=
  { blankAccess s s.cur.sid with
    kind := .block (toBytes 64 data), path := .fabric, place := .spad c, rank := rankScalar
    cycles := [[⟨0, spadKey c off, 0, 0, 0, 0, false, none⟩]] }

theorem spadKey_of_lt {c off : Nat} (inside : off < 524288) : spadKey c off = 524288 * c + off := by
  rw [spadKey, Nat.mod_eq_of_lt inside]

theorem recv_runs {s : State} {d a b : GReg} (scored : s.scored s.cur.sid = true)
    (ready : s.Ready { src := [.g a, .g b], dst := [.g d], outward := true }) (aligned : (s.rg a).toNat % 64 = 0)
    (inside : (s.rg a).toNat + 64 ≤ 524288) :
    let c := coreOf s.cur.sid
    let n := (s.rg b).toNat % 64
    (tget {} n (s.core c).recv).full = true → exec (.recv d a b) s = finish s (.ok
      (((s.slotEmptied c n).startAccess ((s.slotEmptied c n).slotWrite c (s.rg a).toNat (tget {} n (s.core c).recv).data.toNat) 0 0).landG d
        (BitVec.ofNat 64 (tget {} n (s.core c).recv).len) 2)) := by
  intro c n full
  change finish s (word s _ _) = _
  rw [word_ready ready, scoredOnly_of_scored scored]
  dsimp only
  rw [if_neg (not_not.mpr aligned), localBytes_of_le inside, bits_zero, show (2 : Nat) ^ 6 = 64 from rfl, full]
  rfl

theorem setWidth_ofNat_word (n : Nat) : (BitVec.ofNat 64 n : Word).setWidth 65536 = BitVec.ofNat 65536 (n % 2 ^ 64) := by
  apply BitVec.eq_of_toNat_eq
  rw [BitVec.toNat_setWidth, BitVec.toNat_ofNat, BitVec.toNat_ofNat]

theorem recvCompletes : RecvCompletes := by
  intro s d a b canon scored ready c off n r aligned inside full
  have run := recv_runs scored ready aligned inside full
  have starts := startAccess_startedFrom (s.slotEmptied c n) ((s.slotEmptied c n).slotWrite c off r.data.toNat) 0 0
  obtain ⟨left, bound, accesses⟩ := starts.accesses
  generalize (s.slotEmptied c n).startAccess _ 0 0 = v at starts accesses run
  have cur : v.cur = s.cur := starts.read State.cur
  have lands := landG_answers (s := v) (starts.strands ▸ canon.rstrands) d (BitVec.ofNat 64 r.len) 2
  have core (k : Nat) : (v.landG d (BitVec.ofNat 64 r.len) 2).core k = (s.slotEmptied c n).core k :=
    (lands.read (·.core k)).trans (starts.read (·.core k))
  have slots (k : Nat) := core_setCore s c k { s.core c with recv := tput {} n { r with full := false } (s.core c).recv } canon.rcores
  refine ⟨_, { (s.slotEmptied c n).slotWrite c off r.data.toNat with left := left, bound := bound }, run, rfl, ?_, fun k other => ?_,
    (lands.read State.accesses).trans accesses, rfl, ?_, (lands.read State.mem).trans (starts.read State.mem),
    (lands.read State.spad).trans (starts.read State.spad),
    fun k other => (lands.others k (cur ▸ other)).trans (starts.strand k), lands.me.trans ?_⟩
  · exact congrArg Core.recv ((core c).trans ((slots c).trans (if_pos rfl)))
  · exact (core k).trans ((slots k).trans (if_neg other))
  · exact congrArg (fun k => [[Elem.mk 0 k 0 0 0 0 false none]]) (spadKey_of_lt (by omega))
  · rw [starts.me, State.gResult, setWidth_ofNat_word, State.seqNo, starts.me, starts.turn]
    rfl

/-! ## ERECV (R263) -/

section
variable {s : State} {d a b : GReg} (free : s.scored s.cur.sid = false)
  (ready : s.Ready { src := [.g a, .g b], dst := [.g d], outward := true }) (aligned : (s.rg a).toNat % 64 = 0)
  (inside : (s.rg a).toNat + 64 ≤ 524288)

section
include free ready aligned inside

theorem erecv_takes {e : ElasticEntry} {l : List ElasticEntry}
    (queue : (s.core (coreOf s.cur.sid)).queue ((s.rg b).toNat % 4) = e :: l) : exec (.erecv d a b) s =
      finish s (.ok ((s.dequeued s.cur.sid ((s.rg b).toNat % 4) (s.rg a).toNat l e.payload).landG d e.result 2)) := by
  have taken : s.takeElastic s.cur.sid ((s.rg b).toNat % 4) (s.rg a).toNat =
      some (e.result, s.dequeued s.cur.sid ((s.rg b).toNat % 4) (s.rg a).toNat l e.payload) := by
    simp only [State.takeElastic, queue, State.dequeued]
  change finish s (word s _ _) = _
  rw [word_ready ready, freeOnly_of_free free]
  dsimp only
  rw [if_neg (not_not.mpr aligned), localBytes_of_le inside, bits_zero, show (2 : Nat) ^ 2 = 4 from rfl, taken]

/-- With its queue empty the word promises its result and parks its strand, whose wake is owed at the limit. -/
theorem erecv_parks (queue : (s.core (coreOf s.cur.sid)).queue ((s.rg b).toNat % 4) = []) :
    let u := if d = 0 then s else s.promise (.g d) false
    let expiry := u.turn + bits (u.rg b) 16 32
    let v := u.modMe (·.parking (.erecv ((s.rg b).toNat % 4) expiry (s.rg a).toNat d u.turn))
    exec (.erecv d a b) s = finish s (.ok (v.owe (some (u.clockOf s.cur.sid)) expiry prioWake (.erecvWake s.cur.sid))) := by
  have taken : s.takeElastic s.cur.sid ((s.rg b).toNat % 4) (s.rg a).toNat = none := by simp only [State.takeElastic, queue]
  change finish s (word s _ _) = _
  rw [word_ready ready, freeOnly_of_free free]
  dsimp only
  rw [if_neg (not_not.mpr aligned), localBytes_of_le inside, bits_zero, show (2 : Nat) ^ 2 = 4 from rfl, taken]
  rfl

end
end

theorem erecvCompletes : ErecvCompletes := by
  intro s d a b canon free ready c off q aligned inside
  refine ⟨fun e l queue => ?_, fun queue => ?_⟩
  · have run := erecv_takes free ready aligned inside queue
    have unowed := dequeued_unowed s s.cur.sid q off l e.payload
    change exec (.erecv d a b) s = finish s (.ok ((s.dequeued s.cur.sid q off l e.payload).landG d e.result 2)) at run
    generalize s.dequeued s.cur.sid q off l e.payload = u at run unowed
    have strands : u.strands = s.strands := (congrArg State.strands unowed :)
    have cur : u.cur = s.cur := (congrArg State.cur unowed :)
    have launches : u.launches = s.launches := (congrArg State.launches unowed :)
    have strand (k : Nat) : u.strand k = s.strand k := by rw [State.strand, strands, State.strand]
    have me : u.me = s.me := by rw [State.me, cur, strand, State.me]
    have turn : u.turn = s.turn := by
      rw [State.turn, State.lcy, State.clockOf, State.lcyL, State.launch, launches, cur, strand]
      rfl
    have core : u.core c = (s.core c).setQueue q l := (congrArg (State.core · c) unowed : _).trans
      ((core_setCore s c c _ canon.rcores).trans (if_pos rfl))
    have lands := landG_answers (s := u) (strands ▸ canon.rstrands) d e.result 2
    refine ⟨_, run, rfl, ?_, (lands.read State.spad).trans (congrArg State.spad unowed :),
      (lands.read State.mem).trans (congrArg State.mem unowed :), fun k other => (lands.others k (cur ▸ other)).trans (strand k),
      lands.me.trans ?_⟩
    · exact (congrArg (Core.queue · q) ((lands.read (·.core c)).trans core)).trans (queue_setQueue _ (Nat.mod_lt _ (by decide)) l)
    · rw [me, State.gResult, State.seqNo, me, turn]
      rfl
  · have run := erecv_parks free ready aligned inside queue
    have promises := promise_answers canon.rstrands d
    dsimp only at run
    generalize (if d = 0 then s else s.promise (.g d) false) = u at run promises
    have reg : u.rg b = s.rg b := congrArg (·.rg b) promises.me
    rw [promises.turn rfl, reg] at run
    have parks := promises.trans (modMe_answers promises.rising (·.parking (.erecv ((s.rg b).toNat % 4)
      (s.turn + bits (s.rg b) 16 32) (s.rg a).toNat d s.turn)))
    rw [promises.me] at parks
    generalize u.modMe (·.parking _) = v at run parks
    exact ⟨_, run, rfl, parks.quiet.1, parks.quiet.2.1, fun k => parks.read (·.core k), parks.quiet.2.2, parks.me⟩

/-! ## VPUSH (R267) -/

theorem vpushCompletes : VpushCompletes := by
  intro s tk a vb g canon free ready base small whole passed regs places room
  have passed : s.tkFails (s.me.rtk tk) { kinds := [5], right := rightSend } = none := passed
  have outside : s.me.collect = none := room.1
  have issues : exec (.vpush tk a vb g) s = finish s (word s { vec := true, src := [.tk tk, .g a, .vl], outward := true } fun s' =>
      enqueue false (.push (s.me.rtk tk) tk vb base g.size) s') := by
    change finish s (word s _ _) = _
    rw [word_ready ready, word_ready ready, notInBlock_of_none outside, freeOnly_of_free free]
    dsimp only
    rw [if_neg (not_or.mpr ⟨Nat.not_le.mpr small, not_not.mpr whole⟩), ticketed_of_passed passed, regs,
      if_neg (Nat.not_lt.mpr places)]
    rfl
  exact queues_of_word canon (captured := fun _ => .push (s.me.rtk tk) tk vb base g.size) issues rfl ready room

/-! ## VPULL (R268) -/

section
variable {s : State}

/-- The promises of a group's registers. -/
def State.groupPromises (s : State) (l : List VecReg) : List Pend :=
  l.map fun r => ⟨s.seqNo, s.turn, .v r, none, BitVec.allOnes 65536, none, false⟩

theorem groupPromise_answers : (l : List VecReg) → {s : State} → Rising s.strands →
    Answers s (l.foldl (fun s r => s.promise (.v r) false) s) (s.me.owing (s.groupPromises l))
  | [], s, rising => s.me.owing_nil.symm ▸ answers_refl rising
  | r :: l, s, rising => by
    have first : Answers s (s.promise (.v r) false) (s.me.owing (s.groupPromises [r])) := modMe_answers rising _
    have later := first.trans (groupPromise_answers l first.rising)
    rw [State.groupPromises, first.seqNo rfl, first.turn rfl, first.me, Strand.owing_owing] at later
    exact later

/-- What of a strand neither a pull nor a result that becomes known changes. -/
def Strand.lasting (x : Strand) : Vector Wide 32 × Vector Word 32 × SlotState × Option Nat × Nat := (x.v, x.g, x.slot, x.launch, x.seq)

theorem pull_keepsPart {γ : Type} {part : Strand → γ} (blind : ∀ x f, part { x with fe := f } = part x) (s : State) (sid b n : Nat) :
    KeepsPart part sid s (s.pull sid b n) :=
  (KeepsPart.setStrand (s := s) (blind (s.strand sid) _)).trans (.of_unowed (kickHeld_unowed ..))

/-- A promise of a register, known to be what it was. -/
def Pend.stands (p : Pend) (due : Nat) : Pend := { p with val := some 0, mask := 0, due := some due }

section
variable {sid seq due : Nat} {p : Pend}

theorem mem_pend_deliver_over {s : State} (rising : Rising s.strands) {d : Dst} {v mask : Wide} (owed : p ∈ (s.strand sid).pend)
    (known : p.due ≠ none ∨ p.dst ≠ d) : p ∈ ((s.deliver sid seq d v mask due).strand sid).pend := by
  have strand : (s.deliver sid seq d v mask due).strand sid = _ := strand_setStrand_same rising sid _
  rw [strand]
  exact List.mem_map.mpr ⟨p, owed, if_neg fun ⟨_, dst, open_⟩ => known.elim (· open_) (· dst)⟩

/-- Every register of a group that the word has promised is known to be what it was. -/
theorem mem_pend_pullPend {s : State} (rising : Rising s.strands) {b n i : Nat} (mem : i < n) (owed : p ∈ (s.strand sid).pend)
    (word : p.seq = seq) (dst : p.dst = .v (Fin.ofNat 32 (b + i))) (unknown : p.due = none) :
    p.stands due ∈ ((s.pullPend sid seq b n due).strand sid).pend := by
  let f (s : State) (i : Nat) : State := s.deliver sid seq (.v (Fin.ofNat 32 (b + i))) 0 0 due
  have rises (s : State) (i : Nat) (h : Rising s.strands) : Rising (f s i).strands := rising_tput h
  have stands {s : State} (i : Nat) (h : Rising s.strands) (good : p.stands due ∈ (s.strand sid).pend) :
      p.stands due ∈ ((f s i).strand sid).pend := mem_pend_deliver_over h good (.inl (Option.some_ne_none due))
  have sets {s : State} {i : Nat} (h : Rising s.strands) (same : p.dst = .v (Fin.ofNat 32 (b + i))) (open_ : p ∈ (s.strand sid).pend) :
      p.stands due ∈ ((f s i).strand sid).pend := mem_pend_deliver h open_ word same unknown
  refine foldl_reaches (inv := fun s => Rising s.strands ∧ (p ∈ (s.strand sid).pend ∨ p.stands due ∈ (s.strand sid).pend))
    (good := fun s => p.stands due ∈ (s.strand sid).pend) (f := f) (b := i) ?kept ?sets (fun s c h good => stands c h.1 good)
    (List.range n) (List.mem_range.mpr mem) s ⟨rising, .inl owed⟩
  case kept =>
    rintro s c ⟨h, open_ | good⟩
    · by_cases same : p.dst = .v (Fin.ofNat 32 (b + c))
      · exact ⟨rises s c h, .inr (sets h same open_)⟩
      · exact ⟨rises s c h, .inl (mem_pend_deliver_over h open_ (.inr same))⟩
    · exact ⟨rises s c h, .inr (stands c h good)⟩
  case sets =>
    rintro s ⟨h, open_ | good⟩
    · exact sets h dst open_
    · exact stands i h good

end

/-- What the pull of a full group leaves, once its registers' promises are known. -/
structure Pulled (sid seq due b n : Nat) (s t : State) : Prop extends Confined sid s t where
  lasting : (t.strand sid).lasting = (s.strand sid).lasting
  fe : (t.strand sid).fe = (s.strand sid).fe &&& ~~~BitVec.ofNat 32 ((2 ^ n - 1) * 2 ^ b)
  known : ∀ p i, i < n → p ∈ (s.strand sid).pend → p.seq = seq → p.dst = .v (Fin.ofNat 32 (b + i)) → p.due = none →
    p.stands due ∈ (t.strand sid).pend

theorem pull_pulled {s : State} (rising : Rising s.strands) (sid seq due b n : Nat) :
    Pulled sid seq due b n s ((s.pull sid b n).pullPend sid seq b n due) := by
  have pulls {γ : Type} {part : Strand → γ} (blind : ∀ x f, part { x with fe := f } = part x) := pull_keepsPart blind s sid b n
  have knows {γ : Type} {part : Strand → γ} (blind : ∀ x l, part { x with pend := l } = part x) :=
    pullPend_keepsPart (sid := sid) (s.pull sid b n) seq due blind b n
  have lasts := (pulls fun _ _ => rfl).trans (knows (part := Strand.lasting) fun _ _ => rfl)
  have owed := pulls (part := Strand.pend) fun _ _ => rfl
  have risen := owed.rising rising
  refine ⟨lasts.toConfined, lasts.kept rising, ((knows (part := Strand.fe) fun _ _ => rfl).kept risen).trans (pull_fe rising b n),
    fun p i mem here word dst unknown => mem_pend_pullPend risen mem ?_ word dst unknown⟩
  rw [owed.kept rising]
  exact here

/-- The turn of a strand whose launch stands. -/
theorem Confined.lcy {s t : State} {sid : Nat} (h : Confined sid s t) (launch : (t.strand sid).launch = (s.strand sid).launch) :
    t.lcy sid = s.lcy sid := by
  have clock : t.clockOf sid = s.clockOf sid := by rw [State.clockOf, launch, State.clockOf]
  have lcy : t.lcyL (s.clockOf sid) = s.lcyL (s.clockOf sid) := (congrArg (State.lcyL · (s.clockOf sid)) h.beyond :)
  rw [State.lcy, clock, lcy, State.lcy]

section
variable {d a : GReg} {vb : VecReg} {g : Grp} (free : s.scored s.cur.sid = false)
  (ready : s.Ready { vec := true, src := [.g a], dst := [.g d], outward := true })

/-- The word once it has promised the registers of its group. -/
def State.groupPromised (s : State) (vb : VecReg) (n : Nat) : State := (groupRegs vb n).foldl (fun s r => s.promise (.v r) false) s

section
include free ready

theorem vpull_of_full (full : (s.groupPromised vb g.size).me.full vb g.size = true) : exec (.vpull d a vb g) s =
    finish s (.ok ((((s.groupPromised vb g.size).pull s.cur.sid vb g.size).pullPend s.cur.sid (s.groupPromised vb g.size).seqNo vb g.size
      ((s.groupPromised vb g.size).turn + 32)).landG d 0 2)) := by
  change finish s (word s _ _) = _
  rw [word_ready ready, freeOnly_of_free free]
  exact congrArg (finish s) (if_pos full)

theorem vpull_of_short (short : (s.groupPromised vb g.size).me.full vb g.size = false) :
    let u := if d = 0 then s.groupPromised vb g.size else (s.groupPromised vb g.size).promise (.g d) false
    exec (.vpull d a vb g) s = finish s (.ok ((u.modMe (·.parking (.vpull vb g.size (s.turn + bits (s.rg a) 0 32) d u.turn))).owe
      (some (u.clockOf s.cur.sid)) (s.turn + bits (s.rg a) 0 32) prioWake (.vpullWake s.cur.sid))) := by
  change finish s (word s _ _) = _
  rw [word_ready ready, freeOnly_of_free free]
  exact congrArg (finish s) (if_neg (Bool.eq_false_iff.mp short))

end
end
end

theorem vpullCompletes : VpullCompletes := by
  intro s d a vb g canon free ready
  have promises : Answers s (s.groupPromised vb g.size) _ := groupPromise_answers (groupRegs vb g.size) canon.rstrands
  have same : (s.groupPromised vb g.size).me.full vb g.size = s.me.full vb g.size := by rw [promises.me]; rfl
  have seq := promises.seqNo rfl
  have turn := promises.turn rfl
  refine ⟨fun full => ?_, fun short => ?_⟩
  · have run := vpull_of_full free ready (same.trans full)
    rw [seq, turn] at run
    generalize s.groupPromised vb g.size = r at *
    have cur : r.cur = s.cur := promises.cur
    have here : r.strand s.cur.sid = s.me.owing (s.groupPromises (groupRegs vb g.size)) := cur ▸ promises.me
    have pulled := pull_pulled promises.rising s.cur.sid s.seqNo (s.turn + 32) vb g.size
    generalize (r.pull s.cur.sid vb g.size).pullPend _ _ _ _ _ = t at *
    have cur' : t.cur = s.cur := (congrArg State.cur pulled.beyond :).trans cur
    have me : t.me = t.strand s.cur.sid := by rw [State.me, cur']
    obtain ⟨v, gs, slot, launch, seq'⟩ : t.me.v = s.me.v ∧ t.me.g = s.me.g ∧ t.me.slot = s.me.slot ∧ t.me.launch = s.me.launch ∧
        t.me.seq = s.me.seq := by
      have lasting := pulled.lasting
      rw [here, ← me] at lasting
      simpa only [Strand.lasting, Strand.owing, Prod.mk.injEq] using lasting
    have turn' : t.turn = s.turn := by
      have lcy := pulled.lcy (by rw [← me, launch, here]; rfl)
      rw [State.turn, cur', lcy, ← turn, State.turn, cur]
    have lands := landG_answers (s := t) (pulled.rising promises.rising) d 0 2
    have pend : (t.landG d 0 2).me.pend = t.me.pend ++ t.gResult d 0 2 := congrArg Strand.pend lands.me
    refine ⟨_, run, rfl, (lands.read State.mem).trans (pulled.mem.trans (promises.read State.mem)),
      (lands.read State.spad).trans (pulled.spad.trans (promises.read State.spad)), fun k other => ?_,
      (congrArg Strand.v lands.me).trans v, (congrArg Strand.g lands.me).trans gs, (congrArg Strand.slot lands.me).trans slot,
      fun i small => ?_, fun r mem => ?_, fun some_ => ?_⟩
    · exact (lands.others k (cur' ▸ other)).trans ((pulled.others promises.rising k other).trans (promises.others k other))
    · have fe := pulled.fe
      rw [here, ← me] at fe
      exact (congrArg (·.fe.getLsbD i) lands.me).trans ((congrArg (·.getLsbD i) fe).trans (getLsbD_clearGroup s.me.fe vb g.size small))
    · obtain ⟨i, lt, rfl⟩ := List.mem_map.mp mem
      have owed : ⟨s.seqNo, s.turn, .v (Fin.ofNat 32 (vb.val + i)), none, BitVec.allOnes 65536, none, false⟩ ∈
          (r.strand s.cur.sid).pend := by
        rw [here]
        exact List.mem_append_right _ (List.mem_map_of_mem mem)
      have known := pulled.known _ i (List.mem_range.mp lt) owed rfl rfl rfl
      rw [← me] at known
      exact pend ▸ List.mem_append_left _ known
    · have zero : (0 : Word).setWidth 65536 = 0 := BitVec.setWidth_zero ..
      refine pend ▸ List.mem_append_right _ ?_
      rw [State.gResult, if_neg some_, State.seqNo, seq', turn', zero]
      exact List.mem_singleton_self _
  · have run := vpull_of_short (d := d) free ready (same.trans short)
    dsimp only at run
    have owes := promises.trans (promise_answers promises.rising d)
    generalize (if d = 0 then s.groupPromised vb g.size else (s.groupPromised vb g.size).promise (.g d) false) = u at run owes
    rw [promises.me, Strand.owing_owing] at owes
    rw [owes.turn rfl, bits_zero] at run
    have parks := owes.trans (modMe_answers owes.rising
      (·.parking (.vpull vb g.size (s.turn + (s.rg a).toNat % 2 ^ 32) d s.turn)))
    rw [owes.me] at parks
    generalize u.modMe (·.parking _) = v at run parks
    refine ⟨_, run, rfl, parks.quiet.1, parks.quiet.2.1, parks.quiet.2.2, parks.me.trans ?_⟩
    rw [State.gPromise, seq, turn, Strand.owing, ← List.append_assoc]
    rfl


/-! ## Packets that leave (R257, R260) -/

theorem look_bind_other {κ α : Type} [DecidableEq κ] {j k : κ} (other : j ≠ k) (v : α) :
    (l : List (κ × α)) → look k (bind j v l) = look k l
  | [] => if_neg other
  | (i, w) :: l => by
    rw [bind]
    split
    next same => rw [look, look, if_neg other, if_neg (same ▸ other)]
    next => rw [look, look, look_bind_other other v l]

theorem find_of_look {κ α : Type} [DecidableEq κ] {k : κ} {v : α} :
    {l : List (κ × α)} → look k l = some v → l.find? (fun e => e.1 == k) = some (k, v)
  | (j, w) :: l, found => by
    rw [look] at found
    split at found
    next same => rw [List.find?_cons_of_pos (by simpa using same), same, Option.some.inj found]
    next other => rw [List.find?_cons_of_neg (by simpa using other), find_of_look found]

/-- From s to t packets under fresh numbers enter, and events are owed; beside that only cores change. -/
structure Posts (s t : State) : Prop where
  strands : t.strands = s.strands
  mem : t.mem = s.mem
  spad : t.spad = s.spad
  ops : t.ops = s.ops
  cur : t.cur = s.cur
  accesses : t.accesses = s.accesses
  later : s.nextId ≤ t.nextId
  agenda : s.agenda ⊆ t.agenda
  kept : ∀ k, k < s.nextId → look k t.packets = look k s.packets

namespace Posts

theorem refl (s : State) : Posts s s := ⟨rfl, rfl, rfl, rfl, rfl, rfl, le_rfl, fun _ => id, fun _ _ => rfl⟩

theorem trans {s t u : State} (h : Posts s t) (h' : Posts t u) : Posts s u :=
  ⟨h'.strands.trans h.strands, h'.mem.trans h.mem, h'.spad.trans h.spad, h'.ops.trans h.ops, h'.cur.trans h.cur,
    h'.accesses.trans h.accesses, h.later.trans h'.later, fun _ mem => h'.agenda (h.agenda mem),
    fun k old => (h'.kept k (old.trans_le h.later)).trans (h.kept k old)⟩

theorem foldl {β : Type} {f : State → β → State} (h : ∀ s b, Posts s (f s b)) : (l : List β) → (s : State) → Posts s (l.foldl f s)
  | [], s => refl s
  | b :: l, s => (h s b).trans (foldl h l (f s b))

theorem owe (s : State) (clock : Option Nat) (time prio : Nat) (e : Event) : Posts s (s.owe clock time prio e) :=
  ⟨rfl, rfl, rfl, rfl, rfl, rfl, le_rfl, List.subset_append_left .., fun _ _ => rfl⟩

theorem fresh (s : State) (p : Packet) : Posts s (s.fresh.2.setPacket s.nextId p) :=
  ⟨rfl, rfl, rfl, rfl, rfl, rfl, Nat.le_succ _, fun _ => id, fun _ old => look_bind_other (Nat.ne_of_gt old) p _⟩

theorem perf (s : State) (sid code n : Nat) : Posts s (s.perf sid code n) :=
  ⟨rfl, rfl, rfl, rfl, rfl, rfl, le_rfl, fun _ => id, fun _ _ => rfl⟩

end Posts

/-- The packets of a message's further flits (R260). -/
def State.sendFlits (s : State) (clock : Option Nat) (id : Nat) (p : Packet) (n : Nat) : State :=
  (List.range n).foldl (fun s i =>
    (s.fresh.2.setPacket s.nextId { p with lead := some id }).owe clock (s.fresh.2.turn + 17 + i) prioSwitch (.switchCheck s.nextId)) s

theorem sendFlits_posts (s : State) (clock : Option Nat) (id : Nat) (p : Packet) (n : Nat) : Posts s (s.sendFlits clock id p n) :=
  Posts.foldl (fun s _ => (Posts.fresh s _).trans (.owe ..)) _ s

/-- The acknowledgement of a message whose way is known. -/
def State.sendAck (s : State) (sid : Nat) (clock : Option Nat) (t : Ticket) (op f : Nat) : State :=
  let r := s.routeOf (coreOf sid) t
  if r.away.isNone then s
  else if r.known then s.owe clock (s.turn + 16 + r.lat + f - 1) prioArrive (.fabricAcknowledgement op false)
  else s

theorem sendAck_posts (s : State) (sid : Nat) (clock : Option Nat) (t : Ticket) (op f : Nat) : Posts s (s.sendAck sid clock t op f) := by
  unfold State.sendAck
  dsimp only
  split
  · exact .refl s
  · split
    · exact .owe ..
    · exact .refl s

/-- The packet of a message of a strand's operation. -/
def State.message (s : State) (op : Nat) (tk : TkReg) (t : Ticket) (slot spill len : Nat) : Packet :=
  { s.newPacket s.cur.sid tk t (.timed slot spill len) with timed := true, op := op }

/-- A message's packet leaves under the next number, and its further flits behind it. -/
def State.sendMessage (s : State) (p : Packet) (f : Nat) : State :=
  (((s.fresh.2.setPacket s.nextId p).perf s.cur.sid 11 1).owe (some (s.clockOf s.cur.sid)) (s.turn + 16) prioSwitch
    (.switchCheck s.nextId)).sendFlits (some (s.clockOf s.cur.sid)) s.nextId p (f - 1)

theorem sendMessage_posts (s : State) (p : Packet) (f : Nat) : Posts s (s.sendMessage p f) :=
  (((Posts.fresh s p).trans (.perf ..)).trans (.owe ..)).trans
    (sendFlits_posts ..)

theorem sendMessage_enters (s : State) (p : Packet) (f : Nat) : s.nextId < (s.sendMessage p f).nextId ∧
    look s.nextId (s.sendMessage p f).packets = some p ∧
    (⟨some (s.clockOf s.cur.sid), s.turn + 16, prioSwitch⟩, Event.switchCheck s.nextId) ∈ (s.sendMessage p f).agenda := by
  have flits := sendFlits_posts (((s.fresh.2.setPacket s.nextId p).perf s.cur.sid 11 1).owe (some (s.clockOf s.cur.sid)) (s.turn + 16)
    prioSwitch (.switchCheck s.nextId)) (some (s.clockOf s.cur.sid)) s.nextId p (f - 1)
  exact ⟨flits.later, (flits.kept s.nextId (Nat.lt_succ_self _)).trans (look_bind_same ..), flits.agenda (mem_agenda_owe ..)⟩

/-- The reading of a message's flits from the scratchpad, one a cycle. -/
def State.flitReads (s : State) (sid op off f : Nat) : Access :=
  { blankAccess s sid with
    kind := .flit op, path := .fabric, place := .spad (coreOf sid), plan := f, rank := rankScalar
    cycles := (List.range f).map fun i => [⟨i, spadKey (coreOf sid) (off + 64 * i), 0, 0, 0, 0, false, none⟩] }

/-- A strand's message of f flits leaves for an operation that is open: its acknowledgement and its bound are owed, and the reading of its
flits starts. -/
def State.sendTimed (s : State) (sid op : Nat) (tk : TkReg) (t : Ticket) (p : Packet) (off f : Nat) : State :=
  let v := s.sendMessage p f
  let w := v.sendAck sid (some (s.clockOf sid)) t op f
  (w.owe (some (s.clockOf sid)) (w.turn + fabricBound (w.newOp sid 0 0 tk t none)) prioArrive (.fabricTimeout op)).startAccess
    (v.flitReads sid op off f) 0 0

theorem sendTimed_leaves (s : State) (sid op : Nat) (tk : TkReg) (t : Ticket) (p : Packet) (off f : Nat) :
    let u := s.sendTimed sid op tk t p off f
    ∃ k x, u.packets.find? (fun e => e.1 == s.nextId) = some (s.nextId, p) ∧
      (⟨some (s.clockOf s.cur.sid), s.turn + 16, prioSwitch⟩, Event.switchCheck s.nextId) ∈ u.agenda ∧
      u.accesses = bind k x s.accesses ∧ x.sid = sid ∧
      x.cycles = ((List.range f).map fun i => [⟨i, spadKey (coreOf sid) (off + 64 * i), 0, 0, 0, 0, false, none⟩]) ∧
      u.ops = s.ops ∧ u.mem = s.mem ∧ u.spad = s.spad ∧ u.strands = s.strands := by
  intro u
  have enters := sendMessage_enters s p f
  have posts := sendMessage_posts s p f
  let v := s.sendMessage p f
  let w := v.sendAck sid (some (s.clockOf sid)) t op f
  have acks : Posts v (w.owe (some (s.clockOf sid)) (w.turn + fabricBound (w.newOp sid 0 0 tk t none)) prioArrive (.fabricTimeout op)) :=
    (sendAck_posts v sid (some (s.clockOf sid)) t op f).trans (.owe ..)
  have starts : StartedFrom _ _ u := startAccess_startedFrom
    (w.owe (some (s.clockOf sid)) (w.turn + fabricBound (w.newOp sid 0 0 tk t none)) prioArrive (.fabricTimeout op))
    (v.flitReads sid op off f) 0 0
  obtain ⟨left, bound, accesses⟩ := starts.accesses
  have whole := posts.trans acks
  have entered : look s.nextId u.packets = some p :=
    (congrArg (look s.nextId) (starts.read State.packets)).trans ((acks.kept s.nextId enters.1).trans enters.2.1)
  exact ⟨_, { v.flitReads sid op off f with left := left, bound := bound }, find_of_look entered,
    starts.agenda (acks.agenda enters.2.2), accesses.trans (congrArg (bind _ _) whole.accesses), rfl, rfl,
    (starts.read State.ops).trans whole.ops, (starts.read State.mem).trans whole.mem, (starts.read State.spad).trans whole.spad,
    starts.strands.trans whole.strands⟩

section
variable {s : State} {tk : TkReg} {a b : GReg}

/-- SEND opens its operation and sends its message. -/
theorem send_runs (scored : s.scored s.cur.sid = true) (ready : s.Ready { src := [.tk tk, .g a, .g b], outward := true }) :
    let t := s.me.rtk tk
    let off := (s.rg a).toNat
    let slot := bits (s.rg b) 0 6
    let len := bits (s.rg b) 6 12 + 1
    let spill := bits (s.rg b) 18 13
    let f := ceilDiv len 64
    off % 64 = 0 → off + 64 * f ≤ 524288 →
    s.tkFails t { kinds := [2], right := rightSend, lo := 64 * spill, hi := 64 * spill + (len - 64), at_ := 64 * spill, slot := some slot } = none →
    let u := (s.openOp (s.newOp s.cur.sid s.seqNo s.cur.addr tk t none)).2
    exec (.send tk a b) s = finish s (.ok (u.sendTimed s.cur.sid s.nextId tk t (u.message s.nextId tk t slot spill len) off f)) := by
  intro t off slot len spill f aligned inside passed u
  change finish s (word s _ _) = _
  rw [word_ready ready, scoredOnly_of_scored scored]
  dsimp only
  rw [if_neg (not_not.mpr aligned), ticketed_of_passed passed, localBytes_of_le inside]
  rfl

end

theorem sendCompletes : SendCompletes := by
  intro s tk a b canon scored ready t c off ctl slot len spill f aligned inside passed
  have low : bits (s.rg b) 0 6 = slot := bits_zero ..
  have run := send_runs scored ready aligned
  rw [low] at run
  let o := s.newOp s.cur.sid s.seqNo s.cur.addr tk t none
  let u := (s.openOp o).2
  let p := u.message s.nextId tk t slot spill len
  obtain ⟨k, x, entered, owed, accesses, sid, cycles, ops, mem, spad, strands⟩ := sendTimed_leaves u s.cur.sid s.nextId tk t p off f
  exact ⟨_, u.nextId, p, k, x, run inside passed, rfl, entered, rfl, rfl, rfl, owed, accesses, sid, cycles,
    (congrArg List.length ops).trans (List.length_append ..), mem, spad, strands⟩

/-! ## STRIPE (R264) -/

theorem inFlight_openOp (s : State) (o : FabOp) : (s.openOp o).2.inFlight o.sid = s.inFlight o.sid + if o.left = 0 then 0 else 1 := by
  change ((s.ops ++ [(s.nextId, o)]).filter _).length = _
  rw [List.filter_append, List.length_append, State.inFlight]
  by_cases ended : o.left = 0 <;> simp [ended]

theorem chunksLeft_openOp (s : State) (o : FabOp) : (s.openOp o).2.chunksLeft o.sid = (s.chunksLeft o.sid || o.chunk.isSome) := by
  change (s.ops ++ [(s.nextId, o)]).any _ = _
  simp [State.chunksLeft]

/-- A chunk leaves through its operation where a place is free, and waits for one else (R257, log 81). -/
def State.chunkOut (s : State) (o : FabOp) (p : Packet) (j : Nat) : State :=
  if s.inFlight o.sid < 32 then (s.openOp o).2.sendOpen s.nextId o p (16 + j)
  else (s.openOp { o with left := 0, chunk := some p }).2

/-- What the first m chunks of a STRIPE leave: with n operations of its strand open before, no more than 32 leave at once. -/
structure Striped (s : State) (sid : Nat) (p : Nat → Packet) (m : Nat) (u : State) : Prop where
  ops : u.ops.length = s.ops.length + m
  inFlight : u.inFlight sid = s.inFlight sid + min 32 m
  chunksLeft : u.chunksLeft sid = decide (32 < m)
  sent : ∀ j, j < m → j < 32 → ∃ k op, k < u.nextId ∧ look k u.packets = some { p j with op := op }
  mem : u.mem = s.mem
  spad : u.spad = s.spad
  strands : u.strands = s.strands
  cur : u.cur = s.cur

theorem chunkOut_striped {s u : State} {o : FabOp} {p : Nat → Packet} {m : Nat} (h : Striped s o.sid p m u) (open_ : o.left = 1)
    (whole : o.chunk = none) (room : s.inFlight o.sid + min 32 (m + 1) ≤ 32) :
    Striped s o.sid p (m + 1) (u.chunkOut o (p m) m) := by
  have flying := h.inFlight
  have kept {v : State} (ops : v.ops.length = u.ops.length + 1) : v.ops.length = s.ops.length + (m + 1) := by
    rw [ops, h.ops, Nat.add_assoc]
  unfold State.chunkOut
  split
  next free =>
    have few : m < 32 := by omega
    have sent := sendOpen_sentFrom (u.openOp o).2 u.nextId o (p m) (16 + m)
    have ops := sent.ops
    have later : ((u.openOp o).2.sendOpen u.nextId o (p m) (16 + m)).nextId = u.nextId + 2 := rfl
    generalize (u.openOp o).2.sendOpen u.nextId o (p m) (16 + m) = v at sent ops later
    have inFlight : v.inFlight o.sid = (u.openOp o).2.inFlight o.sid := by rw [State.inFlight, ops, State.inFlight]
    have chunks : v.chunksLeft o.sid = (u.openOp o).2.chunksLeft o.sid := by rw [State.chunksLeft, ops, State.chunksLeft]
    refine ⟨kept ((congrArg List.length ops).trans (List.length_append ..)), ?_, ?_, fun j lt small => ?_, sent.mem.trans h.mem,
      sent.spad.trans h.spad, sent.strands.trans h.strands, sent.cur.trans h.cur⟩
    · rw [inFlight, inFlight_openOp, flying, open_, if_neg Nat.one_ne_zero]
      omega
    · rw [chunks, chunksLeft_openOp, h.chunksLeft, whole, decide_eq_false (by omega), decide_eq_false (by omega)]
      rfl
    · obtain old | rfl := Nat.lt_succ_iff_lt_or_eq.mp lt
      · obtain ⟨k, op, known, found⟩ := h.sent j old small
        refine ⟨k, op, by omega, ?_⟩
        rw [sent.packets]
        exact (look_bind_other (Nat.ne_of_gt (Nat.lt_succ_of_lt known)) _ _).trans found
      · refine ⟨u.nextId + 1, u.nextId, by omega, ?_⟩
        rw [sent.packets]
        exact look_bind_same ..
  next full =>
    have many : 32 ≤ m := by omega
    have inFlight := inFlight_openOp u { o with left := 0, chunk := some (p m) }
    have chunks := chunksLeft_openOp u { o with left := 0, chunk := some (p m) }
    refine ⟨kept (List.length_append ..), inFlight.trans ?_, chunks.trans ?_, fun j lt small => ?_, h.mem, h.spad, h.strands, h.cur⟩
    · rw [if_pos rfl, flying]
      omega
    · rw [decide_eq_true (by omega)]
      exact Bool.or_true _
    · obtain ⟨k, op, known, found⟩ := h.sent j (by omega) small
      exact ⟨k, op, Nat.lt_succ_of_lt known, found⟩

theorem chunks_striped {s : State} {sid : Nat} {o : Nat → FabOp} {p : Nat → Packet} (own : ∀ j, (o j).sid = sid)
    (open_ : ∀ j, (o j).left = 1) (whole : ∀ j, (o j).chunk = none) (none_ : s.chunksLeft sid = false) :
    (m : Nat) → s.inFlight sid + min 32 m ≤ 32 →
      Striped s sid p m ((List.range m).foldl (fun s j => s.chunkOut (o j) (p j) j) s)
  | 0, _ => ⟨rfl, rfl, none_, fun j lt => absurd lt (Nat.not_lt_zero j), rfl, rfl, rfl, rfl⟩
  | m + 1, room => by
    have before := chunks_striped (p := p) own open_ whole none_ m (by
      have le : min 32 m ≤ min 32 (m + 1) := min_le_min_left 32 (Nat.le_succ m)
      omega)
    rw [List.range_succ, List.foldl_append]
    rw [← own m] at before room ⊢
    exact chunkOut_striped before (open_ m) (whole m) room

/-- The ticket of chunk j of a STRIPE through n tickets. -/
def State.chunkTicket (s : State) (tk : TkReg) (n j : Nat) : Ticket := s.me.rtk (Fin.ofNat 16 (tk.val + j % n))

/-- The operation of chunk j. -/
def State.chunkOp (s : State) (tk : TkReg) (n j : Nat) : FabOp :=
  s.newOp s.cur.sid s.seqNo s.cur.addr (tk.val + j % n) (s.chunkTicket tk n j) none

/-- The packet of chunk j, of 64 bytes from the offset off of the strand's scratchpad to dst. -/
def State.chunkPacket (s : State) (tk : TkReg) (n dst off j : Nat) : Packet :=
  s.newPacket s.cur.sid (tk.val + j % n) (s.chunkTicket tk n j) (.write (dst + 64 * j) (s.spadRead (coreOf s.cur.sid) (off + 64 * j) 64))

/-- The strand waits while chunks of its STRIPE wait for places. -/
def State.awaitChunks (s : State) (sid : Nat) : State := if s.chunksLeft sid then s.modMe fun x => { x with wait := some .chunks } else s

section
variable {s : State} {tk : TkReg} {d a b : GReg} {n : Fin 4} (free : s.scored s.cur.sid = false)
  (ready : s.Ready { src := ((List.range (n.val + 1)).map fun i => (Fin.ofNat 16 (tk.val + i) : TkReg)).map .tk ++ [.g d, .g a, .g b],
                     outward := true })
include free ready

theorem stripe_runs :
    let off := (s.rg a).toNat
    let len := (s.rg b).toNat % 2 ^ 32
    let dst := (s.rg d).toNat
    len % 64 = 0 → 64 ≤ len → off + len ≤ 524288 →
    stripeFails s tk (n.val + 1) { kinds := [1, 4], right := rightWrite, lo := dst, hi := dst + len, at_ := dst } = none →
    s.inFlight s.cur.sid + min 32 (len / 64) ≤ 32 →
    (∀ i, i ≤ n.val → s.foreign s.cur.sid (s.me.rtk (Fin.ofNat 16 (tk.val + i))) = true →
      s.checksPending (s.strandVd s.cur.sid) = false ∧ (s.key (s.strandVd s.cur.sid)).inthold = false) →
    exec (.stripe tk d a b n) s = finish s (.ok (((List.range (len / 64)).foldl (fun u j =>
      u.chunkOut (s.chunkOp tk (n.val + 1) j) (s.chunkPacket tk (n.val + 1) dst off j) j) s).awaitChunks s.cur.sid)) := by
  intro off len dst whole some_ inside passed room sound
  have goes : ((List.range (n.val + 1)).any fun i => s.foreign s.cur.sid (s.me.rtk (Fin.ofNat 16 (tk.val + i)))) = true →
      s.checksPending (s.strandVd s.cur.sid) = false := by
    rw [List.any_eq_true]
    rintro ⟨i, mem, foreign⟩
    exact (sound i (Nat.lt_succ_iff.mp (List.mem_range.mp mem)) foreign).1
  change finish s (word s _ _) = _
  rw [word_ready ready, freeOnly_of_free free]
  dsimp only
  rw [bits_zero, if_neg (by omega), passed]
  dsimp only
  rw [localBytes_of_le inside, if_neg (Nat.not_lt.mpr room), if_neg fun both => ?held]
  case held =>
    obtain ⟨foreign, pending⟩ := Bool.and_eq_true_iff.mp both
    exact absurd pending (Bool.eq_false_iff.mp (goes foreign))
  refine congrArg (fun f => finish s (.ok (State.awaitChunks (List.foldl f s (List.range (len / 64))) s.cur.sid))) ?_
  funext u j
  refine if_neg fun both => ?_
  obtain ⟨foreign, hold⟩ := Bool.and_eq_true_iff.mp both
  exact absurd hold (Bool.eq_false_iff.mp (sound _ (Nat.lt_succ_iff.mp (Nat.mod_lt j n.val.succ_pos)) foreign).2)

end

theorem stripeCompletes : StripeCompletes := by
  intro s tk d a b n canon free ready off len dst tkt whole some_ inside passed room none_ sound
  have run := stripe_runs free ready whole some_ inside passed room sound
  have striped := chunks_striped (o := s.chunkOp tk (n.val + 1)) (p := s.chunkPacket tk (n.val + 1) dst off) (fun _ => rfl)
    (fun _ => rfl) (fun _ => rfl) none_ (len / 64) room
  change exec _ s = finish s (.ok (State.awaitChunks (List.foldl (fun u j => u.chunkOut (s.chunkOp tk (n.val + 1) j)
    (s.chunkPacket tk (n.val + 1) dst off j) j) s (List.range (len / 64))) s.cur.sid)) at run
  generalize List.foldl _ s (List.range (len / 64)) = u at run striped
  have strand (k : Nat) : u.strand k = s.strand k := by rw [State.strand, striped.strands, State.strand]
  have me : u.me = s.me := by rw [State.me, striped.cur, strand, State.me]
  have sent (j : Nat) (lt : j < len / 64) (small : j < 32) : ∃ e ∈ u.packets, e.2.ticket = tkt (j % (n.val + 1)) ∧
      e.2.req = .write (dst + 64 * j) (s.spadRead (coreOf s.cur.sid) (off + 64 * j) 64) := by
    obtain ⟨k, op, -, found⟩ := striped.sent j lt small
    exact ⟨_, List.mem_of_find?_eq_some (find_of_look found), rfl, rfl⟩
  rw [State.awaitChunks, striped.chunksLeft] at run
  by_cases long : 32 < len / 64
  · rw [if_pos (decide_eq_true long)] at run
    have waits := modMe_becomes (s := u) (striped.strands ▸ canon.rstrands) (·.awaiting .chunks)
    refine ⟨_, run, rfl, striped.ops, sent, striped.mem, striped.spad,
      fun k other => (waits.others k (striped.cur ▸ other)).trans (strand k), waits.me.trans ?_⟩
    rw [if_pos long, me]
    rfl
  · rw [if_neg fun more => long (of_decide_eq_true more)] at run
    refine ⟨_, run, rfl, striped.ops, sent, striped.mem, striped.spad, fun k _ => strand k, me.trans (if_neg long).symm⟩

/-- Settles O37, word by word. -/
theorem sendsAndQueues : Obligations.SendsAndQueues :=
  ⟨sendCompletes, recvCompletes, timedWordsTrap, erecvCompletes, stripeCompletes, vpushCompletes, vpullCompletes⟩

end Sys2Proof.Machine
end
